-- ==== Sys2Proof/Word.lean ====
section
/-!
DEFINITION. Word.lean: the word types of the device, plain arithmetic on them, and the one sparse store that every
register file, memory and indexed table of the model is held in.
-/
namespace Sys2Proof

/-- A byte. -/
abbrev Byte := BitVec 8
/-- A 32-bit register word (R4 to R7: registers are 32 bits wide and little-endian). -/
abbrev Word := BitVec 32
/-- A 64-bit word (DRAM lane data, servo records). -/
abbrev Word64 := BitVec 64

namespace Arith

/-- `a + d`, stopping at `top` (a saturating count). -/
def satAdd (top a d : Nat) : Nat := min top (a + d)

/-- The nearer limit of `lo..hi` (R7 clamps). -/
def clamp (lo hi v : Nat) : Nat := max lo (min hi v)

/-- Bit `i` of `v`. -/
def bit (v i : Nat) : Bool := v.testBit i

/-- `v` with bit `i` set. -/
def setBit (v i : Nat) : Nat := if v.testBit i then v else v + 2 ^ i

/-- `v` with bit `i` clear. -/
def clearBit (v i : Nat) : Nat := if v.testBit i then v - 2 ^ i else v

/-- `v` with bit `i` equal to `b`. -/
def putBit (v i : Nat) (b : Bool) : Nat := if b then setBit v i else clearBit v i

/-- 1 for true and 0 for false. -/
def ofBool (b : Bool) : Nat := if b then 1 else 0

/-- Bits `lo + w - 1 .. lo` of `v`. -/
def field (v lo w : Nat) : Nat := v / 2 ^ lo % 2 ^ w

/-- `v` with bits `lo + w - 1 .. lo` replaced by the low `w` bits of `x`. -/
def putField (v lo w x : Nat) : Nat :=
  v % 2 ^ lo + x % 2 ^ w * 2 ^ lo + v / 2 ^ (lo + w) * 2 ^ (lo + w)

/-- The two's-complement reading of the low `w` bits of `v`. -/
def signed (w v : Nat) : Int :=
  let u := v % 2 ^ w
  if u < 2 ^ (w - 1) then (u : Int) else (u : Int) - (2 ^ w : Nat)

/-- The `w`-bit two's-complement word of `i` (wrapping). -/
def unsigned (w : Nat) (i : Int) : Nat := (i % ((2 ^ w : Nat) : Int)).toNat

/-- `i` limited to `lo..hi`. -/
def iclamp (lo hi i : Int) : Int := max lo (min hi i)

/-- `i` saturated to a signed field of `w` bits, as the field's bits. -/
def satSigned (w : Nat) (i : Int) : Nat :=
  unsigned w (iclamp (-(2 ^ (w - 1) : Nat)) ((2 ^ (w - 1) : Nat) - 1) i)

/-- `a / b` rounded up. -/
def ceilDiv (a b : Nat) : Nat := (a + b - 1) / b

/-- The positions of `0..n-1` counted upward from `t`, wrapping (R16). -/
def turnOrder (n t : Nat) : List Nat := (List.range n).map fun i => (t + i) % n

end Arith

/-- A sparse table: pairs of an index and a value, at rising indexes, listing only what differs from the table's
default. -/
abbrev Store (β : Type) := List (Nat × β)

namespace Store

variable {β : Type}

/-- The value at `k`; an unlisted index reads as the default `d`. -/
def get (d : β) : Store β → Nat → β
  | [], _ => d
  | (j, v) :: m, k => if j = k then v else get d m k

/-- Every entry but those at `k`. -/
def erase (m : Store β) (k : Nat) : Store β := m.filter fun e => e.1 != k

/-- The entry `(k, v)` put in at its place by index. -/
def insert (m : Store β) (k : Nat) (v : β) : Store β :=
  match m with
  | [] => [(k, v)]
  | (j, w) :: m' => if k < j then (k, v) :: (j, w) :: m' else (j, w) :: insert m' k v

/-- `m` with `v` at `k`: nothing is listed where `v` is the default `d`. -/
def put [DecidableEq β] (d : β) (m : Store β) (k : Nat) (v : β) : Store β :=
  if v = d then erase m k else insert (erase m k) k v

/-- `m` with the value at `k` changed by `f`. -/
def modify [DecidableEq β] (d : β) (m : Store β) (k : Nat) (f : β → β) : Store β :=
  put d m k (f (get d m k))

/-- The indexes of the listed entries rise strictly. -/
def rising : Store β → Bool
  | [] => true
  | (j, _) :: m => m.all (fun e => decide (j < e.1)) && rising m

/-- The canonical form: strictly rising, and nothing listed that equals the default. -/
def wf [DecidableEq β] (d : β) (m : Store β) : Bool := rising m && m.all fun e => decide (e.2 ≠ d)

/-- Several values written one after the other. -/
def putAll [DecidableEq β] (d : β) (m : Store β) (l : List (Nat × β)) : Store β :=
  l.foldl (fun m e => put d m e.1 e.2) m

end Store

end Sys2Proof
end

