-- ==== Sys2Proof/Syntax.lean ====
section
/-!
DEFINITION. Syntax.lean: the commands of the block, one constructor per row of the opcode table, with their operands.
-/
namespace Sys2Proof

/-- The PLLs of R97 and R98. -/
inductive Pll where
  | cclk | aclk | sclk | dclk | sasclk
  deriving DecidableEq, Repr

/-- The steps of a fault reaction that open a shadow (R583). -/
inductive ShadowStep where
  | w | a | r | t
  deriving DecidableEq, Repr

/-- What requests a device reset (R117). -/
inductive ResetRequest where
  | fcu | software | jtag
  deriving DecidableEq, Repr

/-- A preamplifier rail of an actuator (R72). -/
inductive Rail where
  | pa5v | pam3v | passt
  deriving DecidableEq, Repr

/-- What wakes the device from Sleep (R101). -/
inductive WakeCause where
  | l12Exit (port : Fin 4)
  | perst
  | sas
  | i3c
  | retractReq
  deriving DecidableEq, Repr

/-- A command as a host sends it: an NVMe submission queue entry or a SAS COMMAND frame with its CDB. `action` is the SCSI
service action; `queue` the SQID or the I_T nexus; `ns` the NSID, or the logical unit + 1; `blocks` the length; `ranges` the
DSM ranges or UNMAP descriptors; `attr` the SAS task attribute (0 SIMPLE, 1 HEAD OF QUEUE, 2 ORDERED, 4 ACA); `all` Select
All or ALL; `limited` LR or RARC; `dealloc` DEAC or UNMAP; `cdw10` to `cdw15` the NVMe Dwords, or the CDB's other fields in the order the
command's meaning names them. -/
structure HostReq where
  opcode : Nat := 0
  action : Nat := 0
  cid : Nat := 0
  queue : Nat := 0
  ns : Nat := 0
  lba : Nat := 0
  blocks : Nat := 0
  ranges : List (Nat × Nat) := []
  fused : Nat := 0
  attr : Nat := 0
  naca : Bool := false
  dtype : Nat := 0
  dspec : Nat := 0
  all : Bool := false
  limited : Bool := false
  dealloc : Bool := false
  cdw10 : Nat := 0
  cdw11 : Nat := 0
  cdw12 : Nat := 0
  cdw13 : Nat := 0
  cdw14 : Nat := 0
  cdw15 : Nat := 0
  deriving DecidableEq, Repr

/-- What resets a PCIe port (R159). -/
inductive PortResetCause where
  | hotReset | linkDown | flr | ccEnFalling
  deriving DecidableEq, Repr

/-- A 4 KiB block. -/
abbrev Block := BitVec 32768


/-- The half of an operation descriptor that belongs to one head slot (R373). -/
structure OpSlot where
  head : Nat := 0
  zone : Nat := 0
  track : Nat := 0
  start : Nat := 0
  count : Nat := 0
  dataAddr : Nat := 0
  deriving DecidableEq, Repr

/-- An operation descriptor (R373). -/
structure OpDesc where
  opType : Nat
  slotMask : Nat
  rcvMode : Nat := 0
  opId : Nat := 0
  slot0 : OpSlot := {}
  slot1 : OpSlot := {}
  deriving DecidableEq, Repr

/-- A head slot's sector start (R292): its stream, the sector on the track, and what the channel finds there: whether the
sector's input is incomplete (R307), whether the gate was asserted less than 64 symbols before (R309), the adapted FIR
taps (R298), and the gains the AGC set in its preamble (R297). -/
structure SlotStart where
  stream : Fin 8
  sector : BitVec 12
  underrun : Bool := false
  lateGate : Bool := false
  taps : List (Fin 32 × BitVec 10) := []
  gains : Option (BitVec 8 × BitVec 8) := none
  deriving DecidableEq, Repr

/-- A defect span as the detectors report it (R316): its first position relative to the predicted codeword start, its
length, and the readers it covers. -/
structure Span where
  start : Int
  len : Nat
  a : Bool
  b : Bool
  deriving DecidableEq, Repr

/-- What a bead's decode gives where it converges (R338): the codeword last written to the sector, another codeword whose
CRC-32C passes, with its metadata and user data, or one whose CRC-32C fails. -/
inductive Codeword where
  | written
  | other (metadata : BitVec 128) (user : Block)
  | badCrc
  deriving DecidableEq, Repr

/-- One fetch of a wedge sequencer (R379): the word where its address lies in the ROM, whether the word read has bad parity,
and what WCOND sees. -/
structure WsqFetch where
  rom : BitVec 114 := 0
  upset : Bool := false
  symbols : BitVec 32 := 0
  sam : Bool := false
  index : Bool := false
  writing : Bool := false
  deriving DecidableEq, Repr

/-- What an FSQ word sees in its cycle (R371, R374): the word where its address lies in the ROM, whether the word read has
bad parity, the wedge strobes (bits 0, 1) and sector starts (bits 2, 3) of slots 0 and 1 in the cycle, and whether the
preamplifier frame that runs was requested in this same cycle (R385). -/
structure FsqFetch where
  rom : BitVec 162 := 0
  upset : Bool := false
  events : BitVec 4 := 0
  tie : Bool := false
  deriving DecidableEq, Repr


/-- The MTU's choices as it issues an operation (R237, R239, R252): the slot of the operation chosen; the DRAM addresses of
the data of slots 0 and 1; the place and length of the run the conventional log goes on with on this actuator; the free
conventional bands; and the mapped units, as (NSID, unit), that band cleaning is to rewrite. -/
structure MediaPlace where
  slot : Fin 2 := 0
  addr0 : Nat := 0
  addr1 : Nat := 0
  logAt : Option (Nat × Nat) := none
  freeBands : BitVec 24
  clean : List (Nat × Nat) := []
  deriving DecidableEq, Repr

/-- What a channel saw in a sector it read: a reader's ADC saturated on more than 64 samples (R297); the sector continued
across a wedge gap (R300); the noise variances of its readers, in 1/2^16 of unit target power (R313). -/
structure SectorSeen where
  clip : Bool := false
  split : Bool := false
  nvA : BitVec 32 := 0
  nvB : BitVec 32 := 0
  deriving DecidableEq, Repr


/-- What the channel demodulates at a servo wedge (R401, R402): whether its SAM was found, the Gray-coded track and wedge
numbers, the raw burst fraction in 1/65,536 track, and the timestamp in SCLK cycles. -/
structure WedgeFields where
  sam : Bool := true
  track : BitVec 24 := 0
  wedge : BitVec 9 := 0
  frac : BitVec 16 := 0
  time : BitVec 32 := 0
  deriving DecidableEq, Repr

/-- What a servo frame takes in (R405, R442, R443): its wedge number, the idle interval it leaves and the wedge period it is
timed from (1/16 SCLK cycle), the rotational-acceleration sample (Q31), and the largest shock excursions since the frame
before, in mV. -/
structure FrameInput where
  wedge : BitVec 9
  idle : BitVec 16 := 1254
  period : BitVec 24 := 0
  rv : BitVec 32 := 0
  shockX : BitVec 16 := 0
  shockY : BitVec 16 := 0
  deriving DecidableEq, Repr

/-- A lane's vote record at a slice deadline (R456, R457): the record the program gives, another, or none in time. -/
inductive LaneRecord where
  | agrees | differs | missing
  deriving DecidableEq, Repr

/-- What retires lanes (R459): a lane's window count, an error in a lane's memories, or a firmware write of LANE_RETIRE. -/
inductive RetireCause where
  | window (l : Fin 4)
  | memory (l : Fin 4)
  | firmware (mask : BitVec 4)
  deriving DecidableEq, Repr

/-- What triggers a warm start (R465): a retirement, or a firmware write of LANE_WARM. -/
inductive WarmTrigger where
  | retirement
  | firmware (mask : BitVec 4)
  deriving DecidableEq, Repr

/-- A record of a calibration set (R502): its TYPE, UNIT and ZONE. -/
structure CalRecord where
  type : Fin 8
  unit : Fin 32 := 0
  zone : Fin 64 := 0
  deriving DecidableEq, Repr

/-- A Pack block, as its NSID and its number (LBA div 16), ready in a cycle (R520): with the write context of its data, or the
stream of its last sector. -/
structure ReadyBlock where
  ns : BitVec 5
  block : BitVec 44
  source : BitVec 12
  deriving DecidableEq, Repr


/-- Who writes a register (R17, R32): a control core or the debug port through the register fabric (position 0 of the register
arbiter), MGT for a dictionary write (1), or a block on its own behalf (2). -/
inductive Writer where
  | core (c : Fin 4)
  | debugPort
  | mgt
  | block
  deriving DecidableEq, Repr

/-- One write of a cycle: its writer, address and value; `mask` covers the bits it carries, all of them for a fabric access; a
fabric access of another width than 32 bits is not `whole` (R9). -/
structure RegAccess where
  writer : Writer
  addr : BitVec 36
  value : BitVec 32
  mask : BitVec 32 := BitVec.allOnes 32
  whole : Bool := true
  deriving DecidableEq, Repr


/-- A Damot request (R626, R630): the position and address of its endpoint, its header, and the payload after the header as
`bytes` bytes, padding among them. -/
structure DamotReq where
  pos : Fin 11
  addr : BitVec 64 := 0
  ver : BitVec 8 := 1
  op : BitVec 8 := 0
  seq : BitVec 16 := 0
  index : BitVec 16 := 0
  sub : BitVec 8 := 0
  flags : BitVec 8 := 0
  offset : BitVec 32 := 0
  len : BitVec 32 := 0
  bytes : Nat := 0
  payload : Nat := 0
  deriving DecidableEq, Repr

/-- An SPDM request (R644 to R647): its version byte and what it asks. -/
inductive SpdmReq where
  | getVersion
  | getCapabilities (version : BitVec 8) (transfer : BitVec 32)
  | negotiate (asym hash : Bool)
  | getDigests
  | getCertificate (slot : BitVec 4) (offset len : BitVec 16)
  | challenge (slot : BitVec 4)
  | getMeasurements (index : BitVec 8) (signed : Bool) (slot : BitVec 4)
  | unsupported (code : BitVec 8)
  deriving DecidableEq, Repr

/-- The commands the device takes, one constructor per row of the opcode table. -/
inductive Instr where
  /-- REGISTER_WRITE (R17). A 32-bit write to a register field with no behaviour of its own is ordered by the register arbiter and applied. -/
  | registerWrite (writes : List RegAccess)
  /-- EVR_CLAIM (R47). A read of EVR_CLAIM_c returns the best pending line routed to core Cc and clears its pending bit. -/
  | evrClaim (cores : List (Fin 4)) (events : List (Fin 256))
  /-- EVR_SOFT (R43). A write of EVR_SOFT sets the pending bits of software event lines 232 to 255. -/
  | evrSoft (bits : BitVec 24)
  /-- AON_POWER_ON (R117). The AON supply rises from absent, and every block, AON included, is re-initialised. -/
  | aonPowerOn
  /-- XT32_STABLE (R91). The 32.768 kHz oscillator becomes stable and XT32_OK sets. -/
  | xt32Stable
  /-- POWER_ON_RESET (R66). P48_IN rises through the start threshold, and every domain except AON is reset. -/
  | powerOnReset
  /-- INRUSH_COMPLETE (R67). The bulk capacitance has charged, INRUSH_DONE sets, and the 25 MHz oscillator is enabled. -/
  | inrushComplete
  /-- XT25_STABLE (R97). The 25 MHz oscillator becomes stable and XT25_OK sets. -/
  | xt25Stable
  /-- PLL_LOCK (R97). A PLL reaches lock, its lock bit sets, and the domain it clocks may leave reset. -/
  | pllLock (pll : Pll)
  /-- PLL_UNLOCK (R98). A PLL loses lock while its domain is on, PLL_UNLOCK_CNT increments, and an FCU source is detected. -/
  | pllUnlock (pll : Pll)
  /-- CORE_RESET_RELEASE (R121). The CORE reset is released after CCLK lock, BIFSEL is sampled, and C0 starts in the boot ROM. -/
  | coreResetRelease (bifsel : BitVec 2)
  /-- MCA_INIT_COMPLETE (R283). The Map Cache invalidation completes, CACHE_INIT_DONE sets, and event line 63 is raised. -/
  | mcaInitComplete
  /-- DRAM_READY (R121). DRAM training completes after the spare-row map load, and DRAM_READY sets. -/
  | dramReady
  /-- FIRMWARE_SLOT_CHECK (R130). The boot ROM finishes checking and loading one firmware slot and records its code. -/
  | firmwareSlotCheck (norError : Bool)
  /-- MICROCODE_SLOT_CHECK (R130). The boot ROM finishes checking one microcode slot and, on acceptance, loads bank 0 of its targets. -/
  | microcodeSlotCheck (norError : Bool)
  /-- FIRMWARE_ENTRY (R130). The boot ROM extends measurements, enables PIP toggling and jumps to the firmware entry point. -/
  | firmwareEntry
  /-- DEVID_KEY_READY (R144). SEC completes derivation of the DevID key pair and DEVID_READY sets. -/
  | devidKeyReady
  /-- ALIAS_KEY_READY (R144). SEC completes derivation of the alias key pair and ALIAS_READY sets. -/
  | aliasKeyReady
  /-- SPIN_UP (R122). The spindle is commanded to spin up, with alignment and open-loop start from rest or from its current speed. -/
  | spinUp
  /-- SPINDLE_AT_SPEED (R438). The speed has held within the band for 16 revolutions, or has left twice the band, and SPM_AT_SPEED changes. -/
  | spindleAtSpeed (rpm : BitVec 14) (within : Bool)
  /-- SPINDLE_STALL (R441). No back-EMF zero crossing occurs for 200 ms after open loop, the drive turns off and SPM_STALL sets. -/
  | spindleStall
  /-- SPINDLE_SET_SPEED (R439). A write of SPM_RPM sets, clamps or stops the spindle speed. -/
  | spindleSetSpeed (rpm : BitVec 14)
  /-- REPLAY_GO (R140). A write of REPLAY_GO starts replay of a Keep store image into DRAM. -/
  | replayGo (area : Fin 2)
  /-- REPLAY_COMPLETE (R140). The replay ends, or stops on a CRC-32C mismatch with REPLAY_ERR set. -/
  | replayComplete (crcError : Bool)
  /-- CONSUME (R141). A CONSUME request is accepted or refused with CONSUME_REFUSED set. -/
  | consume (area : Fin 2)
  /-- CONSUME_MARKER_WRITTEN (R141). The image's consumed marker is written to the Keep store. -/
  | consumeMarkerWritten
  /-- MAP_LOAD (R241). The MTU rebuilds the map from checkpoint, segments and tail, and MAP_LOADED sets. -/
  | mapLoad
  /-- POWER_FAIL (R80). P48_IN falls through PF_THRESH_DV and the power-fail sequence starts. -/
  | powerFail (vin10mV : BitVec 16)
  /-- KSC_READY (R80). The KSC domain is on and the NAND ready, and the flush starts. -/
  | kscReady
  /-- FLUSH_COMMIT (R82). The flush commit record is written, then CORE, DRAM and KSC turn off and the brake is applied. -/
  | flushCommit (inputBack : Bool)
  /-- PSTG_OFF (R80). VBULK falls through 12 V and PSTG turns off. -/
  | pstgOff (vbulkMv : BitVec 17)
  /-- OVERVOLTAGE_DETECT (R69). P48_IN rises above 80 V, the input switch opens and OV_RIDE sets. -/
  | overvoltageDetect (vin10mV : BitVec 16)
  /-- OV_RIDE_END (R69). The input falls below 77 V within 20 ms, the switch closes and OV_EVENT sets. -/
  | ovRideEnd (vin10mV : BitVec 16) (vbulkMv : BitVec 17)
  /-- OV_RIDE_TIMEOUT (R69). The 20 ms ride-through expires, or VBULK falls below 38 V, and the power-fail sequence starts. -/
  | ovRideTimeout
  /-- HOLDUP_RECOMPUTE (R76). Every 1 ms PWR recomputes HOLDUP_MJ and the input measurements, and HOLDUP_OK follows. -/
  | holdupRecompute (vin10mV : BitVec 16) (pin10mW : BitVec 16) (vbulkMv : BitVec 17)
  /-- KEEP_IMAGE_COMMIT (R82). A Keep store image written outside power fail reaches its commit record. -/
  | keepImageCommit
  /-- PA_RAIL_ENABLE (R72). A write of PA_EN or PASST_EN switches a preamplifier rail on or off. -/
  | paRailEnable (paEn : BitVec 4) (passtEn : BitVec 4)
  /-- PA_RAIL_READY (R72). A rail reaches regulation and PA_RAIL_OK or ASST_RAIL_OK sets. -/
  | paRailReady (n : Fin 4) (rail : Rail)
  /-- PA_RAIL_OVERCURRENT (R73). A rail exceeds its limit by 10 % for 50 µs, is switched off, and PA_RAIL_OC sets. -/
  | paRailOvercurrent (n : Fin 4) (rail : Rail)
  /-- CAL_TEMP_COMP (R92). Every 16 s AON corrects the calendar for the crystal's temperature curve. -/
  | calTempComp (tempC : BitVec 8)
  /-- BANDGAP_RETRIM (R94). Every 1 s the bandgap references are re-trimmed from THM. -/
  | bandgapRetrim (site : Fin 12)
  /-- IDLE_TIMER_EXPIRY (R103). An idle timer expires and the timer depth, and so the target state, deepens. -/
  | idleTimerExpiry (depth : Fin 4) (arrival : Bool)
  /-- STATE_TRANSITION_COMPLETE (R99). A transition between internal states completes and PSTATE_NOW changes. -/
  | stateTransitionComplete
  /-- SLEEP_ENTRY (R101). Every link has been in L1.2 for SLEEP_DLY_MS and the device enters Sleep from Standby. -/
  | sleepEntry
  /-- WAKE_FROM_SLEEP (R101). An L1.2 exit, PERST_N, SAS activity, I3C traffic or RETRACT_REQ_N wakes the device to Standby. -/
  | wakeFromSleep (cause : WakeCause)
  /-- DEVICE_RESET (R118). A device reset cuts writes, stops the CMU, retracts, writes an image when needed and re-initialises the domains. -/
  | deviceReset (request : ResetRequest)
  /-- ACTUATOR_RESET (R119). A write of RST_ACT retracts actuator n when needed and re-initialises CHNn and FSQn. -/
  | actuatorReset (mask : BitVec 4)
  /-- PCIE_RESET (R117). PERST_N low resets the PCIe port logic and PHY quads and applies the port reset to every port. -/
  | pcieReset
  /-- TAP_RESET (R117). TRST_N low resets the JTAG TAP. -/
  | tapReset
  /-- FUSE_BURN_COMPLETE (R136). A requested fuse burn completes. -/
  | fuseBurnComplete
  /-- PCIE_LINK_TRAINING (R121). Link training begins on a port after PERST_N is high and the CORE reset is released. -/
  | pcieLinkTraining (port : Fin 4)
  /-- PORT_RESET (R159). A hot reset, link-down, FLR or CC.EN falling resets one port's controller and deletes its queues. -/
  | portReset (port : Fin 4) (cause : PortResetCause)
  /-- CC_EN_SET (R161). CC.EN is written to 1 and the controller starts to become ready. -/
  | ccEnSet (port : Fin 4) (ams : BitVec 3) (asqs : BitVec 12) (acqs : BitVec 12)
  /-- CONTROLLER_READY (R161). The controller sets CSTS.RDY, or CSTS.CFS in recovery mode. -/
  | controllerReady (port : Fin 4)
  /-- SHUTDOWN_NOTIFICATION (R164). CC.SHN is written and the controller stops fetching. -/
  | shutdownNotification (port : Fin 4) (shn : BitVec 2)
  /-- SHUTDOWN_COMPLETE (R164). The fetched commands have completed and CSTS.SHST becomes 0b10. -/
  | shutdownComplete (port : Fin 4)
  /-- SQ_TAIL_DOORBELL (R176). A host writes a submission queue tail doorbell. -/
  | sqTailDoorbell (port : Fin 4) (sqid : BitVec 16) (tail : BitVec 16)
  /-- CQ_HEAD_DOORBELL (R182). A host writes a completion queue head doorbell and held completions may commit. -/
  | cqHeadDoorbell (port : Fin 4) (cqid : BitVec 16) (head : BitVec 16)
  /-- COMMAND_FETCH (R176). The CMU fetch engine grants one port and fetches up to the arbitration burst from one SQ. -/
  | commandFetch (entries : List HostReq)
  /-- COMMAND_ARRIVAL (R178). A command passes the tag allocation step, takes a tag and enters the HZT. -/
  | commandArrival (tag : BitVec 13)
  /-- ARRIVAL_RESUME (R215). Enough HZT entries are free and arrival resumes. -/
  | arrivalResume
  /-- HAZARD_RELEASE (R212). A held part proceeds after the entries or blocks holding it are released. -/
  | hazardRelease
  /-- ORDERED_BARRIER_START (R213). An ordered barrier starts once every earlier command of its namespace has completed. -/
  | orderedBarrierStart (tag : BitVec 13)
  /-- COMPLETION_COMMIT (R181). The CMU writes a completion entry, advances the CQ tail, sends the interrupt and frees the tag. -/
  | completionCommit (tag : BitVec 13)
  /-- INTERRUPT_COALESCE_TIMEOUT (R183). The coalescing time of a vector expires and the interrupt is sent. -/
  | interruptCoalesceTimeout (port : Fin 4) (vector : BitVec 11)
  /-- MSIX_UNMASK (R184). An MSI-X vector is unmasked and its pending message is sent. -/
  | msixUnmask (port : Fin 4) (vector : BitVec 11)
  /-- DELETE_IO_SQ (R177). Delete I/O SQ aborts the queue's uncommitted commands and deletes it. -/
  | deleteIoSq (tag : BitVec 13)
  /-- DELETE_IO_CQ (R177). Delete I/O CQ deletes a completion queue, or is refused while an SQ uses it. -/
  | deleteIoCq (tag : BitVec 13)
  /-- CREATE_IO_SQ (R173). Create I/O SQ creates a submission queue or fails with a queue status. -/
  | createIoSq (tag : BitVec 13)
  /-- CREATE_IO_CQ (R173). Create I/O CQ creates a completion queue or fails with a queue status. -/
  | createIoCq (tag : BitVec 13)
  /-- GET_LOG_PAGE (R167). Get Log Page returns a supported log page. -/
  | getLogPage (tag : BitVec 13)
  /-- IDENTIFY (R165). Identify returns the data structure that CNS selects. -/
  | identify (tag : BitVec 13)
  /-- ABORT (R185). Abort resolves against the target's completion and reports whether the target was aborted. -/
  | abort (tag : BitVec 13) (sameCycle : Bool)
  /-- SET_FEATURES (R168). Set Features sets a supported feature. -/
  | setFeatures (tag : BitVec 13)
  /-- SET_FEATURES_POWER_MGMT (R110). Set Features Power Management sets the controller's requested power state. -/
  | setFeaturesPowerMgmt (tag : BitVec 13)
  /-- SET_FEATURES_NUM_QUEUES (R172). Set Features Number of Queues grants I/O queues up to the port's quota. -/
  | setFeaturesNumQueues (tag : BitVec 13)
  /-- SET_FEATURES_TIMESTAMP (R613). Set Features Timestamp loads the calendar. -/
  | setFeaturesTimestamp (tag : BitVec 13)
  /-- GET_FEATURES (R168). Get Features returns a supported feature. -/
  | getFeatures (tag : BitVec 13)
  /-- APST_TRANSITION (R110). The APST table's idle time expires and sets the controller's requested state. -/
  | apstTransition (port : Fin 4)
  /-- ASYNC_EVENT_REQUEST (R165). Asynchronous Event Request is held until an event is reported. -/
  | asyncEventRequest (tag : BitVec 13)
  /-- NAMESPACE_MANAGEMENT (R227). Namespace Management creates or deletes a namespace under the geometry rules. -/
  | namespaceManagement (tag : BitVec 13)
  /-- NAMESPACE_ATTACHMENT (R165). Namespace Attachment attaches or detaches a namespace to controllers. -/
  | namespaceAttachment (tag : BitVec 13)
  /-- FIRMWARE_IMAGE_DOWNLOAD (R170). Firmware Image Download stages part of an image at a 4 KiB-aligned offset. -/
  | firmwareImageDownload (tag : BitVec 13) (data : List Block)
  /-- FIRMWARE_COMMIT (R651). Firmware Commit with action 0, 1 or 2 checks the staged image and writes it to a NOR slot. -/
  | firmwareCommit (tag : BitVec 13)
  /-- FIRMWARE_COMMIT_ACTIVATE (R663). Firmware Commit action 3 stages an accepted image for activation without reset. -/
  | firmwareCommitActivate (tag : BitVec 13)
  /-- FIRMWARE_SLOT_WRITE_DONE (R651). An update commit finishes writing NOR and raises its success or rejection line. -/
  | firmwareSlotWriteDone
  /-- DIRECTIVE_SEND (R165). Directive Send performs an Identify or Streams directive operation. -/
  | directiveSend (tag : BitVec 13)
  /-- DIRECTIVE_RECEIVE (R165). Directive Receive returns Identify or Streams directive data. -/
  | directiveReceive (tag : BitVec 13)
  /-- FORMAT_NVM (R165). Format NVM formats a namespace, performing SES 1 as a cryptographic erase. -/
  | formatNvm (tag : BitVec 13)
  /-- SANITIZE (R165). Sanitize performs a cryptographic erase or exits failure mode. -/
  | sanitize (tag : BitVec 13)
  /-- INVALID_ADMIN_OPCODE (R165). An unsupported admin opcode completes with Invalid Command Opcode. -/
  | invalidAdminOpcode (tag : BitVec 13)
  /-- NVME_FLUSH (R166). Flush completes once earlier writes of the namespace are durable. -/
  | nvmeFlush (tag : BitVec 13)
  /-- NVME_WRITE (R243). Write places its data in the write buffer and completes once durable. -/
  | nvmeWrite (tag : BitVec 13) (data : List Block) (transferError : Bool)
  /-- NVME_READ (R244). Read takes each block from the write buffer or media and transfers it to the host. -/
  | nvmeRead (tag : BitVec 13) (sendTo : BitVec 17)
  /-- NVME_COMPARE (R166). Compare compares media data with host data, alone or fused with a Write. -/
  | nvmeCompare (tag : BitVec 13) (data : List Block)
  /-- WRITE_ZEROES (R166). Write Zeroes writes zeros, or deallocates in NVM namespaces with DEAC. -/
  | writeZeroes (tag : BitVec 13)
  /-- DATASET_MANAGEMENT (R238). Dataset Management Deallocate unmaps whole units and zeroes partial ones. -/
  | datasetManagement (tag : BitVec 13)
  /-- NVME_VERIFY (R166). Verify reads and checks a range without transferring data. -/
  | nvmeVerify (tag : BitVec 13)
  /-- ZONE_OPEN (R229). A zone Open makes a zone Explicitly Opened within the active limit. -/
  | zoneOpen (tag : BitVec 13)
  /-- ZONE_CLOSE (R229). A zone Close makes an open zone Closed or Empty. -/
  | zoneClose (tag : BitVec 13)
  /-- ZONE_FINISH (R232). A zone Finish sets the write pointer to the capacity and makes the zone Full. -/
  | zoneFinish (tag : BitVec 13)
  /-- ZONE_RESET (R232). A zone Reset empties the zone, releases its context and discards its relocations and externs. -/
  | zoneReset (tag : BitVec 13)
  /-- ZONE_MGMT_SEND_UNSUPPORTED (R166). Zone Management Send Offline or Set Zone Descriptor Extension completes with Invalid Field in Command. -/
  | zoneMgmtSendUnsupported (tag : BitVec 13)
  /-- REPORT_ZONES (R166). Zone Management Receive or REPORT ZONES reports zone descriptors. -/
  | reportZones (tag : BitVec 13)
  /-- ZONE_APPEND (R209). Zone Append writes at the zone's append point in arrival order. -/
  | zoneAppend (tag : BitVec 13) (data : List Block) (transferError : Bool)
  /-- INVALID_IO_OPCODE (R166). An unsupported I/O opcode completes with Invalid Command Opcode. -/
  | invalidIoOpcode (tag : BitVec 13)
  /-- SAS_COMMAND_FRAME (R197). A SAS COMMAND frame enters the port's inlet or completes with TASK SET FULL. -/
  | sasCommandFrame (port : Fin 2) (nexus : Fin 32) (initiator : BitVec 64) (frame : HostReq)
  /-- XFER_RDY (R200). The port sends XFER_RDY once the write holds a tag, HOLDUP_OK is 1 and buffer space is reserved. -/
  | xferRdy (tag : BitVec 13)
  /-- SAS_DATA_FRAME (R201). A write DATA frame is received, or ends the command on excess data or a wrong offset. -/
  | sasDataFrame (tag : BitVec 13) (offset : BitVec 32) (len : Fin 1025) (data : BitVec 8192)
  /-- SAS_LINK_RESET (R193). A SAS link reset negotiates the rate up to SAS_MAX_RATE. -/
  | sasLinkReset (port : Fin 2) (rate : Fin 4)
  /-- ABORT_TASK (R206). ABORT TASK resolves against the command's response commit. -/
  | abortTask (port : Fin 2) (nexus : Fin 32) (tmf : BitVec 16) (lun : BitVec 8) (task : BitVec 16) (sameCycle : Bool)
  /-- ABORT_TASK_SET (R205). ABORT TASK SET aborts every command of the I_T_L nexus. -/
  | abortTaskSet (port : Fin 2) (nexus : Fin 32) (tmf : BitVec 16) (lun : BitVec 8)
  /-- CLEAR_TASK_SET (R205). CLEAR TASK SET aborts every SAS command of the LU and posts unit attentions. -/
  | clearTaskSet (port : Fin 2) (nexus : Fin 32) (tmf : BitVec 16) (lun : BitVec 8)
  /-- LOGICAL_UNIT_RESET (R205). LOGICAL UNIT RESET clears the task set and restores mode pages. -/
  | logicalUnitReset (port : Fin 2) (nexus : Fin 32) (tmf : BitVec 16) (lun : BitVec 8)
  /-- I_T_NEXUS_RESET (R205). I_T NEXUS RESET ends every command of the nexus on all LUs. -/
  | iTNexusReset (port : Fin 2) (nexus : Fin 32) (tmf : BitVec 16)
  /-- QUERY_TASK (R205). QUERY TASK reports whether a tagged command is in flight. -/
  | queryTask (port : Fin 2) (nexus : Fin 32) (tmf : BitVec 16) (lun : BitVec 8) (task : BitVec 16)
  /-- QUERY_TASK_SET (R205). QUERY TASK SET reports on the commands of the nexus. -/
  | queryTaskSet (port : Fin 2) (nexus : Fin 32) (tmf : BitVec 16) (lun : BitVec 8)
  /-- QUERY_ASYNCHRONOUS_EVENT (R205). QUERY ASYNCHRONOUS EVENT reports pending unit attentions. -/
  | queryAsynchronousEvent (port : Fin 2) (nexus : Fin 32) (tmf : BitVec 16) (lun : BitVec 8)
  /-- TMF_NOT_SUPPORTED (R205). CLEAR ACA or another task management function returns FUNCTION NOT SUPPORTED. -/
  | tmfNotSupported (port : Fin 2) (nexus : Fin 32) (tmf : BitVec 16) (lun : BitVec 8)
  /-- I_T_NEXUS_LOSS (R207). The nexus loss time expires and every command of the nexus ends. -/
  | iTNexusLoss (port : Fin 2) (nexus : Fin 32)
  /-- TEST_UNIT_READY (R203). TEST UNIT READY reports readiness. -/
  | testUnitReady (tag : BitVec 13)
  /-- REQUEST_SENSE (R203). REQUEST SENSE returns sense data. -/
  | requestSense (tag : BitVec 13)
  /-- FORMAT_UNIT (R203). FORMAT UNIT formats the namespace as Format NVM SES 0. -/
  | formatUnit (tag : BitVec 13)
  /-- INQUIRY (R203). INQUIRY returns standard data or a supported VPD page. -/
  | inquiry (tag : BitVec 13)
  /-- MODE_SELECT (R203). MODE SELECT changes supported mode pages. -/
  | modeSelect (tag : BitVec 13) (page : BitVec 6) (values : List (Fin 8 × BitVec 32))
  /-- MODE_SENSE (R203). MODE SENSE returns supported mode pages. -/
  | modeSense (tag : BitVec 13)
  /-- START_STOP_UNIT (R112). START STOP UNIT sets the port's power request or stops and starts the unit. -/
  | startStopUnit (tag : BitVec 13)
  /-- READ_CAPACITY (R203). READ CAPACITY returns the LU's capacity. -/
  | readCapacity (tag : BitVec 13)
  /-- SCSI_READ (R202). READ (10) or (16) transfers data in DATA frames followed by RESPONSE. -/
  | scsiRead (tag : BitVec 13) (sendTo : BitVec 17)
  /-- SCSI_WRITE (R200). WRITE (10) or (16) receives data under XFER_RDY into the write buffer. -/
  | scsiWrite (tag : BitVec 13)
  /-- SCSI_VERIFY (R203). VERIFY with BYTCHK 0 checks a range. -/
  | scsiVerify (tag : BitVec 13)
  /-- SYNCHRONIZE_CACHE (R203). SYNCHRONIZE CACHE completes as Flush. -/
  | synchronizeCache (tag : BitVec 13)
  /-- WRITE_SAME_16 (R203). WRITE SAME (16) writes zeros or unmaps. -/
  | writeSame16 (tag : BitVec 13) (data : Block)
  /-- UNMAP (R203). UNMAP deallocates up to 256 descriptors. -/
  | unmap (tag : BitVec 13)
  /-- WRITE_BUFFER (R203). WRITE BUFFER modes 0x0E and 0x0F download and commit firmware. -/
  | writeBuffer (tag : BitVec 13) (data : List Block)
  /-- READ_BUFFER (R203). READ BUFFER returns buffer data for the supported modes. -/
  | readBuffer (tag : BitVec 13)
  /-- SCSI_SANITIZE (R203). SANITIZE performs a cryptographic erase or exits failure mode. -/
  | scsiSanitize (tag : BitVec 13)
  /-- LOG_SENSE (R203). LOG SENSE returns a supported log page. -/
  | logSense (tag : BitVec 13)
  /-- REPORT_LUNS (R195). REPORT LUNS lists the existing namespaces. -/
  | reportLuns (tag : BitVec 13)
  /-- REPORT_SUPPORTED_OPCODES (R203). REPORT SUPPORTED OPERATION CODES lists the accepted commands. -/
  | reportSupportedOpcodes (tag : BitVec 13)
  /-- CLOSE_ZONE (R203). CLOSE ZONE closes one zone or all zones. -/
  | closeZone (tag : BitVec 13)
  /-- FINISH_ZONE (R203). FINISH ZONE finishes one zone or all zones. -/
  | finishZone (tag : BitVec 13)
  /-- OPEN_ZONE (R203). OPEN ZONE opens one zone or all zones. -/
  | openZone (tag : BitVec 13)
  /-- RESET_WRITE_POINTER (R203). RESET WRITE POINTER resets one zone or all zones. -/
  | resetWritePointer (tag : BitVec 13)
  /-- SCSI_INVALID_OPCODE (R203). An unsupported operation code completes with INVALID COMMAND OPERATION CODE. -/
  | scsiInvalidOpcode (tag : BitVec 13)
  /-- DAMOT_SEND (R629). Damot Send on NVMe or SAS carries one Damot request to MGT. -/
  | damotSend (tag : BitVec 13) (req : DamotReq)
  /-- DAMOT_RECEIVE (R629). Damot Receive returns the response to the endpoint's latest Send. -/
  | damotReceive (tag : BitVec 13)
  /-- DAMOT_GET (R631). GET returns bytes of an object's value. -/
  | damotGet (req : DamotReq)
  /-- DAMOT_SET (R632). SET writes an object after the access, ownership, token and range checks. -/
  | damotSet (req : DamotReq)
  /-- DAMOT_DESCRIBE (R631). DESCRIBE returns an object's type, access, default, minimum and maximum. -/
  | damotDescribe (req : DamotReq)
  /-- DAMOT_CLAIM (R636). CLAIM is judged by the claim arbiter against the ownership state. -/
  | damotClaim (reqs : List DamotReq)
  /-- DAMOT_RELEASE (R636). RELEASE by the owner leaves the device unowned. -/
  | damotRelease (req : DamotReq)
  /-- DAMOT_OFFER (R636). OFFER by the owner offers ownership to a named identity. -/
  | damotOffer (req : DamotReq)
  /-- DAMOT_ACCEPT (R636). ACCEPT by the offered target transfers ownership. -/
  | damotAccept (req : DamotReq)
  /-- DAMOT_NONCE (R642). NONCE returns a fresh nonce bound to the endpoint position. -/
  | damotNonce (req : DamotReq)
  /-- DAMOT_BAD_OP (R631). A malformed header or unknown DM_OP completes with BAD_OP. -/
  | damotBadOp (req : DamotReq)
  /-- NONCE_EXPIRY (R642). A nonce expires 60 s after issue. -/
  | nonceExpiry (pos : Fin 11)
  /-- LEASE_EXPIRY (R636). LEASE_S seconds pass without a request from the owner and the device becomes unowned. -/
  | leaseExpiry
  /-- OFFER_TIMEOUT (R636). An offer is not accepted within 5 s and the state returns to OWNED. -/
  | offerTimeout
  /-- OWN_DROP (R636). A write of OWN_DROP leaves the device unowned. -/
  | ownDrop
  /-- SET_ENDPOINT_ID (R627). The MCTP bus owner assigns the device's EID. -/
  | setEndpointId (pos : Fin 5) (eid : BitVec 8)
  /-- GET_ENDPOINT_ID (R627). Get Endpoint ID returns the EID. -/
  | getEndpointId (pos : Fin 5)
  /-- GET_MCTP_VERSION_SUPPORT (R627). Get MCTP Version Support returns the supported versions. -/
  | getMctpVersionSupport (pos : Fin 5) (type : BitVec 8)
  /-- GET_MESSAGE_TYPE_SUPPORT (R627). Get Message Type Support returns types 0x00, 0x05 and 0x7E. -/
  | getMessageTypeSupport (pos : Fin 5)
  /-- GET_VENDOR_DEFINED_MSG_SUPPORT (R627). Get Vendor Defined Message Support returns the Damot vendor type. -/
  | getVendorDefinedMsgSupport (pos : Fin 5) (selector : BitVec 8)
  /-- ENTDAA (R628). ENTDAA assigns the I3C dynamic address. -/
  | entdaa (addr : BitVec 7)
  /-- SETDASA (R628). SETDASA assigns the I3C dynamic address from I3C_STATIC. -/
  | setdasa (static : BitVec 7) (addr : BitVec 7)
  /-- GET_VERSION (R644). SPDM GET_VERSION returns versions 1.2 and 1.3. -/
  | getVersion (pos : Fin 5)
  /-- GET_CAPABILITIES (R644). SPDM GET_CAPABILITIES returns the device's capabilities. -/
  | getCapabilities (pos : Fin 5) (version : BitVec 8) (transfer : BitVec 32)
  /-- NEGOTIATE_ALGORITHMS (R645). SPDM NEGOTIATE_ALGORITHMS selects Falcon-1024 and SHAKE256. -/
  | negotiateAlgorithms (pos : Fin 5) (asym : Bool) (hash : Bool)
  /-- GET_DIGESTS (R644). SPDM GET_DIGESTS returns the certificate chain digests. -/
  | getDigests (pos : Fin 5)
  /-- GET_CERTIFICATE (R646). SPDM GET_CERTIFICATE returns part of a slot's certificate chain. -/
  | getCertificate (pos : Fin 5) (slot : BitVec 4) (offset : BitVec 16) (len : BitVec 16)
  /-- CHALLENGE (R645). SPDM CHALLENGE returns a signed CHALLENGE_AUTH. -/
  | challenge (pos : Fin 5) (slot : BitVec 4) (tied : List (Fin 5 × SpdmReq))
  /-- GET_MEASUREMENTS (R647). SPDM GET_MEASUREMENTS returns measurement blocks, signed when asked. -/
  | getMeasurements (pos : Fin 5) (index : BitVec 8) (signed : Bool) (slot : BitVec 4) (tied : List (Fin 5 × SpdmReq))
  /-- CHUNK_SEND (R644). SPDM CHUNK_SEND carries a chunk of a large request. -/
  | chunkSend (pos : Fin 5) (handle : BitVec 8) (chunk : BitVec 16) (size : BitVec 32) (total : BitVec 32) (last : Bool) (req : SpdmReq)
  /-- CHUNK_GET (R644). SPDM CHUNK_GET returns a chunk of a large response. -/
  | chunkGet (pos : Fin 5) (handle : BitVec 8) (chunk : BitVec 16)
  /-- SPDM_UNSUPPORTED_REQUEST (R644). A declined SPDM request is answered with ERROR UnsupportedRequest. -/
  | spdmUnsupportedRequest (pos : Fin 5) (code : BitVec 8)
  /-- SPIN_AT_BOOT_WRITE (R152). A write of SpinAtBoot writes a new boot control record. -/
  | spinAtBootWrite (req : DamotReq)
  /-- KEY_SLOT_REVOKE (R134). A write of KeySlotRevoke burns a slot's revoke fuse or is refused. -/
  | keySlotRevoke (req : DamotReq)
  /-- FIRMWARE_SVN_MIN (R135). A write of FirmwareSvnMin raises the fused firmware minimum or is refused. -/
  | firmwareSvnMin (req : DamotReq)
  /-- MICROCODE_SVN_MIN (R135). A write of MicrocodeSvnMin raises the fused microcode minimum or is refused. -/
  | microcodeSvnMin (req : DamotReq)
  /-- UPDATE_COMMIT (R652). A write of UpdateCommit checks the staged image and writes a firmware or microcode slot. -/
  | updateCommit (req : DamotReq)
  /-- RECOVERY_BOOT (R653). A write of RecoveryBoot checks the staged recovery image and enters it or refuses. -/
  | recoveryBoot (req : DamotReq)
  /-- DEBUG_UNLOCK (R654). An authorised write of DebugUnlock enables TST debug access. -/
  | debugUnlock (req : DamotReq)
  /-- SPARE_ROW_BURN (R558). A write of SpareRowBurn burns a soft remap into the fuse map. -/
  | spareRowBurn (req : DamotReq)
  /-- ACTUATOR_FAIL_DECLARE (R251). Setting ACT_FAIL_DECL makes the actuator's zones Offline and ends its waiting operations. -/
  | actuatorFailDeclare (n : Fin 4)
  /-- HEAD_DECLARED_UNABLE (R234). Firmware declares a head unable to write or read, and its zones become Read Only or Offline. -/
  | headDeclaredUnable (head : Fin 32) (read : Bool)
  /-- BUFFER_RESERVE (R242). The MTU reserves write buffer space for the earliest ready write. -/
  | bufferReserve
  /-- WRITE_CONTEXT_RELEASE (R233). A context's staging chain empties, the context is released and a waiting activation may take it. -/
  | writeContextRelease (ns : BitVec 5) (zone : BitVec 20)
  /-- MEDIA_OP_ISSUE (R252). The MTU issues the next chosen media operation to an idle FSQ. -/
  | mediaOpIssue (n : Fin 4) (reach : List (BitVec 13)) (place : MediaPlace) (control : Option OpDesc)
  /-- JOURNAL_SEGMENT_WRITE (R240). The journal tail reaches JRNL_WM_256K and is written to a journal segment. -/
  | journalSegmentWrite
  /-- MAP_CHECKPOINT (R240). The journal segments reach 1 GiB and the MTU writes a map checkpoint. -/
  | mapCheckpoint
  /-- RELOCATE_SECTOR (R250). A qualifying sector is written to the spare area and its relocation entry journaled. -/
  | relocateSector (surface : Fin 32) (track : BitVec 24) (sector : BitVec 12) (spareTrack : BitVec 24) (spareSector : BitVec 12)
  /-- MCA_LOOKUP (R263). An MTU lookup hits, recalls from the victim cache or misses and issues a fill. -/
  | mcaLookup (tag : BitVec 13) (addr : BitVec 35) (others : List (Fin 3)) (upset : Bool)
  /-- MCA_UPDATE (R265). An MTU update is written back to an unlocked line or through a locked line. -/
  | mcaUpdate (addr : BitVec 35) (value : BitVec 64) (others : List (Fin 3)) (upset : Bool)
  /-- MCA_FILL_RETURN (R266). DMC returns fill data and the line is installed, installed as zeros, or not installed on poison. -/
  | mcaFillReturn (line : BitVec 28) (upset : Bool)
  /-- MCA_VICTIM_LAND (R267). An evicted line's clean copy lands in the victim cache and stalled requests recall it. -/
  | mcaVictimLand (line : BitVec 28) (upset : Bool)
  /-- MCA_PREFETCH (R272). A trained stride detector issues prefetches in an idle pipeline cycle. -/
  | mcaPrefetch (tag : BitVec 13)
  /-- MCA_WINDOW_ENABLE (R261). A write of WIN_EN to 1 enables a map window or is ignored. -/
  | mcaWindowEnable (k : Fin 4) (base : BitVec 15)
  /-- MCA_WINDOW_DISABLE (R261). A write of WIN_EN to 0 invalidates the window and disables its lock ranges. -/
  | mcaWindowDisable (k : Fin 4)
  /-- MCA_LOCK_ENABLE (R273). A write of LOCK_EN to 1 enables a lock range or is ignored. -/
  | mcaLockEnable (k : Fin 8)
  /-- MCA_LOCK_DISABLE (R276). A write of LOCK_EN to 0 unlocks every way of the range. -/
  | mcaLockDisable (k : Fin 8)
  /-- LOCK_LOAD (R275). LOCK_LOAD starts walking a lock range and locking its lines. -/
  | lockLoad (k : Fin 8)
  /-- LOCK_LOAD_COMPLETE (R275). The LOCK_LOAD walk ends, LOCK_BUSY clears and event line 57 is raised. -/
  | lockLoadComplete (k : Fin 8) (upsets : List (BitVec 28))
  /-- RANGE_CLEAN (R277). RANGE_GO with CLEAN writes back DIRTY lines of the range. -/
  | rangeClean
  /-- RANGE_INVALIDATE (R277). RANGE_GO with INVALIDATE writes back and invalidates lines of the range. -/
  | rangeInvalidate
  /-- RANGE_DISCARD (R277). RANGE_GO with DISCARD invalidates lines of the range without write-back. -/
  | rangeDiscard
  /-- RANGE_COMPLETE (R278). A range operation's last probe and write-back end, RANGE_BUSY clears and line 56 is raised. -/
  | rangeComplete (upsets : List (BitVec 28))
  /-- MAP_RESUME (R282). A write of MAP_RESUME clears MAP_HALT and the MTU resumes. -/
  | mapResume
  /-- MC_DIAG_GO (R289). MC_DIAG_GO reads a main-array or victim entry through a maintenance grant. -/
  | mcDiagGo (set : BitVec 12) (way : Fin 16) (victim : Bool) (upset : Bool)
  /-- MC_CNT_CLR (R288). MC_CNT_CLR clears every Map Cache counter. -/
  | mcCntClr
  /-- SECTOR_START (R292). A head slot reaches a sector start, samples its per-sector fields, and starts a write or requests an LLR slot. -/
  | sectorStart (starts : List SlotStart)
  /-- TIMING_FIELD (R301). A slot measures a timing field's phase, corrects its DLC and judges lock and write phase. -/
  | timingField (n : Fin 4) (h : Fin 2) (phase : BitVec 8) (rateOver : Bool)
  /-- SYNC_MARK_DECISION (R320). The sync search window ends and the channel accepts a framing, an ambiguous pair or a blind framing. -/
  | syncMarkDecision (n : Fin 4) (h : Fin 2) (cands : List (BitVec 6 × BitVec 6)) (predDist : BitVec 6)
  /-- LLR_HANDOVER (R324). A sector's LLR slot is complete and handed to the Abacus. -/
  | llrHandover (n : Fin 4) (h : Fin 2) (spans : List Span) (seen : SectorSeen) (time : BitVec 64)
  /-- REFRAME_REQUEST (R323). Every candidate framing failed and one bead at the predicted position is requested. -/
  | reframeRequest (slot : Fin 384)
  /-- CHN_CNT_CLR (R331). CHN_CNT_CLR clears every channel counter. -/
  | chnCntClr (n : Fin 4)
  /-- BEAD_START (R348). A free usable bead slot starts the ready bead with the earliest deadline. -/
  | beadStart
  /-- BEAD_ITERATION_END (R343). A bead completes an iteration and tests the parity checks. -/
  | beadIterationEnd (bead : Fin 48) (resid : BitVec 13) (word : Codeword) (memErr : Bool)
  /-- DECODE_RESULT (R352). The Abacus writes the decoded data and delivers the result record to FSQn and the MTU. -/
  | decodeResult (slot : Fin 384) (time : BitVec 64)
  /-- LADDER_STEP_START (R357). The next enabled ladder step starts a decode or queues a reread. -/
  | ladderStepStart (loc : BitVec 41) (time : BitVec 64)
  /-- RECOVERY_LIMIT_EXPIRY (R359). A command's recovery clock reaches its limit and no further step, revolution or bead starts. -/
  | recoveryLimitExpiry (tag : Option (BitVec 13)) (loc : BitVec 41) (elapsedMs : BitVec 32)
  /-- ABX_MEMORY_ERROR (R361). An LLR or carry memory error is corrected, or ends the request with MEM_ERR. -/
  | abxMemoryError (slot : Fin 384) (corrected : Bool)
  /-- ABX_CNT_CLR (R367). ABX_CNT_CLR clears every Abacus counter. -/
  | abxCntClr
  /-- FSQ_CONTINUE (R372). An FSQ microword with SEQ continue acts and passes to the next address. -/
  | fsqContinue (n : Fin 4) (fetch : FsqFetch)
  /-- FSQ_JUMP (R372). An FSQ microword with SEQ jump acts and passes to NEXT. -/
  | fsqJump (n : Fin 4) (fetch : FsqFetch)
  /-- FSQ_BRANCH (R372). An FSQ microword with SEQ branch acts and passes to NEXT if its condition holds. -/
  | fsqBranch (n : Fin 4) (fetch : FsqFetch)
  /-- FSQ_CALL (R372). An FSQ microword with SEQ call pushes a return address and passes to NEXT. -/
  | fsqCall (n : Fin 4) (fetch : FsqFetch)
  /-- FSQ_RETURN (R372). An FSQ microword with SEQ return pops the return address. -/
  | fsqReturn (n : Fin 4) (fetch : FsqFetch)
  /-- FSQ_WAIT (R375). An FSQ wait word starts sampling its condition under its TIMEOUT. -/
  | fsqWait (n : Fin 4) (fetch : FsqFetch)
  /-- FSQ_WAIT_END (R375). A wait ends on its condition or on TIMEOUT expiry. -/
  | fsqWaitEnd (n : Fin 4) (expired : Bool) (events : BitVec 4)
  /-- FSQ_WATCHDOG (R375). A wait lasts longer than WDOG_US and a machine check is raised. -/
  | fsqWatchdog (n : Fin 4)
  /-- FSQ_DISPATCH (R373). A dispatch word takes the next issued operation and jumps to its vector, or repeats while idle. -/
  | fsqDispatch (n : Fin 4) (fetch : FsqFetch)
  /-- HEAD_PROFILE (R376). XFER HEAD_PROFILE loads a slot's per-head registers and sends the preamplifier frames. -/
  | headProfile (n : Fin 4) (fetch : FsqFetch)
  /-- READ_ARM (R376). XFER READ_ARM arms a slot to read a run of sectors. -/
  | readArm (n : Fin 4) (fetch : FsqFetch)
  /-- WRITE_ARM (R376). XFER WRITE_ARM arms a slot to write a run of sectors. -/
  | writeArm (n : Fin 4) (fetch : FsqFetch)
  /-- SEEK (R417). XFER SEEK asks SVT to move the actuator to the slots' target tracks. -/
  | seek (n : Fin 4) (fetch : FsqFetch)
  /-- MA_OFFSET (R376). XFER MA_OFFSET asks SVT to hold a microactuator at an offset. -/
  | maOffset (n : Fin 4) (fetch : FsqFetch)
  /-- REPORT (R377). XFER REPORT ends the operation, reports it to the MTU and ends overrides. -/
  | report (n : Fin 4) (fetch : FsqFetch)
  /-- JD_OVERRIDE (R376). XFER JD_OVERRIDE overrides JD_MODE on a slot. -/
  | jdOverride (n : Fin 4) (fetch : FsqFetch)
  /-- OVR_CLEAR (R376). XFER OVR_CLEAR ends the offset and detection-mode overrides on a slot. -/
  | ovrClear (n : Fin 4) (fetch : FsqFetch)
  /-- LOAD_UNLOAD (R435). XFER LOAD_UNLOAD asks SVT to load the heads or park them. -/
  | loadUnload (n : Fin 4) (fetch : FsqFetch)
  /-- PSI_WRITE (R384). A microword PSI_OP write queues a preamplifier write frame. -/
  | psiWrite (n : Fin 4) (fetch : FsqFetch)
  /-- PSI_READ (R384). A microword PSI_OP read queues a preamplifier read frame into PSI_RDATA. -/
  | psiRead (n : Fin 4) (fetch : FsqFetch)
  /-- PSI_D_GO (R385). A write of PSI_D_GO queues firmware's preamplifier frame. -/
  | psiDGo (n : Fin 4) (tie : Bool)
  /-- PSI_FRAME_END (R386). A preamplifier frame completes, is retried, or fails with PSI_FAIL set. -/
  | psiFrameEnd (n : Fin 4) (ok : Bool) (data : BitVec 16)
  /-- MC_RESTART (R383). MC_RESTART clears MCHK and restarts the FSQ and stopped WSQs. -/
  | mcRestart (n : Fin 4)
  /-- SWAP_REQ (R392). SWAP_REQ names a new FSQ source and sets SWAP_PEND, or is ignored. -/
  | swapReq (n : Fin 4)
  /-- LOAD_GO (R391). LOAD_GO makes SEC check an image and load actuator n's sections into a bank. -/
  | loadGo (n : Fin 4)
  /-- MICROCODE_LOAD_COMPLETE (R391). A bank load completes, LOAD_CODE is set and line 122 + 4n is raised. -/
  | microcodeLoadComplete (n : Fin 4)
  /-- WSQ_SRC_WRITE (R393). A write of WSQ_SRC selects a wedge sequencer's source from its next start. -/
  | wsqSrcWrite (n : Fin 4) (h : Fin 2) (src : BitVec 2)
  /-- WSQ_START (R380). A wedge sequencer starts its wedge program before the predicted wedge, or at a SAM before lock. -/
  | wsqStart (n : Fin 4) (h : Fin 2) (sam : Bool) (fetches : List WsqFetch)
  /-- FSQ_CNT_CLR (R398). FSQ_CNT_CLR clears FSQ_CNT. -/
  | fsqCntClr (n : Fin 4)
  /-- WEDGE_STROBE (R402). PES_STROBE latches a slot's wedge fields for SVT, and a lost or late wedge is judged. -/
  | wedgeStrobe (n : Fin 4) (h : Fin 2) (wedge : WedgeFields) (late : Bool)
  /-- SERVO_FRAME (R405). A servo frame starts and distributes inputs and requests to every lane. -/
  | servoFrame (input : FrameInput)
  /-- SLICE_DEADLINE (R457). At a slice deadline the lanes' records are voted and the outputs sent to ACT and ASD, or the slice is missed. -/
  | sliceDeadline (lane0 : LaneRecord) (lane1 : LaneRecord) (lane2 : LaneRecord) (lane3 : LaneRecord) (voterError : Bool) (corrected : BitVec 4)
  /-- CHECKPOINT (R463). In the checkpoint interval the lanes write and vote their 512 checkpoint words. -/
  | checkpoint (noMajority : List (Fin 512))
  /-- FOLLOWING_ERROR_FAULT (R425). A following-error excess outlasts FE_TIME frames and FE_FAULT sets. -/
  | followingErrorFault (n : Fin 4)
  /-- COAST_RETRACT (R427). SV_COAST_MAX + 1 consecutive losses start the retract and set COAST_RETRACT. -/
  | coastRetract (n : Fin 4)
  /-- SLOT_DROP (R428). A slot loses too many wedges, is dropped and its microactuator ramps to 0 V. -/
  | slotDrop (n : Fin 4) (h : Fin 2)
  /-- VCM_SUBSAMPLE (R420). ACT's current loop updates each VCM bridge duty at a sub-sample and applies its limits. -/
  | vcmSubsample (n : Fin 4) (current : BitVec 16) (rms : BitVec 12) (watts : BitVec 8) (overcurrent : BitVec 3)
  /-- RETRACT (R431). A retract takes the VCM under back-EMF velocity control, turns assist off and ramps the microactuators to 0 V. -/
  | retract (n : Fin 4)
  /-- CRASH_STOP_DETECT (R432). Back-EMF stays below a tenth of RETRACT_VEL for 2 ms and the park hold starts. -/
  | crashStopDetect (n : Fin 4)
  /-- PARK_HOLD_DONE (R432). PARK_HOLD_MS expires, the bridge turns off and PARKED sets. -/
  | parkHoldDone (n : Fin 4)
  /-- PARK_HANDOVER (R434). A park settles near the ramp and hands the VCM to back-EMF control. -/
  | parkHandover (n : Fin 4)
  /-- LOAD_ACQUIRE_TIMEOUT (R435). A load acquires nothing in 200 ms, unloads and retries, or sets LOAD_FAIL. -/
  | loadAcquireTimeout (n : Fin 4)
  /-- LOAD_COMPLETE (R435). A load captures velocity, settles on a track and completes. -/
  | loadComplete (n : Fin 4)
  /-- SHOCK_TRIP (R442). A shock comparator trips, write-unsafe is asserted on all actuators and SHOCK_HOLD sets. -/
  | shockTrip (y : Bool) (excursion : BitVec 16)
  /-- SHOCK_HOLD_END (R442). SHOCK_HOLD_WEDGES frames pass without a trip and SHOCK_HOLD clears. -/
  | shockHoldEnd
  /-- COEF_APPLY (R412). COEF_APPLY copies an actuator's shadow coefficients to the active set at the next frame start. -/
  | coefApply (mask : BitVec 4)
  /-- SV_CNT_CLR (R447). SV_CNT_CLR clears every counter of an actuator. -/
  | svCntClr (n : Fin 4)
  /-- LANE_RETIRE (R459). A lane is retired by its window count, an uncorrectable memory error or a firmware write. -/
  | laneRetire (cause : RetireCause)
  /-- LANE_WARM_START (R465). A retirement or LANE_WARM starts a warm start with lane reset and coefficient copy. -/
  | laneWarmStart (trigger : WarmTrigger)
  /-- WARM_COPY_COMPLETE (R466). The coefficient copy completes and the lane waits for a clean checkpoint. -/
  | warmCopyComplete
  /-- WARM_STATE_LOAD (R465). The lane starts loading a clean checkpoint in time for the next frame. -/
  | warmStateLoad
  /-- LANE_JOIN (R465). The warm-started lane computes from the next frame start and joins the vote. -/
  | laneJoin (cycles : BitVec 16)
  /-- LANE_BIST (R469). LANE_BIST starts the self-test of an off or retired lane. -/
  | laneBist (mask : BitVec 4)
  /-- LANE_BIST_DONE (R469). The self-test ends and sets LANEl_BIST_PASS or self-test failed. -/
  | laneBistDone (l : Fin 4) (pass : Bool)
  /-- TRIAD_CNT_CLR (R472). TRIAD_CNT_CLR clears every triad counter. -/
  | triadCntClr
  /-- HTS_READ (R482). ASD issues reads of the slots' head thermal sensors two frames before the assist frame. -/
  | htsRead (n : Fin 4) (tie : Bool)
  /-- ASSIST_CODE_WRITE (R484). ASD converts the voted output into ASST_OP and writes PA_ASSTh when it changes. -/
  | assistCodeWrite (n : Fin 4) (tie : Bool)
  /-- AGE_STEP (R486). AGE_N_1K × 1,024 accumulated frames update a head's AGE_GAIN. -/
  | ageStep (j : Fin 32)
  /-- ASSIST_FORCE_CLEAR (R489). A write of 1 to ASST_FORCED clears the force and closes the rail switch. -/
  | assistForceClear (mask : BitVec 4)
  /-- ASD_CNT_CLR (R509). ASD_CNT_CLR clears ASD_CNT. -/
  | asdCntClr
  /-- RUN_START (R493). RUN_START starts a calibration run after checking its preconditions, or is refused. -/
  | runStart (k : Fin 4) (type : BitVec 4) (unit : BitVec 5) (slot : Bool)
  /-- RUN_PRECONDITION_VIOLATION (R493). A precondition fails during a run and the run aborts with PRECONDITION. -/
  | runPreconditionViolation (k : Fin 4) (judged : BitVec 12)
  /-- RUN_CANCEL (R493). RUN_CANCEL ends a run with CANCELLED. -/
  | runCancel (k : Fin 4) (judged : BitVec 12)
  /-- RUN_FINISH (R495). RUN_FINISH makes CAL read and validate the apply list. -/
  | runFinish (k : Fin 4) (judged : BitVec 12)
  /-- RUN_VALIDATION_COMPLETE (R495). Validation ends with LIST_ERR, SCOPE or OK, and an OK list is applied. -/
  | runValidationComplete (k : Fin 4) (judged : BitVec 12)
  /-- TBL_DATA_ACCESS (R511). An access of CAL_TBL_DATA reads or writes the profile word and advances TBL_ADDR. -/
  | tblDataAccess (write : Option (BitVec 32))
  /-- RAMP_STEP (R499). A ramping entry takes its next step at its target's boundary. -/
  | rampStep (entry : BitVec 13)
  /-- RAMP_FALLBACK (R500). No boundary comes within 50 ms and the entry takes its final value. -/
  | rampFallback (entry : BitVec 13)
  /-- STORE_GO (R503). STORE_GO snapshots the working calibration set and starts writing the other bank. -/
  | storeGo
  /-- CAL_STORE_COMMIT (R503). The store programs the commit word and flips ACTIVE_BANK, or fails on read-back. -/
  | calStoreCommit (ok : Bool)
  /-- CAL_LOAD (R505). CAL loads the calibration set from the better bank and sets CAL_LOADED. -/
  | calLoad (failedA : List CalRecord) (failedB : List CalRecord)
  /-- NOR_GRANT (R504). The NOR arbiter grants one erase or 4 KiB program to CAL, Tally or firmware. -/
  | norGrant (requests : BitVec 3)
  /-- PACK_BLOCK_COMPRESS (R523). A complete Pack block enters a compression lane. -/
  | packBlockCompress (blocks : List ReadyBlock)
  /-- PACK_BLOCK_DONE (R521). A compression lane ends a block, stored packed or RAW with its spill or extern. -/
  | packBlockDone (lane : Fin 4) (externIndex : BitVec 24)
  /-- POOL_BUFFER_FREE (R522). A pool buffer is freed and a stalled lane resumes. -/
  | poolBufferFree
  /-- UNPACK_BLOCK (R526). A decompression lane expands a staged block into the transfer buffer. -/
  | unpackBlock (blocks : List ReadyBlock)
  /-- ZR_WRITE (R514). ZR_WRITE sets an Empty zone's Pack ratio, or is ignored. -/
  | zrWrite (ratio : BitVec 2) (activation : Bool)
  /-- ZR_READ (R531). ZR_READ loads a zone's ratio into ZR_RATIO. -/
  | zrRead
  /-- PAK_CNT_CLR (R532). PAK_CNT_CLR clears every Pack counter. -/
  | pakCntClr
  /-- DRAM_READ (R551). A DRAM read returns data with status CLEAN, CORRECTED, UNCORRECTABLE, POISONED or UNWRITTEN. -/
  | dramRead (reads : List (Fin 8 × BitVec 29))
  /-- DRAM_WRITE (R544). A full-word DRAM write is written with fresh check bits. -/
  | dramWrite (writes : List (Fin 8 × BitVec 29 × BitVec 512))
  /-- DRAM_PARTIAL_WRITE (R544). A partial write is merged by read-modify-write, or poisons the word on an uncorrectable error. -/
  | dramPartialWrite (writes : List (Fin 8 × BitVec 29 × BitVec 64 × BitVec 512))
  /-- REGION_ENABLE (R538). A write of REG_EN to 1 enables a region, clearing or adopting its granules. -/
  | regionEnable (k : Fin 16) (base : BitVec 15) (adopt : Bool)
  /-- REGION_DISABLE (R538). A write of REG_EN to 0 disables a region and clears its written bits. -/
  | regionDisable (k : Fin 16)
  /-- REG_MARK (R539). REG_MARK encodes and marks every unwritten granule of a region written. -/
  | regMark (k : Fin 16)
  /-- REGION_OP_COMPLETE (R538). A region enable, disable or mark completes and REG_BUSY clears. -/
  | regionOpComplete (k : Fin 16)
  /-- SCRUB_STEP (R555). The scrubber reads and repairs the next word at its pace. -/
  | scrubStep (behind : Bool)
  /-- SPR_GO (R557). SPR_GO remaps a row to a free spare row by copying it, or is refused. -/
  | sprGo (bank : BitVec 8) (row : BitVec 16)
  /-- SPARE_ROW_DONE (R557). The row copy completes, the row is redirected and SPR_DONE sets. -/
  | spareRowDone
  /-- DIAG_RAW_READ (R559). DIAG_GO with DIAG_OP 0 reads a word's data and check bits raw. -/
  | diagRawRead (word : BitVec 29)
  /-- DIAG_WRITE_ALL (R559). DIAG_GO with DIAG_OP 1 writes data and check bits as given. -/
  | diagWriteAll (word : BitVec 29)
  /-- DIAG_WRITE_DATA (R559). DIAG_GO with DIAG_OP 2 writes data only. -/
  | diagWriteData (word : BitVec 29)
  /-- DIAG_WRITE_CHECK (R559). DIAG_GO with DIAG_OP 3 writes check bits only. -/
  | diagWriteCheck (word : BitVec 29)
  /-- CE_LOG_CLR (R554). CE_LOG_CLR frees every log entry. -/
  | ceLogClr
  /-- CEL_VALID_CLEAR (R554). Writing 1 to CEL_VALID frees one log entry. -/
  | celValidClear (k : Fin 32)
  /-- DMC_CNT_CLR (R567). DMC_CNT_CLR clears every DMC counter. -/
  | dmcCntClr
  /-- FAULT_DETECTION (R576). A fault source is detected, counted, reacts in hardware, and is queued, merged or lost. -/
  | faultDetection (sources : List (Fin 512 × BitVec 32))
  /-- SHADOW_READY (R583). A step's ready report arrives and its reaction shadow closes. -/
  | shadowReady (step : ShadowStep) (n : Fin 4)
  /-- SHADOW_TIMEOUT (R583). A shadow reaches 1 ms without its ready report and source 386 is detected. -/
  | shadowTimeout (step : ShadowStep) (n : Fin 4)
  /-- WINDOW_CLOSE (R582). A fault window closes at the latest of 1 µs, its shadows closing and its retracted actuators parking. -/
  | windowClose (k : Fin 5)
  /-- Q_POP (R579). Q_POP removes the head fault record. -/
  | qPop
  /-- ACT_HOLD_RELEASE (R578). Writing 1 to ACT_HOLD releases an actuator's hold, or is ignored. -/
  | actHoldRelease (mask : BitVec 4) (held : BitVec 4)
  /-- FATAL_RESET_TIMER (R586). FATAL_RST_MS after a fatal detection the FCU requests a device reset. -/
  | fatalResetTimer
  /-- PIP_TOGGLE (R587). A PIP half-period ends and PIP toggles. -/
  | pipToggle
  /-- WDOG_EN (R588). WDOG_EN sets and starts the watchdog interval. -/
  | wdogEn
  /-- WDOG_KICK (R588). WDOG_KICK restarts the watchdog interval. -/
  | wdogKick
  /-- WDOG_MS_WRITE (R588). A write of WDOG_MS applies at once to the running interval. -/
  | wdogMsWrite (ms : BitVec 16) (elapsedMs : BitVec 16)
  /-- WATCHDOG_EXPIRY (R588). The watchdog interval lasts WDOG_MS without a kick and source 385 is detected. -/
  | watchdogExpiry (kick : Bool)
  /-- EXT_RETRACT_REQUEST (R589). A low on RETRACT_REQ_N is accepted and all four actuators retract. -/
  | extRetractRequest
  /-- EXT_RETRACT_END (R589). RETRACT_REQ_N returns high and EXT_RETRACT clears. -/
  | extRetractEnd
  /-- FCU_CNT_CLR (R592). FCU_CNT_CLR clears LOST_CNT and every SRC_CNT. -/
  | fcuCntClr
  /-- TALLY_INLET_ADMIT (R600). The Tally inlet admits one event per cycle, or drops it when full. -/
  | tallyInletAdmit
  /-- TALLY_COMMIT (R601). TLY commits the inlet head entry as a new ring record over eight cycles. -/
  | tallyCommit
  /-- TALLY_REPEAT (R602). An inlet head entry that repeats the last record increments its REPEAT. -/
  | tallyRepeat
  /-- TALLY_FREEZE (R604). A write of FREEZE = 1 stops commits once the commit in progress ends. -/
  | tallyFreeze
  /-- TALLY_UNFREEZE (R604). A write of FREEZE = 0 ends the freeze and the inlet drains. -/
  | tallyUnfreeze
  /-- TALLY_FREEZE_TIMEOUT (R604). FREEZE has been set for 50 ms, clears and sets FREEZE_TIMEOUT. -/
  | tallyFreezeTimeout
  /-- TALLY_ARCHIVE_TIMEOUT (R606). 60 s after the oldest waiting record, archiving is requested. -/
  | tallyArchiveTimeout
  /-- TALLY_ARCHIVE_PROGRAM (R606). At the NOR grant TLY copies records into a program buffer and programs the archive. -/
  | tallyArchiveProgram
  /-- TALLY_PROGRAM_COMPLETE (R606). An archive program completes with read-back, or fails with ARCH_FAIL. -/
  | tallyProgramComplete (ok : Bool)
  /-- TALLY_FLUSH (R607). FLUSH_REQ, TallyFlush or a step F seals the last record and archives every unarchived record. -/
  | tallyFlush
  /-- TALLY_FLUSH_DONE (R607). The flush completes and FLUSH_DONE sets. -/
  | tallyFlushDone
  /-- TALLY_READY (R608). TLY finds the archive's highest SEQ, sets TLY_READY and commits the POWER_ON record. -/
  | tallyReady
  /-- TALLY_CLEAR (R610). An authorised TallyClear empties the ring and inlet and, for CODE 2, erases the archive. -/
  | tallyClear (both : Bool)
  /-- TALLY_CLEAR_DONE (R610). The archive erase completes and archiving restarts. -/
  | tallyClearDone
  /-- LIFE_GROUP_TIMER (R612). Every 8 h of POH_S, TLY writes a LIFE group of 12 records. -/
  | lifeGroupTimer
  /-- FW_EVT_GO (R600). FW_EVT_GO requests a FIRMWARE Tally record. -/
  | fwEvtGo
  /-- POH_TICK (R611). A second with IN_OK = 1 advances POH_S and the thermal minute counters. -/
  | pohTick
  /-- CALENDAR_SET (R613). A write of AON_CAL_HI or the Calendar object loads the calendar and sets CAL_SET. -/
  | calendarSet (ms : BitVec 48)
  /-- THERMAL_SAMPLE (R614). THM samples a sensor every 250 µs and updates THM_MAX and the levels. -/
  | thermalSample (sensor : Fin 12) (value : BitVec 16)
  /-- DRAIN_REQUEST (R659). A write of DRAIN_REQ drains an actuator or resumes issue to it. -/
  | drainRequest (req : BitVec 4)
  /-- ACTV_GO (R663). ACTV_GO stops arrival, halts C1–C3 and sends C0 to the boot ROM warm entry. -/
  | actvGo (overlaps : Bool)
  /-- ACTV_COPY_COMPLETE (R664). The staged image is copied and its digest checked, or the activation fails with a device reset. -/
  | actvCopyComplete (damaged : Bool)
  /-- ACTV_ENTRY (R664). The new firmware's entry point is reached and measurements 2–5 are updated. -/
  | actvEntry
  /-- ACTV_RELEASE (R664). ACTV_RELEASE releases the hold on host commands. -/
  | actvRelease
  /-- ACTV_HOLD_TIMEOUT (R664). The hold reaches 100 ms and is released. -/
  | actvHoldTimeout
  /-- PERT_ARM (R668). A write of PERT_ARM arms or disarms the perturbations. -/
  | pertArm (arm : Bool)
  /-- EXTEST (R675). TAP instruction EXTEST drives the boundary-scan register when the device is parked and stopped. -/
  | extest
  /-- IDCODE (R673). TAP instruction IDCODE selects the identification register. -/
  | idcode
  /-- SAMPLE_PRELOAD (R673). TAP instruction SAMPLE/PRELOAD samples or preloads the boundary-scan register. -/
  | samplePreload (cells : BitVec 32)
  /-- CLAMP (R675). TAP instruction CLAMP holds the boundary outputs with BYPASS selected. -/
  | clamp
  /-- HIGHZ (R675). TAP instruction HIGHZ floats the boundary outputs. -/
  | highz
  /-- DEV_RESET (R673). TAP instruction DEV_RESET requests a device reset at Update-IR. -/
  | devReset
  /-- DEBUG (R673). TAP instruction DEBUG reaches the debug port while debug access is enabled. -/
  | debug
  /-- BYPASS (R673). TAP instruction BYPASS, or any other code, selects the bypass register. -/
  | bypass (code : BitVec 8)
  /-- COHORT_ID_WRITE (R677). A write of COHORT_ID loads COHORT_PHASE from the golden-ratio spread. -/
  | cohortIdWrite (id : BitVec 12)
  /-- COHORT_MARK_EDGE (R678). A rising edge of COHORT_MARK is accepted for phase steering or rejected. -/
  | cohortMarkEdge (elapsed : BitVec 40) (revolution : BitVec 32) (phaseErr : BitVec 16)
  /-- COHORT_LOST (R678). No edge is accepted for twice the expected interval and COHORT_LOST sets. -/
  | cohortLost
  /-- AON_SUPPLY_LOSS (R85). The on-module AON hold-up capacitor runs out after input loss, and the AON domain with its counters, calendar and latches loses its supply. -/
  | aonSupplyLoss
  /-- PCIE_LINK_UP (R155). Link training on a configured port completes at a negotiated rate and width, and LINK_SPEED, LINK_WIDTH and LINK_FLIT take their values. -/
  | pcieLinkUp (port : Fin 4) (speed : Fin 7) (width : BitVec 5) (flit : Bool)
  /-- LINK_L1_2_CHANGE (R101). A configured PCIe port's link enters or leaves L1.2 outside Sleep, LINK_L12 changes, and the SLEEP_DLY_MS interval starts or restarts. -/
  | linkL12Change (port : Fin 4) (inL12 : Bool)
  /-- SAS_LINK_LOSS (R207). A SAS port's link or connection to an initiator is lost, SAS_RATE falls to 0, and the I_T nexus loss time starts. -/
  | sasLinkLoss (port : Fin 2) (nexus : Option (Fin 32))
  /-- I3C_DYNAMIC_ADDRESS_LOSS (R636). The device loses its I3C dynamic address, and an owner at position 4 loses ownership within 1 ms. -/
  | i3cDynamicAddressLoss
  deriving DecidableEq, Repr

end Sys2Proof
end

