-- ==== Sys2Proof/Decode.lean ====
section
/-!
DEFINITION. Decode.lean: the commands that words spell. The opcode table gives no row any bits: a command reaches the block as an
event, a register access or a message, never as an encoded word, so no word spells one.
-/
namespace Sys2Proof

/-- The command that the word `w` of `nbits` bits spells by the opcode table's bits: none, since no row has bits. -/
def decodeTableWord (_nbits _w : Nat) : Option Instr := none

end Sys2Proof
end

