-- ==== Sys2Proof/Config.lean ====
section
/-!
DEFINITION. Config.lean: what the spec leaves open, as constants without a body. Nothing can be proved of their values, so
a claim that holds, holds whatever they are.
-/
namespace Sys2Proof.Config

/-- A value the spec does not state, one for each count of the state's `freeCount` (see the assumption log). -/
opaque freeValue : Nat → Nat

/-- R130, R143, R144: the first `bits` bits of SHAKE256 of a byte string given as its length and its number. -/
opaque shake256 : (bits : Nat) → (len : Nat) → (value : Nat) → Nat

/-- R130, R639: Falcon-1024 verification of (public key, message, signature). -/
opaque falconVerify : (key message signature : Nat) → Bool

/-- R144: the Falcon-1024 public key derived from a seed. -/
opaque falconPublic : (seed : Nat) → Nat

/-- R144, R645: a Falcon-1024 signature made with the private key derived from a seed. -/
opaque falconSign : (seed message nonce : Nat) → Nat

/-- R541: the 64 check bits of STRONG over a word's 512 data bits; the spec gives the code's power, not its matrix. -/
opaque strongCheck : (data : Nat) → Nat

/-- R541: the 11 check bits of LIGHT over a word's 512 data bits. -/
opaque lightCheck : (data : Nat) → Nat

/-- R228, R248, R524: the place of a sector of a zone's band, past slipped sectors, as surface within the actuator, track and
sector, each in 2^24; from the namespace, the zone, the zone's ratio and the sector's number in the band. -/
opaque zonePlace : (ns zone ratio sector : Nat) → Nat

/-- R248: the listed defective sectors a zone's band slips. -/
opaque slipsListed : (ns zone : Nat) → Nat

/-- R524: the location (R337) of a namespace's extern sector. -/
opaque externPlace : (ns index : Nat) → Nat

/-- R224: the recording zone of a surface's track (the format table). -/
opaque recordingZone : (surface track : Nat) → Nat

/-- R226, R237: the conventional band that holds a surface's track, and whether the track is the band's first or last. -/
opaque convBand : (surface track : Nat) → Nat × Bool × Bool

/-- R517: the payload of a Pack block's 65,536 bytes, as its length and its bytes: the spec fixes the token format and that
the transform is deterministic, not which matches are chosen. -/
opaque packPayload : (raw : Nat) → Nat × Nat

/-- R224: sectors per track of a surface's track (the format table). -/
opaque sectorsPerTrack : (surface track : Nat) → Nat

/-- R240: the bytes the n-th change adds to the journal tail. -/
opaque journalBytes : (n : Nat) → Nat

/-- R227: the blocks of host data the data bands hold (the format table). -/
opaque mediaBlocks : Nat

/-- R434: the track of a surface's calibration band nearest the ramp (the format table). -/
opaque parkTrack : (surface : Nat) → Nat

/-- R492: a surface's track lies in its calibration band (the format table). -/
opaque calBand : (surface track : Nat) → Bool

/-- R194: the IEEE company identifier assigned to Oznober, 24 bits. -/
opaque sasCompanyId : Nat

/-- R673: Oznober's JEDEC manufacturer identity, 11 bits. -/
opaque jedecId : Nat

/-- R627, R645: Oznober's PCI-SIG vendor identifier, 16 bits. -/
opaque pciVendorId : Nat

/-- R647: SHAKE256-512 of the boot ROM. -/
opaque bootRomDigest : Nat

/-- R647: SHAKE256-512 of the sequencers' ROM. -/
opaque fsqRomDigest : Nat

/-- R646: the alias certificate, as its length in bytes and its bytes: from the DevID key's seed that signs it, the alias public
key, and measurements 2 to 5. -/
opaque aliasCert : (devid key measurements : Nat) → Nat × Nat

end Sys2Proof.Config
end

