-- ==== Sys2Proof/Machine/Regs.lean ====
section
/-!
DEFINITION. Machine/Regs.lean: every register field of the device, by the manual's own field name, and the table of the
registers with each field's access code, clamp and reset word (R7 to R11, R19, and the field maps of every chapter).
-/
namespace Sys2Proof.Machine

/-- A register field: its register's address, its lowest bit, its width, and its register's reset word. -/
structure Fld where
  addr : Nat
  lo : Nat
  width : Nat
  rst : Nat
  deriving DecidableEq, Repr

/-- The access codes of R7. -/
inductive Acc where
  | ro | rw | wo | w1c | w1s
  deriving DecidableEq, Repr

/-- How a write of a field's value is limited. `own`: by a rule of the field's own, applied where the write is. -/
inductive Clamp where
  | none
  | range (lo hi : Nat)
  | nonzero (lo hi : Nat)
  | signed (lim : Nat)
  | even (lo hi : Nat)
  | own
  deriving DecidableEq, Repr

/-- One field of a register's row. `anyClears := some v`: writing 1 to any bit of the field sets the whole field to `v`. -/
structure FldRow where
  lo : Nat
  width : Nat
  acc : Acc
  clamp : Clamp
  anyClears : Option Nat
  deriving DecidableEq, Repr

/-- One register, or one array of them: dims lists (count, stride) by falling stride. -/
structure RegRow where
  base : Nat
  dims : List (Nat × Nat)
  rst : List Nat → Nat
  fields : List FldRow

/-- R590: the table default of fault source `i`, as the row of R574 its class and steps select; none for a reserved
number. Row 0 is C, 2 is U, 4 is U W A H, 5 is U W A H R, 6 is F. -/
def srcDefault (i : Nat) : Option Nat :=
  if i < 4 then some 0 else if i < 12 then some 2 else if i < 14 then some 0
  else if i = 14 then some 2 else if i = 15 then some 0 else if i = 16 then some 6
  else if i = 40 then some 0 else if i = 41 then some 6 else if i = 56 then some 6
  else if i = 64 then some 0 else if i = 65 then some 6 else if i = 66 then some 2
  else if i = 80 then some 0 else if i = 81 then some 2 else if i = 88 then some 2
  else if i = 89 then some 2 else if i = 96 then some 0 else if i = 97 then some 2
  else if i = 98 then some 6 else if i = 112 then some 0 else if i = 113 then some 2
  else if i = 128 then some 0 else if i = 129 then some 2 else if i = 130 then some 6
  else if 144 ≤ i ∧ i < 208 ∧ i % 16 < 3 then some 4
  else if 208 ≤ i ∧ i < 272 ∧ i % 16 < 3 then some 4
  else if 272 ≤ i ∧ i < 280 then some 5 else if 280 ≤ i ∧ i < 284 then some 2
  else if 284 ≤ i ∧ i < 288 then some 0 else if i = 288 then some 2
  else if 289 ≤ i ∧ i < 292 then some 0 else if 292 ≤ i ∧ i < 294 then some 6
  else if 320 ≤ i ∧ i < 325 then some 5 else if 325 ≤ i ∧ i < 333 then some 4
  else if 333 ≤ i ∧ i < 337 then some 2 else if i = 352 then some 0 else if i = 353 then some 4
  else if i = 368 then some 5 else if i = 369 then some 0
  else if 370 ≤ i ∧ i < 374 then some 4 else if i = 374 then some 0
  else if i = 384 then some 5 else if 385 ≤ i ∧ i < 388 then some 6
  else if 392 ≤ i ∧ i < 394 then some 0 else if 396 ≤ i ∧ i < 408 then some 2
  else if 408 ≤ i ∧ i < 410 then some 0 else if i = 410 then some 6
  else if 412 ≤ i ∧ i < 414 then some 6 else if i = 414 then some 2
  else if i = 420 then some 6 else if 424 ≤ i ∧ i < 426 then some 6
  else if i = 440 then some 2 else if 448 ≤ i ∧ i < 450 then some 0
  else if i = 450 then some 2 else if 456 ≤ i ∧ i < 458 then some 0
  else none

/-- R590: the sources marked locked. -/
def srcLocked (i : Nat) : Bool :=
  i = 292 || i = 368 || i = 384 || i = 385 || i = 386 || i = 387 || i = 410

/-- R590: the actuator a source's scope is limited to; none for device scope. -/
def srcActuator (i : Nat) : Option Nat :=
  if 144 ≤ i ∧ i < 208 then some ((i - 144) / 16)
  else if 208 ≤ i ∧ i < 272 then some ((i - 208) / 16)
  else if 272 ≤ i ∧ i < 288 then some (i % 4)
  else if 321 ≤ i ∧ i < 325 then some (i - 321)
  else if 325 ≤ i ∧ i < 333 then some ((i - 325) / 2)
  else if 333 ≤ i ∧ i < 337 then some (i - 333)
  else if 370 ≤ i ∧ i < 374 then some (i - 370)
  else none

/-- R574: the reset word of FCU_SEV_ACTs. -/
def sevActReset (s : Nat) : Nat :=
  if s = 0 then 1 else if s = 1 then 1 else if s = 2 then 2
  else if s = 3 then 2 + 4 else if s = 4 then 2 + 4 + 8 + 16
  else if s = 5 then 2 + 4 + 8 + 16 + 32 else 3

/-- R574, R590, R595: the reset word of FCU_SRC_CFGi; 0 for a reserved source. -/
def srcCfgReset (i : Nat) : Nat :=
  match srcDefault i with
  | none => 0
  | some r => (if r = 0 then 1 else if r = 6 then 3 else 2) + 4 * r + 32 + (if srcLocked i then 64 else 0)

namespace R

/-- R40, EVR, register EVR_ROUTE_n, bits [3:0], RW. -/
def ROUTE_CORES (l : Nat) : Fld := ⟨0x40440000 + 0x4 * l, 0, 4, 0⟩
/-- R40, EVR, register EVR_ROUTE_n, bits [5:4], RW. -/
def ROUTE_PRIO (l : Nat) : Fld := ⟨0x40440000 + 0x4 * l, 4, 2, 0⟩
/-- R40, EVR, register EVR_ROUTE_n, bits [31], RO. -/
def ROUTE_PEND (l : Nat) : Fld := ⟨0x40440000 + 0x4 * l, 31, 1, 0⟩
/-- R41, EVR, register EVR_PEND_k, bits [31:0], W1C. -/
def PEND_BITS (k : Nat) : Fld := ⟨0x40440400 + 0x4 * k, 0, 32, 0⟩
/-- R42, EVR, register EVR_CLAIM_c, bits [7:0], RO. -/
def CLAIM_LINE (c : Nat) : Fld := ⟨0x40440500 + 0x4 * c, 0, 8, 0⟩
/-- R42, EVR, register EVR_CLAIM_c, bits [31], RO. -/
def CLAIM_VALID (c : Nat) : Fld := ⟨0x40440500 + 0x4 * c, 31, 1, 0⟩
/-- R43, EVR, register EVR_TOKEN, bits [1:0], RO. -/
def CLAIM_TOKEN : Fld := ⟨0x40440600, 0, 2, 0⟩
/-- R43, EVR, register EVR_CORE_IRQ, bits [3:0], RO. -/
def IRQ_ASSERTED : Fld := ⟨0x40440604, 0, 4, 0⟩
/-- R43, EVR, register EVR_SOFT, bits [23:0], W1S. -/
def SOFT_SET : Fld := ⟨0x40440608, 0, 24, 0⟩
/-- R86, PWR, register PWR_STAT, bits [0], RO. -/
def IN_OK : Fld := ⟨0x40330000, 0, 1, 0⟩
/-- R86, PWR, register PWR_STAT, bits [1], RO. -/
def PF_ACTIVE : Fld := ⟨0x40330000, 1, 1, 0⟩
/-- R86, PWR, register PWR_STAT, bits [2], RO. -/
def HOLDUP_OK : Fld := ⟨0x40330000, 2, 1, 0⟩
/-- R86, PWR, register PWR_STAT, bits [3], RO. -/
def OV_RIDE : Fld := ⟨0x40330000, 3, 1, 0⟩
/-- R86, PWR, register PWR_STAT, bits [4], RO. -/
def SPM_REGEN : Fld := ⟨0x40330000, 4, 1, 0⟩
/-- R86, PWR, register PWR_STAT, bits [5], RO. -/
def INRUSH_DONE : Fld := ⟨0x40330000, 5, 1, 0⟩
/-- R86, PWR, register PWR_STAT, bits [11:8], RO. -/
def PA_RAIL_OK : Fld := ⟨0x40330000, 8, 4, 0⟩
/-- R86, PWR, register PWR_STAT, bits [15:12], W1C. -/
def PA_RAIL_OC : Fld := ⟨0x40330000, 12, 4, 0⟩
/-- R86, PWR, register PWR_STAT, bits [16], W1C. -/
def OV_EVENT : Fld := ⟨0x40330000, 16, 1, 0⟩
/-- R87, PWR, register PWR_PF_CFG, bits [9:0], RW. -/
def PF_THRESH_DV : Fld := ⟨0x40330004, 0, 10, 0x28014A⟩
/-- R87, PWR, register PWR_PF_CFG, bits [23:16], RW. -/
def REGEN_SETPT : Fld := ⟨0x40330004, 16, 8, 0x28014A⟩
/-- R87, PWR, register PWR_PF_CFG, bits [31], W1S. -/
def CFG_LOCK : Fld := ⟨0x40330004, 31, 1, 0x28014A⟩
/-- R88, PWR, register PWR_IN_MON, bits [15:0], RO. -/
def VIN_10MV : Fld := ⟨0x40330008, 0, 16, 0⟩
/-- R88, PWR, register PWR_IN_MON, bits [31:16], RO. -/
def PIN_10MW : Fld := ⟨0x40330008, 16, 16, 0⟩
/-- R88, PWR, register PWR_PA_CTL, bits [3:0], RW. -/
def PA_EN : Fld := ⟨0x4033000C, 0, 4, 0⟩
/-- R88, PWR, register PWR_PA_CTL, bits [7:4], RW. -/
def PASST_EN : Fld := ⟨0x4033000C, 4, 4, 0⟩
/-- R88, PWR, register PWR_HOLDUP, bits [15:0], RO. -/
def HOLDUP_MJ : Fld := ⟨0x40330010, 0, 16, 0x251C0000⟩
/-- R88, PWR, register PWR_HOLDUP, bits [31:16], RW. -/
def HOLDUP_NEED_MJ : Fld := ⟨0x40330010, 16, 16, 0x251C0000⟩
/-- R113, AON, register AON_CLK_STAT, bits [0], RO. -/
def XT32_OK : Fld := ⟨0x40430100, 0, 1, 0⟩
/-- R113, AON, register AON_CLK_STAT, bits [1], RO. -/
def XT25_OK : Fld := ⟨0x40430100, 1, 1, 0⟩
/-- R113, AON, register AON_CLK_STAT, bits [2], RO. -/
def CCLK_LOCK : Fld := ⟨0x40430100, 2, 1, 0⟩
/-- R113, AON, register AON_CLK_STAT, bits [3], RO. -/
def ACLK_LOCK : Fld := ⟨0x40430100, 3, 1, 0⟩
/-- R113, AON, register AON_CLK_STAT, bits [4], RO. -/
def SCLK_LOCK : Fld := ⟨0x40430100, 4, 1, 0⟩
/-- R113, AON, register AON_CLK_STAT, bits [5], RO. -/
def DCLK_LOCK : Fld := ⟨0x40430100, 5, 1, 0⟩
/-- R113, AON, register AON_CLK_STAT, bits [6], RO. -/
def SASCLK_LOCK : Fld := ⟨0x40430100, 6, 1, 0⟩
/-- R113, AON, register AON_CLK_STAT, bits [7], RO. -/
def CCLK_LOW : Fld := ⟨0x40430100, 7, 1, 0⟩
/-- R113, AON, register AON_CLK_STAT, bits [23:16], W1C. -/
def PLL_UNLOCK_CNT : Fld := ⟨0x40430100, 16, 8, 0⟩
/-- R114, AON, register AON_PSTATE, bits [2:0], RO. -/
def PSTATE_NOW : Fld := ⟨0x40430104, 0, 3, 0x300⟩
/-- R114, AON, register AON_PSTATE, bits [5:3], RO. -/
def PSTATE_TARGET : Fld := ⟨0x40430104, 3, 3, 0x300⟩
/-- R114, AON, register AON_PSTATE, bits [6], RO. -/
def PSTATE_BUSY : Fld := ⟨0x40430104, 6, 1, 0x300⟩
/-- R114, AON, register AON_PSTATE, bits [10:8], RW. -/
def IDLE_DEPTH_MAX : Fld := ⟨0x40430104, 8, 3, 0x300⟩
/-- R114, AON, register AON_PSTATE, bits [14:12], RO. -/
def REQ_DEPTH : Fld := ⟨0x40430104, 12, 3, 0x300⟩
/-- R115, AON, register AON_IDLE_A, bits [23:0], RW. -/
def IDLE_A_MS : Fld := ⟨0x40430108, 0, 24, 0x64⟩
/-- R115, AON, register AON_IDLE_B, bits [23:0], RW. -/
def IDLE_B_MS : Fld := ⟨0x4043010C, 0, 24, 0x1D4C0⟩
/-- R115, AON, register AON_IDLE_C, bits [23:0], RW. -/
def IDLE_C_MS : Fld := ⟨0x40430110, 0, 24, 0x927C0⟩
/-- R115, AON, register AON_IDLE_S, bits [23:0], RW. -/
def IDLE_S_MS : Fld := ⟨0x40430114, 0, 24, 0x36EE80⟩
/-- R115, AON, register AON_SLEEP_CFG, bits [15:0], RW. -/
def SLEEP_DLY_MS : Fld := ⟨0x40430118, 0, 16, 0x10064⟩
/-- R115, AON, register AON_SLEEP_CFG, bits [16], RW. -/
def SLEEP_EN : Fld := ⟨0x40430118, 16, 1, 0x10064⟩
/-- R115, AON, register AON_XTAL_TC, bits [15:0], RW. -/
def TC_COEF : Fld := ⟨0x4043011C, 0, 16, 0x19FFDE⟩
/-- R115, AON, register AON_XTAL_TC, bits [23:16], RW. -/
def TC_TURN : Fld := ⟨0x4043011C, 16, 8, 0x19FFDE⟩
/-- R147, AON, register AON_RST_CAUSE, bits [0], W1C. -/
def RC_AON_POR : Fld := ⟨0x40430120, 0, 1, 0x1⟩
/-- R147, AON, register AON_RST_CAUSE, bits [1], W1C. -/
def RC_POR : Fld := ⟨0x40430120, 1, 1, 0x1⟩
/-- R147, AON, register AON_RST_CAUSE, bits [2], W1C. -/
def RC_PF_RESTART : Fld := ⟨0x40430120, 2, 1, 0x1⟩
/-- R147, AON, register AON_RST_CAUSE, bits [3], W1C. -/
def RC_FCU : Fld := ⟨0x40430120, 3, 1, 0x1⟩
/-- R147, AON, register AON_RST_CAUSE, bits [4], W1C. -/
def RC_SW : Fld := ⟨0x40430120, 4, 1, 0x1⟩
/-- R147, AON, register AON_RST_CAUSE, bits [5], W1C. -/
def RC_JTAG : Fld := ⟨0x40430120, 5, 1, 0x1⟩
/-- R147, AON, register AON_RST_CAUSE, bits [6], W1C. -/
def RC_PERST : Fld := ⟨0x40430120, 6, 1, 0x1⟩
/-- R147, AON, register AON_RST_CAUSE, bits [11:8], W1C. -/
def RC_ACT : Fld := ⟨0x40430120, 8, 4, 0x1⟩
/-- R148, AON, register AON_RST_CTL, bits [15:0], WO. -/
def RST_KEY : Fld := ⟨0x40430124, 0, 16, 0⟩
/-- R148, AON, register AON_RST_CTL, bits [16], WO. -/
def RST_DEVICE : Fld := ⟨0x40430124, 16, 1, 0⟩
/-- R148, AON, register AON_RST_CTL, bits [23:20], WO. -/
def RST_ACT : Fld := ⟨0x40430124, 20, 4, 0⟩
/-- R149, SEC, register SEC_BOOT_STAT, bits [0], RO. -/
def BOOT_SLOT : Fld := ⟨0x40500000, 0, 1, 0xFF00FF00⟩
/-- R149, SEC, register SEC_BOOT_STAT, bits [1], RO. -/
def BOOT_FALLBACK : Fld := ⟨0x40500000, 1, 1, 0xFF00FF00⟩
/-- R149, SEC, register SEC_BOOT_STAT, bits [2], RO. -/
def BOOT_TRIAL : Fld := ⟨0x40500000, 2, 1, 0xFF00FF00⟩
/-- R149, SEC, register SEC_BOOT_STAT, bits [3], RO. -/
def BOOT_RECOVERY : Fld := ⟨0x40500000, 3, 1, 0xFF00FF00⟩
/-- R149, SEC, register SEC_BOOT_STAT, bits [4], RO. -/
def MC_LOADED : Fld := ⟨0x40500000, 4, 1, 0xFF00FF00⟩
/-- R149, SEC, register SEC_BOOT_STAT, bits [7:5], RO. -/
def BOOT_KEYSLOT : Fld := ⟨0x40500000, 5, 3, 0xFF00FF00⟩
/-- R149, SEC, register SEC_BOOT_STAT, bits [11:8], RO. -/
def FAIL_A : Fld := ⟨0x40500000, 8, 4, 0xFF00FF00⟩
/-- R149, SEC, register SEC_BOOT_STAT, bits [15:12], RO. -/
def FAIL_B : Fld := ⟨0x40500000, 12, 4, 0xFF00FF00⟩
/-- R149, SEC, register SEC_BOOT_STAT, bits [22:16], RO. -/
def BOOT_SVN : Fld := ⟨0x40500000, 16, 7, 0xFF00FF00⟩
/-- R149, SEC, register SEC_BOOT_STAT, bits [23], RO. -/
def MC_SLOT : Fld := ⟨0x40500000, 23, 1, 0xFF00FF00⟩
/-- R149, SEC, register SEC_BOOT_STAT, bits [27:24], RO. -/
def MC_FAIL_A : Fld := ⟨0x40500000, 24, 4, 0xFF00FF00⟩
/-- R149, SEC, register SEC_BOOT_STAT, bits [31:28], RO. -/
def MC_FAIL_B : Fld := ⟨0x40500000, 28, 4, 0xFF00FF00⟩
/-- R149, SEC, register SEC_KEY_STAT, bits [7:0], RO. -/
def KEY_PROG : Fld := ⟨0x40500004, 0, 8, 0⟩
/-- R149, SEC, register SEC_KEY_STAT, bits [15:8], RO. -/
def KEY_REVOKED : Fld := ⟨0x40500004, 8, 8, 0⟩
/-- R149, SEC, register SEC_KEY_STAT, bits [16], RO. -/
def DEVID_READY : Fld := ⟨0x40500004, 16, 1, 0⟩
/-- R149, SEC, register SEC_KEY_STAT, bits [17], RO. -/
def ALIAS_READY : Fld := ⟨0x40500004, 17, 1, 0⟩
/-- R149, SEC, register SEC_ARB, bits [6:0], RO. -/
def FW_SVN_MIN : Fld := ⟨0x40500008, 0, 7, 0⟩
/-- R149, SEC, register SEC_ARB, bits [13:8], RO. -/
def MC_SVN_MIN : Fld := ⟨0x40500008, 8, 6, 0⟩
/-- R150, SEC, register SEC_ID_LOT0, bits [31:0], RO. -/
def LOT_LO : Fld := ⟨0x40500020, 0, 32, 0⟩
/-- R150, SEC, register SEC_ID_LOT1, bits [31:0], RO. -/
def LOT_HI : Fld := ⟨0x40500024, 0, 32, 0⟩
/-- R150, SEC, register SEC_ID_DIE, bits [7:0], RO. -/
def WAFER_NUM : Fld := ⟨0x40500028, 0, 8, 0⟩
/-- R150, SEC, register SEC_ID_DIE, bits [15:8], RO. -/
def DIE_X : Fld := ⟨0x40500028, 8, 8, 0⟩
/-- R150, SEC, register SEC_ID_DIE, bits [23:16], RO. -/
def DIE_Y : Fld := ⟨0x40500028, 16, 8, 0⟩
/-- R150, SEC, register SEC_ID_DIE, bits [27:24], RO. -/
def STEPPING : Fld := ⟨0x40500028, 24, 4, 0⟩
/-- R150, SEC, register SEC_ID_DIE, bits [29:28], RO. -/
def LIFECYCLE : Fld := ⟨0x40500028, 28, 2, 0⟩
/-- R150, SEC, register SEC_ID_DIE, bits [31:30], RO. -/
def VARIANT : Fld := ⟨0x40500028, 30, 2, 0⟩
/-- R150, SEC, register SEC_ID_SERIALk, bits [31:0], RO. -/
def SERIAL_W (k : Nat) : Fld := ⟨0x40500030 + 0x4 * k, 0, 32, 0⟩
/-- R150, SEC, register SEC_DEVID_HASHk, bits [31:0], RO. -/
def DEVID_HASH_W (k : Nat) : Fld := ⟨0x40500040 + 0x4 * k, 0, 32, 0⟩
/-- R151, KSC, register KSC_IMG_STAT, bits [1:0], RO. -/
def IMG_VALID : Fld := ⟨0x40070200, 0, 2, 0⟩
/-- R151, KSC, register KSC_IMG_STAT, bits [3:2], RO. -/
def IMG_UNCONSUMED : Fld := ⟨0x40070200, 2, 2, 0⟩
/-- R151, KSC, register KSC_IMG_STAT, bits [4], RO. -/
def REPLAY_BUSY : Fld := ⟨0x40070200, 4, 1, 0⟩
/-- R151, KSC, register KSC_IMG_STAT, bits [5], W1C. -/
def REPLAY_ERR : Fld := ⟨0x40070200, 5, 1, 0⟩
/-- R151, KSC, register KSC_IMG_STAT, bits [6], W1C. -/
def CONSUME_REFUSED : Fld := ⟨0x40070200, 6, 1, 0⟩
/-- R151, KSC, register KSC_REPLAY_CTL, bits [0], RW. -/
def REPLAY_AREA : Fld := ⟨0x40070204, 0, 1, 0⟩
/-- R151, KSC, register KSC_REPLAY_CTL, bits [1], W1S. -/
def REPLAY_GO : Fld := ⟨0x40070204, 1, 1, 0⟩
/-- R151, KSC, register KSC_REPLAY_CTL, bits [2], W1S. -/
def CONSUME : Fld := ⟨0x40070204, 2, 1, 0⟩
/-- R151, KSC, register KSC_IMG_SEQk, bits [31:0], RO. -/
def IMG_SEQ (k : Nat) : Fld := ⟨0x40070208 + 0x4 * k, 0, 32, 0⟩
/-- R189, HIF, register HIF_PORT_STATk, bits [0], RO. -/
def PORT_PRESENT (k : Nat) : Fld := ⟨0x40000100 + 0x4 * k, 0, 1, 0⟩
/-- R189, HIF, register HIF_PORT_STATk, bits [3:1], RO. -/
def LINK_SPEED (k : Nat) : Fld := ⟨0x40000100 + 0x4 * k, 1, 3, 0⟩
/-- R189, HIF, register HIF_PORT_STATk, bits [8:4], RO. -/
def LINK_WIDTH (k : Nat) : Fld := ⟨0x40000100 + 0x4 * k, 4, 5, 0⟩
/-- R189, HIF, register HIF_PORT_STATk, bits [9], RO. -/
def LINK_FLIT (k : Nat) : Fld := ⟨0x40000100 + 0x4 * k, 9, 1, 0⟩
/-- R189, HIF, register HIF_PORT_STATk, bits [10], RO. -/
def LINK_L12 (k : Nat) : Fld := ⟨0x40000100 + 0x4 * k, 10, 1, 0⟩
/-- R189, HIF, register HIF_PORT_STATk, bits [11], RO. -/
def CTRL_EN (k : Nat) : Fld := ⟨0x40000100 + 0x4 * k, 11, 1, 0⟩
/-- R189, HIF, register HIF_PORT_STATk, bits [12], RO. -/
def CTRL_RDY (k : Nat) : Fld := ⟨0x40000100 + 0x4 * k, 12, 1, 0⟩
/-- R189, HIF, register HIF_PORT_STATk, bits [13], RO. -/
def CTRL_CFS (k : Nat) : Fld := ⟨0x40000100 + 0x4 * k, 13, 1, 0⟩
/-- R189, HIF, register HIF_PORT_STATk, bits [14], W1C. -/
def PORT_RESET_EV (k : Nat) : Fld := ⟨0x40000100 + 0x4 * k, 14, 1, 0⟩
/-- R189, HIF, register HIF_PORT_STATk, bits [31:16], W1C. -/
def DB_ERR_CNT (k : Nat) : Fld := ⟨0x40000100 + 0x4 * k, 16, 16, 0⟩
/-- R190, CMU, register CMU_TAG_RSVk, bits [13:0], RW. -/
def TAG_RSV (k : Nat) : Fld := ⟨0x40010000 + 0x4 * k, 0, 14, if k < 4 then 512 else 256⟩
/-- R190, CMU, register CMU_TAG_USEk, bits [13:0], RO. -/
def TAGS_HELD (k : Nat) : Fld := ⟨0x40010040 + 0x4 * k, 0, 14, 0⟩
/-- R191, CMU, register CMU_TAG_STAT, bits [13:0], RO. -/
def TAGS_FREE : Fld := ⟨0x40010020, 0, 14, 0⟩
/-- R191, CMU, register CMU_TAG_STAT, bits [14], W1C. -/
def TAG_CFG_ERR : Fld := ⟨0x40010020, 14, 1, 0⟩
/-- R191, CMU, register CMU_TAG_STAT, bits [15], W1C. -/
def QUOTA_ERR : Fld := ⟨0x40010020, 15, 1, 0⟩
/-- R191, CMU, register CMU_QUOTAk, bits [14:0], RW. -/
def Q_QUOTA (k : Nat) : Fld := ⟨0x40010060 + 0x4 * k, 0, 15, 0⟩
/-- R191, CMU, register CMU_QUOTAk, bits [30:16], RO. -/
def Q_GRANTED (k : Nat) : Fld := ⟨0x40010060 + 0x4 * k, 16, 15, 0⟩
/-- R191, CMU, register CMU_TOKENS, bits [1:0], RO. -/
def FETCH_TOKEN : Fld := ⟨0x40010080, 0, 2, 0⟩
/-- R191, CMU, register CMU_TOKENS, bits [2], RO. -/
def CMT_TOKEN : Fld := ⟨0x40010080, 2, 1, 0⟩
/-- R191, CMU, register CMU_ABORT_CNT, bits [15:0], RO. -/
def ABORT_DONE : Fld := ⟨0x40010084, 0, 16, 0⟩
/-- R191, CMU, register CMU_ABORT_CNT, bits [31:16], RO. -/
def ABORT_MISSED : Fld := ⟨0x40010084, 16, 16, 0⟩
/-- R218, HIF, register HIF_SAS_STATk, bits [2:0], RO. -/
def SAS_RATE (k : Nat) : Fld := ⟨0x40000200 + 0x4 * k, 0, 3, 0⟩
/-- R218, HIF, register HIF_SAS_STATk, bits [3], RO. -/
def SAS_FEC (k : Nat) : Fld := ⟨0x40000200 + 0x4 * k, 3, 1, 0⟩
/-- R218, HIF, register HIF_SAS_STATk, bits [9:4], RO. -/
def NEXUS_CNT (k : Nat) : Fld := ⟨0x40000200 + 0x4 * k, 4, 6, 0⟩
/-- R218, HIF, register HIF_SAS_STATk, bits [17:10], RO. -/
def INLET_USED (k : Nat) : Fld := ⟨0x40000200 + 0x4 * k, 10, 8, 0⟩
/-- R218, HIF, register HIF_SAS_STATk, bits [31:18], W1C. -/
def TSF_CNT (k : Nat) : Fld := ⟨0x40000200 + 0x4 * k, 18, 14, 0⟩
/-- R219, HIF, register HIF_SAS_CFGk, bits [9:0], RW. -/
def XRDY_MAX_4K (k : Nat) : Fld := ⟨0x40000210 + 0x4 * k, 0, 10, 0x3040⟩
/-- R219, HIF, register HIF_SAS_CFGk, bits [13:12], RW. -/
def SAS_MAX_RATE (k : Nat) : Fld := ⟨0x40000210 + 0x4 * k, 12, 2, 0x3040⟩
/-- R220, CMU, register CMU_ARRIVE, bits [1:0], RO. -/
def ARRIVE_TOKEN : Fld := ⟨0x40010088, 0, 2, 0⟩
/-- R221, HZT, register HZT_STAT, bits [13:0], RO. -/
def ENTRIES_USED : Fld := ⟨0x40020000, 0, 14, 0⟩
/-- R221, HZT, register HZT_STAT, bits [14], RO. -/
def ARRIVAL_STALL : Fld := ⟨0x40020000, 14, 1, 0⟩
/-- R221, HZT, register HZT_STAT, bits [29:16], W1C. -/
def ENTRIES_PEAK : Fld := ⟨0x40020000, 16, 14, 0⟩
/-- R221, HZT, register HZT_CNT, bits [13:0], RO. -/
def HELD_CMDS : Fld := ⟨0x40020004, 0, 14, 0⟩
/-- R221, HZT, register HZT_CNT, bits [31:16], RO. -/
def BARRIERS : Fld := ⟨0x40020004, 16, 16, 0⟩
/-- R221, HZT, register HZT_ORD_SIDk, bits [15:0], RW. -/
def ORD_SID (k : Nat) : Fld := ⟨0x40020100 + 0x4 * k, 0, 16, 0⟩
/-- R254, MTU, register MTU_CTX_CFG, bits [11:0], RW. -/
def ZONE_CTX_COUNT : Fld := ⟨0x40030000, 0, 12, 0xF00⟩
/-- R254, MTU, register MTU_CTX_CFG, bits [27:16], RO. -/
def ZONES_ACTIVE : Fld := ⟨0x40030000, 16, 12, 0xF00⟩
/-- R254, MTU, register MTU_CTX_CFG, bits [31], W1C. -/
def CTX_CFG_ERR : Fld := ⟨0x40030000, 31, 1, 0xF00⟩
/-- R254, MTU, register MTU_BUF, bits [13:0], RO. -/
def BUF_USED_64K : Fld := ⟨0x40030004, 0, 14, 0x4B0000⟩
/-- R254, MTU, register MTU_BUF, bits [22:16], RW. -/
def BUF_HWM_PCT : Fld := ⟨0x40030004, 16, 7, 0x4B0000⟩
/-- R255, MTU, register MTU_JRNL, bits [5:0], RO. -/
def JRNL_TAIL_256K : Fld := ⟨0x40030008, 0, 6, 0x1000⟩
/-- R255, MTU, register MTU_JRNL, bits [12:8], RW. -/
def JRNL_WM_256K : Fld := ⟨0x40030008, 8, 5, 0x1000⟩
/-- R255, MTU, register MTU_JRNL, bits [16], RO. -/
def JRNL_FULL_STALL : Fld := ⟨0x40030008, 16, 1, 0x1000⟩
/-- R255, MTU, register MTU_CONV, bits [7:0], RW. -/
def FREE_BANDS_LOW : Fld := ⟨0x4003000C, 0, 8, 0x840⟩
/-- R255, MTU, register MTU_CONV, bits [15:8], RW. -/
def FREE_BANDS_MIN : Fld := ⟨0x4003000C, 8, 8, 0x840⟩
/-- R255, MTU, register MTU_CONV, bits [16], RO. -/
def MAP_LOADED : Fld := ⟨0x4003000C, 16, 1, 0x840⟩
/-- R255, MTU, register MTU_CONV, bits [17], RO. -/
def CONV_WRITE_STALL : Fld := ⟨0x4003000C, 17, 1, 0x840⟩
/-- R255, MTU, register MTU_CONV_FREE, bits [23:0], RO. -/
def CONV_FREE_BANDS : Fld := ⟨0x40030010, 0, 24, 0⟩
/-- R256, MTU, register MTU_RELOC, bits [2:0], RW. -/
def RELOC_STEP : Fld := ⟨0x40030014, 0, 3, 0xB⟩
/-- R256, MTU, register MTU_RELOC, bits [3], RW. -/
def RELOC_BLIND_EN : Fld := ⟨0x40030014, 3, 1, 0xB⟩
/-- R256, MTU, register MTU_RELOC, bits [26:16], RO. -/
def RELOC_WATCH_USED : Fld := ⟨0x40030014, 16, 11, 0xB⟩
/-- R256, MTU, register MTU_RELOC_CNT, bits [18:0], RO. -/
def RELOC_USED : Fld := ⟨0x40030018, 0, 19, 0⟩
/-- R256, MTU, register MTU_RELOC_CNT, bits [31:19], W1C. -/
def RELOC_SKIPPED : Fld := ⟨0x40030018, 19, 13, 0⟩
/-- R256, MTU, register MTU_SCHED_CFG, bits [9:0], RW. -/
def SCHED_AGE_MS : Fld := ⟨0x40030020, 0, 10, 0x1F4⟩
/-- R256, MTU, register MTU_SCHED_CFG, bits [27:16], RW. -/
def PAIR_SPAN_TRK : Fld := ⟨0x40030020, 16, 12, 0x1F4⟩
/-- R256, MTU, register MTU_ACT_STATn, bits [12:0], RO. -/
def QUEUE_DEPTH (n : Nat) : Fld := ⟨0x40030040 + 0x4 * n, 0, 13, 0⟩
/-- R256, MTU, register MTU_ACT_STATn, bits [13], RO. -/
def ACT_DRAINED (n : Nat) : Fld := ⟨0x40030040 + 0x4 * n, 13, 1, 0⟩
/-- R256, MTU, register MTU_ACT_STATn, bits [14], W1S. -/
def ACT_FAIL_DECL (n : Nat) : Fld := ⟨0x40030040 + 0x4 * n, 14, 1, 0⟩
/-- R285, MCA, register MCA_CTL, bits [0], RW. -/
def MC_PF_EN : Fld := ⟨0x40040000, 0, 1, 0x9⟩
/-- R285, MCA, register MCA_CTL, bits [3:1], RW. -/
def MC_PF_DEPTH : Fld := ⟨0x40040000, 1, 3, 0x9⟩
/-- R285, MCA, register MCA_CTL, bits [8], W1S. -/
def MAP_RESUME : Fld := ⟨0x40040000, 8, 1, 0x9⟩
/-- R285, MCA, register MCA_CTL, bits [9], W1S. -/
def MC_CNT_CLR : Fld := ⟨0x40040000, 9, 1, 0x9⟩
/-- R285, MCA, register MCA_STAT, bits [0], RO. -/
def CACHE_INIT_DONE : Fld := ⟨0x40040004, 0, 1, 0⟩
/-- R285, MCA, register MCA_STAT, bits [1], RO. -/
def MAP_HALT : Fld := ⟨0x40040004, 1, 1, 0⟩
/-- R285, MCA, register MCA_STAT, bits [2], RO. -/
def RANGE_BUSY : Fld := ⟨0x40040004, 2, 1, 0⟩
/-- R285, MCA, register MCA_STAT, bits [3], W1C. -/
def LOCK_OVF : Fld := ⟨0x40040004, 3, 1, 0⟩
/-- R285, MCA, register MCA_STAT, bits [4], W1C. -/
def LOCK_CFG_ERR : Fld := ⟨0x40040004, 4, 1, 0⟩
/-- R285, MCA, register MCA_STAT, bits [5], W1C. -/
def WIN_CFG_ERR : Fld := ⟨0x40040004, 5, 1, 0⟩
/-- R285, MCA, register MCA_STAT, bits [6], W1C. -/
def FILL_POISON : Fld := ⟨0x40040004, 6, 1, 0⟩
/-- R285, MCA, register MCA_STAT, bits [7], W1C. -/
def RANGE_CFG_ERR : Fld := ⟨0x40040004, 7, 1, 0⟩
/-- R285, MCA, register MCA_STAT, bits [20:8], RO. -/
def LE_COUNT : Fld := ⟨0x40040004, 8, 13, 0⟩
/-- R285, MCA, register MCA_TOKEN, bits [1:0], RO. -/
def PIPE_TOKEN : Fld := ⟨0x40040008, 0, 2, 0⟩
/-- R285, MCA, register MCA_FAULT, bits [27:0], RO. -/
def MC_FAULT_LINE : Fld := ⟨0x4004000C, 0, 28, 0⟩
/-- R286, MCA, register MCA_WIN_BASEk, bits [14:0], RW. -/
def WIN_BASE (k : Nat) : Fld := ⟨0x40040020 + 0x8 * k, 0, 15, 0⟩
/-- R286, MCA, register MCA_WIN_BASEk, bits [31], RW. -/
def WIN_EN (k : Nat) : Fld := ⟨0x40040020 + 0x8 * k, 31, 1, 0⟩
/-- R286, MCA, register MCA_WIN_SIZEk, bits [15:0], RW. -/
def WIN_SIZE (k : Nat) : Fld := ⟨0x40040024 + 0x8 * k, 0, 16, 0⟩
/-- R286, MCA, register MCA_RANGE_LINE, bits [27:0], RW. -/
def RANGE_LINE : Fld := ⟨0x40040040, 0, 28, 0⟩
/-- R286, MCA, register MCA_RANGE_LEN, bits [28:0], RW. -/
def RANGE_LINES : Fld := ⟨0x40040044, 0, 29, 0⟩
/-- R286, MCA, register MCA_RANGE_CMD, bits [1:0], RW. -/
def RANGE_OP : Fld := ⟨0x40040048, 0, 2, 0⟩
/-- R286, MCA, register MCA_RANGE_CMD, bits [2], W1S. -/
def RANGE_GO : Fld := ⟨0x40040048, 2, 1, 0⟩
/-- R287, MCA, register MCA_LOCK_LINEk, bits [27:0], RW. -/
def LOCK_LINE (k : Nat) : Fld := ⟨0x40040080 + 0x10 * k, 0, 28, 0⟩
/-- R287, MCA, register MCA_LOCK_LENk, bits [14:0], RW. -/
def LOCK_LINES (k : Nat) : Fld := ⟨0x40040084 + 0x10 * k, 0, 15, 0x1⟩
/-- R287, MCA, register MCA_LOCK_CTLk, bits [0], RW. -/
def LOCK_EN (k : Nat) : Fld := ⟨0x40040088 + 0x10 * k, 0, 1, 0⟩
/-- R287, MCA, register MCA_LOCK_CTLk, bits [1], W1S. -/
def LOCK_LOAD (k : Nat) : Fld := ⟨0x40040088 + 0x10 * k, 1, 1, 0⟩
/-- R287, MCA, register MCA_LOCK_CTLk, bits [2], RO. -/
def LOCK_BUSY (k : Nat) : Fld := ⟨0x40040088 + 0x10 * k, 2, 1, 0⟩
/-- R287, MCA, register MCA_LOCK_CTLk, bits [18:4], RO. -/
def LOCK_RESIDENT (k : Nat) : Fld := ⟨0x40040088 + 0x10 * k, 4, 15, 0⟩
/-- R288, MCA, register MCA_HIT_CNT, bits [31:0], RO. -/
def MC_HIT_CNT : Fld := ⟨0x40040100, 0, 32, 0⟩
/-- R288, MCA, register MCA_MISS_CNT, bits [31:0], RO. -/
def MC_MISS_CNT : Fld := ⟨0x40040104, 0, 32, 0⟩
/-- R288, MCA, register MCA_RECALL_CNT, bits [31:0], RO. -/
def MC_RECALL_CNT : Fld := ⟨0x40040108, 0, 32, 0⟩
/-- R288, MCA, register MCA_EVB_CNT, bits [31:0], RO. -/
def MC_EVB_STALL_CNT : Fld := ⟨0x4004010C, 0, 32, 0⟩
/-- R288, MCA, register MCA_PF_ISSUE, bits [31:0], RO. -/
def MC_PF_ISSUE_CNT : Fld := ⟨0x40040110, 0, 32, 0⟩
/-- R288, MCA, register MCA_PF_USED, bits [31:0], RO. -/
def MC_PF_USED_CNT : Fld := ⟨0x40040114, 0, 32, 0⟩
/-- R288, MCA, register MCA_WB_CNT, bits [31:0], RO. -/
def MC_WB_CNT : Fld := ⟨0x40040118, 0, 32, 0⟩
/-- R288, MCA, register MCA_PAR_CNT, bits [15:0], RO. -/
def MC_PAR_CLEAN_CNT : Fld := ⟨0x4004011C, 0, 16, 0⟩
/-- R288, MCA, register MCA_PAR_CNT, bits [31:16], RO. -/
def MC_PAR_DIRTY_CNT : Fld := ⟨0x4004011C, 16, 16, 0⟩
/-- R288, MCA, register MCA_PF_STAT, bits [5:0], RO. -/
def MC_PF_TRAINED : Fld := ⟨0x40040120, 0, 6, 0⟩
/-- R288, MCA, register MCA_PF_STAT, bits [31:16], RO. -/
def MC_PF_DROP_CNT : Fld := ⟨0x40040120, 16, 16, 0⟩
/-- R289, MCA, register MCA_DIAG_SEL, bits [11:0], RW. -/
def MC_DIAG_SET : Fld := ⟨0x40040140, 0, 12, 0⟩
/-- R289, MCA, register MCA_DIAG_SEL, bits [15:12], RW. -/
def MC_DIAG_WAY : Fld := ⟨0x40040140, 12, 4, 0⟩
/-- R289, MCA, register MCA_DIAG_SEL, bits [16], RW. -/
def MC_DIAG_VICTIM : Fld := ⟨0x40040140, 16, 1, 0⟩
/-- R289, MCA, register MCA_DIAG_SEL, bits [30], RO. -/
def MC_DIAG_DONE : Fld := ⟨0x40040140, 30, 1, 0⟩
/-- R289, MCA, register MCA_DIAG_SEL, bits [31], W1S. -/
def MC_DIAG_GO : Fld := ⟨0x40040140, 31, 1, 0⟩
/-- R289, MCA, register MCA_DIAG_TAG, bits [27:0], RO. -/
def MC_DIAG_LINE : Fld := ⟨0x40040144, 0, 28, 0⟩
/-- R289, MCA, register MCA_DIAG_TAG, bits [28], RO. -/
def MC_DIAG_VALID : Fld := ⟨0x40040144, 28, 1, 0⟩
/-- R289, MCA, register MCA_DIAG_TAG, bits [29], RO. -/
def MC_DIAG_DIRTY : Fld := ⟨0x40040144, 29, 1, 0⟩
/-- R289, MCA, register MCA_DIAG_TAG, bits [30], RO. -/
def MC_DIAG_LOCKED : Fld := ⟨0x40040144, 30, 1, 0⟩
/-- R289, MCA, register MCA_DIAG_TAG, bits [31], RO. -/
def MC_DIAG_PAR_ERR : Fld := ⟨0x40040144, 31, 1, 0⟩
/-- R289, MCA, register MCA_DIAG_DATAj, bits [31:0], RO. -/
def MC_DIAG_WORD (j : Nat) : Fld := ⟨0x40040180 + 0x4 * j, 0, 32, 0⟩
/-- R289, MCA, register MCA_LE_MAPk, bits [31:0], RO. -/
def LE_BITS (k : Nat) : Fld := ⟨0x40041000 + 0x4 * k, 0, 32, 0⟩
/-- R328, CHNn, register CHN_CTL, bits [4:0], RW. -/
def SYNC_WIN (n : Nat) : Fld := ⟨0x40100000 + 0x10000 * n, 0, 5, 0x360C⟩
/-- R328, CHNn, register CHN_CTL, bits [11:8], RW. -/
def SYNC_THR (n : Nat) : Fld := ⟨0x40100000 + 0x10000 * n, 8, 4, 0x360C⟩
/-- R328, CHNn, register CHN_CTL, bits [12], RW. -/
def BLIND_EN (n : Nat) : Fld := ⟨0x40100000 + 0x10000 * n, 12, 1, 0x360C⟩
/-- R328, CHNn, register CHN_CTL, bits [13], RW. -/
def REFRAME_EN (n : Nat) : Fld := ⟨0x40100000 + 0x10000 * n, 13, 1, 0x360C⟩
/-- R328, CHNn, register CHN_CTL, bits [14], W1S. -/
def CHN_CNT_CLR (n : Nat) : Fld := ⟨0x40100000 + 0x10000 * n, 14, 1, 0x360C⟩
/-- R328, CHNn, register CHN_SYNC_PAT, bits [31:0], RW. -/
def SYNC_PAT (n : Nat) : Fld := ⟨0x40100004 + 0x10000 * n, 0, 32, 0xB3C41E2D⟩
/-- R328, CHNn, register CHN_STAT, bits [1:0], RO. -/
def DLC_LOCK (n : Nat) : Fld := ⟨0x40100008 + 0x10000 * n, 0, 2, 0⟩
/-- R328, CHNn, register CHN_STAT, bits [3:2], RO. -/
def WG_ON (n : Nat) : Fld := ⟨0x40100008 + 0x10000 * n, 2, 2, 0⟩
/-- R328, CHNn, register CHN_STAT, bits [5:4], RO. -/
def RG_ON (n : Nat) : Fld := ⟨0x40100008 + 0x10000 * n, 4, 2, 0⟩
/-- R328, CHNn, register CHN_STAT, bits [7:6], RO. -/
def DLC_COASTING (n : Nat) : Fld := ⟨0x40100008 + 0x10000 * n, 6, 2, 0⟩
/-- R328, CHNn, register CHN_STAT, bits [9:8], W1C. -/
def WPH_FAULT (n : Nat) : Fld := ⟨0x40100008 + 0x10000 * n, 8, 2, 0⟩
/-- R328, CHNn, register CHN_STAT, bits [11:10], W1C. -/
def DLC_LOST (n : Nat) : Fld := ⟨0x40100008 + 0x10000 * n, 10, 2, 0⟩
/-- R328, CHNn, register CHN_STAT, bits [13:12], W1C. -/
def WR_UNDERRUN (n : Nat) : Fld := ⟨0x40100008 + 0x10000 * n, 12, 2, 0⟩
/-- R329, CHNn, register CHN_DLCh, bits [19:0], RW. -/
def DLC_NW (n : Nat) (h : Nat) : Fld := ⟨0x40100100 + 0x10000 * n + 0x100 * h, 0, 20, 0x1100000⟩
/-- R329, CHNn, register CHN_DLCh, bits [21:20], RW. -/
def DLC_BW (n : Nat) (h : Nat) : Fld := ⟨0x40100100 + 0x10000 * n + 0x100 * h, 20, 2, 0x1100000⟩
/-- R329, CHNn, register CHN_DLCh, bits [25:22], RW. -/
def DLC_COAST_MAX (n : Nat) (h : Nat) : Fld := ⟨0x40100100 + 0x10000 * n + 0x100 * h, 22, 4, 0x1100000⟩
/-- R329, CHNn, register CHN_DLCh, bits [26], RO. -/
def DLC_RATE_ERR (n : Nat) (h : Nat) : Fld := ⟨0x40100100 + 0x10000 * n + 0x100 * h, 26, 1, 0x1100000⟩
/-- R329, CHNn, register CHN_GAPh, bits [17:0], RW. -/
def WGAP_SYM (n : Nat) (h : Nat) : Fld := ⟨0x40100104 + 0x10000 * n + 0x100 * h, 0, 18, 0⟩
/-- R329, CHNn, register CHN_WPHh, bits [19:0], RW. -/
def WR_OFS (n : Nat) (h : Nat) : Fld := ⟨0x40100108 + 0x10000 * n + 0x100 * h, 0, 20, 0x4000000⟩
/-- R329, CHNn, register CHN_WPHh, bits [27:20], RW. -/
def WPH_LIM (n : Nat) (h : Nat) : Fld := ⟨0x40100108 + 0x10000 * n + 0x100 * h, 20, 8, 0x4000000⟩
/-- R329, CHNn, register CHN_PHASEh, bits [7:0], RO. -/
def DLC_PHERR (n : Nat) (h : Nat) : Fld := ⟨0x4010010C + 0x10000 * n + 0x100 * h, 0, 8, 0⟩
/-- R329, CHNn, register CHN_PHASEh, bits [15:8], W1C. -/
def DLC_PHMAX (n : Nat) (h : Nat) : Fld := ⟨0x4010010C + 0x10000 * n + 0x100 * h, 8, 8, 0⟩
/-- R329, CHNn, register CHN_PRECOMPh, bits [4:0], RW. -/
def PC_1T (n : Nat) (h : Nat) : Fld := ⟨0x40100110 + 0x10000 * n + 0x100 * h, 0, 5, 0x10466⟩
/-- R329, CHNn, register CHN_PRECOMPh, bits [9:5], RW. -/
def PC_2T (n : Nat) (h : Nat) : Fld := ⟨0x40100110 + 0x10000 * n + 0x100 * h, 5, 5, 0x10466⟩
/-- R329, CHNn, register CHN_PRECOMPh, bits [14:10], RW. -/
def PC_3T (n : Nat) (h : Nat) : Fld := ⟨0x40100110 + 0x10000 * n + 0x100 * h, 10, 5, 0x10466⟩
/-- R329, CHNn, register CHN_PRECOMPh, bits [19:15], RW. -/
def PC_NEXT1T (n : Nat) (h : Nat) : Fld := ⟨0x40100110 + 0x10000 * n + 0x100 * h, 15, 5, 0x10466⟩
/-- R329, CHNn, register CHN_WCh, bits [6:0], RW. -/
def WC_BASE (n : Nat) (h : Nat) : Fld := ⟨0x40100114 + 0x10000 * n + 0x100 * h, 0, 7, 0x33283C⟩
/-- R329, CHNn, register CHN_WCh, bits [14:8], RW. -/
def WC_OS (n : Nat) (h : Nat) : Fld := ⟨0x40100114 + 0x10000 * n + 0x100 * h, 8, 7, 0x33283C⟩
/-- R329, CHNn, register CHN_WCh, bits [18:15], RW. -/
def WC_OSD (n : Nat) (h : Nat) : Fld := ⟨0x40100114 + 0x10000 * n + 0x100 * h, 15, 4, 0x33283C⟩
/-- R329, CHNn, register CHN_WCh, bits [22:19], RW. -/
def WD_SWING (n : Nat) (h : Nat) : Fld := ⟨0x40100114 + 0x10000 * n + 0x100 * h, 19, 4, 0x33283C⟩
/-- R329, CHNn, register CHN_AFE_rh, bits [6:0], RW. -/
def LPF_FC (n : Nat) (h : Nat) (r : Nat) : Fld := ⟨0x40100118 + 0x10000 * n + 0x100 * h + 0x4 * r, 0, 7, 0x2801432⟩
/-- R329, CHNn, register CHN_AFE_rh, bits [11:7], RW. -/
def LPF_BOOST (n : Nat) (h : Nat) (r : Nat) : Fld := ⟨0x40100118 + 0x10000 * n + 0x100 * h + 0x4 * r, 7, 5, 0x2801432⟩
/-- R329, CHNn, register CHN_AFE_rh, bits [13:12], RW. -/
def HPF_SEL (n : Nat) (h : Nat) (r : Nat) : Fld := ⟨0x40100118 + 0x10000 * n + 0x100 * h + 0x4 * r, 12, 2, 0x2801432⟩
/-- R329, CHNn, register CHN_AFE_rh, bits [19:14], RW. -/
def ASYM (n : Nat) (h : Nat) (r : Nat) : Fld := ⟨0x40100118 + 0x10000 * n + 0x100 * h + 0x4 * r, 14, 6, 0x2801432⟩
/-- R329, CHNn, register CHN_AFE_rh, bits [26:20], RW. -/
def AGC_TARGET (n : Nat) (h : Nat) (r : Nat) : Fld := ⟨0x40100118 + 0x10000 * n + 0x100 * h + 0x4 * r, 20, 7, 0x2801432⟩
/-- R329, CHNn, register CHN_GAINh, bits [7:0], RO. -/
def VGA_GAIN_A (n : Nat) (h : Nat) : Fld := ⟨0x40100120 + 0x10000 * n + 0x100 * h, 0, 8, 0x1818⟩
/-- R329, CHNn, register CHN_GAINh, bits [15:8], RO. -/
def VGA_GAIN_B (n : Nat) (h : Nat) : Fld := ⟨0x40100120 + 0x10000 * n + 0x100 * h, 8, 8, 0x1818⟩
/-- R329, CHNn, register CHN_XT_rh, bits [7:0], RW. -/
def XT_M (n : Nat) (h : Nat) (r : Nat) : Fld := ⟨0x40100124 + 0x10000 * n + 0x100 * h + 0x4 * r, 0, 8, if r = 0 then 255 else 0⟩
/-- R329, CHNn, register CHN_XT_rh, bits [15:8], RW. -/
def XT_I (n : Nat) (h : Nat) (r : Nat) : Fld := ⟨0x40100124 + 0x10000 * n + 0x100 * h + 0x4 * r, 8, 8, if r = 0 then 255 else 0⟩
/-- R329, CHNn, register CHN_XT_rh, bits [23:16], RW. -/
def XT_O (n : Nat) (h : Nat) (r : Nat) : Fld := ⟨0x40100124 + 0x10000 * n + 0x100 * h + 0x4 * r, 16, 8, if r = 0 then 255 else 0⟩
/-- R329, CHNn, register CHN_XT_rh, bits [31:24], RW. -/
def RDB_DLY (n : Nat) (h : Nat) (r : Nat) : Fld := ⟨0x40100124 + 0x10000 * n + 0x100 * h + 0x4 * r, 24, 8, if r = 0 then 255 else 0⟩
/-- R329, CHNn, register CHN_DETh, bits [1:0], RW. -/
def JD_MODE (n : Nat) (h : Nat) : Fld := ⟨0x4010012C + 0x10000 * n + 0x100 * h, 0, 2, 0x4019⟩
/-- R329, CHNn, register CHN_DETh, bits [2], RW. -/
def JD_WFIX (n : Nat) (h : Nat) : Fld := ⟨0x4010012C + 0x10000 * n + 0x100 * h, 2, 1, 0x4019⟩
/-- R329, CHNn, register CHN_DETh, bits [3], RW. -/
def FIR_ADAPT (n : Nat) (h : Nat) : Fld := ⟨0x4010012C + 0x10000 * n + 0x100 * h, 3, 1, 0x4019⟩
/-- R329, CHNn, register CHN_DETh, bits [4], RW. -/
def NP_ADAPT (n : Nat) (h : Nat) : Fld := ⟨0x4010012C + 0x10000 * n + 0x100 * h, 4, 1, 0x4019⟩
/-- R329, CHNn, register CHN_DETh, bits [15:8], RW. -/
def DET_T1 (n : Nat) (h : Nat) : Fld := ⟨0x4010012C + 0x10000 * n + 0x100 * h, 8, 8, 0x4019⟩
/-- R329, CHNn, register CHN_DETh, bits [23:16], RW. -/
def DET_T2 (n : Nat) (h : Nat) : Fld := ⟨0x4010012C + 0x10000 * n + 0x100 * h, 16, 8, 0x4019⟩
/-- R329, CHNn, register CHN_DETh, bits [31:24], RW. -/
def DET_T3 (n : Nat) (h : Nat) : Fld := ⟨0x4010012C + 0x10000 * n + 0x100 * h, 24, 8, 0x4019⟩
/-- R329, CHNn, register CHN_JDWh, bits [11:0], RW. -/
def JD_WA (n : Nat) (h : Nat) : Fld := ⟨0x40100130 + 0x10000 * n + 0x100 * h, 0, 12, 0x200⟩
/-- R329, CHNn, register CHN_JDWh, bits [27:16], RW. -/
def JD_WB (n : Nat) (h : Nat) : Fld := ⟨0x40100130 + 0x10000 * n + 0x100 * h, 16, 12, 0x200⟩
/-- R329, CHNn, register CHN_JDUh, bits [11:0], RO. -/
def JD_WA_USE (n : Nat) (h : Nat) : Fld := ⟨0x40100134 + 0x10000 * n + 0x100 * h, 0, 12, 0⟩
/-- R329, CHNn, register CHN_JDUh, bits [27:16], RO. -/
def JD_WB_USE (n : Nat) (h : Nat) : Fld := ⟨0x40100134 + 0x10000 * n + 0x100 * h, 16, 12, 0⟩
/-- R329, CHNn, register CHN_DEFh, bits [6:0], RW. -/
def DEF_DROP_PCT (n : Nat) (h : Nat) : Fld := ⟨0x40100138 + 0x10000 * n + 0x100 * h, 0, 7, 0x6081028⟩
/-- R329, CHNn, register CHN_DEFh, bits [15:8], RW. -/
def DEF_MIN_SYM (n : Nat) (h : Nat) : Fld := ⟨0x40100138 + 0x10000 * n + 0x100 * h, 8, 8, 0x6081028⟩
/-- R329, CHNn, register CHN_DEFh, bits [21:16], RW. -/
def DEF_EXT (n : Nat) (h : Nat) : Fld := ⟨0x40100138 + 0x10000 * n + 0x100 * h, 16, 6, 0x6081028⟩
/-- R329, CHNn, register CHN_DEFh, bits [27:22], RW. -/
def DEF_TA_THR (n : Nat) (h : Nat) : Fld := ⟨0x40100138 + 0x10000 * n + 0x100 * h, 22, 6, 0x6081028⟩
/-- R329, CHNn, register CHN_LLRh, bits [12:0], RW. -/
def DEF_MAX_SYM (n : Nat) (h : Nat) : Fld := ⟨0x4010013C + 0x10000 * n + 0x100 * h, 0, 13, 0x80800⟩
/-- R329, CHNn, register CHN_LLRh, bits [19:16], RW. -/
def LLR_SCALE (n : Nat) (h : Nat) : Fld := ⟨0x4010013C + 0x10000 * n + 0x100 * h, 16, 4, 0x80800⟩
/-- R329, CHNn, register CHN_FRM_LASTh, bits [31:0], RO. -/
def FRM_LAST (n : Nat) (h : Nat) : Fld := ⟨0x40100140 + 0x10000 * n + 0x100 * h, 0, 32, 0⟩
/-- R329, CHNn, register CHN_WGCUTh, bits [15:0], RO. -/
def WG_CUT_SYM (n : Nat) (h : Nat) : Fld := ⟨0x40100144 + 0x10000 * n + 0x100 * h, 0, 16, 0⟩
/-- R329, CHNn, register CHN_WGCUTh, bits [18:16], RO. -/
def WG_CUT_SRC (n : Nat) (h : Nat) : Fld := ⟨0x40100144 + 0x10000 * n + 0x100 * h, 16, 3, 0⟩
/-- R330, CHNn, register CHN_FIR_rh_k, bits [9:0], RW. -/
def FIR_TAP (n : Nat) (h : Nat) (r : Nat) (k : Nat) : Fld := ⟨0x40100180 + 0x10000 * n + 0x100 * h + 0x40 * r + 0x4 * k, 0, 10, if k = 4 then 0x100 else 0⟩
/-- R331, CHNn, register CHN_CNT_SECT, bits [31:0], RO. -/
def SECT_READ_CNT (n : Nat) : Fld := ⟨0x40100300 + 0x10000 * n, 0, 32, 0⟩
/-- R331, CHNn, register CHN_CNT_FRM, bits [15:0], RO. -/
def BLIND_CNT (n : Nat) : Fld := ⟨0x40100304 + 0x10000 * n, 0, 16, 0⟩
/-- R331, CHNn, register CHN_CNT_FRM, bits [31:16], RO. -/
def AMBIG_CNT (n : Nat) : Fld := ⟨0x40100304 + 0x10000 * n, 16, 16, 0⟩
/-- R331, CHNn, register CHN_CNT_FRM2, bits [15:0], RO. -/
def REFRAME_CNT (n : Nat) : Fld := ⟨0x40100308 + 0x10000 * n, 0, 16, 0⟩
/-- R331, CHNn, register CHN_CNT_FRM2, bits [31:16], RO. -/
def DUAL_PASS_CNT (n : Nat) : Fld := ⟨0x40100308 + 0x10000 * n, 16, 16, 0⟩
/-- R331, CHNn, register CHN_CNT_WR, bits [15:0], RO. -/
def WG_CUT_CNT (n : Nat) : Fld := ⟨0x4010030C + 0x10000 * n, 0, 16, 0⟩
/-- R331, CHNn, register CHN_CNT_WR, bits [31:16], RO. -/
def WPH_FAULT_CNT (n : Nat) : Fld := ⟨0x4010030C + 0x10000 * n, 16, 16, 0⟩
/-- R331, CHNn, register CHN_CNT_DEF, bits [15:0], RO. -/
def ERASE_SECT_CNT (n : Nat) : Fld := ⟨0x40100310 + 0x10000 * n, 0, 16, 0⟩
/-- R331, CHNn, register CHN_CNT_DEF, bits [31:16], RO. -/
def SYNC_MISS_CNT (n : Nat) : Fld := ⟨0x40100310 + 0x10000 * n, 16, 16, 0⟩
/-- R364, ABX, register ABX_CFG, bits [5:0], RW. -/
def ITER_MAX : Fld := ⟨0x40080000, 0, 6, 0x5812410⟩
/-- R364, ABX, register ABX_CFG, bits [11:8], RW. -/
def BEAD_ITER : Fld := ⟨0x40080000, 8, 4, 0x5812410⟩
/-- R364, ABX, register ABX_CFG, bits [15:12], RW. -/
def MS_OFFSET : Fld := ⟨0x40080000, 12, 4, 0x5812410⟩
/-- R364, ABX, register ABX_CFG, bits [19:16], RW. -/
def MS_OFFSET_ALT : Fld := ⟨0x40080000, 16, 4, 0x5812410⟩
/-- R364, ABX, register ABX_CFG, bits [25:20], RW. -/
def BEADS_THROTTLE : Fld := ⟨0x40080000, 20, 6, 0x5812410⟩
/-- R364, ABX, register ABX_CFG, bits [26], RW. -/
def ERASE_LIMIT_EN : Fld := ⟨0x40080000, 26, 1, 0x5812410⟩
/-- R364, ABX, register ABX_CFG, bits [27], W1S. -/
def ABX_CNT_CLR : Fld := ⟨0x40080000, 27, 1, 0x5812410⟩
/-- R364, ABX, register ABX_STAT, bits [5:0], RO. -/
def BEADS_BUSY : Fld := ⟨0x40080004, 0, 6, 0⟩
/-- R364, ABX, register ABX_STAT, bits [16:8], RO. -/
def LLR_USED : Fld := ⟨0x40080004, 8, 9, 0⟩
/-- R364, ABX, register ABX_STAT, bits [25:17], RO. -/
def READY_CW : Fld := ⟨0x40080004, 17, 9, 0⟩
/-- R364, ABX, register ABX_STAT, bits [26], RO. -/
def THROTTLED : Fld := ⟨0x40080004, 26, 1, 0⟩
/-- R364, ABX, register ABX_STAT, bits [27], W1C. -/
def RSV_CFG_ERR : Fld := ⟨0x40080004, 27, 1, 0⟩
/-- R364, ABX, register ABX_PIN, bits [5:0], RW. -/
def LLR_PIN_MAX : Fld := ⟨0x40080008, 0, 6, 0x20⟩
/-- R364, ABX, register ABX_PIN, bits [13:8], RO. -/
def LLR_PINNED : Fld := ⟨0x40080008, 8, 6, 0x20⟩
/-- R364, ABX, register ABX_TOKEN, bits [2:0], RO. -/
def BEAD_TOKEN : Fld := ⟨0x4008000C, 0, 3, 0⟩
/-- R364, ABX, register ABX_TOKEN, bits [6:4], RO. -/
def LLR_TOKEN : Fld := ⟨0x4008000C, 4, 3, 0⟩
/-- R364, ABX, register ABX_LAST, bits [31:0], RO. -/
def LAST_DSW : Fld := ⟨0x40080020, 0, 32, 0⟩
/-- R365, ABX, register ABX_STREAMk, bits [8:0], RW. -/
def LLR_RSV (k : Nat) : Fld := ⟨0x40080100 + 0x4 * k, 0, 9, 0x3E818⟩
/-- R365, ABX, register ABX_STREAMk, bits [19:10], RW. -/
def DL_US (k : Nat) : Fld := ⟨0x40080100 + 0x4 * k, 10, 10, 0x3E818⟩
/-- R365, ABX, register ABX_STREAMk, bits [28:20], RO. -/
def LLR_HELD (k : Nat) : Fld := ⟨0x40080100 + 0x4 * k, 20, 9, 0x3E818⟩
/-- R365, ABX, register ABX_STREAMk, bits [29], RO. -/
def BP_ACTIVE (k : Nat) : Fld := ⟨0x40080100 + 0x4 * k, 29, 1, 0x3E818⟩
/-- R366, ABX, register ABX_RCV, bits [5:0], RW. -/
def RCV_STEP_EN : Fld := ⟨0x40080010, 0, 6, 0xC8203F⟩
/-- R366, ABX, register ABX_RCV, bits [13:8], RW. -/
def RCV_ITER_MAX : Fld := ⟨0x40080010, 8, 6, 0xC8203F⟩
/-- R366, ABX, register ABX_RCV, bits [19:16], RW. -/
def REREAD_N : Fld := ⟨0x40080010, 16, 4, 0xC8203F⟩
/-- R366, ABX, register ABX_RCV, bits [24:20], RW. -/
def OFS_PCT : Fld := ⟨0x40080010, 20, 5, 0xC8203F⟩
/-- R366, ABX, register ABX_RCV_TIME, bits [15:0], RW. -/
def RCV_LIMIT_MS : Fld := ⟨0x40080014, 0, 16, 0x3207D0⟩
/-- R366, ABX, register ABX_RCV_TIME, bits [31:16], RW. -/
def RCV_LR_MS : Fld := ⟨0x40080014, 16, 16, 0x3207D0⟩
/-- R367, ABX, register ABX_CW_CNT, bits [31:0], RO. -/
def CW_DECODED : Fld := ⟨0x40080200, 0, 32, 0⟩
/-- R367, ABX, register ABX_FAIL_CNT, bits [31:0], RO. -/
def CW_FAIL0 : Fld := ⟨0x40080204, 0, 32, 0⟩
/-- R367, ABX, register ABX_UNREC_CNT, bits [15:0], RO. -/
def UNREC_CNT : Fld := ⟨0x40080208, 0, 16, 0⟩
/-- R367, ABX, register ABX_UNREC_CNT, bits [31:16], RO. -/
def DL_MISS_CNT : Fld := ⟨0x40080208, 16, 16, 0⟩
/-- R367, ABX, register ABX_BP_CNT, bits [15:0], RO. -/
def BP_SKIP_CNT : Fld := ⟨0x4008020C, 0, 16, 0⟩
/-- R367, ABX, register ABX_BP_CNT, bits [31:16], RO. -/
def NO_COMBINE_CNT : Fld := ⟨0x4008020C, 16, 16, 0⟩
/-- R367, ABX, register ABX_ERR_CNT, bits [7:0], RO. -/
def CRC_FAIL_CNT : Fld := ⟨0x40080210, 0, 8, 0⟩
/-- R367, ABX, register ABX_ERR_CNT, bits [15:8], RO. -/
def LOC_MISMATCH_CNT : Fld := ⟨0x40080210, 8, 8, 0⟩
/-- R367, ABX, register ABX_ERR_CNT, bits [23:16], RO. -/
def ERASE_LIMIT_CNT : Fld := ⟨0x40080210, 16, 8, 0⟩
/-- R367, ABX, register ABX_ERR_CNT, bits [31:24], RO. -/
def MEM_ERR_CNT : Fld := ⟨0x40080210, 24, 8, 0⟩
/-- R367, ABX, register ABX_RCV_OK0, bits [15:0], RO. -/
def RCV_OK1 : Fld := ⟨0x40080220, 0, 16, 0⟩
/-- R367, ABX, register ABX_RCV_OK0, bits [31:16], RO. -/
def RCV_OK2 : Fld := ⟨0x40080220, 16, 16, 0⟩
/-- R367, ABX, register ABX_RCV_OK1, bits [15:0], RO. -/
def RCV_OK3 : Fld := ⟨0x40080224, 0, 16, 0⟩
/-- R367, ABX, register ABX_RCV_OK1, bits [31:16], RO. -/
def RCV_OK4 : Fld := ⟨0x40080224, 16, 16, 0⟩
/-- R367, ABX, register ABX_RCV_OK2, bits [15:0], RO. -/
def RCV_OK5 : Fld := ⟨0x40080228, 0, 16, 0⟩
/-- R367, ABX, register ABX_RCV_OK2, bits [31:16], RO. -/
def RCV_OK6 : Fld := ⟨0x40080228, 16, 16, 0⟩
/-- R367, ABX, register ABX_HISTk, bits [31:0], RO. -/
def ITER_HIST (k : Nat) : Fld := ⟨0x40080240 + 0x4 * k, 0, 32, 0⟩
/-- R397, FSQn, register FSQ_CTL, bits [1:0], RW. -/
def SWAP_TO (n : Nat) : Fld := ⟨0x40200000 + 0x10000 * n, 0, 2, 0x290⟩
/-- R397, FSQn, register FSQ_CTL, bits [2], W1S. -/
def SWAP_REQ (n : Nat) : Fld := ⟨0x40200000 + 0x10000 * n, 2, 1, 0x290⟩
/-- R397, FSQn, register FSQ_CTL, bits [3], W1S. -/
def MC_RESTART (n : Nat) : Fld := ⟨0x40200000 + 0x10000 * n, 3, 1, 0x290⟩
/-- R397, FSQn, register FSQ_CTL, bits [4], RW. -/
def LOAD_BANK (n : Nat) : Fld := ⟨0x40200000 + 0x10000 * n, 4, 1, 0x290⟩
/-- R397, FSQn, register FSQ_CTL, bits [5], W1S. -/
def LOAD_GO (n : Nat) : Fld := ⟨0x40200000 + 0x10000 * n, 5, 1, 0x290⟩
/-- R397, FSQn, register FSQ_CTL, bits [7:6], RW. -/
def PSI_CLK (n : Nat) : Fld := ⟨0x40200000 + 0x10000 * n, 6, 2, 0x290⟩
/-- R397, FSQn, register FSQ_CTL, bits [9:8], RW. -/
def PSI_RETRY (n : Nat) : Fld := ⟨0x40200000 + 0x10000 * n, 8, 2, 0x290⟩
/-- R397, FSQn, register FSQ_CTL, bits [10], W1S. -/
def FSQ_CNT_CLR (n : Nat) : Fld := ⟨0x40200000 + 0x10000 * n, 10, 1, 0x290⟩
/-- R397, FSQn, register FSQ_STAT, bits [16:0], RO. -/
def FSQ_PC (n : Nat) : Fld := ⟨0x40200004 + 0x10000 * n, 0, 17, 0⟩
/-- R397, FSQn, register FSQ_STAT, bits [18:17], RO. -/
def EXEC_SRC (n : Nat) : Fld := ⟨0x40200004 + 0x10000 * n, 17, 2, 0⟩
/-- R397, FSQn, register FSQ_STAT, bits [19], RO. -/
def FSQ_IDLE (n : Nat) : Fld := ⟨0x40200004 + 0x10000 * n, 19, 1, 0⟩
/-- R397, FSQn, register FSQ_STAT, bits [20], RO. -/
def FSQ_WAITING (n : Nat) : Fld := ⟨0x40200004 + 0x10000 * n, 20, 1, 0⟩
/-- R397, FSQn, register FSQ_STAT, bits [21], RO. -/
def SWAP_PEND (n : Nat) : Fld := ⟨0x40200004 + 0x10000 * n, 21, 1, 0⟩
/-- R397, FSQn, register FSQ_STAT, bits [22], RO. -/
def MCHK (n : Nat) : Fld := ⟨0x40200004 + 0x10000 * n, 22, 1, 0⟩
/-- R397, FSQn, register FSQ_STAT, bits [25:23], RO. -/
def MCHK_SRC (n : Nat) : Fld := ⟨0x40200004 + 0x10000 * n, 23, 3, 0⟩
/-- R397, FSQn, register FSQ_STAT, bits [26], RO. -/
def LOAD_BUSY (n : Nat) : Fld := ⟨0x40200004 + 0x10000 * n, 26, 1, 0⟩
/-- R397, FSQn, register FSQ_STAT, bits [27], RO. -/
def BANK0_VALID (n : Nat) : Fld := ⟨0x40200004 + 0x10000 * n, 27, 1, 0⟩
/-- R397, FSQn, register FSQ_STAT, bits [28], RO. -/
def BANK1_VALID (n : Nat) : Fld := ⟨0x40200004 + 0x10000 * n, 28, 1, 0⟩
/-- R397, FSQn, register FSQ_STAT, bits [29], RO. -/
def BANK0_COMPAT (n : Nat) : Fld := ⟨0x40200004 + 0x10000 * n, 29, 1, 0⟩
/-- R397, FSQn, register FSQ_STAT, bits [30], RO. -/
def BANK1_COMPAT (n : Nat) : Fld := ⟨0x40200004 + 0x10000 * n, 30, 1, 0⟩
/-- R397, FSQn, register FSQ_STAT, bits [31], W1C. -/
def BANK_CFG_ERR (n : Nat) : Fld := ⟨0x40200004 + 0x10000 * n, 31, 1, 0⟩
/-- R398, FSQn, register FSQ_MCHK, bits [16:0], RO. -/
def MCHK_ADDR (n : Nat) : Fld := ⟨0x40200008 + 0x10000 * n, 0, 17, 0⟩
/-- R398, FSQn, register FSQ_LOADA, bits [31:0], RW. -/
def LOAD_ADDR_LO (n : Nat) : Fld := ⟨0x4020000C + 0x10000 * n, 0, 32, 0⟩
/-- R398, FSQn, register FSQ_LOADB, bits [3:0], RW. -/
def LOAD_ADDR_HI (n : Nat) : Fld := ⟨0x40200010 + 0x10000 * n, 0, 4, 0xF0⟩
/-- R398, FSQn, register FSQ_LOADB, bits [7:4], RO. -/
def LOAD_CODE (n : Nat) : Fld := ⟨0x40200010 + 0x10000 * n, 4, 4, 0xF0⟩
/-- R398, FSQn, register FSQ_WDOG, bits [15:0], RW. -/
def WDOG_US (n : Nat) : Fld := ⟨0x40200014 + 0x10000 * n, 0, 16, 0x4E20⟩
/-- R398, FSQn, register FSQ_PSI, bits [6:0], RW. -/
def PSI_D_ADDR (n : Nat) : Fld := ⟨0x40200018 + 0x10000 * n, 0, 7, 0⟩
/-- R398, FSQn, register FSQ_PSI, bits [7], RW. -/
def PSI_D_RW (n : Nat) : Fld := ⟨0x40200018 + 0x10000 * n, 7, 1, 0⟩
/-- R398, FSQn, register FSQ_PSI, bits [23:8], RW. -/
def PSI_D_DATA (n : Nat) : Fld := ⟨0x40200018 + 0x10000 * n, 8, 16, 0⟩
/-- R398, FSQn, register FSQ_PSI, bits [24], W1S. -/
def PSI_D_GO (n : Nat) : Fld := ⟨0x40200018 + 0x10000 * n, 24, 1, 0⟩
/-- R398, FSQn, register FSQ_PSI, bits [25], RO. -/
def PSI_D_BUSY (n : Nat) : Fld := ⟨0x40200018 + 0x10000 * n, 25, 1, 0⟩
/-- R398, FSQn, register FSQ_PSI, bits [26], W1C. -/
def PSI_D_ERR (n : Nat) : Fld := ⟨0x40200018 + 0x10000 * n, 26, 1, 0⟩
/-- R398, FSQn, register FSQ_PSI, bits [28:27], RO. -/
def PSI_TOKEN (n : Nat) : Fld := ⟨0x40200018 + 0x10000 * n, 27, 2, 0⟩
/-- R398, FSQn, register FSQ_PSI_RD, bits [15:0], RO. -/
def PSI_RDATA (n : Nat) : Fld := ⟨0x4020001C + 0x10000 * n, 0, 16, 0⟩
/-- R398, FSQn, register FSQ_CNT, bits [7:0], RO. -/
def MCHK_CNT (n : Nat) : Fld := ⟨0x40200020 + 0x10000 * n, 0, 8, 0⟩
/-- R398, FSQn, register FSQ_CNT, bits [15:8], RO. -/
def PSI_ERR_CNT (n : Nat) : Fld := ⟨0x40200020 + 0x10000 * n, 8, 8, 0⟩
/-- R398, FSQn, register FSQ_CNT, bits [31:16], RO. -/
def OPS_DONE (n : Nat) : Fld := ⟨0x40200020 + 0x10000 * n, 16, 16, 0⟩
/-- R399, CHNn, register CHN_WSQh, bits [11:0], RW. -/
def WSQ_ENTRY (n : Nat) (h : Nat) : Fld := ⟨0x40100400 + 0x10000 * n + 0x10 * h, 0, 12, 0x40000⟩
/-- R399, CHNn, register CHN_WSQh, bits [25:12], RW. -/
def WSQ_LEAD (n : Nat) (h : Nat) : Fld := ⟨0x40100400 + 0x10000 * n + 0x10 * h, 12, 14, 0x40000⟩
/-- R399, CHNn, register CHN_WSQh, bits [27:26], RW. -/
def WSQ_SRC (n : Nat) (h : Nat) : Fld := ⟨0x40100400 + 0x10000 * n + 0x10 * h, 26, 2, 0x40000⟩
/-- R399, CHNn, register CHN_WSQh, bits [28], W1C. -/
def WSQ_CFG_ERR (n : Nat) (h : Nat) : Fld := ⟨0x40100400 + 0x10000 * n + 0x10 * h, 28, 1, 0x40000⟩
/-- R399, CHNn, register CHN_WSQ_STATh, bits [11:0], RO. -/
def WSQ_PC (n : Nat) (h : Nat) : Fld := ⟨0x40100404 + 0x10000 * n + 0x10 * h, 0, 12, 0⟩
/-- R399, CHNn, register CHN_WSQ_STATh, bits [12], RO. -/
def WSQ_RUN (n : Nat) (h : Nat) : Fld := ⟨0x40100404 + 0x10000 * n + 0x10 * h, 12, 1, 0⟩
/-- R399, CHNn, register CHN_WSQ_STATh, bits [13], RO. -/
def WSQ_STOPPED (n : Nat) (h : Nat) : Fld := ⟨0x40100404 + 0x10000 * n + 0x10 * h, 13, 1, 0⟩
/-- R399, CHNn, register CHN_WSQ_STATh, bits [31:16], RO. -/
def WSQ_OVR_CNT (n : Nat) (h : Nat) : Fld := ⟨0x40100404 + 0x10000 * n + 0x10 * h, 16, 16, 0⟩
/-- R446, SVT, register SVT_FRAME_CFG, bits [11:0], RW. -/
def FRAME_OFS : Fld := ⟨0x40300000, 0, 12, 0x200044C⟩
/-- R446, SVT, register SVT_FRAME_CFG, bits [25:16], RW. -/
def WEDGES_PER_REV : Fld := ⟨0x40300000, 16, 10, 0x200044C⟩
/-- R446, SVT, register SVT_FRAME_STAT, bits [8:0], RO. -/
def FRAME_WEDGE : Fld := ⟨0x40300004, 0, 9, 0xFFFF0000⟩
/-- R446, SVT, register SVT_FRAME_STAT, bits [9], RO. -/
def FRAME_LOCKED : Fld := ⟨0x40300004, 9, 1, 0xFFFF0000⟩
/-- R446, SVT, register SVT_FRAME_STAT, bits [31:16], W1C. -/
def FRAME_MARGIN_MIN : Fld := ⟨0x40300004, 16, 16, 0xFFFF0000⟩
/-- R446, SVT, register SVT_WEDGE_PER, bits [23:0], RO. -/
def WEDGE_PERIOD : Fld := ⟨0x40300008, 0, 24, 0⟩
/-- R446, SVT, register SVT_COEF_CTL, bits [3:0], W1S. -/
def COEF_APPLY : Fld := ⟨0x4030000C, 0, 4, 0⟩
/-- R446, SVT, register SVT_COEF_CTL, bits [7:4], RO. -/
def COEF_PEND : Fld := ⟨0x4030000C, 4, 4, 0⟩
/-- R446, SVT, register SVT_COEF_CTL, bits [11:8], RO. -/
def COEF_VALID : Fld := ⟨0x4030000C, 8, 4, 0⟩
/-- R447, SVT, register SVT_CTLn, bits [3:0], RW. -/
def SV_COAST_MAX (n : Nat) : Fld := ⟨0x40300200 + 0x40 * n, 0, 4, 0x31A4⟩
/-- R447, SVT, register SVT_CTLn, bits [11:4], RW. -/
def WUS_LIM (n : Nat) : Fld := ⟨0x40300200 + 0x40 * n, 4, 8, 0x31A4⟩
/-- R447, SVT, register SVT_CTLn, bits [12], RW. -/
def RV_FF_EN (n : Nat) : Fld := ⟨0x40300200 + 0x40 * n, 12, 1, 0x31A4⟩
/-- R447, SVT, register SVT_CTLn, bits [13], RW. -/
def XC_FF_EN (n : Nat) : Fld := ⟨0x40300200 + 0x40 * n, 13, 1, 0x31A4⟩
/-- R447, SVT, register SVT_CTLn, bits [14], W1S. -/
def SV_CNT_CLR (n : Nat) : Fld := ⟨0x40300200 + 0x40 * n, 14, 1, 0x31A4⟩
/-- R447, SVT, register SVT_FEn, bits [11:0], RW. -/
def FE_LIM (n : Nat) : Fld := ⟨0x40300204 + 0x40 * n, 0, 12, 0x1008080⟩
/-- R447, SVT, register SVT_FEn, bits [19:12], RW. -/
def FE_TIME (n : Nat) : Fld := ⟨0x40300204 + 0x40 * n, 12, 8, 0x1008080⟩
/-- R447, SVT, register SVT_FEn, bits [31:20], RW. -/
def FE_SEEK_LIM (n : Nat) : Fld := ⟨0x40300204 + 0x40 * n, 20, 12, 0x1008080⟩
/-- R447, SVT, register SVT_PLAUSn, bits [11:0], RW. -/
def PLAUS_TRK (n : Nat) : Fld := ⟨0x40300208 + 0x40 * n, 0, 12, 0x8008080⟩
/-- R447, SVT, register SVT_PLAUSn, bits [23:12], RW. -/
def PLAUS_SEEK_TRK (n : Nat) : Fld := ⟨0x40300208 + 0x40 * n, 12, 12, 0x8008080⟩
/-- R447, SVT, register SVT_PLAUSn, bits [27:24], RW. -/
def LOSS_WIN_MAX (n : Nat) : Fld := ⟨0x40300208 + 0x40 * n, 24, 4, 0x8008080⟩
/-- R447, SVT, register SVT_MAn, bits [5:0], RW. -/
def MA_VMAX (n : Nat) : Fld := ⟨0x4030020C + 0x40 * n, 0, 6, 0xA0401E⟩
/-- R447, SVT, register SVT_MAn, bits [19:8], RW. -/
def MA_STROKE_TRK (n : Nat) : Fld := ⟨0x4030020C + 0x40 * n, 8, 12, 0xA0401E⟩
/-- R447, SVT, register SVT_MAn, bits [23:20], RW. -/
def MA_SLEW (n : Nat) : Fld := ⟨0x4030020C + 0x40 * n, 20, 4, 0xA0401E⟩
/-- R447, SVT, register SVT_LIMn, bits [7:0], RW. -/
def IV_MAX_TF (n : Nat) : Fld := ⟨0x40300210 + 0x40 * n, 0, 8, 0xFF66⟩
/-- R447, SVT, register SVT_LIMn, bits [15:8], RW. -/
def IV_MAX_SK (n : Nat) : Fld := ⟨0x40300210 + 0x40 * n, 8, 8, 0xFF66⟩
/-- R447, SVT, register SVT_SEEKn, bits [7:0], RW. -/
def SETTLE_TRK (n : Nat) : Fld := ⟨0x40300214 + 0x40 * n, 0, 8, 0x260404⟩
/-- R447, SVT, register SVT_SEEKn, bits [15:8], RW. -/
def SETTLE_WEDGES (n : Nat) : Fld := ⟨0x40300214 + 0x40 * n, 8, 8, 0x260404⟩
/-- R447, SVT, register SVT_SEEKn, bits [23:16], RW. -/
def ON_TRACK_LIM (n : Nat) : Fld := ⟨0x40300214 + 0x40 * n, 16, 8, 0x260404⟩
/-- R447, SVT, register SVT_STATn, bits [2:0], RO. -/
def SV_MODE (n : Nat) : Fld := ⟨0x40300218 + 0x40 * n, 0, 3, 0x7⟩
/-- R447, SVT, register SVT_STATn, bits [3], RO. -/
def WRITE_SAFE (n : Nat) : Fld := ⟨0x40300218 + 0x40 * n, 3, 1, 0x7⟩
/-- R447, SVT, register SVT_STATn, bits [7:4], RO. -/
def SV_COAST_NOW (n : Nat) : Fld := ⟨0x40300218 + 0x40 * n, 4, 4, 0x7⟩
/-- R447, SVT, register SVT_STATn, bits [12:8], RO. -/
def GOOD_WEDGES (n : Nat) : Fld := ⟨0x40300218 + 0x40 * n, 8, 5, 0x7⟩
/-- R447, SVT, register SVT_STATn, bits [14:13], W1C. -/
def SLOT_DROP (n : Nat) : Fld := ⟨0x40300218 + 0x40 * n, 13, 2, 0x7⟩
/-- R447, SVT, register SVT_STATn, bits [15], W1C. -/
def FE_FAULT (n : Nat) : Fld := ⟨0x40300218 + 0x40 * n, 15, 1, 0x7⟩
/-- R447, SVT, register SVT_STATn, bits [16], W1C. -/
def COAST_RETRACT (n : Nat) : Fld := ⟨0x40300218 + 0x40 * n, 16, 1, 0x7⟩
/-- R447, SVT, register SVT_STATn, bits [17], RO. -/
def SV_SETTLED (n : Nat) : Fld := ⟨0x40300218 + 0x40 * n, 17, 1, 0x7⟩
/-- R447, SVT, register SVT_STATn, bits [19:18], RO. -/
def MA_AT_LIM (n : Nat) : Fld := ⟨0x40300218 + 0x40 * n, 18, 2, 0x7⟩
/-- R447, SVT, register SVT_STATn, bits [20], RO. -/
def OVR_LAST (n : Nat) : Fld := ⟨0x40300218 + 0x40 * n, 20, 1, 0x7⟩
/-- R447, SVT, register SVT_PESn, bits [15:0], RO. -/
def PES_S0 (n : Nat) : Fld := ⟨0x4030021C + 0x40 * n, 0, 16, 0⟩
/-- R447, SVT, register SVT_PESn, bits [31:16], RO. -/
def PES_S1 (n : Nat) : Fld := ⟨0x4030021C + 0x40 * n, 16, 16, 0⟩
/-- R447, SVT, register SVT_CNTn, bits [15:0], RO. -/
def LOST_WEDGE_CNT (n : Nat) : Fld := ⟨0x40300220 + 0x40 * n, 0, 16, 0⟩
/-- R447, SVT, register SVT_CNTn, bits [31:16], RO. -/
def FROZEN_CNT (n : Nat) : Fld := ⟨0x40300220 + 0x40 * n, 16, 16, 0⟩
/-- R447, SVT, register SVT_CNT2n, bits [15:0], RO. -/
def SV_OVR_CNT (n : Nat) : Fld := ⟨0x40300224 + 0x40 * n, 0, 16, 0⟩
/-- R447, SVT, register SVT_CNT2n, bits [23:16], RO. -/
def FE_FAULT_CNT (n : Nat) : Fld := ⟨0x40300224 + 0x40 * n, 16, 8, 0⟩
/-- R447, SVT, register SVT_CNT2n, bits [31:24], RO. -/
def SV_REQ_REJ (n : Nat) : Fld := ⟨0x40300224 + 0x40 * n, 24, 8, 0⟩
/-- R447, SVT, register SVT_SEEKTn, bits [15:0], RO. -/
def SEEK_TIME_LAST (n : Nat) : Fld := ⟨0x40300228 + 0x40 * n, 0, 16, 0⟩
/-- R448, SVT, register SVT_COEFn_i, bits [31:0], RW. -/
def COEF_VALUE (n : Nat) (i : Nat) : Fld := ⟨0x40301000 + 0x1000 * n + 0x8 * i, 0, 32, 0⟩
/-- R448, SVT, register SVT_SHIFTn_i, bits [4:0], RW. -/
def COEF_SHIFT (n : Nat) (i : Nat) : Fld := ⟨0x40301004 + 0x1000 * n + 0x8 * i, 0, 5, 0⟩
/-- R449, ACT, register ACT_SPM_CTL, bits [13:0], RW. -/
def SPM_RPM : Fld := ⟨0x40310000, 0, 14, 0x1F40000⟩
/-- R449, ACT, register ACT_SPM_CTL, bits [28:16], RW. -/
def SPM_BAND_PPM : Fld := ⟨0x40310000, 16, 13, 0x1F40000⟩
/-- R449, ACT, register ACT_SPM_STAT, bits [13:0], RO. -/
def SPM_RPM_NOW : Fld := ⟨0x40310004, 0, 14, 0⟩
/-- R449, ACT, register ACT_SPM_STAT, bits [14], RO. -/
def SPM_AT_SPEED : Fld := ⟨0x40310004, 14, 1, 0⟩
/-- R449, ACT, register ACT_SPM_STAT, bits [17:15], RO. -/
def SPM_STATE : Fld := ⟨0x40310004, 15, 3, 0⟩
/-- R449, ACT, register ACT_SPM_STAT, bits [18], W1C. -/
def SPM_STALL : Fld := ⟨0x40310004, 18, 1, 0⟩
/-- R449, ACT, register ACT_SPM_CFG, bits [5:0], RW. -/
def SPM_POLES : Fld := ⟨0x40310008, 0, 6, 0x7B208⟩
/-- R449, ACT, register ACT_SPM_CFG, bits [13:6], RW. -/
def SPM_IMAX : Fld := ⟨0x40310008, 6, 8, 0x7B208⟩
/-- R449, ACT, register ACT_SPM_CFG, bits [21:14], RW. -/
def SPM_BRAKE_RPM : Fld := ⟨0x40310008, 14, 8, 0x7B208⟩
/-- R450, ACT, register ACT_VCM_CFGn, bits [9:0], RW. -/
def VCM_RES (n : Nat) : Fld := ⟨0x40310040 + 0x10 * n, 0, 10, 0xF0A320⟩
/-- R450, ACT, register ACT_VCM_CFGn, bits [17:10], RW. -/
def RETRACT_VEL (n : Nat) : Fld := ⟨0x40310040 + 0x10 * n, 10, 8, 0xF0A320⟩
/-- R450, ACT, register ACT_VCM_CFGn, bits [25:18], RW. -/
def RETRACT_IMAX (n : Nat) : Fld := ⟨0x40310040 + 0x10 * n, 18, 8, 0xF0A320⟩
/-- R450, ACT, register ACT_VCM_PARKn, bits [7:0], RW. -/
def PARK_HOLD_MS (n : Nat) : Fld := ⟨0x40310044 + 0x10 * n, 0, 8, 0x1E1E14⟩
/-- R450, ACT, register ACT_VCM_PARKn, bits [15:8], RW. -/
def PARK_HOLD_I (n : Nat) : Fld := ⟨0x40310044 + 0x10 * n, 8, 8, 0x1E1E14⟩
/-- R450, ACT, register ACT_VCM_PARKn, bits [23:16], RW. -/
def LOAD_VEL (n : Nat) : Fld := ⟨0x40310044 + 0x10 * n, 16, 8, 0x1E1E14⟩
/-- R450, ACT, register ACT_VCM_STATn, bits [2:0], RO. -/
def VCM_STATE (n : Nat) : Fld := ⟨0x40310048 + 0x10 * n, 0, 3, 0x25⟩
/-- R450, ACT, register ACT_VCM_STATn, bits [3], RO. -/
def VCM_IRMS_LIM (n : Nat) : Fld := ⟨0x40310048 + 0x10 * n, 3, 1, 0x25⟩
/-- R450, ACT, register ACT_VCM_STATn, bits [4], RO. -/
def VCM_PWR_LIM (n : Nat) : Fld := ⟨0x40310048 + 0x10 * n, 4, 1, 0x25⟩
/-- R450, ACT, register ACT_VCM_STATn, bits [5], RO. -/
def PARKED (n : Nat) : Fld := ⟨0x40310048 + 0x10 * n, 5, 1, 0x25⟩
/-- R450, ACT, register ACT_VCM_STATn, bits [6], W1C. -/
def LOAD_FAIL (n : Nat) : Fld := ⟨0x40310048 + 0x10 * n, 6, 1, 0x25⟩
/-- R450, ACT, register ACT_VCM_STATn, bits [15:8], RO. -/
def RETRACT_CNT (n : Nat) : Fld := ⟨0x40310048 + 0x10 * n, 8, 8, 0x25⟩
/-- R450, ACT, register ACT_VCM_STATn, bits [31:16], RO. -/
def VCM_I_NOW (n : Nat) : Fld := ⟨0x40310048 + 0x10 * n, 16, 16, 0x25⟩
/-- R450, ACT, register ACT_VCM_ILn, bits [15:0], RW. -/
def IL_KP (n : Nat) : Fld := ⟨0x4031004C + 0x10 * n, 0, 16, 0x2001000⟩
/-- R450, ACT, register ACT_VCM_ILn, bits [31:16], RW. -/
def IL_KI (n : Nat) : Fld := ⟨0x4031004C + 0x10 * n, 16, 16, 0x2001000⟩
/-- R450, ACT, register ACT_VCM_PWR, bits [7:0], RW. -/
def VCM_PWR_MAX : Fld := ⟨0x40310080, 0, 8, 0x18⟩
/-- R450, ACT, register ACT_SHK, bits [9:0], RW. -/
def SHK_THR : Fld := ⟨0x40310090, 0, 10, 0x1012C⟩
/-- R450, ACT, register ACT_SHK, bits [17:10], RW. -/
def SHOCK_HOLD_WEDGES : Fld := ⟨0x40310090, 10, 8, 0x1012C⟩
/-- R450, ACT, register ACT_SHK, bits [18], RO. -/
def SHOCK_HOLD : Fld := ⟨0x40310090, 18, 1, 0x1012C⟩
/-- R450, ACT, register ACT_SHK_PEAK, bits [15:0], W1C. -/
def SHK_PEAK_X : Fld := ⟨0x40310094, 0, 16, 0⟩
/-- R450, ACT, register ACT_SHK_PEAK, bits [31:16], W1C. -/
def SHK_PEAK_Y : Fld := ⟨0x40310094, 16, 16, 0⟩
/-- R472, SVT, register SVT_TRIAD_CFG, bits [3:0], RW. -/
def DIS_RETIRE_THR : Fld := ⟨0x40300100, 0, 4, 0x11004⟩
/-- R472, SVT, register SVT_TRIAD_CFG, bits [15:8], RW. -/
def DIS_WIN_64F : Fld := ⟨0x40300100, 8, 8, 0x11004⟩
/-- R472, SVT, register SVT_TRIAD_CFG, bits [16], RW. -/
def AUTO_WARM : Fld := ⟨0x40300100, 16, 1, 0x11004⟩
/-- R472, SVT, register SVT_TRIAD_CFG, bits [23:20], W1S. -/
def LANE_RETIRE : Fld := ⟨0x40300100, 20, 4, 0x11004⟩
/-- R472, SVT, register SVT_TRIAD_CFG, bits [27:24], W1S. -/
def LANE_WARM : Fld := ⟨0x40300100, 24, 4, 0x11004⟩
/-- R472, SVT, register SVT_TRIAD_CFG, bits [28], W1S. -/
def TRIAD_CNT_CLR : Fld := ⟨0x40300100, 28, 1, 0x11004⟩
/-- R473, SVT, register SVT_TRIAD_STAT, bits [1:0], RO. -/
def VOTERS : Fld := ⟨0x40300104, 0, 2, 0x3⟩
/-- R473, SVT, register SVT_TRIAD_STAT, bits [2], RO. -/
def WARM_BUSY : Fld := ⟨0x40300104, 2, 1, 0x3⟩
/-- R473, SVT, register SVT_TRIAD_STAT, bits [4:3], RO. -/
def WARM_LANE : Fld := ⟨0x40300104, 3, 2, 0x3⟩
/-- R473, SVT, register SVT_TRIAD_STAT, bits [7:5], RO. -/
def WARM_PHASE : Fld := ⟨0x40300104, 5, 3, 0x3⟩
/-- R473, SVT, register SVT_TRIAD_STAT, bits [8], RO. -/
def TRIAD_LOST : Fld := ⟨0x40300104, 8, 1, 0x3⟩
/-- R473, SVT, register SVT_TRIAD_STAT, bits [9], W1C. -/
def WARM_CFG_ERR : Fld := ⟨0x40300104, 9, 1, 0x3⟩
/-- R473, SVT, register SVT_TRIAD_STAT, bits [10], W1C. -/
def WARM_ABORT : Fld := ⟨0x40300104, 10, 1, 0x3⟩
/-- R473, SVT, register SVT_TRIAD_STAT, bits [17:14], W1S. -/
def LANE_BIST : Fld := ⟨0x40300104, 14, 4, 0x3⟩
/-- R473, SVT, register SVT_TRIAD_STAT, bits [18], RO. -/
def BIST_BUSY : Fld := ⟨0x40300104, 18, 1, 0x3⟩
/-- R474, SVT, register SVT_VOTE_CNT, bits [11:0], RO. -/
def DUAL_MISMATCH_CNT : Fld := ⟨0x40300110, 0, 12, 0⟩
/-- R474, SVT, register SVT_VOTE_CNT, bits [23:12], RO. -/
def TRIPLE_MISMATCH_CNT : Fld := ⟨0x40300110, 12, 12, 0⟩
/-- R474, SVT, register SVT_VOTE_CNT, bits [31:24], RO. -/
def VOTER_ERR_CNT : Fld := ⟨0x40300110, 24, 8, 0⟩
/-- R474, SVT, register SVT_WARM_CNT, bits [7:0], RO. -/
def WARM_STARTS : Fld := ⟨0x40300114, 0, 8, 0⟩
/-- R474, SVT, register SVT_WARM_CNT, bits [15:8], RO. -/
def RETIREMENTS : Fld := ⟨0x40300114, 8, 8, 0⟩
/-- R474, SVT, register SVT_WARM_CNT, bits [31:16], RO. -/
def WARM_TIME_LAST : Fld := ⟨0x40300114, 16, 16, 0⟩
/-- R474, SVT, register SVT_CKPT, bits [15:0], RO. -/
def CKPT_SEQ : Fld := ⟨0x40300118, 0, 16, 0⟩
/-- R474, SVT, register SVT_CKPT, bits [16], RO. -/
def CKPT_BUF : Fld := ⟨0x40300118, 16, 1, 0⟩
/-- R474, SVT, register SVT_CKPT, bits [20:17], RO. -/
def CKPT_UNCLEAN : Fld := ⟨0x40300118, 17, 4, 0⟩
/-- R475, SVT, register SVT_LANE_STAT, bits [8l+2:8l], RO. -/
def LANE_STATE (l : Nat) : Fld := ⟨0x40300140, 8 * l + 0, 3, 0x00020202⟩
/-- R475, SVT, register SVT_LANE_STAT, bits [8l+5:8l+3], RO. -/
def LANE_CAUSE (l : Nat) : Fld := ⟨0x40300140, 8 * l + 3, 3, 0x00020202⟩
/-- R475, SVT, register SVT_LANE_STAT, bits [8l+6], RO. -/
def LANE_BIST_PASS (l : Nat) : Fld := ⟨0x40300140, 8 * l + 6, 1, 0x00020202⟩
/-- R475, SVT, register SVT_LANE_CNTl, bits [15:0], RO. -/
def LANE_DIS_CNT (l : Nat) : Fld := ⟨0x40300150 + 0x4 * l, 0, 16, 0⟩
/-- R475, SVT, register SVT_LANE_CNTl, bits [23:16], RO. -/
def LANE_CE_CNT (l : Nat) : Fld := ⟨0x40300150 + 0x4 * l, 16, 8, 0⟩
/-- R475, SVT, register SVT_LANE_CNTl, bits [31:24], RO. -/
def LANE_WIN_DIS (l : Nat) : Fld := ⟨0x40300150 + 0x4 * l, 24, 8, 0⟩
/-- R476, SVT, register SVT_CKPT_Wi, bits [31:0], RO. -/
def CKPT_WORD (i : Nat) : Fld := ⟨0x40300800 + 0x4 * i, 0, 32, 0⟩
/-- R509, ASD, register ASD_CTL, bits [3:0], RW. -/
def ASST_EN : Fld := ⟨0x40320000, 0, 4, 0x900⟩
/-- R509, ASD, register ASD_CTL, bits [7:4], W1C. -/
def ASST_FORCED : Fld := ⟨0x40320000, 4, 4, 0x900⟩
/-- R509, ASD, register ASD_CTL, bits [8], RW. -/
def AGE_EN : Fld := ⟨0x40320000, 8, 1, 0x900⟩
/-- R509, ASD, register ASD_CTL, bits [12:9], RW. -/
def AGE_SHIFT : Fld := ⟨0x40320000, 9, 4, 0x900⟩
/-- R509, ASD, register ASD_CTL, bits [13], W1S. -/
def ASD_CNT_CLR : Fld := ⟨0x40320000, 13, 1, 0x900⟩
/-- R509, ASD, register ASD_CTL, bits [15:14], RO. -/
def ASST_TYPE : Fld := ⟨0x40320000, 14, 2, 0x900⟩
/-- R509, ASD, register ASD_RAILn, bits [6:0], RW. -/
def PASST_V (n : Nat) : Fld := ⟨0x40320010 + 0x4 * n, 0, 7, 0x19⟩
/-- R509, ASD, register ASD_RAILn, bits [7], RO. -/
def ASST_RAIL_OK (n : Nat) : Fld := ⟨0x40320010 + 0x4 * n, 7, 1, 0x19⟩
/-- R509, ASD, register ASD_AGE, bits [15:0], RW. -/
def AGE_WARN_THR : Fld := ⟨0x40320020, 0, 16, 0x18001400⟩
/-- R509, ASD, register ASD_AGE, bits [31:16], RW. -/
def AGE_LIMIT_THR : Fld := ⟨0x40320020, 16, 16, 0x18001400⟩
/-- R509, ASD, register ASD_AGE2, bits [15:0], RW. -/
def AGE_MIN : Fld := ⟨0x40320024, 0, 16, 0x30400C00⟩
/-- R509, ASD, register ASD_AGE2, bits [23:16], RW. -/
def AGE_N_1K : Fld := ⟨0x40320024, 16, 8, 0x30400C00⟩
/-- R509, ASD, register ASD_AGE2, bits [31:24], RW. -/
def ASST_STABLE_LIM : Fld := ⟨0x40320024, 24, 8, 0x30400C00⟩
/-- R509, ASD, register ASD_CNT, bits [15:0], RO. -/
def ASST_CLAMP_CNT : Fld := ⟨0x40320028, 0, 16, 0⟩
/-- R509, ASD, register ASD_CNT, bits [31:16], RO. -/
def HTS_STALE_CNT : Fld := ⟨0x40320028, 16, 16, 0⟩
/-- R510, ASD, register ASD_SLOTk, bits [4:0], RO. -/
def SLOT_HEAD (k : Nat) : Fld := ⟨0x40320100 + 0x8 * k, 0, 5, 0⟩
/-- R510, ASD, register ASD_SLOTk, bits [10:5], RO. -/
def SLOT_ZONE (k : Nat) : Fld := ⟨0x40320100 + 0x8 * k, 5, 6, 0⟩
/-- R510, ASD, register ASD_SLOTk, bits [11], RO. -/
def SLOT_PLACED (k : Nat) : Fld := ⟨0x40320100 + 0x8 * k, 11, 1, 0⟩
/-- R510, ASD, register ASD_SLOTk, bits [12], RO. -/
def SLOT_READY (k : Nat) : Fld := ⟨0x40320100 + 0x8 * k, 12, 1, 0⟩
/-- R510, ASD, register ASD_SLOTk, bits [13], RO. -/
def SLOT_STABLE (k : Nat) : Fld := ⟨0x40320100 + 0x8 * k, 13, 1, 0⟩
/-- R510, ASD, register ASD_SLOTk, bits [14], RO. -/
def SLOT_WROTE (k : Nat) : Fld := ⟨0x40320100 + 0x8 * k, 14, 1, 0⟩
/-- R510, ASD, register ASD_SLOTk, bits [15], RO. -/
def SLOT_CLAMP (k : Nat) : Fld := ⟨0x40320100 + 0x8 * k, 15, 1, 0⟩
/-- R510, ASD, register ASD_SLOTk, bits [27:16], RO. -/
def ASST_CODE_NOW (k : Nat) : Fld := ⟨0x40320100 + 0x8 * k, 16, 12, 0⟩
/-- R510, ASD, register ASD_HTSk, bits [15:0], RO. -/
def HTS_LAST (k : Nat) : Fld := ⟨0x40320104 + 0x8 * k, 0, 16, 0⟩
/-- R510, ASD, register ASD_HTSk, bits [31:16], RO. -/
def HTS_TGT_NOW (k : Nat) : Fld := ⟨0x40320104 + 0x8 * k, 16, 16, 0⟩
/-- R510, ASD, register ASD_HEADj, bits [15:0], RW. -/
def AGE_GAIN (j : Nat) : Fld := ⟨0x40320200 + 0x4 * j, 0, 16, 0x1000⟩
/-- R510, ASD, register ASD_HEADj, bits [27:16], RW. -/
def ASST_MAX (j : Nat) : Fld := ⟨0x40320200 + 0x4 * j, 16, 12, 0x1000⟩
/-- R510, ASD, register ASD_HEADj, bits [28], RO. -/
def AGE_OVER_WARN (j : Nat) : Fld := ⟨0x40320200 + 0x4 * j, 28, 1, 0x1000⟩
/-- R510, ASD, register ASD_HEADj, bits [29], RO. -/
def AGE_SAT (j : Nat) : Fld := ⟨0x40320200 + 0x4 * j, 29, 1, 0x1000⟩
/-- R510, ASD, register ASD_AGECNTj, bits [15:0], RO. -/
def AGE_STEPS (j : Nat) : Fld := ⟨0x40320280 + 0x4 * j, 0, 16, 0⟩
/-- R510, ASD, register ASD_AGECNTj, bits [31:16], RO. -/
def AGE_ACC_1K (j : Nat) : Fld := ⟨0x40320280 + 0x4 * j, 16, 16, 0⟩
/-- R510, ASD, register ASD_TBLj_z, bits [11:0], RW. -/
def ASST_BASE (j : Nat) (z : Nat) : Fld := ⟨0x40324000 + 0x100 * j + 0x4 * z, 0, 12, 0⟩
/-- R510, ASD, register ASD_TBLj_z, bits [15:12], RW. -/
def ASST_PRE (j : Nat) (z : Nat) : Fld := ⟨0x40324000 + 0x100 * j + 0x4 * z, 12, 4, 0⟩
/-- R510, ASD, register ASD_TBLj_z, bits [31:16], RW. -/
def HTS_TGT (j : Nat) (z : Nat) : Fld := ⟨0x40324000 + 0x100 * j + 0x4 * z, 16, 16, 0⟩
/-- R511, CAL, register CAL_CFG, bits [3:0], RW. -/
def RAMP_STEPS : Fld := ⟨0x40520000, 0, 4, 0x6E000D4⟩
/-- R511, CAL, register CAL_CFG, bits [11:4], RW. -/
def CAL_ONTRK_LIM : Fld := ⟨0x40520000, 4, 8, 0x6E000D4⟩
/-- R511, CAL, register CAL_CFG, bits [19:12], RW. -/
def CAL_TMIN : Fld := ⟨0x40520000, 12, 8, 0x6E000D4⟩
/-- R511, CAL, register CAL_CFG, bits [27:20], RW. -/
def CAL_TMAX : Fld := ⟨0x40520000, 20, 8, 0x6E000D4⟩
/-- R511, CAL, register CAL_STORE, bits [0], W1S. -/
def STORE_GO : Fld := ⟨0x40520004, 0, 1, 0⟩
/-- R511, CAL, register CAL_STORE, bits [1], RO. -/
def STORE_BUSY : Fld := ⟨0x40520004, 1, 1, 0⟩
/-- R511, CAL, register CAL_STORE, bits [2], RO. -/
def STORE_AGAIN : Fld := ⟨0x40520004, 2, 1, 0⟩
/-- R511, CAL, register CAL_STORE, bits [3], W1C. -/
def STORE_FAIL : Fld := ⟨0x40520004, 3, 1, 0⟩
/-- R511, CAL, register CAL_STORE, bits [4], RO. -/
def ACTIVE_BANK : Fld := ⟨0x40520004, 4, 1, 0⟩
/-- R511, CAL, register CAL_STORE, bits [5], RO. -/
def SET_DIRTY : Fld := ⟨0x40520004, 5, 1, 0⟩
/-- R511, CAL, register CAL_STORE, bits [6], RO. -/
def CAL_LOADED : Fld := ⟨0x40520004, 6, 1, 0⟩
/-- R511, CAL, register CAL_STORE, bits [7], RO. -/
def CAL_FALLBACK : Fld := ⟨0x40520004, 7, 1, 0⟩
/-- R511, CAL, register CAL_STORE, bits [8], RO. -/
def SET_DAMAGED : Fld := ⟨0x40520004, 8, 1, 0⟩
/-- R511, CAL, register CAL_STORE, bits [10:9], RO. -/
def NOR_TOKEN : Fld := ⟨0x40520004, 9, 2, 0⟩
/-- R511, CAL, register CAL_STORE, bits [29:16], RO. -/
def SET_4K : Fld := ⟨0x40520004, 16, 14, 0⟩
/-- R511, CAL, register CAL_SEQ, bits [31:0], RO. -/
def ACTIVE_SEQ : Fld := ⟨0x40520008, 0, 32, 0⟩
/-- R511, CAL, register CAL_BUF_LO, bits [31:0], RW. -/
def STORE_BUF_LO : Fld := ⟨0x4052000C, 0, 32, 0⟩
/-- R511, CAL, register CAL_BUF_HI, bits [3:0], RW. -/
def STORE_BUF_HI : Fld := ⟨0x40520010, 0, 4, 0⟩
/-- R511, CAL, register CAL_TBL_ADDR, bits [17:0], RW. -/
def TBL_ADDR : Fld := ⟨0x40520014, 0, 18, 0⟩
/-- R511, CAL, register CAL_TBL_DATA, bits [31:0], RW. -/
def TBL_DATA : Fld := ⟨0x40520018, 0, 32, 0⟩
/-- R511, CAL, register CAL_RAMP, bits [12:0], RO. -/
def RAMP_PEND : Fld := ⟨0x4052001C, 0, 13, 0⟩
/-- R511, CAL, register CAL_RAMP, bits [13], W1C. -/
def RAMP_CANCEL : Fld := ⟨0x4052001C, 13, 1, 0⟩
/-- R511, CAL, register CAL_RAMP, bits [31:16], RO. -/
def RAMP_FALLBACK_CNT : Fld := ⟨0x4052001C, 16, 16, 0⟩
/-- R511, CAL, register CAL_CNT, bits [15:0], RO. -/
def STORE_CNT : Fld := ⟨0x40520020, 0, 16, 0⟩
/-- R511, CAL, register CAL_CNT, bits [31:16], RO. -/
def STORE_FAIL_CNT : Fld := ⟨0x40520020, 16, 16, 0⟩
/-- R511, CAL, register CAL_RUN_CTLk, bits [3:0], RW. -/
def RUN_TYPE (k : Nat) : Fld := ⟨0x40520100 + 0x20 * k, 0, 4, 0⟩
/-- R511, CAL, register CAL_RUN_CTLk, bits [8:4], RW. -/
def RUN_UNIT (k : Nat) : Fld := ⟨0x40520100 + 0x20 * k, 4, 5, 0⟩
/-- R511, CAL, register CAL_RUN_CTLk, bits [9], RW. -/
def RUN_SLOT (k : Nat) : Fld := ⟨0x40520100 + 0x20 * k, 9, 1, 0⟩
/-- R511, CAL, register CAL_RUN_CTLk, bits [10], W1S. -/
def RUN_START (k : Nat) : Fld := ⟨0x40520100 + 0x20 * k, 10, 1, 0⟩
/-- R511, CAL, register CAL_RUN_CTLk, bits [11], W1S. -/
def RUN_FINISH (k : Nat) : Fld := ⟨0x40520100 + 0x20 * k, 11, 1, 0⟩
/-- R511, CAL, register CAL_RUN_CTLk, bits [12], W1S. -/
def RUN_CANCEL (k : Nat) : Fld := ⟨0x40520100 + 0x20 * k, 12, 1, 0⟩
/-- R511, CAL, register CAL_RUN_PREk, bits [11:0], RW. -/
def PRE_EXTRA (k : Nat) : Fld := ⟨0x40520104 + 0x20 * k, 0, 12, 0⟩
/-- R511, CAL, register CAL_RUN_PREk, bits [27:16], RO. -/
def PRE_ACTIVE (k : Nat) : Fld := ⟨0x40520104 + 0x20 * k, 16, 12, 0⟩
/-- R511, CAL, register CAL_RUN_STATk, bits [2:0], RO. -/
def RUN_STATE (k : Nat) : Fld := ⟨0x40520108 + 0x20 * k, 0, 3, 0⟩
/-- R511, CAL, register CAL_RUN_STATk, bits [5:3], RO. -/
def RUN_RESULT (k : Nat) : Fld := ⟨0x40520108 + 0x20 * k, 3, 3, 0⟩
/-- R511, CAL, register CAL_RUN_STATk, bits [9:6], RO. -/
def RUN_VIOL (k : Nat) : Fld := ⟨0x40520108 + 0x20 * k, 6, 4, 0⟩
/-- R511, CAL, register CAL_RUN_STATk, bits [21:10], RO. -/
def VIOL_MASK (k : Nat) : Fld := ⟨0x40520108 + 0x20 * k, 10, 12, 0⟩
/-- R511, CAL, register CAL_RUN_STATk, bits [22], W1C. -/
def TRIAL_OVF (k : Nat) : Fld := ⟨0x40520108 + 0x20 * k, 22, 1, 0⟩
/-- R511, CAL, register CAL_RUN_LISTk, bits [31:0], RW. -/
def LIST_ADDR_LO (k : Nat) : Fld := ⟨0x4052010C + 0x20 * k, 0, 32, 0⟩
/-- R511, CAL, register CAL_RUN_LIST2k, bits [3:0], RW. -/
def LIST_ADDR_HI (k : Nat) : Fld := ⟨0x40520110 + 0x20 * k, 0, 4, 0⟩
/-- R511, CAL, register CAL_RUN_LIST2k, bits [16:4], RW. -/
def LIST_N (k : Nat) : Fld := ⟨0x40520110 + 0x20 * k, 4, 13, 0⟩
/-- R530, PAK, register PAK_CTL, bits [9:0], RW. -/
def RD_STAGE_MIB : Fld := ⟨0x40050000, 0, 10, 0x40⟩
/-- R530, PAK, register PAK_CTL, bits [10], W1S. -/
def PAK_CNT_CLR : Fld := ⟨0x40050000, 10, 1, 0x40⟩
/-- R530, PAK, register PAK_CTL, bits [11], W1C. -/
def PAK_CFG_ERR : Fld := ⟨0x40050000, 11, 1, 0x40⟩
/-- R530, PAK, register PAK_POOL_LO, bits [31:0], RW. -/
def POOL_BASE_LO : Fld := ⟨0x40050004, 0, 32, 0⟩
/-- R530, PAK, register PAK_POOL_HI, bits [3:0], RW. -/
def POOL_BASE_HI : Fld := ⟨0x40050008, 0, 4, 0x20000000⟩
/-- R530, PAK, register PAK_POOL_HI, bits [31:16], RW. -/
def POOL_4K : Fld := ⟨0x40050008, 16, 16, 0x20000000⟩
/-- R530, PAK, register PAK_STAT, bits [15:0], RO. -/
def POOL_FREE : Fld := ⟨0x4005000C, 0, 16, 0⟩
/-- R530, PAK, register PAK_STAT, bits [19:16], RO. -/
def POOL_STALL : Fld := ⟨0x4005000C, 16, 4, 0⟩
/-- R530, PAK, register PAK_STAT, bits [29:20], RO. -/
def RD_STAGED_MIB : Fld := ⟨0x4005000C, 20, 10, 0⟩
/-- R530, PAK, register PAK_TOKEN, bits [11:0], RO. -/
def PACK_TOKEN : Fld := ⟨0x40050010, 0, 12, 0⟩
/-- R530, PAK, register PAK_TOKEN, bits [14:12], RO. -/
def UNPACK_TOKEN : Fld := ⟨0x40050010, 12, 3, 0⟩
/-- R530, PAK, register PAK_TOKEN, bits [16:15], RO. -/
def POOL_TOKEN : Fld := ⟨0x40050010, 15, 2, 0⟩
/-- R531, PAK, register PAK_NS_CFGk, bits [1:0], RW. -/
def NS_RATIO (k : Nat) : Fld := ⟨0x40050100 + 0x4 * k, 0, 2, 0x864⟩
/-- R531, PAK, register PAK_NS_CFGk, bits [8:2], RW. -/
def OVF_PCT (k : Nat) : Fld := ⟨0x40050100 + 0x4 * k, 2, 7, 0x864⟩
/-- R531, PAK, register PAK_NS_CFGk, bits [16:9], RW. -/
def EXT_RSV_GIB (k : Nat) : Fld := ⟨0x40050100 + 0x4 * k, 9, 8, 0x864⟩
/-- R531, PAK, register PAK_NS_CFGk, bits [31], RO. -/
def NS_CFG_LOCK (k : Nat) : Fld := ⟨0x40050100 + 0x4 * k, 31, 1, 0x864⟩
/-- R531, PAK, register PAK_EXTk, bits [17:0], RO. -/
def EXT_FREE_MIB (k : Nat) : Fld := ⟨0x40050140 + 0x4 * k, 0, 18, 0⟩
/-- R531, PAK, register PAK_EXTk, bits [18], RO. -/
def EXT_STOP (k : Nat) : Fld := ⟨0x40050140 + 0x4 * k, 18, 1, 0⟩
/-- R531, PAK, register PAK_ZONE_SEL, bits [3:0], RW. -/
def ZSEL_NS : Fld := ⟨0x40050020, 0, 4, 0⟩
/-- R531, PAK, register PAK_ZONE_SEL, bits [23:4], RW. -/
def ZSEL_ZONE : Fld := ⟨0x40050020, 4, 20, 0⟩
/-- R531, PAK, register PAK_ZONE_RATIO, bits [1:0], RW. -/
def ZR_RATIO : Fld := ⟨0x40050024, 0, 2, 0⟩
/-- R531, PAK, register PAK_ZONE_RATIO, bits [2], W1S. -/
def ZR_WRITE : Fld := ⟨0x40050024, 2, 1, 0⟩
/-- R531, PAK, register PAK_ZONE_RATIO, bits [3], W1S. -/
def ZR_READ : Fld := ⟨0x40050024, 3, 1, 0⟩
/-- R531, PAK, register PAK_ZONE_RATIO, bits [4], RO. -/
def ZR_DONE : Fld := ⟨0x40050024, 4, 1, 0⟩
/-- R532, PAK, register PAK_BLK_CNT, bits [31:0], RO. -/
def PACKED_CNT : Fld := ⟨0x40050200, 0, 32, 0⟩
/-- R532, PAK, register PAK_RAW_CNT, bits [31:0], RO. -/
def RAW_CNT : Fld := ⟨0x40050204, 0, 32, 0⟩
/-- R532, PAK, register PAK_SECT_CNT, bits [31:0], RO. -/
def SECT_OUT_CNT : Fld := ⟨0x40050208, 0, 32, 0⟩
/-- R532, PAK, register PAK_SPILL_CNT, bits [31:0], RO. -/
def SPILL_CNT : Fld := ⟨0x4005020C, 0, 32, 0⟩
/-- R532, PAK, register PAK_EXT_CNT, bits [15:0], RO. -/
def EXTERN_CNT : Fld := ⟨0x40050210, 0, 16, 0⟩
/-- R532, PAK, register PAK_EXT_CNT, bits [31:16], RO. -/
def DECOMP_ERR_CNT : Fld := ⟨0x40050210, 16, 16, 0⟩
/-- R532, PAK, register PAK_STALL_CNT, bits [31:0], RO. -/
def POOL_STALL_CNT : Fld := ⟨0x40050214, 0, 32, 0⟩
/-- R563, DMC, register DMC_CTL, bits [0], RW. -/
def CE_WB : Fld := ⟨0x40060000, 0, 1, 0x1⟩
/-- R563, DMC, register DMC_CTL, bits [1], RW. -/
def DIAG_EN : Fld := ⟨0x40060000, 1, 1, 0x1⟩
/-- R563, DMC, register DMC_CTL, bits [2], W1S. -/
def DMC_CNT_CLR : Fld := ⟨0x40060000, 2, 1, 0x1⟩
/-- R563, DMC, register DMC_CTL, bits [3], W1S. -/
def CE_LOG_CLR : Fld := ⟨0x40060000, 3, 1, 0x1⟩
/-- R563, DMC, register DMC_STAT, bits [0], RO. -/
def DRAM_READY : Fld := ⟨0x40060004, 0, 1, 0⟩
/-- R563, DMC, register DMC_STAT, bits [1], W1C. -/
def REG_CFG_ERR : Fld := ⟨0x40060004, 1, 1, 0⟩
/-- R563, DMC, register DMC_STAT, bits [2], RO. -/
def SCRUB_BEHIND : Fld := ⟨0x40060004, 2, 1, 0⟩
/-- R563, DMC, register DMC_STAT, bits [8:3], RO. -/
def CE_LOG_USED : Fld := ⟨0x40060004, 3, 6, 0⟩
/-- R563, DMC, register DMC_STAT, bits [11:9], RO. -/
def DRAM_TOKEN : Fld := ⟨0x40060004, 9, 3, 0⟩
/-- R564, DMC, register DMC_REG_BASEk, bits [14:0], RW. -/
def REG_BASE (k : Nat) : Fld := ⟨0x40060200 + 0x10 * k, 0, 15, 0⟩
/-- R564, DMC, register DMC_REG_BASEk, bits [30], RW. -/
def REG_ADOPT (k : Nat) : Fld := ⟨0x40060200 + 0x10 * k, 30, 1, 0⟩
/-- R564, DMC, register DMC_REG_BASEk, bits [31], RW. -/
def REG_EN (k : Nat) : Fld := ⟨0x40060200 + 0x10 * k, 31, 1, 0⟩
/-- R564, DMC, register DMC_REG_SIZEk, bits [15:0], RW. -/
def REG_SIZE (k : Nat) : Fld := ⟨0x40060204 + 0x10 * k, 0, 16, 0⟩
/-- R564, DMC, register DMC_REG_SIZEk, bits [17:16], RW. -/
def REG_CODE (k : Nat) : Fld := ⟨0x40060204 + 0x10 * k, 16, 2, 0⟩
/-- R564, DMC, register DMC_REG_CHKk, bits [19:0], RW. -/
def CHK_BASE (k : Nat) : Fld := ⟨0x40060208 + 0x10 * k, 0, 20, 0⟩
/-- R564, DMC, register DMC_REG_OPk, bits [0], W1S. -/
def REG_MARK (k : Nat) : Fld := ⟨0x4006020C + 0x10 * k, 0, 1, 0⟩
/-- R564, DMC, register DMC_REG_OPk, bits [1], RO. -/
def REG_BUSY (k : Nat) : Fld := ⟨0x4006020C + 0x10 * k, 1, 1, 0⟩
/-- R564, DMC, register DMC_REG_OPk, bits [31:8], RO. -/
def REG_WR_GRAN (k : Nat) : Fld := ⟨0x4006020C + 0x10 * k, 8, 24, 0⟩
/-- R565, DMC, register DMC_SCRUB, bits [9:0], RW. -/
def SCRUB_PASS_H : Fld := ⟨0x40060010, 0, 10, 0x4A8⟩
/-- R565, DMC, register DMC_SCRUB, bits [10], RW. -/
def SCRUB_EN : Fld := ⟨0x40060010, 10, 1, 0x4A8⟩
/-- R565, DMC, register DMC_SCRUB, bits [31:16], RO. -/
def SCRUB_PASSES : Fld := ⟨0x40060010, 16, 16, 0x4A8⟩
/-- R565, DMC, register DMC_SCRUB_POS, bits [28:0], RO. -/
def SCRUB_WORD : Fld := ⟨0x40060014, 0, 29, 0⟩
/-- R565, DMC, register DMC_SPARE_CTL, bits [7:0], RW. -/
def SPR_BANK : Fld := ⟨0x40060020, 0, 8, 0⟩
/-- R565, DMC, register DMC_SPARE_CTL, bits [23:8], RW. -/
def SPR_ROW : Fld := ⟨0x40060020, 8, 16, 0⟩
/-- R565, DMC, register DMC_SPARE_CTL, bits [24], W1S. -/
def SPR_GO : Fld := ⟨0x40060020, 24, 1, 0⟩
/-- R565, DMC, register DMC_SPARE_CTL, bits [25], RO. -/
def SPR_BUSY : Fld := ⟨0x40060020, 25, 1, 0⟩
/-- R565, DMC, register DMC_SPARE_CTL, bits [26], W1C. -/
def SPR_DONE : Fld := ⟨0x40060020, 26, 1, 0⟩
/-- R565, DMC, register DMC_SPARE_CTL, bits [27], W1C. -/
def SPR_REFUSED : Fld := ⟨0x40060020, 27, 1, 0⟩
/-- R565, DMC, register DMC_SPARE_STAT, bits [9:0], RO. -/
def SPARE_FUSED : Fld := ⟨0x40060024, 0, 10, 0⟩
/-- R565, DMC, register DMC_SPARE_STAT, bits [31:16], RO. -/
def SPARE_SOFT : Fld := ⟨0x40060024, 16, 16, 0⟩
/-- R566, DMC, register DMC_DIAG_CTL, bits [28:0], RW. -/
def DIAG_WORD : Fld := ⟨0x40060080, 0, 29, 0⟩
/-- R566, DMC, register DMC_DIAG_CTL, bits [30:29], RW. -/
def DIAG_OP : Fld := ⟨0x40060080, 29, 2, 0⟩
/-- R566, DMC, register DMC_DIAG_CTL, bits [31], W1S. -/
def DIAG_GO : Fld := ⟨0x40060080, 31, 1, 0⟩
/-- R566, DMC, register DMC_DIAG_STAT, bits [0], RO. -/
def DIAG_DONE : Fld := ⟨0x40060084, 0, 1, 0⟩
/-- R566, DMC, register DMC_DIAG_STAT, bits [1], W1C. -/
def DIAG_REFUSED : Fld := ⟨0x40060084, 1, 1, 0⟩
/-- R566, DMC, register DMC_DIAG_CHK0, bits [31:0], RW. -/
def DIAG_CHK_LO : Fld := ⟨0x40060088, 0, 32, 0⟩
/-- R566, DMC, register DMC_DIAG_CHK1, bits [31:0], RW. -/
def DIAG_CHK_HI : Fld := ⟨0x4006008C, 0, 32, 0⟩
/-- R566, DMC, register DMC_DIAG_Dj, bits [31:0], RW. -/
def DIAG_DATA (j : Nat) : Fld := ⟨0x400600C0 + 0x4 * j, 0, 32, 0⟩
/-- R567, DMC, register DMC_CE_CNT, bits [31:0], RO. -/
def CE_CNT : Fld := ⟨0x40060040, 0, 32, 0⟩
/-- R567, DMC, register DMC_UE_CNT, bits [15:0], RO. -/
def UE_CNT : Fld := ⟨0x40060044, 0, 16, 0⟩
/-- R567, DMC, register DMC_UE_CNT, bits [31:16], RO. -/
def POISON_RD_CNT : Fld := ⟨0x40060044, 16, 16, 0⟩
/-- R567, DMC, register DMC_CURE_CNT, bits [15:0], RO. -/
def CURED_CNT : Fld := ⟨0x40060048, 0, 16, 0⟩
/-- R567, DMC, register DMC_CURE_CNT, bits [31:16], RO. -/
def CE_LOG_OVF : Fld := ⟨0x40060048, 16, 16, 0⟩
/-- R567, DMC, register DMC_UNWR_CNT, bits [31:0], RO. -/
def UNWRITTEN_RD_CNT : Fld := ⟨0x4006004C, 0, 32, 0⟩
/-- R568, DMC, register DMC_CELOGk_A, bits [28:0], RO. -/
def CEL_WORD (k : Nat) : Fld := ⟨0x40060400 + 0x10 * k, 0, 29, 0⟩
/-- R568, DMC, register DMC_CELOGk_A, bits [30:29], RO. -/
def CEL_CODE (k : Nat) : Fld := ⟨0x40060400 + 0x10 * k, 29, 2, 0⟩
/-- R568, DMC, register DMC_CELOGk_A, bits [31], W1C. -/
def CEL_VALID (k : Nat) : Fld := ⟨0x40060400 + 0x10 * k, 31, 1, 0⟩
/-- R568, DMC, register DMC_CELOGk_B, bits [9:0], RO. -/
def CEL_POS (k : Nat) : Fld := ⟨0x40060404 + 0x10 * k, 0, 10, 0⟩
/-- R568, DMC, register DMC_CELOGk_B, bits [13:10], RO. -/
def CEL_REGION (k : Nat) : Fld := ⟨0x40060404 + 0x10 * k, 10, 4, 0⟩
/-- R568, DMC, register DMC_CELOGk_B, bits [14], RO. -/
def CURED_BY_WRITE (k : Nat) : Fld := ⟨0x40060404 + 0x10 * k, 14, 1, 0⟩
/-- R568, DMC, register DMC_CELOGk_B, bits [15], RO. -/
def CEL_SCRUB (k : Nat) : Fld := ⟨0x40060404 + 0x10 * k, 15, 1, 0⟩
/-- R568, DMC, register DMC_CELOGk_B, bits [23:16], RO. -/
def CEL_REPEAT (k : Nat) : Fld := ⟨0x40060404 + 0x10 * k, 16, 8, 0⟩
/-- R568, DMC, register DMC_CELOGk_C, bits [31:0], RO. -/
def CEL_TIME (k : Nat) : Fld := ⟨0x40060408 + 0x10 * k, 0, 32, 0⟩
/-- R592, FCU, register FCU_CTL, bits [0], RW. -/
def SCHEME : Fld := ⟨0x40400000, 0, 1, 0x992⟩
/-- R592, FCU, register FCU_CTL, bits [1], RW. -/
def FATAL_RESET : Fld := ⟨0x40400000, 1, 1, 0x992⟩
/-- R592, FCU, register FCU_CTL, bits [9:2], RW. -/
def FATAL_RST_MS : Fld := ⟨0x40400000, 2, 8, 0x992⟩
/-- R592, FCU, register FCU_CTL, bits [11:10], RW. -/
def FATAL_RST_MAX : Fld := ⟨0x40400000, 10, 2, 0x992⟩
/-- R592, FCU, register FCU_CTL, bits [12], W1S. -/
def FCU_CFG_LOCK : Fld := ⟨0x40400000, 12, 1, 0x992⟩
/-- R592, FCU, register FCU_CTL, bits [13], W1S. -/
def Q_POP : Fld := ⟨0x40400000, 13, 1, 0x992⟩
/-- R592, FCU, register FCU_CTL, bits [14], W1S. -/
def FCU_CNT_CLR : Fld := ⟨0x40400000, 14, 1, 0x992⟩
/-- R592, FCU, register FCU_STAT, bits [6:0], RO. -/
def Q_COUNT : Fld := ⟨0x40400004, 0, 7, 0⟩
/-- R592, FCU, register FCU_STAT, bits [9:8], W1C. -/
def HIGH_CLASS : Fld := ⟨0x40400004, 8, 2, 0⟩
/-- R592, FCU, register FCU_STAT, bits [12:10], W1C. -/
def HIGH_SEV : Fld := ⟨0x40400004, 10, 3, 0⟩
/-- R592, FCU, register FCU_STAT, bits [13], RO. -/
def FATAL : Fld := ⟨0x40400004, 13, 1, 0⟩
/-- R592, FCU, register FCU_STAT, bits [14], RO. -/
def EXT_RETRACT : Fld := ⟨0x40400004, 14, 1, 0⟩
/-- R592, FCU, register FCU_STAT, bits [31:16], RO. -/
def LOST_CNT : Fld := ⟨0x40400004, 16, 16, 0⟩
/-- R592, FCU, register FCU_TOKEN, bits [8:0], RO. -/
def INLET_TOKEN : Fld := ⟨0x40400008, 0, 9, 0⟩
/-- R593, FCU, register FCU_HOLD, bits [3:0], W1C. -/
def ACT_HOLD : Fld := ⟨0x4040000C, 0, 4, 0⟩
/-- R593, FCU, register FCU_TIME, bits [31:0], RO. -/
def FCU_US : Fld := ⟨0x40400010, 0, 32, 0⟩
/-- R593, FCU, register FCU_WDOG, bits [15:0], RW. -/
def WDOG_MS : Fld := ⟨0x40400014, 0, 16, 0x1F4⟩
/-- R593, FCU, register FCU_WDOG, bits [16], W1S. -/
def WDOG_EN : Fld := ⟨0x40400014, 16, 1, 0x1F4⟩
/-- R593, FCU, register FCU_WDOG, bits [17], W1S. -/
def WDOG_KICK : Fld := ⟨0x40400014, 17, 1, 0x1F4⟩
/-- R593, FCU, register FCU_PIP, bits [0], RO. -/
def PIP_RUN : Fld := ⟨0x40400018, 0, 1, 0x2⟩
/-- R593, FCU, register FCU_PIP, bits [1], RO. -/
def PIP_LEVEL : Fld := ⟨0x40400018, 1, 1, 0x2⟩
/-- R594, FCU, register FCU_REC0, bits [8:0], RO. -/
def REC_SRC : Fld := ⟨0x40400020, 0, 9, 0⟩
/-- R594, FCU, register FCU_REC0, bits [10:9], RO. -/
def REC_CLASS : Fld := ⟨0x40400020, 9, 2, 0⟩
/-- R594, FCU, register FCU_REC0, bits [13:11], RO. -/
def REC_SEV : Fld := ⟨0x40400020, 11, 3, 0⟩
/-- R594, FCU, register FCU_REC0, bits [16:14], RO. -/
def REC_SCOPE : Fld := ⟨0x40400020, 14, 3, 0⟩
/-- R594, FCU, register FCU_REC0, bits [22:17], RO. -/
def REC_REACT : Fld := ⟨0x40400020, 17, 6, 0⟩
/-- R594, FCU, register FCU_REC0, bits [23], RO. -/
def REC_OPEN : Fld := ⟨0x40400020, 23, 1, 0⟩
/-- R594, FCU, register FCU_REC0, bits [31:24], RO. -/
def REC_CONSEQ : Fld := ⟨0x40400020, 24, 8, 0⟩
/-- R594, FCU, register FCU_REC1, bits [8:0], RO. -/
def REC_CSRC : Fld := ⟨0x40400024, 0, 9, 0⟩
/-- R594, FCU, register FCU_REC1, bits [10:9], RO. -/
def REC_CMAX : Fld := ⟨0x40400024, 9, 2, 0⟩
/-- R594, FCU, register FCU_REC1, bits [11], RO. -/
def REC_CREACT : Fld := ⟨0x40400024, 11, 1, 0⟩
/-- R594, FCU, register FCU_REC1, bits [12], RO. -/
def REC_VALID : Fld := ⟨0x40400024, 12, 1, 0⟩
/-- R594, FCU, register FCU_REC1, bits [31:16], RO. -/
def REC_SEQ : Fld := ⟨0x40400024, 16, 16, 0⟩
/-- R594, FCU, register FCU_REC2, bits [31:0], RO. -/
def REC_DETAIL : Fld := ⟨0x40400028, 0, 32, 0⟩
/-- R594, FCU, register FCU_REC3, bits [31:0], RO. -/
def REC_TIME : Fld := ⟨0x4040002C, 0, 32, 0⟩
/-- R595, FCU, register FCU_SEV_ACTs, bits [1:0], RW. -/
def SEV_CLASS (s : Nat) : Fld := ⟨0x40400040 + 0x4 * s, 0, 2, sevActReset s⟩
/-- R595, FCU, register FCU_SEV_ACTs, bits [2], RW. -/
def SA_WG (s : Nat) : Fld := ⟨0x40400040 + 0x4 * s, 2, 1, sevActReset s⟩
/-- R595, FCU, register FCU_SEV_ACTs, bits [3], RW. -/
def SA_AS (s : Nat) : Fld := ⟨0x40400040 + 0x4 * s, 3, 1, sevActReset s⟩
/-- R595, FCU, register FCU_SEV_ACTs, bits [4], RW. -/
def SA_HOLD (s : Nat) : Fld := ⟨0x40400040 + 0x4 * s, 4, 1, sevActReset s⟩
/-- R595, FCU, register FCU_SEV_ACTs, bits [5], RW. -/
def SA_RET (s : Nat) : Fld := ⟨0x40400040 + 0x4 * s, 5, 1, sevActReset s⟩
/-- R595, FCU, register FCU_SEV_ACTs, bits [6], RW. -/
def SA_ARST (s : Nat) : Fld := ⟨0x40400040 + 0x4 * s, 6, 1, sevActReset s⟩
/-- R595, FCU, register FCU_OPENk, bits [8:0], RO. -/
def OPEN_SRC (k : Nat) : Fld := ⟨0x40400080 + 0x4 * k, 0, 9, 0⟩
/-- R595, FCU, register FCU_OPENk, bits [9], RO. -/
def OPEN_VALID (k : Nat) : Fld := ⟨0x40400080 + 0x4 * k, 9, 1, 0⟩
/-- R595, FCU, register FCU_OPENk, bits [10], RO. -/
def OPEN_SHADOW (k : Nat) : Fld := ⟨0x40400080 + 0x4 * k, 10, 1, 0⟩
/-- R595, FCU, register FCU_OPENk, bits [23:16], RO. -/
def OPEN_CONSEQ (k : Nat) : Fld := ⟨0x40400080 + 0x4 * k, 16, 8, 0⟩
/-- R595, FCU, register FCU_OPENk, bits [31:24], RO. -/
def OPEN_SEQ (k : Nat) : Fld := ⟨0x40400080 + 0x4 * k, 24, 8, 0⟩
/-- R595, FCU, register FCU_SRC_CFGi, bits [1:0], RW. -/
def SRC_CLASS (i : Nat) : Fld := ⟨0x40401000 + 0x4 * i, 0, 2, srcCfgReset i⟩
/-- R595, FCU, register FCU_SRC_CFGi, bits [4:2], RW. -/
def SRC_SEV (i : Nat) : Fld := ⟨0x40401000 + 0x4 * i, 2, 3, srcCfgReset i⟩
/-- R595, FCU, register FCU_SRC_CFGi, bits [5], RW. -/
def SRC_RPT_EN (i : Nat) : Fld := ⟨0x40401000 + 0x4 * i, 5, 1, srcCfgReset i⟩
/-- R595, FCU, register FCU_SRC_CFGi, bits [6], RO. -/
def SRC_LOCKED (i : Nat) : Fld := ⟨0x40401000 + 0x4 * i, 6, 1, srcCfgReset i⟩
/-- R595, FCU, register FCU_SRC_CFGi, bits [31:16], W1C. -/
def SRC_CNT (i : Nat) : Fld := ⟨0x40401000 + 0x4 * i, 16, 16, srcCfgReset i⟩
/-- R596, AON, register AON_FCU_LATCH, bits [1:0], W1C. -/
def LATCH_CLASS : Fld := ⟨0x40430130, 0, 2, 0⟩
/-- R596, AON, register AON_FCU_LATCH, bits [10:2], RO. -/
def LATCH_SRC : Fld := ⟨0x40430130, 2, 9, 0⟩
/-- R596, AON, register AON_FCU_LATCH, bits [12:11], RO. -/
def FATAL_RST_CNT : Fld := ⟨0x40430130, 11, 2, 0⟩
/-- R622, TLY, register TLY_CTL, bits [0], RW. -/
def FREEZE : Fld := ⟨0x40410000, 0, 1, 0⟩
/-- R622, TLY, register TLY_CTL, bits [1], W1S. -/
def FLUSH_REQ : Fld := ⟨0x40410000, 1, 1, 0⟩
/-- R622, TLY, register TLY_STAT, bits [0], RO. -/
def FROZEN : Fld := ⟨0x40410004, 0, 1, 0⟩
/-- R622, TLY, register TLY_STAT, bits [1], RO. -/
def FLUSH_BUSY : Fld := ⟨0x40410004, 1, 1, 0⟩
/-- R622, TLY, register TLY_STAT, bits [2], W1C. -/
def FLUSH_DONE : Fld := ⟨0x40410004, 2, 1, 0⟩
/-- R622, TLY, register TLY_STAT, bits [3], W1C. -/
def FREEZE_TIMEOUT : Fld := ⟨0x40410004, 3, 1, 0⟩
/-- R622, TLY, register TLY_STAT, bits [4], RO. -/
def CLEAR_BUSY : Fld := ⟨0x40410004, 4, 1, 0⟩
/-- R622, TLY, register TLY_STAT, bits [9:5], RO. -/
def TLY_INLET_USED : Fld := ⟨0x40410004, 5, 5, 0⟩
/-- R622, TLY, register TLY_STAT, bits [11:10], RO. -/
def INLET_TLY_TOKEN : Fld := ⟨0x40410004, 10, 2, 0⟩
/-- R622, TLY, register TLY_STAT, bits [12], W1C. -/
def ARCH_FAIL : Fld := ⟨0x40410004, 12, 1, 0⟩
/-- R622, TLY, register TLY_STAT, bits [13], RO. -/
def TLY_READY : Fld := ⟨0x40410004, 13, 1, 0⟩
/-- R622, TLY, register TLY_HEAD, bits [12:0], RO. -/
def RING_HEAD : Fld := ⟨0x40410008, 0, 13, 0⟩
/-- R622, TLY, register TLY_HEAD, bits [26:13], RO. -/
def RING_UNARCH : Fld := ⟨0x40410008, 13, 14, 0⟩
/-- R622, TLY, register TLY_SEQ, bits [31:0], RO. -/
def NEXT_SEQ : Fld := ⟨0x4041000C, 0, 32, 0⟩
/-- R622, TLY, register TLY_DROP, bits [15:0], RO. -/
def DROP_PEND : Fld := ⟨0x40410010, 0, 16, 0⟩
/-- R622, TLY, register TLY_DROP, bits [31:16], RO. -/
def DROP_TOTAL : Fld := ⟨0x40410010, 16, 16, 0⟩
/-- R622, TLY, register TLY_ARCH, bits [18:0], RO. -/
def ARCH_SLOT : Fld := ⟨0x40410014, 0, 19, 0⟩
/-- R622, TLY, register TLY_ARCH, bits [31:19], RO. -/
def ARCH_LOST_CNT : Fld := ⟨0x40410014, 19, 13, 0⟩
/-- R622, TLY, register TLY_FW_EVT, bits [15:0], RW. -/
def FW_CODE : Fld := ⟨0x40410018, 0, 16, 0⟩
/-- R622, TLY, register TLY_FW_EVT, bits [27:16], RW. -/
def FW_SRC : Fld := ⟨0x40410018, 16, 12, 0⟩
/-- R622, TLY, register TLY_FW_EVT, bits [31], W1S. -/
def FW_EVT_GO : Fld := ⟨0x40410018, 31, 1, 0⟩
/-- R622, TLY, register TLY_FW_DET, bits [31:0], RW. -/
def FW_DETAIL : Fld := ⟨0x4041001C, 0, 32, 0⟩
/-- R622, TLY, register TLY_RD_IDX, bits [12:0], RW. -/
def RD_IDX : Fld := ⟨0x40410020, 0, 13, 0⟩
/-- R622, TLY, register TLY_RD_Dw, bits [31:0], RO. -/
def RD_WORD (w : Nat) : Fld := ⟨0x40410040 + 0x4 * w, 0, 32, 0⟩
/-- R623, THM, register THM_CFG, bits [7:0], RW. -/
def THR_WARN : Fld := ⟨0x40420000, 0, 8, 0x4968F87⟩
/-- R623, THM, register THM_CFG, bits [15:8], RW. -/
def THR_THROTTLE : Fld := ⟨0x40420000, 8, 8, 0x4968F87⟩
/-- R623, THM, register THM_CFG, bits [23:16], RW. -/
def THR_SHUT : Fld := ⟨0x40420000, 16, 8, 0x4968F87⟩
/-- R623, THM, register THM_CFG, bits [27:24], RW. -/
def THR_HYST : Fld := ⟨0x40420000, 24, 4, 0x4968F87⟩
/-- R623, THM, register THM_CFG, bits [28], W1S. -/
def THM_CFG_LOCK : Fld := ⟨0x40420000, 28, 1, 0x4968F87⟩
/-- R623, THM, register THM_CFG2, bits [3:0], RW. -/
def THR_L2_STEP : Fld := ⟨0x40420004, 0, 4, 0xFFF3⟩
/-- R623, THM, register THM_CFG2, bits [15:4], RW. -/
def SENS_EN : Fld := ⟨0x40420004, 4, 12, 0xFFF3⟩
/-- R623, THM, register THM_STAT, bits [15:0], RO. -/
def THM_MAX : Fld := ⟨0x40420008, 0, 16, 0⟩
/-- R623, THM, register THM_STAT, bits [19:16], RO. -/
def MAX_SENSOR : Fld := ⟨0x40420008, 16, 4, 0⟩
/-- R623, THM, register THM_STAT, bits [20], RO. -/
def WARN_ON : Fld := ⟨0x40420008, 20, 1, 0⟩
/-- R623, THM, register THM_STAT, bits [22:21], RO. -/
def THR_LEVEL : Fld := ⟨0x40420008, 21, 2, 0⟩
/-- R623, THM, register THM_STAT, bits [23], RO. -/
def SHUT_ON : Fld := ⟨0x40420008, 23, 1, 0⟩
/-- R623, THM, register THM_STAT, bits [24], RO. -/
def NO_VALID : Fld := ⟨0x40420008, 24, 1, 0⟩
/-- R623, THM, register THM_FAIL, bits [11:0], W1C. -/
def SENS_FAIL : Fld := ⟨0x4042000C, 0, 12, 0⟩
/-- R623, THM, register THM_SENSs, bits [15:0], RO. -/
def SENS_T (s : Nat) : Fld := ⟨0x40420100 + 0x4 * s, 0, 16, 0x80000000⟩
/-- R623, THM, register THM_SENSs, bits [31:16], W1C. -/
def SENS_PEAK (s : Nat) : Fld := ⟨0x40420100 + 0x4 * s, 16, 16, 0x80000000⟩
/-- R624, AON, register AON_POH, bits [31:0], RO. -/
def POH_S : Fld := ⟨0x40430140, 0, 32, 0⟩
/-- R624, AON, register AON_PCYC, bits [31:0], RO. -/
def PWR_CYCLES : Fld := ⟨0x40430144, 0, 32, 0⟩
/-- R624, AON, register AON_PFAIL, bits [15:0], RO. -/
def PF_COUNT : Fld := ⟨0x40430148, 0, 16, 0⟩
/-- R624, AON, register AON_PFAIL, bits [31:16], RO. -/
def SPIN_STARTS : Fld := ⟨0x40430148, 16, 16, 0⟩
/-- R624, AON, register AON_LOADk, bits [31:0], RO. -/
def LOAD_CNT (k : Nat) : Fld := ⟨0x40430150 + 0x4 * k, 0, 32, 0⟩
/-- R624, AON, register AON_TWARN, bits [31:0], RO. -/
def WARN_MIN : Fld := ⟨0x40430160, 0, 32, 0⟩
/-- R624, AON, register AON_TTHR, bits [31:0], RO. -/
def THR_MIN : Fld := ⟨0x40430164, 0, 32, 0⟩
/-- R624, AON, register AON_TPEAK, bits [15:0], RO. -/
def LIFE_TMAX : Fld := ⟨0x40430168, 0, 16, 0x8000⟩
/-- R624, AON, register AON_TPEAK_T, bits [31:0], RO. -/
def LIFE_TMAX_POH : Fld := ⟨0x4043016C, 0, 32, 0⟩
/-- R624, AON, register AON_CAL_LO, bits [31:0], RW. -/
def CAL_MS_LO : Fld := ⟨0x40430170, 0, 32, 0⟩
/-- R624, AON, register AON_CAL_HI, bits [15:0], RW. -/
def CAL_MS_HI : Fld := ⟨0x40430174, 0, 16, 0⟩
/-- R624, AON, register AON_CAL_HI, bits [16], RO. -/
def CAL_SET : Fld := ⟨0x40430174, 16, 1, 0⟩
/-- R624, AON, register AON_CAL_HI, bits [17], RO. -/
def LIFE_RESTORED : Fld := ⟨0x40430174, 17, 1, 0⟩
/-- R656, MGT, register MGT_OWN, bits [3:0], RO. -/
def OWN_POS : Fld := ⟨0x40510000, 0, 4, 0xF0F⟩
/-- R656, MGT, register MGT_OWN, bits [5:4], RO. -/
def OWN_STATE : Fld := ⟨0x40510000, 4, 2, 0xF0F⟩
/-- R656, MGT, register MGT_OWN, bits [11:8], RO. -/
def OFFER_POS : Fld := ⟨0x40510000, 8, 4, 0xF0F⟩
/-- R656, MGT, register MGT_OWN, bits [15:12], RO. -/
def OWN_TOKEN : Fld := ⟨0x40510000, 12, 4, 0xF0F⟩
/-- R656, MGT, register MGT_OWN, bits [17:16], RO. -/
def REG_TOKEN : Fld := ⟨0x40510000, 16, 2, 0xF0F⟩
/-- R656, MGT, register MGT_OWN_ADDR_LO, bits [31:0], RO. -/
def OWN_ADDR_LO : Fld := ⟨0x40510004, 0, 32, 0⟩
/-- R656, MGT, register MGT_OWN_ADDR_HI, bits [31:0], RO. -/
def OWN_ADDR_HI : Fld := ⟨0x40510008, 0, 32, 0⟩
/-- R656, MGT, register MGT_LEASE, bits [11:0], RW. -/
def LEASE_S : Fld := ⟨0x4051000C, 0, 12, 0x3C⟩
/-- R656, MGT, register MGT_LEASE, bits [23:12], RO. -/
def LEASE_LEFT : Fld := ⟨0x4051000C, 12, 12, 0x3C⟩
/-- R656, MGT, register MGT_LEASE, bits [24], W1S. -/
def OWN_DROP : Fld := ⟨0x4051000C, 24, 1, 0x3C⟩
/-- R657, MGT, register MGT_I3C, bits [6:0], RW. -/
def I3C_STATIC : Fld := ⟨0x40510010, 0, 7, 0x801D⟩
/-- R657, MGT, register MGT_I3C, bits [14:8], RO. -/
def I3C_DYN : Fld := ⟨0x40510010, 8, 7, 0x801D⟩
/-- R657, MGT, register MGT_I3C, bits [15], RW. -/
def I3C_EN : Fld := ⟨0x40510010, 15, 1, 0x801D⟩
/-- R657, MGT, register MGT_CNT, bits [15:0], RO. -/
def DM_REQ_CNT : Fld := ⟨0x40510014, 0, 16, 0⟩
/-- R657, MGT, register MGT_CNT, bits [23:16], RO. -/
def CLAIM_REF_CNT : Fld := ⟨0x40510014, 16, 8, 0⟩
/-- R657, MGT, register MGT_CNT, bits [31:24], RO. -/
def AUTH_FAIL_CNT : Fld := ⟨0x40510014, 24, 8, 0⟩
/-- R657, SEC, register SEC_XTS, bits [15:0], RO. -/
def MEK_VALID : Fld := ⟨0x40500060, 0, 16, 0⟩
/-- R657, SEC, register SEC_XTS, bits [16], RO. -/
def DEV_KEY_VALID : Fld := ⟨0x40500060, 16, 1, 0⟩
/-- R657, SEC, register SEC_XTS, bits [19:17], RO. -/
def SEC_TOKEN : Fld := ⟨0x40500060, 17, 3, 0⟩
/-- R657, SEC, register SEC_XTS, bits [31:24], RO. -/
def CRYPTO_ERASE_CNT : Fld := ⟨0x40500060, 24, 8, 0⟩
/-- R657, SEC, register SEC_DBG, bits [0], RO. -/
def DBG_UNLOCKED : Fld := ⟨0x40500064, 0, 1, 0⟩
/-- R682, TST, register TST_LS_DRAIN, bits [3:0], RW. -/
def DRAIN_REQ : Fld := ⟨0x40600000, 0, 4, 0⟩
/-- R682, TST, register TST_LS_DRAIN, bits [7:4], RO. -/
def DRAIN_DONE : Fld := ⟨0x40600000, 4, 4, 0⟩
/-- R682, TST, register TST_ACTV, bits [0], W1S. -/
def ACTV_GO : Fld := ⟨0x40600004, 0, 1, 0⟩
/-- R682, TST, register TST_ACTV, bits [1], W1S. -/
def ACTV_RELEASE : Fld := ⟨0x40600004, 1, 1, 0⟩
/-- R682, TST, register TST_ACTV, bits [4:2], RO. -/
def ACTV_STATE : Fld := ⟨0x40600004, 2, 3, 0⟩
/-- R682, TST, register TST_ACTV, bits [5], W1C. -/
def ACTV_CFG_ERR : Fld := ⟨0x40600004, 5, 1, 0⟩
/-- R682, TST, register TST_ACTV_TIME, bits [16:0], RO. -/
def ACTV_HOLD_US : Fld := ⟨0x40600008, 0, 17, 0⟩
/-- R683, TST, register TST_PERT_CTL, bits [0], RW. -/
def PERT_ARM : Fld := ⟨0x40600100, 0, 1, 0⟩
/-- R683, TST, register TST_PERT_CTL, bits [1], RW. -/
def PERT_RAND : Fld := ⟨0x40600100, 1, 1, 0⟩
/-- R683, TST, register TST_PERT_SEED, bits [31:0], RW. -/
def PERT_SEED : Fld := ⟨0x40600104, 0, 32, 0x1⟩
/-- R683, TST, register TST_PERT_CMU, bits [9:0], RW. -/
def FETCH_DLY : Fld := ⟨0x40600108, 0, 10, 0⟩
/-- R683, TST, register TST_PERT_CMU, bits [25:10], RW. -/
def COMMIT_DLY : Fld := ⟨0x40600108, 10, 16, 0⟩
/-- R683, TST, register TST_PERT_TAG, bits [13:0], RW. -/
def TAG_CAP : Fld := ⟨0x4060010C, 0, 14, 0x2000⟩
/-- R683, TST, register TST_PERT_DMC, bits [7:0], RW. -/
def DMC_PORT_MASK : Fld := ⟨0x40600110, 0, 8, 0⟩
/-- R683, TST, register TST_PERT_DMC, bits [15:8], RW. -/
def DMC_DLY : Fld := ⟨0x40600110, 8, 8, 0⟩
/-- R683, TST, register TST_PERT_ABX, bits [5:0], RW. -/
def ABX_BEAD_CAP : Fld := ⟨0x40600114, 0, 6, 0x6030⟩
/-- R683, TST, register TST_PERT_ABX, bits [14:6], RW. -/
def ABX_LLR_CAP : Fld := ⟨0x40600114, 6, 9, 0x6030⟩
/-- R683, TST, register TST_PERT_ABX, bits [26:15], RW. -/
def ABX_HO_DLY : Fld := ⟨0x40600114, 15, 12, 0x6030⟩
/-- R683, TST, register TST_PERT_MTU, bits [9:0], RW. -/
def MTU_ISSUE_DLY : Fld := ⟨0x40600118, 0, 10, 0x800000⟩
/-- R683, TST, register TST_PERT_MTU, bits [23:10], RW. -/
def MTU_BUF_CAP_64K : Fld := ⟨0x40600118, 10, 14, 0x800000⟩
/-- R683, TST, register TST_PERT_SVT, bits [1:0], RW. -/
def SVT_DLY_LANE : Fld := ⟨0x4060011C, 0, 2, 0⟩
/-- R683, TST, register TST_PERT_SVT, bits [9:2], RW. -/
def SVT_DLY_CYC : Fld := ⟨0x4060011C, 2, 8, 0⟩
/-- R684, ACT, register ACT_COHORT, bits [11:0], RW. -/
def COHORT_ID : Fld := ⟨0x403100A0, 0, 12, 0x2000⟩
/-- R684, ACT, register ACT_COHORT, bits [12], RW. -/
def COHORT_EN : Fld := ⟨0x403100A0, 12, 1, 0x2000⟩
/-- R684, ACT, register ACT_COHORT, bits [20:13], RW. -/
def MARK_REVS : Fld := ⟨0x403100A0, 13, 8, 0x2000⟩
/-- R684, ACT, register ACT_COHORT_PH, bits [15:0], RW. -/
def COHORT_PHASE : Fld := ⟨0x403100A4, 0, 16, 0⟩
/-- R684, ACT, register ACT_COHORT_STAT, bits [0], RO. -/
def COHORT_LOCK : Fld := ⟨0x403100A8, 0, 1, 0⟩
/-- R684, ACT, register ACT_COHORT_STAT, bits [1], W1C. -/
def COHORT_LOST : Fld := ⟨0x403100A8, 1, 1, 0⟩
/-- R684, ACT, register ACT_COHORT_STAT, bits [17:2], RO. -/
def PHASE_ERR : Fld := ⟨0x403100A8, 2, 16, 0⟩
/-- R684, ACT, register ACT_COHORT_STAT, bits [25:18], RO. -/
def MARK_REJ_CNT : Fld := ⟨0x403100A8, 18, 8, 0⟩
/-- R684, SVT, register SVT_SHAPE, bits [0], RW. -/
def SHAPE_EN : Fld := ⟨0x40300020, 0, 1, 0x1008008⟩
/-- R684, SVT, register SVT_SHAPE, bits [4:1], RW. -/
def SHAPE_SLOTS : Fld := ⟨0x40300020, 1, 4, 0x1008008⟩
/-- R684, SVT, register SVT_SHAPE, bits [16:5], RW. -/
def SHAPE_TRK : Fld := ⟨0x40300020, 5, 12, 0x1008008⟩
/-- R684, SVT, register SVT_SHAPE, bits [24:17], RW. -/
def SHAPE_IMAX : Fld := ⟨0x40300020, 17, 8, 0x1008008⟩
end R

/-- Rows of the register table. -/
def regRows0 : List RegRow := [
  ⟨0x40440000, [(256, 0x4)], fun _ => 0,
   [⟨0, 4, .rw, .none, none⟩, ⟨4, 2, .rw, .none, none⟩, ⟨31, 1, .ro, .none, none⟩]⟩ /- EVR_ROUTE_n -/,
  ⟨0x40440400, [(8, 0x4)], fun _ => 0,
   [⟨0, 32, .w1c, .none, none⟩]⟩ /- EVR_PEND_k -/,
  ⟨0x40440500, [(4, 0x4)], fun _ => 0,
   [⟨0, 8, .ro, .none, none⟩, ⟨31, 1, .ro, .none, none⟩]⟩ /- EVR_CLAIM_c -/,
  ⟨0x40440600, [], fun _ => 0,
   [⟨0, 2, .ro, .none, none⟩]⟩ /- EVR_TOKEN -/,
  ⟨0x40440604, [], fun _ => 0,
   [⟨0, 4, .ro, .none, none⟩]⟩ /- EVR_CORE_IRQ -/,
  ⟨0x40440608, [], fun _ => 0,
   [⟨0, 24, .w1s, .none, none⟩]⟩ /- EVR_SOFT -/,
  ⟨0x40330000, [], fun _ => 0,
   [⟨0, 1, .ro, .none, none⟩, ⟨1, 1, .ro, .none, none⟩, ⟨2, 1, .ro, .none, none⟩, ⟨3, 1, .ro, .none, none⟩, ⟨4, 1, .ro, .none, none⟩, ⟨5, 1, .ro, .none, none⟩, ⟨8, 4, .ro, .none, none⟩, ⟨12, 4, .w1c, .none, none⟩, ⟨16, 1, .w1c, .none, none⟩]⟩ /- PWR_STAT -/,
  ⟨0x40330004, [], fun _ => 0x28014A,
   [⟨0, 10, .rw, .range 300 340, none⟩, ⟨16, 8, .rw, .range 30 44, none⟩, ⟨31, 1, .w1s, .none, none⟩]⟩ /- PWR_PF_CFG -/,
  ⟨0x40330008, [], fun _ => 0,
   [⟨0, 16, .ro, .none, none⟩, ⟨16, 16, .ro, .none, none⟩]⟩ /- PWR_IN_MON -/,
  ⟨0x4033000C, [], fun _ => 0,
   [⟨0, 4, .rw, .none, none⟩, ⟨4, 4, .rw, .none, none⟩]⟩ /- PWR_PA_CTL -/,
  ⟨0x40330010, [], fun _ => 0x251C0000,
   [⟨0, 16, .ro, .none, none⟩, ⟨16, 16, .rw, .range 6400 65535, none⟩]⟩ /- PWR_HOLDUP -/,
  ⟨0x40430100, [], fun _ => 0,
   [⟨0, 1, .ro, .none, none⟩, ⟨1, 1, .ro, .none, none⟩, ⟨2, 1, .ro, .none, none⟩, ⟨3, 1, .ro, .none, none⟩, ⟨4, 1, .ro, .none, none⟩, ⟨5, 1, .ro, .none, none⟩, ⟨6, 1, .ro, .none, none⟩, ⟨7, 1, .ro, .none, none⟩, ⟨16, 8, .w1c, .none, some 0⟩]⟩ /- AON_CLK_STAT -/,
  ⟨0x40430104, [], fun _ => 0x300,
   [⟨0, 3, .ro, .none, none⟩, ⟨3, 3, .ro, .none, none⟩, ⟨6, 1, .ro, .none, none⟩, ⟨8, 3, .rw, .range 0 4, none⟩, ⟨12, 3, .ro, .none, none⟩]⟩ /- AON_PSTATE -/,
  ⟨0x40430108, [], fun _ => 0x64,
   [⟨0, 24, .rw, .none, none⟩]⟩ /- AON_IDLE_A -/,
  ⟨0x4043010C, [], fun _ => 0x1D4C0,
   [⟨0, 24, .rw, .none, none⟩]⟩ /- AON_IDLE_B -/,
  ⟨0x40430110, [], fun _ => 0x927C0,
   [⟨0, 24, .rw, .none, none⟩]⟩ /- AON_IDLE_C -/,
  ⟨0x40430114, [], fun _ => 0x36EE80,
   [⟨0, 24, .rw, .none, none⟩]⟩ /- AON_IDLE_S -/,
  ⟨0x40430118, [], fun _ => 0x10064,
   [⟨0, 16, .rw, .none, none⟩, ⟨16, 1, .rw, .none, none⟩]⟩ /- AON_SLEEP_CFG -/,
  ⟨0x4043011C, [], fun _ => 0x19FFDE,
   [⟨0, 16, .rw, .none, none⟩, ⟨16, 8, .rw, .none, none⟩]⟩ /- AON_XTAL_TC -/,
  ⟨0x40430120, [], fun _ => 0x1,
   [⟨0, 1, .w1c, .none, none⟩, ⟨1, 1, .w1c, .none, none⟩, ⟨2, 1, .w1c, .none, none⟩, ⟨3, 1, .w1c, .none, none⟩, ⟨4, 1, .w1c, .none, none⟩, ⟨5, 1, .w1c, .none, none⟩, ⟨6, 1, .w1c, .none, none⟩, ⟨8, 4, .w1c, .none, none⟩]⟩ /- AON_RST_CAUSE -/,
  ⟨0x40430124, [], fun _ => 0,
   [⟨0, 16, .wo, .none, none⟩, ⟨16, 1, .wo, .none, none⟩, ⟨20, 4, .wo, .none, none⟩]⟩ /- AON_RST_CTL -/,
  ⟨0x40500000, [], fun _ => 0xFF00FF00,
   [⟨0, 1, .ro, .none, none⟩, ⟨1, 1, .ro, .none, none⟩, ⟨2, 1, .ro, .none, none⟩, ⟨3, 1, .ro, .none, none⟩, ⟨4, 1, .ro, .none, none⟩, ⟨5, 3, .ro, .none, none⟩, ⟨8, 4, .ro, .none, none⟩, ⟨12, 4, .ro, .none, none⟩, ⟨16, 7, .ro, .none, none⟩, ⟨23, 1, .ro, .none, none⟩, ⟨24, 4, .ro, .none, none⟩, ⟨28, 4, .ro, .none, none⟩]⟩ /- SEC_BOOT_STAT -/,
  ⟨0x40500004, [], fun _ => 0,
   [⟨0, 8, .ro, .none, none⟩, ⟨8, 8, .ro, .none, none⟩, ⟨16, 1, .ro, .none, none⟩, ⟨17, 1, .ro, .none, none⟩]⟩ /- SEC_KEY_STAT -/,
  ⟨0x40500008, [], fun _ => 0,
   [⟨0, 7, .ro, .none, none⟩, ⟨8, 6, .ro, .none, none⟩]⟩ /- SEC_ARB -/]

/-- Rows of the register table. -/
def regRows1 : List RegRow := [
  ⟨0x40500020, [], fun _ => 0,
   [⟨0, 32, .ro, .none, none⟩]⟩ /- SEC_ID_LOT0 -/,
  ⟨0x40500024, [], fun _ => 0,
   [⟨0, 32, .ro, .none, none⟩]⟩ /- SEC_ID_LOT1 -/,
  ⟨0x40500028, [], fun _ => 0,
   [⟨0, 8, .ro, .none, none⟩, ⟨8, 8, .ro, .none, none⟩, ⟨16, 8, .ro, .none, none⟩, ⟨24, 4, .ro, .none, none⟩, ⟨28, 2, .ro, .none, none⟩, ⟨30, 2, .ro, .none, none⟩]⟩ /- SEC_ID_DIE -/,
  ⟨0x40500030, [(4, 0x4)], fun _ => 0,
   [⟨0, 32, .ro, .none, none⟩]⟩ /- SEC_ID_SERIALk -/,
  ⟨0x40500040, [(8, 0x4)], fun _ => 0,
   [⟨0, 32, .ro, .none, none⟩]⟩ /- SEC_DEVID_HASHk -/,
  ⟨0x40070200, [], fun _ => 0,
   [⟨0, 2, .ro, .none, none⟩, ⟨2, 2, .ro, .none, none⟩, ⟨4, 1, .ro, .none, none⟩, ⟨5, 1, .w1c, .none, none⟩, ⟨6, 1, .w1c, .none, none⟩]⟩ /- KSC_IMG_STAT -/,
  ⟨0x40070204, [], fun _ => 0,
   [⟨0, 1, .rw, .none, none⟩, ⟨1, 1, .w1s, .none, none⟩, ⟨2, 1, .w1s, .none, none⟩]⟩ /- KSC_REPLAY_CTL -/,
  ⟨0x40070208, [(2, 0x4)], fun _ => 0,
   [⟨0, 32, .ro, .none, none⟩]⟩ /- KSC_IMG_SEQk -/,
  ⟨0x40000100, [(4, 0x4)], fun _ => 0,
   [⟨0, 1, .ro, .none, none⟩, ⟨1, 3, .ro, .none, none⟩, ⟨4, 5, .ro, .none, none⟩, ⟨9, 1, .ro, .none, none⟩, ⟨10, 1, .ro, .none, none⟩, ⟨11, 1, .ro, .none, none⟩, ⟨12, 1, .ro, .none, none⟩, ⟨13, 1, .ro, .none, none⟩, ⟨14, 1, .w1c, .none, none⟩, ⟨16, 16, .w1c, .none, some 0⟩]⟩ /- HIF_PORT_STATk -/,
  ⟨0x40010000, [(6, 0x4)], fun | [k] => if k < 4 then 512 else 256 | _ => 0,
   [⟨0, 14, .rw, .own, none⟩]⟩ /- CMU_TAG_RSVk -/,
  ⟨0x40010040, [(6, 0x4)], fun _ => 0,
   [⟨0, 14, .ro, .none, none⟩]⟩ /- CMU_TAG_USEk -/,
  ⟨0x40010020, [], fun _ => 0,
   [⟨0, 14, .ro, .none, none⟩, ⟨14, 1, .w1c, .none, none⟩, ⟨15, 1, .w1c, .none, none⟩]⟩ /- CMU_TAG_STAT -/,
  ⟨0x40010060, [(4, 0x4)], fun _ => 0,
   [⟨0, 15, .rw, .none, none⟩, ⟨16, 15, .ro, .none, none⟩]⟩ /- CMU_QUOTAk -/,
  ⟨0x40010080, [], fun _ => 0,
   [⟨0, 2, .ro, .none, none⟩, ⟨2, 1, .ro, .none, none⟩]⟩ /- CMU_TOKENS -/,
  ⟨0x40010084, [], fun _ => 0,
   [⟨0, 16, .ro, .none, none⟩, ⟨16, 16, .ro, .none, none⟩]⟩ /- CMU_ABORT_CNT -/,
  ⟨0x40000200, [(2, 0x4)], fun _ => 0,
   [⟨0, 3, .ro, .none, none⟩, ⟨3, 1, .ro, .none, none⟩, ⟨4, 6, .ro, .none, none⟩, ⟨10, 8, .ro, .none, none⟩, ⟨18, 14, .w1c, .none, some 0⟩]⟩ /- HIF_SAS_STATk -/,
  ⟨0x40000210, [(2, 0x4)], fun _ => 0x3040,
   [⟨0, 10, .rw, .range 1 512, none⟩, ⟨12, 2, .rw, .range 1 3, none⟩]⟩ /- HIF_SAS_CFGk -/,
  ⟨0x40010088, [], fun _ => 0,
   [⟨0, 2, .ro, .none, none⟩]⟩ /- CMU_ARRIVE -/,
  ⟨0x40020000, [], fun _ => 0,
   [⟨0, 14, .ro, .none, none⟩, ⟨14, 1, .ro, .none, none⟩, ⟨16, 14, .w1c, .none, some 0⟩]⟩ /- HZT_STAT -/,
  ⟨0x40020004, [], fun _ => 0,
   [⟨0, 14, .ro, .none, none⟩, ⟨16, 16, .ro, .none, none⟩]⟩ /- HZT_CNT -/,
  ⟨0x40020100, [(16, 0x4)], fun _ => 0,
   [⟨0, 16, .rw, .none, none⟩]⟩ /- HZT_ORD_SIDk -/,
  ⟨0x40030000, [], fun _ => 0xF00,
   [⟨0, 12, .rw, .range 256 4080, none⟩, ⟨16, 12, .ro, .none, none⟩, ⟨31, 1, .w1c, .none, none⟩]⟩ /- MTU_CTX_CFG -/,
  ⟨0x40030004, [], fun _ => 0x4B0000,
   [⟨0, 14, .ro, .none, none⟩, ⟨16, 7, .rw, .range 50 95, none⟩]⟩ /- MTU_BUF -/,
  ⟨0x40030008, [], fun _ => 0x1000,
   [⟨0, 6, .ro, .none, none⟩, ⟨8, 5, .rw, .range 4 28, none⟩, ⟨16, 1, .ro, .none, none⟩]⟩ /- MTU_JRNL -/]

/-- Rows of the register table. -/
def regRows2 : List RegRow := [
  ⟨0x4003000C, [], fun _ => 0x840,
   [⟨0, 8, .rw, .own, none⟩, ⟨8, 8, .rw, .range 4 64, none⟩, ⟨16, 1, .ro, .none, none⟩, ⟨17, 1, .ro, .none, none⟩]⟩ /- MTU_CONV -/,
  ⟨0x40030010, [], fun _ => 0,
   [⟨0, 24, .ro, .none, none⟩]⟩ /- MTU_CONV_FREE -/,
  ⟨0x40030014, [], fun _ => 0xB,
   [⟨0, 3, .rw, .range 1 7, none⟩, ⟨3, 1, .rw, .none, none⟩, ⟨16, 11, .ro, .none, none⟩]⟩ /- MTU_RELOC -/,
  ⟨0x40030018, [], fun _ => 0,
   [⟨0, 19, .ro, .none, none⟩, ⟨19, 13, .w1c, .none, some 0⟩]⟩ /- MTU_RELOC_CNT -/,
  ⟨0x40030020, [], fun _ => 0x1F4,
   [⟨0, 10, .rw, .range 10 1000, none⟩, ⟨16, 12, .rw, .none, none⟩]⟩ /- MTU_SCHED_CFG -/,
  ⟨0x40030040, [(4, 0x4)], fun _ => 0,
   [⟨0, 13, .ro, .none, none⟩, ⟨13, 1, .ro, .none, none⟩, ⟨14, 1, .w1s, .none, none⟩]⟩ /- MTU_ACT_STATn -/,
  ⟨0x40040000, [], fun _ => 0x9,
   [⟨0, 1, .rw, .none, none⟩, ⟨1, 3, .rw, .range 1 7, none⟩, ⟨8, 1, .w1s, .none, none⟩, ⟨9, 1, .w1s, .none, none⟩]⟩ /- MCA_CTL -/,
  ⟨0x40040004, [], fun _ => 0,
   [⟨0, 1, .ro, .none, none⟩, ⟨1, 1, .ro, .none, none⟩, ⟨2, 1, .ro, .none, none⟩, ⟨3, 1, .w1c, .none, none⟩, ⟨4, 1, .w1c, .none, none⟩, ⟨5, 1, .w1c, .none, none⟩, ⟨6, 1, .w1c, .none, none⟩, ⟨7, 1, .w1c, .none, none⟩, ⟨8, 13, .ro, .none, none⟩]⟩ /- MCA_STAT -/,
  ⟨0x40040008, [], fun _ => 0,
   [⟨0, 2, .ro, .none, none⟩]⟩ /- MCA_TOKEN -/,
  ⟨0x4004000C, [], fun _ => 0,
   [⟨0, 28, .ro, .none, none⟩]⟩ /- MCA_FAULT -/,
  ⟨0x40040020, [(4, 0x8)], fun _ => 0,
   [⟨0, 15, .rw, .none, none⟩, ⟨31, 1, .rw, .none, none⟩]⟩ /- MCA_WIN_BASEk -/,
  ⟨0x40040024, [(4, 0x8)], fun _ => 0,
   [⟨0, 16, .rw, .none, none⟩]⟩ /- MCA_WIN_SIZEk -/,
  ⟨0x40040040, [], fun _ => 0,
   [⟨0, 28, .rw, .none, none⟩]⟩ /- MCA_RANGE_LINE -/,
  ⟨0x40040044, [], fun _ => 0,
   [⟨0, 29, .rw, .none, none⟩]⟩ /- MCA_RANGE_LEN -/,
  ⟨0x40040048, [], fun _ => 0,
   [⟨0, 2, .rw, .none, none⟩, ⟨2, 1, .w1s, .none, none⟩]⟩ /- MCA_RANGE_CMD -/,
  ⟨0x40040080, [(8, 0x10)], fun _ => 0,
   [⟨0, 28, .rw, .none, none⟩]⟩ /- MCA_LOCK_LINEk -/,
  ⟨0x40040084, [(8, 0x10)], fun _ => 0x1,
   [⟨0, 15, .rw, .range 1 16384, none⟩]⟩ /- MCA_LOCK_LENk -/,
  ⟨0x40040088, [(8, 0x10)], fun _ => 0,
   [⟨0, 1, .rw, .none, none⟩, ⟨1, 1, .w1s, .none, none⟩, ⟨2, 1, .ro, .none, none⟩, ⟨4, 15, .ro, .none, none⟩]⟩ /- MCA_LOCK_CTLk -/,
  ⟨0x40040100, [], fun _ => 0,
   [⟨0, 32, .ro, .none, none⟩]⟩ /- MCA_HIT_CNT -/,
  ⟨0x40040104, [], fun _ => 0,
   [⟨0, 32, .ro, .none, none⟩]⟩ /- MCA_MISS_CNT -/,
  ⟨0x40040108, [], fun _ => 0,
   [⟨0, 32, .ro, .none, none⟩]⟩ /- MCA_RECALL_CNT -/,
  ⟨0x4004010C, [], fun _ => 0,
   [⟨0, 32, .ro, .none, none⟩]⟩ /- MCA_EVB_CNT -/,
  ⟨0x40040110, [], fun _ => 0,
   [⟨0, 32, .ro, .none, none⟩]⟩ /- MCA_PF_ISSUE -/,
  ⟨0x40040114, [], fun _ => 0,
   [⟨0, 32, .ro, .none, none⟩]⟩ /- MCA_PF_USED -/]

/-- Rows of the register table. -/
def regRows3 : List RegRow := [
  ⟨0x40040118, [], fun _ => 0,
   [⟨0, 32, .ro, .none, none⟩]⟩ /- MCA_WB_CNT -/,
  ⟨0x4004011C, [], fun _ => 0,
   [⟨0, 16, .ro, .none, none⟩, ⟨16, 16, .ro, .none, none⟩]⟩ /- MCA_PAR_CNT -/,
  ⟨0x40040120, [], fun _ => 0,
   [⟨0, 6, .ro, .none, none⟩, ⟨16, 16, .ro, .none, none⟩]⟩ /- MCA_PF_STAT -/,
  ⟨0x40040140, [], fun _ => 0,
   [⟨0, 12, .rw, .none, none⟩, ⟨12, 4, .rw, .none, none⟩, ⟨16, 1, .rw, .none, none⟩, ⟨30, 1, .ro, .none, none⟩, ⟨31, 1, .w1s, .none, none⟩]⟩ /- MCA_DIAG_SEL -/,
  ⟨0x40040144, [], fun _ => 0,
   [⟨0, 28, .ro, .none, none⟩, ⟨28, 1, .ro, .none, none⟩, ⟨29, 1, .ro, .none, none⟩, ⟨30, 1, .ro, .none, none⟩, ⟨31, 1, .ro, .none, none⟩]⟩ /- MCA_DIAG_TAG -/,
  ⟨0x40040180, [(32, 0x4)], fun _ => 0,
   [⟨0, 32, .ro, .none, none⟩]⟩ /- MCA_DIAG_DATAj -/,
  ⟨0x40041000, [(128, 0x4)], fun _ => 0,
   [⟨0, 32, .ro, .none, none⟩]⟩ /- MCA_LE_MAPk -/,
  ⟨0x40100000, [(4, 0x10000)], fun _ => 0x360C,
   [⟨0, 5, .rw, .range 4 24, none⟩, ⟨8, 4, .rw, .range 0 12, none⟩, ⟨12, 1, .rw, .none, none⟩, ⟨13, 1, .rw, .none, none⟩, ⟨14, 1, .w1s, .none, none⟩]⟩ /- CHN_CTL -/,
  ⟨0x40100004, [(4, 0x10000)], fun _ => 0xB3C41E2D,
   [⟨0, 32, .rw, .none, none⟩]⟩ /- CHN_SYNC_PAT -/,
  ⟨0x40100008, [(4, 0x10000)], fun _ => 0,
   [⟨0, 2, .ro, .none, none⟩, ⟨2, 2, .ro, .none, none⟩, ⟨4, 2, .ro, .none, none⟩, ⟨6, 2, .ro, .none, none⟩, ⟨8, 2, .w1c, .none, none⟩, ⟨10, 2, .w1c, .none, none⟩, ⟨12, 2, .w1c, .none, none⟩]⟩ /- CHN_STAT -/,
  ⟨0x40100100, [(4, 0x10000), (2, 0x100)], fun _ => 0x1100000,
   [⟨0, 20, .rw, .nonzero 16384 1048575, none⟩, ⟨20, 2, .rw, .none, none⟩, ⟨22, 4, .rw, .range 1 12, none⟩, ⟨26, 1, .ro, .none, none⟩]⟩ /- CHN_DLCh -/,
  ⟨0x40100104, [(4, 0x10000), (2, 0x100)], fun _ => 0,
   [⟨0, 18, .rw, .none, none⟩]⟩ /- CHN_GAPh -/,
  ⟨0x40100108, [(4, 0x10000), (2, 0x100)], fun _ => 0x4000000,
   [⟨0, 20, .rw, .none, none⟩, ⟨20, 8, .rw, .range 8 128, none⟩]⟩ /- CHN_WPHh -/,
  ⟨0x4010010C, [(4, 0x10000), (2, 0x100)], fun _ => 0,
   [⟨0, 8, .ro, .none, none⟩, ⟨8, 8, .w1c, .none, some 0⟩]⟩ /- CHN_PHASEh -/,
  ⟨0x40100110, [(4, 0x10000), (2, 0x100)], fun _ => 0x10466,
   [⟨0, 5, .rw, .none, none⟩, ⟨5, 5, .rw, .none, none⟩, ⟨10, 5, .rw, .none, none⟩, ⟨15, 5, .rw, .none, none⟩]⟩ /- CHN_PRECOMPh -/,
  ⟨0x40100114, [(4, 0x10000), (2, 0x100)], fun _ => 0x33283C,
   [⟨0, 7, .rw, .range 20 120, none⟩, ⟨8, 7, .rw, .none, none⟩, ⟨15, 4, .rw, .none, none⟩, ⟨19, 4, .rw, .range 0 14, none⟩]⟩ /- CHN_WCh -/,
  ⟨0x40100118, [(4, 0x10000), (2, 0x100), (2, 0x4)], fun _ => 0x2801432,
   [⟨0, 7, .rw, .range 0 70, none⟩, ⟨7, 5, .rw, .range 0 24, none⟩, ⟨12, 2, .rw, .none, none⟩, ⟨14, 6, .rw, .signed 25, none⟩, ⟨20, 7, .rw, .range 16 56, none⟩]⟩ /- CHN_AFE_rh -/,
  ⟨0x40100120, [(4, 0x10000), (2, 0x100)], fun _ => 0x1818,
   [⟨0, 8, .ro, .none, none⟩, ⟨8, 8, .ro, .none, none⟩]⟩ /- CHN_GAINh -/,
  ⟨0x40100124, [(4, 0x10000), (2, 0x100), (2, 0x4)], fun | [_, _, r] => if r = 0 then 255 else 0 | _ => 0,
   [⟨0, 8, .rw, .none, none⟩, ⟨8, 8, .rw, .none, none⟩, ⟨16, 8, .rw, .none, none⟩, ⟨24, 8, .rw, .none, none⟩]⟩ /- CHN_XT_rh -/,
  ⟨0x4010012C, [(4, 0x10000), (2, 0x100)], fun _ => 0x4019,
   [⟨0, 2, .rw, .none, none⟩, ⟨2, 1, .rw, .none, none⟩, ⟨3, 1, .rw, .none, none⟩, ⟨4, 1, .rw, .none, none⟩, ⟨8, 8, .rw, .none, none⟩, ⟨16, 8, .rw, .none, none⟩, ⟨24, 8, .rw, .none, none⟩]⟩ /- CHN_DETh -/,
  ⟨0x40100130, [(4, 0x10000), (2, 0x100)], fun _ => 0x200,
   [⟨0, 12, .rw, .none, none⟩, ⟨16, 12, .rw, .none, none⟩]⟩ /- CHN_JDWh -/,
  ⟨0x40100134, [(4, 0x10000), (2, 0x100)], fun _ => 0,
   [⟨0, 12, .ro, .none, none⟩, ⟨16, 12, .ro, .none, none⟩]⟩ /- CHN_JDUh -/,
  ⟨0x40100138, [(4, 0x10000), (2, 0x100)], fun _ => 0x6081028,
   [⟨0, 7, .rw, .range 10 90, none⟩, ⟨8, 8, .rw, .range 4 255, none⟩, ⟨16, 6, .rw, .none, none⟩, ⟨22, 6, .rw, .range 8 63, none⟩]⟩ /- CHN_DEFh -/,
  ⟨0x4010013C, [(4, 0x10000), (2, 0x100)], fun _ => 0x80800,
   [⟨0, 13, .rw, .none, none⟩, ⟨16, 4, .rw, .range 1 15, none⟩]⟩ /- CHN_LLRh -/]

/-- Rows of the register table. -/
def regRows4 : List RegRow := [
  ⟨0x40100140, [(4, 0x10000), (2, 0x100)], fun _ => 0,
   [⟨0, 32, .ro, .none, none⟩]⟩ /- CHN_FRM_LASTh -/,
  ⟨0x40100144, [(4, 0x10000), (2, 0x100)], fun _ => 0,
   [⟨0, 16, .ro, .none, none⟩, ⟨16, 3, .ro, .none, none⟩]⟩ /- CHN_WGCUTh -/,
  ⟨0x40100180, [(4, 0x10000), (2, 0x100), (2, 0x40), (16, 0x4)], fun | [_, _, _, k] => if k = 4 then 0x100 else 0 | _ => 0,
   [⟨0, 10, .rw, .none, none⟩]⟩ /- CHN_FIR_rh_k -/,
  ⟨0x40100300, [(4, 0x10000)], fun _ => 0,
   [⟨0, 32, .ro, .none, none⟩]⟩ /- CHN_CNT_SECT -/,
  ⟨0x40100304, [(4, 0x10000)], fun _ => 0,
   [⟨0, 16, .ro, .none, none⟩, ⟨16, 16, .ro, .none, none⟩]⟩ /- CHN_CNT_FRM -/,
  ⟨0x40100308, [(4, 0x10000)], fun _ => 0,
   [⟨0, 16, .ro, .none, none⟩, ⟨16, 16, .ro, .none, none⟩]⟩ /- CHN_CNT_FRM2 -/,
  ⟨0x4010030C, [(4, 0x10000)], fun _ => 0,
   [⟨0, 16, .ro, .none, none⟩, ⟨16, 16, .ro, .none, none⟩]⟩ /- CHN_CNT_WR -/,
  ⟨0x40100310, [(4, 0x10000)], fun _ => 0,
   [⟨0, 16, .ro, .none, none⟩, ⟨16, 16, .ro, .none, none⟩]⟩ /- CHN_CNT_DEF -/,
  ⟨0x40080000, [], fun _ => 0x5812410,
   [⟨0, 6, .rw, .own, none⟩, ⟨8, 4, .rw, .range 1 8, none⟩, ⟨12, 4, .rw, .none, none⟩, ⟨16, 4, .rw, .none, none⟩, ⟨20, 6, .rw, .range 8 48, none⟩, ⟨26, 1, .rw, .none, none⟩, ⟨27, 1, .w1s, .none, none⟩]⟩ /- ABX_CFG -/,
  ⟨0x40080004, [], fun _ => 0,
   [⟨0, 6, .ro, .none, none⟩, ⟨8, 9, .ro, .none, none⟩, ⟨17, 9, .ro, .none, none⟩, ⟨26, 1, .ro, .none, none⟩, ⟨27, 1, .w1c, .none, none⟩]⟩ /- ABX_STAT -/,
  ⟨0x40080008, [], fun _ => 0x20,
   [⟨0, 6, .rw, .range 0 48, none⟩, ⟨8, 6, .ro, .none, none⟩]⟩ /- ABX_PIN -/,
  ⟨0x4008000C, [], fun _ => 0,
   [⟨0, 3, .ro, .none, none⟩, ⟨4, 3, .ro, .none, none⟩]⟩ /- ABX_TOKEN -/,
  ⟨0x40080020, [], fun _ => 0,
   [⟨0, 32, .ro, .none, none⟩]⟩ /- ABX_LAST -/,
  ⟨0x40080100, [(8, 0x4)], fun _ => 0x3E818,
   [⟨0, 9, .rw, .none, none⟩, ⟨10, 10, .rw, .range 20 1000, none⟩, ⟨20, 9, .ro, .none, none⟩, ⟨29, 1, .ro, .none, none⟩]⟩ /- ABX_STREAMk -/,
  ⟨0x40080010, [], fun _ => 0xC8203F,
   [⟨0, 6, .rw, .none, none⟩, ⟨8, 6, .rw, .own, none⟩, ⟨16, 4, .rw, .range 1 8, none⟩, ⟨20, 5, .rw, .range 4 30, none⟩]⟩ /- ABX_RCV -/,
  ⟨0x40080014, [], fun _ => 0x3207D0,
   [⟨0, 16, .rw, .range 100 60000, none⟩, ⟨16, 16, .rw, .range 10 1000, none⟩]⟩ /- ABX_RCV_TIME -/,
  ⟨0x40080200, [], fun _ => 0,
   [⟨0, 32, .ro, .none, none⟩]⟩ /- ABX_CW_CNT -/,
  ⟨0x40080204, [], fun _ => 0,
   [⟨0, 32, .ro, .none, none⟩]⟩ /- ABX_FAIL_CNT -/,
  ⟨0x40080208, [], fun _ => 0,
   [⟨0, 16, .ro, .none, none⟩, ⟨16, 16, .ro, .none, none⟩]⟩ /- ABX_UNREC_CNT -/,
  ⟨0x4008020C, [], fun _ => 0,
   [⟨0, 16, .ro, .none, none⟩, ⟨16, 16, .ro, .none, none⟩]⟩ /- ABX_BP_CNT -/,
  ⟨0x40080210, [], fun _ => 0,
   [⟨0, 8, .ro, .none, none⟩, ⟨8, 8, .ro, .none, none⟩, ⟨16, 8, .ro, .none, none⟩, ⟨24, 8, .ro, .none, none⟩]⟩ /- ABX_ERR_CNT -/,
  ⟨0x40080220, [], fun _ => 0,
   [⟨0, 16, .ro, .none, none⟩, ⟨16, 16, .ro, .none, none⟩]⟩ /- ABX_RCV_OK0 -/,
  ⟨0x40080224, [], fun _ => 0,
   [⟨0, 16, .ro, .none, none⟩, ⟨16, 16, .ro, .none, none⟩]⟩ /- ABX_RCV_OK1 -/,
  ⟨0x40080228, [], fun _ => 0,
   [⟨0, 16, .ro, .none, none⟩, ⟨16, 16, .ro, .none, none⟩]⟩ /- ABX_RCV_OK2 -/]

/-- Rows of the register table. -/
def regRows5 : List RegRow := [
  ⟨0x40080240, [(8, 0x4)], fun _ => 0,
   [⟨0, 32, .ro, .none, none⟩]⟩ /- ABX_HISTk -/,
  ⟨0x40200000, [(4, 0x10000)], fun _ => 0x290,
   [⟨0, 2, .rw, .none, none⟩, ⟨2, 1, .w1s, .none, none⟩, ⟨3, 1, .w1s, .none, none⟩, ⟨4, 1, .rw, .none, none⟩, ⟨5, 1, .w1s, .none, none⟩, ⟨6, 2, .rw, .range 0 2, none⟩, ⟨8, 2, .rw, .none, none⟩, ⟨10, 1, .w1s, .none, none⟩]⟩ /- FSQ_CTL -/,
  ⟨0x40200004, [(4, 0x10000)], fun _ => 0,
   [⟨0, 17, .ro, .none, none⟩, ⟨17, 2, .ro, .none, none⟩, ⟨19, 1, .ro, .none, none⟩, ⟨20, 1, .ro, .none, none⟩, ⟨21, 1, .ro, .none, none⟩, ⟨22, 1, .ro, .none, none⟩, ⟨23, 3, .ro, .none, none⟩, ⟨26, 1, .ro, .none, none⟩, ⟨27, 1, .ro, .none, none⟩, ⟨28, 1, .ro, .none, none⟩, ⟨29, 1, .ro, .none, none⟩, ⟨30, 1, .ro, .none, none⟩, ⟨31, 1, .w1c, .none, none⟩]⟩ /- FSQ_STAT -/,
  ⟨0x40200008, [(4, 0x10000)], fun _ => 0,
   [⟨0, 17, .ro, .none, none⟩]⟩ /- FSQ_MCHK -/,
  ⟨0x4020000C, [(4, 0x10000)], fun _ => 0,
   [⟨0, 32, .rw, .none, none⟩]⟩ /- FSQ_LOADA -/,
  ⟨0x40200010, [(4, 0x10000)], fun _ => 0xF0,
   [⟨0, 4, .rw, .none, none⟩, ⟨4, 4, .ro, .none, none⟩]⟩ /- FSQ_LOADB -/,
  ⟨0x40200014, [(4, 0x10000)], fun _ => 0x4E20,
   [⟨0, 16, .rw, .range 1000 65535, none⟩]⟩ /- FSQ_WDOG -/,
  ⟨0x40200018, [(4, 0x10000)], fun _ => 0,
   [⟨0, 7, .rw, .none, none⟩, ⟨7, 1, .rw, .none, none⟩, ⟨8, 16, .rw, .none, none⟩, ⟨24, 1, .w1s, .none, none⟩, ⟨25, 1, .ro, .none, none⟩, ⟨26, 1, .w1c, .none, none⟩, ⟨27, 2, .ro, .none, none⟩]⟩ /- FSQ_PSI -/,
  ⟨0x4020001C, [(4, 0x10000)], fun _ => 0,
   [⟨0, 16, .ro, .none, none⟩]⟩ /- FSQ_PSI_RD -/,
  ⟨0x40200020, [(4, 0x10000)], fun _ => 0,
   [⟨0, 8, .ro, .none, none⟩, ⟨8, 8, .ro, .none, none⟩, ⟨16, 16, .ro, .none, none⟩]⟩ /- FSQ_CNT -/,
  ⟨0x40100400, [(4, 0x10000), (2, 0x10)], fun _ => 0x40000,
   [⟨0, 12, .rw, .none, none⟩, ⟨12, 14, .rw, .none, none⟩, ⟨26, 2, .rw, .none, none⟩, ⟨28, 1, .w1c, .none, none⟩]⟩ /- CHN_WSQh -/,
  ⟨0x40100404, [(4, 0x10000), (2, 0x10)], fun _ => 0,
   [⟨0, 12, .ro, .none, none⟩, ⟨12, 1, .ro, .none, none⟩, ⟨13, 1, .ro, .none, none⟩, ⟨16, 16, .ro, .none, none⟩]⟩ /- CHN_WSQ_STATh -/,
  ⟨0x40300000, [], fun _ => 0x200044C,
   [⟨0, 12, .rw, .range 200 4000, none⟩, ⟨16, 10, .rw, .range 64 512, none⟩]⟩ /- SVT_FRAME_CFG -/,
  ⟨0x40300004, [], fun _ => 0xFFFF0000,
   [⟨0, 9, .ro, .none, none⟩, ⟨9, 1, .ro, .none, none⟩, ⟨16, 16, .w1c, .none, some 0xFFFF⟩]⟩ /- SVT_FRAME_STAT -/,
  ⟨0x40300008, [], fun _ => 0,
   [⟨0, 24, .ro, .none, none⟩]⟩ /- SVT_WEDGE_PER -/,
  ⟨0x4030000C, [], fun _ => 0,
   [⟨0, 4, .w1s, .none, none⟩, ⟨4, 4, .ro, .none, none⟩, ⟨8, 4, .ro, .none, none⟩]⟩ /- SVT_COEF_CTL -/,
  ⟨0x40300200, [(4, 0x40)], fun _ => 0x31A4,
   [⟨0, 4, .rw, .range 1 12, none⟩, ⟨4, 8, .rw, .range 4 128, none⟩, ⟨12, 1, .rw, .none, none⟩, ⟨13, 1, .rw, .none, none⟩, ⟨14, 1, .w1s, .none, none⟩]⟩ /- SVT_CTLn -/,
  ⟨0x40300204, [(4, 0x40)], fun _ => 0x1008080,
   [⟨0, 12, .rw, .range 16 4095, none⟩, ⟨12, 8, .rw, .range 1 255, none⟩, ⟨20, 12, .rw, .range 1 4095, none⟩]⟩ /- SVT_FEn -/,
  ⟨0x40300208, [(4, 0x40)], fun _ => 0x8008080,
   [⟨0, 12, .rw, .range 32 4095, none⟩, ⟨12, 12, .rw, .range 1 4095, none⟩, ⟨24, 4, .rw, .range 2 15, none⟩]⟩ /- SVT_PLAUSn -/,
  ⟨0x4030020C, [(4, 0x40)], fun _ => 0xA0401E,
   [⟨0, 6, .rw, .range 5 40, none⟩, ⟨8, 12, .rw, .none, none⟩, ⟨20, 4, .rw, .range 1 10, none⟩]⟩ /- SVT_MAn -/,
  ⟨0x40300210, [(4, 0x40)], fun _ => 0xFF66,
   [⟨0, 8, .rw, .none, none⟩, ⟨8, 8, .rw, .none, none⟩]⟩ /- SVT_LIMn -/,
  ⟨0x40300214, [(4, 0x40)], fun _ => 0x260404,
   [⟨0, 8, .rw, .range 1 255, none⟩, ⟨8, 8, .rw, .range 1 64, none⟩, ⟨16, 8, .rw, .none, none⟩]⟩ /- SVT_SEEKn -/,
  ⟨0x40300218, [(4, 0x40)], fun _ => 0x7,
   [⟨0, 3, .ro, .none, none⟩, ⟨3, 1, .ro, .none, none⟩, ⟨4, 4, .ro, .none, none⟩, ⟨8, 5, .ro, .none, none⟩, ⟨13, 2, .w1c, .none, none⟩, ⟨15, 1, .w1c, .none, none⟩, ⟨16, 1, .w1c, .none, none⟩, ⟨17, 1, .ro, .none, none⟩, ⟨18, 2, .ro, .none, none⟩, ⟨20, 1, .ro, .none, none⟩]⟩ /- SVT_STATn -/,
  ⟨0x4030021C, [(4, 0x40)], fun _ => 0,
   [⟨0, 16, .ro, .none, none⟩, ⟨16, 16, .ro, .none, none⟩]⟩ /- SVT_PESn -/]

/-- Rows of the register table. -/
def regRows6 : List RegRow := [
  ⟨0x40300220, [(4, 0x40)], fun _ => 0,
   [⟨0, 16, .ro, .none, none⟩, ⟨16, 16, .ro, .none, none⟩]⟩ /- SVT_CNTn -/,
  ⟨0x40300224, [(4, 0x40)], fun _ => 0,
   [⟨0, 16, .ro, .none, none⟩, ⟨16, 8, .ro, .none, none⟩, ⟨24, 8, .ro, .none, none⟩]⟩ /- SVT_CNT2n -/,
  ⟨0x40300228, [(4, 0x40)], fun _ => 0,
   [⟨0, 16, .ro, .none, none⟩]⟩ /- SVT_SEEKTn -/,
  ⟨0x40301000, [(4, 0x1000), (512, 0x8)], fun _ => 0,
   [⟨0, 32, .rw, .none, none⟩]⟩ /- SVT_COEFn_i -/,
  ⟨0x40301004, [(4, 0x1000), (512, 0x8)], fun _ => 0,
   [⟨0, 5, .rw, .none, none⟩]⟩ /- SVT_SHIFTn_i -/,
  ⟨0x40310000, [], fun _ => 0x1F40000,
   [⟨0, 14, .rw, .none, none⟩, ⟨16, 13, .rw, .range 20 5000, none⟩]⟩ /- ACT_SPM_CTL -/,
  ⟨0x40310004, [], fun _ => 0,
   [⟨0, 14, .ro, .none, none⟩, ⟨14, 1, .ro, .none, none⟩, ⟨15, 3, .ro, .none, none⟩, ⟨18, 1, .w1c, .none, none⟩]⟩ /- ACT_SPM_STAT -/,
  ⟨0x40310008, [], fun _ => 0x7B208,
   [⟨0, 6, .rw, .even 2 32, none⟩, ⟨6, 8, .rw, .range 0 200, none⟩, ⟨14, 8, .rw, .none, none⟩]⟩ /- ACT_SPM_CFG -/,
  ⟨0x40310040, [(4, 0x10)], fun _ => 0xF0A320,
   [⟨0, 10, .rw, .range 400 1200, none⟩, ⟨10, 8, .rw, .none, none⟩, ⟨18, 8, .rw, .none, none⟩]⟩ /- ACT_VCM_CFGn -/,
  ⟨0x40310044, [(4, 0x10)], fun _ => 0x1E1E14,
   [⟨0, 8, .rw, .none, none⟩, ⟨8, 8, .rw, .none, none⟩, ⟨16, 8, .rw, .none, none⟩]⟩ /- ACT_VCM_PARKn -/,
  ⟨0x40310048, [(4, 0x10)], fun _ => 0x25,
   [⟨0, 3, .ro, .none, none⟩, ⟨3, 1, .ro, .none, none⟩, ⟨4, 1, .ro, .none, none⟩, ⟨5, 1, .ro, .none, none⟩, ⟨6, 1, .w1c, .none, none⟩, ⟨8, 8, .ro, .none, none⟩, ⟨16, 16, .ro, .none, none⟩]⟩ /- ACT_VCM_STATn -/,
  ⟨0x4031004C, [(4, 0x10)], fun _ => 0x2001000,
   [⟨0, 16, .rw, .none, none⟩, ⟨16, 16, .rw, .none, none⟩]⟩ /- ACT_VCM_ILn -/,
  ⟨0x40310080, [], fun _ => 0x18,
   [⟨0, 8, .rw, .range 8 40, none⟩]⟩ /- ACT_VCM_PWR -/,
  ⟨0x40310090, [], fun _ => 0x1012C,
   [⟨0, 10, .rw, .range 20 900, none⟩, ⟨10, 8, .rw, .range 1 255, none⟩, ⟨18, 1, .ro, .none, none⟩]⟩ /- ACT_SHK -/,
  ⟨0x40310094, [], fun _ => 0,
   [⟨0, 16, .w1c, .none, some 0⟩, ⟨16, 16, .w1c, .none, some 0⟩]⟩ /- ACT_SHK_PEAK -/,
  ⟨0x40300100, [], fun _ => 0x11004,
   [⟨0, 4, .rw, .range 1 15, none⟩, ⟨8, 8, .rw, .range 1 255, none⟩, ⟨16, 1, .rw, .none, none⟩, ⟨20, 4, .w1s, .none, none⟩, ⟨24, 4, .w1s, .none, none⟩, ⟨28, 1, .w1s, .none, none⟩]⟩ /- SVT_TRIAD_CFG -/,
  ⟨0x40300104, [], fun _ => 0x3,
   [⟨0, 2, .ro, .none, none⟩, ⟨2, 1, .ro, .none, none⟩, ⟨3, 2, .ro, .none, none⟩, ⟨5, 3, .ro, .none, none⟩, ⟨8, 1, .ro, .none, none⟩, ⟨9, 1, .w1c, .none, none⟩, ⟨10, 1, .w1c, .none, none⟩, ⟨14, 4, .w1s, .none, none⟩, ⟨18, 1, .ro, .none, none⟩]⟩ /- SVT_TRIAD_STAT -/,
  ⟨0x40300110, [], fun _ => 0,
   [⟨0, 12, .ro, .none, none⟩, ⟨12, 12, .ro, .none, none⟩, ⟨24, 8, .ro, .none, none⟩]⟩ /- SVT_VOTE_CNT -/,
  ⟨0x40300114, [], fun _ => 0,
   [⟨0, 8, .ro, .none, none⟩, ⟨8, 8, .ro, .none, none⟩, ⟨16, 16, .ro, .none, none⟩]⟩ /- SVT_WARM_CNT -/,
  ⟨0x40300118, [], fun _ => 0,
   [⟨0, 16, .ro, .none, none⟩, ⟨16, 1, .ro, .none, none⟩, ⟨17, 4, .ro, .none, none⟩]⟩ /- SVT_CKPT -/,
  ⟨0x40300140, [], fun _ => 0x00020202,
   [⟨0, 3, .ro, .none, none⟩, ⟨8, 3, .ro, .none, none⟩, ⟨16, 3, .ro, .none, none⟩, ⟨24, 3, .ro, .none, none⟩, ⟨3, 3, .ro, .none, none⟩, ⟨11, 3, .ro, .none, none⟩, ⟨19, 3, .ro, .none, none⟩, ⟨27, 3, .ro, .none, none⟩, ⟨6, 1, .ro, .none, none⟩, ⟨14, 1, .ro, .none, none⟩, ⟨22, 1, .ro, .none, none⟩, ⟨30, 1, .ro, .none, none⟩]⟩ /- SVT_LANE_STAT -/,
  ⟨0x40300150, [(4, 0x4)], fun _ => 0,
   [⟨0, 16, .ro, .none, none⟩, ⟨16, 8, .ro, .none, none⟩, ⟨24, 8, .ro, .none, none⟩]⟩ /- SVT_LANE_CNTl -/,
  ⟨0x40300800, [(512, 0x4)], fun _ => 0,
   [⟨0, 32, .ro, .none, none⟩]⟩ /- SVT_CKPT_Wi -/,
  ⟨0x40320000, [], fun _ => 0x900,
   [⟨0, 4, .rw, .none, none⟩, ⟨4, 4, .w1c, .none, none⟩, ⟨8, 1, .rw, .none, none⟩, ⟨9, 4, .rw, .range 2 12, none⟩, ⟨13, 1, .w1s, .none, none⟩, ⟨14, 2, .ro, .none, none⟩]⟩ /- ASD_CTL -/]

/-- Rows of the register table. -/
def regRows7 : List RegRow := [
  ⟨0x40320010, [(4, 0x4)], fun _ => 0x19,
   [⟨0, 7, .rw, .own, none⟩, ⟨7, 1, .ro, .none, none⟩]⟩ /- ASD_RAILn -/,
  ⟨0x40320020, [], fun _ => 0x18001400,
   [⟨0, 16, .rw, .own, none⟩, ⟨16, 16, .rw, .range 4096 8192, none⟩]⟩ /- ASD_AGE -/,
  ⟨0x40320024, [], fun _ => 0x30400C00,
   [⟨0, 16, .rw, .range 2048 4096, none⟩, ⟨16, 8, .rw, .range 1 255, none⟩, ⟨24, 8, .rw, .none, none⟩]⟩ /- ASD_AGE2 -/,
  ⟨0x40320028, [], fun _ => 0,
   [⟨0, 16, .ro, .none, none⟩, ⟨16, 16, .ro, .none, none⟩]⟩ /- ASD_CNT -/,
  ⟨0x40320100, [(8, 0x8)], fun _ => 0,
   [⟨0, 5, .ro, .none, none⟩, ⟨5, 6, .ro, .none, none⟩, ⟨11, 1, .ro, .none, none⟩, ⟨12, 1, .ro, .none, none⟩, ⟨13, 1, .ro, .none, none⟩, ⟨14, 1, .ro, .none, none⟩, ⟨15, 1, .ro, .none, none⟩, ⟨16, 12, .ro, .none, none⟩]⟩ /- ASD_SLOTk -/,
  ⟨0x40320104, [(8, 0x8)], fun _ => 0,
   [⟨0, 16, .ro, .none, none⟩, ⟨16, 16, .ro, .none, none⟩]⟩ /- ASD_HTSk -/,
  ⟨0x40320200, [(32, 0x4)], fun _ => 0x1000,
   [⟨0, 16, .rw, .none, none⟩, ⟨16, 12, .rw, .none, none⟩, ⟨28, 1, .ro, .none, none⟩, ⟨29, 1, .ro, .none, none⟩]⟩ /- ASD_HEADj -/,
  ⟨0x40320280, [(32, 0x4)], fun _ => 0,
   [⟨0, 16, .ro, .none, none⟩, ⟨16, 16, .ro, .none, none⟩]⟩ /- ASD_AGECNTj -/,
  ⟨0x40324000, [(32, 0x100), (64, 0x4)], fun _ => 0,
   [⟨0, 12, .rw, .none, none⟩, ⟨12, 4, .rw, .none, none⟩, ⟨16, 16, .rw, .none, none⟩]⟩ /- ASD_TBLj_z -/,
  ⟨0x40520000, [], fun _ => 0x6E000D4,
   [⟨0, 4, .rw, .range 1 15, none⟩, ⟨4, 8, .rw, .none, none⟩, ⟨12, 8, .rw, .none, none⟩, ⟨20, 8, .rw, .none, none⟩]⟩ /- CAL_CFG -/,
  ⟨0x40520004, [], fun _ => 0,
   [⟨0, 1, .w1s, .none, none⟩, ⟨1, 1, .ro, .none, none⟩, ⟨2, 1, .ro, .none, none⟩, ⟨3, 1, .w1c, .none, none⟩, ⟨4, 1, .ro, .none, none⟩, ⟨5, 1, .ro, .none, none⟩, ⟨6, 1, .ro, .none, none⟩, ⟨7, 1, .ro, .none, none⟩, ⟨8, 1, .ro, .none, none⟩, ⟨9, 2, .ro, .none, none⟩, ⟨16, 14, .ro, .none, none⟩]⟩ /- CAL_STORE -/,
  ⟨0x40520008, [], fun _ => 0,
   [⟨0, 32, .ro, .none, none⟩]⟩ /- CAL_SEQ -/,
  ⟨0x4052000C, [], fun _ => 0,
   [⟨0, 32, .rw, .none, none⟩]⟩ /- CAL_BUF_LO -/,
  ⟨0x40520010, [], fun _ => 0,
   [⟨0, 4, .rw, .none, none⟩]⟩ /- CAL_BUF_HI -/,
  ⟨0x40520014, [], fun _ => 0,
   [⟨0, 18, .rw, .none, none⟩]⟩ /- CAL_TBL_ADDR -/,
  ⟨0x40520018, [], fun _ => 0,
   [⟨0, 32, .rw, .own, none⟩]⟩ /- CAL_TBL_DATA -/,
  ⟨0x4052001C, [], fun _ => 0,
   [⟨0, 13, .ro, .none, none⟩, ⟨13, 1, .w1c, .none, none⟩, ⟨16, 16, .ro, .none, none⟩]⟩ /- CAL_RAMP -/,
  ⟨0x40520020, [], fun _ => 0,
   [⟨0, 16, .ro, .none, none⟩, ⟨16, 16, .ro, .none, none⟩]⟩ /- CAL_CNT -/,
  ⟨0x40520100, [(4, 0x20)], fun _ => 0,
   [⟨0, 4, .rw, .none, none⟩, ⟨4, 5, .rw, .none, none⟩, ⟨9, 1, .rw, .none, none⟩, ⟨10, 1, .w1s, .none, none⟩, ⟨11, 1, .w1s, .none, none⟩, ⟨12, 1, .w1s, .none, none⟩]⟩ /- CAL_RUN_CTLk -/,
  ⟨0x40520104, [(4, 0x20)], fun _ => 0,
   [⟨0, 12, .rw, .none, none⟩, ⟨16, 12, .ro, .none, none⟩]⟩ /- CAL_RUN_PREk -/,
  ⟨0x40520108, [(4, 0x20)], fun _ => 0,
   [⟨0, 3, .ro, .none, none⟩, ⟨3, 3, .ro, .none, none⟩, ⟨6, 4, .ro, .none, none⟩, ⟨10, 12, .ro, .none, none⟩, ⟨22, 1, .w1c, .none, none⟩]⟩ /- CAL_RUN_STATk -/,
  ⟨0x4052010C, [(4, 0x20)], fun _ => 0,
   [⟨0, 32, .rw, .none, none⟩]⟩ /- CAL_RUN_LISTk -/,
  ⟨0x40520110, [(4, 0x20)], fun _ => 0,
   [⟨0, 4, .rw, .none, none⟩, ⟨4, 13, .rw, .range 0 4096, none⟩]⟩ /- CAL_RUN_LIST2k -/,
  ⟨0x40050000, [], fun _ => 0x40,
   [⟨0, 10, .rw, .range 16 512, none⟩, ⟨10, 1, .w1s, .none, none⟩, ⟨11, 1, .w1c, .none, none⟩]⟩ /- PAK_CTL -/]

/-- Rows of the register table. -/
def regRows8 : List RegRow := [
  ⟨0x40050004, [], fun _ => 0,
   [⟨0, 32, .rw, .none, none⟩]⟩ /- PAK_POOL_LO -/,
  ⟨0x40050008, [], fun _ => 0x20000000,
   [⟨0, 4, .rw, .none, none⟩, ⟨16, 16, .rw, .range 64 65535, none⟩]⟩ /- PAK_POOL_HI -/,
  ⟨0x4005000C, [], fun _ => 0,
   [⟨0, 16, .ro, .none, none⟩, ⟨16, 4, .ro, .none, none⟩, ⟨20, 10, .ro, .none, none⟩]⟩ /- PAK_STAT -/,
  ⟨0x40050010, [], fun _ => 0,
   [⟨0, 12, .ro, .none, none⟩, ⟨12, 3, .ro, .none, none⟩, ⟨15, 2, .ro, .none, none⟩]⟩ /- PAK_TOKEN -/,
  ⟨0x40050100, [(16, 0x4)], fun _ => 0x864,
   [⟨0, 2, .rw, .none, none⟩, ⟨2, 7, .rw, .range 0 100, none⟩, ⟨9, 8, .rw, .range 1 255, none⟩, ⟨31, 1, .ro, .none, none⟩]⟩ /- PAK_NS_CFGk -/,
  ⟨0x40050140, [(16, 0x4)], fun _ => 0,
   [⟨0, 18, .ro, .none, none⟩, ⟨18, 1, .ro, .none, none⟩]⟩ /- PAK_EXTk -/,
  ⟨0x40050020, [], fun _ => 0,
   [⟨0, 4, .rw, .none, none⟩, ⟨4, 20, .rw, .none, none⟩]⟩ /- PAK_ZONE_SEL -/,
  ⟨0x40050024, [], fun _ => 0,
   [⟨0, 2, .rw, .none, none⟩, ⟨2, 1, .w1s, .none, none⟩, ⟨3, 1, .w1s, .none, none⟩, ⟨4, 1, .ro, .none, none⟩]⟩ /- PAK_ZONE_RATIO -/,
  ⟨0x40050200, [], fun _ => 0,
   [⟨0, 32, .ro, .none, none⟩]⟩ /- PAK_BLK_CNT -/,
  ⟨0x40050204, [], fun _ => 0,
   [⟨0, 32, .ro, .none, none⟩]⟩ /- PAK_RAW_CNT -/,
  ⟨0x40050208, [], fun _ => 0,
   [⟨0, 32, .ro, .none, none⟩]⟩ /- PAK_SECT_CNT -/,
  ⟨0x4005020C, [], fun _ => 0,
   [⟨0, 32, .ro, .none, none⟩]⟩ /- PAK_SPILL_CNT -/,
  ⟨0x40050210, [], fun _ => 0,
   [⟨0, 16, .ro, .none, none⟩, ⟨16, 16, .ro, .none, none⟩]⟩ /- PAK_EXT_CNT -/,
  ⟨0x40050214, [], fun _ => 0,
   [⟨0, 32, .ro, .none, none⟩]⟩ /- PAK_STALL_CNT -/,
  ⟨0x40060000, [], fun _ => 0x1,
   [⟨0, 1, .rw, .none, none⟩, ⟨1, 1, .rw, .none, none⟩, ⟨2, 1, .w1s, .none, none⟩, ⟨3, 1, .w1s, .none, none⟩]⟩ /- DMC_CTL -/,
  ⟨0x40060004, [], fun _ => 0,
   [⟨0, 1, .ro, .none, none⟩, ⟨1, 1, .w1c, .none, none⟩, ⟨2, 1, .ro, .none, none⟩, ⟨3, 6, .ro, .none, none⟩, ⟨9, 3, .ro, .none, none⟩]⟩ /- DMC_STAT -/,
  ⟨0x40060200, [(16, 0x10)], fun _ => 0,
   [⟨0, 15, .rw, .none, none⟩, ⟨30, 1, .rw, .none, none⟩, ⟨31, 1, .rw, .none, none⟩]⟩ /- DMC_REG_BASEk -/,
  ⟨0x40060204, [(16, 0x10)], fun _ => 0,
   [⟨0, 16, .rw, .none, none⟩, ⟨16, 2, .rw, .none, none⟩]⟩ /- DMC_REG_SIZEk -/,
  ⟨0x40060208, [(16, 0x10)], fun _ => 0,
   [⟨0, 20, .rw, .none, none⟩]⟩ /- DMC_REG_CHKk -/,
  ⟨0x4006020C, [(16, 0x10)], fun _ => 0,
   [⟨0, 1, .w1s, .none, none⟩, ⟨1, 1, .ro, .none, none⟩, ⟨8, 24, .ro, .none, none⟩]⟩ /- DMC_REG_OPk -/,
  ⟨0x40060010, [], fun _ => 0x4A8,
   [⟨0, 10, .rw, .range 1 720, none⟩, ⟨10, 1, .rw, .none, none⟩, ⟨16, 16, .ro, .none, none⟩]⟩ /- DMC_SCRUB -/,
  ⟨0x40060014, [], fun _ => 0,
   [⟨0, 29, .ro, .none, none⟩]⟩ /- DMC_SCRUB_POS -/,
  ⟨0x40060020, [], fun _ => 0,
   [⟨0, 8, .rw, .none, none⟩, ⟨8, 16, .rw, .none, none⟩, ⟨24, 1, .w1s, .none, none⟩, ⟨25, 1, .ro, .none, none⟩, ⟨26, 1, .w1c, .none, none⟩, ⟨27, 1, .w1c, .none, none⟩]⟩ /- DMC_SPARE_CTL -/,
  ⟨0x40060024, [], fun _ => 0,
   [⟨0, 10, .ro, .none, none⟩, ⟨16, 16, .ro, .none, none⟩]⟩ /- DMC_SPARE_STAT -/]

/-- Rows of the register table. -/
def regRows9 : List RegRow := [
  ⟨0x40060080, [], fun _ => 0,
   [⟨0, 29, .rw, .none, none⟩, ⟨29, 2, .rw, .none, none⟩, ⟨31, 1, .w1s, .none, none⟩]⟩ /- DMC_DIAG_CTL -/,
  ⟨0x40060084, [], fun _ => 0,
   [⟨0, 1, .ro, .none, none⟩, ⟨1, 1, .w1c, .none, none⟩]⟩ /- DMC_DIAG_STAT -/,
  ⟨0x40060088, [], fun _ => 0,
   [⟨0, 32, .rw, .none, none⟩]⟩ /- DMC_DIAG_CHK0 -/,
  ⟨0x4006008C, [], fun _ => 0,
   [⟨0, 32, .rw, .none, none⟩]⟩ /- DMC_DIAG_CHK1 -/,
  ⟨0x400600C0, [(16, 0x4)], fun _ => 0,
   [⟨0, 32, .rw, .none, none⟩]⟩ /- DMC_DIAG_Dj -/,
  ⟨0x40060040, [], fun _ => 0,
   [⟨0, 32, .ro, .none, none⟩]⟩ /- DMC_CE_CNT -/,
  ⟨0x40060044, [], fun _ => 0,
   [⟨0, 16, .ro, .none, none⟩, ⟨16, 16, .ro, .none, none⟩]⟩ /- DMC_UE_CNT -/,
  ⟨0x40060048, [], fun _ => 0,
   [⟨0, 16, .ro, .none, none⟩, ⟨16, 16, .ro, .none, none⟩]⟩ /- DMC_CURE_CNT -/,
  ⟨0x4006004C, [], fun _ => 0,
   [⟨0, 32, .ro, .none, none⟩]⟩ /- DMC_UNWR_CNT -/,
  ⟨0x40060400, [(32, 0x10)], fun _ => 0,
   [⟨0, 29, .ro, .none, none⟩, ⟨29, 2, .ro, .none, none⟩, ⟨31, 1, .w1c, .none, none⟩]⟩ /- DMC_CELOGk_A -/,
  ⟨0x40060404, [(32, 0x10)], fun _ => 0,
   [⟨0, 10, .ro, .none, none⟩, ⟨10, 4, .ro, .none, none⟩, ⟨14, 1, .ro, .none, none⟩, ⟨15, 1, .ro, .none, none⟩, ⟨16, 8, .ro, .none, none⟩]⟩ /- DMC_CELOGk_B -/,
  ⟨0x40060408, [(32, 0x10)], fun _ => 0,
   [⟨0, 32, .ro, .none, none⟩]⟩ /- DMC_CELOGk_C -/,
  ⟨0x40400000, [], fun _ => 0x992,
   [⟨0, 1, .rw, .none, none⟩, ⟨1, 1, .rw, .none, none⟩, ⟨2, 8, .rw, .range 10 255, none⟩, ⟨10, 2, .rw, .none, none⟩, ⟨12, 1, .w1s, .none, none⟩, ⟨13, 1, .w1s, .none, none⟩, ⟨14, 1, .w1s, .none, none⟩]⟩ /- FCU_CTL -/,
  ⟨0x40400004, [], fun _ => 0,
   [⟨0, 7, .ro, .none, none⟩, ⟨8, 2, .w1c, .none, some 0⟩, ⟨10, 3, .w1c, .none, none⟩, ⟨13, 1, .ro, .none, none⟩, ⟨14, 1, .ro, .none, none⟩, ⟨16, 16, .ro, .none, none⟩]⟩ /- FCU_STAT -/,
  ⟨0x40400008, [], fun _ => 0,
   [⟨0, 9, .ro, .none, none⟩]⟩ /- FCU_TOKEN -/,
  ⟨0x4040000C, [], fun _ => 0,
   [⟨0, 4, .w1c, .none, none⟩]⟩ /- FCU_HOLD -/,
  ⟨0x40400010, [], fun _ => 0,
   [⟨0, 32, .ro, .none, none⟩]⟩ /- FCU_TIME -/,
  ⟨0x40400014, [], fun _ => 0x1F4,
   [⟨0, 16, .rw, .range 10 60000, none⟩, ⟨16, 1, .w1s, .none, none⟩, ⟨17, 1, .w1s, .none, none⟩]⟩ /- FCU_WDOG -/,
  ⟨0x40400018, [], fun _ => 0x2,
   [⟨0, 1, .ro, .none, none⟩, ⟨1, 1, .ro, .none, none⟩]⟩ /- FCU_PIP -/,
  ⟨0x40400020, [], fun _ => 0,
   [⟨0, 9, .ro, .none, none⟩, ⟨9, 2, .ro, .none, none⟩, ⟨11, 3, .ro, .none, none⟩, ⟨14, 3, .ro, .none, none⟩, ⟨17, 6, .ro, .none, none⟩, ⟨23, 1, .ro, .none, none⟩, ⟨24, 8, .ro, .none, none⟩]⟩ /- FCU_REC0 -/,
  ⟨0x40400024, [], fun _ => 0,
   [⟨0, 9, .ro, .none, none⟩, ⟨9, 2, .ro, .none, none⟩, ⟨11, 1, .ro, .none, none⟩, ⟨12, 1, .ro, .none, none⟩, ⟨16, 16, .ro, .none, none⟩]⟩ /- FCU_REC1 -/,
  ⟨0x40400028, [], fun _ => 0,
   [⟨0, 32, .ro, .none, none⟩]⟩ /- FCU_REC2 -/,
  ⟨0x4040002C, [], fun _ => 0,
   [⟨0, 32, .ro, .none, none⟩]⟩ /- FCU_REC3 -/,
  ⟨0x40400040, [(8, 0x4)], fun | [s] => sevActReset s | _ => 0,
   [⟨0, 2, .rw, .range 1 3, none⟩, ⟨2, 1, .rw, .none, none⟩, ⟨3, 1, .rw, .none, none⟩, ⟨4, 1, .rw, .none, none⟩, ⟨5, 1, .rw, .none, none⟩, ⟨6, 1, .rw, .none, none⟩]⟩ /- FCU_SEV_ACTs -/]

/-- Rows of the register table. -/
def regRows10 : List RegRow := [
  ⟨0x40400080, [(5, 0x4)], fun _ => 0,
   [⟨0, 9, .ro, .none, none⟩, ⟨9, 1, .ro, .none, none⟩, ⟨10, 1, .ro, .none, none⟩, ⟨16, 8, .ro, .none, none⟩, ⟨24, 8, .ro, .none, none⟩]⟩ /- FCU_OPENk -/,
  ⟨0x40401000, [(512, 0x4)], fun | [i] => srcCfgReset i | _ => 0,
   [⟨0, 2, .rw, .range 1 3, none⟩, ⟨2, 3, .rw, .none, none⟩, ⟨5, 1, .rw, .none, none⟩, ⟨6, 1, .ro, .none, none⟩, ⟨16, 16, .w1c, .none, some 0⟩]⟩ /- FCU_SRC_CFGi -/,
  ⟨0x40430130, [], fun _ => 0,
   [⟨0, 2, .w1c, .none, some 0⟩, ⟨2, 9, .ro, .none, none⟩, ⟨11, 2, .ro, .none, none⟩]⟩ /- AON_FCU_LATCH -/,
  ⟨0x40410000, [], fun _ => 0,
   [⟨0, 1, .rw, .none, none⟩, ⟨1, 1, .w1s, .none, none⟩]⟩ /- TLY_CTL -/,
  ⟨0x40410004, [], fun _ => 0,
   [⟨0, 1, .ro, .none, none⟩, ⟨1, 1, .ro, .none, none⟩, ⟨2, 1, .w1c, .none, none⟩, ⟨3, 1, .w1c, .none, none⟩, ⟨4, 1, .ro, .none, none⟩, ⟨5, 5, .ro, .none, none⟩, ⟨10, 2, .ro, .none, none⟩, ⟨12, 1, .w1c, .none, none⟩, ⟨13, 1, .ro, .none, none⟩]⟩ /- TLY_STAT -/,
  ⟨0x40410008, [], fun _ => 0,
   [⟨0, 13, .ro, .none, none⟩, ⟨13, 14, .ro, .none, none⟩]⟩ /- TLY_HEAD -/,
  ⟨0x4041000C, [], fun _ => 0,
   [⟨0, 32, .ro, .none, none⟩]⟩ /- TLY_SEQ -/,
  ⟨0x40410010, [], fun _ => 0,
   [⟨0, 16, .ro, .none, none⟩, ⟨16, 16, .ro, .none, none⟩]⟩ /- TLY_DROP -/,
  ⟨0x40410014, [], fun _ => 0,
   [⟨0, 19, .ro, .none, none⟩, ⟨19, 13, .ro, .none, none⟩]⟩ /- TLY_ARCH -/,
  ⟨0x40410018, [], fun _ => 0,
   [⟨0, 16, .rw, .none, none⟩, ⟨16, 12, .rw, .none, none⟩, ⟨31, 1, .w1s, .none, none⟩]⟩ /- TLY_FW_EVT -/,
  ⟨0x4041001C, [], fun _ => 0,
   [⟨0, 32, .rw, .none, none⟩]⟩ /- TLY_FW_DET -/,
  ⟨0x40410020, [], fun _ => 0,
   [⟨0, 13, .rw, .none, none⟩]⟩ /- TLY_RD_IDX -/,
  ⟨0x40410040, [(8, 0x4)], fun _ => 0,
   [⟨0, 32, .ro, .none, none⟩]⟩ /- TLY_RD_Dw -/,
  ⟨0x40420000, [], fun _ => 0x4968F87,
   [⟨0, 8, .rw, .own, none⟩, ⟨8, 8, .rw, .own, none⟩, ⟨16, 8, .rw, .own, none⟩, ⟨24, 4, .rw, .range 1 15, none⟩, ⟨28, 1, .w1s, .none, none⟩]⟩ /- THM_CFG -/,
  ⟨0x40420004, [], fun _ => 0xFFF3,
   [⟨0, 4, .rw, .own, none⟩, ⟨4, 12, .rw, .none, none⟩]⟩ /- THM_CFG2 -/,
  ⟨0x40420008, [], fun _ => 0,
   [⟨0, 16, .ro, .none, none⟩, ⟨16, 4, .ro, .none, none⟩, ⟨20, 1, .ro, .none, none⟩, ⟨21, 2, .ro, .none, none⟩, ⟨23, 1, .ro, .none, none⟩, ⟨24, 1, .ro, .none, none⟩]⟩ /- THM_STAT -/,
  ⟨0x4042000C, [], fun _ => 0,
   [⟨0, 12, .w1c, .none, none⟩]⟩ /- THM_FAIL -/,
  ⟨0x40420100, [(12, 0x4)], fun _ => 0x80000000,
   [⟨0, 16, .ro, .none, none⟩, ⟨16, 16, .w1c, .none, some 0x8000⟩]⟩ /- THM_SENSs -/,
  ⟨0x40430140, [], fun _ => 0,
   [⟨0, 32, .ro, .none, none⟩]⟩ /- AON_POH -/,
  ⟨0x40430144, [], fun _ => 0,
   [⟨0, 32, .ro, .none, none⟩]⟩ /- AON_PCYC -/,
  ⟨0x40430148, [], fun _ => 0,
   [⟨0, 16, .ro, .none, none⟩, ⟨16, 16, .ro, .none, none⟩]⟩ /- AON_PFAIL -/,
  ⟨0x40430150, [(4, 0x4)], fun _ => 0,
   [⟨0, 32, .ro, .none, none⟩]⟩ /- AON_LOADk -/,
  ⟨0x40430160, [], fun _ => 0,
   [⟨0, 32, .ro, .none, none⟩]⟩ /- AON_TWARN -/,
  ⟨0x40430164, [], fun _ => 0,
   [⟨0, 32, .ro, .none, none⟩]⟩ /- AON_TTHR -/]

/-- Rows of the register table. -/
def regRows11 : List RegRow := [
  ⟨0x40430168, [], fun _ => 0x8000,
   [⟨0, 16, .ro, .none, none⟩]⟩ /- AON_TPEAK -/,
  ⟨0x4043016C, [], fun _ => 0,
   [⟨0, 32, .ro, .none, none⟩]⟩ /- AON_TPEAK_T -/,
  ⟨0x40430170, [], fun _ => 0,
   [⟨0, 32, .rw, .none, none⟩]⟩ /- AON_CAL_LO -/,
  ⟨0x40430174, [], fun _ => 0,
   [⟨0, 16, .rw, .none, none⟩, ⟨16, 1, .ro, .none, none⟩, ⟨17, 1, .ro, .none, none⟩]⟩ /- AON_CAL_HI -/,
  ⟨0x40510000, [], fun _ => 0xF0F,
   [⟨0, 4, .ro, .none, none⟩, ⟨4, 2, .ro, .none, none⟩, ⟨8, 4, .ro, .none, none⟩, ⟨12, 4, .ro, .none, none⟩, ⟨16, 2, .ro, .none, none⟩]⟩ /- MGT_OWN -/,
  ⟨0x40510004, [], fun _ => 0,
   [⟨0, 32, .ro, .none, none⟩]⟩ /- MGT_OWN_ADDR_LO -/,
  ⟨0x40510008, [], fun _ => 0,
   [⟨0, 32, .ro, .none, none⟩]⟩ /- MGT_OWN_ADDR_HI -/,
  ⟨0x4051000C, [], fun _ => 0x3C,
   [⟨0, 12, .rw, .range 1 3600, none⟩, ⟨12, 12, .ro, .none, none⟩, ⟨24, 1, .w1s, .none, none⟩]⟩ /- MGT_LEASE -/,
  ⟨0x40510010, [], fun _ => 0x801D,
   [⟨0, 7, .rw, .none, none⟩, ⟨8, 7, .ro, .none, none⟩, ⟨15, 1, .rw, .none, none⟩]⟩ /- MGT_I3C -/,
  ⟨0x40510014, [], fun _ => 0,
   [⟨0, 16, .ro, .none, none⟩, ⟨16, 8, .ro, .none, none⟩, ⟨24, 8, .ro, .none, none⟩]⟩ /- MGT_CNT -/,
  ⟨0x40500060, [], fun _ => 0,
   [⟨0, 16, .ro, .none, none⟩, ⟨16, 1, .ro, .none, none⟩, ⟨17, 3, .ro, .none, none⟩, ⟨24, 8, .ro, .none, none⟩]⟩ /- SEC_XTS -/,
  ⟨0x40500064, [], fun _ => 0,
   [⟨0, 1, .ro, .none, none⟩]⟩ /- SEC_DBG -/,
  ⟨0x40600000, [], fun _ => 0,
   [⟨0, 4, .rw, .none, none⟩, ⟨4, 4, .ro, .none, none⟩]⟩ /- TST_LS_DRAIN -/,
  ⟨0x40600004, [], fun _ => 0,
   [⟨0, 1, .w1s, .none, none⟩, ⟨1, 1, .w1s, .none, none⟩, ⟨2, 3, .ro, .none, none⟩, ⟨5, 1, .w1c, .none, none⟩]⟩ /- TST_ACTV -/,
  ⟨0x40600008, [], fun _ => 0,
   [⟨0, 17, .ro, .none, none⟩]⟩ /- TST_ACTV_TIME -/,
  ⟨0x40600100, [], fun _ => 0,
   [⟨0, 1, .rw, .none, none⟩, ⟨1, 1, .rw, .none, none⟩]⟩ /- TST_PERT_CTL -/,
  ⟨0x40600104, [], fun _ => 0x1,
   [⟨0, 32, .rw, .range 1 4294967295, none⟩]⟩ /- TST_PERT_SEED -/,
  ⟨0x40600108, [], fun _ => 0,
   [⟨0, 10, .rw, .none, none⟩, ⟨10, 16, .rw, .none, none⟩]⟩ /- TST_PERT_CMU -/,
  ⟨0x4060010C, [], fun _ => 0x2000,
   [⟨0, 14, .rw, .range 16 8192, none⟩]⟩ /- TST_PERT_TAG -/,
  ⟨0x40600110, [], fun _ => 0,
   [⟨0, 8, .rw, .none, none⟩, ⟨8, 8, .rw, .none, none⟩]⟩ /- TST_PERT_DMC -/,
  ⟨0x40600114, [], fun _ => 0x6030,
   [⟨0, 6, .rw, .range 1 48, none⟩, ⟨6, 9, .rw, .range 1 384, none⟩, ⟨15, 12, .rw, .none, none⟩]⟩ /- TST_PERT_ABX -/,
  ⟨0x40600118, [], fun _ => 0x800000,
   [⟨0, 10, .rw, .none, none⟩, ⟨10, 14, .rw, .range 16 8192, none⟩]⟩ /- TST_PERT_MTU -/,
  ⟨0x4060011C, [], fun _ => 0,
   [⟨0, 2, .rw, .none, none⟩, ⟨2, 8, .rw, .none, none⟩]⟩ /- TST_PERT_SVT -/,
  ⟨0x403100A0, [], fun _ => 0x2000,
   [⟨0, 12, .rw, .none, none⟩, ⟨12, 1, .rw, .none, none⟩, ⟨13, 8, .rw, .range 1 255, none⟩]⟩ /- ACT_COHORT -/]

/-- Rows of the register table. -/
def regRows12 : List RegRow := [
  ⟨0x403100A4, [], fun _ => 0,
   [⟨0, 16, .rw, .none, none⟩]⟩ /- ACT_COHORT_PH -/,
  ⟨0x403100A8, [], fun _ => 0,
   [⟨0, 1, .ro, .none, none⟩, ⟨1, 1, .w1c, .none, none⟩, ⟨2, 16, .ro, .none, none⟩, ⟨18, 8, .ro, .none, none⟩]⟩ /- ACT_COHORT_STAT -/,
  ⟨0x40300020, [], fun _ => 0x1008008,
   [⟨0, 1, .rw, .none, none⟩, ⟨1, 4, .rw, .range 1 15, none⟩, ⟨5, 12, .rw, .none, none⟩, ⟨17, 8, .rw, .none, none⟩]⟩ /- SVT_SHAPE -/]

/-- Every register of the device (R19 and the field maps). -/
def regTable : List RegRow :=
  regRows0 ++ regRows1 ++ regRows2 ++ regRows3 ++ regRows4 ++ regRows5 ++ regRows6 ++ regRows7 ++ regRows8 ++ regRows9 ++ regRows10 ++ regRows11 ++ regRows12

/-- The indexes of offset `off` in an array of the dims `dims`, where it is the offset of an element. -/
def dimIndex : List (Nat × Nat) → Nat → Option (List Nat)
  | [], off => if off = 0 then some [] else none
  | (c, st) :: ds, off =>
    if off / st < c then (dimIndex ds (off % st)).map (off / st :: ·) else none

/-- The register at an address, with its indexes: none where the offset holds no register (R10). -/
def findReg (addr : Nat) : List RegRow → Option (RegRow × List Nat)
  | [] => none
  | r :: rs =>
    if r.base ≤ addr then
      match dimIndex r.dims (addr - r.base) with
      | some is => some (r, is)
      | none => findReg addr rs
    else findReg addr rs

/-- The reset word of the register at an address (R11); 0 where there is none (R10). -/
def resetWord (addr : Nat) : Nat :=
  match findReg addr regTable with
  | some (r, is) => r.rst is
  | none => 0

end Sys2Proof.Machine
end

