-- ==== Sys2Proof/Machine/State.lean ====
section
/-!
DEFINITION. Machine/State.lean: everything the spec gives the block, as plain data. The register file is one sparse table
of 32-bit words; what no register holds stands in one structure for each chapter. Fault and Refusal are here too.
-/
namespace Sys2Proof.Machine

/-! ### Fault collection (chapter 17) -/

/-- A fault record of the FCU queue (R594). `scope` is 0 to 3 for an actuator and 4 for the device; `react` holds steps
W, A, H, R, T, F in bits 0 to 5. -/
structure FaultRec where
  src : Nat
  cls : Nat
  sev : Nat
  scope : Nat
  react : Nat
  conseq : Nat
  csrc : Nat
  cmax : Nat
  creact : Bool
  seq : Nat
  detail : Nat
  time : Nat
  deriving DecidableEq, Repr

/-- A reaction shadow (R583): the step's code, its actuator, and the window (0 to 3, or 4) of the record it belongs to. -/
structure Shadow where
  code : Nat
  actuator : Nat
  window : Option Nat
  deriving DecidableEq, Repr

/-- An open fault window (R582): its place `k`, its record, the actuators its reactions retracted (a mask), and whether
its record took step F. -/
structure FaultWindow where
  k : Nat
  record : FaultRec
  retracted : Nat
  fatal : Bool
  deriving DecidableEq, Repr

/-- The FCU beyond its registers. `windows` are in the order they opened. `nextSeq` is the next REC_SEQ. -/
structure Fcu where
  queue : List FaultRec := []
  windows : List FaultWindow := []
  shadows : List Shadow := []
  nextSeq : Nat := 0
  /-- R587: the phase count of the PIP generator, 0 to 124. -/
  pipPhase : Nat := 0
  /-- R587: the ticks of the half-period in progress, 16 or 17. -/
  pipTicks : Nat := 16
  /-- R588: the watchdog interval runs. -/
  wdogRunning : Bool := false
  deriving DecidableEq, Repr

/-! ### Tally and thermal (chapter 18) -/

/-- An event on its way to or in the Tally inlet (R598 to R600), with the stamps it took on entering. -/
structure TlyEvent where
  kind : Nat
  source : Nat
  code : Nat
  detail : Nat
  link : Nat := 0
  frozen : Bool := false
  poh : Nat := 0
  pcyc : Nat := 0
  cal : Nat := 0
  deriving DecidableEq, Repr

/-- A Tally record (R598). VALID is the record's presence in the ring or the archive. -/
structure TlyRec where
  seq : Nat
  ev : TlyEvent
  repeats : Nat
  fromImage : Bool := false
  deriving DecidableEq, Repr

/-- Where a ring record stands with the archive (R606). -/
inductive ArchState where
  | waiting | copied | archived | lost
  deriving DecidableEq, Repr

/-- A ring slot that holds a valid record. -/
structure RingSlot where
  record : TlyRec
  arch : ArchState
  deriving DecidableEq, Repr

/-- The Tally recorder beyond its registers. -/
structure Tly where
  /-- R600: events each requester position presents, oldest first: FCU, THM, firmware, TLY's own. -/
  waitFcu : List TlyEvent := []
  waitThm : List TlyEvent := []
  waitFw : List TlyEvent := []
  waitOwn : List TlyEvent := []
  /-- R600: the inlet, oldest first, at most 16. -/
  inlet : List TlyEvent := []
  /-- R601: the ring, by index. -/
  ring : Store (Option RingSlot) := []
  /-- R602: the ring index of the last record, where there is one; none once it is sealed. -/
  last : Option Nat := none
  /-- R606: the archive by slot number, and the records the program in progress carries. -/
  archive : Store (Option TlyRec) := []
  programRecs : List TlyRec := []
  programBusy : Bool := false
  archiveRequest : Bool := false
  /-- R608: records of a replayed or device-reset image that wait to be archived. -/
  imageRecs : List TlyRec := []
  /-- R607: a flush waits for TLY_READY. -/
  flushWait : Bool := false
  /-- R610: the CODE of a clear that waits for a freeze to end, and whether an archive erase was cut by power fail. -/
  clearWait : Option Nat := none
  eraseCut : Bool := false
  /-- R612: POH_S at the last LIFE group. -/
  lifePoh : Nat := 0
  deriving DecidableEq, Repr

/-- THM beyond its registers: the sensors that have a previous sample (R615), a mask; seconds counted toward the
minute counters of R611. -/
structure Thm where
  sampled : Nat := 0
  warnSec : Nat := 0
  thrSec : Nat := 0
  deriving DecidableEq, Repr

/-! ### Hosts: NVMe controllers, SAS nexuses, commands in flight, the hazard table (chapters 05 and 06) -/

/-- A submission queue. `prio`: 0 urgent, 1 high, 2 medium, 3 low. `deleting` is the CID of a Delete I/O SQ under way. -/
structure Sq where
  size : Nat
  cq : Nat
  prio : Nat
  head : Nat := 0
  tail : Nat := 0
  deleting : Option Nat := none
  deriving DecidableEq, Repr

/-- A completion queue. `tail` is the CMU's internal tail (R181). -/
structure Cq where
  size : Nat
  vector : Nat
  ien : Bool
  head : Nat := 0
  tail : Nat := 0
  phase : Bool := true
  deriving DecidableEq, Repr

/-- An entry of the Error Information log (R167): the SQID, CID and status it records. -/
structure ErrEntry where
  count : Nat
  sqid : Nat
  cid : Nat
  status : Nat
  deriving DecidableEq, Repr

/-- How a command ends (R165 to R168, R185, R203, R204). `code` is the NVMe status (SCT and SC); `key`, `asc`, `ascq` the
SAS sense; `sas` the SAS status. -/
structure Done where
  code : Nat := 0
  dnr : Bool := false
  crd : Nat := 0
  dw0 : Nat := 0
  sas : Nat := 0
  key : Nat := 0
  asc : Nat := 0
  ascq : Nat := 0
  deriving DecidableEq, Repr

/-- The NVMe controller of a PCIe port (R160). Queue 0 of each store is the admin queue. -/
structure Ctrl where
  ams : Nat := 0
  shst : Nat := 0
  /-- R159, R164: the CMU fetches nothing from this controller. -/
  stopFetch : Bool := false
  /-- R171: the queue quota in force since CC.EN rose; R172: I/O CQs granted, and whether an I/O queue exists since. -/
  quota : Nat := 0
  cqGranted : Nat := 0
  ioCreated : Bool := false
  sqs : Store (Option Sq) := []
  cqs : Store (Option Cq) := []
  /-- R175: the turn token of each class. -/
  classToken : Store Nat := []
  /-- R184: MSI-X enable, the vectors MSI grants, and the masked and pending vectors. -/
  msixOn : Bool := false
  msiVectors : Nat := 0
  masked : Nat := 0
  msixPend : Nat := 0
  /-- R183: committed entries not yet signalled, by vector. -/
  unsignalled : Store Nat := []
  /-- R168: feature values by identifier (a vector's configuration at 0x900 + vector). -/
  feats : Store Nat := []
  /-- R165, R174: CIDs of outstanding Asynchronous Event Requests, and events held until one arrives. -/
  aers : List Nat := []
  events : List Nat := []
  errLog : List ErrEntry := []
  /-- R182, R187: completions of commands that hold no tag, held while their CQ is full. -/
  held : List (HostReq × Done) := []
  changedNs : List Nat := []
  /-- R620: WCTEMP and CCTEMP as latched when CC.EN rose. -/
  wctemp : Nat := 0
  cctemp : Nat := 0
  changedZones : List Nat := []
  deriving DecidableEq, Repr

/-- A block a read has taken: its data, or an unreadable block (R211, R246). -/
inductive Got where
  | data (v : Nat)
  | unreadable
  deriving DecidableEq, Repr

/-- A command in flight that holds a tag (R178). `arrival` is its place in arrival order; `shared` says its tag came from
the shared pool (R179). -/
structure Cmd where
  tag : Nat
  port : Nat
  arrival : Nat
  shared : Bool
  req : HostReq
  /-- The LBA it starts at: a Zone Append's is assigned at arrival (R209). -/
  lba : Nat := 0
  /-- R213: it is an ordered barrier, and it has started. -/
  barrier : Bool := false
  started : Bool := false
  /-- R242: buffer space is reserved; blocks received; R200: the XFER_RDY outstanding (offset, length in blocks). -/
  reserved : Nat := 0
  received : Nat := 0
  /-- R201: bytes received of the block in progress, and those bytes. -/
  partLen : Nat := 0
  part : Nat := 0
  xferRdy : Option (Nat × Nat) := none
  /-- R252: the media operations that fetch its blocks are queued. -/
  mediaQueued : Bool := false
  /-- R185: the CIDs of Aborts that matched it; R213: its fused partner's tag. -/
  partner : Option Nat := none
  abortedBy : Option Nat := none
  /-- R211: blocks the read has taken, and blocks sent to the host. -/
  got : Store (Option Got) := []
  sent : Nat := 0
  /-- R209: it was entered in the HZT at its arrival. -/
  inHzt : Bool := false
  /-- R107: a read that the write buffer wholly satisfied at its arrival. -/
  buffered : Bool := false
  /-- R206: ended with no RESPONSE frame. -/
  silent : Bool := false
  done : Option Done := none
  deriving DecidableEq, Repr

/-- An HZT entry (R209 to R212): the blocks it holds as (LBA, length) pairs, and the tags of the commands that have not
ended among those that own it. -/
structure HzEntry where
  arrival : Nat
  owners : List Nat
  write : Bool
  ns : Nat
  parts : List (Nat × Nat)
  deriving DecidableEq, Repr

/-- Whether the initiator of a nexus is reachable; `losing` while its nexus loss time runs (R207). -/
inductive NexusLink where
  | connected | losing | gone
  deriving DecidableEq, Repr

/-- An I_T nexus of a SAS port (R193, R196): unit attentions as ASC * 256 + ASCQ, oldest first, and the initiator's SAS
address. -/
structure Nexus where
  ua : List Nat := []
  link : NexusLink := .connected
  addr : Nat := 0
  deriving DecidableEq, Repr

/-- The hosts' side of the block beyond its registers. -/
structure Hosts where
  ctrl : Store Ctrl := []
  /-- Key 32 * port + nexus, port 0 or 1; a listed nexus is established. -/
  nexus : Store (Option Nexus) := []
  /-- R197: the command inlets of S0 and S1. -/
  inlet : Store (List HostReq) := []
  /-- R178: entries fetched from host memory that have not passed the tag step, as (port, entry), oldest first. -/
  fetched : List (Nat × HostReq) := []
  /-- R215: the command the stalled tag step holds. -/
  stalled : Option (Nat × HostReq) := none
  cmds : List Cmd := []
  nextArrival : Nat := 0
  hzt : List HzEntry := []
  /-- R203: mode page fields changed since reset: (page * 256 + field) * 32 + scope, where the scope is the logical unit, or
  16 + port for pages 0x19 and 0x1A. An unlisted field has its saved value. -/
  modePages : Store (Option Nat) := []
  /-- R170, R651: staged image data, by endpoint * 2^16 + 4 KiB block. -/
  fwStage : Store Nat := []
  deriving DecidableEq, Repr

/-! ### DRAM (chapter 16) -/

/-- What an access of a DRAM word asks for; a masked write gives the bytes it covers as bits 0 to 63 of `mask`. -/
inductive DramOp where
  | read
  | write (data : Nat)
  | masked (mask data : Nat)
  deriving DecidableEq, Repr

/-- A request that waits for a region operation (R538): its requester position, its word, its operation. -/
structure DramReq where
  pos : Nat
  word : Nat
  op : DramOp
  deriving DecidableEq, Repr

/-- What a region operation does when it completes (R538, R539). -/
inductive RegionJob where
  | clear | adopt | mark
  deriving DecidableEq, Repr

/-- A region operation under way: the words `lo` to `hi - 1` of its data area, and its job. -/
structure RegionBusy where
  lo : Nat
  hi : Nat
  job : RegionJob
  deriving DecidableEq, Repr

/-- The DRAM and DMC beyond its registers. A word is 512 bits. Physical words 2^29 on are the spare rows. -/
structure Dram where
  words : Store Nat := []
  written : Store Bool := []
  /-- R556, R557: rows redirected, bank * 2^16 + row, to their spare row; by the fuse map as loaded, and soft. -/
  fused : Store (Option Nat) := []
  soft : Store (Option Nat) := []
  busy : Store (Option RegionBusy) := []
  waiting : List DramReq := []
  /-- R554: line 73 has been raised since the log filled. -/
  overflowed : Bool := false
  /-- R557: the row being copied and its spare. -/
  copying : Option (Nat × Nat) := none
  deriving DecidableEq, Repr

/-! ### Assist and calibration (chapter 14) -/

/-- ASD's view of one head slot (R481 to R485). -/
structure AsdSlot where
  /-- R482: the next assist frame is the first after a HEAD_PROFILE. -/
  isNew : Bool := false
  /-- R482: a reading is on its way or has arrived: its value, WROTE and STALE. -/
  asked : Bool := false
  reading : Option (Int × Bool × Bool) := none
  /-- R485: the last WROTE reading since the NEW frame. -/
  wrote : Option Int := none
  /-- R484: the last acknowledged ASST_OP and ASST_PRE, whether the last code sent is acknowledged, and CLAMP_HI. -/
  op : Nat := 0
  pre : Nat := 0
  acked : Bool := true
  clampHi : Bool := false
  /-- R484: the voted output waits for ASD. -/
  due : Option Int := none
  /-- R481: the assist table word supplied since the slot's last assist frame. -/
  entry : Nat := 0
  deriving DecidableEq, Repr

/-- The sums of a head's ageing loop (R486): of out, of the base, and the frames accumulated. -/
structure AgeSum where
  sOut : Int := 0
  sBase : Int := 0
  frames : Nat := 0
  deriving DecidableEq, Repr

/-- The target of a calibration value (R496, R497): TGT, UNIT, ZONE and OFFSET. -/
structure CalTarget where
  tgt : Nat
  unit : Nat
  zone : Nat
  offset : Nat
  deriving DecidableEq, Repr

/-- An entry that waits for its target's boundary (R498, R499): its target, the values before and after (the second one a
coefficient's shift), the steps taken and the steps in all, and whether it ramps. -/
structure CalRamp where
  target : CalTarget
  old : Nat
  new : Nat
  old2 : Nat := 0
  new2 : Nat := 0
  step : Nat := 0
  steps : Nat := 1
  ramp : Bool := false
  /-- R495: the context whose list it is from. -/
  run : Option Nat := none
  deriving DecidableEq, Repr

/-- A run's own data (R491, R492, R494): its type, unit and slot, the heads its actuator's slots held at the start, and the words
its trial writes replaced. -/
structure CalRun where
  type : Nat := 0
  unit : Nat := 0
  slot : Nat := 0
  head0 : Option Nat := none
  head1 : Option Nat := none
  trials : List (CalTarget × Nat) := []
  deriving DecidableEq, Repr

/-- A calibration set (R502): the profile words at 32 * (64 * head + zone) + word, the assist table at 64 * head + zone, the
head words, the coefficients at 1024 * actuator + 2 * entry (the shift one above), the device record, the history at
32 * type + unit, and the format table's bytes as a number. An unlisted head word is 0x1000, any other word 0. -/
structure CalSet where
  profile : Store Nat := []
  assist : Store Nat := []
  heads : Store Nat := []
  coef : Store Nat := []
  device : Store Nat := []
  history : Store (Nat × Nat × Nat) := []
  format : Nat := 0
  deriving DecidableEq, Repr

/-- A calibration bank with a valid commit (R502): its SET_SEQ, its set and the set's length in bytes. -/
structure CalBank where
  seq : Nat
  set : CalSet
  len : Nat
  deriving DecidableEq, Repr

/-- A store under way (R503): its snapshot and its SET_SEQ; SET_DIRTY has been set since the snapshot. -/
structure CalStore where
  set : CalSet
  seq : Nat
  bank : Nat
  changed : Bool := false
  deriving DecidableEq, Repr

/-- ASD and CAL beyond their registers. -/
structure Cal where
  /-- Head slot 2 * n + h of ASD; the ageing sums of each head; a run of type 1 holds them at zero. -/
  asd : Store AsdSlot := []
  age : Store AgeSum := []
  /-- R497: the working profile table, the device record, the history, the format table. -/
  profile : Store Nat := []
  device : Store Nat := []
  history : Store (Nat × Nat × Nat) := []
  format : Nat := 0
  runs : Store CalRun := []
  ramps : List CalRamp := []
  store : Option CalStore := none
  /-- R504: the position that the NOR arbiter granted last. -/
  norGranted : Option Nat := none
  deriving DecidableEq, Repr

/-! ### Media (chapter 07) -/

/-- The NVMe zone states (R229). -/
inductive ZoneCond where
  | empty | implicitlyOpened | explicitlyOpened | closed | full | readOnly | offline
  deriving DecidableEq, Repr

/-- A zone: its state, its write pointer and its arrival pointer (R230), zone-relative in blocks; whether it holds a write
context (R233); the Pack ratio it was given where it is not its namespace's (R514); the extern and overflow sectors it uses
(R524). -/
structure Zone where
  cond : ZoneCond := .empty
  wp : Nat := 0
  ap : Nat := 0
  context : Bool := false
  ratio : Option Nat := none
  externs : Nat := 0
  overflow : Nat := 0
  /-- Sectors of the band written, from its first; R250: the places of the band slipped since its defect list, rising. -/
  written : Nat := 0
  slips : List Nat := []
  deriving DecidableEq, Repr

/-- An extent-map entry (R237): the unit's media location, its stored length in sectors, its packed flag. -/
structure MapEntry where
  loc : Nat
  len : Nat
  packed : Bool
  deriving DecidableEq, Repr

/-- What the journal and the checkpoints carry (R240): zones by NSID * 2^32 + zone, map units by NSID * 2^32 + unit, and
the relocation table by sector location. -/
structure Tables where
  zones : Store Zone := []
  map : Store (Option MapEntry) := []
  reloc : Store Nat := []
  /-- Changes appended so far: the newer of two tables has more. -/
  stamp : Nat := 0
  deriving DecidableEq, Repr

/-- A namespace (R227): `size` and `zoneBlocks` in 4 KiB blocks; the ports whose controllers it is attached to. -/
structure Namespace where
  zoned : Bool
  size : Nat
  zoneBlocks : Nat
  attached : Nat := 0
  /-- R235: streams open; the ports whose controllers enabled the Streams directive (mask). -/
  streams : List Nat := []
  streamsOn : Nat := 0
  /-- R513, R515: the Pack settings latched at creation: ratio, overflow %, extern reserve in GiB. -/
  ratio : Nat := 0
  ovfPct : Nat := 25
  extGib : Nat := 4
  deriving DecidableEq, Repr

/-- A 4 KiB block in the write buffer (R242 to R247), placed by the write of this arrival number. -/
structure BufBlock where
  ns : Nat
  lba : Nat
  data : Nat
  arrival : Nat
  /-- R211: its effect is visible. -/
  visible : Bool
  /-- R245: a conventional log write carries it; it is on media (its space is not yet free). -/
  queued : Bool := false
  onMedia : Bool := false
  /-- R246: it is lost. -/
  poisoned : Bool := false
  deriving DecidableEq, Repr

/-- What a media operation is for: a host's read; destage; band cleaning; a read of a unit's absent blocks (R238); a read of
sectors that are written again (R239, R245), or such a sector in a write; a reread (R357); any other operation. -/
inductive OpKind where
  | hostRead | destage | cleaning | readBack | rewrite | reread | control
  deriving DecidableEq, Repr

/-- What a sector serves: a host command, or the MTU's own work; the block (NSID, LBA) it holds. A sector of a Pack block
holds part `idx` of it, and `lba` is the block's first. -/
structure Serve where
  kind : OpKind
  tag : Option Nat
  ns : Nat
  lba : Nat
  packed : Bool := false
  idx : Nat := 0
  deriving DecidableEq, Repr

/-- A compressed Pack block or map unit on its way to media (R516, R521): the data it was made from, its sectors' contents, where
its spill begins in the overflow area or its extern index, the pool buffers it holds, and the sectors a media operation carries
or media hold. -/
structure PackUnit where
  ns : Nat
  lba : Nat
  raw : Bool
  source : Nat
  sectors : List Nat
  spillAt : Nat := 0
  extern : Option Nat := none
  pool : Nat := 0
  queued : List Nat := []
  onMedia : List Nat := []
  deriving DecidableEq, Repr

/-- A compression lane in use (R520 to R522): its block, the sectors of its slot (0 in a conventional namespace), the pool
buffers it needs and has, and its place in the order of stalled lanes. -/
structure PackLane where
  ns : Nat
  lba : Nat
  slot : Nat
  need : Nat
  have_ : Nat
  stalled : Option Nat := none
  deriving DecidableEq, Repr

/-- A Pack block in read staging (R526): the sectors read so far; a sector of it was unreadable; the MTU reads it for its own
work. -/
structure ReadUnit where
  ns : Nat
  lba : Nat
  sectors : Store (Option Nat) := []
  bad : Bool := false
  forMtu : Bool := false
  deriving DecidableEq, Repr

/-- PAK beyond its registers: the pool's size in force (R530), buffers to be freed, stalls so far. -/
structure Pak where
  units : List PackUnit := []
  lanes : Store (Option PackLane) := []
  /-- R520: blocks (NSID, first LBA) that are ready and wait for a lane, in order. -/
  ready : List (Nat × Nat) := []
  reads : List ReadUnit := []
  poolSize : Nat := 8192
  freeDue : Nat := 0
  stalls : Nat := 0
  deriving DecidableEq, Repr

/-- A media operation (R252) of one actuator: a run of sectors from `first` on a track of a surface, its data at `dataAddr` in
DRAM, and what each sector of the run serves, in order. `rcvMode` is RCV_MODE of a reread; `partial` says that a destage
ends before its track does. -/
structure MediaOp where
  kind : OpKind
  write : Bool
  surface : Nat
  track : Nat
  first : Nat
  sectors : List Serve
  dataAddr : Nat := 0
  rcvMode : Nat := 0
  partialTrack : Bool := false
  queuedMs : Nat
  deriving DecidableEq, Repr

/-- R252, R373: an operation issued to an FSQ: its descriptor, and the queued operations its slots carry. -/
structure Issued where
  desc : OpDesc
  op0 : Option MediaOp := none
  op1 : Option MediaOp := none
  deriving DecidableEq, Repr

/-- R245: a sector read back from media, to be written again: its service, its data, and whether it could not be read. -/
structure BackSector where
  serve : Serve
  data : Nat
  bad : Bool
  deriving DecidableEq, Repr

/-- R249, R250: a sector that qualifies for relocation, with its decoded user data and metadata. -/
structure Reloc where
  loc : Nat
  user : Nat
  metadata : Nat
  deriving DecidableEq, Repr

/-- The MTU beyond its registers. -/
structure Media where
  tables : Tables := {}
  buffer : List BufBlock := []
  /-- R252: queued operations by actuator, oldest first. -/
  queue : Store (List MediaOp) := []
  /-- R240: bytes in the journal tail, changes appended, bytes of segments on media. -/
  tailBytes : Nat := 0
  changes : Nat := 0
  segBytes : Nat := 0
  /-- R233: active zones that wait for a write context, in the order they became active. -/
  ctxWait : List Nat := []
  /-- R249: the watch list, oldest first. -/
  watch : List Nat := []
  /-- R239: band cleaning runs. -/
  cleaning : Bool := false
  /-- R163: heads have been loaded and track-following since the last reset. -/
  loadedOnce : Bool := false
  /-- R241: the tables of a replayed Keep store image. -/
  replayed : Option Tables := none
  /-- R249: qualifying sectors that wait to be relocated; R250: sectors to be relocated once their band is written. -/
  relocWait : List Reloc := []
  afresh : List Nat := []
  /-- The OP_ID of the next operation issued (R373). -/
  nextOpId : Nat := 0
  /-- R245: sectors read back for a rewrite; places of zones' bands written by the runs of the track in progress. -/
  back : List BackSector := []
  wrote : List Nat := []
  /-- R239: (NSID, unit) that band cleaning rewrites. -/
  cleanUnits : List (Nat × Nat) := []
  /-- R240: writes done whose map changes wait for the journal tail; R382: writes that ended early. -/
  reportWait : List MediaOp := []
  failedWrites : List MediaOp := []
  deriving DecidableEq, Repr

/-- R337, R648: a sector as last written whole: its user data, its metadata, and the key it is encrypted under. -/
structure MediaSector where
  user : Nat
  metadata : Nat
  key : Nat
  deriving DecidableEq, Repr

/-- What survives every reset: in NOR, on media, or in fuses not listed elsewhere. -/
structure Nv where
  /-- R240: the tables as the checkpoint and the segments on media give them. -/
  tables : Tables := {}
  namespaces : Store (Option Namespace) := []
  /-- R168: saved feature values by port * 2^16 + identifier; R205: saved mode pages. -/
  savedFeats : Store Nat := []
  /-- R110, R168: saved APST tables: (next state, ms) by 32 * port + state. -/
  savedApst : Store (Nat × Nat) := []
  savedPages : Store (Option Nat) := []
  /-- R234, R251: heads declared unable to write or to read (masks over heads 0 to 31). -/
  noWrite : Nat := 0
  noRead : Nat := 0
  /-- R649: the media encryption key of each NSID (0 the device key). -/
  keys : Store Nat := []
  /-- The sectors that hold a valid codeword, by location (R337). -/
  sectors : Store (Option MediaSector) := []
  /-- R337: BAND_GEN by band: NSID * 2^32 + zone, or 2^60 + the conventional band. -/
  bandGen : Store Nat := []
  /-- R502: the calibration banks A and B in NOR whose commit is valid. -/
  bankA : Option CalBank := none
  bankB : Option CalBank := none
  deriving DecidableEq, Repr

/-! ### The Map Cache (chapter 08) -/

/-- A way of a set that is valid or locked (R258): its line, DIRTY, the lock range it is locked to, its data, its place in the
order of installation, and whether it was prefetched and not hit since. A locked-empty way has no line. -/
structure McWay where
  line : Option Nat
  dirty : Bool := false
  lock : Option Nat := none
  data : Nat := 0
  age : Nat := 0
  prefetched : Bool := false
  deriving DecidableEq, Repr

/-- A request of the MTU that waits: an update's value; the command tag of a lookup; its byte offset in DRAM. -/
structure McReq where
  update : Option Nat
  tag : Nat
  addr : Nat
  deriving DecidableEq, Repr

/-- A fill in flight (R263, R272, R279): its line, the requests that wait for it, a prefetch, and one to be discarded. -/
structure McFill where
  line : Nat
  reqs : List McReq := []
  prefetch : Bool := false
  discard : Bool := false
  deriving DecidableEq, Repr

/-- An entry of the victim cache or the eviction buffer. -/
structure McLine where
  line : Nat
  data : Nat
  age : Nat
  deriving DecidableEq, Repr

/-- A stride detector (R271): its tag, last line, stride, confidence, its place in the order of use, and whether a lookup at
confidence 2 asks for prefetches. -/
structure McDetector where
  tag : Nat
  last : Nat
  stride : Int := 0
  conf : Nat := 0
  used : Nat
  due : Bool := false
  deriving DecidableEq, Repr

/-- A range operation under way (R277): RANGE_OP, its lines, and the place in the installation order it began at. -/
structure McRange where
  op : Nat
  line : Nat
  count : Nat
  start : Nat
  deriving DecidableEq, Repr

/-- MCA beyond its registers. -/
structure Mca where
  /-- R258: by set * 16 + way; an unlisted way is invalid and not locked. -/
  ways : Store (Option McWay) := []
  /-- R272: the way a prefetch named as its set's victim, until the set is used again. -/
  named : Store (Option Nat) := []
  victims : Store (Option McLine) := []
  evicting : List McLine := []
  fills : List McFill := []
  /-- Requests stalled on the eviction buffer (R268), waiting for a fill buffer, and waiting for MAP_RESUME (R282). -/
  stalled : List McReq := []
  noBuffer : List McReq := []
  halted : List McReq := []
  detectors : Store (Option McDetector) := []
  range : Option McRange := none
  clock : Nat := 0
  deriving DecidableEq, Repr

/-! ### Power, clocks, boot (chapters 01 to 04) -/

/-- The power domains of R36: supplied and out of reset. `hphy` holds PHY quads 0 to 3 in bits 0 to 3 and SAS PHYs 0 and 1
in bits 4 and 5; `med` holds MED0 to MED3. -/
structure Domains where
  aon : Bool := false
  pstg : Bool := false
  core : Bool := false
  hphy : Nat := 0
  dram : Bool := false
  abx : Bool := false
  med : Nat := 0
  svt : Bool := false
  spare : Bool := false
  ksc : Bool := false
  deriving DecidableEq, Repr

/-- How far the power-fail sequence of R80 or the image of R118 and R79 has come. -/
inductive PfStage where
  | idle | started | flushing | committed | off
  deriving DecidableEq, Repr

/-- The device pins the block samples. -/
structure Pins where
  bifsel : Nat := 0
  perstN : Bool := false
  retractReqN : Bool := true
  cohortMark : Bool := false
  /-- R121: PCIe ports whose link training has begun (mask). -/
  training : Nat := 0
  deriving DecidableEq, Repr

/-- The 48 V power stage beyond its registers. -/
structure Pwr where
  /-- R67, R69, R80: the input switch is closed. -/
  inputSwitch : Bool := false
  /-- R76: VBULK in millivolts at its last measurement. -/
  vbulkMv : Nat := 0
  /-- R80, R440: the dynamic brake is applied. -/
  brake : Bool := false
  pf : PfStage := .idle
  /-- R72: PA5Vn and PAM3Vn in regulation (mask); PASSTn in regulation (mask). -/
  paReg : Nat := 0
  asstReg : Nat := 0
  /-- R60: the 25 MHz oscillator is enabled. -/
  xt25En : Bool := false
  /-- R94: the reading each reference was last re-trimmed from, by the sensor of its site. -/
  bandgapTrim : Store Nat := []
  /-- R92: the calendar correction last applied in 0.001 ppm, and the part of a millisecond it has built up, in ns. -/
  calPpb : Int := 0
  calNs : Int := 0
  deriving DecidableEq, Repr

/-- What AON keeps of the idle timers (R103) and the host requests (R102, R109 to R112). -/
structure PowerMgmt where
  /-- R102: the state the idle timers have reached. -/
  timerDepth : Nat := 0
  /-- R102: requested state of PCIe ports 0 to 3 and SAS ports 0 and 1 (index 4, 5); unlisted: Active. -/
  request : Store Nat := []
  /-- R112: SAS ports stopped by START STOP UNIT (mask). -/
  sasStopped : Nat := 0
  /-- R111: milliseconds since the last media command of SAS ports 0 and 1. -/
  sasIdleMs : Store Nat := []
  /-- R110: APST enabled per PCIe port (mask), and each table: (ITPS, ITPT) by port * 32 + state. -/
  apstOn : Nat := 0
  apstTable : Store (Nat × Nat) := []
  /-- R105: background media work is stopped. -/
  backgroundStopped : Bool := false
  /-- R101: every configured port is in L1.2 and the SLEEP_DLY_MS interval runs. -/
  l12Running : Bool := false
  deriving DecidableEq, Repr

/-- A boot control record (R125). -/
structure BootRec where
  seq : Nat
  active : Nat
  trial : Nat
  left : Nat
  spin : Bool
  deriving DecidableEq, Repr

/-- A firmware or microcode image (R128): its 4,096-byte header and its payload as little-endian numbers. A microcode
image's payload holds its sections (R390). -/
structure Image where
  header : Nat
  payload : Nat
  deriving DecidableEq, Repr

/-- The fuses (R133 to R135, R143, R556). -/
structure Fuses where
  keyHash : Store Nat := []
  revoked : Nat := 0
  fwSvnMin : Nat := 0
  mcSvnMin : Nat := 0
  lot : Nat := 0
  wafer : Nat := 0
  dieX : Nat := 0
  dieY : Nat := 0
  stepping : Nat := 0
  serial : Nat := 0
  variant : Nat := 0
  lifecycle : Nat := 0
  secret : Nat := 0
  /-- R556: the spare-row fuse map: the spare row that bank * 2^16 + row takes. -/
  spareRows : Store (Option Nat) := []
  deriving DecidableEq, Repr

/-- A fuse burn under way (R136). -/
inductive FuseBurn where
  | revoke (slot : Nat)
  | fwSvn (v : Nat)
  | mcSvn (v : Nat)
  | spareRow (row : Nat)
  deriving DecidableEq, Repr

/-- A firmware image that an accepted Commit Action 3 left staged in DRAM (R663): its image, its slot, and the host command
that completes once the activation is over. -/
structure Activation where
  image : Image
  slot : Nat
  tag : Option Nat
  deriving DecidableEq, Repr

/-- The JTAG TAP (R673): its instruction, and the boundary-scan cells as last preloaded (R674). -/
structure Tap where
  ir : Nat := 1
  cells : Nat := 0
  deriving DecidableEq, Repr

/-- ACT's cohort function beyond its registers (R678, R679): an edge has been accepted since COHORT_EN was set or
COHORT_LOST, and how many accepted marks in a row had |PHASE_ERR| at most 64. -/
structure Cohort where
  accepted : Bool := false
  run : Nat := 0
  deriving DecidableEq, Repr

/-- Where the boot of R130 stands. -/
inductive BootPhase where
  | held | rom | firmwareLoaded | microcodeLoaded | firmware | recovery | warm
  deriving DecidableEq, Repr

/-- An update commit under way (R651): where it came from (0 to 3 NVMe, 4 and 5 SAS, 6 Damot), its target slot of R124, its
Commit Action, its image, and the command it completes. -/
structure UpdateJob where
  endpoint : Nat
  slot : Nat
  action : Nat
  image : Image
  tag : Option Nat
  deriving DecidableEq, Repr

/-- Boot, identity and reset state beyond the registers. -/
structure Boot where
  phase : BootPhase := .held
  /-- R57: BIFSEL as sampled: 0 one x16, 1 two x8, 2 four x4. -/
  width : Nat := 0
  widthSampled : Bool := false
  /-- R24: cores C1 to C3 released (mask over C0 to C3 of running cores). -/
  cores : Nat := 0
  /-- R125: the two copies in NOR; none is an invalid copy. -/
  rec0 : Option BootRec := none
  rec1 : Option BootRec := none
  /-- R126: the slot order of this boot is chosen: first and second firmware slot, and whether the first is a trial. -/
  order : Option (Nat × Nat × Bool) := none
  /-- R124: the image slots in NOR: 0 firmware A, 1 firmware B, 2 microcode A, 3 microcode B. -/
  slots : Store (Option Image) := []
  /-- The firmware and microcode running, and the identity certificate chain of R145. -/
  firmware : Option Image := none
  microcode : Option Image := none
  certChain : Nat := 0
  /-- R647: the SHAKE256-512 digest of the payload loaded into bank `b` of FSQ `n`, at 2 * n + b. -/
  fsqPayload : Store Nat := []
  burn : Option FuseBurn := none
  update : Option UpdateJob := none
  /-- R663, R664: the image staged for activation; while host commands are held, FCU_US at the start of the hold. -/
  activation : Option Activation := none
  hold : Option Nat := none
  /-- R119: a device reset is under way, and actuator resets wait for their heads to park (mask). -/
  deviceReset : Bool := false
  actResetWait : Nat := 0
  deriving DecidableEq, Repr

/-- A Keep store image (R82): the flush sequence, its state, and its segments. The buffer holds (LBA key, data). -/
structure KeepImage where
  seq : Nat
  committed : Bool
  consumed : Bool
  replayed : Bool
  badCrc : Bool
  tables : Tables
  buffer : List BufBlock
  poisoned : List Nat
  tally : List TlyRec
  emptyBuffer : Bool := false
  deriving DecidableEq, Repr

/-- The Keep store controller beyond its registers. -/
structure Ksc where
  area0 : Option KeepImage := none
  area1 : Option KeepImage := none
  nextSeq : Nat := 1
  /-- An image is being written: its area, and whether it is a power-fail, device-reset or hold-up image. -/
  writing : Option Nat := none
  replaying : Option Nat := none
  consuming : Option Nat := none
  deriving DecidableEq, Repr

/-! ### Channels and the Abacus (chapters 09 and 10) -/

/-- A run of sectors armed on a head slot (R376): `next` is the index within the run of the next sector to start; `op` is the
MTU's operation it belongs to. -/
structure SectorRun where
  write : Bool
  surface : Nat
  track : Nat
  first : Nat
  count : Nat
  next : Nat
  dataAddr : Nat
  op : Option MediaOp
  deriving DecidableEq, Repr

/-- A head slot of a channel beyond its registers. -/
structure ChanSlot where
  /-- R292: the head and recording zone HEAD_PROFILE last placed since CHNn was re-initialised. -/
  head : Option Nat := none
  zone : Nat := 0
  /-- R302, R304: consecutive timing fields within 1/16 symbol, and consecutive lost wedges while coasting. -/
  goodFields : Nat := 0
  lostWedges : Nat := 0
  /-- R376: the run armed, and whether a sector of it is being written. -/
  run : Option SectorRun := none
  inSector : Bool := false
  /-- R307, R309: sectors of the armed run reported to FSQn as not written, and R342: as skipped (indexes in the run). -/
  notWritten : List Nat := []
  skipped : List Nat := []
  /-- R292: the slot's register words that differ from reset as sampled at the last sector start, by address. -/
  sampled : Store Word := []
  /-- R314: the detection mode of the sector in progress. -/
  mode : Nat := 1
  /-- R298: taps written since the last sector start (16 r + k). -/
  firPend : List Nat := []
  /-- R313: NV_A and NV_B of the last 8 sectors read on the slot, newest first, in 1/2^16 of unit target power. -/
  nv : List (Nat × Nat) := []
  /-- R339: the LLR slot that the sector being read fills. -/
  llr : Option Nat := none
  /-- R324: the LLR slot of the sector before it, while that is not handed over. -/
  ended : Option Nat := none
  /-- R304: DLC_LOST stops reading at the next sector start. -/
  stopRead : Bool := false
  /-- R374: the write gate was cut by a source other than FSQn since FSQn last asserted it. -/
  cut : Bool := false
  /-- R376, R377: the override of XFER 7. -/
  jdMode : Option Nat := none
  deriving DecidableEq, Repr

/-- Where a framing's decode stands. `passed` carries the decoded metadata (R338). -/
inductive FramingState where
  | ready | running | failed | withdrawn | notDecoded | memErr | crcFail
  | passed (metadata user : Nat)
  deriving DecidableEq, Repr

/-- One framing of a read (R320 to R323): 0 accepted or predicted, 1 runner-up, 2 reframe; its offset and distance; its
budget and use of iterations; the checks its last iteration left unsatisfied. -/
structure Framing where
  kind : Nat
  ofs : Int
  dist : Nat
  budget : Nat
  used : Nat := 0
  resid : Nat := 0
  st : FramingState := .ready
  deriving DecidableEq, Repr

/-- An LLR slot that is held (R339): its stream, its sector, its request. Times are in ACLK cycles. -/
structure LlrSlot where
  stream : Nat
  location : Nat
  dataAddr : Nat
  serve : Serve
  /-- R320 to R322: the mark decision is made; the accepted and runner-up candidates as (offset, distance); no candidate
  passed; the distance at the predicted position. -/
  decided : Bool := false
  cands : List (Int × Nat) := []
  blind : Bool := false
  predDist : Nat := 0
  /-- R292: the detection mode and DEF_MAX_SYM sampled at the sector's start. -/
  mode : Nat := 1
  maxErased : Nat := 2048
  /-- R326: the flags gathered, as bits of the framing status word, and the spans counted. -/
  flags : Nat := 0
  spans : Nat := 0
  /-- R317: erased spans, as first position and length. -/
  erased : List (Int × Nat) := []
  /-- R324: handed to the Abacus; it needs no bead (R322, R345); its framings. -/
  handed : Bool := false
  eraseLimit : Bool := false
  framings : List Framing := []
  readyAt : Nat := 0
  deadline : Nat := 0
  beads : Nat := 0
  /-- R357: the ladder step whose decode this is; R358: combined with the pin in that slot. -/
  step : Nat := 0
  combined : Option Nat := none
  noCombine : Bool := false
  pinned : Bool := false
  memErr : Bool := false
  /-- R361, R362: the request ends at the end of its iteration. -/
  ending : Bool := false
  deriving DecidableEq, Repr

/-- A running bead (R343): its LLR slot, the framing's place in it, its iterations so far and at most. -/
structure Bead where
  slot : Nat
  framing : Nat
  done : Nat
  limit : Nat
  deriving DecidableEq, Repr

/-- A sector in the recovery ladder (R356 to R360): the step it is at and how many decodes or rereads of that step it has
begun; whether one is out; its pin. -/
structure Ladder where
  stream : Nat
  location : Nat
  dataAddr : Nat
  serve : Serve
  flags : Nat
  step : Nat := 0
  begun : Nat := 0
  waiting : Bool := false
  pin : Option Nat := none
  noCombine : Bool := false
  /-- R357: the framings step 0 ran on the pinned read. -/
  framings : List Framing := []
  deriving DecidableEq, Repr

/-- R359: a recovery clock, of a host command (key 2 * tag) or of one of the MTU's own reads (2 * location + 1): its limit in
ms, the steps it permits (mask), and whether it has reached the limit. -/
structure RecoveryClock where
  key : Nat
  limitMs : Nat
  steps : Nat
  expired : Bool := false
  deriving DecidableEq, Repr

/-- The Abacus beyond its registers. -/
structure Abx where
  llr : Store (Option LlrSlot) := []
  beads : Store (Option Bead) := []
  ladder : List Ladder := []
  clocks : List RecoveryClock := []
  deriving DecidableEq, Repr

/-! ### Sequencers (chapter 11) -/

/-- A preamplifier frame (R384): read or write, its address, its data; tries made; R482: whether the slot's write gate was on
as the frame was granted. -/
structure PsiFrame where
  read : Bool
  addr : Nat
  data : Nat := 0
  tries : Nat := 0
  gate : Bool := false
  deriving DecidableEq, Repr

/-- A load of microcode under way (R391): the bank, the image, and the code of its checks. -/
structure UcodeLoad where
  bank : Nat
  image : Image
  code : Nat
  deriving DecidableEq, Repr

/-- A wedge sequencer beyond its registers: its counter, the windows open, the demodulation type, and the validity of its
banks (bits 0 and 1); R392: its source from its next start. -/
structure Wsq where
  counter : Nat := 0
  win : Nat := 0
  demod : Nat := 0
  valid : Nat := 0
  /-- R380, R382: the slot's wedge is not demodulated. -/
  overrun : Bool := false
  deriving DecidableEq, Repr

/-- A format sequencer beyond its registers. -/
structure Fsq where
  issued : Option Issued := none
  current : Option Issued := none
  stack : List Nat := []
  counters : Store Nat := []
  /-- R375: the wait word under way, and the strobes or sector starts of slot 0 counted in it. -/
  wait : Option Nat := none
  waited : Nat := 0
  /-- R385: frames pending at each position (0 FSQ, 1 ASD, 2 firmware), and the position whose frame runs. -/
  psi : Store (List PsiFrame) := []
  psiRun : Option (Nat × PsiFrame) := none
  /-- R385: the token before the frame that runs was granted, where it was granted as it was requested. -/
  psiBefore : Option Nat := none
  /-- R386: PSI_FAIL of the FSQ. -/
  psiFail : Bool := false
  /-- R392: the source that a pending swap names. -/
  swapTo : Nat := 0
  load : Option UcodeLoad := none
  deriving DecidableEq, Repr

/-! ### Servo (chapters 12 and 13) -/

/-- The last inputs and outputs of a biquad (R412, R463). -/
structure Biquad where
  x1 : Int := 0
  x2 : Int := 0
  y1 : Int := 0
  y2 : Int := 0
  deriving DecidableEq, Repr

/-- A slot's wedge as PES_STROBE latched it (R402): its track and wedge numbers, the linearised fraction in 1/65,536 track, its
timestamp, and whether it was demodulated with a SAM and plausible (R426). -/
structure Wedge where
  track : Nat
  wedge : Nat
  frac : Int
  time : Nat
  ok : Bool
  deriving DecidableEq, Repr

/-- What the servo program holds for one head slot (R413, R463, R483). -/
structure SlotLoop where
  latched : Option Wedge := none
  /-- R426: the slot's wedge is lost in the frame under way; the slot's track number as last measured. -/
  lost : Bool := false
  track : Nat := 0
  /-- R402, R413: the target track, the measured error, the offset request, the microactuator's integrator, modelled
  displacement, drive and filter; R416: the side its drive saturated at in the last frame. -/
  target : Nat := 0
  y : Int := 0
  ofs : Int := 0
  zm : Int := 0
  d : Int := 0
  vma : Int := 0
  filter : Biquad := {}
  satV : Int := 0
  /-- R427 to R429: consecutive lost wedges; those of the last 64 frames, the newest in bit 0; the slot is dropped. -/
  lossRun : Nat := 0
  lossWin : Nat := 0
  dropped : Bool := false
  /-- R426: the last position and how many frames it has been identical; the last timestamp; the slot is frozen. -/
  lastPos : Int := 0
  same : Nat := 0
  lastTime : Nat := 0
  frozen : Bool := false
  /-- R403: the time of the last SAM before lock; two SAMs one wedge period apart were found. -/
  sam : Option Nat := none
  acquired : Bool := false
  /-- R483: the assist loop, and the side its output saturated at in the last assist frame. -/
  tf : Int := 0
  ziA : Int := 0
  corr : Int := 0
  outA : Int := 0
  satA : Int := 0
  deriving DecidableEq, Repr

/-- The servo program's state of one actuator (R413 to R430, R463), and the requests that wait for a frame (R409). -/
structure ServoAct where
  p : Int := 0
  v : Int := 0
  b : Int := 0
  zi : Int := 0
  u : Int := 0
  du : Int := 0
  rv : Int := 0
  satU : Int := 0
  notch : List Biquad := []
  slot0 : SlotLoop := {}
  slot1 : SlotLoop := {}
  /-- R417: the remaining distance in 1/65,536 track; the frames a seek has taken; FCU_US at its frame; frames held on track. -/
  dist : Int := 0
  seekFrames : Nat := 0
  seekUs : Option Nat := none
  settleRun : Nat := 0
  /-- R680: the seek under way is shaped. -/
  shaped : Bool := false
  /-- R427: the mode a coast returns to. -/
  prior : Nat := 4
  /-- R425: consecutive frames with an excess; the excess has set FE_FAULT. -/
  feRun : Nat := 0
  feDone : Bool := false
  /-- R430: the slice of this frame, and of the frame before, was missed. -/
  missed : Bool := false
  missedBefore : Bool := false
  /-- R409: the SEEK (SLOT_MASK and the tracks), the offsets (the value in 1/65,536 track, and whether an MA_OFFSET is among the
  requests), and the load or park that wait. -/
  seekReq : Option (Nat × Nat × Nat) := none
  ofsReq0 : Option (Int × Bool) := none
  ofsReq1 : Option (Int × Bool) := none
  loadReq : Option Bool := none
  /-- R434: a park's seek runs; R435: tries of the load so far. -/
  parking : Bool := false
  tries : Nat := 0
  /-- R420: the set-point in use by the current loop, and the loop's integrator. -/
  inUse : Int := 0
  duty : Nat := 0
  deriving DecidableEq, Repr

/-- SVT and the triad beyond their registers. -/
structure Svt where
  acts : Store ServoAct := []
  /-- R406: what the frame under way comes to next: 0 a frame start, 1 to 4 the slices, 5 the checkpoint. -/
  phase : Nat := 0
  /-- R463: frames since reset. -/
  seq : Nat := 0
  /-- R412: the active coefficients, at the addresses of their shadows (R448). -/
  coef : Store Word := []
  /-- R443: the rotational-acceleration sample of the frame. -/
  rv : Int := 0
  /-- R442: frames since the last shock trip. -/
  calm : Nat := 0
  /-- R459: the frames of each lane's disagreements in its window, newest first. -/
  dis : Store (List Nat) := []
  /-- R463: the two checkpoint buffers, at buffer * 512 + word. -/
  ckpt : Store Word := []
  /-- R463: a checkpoint is complete, and the last one is clean. -/
  clean : Bool := false
  /-- R466: the warm start's lane was retired before it. -/
  warmRetired : Bool := false
  /-- R465: a retirement has left two lanes voting, AUTO_WARM = 1 and L3 off: the warm start of L3 is due. -/
  warmDue : Bool := false
  deriving DecidableEq, Repr

/-! ### Management (chapter 19) -/

/-- A value being staged by SETs with MORE (R633): its endpoint's address, its object (index * 256 + subindex), and the bytes
so far. -/
structure DamotStage where
  addr : Nat
  object : Nat
  value : Nat
  len : Nat
  deriving DecidableEq, Repr

/-- A Damot response (R630): its header fields, DM_OP without bit 7, and its payload as a little-endian number. -/
structure DamotResp where
  op : Nat := 0
  seq : Nat := 0
  status : Nat := 0
  type : Nat := 0
  access : Nat := 0
  total : Nat := 0
  len : Nat := 0
  payload : Nat := 0
  deriving DecidableEq, Repr

/-- An SPDM response (R644 to R647): an ERROR with its code and data (the handle of a large response, or the code of a request
that is declined); or a response by its request's code, its length in bytes, and its contents by name. -/
inductive SpdmResp where
  | error (code data : Nat)
  | answer (request len : Nat) (l : List (String × Nat))
  deriving DecidableEq, Repr

/-- The SPDM connection of a position (R644): the version it speaks, once GET_VERSION and GET_CAPABILITIES gave it; the
requester's DataTransferSize; whether algorithms are chosen; the large request being sent in chunks (its handle, the next chunk
number, the bytes so far); and the large response being fetched in chunks (its handle, the next chunk number, the bytes taken). -/
structure SpdmConn where
  open_ : Bool := false
  version : Option Nat := none
  transfer : Nat := 0
  chosen : Bool := false
  sending : Option (Nat × Nat × Nat) := none
  large : Option (Nat × Nat × Nat × SpdmResp) := none
  handles : Nat := 0
  deriving DecidableEq, Repr

/-- MGT and SEC beyond their registers. -/
structure Mgt where
  /-- R633: the staging buffer of each endpoint position. -/
  stage : Store (Option DamotStage) := []
  /-- R642: the nonce of each position. -/
  nonces : Store (Option Nat) := []
  /-- R629: responses held for Receive, by position and address. -/
  held : List (Nat × Nat × DamotResp) := []
  /-- R636: the address of the offer's target. -/
  offerAddr : Nat := 0
  /-- R636: milliseconds of the current second of the lease. -/
  leaseMs : Nat := 0
  /-- R627: the EIDs of positions 0 to 4; 0 is none. -/
  eids : Store Nat := []
  spdm : Store SpdmConn := []
  /-- R144, R645: signing requests that wait for their key, as (position, request), oldest first. -/
  signWait : List (Nat × SpdmReq) := []
  /-- R192: SubsystemVendorId and SubsystemId as written (none: the default), and as in force since the last PCIe reset. -/
  subsystem : Option Nat × Option Nat := (none, none)
  subsystemNow : Option Nat × Option Nat := (none, none)
  /-- R651: UpdateStatus. -/
  updateStatus : Nat := 0xF
  deriving DecidableEq, Repr

/-! ### The whole state -/

/-- What the block sends out, newest first in `State.out`. -/
inductive Output where
  /-- R9, R30, R33: a bus error to the requester of the access at this address. -/
  | busError (addr : Nat)
  /-- R47, R48: the value a read of EVR_CLAIM_c returned. -/
  | claim (core : Nat) (value : Nat)
  /-- R511: the value a read of CAL_TBL_DATA returned. -/
  | read (addr : Nat) (value : Nat)
  /-- A completion queue entry: port, CQ, SQ, CID, status, Dword 0 (R181). -/
  | completion (port cq sq cid : Nat) (done : Done)
  /-- A SAS RESPONSE frame: port (0 or 1), nexus, tag (R28, R203). -/
  | response (port nexus tag : Nat) (done : Done)
  /-- A task management RESPONSE frame: its response code and additional response information (R205, R206). -/
  | taskResponse (port nexus tag code info : Nat)
  /-- A message-signalled interrupt on a vector of a PCIe port (R181, R184). -/
  | interrupt (port vector : Nat)
  /-- An XFER_RDY frame: port, tag, offset and length in 4 KiB blocks (R200). -/
  | xferRdy (port tag offset len : Nat)
  /-- Blocks `first` on of a command's data, sent to its host (R181, R202). -/
  | readData (port cid first : Nat) (data : List Nat)
  /-- A returned data structure, by field names. -/
  | fields (port cid : Nat) (l : List (String × Nat))
  /-- An asynchronous event reported to a controller, or one to every SAS nexus (R174, R208). -/
  | event (port info : Nat)
  /-- What a DRAM requester receives: its position, the word, the status of R541 (0 CLEAN, 1 CORRECTED, 2 ERROR, 3 UNWRITTEN,
  4 OK) and the data. -/
  | dram (pos word status data : Nat)
  /-- Zone descriptors: the zone, its state (R229) and its write pointer (R166, R203). -/
  | zones (port cid : Nat) (l : List (Nat × ZoneCond × Nat))
  /-- What a lookup of the Map Cache returns: the command tag, the byte offset in DRAM, the 8-byte entry (R263). -/
  | mapEntry (tag addr value : Nat)
  /-- A result record of the Abacus: DATA_ADDR, the framing and decode status words, the metadata (R352). -/
  | decodeResult (addr framing status metadata : Nat)
  /-- What a TAP instruction shifts out (R673, R674): the identification register, or the sampled lands by name. -/
  | tap (l : List (String × Nat))
  /-- A Damot response: the endpoint it goes to, by position and address (R630). -/
  | damot (pos addr : Nat) (r : DamotResp)
  /-- An MCTP control response on a position: its completion code and its fields (R627). -/
  | mctp (pos code : Nat) (l : List (String × Nat))
  /-- An SPDM response on a position, whole (R644). -/
  | spdm (pos : Nat) (r : SpdmResp)
  /-- Chunk `k` of a large SPDM response on a position: its bytes from `offset` on, and whether it is the last (R644). -/
  | spdmChunk (pos k offset len : Nat) (last : Bool) (r : SpdmResp)
  /-- The provisional ID's low 32 bits, given at ENTDAA (R628). -/
  | provisionalId (low : Nat)
  deriving DecidableEq, Repr

/-- Everything the spec gives the block. The last fields are the model's own: the queue of commands that wait, what the
block has sent, the count of free values taken, and the microseconds of the current millisecond. -/
structure State where
  /-- The register file: words that differ from their reset values, by absolute address (R19). -/
  regs : Store Word := []
  /-- On-chip SRAM (R29), by byte address; an unlisted byte reads 0. -/
  sram : Store Byte := []
  dom : Domains := {}
  pins : Pins := {}
  pwr : Pwr := {}
  pm : PowerMgmt := {}
  fuses : Fuses := {}
  boot : Boot := {}
  ksc : Ksc := {}
  tap : Tap := {}
  cohort : Cohort := {}
  hosts : Hosts := {}
  media : Media := {}
  nv : Nv := {}
  pak : Pak := {}
  mca : Mca := {}
  chn : Store ChanSlot := []
  abx : Abx := {}
  svt : Svt := {}
  cal : Cal := {}
  dram : Dram := {}
  mgt : Mgt := {}
  fsq : Store Fsq := []
  /-- The wedge sequencers, by 2 * n + h. -/
  wsq : Store Wsq := []
  /-- R370: the writable banks: ((sequencer * 2 + bank) * 2^16 + word), where sequencers 0 to 3 are the FSQs and 4 + 2 * n + h
  the WSQs; an unlisted word is 0. -/
  ucode : Store Nat := []
  fcu : Fcu := {}
  tly : Tly := {}
  thm : Thm := {}
  pending : List Instr := []
  out : List Output := []
  freeCount : Nat := 0
  usInMs : Nat := 0
  deriving DecidableEq, Repr

/-- Why a command faults: nothing does. The spec lets every command have an effect, be ignored, or set a flag, and every one
answers a next state. -/
inductive Fault where
  deriving DecidableEq, Repr

/-- Why a command is refused. -/
inductive Refusal where
  /-- A command that has no meaning in the model; for an arm of exec alone, and none has it now. Safe: no claim can be proved of
  such a command. -/
  | notModelled (mnemonic : String)
  deriving DecidableEq, Repr

/-- The device in the moment after an AON power-on (R117): every register at its reset word, RC_AON_POR set by its reset
value (R147), the AON domain alone supplied, no memory listed, no command waiting. -/
def State.reset : State := { dom := { aon := true } }

end Sys2Proof.Machine
end

