-- ==== Sys2Proof/Machine/Ops.lean ====
section
/-!
DEFINITION. Machine/Ops.lean: the named operations on the register file, the outputs, the turn tokens and the power
domains, which every family's meanings are written over.
-/
namespace Sys2Proof.Machine

open Arith

/-- The outcome of a command. -/
abbrev Result := Host.Outcome State Fault Refusal

namespace State

/-! ### Registers -/

/-- The word of the register at `a` whose reset word is `rst`. -/
def word (s : State) (a rst : Nat) : Nat := (Store.get (BitVec.ofNat 32 rst) s.regs a).toNat

/-- The value of a register field. -/
def rd (s : State) (f : Fld) : Nat := field (s.word f.addr f.rst) f.lo f.width

/-- A register field set to `v`, cut to its width; every other bit of its register stays. -/
def wr (s : State) (f : Fld) (v : Nat) : State :=
  let w := BitVec.ofNat 32 (putField (s.word f.addr f.rst) f.lo f.width v)
  { s with regs := Store.put (BitVec.ofNat 32 f.rst) s.regs f.addr w }

/-- A one-bit field as a truth value. -/
def flag (s : State) (f : Fld) : Bool := s.rd f != 0

/-- A one-bit field set to `b`. -/
def wrFlag (s : State) (f : Fld) (b : Bool) : State := s.wr f (ofBool b)

/-- Bit `i` of a field. -/
def bitAt (s : State) (f : Fld) (i : Nat) : Bool := (s.rd f).testBit i

/-- Bit `i` of a field set. -/
def setBitAt (s : State) (f : Fld) (i : Nat) : State := s.wr f (setBit (s.rd f) i)

/-- Bit `i` of a field cleared. -/
def clrBitAt (s : State) (f : Fld) (i : Nat) : State := s.wr f (clearBit (s.rd f) i)

/-- Bit `i` of a field made equal to `b`. -/
def putBitAt (s : State) (f : Fld) (i : Nat) (b : Bool) : State := s.wr f (putBit (s.rd f) i b)

/-- A field raised by `d`, saturating at its width. -/
def count (s : State) (f : Fld) (d : Nat := 1) : State := s.wr f (satAdd (2 ^ f.width - 1) (s.rd f) d)

/-- A field advanced by `d`, wrapping at its width. -/
def advance (s : State) (f : Fld) (d : Nat := 1) : State := s.wr f (s.rd f + d)

/-- A field raised to `v` where `v` is higher. -/
def raiseTo (s : State) (f : Fld) (v : Nat) : State := if s.rd f < v then s.wr f v else s

/-- Several fields set to 0. -/
def clearAll (s : State) (l : List Fld) : State := l.foldl (fun s f => s.wr f 0) s

/-- R11, R117: every register of the 64 KiB window at `base` back at its reset word. -/
def resetBlock (s : State) (base : Nat) : State :=
  { s with regs := s.regs.filter fun e => e.1 / 0x10000 != base / 0x10000 }

/-- R11: the registers of the addresses `lo..hi` back at their reset words. -/
def resetRange (s : State) (lo hi : Nat) : State :=
  { s with regs := s.regs.filter fun e => e.1 < lo || hi < e.1 }

/-! ### Outputs, free values and event lines -/

/-- Something is sent. -/
def emit (s : State) (o : Output) : State := { s with out := o :: s.out }

/-- A value the spec leaves open, and the state that has taken it. -/
def free (s : State) : Nat × State := (Config.freeValue s.freeCount, { s with freeCount := s.freeCount + 1 })

/-- R44: an event on line `n` sets its pending bit; a repeat leaves the one bit set. -/
def raise (s : State) (n : Nat) : State := s.setBitAt (R.PEND_BITS (n / 32)) (n % 32)

/-- R44: line `n` is pending. -/
def linePending (s : State) (n : Nat) : Bool := s.bitAt (R.PEND_BITS (n / 32)) (n % 32)

/-- R445: SPM_AT_SPEED made equal to `b`; line 152 where that changes it. -/
def setAtSpeed (s : State) (b : Bool) : State :=
  if s.flag R.SPM_AT_SPEED = b then s else (s.wrFlag R.SPM_AT_SPEED b).raise 152

/-! ### Power domains -/

/-- R19, R36: the power domain of the block at `addr` is on. HIF registers lie in its CORE logic; an access of KSC that
firmware requests turns its domain on. -/
def blockOn (s : State) (addr : Nat) : Bool :=
  let b := addr / 0x10000
  if b = 0x4043 then s.dom.aon
  else if b = 0x4031 || b = 0x4033 then s.dom.pstg
  else if b = 0x4006 then s.dom.dram
  else if b = 0x4008 then s.dom.abx
  else if 0x4010 ≤ b && b ≤ 0x4013 then s.dom.med.testBit (b - 0x4010)
  else if 0x4020 ≤ b && b ≤ 0x4023 then s.dom.med.testBit (b - 0x4020)
  else if b = 0x4030 then s.dom.svt
  else s.dom.core

/-- R33: a register can be reached: the requester's CORE domain is on, and so is its block's. -/
def reachable (s : State) (addr : Nat) : Bool := s.dom.core && s.blockOn addr

/-- R33: a read of the field `f` with the effect `k`, or a bus error with no effect where the block is off. -/
def accessRead (s : State) (f : Fld) (k : State → State) : State :=
  if s.reachable f.addr then k s else s.emit (.busError f.addr)

/-- R17, R33: a write of the field `f` through the register fabric, with the effect `k`: the register arbiter grants its position 0.
A write to a block that is off ends in a bus error and has no effect. -/
def access (s : State) (f : Fld) (k : State → State) : State :=
  s.accessRead f fun s => k (s.wr R.REG_TOKEN 1)

/-- R17: the block has written a register on its own behalf: the register arbiter has granted its position 2. -/
def blockWrote (s : State) : State := s.wr R.REG_TOKEN 0

end State

/-! ### Turn tokens (R16) -/

/-- The requesters of one cycle in turn-token order among `n` positions. -/
def tokenOrder (n token : Nat) (req : List Nat) : List Nat := (turnOrder n token).filter fun i => req.contains i

/-- R16: the requester granted: the first at or after the token. -/
def tokenGrant (n token : Nat) (req : List Nat) : Option Nat := (tokenOrder n token req).head?

/-- R16: the token after the requesters `served` were served in that order: one past the last. -/
def tokenAfter (n token : Nat) (served : List Nat) : Nat :=
  match served.getLast? with
  | some i => (i + 1) % n
  | none => token

/-- The four actuators. -/
def actuators : List Nat := [0, 1, 2, 3]

end Sys2Proof.Machine
end

