-- ==== Sys2Proof/Machine/Flags.lean ====
section
/-!
DEFINITION. Machine/Flags.lean: the status and interrupt flags: pending event lines and interrupt inputs (R44 to R46),
write-one-to-clear fields (R7), and the latches of the FCU (R580).
-/
namespace Sys2Proof.Machine

open Arith

/-- R7: a write of `v` to a W1C field: each 1 clears its bit; where `any` names a value, any 1 sets the field to it. -/
def State.w1c (s : State) (f : Fld) (v : Nat) (any : Option Nat) : State :=
  match any with
  | some a => if v % 2 ^ f.width = 0 then s else s.wr f a
  | none => s.wr f ((List.range f.width).foldl (fun x i => if v.testBit i then clearBit x i else x) (s.rd f))

/-- R45: the interrupt input of core `c` is asserted: a pending line is routed to it. -/
def State.irqAsserted (s : State) (c : Nat) : Bool :=
  (List.range 256).any fun n => s.linePending n && s.bitAt (R.ROUTE_CORES n) c

/-- R43, R45: the IRQ_ASSERTED field. -/
def State.irqField (s : State) : Nat :=
  (List.range 4).foldl (fun x c => putBit x c (s.irqAsserted c)) 0

/-- R580: the latch takes a detection's class and severity where they are higher; line 178 where the class rises; AON
keeps the class and the first source that reached it. -/
def State.raiseLatch (s : State) (src cls sev : Nat) : State :=
  let s := if s.rd R.HIGH_CLASS < cls then (s.wr R.HIGH_CLASS cls).raise 178 else s
  let s := s.raiseTo R.HIGH_SEV sev
  if s.rd R.LATCH_CLASS < cls then (s.wr R.LATCH_CLASS cls).wr R.LATCH_SRC src else s

end Sys2Proof.Machine
end

