-- ==== Sys2Proof/Machine/Reaction.lean ====
section
/-!
DEFINITION. Machine/Reaction.lean: the operations that many commands share: the write-gate cut (R311), assist forced off
(R488), the retract (R431), requests for Tally events (R600), and the FCU's handling of a detection (R570 to R586).
-/
namespace Sys2Proof.Machine

open Arith

namespace State

/-! ### Write gates, assist, retract -/

/-- The channel slot of stream `k = 2n + h`. -/
def slot (s : State) (k : Nat) : ChanSlot := Store.get {} s.chn k

/-- A channel slot changed. -/
def modSlot (s : State) (k : Nat) (f : ChanSlot → ChanSlot) : State := { s with chn := Store.modify {} s.chn k f }

/-- R311: the location of the sector being written on a slot. -/
def writingAt (c : ChanSlot) : Option Nat := match c.run with
  | some r => if c.inSector && r.write then some (r.first + r.next - 1 + 2 ^ 12 * r.track + 2 ^ 36 * r.surface) else none
  | none => none

/-- R311: the gate of slot `h` of actuator `n` falls and the cut is recorded: a sector in progress is invalid on the media and
is not written. The symbol it reached is a free value. -/
def recordCut (s : State) (n h src : Nat) : State :=
  let k := 2 * n + h
  let sl := s.slot k
  let s := s.clrBitAt (R.WG_ON n) h
  let (v, s) := if (writingAt sl).isSome then s.free else (0, s)
  let s := ((s.wr (R.WG_CUT_SYM n h) (v % 37744)).wr (R.WG_CUT_SRC n h) src).count (R.WG_CUT_CNT n)
  let s := match writingAt sl with
    | some l => { s with nv := { s.nv with sectors := Store.put none s.nv.sectors l none } }
    | none => s
  s.modSlot k fun c =>
    { c with inSector := false
             cut := src != 5
             notWritten := match c.run with
               | some r => if c.inSector && r.write then c.notWritten ++ [r.next - 1] else c.notWritten
               | none => c.notWritten }

/-- R311: a cut of the asserted gate of slot `h` of actuator `n` by `src` (1 SVT, 2 FCU, 3 write phase, 4 DLC_LOST). A gate
that is off records nothing. -/
def cutSlot (s : State) (n h src : Nat) : State :=
  if s.bitAt (R.WG_ON n) h then (s.recordCut n h src).raise (105 + 4 * n) else s

/-- A cut of both slots of actuator `n`. -/
def cutGates (s : State) (n src : Nat) : State := (s.cutSlot n 0 src).cutSlot n 1 src

/-- The format sequencer of actuator `n`. -/
def fsqOf (s : State) (n : Nat) : Fsq := Store.get {} s.fsq n

/-- A format sequencer changed. -/
def modFsq (s : State) (n : Nat) (f : Fsq → Fsq) : State := { s with fsq := Store.modify {} s.fsq n f }

/-- ASD's slot `k = 2n + h`. -/
def asdSlot (s : State) (k : Nat) : AsdSlot := Store.get {} s.cal.asd k

/-- A slot of ASD changed. -/
def modAsd (s : State) (k : Nat) (f : AsdSlot → AsdSlot) : State :=
  { s with cal := { s.cal with asd := Store.modify {} s.cal.asd k f } }

/-! ### The preamplifier links (R384 to R387) -/

/-- Frames pending at a position of PSIn. -/
def psiAt (s : State) (n p : Nat) : List PsiFrame := Store.get [] (s.fsqOf n).psi p

/-- The frames pending at a position changed. -/
def modPsi (s : State) (n p : Nat) (f : List PsiFrame → List PsiFrame) : State :=
  s.modFsq n fun q => { q with psi := Store.modify [] q.psi p f }

/-- R482: the slot's write gate as the frame of a position is granted. -/
def gateSeen (s : State) (n p : Nat) (f : PsiFrame) : PsiFrame :=
  if p = 1 ∧ f.read then { f with gate := s.bitAt (R.WG_ON n) (f.addr - 0x18) } else f

/-- R385: the idle link grants one pending frame. -/
def psiGrant (s : State) (n : Nat) (before : Option Nat) : State :=
  match (s.fsqOf n).psiRun with
  | some _ => s
  | none =>
    match tokenGrant 3 (s.rd (R.PSI_TOKEN n)) ([0, 1, 2].filter fun p => !(s.psiAt n p).isEmpty) with
    | none => s
    | some p => match s.psiAt n p with
      | [] => s
      | f :: l =>
        let s := (s.modPsi n p fun _ => l).wr (R.PSI_TOKEN n) ((p + 1) % 3)
        s.modFsq n fun q => { q with psiRun := some (p, s.gateSeen n p f), psiBefore := before }

/-- R385: frames requested in the same cycle as the one that was granted on request: the grant is made again. -/
def psiUngrant (s : State) (n : Nat) : State :=
  match (s.fsqOf n).psiRun, (s.fsqOf n).psiBefore with
  | some (p, f), some t =>
    ((s.modPsi n p fun l => f :: l).wr (R.PSI_TOKEN n) t).modFsq n fun q => { q with psiRun := none, psiBefore := none }
  | _, _ => s

/-- R385: frames requested at position `p`. -/
def psiPush (s : State) (n p : Nat) (l : List PsiFrame) (tie : Bool) : State :=
  if l.isEmpty then s
  else
    let s := if tie then s.psiUngrant n else s
    let s := s.modPsi n p fun q => q ++ l
    s.psiGrant n (some (s.rd (R.PSI_TOKEN n)))

/-- R488: assist forced off on actuator `n`: the PASSTn switch opens, ASST_FORCED sets with event line 160, and no PA_ASST frame
is sent. -/
def forceAssist (s : State) (n : Nat) : State :=
  let s := { s with pwr := { s.pwr with asstReg := clearBit s.pwr.asstReg n } }
  let s := s.modPsi n 1 fun l => l.filter fun f => f.read || f.addr / 2 != 8
  let s := (s.modAsd (2 * n) fun a => { a with acked := true, due := none }).modAsd (2 * n + 1) fun a =>
    { a with acked := true, due := none }
  let s := s.wr (R.ASST_RAIL_OK n) 0
  let s := s.putBitAt R.PA_RAIL_OK n (s.pwr.paReg.testBit n && !s.bitAt R.PASST_EN n)
  if s.bitAt R.ASST_FORCED n then s else (s.setBitAt R.ASST_FORCED n).raise 160

/-- R484, R488: the code `code` (ASST_OP and ASST_PRE) for slot `k`: a PA_ASSTh frame where it differs from the last
acknowledged one, and no force stands. -/
def sendCode (s : State) (k code : Nat) (tie : Bool) : State :=
  let a := s.asdSlot k
  if s.bitAt R.ASST_FORCED (k / 2) || code == a.op + 4096 * a.pre then s
  else
    let s := s.modAsd k fun a => { a with acked := false }
    s.psiPush (k / 2) 1 [{ read := false, addr := 0x10 + k % 2, data := code }] tie

/-- Calibration context `k` has a run (R491). -/
def calRun (s : State) (k : Nat) : Option CalRun :=
  if s.rd (R.RUN_STATE k) = 1 ∨ s.rd (R.RUN_STATE k) = 2 then some (Store.get {} s.cal.runs k) else none

/-- R486: a run of type ASSIST_SETPOINT runs on head `j`. -/
def runsAssist (s : State) (j : Nat) : Bool :=
  (List.range 4).any fun k => match s.calRun k with
    | some r => r.type == 1 && r.unit == j
    | none => false

/-- The servo state of actuator `n`. -/
def servo (s : State) (n : Nat) : ServoAct := Store.get {} s.svt.acts n

/-- The servo state of an actuator changed. -/
def modServo (s : State) (n : Nat) (f : ServoAct → ServoAct) : State :=
  { s with svt := { s.svt with acts := Store.modify {} s.svt.acts n f } }

/-- R431: a retract of actuator `n`: the VCM goes under back-EMF control, assist is forced off, the microactuators ramp
to 0 V and write-unsafe is asserted. One decided while the actuator is retracting or parked starts nothing. -/
def retract (s : State) (n : Nat) : State :=
  let st := s.rd (R.VCM_STATE n)
  if st = 2 || st = 4 || st = 5 then s
  else
    let s := s.count (R.RETRACT_CNT n)
    let s := s.wr (R.VCM_STATE n) 2
    let s := s.wr (R.PARKED n) 0
    let s := s.wr (R.SV_MODE n) 6
    let s := s.wr (R.WRITE_SAFE n) 0
    let s := s.clearAll [R.SV_SETTLED n, R.SV_COAST_NOW n, R.GOOD_WEDGES n]
    let s := s.modServo n fun v => { v with
      slot0 := { v.slot0 with vma := 0 }, slot1 := { v.slot1 with vma := 0 }, seekReq := none, ofsReq0 := none
      ofsReq1 := none, loadReq := none, parking := false, shaped := false, feRun := 0, feDone := false }
    (s.cutGates n 1).forceAssist n

/-- Half `h` of a servo record. -/
def loopOf (v : ServoAct) (h : Nat) : SlotLoop := if h = 0 then v.slot0 else v.slot1

/-- Slot `h` of the servo state of actuator `n` changed. -/
def modLoop (s : State) (n h : Nat) (f : SlotLoop → SlotLoop) : State :=
  s.modServo n fun v => if h = 0 then { v with slot0 := f v.slot0 } else { v with slot1 := f v.slot1 }

/-! ### Tally requests (R600) -/

/-- An event presented at the FCU position of the Tally inlet. -/
def tallyFcu (s : State) (e : TlyEvent) : State := { s with tly := { s.tly with waitFcu := s.tly.waitFcu ++ [e] } }

/-- An event presented at the THM position. -/
def tallyThm (s : State) (e : TlyEvent) : State := { s with tly := { s.tly with waitThm := s.tly.waitThm ++ [e] } }

/-- An event presented at the firmware position. -/
def tallyFw (s : State) (e : TlyEvent) : State := { s with tly := { s.tly with waitFw := s.tly.waitFw ++ [e] } }

/-- An event presented at TLY's own position. -/
def tallyOwn (s : State) (e : TlyEvent) : State := { s with tly := { s.tly with waitOwn := s.tly.waitOwn ++ [e] } }

/-- R607: a flush that starts no program seals the last record and completes. -/
def flushNow (s : State) : State :=
  ((({ s with tly := { s.tly with last := none } }).wr R.FLUSH_DONE 1).wr R.FLUSH_BUSY 0).raise 185

/-- R607: a flush is requested: the last record is sealed and the archive is asked for every record; before TLY_READY it
waits. After PF, or during an archive erase (R610), it completes at once with no program. -/
def tallyFlushStart (s : State) : State :=
  if s.flag R.TLY_READY then
    if s.flag R.PF_ACTIVE || s.flag R.CLEAR_BUSY then s.flushNow
    else ({ s with tly := { s.tly with last := none, archiveRequest := true } }).wr R.FLUSH_BUSY 1
  else { s with tly := { s.tly with flushWait := true } }

end State

/-! ### Classes and steps (R572 to R575) -/

/-- The reaction of a detection: its class, its severity, and its steps W, A, H, R, T, F in bits 0 to 5. -/
structure Reaction where
  cls : Nat
  sev : Nat
  steps : Nat
  deriving DecidableEq, Repr

/-- The steps of severity row `r` of R574 at its reset value. -/
def rowSteps (r : Nat) : Nat :=
  if r = 3 then 1 else if r = 4 then 7 else if r = 5 then 15 else if r = 6 || r = 7 then 32 else 0

/-- The class of severity row `r` of R574 at its reset value. -/
def rowClass (r : Nat) : Nat := if r < 2 then 1 else if r < 6 then 2 else 3

/-- R573 to R575: the reaction source `i` takes under the scheme in force. -/
def State.reactionOf (s : State) (i : Nat) : Reaction :=
  let dflt := (srcDefault i).getD 0
  if srcLocked i then ⟨rowClass dflt, dflt, rowSteps dflt⟩
  else if s.flag R.SCHEME then
    let r := s.rd (R.SRC_SEV i)
    let c := s.rd (R.SEV_CLASS r)
    let st := s.rd (R.SA_WG r) + 2 * s.rd (R.SA_AS r) + 4 * s.rd (R.SA_HOLD r) + 8 * s.rd (R.SA_RET r)
      + 16 * s.rd (R.SA_ARST r)
    ⟨c, r, if c = 3 then 32 else st⟩
  else
    let c := s.rd (R.SRC_CLASS i)
    if c = 3 then ⟨3, 6, 32⟩
    else if c = 2 then
      let r := if rowClass dflt = 2 then dflt else if (srcActuator i).isSome then 4 else 2
      ⟨2, r, rowSteps r⟩
    else ⟨c, 0, 0⟩

/-- R571: the actuators of a source's scope. -/
def scopeActs (i : Nat) : List Nat := match srcActuator i with
  | some n => [n]
  | none => actuators

/-- R594: a source's scope as REC_SCOPE. -/
def scopeCode (i : Nat) : Nat := (srcActuator i).getD 4

/-! ### Shadows (R583) -/

/-- R583: the detectors a shadow of step `code` on actuator `n` covers. -/
def shadowCovers (code n i : Nat) : Bool :=
  if code = 1 then decide (144 + 16 * n ≤ i ∧ i ≤ 146 + 16 * n)
  else if code = 2 then i == 210 + 16 * n || i == 370 + n
  else if code = 3 then [272 + n, 276 + n, 280 + n, 284 + n, 321 + n, 325 + 2 * n, 326 + 2 * n].contains i
  else if code = 4 then
    decide (144 + 16 * n ≤ i ∧ i < 160 + 16 * n) || decide (208 + 16 * n ≤ i ∧ i < 224 + 16 * n)
      || [272 + n, 276 + n, 280 + n, 284 + n, 370 + n].contains i
  else false

namespace State

/-- The first open shadow over source `i`. -/
def shadowOf (s : State) (i : Nat) : Option Shadow := s.fcu.shadows.find? fun sh => shadowCovers sh.code sh.actuator i

/-- R583: the ready report's condition of step `code` on actuator `n` holds. -/
def stepReady (s : State) (code n : Nat) : Bool :=
  if code = 1 then s.rd (R.WG_ON n) == 0
  else if code = 2 then !s.pwr.asstReg.testBit n
  else if code = 3 then s.rd (R.VCM_STATE n) == 2 || s.flag (R.PARKED n)
  else !s.boot.actResetWait.testBit n && s.dom.med.testBit n

/-- A shadow opened; a shadow of the same step and actuator starts again. -/
def openShadow (s : State) (code n : Nat) (w : Option Nat) : State :=
  let rest := s.fcu.shadows.filter fun sh => !(sh.code == code && sh.actuator == n)
  { s with fcu := { s.fcu with shadows := rest ++ [⟨code, n, w⟩] } }

/-- R583: a step of the FCU opens its shadow, unless its ready report's condition already held as it began. -/
def stepShadow (s : State) (readyBefore : Bool) (code n : Nat) (w : Option Nat) : State :=
  if readyBefore then s else s.openShadow code n w

/-! ### Steps (R572, R576) -/

/-- R576: the steps of `want` that are not in force on actuator `n` (W always cuts again). -/
def stepsToTake (s : State) (n want : Nat) : Nat :=
  let a := want.testBit 1 && !s.bitAt R.ASST_FORCED n
  let h := want.testBit 2 && !s.bitAt R.ACT_HOLD n
  let r := want.testBit 3 && !(s.rd (R.VCM_STATE n) == 2 || s.rd (R.VCM_STATE n) == 4)
  let t := want.testBit 4 && !s.boot.actResetWait.testBit n
  ofBool (want.testBit 0) + 2 * ofBool a + 4 * ofBool h + 8 * ofBool r + 16 * ofBool t

/-- Step H: the hold of actuator `n`; the MTU issues nothing to it. -/
def holdAct (s : State) (n : Nat) : State := (s.setBitAt R.ACT_HOLD n).wr (R.ACT_DRAINED n) 1

/-- R117, R119: an actuator reset: an actuator over the media is first retracted; CHNn and FSQn are re-initialised once
its heads are parked, which ACTUATOR_RESET or the park completes. -/
def requestActReset (s : State) (n : Nat) : State :=
  let s := { s with boot := { s.boot with actResetWait := setBit s.boot.actResetWait n } }
  s.retract n

/-- The steps `take` on actuator `n`, each opening its shadow for window `w`. -/
def takeSteps (s : State) (n take : Nat) (w : Option Nat) : State :=
  let s := if take.testBit 0 then let b := s.stepReady 1 n; (s.cutGates n 2).stepShadow b 1 n w else s
  let s := if take.testBit 1 then let b := s.stepReady 2 n; (s.forceAssist n).stepShadow b 2 n w else s
  let s := if take.testBit 2 then s.holdAct n else s
  let s := if take.testBit 3 then let b := s.stepReady 3 n; (s.retract n).stepShadow b 3 n w else s
  if take.testBit 4 then (s.requestActReset n).openShadow 4 n w else s

/-- R672: every TST_PERT field back at its reset value; line 224 where PERT_ARM clears. -/
def clearPert (s : State) : State :=
  let was := s.flag R.PERT_ARM
  let s := s.resetRange 0x40600100 0x4060011C
  if was then s.raise 224 else s

/-- R584, R586, R587: step F, the fatal safe state: writes cut, assist off, every loaded actuator retracted and every
actuator held, FATAL set, PIP held high, a Tally flush started (R607). The CMU stops while FATAL reads 1. -/
def goFatal (s : State) : State :=
  if s.flag R.FATAL then s
  else
    let s := ({ s with boot := { s.boot with hold := none } }).clearPert
    let s := actuators.foldl (fun s n => (((s.cutGates n 2).forceAssist n).retract n).holdAct n) s
    let s := ((s.wr R.FATAL 1).wr R.PIP_RUN 0).wr R.PIP_LEVEL 1
    s.tallyFlushStart

/-! ### Records and windows (R579, R582) -/

/-- The open window at `k`. -/
def window (s : State) (k : Nat) : Option FaultWindow := s.fcu.windows.find? fun w => w.k == k

/-- R582: the window a detection of this scope merges into: the first opened among those that contain the scope. -/
def mergeTarget (s : State) (scope : Nat) (fatal : Bool) : Option FaultWindow :=
  let dev := (s.window 4).isSome
  if fatal && !dev then none
  else s.fcu.windows.find? fun w => w.k == 4 || (decide (scope < 4) && w.k == scope)

/-- R582: a record as a merge of source `src` of class `cls` leaves it; `added` when its reaction added a step. -/
def mergedRecord (r : FaultRec) (src cls : Nat) (added : Bool) : FaultRec :=
  { r with conseq := satAdd 255 r.conseq 1
           csrc := if r.conseq = 0 then src else r.csrc
           cmax := max r.cmax cls
           creact := r.creact || added }

/-- R582: a detection merged into window `k`: its record changes there and, while it is queued, in the queue. -/
def mergeInto (s : State) (k src cls : Nat) (added : Bool) (retracted : Nat) : State :=
  let wins := s.fcu.windows.map fun w =>
    if w.k = k then
      { w with record := mergedRecord w.record src cls added, retracted := w.retracted ||| retracted } else w
  let q := match s.window k with
    | some w => s.fcu.queue.map fun r => if r.seq = w.record.seq then mergedRecord r src cls added else r
    | none => s.fcu.queue
  { s with fcu := { s.fcu with windows := wins, queue := q } }

/-- R594: the queue's length shown in Q_COUNT. -/
def setQCount (s : State) : State := s.wr R.Q_COUNT s.fcu.queue.length

/-- R579: a record opened at the queue's tail, or lost; either takes the next REC_SEQ. The second result says lost. -/
def openRecord (s : State) (r : FaultRec) : State × Bool :=
  let s := { s with fcu := { s.fcu with nextSeq := (s.fcu.nextSeq + 1) % 0x10000 } }
  if s.fcu.queue.length < 64 then
    let s := { s with fcu := { s.fcu with queue := s.fcu.queue ++ [r] } }
    let s := (s.setQCount).raise 176
    (if s.fcu.queue.length = 48 then s.raise 182 else s, false)
  else ((s.count R.LOST_CNT).raise 177, true)

/-- A window opened for a record. -/
def openWindow (s : State) (k : Nat) (r : FaultRec) (fatal : Bool) : State :=
  { s with fcu := { s.fcu with windows := s.fcu.windows ++ [⟨k, r, 0, fatal⟩] } }

/-- The steps a reaction would newly take, over the actuators of its scope: (actuator, steps). -/
def stepPlan (s : State) (i steps : Nat) : List (Nat × Nat) :=
  (scopeActs i).map fun n => (n, s.stepsToTake n steps)

/-- The plan taken. -/
def runPlan (s : State) (plan : List (Nat × Nat)) (w : Option Nat) : State :=
  plan.foldl (fun s p => s.takeSteps p.1 p.2 w) s

/-- The actuators a plan retracts that were not parked, as a mask. -/
def planRetracts (s : State) (plan : List (Nat × Nat)) : Nat :=
  plan.foldl (fun m p => if p.2.testBit 3 && !s.flag (R.PARKED p.1) then setBit m p.1 else m) 0

/-- R582: a merged reaction adds a step: one other than W that was not in force, or a W the record's reaction lacked. -/
def planAdds (plan : List (Nat × Nat)) (recSteps : Nat) (fatal : Bool) : Bool :=
  fatal || plan.any fun p => p.2 / 2 != 0 || (p.2.testBit 0 && !recSteps.testBit 0)

/-- R599: the Tally event of a detection; source 368 enters as POWER_FAIL. `disp`: 0 opened, 1 merged, 2 shadowed,
3 lost. -/
def tallyFault (s : State) (src : Nat) (re : Reaction) (disp detail link : Nat) : State :=
  if src = 368 then
    s.tallyFcu { kind := 2, source := 368, code := 0, detail := s.rd R.VIN_10MV + 0x10000 * s.rd R.HOLDUP_MJ }
  else
    s.tallyFcu { kind := 1, source := src, code := re.cls + 4 * re.sev + 32 * re.steps + 0x800 * disp,
                 detail := detail, link := link }

/-- Pairs in rising order of their first part. -/
def sortByKey (l : List (Nat × Nat)) : List (Nat × Nat) := l.foldl (fun m e => Store.insert m e.1 e.2) []

/-- R590: the REC_DETAIL of a detection of source `i`: the wedge number for SVT sources, MCHK_ADDR for 208 + 16n,
MC_FAULT_LINE for 81, the word or code `given` for 96, 97 and 386, and 0 for every other source. -/
def recDetail (s : State) (i given : Nat) : Nat :=
  if 272 ≤ i ∧ i ≤ 293 then s.rd R.FRAME_WEDGE
  else if i = 208 ∨ i = 224 ∨ i = 240 ∨ i = 256 then s.rd (R.MCHK_ADDR ((i - 208) / 16))
  else if i = 81 then s.rd R.MC_FAULT_LINE
  else if i = 96 ∨ i = 97 ∨ i = 386 then given % 2 ^ 32
  else 0

/-- R582: the actuators a record's own reaction retracted, noted in its window. -/
def mergeRetracts (s : State) (k ret : Nat) : State :=
  let f := fun (w : FaultWindow) => if w.k = k then { w with retracted := w.retracted ||| ret } else w
  { s with fcu := { s.fcu with windows := s.fcu.windows.map f } }

/-- R583: a detection of source `i` that a shadow covers takes no step; it is merged into the record of the shadow's window. -/
def detectShadowed (s : State) (i detail : Nat) (re : Reaction) (sh : Shadow) : State :=
  match s.flag (R.SRC_RPT_EN i), sh.window.bind s.window with
  | true, some w => (s.mergeInto w.k i re.cls false 0).tallyFault i { re with steps := 0 } 2 detail w.record.seq
  | _, _ => s

/-- R579, R582: a detection merged into the open window `w`. -/
def detectMerged (s : State) (i detail : Nat) (re : Reaction) (plan : List (Nat × Nat)) (w : FaultWindow) : State :=
  let added := planAdds plan w.record.react (re.steps.testBit 5 && !s.flag R.FATAL)
  let s := s.mergeInto w.k i re.cls added (s.planRetracts plan)
  let s := s.runPlan plan (some w.k)
  let s := if re.steps.testBit 5 then s.goFatal else s
  s.tallyFault i re 1 detail w.record.seq

/-- R579, R582: a detection that opens a record of its own, and a window where it has steps to take. -/
def detectOpened (s : State) (i detail : Nat) (re : Reaction) (plan : List (Nat × Nat)) : State :=
  let ret := s.planRetracts plan
  let r : FaultRec := ⟨i, re.cls, re.sev, scopeCode i, re.steps, 0, 0, 0, false, s.fcu.nextSeq, detail, s.rd R.FCU_US⟩
  let (s, lost) := s.openRecord r
  let k := if re.steps.testBit 5 then 4 else scopeCode i
  let s := if re.steps = 0 then s else s.openWindow k r (re.steps.testBit 5)
  let s := if re.steps = 0 then s else s.mergeRetracts k ret
  let s := s.runPlan plan (some k)
  let s := if re.steps.testBit 5 then s.goFatal else s
  s.tallyFault i re (if lost then 3 else 0) detail r.seq

/-- R570 to R586: one detection of source `i`. It is counted, raises the latch, takes its reaction unless a shadow covers
it, and is queued, merged or lost as SRC_RPT_EN and the open windows say; the inlet's token moves past it (R16, R581). A
reserved number is never detected. `given` is the word of source 96 or 97, or the code of 386. -/
def detect (s : State) (i : Nat) (given : Nat := 0) : State :=
  if (srcDefault i).isNone then s
  else
    let detail := s.recDetail i given
    let s := (s.wr R.INLET_TOKEN ((i + 1) % 512)).count (R.SRC_CNT i)
    let re := s.reactionOf i
    let s := s.raiseLatch i re.cls re.sev
    match s.shadowOf i with
    | some sh => s.detectShadowed i detail re sh
    | none =>
      let plan := s.stepPlan i re.steps
      if s.flag (R.SRC_RPT_EN i) then
        match s.mergeTarget (scopeCode i) (re.steps.testBit 5) with
        | some w => s.detectMerged i detail re plan w
        | none => s.detectOpened i detail re plan
      else
        let s := s.runPlan plan none
        if re.steps.testBit 5 then s.goFatal else s

/-- R581: the detections of one cycle, in turn-token order over the 512 sources. -/
def detectAll (s : State) (l : List (Nat × Nat)) : State :=
  let l := l.filter fun p => (srcDefault p.1).isSome
  let t := s.rd R.INLET_TOKEN
  let after := l.filter fun p => t ≤ p.1
  let before := l.filter fun p => p.1 < t
  (sortByKey after ++ sortByKey before).foldl (fun s p => s.detect p.1 p.2) s

end State

end Sys2Proof.Machine
end

