-- ==== Sys2Proof/Machine/Dram.lean ====
section
/-!
DEFINITION. Machine/Dram.lean: the in-module DRAM: regions, codes and poison, the correctable-error log, the scrubber, spare
rows and diagnostic access (chapter 16).
-/
namespace Sys2Proof.Machine

open Arith

/-- R541, R544: what an access of a word finds or answers. -/
inductive DramStatus where
  | clean | corrected | uncorrectable | poisoned | unwritten | ok
  deriving DecidableEq, Repr

/-- The status a requester sees: an uncorrectable or poisoned word gives ERROR (R546, R552). -/
def statusCode : DramStatus → Nat
  | .clean => 0
  | .corrected => 1
  | .uncorrectable => 2
  | .poisoned => 2
  | .unwritten => 3
  | .ok => 4

/-- R534: the spare-row register's bank number of word `w`. -/
def bankOf (w : Nat) : Nat := 32 * (w % 8) + 16 * (w / 4096 % 2) + w / 256 % 16

/-- R534: the key bank * 2^16 + row of word `w`. -/
def rowKey (w : Nat) : Nat := bankOf w * 65536 + w / 8192

/-- R534: the word at column `col` of a row of a bank. -/
def wordAt (bank row col : Nat) : Nat :=
  bank / 32 % 8 + 8 * col + 256 * (bank % 16) + 4096 * (bank / 16 % 2) + 8192 * row

/-- The physical word of column `col` of spare row `sp` of a bank. -/
def spareWord (bank sp col : Nat) : Nat := 2 ^ 29 + (bank * 64 + sp) * 32 + col

/-- R541: the 16 check bits of a LIGHT word: 11 code bits under zeros. -/
def lightWord (d : Nat) : Nat := Config.lightCheck d % 2 ^ 11

/-- R541: the 64 check bits of a STRONG word. -/
def strongWord (d : Nat) : Nat := Config.strongCheck d % 2 ^ 64

/-- R541, R543: the check bits of `d` under `code`, correct or poisoned. -/
def checkOf (code d : Nat) (poison : Bool) : Nat :=
  if code = 2 then if poison then strongWord d ^^^ 0xA5A5A5A5A5A5A5A5 else strongWord d
  else if poison then lightWord d + 31 * 2 ^ 11 else lightWord d

/-- The data with symbol (byte) `i` put to `v`. -/
def putByte (d i v : Nat) : Nat := putField d (8 * i) 8 v

/-- R541: the single-symbol correction of a STRONG word: the data and the symbol's number. -/
def strongFix (d c : Nat) : Option (Nat × Nat) :=
  let tries := (List.range 64).flatMap fun i => (List.range 256).map fun v => (putByte d i v, i)
  match tries.find? fun t => strongWord t.1 == c with
  | some t => some t
  | none =>
    match (List.range 8).find? fun j => decide (putByte (strongWord d) j 0 = putByte c j 0) with
    | some j => some (d, 64 + j)
    | none => none

/-- R541: the single-bit correction of a LIGHT word: the data and the bit's number. -/
def lightFix (d c : Nat) : Option (Nat × Nat) :=
  match (List.range 512).find? fun i => lightWord (d ^^^ 2 ^ i) == c with
  | some i => some (d ^^^ 2 ^ i, i)
  | none =>
    match (List.range 11).find? fun j => lightWord d ^^^ 2 ^ j == c with
    | some j => some (d, 512 + j)
    | none => none

/-- R541, R543: what the check of a word under `code` finds: its status, its data as corrected, and the position. -/
def classify (code d c : Nat) : DramStatus × Nat × Nat :=
  if code = 0 then (.clean, d, 0)
  else if c = checkOf code d false then (.clean, d, 0)
  else if c = checkOf code d true then (.poisoned, d, 0)
  else
    match if code = 2 then strongFix d c else lightFix d c with
    | some (d', p) => (.corrected, d', p)
    | none => (.uncorrectable, d, 0)

/-- The bytes `mask` marks taken from `new`, the others from `old`. -/
def mergeBytes (old new mask : Nat) : Nat :=
  (List.range 64).foldl (fun d i => if mask.testBit i then putByte d i (field new (8 * i) 8) else d) old

namespace State

/-! ### Regions and rows -/

/-- R536: the first word of region `k`'s data area, and one past its last. -/
def regionLo (s : State) (k : Nat) : Nat := s.rd (R.REG_BASE k) * 16384

/-- One past the last word of region `k`'s data area. -/
def regionHi (s : State) (k : Nat) : Nat := (s.rd (R.REG_BASE k) + s.rd (R.REG_SIZE k)) * 16384

/-- R536: the enabled region whose data area holds word `w`. -/
def regionOf (s : State) (w : Nat) : Option Nat :=
  (List.range 16).find? fun k => s.flag (R.REG_EN k) && decide (s.regionLo k ≤ w) && decide (w < s.regionHi k)

/-- R536: the code in force for word `w`. -/
def codeOf (s : State) (w : Nat) : Nat := match s.regionOf w with
  | some k => s.rd (R.REG_CODE k)
  | none => 0

/-- R536: check bytes per word of a code. -/
def checkBytes (code : Nat) : Nat := if code = 2 then 8 else if code = 1 then 2 else 0

/-- R536: the check area of region `k` in bytes: its start and its length. -/
def checkArea (s : State) (k : Nat) : Nat × Nat :=
  (s.rd (R.CHK_BASE k) * 32768, s.rd (R.REG_SIZE k) * 16384 * checkBytes (s.rd (R.REG_CODE k)))

/-- R540: word `w` lies in the check area of an enabled region. -/
def inCheckArea (s : State) (w : Nat) : Bool :=
  (List.range 16).any fun k =>
    let a := s.checkArea k
    s.flag (R.REG_EN k) && decide (a.1 < 64 * w + 64) && decide (64 * w < a.1 + a.2)

/-- R556, R557: where word `w` lies in the DRAM, its row redirected or not. -/
def physical (s : State) (w : Nat) : Nat :=
  match Store.get none s.dram.soft (rowKey w), Store.get none s.dram.fused (rowKey w) with
  | some sp, _ => spareWord (bankOf w) sp (w / 8 % 32)
  | none, some sp => spareWord (bankOf w) sp (w / 8 % 32)
  | none, none => w

/-- The stored data of word `w`. -/
def rawWord (s : State) (w : Nat) : Nat := Store.get 0 s.dram.words (s.physical w)

/-- A word cell of the DRAM written. -/
def putCell (s : State) (cell d : Nat) : State := { s with dram := { s.dram with words := Store.put 0 s.dram.words cell d } }

/-- The stored data of word `w` replaced. -/
def putRaw (s : State) (w d : Nat) : State :=
  s.putCell (s.physical w) (d % 2 ^ 512)

/-- R536: the byte address of the check bits of word `w` of region `k`. -/
def checkAddr (s : State) (k w : Nat) : Nat := (s.checkArea k).1 + checkBytes (s.rd (R.REG_CODE k)) * (w - s.regionLo k)

/-- The stored check bits of word `w`. -/
def rawCheck (s : State) (w : Nat) : Nat := match s.regionOf w with
  | some k => let a := s.checkAddr k w
    field (s.rawWord (a / 64)) (8 * (a % 64)) (8 * checkBytes (s.rd (R.REG_CODE k)))
  | none => 0

/-- The stored check bits of word `w` replaced. -/
def putCheck (s : State) (w c : Nat) : State := match s.regionOf w with
  | some k => let a := s.checkAddr k w
    s.putRaw (a / 64) (putField (s.rawWord (a / 64)) (8 * (a % 64)) (8 * checkBytes (s.rd (R.REG_CODE k))) c)
  | none => s

/-- R544: word `w` written with fresh check bits. -/
def putFresh (s : State) (w d : Nat) : State :=
  if s.codeOf w = 0 then s.putRaw w d else (s.putRaw w d).putCheck w (checkOf (s.codeOf w) d false)

/-- R543: word `w` poisoned: its data stays. -/
def poisonWord (s : State) (w : Nat) : State :=
  if s.codeOf w = 0 then s else s.putCheck w (checkOf (s.codeOf w) (s.rawWord w) true)

/-- R549: the granule of word `w` has been written. -/
def isWritten (s : State) (w : Nat) : Bool := Store.get false s.dram.written (w / 64)

/-- REG_WR_GRAN: the written granules of region `k`'s data area (R564). -/
def countGranules (s : State) (k : Nat) : State :=
  s.wr (R.REG_WR_GRAN k) (s.dram.written.filter fun e =>
    decide (s.regionLo k ≤ 64 * e.1) && decide (64 * e.1 < s.regionHi k)).length

/-- R550: an unwritten granule filled with zeros and valid check bits, and marked written. -/
def zeroFill (s : State) (w : Nat) : State :=
  if s.isWritten w then s
  else
    let g := w / 64
    let s := (List.range 64).foldl (fun s i => s.putFresh (64 * g + i) 0) s
    let s := { s with dram := { s.dram with written := Store.put false s.dram.written g true } }
    match s.regionOf w with
    | some k => s.countGranules k
    | none => s

/-! ### The correctable-error log (R554) -/

/-- The valid entry that holds word `w`. -/
def logEntry (s : State) (w : Nat) : Option Nat :=
  (List.range 32).find? fun k => s.flag (R.CEL_VALID k) && s.rd (R.CEL_WORD k) == w

/-- CE_LOG_USED: the valid entries. -/
def countLog (s : State) : State := s.wr R.CE_LOG_USED ((List.range 32).filter fun k => s.flag (R.CEL_VALID k)).length

/-- R554: a correctable error at word `w`, position `p`, found by a write's merge (`cured`) or by the scrubber. -/
def logError (s : State) (w p : Nat) (cured scrub : Bool) : State :=
  match s.logEntry w with
  | some k =>
    let s := s.count (R.CEL_REPEAT k)
    let s := if cured then s.wr (R.CURED_BY_WRITE k) 1 else s
    if scrub then s.wr (R.CEL_SCRUB k) 1 else s
  | none =>
    match (List.range 32).find? fun k => !s.flag (R.CEL_VALID k) with
    | some k =>
      let s := ((s.wr (R.CEL_WORD k) w).wr (R.CEL_CODE k) (s.codeOf w)).wr (R.CEL_VALID k) 1
      let s := (s.wr (R.CEL_POS k) p).wr (R.CEL_REGION k) ((s.regionOf w).getD 0)
      let s := ((s.wrFlag (R.CURED_BY_WRITE k) cured).wrFlag (R.CEL_SCRUB k) scrub).wr (R.CEL_REPEAT k) 0
      let ms := s.rd R.CAL_MS_LO + 2 ^ 32 * s.rd R.CAL_MS_HI
      ((s.wr (R.CEL_TIME k) (ms / 1000)).countLog).raise 72
    | none =>
      let s := s.count R.CE_LOG_OVF
      if s.dram.overflowed then s else ({ s with dram := { s.dram with overflowed := true } }).raise 73

/-- R545, R551: a correctable error is counted, logged and reported. -/
def correctable (s : State) (w p : Nat) (cured scrub : Bool) : State :=
  ((s.count R.CE_CNT).logError w p cured scrub).detect 96 w

/-- R546, R552: an uncorrectable error poisons its word, is counted and reported. -/
def uncorrected (s : State) (w : Nat) : State := (((s.poisonWord w).count R.UE_CNT).detect 97 w).raise 74

/-- R546, R552: poison found. -/
def foundPoison (s : State) : State := (s.count R.POISON_RD_CNT).raise 75

/-! ### Accesses (R544 to R552) -/

/-- R549, R551, R552: word `w` read, by the scrubber or not. -/
def readWord (s : State) (w : Nat) (scrub : Bool) : State × DramStatus × Nat :=
  if !s.isWritten w then (s.count R.UNWRITTEN_RD_CNT, .unwritten, 0)
  else
    match classify (s.codeOf w) (s.rawWord w) (s.rawCheck w) with
    | (.clean, d, _) => (s, .clean, d)
    | (.corrected, d, p) =>
      let s := s.correctable w p false scrub
      (if scrub || s.flag R.CE_WB then s.putFresh w d else s, .corrected, d)
    | (.poisoned, _, _) => (s.foundPoison, .poisoned, 0)
    | (_, _, _) => (s.uncorrected w, .uncorrectable, 0)

/-- R544, R550: word `w` written whole. -/
def writeWord (s : State) (w d : Nat) : State := (s.zeroFill w).putFresh w d

/-- R544 to R547: bytes of word `w` written. -/
def mergeWord (s : State) (w mask d : Nat) : State × DramStatus :=
  let s := s.zeroFill w
  if s.codeOf w = 0 then (s.putRaw w (mergeBytes (s.rawWord w) d mask), .ok)
  else
    match classify (s.codeOf w) (s.rawWord w) (s.rawCheck w) with
    | (.clean, old, _) => (s.putFresh w (mergeBytes old d mask), .ok)
    | (.corrected, old, p) =>
      (((s.count R.CURED_CNT).correctable w p true false).putFresh w (mergeBytes old d mask), .ok)
    | (.poisoned, _, _) => ((s.foundPoison).poisonWord w, .poisoned)
    | (_, _, _) => (s.uncorrected w, .uncorrectable)

/-- The answer to a requester; an ERROR is a bus error to a core (R540, R546). -/
def answerDram (s : State) (pos w : Nat) (st : DramStatus) (d : Nat) : State :=
  if pos = 0 && statusCode st == 2 then s.emit (.busError (0x800000000 + 64 * w))
  else s.emit (.dram pos w (statusCode st) d)

/-- A request performed. -/
def performDram (s : State) (r : DramReq) : State :=
  if r.pos ≠ 7 ∧ s.inCheckArea r.word then s.answerDram r.pos r.word .uncorrectable 0
  else
    match r.op with
    | .read => let x := s.readWord r.word false
      x.1.answerDram r.pos r.word x.2.1 x.2.2
    | .write d => (s.writeWord r.word d).answerDram r.pos r.word .ok 0
    | .masked m d => let x := s.mergeWord r.word m d
      x.1.answerDram r.pos r.word x.2 0

/-- R538, R557: word `w` lies in the data area of a region whose operation runs, or in a row being copied. -/
def wordBusy (s : State) (w : Nat) : Bool :=
  (s.dram.copying.map fun c => c.1) == some (rowKey w) || s.dram.busy.any fun e => match e.2 with
    | some b => decide (b.lo ≤ w) && decide (w < b.hi)
    | none => false

/-- A granted request: it waits while its region is busy; where the domain is off it has no effect. -/
def requestDram (s : State) (r : DramReq) : State :=
  if !s.dom.dram then s.answerDram r.pos r.word .uncorrectable 0
  else if s.wordBusy r.word then { s with dram := { s.dram with waiting := s.dram.waiting ++ [r] } }
  else s.performDram r

/-- R535: requests of one cycle, granted in turn-token order by position. -/
def grantDram (s : State) (l : List DramReq) : State :=
  let order := tokenOrder 8 (s.rd R.DRAM_TOKEN) (l.map fun r => r.pos)
  let s := (order.flatMap fun p => l.filter fun r => r.pos == p).foldl requestDram s
  s.wr R.DRAM_TOKEN (tokenAfter 8 (s.rd R.DRAM_TOKEN) order)

/-- The word of DRAM at byte address `a`, as the blocks' own accesses read it. -/
def dramRead (s : State) (a : Nat) : State × DramStatus × Nat := s.readWord ((a - 0x800000000) / 64) false

/-- `n` 64-byte words of `v` written from DRAM byte address `a` on, by one of the device's masters. -/
def dramFill (s : State) (a n v : Nat) : State :=
  (List.range n).foldl (fun s i => s.writeWord ((a - 0x800000000) / 64 + i) (field v (512 * i) 512)) s

/-! ### Region operations (R537 to R539) -/

/-- R537: an ignored write. -/
def regionError (s : State) : State := (s.wr R.REG_CFG_ERR 1).raise 78

/-- Two byte ranges (start, length) share a byte. -/
def rangesMeet (a b : Nat × Nat) : Bool := decide (a.1 < b.1 + b.2) && decide (b.1 < a.1 + a.2)

/-- R536: the data area of region `k` in bytes. -/
def dataArea (s : State) (k : Nat) : Nat × Nat := (s.rd (R.REG_BASE k) * 1048576, s.rd (R.REG_SIZE k) * 1048576)

/-- R537: region `k` as programmed may be enabled. -/
def regionFits (s : State) (k : Nat) : Bool :=
  let d := s.dataArea k
  let c := s.checkArea k
  s.rd (R.REG_SIZE k) != 0 && decide (d.1 + d.2 ≤ 2 ^ 35) && decide (c.1 + c.2 ≤ 2 ^ 35) && !rangesMeet d c
    && s.rd (R.REG_CODE k) != 3
    && (List.range 16).all fun j => j == k || !s.flag (R.REG_EN j) ||
      !(rangesMeet d (s.dataArea j) || rangesMeet d (s.checkArea j)
        || rangesMeet c (s.dataArea j) || rangesMeet c (s.checkArea j))

/-- R538: a region operation begins. -/
def startRegion (s : State) (k : Nat) (job : RegionJob) : State :=
  let b : RegionBusy := ⟨s.regionLo k, s.regionHi k, job⟩
  ({ s with dram := { s.dram with busy := Store.put none s.dram.busy k (some b) } }).wr (R.REG_BUSY k) 1

/-- R538: the written bits of the words `lo` to `hi - 1` cleared. -/
def clearWritten (s : State) (lo hi : Nat) : State :=
  { s with dram := { s.dram with
    written := s.dram.written.filter fun e => decide (64 * e.1 < lo) || decide (hi ≤ 64 * e.1) } }

/-- Fresh check bits for the 64 words of granule `g`. -/
def encodeGranule (s : State) (g : Nat) : State :=
  (List.range 64).foldl (fun s i => s.putFresh (64 * g + i) (s.rawWord (64 * g + i))) s

/-- The written granules among the words `lo` to `hi - 1`. -/
def writtenIn (s : State) (lo hi : Nat) : List Nat :=
  (s.dram.written.map fun e => e.1).filter fun g => decide (lo ≤ 64 * g) && decide (64 * g < hi)

/-- R539: every unwritten granule encoded and marked written. -/
def markGranules (s : State) (lo hi : Nat) : State :=
  (List.range ((hi - lo) / 64)).foldl (fun s i =>
    let g := lo / 64 + i
    if s.isWritten (64 * g) then s
    else
      let s := s.encodeGranule g
      { s with dram := { s.dram with written := Store.put false s.dram.written g true } }) s

/-- The requests that waited are requested again, in their order. -/
def serveWaiting (s : State) : State :=
  s.dram.waiting.foldl requestDram { s with dram := { s.dram with waiting := [] } }

/-- R538, R539: the operation of region `k` completes, and the requests that waited for it are served. -/
def finishRegion (s : State) (k : Nat) : State :=
  match Store.get none s.dram.busy k with
  | none => s
  | some b =>
    let s := match b.job with
      | .clear => s.clearWritten b.lo b.hi
      | .adopt => (s.writtenIn b.lo b.hi).foldl encodeGranule s
      | .mark => s.markGranules b.lo b.hi
    let s := ({ s with dram := { s.dram with busy := Store.put none s.dram.busy k none } }).wr (R.REG_BUSY k) 0
    (s.countGranules k).serveWaiting

/-- R537, R538: REG_EN of region `k` written to 1, with the base and adopt bits of the same write. A disable of the region that
still runs completes first. -/
def enableRegion (s : State) (k base : Nat) (adopt : Bool) : State :=
  if s.flag (R.REG_EN k) then s.regionError
  else
    let s := (s.wr (R.REG_BASE k) base).wrFlag (R.REG_ADOPT k) adopt
    if s.regionFits k then
      let s := if s.flag (R.REG_BUSY k) then s.finishRegion k else s
      (s.wr (R.REG_EN k) 1).startRegion k (if adopt then .adopt else .clear)
    else s.regionError

/-- R537, R538: REG_EN of region `k` written to 0. -/
def disableRegion (s : State) (k : Nat) : State :=
  if !s.flag (R.REG_EN k) then s
  else if s.flag (R.REG_BUSY k) then s.regionError
  else (s.startRegion k .clear).wr (R.REG_EN k) 0

/-- R539: REG_MARK. -/
def markRegion (s : State) (k : Nat) : State :=
  if s.flag (R.REG_EN k) && !s.flag (R.REG_BUSY k) then s.startRegion k .mark else s.regionError

/-! ### The scrubber (R555) -/

/-- R555: the granules the scrubber visits: written, in an enabled STRONG or LIGHT region that is not busy. -/
def scrubGranules (s : State) : List Nat :=
  (s.dram.written.map fun e => e.1).filter fun g => match s.regionOf (64 * g) with
    | some k => s.rd (R.REG_CODE k) != 0 && !s.flag (R.REG_BUSY k)
    | none => false

/-- R555: the first word to visit at or after `w`. -/
def scrubNext (s : State) (w : Nat) : Option Nat :=
  ((s.scrubGranules.filter fun g => decide (w < 64 * g + 64)).map fun g => max w (64 * g)).min?

/-- R555: one step: the next word read and repaired, or the end of a pass. -/
def scrubStep (s : State) (behind : Bool) : State :=
  let s := s.wrFlag R.SCRUB_BEHIND behind
  match s.scrubNext (s.rd R.SCRUB_WORD) with
  | some w => (s.readWord w true).1.wr R.SCRUB_WORD (w + 1)
  | none => ((s.count R.SCRUB_PASSES).wr R.SCRUB_WORD ((s.scrubNext 0).getD 0)).raise 76

/-! ### Spare rows (R556 to R558) -/

/-- The spare rows of `bank` not taken by either map. -/
def freeSpares (s : State) (bank : Nat) : List Nat :=
  let used := (s.dram.fused ++ s.dram.soft).filterMap fun e => if e.1 / 65536 = bank then e.2 else none
  (List.range 64).filter fun sp => !used.contains sp

/-- SPARE_FUSED and SPARE_SOFT (R565). -/
def countSpares (s : State) : State := (s.wr R.SPARE_FUSED s.dram.fused.length).wr R.SPARE_SOFT s.dram.soft.length

/-- R557: SPR_GO. Which free spare row is taken is left open. -/
def sparGo (s : State) (bank row : Nat) : State :=
  let s := (s.wr R.SPR_BANK bank).wr R.SPR_ROW row
  let key := bank * 65536 + row
  let l := s.freeSpares bank
  let mapped := (Store.get none s.dram.fused key).isSome || (Store.get none s.dram.soft key).isSome
  if l.isEmpty || mapped || s.flag R.SPR_BUSY then (s.wr R.SPR_REFUSED 1).raise 77
  else
    let (v, s) := s.free
    ({ s with dram := { s.dram with copying := some (key, l.getD (v % l.length) 0) } }).wr R.SPR_BUSY 1

/-- R557: one word of a row copied to its spare. -/
def copyWord (s : State) (bank row sp col : Nat) : State :=
  let w := wordAt bank row col
  let dest := spareWord bank sp col
  if !s.isWritten w || s.inCheckArea w then s.putCell dest (s.rawWord w)
  else
    let old := s.rawWord w
    let x := s.readWord w false
    match x.2.1 with
    | .uncorrectable => x.1.putCell dest old
    | .poisoned => x.1.putCell dest old
    | _ => let s := x.1.putCell dest x.2.2
      if s.codeOf w = 0 then s else s.putCheck w (checkOf (s.codeOf w) x.2.2 false)

/-- R557: the copy completes and the row is redirected. -/
def spareDone (s : State) : State :=
  match s.dram.copying with
  | none => s
  | some (key, sp) =>
    let s := (List.range 32).foldl (fun s c => s.copyWord (key / 65536) (key % 65536) sp c) s
    let d := { s.dram with soft := Store.put none s.dram.soft key (some sp), copying := none }
    ((({ s with dram := d }).wr R.SPR_BUSY 0).wr R.SPR_DONE 1).countSpares.serveWaiting.raise 77

/-! ### Diagnostic access (R559) -/

/-- The data of DIAG_DATA0 to DIAG_DATA15. -/
def diagData (s : State) : Nat := (List.range 16).foldl (fun d j => d + s.rd (R.DIAG_DATA j) * 2 ^ (32 * j)) 0

/-- The check bits of DIAG_CHK_LO and DIAG_CHK_HI. -/
def diagCheck (s : State) : Nat := s.rd R.DIAG_CHK_LO + 2 ^ 32 * s.rd R.DIAG_CHK_HI

/-- A raw read's result registers. -/
def diagResult (s : State) (d c : Nat) : State :=
  let s := (List.range 16).foldl (fun s j => s.wr (R.DIAG_DATA j) (field d (32 * j) 32)) s
  (s.wr R.DIAG_CHK_LO c).wr R.DIAG_CHK_HI (c / 2 ^ 32)

/-- R559: DIAG_GO with operation `op` on word `w`. -/
def diagGo (s : State) (w op : Nat) : State :=
  let s := (s.wr R.DIAG_WORD w).wr R.DIAG_OP op
  if !s.flag R.DIAG_EN || (op == 3 && s.codeOf w == 0) then s.wr R.DIAG_REFUSED 1
  else
    let s := if op = 0 then s.diagResult (s.rawWord w) (s.rawCheck w)
      else
        let d := s.diagData
        let c := s.diagCheck
        let s := s.zeroFill w
        if op = 1 then (s.putRaw w d).putCheck w c else if op = 2 then s.putRaw w d else s.putCheck w c
    (s.wr R.DIAG_DONE 1).raise 79

/-- R554: log entry `k` freed. -/
def freeLog (s : State) (k : Nat) : State :=
  let s := s.wr (R.CEL_VALID k) 0
  ({ s with dram := { s.dram with overflowed := false } }).countLog

end State

/-- DRAM_READ (R535, R549, R551, R552): the reads of one arbiter cycle. -/
def execDramRead (reads : List (Fin 8 × BitVec 29)) (s : State) : Result :=
  .next (s.grantDram (reads.map fun r => ⟨r.1.val, r.2.toNat, .read⟩))

/-- DRAM_WRITE (R535, R544, R550): full-word writes of one arbiter cycle. -/
def execDramWrite (writes : List (Fin 8 × BitVec 29 × BitVec 512)) (s : State) : Result :=
  .next (s.grantDram (writes.map fun r => ⟨r.1.val, r.2.1.toNat, .write r.2.2.toNat⟩))

/-- DRAM_PARTIAL_WRITE (R544 to R548): partial writes of one arbiter cycle. -/
def execDramPartialWrite (writes : List (Fin 8 × BitVec 29 × BitVec 64 × BitVec 512)) (s : State) : Result :=
  .next (s.grantDram (writes.map fun r => ⟨r.1.val, r.2.1.toNat, .masked r.2.2.1.toNat r.2.2.2.toNat⟩))

/-- REGION_ENABLE (R537, R538). -/
def execRegionEnable (k : Fin 16) (base : BitVec 15) (adopt : Bool) (s : State) : Result :=
  .next (s.access (R.REG_EN k.val) fun s => s.enableRegion k.val base.toNat adopt)

/-- REGION_DISABLE (R537, R538). -/
def execRegionDisable (k : Fin 16) (s : State) : Result :=
  .next (s.access (R.REG_EN k.val) fun s => s.disableRegion k.val)

/-- REG_MARK (R539). -/
def execRegMark (k : Fin 16) (s : State) : Result :=
  .next (s.access (R.REG_MARK k.val) fun s => s.markRegion k.val)

/-- REGION_OP_COMPLETE (R538, R539). -/
def execRegionOpComplete (k : Fin 16) (s : State) : Result := .next (s.finishRegion k.val)

/-- SCRUB_STEP (R555). -/
def execScrubStep (behind : Bool) (s : State) : Result :=
  .next (if s.flag R.SCRUB_EN && s.dom.dram then s.scrubStep behind else s)

/-- SPR_GO (R557). -/
def execSprGo (bank : BitVec 8) (row : BitVec 16) (s : State) : Result :=
  .next (s.access R.SPR_GO fun s => s.sparGo bank.toNat row.toNat)

/-- SPARE_ROW_DONE (R557). -/
def execSpareRowDone (s : State) : Result := .next s.spareDone

/-- DIAG_RAW_READ (R559). -/
def execDiagRawRead (word : BitVec 29) (s : State) : Result :=
  .next (s.access R.DIAG_GO fun s => s.diagGo word.toNat 0)

/-- DIAG_WRITE_ALL (R559). -/
def execDiagWriteAll (word : BitVec 29) (s : State) : Result :=
  .next (s.access R.DIAG_GO fun s => s.diagGo word.toNat 1)

/-- DIAG_WRITE_DATA (R559). -/
def execDiagWriteData (word : BitVec 29) (s : State) : Result :=
  .next (s.access R.DIAG_GO fun s => s.diagGo word.toNat 2)

/-- DIAG_WRITE_CHECK (R559). -/
def execDiagWriteCheck (word : BitVec 29) (s : State) : Result :=
  .next (s.access R.DIAG_GO fun s => s.diagGo word.toNat 3)

/-- CE_LOG_CLR (R554). -/
def execCeLogClr (s : State) : Result :=
  .next (s.access R.CE_LOG_CLR fun s => (List.range 32).foldl State.freeLog s)

/-- CEL_VALID_CLEAR (R554). -/
def execCelValidClear (k : Fin 32) (s : State) : Result :=
  .next (s.access (R.CEL_VALID k.val) fun s => s.freeLog k.val)

/-- DMC_CNT_CLR (R567). -/
def execDmcCntClr (s : State) : Result :=
  .next (s.access R.DMC_CNT_CLR fun s => s.clearAll
    [R.CE_CNT, R.UE_CNT, R.POISON_RD_CNT, R.CURED_CNT, R.CE_LOG_OVF, R.UNWRITTEN_RD_CNT])

end Sys2Proof.Machine
end

