-- ==== Sys2Proof/Machine/Reset.lean ====
section
/-!
DEFINITION. Machine/Reset.lean: what each reset source re-initialises (R117 to R119), the images of the Keep store (R82,
R83, R118), and the start of the power-fail sequence (R80), shared by the power, boot, fault and management commands.
-/
namespace Sys2Proof.Machine

open Arith

namespace State

/-! ### Re-initialisation (R117) -/

/-- R11, R117: the register entries a reset keeps, by block: AON always, and ACT and PWR where `keepPstg`. -/
def keepRegs (s : State) (keepPstg : Bool) : Store Word :=
  s.regs.filter fun e =>
    let b := e.1 / 0x10000
    b == 0x4043 || (keepPstg && (b == 0x4031 || b == 0x4033))

/-- An area holds an image not yet consumed. -/
def unconsumed (a : Option KeepImage) : Bool :=
  match a with
  | some i => i.committed && !i.consumed
  | none => false

/-- The newer of two tables. -/
def newerTables (a b : Tables) : Tables := if a.stamp < b.stamp then b else a

/-- R240, R241: the tables that media and the unconsumed images of the Keep store hold together. -/
def latestTables (s : State) : Tables :=
  [s.ksc.area0, s.ksc.area1].foldl (fun t a => match a with
    | some i => if unconsumed a then newerTables t i.tables else t
    | none => t) s.nv.tables

/-- R241: a zone at a restart: an open zone is Closed, or Empty at its start; arrivals follow the write pointer. -/
def restartZone (z : Zone) : Zone :=
  let c := if z.cond = .implicitlyOpened ∨ z.cond = .explicitlyOpened ∨ z.cond = .closed then
    if z.wp = 0 then ZoneCond.empty else ZoneCond.closed else z.cond
  { z with cond := c, ap := z.wp, context := decide (c = .closed) }

/-- R241: the tables at a restart. -/
def restartTables (t : Tables) : Tables := { t with zones := t.zones.map fun e => (e.1, restartZone e.2) }

/-- R513, R525: NS_CFG_LOCK and the free extern reserve of the namespaces, after CORE was re-initialised. -/
def showNamespaces (s : State) : State :=
  s.nv.namespaces.foldl (fun s e => match e.2 with
    | some n =>
      let used := (s.media.tables.zones.map fun z => if z.1 / 2 ^ 32 = e.1 then z.2.externs else 0).foldl (· + ·) 0
      let s := s.wr (R.NS_CFG_LOCK (e.1 - 1)) 1
      if n.zoned && n.ratio != 0 then
        let f := 1024 * n.extGib - ceilDiv used 256
        (s.wr (R.EXT_FREE_MIB (e.1 - 1)) f).wrFlag (R.EXT_STOP (e.1 - 1)) (decide (f < 512))
      else s
    | none => s) s

/-- VOTERS follows the lane states (R473). -/
def countVoters (s : State) : State := s.wr R.VOTERS (((List.range 4).filter fun l => s.rd (R.LANE_STATE l) == 2).length)

/-- R468, R471: a warm start in progress is abandoned: an off lane is off and a retired one retired again. -/
def abandonWarm (s : State) : State :=
  if s.flag R.WARM_BUSY then
    let l := s.rd R.WARM_LANE
    let s := s.wr (R.LANE_STATE l) (if s.svt.warmRetired then 3 else 0)
    (((s.wr R.WARM_BUSY 0).wr R.WARM_PHASE 0).wr R.WARM_ABORT 1).raise 150
  else s

/-- R470: SVT powers on: fewer than three voting lanes and L3 off, L3 starts with them when AUTO_WARM = 1. -/
def startLanes (s : State) : State :=
  let votes := ((List.range 3).filter fun l => s.rd (R.LANE_STATE l) == 2).length
  let s := if votes < 3 && s.rd (R.LANE_STATE 3) == 0 && s.flag R.AUTO_WARM then s.wr (R.LANE_STATE 3) 2 else s
  s.countVoters

/-- R462, R470: what the retention latches keep over a device reset of SVT, from `old`. A lane that was warming or in self-test
is off, or retired, again. -/
def keepLanes (s old : State) : State :=
  let s := (List.range 4).foldl (fun s l =>
    let st := old.rd (R.LANE_STATE l)
    let back := if old.rd (R.LANE_CAUSE l) = 0 then 0 else 3
    let s := s.wr (R.LANE_STATE l) (if st = 1 ∨ st = 4 then back else st)
    (s.wr (R.LANE_CAUSE l) (old.rd (R.LANE_CAUSE l))).wr (R.LANE_BIST_PASS l) (old.rd (R.LANE_BIST_PASS l))) s
  (s.wr R.TRIAD_LOST (old.rd R.TRIAD_LOST)).startLanes

/-- R117: every domain but AON (and PSTG where `keepPstg`) re-initialised. NOR, Keep store and fuse contents stay; DRAM
and SRAM contents, and whatever else the blocks held, go. -/
def reinit (s : State) (keepPstg : Bool) : State :=
  { ({} : State) with
      regs := s.keepRegs keepPstg
      dom := { aon := true, pstg := s.dom.pstg }
      pins := s.pins
      pwr := if keepPstg then s.pwr else { calPpb := s.pwr.calPpb, calNs := s.pwr.calNs }
      fuses := s.fuses
      nv := s.nv
      boot := { width := if keepPstg then s.boot.width else 0
                widthSampled := keepPstg && s.boot.widthSampled
                rec0 := s.boot.rec0, rec1 := s.boot.rec1, slots := s.boot.slots
                certChain := s.boot.certChain, burn := s.boot.burn }
      media := { tables := restartTables s.latestTables }
      pak := { poolSize := if keepPstg then s.rd R.POOL_4K else 8192 }
      ksc := { area0 := s.ksc.area0, area1 := s.ksc.area1, nextSeq := s.ksc.nextSeq }
      tly := { archive := s.tly.archive, eraseCut := s.tly.eraseCut }
      pending := s.pending
      out := s.out
      freeCount := s.freeCount
      usInMs := s.usInMs
      tap := s.tap
      cohort := if keepPstg then s.cohort else {} }

/-- ABX_STAT, LLR_PINNED and LLR_HELD follow the LLR slots and beads (R364, R365). -/
def refreshAbx (s : State) : State :=
  let l := s.abx.llr.filterMap fun e => e.2
  let ready := l.filter fun x => x.framings.any fun f => decide (f.st = .ready)
  let s := ((s.wr R.BEADS_BUSY s.abx.beads.length).wr R.LLR_USED l.length).wr R.READY_CW ready.length
  let s := s.wr R.LLR_PINNED (l.filter fun x => x.pinned).length
  (List.range 8).foldl (fun s k => s.wr (R.LLR_HELD k) (l.filter fun x => x.stream == k).length) s

/-- An LLR slot changed. -/
def modLlr (s : State) (i : Nat) (f : LlrSlot → LlrSlot) : State :=
  match Store.get none s.abx.llr i with
  | some x => { s with abx := { s.abx with llr := Store.put none s.abx.llr i (some (f x)) } }
  | none => s

/-- R341: an LLR slot freed. -/
def freeLlr (s : State) (i : Nat) : State :=
  ({ s with abx := { s.abx with llr := Store.put none s.abx.llr i none } }).refreshAbx

/-- A bead runs on the LLR slot. -/
def beadOn (s : State) (i : Nat) : Bool := s.abx.beads.any fun e => match e.2 with
  | some b => b.slot == i
  | none => false

/-- R252: a read of one sector queued again. -/
def requeueSector (s : State) (l : Nat) (v : Serve) : State :=
  let o : MediaOp := { kind := v.kind, write := false, surface := l / 2 ^ 36 % 32, track := l / 2 ^ 12 % 2 ^ 24, first := l % 4096
                       sectors := [v], queuedMs := s.rd R.FCU_US / 1000 }
  let q := Store.get [] s.media.queue (o.surface / 8) ++ [o]
  ({ s with media := { s.media with queue := Store.put [] s.media.queue (o.surface / 8) q } }).wr
    (R.QUEUE_DEPTH (o.surface / 8)) (min 8191 q.length)

/-- R362: the requests of a stream end, its LLR slots and pins are freed, and its sectors are requeued. -/
def dropStream (s : State) (k : Nat) : State :=
  let mine := s.abx.llr.filter fun e => match e.2 with
    | some x => x.stream == k
    | none => false
  let s := mine.foldl (fun s e => match e.2 with
    | some x =>
      let s := if x.pinned then s else s.requeueSector x.location x.serve
      if s.beadOn e.1 then s.modLlr e.1 fun x => { x with ending := true, pinned := false } else s.freeLlr e.1
    | none => s) s
  let out := s.abx.ladder.filter fun l => l.stream == k && !l.waiting
  let s := out.foldl (fun s l => s.requeueSector l.location l.serve) s
  ({ s with abx := { s.abx with ladder := s.abx.ladder.filter fun l => l.stream != k } }).refreshAbx

/-- The queued operations an issued operation carries. -/
def opsOf (i : Option Issued) : List MediaOp := match i with
  | some i => i.op0.toList ++ i.op1.toList
  | none => []

/-- R382: operations put back at the head of an actuator's queue. -/
def requeueOps (s : State) (n : Nat) (l : List MediaOp) : State :=
  let q := l ++ Store.get [] s.media.queue n
  ({ s with media := { s.media with queue := Store.put [] s.media.queue n q } }).wr (R.QUEUE_DEPTH n) (min 8191 q.length)

/-- R382, R245: operations that ended early: reads are queued again, interrupted writes wait to be formed again. -/
def interruptOps (s : State) (n : Nat) (l : List MediaOp) : State :=
  let s := s.requeueOps n (l.filter fun o => !o.write)
  { s with media := { s.media with failedWrites := s.media.failedWrites ++ l.filter fun o => o.write } }

/-- R373: vector 0 of the source in force. -/
def vectorBase (s : State) (n : Nat) : Nat := if s.rd (R.EXEC_SRC n) = 0 then 0 else 0x10000

/-- R117, R119, R373, R377, R390, R391: the actuator reset's re-initialisation of CHNn and FSQn. The banks, their validity,
EXEC_SRC, WSQ_SRC and WSQ_ENTRY stay; a load is aborted and its bank stays invalid; operations not reported end; the FSQ begins
at vector 0. -/
def reinitAct (s : State) (n : Nat) : State :=
  let f := s.fsqOf n
  let keep := [R.EXEC_SRC n, R.BANK0_VALID n, R.BANK1_VALID n, R.BANK0_COMPAT n, R.BANK1_COMPAT n, R.WSQ_ENTRY n 0,
    R.WSQ_ENTRY n 1, R.WSQ_SRC n 0, R.WSQ_SRC n 1].map fun x => (x, s.rd x)
  let s := s.resetBlock (0x40100000 + 0x10000 * n)
  let s := s.resetBlock (0x40200000 + 0x10000 * n)
  let s := keep.foldl (fun s e => s.wr e.1 e.2) s
  let s := s.wr (R.FSQ_PC n) (s.vectorBase n)
  let s := s.interruptOps n (opsOf f.current ++ opsOf f.issued)
  let s := (s.dropStream (2 * n)).dropStream (2 * n + 1)
  let quiet := fun (w : Wsq) => { ({} : Wsq) with valid := w.valid }
  let w := Store.modify {} (Store.modify {} s.wsq (2 * n) quiet) (2 * n + 1) quiet
  let s := { s with chn := (s.chn.erase (2 * n)).erase (2 * n + 1), fsq := s.fsq.erase n, wsq := w }
  { s with boot := { s.boot with actResetWait := clearBit s.boot.actResetWait n } }

/-! ### Keep store images (R82, R83, R118) -/

/-- The write buffer holds data not yet on media. -/
def bufferDirty (s : State) : Bool := s.media.buffer.any fun b => !b.onMedia

/-- R82: the image of the buffer (empty where `emptyBuf`), the journal tail and the Tally ring, as committed. -/
def makeImage (s : State) (emptyBuf : Bool) : KeepImage :=
  { seq := s.ksc.nextSeq, committed := true, consumed := false, replayed := false, badCrc := false
    tables := s.media.tables
    buffer := if emptyBuf then [] else s.media.buffer.filter fun b => !b.onMedia
    poisoned := if emptyBuf then [] else
      (s.media.buffer.filter fun b => !b.onMedia && b.poisoned).map fun b => b.lba
    tally := s.tly.ring.filterMap fun e => e.2.map fun r => r.record
    emptyBuffer := emptyBuf }

/-- R83: the area an image goes to: one that holds no unconsumed image. An empty area comes first, then the one with the
older image. -/
def freeArea (s : State) : Option Nat :=
  match s.ksc.area0, s.ksc.area1 with
  | none, _ => some 0
  | some _, none => some 1
  | some a, some b =>
    if unconsumed (some a) then if unconsumed (some b) then none else some 1
    else if unconsumed (some b) then some 0
    else if a.seq < b.seq then some 0 else some 1

/-- An image written whole to its area; where no area is free no image is written (R142). -/
def writeImage (s : State) (emptyBuf : Bool) : State :=
  match s.freeArea with
  | some 0 => { s with ksc := { s.ksc with area0 := some (s.makeImage emptyBuf), nextSeq := s.ksc.nextSeq + 1 } }
  | some _ => { s with ksc := { s.ksc with area1 := some (s.makeImage emptyBuf), nextSeq := s.ksc.nextSeq + 1 } }
  | none => s

/-! ### Device reset (R118) and actuator reset (R119) -/

/-- Every gate cut on the FCU path and every assist forced off. -/
def makeSafe (s : State) : State := actuators.foldl (fun s n => (s.cutGates n 2).forceAssist n) s

/-- R118: a device reset for the cause field `rc`: writes cut, assist off, every loaded actuator retracted, an image
written where the buffer holds data not yet on media, then every domain but AON and PSTG re-initialised. It is ignored
while a power-fail sequence runs (R119). -/
def deviceReset (s : State) (rc : Fld) : State :=
  if s.flag R.PF_ACTIVE then s
  else
    let s := s.wr rc 1
    let s := actuators.foldl retract s.makeSafe
    let s := if s.bufferDirty || s.media.tailBytes != 0 then s.writeImage false else s
    let s := ((s.reinit true).keepLanes s).showNamespaces
    ((s.wr R.PSTATE_NOW 0).wr R.PSTATE_TARGET 0).wr R.PSTATE_BUSY 0

/-- R117, R119: an actuator reset: at once where the actuator is parked, else once its heads are on the ramp. -/
def actuatorReset (s : State) (n : Nat) : State :=
  let s := s.setBitAt R.RC_ACT n
  if s.rd (R.VCM_STATE n) = 5 then s.reinitAct n else s.requestActReset n

/-! ### Power fail (R80) -/

/-- R662: DRAIN_REQ cleared; an FCU hold keeps its actuator drained (R660). -/
def dropDrains (s : State) : State :=
  let s := s.clearAll [R.DRAIN_REQ, R.DRAIN_DONE]
  actuators.foldl (fun s n => s.wrFlag (R.ACT_DRAINED n) (s.bitAt R.ACT_HOLD n)) s

end State

end Sys2Proof.Machine
end

