-- ==== Sys2Proof/Machine/Tally.lean ====
section
/-!
DEFINITION. Machine/Tally.lean: the Tally recorder, the lifetime counters and the calendar (chapter 18).
-/
namespace Sys2Proof.Machine

open Arith

namespace State

/-! ### The calendar and the stamps -/

/-- R613: the calendar in milliseconds. -/
def calMs (s : State) : Nat := s.rd R.CAL_MS_LO + 2 ^ 32 * s.rd R.CAL_MS_HI

/-- R613: the calendar loaded with `ms`, CAL_SET set. -/
def setCalendar (s : State) (ms : Nat) : State :=
  ((s.wr R.CAL_MS_LO ms).wr R.CAL_MS_HI (ms / 2 ^ 32)).wr R.CAL_SET 1

/-- R598: an event with the stamps of its entry. -/
def stamp (s : State) (e : TlyEvent) : TlyEvent :=
  { e with poh := s.rd R.POH_S, pcyc := s.rd R.PWR_CYCLES % 2 ^ 16, cal := s.calMs / 1000 % 2 ^ 32
           frozen := s.flag R.FREEZE }

/-! ### The inlet (R600, R603) -/

/-- R600, R603: the events each position waits with; position 3 waits while the inlet is full. -/
def inletReq (s : State) : List Nat :=
  (if s.tly.waitFcu.isEmpty then [] else [0]) ++ (if s.tly.waitThm.isEmpty then [] else [1])
    ++ (if s.tly.waitFw.isEmpty then [] else [2])
    ++ (if s.tly.waitOwn.isEmpty || decide (16 ≤ s.tly.inlet.length) then [] else [3])

/-- The waiting events of position `p`. -/
def waiting (s : State) (p : Nat) : List TlyEvent :=
  if p = 0 then s.tly.waitFcu else if p = 1 then s.tly.waitThm else if p = 2 then s.tly.waitFw else s.tly.waitOwn

/-- The oldest waiting event of position `p` taken. -/
def dropWaiting (s : State) (p : Nat) : State :=
  let t := if p = 0 then { s.tly with waitFcu := s.tly.waitFcu.tail }
    else if p = 1 then { s.tly with waitThm := s.tly.waitThm.tail }
    else if p = 2 then { s.tly with waitFw := s.tly.waitFw.tail }
    else { s.tly with waitOwn := s.tly.waitOwn.tail }
  { s with tly := t }

/-- R600, R603: one event at the inlet: it enters with its stamps, or finds the inlet full and is dropped; the first drop
of an episode detects source 392. -/
def admitEvent (s : State) (e : TlyEvent) : State :=
  if s.tly.inlet.length < 16 then { s with tly := { s.tly with inlet := s.tly.inlet ++ [s.stamp e] } }
  else
    let first := s.rd R.DROP_PEND == 0
    let s := (s.count R.DROP_PEND).count R.DROP_TOTAL
    if first then s.detect 392 else s

/-- R600: one cycle of the inlet: the granted position's oldest event is admitted. -/
def inletCycle (s : State) : State :=
  match tokenGrant 4 (s.rd R.INLET_TLY_TOKEN) s.inletReq with
  | none => s
  | some p =>
    let s := s.wr R.INLET_TLY_TOKEN ((p + 1) % 4)
    match s.waiting p with
    | [] => s
    | e :: _ => (s.dropWaiting p).admitEvent e

/-- R603: the head entry leaves; where drops are pending, a DROPPED entry takes the freed place. -/
def leaveInlet (s : State) : State :=
  let s := { s with tly := { s.tly with inlet := s.tly.inlet.tail } }
  let d := s.rd R.DROP_PEND
  if d = 0 then s
  else
    let e := s.stamp { kind := 4, source := 0, code := 0, detail := d }
    ({ s with tly := { s.tly with inlet := s.tly.inlet ++ [e] } }).wr R.DROP_PEND 0

/-! ### The ring (R601, R602) -/

/-- The ring slot at an index. -/
def ringAt (s : State) (i : Nat) : Option RingSlot := Store.get none s.tly.ring i

/-- R606, R622: ring records not archived. -/
def ringUnarch (s : State) : Nat :=
  (s.tly.ring.filter fun e => match e.2 with
    | some r => decide (r.arch = .waiting ∨ r.arch = .copied)
    | none => false).length

/-- R606: ring records that wait to be copied into a program. -/
def ringWaiting (s : State) : Nat :=
  (s.tly.ring.filter fun e => match e.2 with
    | some r => decide (r.arch = .waiting)
    | none => false).length

/-- R606: 128 records waiting ask for the archive. -/
def archiveDemand (s : State) : State :=
  if 128 ≤ s.ringWaiting then { s with tly := { s.tly with archiveRequest := true } } else s

/-- R601, R606: an event committed as a new record at RING_HEAD. A record overwritten before it was copied is lost from
the archive. -/
def commitRecord (s : State) (e : TlyEvent) : State :=
  let i := s.rd R.RING_HEAD
  let s := match s.ringAt i with
    | some r => if r.arch = ArchState.waiting then (s.count R.ARCH_LOST_CNT).raise 188 else s
    | none => s
  let r : TlyRec := { seq := s.rd R.NEXT_SEQ, ev := e, repeats := 0 }
  let ring := Store.put none s.tly.ring i (some ⟨r, .waiting⟩)
  let s := { s with tly := { s.tly with ring := ring, last := some i } }
  let s := (s.advance R.NEXT_SEQ).advance R.RING_HEAD
  let s := s.archiveDemand
  if e.kind = 4 then s.raise 184 else s

/-- R602: an event repeats a record: same KIND, SOURCE and CODE, of a kind that can repeat. -/
def isRepeat (s : State) (e : TlyEvent) : Bool :=
  match s.tly.last.bind s.ringAt with
  | some r => (e.kind == 1 || e.kind == 6 || e.kind == 7) && e.kind == r.record.ev.kind
      && e.source == r.record.ev.source && e.code == r.record.ev.code
  | none => false

/-- R602: REPEAT of the last record raised by one. -/
def applyRepeat (s : State) : State :=
  match s.tly.last with
  | some i => match s.ringAt i with
    | some r =>
      let r' := { r with record := { r.record with repeats := satAdd 65535 r.record.repeats 1 } }
      { s with tly := { s.tly with ring := Store.put none s.tly.ring i (some r') } }
    | none => s
  | none => s

/-- R604: TLY may commit: it is ready and not frozen. -/
def mayCommit (s : State) : Bool := s.flag R.TLY_READY && !s.flag R.FREEZE

/-! ### Clearing (R610) -/

/-- R610: an archive erase begins: no program runs, records of an image are not archived, and a flush completes at once. -/
def startErase (s : State) : State :=
  let s := { s with tly := { s.tly with eraseCut := true, programRecs := [], programBusy := false, imageRecs := [] } }
  let s := s.wr R.CLEAR_BUSY 1
  if s.flag R.FLUSH_BUSY then s.flushNow else s

/-- R610: the ring and the inlet emptied, and a CLEARED record committed; for CODE 2 the archive erase begins. -/
def runClear (s : State) (code : Nat) : State :=
  let n := s.tly.ring.length
  let s := { s with tly := { s.tly with ring := [], inlet := [], last := none, clearWait := none } }
  let s := s.wr R.RING_HEAD 0
  let s := s.commitRecord (s.stamp { kind := 5, source := 0, code := code, detail := n })
  if code = 2 then s.startErase else s.raise 189

/-- R604: a freeze ends: the inlet may drain, and a waiting clear runs. -/
def unfreeze (s : State) : State :=
  let s := (s.wr R.FREEZE 0).wr R.FROZEN 0
  match s.tly.clearWait with
  | some c => if s.flag R.TLY_READY then s.runClear c else s
  | none => s

/-! ### The archive (R606 to R608) -/

/-- R598: the higher of two record sequences. -/
def maxSeq (l : List TlyRec) : Option Nat := (l.map fun r => r.seq).max?

/-- The archive's records. -/
def archiveRecs (s : State) : List TlyRec := s.tly.archive.filterMap fun e => e.2

/-- Records in rising order of SEQ, each sequence once. -/
def sortRecs (l : List TlyRec) : List TlyRec :=
  let m : Store TlyRec := l.foldl (fun m r => if m.any (fun e => e.1 == r.seq) then m else Store.insert m r.seq r) []
  m.map fun e => e.2

/-- R606: the records a program takes, in SEQ order: waiting image records first, then ring records that wait and are
not the last record. -/
def programCandidates (s : State) : List TlyRec :=
  let ring := s.tly.ring.filterMap fun e => match e.2 with
    | some r => if r.arch = .waiting ∧ s.tly.last ≠ some e.1 then some r.record else none
    | none => none
  (s.tly.imageRecs ++ sortRecs ring).take 128

/-- Ring slots of these sequences put in state `st`. -/
def markRing (s : State) (seqs : List Nat) (st : ArchState) : State :=
  let f := fun (o : Option RingSlot) => match o with
    | some r => if seqs.contains r.record.seq then some { r with arch := st } else some r
    | none => none
  { s with tly := { s.tly with ring := s.tly.ring.map fun e => (e.1, f e.2) } }

/-- R606: a program granted: its records copied into the program buffer. -/
def programStart (s : State) : State :=
  let recs := s.programCandidates
  if recs.isEmpty then { s with tly := { s.tly with archiveRequest := false } }
  else
    let n := (recs.filter fun r => r.fromImage).length
    let s := s.markRing ((recs.filter fun r => !r.fromImage).map fun r => r.seq) .copied
    { s with tly := { s.tly with programRecs := recs, programBusy := true, imageRecs := s.tly.imageRecs.drop n } }

/-- R606: the sector four ahead of sector `sec` erased: its 2,048 slots hold nothing. -/
def eraseAhead (s : State) (sec : Nat) : State :=
  let gone := (sec + 4) % 256
  { s with tly := { s.tly with archive := s.tly.archive.filter fun e => e.1 / 2048 != gone } }

/-- R606: one record appended at the write point; entering a new sector erases the one four ahead. -/
def archiveOne (s : State) (r : TlyRec) : State :=
  let a := s.rd R.ARCH_SLOT
  let s := { s with tly := { s.tly with archive := Store.put none s.tly.archive a (some r) } }
  let a' := (a + 1) % 524288
  let s := s.wr R.ARCH_SLOT a'
  if a' % 2048 = 0 then s.eraseAhead (a' / 2048) else s

/-- R606, R609: the program ends: its records are archived, or it failed and they are lost from the archive and the write
point skips to the next sector. -/
def programEnd (s : State) (ok : Bool) : State :=
  let recs := s.tly.programRecs
  let seqs := (recs.filter fun r => !r.fromImage).map fun r => r.seq
  let s := { s with tly := { s.tly with programRecs := [], programBusy := false } }
  if ok then (recs.foldl archiveOne s).markRing seqs .archived
  else
    let s := (s.count R.ARCH_LOST_CNT recs.length).raise 188
    let sec := (s.rd R.ARCH_SLOT / 2048 + 1) % 256
    let s := (s.wr R.ARCH_SLOT (sec * 2048)).eraseAhead sec
    ((s.markRing seqs .lost).wr R.ARCH_FAIL 1).raise 187 |>.detect 393

/-- R607: every committed record is archived. -/
def allArchived (s : State) : Bool := s.ringUnarch == 0 && s.tly.imageRecs.isEmpty && !s.tly.programBusy

/-! ### Start (R608, R612) -/

/-- The records of the Keep store images whose commit record is valid. -/
def imageTally (s : State) : List TlyRec :=
  let f := fun (a : Option KeepImage) => match a with
    | some i => if i.committed then i.tally else []
    | none => []
  f s.ksc.area0 ++ f s.ksc.area1

/-- R612: the counters in the order of their ids 0 to 11. -/
def lifeFields : List Fld :=
  [R.POH_S, R.PWR_CYCLES, R.PF_COUNT, R.SPIN_STARTS, R.LOAD_CNT 0, R.LOAD_CNT 1, R.LOAD_CNT 2, R.LOAD_CNT 3,
   R.WARN_MIN, R.THR_MIN, R.LIFE_TMAX, R.LIFE_TMAX_POH]

/-- R599, R612: counter `i` as a LIFE record's DETAIL: id 10 is sign-extended from 16 bits. -/
def lifeValue (s : State) (i : Nat) : Nat :=
  match lifeFields[i]? with
  | some f => if i = 10 then unsigned 32 (signed 16 (s.rd f)) else s.rd f
  | none => 0

/-- R612: a LIFE group of 12 records presented at TLY's own position. -/
def lifeGroup (s : State) : State :=
  let s := (List.range 12).foldl (fun s i => s.tallyOwn { kind := 8, source := i, code := 0, detail := s.lifeValue i }) s
  { s with tly := { s.tly with lifePoh := s.rd R.POH_S } }

/-- R612: one record read in SEQ order: the LIFE group it carries on, its values so far, and the newest complete group. -/
def readLife (b : List Nat × List Nat) (r : TlyRec) : List Nat × List Nat :=
  if r.ev.kind = 8 then
    let l := if r.ev.source = 0 then [r.ev.detail] else if r.ev.source = b.1.length then b.1 ++ [r.ev.detail] else []
    if l.length = 12 then ([], l) else (l, b.2)
  else b

/-- R612: the values of the newest complete LIFE group, ids 0 to 11; none where no group is complete. -/
def newestLife (l : List TlyRec) : List Nat := ((sortRecs l).foldl readLife ([], [])).2

/-- The highest temperature of the archive and its hour, where it is above LIFE_TMAX. -/
def lifeHottest (s : State) (t p : Nat) : State :=
  if signed 16 (s.rd R.LIFE_TMAX) < signed 16 t then (s.wr R.LIFE_TMAX t).wr R.LIFE_TMAX_POH p else s

/-- A LIFE counter given its archived value. -/
def lifeCounter (s : State) (vals : List Nat) (i : Nat) : State :=
  match lifeFields[i]?, vals[i]? with
  | some f, some v => s.count f v
  | _, _ => s

/-- LIFE_TMAX and its hour given their archived values. -/
def lifeMax (s : State) (vals : List Nat) : State :=
  match vals[10]?, vals[11]? with
  | some t, some p => s.lifeHottest t p
  | _, _ => s

/-- R612: the counters restored from the newest stored group, where one is complete: ids 0 to 9 become the stored value
plus the value counted since; ids 10 and 11 take the stored pair where the stored LIFE_TMAX is higher. -/
def lifeRestore (s : State) (l : List TlyRec) : State :=
  let vals := newestLife l
  if vals.length = 12 then
    let s := (List.range 10).foldl (fun s i => s.lifeCounter vals i) s
    (s.lifeMax vals).wr R.LIFE_RESTORED 1
  else s

/-- R608: TLY is ready: NEXT_SEQ and ARCH_SLOT follow the archive and the images, the POWER_ON record commits directly,
the counters are restored after an AON power-on, and the LIFE group follows. -/
def tallyReady (s : State) : State :=
  let arch := s.archiveRecs
  let img := s.imageTally
  let top := maxSeq arch
  let newer := img.filter fun r => match top with
    | some t => decide (t < r.seq)
    | none => true
  let next := match maxSeq (arch ++ img) with
    | some t => t + 1
    | none => 0
  let slot := match top with
    | some t => s.tly.archive.foldl (fun (a : Nat) (e : Nat × Option TlyRec) => match e.2 with
        | some r => if r.seq = t then (e.1 + 1) % 524288 else a
        | none => a) 0
    | none => 0
  let recs := (sortRecs newer).map fun r => { r with fromImage := true }
  let s := { s with tly := { s.tly with imageRecs := recs } }
  let s := ((s.wr R.NEXT_SEQ next).wr R.ARCH_SLOT slot).wr R.TLY_READY 1
  let s := s.commitRecord (s.stamp { kind := 3, source := 0, code := s.word 0x40430120 1 % 2 ^ 16
                                     detail := s.word 0x40500000 R.FAIL_A.rst })
  let s := if s.flag R.RC_AON_POR && !s.flag R.LIFE_RESTORED then s.lifeRestore (arch ++ img) else s
  let s := s.lifeGroup
  let s := if s.tly.eraseCut then s.wr R.CLEAR_BUSY 1 else s
  let s := if s.tly.flushWait then ({ s with tly := { s.tly with flushWait := false } }).tallyFlushStart else s
  match s.tly.clearWait with
  | some c => if s.flag R.FREEZE then s else s.runClear c
  | none => s

end State

/-- TALLY_INLET_ADMIT (R600, R603). -/
def execTallyInletAdmit (s : State) : Result := .next s.inletCycle

/-- TALLY_COMMIT (R601): the head entry, where it is not a repeat. -/
def execTallyCommit (s : State) : Result :=
  .next (match s.tly.inlet with
    | e :: _ => if s.mayCommit && !s.isRepeat e then s.leaveInlet.commitRecord e else s
    | [] => s)

/-- TALLY_REPEAT (R602). -/
def execTallyRepeat (s : State) : Result :=
  .next (match s.tly.inlet with
    | e :: _ => if s.mayCommit && s.isRepeat e then s.applyRepeat.leaveInlet else s
    | [] => s)

/-- TALLY_FREEZE (R604). -/
def execTallyFreeze (s : State) : Result :=
  .next (s.access R.FREEZE fun s => (s.wr R.FREEZE 1).wr R.FROZEN 1)

/-- TALLY_UNFREEZE (R604). -/
def execTallyUnfreeze (s : State) : Result := .next (s.access R.FREEZE State.unfreeze)

/-- TALLY_FREEZE_TIMEOUT (R604). -/
def execTallyFreezeTimeout (s : State) : Result :=
  .next (if s.flag R.FREEZE then (s.unfreeze.wr R.FREEZE_TIMEOUT 1).raise 186 else s)

/-- TALLY_ARCHIVE_TIMEOUT (R606): 60 s after the oldest waiting record. -/
def execTallyArchiveTimeout (s : State) : Result :=
  .next (if s.ringWaiting = 0 ∧ s.tly.imageRecs = [] then s else { s with tly := { s.tly with archiveRequest := true } })

/-- TALLY_ARCHIVE_PROGRAM (R606): at the NOR grant. No program starts after PF or during an archive erase. -/
def execTallyArchiveProgram (s : State) : Result :=
  .next (if s.flag R.TLY_READY && s.tly.archiveRequest && !s.tly.programBusy && !s.flag R.PF_ACTIVE
      && !s.flag R.CLEAR_BUSY then s.programStart else s)

/-- TALLY_PROGRAM_COMPLETE (R606, R609). -/
def execTallyProgramComplete (ok : Bool) (s : State) : Result :=
  .next (if s.tly.programBusy then s.programEnd ok else s)

/-- TALLY_FLUSH (R607): FLUSH_REQ, TallyFlush or a step F. -/
def execTallyFlush (s : State) : Result := .next (s.access R.FLUSH_REQ State.tallyFlushStart)

/-- TALLY_FLUSH_DONE (R607): every committed record is archived. -/
def execTallyFlushDone (s : State) : Result :=
  .next (if s.flag R.FLUSH_BUSY && s.allArchived then
    ((s.wr R.FLUSH_BUSY 0).wr R.FLUSH_DONE 1).raise 185 else s)

/-- TALLY_READY (R608, R612). -/
def execTallyReady (s : State) : Result :=
  .next (if s.flag R.TLY_READY || !s.dom.core then s else s.tallyReady)

/-- TALLY_CLEAR (R610): an authorised TallyClear of the ring, or of ring and archive; it waits for a freeze to end, and
before TLY_READY, as TLY then commits no record (R608). -/
def execTallyClear (both : Bool) (s : State) : Result :=
  .next (let c := if both then 2 else 1
    if s.flag R.FREEZE || !s.flag R.TLY_READY then { s with tly := { s.tly with clearWait := some c } } else s.runClear c)

/-- TALLY_CLEAR_DONE (R610): the archive erase completes; archiving restarts at slot 0. -/
def execTallyClearDone (s : State) : Result :=
  .next (if s.flag R.CLEAR_BUSY then
    let s := { s with tly := { s.tly with archive := [], eraseCut := false, archiveRequest := true } }
    ((s.wr R.CLEAR_BUSY 0).wr R.ARCH_SLOT 0).raise 189
  else s)

/-- LIFE_GROUP_TIMER (R612): every 8 h of POH_S. -/
def execLifeGroupTimer (s : State) : Result :=
  .next (if s.tly.lifePoh + 28800 ≤ s.rd R.POH_S then s.lifeGroup else s)

/-- FW_EVT_GO (R599, R600). -/
def execFwEvtGo (s : State) : Result :=
  .next (s.access R.FW_EVT_GO fun s =>
    s.tallyFw { kind := 7, source := s.rd R.FW_SRC, code := s.rd R.FW_CODE, detail := s.rd R.FW_DETAIL })

/-- POH_TICK (R611): a second with IN_OK = 1. -/
def execPohTick (s : State) : Result :=
  .next (if s.flag R.IN_OK then
    let s := s.count R.POH_S
    let s := if s.flag R.WARN_ON then
        let w := s.thm.warnSec + 1
        let s := { s with thm := { s.thm with warnSec := w % 60 } }
        if w = 60 then s.count R.WARN_MIN else s
      else s
    if s.rd R.THR_LEVEL = 0 then s
    else
      let w := s.thm.thrSec + 1
      let s := { s with thm := { s.thm with thrSec := w % 60 } }
      if w = 60 then s.count R.THR_MIN else s
  else s)

/-- CALENDAR_SET (R613): the value of AON_CAL_HI and AON_CAL_LO, or of the Calendar object or Timestamp, loaded whole. -/
def execCalendarSet (ms : BitVec 48) (s : State) : Result := .next (s.setCalendar ms.toNat)

end Sys2Proof.Machine
end

