-- ==== Sys2Proof/Machine/Power.lean ====
section
/-!
DEFINITION. Machine/Power.lean: the 48 V power stage, hold-up and power fail, and the preamplifier rails (chapter 02).
-/
namespace Sys2Proof.Machine

open Arith

namespace State

/-- R80: PF: writes cut, assist off, the source 368 reaction with its POWER_FAIL record, the NOR store in progress
abandoned, the input switch open, every loaded actuator retracted, the spindle regenerating. The CMU stops while PF_ACTIVE
reads 1. PF ends a freeze (R604) and completes a running flush with no program (R607). -/
def powerFailStart (s : State) : State :=
  if s.flag R.PF_ACTIVE then s
  else
    let s := s.wr R.PF_ACTIVE 1
    let s := s.count R.PF_COUNT
    let s := if s.flag R.FREEZE then s.unfreeze else s
    let s := if s.flag R.FLUSH_BUSY then s.flushNow else s
    let s := s.clearPert
    let s := s.dropDrains
    let s := s.detect 368
    let s := s.makeSafe
    let s := actuators.foldl retract s
    let s := ({ s with cal := { s.cal with store := none } }).clearAll [R.STORE_BUSY, R.STORE_AGAIN]
    let s := { s with pwr := { s.pwr with inputSwitch := false, pf := .started } }
    let s := s.wr R.OV_RIDE 0
    let spin := s.rd R.SPM_STATE
    if spin = 0 || spin = 7 then s else (s.wr R.SPM_REGEN 1).wr R.SPM_STATE 6

/-- R72: PA_RAIL_OK of actuator `n`: PA5V and PAM3V in regulation, and PASST in regulation or not enabled. -/
def railOk (s : State) (n : Nat) : State :=
  s.putBitAt R.PA_RAIL_OK n
    (s.pwr.paReg.testBit n && (s.pwr.asstReg.testBit n || !s.bitAt R.PASST_EN n))

/-- R86: IN_OK: the input lies above PF_THRESH_DV and below 80.0 V. -/
def inputOk (s : State) (vin10mV : Nat) : Bool :=
  decide (s.rd R.PF_THRESH_DV * 10 < vin10mV) && decide (vin10mV < 8000)

/-- The square of pi in 10^-43, truncated. -/
def piSquared : Nat := 98696044010893586188344909998761511353136994

/-- R76: the hold-up energy in 1/(12 * 10^51) mJ: 0.75 mJ/V^2 times (VBULK^2 - 18^2) at `mv` millivolts, and 0.6 of the kinetic
energy at `rpm` of an inertia in 10^-8 kg m^2 (R497), which is inertia * rpm^2 * pi^2 / (3 * 10^8) mJ. -/
def holdupEnergy (mv inertia rpm : Nat) : Nat :=
  9 * 10 ^ 45 * (mv * mv - 18000 * 18000) + 4 * inertia * rpm * rpm * piSquared

/-- R77, R117: power-on reset: every domain but AON re-initialised, its cause recorded, FATAL_RST_CNT cleared, the
inrush begun. -/
def powerOnReset (s : State) (rc : Fld) : State :=
  let s := s.reinit false
  let s := { s with dom := { aon := true, pstg := true }, pwr := { s.pwr with inputSwitch := true } }
  let s := s.wr rc 1
  let s := s.wr R.FATAL_RST_CNT 0
  let s := (s.count R.PWR_CYCLES).wr R.IN_OK 1
  ((s.wr R.PSTATE_NOW 0).wr R.PSTATE_TARGET 0).wr R.PSTATE_BUSY 0

/-- R80: HPHY, ABX, MED0 to MED3 and SVT off, CCLK lowered, KSC on: the flush starts. -/
def kscReady (s : State) : State :=
  if s.pwr.pf = .started then
    let s := s.abandonWarm
    let d := { s.dom with hphy := 0, abx := false, med := 0, svt := false, spare := false, ksc := true }
    ({ s with dom := d, abx := {}, pwr := { s.pwr with pf := .flushing } }).wr R.CCLK_LOW 1
  else s

/-- R82, R142: the image a power fail leaves: with an empty buffer segment where an unconsumed image exists. -/
def flushImage (s : State) : State :=
  s.writeImage (unconsumed s.ksc.area0 || unconsumed s.ksc.area1)

/-- R80, R84: the flush's commit record: then a restart where the input has been back for 10 ms, else shutdown with the
dynamic brake. -/
def flushCommit (s : State) (inputBack : Bool) : State :=
  if s.pwr.pf = .flushing then
    let s := s.flushImage
    if inputBack then
      let rpm := s.rd R.SPM_RPM_NOW
      (s.powerOnReset R.RC_PF_RESTART).wr R.SPM_RPM_NOW rpm
    else
      let s := { s with dom := { s.dom with core := false, dram := false, ksc := false }
                        pwr := { s.pwr with brake := true, pf := .committed } }
      ((s.wr R.SPM_REGEN 0).wr R.SPM_STATE 7).wr R.HOLDUP_OK 0
  else s

/-- R79: an image of the buffer starts from the input: source 374, and the KSC domain comes on. -/
def holdupImageStart (s : State) : State :=
  let s := s.detect 374
  match s.freeArea with
  | some a => { s with dom := { s.dom with ksc := true }, ksc := { s.ksc with writing := some a } }
  | none => s

/-- R88: HOLDUP_OK made equal to `ok`; where it falls with dirty data held, the hold-up image starts. -/
def holdupJudge (s : State) (ok : Bool) : State :=
  let was := s.flag R.HOLDUP_OK
  let s := s.wrFlag R.HOLDUP_OK ok
  if was && !ok && s.bufferDirty && s.flag R.IN_OK && !s.flag R.PF_ACTIVE then s.holdupImageStart else s

/-- R76, R88: the 1 ms measurements: input voltage and power, VBULK, HOLDUP_MJ and HOLDUP_OK. How HOLDUP_MJ rounds to whole mJ is a
free bit. -/
def holdupRecompute (s : State) (vin pin mv : Nat) : State :=
  let s := { s with pwr := { s.pwr with vbulkMv := mv } }
  let s := ((s.wr R.VIN_10MV vin).wr R.PIN_10MW pin).wrFlag R.IN_OK (s.inputOk vin)
  let e := holdupEnergy mv (Store.get 0 s.cal.device 0) (s.rd R.SPM_RPM_NOW)
  let (r, s) := s.free
  let up := if e % (12 * 10 ^ 51) = 0 then 0 else r % 2
  let s := s.wr R.HOLDUP_MJ (min 0xFFFF (e / (12 * 10 ^ 51) + up))
  s.holdupJudge (decide (s.rd R.HOLDUP_NEED_MJ ≤ s.rd R.HOLDUP_MJ))

/-- R72: a write of PA_EN and PASST_EN. PASST_EN is ignored where PA_EN is 0; an enable is ignored while the actuator's
PA_RAIL_OC is set (R73). A rail switched off leaves regulation. -/
def railEnable (s : State) (pa asst : Nat) : State :=
  let oc := s.rd R.PA_RAIL_OC
  let pa' := (List.range 4).foldl (fun x n => if oc.testBit n && !s.bitAt R.PA_EN n then clearBit x n else x) (pa % 16)
  let as' := (List.range 4).foldl (fun x n =>
    if !pa'.testBit n || (oc.testBit n && !s.bitAt R.PASST_EN n) then clearBit x n else x) (asst % 16)
  let s := (s.wr R.PA_EN pa').wr R.PASST_EN as'
  let s := { s with pwr := { s.pwr with paReg := s.pwr.paReg &&& pa', asstReg := s.pwr.asstReg &&& as' } }
  actuators.foldl (fun s n => (s.railOk n).wrFlag (R.ASST_RAIL_OK n) (s.pwr.asstReg.testBit n)) s

/-- R478: the fused variant has an assist element. -/
def assistFitted (s : State) : Bool := s.fuses.variant == 1 || s.fuses.variant == 2

/-- R72: a rail reaches regulation: PA5V and PAM3V where PA_EN is set, PASST where PASST_EN is set and no force holds it
off. -/
def railReady (s : State) (n : Nat) (rail : Rail) : State :=
  match rail with
  | .passt =>
    if s.bitAt R.PASST_EN n && !s.bitAt R.ASST_FORCED n && s.assistFitted then
      (({ s with pwr := { s.pwr with asstReg := setBit s.pwr.asstReg n } }).wr (R.ASST_RAIL_OK n) 1).railOk n
    else s
  | _ =>
    if s.bitAt R.PA_EN n then ({ s with pwr := { s.pwr with paReg := setBit s.pwr.paReg n } }).railOk n else s

/-- R73: a rail in overcurrent is switched off until PA_RAIL_OC is cleared and its enable set again; source 370 + n. -/
def railOvercurrent (s : State) (n : Nat) (rail : Rail) : State :=
  let s := match rail with
    | .passt => s.clrBitAt R.PASST_EN n
    | _ => (s.clrBitAt R.PA_EN n).clrBitAt R.PASST_EN n
  let pa := match rail with
    | .passt => s.pwr.paReg
    | _ => clearBit s.pwr.paReg n
  let s := { s with pwr := { s.pwr with paReg := pa, asstReg := clearBit s.pwr.asstReg n } }
  let s := ((s.wr (R.ASST_RAIL_OK n) 0).railOk n).setBitAt R.PA_RAIL_OC n
  s.detect (370 + n)

end State

/-- POWER_ON_RESET (R66, R117). It starts from a stopped device: a supply already up has no such rise. -/
def execPowerOnReset (s : State) : Result :=
  .next (if s.dom.pstg && s.flag R.IN_OK then s else s.powerOnReset R.RC_POR)

/-- INRUSH_COMPLETE (R67, R121). -/
def execInrushComplete (s : State) : Result :=
  .next (if s.dom.pstg && s.pwr.inputSwitch then
    ({ s with pwr := { s.pwr with xt25En := true } }).wr R.INRUSH_DONE 1 else s)

/-- POWER_FAIL (R66, R80): the input falls through PF_THRESH_DV. -/
def execPowerFail (vin10mV : BitVec 16) (s : State) : Result :=
  .next (if vin10mV.toNat < s.rd R.PF_THRESH_DV * 10 then
    ((s.wr R.VIN_10MV vin10mV.toNat).wr R.IN_OK 0).powerFailStart else s)

/-- KSC_READY (R80). -/
def execKscReady (s : State) : Result := .next s.kscReady

/-- FLUSH_COMMIT (R80, R82, R84). -/
def execFlushCommit (inputBack : Bool) (s : State) : Result := .next (s.flushCommit inputBack)

/-- PSTG_OFF (R80): VBULK below 12 V after the commit record. -/
def execPstgOff (vbulkMv : BitVec 17) (s : State) : Result :=
  .next (if s.pwr.pf = .committed ∧ vbulkMv.toNat < 12000 then
    { s with dom := { s.dom with pstg := false }, pwr := { s.pwr with pf := .off, vbulkMv := vbulkMv.toNat } }
  else s)

/-- OVERVOLTAGE_DETECT (R69). -/
def execOvervoltageDetect (vin10mV : BitVec 16) (s : State) : Result :=
  .next (if 8000 < vin10mV.toNat ∧ ¬ s.flag R.PF_ACTIVE then
    let s := { s with pwr := { s.pwr with inputSwitch := false } }
    ((s.wr R.VIN_10MV vin10mV.toNat).wr R.IN_OK 0).wr R.OV_RIDE 1
  else s)

/-- OV_RIDE_END (R69): the input below 77.0 V with VBULK at or above 38 V, within the 20 ms. -/
def execOvRideEnd (vin10mV : BitVec 16) (vbulkMv : BitVec 17) (s : State) : Result :=
  .next (if s.flag R.OV_RIDE ∧ vin10mV.toNat < 7700 ∧ 38000 ≤ vbulkMv.toNat then
    let s := { s with pwr := { s.pwr with inputSwitch := true, vbulkMv := vbulkMv.toNat } }
    let s := (s.wr R.VIN_10MV vin10mV.toNat).wrFlag R.IN_OK (s.inputOk vin10mV.toNat)
    ((s.wr R.OV_RIDE 0).wr R.OV_EVENT 1).detect 369
  else s)

/-- OV_RIDE_TIMEOUT (R69): the ride-through ends in a power fail. -/
def execOvRideTimeout (s : State) : Result := .next (if s.flag R.OV_RIDE then s.powerFailStart else s)

/-- HOLDUP_RECOMPUTE (R76, R79, R88). -/
def execHoldupRecompute (vin10mV : BitVec 16) (pin10mW : BitVec 16) (vbulkMv : BitVec 17) (s : State) : Result :=
  .next (if s.dom.pstg then s.holdupRecompute vin10mV.toNat pin10mW.toNat vbulkMv.toNat else s)

/-- KEEP_IMAGE_COMMIT (R79, R82): an image written outside power fail reaches its commit record. -/
def execKeepImageCommit (s : State) : Result :=
  .next (match s.ksc.writing with
    | some _ =>
      let s := s.writeImage false
      { s with ksc := { s.ksc with writing := none }, dom := { s.dom with ksc := false } }
    | none => s)

/-- PA_RAIL_ENABLE (R72, R88). -/
def execPaRailEnable (paEn : BitVec 4) (passtEn : BitVec 4) (s : State) : Result :=
  .next (s.access R.PA_EN fun s => s.railEnable paEn.toNat passtEn.toNat)

/-- PA_RAIL_READY (R72). -/
def execPaRailReady (n : Fin 4) (rail : Rail) (s : State) : Result := .next (s.railReady n.val rail)

/-- PA_RAIL_OVERCURRENT (R73). -/
def execPaRailOvercurrent (n : Fin 4) (rail : Rail) (s : State) : Result := .next (s.railOvercurrent n.val rail)

end Sys2Proof.Machine
end

