-- ==== Sys2Proof/Machine/Ucode.lean ====
section
/-!
DEFINITION. Machine/Ucode.lean: microcode words and microcode images: parity, the directory, the translation of XQ7220 words,
and the sections of an image (R371, R379, R388, R389, R394).
-/
namespace Sys2Proof.Machine

open Arith

/-! ### Words -/

/-- Ones among the low `n` bits of `v`. -/
def ones : (n v : Nat) → Nat
  | 0, _ => 0
  | n + 1, v => v % 2 + ones n (v / 2)

/-- Even parity of `n` bits from `lo`, with the parity bit at `p`. -/
def evenParity (w lo n p : Nat) : Bool := (ones n (w / 2 ^ lo) + w / 2 ^ p % 2) % 2 == 0

/-- R371, R381: the parity of an FSQ microword. -/
def fsqParity (w : Nat) : Bool := evenParity w 0 80 160 && evenParity w 80 80 161

/-- R379, R381: the parity of a WSQ microword. -/
def wsqParity (w : Nat) : Bool := evenParity w 0 56 112 && evenParity w 56 56 113

/-- R394: the parity of an XQ7220 word. -/
def oldParity (w : Nat) : Bool := evenParity w 0 64 128 && evenParity w 64 64 129

/-- R371: an FSQ word's 160 bits with both parity bits. -/
def withParity (w : Nat) : Nat :=
  let v := w % 2 ^ 160
  v + 2 ^ 160 * (ones 80 v % 2) + 2 ^ 161 * (ones 80 (v / 2 ^ 80) % 2)

/-- R394: an XQ7220 word as the native word, or none where it fails translation. -/
def translate (w : Nat) : Option Nat :=
  let xfer := field w 80 4
  let t := field w 26 16
  let t' := if field w 42 2 = 0 then ceilDiv (5 * t) 4 else t
  if xfer = 7 ∨ xfer = 8 ∨ 65535 < t' ∨ !oldParity w then none
  else
    let v := w % 2 ^ 128
    let v := putField v 15 2 2
    let v := putField v 26 16 t'
    let v := [45, 47, 49, 51, 84].foldl clearBit v
    some (withParity (putField v 128 16 (field w 96 16)))

/-- R371: a reserved field is not zero, or SEQ or XFER holds a reserved code. -/
def illegalField (w : Nat) : Bool :=
  field w 17 3 == 7 || decide (9 < field w 80 4) || field w 62 2 != 0 || field w 90 6 != 0 || field w 144 16 != 0

/-! ### Images (R388, R389) -/

/-- `n` bytes of a payload from byte `off`. -/
def payloadField (i : Image) (off n : Nat) : Nat := field i.payload (8 * off) (8 * n)

/-- A section of a microcode image. -/
structure UcodeSection where
  kind : Nat
  target : Nat
  words : Nat
  offset : Nat
  deriving DecidableEq, Repr

/-- R388: section `k` of the directory. -/
def sectionAt (i : Image) (k : Nat) : UcodeSection :=
  let b := 16 + 16 * k
  ⟨payloadField i b 1, payloadField i (b + 1) 1, payloadField i (b + 4) 4, payloadField i (b + 8) 4⟩

/-- R388: the sections of a payload. -/
def sections (i : Image) : List UcodeSection := (List.range (min 16 (payloadField i 0 2))).map (sectionAt i)

/-- R388: bytes that store a word of a section. -/
def wordBytes (kind : Nat) : Nat := if kind = 3 then 16 else 24

/-- Word `k` of a section as stored. -/
def storedWord (i : Image) (x : UcodeSection) (k : Nat) : Nat :=
  payloadField i (x.offset + wordBytes x.kind * k) (wordBytes x.kind)

/-- R388: the most words a section of a type holds. -/
def sectionMax (kind : Nat) : Nat := if kind = 1 then 65536 else if kind = 2 then 32768 else 2048

/-- R388, R389: a stored word's parity is right, the bits above its parity bits are zero, and a type 2 word translates. -/
def wordOk (kind w : Nat) : Bool :=
  if kind = 1 then fsqParity w && decide (w < 2 ^ 162)
  else if kind = 2 then (translate w).isSome && decide (w < 2 ^ 130)
  else wsqParity w && decide (w < 2 ^ 114)

/-- R388, R389: one section is well formed in an image of type `t` whose payload is `size` bytes. -/
def sectionOk (i : Image) (t size : Nat) (k : Nat) : Bool :=
  let x := sectionAt i k
  let b := 16 + 16 * k
  (if t = 3 then x.kind == 2 else x.kind == 1 || x.kind == 3)
    && payloadField i (b + 2) 2 == 0 && payloadField i (b + 12) 4 == 0
    && decide (x.words ≤ sectionMax x.kind) && x.offset % 16 == 0
    && decide (x.offset + wordBytes x.kind * x.words ≤ size)
    && (List.range x.words).all fun j => wordOk x.kind (storedWord i x j)

/-- The sequencers a section targets: 0 to 3 the FSQs, 4 + 2 * n + h the WSQs. -/
def sectionTargets (x : UcodeSection) : List Nat :=
  if x.kind = 3 then ((List.range 8).filter fun k => x.target.testBit k).map fun k => 4 + k
  else (List.range 4).filter fun n => x.target.testBit n

/-- R389: the directory check of a microcode image of type `t`. -/
def directoryOk (i : Image) (t size : Nat) : Bool :=
  let c := payloadField i 0 2
  let targets := (sections i).flatMap sectionTargets
  decide (1 ≤ c) && decide (c ≤ 16) && payloadField i 2 14 == 0 && decide (16 + 16 * c ≤ size)
    && ((List.range c).all (sectionOk i t size)) && decide targets.Nodup

/-- Word `k` of a section as it is written to a bank. -/
def bankWord (i : Image) (x : UcodeSection) (k : Nat) : Nat :=
  let w := storedWord i x k
  if x.kind = 2 then (translate w).getD 0 else w

namespace State

/-! ### Banks (R370, R390, R391) -/

/-- The actuator of a sequencer. -/
def sequencerActuator (q : Nat) : Nat := if q < 4 then q else (q - 4) / 2

/-- R390, R391: the validity of bank `b` of a sequencer, and whether it came from a type 2 section. -/
def setBank (s : State) (q b : Nat) (valid compat : Bool) : State :=
  if q < 4 then
    if b = 0 then (s.wrFlag (R.BANK0_VALID q) valid).wrFlag (R.BANK0_COMPAT q) compat
    else (s.wrFlag (R.BANK1_VALID q) valid).wrFlag (R.BANK1_COMPAT q) compat
  else { s with wsq := Store.modify {} s.wsq (q - 4) fun w => { w with valid := putBit w.valid b valid } }

/-- The bank `b` of a sequencer is valid. -/
def bankValid (s : State) (q b : Nat) : Bool :=
  if q < 4 then s.flag (if b = 0 then R.BANK0_VALID q else R.BANK1_VALID q)
  else (Store.get {} s.wsq (q - 4) : Wsq).valid.testBit b

/-- One section written into bank `b` of one target. -/
def loadSection (s : State) (i : Image) (x : UcodeSection) (q b : Nat) : State :=
  let put := fun (m : Store Nat) (k : Nat) => Store.put 0 m ((q * 2 + b) * 65536 + k) (bankWord i x k)
  let d := Config.shake256 512 (field i.header (8 * 0x0C) 32) i.payload % 2 ^ 512
  let f := if q < 4 then Store.put 0 s.boot.fsqPayload (2 * q + b) d else s.boot.fsqPayload
  ({ s with ucode := (List.range x.words).foldl put s.ucode, boot := { s.boot with fsqPayload := f } }).setBank q b true (x.kind == 2)

/-- The targets of an image's sections among the actuators `acts`, each with its section. -/
def imageTargets (i : Image) (acts : List Nat) : List (UcodeSection × Nat) :=
  (sections i).flatMap fun x => ((sectionTargets x).filter fun q => acts.contains (sequencerActuator q)).map fun q => (x, q)

/-- R390, R391: the sections that target the actuators `acts` written into bank `b`. -/
def loadImage (s : State) (i : Image) (acts : List Nat) (b : Nat) : State :=
  (imageTargets i acts).foldl (fun s p => s.loadSection i p.1 p.2 b) s

/-- R390: at boot a target runs from bank 0 from its vector 0, or at its next wedge start from 0x800. -/
def bootTarget (s : State) (q : Nat) : State :=
  if q < 4 then (s.wr (R.EXEC_SRC q) 1).wr (R.FSQ_PC q) 0x10000
  else (s.wr (R.WSQ_SRC ((q - 4) / 2) ((q - 4) % 2)) 1).wr (R.WSQ_ENTRY ((q - 4) / 2) ((q - 4) % 2)) 0x800

end State

end Sys2Proof.Machine
end

