-- ==== Sys2Proof/Machine/Boot.lean ====
section
/-!
DEFINITION. Machine/Boot.lean: resets, the boot ROM, the spindle's commands, replay of Keep store images, identity keys and
fuses (chapter 04).
-/
namespace Sys2Proof.Machine

open Arith

/-! ### Image headers (R128) -/

/-- `n` bytes of the header at offset `off`. -/
def headerField (i : Image) (off n : Nat) : Nat := field i.header (8 * off) (8 * n)

/-- R128: the payload size in bytes. -/
def payloadSize (i : Image) : Nat := headerField i 0x0C 4

/-- R128: the load address. -/
def loadAddress (i : Image) : Nat := headerField i 0x10 8

/-- R128: the entry point. -/
def entryPoint (i : Image) : Nat := headerField i 0x18 8

/-- R128: the security version. -/
def securityVersion (i : Image) : Nat := headerField i 0x20 4

/-- R128: the key slot. -/
def keySlot (i : Image) : Nat := headerField i 0x24 1

/-- R128: every reserved byte and the flags are zero. -/
def reservedZero (i : Image) : Bool :=
  headerField i 0x26 2 == 0 && headerField i 0x771 7 == 0 && headerField i 0x77A 6 == 0 && headerField i 0xD36 714 == 0

/-- R129: the signed message: header bytes 0x000 to 0x777. -/
def signedMessage (i : Image) : Nat := headerField i 0 0x778

/-- An image parsed from its bytes. -/
def parseImage (v : Nat) : Image := ⟨v % 2 ^ 32768, v / 2 ^ 32768⟩

/-- R130, check 0x1: magic, header version, image type for the slot, header size and reserved bytes. -/
def headerFormOk (i : Image) (microcode : Bool) : Bool :=
  let t := headerField i 6 2
  headerField i 0 4 == 0x4D495158 && headerField i 4 2 == 1
    && (if microcode then t == 2 || t == 3 else t == 1) && headerField i 8 4 == 0x1000 && reservedZero i

/-- R124: the size of an image slot in bytes. -/
def slotSize (microcode : Bool) : Nat := if microcode then 8 * 2 ^ 20 else 32 * 2 ^ 20

/-- R29: an address range inside SRAM or inside DRAM. -/
def inMemory (lo n : Nat) : Bool :=
  (decide (0x10000000 ≤ lo) && decide (lo + n ≤ 0x11800000))
    || (decide (0x800000000 ≤ lo) && decide (lo + n ≤ 0x1000000000))

/-- R130, R389, check 0x9: load region and entry point; of a microcode image, its directory. -/
def loadRegionOk (i : Image) (microcode : Bool) : Bool :=
  if microcode then directoryOk i (headerField i 6 2) (payloadSize i)
  else (inMemory (loadAddress i) (payloadSize i) && decide (loadAddress i ≤ entryPoint i)
    && decide (entryPoint i < loadAddress i + payloadSize i))

/-- R130, check 0x5: the variant mask against the fused VARIANT. -/
def variantOk (f : Fuses) (i : Image) : Bool :=
  let m := headerField i 0x25 1
  if f.variant = 1 then m.testBit 0 else if f.variant = 2 then m.testBit 1 else f.lifecycle == 0

/-- R135: the thermometer fuses' minimum security version. -/
def svnMinimum (f : Fuses) (microcode : Bool) : Nat := if microcode then f.mcSvnMin else f.fwSvnMin

/-- R130: the code of the first check that fails, 0 where all pass. -/
def imageCode (f : Fuses) (i : Image) (microcode norError : Bool) : Nat :=
  let k := keySlot i
  let h := Store.get 0 f.keyHash k
  if !headerFormOk i microcode then 1
  else if slotSize microcode - 4096 < payloadSize i then 2
  else if 8 ≤ k ∨ h = 0 ∨ f.revoked.testBit k then 3
  else if Config.shake256 256 1793 (headerField i 0x70 1793) % 2 ^ 256 ≠ h then 4
  else if !variantOk f i then 5
  else if securityVersion i < svnMinimum f microcode then 6
  else if headerField i 0x778 2 = 0 ∨ 1462 < headerField i 0x778 2 ∨ !Config.falconVerify (headerField i 0x70 1793) (signedMessage i)
      (field i.header (8 * 0x780) (8 * headerField i 0x778 2)) then 7
  else if Config.shake256 512 (payloadSize i) i.payload % 2 ^ 512 ≠ headerField i 0x30 64 then 8
  else if !loadRegionOk i microcode then 9
  else if norError then 10
  else 0

namespace State

/-! ### Resets -/

/-- R117: an AON power-on: every block re-initialised; NOR, Keep store, media and fuse contents stay. -/
def aonPowerOn (s : State) : State :=
  let t := s.reinit false
  { t with regs := [], dom := { aon := true }, pwr := {}, tap := {} }

/-- R85: the AON domain loses its supply, with its counters, calendar and latches. -/
def aonSupplyLoss (s : State) : State :=
  let t := s.reinit false
  { t with regs := [], dom := {}, pwr := {}, tap := {} }

/-- R57, R153: the ports of a width. -/
def portsOf (width : Nat) : List Nat := if width = 1 then [0, 1] else if width = 2 then [0, 1, 2, 3] else [0]

/-- R57: the width BIFSEL selects; 0b11 configures one x16 port. -/
def widthOf (bifsel : Nat) : Nat := if bifsel = 3 then 0 else bifsel

/-- R190: tags port `k` holds. -/
def tagsOfPort (s : State) (k : Nat) : Nat := (s.hosts.cmds.filter fun c => c.port == k).length

/-- R179: tags of port `k` taken from its own reservation. -/
def ownTags (s : State) (k : Nat) : Nat := (s.hosts.cmds.filter fun c => c.port == k && !c.shared).length

/-- R179: the configured ports: PCIe ports that exist, and the SAS ports (4 and 5). -/
def configured (s : State) : List Nat := (List.range 6).filter fun k => 4 ≤ k || s.flag (R.PORT_PRESENT k)

/-- R179: free tags in the shared pool; a reservation below the tags it holds still counts those. -/
def sharedFree (s : State) : Nat :=
  8192 - (s.configured.foldl (fun n k => n + max (s.rd (R.TAG_RSV k)) (s.ownTags k)) 0)
    - (s.hosts.cmds.filter fun c => c.shared).length

/-- R190, R191: TAGS_HELD and TAGS_FREE brought up to date. -/
def refreshTags (s : State) : State :=
  let s := (List.range 6).foldl (fun s k => s.wr (R.TAGS_HELD k) (s.tagsOfPort k)) s
  s.wr R.TAGS_FREE s.sharedFree

/-- R121, R24, R57: the CORE reset is released: BIFSEL is sampled where no width is held, the ports and their quotas are
set, the fuse shadow is loaded, C0 starts; the Pack pool is free (R530). R146: debug access is enabled at reset in MANUFACTURE. -/
def coreRelease (s : State) (bifsel : Nat) : State :=
  let w := if s.boot.widthSampled then s.boot.width else widthOf bifsel
  let b := { s.boot with phase := .rom, width := w, widthSampled := true, cores := 1 }
  let p := { s.pins with bifsel := bifsel }
  let s := { s with boot := b, pins := p, dom := { s.dom with core := true, hphy := s.dom.hphy ||| 0xF } }
  let l := portsOf w
  let s := l.foldl (fun s k => (s.wr (R.PORT_PRESENT k) 1).wr (R.Q_QUOTA k) (16384 / l.length)) s
  let s := (s.wr R.POOL_FREE s.pak.poolSize).showNamespaces
  (s.wrFlag R.DBG_UNLOCKED (s.fuses.lifecycle == 0)).refreshTags

/-! ### Slots (R126, R130 to R132) -/

/-- R126: the copy in use: valid with the higher sequence. -/
def bootRecord (s : State) : Option (BootRec × Nat) :=
  match s.boot.rec0, s.boot.rec1 with
  | some a, some b => if a.seq < b.seq then some (b, 1) else some (a, 0)
  | some a, none => some (a, 0)
  | none, some b => some (b, 1)
  | none, none => none

/-- R126: a record written to the copy other than the one in use, its sequence one higher. -/
def writeBootRecord (s : State) (f : BootRec → BootRec) : State :=
  let (r, c) := match s.bootRecord with
    | some (r, c) => (r, c)
    | none => (⟨0, 0, 0xFF, 0, true⟩, 1)
  let r' := { f r with seq := (r.seq + 1) % 2 ^ 32 }
  if c = 0 then { s with boot := { s.boot with rec1 := some r' } } else { s with boot := { s.boot with rec0 := some r' } }

/-- R122, R126: SPIN_AT_BOOT. -/
def spinAtBoot (s : State) : Bool := match s.bootRecord with
  | some (r, _) => r.spin
  | none => true

/-- The order of the firmware slots, and whether the first is on trial. -/
def setOrder (s : State) (o : Nat × Nat × Bool) : State := { s with boot := { s.boot with order := some o } }

/-- R126: the slot order of this boot, a trial's count reduced first. -/
def chooseOrder (s : State) : State :=
  match s.boot.order with
  | some _ => s
  | none =>
    match s.bootRecord with
    | none => s.setOrder (0, 1, false)
    | some (r, _) =>
      if r.trial ≠ 0xFF ∧ 0 < r.left then
        (s.writeBootRecord fun r => { r with left := r.left - 1 }).setOrder (r.trial, r.active, true)
      else s.setOrder (r.active, 1 - r.active, false)

/-- A byte range of a number written into memory: SRAM, or DRAM by full words. -/
def loadBytes (s : State) (a n v : Nat) : State :=
  if a < 0x800000000 then
    let put := fun (m : Store Byte) (i : Nat) => Store.put 0 m (a + i) (BitVec.ofNat 8 (v / 2 ^ (8 * i)))
    { s with sram := (List.range n).foldl put s.sram }
  else s.dramFill a (ceilDiv n 64) v

/-- The FAIL field of a slot: firmware A and B, microcode A and B. -/
def failFld (slot : Nat) : Fld :=
  if slot = 0 then R.FAIL_A else if slot = 1 then R.FAIL_B else if slot = 2 then R.MC_FAIL_A else R.MC_FAIL_B

/-- The spindle is told to stop: SPM_STATE shows it at rest, or stopping. -/
def spindleStop (s : State) : State :=
  if s.rd R.SPM_RPM_NOW = 0 then s.wr R.SPM_STATE 0 else s.wr R.SPM_STATE 5

/-- R132: recovery mode: PIP high, the spindle stopped, the SAS ports off. -/
def enterRecovery (s : State) : State :=
  let s := { s with boot := { s.boot with phase := .recovery }, dom := { s.dom with hphy := s.dom.hphy % 16 } }
  let s := (((s.wr R.BOOT_RECOVERY 1).wr R.PIP_RUN 0).wr R.PIP_LEVEL 1).wr R.SPM_RPM 0
  s.spindleStop

/-- R130: a firmware image accepted from slot `n`: its payload stands at its load address. -/
def acceptFirmware (s : State) (i : Image) (n : Nat) (first trial : Bool) : State :=
  let s := s.loadBytes (loadAddress i) (payloadSize i) i.payload
  let s := { s with boot := { s.boot with phase := .firmwareLoaded, firmware := some i } }
  let s := ((s.wr R.BOOT_SLOT n).wrFlag R.BOOT_FALLBACK (!first)).wrFlag R.BOOT_TRIAL (trial && first)
  (s.wr R.BOOT_KEYSLOT (keySlot i)).wr R.BOOT_SVN (securityVersion i)

/-- R130: the check of the next firmware slot ends. A payload bound for DRAM waits for DRAM_READY. -/
def firmwareSlotCheck (s : State) (norError : Bool) : State :=
  if s.boot.phase ≠ .rom then s
  else
    let s := s.chooseOrder
    match s.boot.order with
    | none => s
    | some (a, b, trial) =>
      let first := s.rd (failFld a) == 0xF
      let n := if first then a else b
      let code := match Store.get none s.boot.slots n with
        | some i => imageCode s.fuses i false norError
        | none => if norError then 10 else 1
      match Store.get none s.boot.slots n with
      | some i =>
        if code = 0 ∧ 0x800000000 ≤ loadAddress i ∧ ¬ s.flag R.DRAM_READY then s
        else
          let s := s.wr (failFld n) code
          if code = 0 then s.acceptFirmware i n first trial else if first then s else s.enterRecovery
      | none => let s := s.wr (failFld n) code
        if first then s else s.enterRecovery

/-- R130, R390: a microcode image accepted from slot `n`. -/
def acceptMicrocode (s : State) (i : Image) (n : Nat) : State :=
  let s := { s with boot := { s.boot with phase := .microcodeLoaded, microcode := some i } }
  let s := ((s.wr R.MC_LOADED 1).wr R.MC_SLOT n).loadImage i actuators 0
  (imageTargets i actuators).foldl (fun s p => s.bootTarget p.2) s

/-- R126, R130, R131: the check of the next microcode slot ends: the slot of the firmware's letter first. -/
def microcodeSlotCheck (s : State) (norError : Bool) : State :=
  if s.boot.phase ≠ .firmwareLoaded then s
  else
    let a := s.rd R.BOOT_SLOT
    let n := if s.rd (failFld (2 + a)) == 0xF then a else 1 - a
    if s.rd (failFld (2 + n)) ≠ 0xF then s
    else match Store.get none s.boot.slots (2 + n) with
      | some i =>
        let code := imageCode s.fuses i true norError
        let s := s.wr (failFld (2 + n)) code
        if code = 0 then s.acceptMicrocode i n else s
      | none => s.wr (failFld (2 + n)) (if norError then 10 else 1)

/-- R130: measurements extended, PIP toggling enabled, the firmware entered. Every microcode slot tried and refused leaves
MC_LOADED at 0 (R131). -/
def firmwareEntry (s : State) : State :=
  let triedBoth := s.rd R.MC_FAIL_A != 0xF && s.rd R.MC_FAIL_B != 0xF
  if s.boot.phase = .microcodeLoaded ∨ (s.boot.phase = .firmwareLoaded ∧ triedBoth) then
    let f := { s.fcu with pipPhase := 0, pipTicks := 16 }
    ({ s with boot := { s.boot with phase := .firmware }, fcu := f }).wr R.PIP_RUN 1
  else s

/-! ### Identity keys (R144) -/

/-- R144: the DevID seed. -/
def devidSeed (s : State) : Nat := Config.shake256 512 32 s.fuses.secret

/-- R144: the alias seed: secret, firmware header bytes 0x000 to 0x777 and LIFECYCLE. -/
def aliasSeed (s : State) : Nat :=
  let h := match s.boot.firmware with
    | some i => signedMessage i
    | none => 0
  Config.shake256 512 (32 + 0x778 + 1) (s.fuses.secret + 2 ^ 256 * (h + 2 ^ (8 * 0x778) * s.fuses.lifecycle))

/-- R144, R150: the DevID key is ready and its hash readable. -/
def devidReady (s : State) : State :=
  let h := Config.shake256 256 1793 (Config.falconPublic s.devidSeed)
  ((List.range 8).foldl (fun s k => s.wr (R.DEVID_HASH_W k) (field h (32 * k) 32)) s).wr R.DEVID_READY 1

/-- Firmware runs. -/
def firmwareRuns (s : State) : Bool := decide (s.boot.phase = BootPhase.firmware)

/-! ### The spindle (R122, R437 to R441) -/

/-- R675: EXTEST, CLAMP or HIGHZ is in effect: every bridge is off. -/
def boundaryOn (s : State) : Bool := s.tap.ir == 0 || s.tap.ir == 4 || s.tap.ir == 5

/-- R675, R80: the drive does not follow its commands: in boundary scan every bridge is off, and in regeneration the bridge
feeds VBULK. -/
def driveHeld (s : State) : Bool := s.boundaryOn || s.flag R.SPM_REGEN

/-- R122, R123, R611: the spindle is commanded to turn: from rest by alignment, else from its speed. While SPM_STALL is set
the drive stays off (R441), as it does while it is held. -/
def spinTo (s : State) (rpm : Nat) : State :=
  let s := s.wr R.SPM_RPM rpm
  if s.flag R.SPM_STALL || s.driveHeld then s
  else
    let s := { s with pwr := { s.pwr with brake := false } }
    if s.rd R.SPM_RPM_NOW = 0 then (s.count R.SPIN_STARTS).wr R.SPM_STATE 1
    else if s.rd R.SPM_RPM_NOW < rpm then s.wr R.SPM_STATE 3
    else if rpm < s.rd R.SPM_RPM_NOW then s.wr R.SPM_STATE 5
    else s

/-- R440: below SPM_BRAKE_RPM * 10 the dynamic brake is applied. -/
def brakeIfSlow (s : State) : State :=
  if s.rd R.SPM_RPM_NOW < 10 * s.rd R.SPM_BRAKE_RPM then
    ({ s with pwr := { s.pwr with brake := true } }).wr R.SPM_STATE 7 else s

/-- R439: the set speed stopped. -/
def spinStop (s : State) : State :=
  let s := (s.wr R.SPM_RPM 0).setAtSpeed false
  if s.driveHeld then s
  else if s.rd R.SPM_RPM_NOW = 0 then s.wr R.SPM_STATE 0 else (s.wr R.SPM_STATE 5).brakeIfSlow

/-- R439: an actuator is loaded: its heads are off the ramp. -/
def anyLoaded (s : State) : Bool := actuators.any fun n => !s.flag (R.PARKED n)

/-- R439: a speed written to SPM_RPM as it is taken. -/
def clampRpm (s : State) (v : Nat) : Nat :=
  if v = 0 then 0 else let c := clamp 2700 10000 v
    if s.anyLoaded then max 5400 c else c

/-- R439: a write of SPM_RPM. -/
def setSpeed (s : State) (v : Nat) : State :=
  let r := s.clampRpm v
  if r = 0 then s.spinStop
  else (if r = s.rd R.SPM_RPM then s else s.setAtSpeed false).spinTo r

/-! ### Keep store replay (R139 to R142) -/

/-- The image of an area. -/
def area (s : State) (a : Nat) : Option KeepImage := if a = 0 then s.ksc.area0 else s.ksc.area1

/-- The image of an area replaced. -/
def putArea (s : State) (a : Nat) (i : Option KeepImage) : State :=
  if a = 0 then { s with ksc := { s.ksc with area0 := i } } else { s with ksc := { s.ksc with area1 := i } }

/-- R140: REPLAY_GO. -/
def replayGo (s : State) (a : Nat) : State :=
  let s := s.wr R.REPLAY_AREA a
  if s.flag R.REPLAY_BUSY then s
  else ({ s with ksc := { s.ksc with replaying := some a }, dom := { s.dom with ksc := true } }).wr R.REPLAY_BUSY 1

/-- R82, R140: a replayed block stands in the buffer again, visible, not on media. -/
def restoreBlock (b : BufBlock) : BufBlock := { b with visible := true, queued := false, onMedia := false }

/-- R608: a record of an image lies above the archive's highest SEQ and does not wait already. -/
def tallyUnarchived (s : State) (r : TlyRec) : Bool :=
  (s.tly.archive.all fun e => match e.2 with
    | some q => decide (q.seq < r.seq)
    | none => true) && s.tly.imageRecs.all fun q => q.seq != r.seq

/-- R140: the replay ends, or stops on a CRC-32C mismatch. -/
def replayEnd (s : State) (crcError : Bool) : State :=
  match s.ksc.replaying with
  | none => s
  | some a =>
    let k := { s.ksc with replaying := none }
    let s := ({ s with ksc := k, dom := { s.dom with ksc := false } }).wr R.REPLAY_BUSY 0
    match s.area a with
    | none => s
    | some i =>
      if crcError || i.badCrc then (s.wr R.REPLAY_ERR 1).detect 113
      else
        let m := { s.media with buffer := s.media.buffer ++ i.buffer.map restoreBlock, replayed := some i.tables }
        let recs := (i.tally.filter s.tallyUnarchived).map fun r => { r with fromImage := true }
        let t := { s.tly with imageRecs := s.tly.imageRecs ++ recs }
        ({ s with media := m, tly := t }).putArea a (some { i with replayed := true })

/-- R141: a CONSUME request accepted or refused. -/
def consumeGo (s : State) (a : Nat) : State :=
  let s := s.wr R.REPLAY_AREA a
  match s.area a with
  | some i =>
    if !s.flag R.REPLAY_BUSY && i.replayed && s.flag R.HOLDUP_OK then
      { s with ksc := { s.ksc with consuming := some a } }
    else s.wr R.CONSUME_REFUSED 1
  | none => s.wr R.CONSUME_REFUSED 1

/-- R141: the consumed marker is written. -/
def consumeDone (s : State) : State :=
  match s.ksc.consuming with
  | none => s
  | some a =>
    ({ s with ksc := { s.ksc with consuming := none } }).putArea a
      ((s.area a).map fun (i : KeepImage) => { i with consumed := true })

/-! ### Fuses (R134 to R136, R558) -/

/-- R136: the burn under way takes effect. -/
def burnDone (s : State) : State :=
  let f := match s.boot.burn with
    | none => s.fuses
    | some (.revoke k) => { s.fuses with revoked := s.fuses.revoked ||| 2 ^ k }
    | some (.fwSvn v) => { s.fuses with fwSvnMin := v }
    | some (.mcSvn v) => { s.fuses with mcSvnMin := v }
    | some (.spareRow r) => { s.fuses with spareRows := Store.put none s.fuses.spareRows r (Store.get none s.dram.soft r) }
  { s with fuses := f, boot := { s.boot with burn := none } }

end State

/-- AON_POWER_ON (R117). -/
def execAonPowerOn (s : State) : Result := .next s.aonPowerOn

/-- AON_SUPPLY_LOSS (R85): it follows a loss of the input. -/
def execAonSupplyLoss (s : State) : Result := .next (if s.dom.pstg then s else s.aonSupplyLoss)

/-- CORE_RESET_RELEASE (R121, R57). -/
def execCoreResetRelease (bifsel : BitVec 2) (s : State) : Result :=
  .next (if s.flag R.CCLK_LOCK && decide (s.boot.phase = BootPhase.held) && s.dom.pstg then
    s.coreRelease bifsel.toNat else s)

/-- DRAM_READY (R121, R138, R556): the spare-row fuse map is loaded before training. -/
def execDramReady (s : State) : Result :=
  .next (if s.flag R.DCLK_LOCK && s.dom.core then
    (({ s with dom := { s.dom with dram := true }
               dram := { s.dram with fused := s.fuses.spareRows } }).wr R.DRAM_READY 1).countSpares
  else s)

/-- FIRMWARE_SLOT_CHECK (R126, R130, R132). -/
def execFirmwareSlotCheck (norError : Bool) (s : State) : Result := .next (s.firmwareSlotCheck norError)

/-- MICROCODE_SLOT_CHECK (R126, R130, R131, R389, R390). -/
def execMicrocodeSlotCheck (norError : Bool) (s : State) : Result := .next (s.microcodeSlotCheck norError)

/-- FIRMWARE_ENTRY (R130). -/
def execFirmwareEntry (s : State) : Result := .next s.firmwareEntry

/-- SPIN_UP (R121 to R123): commanded at boot where SPIN_AT_BOOT = 1, else by firmware, at the set speed, 7,200 rpm where none
is set. -/
def execSpinUp (s : State) : Result :=
  .next (if s.dom.pstg && !s.flag R.BOOT_RECOVERY && (s.spinAtBoot || s.firmwareRuns) then
    s.spinTo (if s.rd R.SPM_RPM = 0 then 7200 else s.rd R.SPM_RPM) else s)

/-- SPINDLE_AT_SPEED (R438, R445): `within` where the speed has held within the band for 16 revolutions. -/
def execSpindleAtSpeed (rpm : BitVec 14) (within : Bool) (s : State) : Result :=
  .next (if s.rd R.SPM_RPM = 0 || s.driveHeld then s
    else
      let s := (s.wr R.SPM_RPM_NOW rpm.toNat).setAtSpeed within
      if within then s.wr R.SPM_STATE 4
      else s.wr R.SPM_STATE (if rpm.toNat < s.rd R.SPM_RPM then 3 else 5))

/-- SPINDLE_STALL (R441, R445): commanded to turn, with no zero crossing for 200 ms. -/
def execSpindleStall (s : State) : Result :=
  .next (if s.rd R.SPM_RPM = 0 || s.driveHeld then s
    else ((((s.wr R.SPM_STALL 1).wr R.SPM_STATE 0).setAtSpeed false).wr R.SPM_RPM_NOW 0).raise 153 |>.detect 320)

/-- REPLAY_GO (R140). -/
def execReplayGo (area : Fin 2) (s : State) : Result := .next (s.access R.REPLAY_GO fun s => s.replayGo area.val)

/-- REPLAY_COMPLETE (R140). -/
def execReplayComplete (crcError : Bool) (s : State) : Result := .next (s.replayEnd crcError)

/-- CONSUME (R141). -/
def execConsume (area : Fin 2) (s : State) : Result := .next (s.access R.CONSUME fun s => s.consumeGo area.val)

/-- CONSUME_MARKER_WRITTEN (R141). -/
def execConsumeMarkerWritten (s : State) : Result := .next s.consumeDone

/-- DEVICE_RESET (R117 to R119). A request from the debug port or TST instruction counts as JTAG. -/
def execDeviceReset (request : ResetRequest) (s : State) : Result :=
  .next (s.deviceReset (match request with
    | .fcu => R.RC_FCU
    | .software => R.RC_SW
    | .jtag => R.RC_JTAG))

/-- ACTUATOR_RESET (R117, R119): RST_ACT written with the key. -/
def execActuatorReset (mask : BitVec 4) (s : State) : Result :=
  .next (actuators.foldl (fun s n => if mask.toNat.testBit n then s.actuatorReset n else s) s)

/-- FUSE_BURN_COMPLETE (R136). -/
def execFuseBurnComplete (s : State) : Result := .next s.burnDone

end Sys2Proof.Machine
end

