-- ==== Sys2Proof/Machine/Clocks.lean ====
section
/-!
DEFINITION. Machine/Clocks.lean: oscillators, PLLs, and the internal power states (chapter 03).
-/
namespace Sys2Proof.Machine

open Arith

/-- The lock bit of a PLL (R113). -/
def lockFld : Pll → Fld
  | .cclk => R.CCLK_LOCK
  | .aclk => R.ACLK_LOCK
  | .sclk => R.SCLK_LOCK
  | .dclk => R.DCLK_LOCK
  | .sasclk => R.SASCLK_LOCK

/-- R98, R590: the FCU source of a PLL's lock loss. -/
def unlockSource : Pll → Nat
  | .cclk => 412
  | .aclk => 130
  | .sclk => 293
  | .dclk => 98
  | .sasclk => 14

namespace State

/-- R97: the domain a PLL clocks leaves reset on its lock; CORE and DRAM wait for CORE_RESET_RELEASE and DRAM_READY. -/
def domainsUp (s : State) : Pll → Domains
  | .aclk => { s.dom with abx := true }
  | .sclk => { s.dom with svt := true, spare := true, med := 15 }
  | .sasclk => { s.dom with hphy := s.dom.hphy ||| 0x30 }
  | _ => s.dom

/-- R98: the domain a PLL clocks is on. -/
def clockedOn (s : State) : Pll → Bool
  | .cclk => s.dom.core
  | .aclk => s.dom.abx
  | .sclk => s.dom.svt
  | .dclk => s.dom.dram
  | .sasclk => s.dom.hphy / 16 != 0

/-- R102: the endpoints: PCIe ports that exist, and the two SAS ports. -/
def endpoints (s : State) : List Nat := (List.range 6).filter fun p => p ≥ 4 || s.flag (R.PORT_PRESENT p)

/-- R102: the shallowest state requested; an endpoint with no request contributes Active. -/
def shallowest (s : State) : Nat := s.endpoints.foldl (fun m p => min m (Store.get 0 s.pm.request p)) 4

/-- R102, R105, R106: the target recomputed. The device heads for it from its current point; background media work stops
as a transition to Idle-B or deeper begins. Sleep lies inside Standby (R109). -/
def retarget (s : State) : State :=
  let req := s.shallowest
  let t := max req (min s.pm.timerDepth (s.rd R.IDLE_DEPTH_MAX))
  let s := (s.wr R.REQ_DEPTH req).wr R.PSTATE_TARGET t
  let now := min 4 (s.rd R.PSTATE_NOW)
  let s := s.wrFlag R.PSTATE_BUSY (t != now)
  if 2 ≤ t ∧ t ≠ now then { s with pm := { s.pm with backgroundStopped := true } } else s

/-- R103, R104, R106: an I/O command arrives or completes: the idle timers start again. -/
def ioActivity (s : State) : State := ({ s with pm := { s.pm with timerDepth := 0 } }).retarget

/-- R102, R110 to R112: endpoint `p` (PCIe 0 to 3, SAS 4 and 5) requests state `st`. -/
def requestState (s : State) (p st : Nat) : State :=
  ({ s with pm := { s.pm with request := Store.put 0 s.pm.request p st } }).retarget

/-- R103: the period of idle timer `d` (1 Idle-A to 4 Standby), in ms. -/
def idleMs (s : State) (d : Nat) : Nat :=
  if d = 1 then s.rd R.IDLE_A_MS else if d = 2 then s.rd R.IDLE_B_MS
  else if d = 3 then s.rd R.IDLE_C_MS else s.rd R.IDLE_S_MS

/-- R115: the depth the timers reach as timer `d` expires: an enabled deeper timer with no greater value expires together with
it. -/
def expiryDepth (s : State) (d : Nat) : Nat :=
  [2, 3, 4].foldl (fun m e => if d < e ∧ s.idleMs e ≠ 0 ∧ s.idleMs e ≤ s.idleMs d then max m e else m) d

/-- R99, R362: a transition to `t` can complete: heads unloaded and no LLR slot held from Idle-B on, the buffer on media
from Idle-C on (R100). -/
def canEnter (s : State) (t : Nat) : Bool :=
  (decide (t < 2) || (actuators.all (fun n => s.rd (R.VCM_STATE n) == 5) && s.abx.llr.isEmpty))
    && (decide (t < 3) || !s.bufferDirty)

/-- R490: entry to Idle-A: zero codes on every placed slot; lane outputs are ignored until Active. -/
def zeroCodes (s : State) : State :=
  (List.range 8).foldl (fun s k =>
    if s.flag (R.SLOT_PLACED k) then (s.sendCode k 0 false).modAsd k fun a => { a with due := none } else s) s

/-- R99: what holds on arrival in state `t`. -/
def enterState (s : State) (t : Nat) : State :=
  let s := (s.wr R.PSTATE_NOW t).wr R.PSTATE_BUSY 0
  let off := decide (2 ≤ t)
  let d := if off then { s.dom with abx := false, med := 0, svt := false, spare := false }
    else { s.dom with abx := true, med := 15, svt := true, spare := true }
  let lanes := !off && !s.dom.svt
  let s := ({ s with dom := d }).wrFlag R.CCLK_LOW off
  let s := if lanes then { s.startLanes with svt := { s.svt with acts := [], phase := 0 } } else s
  let s := if t = 0 then { s with pm := { s.pm with backgroundStopped := false } } else s
  let s := if t = 1 then s.zeroCodes else s
  let s := if t = 3 then (s.wr R.SPM_RPM_NOW 4800).setAtSpeed false else s
  if t = 4 then (((s.wr R.SPM_RPM_NOW 0).setAtSpeed false).wr R.SPM_STATE 0).wr R.HOLDUP_OK 0 else s

end State

/-- XT32_STABLE (R91). -/
def execXt32Stable (s : State) : Result := .next (if s.dom.aon then s.wr R.XT32_OK 1 else s)

/-- XT25_STABLE (R97). -/
def execXt25Stable (s : State) : Result := .next (if s.pwr.xt25En then s.wr R.XT25_OK 1 else s)

/-- PLL_LOCK (R97): no PLL starts before INRUSH_DONE = 1 (R67), and each takes its reference from the 25 MHz crystal. -/
def execPllLock (pll : Pll) (s : State) : Result :=
  .next (if s.flag R.XT25_OK && s.flag R.INRUSH_DONE then
    ({ s with dom := s.domainsUp pll }).wr (lockFld pll) 1 else s)

/-- PLL_UNLOCK (R98). -/
def execPllUnlock (pll : Pll) (s : State) : Result :=
  .next (if s.flag (lockFld pll) && s.clockedOn pll then
    ((s.wr (lockFld pll) 0).count R.PLL_UNLOCK_CNT).detect (unlockSource pll) else s)

/-- CAL_TEMP_COMP (R92): the parabolic correction TC_COEF * (T - TC_TURN)^2, applied to the 16 s just counted. -/
def execCalTempComp (tempC : BitVec 8) (s : State) : Result :=
  .next (
    let t := signed 8 tempC.toNat - signed 8 (s.rd R.TC_TURN)
    let ppb := signed 16 (s.rd R.TC_COEF) * t * t
    let ns := s.pwr.calNs - 16 * ppb
    let ms := (s.rd R.CAL_MS_LO + 2 ^ 32 * s.rd R.CAL_MS_HI : Nat) + ns / 1000000
    let m := unsigned 48 ms
    let s := { s with pwr := { s.pwr with calPpb := ppb, calNs := ns % 1000000 } }
    (s.wr R.CAL_MS_LO m).wr R.CAL_MS_HI (m / 2 ^ 32))

/-- BANDGAP_RETRIM (R94): the references of a site take the THM reading there. -/
def execBandgapRetrim (site : Fin 12) (s : State) : Result :=
  .next { s with pwr := { s.pwr with
    bandgapTrim := Store.put 0 s.pwr.bandgapTrim site.val (s.rd (R.SENS_T site.val)) } }

/-- IDLE_TIMER_EXPIRY (R103, R104, R115): the timer of state `depth` + 1 expires; an arrival in the same cycle prevails. -/
def execIdleTimerExpiry (depth : Fin 4) (arrival : Bool) (s : State) : Result :=
  .next (if arrival then s.ioActivity
    else if s.idleMs (depth.val + 1) = 0 then s
    else ({ s with pm := { s.pm with timerDepth := max s.pm.timerDepth (s.expiryDepth (depth.val + 1)) } }).retarget)

/-- STATE_TRANSITION_COMPLETE (R99, R100). -/
def execStateTransitionComplete (s : State) : Result :=
  .next (let t := s.rd R.PSTATE_TARGET
    if s.flag R.PSTATE_BUSY && s.canEnter t && decide (s.rd R.PSTATE_NOW < 5) then
      (if 2 ≤ t then s.abandonWarm else s).enterState t
    else s)

/-- SLEEP_ENTRY (R101): from Standby, every configured port in L1.2 for SLEEP_DLY_MS, SLEEP_EN = 1. -/
def execSleepEntry (s : State) : Result :=
  .next (
    if s.rd R.PSTATE_NOW = 4 ∧ ¬ s.flag R.PSTATE_BUSY ∧ s.flag R.SLEEP_EN
        ∧ ((List.range 4).all fun p => !s.flag (R.PORT_PRESENT p) || s.flag (R.LINK_L12 p)) ∧ s.pm.l12Running then
      let s := { s with dom := { s.dom with core := false, hphy := 0, dram := false } }
      let s := (s.wr R.PSTATE_NOW 5).wr R.XT25_OK 0
      ((s.wr R.CCLK_LOCK 0).wr R.DCLK_LOCK 0).wr R.SASCLK_LOCK 0
    else s)

/-- WAKE_FROM_SLEEP (R101): to Standby, with the CORE and DRAM contents as they were. -/
def execWakeFromSleep (cause : WakeCause) (s : State) : Result :=
  .next (
    if s.rd R.PSTATE_NOW = 5 then
      let s := { s with dom := { s.dom with core := true, hphy := 0x3F, dram := true } }
      let s := (s.wr R.PSTATE_NOW 4).wr R.XT25_OK 1
      let s := ((s.wr R.CCLK_LOCK 1).wr R.DCLK_LOCK 1).wr R.SASCLK_LOCK 1
      match cause with
      | .l12Exit p => ({ s with pm := { s.pm with l12Running := false } }).wr (R.LINK_L12 p.val) 0
      | .perst => { s with pins := { s.pins with perstN := false } }
      | .retractReq => { s with pins := { s.pins with retractReqN := false } }
      | _ => s
    else s)

end Sys2Proof.Machine
end

