-- ==== Sys2Proof/Machine/Hosts.lean ====
section
/-!
DEFINITION. Machine/Hosts.lean: what the NVMe and SAS commands share: how commands end, the commands in flight, the hazard
table (chapter 06), zones, the journal and the write buffer (chapter 07).
-/
namespace Sys2Proof.Machine

open Arith

/-! ### How commands end (R165 to R168, R173, R185, R203, R204, R246) -/

/-- Success. -/
def doneOk : Done := {}
/-- A status with its SAS sense. -/
def doneSense (code key asc ascq : Nat) : Done := { code := code, sas := 2, key := key, asc := asc, ascq := ascq }
/-- R165, R166, R203: Invalid Command Opcode. -/
def invalidOpcode : Done := { doneSense 0x01 5 0x20 0 with dnr := true }
/-- Invalid Field in Command, or INVALID FIELD IN CDB. -/
def invalidField : Done := doneSense 0x02 5 0x24 0
/-- LBA Out of Range. -/
def lbaOutOfRange : Done := doneSense 0x80 5 0x21 0
/-- R163: Namespace Not Ready, DNR = 0, CRD = 1. -/
def namespaceNotReady : Done := { doneSense 0x82 2 0x04 0x01 with crd := 1 }
/-- R525: Capacity Exceeded. -/
def capacityExceeded : Done := doneSense 0x81 7 0x27 0x07
/-- R204: Zone Invalid Write. -/
def zoneInvalidWrite : Done := doneSense 0x1BC 5 0x21 0x04
/-- R204: Zone Boundary Error. -/
def zoneBoundaryError : Done := doneSense 0x1B8 5 0x21 0x05
/-- R204: Zone Is Full. -/
def zoneIsFull : Done := doneSense 0x1B9 5 0x21 0x04
/-- R204: Too Many Open Zones. -/
def tooManyOpen : Done := doneSense 0x1BE 7 0x0C 0x12
/-- R204: Zone Is Read Only. -/
def zoneIsReadOnly : Done := doneSense 0x1BA 7 0x27 0x08
/-- R204: Zone Is Offline. -/
def zoneIsOffline : Done := doneSense 0x1BB 3 0x2C 0x0E
/-- R246, R251: Unrecovered Read Error. -/
def unrecoveredRead : Done := doneSense 0x281 3 0x11 0
/-- R251: Write Fault. -/
def writeFault : Done := doneSense 0x280 3 0x0C 0
/-- R185: Command Abort Requested. -/
def abortRequested : Done := { code := 0x07 }
/-- R177: Command Aborted due to SQ Deletion. -/
def sqDeleted : Done := { code := 0x08 }
/-- R186: Command Aborted due to Failed Fused Command. -/
def failedFused : Done := { code := 0x05 }
/-- Command Aborted due to Missing Fused Command. -/
def missingFused : Done := { code := 0x0A }

namespace State

/-! ### Commands in flight -/

/-- R159, R584, R80: the CMU fetches commands and posts completions. -/
def cmuRunning (s : State) : Bool :=
  s.dom.core && !s.flag R.FATAL && !s.flag R.PF_ACTIVE && !s.boot.deviceReset

/-- The command that holds tag `t`. -/
def cmd (s : State) (t : Nat) : Option Cmd := s.hosts.cmds.find? fun c => c.tag == t

/-- The command that holds tag `t` changed. -/
def modCmd (s : State) (t : Nat) (f : Cmd → Cmd) : State :=
  { s with hosts := { s.hosts with cmds := s.hosts.cmds.map fun c => if c.tag = t then f c else c } }

/-- The command that holds tag `t` ends as `d`, unless it has ended. -/
def finish (s : State) (t : Nat) (d : Done) : State :=
  s.modCmd t fun c => if c.done.isSome then c else { c with done := some d }

/-- The controller of PCIe port `k`. -/
def ctrl (s : State) (k : Nat) : Ctrl := Store.get {} s.hosts.ctrl k

/-- The controller of PCIe port `k` changed. -/
def modCtrl (s : State) (k : Nat) (f : Ctrl → Ctrl) : State :=
  { s with hosts := { s.hosts with ctrl := Store.modify {} s.hosts.ctrl k f } }

/-- A namespace. -/
def namespaceOf (s : State) (ns : Nat) : Option Namespace := Store.get none s.nv.namespaces ns

/-! ### What a command asks (R209) -/

/-- What a command does to media, as R209 enters it. -/
inductive CmdKind where
  | read | write | append | ranges | zone | wholeNamespace | notEntered
  deriving DecidableEq, Repr

/-- The kind of an NVMe command; Dataset Management only where it deallocates (`cdw11` bit 2). -/
def nvmeKind (r : HostReq) : CmdKind :=
  if r.queue = 0 then if r.opcode = 0x80 ∨ r.opcode = 0x84 then .wholeNamespace else .notEntered
  else if r.opcode = 0x02 ∨ r.opcode = 0x05 ∨ r.opcode = 0x0C then .read
  else if r.opcode = 0x01 ∨ r.opcode = 0x08 then .write
  else if r.opcode = 0x7D then .append
  else if r.opcode = 0x09 ∧ r.cdw11 / 4 % 2 = 1 then .ranges
  else if r.opcode = 0x79 then .zone
  else .notEntered

/-- The kind of a SAS command. -/
def sasKind (r : HostReq) : CmdKind :=
  if [0x28, 0x88, 0x2F, 0x8F].contains r.opcode then .read
  else if [0x2A, 0x8A, 0x93].contains r.opcode then .write
  else if r.opcode = 0x42 then .ranges
  else if r.opcode = 0x94 then .zone
  else if r.opcode = 0x04 ∨ r.opcode = 0x48 then .wholeNamespace
  else .notEntered

/-- The kind of a command that came through `port`. -/
def kindOf (port : Nat) (r : HostReq) : CmdKind := if port < 4 then nvmeKind r else sasKind r

/-- R209: a kind is entered as a write. -/
def isWrite (k : CmdKind) : Bool := decide (k ≠ .read ∧ k ≠ .notEntered)

/-- R209: a fused Compare and Write enter as one write. -/
def entersAsWrite (port : Nat) (r : HostReq) : Bool := isWrite (kindOf port r) || (decide (port < 4) && r.fused != 0)

/-! ### Zones (R229 to R233) -/

/-- The key of zone `z` of a namespace. -/
def zoneKey (ns z : Nat) : Nat := ns * 2 ^ 32 + z

/-- A zone by its key. -/
def zone (s : State) (key : Nat) : Zone := Store.get {} s.media.tables.zones key

/-- A zone changed. -/
def modZone (s : State) (key : Nat) (f : Zone → Zone) : State :=
  let t := { s.media.tables with zones := Store.modify {} s.media.tables.zones key f }
  { s with media := { s.media with tables := t } }

/-- R233: active zone states. -/
def isActive (c : ZoneCond) : Bool := decide (c = .implicitlyOpened ∨ c = .explicitlyOpened ∨ c = .closed)

/-- ZONES_ACTIVE (R254). -/
def activeZones (s : State) : Nat := (s.media.tables.zones.filter fun e => isActive e.2.cond).length

/-- ZONES_ACTIVE brought up to date. -/
def refreshZones (s : State) : State := s.wr R.ZONES_ACTIVE s.activeZones

/-- R233: write contexts that active zones hold. -/
def contextsHeld (s : State) : Nat := (s.media.tables.zones.filter fun e => e.2.context).length

/-- R233: a zone takes a write context where one is free; else it waits. -/
def takeContext (s : State) (key : Nat) : State :=
  if (s.zone key).context then s
  else if s.contextsHeld < s.rd R.ZONE_CTX_COUNT then s.modZone key fun z => { z with context := true }
  else { s with media := { s.media with ctxWait := s.media.ctxWait ++ [key] } }

/-- R233: zones that wait take the contexts that are free, in order. -/
def grantContexts (s : State) : State :=
  s.media.ctxWait.foldl takeContext { s with media := { s.media with ctxWait := [] } }

/-- R232, R233: a zone's write context is released, and goes to a zone that waits. -/
def releaseContext (s : State) (key : Nat) : State := (s.modZone key fun z => { z with context := false }).grantContexts

/-- R233: a zone may become active: it is, or fewer than ZONE_CTX_COUNT zones are. -/
def mayActivate (s : State) (key : Nat) : Bool :=
  isActive (s.zone key).cond || decide (s.activeZones < s.rd R.ZONE_CTX_COUNT)

/-- R229: a zone moved to an active state. -/
def openZoneAs (s : State) (key : Nat) (c : ZoneCond) : State :=
  ((s.modZone key fun z => { z with cond := c }).takeContext key).refreshZones

/-! ### The journal (R240) -/

/-- R240: the bytes that the next change takes in the tail: no more than the tail may hold, or the change could never be made. -/
def entryBytes (s : State) : Nat := Config.journalBytes s.media.changes % (8 * 2 ^ 20 + 1)

/-- R240: the journal tail has room for one more change. -/
def journalRoom (s : State) : Bool := decide (s.media.tailBytes + s.entryBytes ≤ 8 * 2 ^ 20)

/-- R240: a change appended to the journal tail. -/
def journal (s : State) : State :=
  let b := s.media.tailBytes + s.entryBytes
  let t := { s.media.tables with stamp := s.media.tables.stamp + 1 }
  let m := { s.media with tables := t, tailBytes := b, changes := s.media.changes + 1 }
  (({ s with media := m }).wr R.JRNL_TAIL_256K (ceilDiv b 262144)).wr R.JRNL_FULL_STALL 0

/-- R240: a command whose change must wait for the tail. -/
def journalStall (s : State) : State := s.wr R.JRNL_FULL_STALL 1

/-! ### Hazards (R209 to R217) -/

/-- A part (LBA, length) holds block `b`. -/
def partHas (p : Nat × Nat) (b : Nat) : Bool := decide (p.1 ≤ b) && decide (b < p.1 + p.2)

/-- Two parts share a block. -/
def partsMeet (p q : Nat × Nat) : Bool := decide (p.1 < q.1 + q.2) && decide (q.1 < p.1 + p.2)

/-- R211: an entry holds later commands of kind `write` over block `b` of `ns`. -/
def entryHolds (e : HzEntry) (ns b : Nat) (write : Bool) : Bool :=
  e.ns == ns && (e.write || write) && e.parts.any fun p => partHas p b

/-- The commands that own an entry among the HZT's, by arrival. -/
def entryOf (s : State) (a : Nat) : List HzEntry := s.hosts.hzt.filter fun e => e.arrival == a

/-- R213: a barrier holds the command, or it is a barrier that has not started. -/
def barrierHolds (s : State) (c : Cmd) : Bool :=
  c.inHzt && ((c.barrier && !c.started) || s.hosts.cmds.any fun b =>
    b.barrier && b.req.ns == c.req.ns && decide (b.arrival < c.arrival) && b.inHzt
      && c.partner != some b.tag)

/-- R211: block `b` of command `c` is held behind an earlier command. -/
def blockHeld (s : State) (c : Cmd) (b : Nat) : Bool :=
  let w := entersAsWrite c.port c.req
  s.barrierHolds c || s.hosts.hzt.any fun e =>
    decide (e.arrival < c.arrival) && !e.owners.contains c.tag && entryHolds e c.req.ns b w

/-- R221: two entries conflict: the later is held behind the earlier. -/
def entriesMeet (e f : HzEntry) : Bool :=
  decide (e.arrival < f.arrival) && e.ns == f.ns && (e.write || f.write)
    && e.parts.any fun p => f.parts.any fun q => partsMeet p q

/-- HELD_CMDS (R221): commands with at least one held block. -/
def heldCommands (s : State) : Nat := (s.hosts.cmds.filter fun c =>
  s.barrierHolds c || s.hosts.hzt.any fun f => f.owners.contains c.tag && s.hosts.hzt.any fun e => entriesMeet e f).length

/-- HZT_STAT and HZT_CNT brought up to date (R221). -/
def refreshHzt (s : State) : State :=
  let n := s.hosts.hzt.length
  ((s.wr R.ENTRIES_USED n).raiseTo R.ENTRIES_PEAK n).wr R.HELD_CMDS s.heldCommands

/-- R211: whether a write block placed by arrival `a` is visible: no earlier entry holds it. -/
def visibleNow (s : State) (ns b a : Nat) : Bool :=
  !s.hosts.hzt.any fun e => decide (e.arrival < a) && entryHolds e ns b true

/-- R212: the parts an ended write's entry keeps: its blocks not yet visible. -/
def keptParts (s : State) (a : Nat) : List (Nat × Nat) :=
  (s.media.buffer.filter fun b => b.arrival == a && !b.visible).map fun b => (b.lba, 1)

/-- R212: an entry no command owns keeps only blocks not yet visible; an entry with none is released. -/
def trimEntries (s : State) : State :=
  let f := fun (e : HzEntry) => if e.owners.isEmpty then { e with parts := s.keptParts e.arrival } else e
  { s with hosts := { s.hosts with hzt := (s.hosts.hzt.map f).filter fun e => !e.parts.isEmpty } }

/-- R211, R212: one pass over the blocks not yet visible, in arrival order, and the entries trimmed. -/
def settle (s : State) : State :=
  let show1 := fun (s : State) (b : BufBlock) =>
    if b.visible || !s.visibleNow b.ns b.lba b.arrival then s
    else
      let m := s.media.buffer.map fun x =>
        if x.arrival = b.arrival ∧ x.ns = b.ns ∧ x.lba = b.lba then { x with visible := true } else x
      ({ s with media := { s.media with buffer := m } }).trimEntries
  (s.media.buffer.foldl show1 s).trimEntries.refreshHzt

/-- R212: the command's hold on its entries ends. -/
def disown (s : State) (t : Nat) : State :=
  let f := fun (e : HzEntry) => { e with owners := e.owners.filter fun o => o != t }
  ({ s with hosts := { s.hosts with hzt := s.hosts.hzt.map f } }).trimEntries.refreshHzt

/-- R214: the completion may commit: no earlier entry holds a block of it, but an earlier read where it writes. -/
def mayCommitCmd (s : State) (c : Cmd) : Bool :=
  !s.hosts.hzt.any fun f => f.owners.contains c.tag && s.hosts.hzt.any fun e =>
    entriesMeet e f && (e.write || !f.write) && !e.owners.contains c.tag

/-! ### The write buffer (R242 to R247) -/

/-- R242: blocks of the buffer in use or reserved. -/
def bufferUsed (s : State) : Nat :=
  s.media.buffer.length + s.media.back.length + (s.hosts.cmds.map fun c => c.reserved - c.received).foldl (· + ·) 0

/-- R242, R669: the buffer's size in blocks, as the perturbation caps it. -/
def bufferSize (s : State) : Nat :=
  if s.flag R.PERT_ARM then 16 * min 8192 (s.rd R.MTU_BUF_CAP_64K) else 131072

/-- BUF_USED_64K (R254). -/
def refreshBuffer (s : State) : State := s.wr R.BUF_USED_64K (min 8192 (ceilDiv s.bufferUsed 16))

/-- R211, R244: the newest visible data the buffer holds for a block. -/
def newestInBuffer (s : State) (ns b : Nat) : Option BufBlock :=
  (s.media.buffer.filter fun x => x.visible && x.ns == ns && x.lba == b).foldl
    (fun best x => match best with
      | none => some x
      | some y => if y.arrival ≤ x.arrival then some x else some y) none

/-- R238: the map unit of a block. -/
def mapUnit (ns b : Nat) : Nat := ns * 2 ^ 32 + b / 16

/-- The extent-map entry of a block's unit. -/
def mapped (s : State) (ns b : Nat) : Option MapEntry := Store.get none s.media.tables.map (mapUnit ns b)

/-- The zone number of a block. -/
def zoneOf (n : Namespace) (b : Nat) : Nat := if n.zoneBlocks = 0 then 0 else b / n.zoneBlocks

/-- Where a read takes a block from (R204, R232, R237, R244). -/
inductive Source where
  | buffer (b : BufBlock)
  | zeros
  | media
  | offline
  deriving DecidableEq, Repr

/-- R244: the source of a block. -/
def sourceOf (s : State) (ns b : Nat) : Source :=
  match s.namespaceOf ns with
  | none => .zeros
  | some n =>
    let z := s.zone (zoneKey ns (zoneOf n b))
    if n.zoned && decide (z.cond = .offline) then .offline
    else
      match s.newestInBuffer ns b with
      | some x => .buffer x
      | none =>
        if n.zoned then if z.wp ≤ b - zoneOf n b * n.zoneBlocks then .zeros else .media
        else if (s.mapped ns b).isSome then .media else .zeros

/-- R243: one block placed in the buffer by the write of arrival `a`. -/
def placeBlock (s : State) (ns b data a : Nat) : State :=
  let x : BufBlock := { ns := ns, lba := b, data := data, arrival := a, visible := s.visibleNow ns b a }
  let rest := s.media.buffer.filter fun y => !(y.arrival == a && y.ns == ns && y.lba == b)
  { s with media := { s.media with buffer := rest ++ [x] } }

/-- The zone action (1 Close, 2 Finish, 3 Open, 4 Reset) of a zone command. -/
def zoneAction (port : Nat) (r : HostReq) : Nat := if port < 4 then r.cdw13 % 256 else r.action

/-- R230, R232: arrival `a` comes after a Reset, not yet done, of the zone of `len` blocks that starts at `start`. -/
def resetBefore (s : State) (ns start len a : Nat) : Bool := s.hosts.cmds.any fun d =>
  decide (kindOf d.port d.req = .zone) && zoneAction d.port d.req == 4 && d.inHzt && d.done.isNone && d.req.ns == ns
    && decide (d.arrival < a) && (d.req.all || d.req.lba / len == start / len)

/-- R247: the write pointer moved over the received blocks that follow it, at most `fuel`. -/
def advanceWp (s : State) (ns key start cap : Nat) : (fuel : Nat) → State
  | 0 => s
  | fuel + 1 =>
    let z := s.zone key
    if z.wp < cap ∧ s.media.buffer.any (fun x =>
        x.ns == ns && x.lba == start + z.wp && !s.resetBefore ns start cap x.arrival) then
      (s.modZone key fun z => { z with wp := z.wp + 1 }).advanceWp ns key start cap fuel
    else s

/-- R229, R233: a zone whose write pointer reached its capacity is Full. -/
def fillCheck (s : State) (key cap : Nat) : State :=
  if isActive (s.zone key).cond && decide (cap ≤ (s.zone key).wp) then
    (s.modZone key fun z => { z with cond := .full }).refreshZones else s

/-- The zone of a block follows the blocks received there. -/
def followZone (s : State) (ns b : Nat) : State :=
  match s.namespaceOf ns with
  | some n =>
    if n.zoned then
      let z := zoneOf n b
      (s.advanceWp ns (zoneKey ns z) (z * n.zoneBlocks) n.zoneBlocks s.media.buffer.length).fillCheck
        (zoneKey ns z) n.zoneBlocks
    else s
  | none => s

/-! ### Arrival's judgement (R163, R204, R230, R525) -/

/-- R204: the first condition that a write or append of `len` blocks at `b` meets, in the order of R204. -/
def judgeZoneWrite (s : State) (ns b len : Nat) (append : Bool) : Option Done :=
  match s.namespaceOf ns with
  | none => some (doneSense 0x0B 5 0x25 0)
  | some n =>
    if !n.zoned then if n.size < b + len then some lbaOutOfRange else none
    else
      let zi := zoneOf n b
      let key := zoneKey ns zi
      let z := s.zone key
      let at_ := if append then z.ap else b - zi * n.zoneBlocks
      if n.size ≤ b then some lbaOutOfRange
      else if z.cond = .offline then some zoneIsOffline
      else if z.cond = .readOnly then some zoneIsReadOnly
      else if n.zoneBlocks ≤ z.ap then some zoneIsFull
      else if n.zoneBlocks < at_ + len then some zoneBoundaryError
      else if at_ ≠ z.ap then some zoneInvalidWrite
      else if z.ratio.getD n.ratio ≠ 0 ∧ s.flag (R.EXT_STOP (ns - 1)) then some capacityExceeded
      else if !s.mayActivate key then some tooManyOpen
      else none

/-- R229, R230: an accepted write or append advances the arrival pointer and opens its zone; it starts at the block
returned. -/
def acceptZoneWrite (s : State) (ns b len : Nat) (append : Bool) : State × Nat :=
  match s.namespaceOf ns with
  | none => (s, b)
  | some n =>
    if !n.zoned then (s, b)
    else
      let zi := zoneOf n b
      let key := zoneKey ns zi
      let z := s.zone key
      let lba := if append then zi * n.zoneBlocks + z.ap else b
      let s := s.modZone key fun z => { z with ap := z.ap + len }
      (if z.cond = .empty ∨ z.cond = .closed then s.openZoneAs key .implicitlyOpened else s, lba)

/-- R163: a command needs media: some block of it has no data in the buffer and is covered by no earlier-arrived write. -/
def needsMedia (s : State) (ns b len : Nat) : Bool :=
  (List.range len).any fun i =>
    (s.newestInBuffer ns (b + i)).isNone
      && !s.hosts.hzt.any fun e => e.write && e.ns == ns && e.parts.any fun p => partHas p (b + i)

/-- R163, R209: the blocks of a zone command, as (LBA, length): its zone, or the whole namespace. -/
def zoneBlocksOf (n : Namespace) (r : HostReq) : Nat × Nat :=
  if r.all then (0, n.size) else (zoneOf n r.lba * n.zoneBlocks, n.zoneBlocks)

/-- R231: an accepted write or append of arrival `a` that ends short resets the arrival pointer to the write pointer; later
writes of the zone that have received no block fail. -/
def shortWrite (s : State) (c : Cmd) : State :=
  match s.namespaceOf c.req.ns with
  | none => s
  | some n =>
    if !n.zoned then s
    else
      let zi := zoneOf n c.lba
      let key := zoneKey c.req.ns zi
      let s := s.modZone key fun z => { z with ap := z.wp }
      let later := s.hosts.cmds.filter fun d => decide (c.arrival < d.arrival) && d.req.ns == c.req.ns
        && d.received == 0 && d.done.isNone && d.inHzt && zoneOf n d.lba == zi
      later.foldl (fun s d =>
        let k := kindOf d.port d.req
        if k = .write then s.finish d.tag zoneInvalidWrite
        else if k = .append then
          let lba := zi * n.zoneBlocks + (s.zone key).ap
          let s := s.modZone key fun z => { z with ap := z.ap + d.req.blocks }
          let s := s.modCmd d.tag fun c => { c with lba := lba }
          let f := fun (e : HzEntry) => if e.owners.contains d.tag then { e with parts := [(lba, d.req.blocks)] } else e
          { s with hosts := { s.hosts with hzt := s.hosts.hzt.map f } }
        else s) s

/-! ### Reading blocks (R211, R244) -/

/-- The command has taken block `i`. -/
def took (c : Cmd) (i : Nat) : Bool := (Store.get none c.got i).isSome

/-- R211: the blocks a read has not taken. -/
def missing (c : Cmd) : List Nat := (List.range c.req.blocks).filter fun i => !took c i

/-- R337: the location of a sector: sector, track and surface. -/
def location (surface track sector : Nat) : Nat := sector + 2 ^ 12 * track + 2 ^ 36 * surface

/-- R514: the Pack ratio of a zone. -/
def zoneRatio (s : State) (ns zi : Nat) : Nat :=
  (s.zone (zoneKey ns zi)).ratio.getD (match s.namespaceOf ns with
    | some n => n.ratio
    | none => 0)

/-- R515: slot sectors of a Pack block at a ratio. -/
def slotSectors (ratio : Nat) : Nat := if ratio = 0 then 16 else if ratio = 1 then 12 else 8

/-- R248, R250: the place of sector `idx` of a band that slips the places `slips` (rising). -/
def pastSlips (slips : List Nat) (idx : Nat) : Nat := slips.foldl (fun r x => if x ≤ r then r + 1 else r) idx

/-- R228: the location of place `r` of a zone's band. -/
def placeLoc (s : State) (ns zi r : Nat) : Nat :=
  let p := Config.zonePlace ns zi (s.zoneRatio ns zi) r
  location (8 * ((zi + ns) % 4) + p / 2 ^ 48 % 8) (p / 2 ^ 24 % 2 ^ 24) (p % 2 ^ 12)

/-- R228: the location of sector `idx` of a zone's band. -/
def bandLoc (s : State) (ns zi idx : Nat) : Nat :=
  s.placeLoc ns zi (pastSlips (s.zone (zoneKey ns zi)).slips idx)

/-- R244, R250: where a location's data stands now. -/
def relocated (s : State) (l : Nat) : Nat := Store.get l s.media.tables.reloc l

/-- R524: the slot-area sectors of a zone's band. -/
def slotArea (s : State) (n : Namespace) (ns zi : Nat) : Nat := slotSectors (s.zoneRatio ns zi) * (n.zoneBlocks / 16)

/-- R515: the sectors of a zone's band without its slip sectors. -/
def bandSize (s : State) (n : Namespace) (ns zi : Nat) : Nat :=
  let a := s.slotArea n ns zi
  if s.zoneRatio ns zi = 0 then n.zoneBlocks else a + ceilDiv (a * n.ovfPct) 100

/-- R228, R237, R244: where a block that is stored raw stands. -/
def homeOf (s : State) (ns b : Nat) : Nat := match s.namespaceOf ns with
  | some n =>
    if n.zoned then s.bandLoc ns (zoneOf n b) (b - zoneOf n b * n.zoneBlocks)
    else match s.mapped ns b with
      | some e => e.loc + b % 16
      | none => 0
  | none => 0

/-- R237, R519: a block is stored in a Pack block. -/
def isPacked (s : State) (ns b : Nat) : Bool := match s.namespaceOf ns with
  | some n =>
    if n.zoned then s.zoneRatio ns (zoneOf n b) != 0
    else match s.mapped ns b with
      | some e => e.packed
      | none => false
  | none => false

/-- R524, R526: the stored sectors of a block's Pack block that its place alone gives: the slot sectors, or the unit's. -/
def packPlaces (s : State) (ns b : Nat) : List Nat := match s.namespaceOf ns with
  | some n =>
    if n.zoned then
      let zi := zoneOf n b
      let k := slotSectors (s.zoneRatio ns zi)
      (List.range k).map fun j => s.bandLoc ns zi (k * ((b - zi * n.zoneBlocks) / 16) + j)
    else match s.mapped ns b with
      | some e => (List.range e.len).map fun j => e.loc + j
      | none => []
  | none => []

/-- R251: a block of a conventional namespace stands on an actuator declared failed. -/
def onFailed (s : State) (ns b : Nat) : Bool :=
  (match s.namespaceOf ns with
    | some n => !n.zoned
    | none => false) && match s.mapped ns b with
    | some e => s.flag (R.ACT_FAIL_DECL (e.loc / 2 ^ 36 % 32 / 8))
    | none => false

/-- R211: the command takes every block that is not held and that the buffer, or a source without media, gives. -/
def takeBlock (s : State) (t i : Nat) : State :=
  match s.cmd t with
  | none => s
  | some c =>
    if took c i || s.blockHeld c (c.lba + i) then s
    else
      let put := fun (g : Got) => s.modCmd t fun c => { c with got := Store.put none c.got i (some g) }
      match s.sourceOf c.req.ns (c.lba + i) with
      | .buffer b => put (if b.poisoned then .unreadable else .data b.data)
      | .zeros => put (.data 0)
      | .offline => put .unreadable
      | .media => if s.onFailed c.req.ns (c.lba + i) then put .unreadable else s

/-- The sectors a read of a block needs, with what each serves (R526). -/
def readPlan (s : State) (kind : OpKind) (tag : Option Nat) (ns b : Nat) : List (Nat × Serve) :=
  if s.isPacked ns b then
    let l := s.packPlaces ns b
    ((List.range l.length).zip l).map fun p => (s.relocated p.2, ⟨kind, tag, ns, b / 16 * 16, true, p.1⟩)
  else [(s.relocated (s.homeOf ns b), ⟨kind, tag, ns, b, false, 0⟩)]

/-- The surface, track and sector of a location. -/
def surfaceOf (l : Nat) : Nat := l / 2 ^ 36 % 32

/-- The track of a location. -/
def trackOf (l : Nat) : Nat := l / 2 ^ 12 % 2 ^ 24

/-- R252: an operation queued for its actuator; QUEUE_DEPTH follows (R256). -/
def queueOp (s : State) (o : MediaOp) : State :=
  let n := o.surface / 8
  let q := Store.get [] s.media.queue n ++ [o]
  ({ s with media := { s.media with queue := Store.put [] s.media.queue n q } }).wr (R.QUEUE_DEPTH n) (min 8191 q.length)

/-- R248, R250, R252: (location, service) pairs cut into runs of consecutive sectors of one track. -/
def splitRuns (l : List (Nat × Serve)) : List (List (Nat × Serve)) :=
  l.foldl (fun runs p => match runs.getLast? with
    | some r => match r.getLast? with
      | some q => if q.1 + 1 = p.1 ∧ q.1 / 4096 = p.1 / 4096 then runs.dropLast ++ [r ++ [p]] else runs ++ [[p]]
      | none => runs ++ [[p]]
    | none => [[p]]) []

/-- Milliseconds on the FCU's time base. -/
def nowMs (s : State) : Nat := s.rd R.FCU_US / 1000

/-- One run queued. -/
def queueRun (s : State) (kind : OpKind) (write partialTrack : Bool) (r : List (Nat × Serve)) : State := match r with
  | [] => s
  | p :: _ => s.queueOp { kind := kind, write := write, surface := surfaceOf p.1, track := trackOf p.1, first := p.1 % 4096
                          sectors := r.map fun x => x.2, partialTrack := partialTrack, queuedMs := s.nowMs }

/-- Sectors queued as runs. -/
def queueAll (s : State) (kind : OpKind) (write partialTrack : Bool) (l : List (Nat × Serve)) : State :=
  (splitRuns l).foldl (fun s r => s.queueRun kind write partialTrack r) s

/-- R526: the Pack block is being read, or stands in read staging. -/
def unitReading (s : State) (ns b : Nat) : Bool :=
  s.pak.reads.any fun u => u.ns == ns && u.lba == b / 16 * 16

/-- R526: read staging opened for a Pack block. -/
def openUnit (s : State) (ns b : Nat) (forMtu : Bool) : State :=
  { s with pak := { s.pak with reads := s.pak.reads ++ [{ ns := ns, lba := b / 16 * 16, forMtu := forMtu }] } }

/-- R252, R526: the reads of some blocks queued; a Pack block being read already is not read again. -/
def planReads (s : State) (kind : OpKind) (tag : Option Nat) (blocks : List (Nat × Nat)) : State :=
  let step := fun (x : State × List (Nat × Serve)) (b : Nat × Nat) =>
    if x.1.isPacked b.1 b.2 then
      if x.1.unitReading b.1 b.2 then x
      else (x.1.openUnit b.1 b.2 tag.isNone, x.2 ++ x.1.readPlan kind tag b.1 b.2)
    else (x.1, x.2 ++ x.1.readPlan kind tag b.1 b.2)
  let r := blocks.foldl step (s, [])
  r.1.queueAll kind false false r.2

/-- R252, R253: reads of the blocks that are not held and stand on media are queued, once. -/
def queueReads (s : State) (t : Nat) : State :=
  match s.cmd t with
  | none => s
  | some c =>
    if c.mediaQueued then s
    else
      let l := (missing c).filter fun i => !s.blockHeld c (c.lba + i)
      let s := s.modCmd t fun c => { c with mediaQueued := l.length == (missing c).length }
      s.planReads .hostRead (some t) (l.map fun i => (c.req.ns, c.lba + i))

/-- R211, R352: a block read from media is delivered to the command that asked for it. -/
def deliver (s : State) (t ns b : Nat) (g : Got) : State :=
  s.modCmd t fun c =>
    if c.req.ns = ns ∧ c.lba ≤ b ∧ b < c.lba + c.req.blocks then
      { c with got := Store.put none c.got (b - c.lba) (some g) } else c

/-- The data of the blocks a read has taken, in order, while none is unreadable. -/
def gotData (c : Cmd) : List Nat := (List.range c.req.blocks).map fun i => match Store.get none c.got i with
  | some (.data v) => v
  | _ => 0

/-- A block of the read is unreadable. -/
def gotBad (c : Cmd) : Bool := c.got.any fun e => e.2 == some Got.unreadable

/-- R212: a read that has taken its data releases its entry. -/
def releaseRead (s : State) (c : Cmd) : State := if c.req.fused = 0 then s.disown c.tag else s

/-! ### The end of a command's hold (R180, R212) -/

/-- R271: the stride detector of a command's tag is freed. -/
def freeDetector (s : State) (t : Nat) : State :=
  let l := s.mca.detectors.filter fun e => match e.2 with
    | some d => d.tag != t
    | none => false
  let n := (l.filter fun e => match e.2 with
    | some d => d.conf == 2
    | none => false).length
  ({ s with mca := { s.mca with detectors := l } }).wr R.MC_PF_TRAINED n

/-- R180, R212: the command's tag returns and its entries are released. -/
def dropCmd (s : State) (t : Nat) : State :=
  let s := s.freeDetector t
  let s := { s with abx := { s.abx with clocks := s.abx.clocks.filter fun c => c.key != 2 * t } }
  let s := { s with hosts := { s.hosts with cmds := s.hosts.cmds.filter fun c => c.tag != t } }
  ((s.disown t).refreshTags).refreshBuffer

/-- R185, R206: the command's transfer stops: an aborted write keeps its received blocks; a read transfers no more. -/
def stopCmd (s : State) (c : Cmd) (d : Done) : State :=
  let s := s.modCmd c.tag fun c => { c with reserved := c.received }
  let k := kindOf c.port c.req
  let short := (k = .write ∨ k = .append) ∧ c.received < c.req.blocks ∧ c.done.isNone ∧ c.inHzt
  let s := if short then (s.followZone c.req.ns c.lba).shortWrite c else s
  s.modCmd c.tag fun c => { c with done := some d }

end State

end Sys2Proof.Machine
end

