-- ==== Sys2Proof/Machine/Queues.lean ====
section
/-!
DEFINITION. Machine/Queues.lean: PCIe ports, controllers, queues, fetch, arrival, the hazard table's commands, completion,
interrupts and Abort (chapters 05 and 06).
-/
namespace Sys2Proof.Machine

open Arith

/-- R175: among positions `req`, the one at or after the token, else the lowest. -/
def pickTurn (token : Nat) (req : List Nat) : Option Nat :=
  match (req.filter fun i => token ≤ i).min? with
  | some i => some i
  | none => req.min?

/-- R173: Invalid Queue Identifier and the other statuses of queue commands. -/
def queueStatus (code : Nat) : Done := { code := 0x100 + code, dnr := true }

namespace State

/-! ### Ownership's link to transports (R636) -/

/-- R636: the device becomes unowned. -/
def unown (s : State) : State :=
  if s.rd R.OWN_STATE = 0 then s
  else
    let s := ((s.wr R.OWN_STATE 0).wr R.OWN_POS 0xF).wr R.OFFER_POS 0xF
    (((s.wr R.OWN_ADDR_LO 0).wr R.OWN_ADDR_HI 0).wr R.LEASE_LEFT 0).raise 208

/-- R633: what an endpoint position has staged is discarded. -/
def discardStage (s : State) (pos : Nat) : State :=
  { s with mgt := { s.mgt with stage := Store.put none s.mgt.stage pos none } }

/-- R633, R636: the transports of these positions are lost: an owner there loses ownership, staged values go. -/
def transportLost (s : State) (pos : List Nat) : State :=
  let s := pos.foldl discardStage s
  if s.rd R.OWN_STATE ≠ 0 ∧ pos.contains (s.rd R.OWN_POS) then s.unown else s

/-! ### Events (R165, R174, R208) -/

/-- R165, R174: an event reported on port `k`: the oldest Asynchronous Event Request completes with it, or it is held. -/
def asyncEvent (s : State) (k dw0 : Nat) : State :=
  match (s.ctrl k).aers with
  | t :: rest => (s.modCtrl k fun c => { c with aers := rest }).finish t { doneOk with dw0 := dw0 }
  | [] => s.modCtrl k fun c => { c with events := c.events ++ [dw0] }

/-- R174: an invalid doorbell: event type Error with its information, and DB_ERR_CNT. -/
def doorbellError (s : State) (k info : Nat) : State := (s.count (R.DB_ERR_CNT k)).asyncEvent k (256 * info)

/-- R196: a unit attention posted to a nexus; a ninth discards the oldest. -/
def postUa (s : State) (key code : Nat) : State :=
  match Store.get none s.hosts.nexus key with
  | none => s
  | some x =>
    let l := x.ua ++ [code]
    let l := if 8 < l.length then l.drop (l.length - 8) else l
    { s with hosts := { s.hosts with nexus := Store.put none s.hosts.nexus key (some { x with ua := l }) } }

/-- R208: a unit attention posted to every SAS nexus but the one given. -/
def postUaAll (s : State) (code : Nat) (except_ : Option Nat) : State :=
  (s.hosts.nexus.map fun e => e.1).foldl (fun s k => if some k = except_ then s else s.postUa k code) s

/-- R208: an event reported to every enabled controller but the one given. -/
def eventAll (s : State) (dw0 : Nat) (except_ : Option Nat) : State :=
  (List.range 4).foldl (fun s k => if some k = except_ || !s.flag (R.CTRL_EN k) then s else s.asyncEvent k dw0) s

/-! ### Completion (R180 to R185, R206) -/

/-- R181: a CQ is full. -/
def cqFull (q : Cq) : Bool := (q.tail + 1) % q.size == q.head

/-- R181, R184: an interrupt that is due on a vector: a masked vector sets its pending bit. -/
def sendInterrupt (s : State) (k v : Nat) : State :=
  let s := s.modCtrl k fun c => { c with unsignalled := Store.put 0 c.unsignalled v 0 }
  if (s.ctrl k).masked.testBit v then s.modCtrl k fun c => { c with msixPend := setBit c.msixPend v }
  else s.emit (.interrupt k v)

/-- R183: the vector is coalesced: not the admin CQ's, its Coalescing Disable bit clear, neither THR nor TIME 0. -/
def coalesced (s : State) (k v : Nat) : Bool :=
  let c := s.ctrl k
  let f := Store.get 0 c.feats 0x08
  let admin := match Store.get none c.cqs 0 with
    | some q => q.vector == v
    | none => false
  !admin && Store.get 0 c.feats (0x900 + v) / 2 ^ 16 % 2 == 0 && f % 256 != 0 && f / 256 % 256 != 0

/-- R183: an entry committed on a CQ with interrupts. -/
def noteEntry (s : State) (k v : Nat) : State :=
  if s.coalesced k v then
    let n := Store.get 0 (s.ctrl k).unsignalled v + 1
    let s := s.modCtrl k fun c => { c with unsignalled := Store.put 0 c.unsignalled v n }
    if Store.get 0 (s.ctrl k).feats 0x08 % 256 + 1 ≤ n then s.sendInterrupt k v else s
  else s.sendInterrupt k v

/-- R181: one entry written to CQ `q` of port `k`. -/
def writeEntry (s : State) (k q sq cid : Nat) (d : Done) : State :=
  match Store.get none (s.ctrl k).cqs q with
  | none => s
  | some c =>
    let s := s.emit (.completion k q sq cid d)
    let c' := { c with tail := (c.tail + 1) % c.size, phase := if c.tail + 1 = c.size then !c.phase else c.phase }
    let s := s.modCtrl k fun x => { x with cqs := Store.put none x.cqs q (some c') }
    if c.ien then s.noteEntry k c.vector else s

/-- The CQ that serves an SQ. -/
def cqOf (s : State) (k sq : Nat) : Nat := match Store.get none (s.ctrl k).sqs sq with
  | some q => q.cq
  | none => 0

/-- The CQ that serves an SQ has room. -/
def cqRoom (s : State) (k sq : Nat) : Bool := match Store.get none (s.ctrl k).cqs (s.cqOf k sq) with
  | some q => !cqFull q
  | none => false

/-- R182, R187: a completion of a command that holds no tag, posted or held. -/
def postUntagged (s : State) (k : Nat) (r : HostReq) (d : Done) : State :=
  if s.cqRoom k r.queue then s.writeEntry k (s.cqOf k r.queue) r.queue r.cid d
  else s.modCtrl k fun c => { c with held := c.held ++ [(r, d)] }

/-- R177: an SQ under deletion with no uncommitted command left is deleted, and its Delete ends. -/
def finishDeletes (s : State) (k : Nat) : State :=
  (s.ctrl k).sqs.foldl (fun s e => match e.2 with
    | some q => match q.deleting with
      | some t =>
        let left := s.hosts.cmds.any (fun c => c.port == k && c.req.queue == e.1 && e.1 != 0)
          || (s.ctrl k).held.any fun h => h.1.queue == e.1
        if left then s
        else (s.modCtrl k fun c => { c with sqs := Store.put none c.sqs e.1 none }).finish t doneOk
      | none => s
    | none => s) s

/-- R167: an error entered in the Error Information log, at most 64. -/
def logStatus (s : State) (k sq cid code : Nat) : State :=
  if code = 0 then s
  else s.modCtrl k fun c =>
    { c with errLog := (⟨c.errLog.length + 1, sq, cid, code⟩ :: c.errLog).take 64 }

/-- R185: completions of commands that an Abort matched commit before the Abort's, a held one of a command without a tag among
them. -/
def abortWaits (s : State) (t : Nat) : Bool :=
  s.hosts.cmds.any (fun c => c.abortedBy == some t) || s.hosts.cmds.any fun c =>
    c.tag == t && decide (c.port < 4) && c.req.queue == 0 && c.req.opcode == 8 && (s.ctrl c.port).held.any fun h =>
      h.1.queue == c.req.cdw10 % 65536 && h.1.cid == c.req.cdw10 / 65536 % 65536 && decide (h.2 = abortRequested)

/-- R103, R107: a command of an I/O queue or a SAS media command, but no read that the write buffer satisfies. -/
def isIo (c : Cmd) : Bool :=
  !c.buffered && if c.port < 4 then c.req.queue != 0 else decide (sasKind c.req ≠ .notEntered)

/-- R181, R206: a completion that may commit, committed: the entry or the RESPONSE frame, the tag freed. -/
def commit (s : State) (c : Cmd) (d : Done) : State :=
  let s := s.wr R.CMT_TOKEN 1
  let s := if c.port < 4 then
      (s.writeEntry c.port (s.cqOf c.port c.req.queue) c.req.queue c.req.cid d).logStatus c.port c.req.queue c.req.cid d.code
    else if c.silent then s else s.emit (.response (c.port - 4) c.req.queue c.req.cid d)
  let s := s.dropCmd c.tag
  let s := if c.port < 4 then s.finishDeletes c.port else s
  if isIo c then s.ioActivity else s

/-- COMPLETION_COMMIT's effect (R181, R182, R214). -/
def tryCommit (s : State) (t : Nat) : State :=
  match s.cmd t with
  | none => s
  | some c =>
    match c.done with
    | none => s
    | some d =>
      if s.cmuRunning && (c.silent || s.mayCommitCmd c) && !s.abortWaits t && (decide (4 ≤ c.port) || s.cqRoom c.port c.req.queue) then
        s.commit c d
      else s

/-! ### Port reset (R159) -/

/-- R159: port `k`'s controller is reset: fetched commands end unposted, its queues go, its tags return. -/
def portReset (s : State) (k : Nat) : State :=
  let mine := s.hosts.cmds.filter fun c => c.port == k
  let s := mine.foldl (fun s c => s.stopCmd c abortRequested) s
  let s := mine.foldl (fun s c => s.dropCmd c.tag) s
  let h := { s.hosts with
    ctrl := Store.put {} s.hosts.ctrl k {}, fetched := s.hosts.fetched.filter fun e => e.1 != k
    stalled := match s.hosts.stalled with
      | some e => if e.1 = k then none else some e
      | none => none }
  let s := { s with hosts := h }
  let s := if s.hosts.stalled.isNone then s.wr R.ARRIVAL_STALL 0 else s
  let s := (((s.wr (R.CTRL_EN k) 0).wr (R.CTRL_RDY k) 0).wr (R.CTRL_CFS k) 0).wr (R.Q_GRANTED k) 0
  (s.wr (R.PORT_RESET_EV k) 1).transportLost [k, 5 + k]

/-- The link of port `k` is down. -/
def linkDown (s : State) (k : Nat) : State :=
  (((s.wr (R.LINK_SPEED k) 0).wr (R.LINK_WIDTH k) 0).wr (R.LINK_FLIT k) 0).wr (R.LINK_L12 k) 0

/-- R117, R159, R192: PERST_N low: every port reset and down; the subsystem identifiers take effect. -/
def pcieReset (s : State) : State :=
  let s := (List.range 4).foldl (fun s k => if s.flag (R.PORT_PRESENT k) then (s.portReset k).linkDown k else s) s
  let s := { s with mgt := { s.mgt with subsystemNow := s.mgt.subsystem } }
  ({ s with pins := { s.pins with perstN := false, training := 0 } }).wr R.RC_PERST 1

/-- R153: the lanes of a configured port. -/
def lanes (s : State) : Nat := if s.boot.width = 1 then 8 else if s.boot.width = 2 then 4 else 16

/-- R168: the saved feature values of a port, put in force. -/
def restoreFeats (s : State) (k : Nat) : State :=
  let s := (s.nv.savedFeats.filter fun e => e.1 / 65536 == k).foldl
    (fun s e => s.modCtrl k fun c => { c with feats := Store.put 0 c.feats (e.1 % 65536) e.2 }) s
  let saved := s.nv.savedApst.filter fun e => e.1 / 32 == k
  if saved.isEmpty then s
  else
    let t := saved.foldl (fun m e => Store.put (0, 0) m e.1 e.2) s.pm.apstTable
    { s with pm := { s.pm with apstOn := putBit s.pm.apstOn k (Store.get 0 (s.ctrl k).feats 0x0C % 2 == 1), apstTable := t } }

/-- R161, R171, R620: CC.EN rises: the admin queues exist, the quota of the port takes effect, the temperatures are latched. -/
def enable (s : State) (k ams asqs acqs : Nat) : State :=
  let c : Ctrl := { ams := ams, quota := s.rd (R.Q_QUOTA k), wctemp := s.rd R.THR_WARN + 273, cctemp := s.rd R.THR_THROTTLE + 273
                    sqs := [(0, some { size := asqs + 1, cq := 0, prio := 0 })]
                    cqs := [(0, some { size := acqs + 1, vector := 0, ien := true })] }
  ((({ s with hosts := { s.hosts with ctrl := Store.put {} s.hosts.ctrl k c } }).wr (R.CTRL_EN k) 1).wr (R.Q_GRANTED k) 0)
    |>.restoreFeats k

/-! ### Fetch (R175, R176, R179) -/

/-- R179: port `k` can obtain a tag: from its own reservation, of which 16 tags of a PCIe port serve admin commands only,
or from the shared pool. The perturbation of R669 caps the tags in use. -/
def ownTagFree (s : State) (k : Nat) (admin : Bool) : Bool :=
  let own := s.ownTags k
  if k < 4 && !admin then
    decide (own < s.rd (R.TAG_RSV k)) && decide ((s.hosts.cmds.filter fun c =>
      c.port == k && !c.shared && c.req.queue != 0).length < s.rd (R.TAG_RSV k) - 16)
  else decide (own < s.rd (R.TAG_RSV k))

/-- R179: a tag can be had. -/
def canTag (s : State) (k : Nat) (admin : Bool) : Bool :=
  (s.ownTagFree k admin || decide (0 < s.sharedFree))
    && (!s.flag R.PERT_ARM || decide (s.hosts.cmds.length < s.rd R.TAG_CAP))

/-- R176: SQ `q` of port `k` is fetchable. -/
def fetchable (s : State) (k q : Nat) : Bool := match Store.get none (s.ctrl k).sqs q with
  | some x => x.tail != x.head && x.deleting.isNone && s.cqRoom k q && s.canTag k (q == 0)
  | none => false

/-- The fetchable SQs of port `k`. -/
def fetchableSqs (s : State) (k : Nat) : List Nat :=
  if s.flag (R.CTRL_RDY k) && !(s.ctrl k).stopFetch && s.cmuRunning then
    ((s.ctrl k).sqs.map fun e => e.1).filter fun q => s.fetchable k q else []

/-- The class of an I/O SQ under the mechanism in force: 0 urgent, 1 high, 2 medium, 3 low; one class in round robin. -/
def sqClass (s : State) (k q : Nat) : Nat :=
  if (s.ctrl k).ams = 0 then 0
  else match Store.get none (s.ctrl k).sqs q with
    | some x => x.prio
    | none => 0

/-- R175: the weight of a class, from the Arbitration feature (0's based). -/
def classWeight (s : State) (k cl : Nat) : Nat :=
  let f := Store.get 0 (s.ctrl k).feats 0x01
  (if cl = 1 then f / 2 ^ 24 % 256 else if cl = 2 then f / 2 ^ 16 % 256 else f / 2 ^ 8 % 256) + 1

/-- R175: the class served next: urgent strictly first, then the highest class with credit left; with none, the credits
are renewed (keys 4 + class of `classToken` count the credits used). -/
def nextClass (s : State) (k : Nat) (cls : List Nat) : Option (Nat × Bool) :=
  if cls.contains 0 then some (0, false)
  else
    match ([1, 2, 3].filter fun cl => cls.contains cl
        && decide (Store.get 0 (s.ctrl k).classToken (4 + cl) < s.classWeight k cl)).head? with
    | some cl => some (cl, false)
    | none => ([1, 2, 3].filter fun cl => cls.contains cl).head?.map fun cl => (cl, true)

/-- R175: the SQ that port `k` serves next, and whether the credits are renewed first. -/
def chooseSq (s : State) (k : Nat) : Option (Nat × Bool) :=
  let l := s.fetchableSqs k
  if l.contains 0 then some (0, false)
  else
    match s.nextClass k (l.map fun q => s.sqClass k q) with
    | none => none
    | some (cl, renew) =>
      (pickTurn (Store.get 0 (s.ctrl k).classToken cl) (l.filter fun q => s.sqClass k q == cl)).map fun q => (q, renew)

/-- R175: the Arbitration Burst in entries; 7 sets no limit. -/
def burst (s : State) (k : Nat) : Nat :=
  let b := Store.get 0 (s.ctrl k).feats 0x01 % 8
  if b = 7 then 65536 else 2 ^ b

/-- R175: the class token and credits after `n` entries of SQ `q` were fetched. -/
def afterFetch (s : State) (k q n : Nat) (renew : Bool) : State :=
  if q = 0 then s
  else
    let cl := s.sqClass k q
    s.modCtrl k fun c =>
      let t := if renew then c.classToken.filter fun e => e.1 < 4 else c.classToken
      let t := Store.put 0 t cl (q + 1)
      { c with classToken := if cl = 0 then t else Store.modify 0 t (4 + cl) fun x => x + n }

/-- R176: the ports with a fetchable SQ. -/
def fetchPorts (s : State) : List Nat := (List.range 4).filter fun k => !(s.fetchableSqs k).isEmpty

/-- R176: one grant of the fetch engine: entries read from the SQ in host memory. -/
def fetch (s : State) (entries : List HostReq) : State :=
  if s.boot.hold.isSome then s
  else match tokenGrant 4 (s.rd R.FETCH_TOKEN) s.fetchPorts with
  | none => s
  | some k =>
    let s := s.wr R.FETCH_TOKEN ((k + 1) % 4)
    match s.chooseSq k with
    | none => s
    | some (q, renew) =>
      match Store.get none (s.ctrl k).sqs q with
      | none => s
      | some x =>
        let avail := (x.tail + x.size - x.head) % x.size
        let l := (entries.take (min avail (s.burst k))).map fun r => (k, { r with queue := q })
        let x' := { x with head := (x.head + l.length) % x.size }
        let s := s.modCtrl k fun c => { c with sqs := Store.put none c.sqs q (some x') }
        ({ s with hosts := { s.hosts with fetched := s.hosts.fetched ++ l } }).afterFetch k q l.length renew

/-! ### Arrival (R178, R179, R209, R213, R215) -/

/-- R178: the fetched command that may pass the tag step: the first whose port can obtain a tag, with none of its SQ
before it. -/
def fetchedNext (s : State) : (l : List (Nat × HostReq)) → (seen : List (Nat × Nat)) → Option (Nat × HostReq)
  | [], _ => none
  | e :: l, seen =>
    if !seen.contains (e.1, e.2.queue) && s.canTag e.1 (e.2.queue == 0) then some e
    else s.fetchedNext l ((e.1, e.2.queue) :: seen)

/-- R197: the head of a SAS inlet, where a tag can be had and no activation holds host commands (R664). -/
def inletNext (s : State) (p : Nat) : Option (Nat × HostReq) :=
  if s.boot.hold.isNone && s.canTag (4 + p) false then (Store.get [] s.hosts.inlet p).head?.map fun r => (4 + p, r) else none

/-- R178, R220: the command at each position of the tag step: PCIe, S0, S1. -/
def atStep (s : State) (pos : Nat) : Option (Nat × HostReq) :=
  if pos = 0 then s.fetchedNext s.hosts.fetched [] else s.inletNext (pos - 1)

/-- R178, R187, R215: the fetched NVMe commands that have not arrived: a stalled one, then those that wait. -/
def atTagStep (s : State) : List (Nat × HostReq) :=
  ((match s.hosts.stalled with
    | some e => [e]
    | none => []).filter fun e => decide (e.1 < 4)) ++ s.hosts.fetched

/-- R187, R215: the commands of `l` leave the tag step before they arrive; a stall that one of them caused ends. -/
def leaveTagStep (s : State) (l : List (Nat × HostReq)) : State :=
  let gone := match s.hosts.stalled with
    | some e => l.contains e
    | none => false
  let h := { s.hosts with fetched := s.hosts.fetched.filter fun e => !l.contains e
                          stalled := if gone then none else s.hosts.stalled }
  let s := { s with hosts := h }
  if gone then s.wr R.ARRIVAL_STALL 0 else s

/-- INLET_USED of both SAS ports. -/
def refreshInlets (s : State) : State :=
  (List.range 2).foldl (fun s p => s.wr (R.INLET_USED p) (Store.get [] s.hosts.inlet p).length) s

/-- The command taken from its position of the tag step. -/
def takeAtStep (s : State) (pos : Nat) (e : Nat × HostReq) : State :=
  if pos = 0 then { s with hosts := { s.hosts with fetched := s.hosts.fetched.erase e } }
  else
    let q := (Store.get [] s.hosts.inlet (pos - 1)).tail
    ({ s with hosts := { s.hosts with inlet := Store.put [] s.hosts.inlet (pos - 1) q } }).refreshInlets

/-- R213: the command is an ordered barrier. -/
def isBarrier (s : State) (port : Nat) (r : HostReq) : Bool :=
  if port < 4 then r.fused != 0 || (r.queue != 0 && r.opcode == 1 && r.dtype == 1 && r.dspec != 0
      && decide (1 ≤ r.ns ∧ r.ns ≤ 16) && s.rd (R.ORD_SID (r.ns - 1)) == r.dspec)
  else r.attr == 2

/-- R195, R209: the namespace exists. -/
def nsExists (s : State) (ns : Nat) : Bool := (s.namespaceOf ns).isSome

/-- R213: the first command of a fused pair whose second, of the same SQ, is this one. -/
def fusedFirst (s : State) (port : Nat) (r : HostReq) : Option Cmd :=
  if port < 4 && r.fused == 2 then
    s.hosts.cmds.find? fun c => c.port == port && c.req.queue == r.queue && c.req.fused == 1 && c.partner.isNone
  else none

/-- R186: the second of a fused pair whose first is not there, or has ended, ends with it. -/
def loneSecond (s : State) (port : Nat) (r : HostReq) : Option Done :=
  if port < 4 && r.fused == 2 then
    match s.fusedFirst port r with
    | some f => if f.done.isSome then some failedFused else none
    | none => some missingFused
  else none

/-- The first of a fused pair that the next command of its SQ does not follow as the second ends. -/
def endLoneFirst (s : State) (port : Nat) (r : HostReq) : State :=
  if port < 4 && r.fused != 2 then
    (s.hosts.cmds.filter fun c => c.port == port && c.req.queue == r.queue && c.req.fused == 1 && c.partner.isNone).foldl
      (fun s c => s.finish c.tag missingFused) s
  else s

/-- R209: the (namespace, parts) entries a command takes. -/
def entriesFor (s : State) (port : Nat) (r : HostReq) (lba : Nat) : List (Nat × List (Nat × Nat)) :=
  let whole := [(0, 2 ^ 64)]
  match kindOf port r with
  | .read => [(r.ns, [(r.lba, r.blocks)])]
  | .write => [(r.ns, [(r.lba, r.blocks)])]
  | .append => [(r.ns, [(lba, r.blocks)])]
  | .ranges => (r.ranges.take 256).map fun p => (r.ns, [p])
  | .zone =>
    if r.all then [(r.ns, whole)]
    else match s.namespaceOf r.ns with
      | some n => [(r.ns, [(zoneOf n r.lba * n.zoneBlocks, n.zoneBlocks)])]
      | none => []
  | .wholeNamespace =>
    if port < 4 ∧ r.opcode = 0x84 then s.nv.namespaces.map fun e => (e.1, whole) else [(r.ns, whole)]
  | .notEntered => []

/-- The acceptance pointer of the zone `key` at the acceptance of a Reset (4) or Finish (2). -/
def zoneAcceptance (s : State) (r : HostReq) (action : Nat) (n : Namespace) (key : Nat) : State :=
  let c := (s.zone key).cond
  if action = 4 then s.modZone key fun z => { z with ap := 0 }
  else if action = 2 ∧ (isActive c ∨ (c = .empty ∧ ¬ r.all)) then s.modZone key fun z => { z with ap := n.zoneBlocks }
  else s

/-- R230: a zone command that names zones moves their arrival pointers at its arrival. -/
def zoneArrival (s : State) (r : HostReq) (action : Nat) : State :=
  match s.namespaceOf r.ns with
  | none => s
  | some n =>
    if r.all then ((s.media.tables.zones.map fun e => e.1).filter fun k => k / 2 ^ 32 == r.ns).foldl
        (fun s k => s.zoneAcceptance r action n k) s
    else s.zoneAcceptance r action n (zoneKey r.ns (zoneOf n r.lba))

/-- R196: the oldest unit attention of a nexus. -/
def nextUa (s : State) (key : Nat) : Option Nat := (Store.get none s.hosts.nexus key).bind fun x => x.ua.head?

/-- R195, R196, R199: what a SAS command of the nexus `key` is refused for at arrival; a pending unit attention is reported
by any command but INQUIRY, REPORT LUNS and REQUEST SENSE. -/
def sasArrivalCheck (s : State) (key : Nat) (r : HostReq) : Option Done :=
  if r.attr = 4 ∨ 2 < r.attr then some (doneSense 0 5 0x0E 0x03)
  else if r.naca then some (doneSense 0 5 0x24 0)
  else if !s.nsExists r.ns && r.opcode != 0x12 then some (doneSense 0 5 0x25 0)
  else if [0x12, 0xA0, 0x03].contains r.opcode then none
  else (s.nextUa key).map fun u => doneSense 0 6 (u / 256) (u % 256)

/-- R169, R202: a Read, Write or Compare, whose blocks are transferred: at most 512. -/
def transfers (port : Nat) (r : HostReq) : Bool :=
  if port < 4 then r.queue != 0 && [0x01, 0x02, 0x05].contains r.opcode else [0x28, 0x88, 0x2A, 0x8A].contains r.opcode

/-- R112, R163, R169, R202, R204, R230: what a command is refused for at its arrival. -/
def arrivalCheck (s : State) (port : Nat) (r : HostReq) : Option Done :=
  let k := kindOf port r
  let sas := if port < 4 then none else s.sasArrivalCheck (32 * (port - 4) + r.queue) r
  match sas with
  | some d => some d
  | none =>
    if k ≠ .notEntered ∧ 4 ≤ port ∧ s.pm.sasStopped.testBit (port - 4) then some (doneSense 0 2 0x04 0x02)
    else if k ≠ .notEntered ∧ k ≠ .wholeNamespace ∧ ¬ s.nsExists r.ns then some { code := 0x0B, dnr := true }
    else if transfers port r ∧ 512 < r.blocks then some invalidField
    else if k = .append ∧ 256 < r.blocks then some invalidField
    else if k = .write ∨ k = .append then
      s.judgeZoneWrite r.ns r.lba r.blocks (decide (k = .append))
    else if k = .read then
      match s.namespaceOf r.ns with
      | some n =>
        if n.size < r.lba + r.blocks then some lbaOutOfRange
        else if !s.media.loadedOnce && s.needsMedia r.ns r.lba r.blocks then some namespaceNotReady else none
      | none => none
    else if k = .zone ∧ ¬ s.media.loadedOnce then
      (s.namespaceOf r.ns).bind fun n =>
        if s.needsMedia r.ns (zoneBlocksOf n r).1 (zoneBlocksOf n r).2 then some namespaceNotReady else none
    else none

/-- R196: the oldest unit attention of a nexus is reported and cleared. -/
def takeUa (s : State) (key : Nat) : State :=
  match Store.get none s.hosts.nexus key with
  | none => s
  | some x =>
    { s with hosts := { s.hosts with nexus := Store.put none s.hosts.nexus key (some { x with ua := x.ua.tail }) } }

/-- R111, R112: a media command of a SAS port restarts its timers and asks for Active. -/
def sasActivity (s : State) (p : Nat) : State :=
  ({ s with pm := { s.pm with sasIdleMs := Store.put 0 s.pm.sasIdleMs p 0 } }).requestState (4 + p) 0

/-- A command entered in the list of those held. -/
def putCmd (s : State) (c : Cmd) : State :=
  ({ s with hosts := { s.hosts with cmds := s.hosts.cmds ++ [c], nextArrival := c.arrival + 1 } }).refreshTags

/-- The first block of an arriving command: a write or append takes it at its zone's arrival pointer. -/
def acceptLba (s : State) (r : HostReq) (k : CmdKind) : State × Nat :=
  if k = .write ∨ k = .append then s.acceptZoneWrite r.ns r.lba r.blocks (decide (k = .append)) else (s, r.lba)

/-- The HZT after the arrival of command `t`: the second of a fused pair shares the first's entries. -/
def enterHzt (s : State) (t a port : Nat) (r : HostReq) (lba : Nat) (first : Option Cmd) : State :=
  let h := match first with
    | some f => s.hosts.hzt.map fun x => if x.owners.contains f.tag then { x with owners := x.owners ++ [t] } else x
    | none => s.hosts.hzt ++ (s.entriesFor port r lba).map fun x => ⟨a, [t], entersAsWrite port r, x.1, x.2⟩
  { s with hosts := { s.hosts with hzt := h } }

/-- What follows the entry of command `c`: its zone action, the power state asked for, and the activity noted. -/
def arrivalEffects (s : State) (c : Cmd) : State :=
  let k := kindOf c.port c.req
  let s := if k = .zone then s.zoneArrival c.req (zoneAction c.port c.req) else s
  let s := if c.port < 4 ∧ isIo c then s.requestState c.port 0 else s
  let s := if 4 ≤ c.port ∧ isIo c then s.sasActivity (c.port - 4) else s
  let s := if isIo c then s.ioActivity else s
  s.refreshHzt

/-- A command accepted at its arrival. -/
def arriveAccepted (s : State) (c : Cmd) : State :=
  let first := s.fusedFirst c.port c.req
  let barrier := s.isBarrier c.port c.req
  let (s, lba) := s.acceptLba c.req (kindOf c.port c.req)
  let c := { c with lba := lba, barrier := barrier, partner := first.map fun f => f.tag
                    inHzt := decide (kindOf c.port c.req ≠ .notEntered)
                    buffered := decide (kindOf c.port c.req = .read) && !s.needsMedia c.req.ns c.req.lba c.req.blocks }
  let s := (s.enterHzt c.tag c.arrival c.port c.req lba first).putCmd c
  let s := match first with
    | some f => s.modCmd f.tag fun x => { x with partner := some c.tag }
    | none => s
  s.arrivalEffects c

/-- R178, R179, R209: a command that passes the tag step takes tag `t`, and enters the HZT unless it is refused. -/
def arrive (s : State) (t : Nat) (e : Nat × HostReq) : State :=
  let port := e.1
  let r := e.2
  let shared := !s.ownTagFree port (decide (port < 4) && r.queue == 0)
  let c : Cmd := { tag := t, port := port, arrival := s.hosts.nextArrival, shared := shared, req := r, lba := r.lba }
  let s := s.endLoneFirst port r
  match s.arrivalCheck port r with
  | some d =>
    let s := match s.fusedFirst port r with
      | some f => s.finish f.tag failedFused
      | none => s
    (if d.key = 6 then s.takeUa (32 * (port - 4) + r.queue) else s).putCmd { c with done := some d }
  | none => match s.loneSecond port r with
    | some d => s.putCmd { c with done := some d }
    | none => s.arriveAccepted c

/-- R215: the entries command `e` needs. -/
def entriesNeeded (s : State) (e : Nat × HostReq) : Nat :=
  if (s.arrivalCheck e.1 e.2).isSome || (decide (e.1 < 4) && e.2.fused == 2) then 0 else (s.entriesFor e.1 e.2 e.2.lba).length

/-- R215: entries are free for command `e`. -/
def hztRoom (s : State) (e : Nat × HostReq) : Bool := decide (s.hosts.hzt.length + s.entriesNeeded e ≤ 8192)

/-- R178, R215: the tag step takes one command, or stalls with it. -/
def arrivalStep (s : State) (t : Nat) : State :=
  if s.flag R.ARRIVAL_STALL || (s.cmd t).isSome then s
  else
    match s.hosts.stalled with
    | some e => if s.hztRoom e then ({ s with hosts := { s.hosts with stalled := none } }).arrive t e else s
    | none =>
      match tokenGrant 3 (s.rd R.ARRIVE_TOKEN) ((List.range 3).filter fun p => (s.atStep p).isSome) with
      | none => s
      | some p =>
        match s.atStep p with
        | none => s
        | some e =>
          let s := (s.takeAtStep p e).wr R.ARRIVE_TOKEN ((p + 1) % 3)
          if s.hztRoom e then s.arrive t e
          else ({ s with hosts := { s.hosts with stalled := some e } }).wr R.ARRIVAL_STALL 1

/-- R213: an ordered barrier starts once every earlier entered command of its namespace has completed. -/
def barrierStart (s : State) (t : Nat) : State :=
  match s.cmd t with
  | none => s
  | some c =>
    let earlier := s.hosts.cmds.any fun d =>
      decide (d.arrival < c.arrival) && d.req.ns == c.req.ns && d.inHzt && c.partner != some d.tag
    if c.barrier && !c.started && c.inHzt && !earlier then
      let s := s.modCmd t fun c => { c with started := true }
      let first := match c.partner with
        | some p => match s.cmd p with
          | some d => !d.started
          | none => true
        | none => true
      if first then s.count R.BARRIERS else s
    else s

/-! ### Queue commands (R171 to R174, R177) -/

/-- The in-flight command `t` of a PCIe admin queue with this opcode, not yet ended. -/
def onAdmin (s : State) (t op : Nat) (f : Cmd → State) : State :=
  match s.cmd t with
  | some c => if c.port < 4 ∧ c.req.queue = 0 ∧ c.req.opcode = op ∧ c.done.isNone then f c else s
  | none => s

/-- R173: the vector of a new CQ cannot be used. -/
def badVector (s : State) (k v : Nat) : Bool :=
  decide (2048 ≤ v) || (decide (0 < v) && !(s.ctrl k).msixOn && decide ((s.ctrl k).msiVectors ≤ v))

/-- R173: Create I/O CQ. -/
def createCq (s : State) (c : Cmd) : State :=
  let qid := c.req.cdw10 % 65536
  let size := c.req.cdw10 / 65536 % 65536
  let v := c.req.cdw11 / 65536 % 65536
  let x := s.ctrl c.port
  if qid = 0 ∨ x.cqGranted < qid ∨ (Store.get none x.cqs qid).isSome then s.finish c.tag (queueStatus 1)
  else if size = 0 then s.finish c.tag (queueStatus 2)
  else if s.badVector c.port v then s.finish c.tag (queueStatus 8)
  else if c.req.cdw11 % 2 = 0 then s.finish c.tag invalidField
  else
    let q : Cq := { size := size + 1, vector := v, ien := c.req.cdw11 / 2 % 2 == 1 }
    (s.modCtrl c.port fun y => { y with cqs := Store.put none y.cqs qid (some q), ioCreated := true }).finish c.tag doneOk

/-- R173: Create I/O SQ. -/
def createSq (s : State) (c : Cmd) : State :=
  let qid := c.req.cdw10 % 65536
  let size := c.req.cdw10 / 65536 % 65536
  let cq := c.req.cdw11 / 65536 % 65536
  let x := s.ctrl c.port
  if qid = 0 ∨ s.rd (R.Q_GRANTED c.port) < qid ∨ (Store.get none x.sqs qid).isSome then s.finish c.tag (queueStatus 1)
  else if size = 0 then s.finish c.tag (queueStatus 2)
  else if cq = 0 ∨ (Store.get none x.cqs cq).isNone then s.finish c.tag (queueStatus 0)
  else if c.req.cdw11 % 2 = 0 then s.finish c.tag invalidField
  else
    let q : Sq := { size := size + 1, cq := cq, prio := c.req.cdw11 / 2 % 4 }
    (s.modCtrl c.port fun y => { y with sqs := Store.put none y.sqs qid (some q), ioCreated := true }).finish c.tag doneOk

/-- R177: Delete I/O SQ: its uncommitted commands abort; it is deleted once their completions are committed. -/
def deleteSq (s : State) (c : Cmd) : State :=
  let qid := c.req.cdw10 % 65536
  match Store.get none (s.ctrl c.port).sqs qid with
  | some q =>
    if qid = 0 then s.finish c.tag (queueStatus 1)
    else
      let q' := { q with deleting := some c.tag }
      let s := s.modCtrl c.port fun y => { y with sqs := Store.put none y.sqs qid (some q') }
      let s := (s.hosts.cmds.filter fun d => d.port == c.port && d.req.queue == qid).foldl
        (fun s d => s.stopCmd d sqDeleted) s
      let waiting := s.atTagStep.filter fun e => e.1 == c.port && e.2.queue == qid
      (waiting.foldl (fun s e => s.postUntagged e.1 e.2 sqDeleted) (s.leaveTagStep waiting)).finishDeletes c.port
  | none => s.finish c.tag (queueStatus 1)

/-- R177: Delete I/O CQ. -/
def deleteCq (s : State) (c : Cmd) : State :=
  let qid := c.req.cdw10 % 65536
  let x := s.ctrl c.port
  if qid = 0 ∨ (Store.get none x.cqs qid).isNone then s.finish c.tag (queueStatus 1)
  else if x.sqs.any fun e => match e.2 with
      | some q => q.cq == qid
      | none => false then s.finish c.tag (queueStatus 0x0C)
  else (s.modCtrl c.port fun y => { y with cqs := Store.put none y.cqs qid none }).finish c.tag doneOk

/-! ### Abort (R185 to R188) -/

/-- R185, R187: an Abort that did not abort its target. -/
def abortMissed (s : State) (t : Nat) : State := (s.count R.ABORT_MISSED).finish t { doneOk with dw0 := 1 }

/-- R185, R186: the Abort `t` matches its target: both commands of a fused pair abort. -/
def abortMatch (s : State) (t : Nat) (target : Cmd) : State :=
  let s := (s.stopCmd target abortRequested).modCmd target.tag fun c => { c with abortedBy := some t }
  let s := match target.partner.bind s.cmd with
    | some p => (s.stopCmd p failedFused).modCmd p.tag fun c => { c with abortedBy := some t }
    | none => s
  ((s.count R.ABORT_DONE).wr R.CMT_TOKEN 0).finish t doneOk

/-- R186, R187: the other command of the fused pair of `e`, which was aborted before its arrival, aborts too. -/
def abortPartner (s : State) (t : Nat) (e : Nat × HostReq) : State :=
  if e.2.fused = 0 then s
  else
    match s.atTagStep.find? fun x => x.1 == e.1 && x.2.queue == e.2.queue && x.2.fused == 3 - e.2.fused with
    | some x => (s.leaveTagStep [x]).postUntagged x.1 x.2 failedFused
    | none =>
      match s.hosts.cmds.find? fun x => x.port == e.1 && x.req.queue == e.2.queue && x.req.fused == 1 && x.partner.isNone with
      | some x => if e.2.fused = 2 then (s.stopCmd x failedFused).modCmd x.tag fun x => { x with abortedBy := some t } else s
      | none => s

/-- R185: the Abort finds its target in flight; `sameCycle` where the target's commit requests in the same cycle. -/
def abortTarget (s : State) (c target : Cmd) (sameCycle : Bool) : State :=
  if target.abortedBy.isSome then s.abortMissed c.tag
  else if sameCycle && s.rd R.CMT_TOKEN == 0 && ((s.tryCommit target.tag).cmd target.tag).isNone then
    (s.tryCommit target.tag).abortMissed c.tag
  else s.abortMatch c.tag target

/-- R185 to R188: the Abort command. -/
def abortCmd (s : State) (c : Cmd) (sameCycle : Bool) : State :=
  let sq := c.req.cdw10 % 65536
  let cid := c.req.cdw10 / 65536 % 65536
  let out := (s.hosts.cmds.filter fun d => d.port == c.port && d.req.queue == 0 && d.req.opcode == 8
    && decide (d.arrival < c.arrival)).length
  if 8 ≤ out then s.finish c.tag (queueStatus 3)
  else if sq = 0 ∨ (Store.get none (s.ctrl c.port).sqs sq).isNone then s.abortMissed c.tag
  else
    match s.atTagStep.find? fun e => e.1 == c.port && e.2.queue == sq && e.2.cid == cid with
    | some e => (((s.leaveTagStep [e]).postUntagged e.1 e.2 abortRequested).abortPartner c.tag e).count R.ABORT_DONE |>.finish c.tag doneOk
    | none =>
      match s.hosts.cmds.find? fun d => d.port == c.port && d.req.queue == sq && d.req.cid == cid with
      | some d => s.abortTarget c d sameCycle
      | none => s.abortMissed c.tag

end State

/-- PCIE_RESET (R117, R159). -/
def execPcieReset (s : State) : Result := .next (if s.dom.core then s.pcieReset else s.wr R.RC_PERST 1)

/-- PCIE_LINK_TRAINING (R121): PERST_N is high and the CORE reset released. -/
def execPcieLinkTraining (port : Fin 4) (s : State) : Result :=
  .next (if s.dom.core && s.flag (R.PORT_PRESENT port.val) then
    { s with pins := { s.pins with perstN := true, training := setBit s.pins.training port.val } } else s)

/-- PCIE_LINK_UP (R153, R155, R156, R189): any width down to x1 within the port's lanes; FLIT mode always at 64 GT/s. -/
def execPcieLinkUp (port : Fin 4) (speed : Fin 7) (width : BitVec 5) (flit : Bool) (s : State) : Result :=
  .next (
    let w := width.toNat
    if s.pins.training.testBit port.val && speed.val != 0 && [1, 2, 4, 8, 16].contains w && decide (w ≤ s.lanes) then
      ((s.wr (R.LINK_SPEED port.val) speed.val).wr (R.LINK_WIDTH port.val) w).wrFlag (R.LINK_FLIT port.val)
        (flit || speed.val == 6)
    else s)

/-- LINK_L1_2_CHANGE (R101). -/
def execLinkL12Change (port : Fin 4) (inL12 : Bool) (s : State) : Result :=
  .next (if s.dom.core && s.flag (R.PORT_PRESENT port.val) && decide (s.rd R.PSTATE_NOW ≠ 5) then
    let s := s.wrFlag (R.LINK_L12 port.val) inL12
    let all := (List.range 4).all fun k => !s.flag (R.PORT_PRESENT k) || s.flag (R.LINK_L12 k)
    { s with pm := { s.pm with l12Running := all } }
  else s)

/-- PORT_RESET (R159). -/
def execPortReset (port : Fin 4) (cause : PortResetCause) (s : State) : Result :=
  .next (if s.dom.core && s.flag (R.PORT_PRESENT port.val) then
    let s := s.portReset port.val
    if cause = PortResetCause.linkDown then s.linkDown port.val else s
  else s)

/-- CC_EN_SET (R161, R171). -/
def execCcEnSet (port : Fin 4) (ams : BitVec 3) (asqs : BitVec 12) (acqs : BitVec 12) (s : State) : Result :=
  .next (if s.dom.core && s.flag (R.PORT_PRESENT port.val) && !s.flag (R.CTRL_EN port.val) then
    s.enable port.val ams.toNat asqs.toNat acqs.toNat else s)

/-- CONTROLLER_READY (R161, R162). -/
def execControllerReady (port : Fin 4) (s : State) : Result :=
  .next (if s.flag (R.CTRL_EN port.val) then
    if s.flag R.BOOT_RECOVERY then s.wr (R.CTRL_CFS port.val) 1 else s.wr (R.CTRL_RDY port.val) 1
  else s)

/-- SHUTDOWN_NOTIFICATION (R164). -/
def execShutdownNotification (port : Fin 4) (shn : BitVec 2) (s : State) : Result :=
  .next (if s.flag (R.CTRL_EN port.val) && (shn.toNat == 1 || shn.toNat == 2) then
    s.modCtrl port.val fun c => { c with stopFetch := true, shst := 1 } else s)

/-- SHUTDOWN_COMPLETE (R164): the fetched commands have completed. -/
def execShutdownComplete (port : Fin 4) (s : State) : Result :=
  .next (
    let left := s.hosts.cmds.any (fun c => c.port == port.val && !(s.ctrl port.val).aers.contains c.tag)
      || s.hosts.fetched.any fun e => e.1 == port.val
    if (s.ctrl port.val).shst = 1 ∧ left = false then s.modCtrl port.val fun c => { c with shst := 2 } else s)

/-- SQ_TAIL_DOORBELL (R174, R176). -/
def execSqTailDoorbell (port : Fin 4) (sqid : BitVec 16) (tail : BitVec 16) (s : State) : Result :=
  .next (if !s.dom.core || !s.flag (R.PORT_PRESENT port.val) then s
    else
      match Store.get none (s.ctrl port.val).sqs sqid.toNat with
      | none => s.doorbellError port.val 0
      | some q =>
        if q.size ≤ tail.toNat then s.doorbellError port.val 1
        else
          let q' := { q with tail := tail.toNat }
          s.modCtrl port.val fun c => { c with sqs := Store.put none c.sqs sqid.toNat (some q') })

/-- CQ_HEAD_DOORBELL (R174, R182): held completions of commands with no tag then commit. -/
def execCqHeadDoorbell (port : Fin 4) (cqid : BitVec 16) (head : BitVec 16) (s : State) : Result :=
  .next (if !s.dom.core || !s.flag (R.PORT_PRESENT port.val) then s
    else
      match Store.get none (s.ctrl port.val).cqs cqid.toNat with
      | none => s.doorbellError port.val 0
      | some q =>
        if q.size ≤ head.toNat then s.doorbellError port.val 1
        else
          let q' := { q with head := head.toNat }
          let s := s.modCtrl port.val fun c => { c with cqs := Store.put none c.cqs cqid.toNat (some q') }
          let l := (s.ctrl port.val).held
          let s := s.modCtrl port.val fun c => { c with held := [] }
          (l.foldl (fun s e => s.postUntagged port.val e.1 e.2) s).finishDeletes port.val)

/-- COMMAND_FETCH (R175, R176). -/
def execCommandFetch (entries : List HostReq) (s : State) : Result := .next (s.fetch entries)

/-- COMMAND_ARRIVAL (R178, R179, R209, R215): `tag` is the free tag the step takes. -/
def execCommandArrival (tag : BitVec 13) (s : State) : Result :=
  .next (if s.cmuRunning then s.arrivalStep tag.toNat else s)

/-- ARRIVAL_RESUME (R215). -/
def execArrivalResume (s : State) : Result :=
  .next (match s.hosts.stalled with
    | some e => if s.hztRoom e then s.wr R.ARRIVAL_STALL 0 else s
    | none => s.wr R.ARRIVAL_STALL 0)

/-- HAZARD_RELEASE (R211, R212): held parts behind released entries and blocks proceed. -/
def execHazardRelease (s : State) : Result := .next s.settle

/-- ORDERED_BARRIER_START (R213). -/
def execOrderedBarrierStart (tag : BitVec 13) (s : State) : Result := .next (s.barrierStart tag.toNat)

/-- COMPLETION_COMMIT (R180 to R182, R214). -/
def execCompletionCommit (tag : BitVec 13) (s : State) : Result := .next (s.tryCommit tag.toNat)

/-- INTERRUPT_COALESCE_TIMEOUT (R183). -/
def execInterruptCoalesceTimeout (port : Fin 4) (vector : BitVec 11) (s : State) : Result :=
  .next (if Store.get 0 (s.ctrl port.val).unsignalled vector.toNat = 0 then s
    else s.sendInterrupt port.val vector.toNat)

/-- MSIX_UNMASK (R184). -/
def execMsixUnmask (port : Fin 4) (vector : BitVec 11) (s : State) : Result :=
  .next (
    let v := vector.toNat
    let pend := (s.ctrl port.val).msixPend.testBit v
    let s := s.modCtrl port.val fun c => { c with masked := clearBit c.masked v, msixPend := clearBit c.msixPend v }
    if pend then s.emit (.interrupt port.val v) else s)

/-- CREATE_IO_CQ (R173). -/
def execCreateIoCq (tag : BitVec 13) (s : State) : Result := .next (s.onAdmin tag.toNat 0x05 s.createCq)

/-- CREATE_IO_SQ (R173). -/
def execCreateIoSq (tag : BitVec 13) (s : State) : Result := .next (s.onAdmin tag.toNat 0x01 s.createSq)

/-- DELETE_IO_SQ (R177). -/
def execDeleteIoSq (tag : BitVec 13) (s : State) : Result := .next (s.onAdmin tag.toNat 0x00 s.deleteSq)

/-- DELETE_IO_CQ (R177). -/
def execDeleteIoCq (tag : BitVec 13) (s : State) : Result := .next (s.onAdmin tag.toNat 0x04 s.deleteCq)

/-- ABORT (R185 to R188). -/
def execAbort (tag : BitVec 13) (sameCycle : Bool) (s : State) : Result :=
  .next (s.onAdmin tag.toNat 0x08 fun c => s.abortCmd c sameCycle)

end Sys2Proof.Machine
end

