-- ==== Sys2Proof/Machine/Transfer.lean ====
section
/-!
DEFINITION. Machine/Transfer.lean: what the NVMe and SAS data, zone and erase commands do, written once for both kinds of
host (R166, R203, R205, R229 to R251, R650).
-/
namespace Sys2Proof.Machine

open Arith

namespace State

/-- R281, R282: the MTU serves lookups and accepts commands. -/
def mtuRuns (s : State) : Bool := !s.flag R.MAP_HALT && s.dom.core

/-- The in-flight command `t` where `ok` holds of it and it has not ended. -/
def onCmd (s : State) (t : Nat) (ok : Cmd → Bool) (f : Cmd → State) : State :=
  match s.cmd t with
  | some c => if c.done.isNone && ok c then f c else s
  | none => s

/-- An NVMe I/O command of these opcodes. -/
def isNvmeIo (ops : List Nat) (c : Cmd) : Bool := c.port < 4 && c.req.queue != 0 && ops.contains c.req.opcode

/-- A SAS command of these opcodes. -/
def isSas (ops : List Nat) (c : Cmd) : Bool := decide (4 ≤ c.port) && ops.contains c.req.opcode

/-! ### Writes (R200, R231, R242, R243) -/

/-- R242: the write is ready for buffer space: no barrier holds it, and in a zoned namespace its zone has a context. -/
def writeReady (s : State) (c : Cmd) : Bool :=
  c.done.isNone && !s.barrierHolds c && c.inHzt && match s.namespaceOf c.req.ns with
    | some n => !n.zoned || (s.zone (zoneKey c.req.ns (zoneOf n c.lba))).context
    | none => false

/-- R242: the write asks for buffer space: an NVMe write for all of it, a SAS write for its next burst. -/
def wantsSpace (s : State) (c : Cmd) : Bool :=
  let k := kindOf c.port c.req
  (decide (k = .write ∨ k = .append)) && decide (c.reserved < c.req.blocks)
    && (decide (c.port < 4) || (c.xferRdy.isNone && c.reserved == c.received)) && s.writeReady c

/-- R200, R242: the blocks to reserve next. -/
def spaceWanted (s : State) (c : Cmd) : Nat :=
  if c.port < 4 then c.req.blocks
  else min (c.req.blocks - c.received) (s.rd (R.XRDY_MAX_4K (c.port - 4)))

/-- R242: space reserved for the earliest ready write, where it fits; no later one passes it. -/
def reserveNext (s : State) : State :=
  let ready := s.hosts.cmds.filter fun c => s.wantsSpace c
  match (ready.map fun c => c.arrival).min? with
  | none => s
  | some a =>
    match ready.find? fun c => c.arrival == a with
    | none => s
    | some c =>
      if s.bufferUsed + s.spaceWanted c ≤ s.bufferSize then
        (s.modCmd c.tag fun c => { c with reserved := c.received + s.spaceWanted c }).refreshBuffer
      else s

/-- R78, R242: data may move into the buffer. -/
def mayReceive (s : State) : Bool := s.flag R.HOLDUP_OK && s.mtuRuns && s.cmuRunning

/-- R243: blocks received by the write, within its reservation, placed in the buffer; its zone follows. -/
def receive (s : State) (c : Cmd) (data : List Nat) : State :=
  let l := data.take (c.reserved - c.received)
  let place := fun (s : State) (p : Nat × Nat) => s.placeBlock c.req.ns (c.lba + c.received + p.1) p.2 c.arrival
  let s := ((List.range l.length).zip l).foldl place s
  let s := s.modCmd c.tag fun c => { c with received := c.received + l.length }
  (s.followZone c.req.ns c.lba).refreshBuffer

/-- R240, R243: a write all of whose blocks are in the buffer is durable once its journal change is in the tail. -/
def writeDone (s : State) (t : Nat) (d : Done) : State :=
  match s.cmd t with
  | none => s
  | some c =>
    if c.received < c.req.blocks then s
    else if s.journalRoom then s.journal.finish t d
    else s.journalStall

/-- R231: the write ends short as `d`; what it received is kept. -/
def writeShort (s : State) (c : Cmd) (d : Done) : State :=
  match s.cmd c.tag with
  | none => s
  | some c => s.stopCmd c d

/-- R251: the command writes part of a unit whose other blocks stand on an actuator declared failed. -/
def needsFailed (s : State) (c : Cmd) : Bool :=
  [c.lba, c.lba + c.req.blocks - 1].any fun b =>
    s.onFailed c.req.ns b && (decide (b / 16 * 16 < c.lba) || decide (c.lba + c.req.blocks < b / 16 * 16 + 16))

/-- R231, R243: a data step of a write: blocks arrive, or its transfer fails. -/
def writeStep (s : State) (c : Cmd) (data : List Nat) (bad : Bool) (d : Done) : State :=
  if !s.mayReceive || s.barrierHolds c then s
  else if s.needsFailed c then s.writeShort c writeFault
  else
    let s := s.receive c data
    if bad then s.writeShort c { code := 0x04 } else s.writeDone c.tag d

/-- R238: a unit left unmapped, its blocks out of the buffer. -/
def unmapUnit (s : State) (ns u : Nat) : State :=
  let t := { s.media.tables with map := Store.put none s.media.tables.map (ns * 2 ^ 32 + u) none }
  let b := s.media.buffer.filter fun x => !(x.ns == ns && x.lba / 16 == u && x.visible)
  { s with media := { s.media with tables := t, buffer := b } }

/-- R238: a Deallocate of (LBA, length): whole units are unmapped, the other blocks written as zeros. -/
def deallocate (s : State) (c : Cmd) (p : Nat × Nat) : State :=
  let units := (List.range (p.2 / 16 + 2)).map fun i => p.1 / 16 + i
  let whole := units.filter fun u => decide (p.1 ≤ 16 * u) && decide (16 * u + 16 ≤ p.1 + p.2)
  let rest := (List.range p.2).filter fun i => !whole.contains ((p.1 + i) / 16)
  let s := whole.foldl (fun s u => s.unmapUnit c.req.ns u) s
  rest.foldl (fun s i => s.placeBlock c.req.ns (p.1 + i) 0 c.arrival) s

/-- R238, R243: a command that deallocates ranges, once nothing holds it and the buffer has room. -/
def deallocateAll (s : State) (c : Cmd) (ranges : List (Nat × Nat)) : State :=
  let held := ranges.any fun p => (List.range p.2).any fun i => s.blockHeld c (p.1 + i)
  if held || !s.mayReceive || decide (s.bufferSize < s.bufferUsed + 32 * ranges.length) then s
  else if s.journalRoom then (((ranges.foldl (fun s p => s.deallocate c p) s).journal).refreshBuffer).finish c.tag doneOk
  else s.journalStall

/-- R166, R203: zeros written, or units unmapped where `dealloc` is honoured (NVM namespaces only). -/
def writeZeroes (s : State) (c : Cmd) : State :=
  match s.namespaceOf c.req.ns with
  | none => s.finish c.tag { code := 0x0B, dnr := true }
  | some n =>
    if c.req.dealloc && !n.zoned then s.deallocateAll c [(c.lba, c.req.blocks)]
    else s.writeStep c (List.replicate (c.reserved - c.received) 0) false doneOk

/-! ### Reads (R163, R166, R211, R244) -/

/-- R211, R241: the read takes every block it can; a conventional block waits for MAP_LOADED unless the buffer has it. -/
def takeAll (s : State) (c : Cmd) : State :=
  let conv := match s.namespaceOf c.req.ns with
    | some n => !n.zoned
    | none => false
  (missing c).foldl (fun s i =>
    if conv && !s.flag R.MAP_LOADED && (s.newestInBuffer c.req.ns (c.lba + i)).isNone then s else s.takeBlock c.tag i) s

/-- R211, R212: the read takes its blocks, its media reads are queued, and its entry is released once it has them all. -/
def readStep (s : State) (t : Nat) (done : Cmd → State → State) : State :=
  match s.cmd t with
  | none => s
  | some c =>
    if !s.mtuRuns then s
    else
      let s := (s.takeAll c).queueReads t
      match s.cmd t with
      | none => s
      | some c => if (missing c).isEmpty then done c (s.releaseRead c) else s

/-- R163, R211: blocks sent to the host, up to block `n`, while none before it is missing or unreadable. -/
def sendBlocks (s : State) (c : Cmd) (n : Nat) : State :=
  let m := min n c.req.blocks
  if m ≤ c.sent then s
  else
    let s := s.emit (.readData c.port c.req.cid c.sent ((gotData c).drop c.sent |>.take (m - c.sent)))
    s.modCmd c.tag fun c => { c with sent := m }

/-- R204, R246: how a read of an unreadable block ends. -/
def badEnd (s : State) (c : Cmd) : Done :=
  if (List.range c.req.blocks).any fun i => decide (s.sourceOf c.req.ns (c.lba + i) = .offline) then zoneIsOffline
  else unrecoveredRead

/-- A read whose blocks are all taken ends: unreadable where a block is, else once its data is sent. -/
def endRead (n : Nat) (c : Cmd) (s : State) : State :=
  if gotBad c then s.finish c.tag (s.badEnd c)
  else
    let s := s.sendBlocks c n
    if c.req.blocks ≤ n then s.finish c.tag doneOk else s

/-- A check of a range ends (Verify). -/
def endVerify (c : Cmd) (s : State) : State := s.finish c.tag (if gotBad c then s.badEnd c else doneOk)

/-- R166: a Compare ends; a fused pair's Write fails with it. -/
def endCompare (data : List Nat) (c : Cmd) (s : State) : State :=
  let d := if gotBad c then s.badEnd c else if gotData c = data then doneOk else { code := 0x285 }
  let s := s.finish c.tag d
  match c.partner with
  | some p => if d = doneOk then s else s.finish p failedFused
  | none => s

/-! ### Zones (R229, R232, R233) -/

/-- R233: a zone leaves the active states; its context stays while its staging chain is not empty. -/
def leaveActive (s : State) (key : Nat) (c : ZoneCond) : State :=
  let s := s.modZone key fun z => { z with cond := c }
  { s with media := { s.media with ctxWait := s.media.ctxWait.filter fun k => k != key } }.refreshZones

/-- R229: one zone opened explicitly, or the status it meets. -/
def zoneOpen (s : State) (key : Nat) : State × Done :=
  let c := (s.zone key).cond
  if c = .offline then (s, zoneIsOffline) else if c = .readOnly then (s, zoneIsReadOnly)
  else if c = .full then (s, doneSense 0x1BF 5 0x24 0)
  else if !s.mayActivate key then (s, tooManyOpen)
  else (s.openZoneAs key .explicitlyOpened, doneOk)

/-- R229: one zone closed. -/
def zoneClose (s : State) (key : Nat) : State × Done :=
  let z := s.zone key
  if z.cond = .implicitlyOpened ∨ z.cond = .explicitlyOpened then
    if z.wp = 0 then (s.leaveActive key .empty, doneOk) else ((s.modZone key fun z => { z with cond := .closed }), doneOk)
  else if z.cond = .closed then (s, doneOk)
  else (s, doneSense 0x1BF 5 0x24 0)

/-- R229, R232: one zone finished. -/
def zoneFinish (s : State) (key cap : Nat) : State × Done :=
  let c := (s.zone key).cond
  if isActive c ∨ c = .empty then
    ((s.modZone key fun z => { z with wp := cap }).leaveActive key .full, doneOk)
  else if c = .full then (s, doneOk)
  else if c = .offline then (s, zoneIsOffline) else (s, zoneIsReadOnly)

/-- R250: relocated sectors of a zone that is reset: slipped while the band has slip sectors, else relocated afresh when they
are next written. -/
def slipAll (s : State) (ns z : Nat) (lost : List Nat) : State :=
  let key := zoneKey ns z
  lost.foldl (fun s l =>
    let room := 64 - Config.slipsListed ns z - (s.zone key).slips.length
    match (List.range (2 ^ 19)).find? fun r => decide (s.placeLoc ns z r = l) with
    | some r => if room = 0 then { s with media := { s.media with afresh := s.media.afresh ++ [l] } }
                else s.modZone key fun z => { z with slips := ((z.slips.filter fun x => x < r) ++ [r]) ++ z.slips.filter fun x => r < x }
    | none => s) s

/-- R522: POOL_STALL follows the lanes that wait for a pool buffer. -/
def showStalls (s : State) : State :=
  let m := s.pak.lanes.foldl (fun m e => match e.2 with
    | some l => if l.stalled.isSome then setBit m e.1 else m
    | none => m) 0
  s.wr R.POOL_STALL m

/-- R232, R250, R523: a zone's sectors leave the relocation table, its blocks the buffer, its Pack blocks the lanes and the
staging chain, its relocations stop. Blocks not yet visible are of later commands (R211). -/
def discardZone (s : State) (ns z len : Nat) : State :=
  let mine := fun (l : Nat) => match s.namespaceOf ns with
    | some n => (List.range (s.bandSize n ns z)).any fun i => s.bandLoc ns z i == l
    | none => false
  let t := { s.media.tables with reloc := s.media.tables.reloc.filter fun e => !mine e.1 }
  let inZone := fun (n b : Nat) => n == ns && b / len == z
  let b := s.media.buffer.filter fun x => !(inZone x.ns x.lba && x.visible)
  let lost := (s.media.tables.reloc.filter fun e => mine e.1).map fun e => e.1
  let key := zoneKey ns z
  let s := s.slipAll ns z lost
  let t := { t with zones := s.media.tables.zones }
  let m := { s.media with
    tables := t, buffer := b
    relocWait := s.media.relocWait.filter fun r => !mine r.loc
    back := s.media.back.filter fun e => !inZone e.serve.ns e.serve.lba
    wrote := s.media.wrote.filter fun l => !mine l }
  let m := { m with tables := { m.tables with zones := Store.modify {} m.tables.zones key fun z => { z with written := 0 } } }
  let gone := s.pak.units.filter fun u => inZone u.ns u.lba
  let held := (s.pak.lanes.map fun e => match e.2 with
    | some l => if inZone l.ns l.lba then l.have_ else 0
    | none => 0).foldl (· + ·) 0
  let k := { s.pak with
    units := s.pak.units.filter fun u => !inZone u.ns u.lba
    lanes := s.pak.lanes.filter fun e => match e.2 with
      | some l => !inZone l.ns l.lba
      | none => false
    ready := s.pak.ready.filter fun b => !inZone b.1 b.2
    freeDue := s.pak.freeDue + held + (gone.map fun u => u.pool).foldl (· + ·) 0 }
  ((({ s with media := m, pak := k }).wr R.RELOC_USED t.reloc.length).refreshBuffer).showStalls

/-- R515, R525: the free extern reserve of a namespace, with EXT_STOP set below 512 MiB (line 66) and clear from 768 MiB on. -/
def refreshExterns (s : State) (ns : Nat) : State :=
  match s.namespaceOf ns with
  | none => s
  | some n =>
    let k := ns - 1
    let used := (s.media.tables.zones.map fun z => if z.1 / 2 ^ 32 = ns then z.2.externs else 0).foldl (· + ·) 0
    let f := 1024 * n.extGib - ceilDiv used 256
    let s := s.wr (R.EXT_FREE_MIB k) f
    if f < 512 then if s.flag (R.EXT_STOP k) then s else (s.wr (R.EXT_STOP k) 1).raise 66
    else if 768 ≤ f then s.wr (R.EXT_STOP k) 0 else s

/-- R232, R233: one zone reset: pointer, context, relocations and externs (chapter 15) go. -/
def zoneReset (s : State) (ns z cap : Nat) : State × Done :=
  let key := zoneKey ns z
  let c := (s.zone key).cond
  if c = .offline then (s, zoneIsOffline) else if c = .readOnly then (s, zoneIsReadOnly)
  else
    let s := s.discardZone ns z cap
    let held := (s.zone key).externs
    let s := s.modZone key fun z => { z with wp := 0, externs := 0, overflow := 0 }
    let s := if held = 0 then s else s.refreshExterns ns
    let s := s.leaveActive key .empty
    (if (s.zone key).context then s.releaseContext key else s, doneOk)

/-- R229, R230: a write or append that arrived after the zone command `c` was accepted for zone `z`. -/
def laterWrites (s : State) (c : Cmd) (z cap : Nat) : Bool := s.hosts.cmds.any fun d =>
  decide (kindOf d.port d.req = .write ∨ kindOf d.port d.req = .append) && d.inHzt && decide (c.arrival < d.arrival)
    && d.req.ns == c.req.ns && d.lba / cap == z && match d.done with
    | some e => e.code == 0 && e.sas == 0
    | none => true

/-- R229, R230: a zone that a command closed or emptied opens again for the writes accepted after that command's arrival. -/
def reopenZone (s : State) (c : Cmd) (z cap : Nat) : State :=
  let key := zoneKey c.req.ns z
  let st := (s.zone key).cond
  if (st = .empty ∨ st = .closed) ∧ s.laterWrites c z cap then
    (s.openZoneAs key .implicitlyOpened).followZone c.req.ns (z * cap)
  else s

/-- One zone command on one zone. -/
def zoneAct (s : State) (c : Cmd) (z cap action : Nat) : State × Done :=
  let ns := c.req.ns
  let key := zoneKey ns z
  let r := if action = 1 then s.zoneClose key else if action = 2 then s.zoneFinish key cap
    else if action = 3 then s.zoneOpen key else s.zoneReset ns z cap
  (r.1.reopenZone c z cap, r.2)

/-- The zones that a command on all zones acts on: those in a state its move starts from (R229). -/
def allZones (s : State) (ns action : Nat) : List Nat :=
  let ok := fun (c : ZoneCond) =>
    if action = 1 then decide (c = .implicitlyOpened ∨ c = .explicitlyOpened)
    else if action = 2 then isActive c
    else if action = 3 then decide (c = .closed)
    else decide (isActive c ∨ c = .full)
  (s.media.tables.zones.filter fun e => e.1 / 2 ^ 32 == ns && ok e.2.cond).map fun e => e.1 % 2 ^ 32

/-- R209, R232: a zone command acts once the HZT releases its zones. -/
def zoneCmd (s : State) (c : Cmd) (action : Nat) : State :=
  match s.namespaceOf c.req.ns with
  | none => s.finish c.tag { code := 0x0B, dnr := true }
  | some n =>
    if !n.zoned then s.finish c.tag invalidOpcode
    else if !s.mtuRuns then s
    else if c.req.all then
      if s.hosts.hzt.any fun e => decide (e.arrival < c.arrival) && e.ns == c.req.ns then s
      else if s.journalRoom then
        let r := (s.allZones c.req.ns action).foldl (fun (x : State × Done) z =>
          if x.2 = doneOk then x.1.zoneAct c z n.zoneBlocks action else x) (s, doneOk)
        (r.1.journal).finish c.tag r.2
      else s.journalStall
    else
      let z := zoneOf n c.req.lba
      if (List.range n.zoneBlocks).any fun i => s.blockHeld c (z * n.zoneBlocks + i) then s
      else if s.journalRoom then
        let r := s.zoneAct c z n.zoneBlocks action
        (r.1.journal).finish c.tag r.2
      else s.journalStall

/-- R166, R203: zone descriptors from the zone of `lba` on, at most `room`. -/
def reportZones (s : State) (c : Cmd) (room : Nat) : State :=
  match s.namespaceOf c.req.ns with
  | none => s.finish c.tag { code := 0x0B, dnr := true }
  | some n =>
    if !n.zoned || n.zoneBlocks == 0 then s.finish c.tag invalidOpcode
    else
      let z0 := c.req.lba / n.zoneBlocks
      let l := (List.range (min room (n.size / n.zoneBlocks - z0))).map fun i =>
        let z := s.zone (zoneKey c.req.ns (z0 + i))
        (z0 + i, z.cond, (z0 + i) * n.zoneBlocks + z.wp)
      (s.emit (.zones c.port c.req.cid l)).finish c.tag doneOk

/-! ### Formatting and erasing (R165, R208, R650) -/

/-- R650: every zone of the namespace Empty and every unit unmapped; its data leaves the buffer. -/
def clearNamespace (s : State) (ns : Nat) : State :=
  let z := s.media.tables.zones.map fun e =>
    if e.1 / 2 ^ 32 = ns then (e.1, { e.2 with cond := ZoneCond.empty, wp := 0, ap := 0, context := false,
                                               externs := 0, overflow := 0, written := 0 }) else e
  let z := z.filter fun e => decide (e.2 ≠ ({} : Zone))
  let t := { s.media.tables with zones := z, map := s.media.tables.map.filter fun e => e.1 / 2 ^ 32 != ns }
  let b := s.media.buffer.filter fun x => x.ns != ns
  let m := { s.media with tables := t, buffer := b, ctxWait := s.media.ctxWait.filter fun k => k / 2 ^ 32 != ns }
  ((({ s with media := m }).grantContexts).refreshZones).refreshBuffer

/-- R650: the cryptographic erase: buffer data discarded, a new key, zones reset, units unmapped, counted, line 200. -/
def cryptoErase (s : State) (ns : Nat) : State :=
  let (k, s) := s.free
  let s := { s with nv := { s.nv with keys := Store.put 0 s.nv.keys ns k } }
  (((s.clearNamespace ns).journal).count R.CRYPTO_ERASE_CNT).raise 200

/-- R650: the erase waits until no Keep store image is unconsumed. -/
def imagesConsumed (s : State) : Bool := !(unconsumed s.ksc.area0 || unconsumed s.ksc.area1)

/-- R167, R208: a format or sanitize of the namespaces `l` announced to every other host; the other controllers list them as
changed. -/
def announceFormat (s : State) (c : Cmd) (l : List Nat) : State :=
  let nexus := if 4 ≤ c.port then some (32 * (c.port - 4) + c.req.queue) else none
  let port := if c.port < 4 then some c.port else none
  let s := ((List.range 4).filter fun k => some k != port && s.flag (R.CTRL_EN k)).foldl
    (fun s k => s.modCtrl k fun x => { x with changedNs := x.changedNs ++ l }) s
  (s.postUaAll 0x2800 nexus).eventAll 0x040002 port

/-- R165, R203: a namespace formatted; `crypto` for SES 1 and 2. -/
def formatNs (s : State) (c : Cmd) (crypto : Bool) : State :=
  if !s.nsExists c.req.ns then s.finish c.tag { code := 0x0B, dnr := true }
  else if s.hosts.hzt.any (fun e => decide (e.arrival < c.arrival) && e.ns == c.req.ns) || !s.mtuRuns
      || (crypto && !s.imagesConsumed) then s
  else
    let s := if crypto then s.cryptoErase c.req.ns else (s.clearNamespace c.req.ns).journal
    (s.announceFormat c [c.req.ns]).finish c.tag doneOk

/-- R165, R650: Sanitize Cryptographic Erase of every namespace. -/
def sanitizeAll (s : State) (c : Cmd) (l : List Nat) : State :=
  if s.hosts.hzt.any (fun e => decide (e.arrival < c.arrival) && l.contains e.ns) || !s.mtuRuns || !s.imagesConsumed then s
  else ((l.foldl cryptoErase s).announceFormat c l).finish c.tag doneOk

/-- The namespaces that exist. -/
def allNamespaces (s : State) : List Nat := s.nv.namespaces.map fun e => e.1

/-! ### Firmware images (R170, R651) -/

/-- R651: staged data of endpoint `ep` at 4 KiB block `b` on. -/
def stage (s : State) (ep b : Nat) (data : List Nat) : State :=
  let put := fun (m : Store Nat) (p : Nat × Nat) => Store.put 0 m (ep * 65536 + b + p.1) p.2
  { s with hosts := { s.hosts with fwStage := ((List.range data.length).zip data).foldl put s.hosts.fwStage } }

/-- R651: the image endpoint `ep` has staged. -/
def stagedImage (s : State) (ep : Nat) : Image :=
  parseImage (s.hosts.fwStage.foldl (fun v e =>
    if e.1 / 65536 = ep then v + e.2 * 2 ^ (32768 * (e.1 % 65536)) else v) 0)

/-- R651: the slot holds the running firmware. -/
def slotRuns (s : State) (slot : Nat) : Bool := decide (slot < 2) && s.rd R.BOOT_SLOT == slot && s.boot.firmware.isSome

/-- R651: how a rejected commit ends. -/
def rejectDone (code : Nat) : Done := doneSense (if code = 6 then 0x113 else 0x107) 5 0x26 0

/-- R651: a commit begins: the image is checked and, where accepted, its NOR write starts. -/
def startCommit (s : State) (ep slot action : Nat) (t : Option Nat) : State × Nat :=
  let i := s.stagedImage ep
  let code := imageCode s.fuses i (decide (2 ≤ slot)) false
  if code = 0 then ({ s with boot := { s.boot with update := some ⟨ep, slot, action, i, t⟩ } }, 0)
  else (s.raise 202, code)

/-- R126, R651: the boot control record follows the Commit Action. How many attempts a trial gets, 1 to 3, is left open. -/
def commitRecordFor (s : State) (j : UpdateJob) : State :=
  if j.slot < 2 then
    if j.action = 1 ∨ j.action = 3 then s.writeBootRecord fun r => { r with active := j.slot, trial := 0xFF, left := 0 }
    else if j.action = 2 then
      let (v, s) := s.free
      s.writeBootRecord fun r => { r with trial := j.slot, left := 1 + v % 3 }
    else s
  else s

/-- R208, R663: an accepted Commit Action 3 leaves its image staged in DRAM and announces the activation; its command completes
when the activation is over. -/
def stageActivation (s : State) (j : UpdateJob) : State :=
  ({ s with boot := { s.boot with activation := some ⟨j.image, j.slot, j.tag⟩ } }).postUaAll 0x3F01 none |>.eventAll 0x030102 none

/-- R651: the NOR write ends. -/
def updateDone (s : State) : State :=
  match s.boot.update with
  | none => s
  | some j =>
    let b := { s.boot with update := none, slots := Store.put none s.boot.slots j.slot (some j.image) }
    let s := (({ s with boot := b }).commitRecordFor j).raise 201
    let s := if j.endpoint = 6 then { s with mgt := { s.mgt with updateStatus := 0 } } else s
    if j.action = 3 then s.stageActivation j else match j.tag with
    | some t => s.finish t doneOk
    | none => s

/-- R170, R651: the commit of a host command. -/
def hostCommit (s : State) (c : Cmd) (slot action : Nat) : State :=
  if s.boot.update.isSome || (action == 3 && s.boot.activation.isSome) then s
  else if s.slotRuns slot then (s.raise 202).finish c.tag (doneSense 0x106 5 0x26 0)
  else
    let r := s.startCommit c.port slot action (some c.tag)
    if r.2 = 0 then r.1 else r.1.finish c.tag (rejectDone r.2)

end State

end Sys2Proof.Machine
end

