-- ==== Sys2Proof/Machine/Media.lean ====
section
/-!
DEFINITION. Machine/Media.lean: destage, band cleaning, the scheduling and the reports of media operations, relocation, the
map's journal and its reload, and failed heads and actuators (chapter 07).
-/
namespace Sys2Proof.Machine

open Arith

namespace State

/-! ### What a sector of a zone's band holds (R228, R245, R524) -/

/-- The Pack block (or conventional unit) that is compressed and not yet released. -/
def packUnit (s : State) (ns lba : Nat) : Option PackUnit := s.pak.units.find? fun u => u.ns == ns && u.lba == lba

/-- A sector read back that serves the same as `v`. -/
def backOf (s : State) (v : Serve) : Option BackSector :=
  s.media.back.find? fun e => e.serve.ns == v.ns && e.serve.lba == v.lba && e.serve.packed == v.packed && e.serve.idx == v.idx

/-- What sector `idx` of a packed zone's band is part of: its Pack block's LBA and its place in the stored block. -/
def packedPart (s : State) (n : Namespace) (ns zi idx : Nat) : Option (Nat × Nat) :=
  let k := slotSectors (s.zoneRatio ns zi)
  let a := s.slotArea n ns zi
  if idx < a then some (zi * n.zoneBlocks + 16 * (idx / k), idx % k)
  else
    let spills := fun (u : PackUnit) => u.ns == ns && zoneOf n u.lba == zi && u.extern.isNone
      && decide (u.spillAt ≤ idx - a) && decide (idx - a + k < u.spillAt + u.sectors.length)
    (s.pak.units.find? spills).map fun u => (u.lba, k + (idx - a) - u.spillAt)

/-- What sector `idx` of a zone's band serves as it stands staged for media; none where it is not staged. -/
def stagedAt (s : State) (n : Namespace) (ns zi idx : Nat) : Option Serve :=
  let pick := fun (v : Serve) (here : Bool) =>
    if here then some v else if (s.backOf v).isSome then some { v with kind := .rewrite } else none
  if s.zoneRatio ns zi = 0 then
    let b := zi * n.zoneBlocks + idx
    pick ⟨.destage, none, ns, b, false, 0⟩ (s.newestInBuffer ns b).isSome
  else
    match s.packedPart n ns zi idx with
    | some p => pick ⟨.destage, none, ns, p.1, true, p.2⟩ (s.packUnit ns p.1).isSome
    | none => none

/-- The user data and the unreadable mark (R246) a write stores for what `v` serves. -/
def sectorData (s : State) (v : Serve) : Nat × Bool :=
  let back := match s.backOf v with
    | some e => (e.data, e.bad)
    | none => (0, false)
  if v.kind = .rewrite ∨ v.kind = .cleaning then back
  else if v.packed then
    match s.packUnit v.ns v.lba with
    | some u => (u.sectors.getD v.idx 0, (List.range 16).any fun i => match s.newestInBuffer v.ns (v.lba + i) with
      | some b => b.poisoned
      | none => false)
    | none => back
  else match s.newestInBuffer v.ns v.lba with
    | some b => (b.data, b.poisoned)
    | none => back

/-- The first sector of the track of a band that holds sector `idx`. -/
def trackFirst (s : State) (ns zi : Nat) : Nat → Nat
  | 0 => 0
  | i + 1 => if s.bandLoc ns zi i / 4096 = s.bandLoc ns zi (i + 1) / 4096 then s.trackFirst ns zi i else i + 1

/-- One past the last staged sector from `i` on, within `i`'s track and below `size`. -/
def stagedTo (s : State) (n : Namespace) (ns zi size track : Nat) : (fuel i : Nat) → Nat
  | 0, i => i
  | fuel + 1, i =>
    if i < size ∧ s.bandLoc ns zi i / 4096 = track ∧ (s.stagedAt n ns zi i).isSome then
      s.stagedTo n ns zi size track fuel (i + 1)
    else i

/-! ### Operations under way -/

/-- The operations queued for or issued to actuator `n`. -/
def opsUnderWay (s : State) (n : Nat) : List MediaOp :=
  Store.get [] s.media.queue n ++ opsOf (s.fsqOf n).issued ++ opsOf (s.fsqOf n).current

/-- An operation of one of these kinds serves a sector `ok` of actuator `n`. -/
def opServes (s : State) (n : Nat) (kinds : List OpKind) (ok : Serve → Bool) : Bool :=
  (s.opsUnderWay n).any fun o => kinds.contains o.kind && o.sectors.any ok

/-- R245: buffer use exceeds BUF_HWM_PCT. -/
def bufferHot (s : State) : Bool := decide (s.rd R.BUF_HWM_PCT * s.bufferSize < 100 * s.bufferUsed)

/-- What serves a sector of zone `zi` of a namespace. -/
def servesZone (n : Namespace) (ns zi : Nat) (v : Serve) : Bool := v.ns == ns && zoneOf n v.lba == zi

/-- The zones on actuator `n` that the tables list, as (namespace, NSID, zone). -/
def zonesOn (s : State) (n : Nat) : List (Namespace × Nat × Nat) :=
  s.media.tables.zones.filterMap fun e =>
    let ns := e.1 / 2 ^ 32
    let zi := e.1 % 2 ^ 32
    match s.namespaceOf ns with
    | some m => if m.zoned && (zi + ns) % 4 == n then some (m, ns, zi) else none
    | none => none

/-- Host data of the zone or namespace part `ok` waits for media: its oldest arrival. -/
def oldestDirty (s : State) (ok : BufBlock → Bool) : Option Nat :=
  ((s.media.buffer.filter fun b => b.visible && !b.onMedia && ok b).map fun b => b.arrival).min?

/-! ### Destage of zones (R226, R245) -/

/-- The sectors a zone's band is written with, without slips. -/
def writtenSize (s : State) (n : Namespace) (ns zi : Nat) : Nat := s.bandSize n ns zi

/-- R245: the zone's next track queued for writing once it is staged whole, or in part where `part` holds; a track written in
part before is read back first, with the track before it. R250: sectors relocated since are not written. -/
def destageZone (s : State) (n : Namespace) (ns zi : Nat) (part : Bool) : State :=
  let z := s.zone (zoneKey ns zi)
  let busy := s.opServes ((zi + ns) % 4) [.destage, .rewrite] (servesZone n ns zi)
  if busy || z.cond = .readOnly || z.cond = .offline then s
  else
    let size := s.writtenSize n ns zi
    let d := z.written
    let f := s.trackFirst ns zi d
    let track := s.bandLoc ns zi d / 4096
    let t := s.stagedTo n ns zi size track 4096 d
    let whole := decide (size ≤ t) || decide (s.bandLoc ns zi t / 4096 ≠ track)
    if t = d || !(whole || part || z.cond = .closed || z.cond = .full) then s
    else
      let p := if d = f then f else s.trackFirst ns zi (f - 1)
      let span := fun (a b : Nat) => (List.range (b - a)).map fun i => a + i
      let lack := (span p d).filter fun i => (s.stagedAt n ns zi i).isNone
      if d ≠ f && !lack.isEmpty then
        let serve := fun (i : Nat) => if s.zoneRatio ns zi = 0 then some (zi * n.zoneBlocks + i, false, 0)
          else (s.packedPart n ns zi i).map fun q => (q.1, true, q.2)
        s.queueAll .rewrite false false (lack.filterMap fun i => (serve i).map fun q =>
          (s.relocated (s.bandLoc ns zi i), ⟨.rewrite, none, ns, q.1, q.2.1, q.2.2⟩))
      else
        let l := (span f t).filterMap fun i => (s.stagedAt n ns zi i).map fun v => (s.bandLoc ns zi i, v)
        s.queueAll .destage true (!whole) (l.filter fun e => s.relocated e.1 == e.1)

/-- R524: the externs of compressed blocks queued for writing. -/
def destageExterns (s : State) (n : Nat) : State :=
  s.pak.units.foldl (fun s u =>
    match u.extern, s.namespaceOf u.ns with
    | some e, some m =>
      let k := slotSectors (s.zoneRatio u.ns (zoneOf m u.lba))
      let l := (List.range (u.sectors.length - k)).map fun j =>
        (Config.externPlace u.ns (16 * e + j), (⟨.destage, none, u.ns, u.lba, true, k + j⟩ : Serve))
      let due := l.filter fun p => surfaceOf p.1 / 8 == n && !u.onMedia.contains p.2.idx
        && !s.opServes n [.destage] fun v => v == p.2
      s.queueAll .destage true false due
    | _, _ => s) s

/-- The zones of actuator `n` destaged: above BUF_HWM_PCT the zone with the oldest staged data also in part. -/
def destageZones (s : State) (n : Nat) : State :=
  let l := s.zonesOn n
  let age := fun (e : Namespace × Nat × Nat) => s.oldestDirty fun b => b.ns == e.2.1 && zoneOf e.1 b.lba == e.2.2
  let oldest := (l.filterMap age).min?
  (l.foldl (fun s e => s.destageZone e.1 e.2.1 e.2.2 (s.bufferHot && (age e).isSome && age e == oldest)) s).destageExterns n

/-! ### Destage of the conventional log (R237 to R239, R245) -/

/-- The conventional units, as (NSID, unit), with host data that waits for media, oldest first. -/
def dirtyUnits (s : State) : List (Nat × Nat) :=
  let l := s.media.buffer.filter fun b => b.visible && !b.onMedia && !b.queued && match s.namespaceOf b.ns with
    | some n => !n.zoned
    | none => false
  (l.map fun b => (b.ns, b.lba / 16)).eraseDups

/-- R238: the blocks of a unit that the buffer does not hold. -/
def absent (s : State) (ns u : Nat) : List Nat :=
  (List.range 16).filter fun i => (s.newestInBuffer ns (16 * u + i)).isNone

/-- R238: a unit's merge is complete. -/
def merged (s : State) (ns u : Nat) : Bool := (s.absent ns u).isEmpty || (s.mapped ns (16 * u)).isNone

/-- A block put in the buffer for a merge: it is older than any host's write. -/
def placeOld (s : State) (ns b data : Nat) (bad : Bool) : State :=
  let x : BufBlock := { ns := ns, lba := b, data := data, arrival := 0, visible := true, onMedia := true, poisoned := bad }
  { s with media := { s.media with buffer := s.media.buffer ++ [x] } }

/-- R238: reads of the blocks that some units lack; R251: a block on an actuator declared failed is lost. -/
def mergeReads (s : State) (units : List (Nat × Nat)) : State :=
  units.foldl (fun s u =>
    if s.merged u.1 u.2 then s
    else
      let l := s.absent u.1 u.2
      if s.onFailed u.1 (16 * u.2) then l.foldl (fun s i => s.placeOld u.1 (16 * u.2 + i) 0 true) s
      else
        let busy := actuators.any fun n => s.opServes n [.readBack] fun v => v.ns == u.1 && v.lba / 16 == u.2
        if busy then s else s.planReads .readBack none (l.map fun i => (u.1, 16 * u.2 + i))) s

/-- R238, R523: the 65,536 bytes that a Pack block's or map unit's blocks are in the buffer; a block it does not hold is zeros. -/
def packSource (s : State) (ns lba : Nat) : Nat :=
  (List.range 16).foldl (fun d i => d + (match s.newestInBuffer ns (lba + i) with
    | some b => b.data
    | none => 0) * 2 ^ (32768 * i)) 0

/-- The sectors of a unit ready for the log; none where it is not ready: a Pack unit must be compressed as it now is. -/
def unitServes (s : State) (ns u : Nat) : Option (List Serve) :=
  match s.namespaceOf ns with
  | none => none
  | some n =>
    if s.media.buffer.any fun b => b.queued && b.ns == ns && b.lba / 16 == u then none
    else match s.packUnit ns (16 * u) with
    | some k => if k.queued.isEmpty && k.source == s.packSource ns (16 * u) then
        some ((List.range k.sectors.length).map fun j =>
          if k.raw then ⟨.destage, none, ns, 16 * u + j, false, 0⟩ else ⟨.destage, none, ns, 16 * u, true, j⟩)
      else none
    | none =>
      if n.ratio = 0 && s.merged ns u then some ((List.range 16).map fun j => ⟨.destage, none, ns, 16 * u + j, false, 0⟩)
      else none

/-- R239: the sectors of a unit that band cleaning rewrites, read back whole; none while a sector is missing. -/
def cleanServes (s : State) (ns u : Nat) : Option (List Serve) :=
  match s.mapped ns (16 * u) with
  | none => none
  | some e =>
    let l := (List.range e.len).map fun j =>
      if e.packed then (⟨.cleaning, none, ns, 16 * u, true, j⟩ : Serve) else ⟨.cleaning, none, ns, 16 * u + j, false, 0⟩
    if l.all fun v => (s.backOf v).isSome then some l else none

/-- R239: the sectors of the units to clean that are not yet read back are queued. -/
def cleanReads (s : State) : State :=
  s.media.cleanUnits.foldl (fun s u =>
    match s.mapped u.1 (16 * u.2) with
    | none => s
    | some e =>
      let l := (List.range e.len).map fun j => (s.relocated (e.loc + j),
        if e.packed then (⟨.rewrite, none, u.1, 16 * u.2, true, j⟩ : Serve) else ⟨.rewrite, none, u.1, 16 * u.2 + j, false, 0⟩)
      let due := l.filter fun p => (s.backOf p.2).isNone && !actuators.any fun n => s.opServes n [.rewrite] fun v => v == p.2
      s.queueAll .rewrite false false due) s

/-- The log filled with units in order: the sectors taken while whole units fit in `room`, and whether one did not fit. -/
def fillLog (room : Nat) : List (List Serve) → List Serve × Bool
  | [] => ([], false)
  | u :: rest => if u.length ≤ room then
      let r := fillLog (room - u.length) rest
      (u ++ r.1, r.2)
    else ([], true)

/-- The units mapped on the track of `loc` before it: what a track of the log written in part already holds. -/
def heldOnTrack (s : State) (loc : Nat) : List (Nat × Serve) :=
  s.media.tables.map.flatMap fun e => match e.2 with
    | some m => if m.loc / 4096 = loc / 4096 ∧ m.loc < loc then
        (List.range m.len).map fun j =>
          let ns := e.1 / 2 ^ 32
          let b := 16 * (e.1 % 2 ^ 32)
          (m.loc + j, if m.packed then (⟨.rewrite, none, ns, b, true, j⟩ : Serve) else ⟨.rewrite, none, ns, b + j, false, 0⟩)
      else []
    | none => []

/-- R245: the track of the log before that of `loc`, in the same band. -/
def trackBefore (loc : Nat) : Option Nat :=
  if (Config.convBand (surfaceOf loc) (trackOf loc)).2.1 then none else some (loc / 4096 * 4096 - 1)

/-- R238, R245: the conventional log goes on at place `at_` with `room` sectors on actuator `n`. A track written in part
before is read back first, with the track before it, and written from its first sector. -/
def destageLog (s : State) (n at_ room : Nat) : State :=
  let busy := s.opServes n [.destage, .cleaning] fun v => match s.namespaceOf v.ns with
    | some m => !m.zoned
    | none => v.ns == 0
  if busy || !s.flag R.MAP_LOADED then s
  else
    let stall := s.flag R.CONV_WRITE_STALL
    let dirty := if stall then [] else s.dirtyUnits
    let ready := (dirty.filterMap fun u => s.unitServes u.1 u.2) ++ s.media.cleanUnits.filterMap fun u => s.cleanServes u.1 u.2
    let r := fillLog room ready
    if r.1.isEmpty then s.mergeReads dirty
    else if !(r.2 || r.1.length == room || s.bufferHot) then s.mergeReads dirty
    else
      let s := s.mergeReads dirty
      let first := at_ % 4096
      let old := s.heldOnTrack at_
      let before := match trackBefore at_ with
        | some l => s.heldOnTrack (l + 1)
        | none => []
      let lack := if first = 0 then [] else (old ++ before).filter fun p => (s.backOf p.2).isNone
      if !lack.isEmpty then s.queueAll .rewrite false false (lack.map fun p => (s.relocated p.1, p.2))
      else
        let filler : Serve := ⟨.rewrite, none, 0, 0, false, 0⟩
        let head := (List.range first).map fun i => match old.find? fun p => p.1 == at_ - first + i with
          | some p => p.2
          | none => filler
        let units := (r.1.filter fun v => v.kind = .destage).map fun v => (v.ns, v.lba / 16)
        let mark := fun (b : BufBlock) =>
          if units.contains (b.ns, b.lba / 16) && (s.newestInBuffer b.ns b.lba) == some b then { b with queued := true } else b
        let k := s.pak.units.map fun u => if units.contains (u.ns, u.lba / 16) then { u with queued := [0] } else u
        let s := { s with media := { s.media with buffer := s.media.buffer.map mark }, pak := { s.pak with units := k } }
        s.queueOp { kind := .destage, write := true, surface := surfaceOf at_, track := trackOf at_, first := 0
                    sectors := head ++ r.1, partialTrack := !r.2 && r.1.length != room, queuedMs := s.nowMs }

/-- R239: CONV_FREE_BANDS, CONV_WRITE_STALL and band cleaning follow the free conventional bands; the units to clean are
taken while cleaning runs, background work is allowed (R105) and no throttle forbids it (R618). -/
def convBands (s : State) (free : Nat) (clean : List (Nat × Nat)) : State :=
  let s := s.wr R.CONV_FREE_BANDS free
  let low := s.rd R.FREE_BANDS_LOW
  let min_ := s.rd R.FREE_BANDS_MIN
  let on := if free < low then true else if 2 * low < free then false else s.media.cleaning
  let may := on && !s.pm.backgroundStopped && (s.rd R.THR_LEVEL == 0 || decide (free < min_))
  let u := if may then (s.media.cleanUnits ++ clean.filter fun u => !s.media.cleanUnits.contains u) else s.media.cleanUnits
  let m := { s.media with cleaning := on, cleanUnits := u.filter fun u => (s.mapped u.1 (16 * u.2)).isSome }
  let s := ({ s with media := m }).wrFlag R.CONV_WRITE_STALL (decide (free < min_))
  if may then s.cleanReads else s

/-! ### Reports of operations (R245, R376, R382) -/

/-- The namespace and zone that a sector of a zoned namespace serves. -/
def zoneServed (s : State) (v : Serve) : Option (Namespace × Nat × Nat) := match s.namespaceOf v.ns with
  | some n => if n.zoned then some (n, v.ns, zoneOf n v.lba) else none
  | none => none

/-- The sectors of an operation with their locations. -/
def opSectors (o : MediaOp) : List (Nat × Serve) :=
  ((List.range o.sectors.length).zip o.sectors).map fun p => (location o.surface o.track (o.first + p.1), p.2)

/-- R382: a write that ended early waits until the MTU forms it again. -/
def failWrite (s : State) (o : MediaOp) : State :=
  { s with media := { s.media with failedWrites := s.media.failedWrites ++ [o] } }

/-- The written count moved over places written, at most `fuel`. -/
def advanceWritten (s : State) (n : Namespace) (ns zi : Nat) : (fuel : Nat) → State
  | 0 => s
  | fuel + 1 =>
    let z := s.zone (zoneKey ns zi)
    let l := s.bandLoc ns zi z.written
    if z.written < s.writtenSize n ns zi ∧ (s.media.wrote.contains l ∨ s.relocated l ≠ l) then
      (s.modZone (zoneKey ns zi) fun z => { z with written := z.written + 1 }).advanceWritten n ns zi fuel
    else s

/-- Every sector of a Pack block of a zone stands on media below place `to`. -/
def unitBelow (s : State) (n : Namespace) (u : PackUnit) (upTo : Nat) : Bool :=
  let zi := zoneOf n u.lba
  let k := slotSectors (s.zoneRatio u.ns zi)
  let a := s.slotArea n u.ns zi
  let spill := u.sectors.length - k
  decide (k * ((u.lba - zi * n.zoneBlocks) / 16 + 1) ≤ upTo) &&
    (if u.extern.isSome then decide (spill ≤ u.onMedia.length) else spill == 0 || decide (a + u.spillAt + spill ≤ upTo))

/-- R245: zone blocks on media are marked, and those whose track's successor is written, or whose write ended in part, go. -/
def freeZone (s : State) (n : Namespace) (ns zi : Nat) : State :=
  let z := s.zone (zoneKey ns zi)
  let d := z.written
  let upTo := if s.writtenSize n ns zi ≤ d then d
    else if s.bandLoc ns zi d / 4096 = s.bandLoc ns zi (d - 1) / 4096 then d else s.trackFirst ns zi (d - 1)
  let packed := s.zoneRatio ns zi != 0
  let rel := fun (b : Nat) => b - zi * n.zoneBlocks
  let below := fun (ns b upTo : Nat) => if packed then match s.packUnit ns (b / 16 * 16) with
      | some u => s.unitBelow n u upTo
      | none => decide (slotSectors (s.zoneRatio ns zi) * (rel b / 16 + 1) ≤ upTo)
    else decide (rel b < upTo)
  let here := fun (b : BufBlock) => b.ns == ns && zoneOf n b.lba == zi && b.visible
  let buf := (s.media.buffer.filter fun b => !(here b && below ns b.lba upTo)).map fun b =>
    if here b && below ns b.lba d then { b with onMedia := true } else b
  let gone := fun (u : PackUnit) => u.ns == ns && zoneOf n u.lba == zi && s.unitBelow n u upTo
  let pool := ((s.pak.units.filter gone).map fun u => u.pool).foldl (· + ·) 0
  let back := s.media.back.filter fun e => !(e.serve.ns == ns && zoneOf n e.serve.lba == zi && decide (upTo = d))
  let k := { s.pak with units := s.pak.units.filter fun u => !gone u, freeDue := s.pak.freeDue + pool }
  { s with media := { s.media with buffer := buf, back := back }, pak := k }

/-- A write of a zone's run, or of externs, that wrote every sector. -/
def zoneWritten (s : State) (n : Namespace) (ns zi : Nat) (o : MediaOp) : State :=
  let l := opSectors o
  let ext := fun (u : PackUnit) => if u.extern.isSome && u.ns == ns then
      { u with onMedia := (u.onMedia ++ (l.filter fun p => p.2.lba == u.lba &&
        decide (slotSectors (s.zoneRatio ns zi) ≤ p.2.idx)).map fun p => p.2.idx).eraseDups }
    else u
  let again := l.filter fun p => s.media.afresh.contains p.1
  let rel := again.map fun p => ({ loc := p.1, user := (s.sectorData p.2).1
                                   metadata := ((Store.get none s.nv.sectors p.1).map fun x => x.metadata).getD 0 } : Reloc)
  let m := { s.media with
    wrote := s.media.wrote ++ l.map fun p => p.1
    afresh := s.media.afresh.filter fun x => !(again.map fun p => p.1).contains x
    relocWait := s.media.relocWait ++ rel }
  let s := { s with media := m, pak := { s.pak with units := s.pak.units.map ext } }
  let s := s.advanceWritten n ns zi 4096
  if s.opServes ((zi + ns) % 4) [.destage] (servesZone n ns zi) then s
  else
    let mine := l.map fun p => p.1
    ({ s with media := { s.media with wrote := s.media.wrote.filter fun x => !mine.contains x } }).freeZone n ns zi

/-- The first sectors of the units a log write holds, with their stored length, as (location, service, length). -/
def logUnits : List (Nat × Serve) → List (Nat × Serve × Nat)
  | [] => []
  | p :: rest =>
    let mine := fun (q : Nat × Serve) => q.2.ns == p.2.ns && q.2.lba / 16 == p.2.lba / 16
    let first := if p.2.packed then p.2.idx == 0 else p.2.lba % 16 == 0
    let more := logUnits rest
    if first && (decide (p.2.kind = .destage) || decide (p.2.kind = .cleaning)) then
      (p.1, p.2, 1 + (rest.filter mine).length) :: more
    else more

/-- R237, R239, R240: a log write done: its units' entries are journaled, and buffer space is freed under R245. -/
def logWritten (s : State) (o : MediaOp) : State :=
  let l := opSectors o
  let units := logUnits l
  let s := units.foldl (fun s u =>
    let key := u.2.1.ns * 2 ^ 32 + u.2.1.lba / 16
    let e : MapEntry := ⟨u.1, u.2.2, u.2.1.packed⟩
    let t := { s.media.tables with map := Store.put none s.media.tables.map key (some e) }
    { s with media := { s.media with tables := t } }) s
  let mine := fun (ns b : Nat) => units.any fun u => u.2.1.ns == ns && u.2.1.lba / 16 == b / 16
  let newest := fun (b : BufBlock) => s.media.buffer.any fun x =>
    x.queued && x.ns == b.ns && x.lba == b.lba && decide (b.arrival < x.arrival)
  let buf := (s.media.buffer.filter fun b => !(mine b.ns b.lba && b.visible && !b.queued && (newest b || b.arrival == 0))).map
    fun b => if mine b.ns b.lba && b.queued then { b with queued := false, onMedia := true } else b
  let band := Config.convBand o.surface o.track
  let free := fun (b : BufBlock) => b.onMedia && match s.mapped b.ns b.lba with
    | some e =>
      let w := Config.convBand (surfaceOf e.loc) (trackOf e.loc)
      w.1 == band.1 && (decide (trackOf e.loc < o.track) ||
        (trackOf e.loc == o.track && (o.partialTrack || band.2.2)))
    | none => false
  let pool := ((s.pak.units.filter fun u => mine u.ns u.lba && !u.queued.isEmpty).map fun u => u.pool).foldl (· + ·) 0
  let served := fun (e : BackSector) => o.sectors.any fun v => v.ns == e.serve.ns && v.lba == e.serve.lba
    && v.packed == e.serve.packed && v.idx == e.serve.idx
  let m := { s.media with
    buffer := buf.filter fun b => !free b
    cleanUnits := s.media.cleanUnits.filter fun u => !units.any fun x => x.2.1.ns == u.1 && x.2.1.lba / 16 == u.2
    back := s.media.back.filter fun e => !served e }
  let k := { s.pak with units := s.pak.units.filter fun u => !(mine u.ns u.lba && !u.queued.isEmpty)
                        freeDue := s.pak.freeDue + pool }
  ({ s with media := m, pak := k }).journal

/-- A write done, every sector of it written. -/
def writeDoneOp (s : State) (o : MediaOp) : State :=
  match o.sectors.findSome? s.zoneServed with
  | some z => (s.zoneWritten z.1 z.2.1 z.2.2 o).refreshBuffer
  | none =>
    if s.journalRoom then (s.logWritten o).refreshBuffer
    else ({ s with media := { s.media with reportWait := s.media.reportWait ++ [o] } }).journalStall

/-- R245: a write that ended early is formed again from the first sector of the track before it. -/
def reformWrite (s : State) (o : MediaOp) : State :=
  match o.sectors.findSome? s.zoneServed with
  | some z =>
    let key := zoneKey z.2.1 z.2.2
    let d := (s.zone key).written
    let f := s.trackFirst z.2.1 z.2.2 d
    let p := s.trackFirst z.2.1 z.2.2 (f - 1)
    let n := (z.2.2 + z.2.1) % 4
    let q := (Store.get [] s.media.queue n).filter fun x =>
      !(decide (x.kind = .destage) && x.sectors.any (servesZone z.1 z.2.1 z.2.2))
    let mine := (opSectors o).map fun p => p.1
    let m := { s.media with queue := Store.put [] s.media.queue n q, wrote := s.media.wrote.filter fun l => !mine.contains l }
    let s := ({ s with media := m }).wr (R.QUEUE_DEPTH n) (min 8191 q.length)
    let s := s.modZone key fun z => { z with written := min p z.written }
    let undo := fun (b : BufBlock) =>
      if b.ns == z.2.1 && zoneOf z.1 b.lba == z.2.2 && b.onMedia then { b with onMedia := false } else b
    { s with media := { s.media with buffer := s.media.buffer.map undo } }
  | none =>
    let before := trackBefore (location o.surface o.track 0)
    let undo := fun (b : BufBlock) =>
      let prev := b.onMedia && match s.mapped b.ns b.lba, before with
        | some e, some t => e.loc / 4096 == t / 4096
        | _, _ => false
      if prev || (o.sectors.any fun v => v.ns == b.ns && v.lba / 16 == b.lba / 16) then
        { b with queued := false, onMedia := b.onMedia && !prev } else b
    let k := s.pak.units.map fun u => if o.sectors.any fun v => v.ns == u.ns && v.lba / 16 == u.lba / 16
      then { u with queued := [] } else u
    { s with media := { s.media with buffer := s.media.buffer.map undo }, pak := { s.pak with units := k } }

/-- Every write that ended early formed again. -/
def reformWrites (s : State) : State :=
  let l := s.media.failedWrites
  l.foldl reformWrite { s with media := { s.media with failedWrites := [] } }

/-- R376: an operation's end as FSQn reports it: whether it was done, and the places in its run that were not written (R307,
R309) or not read (R342). Sectors not read are queued again with the age of their operation. -/
def reportOp (s : State) (o : MediaOp) (done : Bool) (not : List Nat) : State :=
  if o.write then if done && not.isEmpty then s.writeDoneOp o else s.failWrite o
  else
    let left := if done then not.filterMap fun i => (o.sectors[i]?).map fun v => (i, v) else (List.range o.sectors.length).zip o.sectors
    left.foldl (fun s p => s.queueOp { o with first := o.first + p.1, sectors := [p.2] }) s

/-! ### Choosing and issuing (R252, R253, R395, R527) -/

/-- R527: the packed sectors of a read. -/
def stageNeed (o : MediaOp) : Nat := if o.write then 0 else (o.sectors.filter fun v => v.packed).length

/-- R526, R527: sectors staged and not yet expanded. -/
def staged (s : State) : Nat := (s.pak.reads.map fun u => u.sectors.length).foldl (· + ·) 0

/-- R527: read staging has room for the operation. -/
def stageRoom (s : State) (o : MediaOp) : Bool :=
  stageNeed o == 0 || decide (s.staged + stageNeed o ≤ 256 * s.rd R.RD_STAGE_MIB)

/-- OP_TYPE of a queued operation. -/
def opType (o : MediaOp) : Nat := if o.write then 3 else if o.kind = .reread then 4 else 2

/-- R492, R507: a calibration run that holds head slot `h` of actuator `n` lets an operation use `head` there. -/
def runAllows (s : State) (n h head : Nat) : Bool :=
  (List.range 4).all fun k => match s.calRun k with
    | none => true
    | some r =>
      if r.type ≤ 5 then r.unit / 8 != n || r.slot != h || r.unit == 8 * n + head
      else (r.type != 6 && r.type != 7 && r.type != 9) || r.unit != n
        || (if h = 0 then r.head0 else r.head1) == some (8 * n + head)

/-- The half of a descriptor for a queued operation. -/
def opSlot (o : MediaOp) (addr : Nat) : OpSlot :=
  { head := o.surface % 8, zone := Config.recordingZone o.surface o.track, track := o.track, start := o.first
    count := o.sectors.length, dataAddr := addr }

/-- The queued operations, by index, that may be chosen for slot `h`. -/
def choosable (s : State) (n h : Nat) : List (Nat × MediaOp) :=
  let q := Store.get [] s.media.queue n
  ((List.range q.length).zip q).filter fun p => s.stageRoom p.2 && s.runAllows n h (p.2.surface % 8)

/-- The soonest-reached of some candidates: `reach` lists queue indexes, soonest first. -/
def soonest (reach : List Nat) (l : List (Nat × MediaOp)) : Option (Nat × MediaOp) :=
  match reach.findSome? fun i => l.find? fun p => p.1 == i with
  | some p => some p
  | none => l.head?

/-- R252: the operation chosen. -/
def chooseOp (s : State) (n h : Nat) (reach : List Nat) : Option (Nat × MediaOp) :=
  let l := s.choosable n h
  let old := l.filter fun p => decide (s.rd R.SCHED_AGE_MS < s.nowMs - p.2.queuedMs)
  match (old.map fun p => p.2.queuedMs).min? with
  | some t => old.find? fun p => p.2.queuedMs == t
  | none =>
    let d := l.filter fun p => decide (p.2.kind = .destage)
    soonest reach (if s.bufferHot && !d.isEmpty then d else l)

/-- R252, R618: the operation that pairs with the chosen one in the other slot. -/
def choosePair (s : State) (n h : Nat) (reach : List Nat) (c : Nat × MediaOp) : Option (Nat × MediaOp) :=
  if s.rd R.THR_LEVEL = 2 || s.flag (R.BANK0_COMPAT n) && s.rd (R.EXEC_SRC n) == 1
      || s.flag (R.BANK1_COMPAT n) && s.rd (R.EXEC_SRC n) == 2 then none
  else
    let near := fun (o : MediaOp) => decide (o.track ≤ c.2.track + s.rd R.PAIR_SPAN_TRK)
      && decide (c.2.track ≤ o.track + s.rd R.PAIR_SPAN_TRK)
    soonest reach ((s.choosable n (1 - h)).filter fun p => p.1 != c.1 && opType p.2 == opType c.2
      && p.2.rcvMode == c.2.rcvMode && p.2.surface != c.2.surface && near p.2
      && (stageNeed p.2 == 0 || decide (s.staged + stageNeed p.2 + stageNeed c.2 ≤ 256 * s.rd R.RD_STAGE_MIB)))

/-- The MTU may issue to FSQn (R252, R382, R659): it is idle, nothing holds the actuator, and no machine check stands. -/
def mayIssue (s : State) (n : Nat) : Bool :=
  s.mtuRuns && s.dom.svt && s.dom.med.testBit n && s.flag (R.FSQ_IDLE n) && (s.fsqOf n).issued.isNone
    && (s.fsqOf n).current.isNone && !s.flag (R.ACT_DRAINED n) && !s.flag (R.ACT_FAIL_DECL n) && !s.flag (R.MCHK n)

/-- R251: the heads of actuator `n` are off the media. -/
def headsOff (s : State) (n : Nat) : Bool := [2, 3, 4, 5].contains (s.rd (R.VCM_STATE n))

/-- An operation issued to FSQn. -/
def issue (s : State) (n : Nat) (i : Issued) : State :=
  let i := { i with desc := { i.desc with opId := s.media.nextOpId } }
  let s := { s with media := { s.media with nextOpId := (s.media.nextOpId + 1) % 2 ^ 32 } }
  (s.modFsq n fun f => { f with issued := some i }).wr (R.FSQ_IDLE n) 0

/-- R395: the native and compatibility limits of an operation type. -/
def typeAllowed (s : State) (n t : Nat) : Bool :=
  let compat := s.flag (R.BANK0_COMPAT n) && s.rd (R.EXEC_SRC n) == 1 || s.flag (R.BANK1_COMPAT n) && s.rd (R.EXEC_SRC n) == 2
  decide (1 ≤ t) && decide (t ≤ if compat then 8 else 15)

/-- R252: the next queued operation issued, with its pair. -/
def issueQueued (s : State) (n : Nat) (reach : List Nat) (pl : MediaPlace) : State :=
  let compat := !s.typeAllowed n 9
  let h := if compat then 0 else pl.slot.val
  match s.chooseOp n h reach with
  | none => s
  | some c =>
    let p := s.choosePair n h reach c
    let taken := c.1 :: (p.map fun x => x.1).toList
    let q := Store.get [] s.media.queue n
    let rest := (((List.range q.length).zip q).filter fun x => !taken.contains x.1).map fun x => x.2
    let s := ({ s with media := { s.media with queue := Store.put [] s.media.queue n rest } }).wr (R.QUEUE_DEPTH n)
      (min 8191 rest.length)
    let addr := fun (h : Nat) => if h = 0 then pl.addr0 else pl.addr1
    let put := fun (h : Nat) (o : MediaOp) => { o with dataAddr := addr h }
    let op0 := if h = 0 then some (put 0 c.2) else p.map fun x => put 0 x.2
    let op1 := if h = 1 then some (put 1 c.2) else p.map fun x => put 1 x.2
    let slotOf := fun (o : Option MediaOp) => match o with
      | some o => opSlot o o.dataAddr
      | none => {}
    let d : OpDesc := { opType := opType c.2, slotMask := ofBool op0.isSome + 2 * ofBool op1.isSome, rcvMode := c.2.rcvMode
                        slot0 := slotOf op0, slot1 := slotOf op1 }
    s.issue n ⟨d, op0, op1⟩

/-! ### Failed heads and actuators (R234, R251) -/

/-- R234: a zone whose head is declared unable changes its state, with its entry in the Changed Zone List and its event. -/
def changeZone (s : State) (ns zi : Nat) (c : ZoneCond) : State :=
  if (s.zone (zoneKey ns zi)).cond = c then s
  else
    let s := s.leaveActive (zoneKey ns zi) c
    let at_ := match s.namespaceOf ns with
      | some n => n.attached
      | none => 0
    (List.range 4).foldl (fun s k =>
      if at_.testBit k then
        (s.modCtrl k fun x => { x with changedZones := x.changedZones ++ [zoneKey ns zi] }).asyncEvent k 0xBFEF02
      else s) s

/-- R234: the new state of a zone whose head can no longer write, or read. -/
def unableState (c : ZoneCond) (read : Bool) : ZoneCond :=
  if read || c = .empty || c = .offline then .offline else .readOnly

/-- All zones of every zoned namespace. -/
def everyZone (s : State) : List (Nat × Nat) :=
  s.nv.namespaces.flatMap fun e => match e.2 with
    | some n => if n.zoned && n.zoneBlocks != 0 then (List.range (n.size / n.zoneBlocks)).map fun z => (e.1, z) else []
    | none => []

/-- R251: zone `zi`, on an actuator declared failed, is Offline and what the buffer held for it is gone. -/
def zoneFailed (s : State) (n : Namespace) (ns zi : Nat) : State :=
  let s := s.discardZone ns zi n.zoneBlocks
  let b := s.media.buffer.filter fun b => !(b.ns == ns && zoneOf n b.lba == zi)
  let s := ({ s with media := { s.media with buffer := b } }).leaveActive (zoneKey ns zi) .offline
  if (s.zone (zoneKey ns zi)).context then s.releaseContext (zoneKey ns zi) else s

/-- The reads that wait for block `b` are answered with an error. -/
def refuseBlock (s : State) (ns b : Nat) (readers : List Cmd) : State :=
  readers.foldl (fun s c => if took c (b - c.lba) then s else s.deliver c.tag ns b .unreadable) s

/-- The reads that wait for a sector are answered with an error. -/
def refuseSector (s : State) (v : Serve) : State :=
  let blocks := if v.packed then (List.range 16).map fun i => v.lba + i else [v.lba]
  let readers := s.hosts.cmds.filter fun c => decide (kindOf c.port c.req = .read) && c.req.ns == v.ns
  let s := blocks.foldl (fun s b => s.refuseBlock v.ns b readers) s
  { s with pak := { s.pak with reads := s.pak.reads.filter fun u => !(v.packed && u.ns == v.ns && u.lba == v.lba) } }

/-- R251: the blocks a waiting read of a failed actuator asked for are unreadable to the commands that read them. -/
def endWaiting (s : State) (o : MediaOp) : State :=
  if o.write then s.failWrite o else o.sectors.foldl refuseSector s

/-! ### Relocation (R249, R250) -/

/-- R249, R250: a sector that qualifies waits to be relocated, or is skipped while the table is full. -/
def qualify (s : State) (r : Reloc) : State :=
  if 262144 ≤ s.media.tables.reloc.length then s.count R.RELOC_SKIPPED
  else { s with media := { s.media with relocWait := s.media.relocWait ++ [r] } }

/-- R249: a sector recovered BLIND: one on the watch list qualifies; another enters it. -/
def watchBlind (s : State) (r : Reloc) : State :=
  if s.media.watch.contains r.loc then if s.flag R.RELOC_BLIND_EN then s.qualify r else s
  else
    let w := s.media.watch ++ [r.loc]
    let w := if 1024 < w.length then w.drop 1 else w
    ({ s with media := { s.media with watch := w } }).wr R.RELOC_WATCH_USED w.length

end State

/-! ### The commands -/

/-- MAP_LOAD (R241): after the first head load, the MTU's tables are the newest that media and the replayed tail give. -/
def execMapLoad (s : State) : Result :=
  .next (if s.flag R.MAP_LOADED || !s.mtuRuns || !s.media.loadedOnce then s
    else
      let t := match s.media.replayed with
        | some r => State.newerTables s.nv.tables r
        | none => s.nv.tables
      let t := if t.stamp < s.media.tables.stamp then s.media.tables else State.restartTables t
      let s := { s with media := { s.media with tables := t } }
      ((s.wr R.MAP_LOADED 1).wr R.RELOC_USED t.reloc.length).refreshZones)

/-- BUFFER_RESERVE (R242). -/
def execBufferReserve (s : State) : Result := .next s.reserveNext

/-- WRITE_CONTEXT_RELEASE (R233): the staging chain of a zone that is not active is empty. -/
def execWriteContextRelease (ns : BitVec 5) (zone : BitVec 20) (s : State) : Result :=
  .next (
    let key := State.zoneKey ns.toNat zone.toNat
    let z := s.zone key
    match s.namespaceOf ns.toNat with
    | none => s
    | some n =>
      let waits := s.media.buffer.any fun b => b.ns == ns.toNat && State.zoneOf n b.lba == zone.toNat && !b.onMedia
      if !s.mtuRuns || !z.context || State.isActive z.cond || waits then s else s.releaseContext key)

/-- MEDIA_OP_ISSUE (R226, R239, R245, R252, R253, R373, R395, R507, R527, R659): destage, cleaning and merge reads that are
due on actuator `n` are queued, and the chosen operation, or the operation given where there is one, is issued. -/
def execMediaOpIssue (n : Fin 4) (reach : List (BitVec 13)) (place : MediaPlace) (control : Option OpDesc) (s : State) : Result :=
  .next (
    if !s.mayIssue n.val then s
    else
      let s := s.reformWrites
      let s := s.convBands place.freeBands.toNat place.clean
      let s := s.destageZones n.val
      let s := match place.logAt with
        | some l => if State.surfaceOf l.1 / 8 = n.val then s.destageLog n.val l.1 l.2 else s
        | none => s
      match control with
      | some d => if s.typeAllowed n.val d.opType && !(decide (2 ≤ d.opType) && decide (d.opType ≤ 4)) then s.issue n.val ⟨d, none, none⟩ else s
      | none => if s.headsOff n.val then s else s.issueQueued n.val (reach.map fun i => i.toNat) place)

/-- JOURNAL_SEGMENT_WRITE (R240): the tail goes to a segment on media once it reaches JRNL_WM_256K; changes that waited for it
follow. -/
def execJournalSegmentWrite (s : State) : Result :=
  .next (
    if !s.mtuRuns || s.media.tailBytes < 262144 * s.rd R.JRNL_WM_256K then s
    else
      let m := { s.media with tailBytes := 0, segBytes := s.media.segBytes + s.media.tailBytes, reportWait := [] }
      let l := s.media.reportWait
      let s := { s with media := m, nv := { s.nv with tables := s.media.tables } }
      l.foldl State.writeDoneOp ((s.wr R.JRNL_TAIL_256K 0).wr R.JRNL_FULL_STALL 0))

/-- MAP_CHECKPOINT (R240): a checkpoint once the segments reach 1 GiB; the older segments are free. -/
def execMapCheckpoint (s : State) : Result :=
  .next (
    if !s.mtuRuns || s.media.segBytes < 2 ^ 30 then s
    else { s with media := { s.media with segBytes := 0 }, nv := { s.nv with tables := s.media.tables } })

/-- RELOCATE_SECTOR (R105, R250, R618): a waiting sector's decoded data written to its surface's spare area, then journaled. -/
def execRelocateSector (surface : Fin 32) (track : BitVec 24) (sector : BitVec 12) (spareTrack : BitVec 24)
    (spareSector : BitVec 12) (s : State) : Result :=
  .next (
    let l := State.location surface.val track.toNat sector.toNat
    let spare := State.location surface.val spareTrack.toNat spareSector.toNat
    match s.media.relocWait.find? fun r => r.loc == l with
    | none => s
    | some r =>
      let rest := s.media.relocWait.filter fun r => r.loc != l
      if !s.mtuRuns || s.pm.backgroundStopped || s.rd R.THR_LEVEL != 0 then s
      else if 262144 ≤ s.media.tables.reloc.length then
        ({ s with media := { s.media with relocWait := rest } }).count R.RELOC_SKIPPED
      else if !s.journalRoom then s.journalStall
      else
        let home := match s.media.tables.reloc.find? fun e => e.2 == l with
          | some e => e.1
          | none => l
        let md := setBit (r.metadata / 2 ^ 48 * 2 ^ 48 + spare) (8 * 13 + 2)
        let t := { s.media.tables with reloc := Store.put home s.media.tables.reloc home spare }
        let s := { s with media := { s.media with tables := t, relocWait := rest }
                          nv := { s.nv with sectors := Store.put none s.nv.sectors spare (some ⟨r.user, md, Store.get 0 s.nv.keys (field md 96 8)⟩) } }
        (s.wr R.RELOC_USED t.reloc.length).journal)

namespace State

/-- The zones of actuator `n` fail with it. -/
def zonesFailed (s : State) (n : Nat) : State :=
  (s.everyZone.filter fun z => (z.1 + z.2) % 4 == n).foldl (fun s z => match s.namespaceOf z.1 with
    | some m => s.zoneFailed m z.1 z.2
    | none => s) s

/-- The operations that wait for actuator `n` end, and the writes that cannot complete fail. -/
def actuatorLost (s : State) (n : Nat) : State :=
  let q := Store.get [] s.media.queue n
  let s := { s with media := { s.media with queue := Store.put [] s.media.queue n [] } }
  let s := q.foldl endWaiting (s.wr (R.QUEUE_DEPTH n) 0)
  let short := s.hosts.cmds.filter fun c => decide (kindOf c.port c.req = CmdKind.write) && c.done.isNone && s.needsFailed c
  (short.foldl (fun s c => s.writeShort c writeFault) s).refreshBuffer

end State

/-- ACTUATOR_FAIL_DECLARE (R251). -/
def execActuatorFailDeclare (n : Fin 4) (s : State) : Result :=
  .next (s.access (R.ACT_FAIL_DECL n.val) fun s =>
    if s.flag (R.ACT_FAIL_DECL n.val) then s
    else ((s.wr (R.ACT_FAIL_DECL n.val) 1).zonesFailed n.val).actuatorLost n.val)

/-- HEAD_DECLARED_UNABLE (R234): the zones of a head that cannot write, or read, become Read Only or Offline. -/
def execHeadDeclaredUnable (head : Fin 32) (read : Bool) (s : State) : Result :=
  .next (
    if !s.mtuRuns then s
    else
      let v := if read then { s.nv with noRead := setBit s.nv.noRead head.val } else { s.nv with noWrite := setBit s.nv.noWrite head.val }
      let s := { s with nv := v }
      let mine := s.everyZone.filter fun z => State.surfaceOf (s.bandLoc z.1 z.2 0) == head.val
      mine.foldl (fun s z => s.changeZone z.1 z.2 (State.unableState (s.zone (State.zoneKey z.1 z.2)).cond read)) s)

end Sys2Proof.Machine
end

