-- ==== Sys2Proof/Machine/Channel.lean ====
section
/-!
DEFINITION. Machine/Channel.lean: the read/write channels: gates, disk-locked clocks, sector starts, sync marks and handovers
to the Abacus (chapter 09; the LLR slots' grant is R339 of chapter 10).
-/
namespace Sys2Proof.Machine

open Arith

namespace State

/-! ### Gates (R299, R309) -/

/-- R309: a cut condition that persists on slot `h` of actuator `n`; R299: a slot whose rate is too high is held off. -/
def gateBlocked (s : State) (n h : Nat) : Bool :=
  !s.flag (R.WRITE_SAFE n) || s.flag R.PF_ACTIVE || s.flag R.FATAL || !s.bitAt (R.DLC_LOCK n) h || s.flag (R.DLC_RATE_ERR n h)

/-- R309: FSQn asserts or deasserts a write gate. An assertion is discarded while a cut condition persists; a deassertion in a
sector ends it early and is recorded (R311). -/
def setWriteGate (s : State) (n h : Nat) (on : Bool) : State :=
  if on then if s.gateBlocked n h then s else (s.setBitAt (R.WG_ON n) h).modSlot (2 * n + h) fun c => { c with cut := false }
  else if s.bitAt (R.WG_ON n) h && (s.slot (2 * n + h)).inSector then s.recordCut n h 5
  else s.clrBitAt (R.WG_ON n) h

/-- FSQn asserts or deasserts a read gate. -/
def setReadGate (s : State) (n h : Nat) (on : Bool) : State :=
  if on then if s.flag (R.DLC_RATE_ERR n h) then s else s.setBitAt (R.RG_ON n) h else s.clrBitAt (R.RG_ON n) h

/-- Both gates of a slot held off. -/
def gatesOff (s : State) (n h : Nat) : State := (s.setWriteGate n h false).setReadGate n h false

/-! ### The disk-locked clock (R299 to R306) -/

/-- R302, R304: the clock of a slot loses its lock. -/
def dlcUnlock (s : State) (n h : Nat) : State :=
  (s.clrBitAt (R.DLC_LOCK n) h).modSlot (2 * n + h) fun c => { c with goodFields := 0 }

/-- R304: DLC_LOST: reading stops at the next sector start; a write gate that is on is cut and reported (R309, R332). -/
def dlcLost (s : State) (n h : Nat) : State :=
  let writing := s.bitAt (R.WG_ON n) h
  let s := ((s.setBitAt (R.DLC_LOST n) h).raise (104 + 4 * n)).cutSlot n h 4
  let s := (s.clrBitAt (R.DLC_COASTING n) h).dlcUnlock n h
  let s := s.modSlot (2 * n + h) fun c => { c with stopRead := true, lostWedges := 0 }
  if writing then s.detect (145 + 16 * n) else s

/-- R304: a wedge that SVT reports lost makes a locked slot's clock coast; DLC_COAST_MAX of them in a row unlock it. -/
def dlcCoast (s : State) (n h : Nat) : State :=
  if !s.bitAt (R.DLC_LOCK n) h then s
  else
    let s := s.setBitAt (R.DLC_COASTING n) h
    let s := s.modSlot (2 * n + h) fun c => { c with lostWedges := c.lostWedges + 1 }
    let s := match (s.slot (2 * n + h)).llr with
      | some i => if (s.slot (2 * n + h)).inSector then s.modLlr i fun x => { x with flags := setBit x.flags 8 } else s
      | none => s
    if s.rd (R.DLC_COAST_MAX n h) ≤ (s.slot (2 * n + h)).lostWedges then s.dlcLost n h else s

/-- R299, R332: the slot's rate is over 8.0 GHz: its gates are held off and its clock does not run; the cut of a write gate
is recorded as the FCU's. -/
def rateError (s : State) (n h : Nat) : State :=
  if s.flag (R.DLC_RATE_ERR n h) then s
  else
    let s := ((s.wr (R.DLC_RATE_ERR n h) 1).cutSlot n h 2).setReadGate n h false
    ((s.dlcUnlock n h).clrBitAt (R.DLC_COASTING n) h).detect (146 + 16 * n)

/-- R301 to R303, R306: a timing field measured with a signed phase error in 1/256 symbol. -/
def timingField (s : State) (n h : Nat) (phase : Nat) : State :=
  let mag := (signed 8 phase).natAbs
  let s := (s.wr (R.DLC_RATE_ERR n h) 0).wr (R.DLC_PHERR n h) phase
  let s := s.raiseTo (R.DLC_PHMAX n h) (min 255 mag)
  let s := s.clrBitAt (R.DLC_COASTING n) h
  let s := s.modSlot (2 * n + h) fun c => { c with lostWedges := 0, goodFields := if mag ≤ 16 then c.goodFields + 1 else 0 }
  let s := if 2 ≤ (s.slot (2 * n + h)).goodFields then s.setBitAt (R.DLC_LOCK n) h else s
  if s.bitAt (R.WG_ON n) h && decide (s.rd (R.WPH_LIM n h) < mag) then
    ((((s.cutSlot n h 3).setBitAt (R.WPH_FAULT n) h).count (R.WPH_FAULT_CNT n)).raise (104 + 4 * n)).detect (144 + 16 * n)
  else s

/-! ### Joint detection (R313, R314) -/

/-- R314: the detection mode in force: an override of XFER 7, else JD_MODE; 3 acts as 0. -/
def detMode (s : State) (n h : Nat) : Nat :=
  let m := (s.slot (2 * n + h)).jdMode.getD (s.rd (R.JD_MODE n h))
  if m = 3 then 0 else m

/-- R313: the noise variances in force, in 1/2^16: 1/16 until 8 sectors have been read. -/
def noise (c : ChanSlot) : Nat × Nat :=
  if c.nv.length < 8 then (4096, 4096)
  else ((c.nv.map fun p => p.1).foldl (· + ·) 0 / 8, (c.nv.map fun p => p.2).foldl (· + ·) 0 / 8)

/-- R313: a weight `num / den` as a Q3.9 word, clamped to ±3.99; the rounding that the spec does not state is the free bit. -/
def weightWord (num : Int) (den : Nat) (free : Nat) : Nat :=
  let q : Int := num * 131072 / (den : Int)
  let exact := decide (num * 131072 % (den : Int) = 0)
  let v : Int := if 2042 < q then 2042 + (free % 2 : Nat) else if q < -2043 then -2042 - (free % 2 : Nat)
    else if exact then q else q + (free % 2 : Nat)
  unsigned 12 v

/-- R313: the weights in use from a sector start on; R314's modes use one reader and no weights. -/
def setWeights (s : State) (n h : Nat) : State :=
  if s.detMode n h ≠ 0 then s
  else if s.flag (R.JD_WFIX n h) then (s.wr (R.JD_WA_USE n h) (s.rd (R.JD_WA n h))).wr (R.JD_WB_USE n h) (s.rd (R.JD_WB n h))
  else
    let ma := s.rd (R.XT_M n h 0)
    let mb := s.rd (R.XT_M n h 1)
    if ma = 0 ∧ mb = 0 then (s.wr (R.JD_WA_USE n h) 0x200).wr (R.JD_WB_USE n h) 0
    else
      let (ia, ib) := (s.rd (R.XT_I n h 0), s.rd (R.XT_I n h 1))
      let (oa, ob) := (s.rd (R.XT_O n h 0), s.rd (R.XT_O n h 1))
      let nv := noise (s.slot (2 * n + h))
      let r11 : Int := ((ia * ia + oa * oa + nv.1 : Nat) : Int)
      let r12 : Int := ((ia * ib + oa * ob : Nat) : Int)
      let r22 : Int := ((ib * ib + ob * ob + nv.2 : Nat) : Int)
      let na := r22 * ma - r12 * mb
      let nb := r11 * mb - r12 * ma
      let d := (na * ma + nb * mb).toNat
      let (fa, s) := s.free
      let (fb, s) := s.free
      if d = 0 then (s.wr (R.JD_WA_USE n h) fa).wr (R.JD_WB_USE n h) fb
      else (s.wr (R.JD_WA_USE n h) (weightWord na d fa)).wr (R.JD_WB_USE n h) (weightWord nb d fb)

/-! ### Sector starts (R292, R298, R307, R309, R339, R342) -/

/-- R292: the words of a slot's registers that differ from reset, sampled. -/
def sampleSlot (s : State) (n h : Nat) : State :=
  let lo := 0x40100100 + 0x10000 * n + 0x100 * h
  let l := s.regs.filter fun e => decide (lo ≤ e.1) && decide (e.1 < lo + 0x100)
  s.modSlot (2 * n + h) fun c => { c with sampled := l, mode := s.detMode n h }

/-- A per-sector field as sampled at the sector start. -/
def sampledRd (c : ChanSlot) (f : Fld) : Nat := field (Store.get (BitVec.ofNat 32 f.rst) c.sampled f.addr).toNat f.lo f.width

/-- R298: written taps enter the filter; the others take their adapted values while FIR_ADAPT = 1. -/
def startTaps (s : State) (n h : Nat) (taps : List (Nat × Nat)) : State :=
  let pend := (s.slot (2 * n + h)).firPend
  let s := if s.flag (R.FIR_ADAPT n h) then
      (taps.filter fun t => !pend.contains t.1).foldl (fun s t => s.wr (R.FIR_TAP n h (t.1 / 16) (t.1 % 16)) t.2) s
    else s
  s.modSlot (2 * n + h) fun c => { c with firPend := [] }

/-- R339: slots held outside the reserves. -/
def sharedUsed (s : State) : Nat :=
  ((List.range 8).map fun k => s.rd (R.LLR_HELD k) - s.rd (R.LLR_RSV k)).foldl (· + ·) 0

/-- R339: slots in no reserve. -/
def sharedTotal (s : State) : Nat := 384 - ((List.range 8).map fun k => s.rd (R.LLR_RSV k)).foldl (· + ·) 0

/-- R339, R669: an LLR slot for stream `k`: from its reserve, or from the shared pool. -/
def llrSlotFor (s : State) (k : Nat) : Option Nat :=
  if s.flag R.PERT_ARM && decide (s.rd R.ABX_LLR_CAP ≤ s.rd R.LLR_USED) then none
  else if s.rd (R.LLR_HELD k) < s.rd (R.LLR_RSV k) || s.sharedUsed < s.sharedTotal then
    (List.range 384).find? fun i => (Store.get none s.abx.llr i).isNone
  else none

/-- The block number in a sector's metadata: free for a sector of no namespace. -/
def sectorLba (s : State) (v : Serve) : Nat × State := if v.ns = 0 then s.free else (v.lba, s)

/-- R337: the metadata of a sector at location `l` that serves `v`; the record number of NSID 0 is a free value. -/
def sectorMeta (s : State) (l : Nat) (v : Serve) (bad : Bool) (gen : Nat) : Nat × State :=
  let (lba, s) := s.sectorLba v
  (l + 2 ^ 48 * (lba % 2 ^ 48) + 2 ^ 96 * (v.ns % 256) + 2 ^ 104 * (ofBool bad + 2 * ofBool v.packed) + 2 ^ 112 * (gen % 2 ^ 16), s)

/-- R337: the band that a sector belongs to, and whether the sector is the band's first. -/
def bandOf (s : State) (l : Nat) (v : Serve) : Nat × Bool := match s.namespaceOf v.ns with
  | some n =>
    if n.zoned then (zoneKey v.ns (zoneOf n v.lba), s.bandLoc v.ns (zoneOf n v.lba) 0 == l)
    else let b := Config.convBand (surfaceOf l) (trackOf l)
      (2 ^ 60 + b.1, b.2.1 && l % 4096 == 0)
  | none => let b := Config.convBand (surfaceOf l) (trackOf l)
    (2 ^ 60 + b.1, b.2.1 && l % 4096 == 0)

/-- The user data that DRAM holds at a byte address. -/
def dramBlock (s : State) (addr : Nat) : Nat :=
  (List.range 64).foldl (fun d i => d + s.rawWord ((addr - 0x800000000) / 64 + i) * 2 ^ (512 * i)) 0

/-- R307, R335, R337, R648: sector `i` of a write run goes to the media. -/
def writeSector (s : State) (k : Nat) (r : SectorRun) (i : Nat) : State :=
  let l := location r.surface r.track (r.first + i)
  let v : Serve := match r.op with
    | some o => o.sectors.getD i ⟨.control, none, 0, 0, false, 0⟩
    | none => ⟨.control, none, 0, 0, false, 0⟩
  let d := match r.op with
    | some _ => s.sectorData v
    | none => (s.dramBlock (r.dataAddr + 4096 * i), false)
  let b := s.bandOf l v
  let s := if b.2 then { s with nv := { s.nv with bandGen := Store.modify 0 s.nv.bandGen b.1 fun g => (g + 1) % 2 ^ 16 } } else s
  let (m, s) := s.sectorMeta l v d.2 (Store.get 0 s.nv.bandGen b.1)
  let x : MediaSector := ⟨d.1, m, Store.get 0 s.nv.keys v.ns⟩
  let s := { s with nv := { s.nv with sectors := Store.put none s.nv.sectors l (some x) } }
  s.modSlot k fun c => { c with inSector := true }

/-- R342: a refused read run ends: its sectors left are skipped. -/
def skipRun (s : State) (k : Nat) (r : SectorRun) : State :=
  let s := ((s.wr (R.BP_ACTIVE k) 1).count R.BP_SKIP_CNT).raise 92
  s.modSlot k fun c => { c with
    skipped := c.skipped ++ (List.range (r.count - r.next)).map fun i => r.next + i
    run := some { r with next := r.count } }

/-- R357, R358: the ladder entry whose reread a sector is. -/
def ladderOf (s : State) (l : Nat) : Option Ladder := s.abx.ladder.find? fun x => x.location == l && x.waiting

/-- R339, R376: a read sector's LLR slot filled in with its request. -/
def takeSlot (s : State) (n h i : Nat) (r : SectorRun) : State :=
  let k := 2 * n + h
  let l := location r.surface r.track (r.first + r.next)
  let v : Serve := match r.op with
    | some o => o.sectors.getD r.next ⟨.control, none, 0, 0, false, 0⟩
    | none => ⟨.control, none, 0, 0, false, 0⟩
  let e := if v.kind = .reread then s.ladderOf l else none
  let x : LlrSlot := {
    stream := k, location := l, dataAddr := r.dataAddr + 4096 * r.next
    serve := match e with
      | some e => e.serve
      | none => v
    flags := if s.bitAt (R.DLC_COASTING n) h then 256 else 0
    mode := (s.slot k).mode
    maxErased := sampledRd (s.slot k) (R.DEF_MAX_SYM n h)
    step := (e.map fun e => e.step).getD 0
    combined := e.bind fun e => e.pin
    noCombine := (e.map fun e => e.noCombine).getD false }
  let s := { s with abx := { s.abx with llr := Store.put none s.abx.llr i (some x) } }
  let s := s.modSlot k fun c => { c with llr := some i, inSector := true, run := some { r with next := r.next + 1 } }
  (s.wr (R.BP_ACTIVE k) 0).refreshAbx

/-- R309: sector `r.next` of a write run passes: it is written, or reported as not written. A run whose gate was never
asserted, with no cut condition, has not begun. -/
def startWrite (s : State) (n h : Nat) (st : SlotStart) (r : SectorRun) : State :=
  let k := 2 * n + h
  let on := s.bitAt (R.WG_ON n) h
  let pass := s.modSlot k fun c => { c with run := some { r with next := r.next + 1 } }
  let miss := pass.modSlot k fun c => { c with notWritten := c.notWritten ++ [r.next] }
  if !on && !s.gateBlocked n h && r.next = 0 then s
  else if !on || st.lateGate then miss
  else if st.underrun then miss.setBitAt (R.WR_UNDERRUN n) h
  else pass.writeSector k r r.next

/-- R304, R339, R342: sector `r.next` of a read run passes. -/
def startRead (s : State) (n h : Nat) (st : SlotStart) (r : SectorRun) : State :=
  let k := 2 * n + h
  if !s.bitAt (R.RG_ON n) h then s
  else if (s.slot k).stopRead then
    s.modSlot k fun c => { c with
      skipped := c.skipped ++ (List.range (r.count - r.next)).map fun i => r.next + i
      run := some { r with next := r.count } }
  else match s.llrSlotFor k with
    | none => s.skipRun k r
    | some i =>
      let s := match st.gains with
        | some g => (s.wr (R.VGA_GAIN_A n h) (min 144 g.1.toNat)).wr (R.VGA_GAIN_B n h) (min 144 g.2.toNat)
        | none => s
      ((s.setWeights n h).takeSlot n h i r)

/-- R375: a strobe (`unit` 2) or sector start (3) of head slot 0 counted by a wait of FSQn. -/
def fsqCount (s : State) (n unit : Nat) : State :=
  match (s.fsqOf n).wait with
  | some w => if field w 42 2 = unit then s.modFsq n fun f => { f with waited := f.waited + 1 } else s
  | none => s

/-- R292: one slot reaches a sector start: the sector in progress ends, the per-sector fields are sampled, and a sector of the
armed run starts. -/
def sectorStart (s : State) (st : SlotStart) : State :=
  let n := st.stream.val / 2
  let h := st.stream.val % 2
  let k := st.stream.val
  let s := s.modSlot k fun c => { c with inSector := false, ended := c.llr.or c.ended, llr := none }
  let s := (s.startTaps n h (st.taps.map fun t => (t.1.val, t.2.toNat))).sampleSlot n h
  let s := if h = 0 then s.fsqCount n 3 else s
  match (s.slot k).run with
  | some r =>
    if r.next < r.count ∧ st.sector.toNat = r.first + r.next then
      if r.write then s.startWrite n h st r else s.startRead n h st r
    else s
  | none => s

/-! ### Marks and handover (R319 to R326, R345, R358) -/

/-- R320: candidate `a` comes before `b`. -/
def candBefore (a b : Int × Nat) : Bool :=
  decide (a.2 < b.2) || (a.2 == b.2 && (decide (a.1.natAbs < b.1.natAbs) || (a.1.natAbs == b.1.natAbs && decide (a.1 < b.1))))

/-- The first of some candidates by R320. -/
def bestCand (l : List (Int × Nat)) : Option (Int × Nat) :=
  l.foldl (fun b x => match b with
    | none => some x
    | some y => if candBefore x y then some x else some y) none

/-- R320, R321: the accepted candidate and, within a distance of 1, the runner-up. -/
def chooseCands (l : List (Int × Nat)) : List (Int × Nat) :=
  match bestCand l with
  | none => []
  | some a => match bestCand (l.filter fun x => x != a) with
    | some b => if b.2 ≤ a.2 + 1 then [a, b] else [a]
    | none => [a]

/-- R319 to R322, R325: the mark decision of the sector a slot is reading. -/
def decideMark (s : State) (n i : Nat) (cands : List (Int × Nat)) (predDist : Nat) : State :=
  let w : Int := s.rd (R.SYNC_WIN n)
  let pass := cands.filter fun c => decide (-w ≤ c.1) && decide (c.1 ≤ w) && decide (c.2 ≤ s.rd (R.SYNC_THR n))
  let l := chooseCands pass
  let blind := l.isEmpty
  let missed := blind && !s.flag (R.BLIND_EN n)
  let f := if missed then 2 ^ 10 else if blind then 1 else 0
  let s := s.modLlr i fun x => { x with decided := true, cands := l, blind := blind, predDist := predDist, flags := x.flags ||| f }
  let s := if f = 0 then s else s.raise (106 + 4 * n)
  if missed then s.count (R.SYNC_MISS_CNT n) else if blind then s.count (R.BLIND_CNT n) else s

/-- R317: a ninth span and those after it merge into the eighth. -/
def mergeSpans (l : List Span) : List Span :=
  let tail := l.drop 7
  l.take 7 ++ match tail.head?, tail.getLast? with
    | some a, some b => [{ start := a.start, len := (b.start + (b.len : Int) - a.start).toNat
                           a := tail.any fun x => x.a, b := tail.any fun x => x.b }]
    | _, _ => []

/-- R317: the span is erased in detection mode `m`: it covers every reader in use. -/
def spanErased (m : Nat) (x : Span) : Bool := if m = 0 then x.a && x.b else if m = 1 then x.a else x.b

/-- Erased positions of `l` within `len` from `from_` on. -/
def erasedWithin (l : List (Int × Nat)) (from_ : Int) (len : Nat) : Nat :=
  (l.map fun e => (min (e.1 + (e.2 : Int)) (from_ + (len : Int)) - max e.1 from_).toNat).foldl (· + ·) 0

/-- R358: the positions erased in both of two reads. -/
def erasedBoth (a b : List (Int × Nat)) : List (Int × Nat) :=
  a.flatMap fun x => (b.map fun y =>
    let lo := max x.1 y.1
    (lo, (min (x.1 + (x.2 : Int)) (y.1 + (y.2 : Int)) - lo).toNat)).filter fun e => e.2 != 0

/-- R345: a framing at an offset is within the erasure limit. -/
def framingAllowed (s : State) (erased : List (Int × Nat)) (ofs : Int) : Bool :=
  !s.flag R.ERASE_LIMIT_EN || decide (erasedWithin erased ofs 37632 ≤ 4704)

/-- R344: the budget of a framing at a ladder step. -/
def budgetAt (s : State) (step : Nat) : Nat := s.rd (if step = 0 then R.ITER_MAX else R.RCV_ITER_MAX)

/-- R321, R322, R345: the framings of a decided sector. -/
def framingsOf (s : State) (x : LlrSlot) (erased : List (Int × Nat)) : List Framing :=
  let l := if x.blind then [((0 : Int), x.predDist)] else x.cands
  ((List.range l.length).zip l).map fun p =>
    { kind := p.1, ofs := p.2.1, dist := p.2.2, budget := s.budgetAt x.step
      st := if s.framingAllowed erased p.2.1 then .ready else .notDecoded }

/-- R324: the LLR slot that a head slot hands over next: that of the sector that ended, else that of the sector in progress. -/
def handing (c : ChanSlot) : Option Nat := c.ended.or c.llr

/-- R324, R345, R347, R358: the sector's LLR slot is complete and handed to the Abacus at ACLK cycle `time`. -/
def handover (s : State) (n h i : Nat) (x : LlrSlot) (spans : List Span) (seen : SectorSeen) (time : Nat) : State :=
  let l := mergeSpans spans
  let er := (l.filter (spanErased x.mode)).map fun p => (p.start, p.len)
  let total := (er.map fun e => e.2).foldl (· + ·) 0
  let excess := decide (x.maxErased < total)
  let drop := x.mode == 0 && l.any fun p => p.a != p.b
  let f := 16 * ofBool (!er.isEmpty) + 32 * ofBool excess + 64 * ofBool drop + 128 * ofBool seen.clip + 512 * ofBool seen.split
  let pin := x.combined.bind fun p => Store.get none s.abx.llr p
  let er' := match pin with
    | some p => erasedBoth er p.erased
    | none => er
  let missed := x.flags.testBit 10
  let fr := if missed then [] else s.framingsOf x er'
  let y := { x with flags := x.flags ||| f, spans := l.length, erased := er', handed := true, framings := fr
                    eraseLimit := !fr.isEmpty && fr.all fun g => decide (g.st = .notDecoded)
                    memErr := x.memErr || (pin.map fun p => p.memErr).getD false
                    readyAt := time, deadline := time + 1600 * s.rd (R.DL_US x.stream) }
  let s := { s with abx := { s.abx with llr := Store.put none s.abx.llr i (some y) } }
  let s := s.modSlot (2 * n + h) fun c => { c with
    ended := none
    llr := if c.ended.isSome then c.llr else none
    nv := ((seen.nvA.toNat, seen.nvB.toNat) :: c.nv).take 8 }
  let s := s.count (R.SECT_READ_CNT n)
  let s := if er.isEmpty then s else s.count (R.ERASE_SECT_CNT n)
  (if excess then s.raise (107 + 4 * n) else s).refreshAbx

/-- R323: every candidate framing failed, none at the predicted position: one more bead there. -/
def reframe (s : State) (i : Nat) (x : LlrSlot) : State :=
  let ended := x.framings.all fun f => decide (f.st = .failed ∨ f.st = .crcFail ∨ f.st = .notDecoded)
  let atZero := x.framings.any fun f => f.ofs == 0
  let had := x.framings.any fun f => f.kind == 2
  if !x.handed || x.framings.isEmpty || x.memErr || x.eraseLimit || !ended || atZero || had
      || !s.flag (R.REFRAME_EN (x.stream / 2)) then s
  else
    let g : Framing := { kind := 2, ofs := 0, dist := x.predDist, budget := s.rd R.BEAD_ITER
                         st := if s.framingAllowed x.erased 0 then .ready else .notDecoded }
    (s.modLlr i fun x => { x with framings := x.framings ++ [g] }).refreshAbx

end State

/-! ### The commands -/

/-- SECTOR_START (R292, R298, R300, R307, R309, R313, R339, R342): the slots of one cycle, those that read in LLR_TOKEN
order. -/
def execSectorStart (starts : List SlotStart) (s : State) : Result :=
  .next (
    let pos := starts.map fun x => x.stream.val
    let order := tokenOrder 8 (s.rd R.LLR_TOKEN) pos
    let asks := order.filter fun k => match (s.slot k).run with
      | some r => !r.write && s.bitAt (R.RG_ON (k / 2)) (k % 2) && !(s.slot k).stopRead
          && starts.any fun x => x.stream.val == k && decide (r.next < r.count) && x.sector.toNat == r.first + r.next
      | none => false
    let s := (order.flatMap fun k => (starts.find? fun x => x.stream.val == k).toList).foldl State.sectorStart s
    s.wr R.LLR_TOKEN (tokenAfter 8 (s.rd R.LLR_TOKEN) (asks.filter fun k => (s.slot k).llr.isSome)))

/-- TIMING_FIELD (R299, R301 to R303, R306); `rateOver`: DLC_NW times the wedge rate exceeds 8.0 GHz. -/
def execTimingField (n : Fin 4) (h : Fin 2) (phase : BitVec 8) (rateOver : Bool) (s : State) : Result :=
  .next (
    if s.rd (R.DLC_NW n.val h.val) = 0 || !s.dom.med.testBit n.val then s
    else if rateOver then s.rateError n.val h.val
    else s.timingField n.val h.val phase.toNat)

/-- SYNC_MARK_DECISION (R319 to R322, R325): the candidates found, as (offset, distance), and the distance at the predicted
position. -/
def execSyncMarkDecision (n : Fin 4) (h : Fin 2) (cands : List (BitVec 6 × BitVec 6)) (predDist : BitVec 6) (s : State) : Result :=
  .next (match (s.slot (2 * n.val + h.val)).llr with
    | some i => match Store.get none s.abx.llr i with
      | some x => if x.decided then s
        else s.decideMark n.val i (cands.map fun c => (c.1.toInt, c.2.toNat)) predDist.toNat
      | none => s
    | none => s)

/-- LLR_HANDOVER (R316, R317, R324, R326, R345, R347, R358). -/
def execLlrHandover (n : Fin 4) (h : Fin 2) (spans : List Span) (seen : SectorSeen) (time : BitVec 64) (s : State) : Result :=
  .next (match State.handing (s.slot (2 * n.val + h.val)) with
    | some i => match Store.get none s.abx.llr i with
      | some x => if x.decided && !x.handed then s.handover n.val h.val i x spans seen time.toNat else s
      | none => s
    | none => s)

/-- REFRAME_REQUEST (R323). -/
def execReframeRequest (slot : Fin 384) (s : State) : Result :=
  .next (match Store.get none s.abx.llr slot.val with
    | some x => s.reframe slot.val x
    | none => s)

/-- CHN_CNT_CLR (R331, R399). -/
def execChnCntClr (n : Fin 4) (s : State) : Result :=
  .next (s.access (R.CHN_CNT_CLR n.val) fun s => s.clearAll [R.SECT_READ_CNT n.val, R.BLIND_CNT n.val, R.AMBIG_CNT n.val,
    R.REFRAME_CNT n.val, R.DUAL_PASS_CNT n.val, R.WG_CUT_CNT n.val, R.WPH_FAULT_CNT n.val, R.ERASE_SECT_CNT n.val,
    R.SYNC_MISS_CNT n.val, R.WSQ_OVR_CNT n.val 0, R.WSQ_OVR_CNT n.val 1])

end Sys2Proof.Machine
end

