-- ==== Sys2Proof/Machine/Thermal.lean ====
section
/-!
DEFINITION. Machine/Thermal.lean: the thermal sensors, their levels and the throttles that follow (chapter 18).
-/
namespace Sys2Proof.Machine

open Arith

namespace State

/-- R615: sensor `i` is enabled and has not failed. -/
def sensorGood (s : State) (i : Nat) : Bool := s.bitAt R.SENS_EN i && !s.bitAt R.SENS_FAIL i && s.thm.sampled.testBit i

/-- R615: the sensor with the highest reading among the good ones, the lowest number among equals. -/
def hottest (s : State) : Option Nat :=
  ((List.range 12).filter s.sensorGood).foldl (fun (b : Option Nat) i =>
    match b with
    | none => some i
    | some j => if signed 16 (s.rd (R.SENS_T j)) < signed 16 (s.rd (R.SENS_T i)) then some i else some j) none

/-- R616: a level that sets at `set` and clears below `set - h`, both in whole degrees, against THM_MAX in 1/16. -/
def level (was : Bool) (t : Int) (set h : Nat) : Bool :=
  if was then decide ((((set : Int) - h) * 16) ≤ t) else decide ((set : Int) * 16 ≤ t)

/-- R599: the THERMAL event of the present levels. -/
def thermalEvent (s : State) : TlyEvent :=
  { kind := 6, source := s.rd R.MAX_SENSOR
    code := s.rd R.WARN_ON + 2 * s.rd R.THR_LEVEL + 8 * s.rd R.SHUT_ON + 16 * s.rd R.NO_VALID
    detail := unsigned 32 (signed 16 (s.rd R.THM_MAX)) }

/-- R350: THROTTLED follows the throttle level, with event line 100 on a change. -/
def followThrottle (s : State) : State :=
  let t := s.rd R.THR_LEVEL != 0
  if s.flag R.THROTTLED = t then s else (s.wrFlag R.THROTTLED t).raise 100

/-- R615, R616, R621: the levels as judged, with their event lines, the THERMAL record on a change, the throttles, and
sources 408, 409 and 410. -/
def setLevels (s : State) (warn : Bool) (lvl : Nat) (shut noValid : Bool) : State :=
  let w0 := s.flag R.WARN_ON
  let l0 := s.rd R.THR_LEVEL
  let s0 := s.flag R.SHUT_ON
  let n0 := s.flag R.NO_VALID
  let s := ((s.wrFlag R.WARN_ON warn).wr R.THR_LEVEL lvl).wrFlag R.SHUT_ON shut |>.wrFlag R.NO_VALID noValid
  let s := if w0 = warn then s else s.raise 192
  let s := if l0 = lvl then s else s.raise 193
  let s := if shut && !s0 then s.raise 195 else s
  let s := if w0 = warn && l0 = lvl && s0 = shut && n0 = noValid then s else s.tallyThm s.thermalEvent
  let s := s.followThrottle
  let s := if warn && !w0 then s.detect 408 else s
  let s := if l0 < lvl then s.detect 409 else s
  if shut && !s0 then s.detect 410 else s

/-- R611: LIFE_TMAX takes THM_MAX whenever that exceeds it. -/
def lifePeak (s : State) : State :=
  if signed 16 (s.rd R.LIFE_TMAX) < signed 16 (s.rd R.THM_MAX) then
    (s.wr R.LIFE_TMAX (s.rd R.THM_MAX)).wr R.LIFE_TMAX_POH (s.rd R.POH_S / 3600) else s

/-- R615, R616: THM_MAX and the levels judged after a sample. -/
def judgeThermal (s : State) : State :=
  match s.hottest with
  | none => s.setLevels true 2 (s.flag R.SHUT_ON) true
  | some i =>
    let t := signed 16 (s.rd (R.SENS_T i))
    let s := ((s.wr R.THM_MAX (s.rd (R.SENS_T i))).wr R.MAX_SENSOR i).lifePeak
    let h := s.rd R.THR_HYST
    let l := s.rd R.THR_LEVEL
    let warn := level (s.flag R.WARN_ON) t (s.rd R.THR_WARN) h
    let l1 := level (decide (1 ≤ l)) t (s.rd R.THR_THROTTLE) h
    let l2 := level (decide (l = 2)) t (s.rd R.THR_THROTTLE + s.rd R.THR_L2_STEP) h
    let shut := level (s.flag R.SHUT_ON) t (s.rd R.THR_SHUT) h
    s.setLevels warn (if l2 then 2 else if l1 then 1 else 0) shut false

/-- R615: a conversion outside -55 to +175 degrees, or more than 16 degrees from the previous sample. -/
def badSample (s : State) (i : Nat) (v : Int) : Bool :=
  decide (v < -880) || decide (2800 < v)
    || (s.thm.sampled.testBit i && decide (256 < (v - signed 16 (s.rd (R.SENS_T i))).natAbs))

/-- R167: the Composite Temperature in kelvin: the THM maximum. -/
def compositeTemp (s : State) : Nat := (signed 16 (s.rd R.THM_MAX) / 16 + 273).toNat

/-- R168: the temperature threshold of controller `k` in kelvin: the feature's, or WCTEMP where it is not set. -/
def tempThreshold (s : State) (k : Nat) : Nat :=
  let v := Store.get 0 (s.ctrl k).feats 0x04 % 65536
  if v = 0 then (s.ctrl k).wctemp else v

/-- R168: the Composite Temperature has risen to a controller's threshold: its asynchronous event. -/
def thresholdEvents (s : State) (before : Nat) : State :=
  (List.range 4).foldl (fun s k =>
    if s.flag (R.CTRL_EN k) && decide (before < s.tempThreshold k) && decide (s.tempThreshold k ≤ s.compositeTemp) then
      s.asyncEvent k 0x020101 else s) s

/-- SENS_PEAK raised to a higher sample. -/
def notePeak (s : State) (i v : Nat) : State :=
  if signed 16 (s.rd (R.SENS_PEAK i)) < signed 16 v then s.wr (R.SENS_PEAK i) v else s

/-- The sensor `i` has been sampled. -/
def noteSampled (s : State) (i : Nat) : State := { s with thm := { s.thm with sampled := setBit s.thm.sampled i } }

/-- A bad sample: SENS_FAIL, line 194 and the sensor's fault source at its first. -/
def judgeSample (s : State) (i : Nat) (bad : Bool) : State :=
  if bad && !s.bitAt R.SENS_FAIL i then ((s.setBitAt R.SENS_FAIL i).raise 194).detect (396 + i) else s

/-- R614, R615: a sample of sensor `i`. -/
def sampleSensor (s : State) (i v : Nat) : State :=
  let x := signed 16 v
  let bad := s.badSample i x
  let before := s.compositeTemp
  let s := (((s.wr (R.SENS_T i) v).noteSampled i).notePeak i v).judgeSample i bad
  (s.judgeThermal).thresholdEvents before

end State

/-- THERMAL_SAMPLE (R614 to R618): a sensor whose SENS_EN bit is 0 is not sampled. -/
def execThermalSample (sensor : Fin 12) (value : BitVec 16) (s : State) : Result :=
  .next (if s.dom.core && s.bitAt R.SENS_EN sensor.val then s.sampleSensor sensor.val value.toNat else s)

end Sys2Proof.Machine
end

