-- ==== Sys2Proof/Machine/NvmeCmds.lean ====
section
/-!
DEFINITION. Machine/NvmeCmds.lean: the NVMe admin and I/O commands (chapter 05). Each acts on the command in flight that holds
the tag, and leaves everything as it is where no such command is there.
-/
namespace Sys2Proof.Machine

open Arith

namespace State

/-- R166: the command set of the namespace takes the opcode. -/
def nvmeOpcodeOk (s : State) (r : HostReq) : Bool :=
  let zoned := match s.namespaceOf r.ns with
    | some n => n.zoned
    | none => false
  [0x00, 0x01, 0x02, 0x05, 0x08, 0x0C].contains r.opcode || (!zoned && r.opcode == 0x09)
    || (zoned && [0x79, 0x7A, 0x7D].contains r.opcode)

/-- R165: the admin opcodes. -/
def adminOpcodes : List Nat :=
  [0x00, 0x04, 0x01, 0x05, 0x02, 0x06, 0x08, 0x09, 0x0A, 0x0C, 0x0D, 0x15, 0x10, 0x11, 0x19, 0x1A, 0x80, 0x84, 0xC1, 0xC2]

/-- An ended command that returns a data structure. -/
def returnFields (s : State) (c : Cmd) (l : List (String × Nat)) (dw0 : Nat) : State :=
  (s.emit (.fields c.port c.req.cid l)).finish c.tag { doneOk with dw0 := dw0 }

/-! ### Identify and Get Log Page (R109, R160, R165, R167, R169) -/

/-- R169, R192, R620: Identify Controller. -/
def identifyController (s : State) (k : Nat) : List (String × Nat) :=
  [("VID", Config.pciVendorId % 65536), ("SSVID", s.mgt.subsystemNow.1.getD (Config.pciVendorId % 65536)),
   ("CNTLID", k + 1), ("WCTEMP", (s.ctrl k).wctemp), ("CCTEMP", (s.ctrl k).cctemp), ("CMIC", 3), ("MDTS", 9), ("RTD3E", 1000000), ("RTD3R", 1000000), ("ACL", 7), ("AERL", 15),
   ("FRMW", 0x14), ("ELPE", 63), ("NPSS", 4), ("FWUG", 1), ("MTFA", 1), ("SANICAP", 1), ("SQES", 0x66), ("CQES", 0x44),
   ("NN", 16), ("ONCS", 0xDD), ("FUSES", 1), ("FNA", 4), ("VWC", 0), ("AWUN", 0), ("AWUPF", 0), ("CRDT1", 10),
   ("LPA0", 0), ("ZASL", 8), ("MAR", s.rd R.ZONE_CTX_COUNT - 1), ("MOR", s.rd R.ZONE_CTX_COUNT - 1)]

/-- R109: the power state descriptors: maximum power in centiwatts, entry and exit latency in microseconds. -/
def powerStates : List (String × Nat) :=
  [("PS0.MP", 5500), ("PS0.ENLAT", 0), ("PS0.EXLAT", 0), ("PS1.MP", 1600), ("PS1.ENLAT", 1000), ("PS1.EXLAT", 1000),
   ("PS2.MP", 1300), ("PS2.ENLAT", 500000), ("PS2.EXLAT", 300000), ("PS3.MP", 900), ("PS3.ENLAT", 12000000),
   ("PS3.EXLAT", 4000000), ("PS4.MP", 300), ("PS4.ENLAT", 25000000), ("PS4.EXLAT", 22000000)]

/-- R169: a namespace's Identify data. -/
def identifyNamespace (n : Namespace) : List (String × Nat) :=
  [("NSZE", n.size), ("NCAP", n.size), ("NLBAF", 0), ("LBADS", 12), ("CSI", if n.zoned then 2 else 0), ("ZSZE", n.zoneBlocks)]

/-- The namespaces attached to port `k`'s controller, or all of them. -/
def namespaceList (s : State) (k : Nat) (all : Bool) : List (String × Nat) :=
  (s.nv.namespaces.filter fun e => match e.2 with
    | some n => all || n.attached.testBit k
    | none => false).map fun e => ("NSID", e.1)

/-- The controllers of the subsystem, or those a namespace is attached to. -/
def controllerList (s : State) (n : Option Namespace) : List (String × Nat) :=
  ((List.range 4).filter fun k => s.flag (R.PORT_PRESENT k) && match n with
    | some n => n.attached.testBit k
    | none => true).map fun k => ("CNTLID", k + 1)

/-- R165: Identify. -/
def identify (s : State) (c : Cmd) : State :=
  let cns := c.req.cdw10 % 256
  let ns := s.namespaceOf c.req.ns
  let data := match ns with
    | some n => identifyNamespace n
    | none => []
  if [0x00, 0x03, 0x05, 0x08, 0x11].contains cns then
    if ns.isSome then s.returnFields c data 0 else s.finish c.tag { code := 0x0B, dnr := true }
  else if cns = 0x01 ∨ cns = 0x06 then s.returnFields c (s.identifyController c.port ++ powerStates) 0
  else if cns = 0x02 ∨ cns = 0x07 then s.returnFields c (s.namespaceList c.port false) 0
  else if cns = 0x10 then s.returnFields c (s.namespaceList c.port true) 0
  else if cns = 0x12 then s.returnFields c (s.controllerList ns) 0
  else if cns = 0x13 then s.returnFields c (s.controllerList none) 0
  else if cns = 0x1C then s.returnFields c [("CSS0", 0x01), ("CSS1", 0x05)] 0
  else s.finish c.tag invalidField

/-- R167: Get Log Page. -/
def logPage (s : State) (c : Cmd) : State :=
  let id := c.req.cdw10 % 256
  let k := c.port
  if id = 0x00 then s.returnFields c ([0, 1, 2, 3, 4, 5, 0x81, 0xBF].map fun i => ("LID", i)) 0
  else if id = 0x01 then
    s.returnFields c ((s.ctrl k).errLog.flatMap fun e => [("COUNT", e.count), ("SQID", e.sqid), ("CID", e.cid), ("STATUS", e.status)]) 0
  else if id = 0x02 then
    s.returnFields c [("TEMP", s.compositeTemp), ("POWER_CYCLES", s.rd R.PWR_CYCLES), ("POH", s.rd R.POH_S / 3600),
      ("UNSAFE_SHUTDOWNS", s.rd R.PF_COUNT), ("ERRORS", (s.ctrl k).errLog.length), ("WARN_MIN", s.rd R.WARN_MIN),
      ("CRIT_MIN", s.rd R.THR_MIN)] 0
  else if id = 0x03 then s.returnFields c [("AFI", s.rd R.BOOT_SLOT + 1)] 0
  else if id = 0x04 then
    (s.modCtrl k fun x => { x with changedNs := [] }).returnFields c ((s.ctrl k).changedNs.map fun n => ("NSID", n)) 0
  else if id = 0x05 then
    s.returnFields c (adminOpcodes.map fun o => ("ACS", o)) 0
  else if id = 0x81 then s.returnFields c [("CRYPTO_ERASE_CNT", s.rd R.CRYPTO_ERASE_CNT)] 0
  else if id = 0xBF then
    (s.modCtrl k fun x => { x with changedZones := [] }).returnFields c ((s.ctrl k).changedZones.map fun z => ("ZONE", z)) 0
  else s.finish c.tag (queueStatus 9)

/-! ### Features (R110, R168, R172, R613) -/

/-- R168: the features of the general command: identifiers, and those that can be saved. -/
def featureIds : List Nat := [0x01, 0x04, 0x05, 0x08, 0x09, 0x0A, 0x0B, 0x0C]

/-- R168: the features that can be saved. -/
def saveable (id : Nat) : Bool := [0x04, 0x05, 0x0C].contains id

/-- R168: a feature value stored, and saved where asked. -/
def putFeature (s : State) (c : Cmd) (key v : Nat) (save : Bool) : State :=
  let s := s.modCtrl c.port fun x => { x with feats := Store.put 0 x.feats key v }
  if save then { s with nv := { s.nv with savedFeats := Store.put 0 s.nv.savedFeats (c.port * 65536 + key) v } } else s

/-- R110: the APST enable and table of a port. -/
def setApst (s : State) (c : Cmd) : State :=
  let k := c.port
  let t := ((List.range c.req.ranges.length).zip c.req.ranges).foldl
    (fun m p => Store.put (0, 0) m (32 * k + p.1) p.2) s.pm.apstTable
  let s := { s with pm := { s.pm with apstOn := putBit s.pm.apstOn k (c.req.cdw11 % 2 == 1), apstTable := t } }
  if c.req.cdw10 / 2 ^ 31 % 2 = 1 then
    let v := (t.filter fun e => e.1 / 32 == k).foldl (fun m e => Store.put (0, 0) m e.1 e.2)
      (s.nv.savedApst.filter fun e => e.1 / 32 != k)
    { s with nv := { s.nv with savedApst := v } }
  else s

/-- R168: Set Features, but for the features with commands of their own. -/
def setFeature (s : State) (c : Cmd) : State :=
  let id := c.req.cdw10 % 256
  let save := c.req.cdw10 / 2 ^ 31 % 2 == 1
  if id = 0x02 ∨ id = 0x07 ∨ id = 0x0E then s
  else if !featureIds.contains id then s.finish c.tag invalidField
  else if save && !saveable id then s.finish c.tag (queueStatus 0x0D)
  else
    let key := if id = 0x09 then 0x900 + c.req.cdw11 % 65536 else id
    let s := if id = 0x0C then s.setApst c else s
    (s.putFeature c key c.req.cdw11 save).finish c.tag doneOk

/-- R110: Set Features Power Management. -/
def setPower (s : State) (c : Cmd) : State :=
  let ps := c.req.cdw11 % 32
  if c.req.cdw10 % 256 ≠ 0x02 then s
  else if c.req.cdw10 / 2 ^ 31 % 2 = 1 then s.finish c.tag (queueStatus 0x0D)
  else if 4 < ps then s.finish c.tag invalidField
  else (s.requestState c.port ps).finish c.tag doneOk

/-- R172: Set Features Number of Queues: SQs and CQs granted (0's based in Dword 0). -/
def setQueues (s : State) (c : Cmd) : State :=
  let x := s.ctrl c.port
  if c.req.cdw10 % 256 ≠ 0x07 then s
  else if c.req.cdw10 / 2 ^ 31 % 2 = 1 then s.finish c.tag (queueStatus 0x0D)
  else if x.ioCreated then s.finish c.tag { code := 0x0C, dnr := true }
  else
    let sq := min (c.req.cdw11 % 65536 + 1) x.quota
    let cq := min (c.req.cdw11 / 65536 % 65536 + 1) x.quota
    ((s.wr (R.Q_GRANTED c.port) sq).modCtrl c.port fun y => { y with cqGranted := cq }).finish c.tag
      { doneOk with dw0 := (sq - 1) + 65536 * (cq - 1) }

/-- R613: Set Features Timestamp loads the calendar, in milliseconds. -/
def setTimestamp (s : State) (c : Cmd) : State :=
  if c.req.cdw10 % 256 ≠ 0x0E then s
  else if c.req.cdw10 / 2 ^ 31 % 2 = 1 then s.finish c.tag (queueStatus 0x0D)
  else (s.setCalendar (c.req.cdw11 + 2 ^ 32 * (c.req.cdw12 % 65536))).blockWrote.finish c.tag doneOk

/-- R168: Get Features with Select 1 (default), 2 (saved) or 3 (saveable, changeable). -/
def selectedFeature (s : State) (c : Cmd) (sel id : Nat) : Nat :=
  if sel = 3 then 4 + ofBool (saveable id)
  else if sel = 2 && saveable id then Store.get 0 s.nv.savedFeats (c.port * 65536 + id) else 0

/-- R168, R110, R613: Get Features: the current value, or another one that Select (`cdw10` bits 10:8) names. -/
def getFeature (s : State) (c : Cmd) : State :=
  let id := c.req.cdw10 % 256
  let sel := c.req.cdw10 / 256 % 8
  let x := s.ctrl c.port
  if sel ≠ 0 then
    s.finish c.tag (if 3 < sel ∨ ¬ (id = 0x02 ∨ id = 0x07 ∨ id = 0x0E ∨ featureIds.contains id) then invalidField
      else { doneOk with dw0 := s.selectedFeature c sel id })
  else if id = 0x02 then s.finish c.tag { doneOk with dw0 := Store.get 0 s.pm.request c.port }
  else if id = 0x07 then s.finish c.tag { doneOk with dw0 := (s.rd (R.Q_GRANTED c.port) - 1) + 65536 * (x.cqGranted - 1) }
  else if id = 0x0E then
    s.returnFields c [("TIMESTAMP", s.calMs), ("SYNCH", 0), ("ORIGIN", s.rd R.CAL_SET)] 0
  else if featureIds.contains id then
    s.finish c.tag { doneOk with dw0 := Store.get 0 x.feats (if id = 0x09 then 0x900 + c.req.cdw11 % 65536 else id) }
  else s.finish c.tag invalidField

/-! ### Namespaces, directives, firmware (R165, R170, R227, R235) -/

/-- R227, R515: the media a namespace consumes, in 1/1,600 of a block. -/
def mediaShare (n : Namespace) : Nat :=
  if !n.zoned then 1800 * n.size
  else if n.ratio = 0 then 1600 * n.size
  else n.size * slotSectors n.ratio * (100 + n.ovfPct) + 1600 * 262144 * n.extGib

/-- The namespaces' total of a measure. -/
def sumNs (s : State) (f : Namespace → Nat) : Nat := s.nv.namespaces.foldl (fun t e => match e.2 with
  | some n => t + f n
  | none => t) 0

/-- R227: the status of a creation; the permitted zone sizes are 128 to 1,024 MiB. -/
def createStatus (s : State) (n : Namespace) : Option Done :=
  if n.zoned && !([32768, 65536, 131072, 262144].contains n.zoneBlocks) then some invalidField
  else
    let zones := fun (m : Namespace) => if m.zoned && m.zoneBlocks != 0 then m.size / m.zoneBlocks else 0
    let conv := fun (m : Namespace) => if m.zoned then 0 else m.size
    if (n.zoned && n.size % n.zoneBlocks != 0) || decide (1048576 < s.sumNs zones + zones n)
        || decide (16000000000000 < 4096 * (s.sumNs conv + conv n))
        || decide (1600 * Config.mediaBlocks < s.sumNs mediaShare + mediaShare n) then some (queueStatus 0x15)
    else none

/-- R208: namespace changes announced to the SAS nexuses. -/
def announceNs (s : State) : State := s.postUaAll 0x3F0E none

/-- R513, R525: the Pack settings of a namespace latch at its creation, and its extern reserve is free. -/
def latchPack (s : State) (k : Nat) (n : Namespace) : State :=
  let s := s.wr (R.NS_CFG_LOCK k) 1
  if n.zoned && n.ratio != 0 then (s.wr (R.EXT_FREE_MIB k) (1024 * n.extGib)).wr (R.EXT_STOP k) 0 else s

/-- R227: Namespace Management Create: which free NSID is taken is left open. -/
def createNs (s : State) (c : Cmd) : State :=
  let zoned := c.req.cdw11 / 2 ^ 24 % 256 == 2
  let freeIds := ((List.range 16).map fun i => i + 1).filter fun i => !s.nsExists i
  let (v, s) := s.free
  let id := freeIds.getD (v % freeIds.length) 1
  let k := id - 1
  let n : Namespace := { zoned := zoned, size := c.req.blocks, zoneBlocks := if zoned then c.req.cdw12 else 0
                         ratio := s.rd (R.NS_RATIO k), ovfPct := s.rd (R.OVF_PCT k), extGib := s.rd (R.EXT_RSV_GIB k) }
  match s.createStatus n with
  | some d => s.finish c.tag d
  | none =>
    if freeIds.isEmpty then s.finish c.tag (queueStatus 0x16)
    else
      let (key, s) := s.free
      let nv := { s.nv with namespaces := Store.put none s.nv.namespaces id (some n), keys := Store.put 0 s.nv.keys id key }
      let s := ({ s with nv := nv }).latchPack k n
      (s.announceNs).finish c.tag { doneOk with dw0 := id }

/-- R650: Namespace Management Delete: a cryptographic erase, then the namespace is gone. -/
def deleteNs (s : State) (c : Cmd) : State :=
  if !s.nsExists c.req.ns then s.finish c.tag { code := 0x0B, dnr := true }
  else if !s.imagesConsumed then s
  else
    let s := s.cryptoErase c.req.ns
    let nv := { s.nv with namespaces := Store.put none s.nv.namespaces c.req.ns none }
    let s := ((({ s with nv := nv }).wr (R.NS_CFG_LOCK (c.req.ns - 1)) 0).wr (R.EXT_FREE_MIB (c.req.ns - 1)) 0)
    (s.announceNs).finish c.tag doneOk

/-- R165: Namespace Attachment: the controllers listed attach or detach. -/
def attachNs (s : State) (c : Cmd) : State :=
  match s.namespaceOf c.req.ns with
  | none => s.finish c.tag { code := 0x0B, dnr := true }
  | some n =>
    let sel := c.req.cdw10 % 16
    if 1 < sel then s.finish c.tag invalidField
    else
      let ports := (c.req.ranges.map fun p => p.1 - 1).filter fun k => decide (k < 4)
      let a := ports.foldl (fun m k => putBit m k (sel == 0)) n.attached
      let n' := { n with attached := a }
      let nv := { s.nv with namespaces := Store.put none s.nv.namespaces c.req.ns (some n') }
      let s := ports.foldl (fun s k => s.modCtrl k fun x => { x with changedNs := x.changedNs ++ [c.req.ns] }) { s with nv := nv }
      (s.announceNs).finish c.tag doneOk

/-- R235: the streams that can be open: contexts left after the MTU's 16 and the zones'. -/
def maxStreams (s : State) : Nat := 4096 - 16 - s.rd R.ZONE_CTX_COUNT

/-- A namespace's streams changed. -/
def modNs (s : State) (ns : Nat) (f : Namespace → Namespace) : State :=
  match s.namespaceOf ns with
  | some n => { s with nv := { s.nv with namespaces := Store.put none s.nv.namespaces ns (some (f n)) } }
  | none => s

/-- R165: Directive Send: Identify (enable Streams) and Streams (release one, release all). -/
def directiveSend (s : State) (c : Cmd) : State :=
  let op := c.req.cdw11 % 256
  let ty := c.req.cdw11 / 256 % 256
  let spec := c.req.cdw11 / 65536 % 65536
  if ty = 0 ∧ op = 1 then
    (s.modNs c.req.ns fun n => { n with streamsOn := putBit n.streamsOn c.port (c.req.cdw12 % 2 == 1) }).finish c.tag doneOk
  else if ty = 1 ∧ op = 1 then
    (s.modNs c.req.ns fun n => { n with streams := n.streams.filter fun x => x != spec }).finish c.tag doneOk
  else if ty = 1 ∧ op = 2 then (s.modNs c.req.ns fun n => { n with streams := [] }).finish c.tag doneOk
  else s.finish c.tag invalidField

/-- R165, R235: Directive Receive: Identify parameters; Streams parameters, status, allocation. -/
def directiveReceive (s : State) (c : Cmd) : State :=
  let op := c.req.cdw11 % 256
  let ty := c.req.cdw11 / 256 % 256
  let open_ := match s.namespaceOf c.req.ns with
    | some n => n.streams
    | none => []
  let on := match s.namespaceOf c.req.ns with
    | some n => ofBool (n.streamsOn.testBit c.port)
    | none => 0
  if ty = 0 ∧ op = 1 then s.returnFields c [("SUPPORTED", 3), ("ENABLED", 1 + 2 * on)] 0
  else if ty = 1 ∧ op = 1 then s.returnFields c [("MSL", s.maxStreams), ("NSO", open_.length)] 0
  else if ty = 1 ∧ op = 2 then s.returnFields c (open_.map fun x => ("SID", x)) 0
  else if ty = 1 ∧ op = 3 then
    s.finish c.tag { doneOk with dw0 := min (c.req.cdw12 % 65536) (s.maxStreams - open_.length) }
  else s.finish c.tag invalidField

/-- R170: Firmware Image Download: 4 KiB multiples only. -/
def download (s : State) (c : Cmd) (data : List Nat) : State :=
  let len := 4 * (c.req.cdw10 + 1)
  let off := 4 * c.req.cdw11
  if len % 4096 ≠ 0 ∨ off % 4096 ≠ 0 then s.finish c.tag invalidField
  else (s.stage c.port (off / 4096) (data.take (len / 4096))).finish c.tag doneOk

/-- R170, R651, R663: Firmware Commit; `activate` for action 3. -/
def firmwareCommit (s : State) (activate : Bool) (c : Cmd) : State :=
  let action := c.req.cdw10 / 8 % 8
  let slot := c.req.cdw10 % 8
  if decide (action = 3) != activate then s
  else if 3 < action then s.finish c.tag invalidField
  else if slot ≠ 1 ∧ slot ≠ 2 then s.finish c.tag (doneSense 0x106 5 0x26 0)
  else s.hostCommit c (slot - 1) action

/-- R165: Format NVM. -/
def formatCmd (s : State) (c : Cmd) : State :=
  let ses := c.req.cdw10 / 512 % 8
  if 2 < ses ∨ c.req.cdw10 % 16 ≠ 0 then s.finish c.tag invalidField else s.formatNs c (ses != 0)

/-- R165: Sanitize: Cryptographic Erase and Exit Failure Mode. -/
def sanitizeCmd (s : State) (c : Cmd) : State :=
  let a := c.req.cdw10 % 8
  if a = 1 then s.finish c.tag doneOk
  else if a = 4 then s.sanitizeAll c s.allNamespaces
  else s.finish c.tag invalidField

/-- R235: a write with the Streams directive opens its stream where one is free. -/
def openStream (s : State) (c : Cmd) : State :=
  if c.req.dtype = 1 ∧ c.req.dspec ≠ 0 then
    s.modNs c.req.ns fun n =>
      if n.zoned || n.streams.contains c.req.dspec || decide (s.maxStreams ≤ n.streams.length) then n
      else { n with streams := n.streams ++ [c.req.dspec] }
  else s

/-- R166: the fused Compare before this Write has not ended. -/
def compareOpen (s : State) (c : Cmd) : Bool := match c.partner.bind s.cmd with
  | some p => p.done.isNone && c.req.fused == 2
  | none => false

/-- R213: the first of a fused pair whose second has not arrived: the pair has not started. -/
def pairOpen (c : Cmd) : Bool := c.req.fused == 1 && c.partner.isNone

/-- The zone command of an NVMe Zone Management Send. -/
def zoneSend (s : State) (t action : Nat) : State :=
  s.onCmd t (fun c => isNvmeIo [0x79] c && c.req.cdw13 % 256 == action) fun c => s.zoneCmd c action

end State

/-- GET_LOG_PAGE (R167). -/
def execGetLogPage (tag : BitVec 13) (s : State) : Result := .next (s.onAdmin tag.toNat 0x02 s.logPage)

/-- IDENTIFY (R109, R160, R165, R169). -/
def execIdentify (tag : BitVec 13) (s : State) : Result := .next (s.onAdmin tag.toNat 0x06 s.identify)

/-- SET_FEATURES (R168). -/
def execSetFeatures (tag : BitVec 13) (s : State) : Result := .next (s.onAdmin tag.toNat 0x09 s.setFeature)

/-- SET_FEATURES_POWER_MGMT (R110). -/
def execSetFeaturesPowerMgmt (tag : BitVec 13) (s : State) : Result := .next (s.onAdmin tag.toNat 0x09 s.setPower)

/-- SET_FEATURES_NUM_QUEUES (R172). -/
def execSetFeaturesNumQueues (tag : BitVec 13) (s : State) : Result := .next (s.onAdmin tag.toNat 0x09 s.setQueues)

/-- SET_FEATURES_TIMESTAMP (R613). -/
def execSetFeaturesTimestamp (tag : BitVec 13) (s : State) : Result := .next (s.onAdmin tag.toNat 0x09 s.setTimestamp)

/-- GET_FEATURES (R168, R110, R613). -/
def execGetFeatures (tag : BitVec 13) (s : State) : Result := .next (s.onAdmin tag.toNat 0x0A s.getFeature)

/-- APST_TRANSITION (R110): the table entry of the requested state names the next state; a time of 0 disables it. -/
def execApstTransition (port : Fin 4) (s : State) : Result :=
  .next (
    let e := Store.get (0, 0) s.pm.apstTable (32 * port.val + Store.get 0 s.pm.request port.val)
    if s.pm.apstOn.testBit port.val ∧ e.2 ≠ 0 ∧ e.1 ≤ 4 then s.requestState port.val e.1 else s)

/-- ASYNC_EVENT_REQUEST (R165, R174): at most 16 outstanding; a held event completes it at once. -/
def execAsyncEventRequest (tag : BitVec 13) (s : State) : Result :=
  .next (s.onAdmin tag.toNat 0x0C fun c =>
    let x := s.ctrl c.port
    if x.aers.contains c.tag then s
    else match x.events with
      | e :: rest => (s.modCtrl c.port fun y => { y with events := rest }).finish c.tag { doneOk with dw0 := e }
      | [] =>
        if 16 ≤ x.aers.length then s.finish c.tag (queueStatus 5)
        else s.modCtrl c.port fun y => { y with aers := y.aers ++ [c.tag] })

/-- NAMESPACE_MANAGEMENT (R227, R650). -/
def execNamespaceManagement (tag : BitVec 13) (s : State) : Result :=
  .next (s.onAdmin tag.toNat 0x0D fun c =>
    if c.req.cdw10 % 16 = 0 then s.createNs c else if c.req.cdw10 % 16 = 1 then s.deleteNs c
    else s.finish c.tag invalidField)

/-- NAMESPACE_ATTACHMENT (R165, R208). -/
def execNamespaceAttachment (tag : BitVec 13) (s : State) : Result := .next (s.onAdmin tag.toNat 0x15 s.attachNs)

/-- FIRMWARE_IMAGE_DOWNLOAD (R170). -/
def execFirmwareImageDownload (tag : BitVec 13) (data : List Block) (s : State) : Result :=
  .next (s.onAdmin tag.toNat 0x11 fun c => s.download c (data.map (·.toNat)))

/-- FIRMWARE_COMMIT (R170, R651). -/
def execFirmwareCommit (tag : BitVec 13) (s : State) : Result := .next (s.onAdmin tag.toNat 0x10 (s.firmwareCommit false))

/-- FIRMWARE_COMMIT_ACTIVATE (R170, R651, R663). -/
def execFirmwareCommitActivate (tag : BitVec 13) (s : State) : Result :=
  .next (s.onAdmin tag.toNat 0x10 (s.firmwareCommit true))

/-- FIRMWARE_SLOT_WRITE_DONE (R651). -/
def execFirmwareSlotWriteDone (s : State) : Result := .next s.updateDone

/-- DIRECTIVE_SEND (R165). -/
def execDirectiveSend (tag : BitVec 13) (s : State) : Result := .next (s.onAdmin tag.toNat 0x19 s.directiveSend)

/-- DIRECTIVE_RECEIVE (R165, R235). -/
def execDirectiveReceive (tag : BitVec 13) (s : State) : Result := .next (s.onAdmin tag.toNat 0x1A s.directiveReceive)

/-- FORMAT_NVM (R165, R208, R650). -/
def execFormatNvm (tag : BitVec 13) (s : State) : Result := .next (s.onAdmin tag.toNat 0x80 s.formatCmd)

/-- SANITIZE (R165, R208, R650). -/
def execSanitize (tag : BitVec 13) (s : State) : Result := .next (s.onAdmin tag.toNat 0x84 s.sanitizeCmd)

/-- INVALID_ADMIN_OPCODE (R165). -/
def execInvalidAdminOpcode (tag : BitVec 13) (s : State) : Result :=
  .next (s.onCmd tag.toNat (fun c => c.port < 4 && c.req.queue == 0 && !State.adminOpcodes.contains c.req.opcode)
    fun c => s.finish c.tag invalidOpcode)

/-- NVME_FLUSH (R166): earlier writes are durable already (VWC = 0). -/
def execNvmeFlush (tag : BitVec 13) (s : State) : Result :=
  .next (s.onCmd tag.toNat (State.isNvmeIo [0x00]) fun c => s.finish c.tag doneOk)

/-- NVME_WRITE (R78, R231, R242, R243). -/
def execNvmeWrite (tag : BitVec 13) (data : List Block) (transferError : Bool) (s : State) : Result :=
  .next (s.onCmd tag.toNat (State.isNvmeIo [0x01]) fun c =>
    if s.compareOpen c then s
    else (s.openStream c).writeStep c (data.map (·.toNat)) transferError doneOk)

/-- NVME_READ (R211, R244): blocks up to `sendTo` go to the host. -/
def execNvmeRead (tag : BitVec 13) (sendTo : BitVec 17) (s : State) : Result :=
  .next (s.onCmd tag.toNat (State.isNvmeIo [0x02]) fun c => s.readStep c.tag (State.endRead sendTo.toNat))

/-- NVME_COMPARE (R166). -/
def execNvmeCompare (tag : BitVec 13) (data : List Block) (s : State) : Result :=
  .next (s.onCmd tag.toNat (State.isNvmeIo [0x05]) fun c =>
    if State.pairOpen c then s else s.readStep c.tag (State.endCompare (data.map (·.toNat))))

/-- WRITE_ZEROES (R166, R238). -/
def execWriteZeroes (tag : BitVec 13) (s : State) : Result :=
  .next (s.onCmd tag.toNat (State.isNvmeIo [0x08]) s.writeZeroes)

/-- DATASET_MANAGEMENT (R166, R238): Deallocate; NVM namespaces only. -/
def execDatasetManagement (tag : BitVec 13) (s : State) : Result :=
  .next (s.onCmd tag.toNat (State.isNvmeIo [0x09]) fun c =>
    if !s.nvmeOpcodeOk c.req then s.finish c.tag invalidOpcode
    else if c.req.cdw11 / 4 % 2 = 0 then s.finish c.tag doneOk
    else s.deallocateAll c (c.req.ranges.take 256))

/-- NVME_VERIFY (R166). -/
def execNvmeVerify (tag : BitVec 13) (s : State) : Result :=
  .next (s.onCmd tag.toNat (State.isNvmeIo [0x0C]) fun c => s.readStep c.tag State.endVerify)

/-- ZONE_OPEN (R229, R233). -/
def execZoneOpen (tag : BitVec 13) (s : State) : Result := .next (s.zoneSend tag.toNat 3)

/-- ZONE_CLOSE (R229). -/
def execZoneClose (tag : BitVec 13) (s : State) : Result := .next (s.zoneSend tag.toNat 1)

/-- ZONE_FINISH (R229, R232). -/
def execZoneFinish (tag : BitVec 13) (s : State) : Result := .next (s.zoneSend tag.toNat 2)

/-- ZONE_RESET (R229, R232, R250). -/
def execZoneReset (tag : BitVec 13) (s : State) : Result := .next (s.zoneSend tag.toNat 4)

/-- ZONE_MGMT_SEND_UNSUPPORTED (R166): Offline, Set Zone Descriptor Extension, and any other action. -/
def execZoneMgmtSendUnsupported (tag : BitVec 13) (s : State) : Result :=
  .next (s.onCmd tag.toNat (fun c => State.isNvmeIo [0x79] c && !([1, 2, 3, 4].contains (c.req.cdw13 % 256)))
    fun c => s.finish c.tag invalidField)

/-- REPORT_ZONES (R166, R203). -/
def execReportZones (tag : BitVec 13) (s : State) : Result :=
  .next (s.onCmd tag.toNat (fun c => State.isNvmeIo [0x7A] c || State.isSas [0x95] c) fun c =>
    if c.port < 4 ∧ c.req.cdw13 % 256 ≠ 0 then s.finish c.tag invalidField
    else s.reportZones c ((4 * (c.req.cdw12 + 1) - 64) / 64))

/-- ZONE_APPEND (R209, R230, R231, R243). -/
def execZoneAppend (tag : BitVec 13) (data : List Block) (transferError : Bool) (s : State) : Result :=
  .next (s.onCmd tag.toNat (State.isNvmeIo [0x7D]) fun c =>
    s.writeStep c (data.map (·.toNat)) transferError { doneOk with dw0 := c.lba })

/-- INVALID_IO_OPCODE (R166). -/
def execInvalidIoOpcode (tag : BitVec 13) (s : State) : Result :=
  .next (s.onCmd tag.toNat (fun c => c.port < 4 && c.req.queue != 0 && !s.nvmeOpcodeOk c.req)
    fun c => s.finish c.tag invalidOpcode)

end Sys2Proof.Machine
end

