-- ==== Sys2Proof/Machine/Sas.lean ====
section
/-!
DEFINITION. Machine/Sas.lean: the SAS ports: links, frames, task management, and the SCSI commands (chapter 06). A SCSI
command row acts on the command in flight that holds its tag; HostReq's `cdw10` on hold the CDB fields that it names.
-/
namespace Sys2Proof.Machine

open Arith

/-! ### CRC-32C and SAS addresses (R194) -/

/-- One bit of the reflected CRC-32C register. -/
def crcBit (c : Nat) : Nat := if c % 2 = 1 then (c / 2) ^^^ 0x82F63B78 else c / 2

/-- One byte. -/
def crcByte (c b : Nat) : Nat := (List.range 8).foldl (fun c _ => crcBit c) (c ^^^ (b % 256))

/-- CRC-32C of the low `n` bytes of `v`, least significant first. -/
def crc32c (n v : Nat) : Nat :=
  ((List.range n).foldl (fun c i => crcByte c (v / 256 ^ i)) 0xFFFFFFFF) ^^^ 0xFFFFFFFF

namespace State

/-- R194: a SAS address in NAA 5 format: `low` is 0 for the device name, 1 for S0 and 2 for S1. -/
def sasAddress (s : State) (low : Nat) : Nat :=
  5 * 2 ^ 60 + Config.sasCompanyId % 2 ^ 24 * 2 ^ 36 + crc32c 16 s.fuses.serial * 16 + low

/-! ### Nexuses (R193, R207) -/

/-- The nexus `n` of SAS port `p`. -/
def nexusAt (s : State) (p n : Nat) : Option Nexus := Store.get none s.hosts.nexus (32 * p + n)

/-- NEXUS_CNT of a port follows its established nexuses. -/
def refreshNexus (s : State) (p : Nat) : State :=
  s.wr (R.NEXUS_CNT p) ((List.range 32).filter fun n => match s.nexusAt p n with
    | some x => decide (x.link ≠ NexusLink.gone)
    | none => false).length

/-- A nexus put in place. -/
def putNexus (s : State) (p n : Nat) (x : Nexus) : State :=
  ({ s with hosts := { s.hosts with nexus := Store.put none s.hosts.nexus (32 * p + n) (some x) } }).refreshNexus p

/-- R207: the initiator of a nexus connects: a lost nexus receives unit attention 0x29/0x07. -/
def connect (s : State) (p n addr : Nat) : State :=
  match s.nexusAt p n with
  | none => s.putNexus p n { addr := addr }
  | some x =>
    if x.link = .gone then (s.putNexus p n { x with link := .connected, addr := addr }).postUa (32 * p + n) 0x2907
    else s.putNexus p n { x with link := .connected }

/-! ### Aborting SAS commands (R198, R205, R206) -/

/-- A SAS command in flight that has passed arrival: its port, nexus, logical unit and tag. -/
def sasCmd (p n lun task : Nat) (c : Cmd) : Bool :=
  c.port == 4 + p && c.req.queue == n && c.req.ns == lun + 1 && c.req.cid == task

/-- R205: commands that wait in an inlet or at the stalled tag step and meet `ok` (of the port and the frame) go. -/
def dropFrames (s : State) (ok : Nat → HostReq → Bool) : State :=
  let inlet := [0, 1].foldl (fun m p => Store.modify [] m p fun l => l.filter fun r => !ok p r) s.hosts.inlet
  let hold := match s.hosts.stalled with
    | some e => if 4 ≤ e.1 && ok (e.1 - 4) e.2 then none else some e
    | none => none
  let s' := ({ s with hosts := { s.hosts with inlet := inlet, stalled := hold } }).refreshInlets
  if s.hosts.stalled.isSome && hold.isNone then s'.wr R.ARRIVAL_STALL 0 else s'

/-- A command that meets `ok` waits in an inlet or at the stalled tag step. -/
def waitsFor (s : State) (ok : Nat → HostReq → Bool) : Bool :=
  [0, 1].any (fun p => (Store.get [] s.hosts.inlet p).any fun r => ok p r) || match s.hosts.stalled with
    | some e => decide (4 ≤ e.1) && ok (e.1 - 4) e.2
    | none => false

/-- R206: a SAS command aborted first: its transfer stops and it will end with no RESPONSE frame. -/
def abortSilent (s : State) (c : Cmd) : State :=
  let s := s.stopCmd c abortRequested
  ((s.modCmd c.tag fun c => { c with silent := true, xferRdy := none }).count R.ABORT_DONE).wr R.CMT_TOKEN 0

/-- R206: one command resolved against an abort; the second result says that it was aborted. -/
def resolveAbort (s : State) (c : Cmd) (sameCycle : Bool) : State × Bool :=
  if c.silent then (s.count R.ABORT_MISSED, false)
  else if sameCycle && s.rd R.CMT_TOKEN == 0 && ((s.tryCommit c.tag).cmd c.tag).isNone then
    ((s.tryCommit c.tag).count R.ABORT_MISSED, false)
  else (s.abortSilent c, true)

/-- R205: every SAS command that meets `ok`, waiting or in flight, resolved as in R206. -/
def abortSet (s : State) (ok : Nat → HostReq → Bool) : State :=
  let s := s.dropFrames ok
  (s.hosts.cmds.filter fun c => decide (4 ≤ c.port) && ok (c.port - 4) c.req).foldl
    (fun s c => (s.resolveAbort c false).1) s

/-- R206: ABORT TASK: what byte 0 of the additional response information says. -/
def abortTask (s : State) (p n lun task : Nat) (sameCycle : Bool) : State × Bool :=
  let ok := fun (q : Nat) (r : HostReq) => q == p && r.queue == n && r.ns == lun + 1 && r.cid == task
  match s.hosts.cmds.find? (sasCmd p n lun task) with
  | some c => s.resolveAbort c sameCycle
  | none =>
    if s.waitsFor ok then ((s.dropFrames ok).count R.ABORT_DONE, true) else (s.count R.ABORT_MISSED, false)

/-- R205: a function addressed to a logical unit answers 0x09 where it does not exist. -/
def onLun (s : State) (p n tmf lun : Nat) (f : State → State) : State :=
  if s.nsExists (lun + 1) then f s else s.emit (.taskResponse p n tmf 0x09 0)

/-- R198: the command frame of the nexus and tag overlaps one in flight or waiting. -/
def overlaps (s : State) (p n : Nat) (r : HostReq) : Bool :=
  s.hosts.cmds.any (fun c => sasCmd p n (r.ns - 1) r.cid c && r.ns == c.req.ns)
    || s.waitsFor fun q w => q == p && w.queue == n && w.ns == r.ns && w.cid == r.cid

/-- R197, R198: a COMMAND frame enters its port's inlet; an overlapped one aborts both; a full inlet answers TASK SET
FULL. -/
def commandFrame (s : State) (p n addr : Nat) (r : HostReq) : State :=
  let s := s.connect p n addr
  let r := { r with queue := n }
  if s.overlaps p n r then
    (s.abortTask p n (r.ns - 1) r.cid false).1.emit (.response p n r.cid (doneSense 0 0xB 0x4D (r.cid % 256)))
  else
    let q := Store.get [] s.hosts.inlet p
    if 128 ≤ q.length then (s.count (R.TSF_CNT p)).emit (.response p n r.cid { sas := 0x28 })
    else
      ({ s with hosts := { s.hosts with inlet := Store.put [] s.hosts.inlet p (q ++ [r]) } }).refreshInlets

/-! ### Write transfers (R200, R201) -/

/-- A WRITE (10) or (16). -/
def isScsiWrite (c : Cmd) : Bool := isSas [0x2A, 0x8A] c

/-- R200: the write may be sent an XFER_RDY but for its place among the port's writes. -/
def wantsXrdy (c : Cmd) : Bool :=
  isScsiWrite c && c.done.isNone && c.xferRdy.isNone && decide (c.received < c.reserved)

/-- R200: an XFER_RDY for the reserved burst: at most 64 writes of a port have one, served in arrival order. -/
def sendXrdy (s : State) (c : Cmd) : State :=
  let mine := s.hosts.cmds.filter fun d => d.port == c.port
  let first := (mine.filter wantsXrdy).all fun d => c.arrival ≤ d.arrival
  let outstanding := (mine.filter fun d => d.xferRdy.isSome).length
  if wantsXrdy c && first && decide (outstanding < 64) && s.flag R.HOLDUP_OK then
    let len := c.reserved - c.received
    (s.modCmd c.tag fun c => { c with xferRdy := some (c.received, len) }).emit
      (.xferRdy (c.port - 4) c.req.cid c.received len)
  else s

/-- The byte offset a write expects next (R201). -/
def expectedByte (c : Cmd) : Nat := 4096 * c.received + c.partLen

/-- The end, in bytes, of the burst requested. -/
def burstEnd (c : Cmd) : Nat := match c.xferRdy with
  | some (o, l) => 4096 * (o + l)
  | none => expectedByte c

/-- R201: the payload of a DATA frame taken in: a block that fills goes to the buffer, and a full burst ends. -/
def takePayload (s : State) (c : Cmd) (len data : Nat) : State :=
  let part := c.part + data % 2 ^ (8 * len) * 2 ^ (8 * c.partLen)
  let n := c.partLen + len
  if n < 4096 then s.modCmd c.tag fun c => { c with partLen := n, part := part }
  else
    let s := (s.placeBlock c.req.ns (c.lba + c.received) (part % 2 ^ 32768) c.arrival)
    let s := s.modCmd c.tag fun c =>
      { c with received := c.received + 1, partLen := n - 4096, part := part / 2 ^ 32768
               xferRdy := if 4096 * (c.received + 1) = burstEnd c then none else c.xferRdy }
    (s.followZone c.req.ns c.lba).refreshBuffer

/-- R201: one DATA frame of a write. Frames wait while the buffer takes no data (R78); those of an ended command are
discarded. -/
def dataFrame (s : State) (c : Cmd) (offset len data : Nat) : State :=
  if !s.mayReceive then s
  else if offset ≠ expectedByte c then s.writeShort c (doneSense 0 0xB 0x4B 0x05)
  else if burstEnd c < offset + len then s.writeShort c (doneSense 0 0xB 0x4B 0x02)
  else s.takePayload c len data

/-! ### Mode pages (R111, R196, R199, R203, R207) -/

/-- R203: the mode pages. -/
def modePageList : List Nat := [0x01, 0x02, 0x0A, 0x19, 0x1A, 0x1C]

/-- The key of a mode page field. -/
def modeKey (page field scope : Nat) : Nat := (page * 256 + field) * 32 + scope

/-- The scope of a page: pages 0x19 and 0x1A belong to the port, the others to the logical unit. -/
def modeScope (c : Cmd) (page : Nat) : Nat :=
  if page = 0x19 ∨ page = 0x1A then 16 + (c.port - 4) else c.req.ns - 1

/-- The default of a mode page field: the nexus loss time of page 0x19 is 2,000 ms (R207); the rest are 0. -/
def modeDefault (page field : Nat) : Nat := if page = 0x19 ∧ field = 0 then 2000 else 0

/-- The saved value of a mode page field. -/
def modeSaved (s : State) (page field scope : Nat) : Nat :=
  (Store.get none s.nv.savedPages (modeKey page field scope)).getD (modeDefault page field)

/-- The value in force of a mode page field: page 0x0A field 0 is D_SENSE; page 0x19 field 0 the nexus loss time in ms;
page 0x1A fields 0 to 3 the timers of IDLE_A, IDLE_B, IDLE_C and STANDBY_Z in 100 ms, 0 where disabled. -/
def modeValue (s : State) (page field scope : Nat) : Nat :=
  (Store.get none s.hosts.modePages (modeKey page field scope)).getD (s.modeSaved page field scope)

/-- R203: MODE SELECT: the fields of one page take their values, saved too where SP (`cdw10` bit 0) asks. -/
def modeSelect (s : State) (c : Cmd) (page : Nat) (values : List (Nat × Nat)) : State :=
  if !modePageList.contains page then s.finish c.tag (doneSense 0 5 0x26 0)
  else
    let sc := modeScope c page
    let put := fun (m : Store (Option Nat)) (v : Nat × Nat) => Store.put none m (modeKey page v.1 sc) (some v.2)
    let s := { s with hosts := { s.hosts with modePages := values.foldl put s.hosts.modePages } }
    let s := if c.req.cdw10 % 2 = 1 then { s with nv := { s.nv with savedPages := values.foldl put s.nv.savedPages } } else s
    s.finish c.tag doneOk

/-- The pages a MODE SENSE asks for: `cdw10` bits 5:0 is the page code, 0x3F every page. -/
def modeSensePages (c : Cmd) : List Nat :=
  if c.req.cdw10 % 64 = 0x3F then modePageList else modePageList.filter fun p => p == c.req.cdw10 % 64

/-- R203: MODE SENSE: `cdw10` bits 7:6 ask for current, changeable, default or saved values. R199: QUEUE ALGORITHM MODIFIER
reads 1 and QERR 0 in page 0x0A. -/
def modeSense (s : State) (c : Cmd) : State :=
  let pages := modeSensePages c
  if pages.isEmpty then s.finish c.tag invalidField
  else
    let pc := c.req.cdw10 / 64 % 4
    let val := fun (p f : Nat) =>
      if pc = 1 then 0xFFFFFFFF else if pc = 2 then modeDefault p f
      else if pc = 3 then s.modeSaved p f (modeScope c p) else s.modeValue p f (modeScope c p)
    s.returnFields c (pages.flatMap fun p => ("PAGE", p) :: ((List.range 8).map fun f => ("FIELD", val p f))
      ++ (if p = 0x0A then [("QAM", if pc = 1 then 0 else 1), ("QERR", 0)] else [])) 0

/-- R205: the mode pages of a logical unit return to their saved values. -/
def restorePages (s : State) (lun : Nat) : State :=
  { s with hosts := { s.hosts with modePages := s.hosts.modePages.filter fun e => e.1 % 32 != lun } }

/-! ### Commands that report (R195, R196, R203) -/

/-- R196, R203: REQUEST SENSE returns and clears the oldest unit attention, or reports a stopped unit, or no sense. -/
def requestSense (s : State) (c : Cmd) : State :=
  let key := 32 * (c.port - 4) + c.req.queue
  let fmt := ("DESCRIPTOR", s.modeValue 0x0A 0 (c.req.ns - 1))
  let sense := fun (k a q : Nat) => [fmt, ("KEY", k), ("ASC", a), ("ASCQ", q)]
  match s.nextUa key with
  | some u => (s.takeUa key).returnFields c (sense 6 (u / 256) (u % 256)) 0
  | none =>
    if s.pm.sasStopped.testBit (c.port - 4) then s.returnFields c (sense 2 0x04 0x02) 0
    else s.returnFields c (sense 0 0 0) 0

/-- R195: the peripheral device type of a logical unit, with qualifier 0b011 where it does not exist. -/
def deviceType (s : State) (ns : Nat) : List (String × Nat) := match s.namespaceOf ns with
  | some n => [("QUALIFIER", 0), ("TYPE", if n.zoned then 0x14 else 0)]
  | none => [("QUALIFIER", 3), ("TYPE", 0x1F)]

/-- R203: the VPD pages of a logical unit. -/
def vpdPages (s : State) (ns : Nat) : List Nat :=
  [0x00, 0x80, 0x83, 0x86, 0xB0, 0xB1] ++ match s.namespaceOf ns with
    | some n => if n.zoned then [0xB6] else []
    | none => []

/-- R194, R203, R204: what a VPD page holds. -/
def vpdData (s : State) (p page ns : Nat) : List (String × Nat) :=
  if page = 0x00 then (s.vpdPages ns).map fun x => ("PAGE", x)
  else if page = 0x80 then [("SERIAL", s.fuses.serial)]
  else if page = 0x83 then [("NAA_DEVICE", s.sasAddress 0), ("NAA_PORT", s.sasAddress (1 + p)), ("LU", ns)]
  else if page = 0xB0 then [("MAX_TRANSFER", 512), ("OPT_TRANSFER", 64), ("MAX_UNMAP_LBA", 0xFFFFFFFF), ("MAX_UNMAP_DESC", 256)]
  else if page = 0xB1 then [("RPM", s.rd R.SPM_RPM)]
  else if page = 0xB6 then [("URSWRZ", 1), ("MAX_OPEN", s.rd R.ZONE_CTX_COUNT)]
  else []

/-- R195, R203: INQUIRY: `cdw10` bit 0 is EVPD, `cdw11` the page. -/
def inquiry (s : State) (c : Cmd) : State :=
  if c.req.cdw10 % 2 = 0 ∨ ¬ s.nsExists c.req.ns then s.returnFields c (s.deviceType c.req.ns) 0
  else if (s.vpdPages c.req.ns).contains c.req.cdw11 then
    s.returnFields c (s.deviceType c.req.ns ++ s.vpdData (c.port - 4) c.req.cdw11 c.req.ns) 0
  else s.finish c.tag invalidField

/-- R203: READ CAPACITY: 4,096-byte blocks; LBPME and LBPRZ on NVM logical units. -/
def readCapacity (s : State) (c : Cmd) : State :=
  match s.namespaceOf c.req.ns with
  | some n => s.returnFields c [("LAST_LBA", n.size - 1), ("BLOCK_LENGTH", 4096), ("LBPME", ofBool !n.zoned),
      ("LBPRZ", ofBool !n.zoned)] 0
  | none => s.finish c.tag (doneSense 0 5 0x25 0)

/-- R203: LOG SENSE: `cdw10` bits 5:0 is the page. -/
def logSense (s : State) (c : Cmd) : State :=
  let p := c.req.cdw10 % 64
  if p = 0x00 then s.returnFields c ([0x00, 0x0D, 0x15, 0x2F].map fun x => ("PAGE", x)) 0
  else if p = 0x0D then s.returnFields c [("TEMPERATURE", s.compositeTemp), ("REFERENCE", s.rd R.THR_WARN)] 0
  else if p = 0x15 then s.returnFields c [("POWER_ON_MINUTES", s.rd R.POH_S / 60), ("SCANNING", ofBool !s.pm.backgroundStopped)] 0
  else if p = 0x2F then s.returnFields c [("TEMPERATURE", s.compositeTemp)] 0
  else s.finish c.tag invalidField

/-- R203: the operation codes the logical units accept. -/
def scsiOpcodes : List Nat :=
  [0x00, 0x03, 0x04, 0x12, 0x15, 0x55, 0x1A, 0x5A, 0x1B, 0x25, 0x9E, 0x28, 0x88, 0x2A, 0x8A, 0x2F, 0x8F, 0x35, 0x91, 0x93,
   0x42, 0x3B, 0x3C, 0x48, 0x4D, 0xA0, 0xA3, 0x94, 0x95, 0xC1, 0xC2]

/-- R203: the operation code and service action are accepted for the logical unit. -/
def scsiAccepted (s : State) (r : HostReq) : Bool :=
  let zoned := match s.namespaceOf r.ns with
    | some n => n.zoned
    | none => false
  scsiOpcodes.contains r.opcode
    && (r.opcode != 0x9E || r.action == 0x10) && (r.opcode != 0xA3 || r.action == 0x0C)
    && (r.opcode != 0x94 || (zoned && [1, 2, 3, 4].contains r.action)) && (r.opcode != 0x95 || (zoned && r.action == 0))
    && (r.opcode != 0x42 || !zoned)

/-- The in-flight SCSI command `t` of these operation codes, accepted for its logical unit. -/
def onSas (s : State) (t : Nat) (ops : List Nat) (f : Cmd → State) : State :=
  s.onCmd t (fun c => isSas ops c && s.scsiAccepted c.req) f

/-! ### Commands that act (R111, R112, R203) -/

/-- R111: the state a POWER CONDITION (`cdw10`) with its modifier (`cdw11`) asks for. -/
def powerCondition (pc modifier : Nat) : Option Nat :=
  if pc = 1 then some 0
  else if pc = 2 ∧ modifier ≤ 2 then some (1 + modifier)
  else if pc = 3 ∧ modifier = 0 then some 4
  else none

/-- R111, R112: START STOP UNIT: `cdw12` bit 0 is START. -/
def startStop (s : State) (c : Cmd) : State :=
  let p := c.port - 4
  if c.req.cdw10 = 0 then
    let start := c.req.cdw12 % 2 == 1
    let s := { s with pm := { s.pm with sasStopped := putBit s.pm.sasStopped p !start } }
    (s.requestState c.port (if start then 0 else 4)).finish c.tag doneOk
  else match powerCondition c.req.cdw10 c.req.cdw11 with
    | some st => (s.requestState c.port st).finish c.tag doneOk
    | none => s.finish c.tag invalidField

/-- R203: FORMAT UNIT with FMTDATA (`cdw10` bit 0) clear, as Format NVM SES 0. -/
def formatUnit (s : State) (c : Cmd) : State :=
  if c.req.cdw10 % 2 = 1 then s.finish c.tag invalidField else s.formatNs c false

/-- R203: SANITIZE: CRYPTOGRAPHIC ERASE (service action 3) of the logical unit and EXIT FAILURE MODE (0x1F). -/
def scsiSanitize (s : State) (c : Cmd) : State :=
  if c.req.action = 0x1F then s.finish c.tag doneOk
  else if c.req.action = 3 then s.sanitizeAll c [c.req.ns]
  else s.finish c.tag invalidField

/-- R170, R203, R651: WRITE BUFFER: `cdw10` the mode, `cdw11` the offset and `cdw12` the length in bytes. Mode 0x0E stages
data; mode 0x0F commits the staged image to the slot that does not run and activates it (R663). -/
def writeBuffer (s : State) (c : Cmd) (data : List Nat) : State :=
  if c.req.cdw10 = 0x0E then
    if c.req.cdw11 % 4096 ≠ 0 ∨ c.req.cdw12 % 4096 ≠ 0 then s.finish c.tag invalidField
    else (s.stage c.port (c.req.cdw11 / 4096) (data.take (c.req.cdw12 / 4096))).finish c.tag doneOk
  else if c.req.cdw10 = 0x0F then s.hostCommit c (if s.slotRuns 0 then 1 else 0) 3
  else s.finish c.tag invalidField

/-- R203: READ BUFFER returns staged data in 4 KiB multiples. -/
def readBuffer (s : State) (c : Cmd) : State :=
  if (c.req.cdw10 ≠ 0x0E ∧ c.req.cdw10 ≠ 0x0F) ∨ c.req.cdw11 % 4096 ≠ 0 ∨ c.req.cdw12 % 4096 ≠ 0 then
    s.finish c.tag invalidField
  else
    let b := c.port * 65536 + c.req.cdw11 / 4096
    let l := (List.range (c.req.cdw12 / 4096)).map fun i => Store.get 0 s.hosts.fwStage (b + i)
    (s.emit (.readData c.port c.req.cid 0 l)).finish c.tag doneOk

/-- R203: WRITE SAME (16): zero data only. -/
def writeSame (s : State) (c : Cmd) (data : Nat) : State :=
  if data ≠ 0 then s.finish c.tag invalidField else s.writeZeroes c

/-- R203: UNMAP of at most 256 descriptors. -/
def unmap (s : State) (c : Cmd) : State :=
  if 256 < c.req.ranges.length then s.finish c.tag (doneSense 0 5 0x26 0) else s.deallocateAll c c.req.ranges

/-! ### Nexus loss (R207, R636) -/

/-- Every command of a nexus. -/
def ofNexus (p n : Nat) : Nat → HostReq → Bool := fun q r => q == p && r.queue == n

/-- R633, R636: what SAS endpoint `addr` of port `p` owns and has staged goes with its nexus. -/
def nexusTransport (s : State) (p addr : Nat) (lost : Bool) : State :=
  let pos := 9 + p
  let own := s.rd R.OWN_STATE ≠ 0 ∧ s.rd R.OWN_POS = pos ∧ s.rd R.OWN_ADDR_LO + 2 ^ 32 * s.rd R.OWN_ADDR_HI = addr
  let s := if own then s.unown else s
  match Store.get none s.mgt.stage pos with
  | some x => if lost && x.addr == addr then s.discardStage pos else s
  | none => s

/-- R207: the nexus loss time expires. -/
def nexusLoss (s : State) (p n : Nat) : State :=
  match s.nexusAt p n with
  | none => s
  | some x =>
    if x.link = .losing then
      let s := s.abortSet (ofNexus p n)
      let s := match s.nexusAt p n with
        | some y => s.putNexus p n { y with link := .gone }
        | none => s
      s.nexusTransport p x.addr true
    else s

/-- R205: I_T NEXUS RESET. -/
def nexusReset (s : State) (p n : Nat) : State :=
  let s := (s.abortSet (ofNexus p n)).postUa (32 * p + n) 0x2907
  match s.nexusAt p n with
  | some x => s.nexusTransport p x.addr false
  | none => s

/-- R207: the loss time of a nexus starts. -/
def startLoss (s : State) (p n : Nat) : State :=
  match s.nexusAt p n with
  | some x => if x.link = .connected then s.putNexus p n { x with link := .losing } else s
  | none => s

/-- A SAS port whose link is up. -/
def sasUp (s : State) (p : Nat) : Bool := s.dom.core && s.rd (R.SAS_RATE p) != 0

/-- The commands of a logical unit from every SAS initiator (R205). -/
def ofLun (lun : Nat) : Nat → HostReq → Bool := fun _ r => r.ns == lun + 1

end State

/-- SAS_COMMAND_FRAME (R197, R198). -/
def execSasCommandFrame (port : Fin 2) (nexus : Fin 32) (initiator : BitVec 64) (frame : HostReq) (s : State) : Result :=
  .next (if s.sasUp port.val then s.commandFrame port.val nexus.val initiator.toNat frame else s)

/-- XFER_RDY (R78, R200). -/
def execXferRdy (tag : BitVec 13) (s : State) : Result :=
  .next (s.onCmd tag.toNat State.isScsiWrite s.sendXrdy)

/-- SAS_DATA_FRAME (R200, R201, R231). -/
def execSasDataFrame (tag : BitVec 13) (offset : BitVec 32) (len : Fin 1025) (data : BitVec 8192) (s : State) : Result :=
  .next (s.onCmd tag.toNat State.isScsiWrite fun c => s.dataFrame c offset.toNat len.val data.toNat)

/-- SAS_LINK_RESET (R193, R219): the rate is the highest both sides can run, at most SAS_MAX_RATE; RS-FEC runs at 22.5
Gbaud. -/
def execSasLinkReset (port : Fin 2) (rate : Fin 4) (s : State) : Result :=
  .next (if s.dom.core then
    let r := min rate.val (s.rd (R.SAS_MAX_RATE port.val))
    (s.wr (R.SAS_RATE port.val) r).wrFlag (R.SAS_FEC port.val) (r == 3)
  else s)

/-- SAS_LINK_LOSS (R207): the link is lost, with every nexus of the port, or the connection to one initiator. -/
def execSasLinkLoss (port : Fin 2) (nexus : Option (Fin 32)) (s : State) : Result :=
  .next (match nexus with
    | some n => s.startLoss port.val n.val
    | none =>
      let s := (s.wr (R.SAS_RATE port.val) 0).wr (R.SAS_FEC port.val) 0
      (List.range 32).foldl (fun s n => s.startLoss port.val n) s)

/-- ABORT_TASK (R205, R206). -/
def execAbortTask (port : Fin 2) (nexus : Fin 32) (tmf : BitVec 16) (lun : BitVec 8) (task : BitVec 16)
    (sameCycle : Bool) (s : State) : Result :=
  .next (s.onLun port.val nexus.val tmf.toNat lun.toNat fun s =>
    let r := s.abortTask port.val nexus.val lun.toNat task.toNat sameCycle
    r.1.emit (.taskResponse port.val nexus.val tmf.toNat 0 (ofBool r.2)))

/-- ABORT_TASK_SET (R205). -/
def execAbortTaskSet (port : Fin 2) (nexus : Fin 32) (tmf : BitVec 16) (lun : BitVec 8) (s : State) : Result :=
  .next (s.onLun port.val nexus.val tmf.toNat lun.toNat fun s =>
    (s.abortSet fun q r => q == port.val && r.queue == nexus.val && r.ns == lun.toNat + 1).emit
      (.taskResponse port.val nexus.val tmf.toNat 0 0))

/-- CLEAR_TASK_SET (R205): other nexuses receive unit attention 0x2F/0x00. -/
def execClearTaskSet (port : Fin 2) (nexus : Fin 32) (tmf : BitVec 16) (lun : BitVec 8) (s : State) : Result :=
  .next (s.onLun port.val nexus.val tmf.toNat lun.toNat fun s =>
    ((s.abortSet (State.ofLun lun.toNat)).postUaAll 0x2F00 (some (32 * port.val + nexus.val))).emit
      (.taskResponse port.val nexus.val tmf.toNat 0 0))

/-- LOGICAL_UNIT_RESET (R205). -/
def execLogicalUnitReset (port : Fin 2) (nexus : Fin 32) (tmf : BitVec 16) (lun : BitVec 8) (s : State) : Result :=
  .next (s.onLun port.val nexus.val tmf.toNat lun.toNat fun s =>
    (((s.abortSet (State.ofLun lun.toNat)).restorePages lun.toNat).postUaAll 0x2903 none).emit
      (.taskResponse port.val nexus.val tmf.toNat 0 0))

/-- I_T_NEXUS_RESET (R205, R636). -/
def execITNexusReset (port : Fin 2) (nexus : Fin 32) (tmf : BitVec 16) (s : State) : Result :=
  .next ((s.nexusReset port.val nexus.val).emit (.taskResponse port.val nexus.val tmf.toNat 0 0))

/-- QUERY_TASK (R205). -/
def execQueryTask (port : Fin 2) (nexus : Fin 32) (tmf : BitVec 16) (lun : BitVec 8) (task : BitVec 16) (s : State) :
    Result :=
  .next (s.onLun port.val nexus.val tmf.toNat lun.toNat fun s =>
    let there := s.hosts.cmds.any (State.sasCmd port.val nexus.val lun.toNat task.toNat) || s.waitsFor fun q r =>
      q == port.val && r.queue == nexus.val && r.ns == lun.toNat + 1 && r.cid == task.toNat
    s.emit (.taskResponse port.val nexus.val tmf.toNat (if there then 8 else 0) 0))

/-- QUERY_TASK_SET (R205): FUNCTION SUCCEEDED while a command of the nexus is in the task set. -/
def execQueryTaskSet (port : Fin 2) (nexus : Fin 32) (tmf : BitVec 16) (lun : BitVec 8) (s : State) : Result :=
  .next (s.onLun port.val nexus.val tmf.toNat lun.toNat fun s =>
    let mine := fun (q : Nat) (r : HostReq) => q == port.val && r.queue == nexus.val && r.ns == lun.toNat + 1
    let there := s.hosts.cmds.any (fun c => decide (4 ≤ c.port) && mine (c.port - 4) c.req) || s.waitsFor mine
    s.emit (.taskResponse port.val nexus.val tmf.toNat (if there then 8 else 0) 0))

/-- QUERY_ASYNCHRONOUS_EVENT (R205): FUNCTION SUCCEEDED with the oldest unit attention, one or more pending in bits 21:20. -/
def execQueryAsynchronousEvent (port : Fin 2) (nexus : Fin 32) (tmf : BitVec 16) (lun : BitVec 8) (s : State) : Result :=
  .next (s.onLun port.val nexus.val tmf.toNat lun.toNat fun s =>
    match s.nexusAt port.val nexus.val with
    | some x => match x.ua with
      | [] => s.emit (.taskResponse port.val nexus.val tmf.toNat 0 0)
      | u :: l => s.emit (.taskResponse port.val nexus.val tmf.toNat 8
          ((if l.isEmpty then 2 else 3) * 0x100000 + 0x60000 + u))
    | none => s.emit (.taskResponse port.val nexus.val tmf.toNat 0 0))

/-- TMF_NOT_SUPPORTED (R205). -/
def execTmfNotSupported (port : Fin 2) (nexus : Fin 32) (tmf : BitVec 16) (lun : BitVec 8) (s : State) : Result :=
  .next (s.onLun port.val nexus.val tmf.toNat lun.toNat fun s =>
    s.emit (.taskResponse port.val nexus.val tmf.toNat 0x04 0))

/-- I_T_NEXUS_LOSS (R207). -/
def execITNexusLoss (port : Fin 2) (nexus : Fin 32) (s : State) : Result := .next (s.nexusLoss port.val nexus.val)

/-- TEST_UNIT_READY (R112, R203). -/
def execTestUnitReady (tag : BitVec 13) (s : State) : Result :=
  .next (s.onSas tag.toNat [0x00] fun c =>
    s.finish c.tag (if s.pm.sasStopped.testBit (c.port - 4) then doneSense 0 2 0x04 0x02 else doneOk))

/-- REQUEST_SENSE (R196, R203). -/
def execRequestSense (tag : BitVec 13) (s : State) : Result := .next (s.onSas tag.toNat [0x03] s.requestSense)

/-- FORMAT_UNIT (R203, R208). -/
def execFormatUnit (tag : BitVec 13) (s : State) : Result := .next (s.onSas tag.toNat [0x04] s.formatUnit)

/-- INQUIRY (R195, R203). -/
def execInquiry (tag : BitVec 13) (s : State) : Result := .next (s.onSas tag.toNat [0x12] s.inquiry)

/-- MODE_SELECT (R111, R196, R203). -/
def execModeSelect (tag : BitVec 13) (page : BitVec 6) (values : List (Fin 8 × BitVec 32)) (s : State) : Result :=
  .next (s.onSas tag.toNat [0x15, 0x55] fun c =>
    s.modeSelect c page.toNat (values.map fun v => (v.1.val, v.2.toNat)))

/-- MODE_SENSE (R199, R203). -/
def execModeSense (tag : BitVec 13) (s : State) : Result := .next (s.onSas tag.toNat [0x1A, 0x5A] s.modeSense)

/-- START_STOP_UNIT (R111, R112). -/
def execStartStopUnit (tag : BitVec 13) (s : State) : Result := .next (s.onSas tag.toNat [0x1B] s.startStop)

/-- READ_CAPACITY (R203). -/
def execReadCapacity (tag : BitVec 13) (s : State) : Result := .next (s.onSas tag.toNat [0x25, 0x9E] s.readCapacity)

/-- SCSI_READ (R202, R204, R211, R244): blocks up to `sendTo` go to the initiator. -/
def execScsiRead (tag : BitVec 13) (sendTo : BitVec 17) (s : State) : Result :=
  .next (s.onSas tag.toNat [0x28, 0x88] fun c => s.readStep c.tag (State.endRead sendTo.toNat))

/-- SCSI_WRITE (R200, R240, R243): the write ends once all its blocks are in the buffer and its change in the tail. -/
def execScsiWrite (tag : BitVec 13) (s : State) : Result :=
  .next (s.onSas tag.toNat [0x2A, 0x8A] fun c => if s.mtuRuns && s.cmuRunning then s.writeDone c.tag doneOk else s)

/-- SCSI_VERIFY (R203): BYTCHK (`cdw10`) 0 only. -/
def execScsiVerify (tag : BitVec 13) (s : State) : Result :=
  .next (s.onSas tag.toNat [0x2F, 0x8F] fun c =>
    if c.req.cdw10 ≠ 0 then s.finish c.tag invalidField else s.readStep c.tag State.endVerify)

/-- SYNCHRONIZE_CACHE (R166, R203). -/
def execSynchronizeCache (tag : BitVec 13) (s : State) : Result :=
  .next (s.onSas tag.toNat [0x35, 0x91] fun c => s.finish c.tag doneOk)

/-- WRITE_SAME_16 (R203). -/
def execWriteSame16 (tag : BitVec 13) (data : Block) (s : State) : Result :=
  .next (s.onSas tag.toNat [0x93] fun c => s.writeSame c data.toNat)

/-- UNMAP (R203, R238). -/
def execUnmap (tag : BitVec 13) (s : State) : Result := .next (s.onSas tag.toNat [0x42] s.unmap)

/-- WRITE_BUFFER (R203, R651). -/
def execWriteBuffer (tag : BitVec 13) (data : List Block) (s : State) : Result :=
  .next (s.onSas tag.toNat [0x3B] fun c => s.writeBuffer c (data.map (·.toNat)))

/-- READ_BUFFER (R203). -/
def execReadBuffer (tag : BitVec 13) (s : State) : Result := .next (s.onSas tag.toNat [0x3C] s.readBuffer)

/-- SCSI_SANITIZE (R203, R208, R650). -/
def execScsiSanitize (tag : BitVec 13) (s : State) : Result := .next (s.onSas tag.toNat [0x48] s.scsiSanitize)

/-- LOG_SENSE (R203). -/
def execLogSense (tag : BitVec 13) (s : State) : Result := .next (s.onSas tag.toNat [0x4D] s.logSense)

/-- REPORT_LUNS (R195). -/
def execReportLuns (tag : BitVec 13) (s : State) : Result :=
  .next (s.onSas tag.toNat [0xA0] fun c => s.returnFields c (s.allNamespaces.map fun n => ("LUN", n - 1)) 0)

/-- REPORT_SUPPORTED_OPCODES (R203). -/
def execReportSupportedOpcodes (tag : BitVec 13) (s : State) : Result :=
  .next (s.onSas tag.toNat [0xA3] fun c => s.returnFields c (State.scsiOpcodes.map fun o => ("OPCODE", o)) 0)

/-- CLOSE_ZONE (R203, R229). -/
def execCloseZone (tag : BitVec 13) (s : State) : Result :=
  .next (s.onSas tag.toNat [0x94] fun c => if c.req.action = 1 then s.zoneCmd c 1 else s)

/-- FINISH_ZONE (R203, R229). -/
def execFinishZone (tag : BitVec 13) (s : State) : Result :=
  .next (s.onSas tag.toNat [0x94] fun c => if c.req.action = 2 then s.zoneCmd c 2 else s)

/-- OPEN_ZONE (R203, R229). -/
def execOpenZone (tag : BitVec 13) (s : State) : Result :=
  .next (s.onSas tag.toNat [0x94] fun c => if c.req.action = 3 then s.zoneCmd c 3 else s)

/-- RESET_WRITE_POINTER (R203, R232). -/
def execResetWritePointer (tag : BitVec 13) (s : State) : Result :=
  .next (s.onSas tag.toNat [0x94] fun c => if c.req.action = 4 then s.zoneCmd c 4 else s)

/-- SCSI_INVALID_OPCODE (R203). -/
def execScsiInvalidOpcode (tag : BitVec 13) (s : State) : Result :=
  .next (s.onCmd tag.toNat (fun c => decide (4 ≤ c.port) && !s.scsiAccepted c.req) fun c => s.finish c.tag invalidOpcode)

end Sys2Proof.Machine
end

