-- ==== Sys2Proof/Machine/Abacus.lean ====
section
/-!
DEFINITION. Machine/Abacus.lean: beads, decode results and the recovery ladder (chapter 10).
-/
namespace Sys2Proof.Machine

open Arith

namespace State

/-! ### Recovery clocks (R359) -/

/-- R359: what a sector's recovery clock belongs to: a command, or the MTU's own read of a location. -/
def clockKey (v : Serve) (loc : Nat) : Nat := match v.tag with
  | some t => 2 * t
  | none => 2 * loc + 1

/-- The recovery clock of a key. -/
def clockOf (s : State) (key : Nat) : Option RecoveryClock := s.abx.clocks.find? fun c => c.key == key

/-- R359: no further step, revolution or bead of the ladder starts for this key. -/
def limitReached (s : State) (key : Nat) : Bool := (s.clockOf key).any fun c => c.expired

/-- R359: the limit in ms and the steps (mask over steps 1 to 6) of a command or of the MTU's own read. -/
def recoveryLimit (s : State) (v : Serve) : Nat × Nat :=
  match v.tag.bind s.cmd with
  | none => (s.rd R.RCV_LIMIT_MS, 63)
  | some c =>
    if c.req.limited then (s.rd R.RCV_LR_MS, 3)
    else
      let own := if c.port < 4 then 100 * (Store.get 0 (s.ctrl c.port).feats 0x05 % 65536) else s.modeValue 0x01 0 (c.req.ns - 1)
      (if own = 0 then s.rd R.RCV_LIMIT_MS else own, 63)

/-- R359: a recovery clock starts at the first step-0 failure. -/
def startClock (s : State) (v : Serve) (loc : Nat) : State :=
  let key := clockKey v loc
  if (s.clockOf key).isSome then s
  else
    let l := s.recoveryLimit v
    { s with abx := { s.abx with clocks := s.abx.clocks ++ [{ key := key, limitMs := l.1, steps := l.2 }] } }

/-! ### Beads (R343 to R350) -/

/-- R350, R669: the usable bead slots. -/
def usableBeads (s : State) : Nat :=
  let b := if s.flag R.THROTTLED then s.rd R.BEADS_THROTTLE else 48
  if s.flag R.PERT_ARM then min b (s.rd R.ABX_BEAD_CAP) else b

/-- The framings ready for a bead, as (LLR slot, its state, framing): a ladder request past its limit starts none (R359). -/
def readyFramings (s : State) : List (Nat × LlrSlot × Nat) :=
  s.abx.llr.flatMap fun e => match e.2 with
    | some x =>
      if x.handed && !x.memErr && !x.ending && !(x.step != 0 && s.limitReached (clockKey x.serve x.location)) then
        (((List.range x.framings.length).zip x.framings).filter fun p => decide (p.2.st = .ready)).map fun p => (e.1, x, p.1)
      else []
    | none => []

/-- R348: the ready framing that starts next. -/
def nextReady (s : State) : Option (Nat × LlrSlot × Nat) :=
  let l := s.readyFramings
  match (l.map fun p => p.2.1.deadline).min? with
  | none => none
  | some d =>
    let l := l.filter fun p => p.2.1.deadline == d
    match (l.map fun p => p.2.1.readyAt).min? with
    | none => none
    | some r =>
      let l := l.filter fun p => p.2.1.readyAt == r
      match tokenGrant 8 (s.rd R.BEAD_TOKEN) (l.map fun p => p.2.1.stream) with
      | some k => l.find? fun p => p.2.1.stream == k
      | none => none

/-- A framing changed. -/
def modFraming (x : LlrSlot) (j : Nat) (f : Framing → Framing) : LlrSlot :=
  { x with framings := ((List.range x.framings.length).zip x.framings).map fun p => if p.1 = j then f p.2 else p.2 }

/-- R348: one bead started in the lowest free usable bead slot. -/
def startBead (s : State) : State :=
  match (List.range s.usableBeads).find? (fun b => (Store.get none s.abx.beads b).isNone), s.nextReady with
  | some b, some (i, x, j) =>
    match x.framings[j]? with
    | none => s
    | some f =>
      let bead : Bead := ⟨i, j, 0, min (s.rd R.BEAD_ITER) (f.budget - f.used)⟩
      let s := { s with abx := { s.abx with beads := Store.put none s.abx.beads b (some bead) } }
      let s := s.modLlr i fun x => { modFraming x j fun f => { f with st := .running } with beads := x.beads + 1 }
      (s.wr R.BEAD_TOKEN ((x.stream + 1) % 8)).refreshAbx
  | _, _ => s

/-- A bead slot freed. -/
def freeBead (s : State) (b : Nat) : State :=
  ({ s with abx := { s.abx with beads := Store.put none s.abx.beads b none } }).refreshAbx

/-- R338: what a converged framing holds. A sector encrypted under another key decrypts to a free value (R648). -/
def convergedAs (s : State) (loc : Nat) (word : Codeword) : FramingState × State :=
  match word with
  | .badCrc => (.crcFail, s)
  | .other md user => (.passed md.toNat user.toNat, s)
  | .written => match Store.get none s.nv.sectors loc with
    | none => (.crcFail, s)
    | some x =>
      if x.key = Store.get 0 s.nv.keys (field x.metadata 96 8) then (.passed x.metadata x.user, s)
      else let (v, s) := s.free
        (.passed x.metadata (v % 2 ^ 32768), s)

/-- A framing has passed the CRC check. -/
def isPassed (f : Framing) : Bool := match f.st with
  | .passed _ _ => true
  | _ => false

/-- R346: once a framing has passed, those that wait for a bead slot are withdrawn. -/
def withdraw (x : LlrSlot) : LlrSlot :=
  { x with framings := x.framings.map fun f => if f.st = .ready then { f with st := .withdrawn } else f }

/-- R343, R344, R346, R361, R362: an iteration ends with `resid` checks unsatisfied. -/
def iterationEnd (s : State) (b : Nat) (bd : Bead) (x : LlrSlot) (resid : Nat) (word : Codeword) (memErr : Bool) : State :=
  match x.framings[bd.framing]? with
  | none => s.freeBead b
  | some f0 =>
    let f := { f0 with used := f0.used + 1, resid := resid }
    let set := fun (s : State) (st : FramingState) => s.modLlr bd.slot fun x => modFraming x bd.framing fun _ => { f with st := st }
    let s := if memErr then s.modLlr bd.slot fun x => { x with memErr := true } else s
    if x.ending then
      let s := (set s .withdrawn).freeBead b
      if s.beadOn bd.slot then s else s.freeLlr bd.slot
    else if memErr || x.memErr then (set s .memErr).freeBead b
    else if resid = 0 then
      let (st, s) := s.convergedAs x.location word
      let s := (set s st).freeBead b
      match st with
      | .passed _ _ => (s.modLlr bd.slot withdraw).refreshAbx
      | _ => s
    else if bd.done + 1 < bd.limit then
      let s := set s .running
      { s with abx := { s.abx with beads := Store.put none s.abx.beads b (some { bd with done := bd.done + 1 }) } }
    else if f.kind = 2 || f.budget ≤ f.used then (set s .failed).freeBead b
    else (set s (if x.framings.any isPassed then .withdrawn else .ready)).freeBead b

/-! ### Results (R321, R326, R338, R352, R353) -/

/-- R323: a reframe is still due. -/
def reframeDue (s : State) (x : LlrSlot) : Bool :=
  !x.framings.isEmpty && !x.memErr && !x.eraseLimit && x.framings.all (fun f => decide (f.st = .failed ∨ f.st = .crcFail ∨ f.st = .notDecoded))
    && !(x.framings.any fun f => f.ofs == 0) && !(x.framings.any fun f => f.kind == 2) && s.flag (R.REFRAME_EN (x.stream / 2))

/-- The request of LLR slot `i` is settled. A request past its recovery limit settles once no bead of it runs (R359). -/
def settled (s : State) (i : Nat) (x : LlrSlot) : Bool :=
  let late := x.step != 0 && s.limitReached (clockKey x.serve x.location)
  x.handed && !x.ending && !s.beadOn i && !s.reframeDue x
    && x.framings.all fun f => decide (f.st ≠ .running) && (x.memErr || late || decide (f.st ≠ .ready))

/-- R321: the winner among passing framings. -/
def winner (x : LlrSlot) : Option Framing :=
  (x.framings.filter isPassed).foldl (fun b f => match b with
    | none => some f
    | some g => if f.ofs.natAbs < g.ofs.natAbs ∨ (f.ofs.natAbs = g.ofs.natAbs ∧ f.ofs < g.ofs) then some f else some g) none

/-- R353: the framing a failed sector reports: the one with most iterations, the accepted one first. -/
def reported (x : LlrSlot) : Option Framing :=
  x.framings.foldl (fun b f => match b with
    | none => some f
    | some g => if g.used < f.used then some f else some g) none

/-- The metadata and data of a passing framing. -/
def decoded (f : Option Framing) : Nat × Nat := match f with
  | some f => match f.st with
    | .passed m u => (m, u)
    | _ => (0, 0)
  | none => (0, 0)

/-- R326: the framing status word with the framing used. -/
def framingWord (x : LlrSlot) (f : Option Framing) : Nat :=
  let reframed := match f with
    | some g => g.kind == 2 && isPassed g
    | none => false
  let amb := x.framings.any (fun g => g.kind == 1) && match f with
    | some g => g.kind != 2 && isPassed g
    | none => false
  let dual := decide (2 ≤ (x.framings.filter isPassed).length)
  let pred := x.blind || reframed || x.flags.testBit 10
  let dist := if pred then x.predDist else match f with
    | some g => g.dist
    | none => 0
  let ofs := if pred then 0 else match f with
    | some g => unsigned 6 g.ofs
    | none => 0
  x.flags ||| (2 * ofBool amb + 4 * ofBool reframed + 8 * ofBool dual) ||| (2 ^ 11 * (dist % 64) + 2 ^ 17 * ofs + 2 ^ 23 * (x.spans % 16))

/-- A result: the checks of R338 and R353 on a settled request. -/
structure Verdict where
  f : Option Framing
  ok : Bool
  crc : Bool
  mism : Bool
  unread : Bool
  iter : Bool
  deriving DecidableEq, Repr

/-- R338, R353: the verdict on a settled request. -/
def verdict (x : LlrSlot) : Verdict :=
  let w := if x.memErr then none else winner x
  let f := if w.isSome then w else reported x
  let md := (decoded w).1
  let mism := w.isSome && field md 0 48 != x.location
  let unread := w.isSome && md.testBit 104
  { f := f, ok := w.isSome && !mism && !unread, mism := mism, unread := unread
    crc := w.isNone && match f with
      | some g => decide (g.st = .crcFail)
      | none => false
    iter := w.isNone && !x.memErr && match f with
      | some g => decide (g.st = .failed)
      | none => false }

/-- R353: the decode status word. -/
def statusWord (x : LlrSlot) (v : Verdict) (dlMiss pinned : Bool) : Nat :=
  let b := fun (i : Nat) (c : Bool) => 2 ^ i * ofBool c
  let used := match v.f with
    | some f => f.used
    | none => 0
  let resid := match v.f with
    | some f => f.resid
    | none => 0
  let none_ := used == 0
  b 0 v.ok + b 1 (v.ok || v.mism || v.unread || v.crc) + b 2 v.crc + b 3 v.mism + b 4 v.unread + b 5 v.iter
    + b 6 x.eraseLimit + b 7 dlMiss + b 8 (x.combined.isSome && x.beads != 0) + b 9 x.noCombine + b 10 pinned + b 11 x.memErr
    + 2 ^ 12 * x.step + 2 ^ 15 * min 32 used + 2 ^ 21 * (if none_ then 0 else min 31 x.beads)
    + 2 ^ 26 * (if none_ then 0 else min 63 (resid / 16))

/-- R367: the histogram bin of a step-0 result. -/
def histBin (v : Verdict) : Nat :=
  let u := match v.f with
    | some f => f.used
    | none => 0
  if !(v.ok || v.mism || v.unread || v.crc) then 7
  else if u ≤ 4 then u - 1 else if u ≤ 8 then 4 else if u ≤ 16 then 5 else 6

/-- A counter and its event line, where `c` holds. -/
def countIf (s : State) (c : Bool) (f : Fld) (line : Nat) : State := if c then (s.count f).raise line else s

/-- R353, R363, R367: the counters and event lines of a result. -/
def countResult (s : State) (x : LlrSlot) (v : Verdict) (dlMiss : Bool) : State :=
  let s := if v.ok then s.count R.CW_DECODED else s
  let s := if x.step = 0 then s.count (R.ITER_HIST (histBin v)) else s
  let s := s.countIf dlMiss R.DL_MISS_CNT 91
  let s := s.countIf v.crc R.CRC_FAIL_CNT 94
  let s := s.countIf v.mism R.LOC_MISMATCH_CNT 95
  let s := if v.unread then s.raise 96 else s
  let s := s.countIf x.eraseLimit R.ERASE_LIMIT_CNT 97
  s.countIf x.memErr R.MEM_ERR_CNT 98

/-! ### What a sector delivers (R211, R238, R245, R246, R352, R526) -/

/-- A sector's data in the 4K unit that assembles it. -/
def toUnit (s : State) (v : Serve) (user : Nat) (bad : Bool) : State :=
  let f := fun (u : ReadUnit) => if u.ns = v.ns ∧ u.lba = v.lba then
    { u with sectors := Store.put none u.sectors v.idx (some user), bad := u.bad || bad } else u
  { s with pak := { s.pak with reads := s.pak.reads.map f } }

/-- RD_STAGED_MIB follows the 4K units held. -/
def stagedMib (s : State) : State := s.wr R.RD_STAGED_MIB (min 1023 (s.staged / 256))

/-- A decoded or unreadable sector goes to what it serves. -/
def serveSector (s : State) (v : Serve) (user : Nat) (bad : Bool) : State :=
  match v.kind with
  | .hostRead => if v.packed then (s.toUnit v user bad).stagedMib else match v.tag with
    | some t => s.deliver t v.ns v.lba (if bad then .unreadable else .data user)
    | none => s
  | .readBack => if v.packed then (s.toUnit v user bad).stagedMib else if (s.newestInBuffer v.ns v.lba).isSome then s
    else (s.placeOld v.ns v.lba user bad).refreshBuffer
  | .rewrite => ({ s with media := { s.media with back := s.media.back ++ [({ serve := v, data := user, bad := bad } : BackSector)] } }).refreshBuffer
  | _ => s

/-! ### The ladder (R356 to R360) -/

/-- The ladder entry of a location. -/
def entryAtLoc (s : State) (l : Nat) : Option Ladder := s.abx.ladder.find? fun e => e.location == l

/-- A ladder entry changed. -/
def modEntry (s : State) (l : Nat) (f : Ladder → Ladder) : State :=
  { s with abx := { s.abx with ladder := s.abx.ladder.map fun e => if e.location = l then f e else e } }

/-- A ladder entry gone. -/
def dropEntry (s : State) (l : Nat) : State :=
  { s with abx := { s.abx with ladder := s.abx.ladder.filter fun e => e.location != l
                               clocks := s.abx.clocks.filter fun c => c.key != 2 * l + 1 } }

/-- Decodes or rereads of a step (R357). -/
def stepCount (s : State) (step : Nat) : Nat :=
  if step = 3 ∨ step = 4 then 2 else if step = 5 then s.rd R.REREAD_N else if step = 6 then 19 else 1

/-- R357, R359, R395: a step is enabled, permitted and applies. -/
def stepApplies (s : State) (e : Ladder) (step : Nat) : Bool :=
  let permitted := match s.clockOf (clockKey e.serve e.location) with
    | some c => c.steps.testBit (step - 1)
    | none => true
  let n := e.stream / 2
  let compat := !s.typeAllowed n 9
  let single := s.rd (R.JD_MODE n (e.stream % 2)) != 0 || compat
  s.bitAt R.RCV_STEP_EN (step - 1) && permitted
    && (if step = 1 || step = 6 then e.pin.isSome else if step = 4 then !single else true)

/-- R357: the step a ladder entry takes next, and how many of its decodes or rereads it has begun. -/
def nextStep (s : State) (e : Ladder) : Option (Nat × Nat) :=
  if s.limitReached (clockKey e.serve e.location) then none
  else if e.step != 0 && decide (e.begun < s.stepCount e.step) && s.stepApplies e e.step then some (e.step, e.begun)
  else ((List.range 6).map fun i => i + 1).find? (fun t => decide (e.step < t) && s.stepApplies e t) |>.map fun t => (t, 0)

/-- R358: LLR slot `i` becomes a pin where the limit allows it; else the pin is refused. -/
def pinSlot (s : State) (l i : Nat) : State :=
  if s.rd R.LLR_PINNED + 1 ≤ s.rd R.LLR_PIN_MAX then
    ((s.modLlr i fun x => { x with pinned := true, handed := false }).modEntry l fun e => { e with pin := some i }).refreshAbx
  else (((s.count R.NO_COMBINE_CNT).raise 93).modEntry l fun e => { e with noCombine := true }).freeLlr i

/-- R360: a sector that ends without recovery. -/
def unrecoverable (s : State) (e : Ladder) : State :=
  let s := (s.count R.UNREC_CNT).raise 90
  let s := match e.pin with
    | some p => s.freeLlr p
    | none => s
  (s.dropEntry e.location).serveSector e.serve 0 true

/-- R360: the ladder goes on, or the sector ends where nothing is left. -/
def ladderNext (s : State) (l : Nat) : State :=
  match s.entryAtLoc l with
  | some e => if (s.nextStep e).isNone then s.unrecoverable e else s
  | none => s

/-- R356: a failed step-0 sector enters the ladder. -/
def enterLadder (s : State) (i : Nat) (x : LlrSlot) : State :=
  let s := ((s.count R.CW_FAIL0).raise 88).startClock x.serve x.location
  let e : Ladder := { stream := x.stream, location := x.location, dataAddr := x.dataAddr, serve := x.serve, flags := x.flags
                      step := if x.memErr then 1 else 0, begun := 19, framings := x.framings }
  let s := { s with abx := { s.abx with ladder := s.abx.ladder ++ [e] } }
  let s := if x.memErr || x.eraseLimit || x.flags.testBit 10 then s.freeLlr i else s.pinSlot x.location i
  s.ladderNext x.location

/-- R357, R358: a step's decode failed: what becomes of the pin, and the ladder goes on. -/
def stepFailed (s : State) (i : Nat) (x : LlrSlot) (e : Ladder) : State :=
  let l := e.location
  let s := s.modEntry l fun e => { e with waiting := false, begun := if x.memErr then 19 else e.begun }
  let s := if e.pin = some i then
      if x.memErr then (s.modEntry l fun e => { e with pin := none }).freeLlr i
      else (s.modLlr i fun x => { x with handed := false }).refreshAbx
    else match e.pin with
      | some p =>
        if x.memErr then ((s.modEntry l fun e => { e with pin := none }).freeLlr i).freeLlr p
        else if x.eraseLimit || x.flags.testBit 10 then s.freeLlr i
        else ((s.modLlr i fun x => { x with pinned := true, handed := false }).modEntry l fun e => { e with pin := some i }).freeLlr p
      | none => if x.memErr || x.eraseLimit || e.noCombine || x.flags.testBit 10 then s.freeLlr i else s.pinSlot l i
  s.ladderNext l

/-- R367: the counter of recoveries at a step. -/
def recoveredAt (step : Nat) : Fld :=
  if step = 1 then R.RCV_OK1 else if step = 2 then R.RCV_OK2 else if step = 3 then R.RCV_OK3
  else if step = 4 then R.RCV_OK4 else if step = 5 then R.RCV_OK5 else R.RCV_OK6

/-- R249, R360: a recovered or decoded sector that qualifies for relocation. -/
def relocCheck (s : State) (x : LlrSlot) : State :=
  let d := decoded (winner x)
  let r : Reloc := ⟨x.location, d.2, d.1⟩
  if x.step != 0 && decide (s.rd R.RELOC_STEP ≤ x.step) then s.qualify r
  else if x.blind then s.watchBlind r else s

/-- The slot that pins the entry of `x` is freed, unless it is `i`. -/
def unpinOther (s : State) (i : Nat) (x : LlrSlot) : State :=
  match (s.entryAtLoc x.location).bind fun e => e.pin with
  | some p => if p = i then s else s.freeLlr p
  | none => s

/-- The ladder entry of `x` ends, where there is one. -/
def endEntry (s : State) (i : Nat) (x : LlrSlot) : State :=
  if (s.entryAtLoc x.location).isSome then (s.unpinOther i x).dropEntry x.location else s

/-- The user data of an OK sector at its place in DRAM. -/
def storeUser (s : State) (x : LlrSlot) (user : Nat) : State :=
  if x.dataAddr < 0x800000000 || !s.dom.dram then s else s.dramFill x.dataAddr 64 user

/-- R211, R352, R360: an OK sector: its data in DRAM and with what it serves; its slots are freed. -/
def sectorOk (s : State) (i : Nat) (x : LlrSlot) : State :=
  let s := (s.storeUser x (decoded (winner x)).2).relocCheck x
  let s := if x.step = 0 then s
    else (((s.count (recoveredAt x.step)).raise 89).unpinOther i x).dropEntry x.location
  (s.freeLlr i).serveSector x.serve (decoded (winner x)).2 false

/-- R352 to R360: what becomes of a settled request: its sector served, its ladder entry entered or moved on. -/
def settleSlot (s : State) (i : Nat) (x : LlrSlot) (v : Verdict) : State :=
  if v.ok then s.sectorOk i x
  else if v.unread && !v.mism then ((s.endEntry i x).freeLlr i).serveSector x.serve 0 true
  else if x.step = 0 then s.enterLadder i x
  else match s.entryAtLoc x.location with
    | some e => s.stepFailed i x e
    | none => s.freeLlr i

/-- R321, R323, R325: the framing counters of a result, and FRM_LAST. -/
def countFraming (s : State) (n side w : Nat) : State :=
  let s := if w.testBit 1 then (s.count (R.AMBIG_CNT n)).raise (106 + 4 * n) else s
  let s := if w.testBit 2 then (s.count (R.REFRAME_CNT n)).raise (106 + 4 * n) else s
  let s := if w.testBit 3 then s.count (R.DUAL_PASS_CNT n) else s
  s.wr (R.FRM_LAST n side) w

/-- R352 to R360: the result of a settled request at ACLK cycle `time`. -/
def result (s : State) (i : Nat) (x : LlrSlot) (time : Nat) : State :=
  let v := verdict x
  let miss := decide (x.deadline < time)
  let w := framingWord x v.f
  let ended := v.ok || (v.unread && !v.mism)
  let t := ((s.countResult x v miss).countFraming (x.stream / 2) (x.stream % 2) w).settleSlot i x v
  let e := t.entryAtLoc x.location
  let pinned := !ended && (e.bind fun e => e.pin) == some i
  let refused := e.any fun e => e.noCombine
  let d := statusWord { x with noCombine := x.noCombine || (!ended && refused) } v miss pinned
  let md := if v.ok || v.mism || v.unread then (decoded v.f).1 else 0
  (t.wr R.LAST_DSW d).emit (.decodeResult x.dataAddr w d md)

/-- R345, R357: the framings a decode of the pin runs, with positions `lo` on of each codeword erased in a sweep. -/
def pinFramings (s : State) (e : Ladder) (p : LlrSlot) (sweep : Option Nat) : List Framing :=
  e.framings.map fun f =>
    let base := erasedWithin p.erased f.ofs 37632
    let n := match sweep with
      | none => base
      | some w =>
        let len := min 2048 (37632 - 2048 * w)
        base - erasedWithin p.erased (f.ofs + 2048 * (w : Int)) len + len
    { f with budget := if f.kind = 2 then s.rd R.BEAD_ITER else s.rd R.RCV_ITER_MAX, used := 0, resid := 0
             st := if s.flag R.ERASE_LIMIT_EN && decide (4704 < n) then .notDecoded else .ready }

/-- R357: the next decode or reread of a ladder entry starts at ACLK cycle `time`. -/
def stepStart (s : State) (e : Ladder) (step begun time : Nat) : State :=
  let s := s.modEntry e.location fun e => { e with step := step, begun := begun + 1, waiting := true }
  if step = 1 ∨ step = 6 then
    match e.pin with
    | none => s
    | some p =>
      let f := fun (x : LlrSlot) =>
        let fr := s.pinFramings e x (if step = 6 then some begun else none)
        { x with handed := true, step := step, beads := 0, framings := fr, combined := none
                 eraseLimit := !fr.isEmpty && fr.all fun g => decide (g.st = .notDecoded)
                 readyAt := if step = 6 ∧ begun ≠ 0 then x.readyAt else time
                 deadline := if step = 6 ∧ begun ≠ 0 then x.deadline else time + 1600 * s.rd (R.DL_US x.stream) }
      (s.modLlr p f).refreshAbx
  else
    let mode := if step = 3 then 1 + begun else if step = 4 then 3 + begun else 0
    s.queueOp { kind := .reread, write := false, surface := surfaceOf e.location, track := trackOf e.location
                first := e.location % 4096, sectors := [{ e.serve with kind := .reread }], rcvMode := mode, queuedMs := s.nowMs }

/-- R359: a queued reread of a location is taken back. -/
def cancelReread (s : State) (l : Nat) : State :=
  let n := surfaceOf l / 8
  let mine := fun (o : MediaOp) => decide (o.kind = .reread) && location o.surface o.track o.first == l
  let q := (Store.get [] s.media.queue n).filter fun o => !mine o
  ({ s with media := { s.media with queue := Store.put [] s.media.queue n q } }).wr (R.QUEUE_DEPTH n) (min 8191 q.length)

/-- R359: the sectors of an expired clock that have no decode or revolution under way end. -/
def expire (s : State) (key : Nat) : State :=
  let mine := s.abx.ladder.filter fun e => clockKey e.serve e.location == key
  mine.foldl (fun s e =>
    let n := surfaceOf e.location / 8
    let queued := (Store.get [] s.media.queue n).any fun o =>
      decide (o.kind = .reread) && location o.surface o.track o.first == e.location
    if !e.waiting then s.unrecoverable e
    else if queued then (s.cancelReread e.location).unrecoverable e
    else s) s

end State

/-! ### The commands -/

/-- BEAD_START (R343, R347, R348, R350, R359). -/
def execBeadStart (s : State) : Result := .next (if s.dom.abx then s.startBead else s)

/-- BEAD_ITERATION_END (R338, R343, R344, R346): the checks left unsatisfied, what the framing holds where none is, and an
uncorrectable memory error found in the iteration (R361). -/
def execBeadIterationEnd (bead : Fin 48) (resid : BitVec 13) (word : Codeword) (memErr : Bool) (s : State) : Result :=
  .next (match Store.get none s.abx.beads bead.val with
    | some b => match Store.get none s.abx.llr b.slot with
      | some x =>
        let s := s.iterationEnd bead.val b x resid.toNat word memErr
        if memErr && !x.memErr then s.detect 129 else s
      | none => s.freeBead bead.val
    | none => s)

/-- DECODE_RESULT (R341, R349, R352, R353, R356, R358, R360). -/
def execDecodeResult (slot : Fin 384) (time : BitVec 64) (s : State) : Result :=
  .next (match Store.get none s.abx.llr slot.val with
    | some x => if s.settled slot.val x then s.result slot.val x time.toNat else s
    | none => s)

/-- LADDER_STEP_START (R357, R359). -/
def execLadderStepStart (loc : BitVec 41) (time : BitVec 64) (s : State) : Result :=
  .next (match s.entryAtLoc loc.toNat with
    | some e => if e.waiting then s else match s.nextStep e with
      | some (t, b) => s.stepStart e t b time.toNat
      | none => s
    | none => s)

/-- RECOVERY_LIMIT_EXPIRY (R359): the clock of a command, or of the MTU's own read of a location, has run `elapsedMs`. -/
def execRecoveryLimitExpiry (tag : Option (BitVec 13)) (loc : BitVec 41) (elapsedMs : BitVec 32) (s : State) : Result :=
  .next (
    let key := match tag with
      | some t => 2 * t.toNat
      | none => 2 * loc.toNat + 1
    match s.clockOf key with
    | some c =>
      if c.expired || elapsedMs.toNat < c.limitMs then s
      else
        let f := fun (c : RecoveryClock) => if c.key = key then { c with expired := true } else c
        ({ s with abx := { s.abx with clocks := s.abx.clocks.map f } }).expire key
    | none => s)

/-- ABX_MEMORY_ERROR (R361): in the LLR or carry memory of an LLR slot. -/
def execAbxMemoryError (slot : Fin 384) (corrected : Bool) (s : State) : Result :=
  .next (if !s.dom.abx then s
    else if corrected then s.detect 128
    else (s.modLlr slot.val fun x => { x with memErr := true }).detect 129)

/-- ABX_CNT_CLR (R367). -/
def execAbxCntClr (s : State) : Result :=
  .next (s.access R.ABX_CNT_CLR fun s => s.clearAll ([R.CW_DECODED, R.CW_FAIL0, R.UNREC_CNT, R.DL_MISS_CNT, R.BP_SKIP_CNT,
    R.NO_COMBINE_CNT, R.CRC_FAIL_CNT, R.LOC_MISMATCH_CNT, R.ERASE_LIMIT_CNT, R.MEM_ERR_CNT]
    ++ [1, 2, 3, 4, 5, 6].map State.recoveredAt ++ (List.range 8).map fun k => R.ITER_HIST k))

end Sys2Proof.Machine
end

