-- ==== Sys2Proof/Machine/Sequencer.lean ====
section
/-!
DEFINITION. Machine/Sequencer.lean: the format and wedge sequencers, their banks and the preamplifier links (chapter 11).
-/
namespace Sys2Proof.Machine

open Arith

namespace State

/-! ### The preamplifier links (R384 to R387) -/

/-- R386: a frame that still fails after its retries. -/
def psiFailed (s : State) (n p : Nat) (f : PsiFrame) : State :=
  let s := if p = 0 then s.modFsq n fun q => { q with psiFail := true }
    else if p = 2 then (s.wr (R.PSI_D_ERR n) 1).wr (R.PSI_D_BUSY n) 0
    else if f.read then s.modAsd (2 * n + (f.addr - 0x18)) fun a => { a with reading := some (0, false, true) } else s
  ((s.count (R.PSI_ERR_CNT n)).raise (123 + 4 * n)).detect (209 + 16 * n)

/-- R482, R484: a frame of ASD that succeeded: a reading with its class, or a code acknowledged. -/
def asdFrame (s : State) (n : Nat) (f : PsiFrame) (data : Nat) : State :=
  if f.read then
    let k := 2 * n + (f.addr - 0x18)
    let t := signed 16 data
    let wrote := f.gate && s.bitAt (R.WG_ON n) (f.addr - 0x18)
    let s := (s.wr (R.HTS_LAST k) data).wrFlag (R.SLOT_WROTE k) wrote
    s.modAsd k fun a => if a.asked then
      { a with reading := some (t, wrote, decide (t < -640) || decide (9600 < t)) } else a
  else if f.addr / 2 ≠ 8 then s
  else
    let k := 2 * n + (f.addr - 0x10)
    (s.wr (R.ASST_CODE_NOW k) f.data).modAsd k fun a => { a with op := f.data % 4096, pre := f.data / 4096 % 16, acked := true }

/-- R386, R387: a frame that succeeded; a read of PA_FAULT that is not zero is source 210 + 16n. -/
def psiDone (s : State) (n p : Nat) (f : PsiFrame) (data : Nat) : State :=
  let s := if p = 0 then
      let s := s.modFsq n fun q => { q with psiFail := false }
      if f.read then s.wr (R.PSI_RDATA n) data else s
    else if p = 2 then
      let s := s.wr (R.PSI_D_BUSY n) 0
      if f.read then s.wr (R.PSI_D_DATA n) data else s
    else s.asdFrame n f data
  if f.read && f.addr == 0x1F && data % 65536 != 0 then s.detect (210 + 16 * n) else s

/-- R385, R386: the frame under way ends; a try that fails is repeated on the link it holds. -/
def psiEnd (s : State) (n : Nat) (ok : Bool) (data : Nat) : State :=
  match (s.fsqOf n).psiRun with
  | none => s
  | some (p, f) =>
    if !ok && decide (f.tries < s.rd (R.PSI_RETRY n)) then
      s.modFsq n fun q => { q with psiRun := some (p, { f with tries := f.tries + 1 }), psiBefore := none }
    else
      let s := s.modFsq n fun q => { q with psiRun := none, psiBefore := none }
      let s := if ok then s.psiDone n p f data else s.psiFailed n p f
      s.psiGrant n none

/-! ### Machine checks (R381 to R383) -/

/-- R377: the overrides of XFER 5 and XFER 7 end on slot `h`. -/
def endOverrides (s : State) (n h : Nat) : State :=
  let s := s.modSlot (2 * n + h) fun c => { c with jdMode := none }
  let fin := fun (o : Option (Int × Bool)) => some ((0 : Int), (o.map fun x => x.2).getD false)
  s.modServo n fun v => if h = 0 then { v with ofsReq0 := fin v.ofsReq0 } else { v with ofsReq1 := fin v.ofsReq1 }

/-- R382: a machine check of actuator `n` for cause `src` at microaddress `addr`. -/
def machineCheck (s : State) (n src addr : Nat) : State :=
  let s := if s.flag (R.MCHK n) then s else ((s.wr (R.MCHK n) 1).wr (R.MCHK_SRC n) src).wr (R.MCHK_ADDR n) addr
  let s := (s.count (R.MCHK_CNT n)).raise (120 + 4 * n)
  let s := (s.wr (R.FSQ_WAITING n) 0).wr (R.FSQ_IDLE n) 0
  let ops := opsOf (s.fsqOf n).current
  let s := s.modFsq n fun q => { q with current := none, wait := none, waited := 0 }
  let s := ((s.detect (208 + 16 * n)).endOverrides n 0).endOverrides n 1
  let stop := fun (c : ChanSlot) => { c with run := none, notWritten := [], skipped := [] }
  ((s.modSlot (2 * n) stop).modSlot (2 * n + 1) stop).interruptOps n ops

/-! ### FSQ words (R370 to R377) -/

/-- R370: the word at a microaddress of FSQn, or none where the address is illegal. -/
def fsqWord (s : State) (n pc rom : Nat) : Option Nat :=
  let src := s.rd (R.EXEC_SRC n)
  if pc < 0x2000 then some rom
  else if 0x10000 ≤ pc ∧ (src = 1 ∨ src = 2) then
    some (Store.get 0 s.ucode ((n * 2 + (src - 1)) * 65536 + (pc - 0x10000)))
  else none

/-- The descriptor of the operation under way. -/
def opDesc (s : State) (n : Nat) : Option OpDesc := (s.fsqOf n).current.map fun i => i.desc

/-- The half of a descriptor for slot `h`. -/
def descSlot (d : OpDesc) (h : Nat) : OpSlot := if h = 0 then d.slot0 else d.slot1

/-- R376, R497: words 0 to 23 of a profile loaded into the registers of slot `h`. -/
def loadProfile (s : State) (n h head zone : Nat) : State :=
  let w := fun i => Store.get 0 s.cal.profile (32 * (64 * head + zone) + i)
  let base := 0x40100100 + 0x10000 * n + 0x100 * h
  let put := fun (s : State) (off v : Nat) =>
    s.wr ⟨base + off, 0, 32, resetWord (base + off)⟩ v
  let s := [(0, 0x18), (1, 0x1C), (2, 0x24), (3, 0x28), (4, 0x2C), (5, 0x08), (6, 0x10), (7, 0x14)].foldl
    (fun s p => put s p.2 (w p.1)) s
  let taps := fun (s : State) (i : Nat) =>
    let v := w (8 + i)
    (s.wr (R.FIR_TAP n h 0 i) (field v 0 10)).wr (R.FIR_TAP n h 1 i) (field v 16 10)
  let s := (List.range 16).foldl taps s
  s.modSlot (2 * n + h) fun c => { c with firPend := List.range 32 }

/-- R376, R387: the five preamplifier frames of HEAD_PROFILE. -/
def profileFrames (s : State) (h head zone : Nat) : List PsiFrame :=
  let w := fun i => Store.get 0 s.cal.profile (32 * (64 * head + zone) + i)
  let f := fun (a v : Nat) => ({ read := false, addr := a, data := v } : PsiFrame)
  [f (0x04 + h) (field (w 7) 0 7 + 128 * field (w 7) 15 4), f (0x06 + h) (field (w 7) 8 7), f (0x08 + 2 * h) (field (w 24) 0 16),
    f (0x09 + 2 * h) (field (w 24) 16 16), f (0x0C + h) (field (w 26) 0 16)]

/-- R376, R428, R481: HEAD_PROFILE on slot `h`. -/
def headProfile (s : State) (n h : Nat) (o : OpSlot) : State :=
  let k := 2 * n + h
  let head := 8 * n + o.head % 8
  let s := (s.gatesOff n h).dlcUnlock n h
  let s := s.clrBitAt (R.DLC_COASTING n) h
  let s := s.loadProfile n h head (o.zone % 64)
  let s := s.modSlot k fun c => { c with head := some head, zone := o.zone % 64, nv := [], lostWedges := 0 }
  let s := ((s.wr (R.SLOT_HEAD k) head).wr (R.SLOT_ZONE k) o.zone).wr (R.SLOT_PLACED k) 1
  let s := s.modAsd k fun a => { a with isNew := true, wrote := none }
  let s := s.modLoop n h fun l => { l with dropped := false, lossRun := 0, lossWin := 0, acquired := false, sam := none }
  s.psiPush n 0 (s.profileFrames h head (o.zone % 64)) false

/-- R376: a slot armed for a run of the operation under way. -/
def armRun (s : State) (n h : Nat) (write : Bool) : State :=
  match (s.fsqOf n).current with
  | none => s
  | some i =>
    let o := descSlot i.desc h
    let r : SectorRun := { write := write, surface := 8 * n + o.head % 8, track := o.track, first := o.start, count := o.count
                           next := 0, dataAddr := o.dataAddr, op := if h = 0 then i.op0 else i.op1 }
    s.modSlot (2 * n + h) fun c => { c with run := some r, notWritten := [], skipped := [], stopRead := false }

/-- R376, R409: SEEK asks SVT to put every slot of SLOT_MASK over its track. -/
def askSeek (s : State) (n : Nat) : State := match s.opDesc n with
  | some d => s.modServo n fun v => { v with seekReq := some (d.slotMask % 4, d.slot0.track, d.slot1.track) }
  | none => s

/-- R376, R409: MA_OFFSET asks SVT for an offset of `arg` / 1,024 track, in 1/65,536 track. -/
def askOffset (s : State) (n h arg : Nat) : State :=
  let o := 64 * signed 16 arg
  s.modServo n fun v => if h = 0 then { v with ofsReq0 := some (o, true) } else { v with ofsReq1 := some (o, true) }

/-- R376: the places of a slot's run that were not done: not written, skipped, or never reached. -/
def undone (s : State) (n h : Nat) (o : MediaOp) : List Nat :=
  let c := s.slot (2 * n + h)
  let len := o.sectors.length
  match c.run with
  | some r => (if r.write then c.notWritten else c.skipped) ++ (List.range (len - r.next)).map fun i => r.next + i
  | none => List.range len

/-- The REPORT of one of an operation pair. -/
def reportOne (s : State) (o : Option MediaOp) (undone : Option (List Nat)) : State :=
  match o with
  | some o => s.reportOp o true (undone.getD [])
  | none => s

/-- R376, R377: REPORT. -/
def report (s : State) (n : Nat) : State :=
  let s := (s.gatesOff n 0).gatesOff n 1
  let s := (s.endOverrides n 0).endOverrides n 1
  let s := s.count (R.OPS_DONE n)
  match (s.fsqOf n).current with
  | none => s
  | some i =>
    let u0 := i.op0.map (s.undone n 0)
    let u1 := i.op1.map (s.undone n 1)
    let stop := fun (c : ChanSlot) => { c with run := none, notWritten := [], skipped := [] }
    let s := (s.modSlot (2 * n) stop).modSlot (2 * n + 1) stop
    let s := s.modFsq n fun q => { q with current := none }
    (s.reportOne i.op0 u0).reportOne i.op1 u1

/-- R376: the transfer of a word. -/
def transfer (s : State) (n w : Nat) : State :=
  let x := field w 80 4
  let h := field w 84 1
  let arg := field w 128 16
  if x = 1 then match s.opDesc n with
    | some d => s.headProfile n h (descSlot d h)
    | none => s
  else if x = 2 then s.armRun n h false
  else if x = 3 then s.armRun n h true
  else if x = 4 then s.askSeek n
  else if x = 5 then s.askOffset n h arg
  else if x = 6 then s.report n
  else if x = 7 then s.modSlot (2 * n + h) fun c => { c with jdMode := some (arg % 4) }
  else if x = 8 then s.endOverrides n h
  else if x = 9 then s.modServo n fun v => { v with loadReq := some (arg == 1) }
  else s

/-- R371: GATE_SET under GATE_MASK. -/
def setGates (s : State) (n w : Nat) : State :=
  [0, 1, 2, 3].foldl (fun s i =>
    if w.testBit (48 + i) then
      if i < 2 then s.setReadGate n i (w.testBit (44 + i)) else s.setWriteGate n (i - 2) (w.testBit (44 + i))
    else s) s

/-- R371: PSI_OP. -/
def psiOp (s : State) (n w : Nat) (tie : Bool) : State :=
  let op := field w 52 3
  if op = 1 then s.psiPush n 0 [{ read := false, addr := field w 55 7, data := field w 64 16 }] tie
  else if op = 2 then s.psiPush n 0 [{ read := true, addr := field w 55 7 }] tie
  else s

/-- R371: CNT_OP. -/
def countOp (s : State) (n w : Nat) : State :=
  let op := field w 87 2
  let c := field w 85 2
  let put := fun (v : Nat) => s.modFsq n fun q => { q with counters := Store.put 0 q.counters c v }
  if op = 1 then put (field w 96 16)
  else if op = 2 then put (Store.get 0 (s.fsqOf n).counters c - 1)
  else if op = 3 then put (match s.opDesc n with
    | some d => (descSlot d (field w 84 1)).count
    | none => 0)
  else s

/-- R371: every field of a word but its sequencing acts. -/
def wordActs (s : State) (n w : Nat) (tie : Bool) : State :=
  let s := (((s.setGates n w).psiOp n w tie).transfer n w).countOp n w
  if w.testBit 89 then s.raise (121 + 4 * n) else s

/-! ### Conditions (R374, R485) -/

/-- R485: a slot is READY. -/
def slotReady (s : State) (k : Nat) : Bool :=
  s.flag (R.SLOT_PLACED k) && s.flag (R.ASST_RAIL_OK (k / 2)) && s.bitAt R.ASST_EN (k / 2) && s.rd R.PSTATE_NOW == 0
    && (s.asdSlot k).acked

/-- R485: a slot is STABLE. -/
def slotStable (s : State) (k : Nat) : Bool :=
  s.slotReady k && match (s.asdSlot k).wrote with
    | some t => decide ((t - signed 16 (s.rd (R.HTS_TGT_NOW k))).natAbs ≤ s.rd R.ASST_STABLE_LIM)
    | none => true

/-- The run armed on a slot is complete. -/
def runComplete (s : State) (k : Nat) : Bool := match (s.slot k).run with
  | some r => r.count ≤ r.next && !(s.slot k).inSector
  | none => false

/-- R374: condition `c`; `ev` holds the strobes and sector starts of the cycle. -/
def condition (s : State) (n c ev : Nat) : Bool :=
  if c = 0 then true
  else if c ≤ 4 then ev.testBit (c - 1)
  else if c ≤ 6 then s.bitAt (R.DLC_LOCK n) (c - 5)
  else if c = 7 then s.flag (R.WRITE_SAFE n)
  else if c = 8 then s.flag (R.SV_SETTLED n)
  else if c = 9 then (s.fsqOf n).psiRun.isNone && (s.psiAt n 0).isEmpty
  else if c = 10 then (s.fsqOf n).psiFail
  else if c ≤ 12 then s.runComplete (2 * n + (c - 11))
  else if c ≤ 14 then (s.slot (2 * n + (c - 13))).cut
  else if c ≤ 18 then Store.get 0 (s.fsqOf n).counters (c - 15) == 0
  else if c = 19 then !((s.slot (2 * n)).notWritten.isEmpty && (s.slot (2 * n + 1)).notWritten.isEmpty)
  else if c = 20 then [2 * n, 2 * n + 1].all fun k => !s.flag (R.SLOT_PLACED k) || s.slotStable k
  else if c = 21 then (s.fsqOf n).issued.isSome
  else false

/-- R371, R374: the condition that a word selects. -/
def wordCond (s : State) (n w ev : Nat) : Bool := s.condition n (field w 20 5) ev != w.testBit 25

/-! ### Sequencing (R372, R373, R375, R392) -/

/-- The FSQ goes on at a microaddress. -/
def goTo (s : State) (n pc : Nat) : State := s.wr (R.FSQ_PC n) pc

/-- R372: a call. -/
def callWord (s : State) (n pc w : Nat) : State :=
  if 8 ≤ (s.fsqOf n).stack.length then s.machineCheck n 5 pc
  else (s.modFsq n fun q => { q with stack := (pc + 1) % 2 ^ 17 :: q.stack }).goTo n (field w 0 17)

/-- R372: a return. -/
def returnWord (s : State) (n pc : Nat) : State := match (s.fsqOf n).stack with
  | [] => s.machineCheck n 5 pc
  | a :: l => (s.modFsq n fun q => { q with stack := l }).goTo n a

/-- R375: a wait starts; its condition is sampled in this cycle too. -/
def waitWord (s : State) (n pc w ev : Nat) : State :=
  if s.wordCond n w ev then s.goTo n (pc + 1)
  else (s.modFsq n fun q => { q with wait := some w, waited := 0 }).wr (R.FSQ_WAITING n) 1

/-- R392: the pending swap taken. -/
def bankSwap (s : State) (n : Nat) : State :=
  let s := (s.wr (R.EXEC_SRC n) (s.fsqOf n).swapTo).wr (R.SWAP_PEND n) 0
  (s.goTo n (s.vectorBase n)).raise (122 + 4 * n)

/-- R659: an idle dispatch while the actuator drains. -/
def drainDone (s : State) (n : Nat) : State :=
  if s.bitAt R.DRAIN_REQ n && !s.bitAt R.DRAIN_DONE n then (s.setBitAt R.DRAIN_DONE n).raise 228 else s

/-- R373, R392, R659: a dispatch word. -/
def dispatchWord (s : State) (n : Nat) : State := match (s.fsqOf n).issued with
  | some i =>
    let s := s.modFsq n fun q => { q with issued := none, current := some i }
    (s.wr (R.FSQ_IDLE n) 0).goTo n (s.vectorBase n + 8 * i.desc.opType)
  | none =>
    let s := (s.wr (R.FSQ_IDLE n) 1).drainDone n
    if s.flag (R.SWAP_PEND n) then s.bankSwap n else s

/-- R372: the next word. -/
def sequence (s : State) (n pc w ev : Nat) : State :=
  let q := field w 17 3
  if q = 1 then s.goTo n (field w 0 17)
  else if q = 2 then s.goTo n (if s.wordCond n w ev then field w 0 17 else pc + 1)
  else if q = 3 then s.callWord n pc w
  else if q = 4 then s.returnWord n pc
  else if q = 5 then s.waitWord n pc w ev
  else if q = 6 then s.dispatchWord n
  else s.goTo n (pc + 1)

/-- R371 to R382: FSQn fetches a word and, where `want` says it is the word of this command, executes it. A fetch that fails is
a machine check. -/
def fsqStep (s : State) (n : Nat) (f : FsqFetch) (want : Nat → Bool) : State :=
  if !s.dom.med.testBit n || s.flag (R.MCHK n) || s.flag (R.FSQ_WAITING n) then s
  else
    let pc := s.rd (R.FSQ_PC n)
    match s.fsqWord n pc f.rom.toNat with
    | none => s.machineCheck n 6 pc
    | some w =>
      if f.upset || !fsqParity w then s.machineCheck n 1 pc
      else if illegalField w then s.machineCheck n 6 pc
      else if want w then (s.wordActs n w f.tie).sequence n pc w f.events.toNat
      else s

/-- A word with this SEQ. -/
def seqIs (k w : Nat) : Bool := field w 17 3 == k

/-- A word with this XFER. -/
def xferIs (k w : Nat) : Bool := field w 80 4 == k

/-- R375: the wait under way ends. -/
def waitEnd (s : State) (n : Nat) (expired : Bool) (ev : Nat) : State := match (s.fsqOf n).wait with
  | none => s
  | some w =>
    let done := fun (pc : Nat) => ((s.modFsq n fun q => { q with wait := none, waited := 0 }).wr (R.FSQ_WAITING n) 0).goTo n pc
    let t := field w 26 16
    let excess := if field w 43 1 = 0 then expired else decide (t ≤ (s.fsqOf n).waited)
    if s.wordCond n w ev then done (s.rd (R.FSQ_PC n) + 1)
    else if t ≠ 0 ∧ excess then done (field w 0 17)
    else s

/-! ### Banks in service (R383, R391 to R393) -/

/-- `len` bytes of DRAM from byte address `a`. -/
def dramBytes (s : State) (a len : Nat) : Nat :=
  let o := a - 0x800000000
  let words := (o % 64 + len + 63) / 64
  let v := (List.range words).foldl (fun d i => d + s.rawWord (o / 64 + i) * 2 ^ (512 * i)) 0
  field v (8 * (o % 64)) (8 * len)

/-- R391: the image at LOAD_ADDR. -/
def imageAt (s : State) (a : Nat) : Image :=
  let h : Image := ⟨s.dramBytes a 4096, 0⟩
  ⟨h.header, s.dramBytes (a + 4096) (min (payloadSize h) (8 * 2 ^ 20))⟩

/-- R391: LOAD_BANK is the source of FSQn or of a WSQ of CHNn. -/
def bankInUse (s : State) (n b : Nat) : Bool :=
  s.rd (R.EXEC_SRC n) == b + 1 || s.rd (R.WSQ_SRC n 0) == b + 1 || s.rd (R.WSQ_SRC n 1) == b + 1

/-- R391: LOAD_GO. -/
def loadGo (s : State) (n : Nat) : State :=
  let b := s.rd (R.LOAD_BANK n)
  if s.flag (R.LOAD_BUSY n) || s.flag (R.SWAP_PEND n) || s.bankInUse n b then s.wr (R.BANK_CFG_ERR n) 1
  else
    let i := s.imageAt (s.rd (R.LOAD_ADDR_LO n) + 2 ^ 32 * s.rd (R.LOAD_ADDR_HI n))
    let s := (imageTargets i [n]).foldl (fun s p => s.setBank p.2 b false false) s
    (s.modFsq n fun q => { q with load := some ⟨b, i, imageCode s.fuses i true false⟩ }).wr (R.LOAD_BUSY n) 1

/-- R391: a load completes. -/
def loadEnd (s : State) (n : Nat) : State := match (s.fsqOf n).load with
  | none => s
  | some l =>
    let s := ((s.modFsq n fun q => { q with load := none }).wr (R.LOAD_BUSY n) 0).wr (R.LOAD_CODE n) l.code
    let s := if l.code = 0 then s.loadImage l.image [n] l.bank else s
    s.raise (122 + 4 * n)

/-- R392: the source `src` of FSQn may be named: the ROM, or a bank that is valid and not being loaded. -/
def sourceOk (s : State) (n q src : Nat) : Bool :=
  src == 0 || ((src == 1 || src == 2) && s.bankValid q (src - 1)
    && !((s.fsqOf n).load.any fun l => l.bank == src - 1 && (imageTargets l.image [n]).any fun p => p.2 == q))

/-- R392: SWAP_REQ. -/
def swapReq (s : State) (n : Nat) : State :=
  let t := s.rd (R.SWAP_TO n)
  if s.sourceOk n n t then (s.modFsq n fun q => { q with swapTo := t }).wr (R.SWAP_PEND n) 1
  else s.wr (R.BANK_CFG_ERR n) 1

/-- R383: MC_RESTART. -/
def mcRestart (s : State) (n : Nat) : State :=
  if !s.flag (R.MCHK n) then s
  else
    let s := ((s.wr (R.MCHK n) 0).wr (R.WSQ_STOPPED n 0) 0).wr (R.WSQ_STOPPED n 1) 0
    let s := s.modFsq n fun q => { q with stack := [] }
    if s.flag (R.SWAP_PEND n) then s.bankSwap n else s.goTo n (s.vectorBase n)

/-! ### Wedge sequencers (R379 to R382) -/

/-- R370: the word at a microaddress of WSQ `h` of actuator `n`. -/
def wsqWord (s : State) (n h pc rom : Nat) : Option Nat :=
  let src := s.rd (R.WSQ_SRC n h)
  if pc < 0x400 then some rom
  else if 0x800 ≤ pc ∧ (src = 1 ∨ src = 2) then
    some (Store.get 0 s.ucode (((4 + 2 * n + h) * 2 + (src - 1)) * 65536 + (pc - 0x800)))
  else none

/-- A wedge sequencer's own state. -/
def wsqOf (s : State) (k : Nat) : Wsq := Store.get {} s.wsq k

/-- A wedge sequencer changed. -/
def modWsq (s : State) (k : Nat) (f : Wsq → Wsq) : State := { s with wsq := Store.modify {} s.wsq k f }

/-- R379: WCOND. -/
def wsqCond (s : State) (k w : Nat) (f : WsqFetch) : Bool :=
  let c := field w 14 4
  let v := if c = 0 then true
    else if c = 1 then (s.wsqOf k).counter == 0
    else if c = 2 then decide (field w 56 32 ≤ f.symbols.toNat)
    else if c = 3 then f.sam
    else if c = 4 then f.index
    else if c = 5 then f.writing
    else false
  v != w.testBit 18

/-- R382: a WSQ that failed stops, and its wedges are lost. -/
def wsqStop (s : State) (n h src pc : Nat) : State :=
  let s := ((s.wr (R.WSQ_STOPPED n h) 1).wr (R.WSQ_RUN n h) 0).modWsq (2 * n + h) fun w => { w with win := 0, overrun := true }
  s.machineCheck n src pc

/-- R379: one word of a wedge program, but its sequencing. -/
def wsqActs (s : State) (k w : Nat) : State :=
  s.modWsq k fun q => { q with
    counter := if field w 19 2 = 1 then field w 56 16 else if field w 19 2 = 2 then q.counter - 1 else q.counter
    win := field w 22 8
    demod := if w.testBit 30 then field w 32 3 else q.demod }

/-- One word of WSQ (n, h): its actions, and the state with the next word's address, or none where the program has stopped. -/
def wsqStep (s : State) (n h : Nat) (w : Nat) (f : WsqFetch) : State × Bool :=
  let pc := s.rd (R.WSQ_PC n h)
  let s := s.wsqActs (2 * n + h) w
  let q := field w 12 2
  if q = 3 then ((s.wr (R.WSQ_RUN n h) 0).modWsq (2 * n + h) fun w => { w with win := 0 }, false)
  else
    let next := if q = 1 ∨ (q = 2 ∧ s.wsqCond (2 * n + h) w f) then field w 0 12 else pc + 1
    (s.wr (R.WSQ_PC n h) next, true)

/-- R379 to R382: the words a wedge sequencer fetches, one after the other, until WSEQ = 3. -/
def wsqRun (s : State) (n h : Nat) : List WsqFetch → State
  | [] => s
  | f :: l =>
    let pc := s.rd (R.WSQ_PC n h)
    match s.wsqWord n h pc f.rom.toNat with
    | none => s.wsqStop n h 6 pc
    | some w =>
      if f.upset || !wsqParity w then s.wsqStop n h (2 + h) pc
      else
        match s.wsqStep n h w f with
        | (t, true) => t.wsqRun n h l
        | (t, false) => t

/-- R380: a wedge sequencer starts. -/
def wsqStart (s : State) (n h : Nat) (l : List WsqFetch) : State :=
  let s := if s.flag (R.WSQ_RUN n h) then
    (s.count (R.WSQ_OVR_CNT n h)).modWsq (2 * n + h) fun w => { w with overrun := true } else s
  ((s.wr (R.WSQ_PC n h) (s.rd (R.WSQ_ENTRY n h))).wr (R.WSQ_RUN n h) 1).wsqRun n h l

end State

/-! ### The commands -/

/-- FSQ_CONTINUE (R371, R372, R381, R382). -/
def execFsqContinue (n : Fin 4) (fetch : FsqFetch) (s : State) : Result := .next (s.fsqStep n.val fetch (State.seqIs 0))

/-- FSQ_JUMP (R370, R372). -/
def execFsqJump (n : Fin 4) (fetch : FsqFetch) (s : State) : Result := .next (s.fsqStep n.val fetch (State.seqIs 1))

/-- FSQ_BRANCH (R372, R374). -/
def execFsqBranch (n : Fin 4) (fetch : FsqFetch) (s : State) : Result := .next (s.fsqStep n.val fetch (State.seqIs 2))

/-- FSQ_CALL (R372). -/
def execFsqCall (n : Fin 4) (fetch : FsqFetch) (s : State) : Result := .next (s.fsqStep n.val fetch (State.seqIs 3))

/-- FSQ_RETURN (R372). -/
def execFsqReturn (n : Fin 4) (fetch : FsqFetch) (s : State) : Result := .next (s.fsqStep n.val fetch (State.seqIs 4))

/-- FSQ_WAIT (R372, R375). -/
def execFsqWait (n : Fin 4) (fetch : FsqFetch) (s : State) : Result := .next (s.fsqStep n.val fetch (State.seqIs 5))

/-- FSQ_WAIT_END (R374, R375): `expired` says that a TIMEOUT in cycles or microseconds has run out; the condition prevails. -/
def execFsqWaitEnd (n : Fin 4) (expired : Bool) (events : BitVec 4) (s : State) : Result :=
  .next (if s.flag (R.MCHK n.val) then s else s.waitEnd n.val expired events.toNat)

/-- FSQ_WATCHDOG (R375, R382): the wait under way has lasted longer than WDOG_US. -/
def execFsqWatchdog (n : Fin 4) (s : State) : Result :=
  .next (if s.flag (R.FSQ_WAITING n.val) then s.machineCheck n.val 4 (s.rd (R.FSQ_PC n.val)) else s)

/-- FSQ_DISPATCH (R372, R373, R392, R659). -/
def execFsqDispatch (n : Fin 4) (fetch : FsqFetch) (s : State) : Result := .next (s.fsqStep n.val fetch (State.seqIs 6))

/-- HEAD_PROFILE (R376, R481, R497). -/
def execHeadProfile (n : Fin 4) (fetch : FsqFetch) (s : State) : Result := .next (s.fsqStep n.val fetch (State.xferIs 1))

/-- READ_ARM (R376). -/
def execReadArm (n : Fin 4) (fetch : FsqFetch) (s : State) : Result := .next (s.fsqStep n.val fetch (State.xferIs 2))

/-- WRITE_ARM (R376). -/
def execWriteArm (n : Fin 4) (fetch : FsqFetch) (s : State) : Result := .next (s.fsqStep n.val fetch (State.xferIs 3))

/-- SEEK (R376, R409, R417). -/
def execSeek (n : Fin 4) (fetch : FsqFetch) (s : State) : Result := .next (s.fsqStep n.val fetch (State.xferIs 4))

/-- MA_OFFSET (R376, R409). -/
def execMaOffset (n : Fin 4) (fetch : FsqFetch) (s : State) : Result := .next (s.fsqStep n.val fetch (State.xferIs 5))

/-- REPORT (R376, R377). -/
def execReport (n : Fin 4) (fetch : FsqFetch) (s : State) : Result := .next (s.fsqStep n.val fetch (State.xferIs 6))

/-- JD_OVERRIDE (R376). -/
def execJdOverride (n : Fin 4) (fetch : FsqFetch) (s : State) : Result := .next (s.fsqStep n.val fetch (State.xferIs 7))

/-- OVR_CLEAR (R376). -/
def execOvrClear (n : Fin 4) (fetch : FsqFetch) (s : State) : Result := .next (s.fsqStep n.val fetch (State.xferIs 8))

/-- LOAD_UNLOAD (R376, R409, R434, R435). -/
def execLoadUnload (n : Fin 4) (fetch : FsqFetch) (s : State) : Result := .next (s.fsqStep n.val fetch (State.xferIs 9))

/-- PSI_WRITE (R371, R384, R385). -/
def execPsiWrite (n : Fin 4) (fetch : FsqFetch) (s : State) : Result :=
  .next (s.fsqStep n.val fetch fun w => field w 52 3 == 1)

/-- PSI_READ (R371, R384, R385). -/
def execPsiRead (n : Fin 4) (fetch : FsqFetch) (s : State) : Result :=
  .next (s.fsqStep n.val fetch fun w => field w 52 3 == 2)

/-- PSI_D_GO (R385, R398). -/
def execPsiDGo (n : Fin 4) (tie : Bool) (s : State) : Result :=
  .next (s.access (R.PSI_D_GO n.val) fun s =>
    if s.flag (R.PSI_D_BUSY n.val) then s
    else (s.wr (R.PSI_D_BUSY n.val) 1).psiPush n.val 2
      [{ read := s.flag (R.PSI_D_RW n.val), addr := s.rd (R.PSI_D_ADDR n.val), data := s.rd (R.PSI_D_DATA n.val) }] tie)

/-- PSI_FRAME_END (R385 to R387, R482, R484): the preamplifier's acknowledge, or good parity, and the data read. -/
def execPsiFrameEnd (n : Fin 4) (ok : Bool) (data : BitVec 16) (s : State) : Result := .next (s.psiEnd n.val ok data.toNat)

/-- MC_RESTART (R383). -/
def execMcRestart (n : Fin 4) (s : State) : Result := .next (s.access (R.MC_RESTART n.val) fun s => s.mcRestart n.val)

/-- SWAP_REQ (R392). -/
def execSwapReq (n : Fin 4) (s : State) : Result := .next (s.access (R.SWAP_REQ n.val) fun s => s.swapReq n.val)

/-- LOAD_GO (R391). -/
def execLoadGo (n : Fin 4) (s : State) : Result := .next (s.access (R.LOAD_GO n.val) fun s => s.loadGo n.val)

/-- MICROCODE_LOAD_COMPLETE (R391). -/
def execMicrocodeLoadComplete (n : Fin 4) (s : State) : Result := .next (s.loadEnd n.val)

/-- WSQ_SRC_WRITE (R393). -/
def execWsqSrcWrite (n : Fin 4) (h : Fin 2) (src : BitVec 2) (s : State) : Result :=
  .next (s.access (R.WSQ_SRC n.val h.val) fun s =>
    if s.sourceOk n.val (4 + 2 * n.val + h.val) src.toNat then s.wr (R.WSQ_SRC n.val h.val) src.toNat
    else s.wr (R.WSQ_CFG_ERR n.val h.val) 1)

/-- WSQ_START (R379 to R382, R403): once per wedge while the slot's clock is locked; before, at each SAM found while the read
gate is on. -/
def execWsqStart (n : Fin 4) (h : Fin 2) (sam : Bool) (fetches : List WsqFetch) (s : State) : Result :=
  .next (
    if !s.dom.med.testBit n.val || s.flag (R.WSQ_STOPPED n.val h.val) then s
    else if s.bitAt (R.DLC_LOCK n.val) h.val || (sam && s.bitAt (R.RG_ON n.val) h.val) then s.wsqStart n.val h.val fetches
    else s)

/-- FSQ_CNT_CLR (R397). -/
def execFsqCntClr (n : Fin 4) (s : State) : Result :=
  .next (s.access (R.FSQ_CNT_CLR n.val) fun s => s.clearAll [R.MCHK_CNT n.val, R.PSI_ERR_CNT n.val, R.OPS_DONE n.val])

end Sys2Proof.Machine
end

