-- ==== Sys2Proof/Machine/Servo.lean ====
section
/-!
DEFINITION. Machine/Servo.lean: the servo program of SVT in its fixed-point arithmetic, the judgement of wedges and frames, the
requests it takes, and ACT's retract, park and load (chapter 12; the assist loop is R483 of chapter 14).
-/
namespace Sys2Proof.Machine

open Arith

/-! ### Number format (R410, R411) -/

/-- A coefficient and its shift. -/
abbrev Coef := Int × Int

/-- R411: a stored value or an output, saturated to 32 bits. -/
def sat32 (x : Int) : Int := iclamp (-(2 ^ 31 : Nat)) ((2 ^ 31 : Nat) - 1) x

/-- R411: the product of a signal and a coefficient, rounded half upward. -/
def mulC (x : Int) (c : Coef) : Int :=
  (x * c.1 + ((2 ^ (30 - c.2).toNat : Nat) : Int)) / ((2 ^ (31 - c.2).toNat : Nat) : Int)

/-- A coefficient as a Q31 limit. -/
def limitC (c : Coef) : Int := sat32 (mulC ((2 ^ 31 : Nat) : Int) c)

/-- A coefficient as a Q15.16 value. -/
def valueC (c : Coef) : Int := mulC 65536 c

/-- `x` limited to ±`l`. -/
def limit (l x : Int) : Int := iclamp (-l) l x

/-- The side of a limit that `x` was cut at on becoming `y`: 1 above, -1 below, 0 not cut. -/
def cutSide (x y : Int) : Int := if y < x then 1 else if x < y then -1 else 0

/-- R412: a biquad in direct form I, its coefficients from index `i` on. -/
def biquad (co : Nat → Coef) (i : Nat) (q : Biquad) (x : Int) : Int × Biquad :=
  let y := sat32 (mulC x (co i) + mulC q.x1 (co (i + 1)) + mulC q.x2 (co (i + 2)) - mulC q.y1 (co (i + 3)) - mulC q.y2 (co (i + 4)))
  (y, { x1 := x, x2 := q.x1, y1 := y, y2 := q.y1 })

/-- R417: the reference velocity at a remaining distance in 1/65,536 track: the profile interpolated, held at its last point; an
inexact quotient takes the free bit. -/
def vprof (co : Nat → Coef) (dist : Int) (r : Nat) : Int :=
  let d := dist.natAbs
  let k := (List.range 64).foldl (fun b i => if 16 * i * i * 65536 ≤ d then i else b) 0
  let v0 := valueC (co (128 + k))
  let num : Int := (valueC (co (128 + min 63 (k + 1))) - v0) * ((d - 16 * k * k * 65536 : Nat) : Int)
  let den : Int := ((16 * (2 * k + 1) * 65536 : Nat) : Int)
  let q := if k = 63 then v0 else v0 + num / den + (if num % den = 0 then 0 else ((r % 2 : Nat) : Int))
  if dist < 0 then -q else q

namespace State

/-- R412, R405: the active coefficient `i` of actuator `n`. -/
def coefOf (s : State) (n i : Nat) : Coef :=
  let a := 0x40301000 + 0x1000 * n + 8 * i
  (signed 32 (Store.get 0 s.svt.coef a).toNat, signed 5 (Store.get 0 s.svt.coef (a + 4)).toNat)

/-- R405: the set in use: the quarter-rate set in Idle-A. -/
def coefSet (s : State) (n : Nat) : Nat → Coef := fun i => s.coefOf n (if s.rd R.PSTATE_NOW = 1 then 256 + i else i)

/-! ### Slots and modes -/

/-- R413: a slot is active: a head is placed in it and it has not been dropped. -/
def slotActive (s : State) (n h : Nat) : Bool := (s.slot (2 * n + h)).head.isSome && !(loopOf (s.servo n) h).dropped

/-- The active slots of actuator `n`. -/
def activeSlots (s : State) (n : Nat) : List Nat := [0, 1].filter (s.slotActive n)

/-- The active slots whose wedge is not lost this frame. -/
def goodSlots (s : State) (n : Nat) : List Nat := (s.activeSlots n).filter fun h => !(loopOf (s.servo n) h).lost

/-- The servo loop of actuator `n` is closed, or coasts. -/
def underServo (s : State) (n : Nat) : Bool :=
  s.rd (R.VCM_STATE n) == 1 && decide (2 ≤ s.rd (R.SV_MODE n)) && decide (s.rd (R.SV_MODE n) ≤ 5)

/-- The mode that the controller runs in: the one a coast returns to, while it coasts. -/
def loopMode (s : State) (n : Nat) : Nat := if s.rd (R.SV_MODE n) = 5 then (s.servo n).prior else s.rd (R.SV_MODE n)

/-- R424: write-unsafe: both slots' gates are cut on the path of R38. -/
def writeUnsafe (s : State) (n : Nat) : State := (s.wr (R.WRITE_SAFE n) 0).cutGates n 1

/-- R402: a slot's position in 1/65,536 track relative to its target. -/
def posOf (l : SlotLoop) (w : Wedge) : Int := sat32 (((w.track : Int) - (l.target : Int)) * 65536 + w.frac)

/-- R402: a raw fraction linearised through the slot's eight-segment table. -/
def linear (s : State) (n h frac : Nat) : Int :=
  let at_ := fun (k : Nat) => valueC (s.coefSet n (112 + 8 * h + k % 8))
  let k := frac / 8192
  (frac : Int) + at_ k + (at_ (k + 1) - at_ k) * ((frac % 8192 : Nat) : Int) / 8192

/-! ### Wedges (R402, R403, R408, R424, R426) -/

/-- R304, R426: a lost wedge of a slot is counted, reported to CHNn, and makes the actuator write-unsafe. -/
def wedgeLost (s : State) (n h : Nat) : State :=
  let s := (s.count (R.LOST_WEDGE_CNT n)).modLoop n h fun l => { l with lost := true }
  ((s.wr (R.GOOD_WEDGES n) 0).dlcCoast n h).writeUnsafe n

/-- R426: the measured error departs too far from the estimator's prediction. -/
def implausible (s : State) (n h : Nat) (w : Wedge) : Bool :=
  let a := s.servo n
  let l := loopOf a h
  let lim : Int := if s.loopMode n = 2 then (65536 * s.rd (R.PLAUS_SEEK_TRK n) : Nat) else (256 * s.rd (R.PLAUS_TRK n) : Nat)
  decide (lim < ((posOf l w - l.ofs - (a.p + l.d)).natAbs : Int))

/-- R403: two SAMs one wedge period apart, within 1 %. -/
def onePeriod (s : State) (t0 t1 : Nat) : Bool :=
  let dt := 16 * ((t1 + 2 ^ 32 - t0) % 2 ^ 32)
  let p := s.rd R.WEDGE_PERIOD
  decide (99 * p ≤ 100 * dt) && decide (100 * dt ≤ 101 * p)

/-- R403, R435: a wedge before the loop is closed: acquisition. -/
def acquireWedge (s : State) (n h : Nat) (f : WedgeFields) : State :=
  if f.sam then
    s.modLoop n h fun l => { l with
      sam := some f.time.toNat, track := f.track.toNat
      acquired := l.acquired || (l.sam.map fun t => s.onePeriod t f.time.toNat).getD false }
  else s.modLoop n h fun l => { l with sam := none }

/-- R402, R424, R426: a wedge latched in time: lost at once where it has no SAM, was not demodulated, or is implausible; off
track makes the actuator write-unsafe. -/
def latchWedge (s : State) (n h : Nat) (f : WedgeFields) : State :=
  let q := s.wsqOf (2 * n + h)
  let w : Wedge := ⟨f.track.toNat, f.wedge.toNat, s.linear n h f.frac.toNat, f.time.toNat, true⟩
  let ok := f.sam && !q.overrun && decide (q.demod < 2) && !s.implausible n h w
  let s := s.modLoop n h fun l => { l with latched := some { w with ok := ok } }
  if !ok then s.wedgeLost n h
  else
    let l := loopOf (s.servo n) h
    let s := s.modLoop n h fun l => { l with lost := false, track := w.track }
    if 256 * s.rd (R.WUS_LIM n) < (posOf l w - l.ofs).natAbs then s.writeUnsafe n else s

/-- R402, R408: a slot's PES_STROBE, or the end of its SAM_WIN with no SAM. -/
def wedgeStrobe (s : State) (n h : Nat) (f : WedgeFields) (late : Bool) : State :=
  let s := if h = 0 then s.fsqCount n 2 else s
  if !s.dom.svt then s
  else if !s.underServo n then if s.bitAt (R.RG_ON n) h || s.bitAt (R.DLC_LOCK n) h then s.acquireWedge n h f else s
  else if !s.slotActive n h then s
  else if late then if (loopOf (s.servo n) h).lost then s else s.wedgeLost n h
  else if s.rd R.PSTATE_NOW = 1 ∧ f.sam ∧ f.wedge.toNat % 4 ≠ 0 then s
  else s.latchWedge n h f

/-- R426: a slot's feedback is frozen. -/
def frozenNow (s : State) (a : ServoAct) (l : SlotLoop) (w : Wedge) : Bool :=
  (a.u != 0 && posOf l w == l.lastPos && decide (7 ≤ l.same))
    || decide (32 * ((w.time + 2 ^ 32 - l.lastTime) % 2 ^ 32) < s.rd R.WEDGE_PERIOD)

/-- R408, R426: a slot judged as its frame's inputs are distributed. -/
def judgeSlot (s : State) (n wedge h : Nat) : State :=
  let a := s.servo n
  let l := loopOf a h
  let s := match l.latched with
    | none => if l.lost then s else s.wedgeLost n h
    | some w =>
      if !w.ok then s
      else
        let fz := s.frozenNow a l w
        let s := if fz && !l.frozen then s.count (R.FROZEN_CNT n) else s
        let bad := fz || w.wedge != wedge
        let s := s.modLoop n h fun l => { l with frozen := fz, y := if bad then l.y else posOf l w - l.ofs }
        if bad then s.wedgeLost n h else s
  s.modWsq (2 * n + h) fun q => { q with overrun := s.flag (R.WSQ_STOPPED n h) }

/-- R417: the arm's remaining distance, from the slots in good. -/
def remaining (s : State) (n : Nat) : Int :=
  let a := s.servo n
  let d := (s.goodSlots n).map fun h => ((loopOf a h).target : Int) - ((loopOf a h).track : Int)
  match d with
  | [x] => 65536 * x
  | [x, y] => 32768 * (x + y)
  | _ => a.dist

/-! ### Requests (R409, R417, R434 to R436, R680) -/

/-- R417: the actuator seeks to new targets: the slots of `mask` to theirs, another active slot along with the arm. -/
def startSeek (s : State) (n mask t0 t1 : Nat) (shaped : Bool) : State :=
  let a := s.servo n
  let shift0 : Int := (t0 : Int) - (a.slot0.target : Int)
  let shift1 : Int := (t1 : Int) - (a.slot1.target : Int)
  let (m0, m1) := (mask.testBit 0, mask.testBit 1)
  let n0 := if m0 then t0 else (((a.slot0.target : Int) + shift1).toNat)
  let n1 := if m1 then t1 else (((a.slot1.target : Int) + shift0).toNat)
  let arm : Int := if m0 && m1 then 32768 * (shift0 + shift1) else if m0 then 65536 * shift0 else 65536 * shift1
  let s := s.modServo n fun v => { v with
    slot0 := { v.slot0 with target := n0 }, slot1 := { v.slot1 with target := n1 }, p := sat32 (v.p - arm)
    seekReq := none, shaped := shaped, seekFrames := 0, settleRun := 0, seekUs := some (s.rd R.FCU_US) }
  ((s.wr (R.SV_MODE n) 2).wr (R.SV_SETTLED n) 0).writeUnsafe n

/-- R417: a SEEK to the targets a settled actuator is on. -/
def sameTargets (s : State) (n mask t0 t1 : Nat) : Bool :=
  let a := s.servo n
  s.flag (R.SV_SETTLED n) && (!mask.testBit 0 || a.slot0.target == t0) && (!mask.testBit 1 || a.slot1.target == t1)

/-- R680: the longest way of a SEEK's slots, in tracks. -/
def seekDistance (s : State) (n mask t0 t1 : Nat) : Nat :=
  let a := s.servo n
  let d := fun (x y : Nat) => ((x : Int) - (y : Int)).natAbs
  max (if mask.testBit 0 then d t0 a.slot0.track else 0) (if mask.testBit 1 then d t1 a.slot1.track else 0)

/-- R680: the seek is shaped, and whether the frame of this wedge number is in its window. -/
def shaping (s : State) (wedge dist : Nat) : Bool × Bool :=
  let on := s.flag R.SHAPE_EN && s.flag R.COHORT_LOCK && decide (s.rd R.SHAPE_TRK < dist)
  (on, wedge * s.rd R.SHAPE_SLOTS / s.rd R.WEDGES_PER_REV == s.rd R.COHORT_ID % s.rd R.SHAPE_SLOTS)

/-- R436: the actuator takes SEEK and MA_OFFSET. -/
def takesRequests (s : State) (n : Nat) : Bool :=
  s.rd (R.VCM_STATE n) == 1 && (s.rd (R.SV_MODE n) == 2 || s.rd (R.SV_MODE n) == 3 || s.rd (R.SV_MODE n) == 4)

/-- R409, R417, R436, R680: the SEEK that waits. -/
def takeSeek (s : State) (n wedge : Nat) : State := match (s.servo n).seekReq with
  | none => s
  | some (mask, t0, t1) =>
    let drop := s.modServo n fun v => { v with seekReq := none }
    if s.rd (R.VCM_STATE n) = 6 then s
    else if !s.takesRequests n then drop.count (R.SV_REQ_REJ n)
    else if mask = 0 then drop
    else if s.sameTargets n mask t0 t1 then drop
    else
      let (on, here) := s.shaping wedge (s.seekDistance n mask t0 t1)
      if on && !here then s.wr (R.SV_SETTLED n) 0 else s.startSeek n mask t0 t1 on

/-- R376, R377, R409, R436: the offset that waits for slot `h`. -/
def takeOffset (s : State) (n h : Nat) : State :=
  let v := s.servo n
  match (if h = 0 then v.ofsReq0 else v.ofsReq1) with
  | none => s
  | some (o, asked) =>
    let drop := s.modServo n fun v => if h = 0 then { v with ofsReq0 := none } else { v with ofsReq1 := none }
    if asked && s.rd (R.VCM_STATE n) == 6 then s
    else if asked && !s.takesRequests n then drop.count (R.SV_REQ_REJ n)
    else
      let s := drop.modLoop n h fun l => { l with ofs := o }
      if asked then
        let s := (s.wr (R.SV_SETTLED n) 0).modServo n fun v => { v with settleRun := 0 }
        if s.rd (R.SV_MODE n) = 4 then (s.wr (R.SV_MODE n) 3).writeUnsafe n else s
      else s

/-- R435: a load is accepted. -/
def loadAccepted (s : State) (n : Nat) : Bool :=
  s.bitAt R.COEF_VALID n && decide (5400 ≤ s.rd R.SPM_RPM) && decide (s.rd R.SPM_RPM ≤ 10000) && s.flag R.SPM_AT_SPEED
    && !s.flag R.EXT_RETRACT && (s.slot (2 * n)).head.isSome && s.rd (R.VCM_STATE n) == 5

/-- R435: the heads are driven off the ramp. -/
def startLoad (s : State) (n : Nat) : State :=
  let s := (((s.wr (R.VCM_STATE n) 6).wr (R.PARKED n) 0).wr (R.SV_MODE n) 1).wr (R.SV_SETTLED n) 0
  let fresh := fun (l : SlotLoop) => { l with acquired := false, sam := none, lost := false, latched := none }
  s.modServo n fun v => { v with tries := 0, slot0 := fresh v.slot0, slot1 := fresh v.slot1 }

/-- R434: a park begins: a seek to the calibration band's track nearest the ramp. -/
def startPark (s : State) (n : Nat) : State :=
  let at_ := fun (h : Nat) => Config.parkTrack (((s.slot (2 * n + h)).head).getD (8 * n))
  let mask := (s.activeSlots n).foldl setBit 0
  (s.startSeek n mask (at_ 0) (at_ 1) false).modServo n fun v => { v with parking := true }

/-- R409, R434, R435: the load or park that waits. -/
def takeLoad (s : State) (n : Nat) : State := match (s.servo n).loadReq with
  | none => s
  | some load =>
    let s := s.modServo n fun v => { v with loadReq := none }
    if load then if s.loadAccepted n then s.startLoad n else s.wr (R.SV_SETTLED n) 0
    else if s.underServo n then s.startPark n else s

/-- R409: the requests of an actuator take effect in a frame. -/
def takeRequests (s : State) (wedge n : Nat) : State := (((s.takeLoad n).takeSeek n wedge).takeOffset n 0).takeOffset n 1

/-! ### The frame (R405, R412, R442, R443) -/

/-- R412, R455, R467: the shadow coefficients of an actuator become the active set. -/
def applyCoef (s : State) (n : Nat) : State :=
  let lo := 0x40301000 + 0x1000 * n
  let below := s.svt.coef.filter fun e => decide (e.1 < lo)
  let above := s.svt.coef.filter fun e => decide (lo + 0x1000 ≤ e.1)
  let own := s.regs.filter fun e => decide (lo ≤ e.1) && decide (e.1 < lo + 0x1000)
  let s := { s with svt := { s.svt with coef := below ++ own ++ above } }
  (s.clrBitAt R.COEF_PEND n).setBitAt R.COEF_VALID n

/-- R481, R482: at an assist frame ASD supplies the slot's entry; a reading that is not there is STALE. -/
def assistInputs (s : State) (k : Nat) : State :=
  if !s.flag (R.SLOT_PLACED k) then s
  else
    let (j, z) := (s.rd (R.SLOT_HEAD k), s.rd (R.SLOT_ZONE k))
    let e := s.rd (R.ASST_BASE j z) + 2 ^ 12 * s.rd (R.ASST_PRE j z)
    let s := s.wr (R.HTS_TGT_NOW k) (s.rd (R.HTS_TGT j z))
    let a := s.asdSlot k
    let r := if a.asked && a.reading.isNone then some (0, false, true) else a.reading
    let stale := (r.map fun x => x.2.2).getD false
    let s := if stale then (s.count R.HTS_STALE_CNT).raise 164 else s
    s.modAsd k fun a => { a with entry := e, reading := r, asked := false }

/-- R424, R426, R427: an actuator's wedges judged and its remaining distance taken. -/
def judgeActuator (s : State) (wedge n : Nat) : State :=
  let s := s.modServo n fun v => { v with missedBefore := v.missed, missed := false }
  if s.underServo n then
    let s := (s.activeSlots n).foldl (fun s h => s.judgeSlot n wedge h) s
    let d := s.remaining n
    s.modServo n fun v => { v with dist := d }
  else s

/-- R459: LANEl_WIN_DIS counts the lane's disagreements of the last DIS_WIN_64F * 64 frames. -/
def slideWindow (s : State) (l : Nat) : State :=
  let keep := (Store.get [] s.svt.dis l).filter fun q => decide (s.svt.seq < q + 64 * s.rd R.DIS_WIN_64F)
  ({ s with svt := { s.svt with dis := Store.put [] s.svt.dis l keep } }).wr (R.LANE_WIN_DIS l) (min 255 keep.length)

/-- R405 to R409, R412, R442, R443, R453: a servo frame starts. -/
def servoFrame (s : State) (f : FrameInput) : State :=
  let w := f.wedge.toNat
  let s := { s with svt := { s.svt with phase := 1, seq := s.svt.seq + 1, rv := f.rv.toInt, calm := s.svt.calm + 1 } }
  let s := (s.wr R.FRAME_WEDGE w).wr R.WEDGE_PERIOD f.period.toNat
  let s := if f.idle.toNat < s.rd R.FRAME_MARGIN_MIN then s.wr R.FRAME_MARGIN_MIN f.idle.toNat else s
  let s := s.wrFlag R.FRAME_LOCKED (actuators.any fun n => s.rd (R.SV_MODE n) == 4)
  let s := (s.raiseTo R.SHK_PEAK_X f.shockX.toNat).raiseTo R.SHK_PEAK_Y f.shockY.toNat
  let s := if s.flag R.WARM_BUSY then s
    else actuators.foldl (fun s n => if s.bitAt R.COEF_PEND n then s.applyCoef n else s) s
  let s := (List.range 4).foldl slideWindow s
  let s := actuators.foldl (fun s n => s.judgeActuator w n) s
  let s := actuators.foldl (fun s n => s.takeRequests w n) s
  actuators.foldl (fun s n => if w % 16 = 4 * n then (s.assistInputs (2 * n)).assistInputs (2 * n + 1) else s) s

/-! ### The slice program (R413 to R418) -/

/-- R413: the estimator's correction by the mean error of the slots in good; an odd sum takes the free bit. -/
def correct (a : ServoAct) (co : Nat → Coef) (good : List Nat) (r : Nat) : ServoAct :=
  let x := good.map fun h => (loopOf a h).y - (loopOf a h).d
  let mean := match x with
    | [p] => some p
    | [p, q] => some ((p + q + ((r % 2 : Nat) : Int)) / 2)
    | _ => none
  match mean with
  | none => a
  | some m =>
    let e := m - a.p
    { a with p := sat32 (a.p + mulC e (co 0)), v := sat32 (a.v + mulC e (co 1)), b := sat32 (a.b + mulC e (co 2)) }

/-- R416: an integrator's step that would move it further where its output saturated is skipped. -/
def integrate (allowed : Bool) (sat z step lim : Int) : Int :=
  if !allowed || (decide (0 < sat) && decide (0 < step)) || (decide (sat < 0) && decide (step < 0)) then z
  else sat32 (limit lim (z + step))

/-- R413: the notch chain. -/
def notchChain (co : Nat → Coef) : List Nat → List Biquad → Int → Int × List Biquad
  | [], _, x => (x, [])
  | j :: js, qs, x =>
    let (y, q) := biquad co (16 + 5 * j) (qs.head?.getD {}) x
    let (z, rest) := notchChain co js qs.tail y
    (z, q :: rest)

/-- R414: the cross-actuator feedforward; an actuator that is not under servo has no set-point that changes. -/
def crossFeed (s : State) (n : Nat) (co : Nat → Coef) : Int :=
  if !s.flag (R.XC_FF_EN n) then 0
  else
    let others := actuators.filter fun m => m != n
    (((List.range 3).zip others).map fun p => mulC (if s.underServo p.2 then (s.servo p.2).du else 0) (co (58 + p.1))).foldl (· + ·) 0

/-- R415: the limit of the VCM set-point. -/
def setPointLimit (s : State) (n : Nat) (a : ServoAct) (velocity : Bool) : Int :=
  let i := if velocity then (if a.shaped then min (s.rd (R.IV_MAX_SK n)) (s.rd R.SHAPE_IMAX) else s.rd (R.IV_MAX_SK n))
    else s.rd (R.IV_MAX_TF n)
  ((i * 2 ^ 23 : Nat) : Int)

/-- R413 to R416: the controller: the set-point, the integrator, the notches and the feedforward filter. -/
def control (s : State) (n : Nat) (a : ServoAct) (co : Nat → Coef) (mode : Nat) (coast : Bool) (r : Nat) : ServoAct :=
  let velocity := decide (mode = 2)
  let (u, zi, notch) :=
    if velocity then (mulC (vprof co a.dist (r / 2) - a.v) (co 12) - a.b, a.zi, a.notch)
    else
      let u := -(mulC a.p (co 7) + mulC a.v (co 8) + mulC a.b (co 9)) + a.zi
      let zi := integrate (!coast) a.satU a.zi (-(mulC a.p (co 10))) (limitC (co 11))
      let (y, q) := notchChain co (List.range 8) a.notch u
      (y, zi, q)
  let rv := sat32 (mulC a.rv (co 57) + s.svt.rv)
  let ff := (if s.flag (R.RV_FF_EN n) then mulC rv (co 56) else 0) + s.crossFeed n co
  let raw := u + ff
  let out := sat32 (limit (s.setPointLimit n a velocity) raw)
  { a with u := out, du := sat32 (out - a.u), zi := zi, notch := notch, rv := rv, satU := cutSide raw out }

/-- R415: the microactuator drives that keep the modelled displacement within the stroke, as a lowest and a highest. -/
def strokeRange (d lim : Int) (a g : Coef) : Int × Int :=
  let k := mulC d a
  let half : Int := ((2 ^ (30 - g.2).toNat : Nat) : Int)
  let one : Int := ((2 ^ (31 - g.2).toNat : Nat) : Int)
  let hi := (lim - k + 1) * one - 1 - half
  let lo := (-lim - k) * one - half
  let up := fun (x y : Int) => -((-x) / y)
  if 0 < g.1 then (up lo g.1, hi / g.1)
  else if g.1 < 0 then (up hi g.1, lo / g.1)
  else (-(2 ^ 31 : Nat), (2 ^ 31 : Nat) - 1)

/-- R413, R415 to R417: the microactuator loop of slot `h`: its new state, and whether a clamp acted. In a seek the drive that
places the arm between the targets is the free value. -/
def micro (s : State) (n h : Nat) (a : ServoAct) (co : Nat → Coef) (mode : Nat) (good both : Bool) (coast : Bool) (r : Nat) :
    SlotLoop × Bool :=
  let l := loopOf a h
  let i := 64 + 16 * h
  let (raw, zm, q) :=
    if !good then (l.vma, l.zm, l.filter)
    else if mode = 2 then (if both then signed 32 r else 0, l.zm, l.filter)
    else
      let (y, q) := biquad co i l.filter (-l.y)
      (y + l.zm, integrate (!coast) l.satV l.zm (-(mulC l.y (co (i + 5)))) (limitC (co (i + 6))), q)
  let vmax : Int := ((s.rd (R.MA_VMAX n) * 2 ^ 31 / 40 : Nat) : Int)
  let v1 := sat32 (limit vmax raw)
  let rg := strokeRange l.d ((4096 * s.rd (R.MA_STROKE_TRK n) : Nat) : Int) (co (i + 7)) (co (i + 8))
  let v2 := sat32 (iclamp rg.1 rg.2 v1)
  ({ l with vma := v2, zm := zm, filter := q, d := sat32 (mulC l.d (co (i + 7)) + mulC v2 (co (i + 8))), satV := cutSide raw v2 },
    v2 != raw)

/-- R413: the prediction step. -/
def predict (a : ServoAct) (co : Nat → Coef) : ServoAct :=
  { a with p := sat32 (a.p + a.v + mulC a.u (co 3) + mulC a.b (co 5)), v := sat32 (a.v + mulC a.u (co 4) + mulC a.b (co 6)) }

/-- R426 to R429: a slot's histories after a frame it was active in. -/
def history (a : ServoAct) (l : SlotLoop) : SlotLoop :=
  let l := { l with lossRun := if l.lost then min 15 (l.lossRun + 1) else 0
                    lossWin := (2 * l.lossWin + ofBool l.lost) % 2 ^ 64 }
  match l.latched with
  | some w =>
    let x := posOf l w
    { l with same := if x = l.lastPos ∧ a.u ≠ 0 then min 15 (l.same + 1) else 1, lastPos := x, lastTime := w.time }
  | none => l

/-- R413: the whole slice of an actuator under servo, as the voted record has it. -/
def sliceLoop (s : State) (n : Nat) (coast : Bool) : State :=
  let (r, s) := s.free
  let (r0, s) := s.free
  let (r1, s) := s.free
  let a := s.servo n
  let co := s.coefSet n
  let mode := s.loopMode n
  let good := s.goodSlots n
  let act := s.activeSlots n
  let a := correct a co good r
  let a := s.control n a co mode coast r
  let both := decide (act.length = 2)
  let m0 := s.micro n 0 a co mode (good.contains 0) both coast r0
  let m1 := s.micro n 1 a co mode (good.contains 1) both coast r1
  let h := fun (l : SlotLoop) => history (s.servo n) l
  let a := { a with slot0 := if act.contains 0 then h m0.1 else a.slot0, slot1 := if act.contains 1 then h m1.1 else a.slot1 }
  let a := predict a co
  let lim := ofBool (act.contains 0 && m0.2) + 2 * ofBool (act.contains 1 && m1.2)
  (s.modServo n fun _ => a).wr (R.MA_AT_LIM n) lim

/-! ### The assist loop (R483) -/

/-- R483: the assist loop of one placed slot in its assist frame. -/
def assistLoop (s : State) (n h : Nat) : State :=
  let k := 2 * n + h
  if !s.flag (R.SLOT_PLACED k) then
    s.modLoop n h fun l => { l with tf := 0, ziA := 0, corr := 0, outA := 0, satA := 0 }
  else
    let d := s.asdSlot k
    let co := fun (i : Nat) => s.coefOf n (96 + 8 * h + i)
    let tgt := 4096 * signed 16 (s.rd (R.HTS_TGT_NOW k))
    let base : Int := ((d.entry % 2 ^ 12 * 2 ^ 19 : Nat) : Int)
    let l := loopOf (s.servo n) h
    let l := if d.isNew then { l with tf := tgt, ziA := 0, corr := 0 } else l
    let l := match d.reading with
      | some (t, true, false) =>
        let tf := sat32 (l.tf + mulC (4096 * t - l.tf) (co 4))
        let e := tgt - tf
        let step := mulC e (co 1)
        let hold := (d.clampHi && decide (0 < step)) || (decide (l.satA < 0) && decide (step < 0))
        let zi := if hold then l.ziA else sat32 (limit (limitC (co 2)) (l.ziA + step))
        { l with tf := tf, ziA := zi, corr := sat32 (limit (limitC (co 3)) (mulC e (co 0) + zi)) }
      | _ => l
    let out := iclamp 0 ((2 ^ 31 : Nat) - 1) (base + l.corr)
    let l := { l with outA := out, satA := if out = 0 then -1 else 0 }
    let s := s.modLoop n h fun _ => l
    s.modAsd k fun d => { d with
      isNew := false, reading := none, due := some out
      wrote := match d.reading with
        | some (t, true, false) => some t
        | _ => d.wrote }

/-- R486: one assist frame of a head accumulated. -/
def ageSum (s : State) (n h : Nat) (reading : Option (Int × Bool × Bool)) : State :=
  let k := 2 * n + h
  match reading with
  | some (_, true, false) =>
    if s.flag R.AGE_EN && s.flag (R.SLOT_PLACED k) then
      let j := s.rd (R.SLOT_HEAD k)
      let out := (loopOf (s.servo n) h).outA
      let base : Int := (((s.asdSlot k).entry % 2 ^ 12 * 2 ^ 19 : Nat) : Int)
      let add := fun (g : AgeSum) => if s.runsAssist j then {}
        else ({ sOut := g.sOut + out, sBase := g.sBase + base, frames := g.frames + 1 } : AgeSum)
      let s := { s with cal := { s.cal with age := Store.modify {} s.cal.age j add } }
      s.wr (R.AGE_ACC_1K j) ((Store.get {} s.cal.age j : AgeSum).frames / 1024)
    else s
  | _ => s

/-- R421, R483, R486: both assist loops in the actuator's assist frame. -/
def assistSlice (s : State) (n : Nat) : State :=
  let (a, b) := ((s.asdSlot (2 * n)).reading, (s.asdSlot (2 * n + 1)).reading)
  let s := (s.assistLoop n 0).assistLoop n 1
  (s.ageSum n 0 a).ageSum n 1 b

/-! ### Judging a frame (R417, R423, R425, R427, R430) -/

/-- R427: the actuator coasts in this frame. -/
def coastFrame (s : State) (n : Nat) : State :=
  if s.rd (R.SV_MODE n) = 5 then s.count (R.SV_COAST_NOW n)
  else
    let m := s.rd (R.SV_MODE n)
    let s := s.modServo n fun v => { v with prior := m }
    (((s.wr (R.SV_MODE n) 5).wr (R.SV_COAST_NOW n) 1).raise (136 + n)).writeUnsafe n

/-- R427: a wedge returned: closed-loop control resumes. -/
def endCoast (s : State) (n : Nat) : State :=
  if s.rd (R.SV_MODE n) = 5 then (s.wr (R.SV_MODE n) (s.servo n).prior).wr (R.SV_COAST_NOW n) 0 else s

/-- R417: the loop switches to position mode near its target. -/
def nearTarget (s : State) (n : Nat) : State :=
  let a := s.servo n
  if s.rd (R.SV_MODE n) = 2 ∧ a.dist.natAbs ≤ 65536 * s.rd (R.SETTLE_TRK n) then
    (s.wr (R.SV_MODE n) 3).modServo n fun v => { v with zi := 0, settleRun := 0, shaped := false }
  else s

/-- The largest |y| over the active slots. -/
def worstY (s : State) (n : Nat) : Nat :=
  ((s.activeSlots n).map fun h => (loopOf (s.servo n) h).y.natAbs).foldl max 0

/-- R417: on-track frames of a settling actuator counted; condition 0x08 and SEEK_TIME_LAST at the end of the settle. -/
def settleFrame (s : State) (n : Nat) : State :=
  if s.rd (R.SV_MODE n) ≠ 3 then s
  else
    let on := !(s.activeSlots n).isEmpty && decide ((s.goodSlots n).length = (s.activeSlots n).length)
      && decide (s.worstY n ≤ 256 * s.rd (R.ON_TRACK_LIM n))
    let s := s.modServo n fun v => { v with settleRun := if on then v.settleRun + 1 else 0 }
    if s.rd (R.SETTLE_WEDGES n) ≤ (s.servo n).settleRun then
      let s := match (s.servo n).seekUs with
        | some t => s.wr (R.SEEK_TIME_LAST n) (min 65535 ((s.rd R.FCU_US + 2 ^ 32 - t) % 2 ^ 32))
        | none => s
      ((s.wr (R.SV_MODE n) 4).wr (R.SV_SETTLED n) 1).modServo n fun v => { v with seekUs := none }
    else s

/-- R425: a following-error excess in this frame. -/
def feExcess (s : State) (n : Nat) (r : Nat) : Bool :=
  let m := s.rd (R.SV_MODE n)
  let a := s.servo n
  if m = 3 ∨ m = 4 then decide (256 * s.rd (R.FE_LIM n) < s.worstY n)
  else if m = 2 then
    let x : Int := (a.p.natAbs : Int) - ((65536 * s.rd (R.FE_SEEK_LIM n) : Nat) : Int)
    decide (0 < x) && decide ((a.v.natAbs : Int) < vprof (s.coefSet n) x r)
  else false

/-- R423, R425: the excess counted, GOOD_WEDGES, and write-safe. -/
def judgeFrame (s : State) (n : Nat) : State :=
  let (r, s) := s.free
  let x := s.feExcess n r
  let s := s.modServo n fun v => { v with feRun := if x then v.feRun + 1 else 0, feDone := x && v.feDone }
  let allGood := decide ((s.goodSlots n).length = (s.activeSlots n).length)
  let s := s.wr (R.GOOD_WEDGES n) (if allGood then min 16 (s.rd (R.GOOD_WEDGES n) + 1) else 0)
  let safe := s.rd (R.SV_MODE n) == 4 && decide (s.worstY n ≤ 256 * s.rd (R.WUS_LIM n)) && s.rd (R.GOOD_WEDGES n) == 16
    && s.rd (R.MA_AT_LIM n) == 0 && !x && !s.flag R.SHOCK_HOLD
  if safe then s.wr (R.WRITE_SAFE n) 1 else s.writeUnsafe n

/-- R447: PES_S0 and PES_S1, in 1/256 track. -/
def showPes (s : State) (n : Nat) : State :=
  let a := s.servo n
  (s.wr (R.PES_S0 n) (satSigned 16 (a.slot0.y / 256))).wr (R.PES_S1 n) (satSigned 16 (a.slot1.y / 256))

/-- R413, R417, R423, R427: slice `n` with its record voted. -/
def sliceDone (s : State) (n : Nat) : State :=
  let s := s.wr (R.OVR_LAST n) 0
  let s := if s.rd R.FRAME_WEDGE % 16 = 4 * n then s.assistSlice n else s
  if !s.underServo n then s
  else
    let coast := !(s.activeSlots n).isEmpty && (s.goodSlots n).isEmpty
    let s := if coast then s.coastFrame n else s.endCoast n
    let s := if coast then s else s.nearTarget n
    let s := (s.sliceLoop n coast).showPes n
    let s := s.modServo n fun v => { v with seekFrames := v.seekFrames + 1 }
    let s := (s.settleFrame n).judgeFrame n
    s.modServo n fun v => { v with slot0 := { v.slot0 with latched := none, lost := false }
                                   slot1 := { v.slot1 with latched := none, lost := false } }

/-- R430: slice `n` missed: ACT holds its outputs; a second one in a row coasts. -/
def sliceMissed (s : State) (n : Nat) : State :=
  let again := (s.servo n).missedBefore
  let s := s.modServo n fun v => { v with
    missed := true, slot0 := { v.slot0 with latched := none, lost := false }, slot1 := { v.slot1 with latched := none, lost := false } }
  let s := ((s.wr (R.OVR_LAST n) 1).count (R.SV_OVR_CNT n)).raise (144 + n)
  let s := (s.wr (R.GOOD_WEDGES n) 0).writeUnsafe n
  let s := if s.underServo n && (again || s.rd (R.SV_MODE n) == 5) then s.coastFrame n else s
  s.detect (284 + n)

/-- R430, R464: in the checkpoint interval a missed actuator's state is that of the last checkpoint, moved on by the prediction
step with the held set-point; a word without a majority there makes the actuator coast. -/
def restoreMissed (s : State) (n : Nat) : State :=
  if !(s.servo n).missed || !s.underServo n then s
  else if s.bitAt R.CKPT_UNCLEAN n then if s.rd (R.SV_MODE n) = 5 then s else s.coastFrame n
  else
    let co := s.coefSet n
    s.modServo n fun v => predict v co

/-! ### Retract, park and load (R431 to R435) -/

/-- R490: the slots of actuator `n` stop being placed for ASD. -/
def unplace (s : State) (n : Nat) : State := s.clearAll [R.SLOT_PLACED (2 * n), R.SLOT_PLACED (2 * n + 1)]

/-- R432, R119: PARK_HOLD_MS expires: the bridge is off, PARKED sets; an actuator reset that waited for it is done. -/
def parkDone (s : State) (n : Nat) : State :=
  if s.rd (R.VCM_STATE n) ≠ 4 then s
  else
    let s := (((s.wr (R.VCM_STATE n) 5).wr (R.PARKED n) 1).wr (R.SV_MODE n) 7).raise 154
    let s := (s.unplace n).modServo n fun v => { v with inUse := 0, duty := 0, parking := false }
    if s.boot.actResetWait.testBit n then s.reinitAct n else s

/-- R435: a load's first capture: the loop closes on the nearest track with the estimator's values free. -/
def capture (s : State) (n : Nat) : State :=
  let (p, s) := s.free
  let (v, s) := s.free
  let (b, s) := s.free
  let (u, s) := s.free
  let fresh := fun (l : SlotLoop) => ({ target := l.track, track := l.track, tf := l.tf, ziA := l.ziA, corr := l.corr
                                        outA := l.outA, satA := l.satA } : SlotLoop)
  s.modServo n fun a => { a with
    p := signed 32 p, v := signed 32 v, b := signed 32 b, u := signed 32 u, du := 0, zi := 0, satU := 0, notch := [], dist := 0
    settleRun := 0, seekUs := none, prior := 4, feRun := 0, feDone := false, missed := false, missedBefore := false
    slot0 := fresh a.slot0, slot1 := { fresh a.slot1 with target := a.slot0.track, track := a.slot0.track, dropped := a.slot1.dropped } }

/-- R435, R445, R611: the load completes: settled on the nearest track. -/
def loadDone (s : State) (n : Nat) : State :=
  if s.rd (R.VCM_STATE n) = 6 ∧ (s.servo n).slot0.acquired ∧ s.bitAt (R.DLC_LOCK n) 0 then
    let s := s.capture n
    let s := (((s.wr (R.VCM_STATE n) 1).wr (R.SV_MODE n) 4).wr (R.SV_SETTLED n) 1).wr (R.SV_COAST_NOW n) 0
    let s := ((s.wr (R.GOOD_WEDGES n) 0).count (R.LOAD_CNT n)).raise 155
    { s with media := { s.media with loadedOnce := true } }
  else s

/-- R435: nothing acquired in 200 ms: the load unloads and tries again, at most twice. -/
def loadTimeout (s : State) (n : Nat) : State :=
  if s.rd (R.VCM_STATE n) ≠ 6 || (s.servo n).slot0.acquired then s
  else if (s.servo n).tries < 2 then
    s.modServo n fun v => { v with tries := v.tries + 1, slot0 := { v.slot0 with sam := none } }
  else
    let s := s.modServo n fun v => { v with seekReq := none, ofsReq0 := none, ofsReq1 := none }
    let s := ((s.wr (R.VCM_STATE n) 3).wr (R.SV_MODE n) 6).wr (R.LOAD_FAIL n) 1
    (s.raise 155).detect (333 + n)

/-! ### Losses (R425, R427 to R429) -/

/-- R429: a slot lost more than LOSS_WIN_MAX wedges of the last 64 frames. -/
def windowOver (s : State) (n h : Nat) : Bool :=
  decide (s.rd (R.LOSS_WIN_MAX n) < ones 64 (loopOf (s.servo n) h).lossWin)

/-- R428, R429: another active slot is good: it did not lose its last wedge. -/
def otherGood (s : State) (n h : Nat) : Bool :=
  (s.activeSlots n).any fun x => x != h && (loopOf (s.servo n) x).lossRun == 0

/-- R427, R429: the coast limit, or the loss window with no good slot. -/
def coastOver (s : State) (n : Nat) : Bool :=
  s.underServo n && (decide (s.rd (R.SV_COAST_MAX n) < s.rd (R.SV_COAST_NOW n))
    || (s.activeSlots n).any fun h => s.windowOver n h && !s.otherGood n h)

/-- R427: the retract of a coast: the FCU's step R, or SVT's own. -/
def coastRetract (s : State) (n : Nat) : State :=
  if s.coastOver n then ((((s.wr (R.COAST_RETRACT n) 1).raise (140 + n)).detect (276 + n)).retract n) else s

/-- R428: the operations of a dropped slot end: the sectors left are not done. -/
def endSlotRun (s : State) (k : Nat) : State :=
  s.modSlot k fun c => match c.run with
    | some r =>
      let left := (List.range (r.count - r.next)).map fun i => r.next + i
      { c with run := some { r with next := r.count }
               notWritten := if r.write then c.notWritten ++ left else c.notWritten
               skipped := if r.write then c.skipped else c.skipped ++ left }
    | none => c

/-- R428, R429: slot `h` dropped. -/
def slotDrop (s : State) (n h : Nat) : State :=
  let l := loopOf (s.servo n) h
  if s.underServo n && s.slotActive n h && s.otherGood n h
      && (decide (s.rd (R.SV_COAST_MAX n) < l.lossRun) || s.windowOver n h) then
    let s := s.modLoop n h fun l => { l with dropped := true, vma := 0, d := 0, lossRun := 0, lossWin := 0 }
    let s := ((s.setBitAt (R.SLOT_DROP n) h).raise (140 + n)).wr (R.SLOT_PLACED (2 * n + h)) 0
    (s.endSlotRun (2 * n + h)).detect (280 + n)
  else s

/-- R425: an excess of more than FE_TIME frames. -/
def feFault (s : State) (n : Nat) : State :=
  let a := s.servo n
  if decide (s.rd (R.FE_TIME n) < a.feRun) && !a.feDone then
    let s := s.modServo n fun v => { v with feDone := true }
    (((s.wr (R.FE_FAULT n) 1).count (R.FE_FAULT_CNT n)).raise (140 + n)).detect (272 + n)
  else s

/-! ### Current loops and shock (R420, R442) -/

/-- R420, R445: a sub-sample of a VCM's current loop. -/
def subsample (s : State) (n current rms watts excess : Nat) : State :=
  let s := s.wr (R.VCM_I_NOW n) current
  let lim := decide (1200 ≤ rms)
  let pow := decide (s.rd R.VCM_PWR_MAX < watts)
  let fresh := (lim && !s.flag (R.VCM_IRMS_LIM n)) || (pow && !s.flag (R.VCM_PWR_LIM n))
  let s := (s.wrFlag (R.VCM_IRMS_LIM n) lim)
  let s := actuators.foldl (fun s m => s.wrFlag (R.VCM_PWR_LIM m) pow) s
  let s := if fresh then s.raise 157 else s
  let (duty, s) := s.free
  let (scale, s) := s.free
  let level : Int := (2 ^ 31 : Nat) * 2 / 5
  let u := (s.servo n).u
  let u := if lim then limit level u else u
  let u := if pow then u * ((scale % 65536 : Nat) : Int) / 65536 else u
  let on := s.rd (R.VCM_STATE n) == 1
  let s := s.modServo n fun v => { v with inUse := if on then u else 0, duty := duty }
  let s := if excess = 0 then s else s.raise 158
  let s := if excess.testBit 0 then s.detect (321 + n) else s
  let s := if excess.testBit 1 then s.detect (325 + 2 * n) else s
  if excess.testBit 2 then s.detect (326 + 2 * n) else s

/-- R442: a shock trip. -/
def shockTrip (s : State) (y : Bool) (mv : Nat) : State :=
  let s := s.raiseTo (if y then R.SHK_PEAK_Y else R.SHK_PEAK_X) mv
  if mv < s.rd R.SHK_THR then s
  else
    let s := { s with svt := { s.svt with calm := 0 } }
    actuators.foldl writeUnsafe ((s.wr R.SHOCK_HOLD 1).raise 156)

end State

/-! ### The commands -/

/-- WEDGE_STROBE (R304, R402, R403, R408, R424, R426). -/
def execWedgeStrobe (n : Fin 4) (h : Fin 2) (wedge : WedgeFields) (late : Bool) (s : State) : Result :=
  .next (s.wedgeStrobe n.val h.val wedge late)

/-- SERVO_FRAME (R405 to R409, R412, R426, R436, R442, R443, R680): a frame starts once the one before is done; in Idle-A only for
wedges whose number is a multiple of 4. -/
def execServoFrame (input : FrameInput) (s : State) : Result :=
  .next (if !s.dom.svt || s.svt.phase ≠ 0 then s
    else if s.rd R.PSTATE_NOW = 1 ∧ input.wedge.toNat % 4 ≠ 0 then s
    else s.servoFrame input)

/-- FOLLOWING_ERROR_FAULT (R425). -/
def execFollowingErrorFault (n : Fin 4) (s : State) : Result := .next (s.feFault n.val)

/-- COAST_RETRACT (R427, R429). -/
def execCoastRetract (n : Fin 4) (s : State) : Result := .next (s.coastRetract n.val)

/-- SLOT_DROP (R428, R429). -/
def execSlotDrop (n : Fin 4) (h : Fin 2) (s : State) : Result := .next (s.slotDrop n.val h.val)

/-- VCM_SUBSAMPLE (R420, R445): the coil current in mA, its rms over 100 ms, the power of the four bridges over 100 us, and the
overcurrents of the VCM and of both piezo bridges. -/
def execVcmSubsample (n : Fin 4) (current : BitVec 16) (rms : BitVec 12) (watts : BitVec 8) (overcurrent : BitVec 3) (s : State) :
    Result :=
  .next (s.subsample n.val current.toNat rms.toNat watts.toNat overcurrent.toNat)

/-- RETRACT (R431). -/
def execRetract (n : Fin 4) (s : State) : Result := .next (s.retract n.val)

/-- CRASH_STOP_DETECT (R432): the back-EMF stayed below a tenth of RETRACT_VEL for 2 ms. -/
def execCrashStopDetect (n : Fin 4) (s : State) : Result :=
  .next (if s.rd (R.VCM_STATE n.val) = 2 ∨ s.rd (R.VCM_STATE n.val) = 3 then s.wr (R.VCM_STATE n.val) 4 else s)

/-- PARK_HOLD_DONE (R119, R432, R445, R490). -/
def execParkHoldDone (n : Fin 4) (s : State) : Result := .next (s.parkDone n.val)

/-- PARK_HANDOVER (R434): the park's seek has settled. -/
def execParkHandover (n : Fin 4) (s : State) : Result :=
  .next (if (s.servo n.val).parking && s.flag (R.SV_SETTLED n.val) then
    let s := (((s.wr (R.VCM_STATE n.val) 3).wr (R.SV_MODE n.val) 6).wr (R.SV_SETTLED n.val) 0).modServo n.val
      fun v => { v with parking := false }
    s.writeUnsafe n.val
  else s)

/-- LOAD_ACQUIRE_TIMEOUT (R435). -/
def execLoadAcquireTimeout (n : Fin 4) (s : State) : Result := .next (s.loadTimeout n.val)

/-- LOAD_COMPLETE (R163, R435, R445, R611). -/
def execLoadComplete (n : Fin 4) (s : State) : Result := .next (s.loadDone n.val)

/-- SHOCK_TRIP (R424, R442): an excursion of SHK_X, or SHK_Y, in mV. -/
def execShockTrip (y : Bool) (excursion : BitVec 16) (s : State) : Result := .next (s.shockTrip y excursion.toNat)

/-- SHOCK_HOLD_END (R442). -/
def execShockHoldEnd (s : State) : Result :=
  .next (if s.rd R.SHOCK_HOLD_WEDGES ≤ s.svt.calm then s.wr R.SHOCK_HOLD 0 else s)

/-- COEF_APPLY (R412, R467): the shadows are applied at the next frame start. -/
def execCoefApply (mask : BitVec 4) (s : State) : Result :=
  .next (s.access R.COEF_APPLY fun s => s.wr R.COEF_PEND (s.rd R.COEF_PEND ||| mask.toNat))

/-- SV_CNT_CLR (R447). -/
def execSvCntClr (n : Fin 4) (s : State) : Result :=
  .next (s.access (R.SV_CNT_CLR n.val) fun s => s.clearAll [R.LOST_WEDGE_CNT n.val, R.FROZEN_CNT n.val, R.SV_OVR_CNT n.val,
    R.FE_FAULT_CNT n.val, R.SV_REQ_REJ n.val])

end Sys2Proof.Machine
end

