-- ==== Sys2Proof/Machine/Assist.lean ====
section
/-!
DEFINITION. Machine/Assist.lean: the assist codes, head thermal readings and the ageing loop of ASD (chapter 14, R478 to R490).
-/
namespace Sys2Proof.Machine

open Arith

namespace State

/-- R478, R505: a head's ASST_MAX as it reads: 0 without an assist element or before CAL_LOADED. -/
def asstMax (s : State) (j : Nat) : Nat :=
  if s.assistFitted && s.flag R.CAL_LOADED then s.rd (R.ASST_MAX j) else 0

/-- R484: a head slot's voted output as a code before its clamp. -/
def asstCode (s : State) (j : Nat) (out : Int) : Nat :=
  ((out * (s.rd (R.AGE_GAIN j) : Int) + 2 ^ 30) / 2 ^ 31).toNat

/-- R484: the code of a slot after a voted output, with its clamp recorded. -/
def slotCode (s : State) (k : Nat) (out : Int) (tie : Bool) : State :=
  let j := s.rd (R.SLOT_HEAD k)
  let (x, m) := (s.asstCode j out, s.asstMax j)
  let excess := decide (m < x)
  let s := if excess then s.count R.ASST_CLAMP_CNT else s
  let s := if excess && !s.flag (R.SLOT_CLAMP k) then s.raise 163 else s
  let s := (s.wrFlag (R.SLOT_CLAMP k) excess).modAsd k fun a => { a with clampHi := excess, due := none }
  let pre := if s.fuses.variant = 1 then (s.asdSlot k).entry / 2 ^ 12 % 16 else 0
  s.sendCode k (min m x + 4096 * pre) tie

/-- R478, R484, R490: ASD's codes for one slot: zero codes where assist is not enabled or not fitted, none outside Active. -/
def assistCode (s : State) (k : Nat) (tie : Bool) : State :=
  let drop := s.modAsd k fun a => { a with due := none }
  if !s.flag (R.SLOT_PLACED k) || s.bitAt R.ASST_FORCED (k / 2) then drop
  else if !s.bitAt R.ASST_EN (k / 2) || !s.assistFitted then drop.sendCode k 0 tie
  else if s.rd R.PSTATE_NOW ≠ 0 then drop
  else match (s.asdSlot k).due with
    | some out => s.slotCode k out tie
    | none => s

/-- R482: the reads of the placed slots of actuator `n`. -/
def htsRead (s : State) (n : Nat) (tie : Bool) : State :=
  let l := [0, 1].filter fun h => s.flag (R.SLOT_PLACED (2 * n + h))
  let s := l.foldl (fun s h => s.modAsd (2 * n + h) fun a => { a with asked := true, reading := none }) s
  s.psiPush n 1 (l.map fun h => { read := true, addr := 0x18 + h }) tie

/-- R487: AGE_OVER_WARN of head `j`, with line 161 as it sets. -/
def ageWarn (s : State) (j : Nat) : State :=
  let w := decide (s.rd R.AGE_WARN_THR ≤ s.rd (R.AGE_GAIN j))
  let s := if w && !s.flag (R.AGE_OVER_WARN j) then s.raise 161 else s
  s.wrFlag (R.AGE_OVER_WARN j) w

/-- R502, R503: the working set has changed. -/
def setDirty (s : State) : State :=
  let f := fun (x : CalStore) => { x with changed := true }
  let s := { s with cal := { s.cal with store := s.cal.store.map f } }
  s.wr R.SET_DIRTY 1

/-- R486: the gain after a step, before its clamp. A half is rounded by the free bit; with no base at all it is the free value. -/
def agedGain (g : Nat) (a : AgeSum) (shift r : Nat) : Int :=
  let den := a.sBase * 2 ^ shift
  if den ≤ 0 then (r % 65536 : Nat)
  else
    let num := 2 * ((g : Int) * (a.sOut - a.sBase)) + den
    let q := num / (2 * den)
    (g : Int) + (if num % (2 * den) = 0 then q - ((r % 2 : Nat) : Int) else q)

/-- R486: the sums of head `j` cleared. -/
def clearSums (s : State) (j : Nat) : State :=
  ({ s with cal := { s.cal with age := s.cal.age.erase j } }).wr (R.AGE_ACC_1K j) 0

/-- R486, R487: a step of head `j`'s ageing loop. -/
def ageStep (s : State) (j : Nat) : State :=
  let a : AgeSum := Store.get {} s.cal.age j
  if !s.flag R.AGE_EN then s
  else if s.runsAssist j then s.clearSums j
  else if a.frames < 1024 * s.rd R.AGE_N_1K then s
  else
    let (r, s) := s.free
    let g := agedGain (s.rd (R.AGE_GAIN j)) a (s.rd R.AGE_SHIFT) r
    let top : Int := s.rd R.AGE_LIMIT_THR
    let s := if top < g then ((if s.flag (R.AGE_SAT j) then s else s.raise 162).wr (R.AGE_SAT j) 1) else s
    let s := (s.wr (R.AGE_GAIN j) (iclamp (s.rd R.AGE_MIN) top g).toNat).count (R.AGE_STEPS j)
    ((s.clearSums j).setDirty).ageWarn j

/-- R489: ASST_FORCED bits written 1. -/
def clearForce (s : State) (mask : Nat) : State := actuators.foldl (fun s n =>
  if mask.testBit n && !s.flag R.PF_ACTIVE && s.rd (R.VCM_STATE n) != 2 && !s.boundaryOn then s.clrBitAt R.ASST_FORCED n
  else s) s

end State

/-- HTS_READ (R482, R508): two frames before the assist frame of actuator `n`; `tie` where another frame is requested in the same
cycle. -/
def execHtsRead (n : Fin 4) (tie : Bool) (s : State) : Result :=
  .next (if s.dom.svt && s.svt.phase == 1 && s.rd R.FRAME_WEDGE % 16 == (4 * n.val + 14) % 16 then s.htsRead n.val tie else s)

/-- ASSIST_CODE_WRITE (R478, R484, R488, R490). -/
def execAssistCodeWrite (n : Fin 4) (tie : Bool) (s : State) : Result :=
  .next ((s.assistCode (2 * n.val) tie).assistCode (2 * n.val + 1) false)

/-- AGE_STEP (R486, R487). -/
def execAgeStep (j : Fin 32) (s : State) : Result := .next (s.ageStep j.val)

/-- ASSIST_FORCE_CLEAR (R489): no effect in a power fail, nor on an actuator that retracts, nor in boundary scan (R675). The
switch closes: PA_RAIL_READY then finds it closed. -/
def execAssistForceClear (mask : BitVec 4) (s : State) : Result :=
  .next (s.access R.ASST_FORCED fun s => s.clearForce mask.toNat)

/-- ASD_CNT_CLR (R509). -/
def execAsdCntClr (s : State) : Result :=
  .next (s.access R.ASD_CNT_CLR fun s => s.clearAll [R.ASST_CLAMP_CNT, R.HTS_STALE_CNT])

end Sys2Proof.Machine
end

