-- ==== Sys2Proof/Machine/Calib.lean ====
section
/-!
DEFINITION. Machine/Calib.lean: calibration runs, the applying of their values, and the calibration banks (chapter 14, R491 to
R506 and R511).
-/
namespace Sys2Proof.Machine

open Arith

/-! ### Run types (R491) -/

/-- R491: the mandatory conditions of a run type, as a mask over their codes. -/
def mandatory (t : Nat) : Nat :=
  if t = 1 then 0xBEE else if t = 2 ∨ t = 3 ∨ t = 5 then 0x9DE else if t = 4 then 0x9CA
  else if t = 6 then 0xCC6 else if t = 7 then 0xCC2 else if t = 8 then 0x840 else 0xCC0

/-- A run type of one head. -/
def headType (t : Nat) : Bool := decide (1 ≤ t) && decide (t ≤ 5)

/-- A run type of one actuator. -/
def actuatorType (t : Nat) : Bool := t == 6 || t == 7 || t == 9

/-- R491: RUN_UNIT in range for the type. -/
def unitOk (t u : Nat) : Bool := if headType t then decide (u < 32) else if actuatorType t then decide (u < 4) else u == 0

/-- The actuator that a run of a head or actuator type is on. -/
def runActuator (r : CalRun) : Option Nat :=
  if headType r.type then some (r.unit / 8) else if actuatorType r.type then some r.unit else none

/-- The head slots that a run is on. -/
def runSlots (r : CalRun) : List Nat :=
  if headType r.type then [r.slot] else if actuatorType r.type then [0, 1] else []

/-- R491: two runs bind the same head slot, or the same actuator. -/
def runsClash (a b : CalRun) : Bool := match runActuator a, runActuator b with
  | some n, some m => n == m && (runSlots a).any fun h => (runSlots b).contains h
  | _, _ => false

/-- R491: the targets that a run may change. -/
def inTargets (r : CalRun) (t : CalTarget) : Bool :=
  let i := t.offset % 256
  if r.type = 1 then (t.tgt == 2 || t.tgt == 3) && t.unit == r.unit
  else if r.type = 2 then t.tgt == 1 && t.unit == r.unit && t.offset == 26
  else if r.type = 3 then t.tgt == 1 && t.unit == r.unit && t.offset != 26
  else if r.type = 4 then t.tgt == 1 && t.unit == r.unit && (t.offset == 2 || t.offset == 3)
  else if r.type = 5 then t.tgt == 1 && t.unit == r.unit && t.offset == 5
  else if r.type = 6 then
    t.tgt == 4 && t.unit == r.unit && ((decide (64 ≤ i) && decide (i ≤ 95)) || (decide (112 ≤ i) && decide (i ≤ 127)))
  else if r.type = 7 then t.tgt == 4 && t.unit == r.unit && (decide (i ≤ 63) || (decide (128 ≤ i) && decide (i ≤ 191)))
  else if r.type = 8 then t.tgt == 5 && t.offset == 0
  else t.tgt == 5 && decide (64 + 256 * r.unit ≤ t.offset) && decide (t.offset < 320 + 256 * r.unit)

/-! ### Targets (R496 to R499) -/

/-- R499: a numeric field of a word: its place, its width, and whether it is signed. -/
abbrev NumField := Nat × Nat × Bool

/-- R497, R499: the numeric fields of a target's word. -/
def numericFields (t : CalTarget) : List NumField :=
  if t.tgt = 2 then [(0, 12, false), (12, 4, false), (16, 16, true)]
  else if t.tgt = 4 then [(0, 32, true)]
  else if t.tgt ≠ 1 then []
  else if t.offset ≤ 1 then [(0, 7, false), (7, 5, false), (14, 6, true), (20, 7, false)]
  else if t.offset ≤ 3 then [(0, 8, false), (8, 8, false), (16, 8, false), (24, 8, true)]
  else if t.offset = 4 then [(8, 8, true), (16, 8, true), (24, 8, true)]
  else if t.offset = 5 then [(0, 20, true), (20, 8, false)]
  else if t.offset = 6 then [(0, 5, false), (5, 5, false), (10, 5, false), (15, 5, false)]
  else [(0, 10, true), (16, 10, true)]

/-- R498: a target that takes its value in one step. -/
def stepOnly (t : CalTarget) : Bool :=
  t.tgt == 3 || t.tgt == 5 || (t.tgt == 1 && (t.offset == 7 || decide (24 ≤ t.offset)))

/-- R498: a profile word that no consumer takes. -/
def tableOnly (t : CalTarget) : Bool := t.tgt == 1 && (t.offset == 25 || decide (27 ≤ t.offset))

/-- The fields of a channel register as a mask. -/
def fieldMask (addr : Nat) : Nat := match findReg addr regTable with
  | some (r, _) => r.fields.foldl (fun m f => m ||| ((2 ^ f.width - 1) * 2 ^ f.lo)) 0
  | none => 0

/-- The offset of the channel register that profile word 0 to 7 is the image of (R497). -/
def imageOffset (w : Nat) : Nat := ([0x18, 0x1C, 0x24, 0x28, 0x2C, 0x08, 0x10, 0x14] : List Nat).getD w 0

/-- R497: the bits of a target's word that are not reserved. -/
def targetMask (t : CalTarget) : Nat :=
  if t.tgt = 3 then 0x0FFFFFFF
  else if t.tgt ≠ 1 then 0xFFFFFFFF
  else if t.offset ≤ 7 then fieldMask (0x40100100 + imageOffset t.offset)
  else if t.offset ≤ 23 then 0x03FF03FF
  else if t.offset = 24 then 0xFFFFFFFF
  else if t.offset = 26 then 0xFFFF
  else 0

/-- R499: step `i` of `n` of one numeric field; an exact half takes the free bit. -/
def rampField (old new i n r : Nat) (f : NumField) : Nat :=
  let val := fun (w : Nat) => if f.2.2 then signed f.2.1 (field w f.1 f.2.1) else ((field w f.1 f.2.1 : Nat) : Int)
  let num := 2 * ((val new - val old) * (i : Int)) + (n : Int)
  let q := num / (2 * (n : Int))
  let q := if num % (2 * (n : Int)) = 0 then q - ((r / 2 ^ f.1 % 2 : Nat) : Int) else q
  unsigned f.2.1 (val old + q)

/-- R499: a ramping word at step `i` of `n`. -/
def rampWord (t : CalTarget) (old new i n r : Nat) : Nat :=
  (numericFields t).foldl (fun w f => putField w f.1 f.2.1 (rampField old new i n r f)) old

/-- R496: an entry of an apply list. -/
structure ListEntry where
  target : CalTarget
  cls : Nat
  value : Nat
  value2 : Nat
  deriving DecidableEq, Repr

/-- R496: an entry's 16 bytes. -/
def parseEntry (v : Nat) : ListEntry :=
  ⟨⟨field v 0 8, field v 16 8, field v 24 8, field v 32 32⟩, field v 8 8, field v 64 32, field v 96 32⟩

/-- R496, R497: an entry is well formed. -/
def entryOk (e : ListEntry) : Bool :=
  let t := e.target
  decide (1 ≤ t.tgt) && decide (t.tgt ≤ 5) && decide (e.cls ≤ 1)
    && (if t.tgt ≤ 3 then decide (t.unit < 32) else if t.tgt = 4 then decide (t.unit < 4) else t.unit == 0)
    && (if t.tgt ≤ 2 then decide (t.zone < 64) else t.zone == 0)
    && (if t.tgt = 1 then decide (t.offset < 32) else if t.tgt = 4 then decide (t.offset < 512)
        else if t.tgt = 5 then decide (t.offset < 1088) else t.offset == 0)
    && e.value &&& targetMask t == e.value && (if t.tgt = 4 then decide (e.value2 < 32) else e.value2 == 0)

namespace State

/-! ### Reading and writing targets -/

/-- The value of a target in the working set; for a coefficient, of its shadow, and the shift. -/
def targetValue (s : State) (t : CalTarget) : Nat × Nat :=
  if t.tgt = 1 then (Store.get 0 s.cal.profile (32 * (64 * t.unit + t.zone) + t.offset), 0)
  else if t.tgt = 2 then (s.word (R.ASST_BASE t.unit t.zone).addr (R.ASST_BASE t.unit t.zone).rst, 0)
  else if t.tgt = 3 then (s.word (R.AGE_GAIN t.unit).addr (R.AGE_GAIN t.unit).rst % 2 ^ 28, 0)
  else if t.tgt = 4 then (s.rd (R.COEF_VALUE t.unit t.offset), s.rd (R.COEF_SHIFT t.unit t.offset))
  else (Store.get 0 s.cal.device t.offset, 0)

/-- The slots in which a target's head, at its zone where it has one, is placed. -/
def targetSlots (s : State) (t : CalTarget) : List Nat :=
  if 3 < t.tgt then []
  else (List.range 8).filter fun k => s.flag (R.SLOT_PLACED k) && s.rd (R.SLOT_HEAD k) == t.unit
    && (t.tgt == 3 || s.rd (R.SLOT_ZONE k) == t.zone)

/-- R498: the consumer of a target runs, so that its value waits for a boundary. -/
def consumerRuns (s : State) (t : CalTarget) : Bool :=
  if t.tgt = 5 || tableOnly t then false else if t.tgt = 4 then s.underServo t.unit else !(s.targetSlots t).isEmpty

/-- R498: profile word `w` of value `v` goes to the channel registers of slot `k`, or in ASD frames to its preamplifier. -/
def profileToSlot (s : State) (k w v : Nat) : State :=
  let (n, h) := (k / 2, k % 2)
  let base := 0x40100100 + 0x10000 * n + 0x100 * h
  let image := fun (s : State) =>
    s.wr ⟨base + imageOffset w, 0, 32, resetWord (base + imageOffset w)⟩ v
  let f := fun (a d : Nat) => ({ read := false, addr := a, data := d } : PsiFrame)
  if w ≤ 6 then image s
  else if w = 7 then
    (image s).psiPush n 1 [f (0x04 + h) (field v 0 7 + 128 * field v 15 4), f (0x06 + h) (field v 8 7)] false
  else if w ≤ 23 then
    let i := w - 8
    let s := (s.wr (R.FIR_TAP n h 0 i) (field v 0 10)).wr (R.FIR_TAP n h 1 i) (field v 16 10)
    s.modSlot k fun c => { c with firPend := c.firPend ++ [i, 16 + i] }
  else if w = 24 then s.psiPush n 1 [f (0x08 + 2 * h) (field v 0 16), f (0x09 + 2 * h) (field v 16 16)] false
  else if w = 26 then s.psiPush n 1 [f (0x0C + h) (field v 0 16)] false
  else s

/-- A target takes a value in the working set alone. -/
def writeTable (s : State) (t : CalTarget) (v v2 : Nat) : State :=
  if t.tgt = 1 then
    { s with cal := { s.cal with profile := Store.put 0 s.cal.profile (32 * (64 * t.unit + t.zone) + t.offset) v } }
  else if t.tgt = 2 then
    let b := R.ASST_BASE t.unit t.zone
    s.wr ⟨b.addr, 0, 32, b.rst⟩ v
  else if t.tgt = 3 then
    ((s.wr (R.AGE_GAIN t.unit) (field v 0 16)).wr (R.ASST_MAX t.unit) (field v 16 12)).ageWarn t.unit
  else if t.tgt = 4 then
    ((s.wr (R.COEF_VALUE t.unit t.offset) v).wr (R.COEF_SHIFT t.unit t.offset) v2).setBitAt R.COEF_PEND t.unit
  else { s with cal := { s.cal with device := Store.put 0 s.cal.device t.offset v } }

/-- R498: a target takes a value, in the working set and where it is in use. -/
def applyTarget (s : State) (t : CalTarget) (v v2 : Nat) : State :=
  let s := s.writeTable t v v2
  if t.tgt = 1 then (s.targetSlots t).foldl (fun s k => s.profileToSlot k t.offset v) s else s

/-! ### Pending entries (R498 to R501) -/

/-- The pending entries replaced: RAMP_PEND, with line 218 as it reaches 0; a context with nothing left to apply is idle. -/
def setRamps (s : State) (l : List CalRamp) : State :=
  let was := s.rd R.RAMP_PEND
  let now := (l.filter fun e => e.ramp).length
  let s := ({ s with cal := { s.cal with ramps := l } }).wr R.RAMP_PEND now
  let s := if was ≠ 0 ∧ now = 0 then s.raise 218 else s
  (List.range 4).foldl (fun s k =>
    if s.rd (R.RUN_STATE k) == 3 && !(l.any fun e => e.run == some k) then s.wr (R.RUN_STATE k) 0 else s) s

/-- R499, R501: a word takes a value: at its next boundaries, after a ramp of it that still runs has jumped to its end; at once in
the table where its consumer does not run. -/
def queueValue (s : State) (run : Option Nat) (ramp : Bool) (t : CalTarget) (v v2 : Nat) : State :=
  if !s.consumerRuns t then (s.applyTarget t v v2).blockWrote
  else
    let before := s.cal.ramps.map fun e => if e.target = t then { e with step := e.steps - 1 } else e
    let last := (before.filter fun e => decide (e.target = t)).getLast?
    let from_ := match last with
      | some e => (e.new, e.new2)
      | none => s.targetValue t
    let ramp := ramp && !stepOnly t
    s.setRamps (before ++ [{ target := t, old := from_.1, old2 := from_.2, new := v, new2 := v2
                             steps := if ramp then s.rd R.RAMP_STEPS else 1, ramp := ramp, run := run }])

/-- The entry at `i`, where it is the first of its target. -/
def rampAt (s : State) (i : Nat) : Option CalRamp := match s.cal.ramps[i]? with
  | some e => if (s.cal.ramps.take i).any fun x => decide (x.target = e.target) then none else some e
  | none => none

/-- R498: a word sent in ASD frames waits until its slots' write gates are off. -/
def boundaryOk (s : State) (t : CalTarget) : Bool :=
  !(t.tgt == 1 && (t.offset == 7 || t.offset == 24 || t.offset == 26))
    || (s.targetSlots t).all fun k => !s.bitAt (R.WG_ON (k / 2)) (k % 2)

/-- R499: the entry at `i` takes its next step. -/
def rampStep (s : State) (i : Nat) : State := match s.rampAt i with
  | none => s
  | some e =>
    if !s.boundaryOk e.target then s
    else if e.steps ≤ e.step + 1 then
      (s.applyTarget e.target e.new e.new2).blockWrote.setRamps (s.cal.ramps.eraseIdx i)
    else
      let (r, s) := s.free
      let s := s.applyTarget e.target (rampWord e.target e.old e.new (e.step + 1) e.steps r) e.old2
      s.blockWrote.setRamps (s.cal.ramps.set i { e with step := e.step + 1 })

/-- R500: the entry at `i` takes its final value at its next boundary, or in the table alone. -/
def rampFallback (s : State) (i : Nat) : State := match s.rampAt i with
  | none => s
  | some e =>
    if !e.ramp then s
    else
      let s := s.count R.RAMP_FALLBACK_CNT
      if s.consumerRuns e.target then s.setRamps (s.cal.ramps.set i { e with step := e.steps - 1 })
      else (s.applyTarget e.target e.new e.new2).blockWrote.setRamps (s.cal.ramps.eraseIdx i)

/-- R501: a firmware write ends a ramp of the word. -/
def cancelRamp (s : State) (t : CalTarget) : State :=
  if s.cal.ramps.any fun e => decide (e.target = t) && e.ramp then
    (s.setRamps (s.cal.ramps.filter fun e => !(decide (e.target = t) && e.ramp))).wr R.RAMP_CANCEL 1
  else s

/-- R494, R501: a firmware write of a profile, assist or head word: a trial value where it is in a running run's targets. -/
def firmwareWord (s : State) (t : CalTarget) (v : Nat) : State :=
  let v := v &&& targetMask t
  let k := (List.range 4).find? fun k => s.rd (R.RUN_STATE k) == 1 && inTargets (Store.get {} s.cal.runs k) t
  match k with
  | none => ((s.cancelRamp t).writeTable t v 0).setDirty
  | some k =>
    let r : CalRun := Store.get {} s.cal.runs k
    if r.trials.any fun e => decide (e.1 = t) then (s.cancelRamp t).writeTable t v 0
    else if 256 ≤ r.trials.length then s.wr (R.TRIAL_OVF k) 1
    else
      let note := fun (x : CalRun) => { x with trials := x.trials ++ [(t, (s.targetValue t).1)] }
      let s := { s with cal := { s.cal with runs := Store.modify {} s.cal.runs k note } }
      (s.cancelRamp t).writeTable t v 0

/-! ### Runs (R491 to R495) -/

/-- R492: FSQ of the run's actuator runs an operation of type 6 on slot `h`. -/
def calOpOn (s : State) (n h : Nat) : Bool := match s.opDesc n with
  | some d => d.opType == 6 && d.slotMask.testBit h
  | none => false

/-- R492: condition `c` of a run fails. -/
def violated (s : State) (r : CalRun) (c : Nat) : Bool :=
  let n := (runActuator r).getD 0
  let hs := runSlots r
  let temp := signed 16 (s.rd R.THM_MAX)
  if c = 1 then hs.any fun h => s.calOpOn n h && s.rd (R.SV_MODE n) == 4
    && decide (256 * s.rd R.CAL_ONTRK_LIM < (loopOf (s.servo n) h).y.natAbs)
  else if c = 2 then hs.any fun h => s.calOpOn n h
    && !Config.calBand (((s.slot (2 * n + h)).head).getD 0) (loopOf (s.servo n) h).target
  else if c = 3 then
    decide (temp < 16 * signed 8 (s.rd R.CAL_TMIN)) || decide (16 * signed 8 (s.rd R.CAL_TMAX) < temp)
  else if c = 4 then hs.any fun h => !s.slotStable (2 * n + h)
  else if c = 5 then hs.any fun h => !s.slotReady (2 * n + h)
  else if c = 6 then !s.flag R.SPM_AT_SPEED
  else if c = 7 then s.flag R.SHOCK_HOLD
  else if c = 8 then hs.any fun h =>
    let held := if h = 0 then r.head0 else r.head1
    held.isNone || (s.slot (2 * n + h)).head != held
  else if c = 9 then s.rd R.THR_LEVEL != 0
  else if c = 10 then s.rd R.VOTERS != 3
  else if c = 11 then s.rd R.PSTATE_NOW != 0 || s.flag R.PSTATE_BUSY
  else false

/-- R493: the conditions in force that are judged now and fail, as a mask. -/
def violations (s : State) (k judged : Nat) : Nat :=
  let r : CalRun := Store.get {} s.cal.runs k
  (List.range 12).foldl (fun m c =>
    if judged.testBit c && s.bitAt (R.PRE_ACTIVE k) c && s.violated r c then setBit m c else m) 0

/-- R493, R495, R502: the history of a run's type and unit changed. -/
def modHistory (s : State) (r : CalRun) (f : Nat × Nat × Nat → Nat × Nat × Nat) : State :=
  ({ s with cal := { s.cal with history := Store.modify (0, 0, 0) s.cal.history (32 * r.type + r.unit) f } }).setDirty

/-- R493 to R495: a run ends without OK: its aborted count, and its trial values restored at their boundaries. -/
def endRun (s : State) (k result mask : Nat) : State :=
  let r : CalRun := Store.get {} s.cal.runs k
  let low := ((List.range 12).find? fun c => mask.testBit c).getD 0
  let s := ((s.wr (R.RUN_STATE k) 0).wr (R.RUN_RESULT k) result).wr (R.PRE_ACTIVE k) 0
  let s := (s.wr (R.RUN_VIOL k) low).wr (R.VIOL_MASK k) mask
  let s := s.modHistory r fun h => (h.1, min (2 ^ 32 - 1) (h.2.1 + 1), h.2.2)
  let s := r.trials.foldl (fun s e => s.queueValue none false e.1 e.2 0) s
  { s with cal := { s.cal with runs := s.cal.runs.erase k } }

/-- R493: a run aborts for the violations of `mask`. -/
def abortRun (s : State) (k mask : Nat) : State := (s.endRun k 2 mask).raise 217

/-- R491: RUN_START is refused. -/
def refuses (s : State) (k : Nat) (r : CalRun) : Bool :=
  s.rd (R.RUN_STATE k) != 0 || r.type == 0 || decide (9 < r.type) || !unitOk r.type r.unit
    || (List.range 4).any fun j => j != k && match s.calRun j with
      | some x => runsClash r x
      | none => false

/-- Run `k` ends where a precondition does not hold. -/
def checkRun (s : State) (k : Nat) : State :=
  let v := s.violations k 0xFFF
  if v ≠ 0 then s.abortRun k v else s

/-- A run accepted in slot `k`: it takes its preconditions and begins, and ends at once where one does not hold. -/
def runBegin (s : State) (k : Nat) (r : CalRun) : State :=
  let s := { s with cal := { s.cal with runs := Store.put {} s.cal.runs k r } }
  let s := s.wr (R.PRE_ACTIVE k) (mandatory r.type ||| s.rd (R.PRE_EXTRA k))
  let s := ((s.wr (R.RUN_RESULT k) 0).wr (R.RUN_VIOL k) 0).wr (R.VIOL_MASK k) 0
  (s.wr (R.RUN_STATE k) 1).checkRun k

/-- R491 to R493: RUN_START of context `k`, with the type, unit and slot of the same write. -/
def runStart (s : State) (k type unit slot : Nat) : State :=
  let s := ((s.wr (R.RUN_TYPE k) type).wr (R.RUN_UNIT k) unit).wr (R.RUN_SLOT k) slot
  let n := (runActuator { type := type, unit := unit }).getD 0
  let r : CalRun := { type := type, unit := unit, slot := slot, head0 := (s.slot (2 * n)).head, head1 := (s.slot (2 * n + 1)).head }
  if s.refuses k r then s.wr (R.RUN_RESULT k) 6 else s.runBegin k r

/-- R493: what a cycle's judging makes of a run that is running or validating, else `go`. -/
def judged (s : State) (k codes : Nat) (go : State → State) : State :=
  if (s.calRun k).isNone then s
  else
    let v := s.violations k codes
    if v ≠ 0 then s.abortRun k v else go s

/-- R495: the entries of context `k`'s apply list. -/
def applyList (s : State) (k : Nat) : List ListEntry :=
  let a := s.rd (R.LIST_ADDR_LO k) + 2 ^ 32 * s.rd (R.LIST_ADDR_HI k)
  (List.range (s.rd (R.LIST_N k))).map fun i => parseEntry (s.dramBytes (a + 16 * i) 16)

/-- R495: the apply list lies in DRAM. -/
def listInDram (s : State) (k : Nat) : Bool :=
  let a := s.rd (R.LIST_ADDR_LO k) + 2 ^ 32 * s.rd (R.LIST_ADDR_HI k)
  s.rd (R.LIST_N k) == 0 || (decide (0x800000000 ≤ a) && decide (a + 16 * s.rd (R.LIST_N k) ≤ 0x1000000000))

/-- R495: validation ends. -/
def validated (s : State) (k : Nat) : State :=
  let r : CalRun := Store.get {} s.cal.runs k
  let l := s.applyList k
  if !(s.listInDram k && l.all entryOk) then s.endRun k 5 0
  else if !(l.all fun e => inTargets r e.target) then s.endRun k 4 0
  else
    let t := s.calMs / 1000 % 2 ^ 32
    let s := s.modHistory r fun h => (min (2 ^ 32 - 1) (h.1 + 1), h.2.1, t)
    let s := { s with cal := { s.cal with runs := s.cal.runs.erase k } }
    let s := ((s.wr (R.RUN_RESULT k) 1).wr (R.RUN_STATE k) 3).wr (R.PRE_ACTIVE k) 0
    let s := l.foldl (fun s e => s.queueValue (some k) (e.cls == 1) e.target e.value e.value2) s
    (s.setRamps s.cal.ramps).raise 216

/-- R511: an access of the profile word at TBL_ADDR, which then advances. -/
def tblAccess (s : State) (w : Option Nat) : State :=
  let a := s.rd R.TBL_ADDR / 4
  let t : CalTarget := ⟨1, a / 2048, a / 32 % 64, a % 32⟩
  let s := match w with
    | some v => s.firmwareWord t v
    | none => s.emit (.read R.TBL_DATA.addr (s.targetValue t).1)
  s.wr R.TBL_ADDR (4 * (a + 1))

/-! ### Banks (R502 to R505) -/

/-- A word of a set. -/
def setWord (c : CalSet) (t : CalTarget) (v v2 : Nat) : CalSet :=
  if t.tgt = 1 then { c with profile := Store.put 0 c.profile (32 * (64 * t.unit + t.zone) + t.offset) v }
  else if t.tgt = 2 then { c with assist := Store.put 0 c.assist (64 * t.unit + t.zone) v }
  else if t.tgt = 3 then { c with heads := Store.put 0x1000 c.heads t.unit v }
  else if t.tgt = 4 then
    { c with coef := Store.put 0 (Store.put 0 c.coef (1024 * t.unit + 2 * t.offset) v) (1024 * t.unit + 2 * t.offset + 1) v2 }
  else { c with device := Store.put 0 c.device t.offset v }

/-- The listed words of the registers from `lo` to `hi`, by index. -/
def regWords (m : Store Word) (lo hi : Nat) : Store Nat :=
  (m.filter fun e => decide (lo ≤ e.1) && decide (e.1 ≤ hi)).map fun e => ((e.1 - lo) / 4, e.2.toNat)

/-- The first addresses of the assist table, the head words and the coefficients. -/
def tblLo : Nat := (R.ASST_BASE 0 0).addr
/-- See `tblLo`. -/
def headLo : Nat := (R.AGE_GAIN 0).addr
/-- See `tblLo`. -/
def coefLo : Nat := 0x40301000

/-- R494, R503: the working set as a store takes it: a ramping value at its end, a trial value as it was before the trial. -/
def snapshot (s : State) : CalSet :=
  let c : CalSet :=
    { profile := s.cal.profile, assist := regWords s.regs tblLo (tblLo + 0x1FFC)
      heads := (List.range 32).foldl (fun m j => Store.put 0x1000 m j (s.targetValue ⟨3, j, 0, 0⟩).1) []
      coef := regWords s.svt.coef coefLo (coefLo + 0x3FFC), device := s.cal.device, history := s.cal.history
      format := s.cal.format }
  let c := s.cal.runs.foldl (fun c e => e.2.trials.foldl (fun c t => setWord c t.1 t.2 0) c) c
  s.cal.ramps.foldl (fun c e => setWord c e.target e.new e.new2) c

/-- The bytes of a number. -/
def byteLen (v : Nat) : Nat := if v = 0 then 0 else v.log2 / 8 + 1

/-- R502: the length of a set: its header and every record, each with its own header and padding. -/
def setLength (c : CalSet) : Nat :=
  64 + 2048 * 144 + 32 * 272 + 32 * 32 + 4 * 4112 + 4368 + 173 * 32 + 16 + 16 * ceilDiv (byteLen c.format) 16

/-- R502: sequence `a` is higher than `b`. -/
def seqHigher (a b : Nat) : Bool :=
  let d := (a + 2 ^ 32 - b) % 2 ^ 32
  decide (1 ≤ d) && decide (d < 2 ^ 31)

/-- R503: the higher valid sequence of the two banks. -/
def higherSeq (s : State) : Option Nat := match s.nv.bankA, s.nv.bankB with
  | some a, some b => some (if seqHigher b.seq a.seq then b.seq else a.seq)
  | some a, none => some a.seq
  | none, some b => some b.seq
  | none, none => none

/-- A bank's contents: none without a valid commit. -/
def setBankOf (s : State) (b : Nat) (c : Option CalBank) : State :=
  if b = 0 then { s with nv := { s.nv with bankA := c } } else { s with nv := { s.nv with bankB := c } }

/-- R503: a store starts: the snapshot, and the other bank's commit sector erased. Where no bank is valid the new sequence is
free. -/
def storeStart (s : State) : State :=
  let (r, s) := if (s.higherSeq).isNone then s.free else (0, s)
  let seq := match s.higherSeq with
    | some q => (q + 1) % 2 ^ 32
    | none => r % 2 ^ 32
  let b := 1 - s.rd R.ACTIVE_BANK
  let x : CalStore := { set := s.snapshot, seq := seq, bank := b }
  (({ s with cal := { s.cal with store := some x } }).setBankOf b none).wr R.STORE_BUSY 1

/-- R503: STORE_BUF names 64 MiB of DRAM. -/
def storeBufOk (s : State) : Bool :=
  let a := s.rd R.STORE_BUF_LO + 2 ^ 32 * s.rd R.STORE_BUF_HI
  decide (0x800000000 ≤ a) && decide (a + 0x4000000 ≤ 0x1000000000)

/-- R503, R504: STORE_GO. -/
def storeGo (s : State) : State :=
  if s.flag R.PF_ACTIVE then s
  else if s.flag R.STORE_BUSY then s.wr R.STORE_AGAIN 1
  else if !s.storeBufOk then s.wr R.STORE_FAIL 1
  else s.storeStart

/-- R504: one further store follows where STORE_AGAIN is set. -/
def storeAgain (s : State) : State :=
  if s.flag R.STORE_AGAIN then
    let s := s.wr R.STORE_AGAIN 0
    if s.storeBufOk then s.storeStart else s.wr R.STORE_FAIL 1
  else s

/-- R503, R504: a store ends, with its commit word or with a read-back mismatch. -/
def storeEnd (s : State) (ok : Bool) : State := match s.cal.store with
  | none => s
  | some x =>
    let s := ({ s with cal := { s.cal with store := none } }).wr R.STORE_BUSY 0
    if ok then
      let len := setLength x.set
      let s := s.setBankOf x.bank (some ⟨x.seq, x.set, len⟩)
      let s := ((s.wr R.ACTIVE_BANK x.bank).wr R.ACTIVE_SEQ x.seq).wr R.SET_4K (ceilDiv len 4096)
      let s := if x.changed then s else s.wr R.SET_DIRTY 0
      ((s.count R.STORE_CNT).raise 219).storeAgain
    else (((s.wr R.STORE_FAIL 1).count R.STORE_FAIL_CNT).raise 220).storeAgain

/-- R505: the part of a set whose records pass. -/
def passing (c : CalSet) (failed : List CalRecord) : CalSet :=
  let bad := fun (t u z : Nat) => failed.any fun r => r.type.val == t && r.unit.val == u && r.zone.val == z
  { profile := c.profile.filter fun e => !bad 1 (e.1 / 2048) (e.1 / 32 % 64)
    assist := c.assist.filter fun e => !bad 2 (e.1 / 64) 0
    heads := c.heads.filter fun e => !bad 3 e.1 0
    coef := c.coef.filter fun e => !bad 4 (e.1 / 1024) 0
    device := if bad 5 0 0 then [] else c.device
    history := c.history.filter fun e => !bad 6 (e.1 % 32) (e.1 / 32)
    format := if bad 7 0 0 then 0 else c.format }

/-- R505: a set becomes the working set. -/
def takeSet (s : State) (c : CalSet) : State :=
  let s := { s with cal := { s.cal with profile := c.profile, device := c.device, history := c.history, format := c.format } }
  let s := ((s.resetRange tblLo (tblLo + 0x1FFC)).resetRange headLo (headLo + 0x7C)).resetRange coefLo (coefLo + 0x3FFC)
  let s := c.assist.foldl (fun s e => s.writeTable ⟨2, e.1 / 64, e.1 % 64, 0⟩ e.2 0) s
  let s := c.heads.foldl (fun s e => s.writeTable ⟨3, e.1, 0, 0⟩ e.2 0) s
  let s := c.coef.foldl (fun s e =>
    if e.1 % 2 = 0 then s.wr (R.COEF_VALUE (e.1 / 1024) (e.1 % 1024 / 2)) e.2
    else s.wr (R.COEF_SHIFT (e.1 / 1024) (e.1 % 1024 / 2)) e.2) s
  actuators.foldl (fun s n => s.applyCoef n) s

/-- R505: a bank loaded, with its place and sequence shown. -/
def loadBank (s : State) (b : Nat) (x : CalBank) (failed : List CalRecord) : State :=
  let s := ((s.wr R.ACTIVE_BANK b).wr R.ACTIVE_SEQ x.seq).wr R.SET_4K (ceilDiv x.len 4096)
  s.takeSet (passing x.set failed)

/-- R505: CAL loads its set; the records of each bank that fail are given. -/
def calLoad (s : State) (failedA failedB : List CalRecord) : State :=
  let a := s.nv.bankA.map fun x => (0, x, failedA)
  let b := s.nv.bankB.map fun x => (1, x, failedB)
  let (hi, lo) := match a, b with
    | some p, some q => if seqHigher q.2.1.seq p.2.1.seq then (some q, some p) else (some p, some q)
    | some p, none => (some p, none)
    | none, q => (q, none)
  let s := match hi, lo with
    | none, _ => (s.takeSet {}).wr R.SET_DAMAGED 1
    | some p, none =>
      let s := s.loadBank p.1 p.2.1 p.2.2
      if p.2.2.isEmpty then s else s.wr R.SET_DAMAGED 1
    | some p, some q =>
      if p.2.2.isEmpty then s.loadBank p.1 p.2.1 []
      else if q.2.2.isEmpty then (s.loadBank q.1 q.2.1 []).wr R.CAL_FALLBACK 1
      else (s.loadBank p.1 p.2.1 p.2.2).wr R.SET_DAMAGED 1
  (s.wr R.CAL_LOADED 1).raise 221

/-- R504: the NOR arbiter's grant among the CAL store (0), the Tally archive (1) and firmware (2). -/
def norGrant (s : State) (requests : Nat) : State :=
  let l := [0, 1, 2].filter fun p => requests.testBit p && (p != 0 || s.cal.store.isSome)
  match tokenGrant 3 (s.rd R.NOR_TOKEN) l with
  | some p => ({ s with cal := { s.cal with norGranted := some p } }).wr R.NOR_TOKEN ((p + 1) % 3)
  | none => s

end State

/-! ### The commands -/

/-- RUN_START (R491 to R493). -/
def execRunStart (k : Fin 4) (type : BitVec 4) (unit : BitVec 5) (slot : Bool) (s : State) : Result :=
  .next (s.access (R.RUN_START k.val) fun s => s.runStart k.val type.toNat unit.toNat (ofBool slot))

/-- RUN_PRECONDITION_VIOLATION (R492, R493): the conditions of the mask are judged. -/
def execRunPreconditionViolation (k : Fin 4) (judged : BitVec 12) (s : State) : Result :=
  .next (s.judged k.val judged.toNat fun s => s)

/-- RUN_CANCEL (R493); a violation of the same cycle prevails. -/
def execRunCancel (k : Fin 4) (judged : BitVec 12) (s : State) : Result :=
  .next (s.access (R.RUN_CANCEL k.val) fun s => s.judged k.val judged.toNat fun s => (s.endRun k.val 3 0).raise 217)

/-- RUN_FINISH (R493, R495); a violation of the same cycle prevails. -/
def execRunFinish (k : Fin 4) (judged : BitVec 12) (s : State) : Result :=
  .next (s.access (R.RUN_FINISH k.val) fun s => s.judged k.val judged.toNat fun s => s.wr (R.RUN_STATE k.val) 2)

/-- RUN_VALIDATION_COMPLETE (R495 to R499). -/
def execRunValidationComplete (k : Fin 4) (judged : BitVec 12) (s : State) : Result :=
  .next (if s.rd (R.RUN_STATE k.val) = 2 then s.judged k.val judged.toNat fun s => s.validated k.val else s)

/-- TBL_DATA_ACCESS (R494, R497, R501, R511): a write of the value, or a read. -/
def execTblDataAccess (write : Option (BitVec 32)) (s : State) : Result :=
  .next (match write with
    | some v => s.access R.TBL_DATA fun s => s.tblAccess (some v.toNat)
    | none => s.accessRead R.TBL_DATA fun s => s.tblAccess none)

/-- RAMP_STEP (R498, R499, R501). -/
def execRampStep (entry : BitVec 13) (s : State) : Result := .next (s.rampStep entry.toNat)

/-- RAMP_FALLBACK (R500). -/
def execRampFallback (entry : BitVec 13) (s : State) : Result := .next (s.rampFallback entry.toNat)

/-- STORE_GO (R503, R504). -/
def execStoreGo (s : State) : Result := .next (s.access R.STORE_GO State.storeGo)

/-- CAL_STORE_COMMIT (R503, R504): the read-back passed, or not. -/
def execCalStoreCommit (ok : Bool) (s : State) : Result := .next (s.storeEnd ok)

/-- CAL_LOAD (R505), once firmware has been entered. -/
def execCalLoad (failedA failedB : List CalRecord) (s : State) : Result :=
  .next (if s.firmwareRuns && !s.flag R.CAL_LOADED then s.calLoad failedA failedB else s)

/-- NOR_GRANT (R504). -/
def execNorGrant (requests : BitVec 3) (s : State) : Result := .next (s.norGrant requests.toNat)

end Sys2Proof.Machine
end

