-- ==== Sys2Proof/Machine/Faults.lean ====
section
/-!
DEFINITION. Machine/Faults.lean: the commands of the fault collection unit, its PIP generator and its watchdog
(chapter 17).
-/
namespace Sys2Proof.Machine

open Arith

/-- R583: the code of a step. -/
def stepCode : ShadowStep → Nat
  | .w => 1
  | .a => 2
  | .r => 3
  | .t => 4

namespace State

/-- A shadow closed. -/
def closeShadow (s : State) (code n : Nat) : State :=
  { s with fcu := { s.fcu with shadows := s.fcu.shadows.filter fun sh => !(sh.code == code && sh.actuator == n) } }

/-- The shadow of step `code` on actuator `n` is open. -/
def shadowOpen (s : State) (code n : Nat) : Bool :=
  s.fcu.shadows.any fun sh => sh.code == code && sh.actuator == n

/-- R582: window `k` may close: no shadow of it is open, every actuator its reactions retracted is parked, and its record
did not take step F. -/
def windowDone (s : State) (w : FaultWindow) : Bool :=
  !w.fatal && !(s.fcu.shadows.any fun sh => sh.window == some w.k)
    && actuators.all fun n => !w.retracted.testBit n || s.flag (R.PARKED n)

/-- R579: the head record removed. -/
def popRecord (s : State) : State := ({ s with fcu := { s.fcu with queue := s.fcu.queue.tail } }).setQCount

/-- R578: the holds of `mask` released, where no window of their scope is open and FATAL reads 0. -/
def releaseHolds (s : State) (mask : Nat) : State :=
  actuators.foldl (fun s n =>
    if mask.testBit n && (s.window n).isNone && (s.window 4).isNone && !s.flag R.FATAL then
      (s.clrBitAt R.ACT_HOLD n).wrFlag (R.ACT_DRAINED n) (s.bitAt R.DRAIN_REQ n) else s) s

/-- R588: the watchdog interval has lasted WDOG_MS: source 385, and the interval has run out. -/
def watchdogFire (s : State) : State := ({ s with fcu := { s.fcu with wdogRunning := false } }).detect 385

/-- R593, R7: a write of WDOG_MS as clamped. -/
def wdogMs (v : Nat) : Nat := clamp 10 60000 v

end State

/-- FAULT_DETECTION (R570 to R587): the detections of one cycle, each with its word where the source is 96 or 97. -/
def execFaultDetection (sources : List (Fin 512 × BitVec 32)) (s : State) : Result :=
  .next (s.detectAll (sources.map fun p => (p.1.val, p.2.toNat)))

/-- SHADOW_READY (R583). -/
def execShadowReady (step : ShadowStep) (n : Fin 4) (s : State) : Result :=
  .next (s.closeShadow (stepCode step) n.val)

/-- SHADOW_TIMEOUT (R583, R591). -/
def execShadowTimeout (step : ShadowStep) (n : Fin 4) (s : State) : Result :=
  .next (if s.shadowOpen (stepCode step) n.val then
    ((s.closeShadow (stepCode step) n.val).raise 179).detect 386 (stepCode step + 8 * n.val) else s)

/-- WINDOW_CLOSE (R582): the window's last moment has come. -/
def execWindowClose (k : Fin 5) (s : State) : Result :=
  .next (match s.window k.val with
    | some w =>
      if s.windowDone w then
        ({ s with fcu := { s.fcu with windows := s.fcu.windows.filter fun w => w.k != k.val } }).raise 181
      else s
    | none => s)

/-- Q_POP (R579); ignored while the queue is empty. -/
def execQPop (s : State) : Result := .next (s.access R.Q_POP State.popRecord)

/-- ACT_HOLD_RELEASE (R578): `held` are the actuators a new hold reaches in the same cycle, which prevails. -/
def execActHoldRelease (mask : BitVec 4) (held : BitVec 4) (s : State) : Result :=
  .next (s.access R.ACT_HOLD fun s =>
    let s := s.releaseHolds mask.toNat
    actuators.foldl (fun s n => if held.toNat.testBit n then s.holdAct n else s) s)

/-- FATAL_RESET_TIMER (R586). -/
def execFatalResetTimer (s : State) : Result :=
  .next (if s.flag R.FATAL && s.flag R.FATAL_RESET && decide (s.rd R.FATAL_RST_CNT < s.rd R.FATAL_RST_MAX)
      && !s.flag R.PF_ACTIVE then
    (s.wr R.FATAL_RST_CNT (s.rd R.FATAL_RST_CNT + 1)).deviceReset R.RC_FCU else s)

/-- PIP_TOGGLE (R587): the half-period ends; the phase count advances by 48 modulo 125, and the next half-period has 17
ticks when that wraps. -/
def execPipToggle (s : State) : Result :=
  .next (if s.flag R.PIP_RUN then
    let p := s.fcu.pipPhase + 48
    let s := { s with fcu := { s.fcu with pipPhase := p % 125, pipTicks := if 125 ≤ p then 17 else 16 } }
    s.wrFlag R.PIP_LEVEL (!s.flag R.PIP_LEVEL) else s)

/-- WDOG_EN (R588): the write that sets it starts the interval; a later one changes nothing. -/
def execWdogEn (s : State) : Result :=
  .next (s.access R.WDOG_EN fun s =>
    if s.flag R.WDOG_EN then s else ({ s with fcu := { s.fcu with wdogRunning := true } }).wr R.WDOG_EN 1)

/-- WDOG_KICK (R588); without WDOG_EN it has no effect. -/
def execWdogKick (s : State) : Result :=
  .next (s.access R.WDOG_KICK fun s =>
    if s.flag R.WDOG_EN then { s with fcu := { s.fcu with wdogRunning := true } } else s)

/-- WDOG_MS_WRITE (R588): applies at once to the running interval, which has lasted `elapsedMs`. -/
def execWdogMsWrite (ms : BitVec 16) (elapsedMs : BitVec 16) (s : State) : Result :=
  .next (s.access R.WDOG_MS fun s =>
    let s := s.wr R.WDOG_MS (State.wdogMs ms.toNat)
    if s.flag R.WDOG_EN && s.fcu.wdogRunning && decide (s.rd R.WDOG_MS ≤ elapsedMs.toNat) then s.watchdogFire else s)

/-- WATCHDOG_EXPIRY (R588): a kick in the cycle of expiry prevails. -/
def execWatchdogExpiry (kick : Bool) (s : State) : Result :=
  .next (if s.flag R.WDOG_EN && s.fcu.wdogRunning && !kick then s.watchdogFire else s)

/-- EXT_RETRACT_REQUEST (R589): one low level is one detection; in Sleep the device first wakes (R101). -/
def execExtRetractRequest (s : State) : Result :=
  .next (if s.flag R.EXT_RETRACT then s
    else
      let s := if s.rd R.PSTATE_NOW = 5 then
          ({ s with dom := { s.dom with core := true, hphy := 0x3F, dram := true } }).wr R.PSTATE_NOW 4
        else s
      let s := { s with pins := { s.pins with retractReqN := false } }
      ((s.wr R.EXT_RETRACT 1).raise 180).detect 384)

/-- EXT_RETRACT_END (R589): heads stay parked and the holds stay in force. -/
def execExtRetractEnd (s : State) : Result :=
  .next (({ s with pins := { s.pins with retractReqN := true } }).wr R.EXT_RETRACT 0)

/-- FCU_CNT_CLR (R592). -/
def execFcuCntClr (s : State) : Result :=
  .next (s.access R.FCU_CNT_CLR fun s =>
    (List.range 512).foldl (fun s i => s.wr (R.SRC_CNT i) 0) (s.wr R.LOST_CNT 0))

end Sys2Proof.Machine
end

