-- ==== Sys2Proof/Machine/Live.lean ====
section
/-!
DEFINITION. Machine/Live.lean: draining an actuator, activating firmware without reset, the perturbation test, the JTAG TAP and
the cohort (chapter 20).
-/
namespace Sys2Proof.Machine

open Arith

namespace State

/-! ### Drain (R659, R660) -/

/-- R659, R660: DRAIN_REQ written. -/
def drainRequest (s : State) (req : Nat) : State :=
  let s := s.wr R.DRAIN_REQ req
  actuators.foldl (fun s n =>
    let s := if req.testBit n then s else s.clrBitAt R.DRAIN_DONE n
    s.wrFlag (R.ACT_DRAINED n) (req.testBit n || s.bitAt R.ACT_HOLD n)) s

/-! ### Activation (R663 to R666) -/

/-- R663: an ACTV_GO is ignored; `overlaps` where the load region overlaps the staging buffer. -/
def activationRefused (s : State) (overlaps : Bool) : Bool :=
  s.boot.activation.isNone || s.rd R.ACTV_STATE != 0 || s.flag R.FATAL || s.flag R.MAP_HALT || s.flag R.PF_ACTIVE || overlaps

/-- R663, R664: ACTV_GO: fetch and arrival stop, C1 to C3 halt, C0 enters the boot ROM. -/
def activationGo (s : State) (overlaps : Bool) : State :=
  if s.activationRefused overlaps then s.wr R.ACTV_CFG_ERR 1
  else
    let b := { s.boot with phase := .warm, cores := 1, hold := some (s.rd R.FCU_US) }
    (({ s with boot := b }).wr R.ACTV_STATE 1).raise 225

/-- R664: the payload is copied and its digest checked; R665: a failed check ends in a device reset. -/
def activationCopied (s : State) (damaged : Bool) : State :=
  match s.boot.activation with
  | none => s
  | some a =>
    if s.rd R.ACTV_STATE ≠ 1 then s
    else if damaged || Config.shake256 512 (payloadSize a.image) a.image.payload % 2 ^ 512 != headerField a.image 0x30 64 then
      ((s.wr R.ACTV_STATE 4).raise 227).deviceReset R.RC_SW
    else (s.loadBytes (loadAddress a.image) (payloadSize a.image) a.image.payload).wr R.ACTV_STATE 2

/-- R144, R664: the entry point is reached: the new firmware runs, and the alias key is derived again. -/
def activationEntered (s : State) : State :=
  match s.boot.activation with
  | none => s
  | some a =>
    if s.rd R.ACTV_STATE ≠ 2 then s
    else
      let s := { s with boot := { s.boot with phase := .firmware, firmware := some a.image } }
      let s := ((s.wr R.BOOT_SLOT a.slot).wr R.BOOT_KEYSLOT (keySlot a.image)).wr R.BOOT_SVN (securityVersion a.image)
      (s.wr R.ALIAS_READY 0).wr R.ACTV_STATE 3

/-- R663, R664: an entered activation is over: ACTV_STATE is 0, and the Commit's command ends. -/
def activationOver (s : State) : State :=
  if s.rd R.ACTV_STATE ≠ 3 then s
  else match s.boot.activation with
    | none => s.wr R.ACTV_STATE 0
    | some a =>
      let s := ({ s with boot := { s.boot with activation := none } }).wr R.ACTV_STATE 0
      match a.tag with
      | some t => s.finish t doneOk
      | none => s

/-- R664: the hold ends after `us` microseconds. -/
def holdEnds (s : State) (us : Nat) : State :=
  (({ s with boot := { s.boot with hold := none } }).wr R.ACTV_HOLD_US (min 131071 us)).raise 226

/-- R664: ACTV_RELEASE. -/
def activationRelease (s : State) : State :=
  match s.boot.hold with
  | some t => (s.holdEnds ((s.rd R.FCU_US + 2 ^ 32 - t) % 2 ^ 32)).activationOver
  | none => s.activationOver

/-- R664: the hold has lasted 100 ms. -/
def holdTimeout (s : State) : State := if s.boot.hold.isSome then (s.holdEnds 100000).activationOver else s

/-! ### Perturbation test (R668, R672) -/

/-- R668: the TST_PERT registers accept writes. -/
def pertWritable (s : State) : Bool := s.flag R.DBG_UNLOCKED || s.fuses.lifecycle == 0

/-- R668, R672: PERT_ARM written. -/
def pertArm (s : State) (arm : Bool) : State :=
  if !s.pertWritable || s.flag R.PERT_ARM == arm then s
  else if arm then ((s.wr R.PERT_ARM 1).raise 224).detect 457
  else (s.wr R.PERT_ARM 0).raise 224

/-! ### Boundary scan (R673 to R675) -/

/-- An instruction loaded into the TAP. -/
def loadTap (s : State) (code : Nat) : State := { s with tap := { s.tap with ir := code } }

/-- R675: EXTEST, CLAMP or HIGHZ: in effect where the spindle is stopped and every actuator parked, with the assist forced off;
else as BYPASS. -/
def loadBoundary (s : State) (code : Nat) : State :=
  if s.rd R.SPM_STATE == 0 && actuators.all fun n => s.flag (R.PARKED n) then (actuators.foldl forceAssist s).loadTap code
  else s.loadTap 0xFF

/-- R673: the identification register. -/
def idcode (s : State) : Nat := 2 ^ 28 * (s.fuses.stepping % 16) + 2 ^ 12 * 0x9640 + 2 * (Config.jedecId % 2 ^ 11) + 1

/-- R674: the covered lands the model holds, as sampled. -/
def sampleLands (s : State) : List (String × Nat) :=
  [("PERST_N", ofBool s.pins.perstN), ("BIFSEL", s.pins.bifsel), ("COHORT_MARK", ofBool s.pins.cohortMark),
   ("RETRACT_REQ_N", ofBool s.pins.retractReqN), ("PIP", s.rd R.PIP_LEVEL)]

/-! ### The cohort (R676 to R679) -/

/-- R679: COHORT_LOCK made equal to `b`; line 229 where that changes it. -/
def setCohortLock (s : State) (b : Bool) : State :=
  if s.flag R.COHORT_LOCK == b then s else (s.wrFlag R.COHORT_LOCK b).raise 229

/-- R439, R679: SPM_RPM written: the cohort lock clears, and the spindle takes the speed. -/
def speedWritten (s : State) (rpm : Nat) : State :=
  (({ s with cohort := { s.cohort with run := 0 } }).setCohortLock false).setSpeed rpm

/-- R677: COHORT_ID written. -/
def cohortId (s : State) (id : Nat) : State := (s.wr R.COHORT_ID id).wr R.COHORT_PHASE (id * 40503 % 65536)

/-- R678: an edge `elapsed` after the previous accepted one, with the revolution period `rev`, is within 1 % of its time. -/
def markInTime (s : State) (elapsed rev : Nat) : Bool :=
  let t := s.rd R.MARK_REVS * rev
  decide (99 * t ≤ 100 * elapsed) && decide (100 * elapsed ≤ 101 * t)

/-- R679: an accepted mark, its phase error read: lock after 16 marks in a row within 64, lost above 256. -/
def markAccepted (s : State) (err : Nat) : State :=
  let a := (signed 16 err).natAbs
  let run := if a ≤ 64 then min 16 (s.cohort.run + 1) else 0
  let s := ({ s with cohort := { accepted := true, run := run } }).wr R.PHASE_ERR err
  if 256 < a then s.setCohortLock false else if run = 16 then s.setCohortLock true else s

/-- R678: a rising edge of COHORT_MARK. -/
def markEdge (s : State) (elapsed rev err : Nat) : State :=
  if !s.dom.pstg || !s.flag R.COHORT_EN || !s.flag R.SPM_AT_SPEED then s
  else if !s.cohort.accepted || s.markInTime elapsed rev then s.markAccepted err
  else s.count R.MARK_REJ_CNT

/-- R678: no edge accepted for twice the expected interval. -/
def cohortLost (s : State) : State :=
  if !s.dom.pstg || !s.flag R.COHORT_EN then s
  else ((({ s with cohort := {} }).wr R.COHORT_LOST 1).setCohortLock false).raise 230

end State

/-- SPINDLE_SET_SPEED (R439, R679). -/
def execSpindleSetSpeed (rpm : BitVec 14) (s : State) : Result := .next (s.access R.SPM_RPM fun s => s.speedWritten rpm.toNat)

/-- DRAIN_REQUEST (R659, R660). -/
def execDrainRequest (req : BitVec 4) (s : State) : Result := .next (s.access R.DRAIN_REQ fun s => s.drainRequest req.toNat)

/-- ACTV_GO (R663, R664), written by C0. -/
def execActvGo (overlaps : Bool) (s : State) : Result := .next (s.access R.ACTV_GO fun s => s.activationGo overlaps)

/-- ACTV_COPY_COMPLETE (R664, R665). -/
def execActvCopyComplete (damaged : Bool) (s : State) : Result := .next (s.activationCopied damaged)

/-- ACTV_ENTRY (R664). -/
def execActvEntry (s : State) : Result := .next s.activationEntered

/-- ACTV_RELEASE (R663, R664), written by C0. -/
def execActvRelease (s : State) : Result := .next (s.access R.ACTV_RELEASE fun s => s.activationRelease)

/-- ACTV_HOLD_TIMEOUT (R664). -/
def execActvHoldTimeout (s : State) : Result := .next s.holdTimeout

/-- PERT_ARM (R668, R672). -/
def execPertArm (arm : Bool) (s : State) : Result := .next (s.access R.PERT_ARM fun s => s.pertArm arm)

/-- TAP_RESET (R117, R673, R675). -/
def execTapReset (s : State) : Result := .next { s with tap := {} }

/-- EXTEST (R673, R675): in effect, the preloaded cells drive the lands. -/
def execExtest (s : State) : Result := .next (s.loadBoundary 0)

/-- IDCODE (R673). -/
def execIdcode (s : State) : Result := .next ((s.loadTap 1).emit (.tap [("IDCODE", s.idcode)]))

/-- SAMPLE_PRELOAD (R673, R674). -/
def execSamplePreload (cells : BitVec 32) (s : State) : Result :=
  .next (({ s with tap := { ir := 2, cells := cells.toNat } }).emit (.tap s.sampleLands))

/-- CLAMP (R673, R675). -/
def execClamp (s : State) : Result := .next (s.loadBoundary 4)

/-- HIGHZ (R673, R675). -/
def execHighz (s : State) : Result := .next (s.loadBoundary 5)

/-- DEV_RESET (R117, R673): a device reset at Update-IR. -/
def execDevReset (s : State) : Result := .next ((s.loadTap 0x10).deviceReset R.RC_JTAG)

/-- DEBUG (R146, R654, R673): it acts only while TST debug access is enabled. -/
def execDebug (s : State) : Result := .next (s.loadTap (if s.flag R.DBG_UNLOCKED then 0x20 else 0xFF))

/-- BYPASS (R673): code 0xFF, and every code that no other instruction has. -/
def execBypass (code : BitVec 8) (s : State) : Result :=
  .next (s.loadTap (if [0, 1, 2, 4, 5, 0x10, 0x20].contains code.toNat then s.tap.ir else 0xFF))

/-- COHORT_ID_WRITE (R677). -/
def execCohortIdWrite (id : BitVec 12) (s : State) : Result := .next (s.access R.COHORT_ID fun s => s.cohortId id.toNat)

/-- COHORT_MARK_EDGE (R678, R679): the nanoseconds since the last accepted edge, the measured revolution period, and the phase
error read at this mark. -/
def execCohortMarkEdge (elapsed : BitVec 40) (revolution : BitVec 32) (phaseErr : BitVec 16) (s : State) : Result :=
  .next (s.markEdge elapsed.toNat revolution.toNat phaseErr.toNat)

/-- COHORT_LOST (R678, R679). -/
def execCohortLost (s : State) : Result := .next s.cohortLost

end Sys2Proof.Machine
end

