-- ==== Sys2Proof/Machine/MapCache.lean ====
section
/-!
DEFINITION. Machine/MapCache.lean: the Map Cache: lookups, updates, fills, evictions, prefetch, lock ranges, range operations
and the translation halt (chapter 08).
-/
namespace Sys2Proof.Machine

open Arith

namespace State

/-- MCA changed. -/
def modMca (s : State) (f : Mca → Mca) : State := { s with mca := f s.mca }

/-! ### Lines, sets and windows (R258 to R260) -/

/-- The set of a line. -/
def setOf (line : Nat) : Nat := line % 4096

/-- R260: the enabled window that holds a byte offset. -/
def windowOf (s : State) (addr : Nat) : Option Nat :=
  (List.range 4).find? fun k => s.flag (R.WIN_EN k) && decide (s.rd (R.WIN_BASE k) ≤ addr / 1048576)
    && decide (addr / 1048576 < s.rd (R.WIN_BASE k) + s.rd (R.WIN_SIZE k))

/-- R273: the enabled lock range that holds a line. -/
def lockRangeOf (s : State) (line : Nat) : Option Nat :=
  (List.range 8).find? fun k => s.flag (R.LOCK_EN k) && decide (s.rd (R.LOCK_LINE k) ≤ line)
    && decide (line < s.rd (R.LOCK_LINE k) + s.rd (R.LOCK_LINES k))

/-- Way `w` of a set; an unlisted way is invalid and not locked. -/
def wayAt (s : State) (set w : Nat) : McWay := (Store.get none s.mca.ways (16 * set + w)).getD { line := none }

/-- A way changed; an invalid, unlocked way is not listed. -/
def putWay (s : State) (set w : Nat) (x : McWay) : State :=
  let v := if x.line.isNone && x.lock.isNone then none else some x
  s.modMca fun m => { m with ways := Store.put none m.ways (16 * set + w) v }

/-- The way that holds a line. -/
def hitWay (s : State) (line : Nat) : Option Nat :=
  (List.range 16).find? fun w => (s.wayAt (setOf line) w).line == some line

/-- The victim cache entry that holds a line. -/
def victimOf (s : State) (line : Nat) : Option (Nat × McLine) :=
  s.mca.victims.findSome? fun e => match e.2 with
    | some v => if v.line = line then some (e.1, v) else none
    | none => none

/-- R267: the line stands in the eviction buffer. -/
def inEviction (s : State) (line : Nat) : Bool := s.mca.evicting.any fun e => e.line == line

/-- The fill in flight of a line. -/
def fillOf (s : State) (line : Nat) : Option McFill := s.mca.fills.find? fun f => f.line == line

/-! ### LOCKED_EMPTY and LOCK_RESIDENT (R275, R280, R289) -/

/-- R280: a locked way of the set holds no line. -/
def lockedEmpty (s : State) (set : Nat) : Bool :=
  (List.range 16).any fun w => let x := s.wayAt set w
    x.line.isNone && x.lock.isSome

/-- LE_BITS of a set, LE_COUNT and every LOCK_RESIDENT brought up to date; event line 59 where the bit sets. -/
def refreshSet (s : State) (set : Nat) : State :=
  let was := s.bitAt (R.LE_BITS (set / 32)) (set % 32)
  let now := s.lockedEmpty set
  let s := s.putBitAt (R.LE_BITS (set / 32)) (set % 32) now
  let s := if now && !was then (s.advance R.LE_COUNT).raise 59
    else if was && !now then s.wr R.LE_COUNT (s.rd R.LE_COUNT - 1) else s
  (List.range 8).foldl (fun s k => s.wr (R.LOCK_RESIDENT k) (s.mca.ways.filter fun e => match e.2 with
    | some x => x.line.isSome && x.lock == some k
    | none => false).length) s

/-- R280, R281: a line invalidated: a locked way stays locked and empty. -/
def invalidateWay (s : State) (set w : Nat) : State :=
  (s.putWay set w { line := none, lock := (s.wayAt set w).lock }).refreshSet set

/-! ### DRAM (R265, R266) -/

/-- A line's 128 bytes stored in DRAM. -/
def storeLine (s : State) (line data : Nat) : State :=
  ((s.writeWord (2 * line) (field data 0 512)).writeWord (2 * line + 1) (field data 512 512)).count R.MC_WB_CNT

/-- A line's 128 bytes as DMC returns them; none where they are uncorrectable or poisoned. -/
def loadLine (s : State) (line : Nat) : State × Option Nat :=
  let (s, a, x) := s.readWord (2 * line) false
  let (s, b, y) := s.readWord (2 * line + 1) false
  let bad := fun (t : DramStatus) => decide (t = .poisoned ∨ t = .uncorrectable)
  (s, if bad a || bad b then none else some (x + y * 2 ^ 512))

/-- The 8-byte entry at a byte offset in a line's data. -/
def entryAt (data addr : Nat) : Nat := field data (64 * (addr / 8 % 16)) 64

/-- A line's data with the entry at a byte offset replaced. -/
def putEntry (data addr v : Nat) : Nat := putField data (64 * (addr / 8 % 16)) 64 v

/-! ### Parity (R281, R282) -/

/-- R281: the translation halt. -/
def haltMap (s : State) (line : Nat) : State :=
  if s.flag R.MAP_HALT then s else (((s.wr R.MAP_HALT 1).wr R.MC_FAULT_LINE line).raise 58)

/-- R281: a parity error on a clean line. -/
def parityClean (s : State) : State := ((s.count R.MC_PAR_CLEAN_CNT).raise 61).detect 80

/-- R281: a parity error on a DIRTY line: while halted it is only counted. -/
def parityDirty (s : State) (line : Nat) : State :=
  if s.flag R.MAP_HALT then s.count R.MC_PAR_DIRTY_CNT else ((s.count R.MC_PAR_DIRTY_CNT).haltMap line).detect 81

/-! ### Placement and eviction (R264, R267, R274) -/

/-- The lowest-numbered way of a set that `ok` holds of. -/
def firstWay (s : State) (set : Nat) (ok : McWay → Bool) : Option Nat := (List.range 16).find? fun w => ok (s.wayAt set w)

/-- R264: the way a fill takes: an invalid way that is not locked, else the one the set's pseudo-LRU names among the unlocked
ways. The spec does not state the pseudo-LRU, but for a way a prefetch took last: the name is a free value. -/
def plainWay (s : State) (set : Nat) : Option Nat × State :=
  match s.firstWay set fun x => x.line.isNone && x.lock.isNone with
  | some w => (some w, s)
  | none =>
    let l := (List.range 16).filter fun w => (s.wayAt set w).lock.isNone
    match Store.get none s.mca.named set with
    | some w => if l.contains w then (some w, s) else (l.head?, s)
    | none => let (v, s) := s.free
      (l[v % l.length]?, s)

/-- The set is used: its pseudo-LRU names what the spec does not state. -/
def touchSet (s : State) (set : Nat) : State := s.modMca fun m => { m with named := Store.put none m.named set none }

/-- R267: a valid line leaves its way: DIRTY, it is written back; a parity error drops a clean line and halts on a DIRTY
one. -/
def evict (s : State) (set w : Nat) (upset : Bool) : State :=
  let x := s.wayAt set w
  match x.line with
  | none => s
  | some l =>
    if upset then if x.dirty then s.parityDirty l else s.parityClean
    else
      let s := if x.dirty then s.storeLine l x.data else s
      s.modMca fun m => { m with evicting := m.evicting ++ [⟨l, x.data, m.clock⟩], clock := m.clock + 1 }

/-- R267: the line may be placed: the eviction buffer has room, or no eviction is needed. -/
def evictionRoom (s : State) (set w : Nat) : Bool := (s.wayAt set w).line.isNone || decide (s.mca.evicting.length < 8)

/-- R264, R274: the way a fill of a line takes and the range it is then locked to, and whether LOCK_OVF sets. -/
def placeFor (s : State) (line : Nat) : Option (Nat × Option Nat) × Bool × State :=
  let set := setOf line
  match s.lockRangeOf line with
  | none => let r := s.plainWay set
    (r.1.map fun w => (w, none), false, r.2)
  | some k =>
    match s.firstWay set fun x => x.line.isNone && x.lock == some k with
    | some w => (some (w, some k), false, s)
    | none =>
      let locked := (List.range 16).filter fun w => (s.wayAt set w).lock.isSome
      let r := s.plainWay set
      if locked.length < 4 then (r.1.map fun w => (w, some k), false, r.2) else (r.1.map fun w => (w, none), true, r.2)

/-- LOCK_OVF set, with event line 60. -/
def lockOverflow (s : State) : State := if s.flag R.LOCK_OVF then s else (s.wr R.LOCK_OVF 1).raise 60

/-- A line installed; the second result says whether it could be (R267: a fill that needs an eviction waits for room). -/
def install (s : State) (line data : Nat) (prefetched upset : Bool) : State × Bool :=
  let set := setOf line
  let (p, ovf, t) := s.placeFor line
  match p with
  | none => (if ovf then t.lockOverflow else t, true)
  | some (w, lock) =>
    if !t.evictionRoom set w then (s, false)
    else
      let t := if ovf then t.lockOverflow else t
      let t := t.evict set w upset
      let t := t.putWay set w { line := some line, lock := lock, data := data, age := t.mca.clock, prefetched := prefetched }
      let t := t.modMca fun m => { m with clock := m.clock + 1, named := Store.put none m.named set (if prefetched then some w else none) }
      (t.refreshSet set, true)

/-! ### Requests (R262 to R268, R279) -/

/-- A lookup's answer. -/
def answerMap (s : State) (r : McReq) (data : Nat) : State :=
  if r.update.isSome then s else s.emit (.mapEntry r.tag r.addr (entryAt data r.addr))

/-- R265: a request served by the way that holds its line: an update makes it DIRTY, or goes through where it is locked. -/
def serveWay (s : State) (set w : Nat) (r : McReq) : State :=
  let x := s.wayAt set w
  let s := if x.prefetched then (s.putWay set w { x with prefetched := false }).count R.MC_PF_USED_CNT else s
  let x := s.wayAt set w
  let s := s.touchSet set
  match r.update with
  | none => s.answerMap r x.data
  | some v =>
    let d := putEntry x.data r.addr v
    if x.lock.isSome then (s.putWay set w { x with data := d }).storeLine (r.addr / 128) d
    else s.putWay set w { x with data := d, dirty := true }

/-- A miss: the line's fill is joined or issued; with no fill buffer free the request waits. -/
def miss (s : State) (r : McReq) : State :=
  let line := r.addr / 128
  match s.fillOf line with
  | some _ => s.modMca fun m => { m with fills := m.fills.map fun f =>
      if f.line = line then { f with reqs := f.reqs ++ [r], prefetch := false } else f }
  | none =>
    if s.mca.fills.length < 32 then s.modMca fun m => { m with fills := m.fills ++ [{ line := line, reqs := [r] }] }
    else s.modMca fun m => { m with noBuffer := m.noBuffer ++ [r] }

/-- R267: a recall of a victim entry: the line is reinstalled clean and the entry freed. -/
def recallLine (s : State) (i : Nat) (v : McLine) (r : McReq) (upset : Bool) : State :=
  let gone := s.modMca fun m => { m with victims := Store.put none m.victims i none }
  if upset then (gone.parityClean).miss r
  else
    let (t, ok) := gone.install v.line v.data false false
    if !ok then s.modMca fun m => { m with noBuffer := m.noBuffer ++ [r] }
    else
      let t := t.count R.MC_RECALL_CNT
      match t.hitWay v.line with
      | some w => t.serveWay (setOf v.line) w r
      | none =>
        match r.update with
        | none => t.answerMap r v.data
        | some x => t.storeLine v.line (putEntry v.data r.addr x)

/-- R279: the running operation covers a line installed before it began. -/
def inRange (s : State) (line age : Nat) : Option McRange :=
  s.mca.range.filter fun r => decide (r.line ≤ line) && decide (line < r.line + r.count) && decide (age < r.start)

/-- R263, R267, R268, R279, R281: a cached request looks in the main array, the eviction buffer and the victim cache. -/
def request (s : State) (r : McReq) (upset : Bool) : State :=
  let line := r.addr / 128
  let set := setOf line
  match s.hitWay line with
  | some w =>
    let x := s.wayAt set w
    let s := s.count R.MC_HIT_CNT
    if upset then if x.dirty then (s.parityDirty line).modMca fun m => { m with halted := m.halted ++ [r] }
      else ((s.parityClean).invalidateWay set w).miss r
    else
      match s.inRange line x.age with
      | some o => if o.op = 0 then s.serveWay set w r
        else ((if o.op = 1 && x.dirty then s.storeLine line x.data else s).invalidateWay set w).miss r
      | none => s.serveWay set w r
  | none =>
    let s := s.count R.MC_MISS_CNT
    if s.inEviction line then (s.count R.MC_EVB_STALL_CNT).modMca fun m => { m with stalled := m.stalled ++ [r] }
    else match s.victimOf line with
      | some v => s.recallLine v.1 v.2 r upset
      | none => s.miss r

/-- R260: a request outside every enabled window goes to DRAM. -/
def uncached (s : State) (r : McReq) : State :=
  match r.update with
  | some v => (s.mergeWord (r.addr / 64) (0xFF * 2 ^ (r.addr / 8 % 8 * 8)) (v * 2 ^ (64 * (r.addr / 8 % 8)))).1
  | none =>
    let (s, st, d) := s.readWord (r.addr / 64) false
    if st = .poisoned ∨ st = .uncorrectable then s else s.emit (.mapEntry r.tag r.addr (field d (64 * (r.addr / 8 % 8)) 64))

/-- R262: the pipeline grants position `p` where the others of its cycle stand after it. -/
def granted (s : State) (p : Nat) (others : List (Fin 3)) : Bool :=
  tokenGrant 3 (s.rd R.PIPE_TOKEN) (p :: others.map fun i => i.val) == some p

/-- The Map Cache takes requests: it is initialised, and the MTU is not halted (R282). -/
def mcaRuns (s : State) : Bool := s.mtuRuns && s.flag R.CACHE_INIT_DONE && s.dom.dram

/-- A grant of position `p`. -/
def grantPipe (s : State) (p : Nat) : State := s.wr R.PIPE_TOKEN ((p + 1) % 3)

/-- A granted request of the MTU. -/
def mapRequest (s : State) (r : McReq) (upset : Bool) : State :=
  if (s.windowOf r.addr).isNone then s.uncached r else s.request r upset

/-! ### Detectors (R271, R272) -/

/-- MC_PF_TRAINED: detectors at confidence 2. -/
def countTrained (s : State) : State := s.wr R.MC_PF_TRAINED (s.mca.detectors.filter fun e => match e.2 with
  | some d => d.conf == 2
  | none => false).length

/-- R271: the detector a tag trains: its own, else a free one, else the least recently used. -/
def detectorFor (s : State) (tag : Nat) : Nat :=
  let own := s.mca.detectors.findSome? fun e => match e.2 with
    | some d => if d.tag = tag then some e.1 else none
    | none => none
  match own with
  | some i => i
  | none =>
    match (List.range 32).find? fun i => (Store.get none s.mca.detectors i).isNone with
    | some i => i
    | none =>
      let age : Nat → Nat := fun i => match Store.get none s.mca.detectors i with
        | some d => d.used
        | none => 0
      (List.range 32).foldl (fun (b i : Nat) => if Nat.blt (age i) (age b) then i else b) 0

/-- R271: a lookup of a line by a tag trains its detector. -/
def train (s : State) (tag line : Nat) : State :=
  let i := s.detectorFor tag
  let t := s.mca.clock
  let fresh : McDetector := { tag := tag, last := line, used := t }
  let d := match Store.get none s.mca.detectors i with
    | some d =>
      if d.tag = tag then
        let diff : Int := (line : Int) - d.last
        let same := decide (diff ≠ 0) && decide (diff.natAbs ≤ 16) && diff == d.stride
        let conf := if same then min 2 (d.conf + 1) else 1
        { d with last := line, stride := diff, conf := conf, used := t, due := decide (conf = 2) }
      else fresh
    | none => fresh
  (s.modMca fun m => { m with detectors := Store.put none m.detectors i (some d), clock := m.clock + 1 }).countTrained

/-- R272: one prefetch: a line of the same window, not resident and not in flight, at most 16 buffers. -/
def prefetch (s : State) (from_ line : Nat) : State :=
  let win := s.windowOf (128 * from_)
  let here := (s.hitWay line).isSome || (s.victimOf line).isSome || s.inEviction line || (s.fillOf line).isSome
  if win.isNone || s.windowOf (128 * line) != win || here then s
  else if 16 ≤ (s.mca.fills.filter fun f => f.prefetch).length || 32 ≤ s.mca.fills.length then s.count R.MC_PF_DROP_CNT
  else (s.modMca fun m => { m with fills := m.fills ++ [{ line := line, prefetch := true }] }).count R.MC_PF_ISSUE_CNT

/-- R272: the prefetches of a detector at confidence 2. -/
def prefetchAll (s : State) (i : Nat) (d : McDetector) : State :=
  let s := s.modMca fun m => { m with detectors := Store.put none m.detectors i (some { d with due := false }) }
  (List.range (s.rd R.MC_PF_DEPTH)).foldl (fun (s : State) (j : Nat) =>
    let l : Int := (d.last : Int) + d.stride * ((j : Int) + 1)
    if l < 0 ∨ 2 ^ 28 ≤ l then s else s.prefetch d.last l.toNat) s

/-! ### Fills and landings (R266, R267, R279) -/

/-- Requests that waited for a fill buffer are made again. -/
def retryWaiting (s : State) : State :=
  let l := s.mca.noBuffer
  l.foldl (fun s r => s.request r false) (s.modMca fun m => { m with noBuffer := [] })

/-- A fill's requests served from the line, or from its data where it is not installed. -/
def serveFill (s : State) (line data : Nat) (l : List McReq) : State :=
  match s.hitWay line with
  | some w => l.foldl (fun s r => s.serveWay (setOf line) w r) s
  | none => (l.foldl (fun (x : State × Nat) r => match r.update with
      | none => (x.1.answerMap r x.2, x.2)
      | some v => let d := putEntry x.2 r.addr v
        (x.1.storeLine line d, d)) (s, data)).1

/-- R266: fill data arrive: installed, not installed on poison, or discarded and fetched again under R279. -/
def fillReturn (s : State) (f : McFill) (upset : Bool) : State :=
  let gone := s.modMca fun m => { m with fills := m.fills.filter fun x => x.line != f.line }
  if f.discard then
    if f.reqs.isEmpty then gone
    else s.modMca fun m => { m with fills := m.fills.map fun x => if x.line = f.line then { x with discard := false } else x }
  else
    let (t, data) := gone.loadLine f.line
    match data with
    | none =>
      let t := t.modMca fun m => { m with halted := m.halted ++ f.reqs }
      let t := if t.flag R.FILL_POISON then t else (t.wr R.FILL_POISON 1).raise 62
      (t.haltMap f.line).retryWaiting
    | some d =>
      let only := f.prefetch && f.reqs.isEmpty
      let (u, ok) := t.install f.line d only upset
      if !ok then if only then gone else s
      else (u.serveFill f.line d f.reqs).retryWaiting

/-- R267: a slot of the victim cache for a landing line: a free one, else the oldest no stalled request waits for. -/
def victimSlot (s : State) : Option Nat :=
  match (List.range 64).find? fun i => (Store.get none s.mca.victims i).isNone with
  | some i => some i
  | none =>
    let l := s.mca.victims.filterMap fun e => match e.2 with
      | some v => if s.mca.stalled.any fun r => r.addr / 128 == v.line then none else some (e.1, v.age)
      | none => none
    match (l.map fun e => e.2).min? with
    | some a => (l.find? fun e => e.2 == a).map fun e => e.1
    | none => none

/-- R267, R268: a line lands in the victim cache and the requests stalled on it recall it. -/
def land (s : State) (line : Nat) (upset : Bool) : State :=
  match s.mca.evicting.find? fun e => e.line == line, s.victimSlot with
  | some e, some i =>
    let mine := s.mca.stalled.filter fun r => r.addr / 128 == line
    let s := s.modMca fun m => { m with
      evicting := m.evicting.filter fun x => !(x.line == line && x.age == e.age)
      victims := Store.put none m.victims i (some ⟨line, e.data, m.clock⟩)
      clock := m.clock + 1
      stalled := m.stalled.filter fun r => r.addr / 128 != line }
    (mine.foldl (fun s r => match s.hitWay line, s.victimOf line with
      | some w, _ => s.serveWay (setOf line) w r
      | none, some v => s.recallLine v.1 v.2 r upset
      | none, none => s.miss r) s).retryWaiting
  | _, _ => s

/-! ### Range operations (R277 to R280) -/

/-- R277: an ignored start. -/
def rangeError (s : State) : State := s.wr R.RANGE_CFG_ERR 1

/-- R278, R279: an operation starts: the victim cache and the eviction buffer lose its lines, and fills in flight for it are to
be discarded, but for CLEAN. -/
def startRange (s : State) (op line count : Nat) : State :=
  let has := fun (l : Nat) => decide (line ≤ l) && decide (l < line + count)
  let s := s.modMca fun m => { m with range := some ⟨op, line, count, m.clock⟩ }
  let s := if op = 0 then s
    else
      let back := s.mca.stalled.filter fun r => has (r.addr / 128)
      let s := s.modMca fun m => { m with
        victims := m.victims.filter fun e => match e.2 with
          | some v => !has v.line
          | none => false
        evicting := m.evicting.filter fun e => !has e.line
        stalled := m.stalled.filter fun r => !has (r.addr / 128)
        fills := m.fills.map fun f => if has f.line then { f with discard := true } else f }
      back.foldl (fun s r => s.miss r) s
  s.wr R.RANGE_BUSY 1

/-- R277: RANGE_GO. -/
def rangeGo (s : State) (op : Nat) : State :=
  let s := s.wr R.RANGE_OP op
  if s.flag R.RANGE_BUSY || op == 3 || (s.flag R.MAP_HALT && op != 2) then s.rangeError
  else if s.rd R.RANGE_LINES = 0 then s.raise 56
  else s.startRange op (s.rd R.RANGE_LINE) (s.rd R.RANGE_LINES)

/-- R277, R281: one old line of the range as the operation leaves it. -/
def rangeLine (s : State) (op set w : Nat) (upset : Bool) : State :=
  let x := s.wayAt set w
  match x.line with
  | none => s
  | some l =>
    if upset && op != 2 then if x.dirty then s.parityDirty l else (s.parityClean).invalidateWay set w
    else if op = 2 then s.invalidateWay set w
    else
      let s := if x.dirty then s.storeLine l x.data else s
      if op = 0 then s.putWay set w { x with dirty := false } else s.invalidateWay set w

/-- R278: the probes end: every line of the range installed before the start is handled. -/
def rangeDone (s : State) (upsets : List Nat) : State :=
  match s.mca.range with
  | none => s
  | some r =>
    let old := s.mca.ways.filterMap fun e => match e.2 with
      | some x => match x.line with
        | some l => if r.line ≤ l ∧ l < r.line + r.count ∧ x.age < r.start then some (e.1, l) else none
        | none => none
      | none => none
    let s := old.foldl (fun s p => s.rangeLine r.op (p.1 / 16) (p.1 % 16) (upsets.contains p.2)) s
    (((s.modMca fun m => { m with range := none }).wr R.RANGE_BUSY 0).raise 56).grantPipe 2

/-! ### Lock ranges (R273 to R276) -/

/-- R273: a lock range ignored. -/
def lockError (s : State) : State := s.wr R.LOCK_CFG_ERR 1

/-- The lines of lock range `k`, as first and count. -/
def lockLines (s : State) (k : Nat) : Nat × Nat := (s.rd (R.LOCK_LINE k), s.rd (R.LOCK_LINES k))

/-- R273: range `k` may be enabled. -/
def lockFits (s : State) (k : Nat) : Bool :=
  let r := s.lockLines k
  let w := s.windowOf (128 * r.1)
  w.isSome && s.windowOf (128 * (r.1 + r.2 - 1)) == w
    && (List.range 8).all fun j => j == k || !s.flag (R.LOCK_EN j) || !rangesMeet r (s.lockLines j)

/-- R276: range `k` disabled: its ways are unlocked, and a load of it stops. -/
def unlockRange (s : State) (k : Nat) : State :=
  let mine := s.mca.ways.filter fun e => match e.2 with
    | some x => x.lock == some k
    | none => false
  let s := mine.foldl (fun s e =>
    ((s.putWay (e.1 / 16) (e.1 % 16) { s.wayAt (e.1 / 16) (e.1 % 16) with lock := none })).refreshSet (e.1 / 16)) s
  (s.wr (R.LOCK_EN k) 0).wr (R.LOCK_BUSY k) 0

/-- R275: one line of a lock load: locked in place, recalled, or filled. -/
def lockLine (s : State) (k line : Nat) (upset : Bool) : State :=
  let set := setOf line
  let locked := (List.range 16).filter fun w => (s.wayAt set w).lock.isSome
  match s.hitWay line with
  | some w =>
    let x := s.wayAt set w
    if x.lock = some k then s
    else if upset then if x.dirty then s.parityDirty line else (s.parityClean).invalidateWay set w
    else if 4 ≤ locked.length then s.lockOverflow
    else
      let s := if x.dirty then s.storeLine line x.data else s
      (s.putWay set w { x with dirty := false, lock := some k }).refreshSet set
  | none =>
    match s.victimOf line with
    | some v =>
      let t := s.modMca fun m => { m with victims := Store.put none m.victims v.1 none }
      let (u, ok) := t.install line v.2.data false false
      if ok then u.count R.MC_RECALL_CNT else s.lockOverflow
    | none =>
      let (t, d) := s.loadLine line
      match d with
      | some d => let (u, ok) := t.install line d false false
        if ok then u else t.lockOverflow
      | none => ((if t.flag R.FILL_POISON then t else (t.wr R.FILL_POISON 1).raise 62)).haltMap line

/-! ### Windows (R261) -/

/-- R261: an ignored write. -/
def windowError (s : State) : State := s.wr R.WIN_CFG_ERR 1

/-- R261: window `k` may be enabled. -/
def windowFits (s : State) (k : Nat) : Bool :=
  let r := fun (j : Nat) => (s.rd (R.WIN_BASE j), s.rd (R.WIN_SIZE j))
  (r k).2 != 0 && decide ((r k).1 + (r k).2 ≤ 32768)
    && (List.range 4).all fun j => j == k || !s.flag (R.WIN_EN j) || !rangesMeet (r k) (r j)

/-- R261: window `k` disabled: it stops caching, its lock ranges go, and its lines are invalidated. -/
def closeWindow (s : State) (k : Nat) : State :=
  let b := 8192 * s.rd (R.WIN_BASE k)
  let n := 8192 * s.rd (R.WIN_SIZE k)
  let s := s.wr (R.WIN_EN k) 0
  let s := (List.range 8).foldl (fun s j => if s.flag (R.LOCK_EN j) && rangesMeet (s.lockLines j) (b, n) then s.unlockRange j else s) s
  s.startRange 1 b n

/-! ### Diagnostics (R289) -/

/-- R289: the selected entry in the result registers. -/
def diagEntry (s : State) (line : Option Nat) (dirty locked : Bool) (data : Nat) (upset : Bool) : State :=
  let s := (s.wr R.MC_DIAG_LINE (line.getD 0)).wrFlag R.MC_DIAG_VALID line.isSome
  let s := ((s.wrFlag R.MC_DIAG_DIRTY dirty).wrFlag R.MC_DIAG_LOCKED locked).wrFlag R.MC_DIAG_PAR_ERR upset
  ((List.range 32).foldl (fun s j => s.wr (R.MC_DIAG_WORD j) (field data (32 * j) 32)) s).wr R.MC_DIAG_DONE 1

end State

/-! ### The commands -/

/-- MCA_INIT_COMPLETE (R137, R283): everything invalid, every window and lock range disabled. -/
def execMcaInitComplete (s : State) : Result :=
  .next (if !s.dom.core || s.flag R.CACHE_INIT_DONE then s
    else
      let s := { s with mca := {} }
      let s := (List.range 4).foldl (fun s k => s.wr (R.WIN_EN k) 0) s
      let s := (List.range 8).foldl (fun s k => ((s.wr (R.LOCK_EN k) 0).wr (R.LOCK_BUSY k) 0).wr (R.LOCK_RESIDENT k) 0) s
      let s := (s.resetRange 0x40041000 0x400411FF).wr R.LE_COUNT 0
      (s.wr R.CACHE_INIT_DONE 1).raise 63)

/-- MCA_LOOKUP (R260, R262, R263, R268, R271, R279, R281). -/
def execMcaLookup (tag : BitVec 13) (addr : BitVec 35) (others : List (Fin 3)) (upset : Bool) (s : State) : Result :=
  .next (if !s.mcaRuns || !s.granted 0 others then s
    else
      let s := s.grantPipe 0
      let r : McReq := ⟨none, tag.toNat, addr.toNat / 8 * 8⟩
      let s := if (s.windowOf r.addr).isSome then s.train tag.toNat (r.addr / 128) else s
      s.mapRequest r upset)

/-- MCA_UPDATE (R260, R262, R265). -/
def execMcaUpdate (addr : BitVec 35) (value : BitVec 64) (others : List (Fin 3)) (upset : Bool) (s : State) : Result :=
  .next (if !s.mcaRuns || !s.granted 1 others then s
    else (s.grantPipe 1).mapRequest ⟨some value.toNat, 0, addr.toNat / 8 * 8⟩ upset)

/-- MCA_FILL_RETURN (R264, R266, R267, R274, R279); `upset`: the evicted line has bad parity. -/
def execMcaFillReturn (line : BitVec 28) (upset : Bool) (s : State) : Result :=
  .next (match s.fillOf line.toNat with
    | some f => if s.dom.dram && s.dom.core then s.fillReturn f upset else s
    | none => s)

/-- MCA_VICTIM_LAND (R267, R268). -/
def execMcaVictimLand (line : BitVec 28) (upset : Bool) (s : State) : Result := .next (s.land line.toNat upset)

/-- MCA_PREFETCH (R272). -/
def execMcaPrefetch (tag : BitVec 13) (s : State) : Result :=
  .next (match s.mca.detectors.findSome? fun e => e.2.bind fun d => if d.tag = tag.toNat ∧ d.due then some (e.1, d) else none with
    | some p => if s.mcaRuns && s.flag R.MC_PF_EN then s.prefetchAll p.1 p.2 else s
    | none => s)

/-- MCA_WINDOW_ENABLE (R261): a write of MCA_WIN_BASEk with WIN_EN = 1. -/
def execMcaWindowEnable (k : Fin 4) (base : BitVec 15) (s : State) : Result :=
  .next (s.access (R.WIN_EN k.val) fun s =>
    if s.flag (R.WIN_EN k.val) then if s.rd (R.WIN_BASE k.val) = base.toNat then s else s.windowError
    else
      let s := s.wr (R.WIN_BASE k.val) base.toNat
      if s.windowFits k.val then s.wr (R.WIN_EN k.val) 1 else s.windowError)

/-- MCA_WINDOW_DISABLE (R261). -/
def execMcaWindowDisable (k : Fin 4) (s : State) : Result :=
  .next (s.access (R.WIN_EN k.val) fun s =>
    if !s.flag (R.WIN_EN k.val) then s else if s.flag R.RANGE_BUSY then s.windowError else s.closeWindow k.val)

/-- MCA_LOCK_ENABLE (R273). -/
def execMcaLockEnable (k : Fin 8) (s : State) : Result :=
  .next (s.access (R.LOCK_EN k.val) fun s =>
    if s.flag (R.LOCK_EN k.val) then s else if s.lockFits k.val then s.wr (R.LOCK_EN k.val) 1 else s.lockError)

/-- MCA_LOCK_DISABLE (R276). -/
def execMcaLockDisable (k : Fin 8) (s : State) : Result :=
  .next (s.access (R.LOCK_EN k.val) fun s => if s.flag (R.LOCK_EN k.val) then s.unlockRange k.val else s)

/-- LOCK_LOAD (R275, R287). -/
def execLockLoad (k : Fin 8) (s : State) : Result :=
  .next (s.access (R.LOCK_LOAD k.val) fun s =>
    if !s.flag (R.LOCK_EN k.val) || s.flag (R.LOCK_BUSY k.val) then s else s.wr (R.LOCK_BUSY k.val) 1)

/-- LOCK_LOAD_COMPLETE (R275): the lines of the range locked in ascending order; `upsets`: lines read with bad parity. -/
def execLockLoadComplete (k : Fin 8) (upsets : List (BitVec 28)) (s : State) : Result :=
  .next (if !s.flag (R.LOCK_BUSY k.val) || !s.dom.dram then s
    else
      let r := s.lockLines k.val
      let s := (List.range r.2).foldl (fun s i => s.lockLine k.val (r.1 + i) (upsets.any fun u => u.toNat == r.1 + i)) s
      ((s.wr (R.LOCK_BUSY k.val) 0).raise 57).grantPipe 2)

/-- RANGE_CLEAN (R277). -/
def execRangeClean (s : State) : Result := .next (s.access R.RANGE_GO fun s => s.rangeGo 0)

/-- RANGE_INVALIDATE (R277). -/
def execRangeInvalidate (s : State) : Result := .next (s.access R.RANGE_GO fun s => s.rangeGo 1)

/-- RANGE_DISCARD (R277). -/
def execRangeDiscard (s : State) : Result := .next (s.access R.RANGE_GO fun s => s.rangeGo 2)

/-- RANGE_COMPLETE (R278); `upsets`: lines read with bad parity. -/
def execRangeComplete (upsets : List (BitVec 28)) (s : State) : Result := .next (s.rangeDone (upsets.map fun u => u.toNat))

/-- MAP_RESUME (R282): ignored while RANGE_BUSY = 1; the requests that waited for it are made. -/
def execMapResume (s : State) : Result :=
  .next (s.access R.MAP_RESUME fun s =>
    if s.flag R.RANGE_BUSY || !s.flag R.MAP_HALT then s
    else
      let l := s.mca.halted
      let s := (s.wr R.MAP_HALT 0).modMca fun m => { m with halted := [] }
      l.foldl (fun s r => s.mapRequest r false) s)

/-- MC_DIAG_GO (R289), with the selection written beside it; no parity is checked. -/
def execMcDiagGo (set : BitVec 12) (way : Fin 16) (victim : Bool) (upset : Bool) (s : State) : Result :=
  .next (s.access R.MC_DIAG_GO fun s =>
    let s := ((s.wr R.MC_DIAG_SET set.toNat).wr R.MC_DIAG_WAY way.val).wrFlag R.MC_DIAG_VICTIM victim
    let s := s.grantPipe 2
    if victim then match Store.get none s.mca.victims (set.toNat % 64) with
      | some v => s.diagEntry (some v.line) false false v.data upset
      | none => s.diagEntry none false false 0 upset
    else
      let x := s.wayAt set.toNat way.val
      s.diagEntry x.line x.dirty x.lock.isSome x.data upset)

/-- MC_CNT_CLR (R288). -/
def execMcCntClr (s : State) : Result :=
  .next (s.access R.MC_CNT_CLR fun s => s.clearAll [R.MC_HIT_CNT, R.MC_MISS_CNT, R.MC_RECALL_CNT, R.MC_EVB_STALL_CNT,
    R.MC_PF_ISSUE_CNT, R.MC_PF_USED_CNT, R.MC_WB_CNT, R.MC_PAR_CLEAN_CNT, R.MC_PAR_DIRTY_CNT, R.MC_PF_DROP_CNT])

end Sys2Proof.Machine
end

