-- ==== Sys2Proof/Machine/Pack.lean ====
section
/-!
DEFINITION. Machine/Pack.lean: the Pack engine: compression lanes and their pool, the stored block, and decompression (chapter 15).
-/
namespace Sys2Proof.Machine

open Arith

/-! ### The stored block (R516 to R518) -/

/-- R518: the block's form: whether it is RAW, and its payload's length and bytes. -/
def packForm (zoned : Bool) (source : Nat) : Bool × Nat × Nat :=
  let p := Config.packPayload source
  let raw := if zoned then decide (65536 ≤ p.1) else decide (15 < ceilDiv (8 + p.1) 4096)
  (raw, p.1, p.2 % 2 ^ (8 * p.1))

/-- R516, R521: the stored size in sectors. A conventional RAW unit has no header (R518). -/
def storedSectors (zoned : Bool) (source : Nat) : Nat :=
  let (raw, len, _) := packForm zoned source
  if raw then if zoned then 17 else 16 else ceilDiv (8 + len) 4096

/-- R516: the header. -/
def packHeader (raw extern : Bool) (len start spill : Nat) : Nat :=
  0x51 + 2 ^ 8 * ofBool raw + 2 ^ 9 * ofBool extern + 2 ^ 16 * (if raw then 0 else len) + 2 ^ 32 * (start % 2 ^ 24) + 2 ^ 56 * spill

/-- R516: the stored bytes cut into sectors, padded with zeros to `n` of them. -/
def cutSectors (v n : Nat) : List Nat := (List.range n).map fun i => field v (32768 * i) 32768

/-! ### Tokens (R517) -/

/-- R517: `n` bytes copied, one after the other, from `off` bytes back in an output of `len` bytes. -/
def copyBack (off : Nat) : (n out len : Nat) → Nat
  | 0, out, _ => out
  | n + 1, out, len => copyBack off n (out + field out (8 * (len - off)) 8 * 2 ^ (8 * len)) (len + 1)

/-- R517, R528: the tokens of a payload of `size` bytes from `pos` on, after an output of `len` bytes; none where they do not
produce exactly 65,536 bytes. -/
def expand (payload size : Nat) : (fuel pos out len : Nat) → Option Nat
  | 0, _, _, _ => none
  | fuel + 1, pos, out, len =>
    if pos = size then if len = 65536 then some out else none
    else
      let t := field payload (8 * pos) 8
      if t < 128 then
        if size < pos + t + 2 then none
        else expand payload size fuel (pos + t + 2) (out + field payload (8 * (pos + 1)) (8 * (t + 1)) * 2 ^ (8 * len)) (len + t + 1)
      else
        let off := field payload (8 * (pos + 1)) 16
        if size < pos + 3 ∨ off = 0 ∨ len < off then none
        else expand payload size fuel (pos + 3) (copyBack off (t - 124) out len) (len + (t - 124))

/-- R516, R528: the header of a stored block of at most `room` sectors passes its checks. -/
def headerOk (zoned : Bool) (v room : Nat) : Bool :=
  let raw := v.testBit 8
  let len := field v 16 16
  field v 0 8 == 0x51 && field v 10 6 == 0 && (if raw then len == 0 else len != 0) && decide (field v 56 8 ≤ 9)
    && (zoned || (field v 32 32 == 0 && !v.testBit 9 && !raw)) && decide (8 + (if raw then 65536 else len) ≤ 4096 * room)

/-- R526, R528: a stored block expanded. -/
def unpack (zoned : Bool) (v room : Nat) : Option Nat :=
  if !headerOk zoned v room then none
  else if v.testBit 8 then some (field v 64 (8 * 65536))
  else expand (field v 64 (8 * field v 16 16)) (field v 16 16) (field v 16 16 + 1) 0 0 0

namespace State

/-! ### Lanes and the pool (R520 to R523) -/

/-- The lane `i`. -/
def packLane (s : State) (i : Nat) : Option PackLane := Store.get none s.pak.lanes i

/-- A lane set. -/
def setLane (s : State) (i : Nat) (l : Option PackLane) : State :=
  { s with pak := { s.pak with lanes := Store.put none s.pak.lanes i l } }

/-- R523: a Pack block, or map unit, is ready to be compressed: its 16 blocks are in the buffer, or its zone is Full, or its merge
is complete. -/
def packReady (s : State) (ns lba : Nat) : Bool :=
  let busy := s.pak.ready.contains (ns, lba) || s.pak.lanes.any fun e => match e.2 with
    | some l => l.ns == ns && l.lba == lba
    | none => false
  let done := match s.packUnit ns lba with
    | some u => !u.queued.isEmpty || u.source == s.packSource ns lba
    | none => false
  if busy || done then false
  else match s.namespaceOf ns with
    | none => false
    | some n =>
      let lack := s.absent ns (lba / 16)
      if n.zoned then
        let zi := zoneOf n lba
        s.zoneRatio ns zi != 0 && (lack.isEmpty
          || (decide ((s.zone (zoneKey ns zi)).cond = .full) && decide (lack.length < 16)))
      else n.ratio != 0 && s.merged ns (lba / 16) && s.dirtyUnits.contains (ns, lba / 16)

/-- R523: output that a block's data has since changed under is discarded with its pool buffers. -/
def dropStale (s : State) (ns lba : Nat) : State :=
  let held := ((s.pak.units.filter fun u => u.ns == ns && u.lba == lba).map fun u => u.pool).foldl (· + ·) 0
  { s with pak := { s.pak with
    units := s.pak.units.filter fun u => !(u.ns == ns && u.lba == lba), freeDue := s.pak.freeDue + held } }

/-- R522, R529: lane `i` takes the pool buffers it needs, one by one, or stalls in the order `at_`. -/
def takePool (s : State) (i : Nat) (at_ : Nat) (l : PackLane) : State :=
  let free := s.rd R.POOL_FREE
  let got := min free (l.need - l.have_)
  let l := { l with have_ := l.have_ + got }
  let s := s.wr R.POOL_FREE (free - got)
  let s := if got ≠ 0 ∧ free = got then s.raise 65 else s
  if l.have_ = l.need then (s.setLane i (some { l with stalled := none })).showStalls
  else ((s.setLane i (some { l with stalled := some at_ })).showStalls.count R.POOL_STALL_CNT).raise 64

/-- R521, R522: a block enters lane `i` in the stall order `at_`. -/
def enterLane (s : State) (i at_ ns lba : Nat) : State :=
  match s.namespaceOf ns with
  | none => s
  | some n =>
    let k := if n.zoned then slotSectors (s.zoneRatio ns (zoneOf n lba)) else 0
    let t := storedSectors n.zoned (s.packSource ns lba)
    s.takePool i at_ { ns := ns, lba := lba, slot := k, need := t - k, have_ := 0 }

/-- R520: ready blocks enter free lanes in order. -/
def fillLanes (s : State) : State :=
  let at_ := s.pak.stalls
  let free := (List.range 4).filter fun i => (s.packLane i).isNone
  let go := free.zip s.pak.ready
  let s := { s with pak := { s.pak with ready := s.pak.ready.drop go.length, stalls := at_ + 1 } }
  go.foldl (fun s e => s.enterLane e.1 at_ e.2.1 e.2.2) s

/-- R16, R520: the blocks of one cycle in the token's order over `n` positions, and the token after them. -/
def inTurn (n token : Nat) (l : List ReadyBlock) : List ReadyBlock × Nat :=
  let pos := fun (b : ReadyBlock) => b.source.toNat % n
  let order := tokenOrder n token (l.map pos)
  let blocks := (order.map fun p => l.filter fun b => pos b == p).flatten
  (blocks, tokenAfter n token order)

/-- R520, R523: blocks become ready in one cycle. -/
def packCompress (s : State) (l : List ReadyBlock) : State :=
  let l := l.filter fun b => s.packReady b.ns.toNat (16 * b.block.toNat)
  let (l, token) := inTurn 4096 (s.rd R.PACK_TOKEN) l
  let keys := (l.map fun b => (b.ns.toNat, 16 * b.block.toNat)).eraseDups
  let s := keys.foldl (fun s b => s.dropStale b.1 b.2) s
  let s := s.wr R.PACK_TOKEN token
  ({ s with pak := { s.pak with ready := s.pak.ready ++ keys } }).fillLanes

/-- R522: the lane that a freed buffer goes to: the first to stall, by POOL_TOKEN where several stalled at once. -/
def stalledLane (s : State) : Option (Nat × PackLane) :=
  let l := s.pak.lanes.filterMap fun e => e.2.bind fun x => x.stalled.map fun t => (e.1, x, t)
  match (l.map fun e => e.2.2).min? with
  | none => none
  | some t =>
    let first := l.filter fun e => e.2.2 == t
    match tokenGrant 4 (s.rd R.POOL_TOKEN) (first.map fun e => e.1) with
    | some i => (first.find? fun e => e.1 == i).map fun e => (e.1, e.2.1)
    | none => none

/-- R521, R522: a pool buffer is freed. -/
def freeBuffer (s : State) : State :=
  if s.pak.freeDue = 0 then s
  else
    let s := { s with pak := { s.pak with freeDue := s.pak.freeDue - 1, stalls := s.pak.stalls + 1 } }
    match s.stalledLane with
    | none => s.count R.POOL_FREE
    | some (i, l) =>
      let s := s.wr R.POOL_TOKEN ((i + 1) % 4)
      s.takePool i s.pak.stalls { l with have_ := l.have_ + 1 }

/-! ### The end of a block (R518, R519, R521, R524) -/

/-- R524: where a spill of `k` sectors goes: its place in the overflow area, or as an extern. -/
def placeSpill (s : State) (n : Namespace) (ns zi k externIndex : Nat) : State × Nat × Option Nat :=
  if k = 0 then (s, 0, none)
  else
    let key := zoneKey ns zi
    let z := s.zone key
    if s.slotArea n ns zi + z.overflow + k ≤ s.bandSize n ns zi then
      (s.modZone key fun z => { z with overflow := z.overflow + k }, z.overflow, none)
    else
      let s := s.modZone key fun z => { z with externs := z.externs + k }
      let s := (s.count R.EXTERN_CNT).journal
      let s := if z.externs = 0 then s.raise 68 else s
      (s.refreshExterns ns, externIndex, some externIndex)

/-- R516 to R521, R524: the block of a lane stored. -/
def storeBlock (s : State) (n : Namespace) (l : PackLane) (externIndex : Nat) : State :=
  let src := s.packSource l.ns l.lba
  let (raw, len, bytes) := packForm n.zoned src
  let t := storedSectors n.zoned src
  let spill := if n.zoned then t - l.slot else 0
  let (s, start, ext) := s.placeSpill n l.ns (zoneOf n l.lba) spill externIndex
  let stored := if raw && !n.zoned then src
    else packHeader raw ext.isSome len start spill + (if raw then src else bytes) * 2 ^ 64
  let u : PackUnit := { ns := l.ns, lba := l.lba, raw := raw, source := src, sectors := cutSectors stored (max l.slot t)
                        spillAt := start, extern := ext, pool := l.have_ }
  let s := { s with pak := { s.pak with units := s.pak.units ++ [u] } }
  let s := s.count (if raw then R.RAW_CNT else R.PACKED_CNT)
  let s := s.count R.SECT_OUT_CNT t
  if spill = 0 then s else s.count R.SPILL_CNT

/-- R520, R521: lane `i` ends its block and the next one enters it. -/
def packDone (s : State) (i externIndex : Nat) : State := match s.packLane i with
  | none => s
  | some l =>
    if l.stalled.isSome then s
    else match s.namespaceOf l.ns with
      | none => (s.setLane i none).fillLanes
      | some n => ((s.storeBlock n l externIndex).setLane i none).fillLanes

/-! ### Decompression (R526, R528) -/

/-- The block staged for reading. -/
def readUnit (s : State) (ns lba : Nat) : Option ReadUnit := s.pak.reads.find? fun u => u.ns == ns && u.lba == lba

/-- R526: the sectors that a staged block's place gives: its slot's, or its unit's. -/
def baseSectors (s : State) (n : Namespace) (ns lba : Nat) : Nat :=
  if n.zoned then slotSectors (s.zoneRatio ns (zoneOf n lba)) else match s.mapped ns lba with
    | some e => e.len
    | none => 0

/-- The sectors `0..n-1` of a staged block as one number. -/
def stagedBytes (u : ReadUnit) (n : Nat) : Nat :=
  (List.range n).foldl (fun d i => d + (Store.get none u.sectors i).getD 0 * 2 ^ (32768 * i)) 0

/-- The sectors of `a..b-1` that are not staged. -/
def lacking (u : ReadUnit) (a b : Nat) : List Nat :=
  ((List.range (b - a)).map fun i => a + i).filter fun i => (Store.get none u.sectors i).isNone

/-- R524, R526: the locations of a zoned block's spill sectors, from its header, with what each serves. -/
def spillPlan (s : State) (n : Namespace) (u : ReadUnit) (header k : Nat) : List (Nat × Serve) :=
  let zi := zoneOf n u.lba
  let start := field header 32 24
  let kind := if u.forMtu then OpKind.readBack else OpKind.hostRead
  (List.range (field header 56 8)).map fun j =>
    let l := if header.testBit 9 then Config.externPlace u.ns (16 * start + j)
      else s.relocated (s.bandLoc u.ns zi (s.slotArea n u.ns zi + start + j))
    (l, ⟨kind, none, u.ns, u.lba, true, k + j⟩)

/-- R211, R526, R528: the 16 blocks go to the commands that read them from media, and to the MTU where it reads for itself. -/
def deliverBlocks (s : State) (u : ReadUnit) (data : Option Nat) : State :=
  let one := fun (s : State) (i : Nat) =>
    let b := u.lba + i
    let readers := s.hosts.cmds.filter fun c => decide (kindOf c.port c.req = .read) && c.req.ns == u.ns
      && decide (c.lba ≤ b) && decide (b < c.lba + c.req.blocks) && !took c (b - c.lba) && !s.blockHeld c b
      && decide (s.sourceOf u.ns b = .media)
    let v := data.map fun d => field d (32768 * i) 32768
    let got := match v with
      | some x => Got.data x
      | none => Got.unreadable
    let s := readers.foldl (fun s c => s.deliver c.tag u.ns b got) s
    if u.forMtu && (s.newestInBuffer u.ns b).isNone then s.placeOld u.ns b (v.getD 0) v.isNone else s
  let s := (List.range 16).foldl one s
  let s := { s with pak := { s.pak with reads := s.pak.reads.filter fun x => !(x.ns == u.ns && x.lba == u.lba) } }
  (s.wr R.RD_STAGED_MIB (min 1023 (s.staged / 256))).refreshBuffer

/-- R528, R529: a block that cannot be expanded. -/
def decodeError (s : State) (u : ReadUnit) : State :=
  (((s.count R.DECOMP_ERR_CNT).raise 67).detect 88).deliverBlocks u none

/-- R526, R528: a staged block expanded. A zoned block's spill is read once its header is there. -/
def unpackUnit (s : State) (n : Namespace) (u : ReadUnit) : State :=
  let k := s.baseSectors n u.ns u.lba
  if k = 0 || !(lacking u 0 k).isEmpty then s
  else if u.bad then s.deliverBlocks u none
  else
    let h := field (stagedBytes u 1) 0 64
    let spill := if n.zoned then field h 56 8 else 0
    if 9 < spill then s.decodeError u
    else
      let miss := lacking u k (k + spill)
      if miss.isEmpty then
        match unpack n.zoned (stagedBytes u (k + spill)) (k + spill) with
        | some d => s.deliverBlocks u (some d)
        | none => s.decodeError u
      else
        let asked := fun (v : Serve) => actuators.any fun a => s.opServes a [.hostRead, .readBack] fun x =>
          x.ns == v.ns && x.lba == v.lba && x.packed && x.idx == v.idx
        let due := (s.spillPlan n u h k).filter fun p => miss.contains p.2.idx && !asked p.2
        s.queueAll (if u.forMtu then .readBack else .hostRead) false false due

/-- R520, R526: the staged blocks of one cycle expanded, in UNPACK_TOKEN's order over their streams. -/
def unpackBlocks (s : State) (l : List ReadyBlock) : State :=
  let l := l.filter fun b => (s.readUnit b.ns.toNat (16 * b.block.toNat)).isSome
  let (l, token) := inTurn 8 (s.rd R.UNPACK_TOKEN) l
  let s := s.wr R.UNPACK_TOKEN token
  l.foldl (fun s b => match s.readUnit b.ns.toNat (16 * b.block.toNat), s.namespaceOf b.ns.toNat with
    | some u, some n => s.unpackUnit n u
    | _, _ => s) s

/-! ### Zone ratios (R514, R531) -/

/-- The namespace and zone that PAK_ZONE_SEL names, where they exist. -/
def selectedZone (s : State) : Option (Nat × Nat) :=
  let ns := s.rd R.ZSEL_NS + 1
  let zi := s.rd R.ZSEL_ZONE
  match s.namespaceOf ns with
  | some n => if n.zoned && decide ((zi + 1) * n.zoneBlocks ≤ n.size) then some (ns, zi) else none
  | none => none

/-- R529: an ignored write of Pack's configuration. -/
def pakCfgErr (s : State) : State := (s.wr R.PAK_CFG_ERR 1).raise 69

/-- R514: ZR_WRITE of a ratio. -/
def zrWrite (s : State) (ratio : Nat) (activation : Bool) : State :=
  let s := s.wr R.ZR_RATIO ratio
  match s.selectedZone with
  | none => s.pakCfgErr
  | some (ns, zi) =>
    let key := zoneKey ns zi
    if (s.zone key).cond ≠ .empty ∨ activation = true ∨ ratio = 3 then s.pakCfgErr
    else ((s.modZone key fun z => { z with ratio := some ratio }).journal).wr R.ZR_DONE 1

end State

/-! ### The commands -/

/-- PACK_BLOCK_COMPRESS (R520 to R523): the blocks that become ready in one cycle. -/
def execPackBlockCompress (blocks : List ReadyBlock) (s : State) : Result :=
  .next (if s.mtuRuns then s.packCompress blocks else s)

/-- PACK_BLOCK_DONE (R516 to R521, R524, R525): a lane ends its block; `externIndex` is the index its spill takes where it goes to
an extern. -/
def execPackBlockDone (lane : Fin 4) (externIndex : BitVec 24) (s : State) : Result :=
  .next (s.packDone lane.val externIndex.toNat)

/-- POOL_BUFFER_FREE (R521, R522). -/
def execPoolBufferFree (s : State) : Result := .next s.freeBuffer

/-- UNPACK_BLOCK (R520, R526, R528): the staged blocks that are ready in one cycle. -/
def execUnpackBlock (blocks : List ReadyBlock) (s : State) : Result := .next (s.unpackBlocks blocks)

/-- ZR_WRITE (R514, R529, R531); the zone's activation in the same cycle prevails. -/
def execZrWrite (ratio : BitVec 2) (activation : Bool) (s : State) : Result :=
  .next (s.access R.ZR_WRITE fun s => s.zrWrite ratio.toNat activation)

/-- ZR_READ (R531). -/
def execZrRead (s : State) : Result :=
  .next (s.access R.ZR_READ fun s => match s.selectedZone with
    | some (ns, zi) => (s.wr R.ZR_RATIO (s.zoneRatio ns zi)).wr R.ZR_DONE 1
    | none => s)

/-- PAK_CNT_CLR (R532). -/
def execPakCntClr (s : State) : Result :=
  .next (s.access R.PAK_CNT_CLR fun s => s.clearAll [R.PACKED_CNT, R.RAW_CNT, R.SECT_OUT_CNT, R.SPILL_CNT, R.EXTERN_CNT,
    R.DECOMP_ERR_CNT, R.POOL_STALL_CNT])

end Sys2Proof.Machine
end

