-- ==== Sys2Proof/Machine/Read.lean ====
section
/-!
DEFINITION. Machine/Read.lean: what a register field reads as: its stored value, or the value it presents of other state
(R14, R40, R43, R139, R149 to R151, R463, R485, R505, R594, R595, R605, R622, R649).
-/
namespace Sys2Proof.Machine

open Arith

/-- R598: the eight words of a Tally record; KIND 4 (DROPPED) and the others keep one layout. -/
def recordWord (r : TlyRec) (w : Nat) : Nat :=
  if w = 0 then r.seq
  else if w = 1 then r.ev.poh
  else if w = 2 then r.ev.pcyc + 2 ^ 16 * r.ev.kind + 2 ^ 24 * (ofBool r.ev.frozen + 2 * ofBool r.fromImage)
  else if w = 3 then r.ev.source + 2 ^ 16 * r.ev.code
  else if w = 4 then min 65535 r.repeats + 2 ^ 16 * r.ev.link
  else if w = 5 then r.ev.detail
  else if w = 6 then r.ev.cal
  else r.seq % 2 ^ 16 + 2 ^ 16 * 0xA55A

namespace State

/-- R594: the head record of the FCU queue. -/
def headRecord (s : State) : Option FaultRec := s.fcu.queue.head?

/-- R594: a value of the head record; 0 while the queue is empty. -/
def ofHead (s : State) (f : FaultRec → Nat) : Nat := match s.headRecord with
  | some r => f r
  | none => 0

/-- R595: a value of open window `k`; 0 where none is open. -/
def ofWindow (s : State) (k : Nat) (f : FaultWindow → Nat) : Nat := match s.window k with
  | some w => f w
  | none => 0

/-- R151: bit `k` for each area whose image satisfies `p`. -/
def areaBits (s : State) (p : KeepImage → Bool) : Nat :=
  let f := fun (a : Option KeepImage) => match a with
    | some i => ofBool (p i)
    | none => 0
  f s.ksc.area0 + 2 * f s.ksc.area1

/-- The image of area `k`. -/
def areaImage (s : State) (k : Nat) : Option KeepImage := if k = 0 then s.ksc.area0 else s.ksc.area1

/-- R133, R149: bit `k` for each programmed key slot. -/
def keysProgrammed (s : State) : Nat := (List.range 8).foldl (fun m k => putBit m k (Store.get 0 s.fuses.keyHash k != 0)) 0

/-- R605: word `w` of the ring record RD_IDX. -/
def ringWord (s : State) (w : Nat) : Nat := match Store.get none s.tly.ring (s.rd R.RD_IDX) with
  | some x => recordWord x.record w
  | none => 0

/-- R649: the media keys held, one for each namespace that exists. -/
def keysLoaded (s : State) : Nat :=
  (List.range 16).foldl (fun m k => putBit m k (Store.get none s.nv.namespaces (k + 1)).isSome) 0

/-- R2, R509: the assist element's type; none but -H and -M has one. -/
def assistType (s : State) : Nat := if s.assistFitted then s.fuses.variant else 0

/-- The first index of a register's index list. -/
def ix (i : List Nat) : Nat := i.getD 0 0

/-- The fields that present other state, each by its field at index 0. -/
def presented : List (Fld × (List Nat → State → Nat)) := [
  (R.ROUTE_PEND 0, fun i s => ofBool (s.linePending (ix i))),
  (R.IRQ_ASSERTED, fun _ s => s.irqField),
  (R.KEY_PROG, fun _ s => s.keysProgrammed),
  (R.KEY_REVOKED, fun _ s => s.fuses.revoked % 256),
  (R.FW_SVN_MIN, fun _ s => s.fuses.fwSvnMin),
  (R.MC_SVN_MIN, fun _ s => s.fuses.mcSvnMin),
  (R.LOT_LO, fun _ s => field s.fuses.lot 0 32),
  (R.LOT_HI, fun _ s => field s.fuses.lot 32 32),
  (R.WAFER_NUM, fun _ s => s.fuses.wafer % 256),
  (R.DIE_X, fun _ s => s.fuses.dieX % 256),
  (R.DIE_Y, fun _ s => s.fuses.dieY % 256),
  (R.STEPPING, fun _ s => s.fuses.stepping % 16),
  (R.LIFECYCLE, fun _ s => s.fuses.lifecycle % 4),
  (R.VARIANT, fun _ s => s.fuses.variant % 4),
  (R.SERIAL_W 0, fun i s => field s.fuses.serial (32 * ix i) 32),
  (R.IMG_VALID, fun _ s => s.areaBits fun i => i.committed),
  (R.IMG_UNCONSUMED, fun _ s => s.areaBits fun i => i.committed && !i.consumed),
  (R.IMG_SEQ 0, fun i s => match s.areaImage (ix i) with
    | some x => if x.committed then x.seq % 2 ^ 32 else 0
    | none => 0),
  (R.CKPT_WORD 0, fun i s => (Store.get 0 s.svt.ckpt (512 * s.rd R.CKPT_BUF + ix i)).toNat),
  (R.ASST_TYPE, fun _ s => s.assistType),
  (R.ASST_MAX 0, fun i s => if s.assistFitted && s.flag R.CAL_LOADED then s.rd (R.ASST_MAX (ix i)) else 0),
  (R.SLOT_READY 0, fun i s => ofBool (s.slotReady (ix i))),
  (R.SLOT_STABLE 0, fun i s => ofBool (s.slotStable (ix i)))]

/-- The fields of the FCU, TLY and SEC that present other state. -/
def presentedMore : List (Fld × (List Nat → State → Nat)) := [
  (R.REC_SRC, fun _ s => s.ofHead fun r => r.src),
  (R.REC_CLASS, fun _ s => s.ofHead fun r => r.cls),
  (R.REC_SEV, fun _ s => s.ofHead fun r => r.sev),
  (R.REC_SCOPE, fun _ s => s.ofHead fun r => r.scope),
  (R.REC_REACT, fun _ s => s.ofHead fun r => r.react),
  (R.REC_OPEN, fun _ s => s.ofHead fun r => ofBool (s.fcu.windows.any fun w => w.record.seq == r.seq)),
  (R.REC_CONSEQ, fun _ s => s.ofHead fun r => min 255 r.conseq),
  (R.REC_CSRC, fun _ s => s.ofHead fun r => r.csrc),
  (R.REC_CMAX, fun _ s => s.ofHead fun r => r.cmax),
  (R.REC_CREACT, fun _ s => s.ofHead fun r => ofBool r.creact),
  (R.REC_VALID, fun _ s => ofBool s.headRecord.isSome),
  (R.REC_SEQ, fun _ s => s.ofHead fun r => r.seq % 65536),
  (R.REC_DETAIL, fun _ s => s.ofHead fun r => r.detail),
  (R.REC_TIME, fun _ s => s.ofHead fun r => r.time),
  (R.OPEN_SRC 0, fun i s => s.ofWindow (ix i) fun w => w.record.src),
  (R.OPEN_VALID 0, fun i s => ofBool (s.window (ix i)).isSome),
  (R.OPEN_SHADOW 0, fun i s => ofBool (s.fcu.shadows.any fun x => x.window == some (ix i))),
  (R.OPEN_CONSEQ 0, fun i s => s.ofWindow (ix i) fun w => min 255 w.record.conseq),
  (R.OPEN_SEQ 0, fun i s => s.ofWindow (ix i) fun w => w.record.seq % 256),
  (R.SRC_LOCKED 0, fun i _ => ofBool (srcLocked (ix i))),
  (R.TLY_INLET_USED, fun _ s => s.tly.inlet.length),
  (R.RING_UNARCH, fun _ s => s.ringUnarch),
  (R.RD_WORD 0, fun i s => s.ringWord (ix i)),
  (R.MEK_VALID, fun _ s => s.keysLoaded),
  (R.DEV_KEY_VALID, fun _ s => ofBool s.firmwareRuns)]

/-- The value field `f` of the register element `i` of the row at `base` reads as. -/
def readAt (s : State) (base : Nat) (i : List Nat) (f : Fld) : Nat :=
  match (presented ++ presentedMore).find? fun e => e.1.addr == base && e.1.lo == f.lo with
  | some e => e.2 i s % 2 ^ f.width
  | none => s.rd f

/-- What a field reads as. -/
def readFld (s : State) (f : Fld) : Nat := match findReg f.addr regTable with
  | some (r, i) => s.readAt r.base i f
  | none => s.rd f

/-- R7, R10: what the register at an address reads as: 0 where there is none, and its WO and reserved bits 0. -/
def readReg (s : State) (addr : Nat) : Nat := match findReg addr regTable with
  | some (r, i) => r.fields.foldl (fun w f =>
      if decide (f.acc = Acc.wo) then w else putField w f.lo f.width (s.readAt r.base i ⟨addr, f.lo, f.width, r.rst i⟩)) 0
  | none => 0

end State

end Sys2Proof.Machine
end

