-- ==== Sys2Proof/Machine/Router.lean ====
section
/-!
DEFINITION. Machine/Router.lean: the event router's commands (chapter 01).
-/
namespace Sys2Proof.Machine

namespace State

/-- R47: the better of two claim candidates (priority, line): the higher priority, then the lower line. -/
def betterLine (s : State) (best : Option Nat) (n : Nat) : Option Nat :=
  match best with
  | none => some n
  | some b => if s.rd (R.ROUTE_PRIO b) < s.rd (R.ROUTE_PRIO n) then some n else some b

/-- R47: the line a claim by core `c` takes: the pending line of the highest priority routed to it, the lowest among
equals. -/
def claimLine (s : State) (c : Nat) : Option Nat :=
  ((List.range 256).filter fun n => s.linePending n && s.bitAt (R.ROUTE_CORES n) c).foldl s.betterLine none

/-- R47: one core's claim: the value its read returns, and the line's pending bit cleared. -/
def claimOne (s : State) (c : Nat) : State :=
  match s.claimLine c with
  | some n => (s.clrBitAt (R.PEND_BITS (n / 32)) (n % 32)).emit (.claim c (0x80000000 + n))
  | none => s.emit (.claim c 0)

/-- R47 to R49: the claims of one cycle by `cores`, with the lines `events` set in the same cycle. -/
def claimAll (s : State) (cores events : List Nat) : State :=
  let order := tokenOrder 4 (s.rd R.CLAIM_TOKEN) cores
  let s := s.wr R.CLAIM_TOKEN (tokenAfter 4 (s.rd R.CLAIM_TOKEN) order)
  events.foldl raise (order.foldl claimOne s)

/-- R43: software events: the lines 232 + j of the bits `v` become pending. -/
def softEvents (s : State) (v : Nat) : State :=
  ((List.range 24).filter fun j => v.testBit j).foldl (fun s j => s.raise (232 + j)) s

end State

/-- EVR_CLAIM (R47 to R49). -/
def execEvrClaim (cores : List (Fin 4)) (events : List (Fin 256)) (s : State) : Result :=
  .next (s.accessRead (R.CLAIM_LINE 0) fun s => s.claimAll (cores.map (·.val)) (events.map (·.val)))

/-- EVR_SOFT (R43, R44). -/
def execEvrSoft (bits : BitVec 24) (s : State) : Result :=
  .next (s.access R.SOFT_SET fun s => s.softEvents bits.toNat)

end Sys2Proof.Machine
end

