-- ==== Sys2Proof/Machine/Triad.lean ====
section
/-!
DEFINITION. Machine/Triad.lean: the vote of the servo lanes, disagreement and retirement, the checkpoint and the warm start
(chapter 13).
-/
namespace Sys2Proof.Machine

open Arith

namespace State

/-! ### Lanes (R459 to R462) -/

/-- Lane `l` votes. -/
def voting (s : State) (l : Nat) : Bool := s.rd (R.LANE_STATE l) == 2

/-- The voting lanes. -/
def voters (s : State) : List Nat := (List.range 4).filter s.voting

/-- R459: a disagreement of lane `l`. -/
def disagree (s : State) (l : Nat) : State :=
  let s := { s with svt := { s.svt with dis := Store.modify [] s.svt.dis l fun d => s.svt.seq :: d } }
  ((s.count (R.LANE_DIS_CNT l)).raise 148).slideWindow l

/-- R462: the triad is lost. -/
def triadLost (s : State) : State :=
  if s.flag R.TRIAD_LOST then s else ((s.wr R.TRIAD_LOST 1).raise 151).detect 292

/-- R462, R465: what a retirement leaves: a warm start of L3 due, or the triad lost. -/
def afterRetirement (s : State) : State :=
  let n := s.voters.length
  if n < 2 then s.abandonWarm.triadLost
  else
    let due := decide (n = 2) && s.flag R.AUTO_WARM && s.rd (R.LANE_STATE 3) == 0
    { s with svt := { s.svt with warmDue := due } }

/-- R459, R468: lane `l` retired for `cause`. A lane that is retired, in self-test, or failed it has nothing to retire. -/
def retire (s : State) (l cause : Nat) : State :=
  let st := s.rd (R.LANE_STATE l)
  if 3 ≤ st then s
  else
    let joining := s.flag R.WARM_BUSY && s.rd R.WARM_LANE == l
    let s := if joining then s.abandonWarm else s
    let s := ((s.wr (R.LANE_STATE l) 3).wr (R.LANE_CAUSE l) cause).countVoters
    let s := ((s.count R.RETIREMENTS).raise 149).detect 290
    if st = 2 then s.afterRetirement else s

/-- R460: a firmware retirement is ignored where fewer than two voting lanes would remain. -/
def retireFirmware (s : State) (l : Nat) : State :=
  if ((s.voters.filter fun x => x != l).length) < 2 then s.wr R.WARM_CFG_ERR 1 else s.retire l 3

/-! ### The vote (R456 to R458) -/

/-- R457: how a vote interval ends: the record, a mismatch (3 or 2 lanes), nothing, or too few lanes; and the lanes that count a
disagreement. -/
inductive Vote where
  | record (dissent : List Nat)
  | triple
  | dual
  | absent (l : Nat)
  | tooFew
  deriving DecidableEq, Repr

/-- R457: the records of the voting lanes resolved. Two records that differ from the program's also differ from each other. -/
def vote (recs : List (Nat × LaneRecord)) : Vote :=
  let bad := (recs.filter fun r => decide (r.2 ≠ LaneRecord.agrees)).map fun r => r.1
  let missing := (recs.filter fun r => decide (r.2 = LaneRecord.missing)).map fun r => r.1
  let good := recs.length - bad.length
  if recs.length < 2 then .tooFew
  else if 2 < recs.length then if 2 ≤ good then .record bad else .triple
  else if good = 2 then .record []
  else match missing with
    | [l] => .absent l
    | _ => .dual

/-- R454, R458: what came up in the slice beside the records: a voter's disagreement, and lanes with a corrected word. -/
def sliceNotes (s : State) (voterError : Bool) (corrected : Nat) : State :=
  let s := if voterError then (s.count R.VOTER_ERR_CNT).detect 289 else s
  (List.range 4).foldl (fun s l => if corrected.testBit l then (s.count (R.LANE_CE_CNT l)).detect 291 else s) s

/-- R457: slice `n` ends as its vote says. -/
def sliceVote (s : State) (n : Nat) (v : Vote) : State :=
  match v with
  | .record d => d.foldl disagree (s.sliceDone n)
  | .triple => (((s.sliceMissed n).count R.TRIPLE_MISMATCH_CNT).raise 151).detect 288
  | .dual => (((s.sliceMissed n).count R.DUAL_MISMATCH_CNT).raise 151).detect 288
  | .absent l => (s.sliceMissed n).disagree l
  | .tooFew => (s.sliceMissed n).triadLost

/-! ### The checkpoint (R463, R464) -/

/-- The four words of a biquad. -/
def biquadWords (q : Biquad) : List Int := [q.x1, q.x2, q.y1, q.y2]

/-- R463: words 76 to 119 of a block, and words 2 to 31, are zero. -/
def zeros (n : Nat) : List Int := List.replicate n 0

/-- R463: word 67 of actuator `n`'s block. -/
def blockStatus (s : State) (n : Nat) : Nat :=
  let a := s.servo n
  s.rd (R.GOOD_WEDGES n) + 2 ^ 5 * s.rd (R.SV_COAST_NOW n) + 2 ^ 9 * min 255 a.feRun + 2 ^ 17 * a.slot0.lossRun
    + 2 ^ 21 * a.slot1.lossRun + 2 ^ 25 * ofBool a.missed

/-- R463: an assist loop's states. -/
def assistWords (l : SlotLoop) : List Int := [l.tf, l.ziA, l.corr, l.outA]

/-- A 64-bit history as two words, the low one first. -/
def histWords (v : Nat) : List Int := [((v % 2 ^ 32 : Nat) : Int), ((v / 2 ^ 32 % 2 ^ 32 : Nat) : Int)]

/-- R463: the 120 words of actuator `n`. Words 66 and 72 to 75, whose layout is not given, take the free values of `r`. -/
def actuatorWords (s : State) (n r : Nat) : List Int :=
  let a := s.servo n
  let (x, y) := (a.slot0, a.slot1)
  let free := fun (i : Nat) => ((r / 2 ^ (32 * i) % 2 ^ 32 : Nat) : Int)
  [a.p, a.v, a.b, a.zi, x.zm, y.zm, x.d, y.d, a.u, a.du]
    ++ ((List.range 8).map fun j => biquadWords (a.notch.getD j {})).flatten
    ++ biquadWords x.filter ++ biquadWords y.filter ++ [x.vma, y.vma, a.rv]
    ++ assistWords x ++ assistWords y
    ++ [(x.target : Int), a.dist, (a.seekFrames : Int), x.ofs, y.ofs, free 0, (s.blockStatus n : Int)]
    ++ histWords x.lossWin ++ histWords y.lossWin ++ [free 1, free 2, free 3, free 4] ++ zeros 44

/-- R463: the header words. -/
def headerWords (s : State) : List Int :=
  let modes := actuators.foldl (fun v n => v + 2 ^ (9 + 3 * n) * s.rd (R.SV_MODE n)) 0
  [(s.svt.seq : Int), ((s.rd R.FRAME_WEDGE + modes : Nat) : Int)] ++ zeros 30

/-- R463: the 512 words of a checkpoint. -/
def ckptWords (s : State) (r : Nat) : List Word :=
  let act := fun (n : Nat) => s.actuatorWords n (r / 2 ^ (160 * n))
  (s.headerWords ++ act 0 ++ act 1 ++ act 2 ++ act 3).map fun i => BitVec.ofInt 32 i

/-- R463: a checkpoint written into the other buffer; a word without a majority is not written. -/
def writeCheckpoint (s : State) (bad : List Nat) : State :=
  let (r, s) := s.free
  let buf := 1 - s.rd R.CKPT_BUF
  let bad := if s.voters.length < 2 then List.range 512 else bad
  let all := (List.range 512).zip (s.ckptWords r)
  let good := (all.filter fun e => !bad.contains e.1).map fun e => (512 * buf + e.1, e.2)
  let unclean := bad.foldl (fun m i => if 32 ≤ i then setBit m ((i - 32) / 120) else m) 0
  let s := { s with svt := { s.svt with ckpt := Store.putAll 0 s.svt.ckpt good, clean := bad.isEmpty } }
  ((s.wr R.CKPT_SEQ s.svt.seq).wr R.CKPT_BUF buf).wr R.CKPT_UNCLEAN unclean

/-! ### Warm start (R465 to R469) -/

/-- R465: the reset of lane `l` and the copy of the coefficient master begin. -/
def warmStart (s : State) (l : Nat) : State :=
  let s := { s with svt := { s.svt with warmRetired := s.rd (R.LANE_STATE l) == 3, warmDue := false } }
  (((s.wr (R.LANE_STATE l) 1).wr R.WARM_BUSY 1).wr R.WARM_LANE l).wr R.WARM_PHASE 2

/-- R465: LANE_WARM bit `l`. -/
def warmWrite (s : State) (l : Nat) : State :=
  let st := s.rd (R.LANE_STATE l)
  let eligible := st == 0 || (st == 3 && s.flag (R.LANE_BIST_PASS l))
  if s.flag R.WARM_BUSY || s.voters.length != 2 || !eligible then s.wr R.WARM_CFG_ERR 1 else s.warmStart l

/-- R465, R467, R471: the warm-started lane joins at a frame start; a held COEF_APPLY takes effect. -/
def laneJoin (s : State) (cycles : Nat) : State :=
  let l := s.rd R.WARM_LANE
  let s := (((s.wr (R.LANE_STATE l) 2).wr R.WARM_BUSY 0).wr R.WARM_PHASE 0).countVoters
  let s := (((s.wr R.WARM_TIME_LAST cycles).count R.WARM_STARTS).raise 150)
  actuators.foldl (fun s n => if s.bitAt R.COEF_PEND n then s.applyCoef n else s) s

/-- BIST_BUSY follows the lanes in self-test. -/
def bistBusy (s : State) : State :=
  s.wrFlag R.BIST_BUSY ((List.range 4).any fun l => s.rd (R.LANE_STATE l) == 4)

end State

/-! ### The commands -/

/-- SLICE_DEADLINE (R407, R430, R454, R456 to R462): the records of the lanes at the deadline of the slice due, whether the
voters disagreed, and the lanes that corrected a word of their memories. -/
def execSliceDeadline (lane0 lane1 lane2 lane3 : LaneRecord) (voterError : Bool) (corrected : BitVec 4) (s : State) : Result :=
  .next (
    let p := s.svt.phase
    if s.dom.svt && decide (1 ≤ p) && decide (p ≤ 4) then
      let recs := ((List.range 4).zip [lane0, lane1, lane2, lane3]).filter fun r => s.voting r.1
      let s := s.sliceNotes voterError corrected.toNat
      let s := s.sliceVote (p - 1) (State.vote recs)
      { s with svt := { s.svt with phase := p + 1 } }
    else s)

/-- CHECKPOINT (R406, R463, R464): the words named lacked a majority. -/
def execCheckpoint (noMajority : List (Fin 512)) (s : State) : Result :=
  .next (
    if s.dom.svt && s.svt.phase == 5 then
      let s := actuators.foldl State.restoreMissed s
      let s := s.writeCheckpoint (noMajority.map fun i => i.val)
      { s with svt := { s.svt with phase := 0 } }
    else s)

/-- LANE_RETIRE (R459, R460, R462, R468): by a window count, which must have reached the threshold, by a memory error, or by
firmware. -/
def execLaneRetire (cause : RetireCause) (s : State) : Result :=
  .next (match cause with
    | .window l => if s.dom.svt && s.voting l.val && decide (s.rd R.DIS_RETIRE_THR ≤ s.rd (R.LANE_WIN_DIS l.val)) then s.retire l.val 1 else s
    | .memory l => if s.dom.svt && (s.voting l.val || s.rd (R.LANE_STATE l.val) == 1) then s.retire l.val 2 else s
    | .firmware mask => s.access R.LANE_RETIRE fun s =>
      (List.range 4).foldl (fun s l => if mask.toNat.testBit l then s.retireFirmware l else s) s)

/-- LANE_WARM_START (R465, R466). -/
def execLaneWarmStart (trigger : WarmTrigger) (s : State) : Result :=
  .next (match trigger with
    | .retirement => if s.svt.warmDue && s.dom.svt && !s.flag R.WARM_BUSY then s.warmStart 3 else s
    | .firmware mask => s.access R.LANE_WARM fun s =>
      (List.range 4).foldl (fun s l => if mask.toNat.testBit l then s.warmWrite l else s) s)

/-- WARM_COPY_COMPLETE (R465, R466). -/
def execWarmCopyComplete (s : State) : Result :=
  .next (if s.flag R.WARM_BUSY && s.rd R.WARM_PHASE == 2 then s.wr R.WARM_PHASE 3 else s)

/-- WARM_STATE_LOAD (R463, R465): a clean checkpoint, in time for the next frame. -/
def execWarmStateLoad (s : State) : Result :=
  .next (if s.flag R.WARM_BUSY && s.rd R.WARM_PHASE == 3 && s.svt.clean && s.svt.phase == 0 then s.wr R.WARM_PHASE 4 else s)

/-- LANE_JOIN (R465 to R467): at the start of a frame, the given number of SCLK cycles after the trigger. -/
def execLaneJoin (cycles : BitVec 16) (s : State) : Result :=
  .next (if s.flag R.WARM_BUSY && s.rd R.WARM_PHASE == 4 && decide (s.svt.phase ≤ 1) then s.laneJoin cycles.toNat else s)

/-- LANE_BIST (R469): of each lane named that is off or retired. -/
def execLaneBist (mask : BitVec 4) (s : State) : Result :=
  .next (s.access R.LANE_BIST fun s =>
    ((List.range 4).foldl (fun s l =>
      let st := s.rd (R.LANE_STATE l)
      if mask.toNat.testBit l && (st == 0 || st == 3) then s.wr (R.LANE_STATE l) 4 else s) s).bistBusy)

/-- LANE_BIST_DONE (R469): a lane that passed is off, or retired, as before. -/
def execLaneBistDone (l : Fin 4) (pass : Bool) (s : State) : Result :=
  .next (if s.rd (R.LANE_STATE l.val) = 4 then
    let back := if s.rd (R.LANE_CAUSE l.val) = 0 then 0 else 3
    (if pass then (s.wr (R.LANE_STATE l.val) back).wr (R.LANE_BIST_PASS l.val) 1
     else (s.wr (R.LANE_STATE l.val) 5).wr (R.LANE_CAUSE l.val) 4).bistBusy
  else s)

/-- TRIAD_CNT_CLR (R472, R474, R475). -/
def execTriadCntClr (s : State) : Result :=
  .next (s.access R.TRIAD_CNT_CLR fun s => s.clearAll ([R.DUAL_MISMATCH_CNT, R.TRIPLE_MISMATCH_CNT, R.VOTER_ERR_CNT,
    R.WARM_STARTS, R.RETIREMENTS] ++ (List.range 4).map R.LANE_DIS_CNT ++ (List.range 4).map R.LANE_CE_CNT))

end Sys2Proof.Machine
end

