-- ==== Sys2Proof/Machine/RegWrite.lean ====
section
/-!
DEFINITION. Machine/RegWrite.lean: a 32-bit write of a register with every effect it has: field accesses, clamps and locks, and
the operations its fields start (R7 to R10, R17, R29 to R33, and the field maps of every chapter).
-/
namespace Sys2Proof.Machine

open Arith

/-- What a command leaves; a command that does not answer a next state leaves the state as it was. -/
def left (s : State) (r : Result) : State := match r with
  | .next t => t
  | .fault _ => s
  | .refused _ => s

/-- R7: a value as it is clamped. -/
def clampTo (c : Clamp) (width v : Nat) : Nat := match c with
  | .none => v
  | .own => v
  | .range lo hi => clamp lo hi v
  | .nonzero lo hi => if v = 0 then 0 else clamp lo hi v
  | .signed lim => unsigned width (iclamp (-(lim : Int)) lim (signed width v))
  | .even lo hi => clamp lo hi v / 2 * 2

/-- A register's value masked into its old word: the bits of `m` come from `v`. -/
def maskedWord (old v m : Nat) : Nat := (v &&& m) ||| (old &&& (2 ^ 32 - 1 - m % 2 ^ 32))

/-- The indexes of an array element. -/
def ixs (i : List Nat) (k : Nat) : Nat := i.getD k 0

namespace State

/-! ### Writes that are ignored -/

/-- R89: the power configuration is locked. -/
def pwrLocked (s : State) : Bool := s.flag R.CFG_LOCK

/-- An ignored write with no other effect, where `b`. -/
def ignoreIf (s : State) (b : Bool) : Option State := if b then some s else none

/-- R575: the fields of a fault source that ignore a write. -/
def srcIgnored (s : State) (i : Nat) : Bool := s.flag R.FCU_CFG_LOCK || srcLocked i || (srcDefault i).isNone

/-- R513: the Pack settings of a namespace that exists. -/
def packLocked (s : State) (k : Nat) : Option State :=
  if s.nsExists (k + 1) then some (s.wr R.PAK_CFG_ERR 1) else none

/-- R261, R273, R537: a field of an enabled window, range or region: the same value leaves it, another is an ignored write. -/
def heldField (s : State) (on : Bool) (f : Fld) (v : Nat) (err : State → State) : Option State :=
  if on then some (if s.rd f = v then s else err s) else none

/-- The fields whose writes can be ignored, each by its field at index 0: the state an ignored write of `v` leaves, or none
where the write is taken. -/
def writeGuards : List (Fld × (List Nat → Nat → State → Option State)) := [
  (R.PF_THRESH_DV, fun _ _ s => s.ignoreIf s.pwrLocked),
  (R.REGEN_SETPT, fun _ _ s => s.ignoreIf s.pwrLocked),
  (R.HOLDUP_NEED_MJ, fun _ _ s => s.ignoreIf s.pwrLocked),
  (R.SCHEME, fun _ _ s => s.ignoreIf (s.flag R.FCU_CFG_LOCK)),
  (R.FATAL_RESET, fun _ _ s => s.ignoreIf (s.flag R.FCU_CFG_LOCK)),
  (R.FATAL_RST_MS, fun _ _ s => s.ignoreIf (s.flag R.FCU_CFG_LOCK)),
  (R.FATAL_RST_MAX, fun _ _ s => s.ignoreIf (s.flag R.FCU_CFG_LOCK)),
  (R.SEV_CLASS 0, fun _ _ s => s.ignoreIf (s.flag R.FCU_CFG_LOCK)),
  (R.SA_WG 0, fun _ _ s => s.ignoreIf (s.flag R.FCU_CFG_LOCK)),
  (R.SA_AS 0, fun _ _ s => s.ignoreIf (s.flag R.FCU_CFG_LOCK)),
  (R.SA_HOLD 0, fun _ _ s => s.ignoreIf (s.flag R.FCU_CFG_LOCK)),
  (R.SA_RET 0, fun _ _ s => s.ignoreIf (s.flag R.FCU_CFG_LOCK)),
  (R.SA_ARST 0, fun _ _ s => s.ignoreIf (s.flag R.FCU_CFG_LOCK)),
  (R.SRC_CLASS 0, fun i _ s => s.ignoreIf (s.srcIgnored (ixs i 0))),
  (R.SRC_SEV 0, fun i _ s => s.ignoreIf (s.srcIgnored (ixs i 0))),
  (R.SRC_RPT_EN 0, fun i _ s => s.ignoreIf (srcDefault (ixs i 0)).isNone),
  (R.SRC_CNT 0, fun i _ s => s.ignoreIf (srcDefault (ixs i 0)).isNone),
  (R.THR_WARN, fun _ _ s => s.ignoreIf (s.flag R.THM_CFG_LOCK)),
  (R.THR_THROTTLE, fun _ _ s => s.ignoreIf (s.flag R.THM_CFG_LOCK)),
  (R.THR_SHUT, fun _ _ s => s.ignoreIf (s.flag R.THM_CFG_LOCK)),
  (R.THR_L2_STEP, fun _ _ s => s.ignoreIf (s.flag R.THM_CFG_LOCK)),
  (R.SENS_EN, fun _ _ s => s.ignoreIf (s.flag R.THM_CFG_LOCK)),
  (R.NS_RATIO 0, fun i _ s => s.packLocked (ixs i 0)),
  (R.OVF_PCT 0, fun i _ s => s.packLocked (ixs i 0)),
  (R.EXT_RSV_GIB 0, fun i _ s => s.packLocked (ixs i 0)),
  (R.WIN_BASE 0, fun i v s => s.heldField (s.flag (R.WIN_EN (ixs i 0))) (R.WIN_BASE (ixs i 0)) v windowError),
  (R.WIN_SIZE 0, fun i v s => s.heldField (s.flag (R.WIN_EN (ixs i 0))) (R.WIN_SIZE (ixs i 0)) v windowError),
  (R.LOCK_LINE 0, fun i v s => s.heldField (s.flag (R.LOCK_EN (ixs i 0))) (R.LOCK_LINE (ixs i 0)) v lockError),
  (R.LOCK_LINES 0, fun i v s => s.heldField (s.flag (R.LOCK_EN (ixs i 0))) (R.LOCK_LINES (ixs i 0)) v lockError),
  (R.REG_BASE 0, fun i v s => s.heldField (s.flag (R.REG_EN (ixs i 0))) (R.REG_BASE (ixs i 0)) v regionError),
  (R.REG_SIZE 0, fun i v s => s.heldField (s.flag (R.REG_EN (ixs i 0))) (R.REG_SIZE (ixs i 0)) v regionError),
  (R.REG_CODE 0, fun i v s => s.heldField (s.flag (R.REG_EN (ixs i 0))) (R.REG_CODE (ixs i 0)) v regionError),
  (R.CHK_BASE 0, fun i v s => s.heldField (s.flag (R.REG_EN (ixs i 0))) (R.CHK_BASE (ixs i 0)) v regionError),
  (R.PERT_RAND, fun _ _ s => s.ignoreIf (!s.pertWritable)),
  (R.PERT_SEED, fun _ _ s => s.ignoreIf (!s.pertWritable)),
  (R.FETCH_DLY, fun _ _ s => s.ignoreIf (!s.pertWritable)),
  (R.COMMIT_DLY, fun _ _ s => s.ignoreIf (!s.pertWritable)),
  (R.TAG_CAP, fun _ _ s => s.ignoreIf (!s.pertWritable)),
  (R.DMC_PORT_MASK, fun _ _ s => s.ignoreIf (!s.pertWritable)),
  (R.DMC_DLY, fun _ _ s => s.ignoreIf (!s.pertWritable)),
  (R.ABX_BEAD_CAP, fun _ _ s => s.ignoreIf (!s.pertWritable)),
  (R.ABX_LLR_CAP, fun _ _ s => s.ignoreIf (!s.pertWritable)),
  (R.ABX_HO_DLY, fun _ _ s => s.ignoreIf (!s.pertWritable)),
  (R.MTU_ISSUE_DLY, fun _ _ s => s.ignoreIf (!s.pertWritable)),
  (R.MTU_BUF_CAP_64K, fun _ _ s => s.ignoreIf (!s.pertWritable)),
  (R.SVT_DLY_LANE, fun _ _ s => s.ignoreIf (!s.pertWritable)),
  (R.SVT_DLY_CYC, fun _ _ s => s.ignoreIf (!s.pertWritable))]

/-! ### Fields that a rule of their own limits -/

/-- R179, R190: TAG_RSV of port `k`. -/
def writeTagRsv (s : State) (k v : Nat) : State :=
  let v := if k < 4 then max 16 v else v
  let others := (s.configured.filter fun p => p != k).foldl (fun t p => t + s.rd (R.TAG_RSV p)) 0
  if s.configured.contains k && decide (8192 < others + v) then s.wr R.TAG_CFG_ERR 1 else (s.wr (R.TAG_RSV k) v).refreshTags

/-- R171: Q_QUOTA of port `k`. -/
def writeQuota (s : State) (k v : Nat) : State :=
  let l := (List.range 4).filter fun p => s.flag (R.PORT_PRESENT p)
  let others := (l.filter fun p => p != k).foldl (fun t p => t + s.rd (R.Q_QUOTA p)) 0
  if l.contains k && decide (16384 < others + v) then s.wr R.QUOTA_ERR 1 else s.wr (R.Q_QUOTA k) v

/-- R235: ZONE_CTX_COUNT: only while no zone is active and no stream open. -/
def writeContexts (s : State) (v : Nat) : State :=
  let open_ := s.nv.namespaces.any fun e => match e.2 with
    | some n => !n.streams.isEmpty
    | none => false
  if s.activeZones = 0 && !open_ then s.wr R.ZONE_CTX_COUNT (clamp 256 4080 v) else s.wr R.CTX_CFG_ERR 1

/-- R340: LLR_RSV of stream `k`; R364: event line 99 with RSV_CFG_ERR. -/
def writeLlrRsv (s : State) (k v : Nat) : State :=
  let others := ((List.range 8).filter fun p => p != k).foldl (fun t p => t + s.rd (R.LLR_RSV p)) 0
  if 384 < others + v then (s.wr R.RSV_CFG_ERR 1).raise 99 else s.wr (R.LLR_RSV k) v

/-- R478: the variant's highest ASST_MAX. -/
def asstLimit (s : State) : Nat := if s.fuses.variant = 1 then 3600 else if s.fuses.variant = 2 then 3200 else 0

/-- R509: the variant's highest PASST_V; the lower one where the variant has no element. -/
def passtLimit (s : State) : Nat := if s.fuses.variant = 1 then 100 else 30

/-- R617: the thresholds limited to one another. -/
def limitThermal (s : State) : State :=
  let shut := clamp 100 150 (s.rd R.THR_SHUT)
  let step := max 1 (s.rd R.THR_L2_STEP)
  let throttle := min (s.rd R.THR_THROTTLE) (shut - 1 - step)
  let step := min step (shut - 1 - throttle)
  ((((s.wr R.THR_SHUT shut).wr R.THR_THROTTLE throttle).wr R.THR_L2_STEP step)).wr R.THR_WARN (min (s.rd R.THR_WARN) throttle)

/-- R487, R509: AGE_WARN_THR limited to AGE_LIMIT_THR; AGE_OVER_WARN of every head follows. -/
def limitAge (s : State) : State :=
  let s := s.wr R.AGE_WARN_THR (min (s.rd R.AGE_WARN_THR) (s.rd R.AGE_LIMIT_THR))
  (List.range 32).foldl ageWarn s

/-- R255: FREE_BANDS_LOW limited by FREE_BANDS_MIN. -/
def limitBands (s : State) : State := s.wr R.FREE_BANDS_LOW (max (s.rd R.FREE_BANDS_LOW) (s.rd R.FREE_BANDS_MIN + 8))

/-- R302: DLC_NW of a slot: its clock locks anew. -/
def writeWedgeSymbols (s : State) (n h v : Nat) : State :=
  (s.wr (R.DLC_NW n h) (clampTo (.nonzero 16384 1048575) 20 v)).modSlot (2 * n + h) fun c => { c with goodFields := 0 }

/-- R298: a FIR tap, in force from the next sector start. -/
def writeTap (s : State) (n h r k v : Nat) : State :=
  (s.wr (R.FIR_TAP n h r k) v).modSlot (2 * n + h) fun c => { c with firPend := c.firPend ++ [16 * r + k] }

/-- R678: COHORT_EN: the first edge after it is set is accepted. -/
def writeCohortEn (s : State) (v : Nat) : State :=
  let s := if v = 1 && !s.flag R.COHORT_EN then { s with cohort := {} } else s
  s.wr R.COHORT_EN v

/-- R604: FREEZE. -/
def writeFreeze (s : State) (v : Nat) : State :=
  if v = 1 then left s (execTallyFreeze s) else left s (execTallyUnfreeze s)

/-- R261: WIN_EN of window `k`. -/
def writeWindowEn (s : State) (k : Fin 4) (v : Nat) : State :=
  if v = 1 then left s (execMcaWindowEnable k (BitVec.ofNat 15 (s.rd (R.WIN_BASE k.val))) s) else left s (execMcaWindowDisable k s)

/-- R537: REG_EN of region `k`. -/
def writeRegionEn (s : State) (k v : Nat) : State :=
  if v = 0 then s.disableRegion k
  else if s.flag (R.REG_EN k) then s
  else s.enableRegion k (s.rd (R.REG_BASE k)) (s.flag (R.REG_ADOPT k))

/-- R494, R501: the ASD table word of head `j`, zone `z`, and the head word of `j`. -/
def writeAssistTable (s : State) (j z w : Nat) : State := s.firmwareWord ⟨2, j, z, 0⟩ w

/-- R478, R494: the head word of `j`, its ASST_MAX limited by the variant. -/
def writeAssistHead (s : State) (j w : Nat) : State :=
  s.firmwareWord ⟨3, j, 0, 0⟩ (putField w 16 12 (min (field w 16 12) s.asstLimit))

/-! ### What fields do -/

/-- The commands of register fields of the host, media, map, DRAM and Keep store blocks, each by its field at index 0: the effect
of the value `v`, with the whole word `w` of the write. -/
def hostHooks : List (Fld × (List Nat → Nat → Nat → State → State)) := [
  (R.SOFT_SET, fun _ v _ s => s.softEvents v),
  (R.PA_EN, fun _ v _ s => s.railEnable v (s.rd R.PASST_EN)),
  (R.PASST_EN, fun _ v _ s => s.railEnable (s.rd R.PA_EN) v),
  (R.RST_DEVICE, fun _ v w s => if v = 1 ∧ w % 65536 = 0xD1CE then left s (execDeviceReset .software s) else s),
  (R.RST_ACT, fun _ v w s => if w % 65536 = 0xD1CE then left s (execActuatorReset (BitVec.ofNat 4 v) s) else s),
  (R.REPLAY_GO, fun _ v _ s => if v = 1 then s.replayGo (s.rd R.REPLAY_AREA) else s),
  (R.CONSUME, fun _ v _ s => if v = 1 then s.consumeGo (s.rd R.REPLAY_AREA) else s),
  (R.TAG_RSV 0, fun i v _ s => s.writeTagRsv (ixs i 0) v),
  (R.Q_QUOTA 0, fun i v _ s => s.writeQuota (ixs i 0) v),
  (R.ZONE_CTX_COUNT, fun _ v _ s => s.writeContexts v),
  (R.ACT_FAIL_DECL 0, fun i v _ s => if v = 1 then left s (execActuatorFailDeclare (Fin.ofNat 4 (ixs i 0)) s) else s),
  (R.MAP_RESUME, fun _ v _ s => if v = 1 then left s (execMapResume s) else s),
  (R.MC_CNT_CLR, fun _ v _ s => if v = 1 then left s (execMcCntClr s) else s),
  (R.WIN_EN 0, fun i v _ s => s.writeWindowEn (Fin.ofNat 4 (ixs i 0)) v),
  (R.RANGE_GO, fun _ v _ s => if v = 1 then s.rangeGo (s.rd R.RANGE_OP) else s),
  (R.LOCK_EN 0, fun i v _ s =>
    let k : Fin 8 := Fin.ofNat 8 (ixs i 0)
    if v = 1 then left s (execMcaLockEnable k s) else left s (execMcaLockDisable k s)),
  (R.LOCK_LOAD 0, fun i v _ s => if v = 1 then left s (execLockLoad (Fin.ofNat 8 (ixs i 0)) s) else s),
  (R.MC_DIAG_GO, fun _ v _ s => if v = 1 then left s (execMcDiagGo (BitVec.ofNat 12 (s.rd R.MC_DIAG_SET))
    (Fin.ofNat 16 (s.rd R.MC_DIAG_WAY)) (s.flag R.MC_DIAG_VICTIM) false s) else s),
  (R.ZR_WRITE, fun _ v _ s => if v = 1 then s.zrWrite (s.rd R.ZR_RATIO) false else s),
  (R.ZR_READ, fun _ v _ s => if v = 1 then left s (execZrRead s) else s),
  (R.PAK_CNT_CLR, fun _ v _ s => if v = 1 then left s (execPakCntClr s) else s),
  (R.DMC_CNT_CLR, fun _ v _ s => if v = 1 then left s (execDmcCntClr s) else s),
  (R.CE_LOG_CLR, fun _ v _ s => if v = 1 then left s (execCeLogClr s) else s),
  (R.REG_EN 0, fun i v _ s => s.writeRegionEn (ixs i 0) v),
  (R.REG_MARK 0, fun i v _ s => if v = 1 then s.markRegion (ixs i 0) else s),
  (R.SPR_GO, fun _ v _ s => if v = 1 then s.sparGo (s.rd R.SPR_BANK) (s.rd R.SPR_ROW) else s),
  (R.DIAG_GO, fun _ v _ s => if v = 1 then s.diagGo (s.rd R.DIAG_WORD) (s.rd R.DIAG_OP) else s),
  (R.CEL_VALID 0, fun i v _ s => if v = 1 then s.freeLog (ixs i 0) else s)]

/-- The commands of register fields of the channel, Abacus, sequencer, servo and calibration blocks. -/
def driveHooks : List (Fld × (List Nat → Nat → Nat → State → State)) := [
  (R.CHN_CNT_CLR 0, fun i v _ s => if v = 1 then left s (execChnCntClr (Fin.ofNat 4 (ixs i 0)) s) else s),
  (R.DLC_NW 0 0, fun i v _ s => s.writeWedgeSymbols (ixs i 0) (ixs i 1) v),
  (R.FIR_TAP 0 0 0 0, fun i v _ s => s.writeTap (ixs i 0) (ixs i 1) (ixs i 2) (ixs i 3) v),
  (R.ITER_MAX, fun _ v _ s => s.wr R.ITER_MAX (min (clamp 1 32 v) (s.rd R.RCV_ITER_MAX))),
  (R.RCV_ITER_MAX, fun _ v _ s => s.wr R.RCV_ITER_MAX (clamp (s.rd R.ITER_MAX) 32 v)),
  (R.LLR_RSV 0, fun i v _ s => s.writeLlrRsv (ixs i 0) v),
  (R.ABX_CNT_CLR, fun _ v _ s => if v = 1 then left s (execAbxCntClr s) else s),
  (R.SWAP_REQ 0, fun i v _ s => if v = 1 then s.swapReq (ixs i 0) else s),
  (R.MC_RESTART 0, fun i v _ s => if v = 1 then s.mcRestart (ixs i 0) else s),
  (R.LOAD_GO 0, fun i v _ s => if v = 1 then s.loadGo (ixs i 0) else s),
  (R.FSQ_CNT_CLR 0, fun i v _ s => if v = 1 then left s (execFsqCntClr (Fin.ofNat 4 (ixs i 0)) s) else s),
  (R.PSI_D_GO 0, fun i v _ s => if v = 1 then left s (execPsiDGo (Fin.ofNat 4 (ixs i 0)) false s) else s),
  (R.WSQ_SRC 0 0, fun i v _ s =>
    left s (execWsqSrcWrite (Fin.ofNat 4 (ixs i 0)) (Fin.ofNat 2 (ixs i 1)) (BitVec.ofNat 2 v) s)),
  (R.COEF_APPLY, fun _ v _ s => left s (execCoefApply (BitVec.ofNat 4 v) s)),
  (R.SV_CNT_CLR 0, fun i v _ s => if v = 1 then left s (execSvCntClr (Fin.ofNat 4 (ixs i 0)) s) else s),
  (R.SPM_RPM, fun _ v _ s => s.speedWritten v),
  (R.LANE_RETIRE, fun _ v _ s => left s (execLaneRetire (.firmware (BitVec.ofNat 4 v)) s)),
  (R.LANE_WARM, fun _ v _ s => left s (execLaneWarmStart (.firmware (BitVec.ofNat 4 v)) s)),
  (R.TRIAD_CNT_CLR, fun _ v _ s => if v = 1 then left s (execTriadCntClr s) else s),
  (R.LANE_BIST, fun _ v _ s => left s (execLaneBist (BitVec.ofNat 4 v) s)),
  (R.ASST_FORCED, fun _ v _ s => s.clearForce v),
  (R.ASD_CNT_CLR, fun _ v _ s => if v = 1 then left s (execAsdCntClr s) else s),
  (R.PASST_V 0, fun i v _ s => s.wr (R.PASST_V (ixs i 0)) (min v s.passtLimit)),
  (R.STORE_GO, fun _ v _ s => if v = 1 then s.storeGo else s),
  (R.TBL_DATA, fun _ v _ s => s.tblAccess (some v)),
  (R.RUN_START 0, fun i v _ s =>
    let k := ixs i 0
    if v = 1 then s.runStart k (s.rd (R.RUN_TYPE k)) (s.rd (R.RUN_UNIT k)) (s.rd (R.RUN_SLOT k)) else s),
  (R.RUN_FINISH 0, fun i v _ s => if v = 1 then left s (execRunFinish (Fin.ofNat 4 (ixs i 0)) 0 s) else s),
  (R.RUN_CANCEL 0, fun i v _ s => if v = 1 then left s (execRunCancel (Fin.ofNat 4 (ixs i 0)) 0 s) else s)]

/-- The commands of register fields of the FCU, TLY, AON, MGT, TST and cohort. -/
def faultHooks : List (Fld × (List Nat → Nat → Nat → State → State)) := [
  (R.Q_POP, fun _ v _ s => if v = 1 then s.popRecord else s),
  (R.FCU_CNT_CLR, fun _ v _ s => if v = 1 then left s (execFcuCntClr s) else s),
  (R.HIGH_CLASS, fun _ v _ s => if v = 0 then s else s.clearAll [R.HIGH_CLASS, R.HIGH_SEV]),
  (R.LATCH_CLASS, fun _ v _ s => if v = 0 then s else s.clearAll [R.LATCH_CLASS, R.LATCH_SRC]),
  (R.ACT_HOLD, fun _ v _ s => s.releaseHolds v),
  (R.WDOG_MS, fun _ v _ s => left s (execWdogMsWrite (BitVec.ofNat 16 v) 0 s)),
  (R.WDOG_EN, fun _ v _ s => if v = 1 then left s (execWdogEn s) else s),
  (R.WDOG_KICK, fun _ v _ s => if v = 1 then left s (execWdogKick s) else s),
  (R.FREEZE, fun _ v _ s => s.writeFreeze v),
  (R.FLUSH_REQ, fun _ v _ s => if v = 1 then s.tallyFlushStart else s),
  (R.FW_EVT_GO, fun _ v _ s => if v = 1 then left s (execFwEvtGo s) else s),
  (R.CAL_MS_HI, fun _ v _ s => s.setCalendar (s.rd R.CAL_MS_LO + 2 ^ 32 * v)),
  (R.OWN_DROP, fun _ v _ s => if v = 1 then s.unown else s),
  (R.DRAIN_REQ, fun _ v _ s => s.drainRequest v),
  (R.ACTV_GO, fun _ v _ s => if v = 1 then s.activationGo false else s),
  (R.ACTV_RELEASE, fun _ v _ s => if v = 1 then s.activationRelease else s),
  (R.PERT_ARM, fun _ v _ s => s.pertArm (v == 1)),
  (R.COHORT_ID, fun _ v _ s => s.cohortId v),
  (R.COHORT_EN, fun _ v _ s => s.writeCohortEn v)]

/-- The registers whose fields limit one another, or the target state (R102), by address: what follows once all are written. -/
def afterWrite : List (Nat × (State → State)) := [
  (R.THR_SHUT.addr, limitThermal), (R.THR_L2_STEP.addr, limitThermal), (R.AGE_WARN_THR.addr, limitAge),
  (R.FREE_BANDS_LOW.addr, limitBands), (R.IDLE_DEPTH_MAX.addr, retarget)]

/-- The registers written as one word, by the address of their first: head words and assist table words. -/
def wordHooks : List (Nat × (List Nat → Nat → State → State)) := [
  ((R.ASST_BASE 0 0).addr, fun i w s => s.writeAssistTable (ixs i 0) (ixs i 1) w),
  ((R.AGE_GAIN 0).addr, fun i w s => s.writeAssistHead (ixs i 0) w)]

/-! ### One register (R7, R10) -/

/-- The write of a field that no rule of its own covers: R7's code and the field's clamp. -/
def plainWrite (s : State) (f : Fld) (r : FldRow) (v : Nat) : State := match r.acc with
  | .ro => s
  | .wo => s
  | .rw => s.wr f (clampTo r.clamp f.width v)
  | .w1c => s.w1c f v r.anyClears
  | .w1s => s.wr f (s.rd f ||| v)

/-- A field of the element `i` of a register's row written with the word `w`. -/
def writeField (base : Nat) (i : List Nat) (addr : Nat) (row : RegRow) (w m : Nat) (s : State) (r : FldRow) : State :=
  if field m r.lo r.width ≠ 2 ^ r.width - 1 then s
  else
    let v := field w r.lo r.width
    let f : Fld := ⟨addr, r.lo, r.width, row.rst i⟩
    let same := fun (g : Fld) => g.addr == base && g.lo == r.lo
    let taken := match writeGuards.find? fun e => same e.1 with
      | some e => e.2 i v s
      | none => none
    match taken with
    | some t => t
    | none => match (hostHooks ++ driveHooks ++ faultHooks).find? fun e => same e.1 with
      | some e => e.2 i v w s
      | none => s.plainWrite f r v

/-- R7, R8, R10: the register at `addr` written with `v` in the bits of `m`; an offset without one ignores it. -/
def regWrite (s : State) (addr v m : Nat) : State := match findReg addr regTable with
  | none => s
  | some (row, i) =>
    match wordHooks.find? fun e => e.1 == row.base with
    | some e => e.2 i (maskedWord (s.word addr (row.rst i)) v m) s
    | none =>
      let s := row.fields.foldl (writeField row.base i addr row v m) s
      match afterWrite.find? fun e => e.1 == addr with
      | some e => e.2 s
      | none => s

/-- One field written as a register write carries it: the way of dictionary writes (R14). -/
def fieldWrite (s : State) (f : Fld) (v : Nat) : State :=
  s.regWrite f.addr (v % 2 ^ f.width * 2 ^ f.lo) ((2 ^ f.width - 1) * 2 ^ f.lo)

/-! ### Accesses (R9, R17, R29 to R33) -/

/-- R19: the address lies in a block's window. -/
def inWindow (addr : Nat) : Bool :=
  [0x4000, 0x4001, 0x4002, 0x4003, 0x4004, 0x4005, 0x4006, 0x4007, 0x4008, 0x4010, 0x4011, 0x4012, 0x4013, 0x4020, 0x4021, 0x4022,
   0x4023, 0x4030, 0x4031, 0x4032, 0x4033, 0x4040, 0x4041, 0x4042, 0x4043, 0x4044, 0x4050, 0x4051, 0x4052, 0x4060].contains
    (addr / 65536)

/-- R17: a writer's position at the register arbiter. -/
def writerPos : Writer → Nat
  | .core _ => 0
  | .debugPort => 0
  | .mgt => 1
  | .block => 2

/-- R24, R32: the writer can address the general map. -/
def mayWrite (s : State) : Writer → Bool
  | .core c => s.boot.cores.testBit c.val
  | .debugPort => s.tap.ir == 0x20 && s.flag R.DBG_UNLOCKED
  | .mgt => true
  | .block => true

/-- R682: TST_ACTV's control bits act only through C0. -/
def writerMask (x : RegAccess) : Nat :=
  if x.addr.toNat = R.ACTV_GO.addr ∧ x.writer ≠ Writer.core 0 then x.mask.toNat &&& (2 ^ 32 - 4) else x.mask.toNat

/-- R9, R30, R33: the write reaches its block. -/
def lands (s : State) (x : RegAccess) : Bool :=
  x.whole && x.addr.toNat % 4 == 0 && inWindow x.addr.toNat && s.reachable x.addr.toNat

/-- R9, R10, R30, R33: one register write reaches its register, or ends in a bus error. -/
def oneWrite (s : State) (x : RegAccess) : State :=
  if s.lands x then s.regWrite x.addr.toNat x.value.toNat (writerMask x) else s.emit (.busError x.addr.toNat)

/-- R29, R30: a write outside the register window: SRAM or DRAM takes it; anything else is a bus error. -/
def memoryWrite (s : State) (x : RegAccess) : State :=
  let a := x.addr.toNat
  if 0x10000000 ≤ a ∧ a ≤ 0x117FFFFC then s.loadBytes a 4 x.value.toNat
  else if 0x800000000 ≤ a ∧ a % 4 = 0 then
    let o := a % 64
    s.grantDram [⟨0, (a - 0x800000000) / 64, .masked (0xF * 2 ^ o) (x.value.toNat * 2 ^ (8 * o))⟩]
  else s.emit (.busError a)

/-- R17: the writes of one cycle: those to registers in turn-token order, REG_TOKEN then one past the last that reached its block;
then those to memory. -/
def cycleWrites (s : State) (l : List RegAccess) : State :=
  let l := l.filter fun x => s.mayWrite x.writer
  let regs := l.filter fun x => x.addr.toNat / 2 ^ 28 == 4
  let order := tokenOrder 3 (s.rd R.REG_TOKEN) (regs.map fun x => writerPos x.writer)
  let landed := tokenOrder 3 (s.rd R.REG_TOKEN) ((regs.filter s.lands).map fun x => writerPos x.writer)
  let s := s.wr R.REG_TOKEN (tokenAfter 3 (s.rd R.REG_TOKEN) landed)
  let s := (order.flatMap fun p => regs.filter fun x => writerPos x.writer == p).foldl oneWrite s
  (l.filter fun x => x.addr.toNat / 2 ^ 28 != 4).foldl memoryWrite s

end State

/-- REGISTER_WRITE (R7 to R10, R17, R29 to R33): the writes of one cycle. -/
def execRegisterWrite (writes : List RegAccess) (s : State) : Result := .next (s.cycleWrites writes)

end Sys2Proof.Machine
end

