-- ==== Sys2Proof/Machine/Dictionary.lean ====
section
/-!
DEFINITION. Machine/Dictionary.lean: the object dictionary as data: each object's type, access class, default, range, lock and
storage (R12 to R14, R626 to R632, and the object tables of every chapter), and what an object reads as.
-/
namespace Sys2Proof.Machine

open Arith

/-! ### Objects -/

/-- What an object reports as its default: a number, its field's reset value, or the value in force. -/
inductive Dflt where
  | num (v : Int)
  | reset
  | now
  deriving DecidableEq, Repr

/-- What locks an object against writes (R89, R575, R617). -/
inductive ObjLock where
  | none | power | faults | source | thermal
  deriving DecidableEq, Repr

/-- The objects that no single register field holds. -/
inductive Special where
  | recovered | pcieWidth | subsystemVendor | subsystem | sasName | actuatorFailed | compat | severity | owner
  | calStore | calState | profile | setpoint | coefficients | inertia | seekTable | format | history
  | tallyRecords | tallyClear | tallyFlush | inputVoltage | inputPower | hours | calendar
  | fwSvn | mcSvn | revoke | spinAtBoot | updateImage | updateCommit | updateStatus | recoveryImage | recoveryBoot
  | debugUnlock | certChain | aliasCert | measurements | spareRow
  deriving DecidableEq, Repr

/-- Where an object's value stands: a register field, by the object's place `a` and `b` in its index and subindex ranges; a
field that others limit; one bit of a field, by `b`; words of registers; or elsewhere. -/
inductive ObjStore where
  | field (f : Nat → Nat → Fld)
  | coupled (f : Fld)
  | bit (f : Fld)
  | words (n : Nat) (addr : Nat → Nat)
  | special (k : Special)

/-- A row of the object tables: its index and subindex ranges; type and access class as DM_TYPE and DM_ACCESS give them (R630);
default; the range of values a SET may carry (for STR and BLOB, of lengths); lock; storage. -/
structure ObjRow where
  idxLo : Nat
  idxHi : Nat
  subLo : Nat
  subHi : Nat
  type : Nat
  access : Nat
  dflt : Dflt
  range : State → Int × Int
  lock : ObjLock
  store : ObjStore

/-- A range that nothing changes. -/
def fix (lo hi : Int) : State → Int × Int := fun _ => (lo, hi)

/-- The identity, ownership, host, ordering and power-state objects (R152, R192, R222, R116, R658). -/
def hostObjects : List ObjRow := [
  ⟨0x1010, 0x1010, 0x01, 0x01, 7, 0, .now, (fix 0 8), .none, .words 2 fun k => R.LOT_LO.addr + 4 * k⟩,
  ⟨0x1010, 0x1010, 0x02, 0x02, 0, 0, .now, (fix 1 25), .none, .field fun _ _ => R.WAFER_NUM⟩,
  ⟨0x1010, 0x1010, 0x03, 0x03, 0, 0, .now, (fix 0 255), .none, .field fun _ _ => R.DIE_X⟩,
  ⟨0x1010, 0x1010, 0x04, 0x04, 0, 0, .now, (fix 0 255), .none, .field fun _ _ => R.DIE_Y⟩,
  ⟨0x1010, 0x1010, 0x05, 0x05, 0, 0, .now, (fix 0 15), .none, .field fun _ _ => R.STEPPING⟩,
  ⟨0x1010, 0x1010, 0x06, 0x06, 7, 0, .now, (fix 0 16), .none, .words 4 fun k => (R.SERIAL_W k).addr⟩,
  ⟨0x1010, 0x1010, 0x07, 0x07, 6, 0, .now, (fix 0 3), .none, .field fun _ _ => R.VARIANT⟩,
  ⟨0x1010, 0x1010, 0x08, 0x08, 6, 0, .now, (fix 0 3), .none, .field fun _ _ => R.LIFECYCLE⟩,
  ⟨0x1100, 0x1100, 0x01, 0x01, 6, 0, .num 0, (fix 0 2), .none, .field fun _ _ => R.OWN_STATE⟩,
  ⟨0x1100, 0x1100, 0x02, 0x02, 8, 0, .num 0, (fix 0 9), .none, .special .owner⟩,
  ⟨0x1100, 0x1100, 0x03, 0x03, 1, 2, .num 60, (fix 1 3600), .none, .field fun _ _ => R.LEASE_S⟩,
  ⟨0x1100, 0x1100, 0x04, 0x04, 1, 0, .num 0, (fix 0 3600), .none, .field fun _ _ => R.LEASE_LEFT⟩,
  ⟨0x1101, 0x1101, 0x01, 0x01, 0, 3, .num 29, (fix 8 119), .none, .field fun _ _ => R.I3C_STATIC⟩,
  ⟨0x1101, 0x1101, 0x02, 0x02, 0, 0, .num 0, (fix 0 127), .none, .field fun _ _ => R.I3C_DYN⟩,
  ⟨0x2000, 0x2000, 0x01, 0x01, 6, 0, .now, (fix 0 2), .none, .special .pcieWidth⟩,
  ⟨0x2000, 0x2000, 0x02, 0x02, 1, 3, .now, (fix 1 65534), .none, .special .subsystemVendor⟩,
  ⟨0x2000, 0x2000, 0x03, 0x03, 1, 3, .num 38464, (fix 0 65535), .none, .special .subsystem⟩,
  ⟨0x2001, 0x2001, 0x01, 0x04, 1, 2, .now, (fix 0 16384), .none, .field fun _ b => R.Q_QUOTA b⟩,
  ⟨0x2002, 0x2002, 0x01, 0x04, 1, 2, .num 512, (fix 16 8192), .none, .field fun _ b => R.TAG_RSV b⟩,
  ⟨0x2002, 0x2002, 0x05, 0x06, 1, 2, .num 256, (fix 0 8192), .none, .field fun _ b => R.TAG_RSV (4 + b)⟩,
  ⟨0x2003, 0x2003, 0x01, 0x01, 1, 0, .num 0, (fix 0 65535), .none, .field fun _ _ => R.ABORT_DONE⟩,
  ⟨0x2003, 0x2003, 0x02, 0x02, 1, 0, .num 0, (fix 0 65535), .none, .field fun _ _ => R.ABORT_MISSED⟩,
  ⟨0x2100, 0x2100, 0x01, 0x01, 3, 0, .now, (fix 0 18446744073709551615), .none, .special .sasName⟩,
  ⟨0x2100, 0x2100, 0x02, 0x02, 3, 0, .now, (fix 0 18446744073709551615), .none, .special .sasName⟩,
  ⟨0x2100, 0x2100, 0x03, 0x03, 3, 0, .now, (fix 0 18446744073709551615), .none, .special .sasName⟩,
  ⟨0x2101, 0x2101, 0x01, 0x02, 1, 2, .num 64, (fix 1 512), .none, .field fun _ b => R.XRDY_MAX_4K b⟩,
  ⟨0x2101, 0x2101, 0x03, 0x04, 6, 2, .num 3, (fix 1 3), .none, .field fun _ b => R.SAS_MAX_RATE b⟩,
  ⟨0x2210, 0x2210, 0x01, 0x10, 1, 2, .num 0, (fix 0 65535), .none, .field fun _ b => R.ORD_SID b⟩,
  ⟨0x2211, 0x2211, 0x01, 0x01, 1, 0, .num 0, (fix 0 8192), .none, .field fun _ _ => R.ENTRIES_USED⟩,
  ⟨0x2211, 0x2211, 0x02, 0x02, 1, 0, .num 0, (fix 0 8192), .none, .field fun _ _ => R.ENTRIES_PEAK⟩,
  ⟨0x2800, 0x2800, 0x01, 0x01, 2, 2, .num 100, (fix 0 16777215), .none, .field fun _ _ => R.IDLE_A_MS⟩,
  ⟨0x2800, 0x2800, 0x02, 0x02, 2, 2, .num 120000, (fix 0 16777215), .none, .field fun _ _ => R.IDLE_B_MS⟩,
  ⟨0x2800, 0x2800, 0x03, 0x03, 2, 2, .num 600000, (fix 0 16777215), .none, .field fun _ _ => R.IDLE_C_MS⟩,
  ⟨0x2800, 0x2800, 0x04, 0x04, 2, 2, .num 3600000, (fix 0 16777215), .none, .field fun _ _ => R.IDLE_S_MS⟩,
  ⟨0x2800, 0x2800, 0x05, 0x05, 6, 2, .num 3, (fix 0 4), .none, .field fun _ _ => R.IDLE_DEPTH_MAX⟩,
  ⟨0x2800, 0x2800, 0x06, 0x06, 6, 2, .num 1, (fix 0 1), .none, .field fun _ _ => R.SLEEP_EN⟩,
  ⟨0x2800, 0x2800, 0x07, 0x07, 6, 0, .num 0, (fix 0 5), .none, .field fun _ _ => R.PSTATE_NOW⟩]

/-- The translation, Map Cache and Pack objects (R257, R290, R533). -/
def mediaObjects : List ObjRow := [
  ⟨0x3000, 0x3000, 0x01, 0x01, 1, 2, .num 3840, (fix 256 4080), .none, .field fun _ _ => R.ZONE_CTX_COUNT⟩,
  ⟨0x3000, 0x3000, 0x02, 0x02, 1, 0, .num 0, (fix 0 4080), .none, .field fun _ _ => R.ZONES_ACTIVE⟩,
  ⟨0x3001, 0x3001, 0x01, 0x01, 1, 0, .num 0, (fix 0 8192), .none, .field fun _ _ => R.BUF_USED_64K⟩,
  ⟨0x3001, 0x3001, 0x02, 0x02, 0, 2, .num 75, (fix 50 95), .none, .field fun _ _ => R.BUF_HWM_PCT⟩,
  ⟨0x3002, 0x3002, 0x01, 0x01, 0, 0, .num 0, (fix 0 32), .none, .field fun _ _ => R.JRNL_TAIL_256K⟩,
  ⟨0x3002, 0x3002, 0x02, 0x02, 0, 2, .num 16, (fix 4 28), .none, .field fun _ _ => R.JRNL_WM_256K⟩,
  ⟨0x3003, 0x3003, 0x01, 0x01, 0, 2, .num 64, (fun s => (s.rd R.FREE_BANDS_MIN + 8, 255)), .none, .field fun _ _ => R.FREE_BANDS_LOW⟩,
  ⟨0x3003, 0x3003, 0x02, 0x02, 0, 2, .num 8, (fix 4 64), .none, .field fun _ _ => R.FREE_BANDS_MIN⟩,
  ⟨0x3003, 0x3003, 0x03, 0x03, 2, 0, .num 0, (fix 0 16777215), .none, .field fun _ _ => R.CONV_FREE_BANDS⟩,
  ⟨0x3004, 0x3004, 0x01, 0x01, 0, 2, .num 3, (fix 1 7), .none, .field fun _ _ => R.RELOC_STEP⟩,
  ⟨0x3004, 0x3004, 0x02, 0x02, 6, 2, .num 1, (fix 0 1), .none, .field fun _ _ => R.RELOC_BLIND_EN⟩,
  ⟨0x3004, 0x3004, 0x03, 0x03, 2, 0, .num 0, (fix 0 262144), .none, .field fun _ _ => R.RELOC_USED⟩,
  ⟨0x3005, 0x3005, 0x01, 0x01, 1, 2, .num 500, (fix 10 1000), .none, .field fun _ _ => R.SCHED_AGE_MS⟩,
  ⟨0x3005, 0x3005, 0x02, 0x02, 1, 2, .num 0, (fix 0 4095), .none, .field fun _ _ => R.PAIR_SPAN_TRK⟩,
  ⟨0x3006, 0x3006, 0x01, 0x04, 6, 3, .num 0, (fix 1 1), .none, .special .actuatorFailed⟩,
  ⟨0x3100, 0x3100, 0x01, 0x01, 6, 2, .num 1, (fix 0 1), .none, .field fun _ _ => R.MC_PF_EN⟩,
  ⟨0x3100, 0x3100, 0x02, 0x02, 0, 2, .num 4, (fix 1 7), .none, .field fun _ _ => R.MC_PF_DEPTH⟩,
  ⟨0x3100, 0x3100, 0x03, 0x03, 2, 0, .num 0, (fix 0 4294967295), .none, .field fun _ _ => R.MC_HIT_CNT⟩,
  ⟨0x3100, 0x3100, 0x04, 0x04, 2, 0, .num 0, (fix 0 4294967295), .none, .field fun _ _ => R.MC_MISS_CNT⟩,
  ⟨0x3100, 0x3100, 0x05, 0x05, 2, 0, .num 0, (fix 0 4294967295), .none, .field fun _ _ => R.MC_RECALL_CNT⟩,
  ⟨0x3100, 0x3100, 0x06, 0x06, 1, 0, .num 0, (fix 0 4096), .none, .field fun _ _ => R.LE_COUNT⟩,
  ⟨0x3100, 0x3100, 0x07, 0x07, 6, 0, .num 0, (fix 0 1), .none, .field fun _ _ => R.MAP_HALT⟩,
  ⟨0x3100, 0x3100, 0x08, 0x08, 1, 0, .num 0, (fix 0 65535), .none, .field fun _ _ => R.MC_PAR_CLEAN_CNT⟩,
  ⟨0x3100, 0x3100, 0x09, 0x09, 1, 0, .num 0, (fix 0 65535), .none, .field fun _ _ => R.MC_PAR_DIRTY_CNT⟩,
  ⟨0x3200, 0x3200, 0x01, 0x10, 6, 2, .num 0, (fix 0 2), .none, .field fun _ b => R.NS_RATIO b⟩,
  ⟨0x3201, 0x3201, 0x01, 0x10, 0, 2, .num 25, (fix 0 100), .none, .field fun _ b => R.OVF_PCT b⟩,
  ⟨0x3202, 0x3202, 0x01, 0x10, 0, 2, .num 4, (fix 1 255), .none, .field fun _ b => R.EXT_RSV_GIB b⟩,
  ⟨0x3203, 0x3203, 0x01, 0x01, 1, 2, .num 8192, (fix 64 65535), .none, .field fun _ _ => R.POOL_4K⟩,
  ⟨0x3203, 0x3203, 0x02, 0x02, 1, 2, .num 64, (fix 16 512), .none, .field fun _ _ => R.RD_STAGE_MIB⟩,
  ⟨0x3204, 0x3204, 0x01, 0x01, 2, 0, .num 0, (fix 0 4294967295), .none, .field fun _ _ => R.PACKED_CNT⟩,
  ⟨0x3204, 0x3204, 0x02, 0x02, 2, 0, .num 0, (fix 0 4294967295), .none, .field fun _ _ => R.RAW_CNT⟩,
  ⟨0x3204, 0x3204, 0x03, 0x03, 2, 0, .num 0, (fix 0 4294967295), .none, .field fun _ _ => R.SECT_OUT_CNT⟩,
  ⟨0x3204, 0x3204, 0x04, 0x04, 1, 0, .num 0, (fix 0 65535), .none, .field fun _ _ => R.EXTERN_CNT⟩,
  ⟨0x3204, 0x3204, 0x05, 0x05, 1, 0, .num 0, (fix 0 65535), .none, .field fun _ _ => R.DECOMP_ERR_CNT⟩]

/-- The channel, Abacus and sequencer objects (R333, R368, R400). -/
def readObjects : List ObjRow := [
  ⟨0x4000, 0x4000, 0x01, 0x04, 0, 2, .num 12, (fix 4 24), .none, .field fun _ b => R.SYNC_WIN b⟩,
  ⟨0x4001, 0x4001, 0x01, 0x04, 0, 2, .num 6, (fix 0 12), .none, .field fun _ b => R.SYNC_THR b⟩,
  ⟨0x4002, 0x4002, 0x01, 0x04, 2, 3, .num 3015974445, (fix 0 4294967295), .none, .field fun _ b => R.SYNC_PAT b⟩,
  ⟨0x4003, 0x4003, 0x01, 0x04, 1, 0, .num 0, (fix 0 65535), .none, .field fun _ b => R.BLIND_CNT b⟩,
  ⟨0x4003, 0x4003, 0x05, 0x08, 1, 0, .num 0, (fix 0 65535), .none, .field fun _ b => R.AMBIG_CNT b⟩,
  ⟨0x4003, 0x4003, 0x09, 0x0C, 1, 0, .num 0, (fix 0 65535), .none, .field fun _ b => R.REFRAME_CNT b⟩,
  ⟨0x4004, 0x4004, 0x01, 0x04, 1, 0, .num 0, (fix 0 65535), .none, .field fun _ b => R.WG_CUT_CNT b⟩,
  ⟨0x4004, 0x4004, 0x05, 0x08, 1, 0, .num 0, (fix 0 65535), .none, .field fun _ b => R.WPH_FAULT_CNT b⟩,
  ⟨0x4005, 0x4005, 0x01, 0x04, 2, 0, .num 0, (fix 0 4294967295), .none, .field fun _ b => R.SECT_READ_CNT b⟩,
  ⟨0x4100, 0x4100, 0x01, 0x01, 0, 2, .num 16, (fix 1 32), .none, .coupled R.ITER_MAX⟩,
  ⟨0x4100, 0x4100, 0x02, 0x02, 0, 2, .num 4, (fix 1 8), .none, .field fun _ _ => R.BEAD_ITER⟩,
  ⟨0x4100, 0x4100, 0x03, 0x03, 0, 2, .num 2, (fix 0 15), .none, .field fun _ _ => R.MS_OFFSET⟩,
  ⟨0x4100, 0x4100, 0x04, 0x04, 0, 2, .num 1, (fix 0 15), .none, .field fun _ _ => R.MS_OFFSET_ALT⟩,
  ⟨0x4100, 0x4100, 0x05, 0x05, 0, 2, .num 24, (fix 8 48), .none, .field fun _ _ => R.BEADS_THROTTLE⟩,
  ⟨0x4100, 0x4100, 0x06, 0x06, 6, 2, .num 1, (fix 0 1), .none, .field fun _ _ => R.ERASE_LIMIT_EN⟩,
  ⟨0x4101, 0x4101, 0x01, 0x08, 1, 2, .num 250, (fix 20 1000), .none, .field fun _ b => R.DL_US b⟩,
  ⟨0x4102, 0x4102, 0x01, 0x08, 1, 2, .num 24, (fix 0 384), .none, .field fun _ b => R.LLR_RSV b⟩,
  ⟨0x4103, 0x4103, 0x01, 0x01, 0, 2, .num 32, (fix 0 48), .none, .field fun _ _ => R.LLR_PIN_MAX⟩,
  ⟨0x4104, 0x4104, 0x01, 0x01, 0, 2, .num 63, (fix 0 63), .none, .field fun _ _ => R.RCV_STEP_EN⟩,
  ⟨0x4104, 0x4104, 0x02, 0x02, 0, 2, .num 32, (fun s => (s.rd R.ITER_MAX, 32)), .none, .coupled R.RCV_ITER_MAX⟩,
  ⟨0x4104, 0x4104, 0x03, 0x03, 1, 2, .num 2000, (fix 100 60000), .none, .field fun _ _ => R.RCV_LIMIT_MS⟩,
  ⟨0x4104, 0x4104, 0x04, 0x04, 1, 2, .num 50, (fix 10 1000), .none, .field fun _ _ => R.RCV_LR_MS⟩,
  ⟨0x4104, 0x4104, 0x05, 0x05, 0, 2, .num 8, (fix 1 8), .none, .field fun _ _ => R.REREAD_N⟩,
  ⟨0x4104, 0x4104, 0x06, 0x06, 0, 2, .num 12, (fix 4 30), .none, .field fun _ _ => R.OFS_PCT⟩,
  ⟨0x4105, 0x4105, 0x01, 0x01, 2, 0, .num 0, (fix 0 4294967295), .none, .field fun _ _ => R.CW_DECODED⟩,
  ⟨0x4105, 0x4105, 0x02, 0x02, 2, 0, .num 0, (fix 0 4294967295), .none, .field fun _ _ => R.CW_FAIL0⟩,
  ⟨0x4105, 0x4105, 0x03, 0x03, 1, 0, .num 0, (fix 0 65535), .none, .field fun _ _ => R.UNREC_CNT⟩,
  ⟨0x4105, 0x4105, 0x04, 0x04, 1, 0, .num 0, (fix 0 65535), .none, .field fun _ _ => R.DL_MISS_CNT⟩,
  ⟨0x4105, 0x4105, 0x05, 0x05, 1, 0, .num 0, (fix 0 65535), .none, .field fun _ _ => R.BP_SKIP_CNT⟩,
  ⟨0x4105, 0x4105, 0x06, 0x0B, 1, 0, .num 0, (fix 0 65535), .none, .special .recovered⟩,
  ⟨0x4105, 0x4105, 0x0C, 0x13, 2, 0, .num 0, (fix 0 4294967295), .none, .field fun _ b => R.ITER_HIST b⟩,
  ⟨0x4200, 0x4200, 0x01, 0x04, 6, 0, .now, (fix 0 2), .none, .field fun _ b => R.EXEC_SRC b⟩,
  ⟨0x4201, 0x4201, 0x01, 0x04, 6, 0, .num 0, (fix 0 1), .none, .special .compat⟩,
  ⟨0x4202, 0x4202, 0x01, 0x04, 6, 2, .num 2, (fix 0 2), .none, .field fun _ b => R.PSI_CLK b⟩,
  ⟨0x4203, 0x4203, 0x01, 0x04, 1, 2, .num 20000, (fix 1000 65535), .none, .field fun _ b => R.WDOG_US b⟩,
  ⟨0x4204, 0x4204, 0x01, 0x04, 0, 0, .num 0, (fix 0 255), .none, .field fun _ b => R.MCHK_CNT b⟩]

/-- The servo, triad, cohort and assist objects (R451, R477, R512, R685). -/
def servoObjects : List ObjRow := [
  ⟨0x5000, 0x5000, 0x01, 0x01, 1, 2, .num 0, (fix 0 10000), .none, .coupled R.SPM_RPM⟩,
  ⟨0x5000, 0x5000, 0x02, 0x02, 1, 0, .num 0, (fix 0 16383), .none, .field fun _ _ => R.SPM_RPM_NOW⟩,
  ⟨0x5000, 0x5000, 0x03, 0x03, 6, 0, .num 0, (fix 0 1), .none, .field fun _ _ => R.SPM_AT_SPEED⟩,
  ⟨0x5000, 0x5000, 0x04, 0x04, 1, 2, .num 500, (fix 20 5000), .none, .field fun _ _ => R.SPM_BAND_PPM⟩,
  ⟨0x5001, 0x5001, 0x01, 0x01, 1, 2, .num 1100, (fix 200 4000), .none, .field fun _ _ => R.FRAME_OFS⟩,
  ⟨0x5001, 0x5001, 0x02, 0x02, 1, 0, .num 65535, (fix 0 65535), .none, .field fun _ _ => R.FRAME_MARGIN_MIN⟩,
  ⟨0x5002, 0x5002, 0x01, 0x04, 0, 2, .num 4, (fix 1 12), .none, .field fun _ b => R.SV_COAST_MAX b⟩,
  ⟨0x5003, 0x5003, 0x01, 0x04, 0, 2, .num 26, (fix 4 128), .none, .field fun _ b => R.WUS_LIM b⟩,
  ⟨0x5004, 0x5004, 0x01, 0x04, 1, 2, .num 128, (fix 16 4095), .none, .field fun _ b => R.FE_LIM b⟩,
  ⟨0x5004, 0x5004, 0x05, 0x08, 0, 2, .num 8, (fix 1 255), .none, .field fun _ b => R.FE_TIME b⟩,
  ⟨0x5005, 0x5005, 0x01, 0x04, 0, 2, .num 30, (fix 5 40), .none, .field fun _ b => R.MA_VMAX b⟩,
  ⟨0x5005, 0x5005, 0x05, 0x08, 1, 2, .num 64, (fix 0 4095), .none, .field fun _ b => R.MA_STROKE_TRK b⟩,
  ⟨0x5006, 0x5006, 0x01, 0x01, 1, 2, .num 300, (fix 20 900), .none, .field fun _ _ => R.SHK_THR⟩,
  ⟨0x5006, 0x5006, 0x02, 0x02, 0, 2, .num 64, (fix 1 255), .none, .field fun _ _ => R.SHOCK_HOLD_WEDGES⟩,
  ⟨0x5006, 0x5006, 0x03, 0x06, 6, 2, .num 1, (fix 0 1), .none, .field fun _ b => R.RV_FF_EN b⟩,
  ⟨0x5007, 0x5007, 0x01, 0x04, 1, 0, .num 0, (fix 0 65535), .none, .field fun _ b => R.LOST_WEDGE_CNT b⟩,
  ⟨0x5007, 0x5007, 0x05, 0x08, 1, 0, .num 0, (fix 0 65535), .none, .field fun _ b => R.SV_OVR_CNT b⟩,
  ⟨0x5007, 0x5007, 0x09, 0x0C, 0, 0, .num 0, (fix 0 255), .none, .field fun _ b => R.RETRACT_CNT b⟩,
  ⟨0x5008, 0x5008, 0x01, 0x01, 0, 2, .num 24, (fix 8 40), .none, .field fun _ _ => R.VCM_PWR_MAX⟩,
  ⟨0x5010, 0x5010, 0x01, 0x01, 0, 0, .num 3, (fix 0 3), .none, .field fun _ _ => R.VOTERS⟩,
  ⟨0x5010, 0x5010, 0x02, 0x02, 0, 2, .num 4, (fix 1 15), .none, .field fun _ _ => R.DIS_RETIRE_THR⟩,
  ⟨0x5010, 0x5010, 0x03, 0x03, 0, 2, .num 16, (fix 1 255), .none, .field fun _ _ => R.DIS_WIN_64F⟩,
  ⟨0x5010, 0x5010, 0x04, 0x04, 6, 2, .num 1, (fix 0 1), .none, .field fun _ _ => R.AUTO_WARM⟩,
  ⟨0x5010, 0x5010, 0x05, 0x05, 1, 0, .num 0, (fix 0 4095), .none, .field fun _ _ => R.DUAL_MISMATCH_CNT⟩,
  ⟨0x5010, 0x5010, 0x06, 0x06, 1, 0, .num 0, (fix 0 4095), .none, .field fun _ _ => R.TRIPLE_MISMATCH_CNT⟩,
  ⟨0x5010, 0x5010, 0x07, 0x07, 0, 0, .num 0, (fix 0 255), .none, .field fun _ _ => R.WARM_STARTS⟩,
  ⟨0x5010, 0x5010, 0x08, 0x08, 1, 0, .num 0, (fix 0 65535), .none, .field fun _ _ => R.WARM_TIME_LAST⟩,
  ⟨0x5010, 0x5010, 0x09, 0x09, 6, 0, .num 0, (fix 0 1), .none, .field fun _ _ => R.TRIAD_LOST⟩,
  ⟨0x5011, 0x5011, 0x01, 0x04, 6, 0, .reset, (fix 0 5), .none, .field fun _ b => R.LANE_STATE b⟩,
  ⟨0x5011, 0x5011, 0x05, 0x08, 1, 0, .num 0, (fix 0 65535), .none, .field fun _ b => R.LANE_DIS_CNT b⟩,
  ⟨0x5020, 0x5020, 0x01, 0x01, 1, 2, .num 0, (fix 0 4095), .none, .field fun _ _ => R.COHORT_ID⟩,
  ⟨0x5020, 0x5020, 0x02, 0x02, 6, 2, .num 0, (fix 0 1), .none, .field fun _ _ => R.COHORT_EN⟩,
  ⟨0x5020, 0x5020, 0x03, 0x03, 1, 2, .num 0, (fix 0 65535), .none, .field fun _ _ => R.COHORT_PHASE⟩,
  ⟨0x5020, 0x5020, 0x04, 0x04, 0, 2, .num 1, (fix 1 255), .none, .field fun _ _ => R.MARK_REVS⟩,
  ⟨0x5020, 0x5020, 0x05, 0x05, 6, 0, .num 0, (fix 0 1), .none, .field fun _ _ => R.COHORT_LOCK⟩,
  ⟨0x5021, 0x5021, 0x01, 0x01, 6, 2, .num 0, (fix 0 1), .none, .field fun _ _ => R.SHAPE_EN⟩,
  ⟨0x5021, 0x5021, 0x02, 0x02, 0, 2, .num 4, (fix 1 15), .none, .field fun _ _ => R.SHAPE_SLOTS⟩,
  ⟨0x5021, 0x5021, 0x03, 0x03, 1, 2, .num 1024, (fix 0 4095), .none, .field fun _ _ => R.SHAPE_TRK⟩,
  ⟨0x5021, 0x5021, 0x04, 0x04, 0, 2, .num 128, (fix 0 255), .none, .field fun _ _ => R.SHAPE_IMAX⟩,
  ⟨0x5100, 0x5100, 0x01, 0x01, 6, 0, .now, (fix 0 3), .none, .field fun _ _ => R.ASST_TYPE⟩,
  ⟨0x5100, 0x5100, 0x02, 0x05, 6, 2, .num 0, (fix 0 1), .none, .bit R.ASST_EN⟩,
  ⟨0x5100, 0x5100, 0x06, 0x09, 0, 2, .num 25, (fun s => (0, s.passtLimit)), .none, .field fun _ b => R.PASST_V b⟩,
  ⟨0x5101, 0x5101, 0x01, 0x20, 1, 3, .num 4096, (fix 2048 8192), .none, .field fun _ b => R.AGE_GAIN b⟩,
  ⟨0x5102, 0x5102, 0x01, 0x01, 1, 2, .num 5120, (fix 4096 8192), .none, .coupled R.AGE_WARN_THR⟩,
  ⟨0x5102, 0x5102, 0x02, 0x02, 1, 2, .num 6144, (fix 4096 8192), .none, .field fun _ _ => R.AGE_LIMIT_THR⟩,
  ⟨0x5102, 0x5102, 0x03, 0x03, 1, 2, .num 3072, (fix 2048 4096), .none, .field fun _ _ => R.AGE_MIN⟩,
  ⟨0x5102, 0x5102, 0x04, 0x04, 0, 2, .num 64, (fix 1 255), .none, .field fun _ _ => R.AGE_N_1K⟩,
  ⟨0x5102, 0x5102, 0x05, 0x05, 0, 2, .num 4, (fix 2 12), .none, .field fun _ _ => R.AGE_SHIFT⟩,
  ⟨0x5102, 0x5102, 0x06, 0x06, 6, 2, .num 1, (fix 0 1), .none, .field fun _ _ => R.AGE_EN⟩,
  ⟨0x5103, 0x5103, 0x01, 0x20, 1, 3, .num 0, (fun s => (0, s.asstLimit)), .none, .field fun _ b => R.ASST_MAX b⟩]

/-- The calibration objects (R512). -/
def calObjects : List ObjRow := [
  ⟨0x6000, 0x6000, 0x01, 0x01, 6, 2, .num 0, (fix 1 1), .none, .special .calStore⟩,
  ⟨0x6000, 0x6000, 0x02, 0x02, 2, 0, .now, (fix 0 4294967295), .none, .field fun _ _ => R.ACTIVE_SEQ⟩,
  ⟨0x6000, 0x6000, 0x03, 0x03, 6, 0, .now, (fix 0 1), .none, .field fun _ _ => R.ACTIVE_BANK⟩,
  ⟨0x6000, 0x6000, 0x04, 0x04, 6, 0, .num 3, (fix 0 3), .none, .special .calState⟩,
  ⟨0x6000, 0x6000, 0x05, 0x05, 0, 2, .num 4, (fix 1 15), .none, .field fun _ _ => R.RAMP_STEPS⟩,
  ⟨0x6000, 0x6000, 0x06, 0x06, 0, 2, .num 13, (fix 0 255), .none, .field fun _ _ => R.CAL_ONTRK_LIM⟩,
  ⟨0x6000, 0x6000, 0x07, 0x07, 4, 2, .num 0, (fix (-40) 125), .none, .field fun _ _ => R.CAL_TMIN⟩,
  ⟨0x6000, 0x6000, 0x08, 0x08, 4, 2, .num 110, (fix (-40) 125), .none, .field fun _ _ => R.CAL_TMAX⟩,
  ⟨0x6100, 0x611F, 0x01, 0x40, 8, 3, .now, (fix 128 128), .none, .special .profile⟩,
  ⟨0x6200, 0x621F, 0x01, 0x40, 2, 3, .num 0, (fix 0 4294967295), .none, .special .setpoint⟩,
  ⟨0x6300, 0x6303, 0x01, 0x01, 8, 3, .now, (fix 4096 4096), .none, .special .coefficients⟩,
  ⟨0x6400, 0x6400, 0x01, 0x01, 2, 3, .num 0, (fix 0 4294967295), .none, .special .inertia⟩,
  ⟨0x6400, 0x6400, 0x02, 0x05, 8, 3, .now, (fix 1024 1024), .none, .special .seekTable⟩,
  ⟨0x6401, 0x6401, 0x01, 0x01, 8, 3, .now, (fix 0 50331648), .none, .special .format⟩,
  ⟨0x6501, 0x6509, 0x01, 0x20, 8, 0, .now, (fix 0 12), .none, .special .history⟩]

/-- The fault, Tally, thermal, power and lifetime objects (R597, R625, R90). -/
def faultObjects : List ObjRow := [
  ⟨0x7000, 0x7000, 0x01, 0x01, 6, 3, .num 0, (fix 0 1), .faults, .field fun _ _ => R.SCHEME⟩,
  ⟨0x7000, 0x7000, 0x02, 0x02, 6, 0, .num 0, (fix 0 3), .none, .field fun _ _ => R.HIGH_CLASS⟩,
  ⟨0x7000, 0x7000, 0x03, 0x03, 1, 0, .num 0, (fix 0 65535), .none, .field fun _ _ => R.LOST_CNT⟩,
  ⟨0x7000, 0x7000, 0x04, 0x04, 6, 3, .num 1, (fix 0 1), .faults, .field fun _ _ => R.FATAL_RESET⟩,
  ⟨0x7000, 0x7000, 0x05, 0x05, 0, 3, .num 100, (fix 10 255), .faults, .field fun _ _ => R.FATAL_RST_MS⟩,
  ⟨0x7000, 0x7000, 0x06, 0x06, 0, 3, .num 2, (fix 0 3), .faults, .field fun _ _ => R.FATAL_RST_MAX⟩,
  ⟨0x7000, 0x7000, 0x07, 0x07, 1, 2, .num 500, (fix 10 60000), .none, .field fun _ _ => R.WDOG_MS⟩,
  ⟨0x7000, 0x7000, 0x08, 0x08, 6, 0, .num 0, (fix 0 3), .none, .field fun _ _ => R.LATCH_CLASS⟩,
  ⟨0x7000, 0x7000, 0x09, 0x09, 1, 0, .num 0, (fix 0 511), .none, .field fun _ _ => R.LATCH_SRC⟩,
  ⟨0x7001, 0x7001, 0x01, 0x08, 0, 3, .reset, (fix 0 127), .faults, .special .severity⟩,
  ⟨0x7100, 0x7103, 0x01, 0x80, 6, 3, .reset, (fix 1 3), .source, .field fun a b => R.SRC_CLASS (128 * a + b)⟩,
  ⟨0x7110, 0x7113, 0x01, 0x80, 0, 3, .reset, (fix 0 7), .source, .field fun a b => R.SRC_SEV (128 * a + b)⟩,
  ⟨0x7120, 0x7123, 0x01, 0x80, 1, 0, .num 0, (fix 0 65535), .none, .field fun a b => R.SRC_CNT (128 * a + b)⟩,
  ⟨0x7200, 0x7200, 0x01, 0x01, 6, 2, .num 0, (fix 0 1), .none, .field fun _ _ => R.FREEZE⟩,
  ⟨0x7200, 0x7200, 0x02, 0x02, 1, 1, .num 0, (fix 0 8191), .none, .field fun _ _ => R.RD_IDX⟩,
  ⟨0x7200, 0x7200, 0x03, 0x03, 8, 0, .num 0, (fix 0 4096), .none, .special .tallyRecords⟩,
  ⟨0x7200, 0x7200, 0x04, 0x04, 2, 0, .now, (fix 0 4294967295), .none, .field fun _ _ => R.NEXT_SEQ⟩,
  ⟨0x7200, 0x7200, 0x05, 0x05, 1, 0, .num 0, (fix 0 65535), .none, .field fun _ _ => R.DROP_TOTAL⟩,
  ⟨0x7200, 0x7200, 0x06, 0x06, 6, 3, .num 0, (fix 1 2), .none, .special .tallyClear⟩,
  ⟨0x7200, 0x7200, 0x07, 0x07, 6, 2, .num 0, (fix 1 1), .none, .special .tallyFlush⟩,
  ⟨0x7200, 0x7200, 0x08, 0x08, 1, 0, .num 0, (fix 0 8191), .none, .field fun _ _ => R.ARCH_LOST_CNT⟩,
  ⟨0x7300, 0x7300, 0x01, 0x0C, 4, 0, .num 0, (fix (-880) 2800), .none, .field fun _ b => R.SENS_T b⟩,
  ⟨0x7300, 0x7300, 0x0D, 0x0D, 4, 0, .num 0, (fix (-880) 2800), .none, .field fun _ _ => R.THM_MAX⟩,
  ⟨0x7301, 0x7301, 0x01, 0x01, 0, 3, .num 135, (fix 100 150), .thermal, .coupled R.THR_WARN⟩,
  ⟨0x7301, 0x7301, 0x02, 0x02, 0, 3, .num 143, (fix 100 149), .thermal, .coupled R.THR_THROTTLE⟩,
  ⟨0x7301, 0x7301, 0x03, 0x03, 0, 3, .num 150, (fix 100 150), .thermal, .coupled R.THR_SHUT⟩,
  ⟨0x7301, 0x7301, 0x04, 0x04, 0, 3, .num 4, (fix 1 15), .none, .field fun _ _ => R.THR_HYST⟩,
  ⟨0x7301, 0x7301, 0x05, 0x05, 0, 3, .num 3, (fix 1 15), .thermal, .coupled R.THR_L2_STEP⟩,
  ⟨0x7301, 0x7301, 0x06, 0x06, 1, 3, .num 4095, (fix 0 4095), .thermal, .field fun _ _ => R.SENS_EN⟩,
  ⟨0x7302, 0x7302, 0x01, 0x01, 6, 0, .num 0, (fix 0 2), .none, .field fun _ _ => R.THR_LEVEL⟩,
  ⟨0x7400, 0x7400, 0x01, 0x01, 2, 0, .num 0, (fix 0 100000), .none, .special .inputVoltage⟩,
  ⟨0x7400, 0x7400, 0x02, 0x02, 2, 0, .num 0, (fix 0 200000), .none, .special .inputPower⟩,
  ⟨0x7400, 0x7400, 0x03, 0x03, 2, 0, .num 0, (fix 0 65535), .none, .field fun _ _ => R.HOLDUP_MJ⟩,
  ⟨0x7400, 0x7400, 0x04, 0x04, 2, 3, .num 9500, (fix 6400 65535), .power, .field fun _ _ => R.HOLDUP_NEED_MJ⟩,
  ⟨0x7400, 0x7400, 0x05, 0x05, 1, 2, .num 330, (fix 300 340), .power, .field fun _ _ => R.PF_THRESH_DV⟩,
  ⟨0x7400, 0x7400, 0x06, 0x06, 0, 2, .num 40, (fix 30 44), .power, .field fun _ _ => R.REGEN_SETPT⟩,
  ⟨0x7500, 0x7500, 0x01, 0x01, 2, 0, .num 0, (fix 0 4294967295), .none, .special .hours⟩,
  ⟨0x7500, 0x7500, 0x02, 0x02, 2, 0, .num 0, (fix 0 4294967295), .none, .field fun _ _ => R.PWR_CYCLES⟩,
  ⟨0x7500, 0x7500, 0x03, 0x03, 1, 0, .num 0, (fix 0 65535), .none, .field fun _ _ => R.PF_COUNT⟩,
  ⟨0x7500, 0x7500, 0x04, 0x04, 1, 0, .num 0, (fix 0 65535), .none, .field fun _ _ => R.SPIN_STARTS⟩,
  ⟨0x7500, 0x7500, 0x05, 0x08, 2, 0, .num 0, (fix 0 4294967295), .none, .field fun _ b => R.LOAD_CNT b⟩,
  ⟨0x7500, 0x7500, 0x09, 0x09, 2, 0, .num 0, (fix 0 4294967295), .none, .field fun _ _ => R.WARN_MIN⟩,
  ⟨0x7500, 0x7500, 0x0A, 0x0A, 2, 0, .num 0, (fix 0 4294967295), .none, .field fun _ _ => R.THR_MIN⟩,
  ⟨0x7500, 0x7500, 0x0B, 0x0B, 4, 0, .num (-32768), (fix (-32768) 2800), .none, .field fun _ _ => R.LIFE_TMAX⟩,
  ⟨0x7500, 0x7500, 0x0C, 0x0C, 3, 2, .num 0, (fix 0 281474976710655), .none, .special .calendar⟩,
  ⟨0x7500, 0x7500, 0x0D, 0x0D, 6, 0, .num 0, (fix 0 1), .none, .field fun _ _ => R.CAL_SET⟩]

/-- The security, live-service and DRAM objects (R152, R569, R658, R685). -/
def securityObjects : List ObjRow := [
  ⟨0x8010, 0x8010, 0x01, 0x01, 0, 3, .now, (fix 0 127), .none, .special .fwSvn⟩,
  ⟨0x8010, 0x8010, 0x02, 0x02, 0, 3, .now, (fix 0 63), .none, .special .mcSvn⟩,
  ⟨0x8010, 0x8010, 0x03, 0x03, 0, 3, .now, (fix 0 7), .none, .special .revoke⟩,
  ⟨0x8010, 0x8010, 0x04, 0x04, 2, 0, .num 4278255360, (fix 0 4294967295), .none, .words 1 fun _ => R.BOOT_SLOT.addr⟩,
  ⟨0x8010, 0x8010, 0x05, 0x05, 8, 0, .num 0, (fix 0 32), .none, .words 8 fun k => (R.DEVID_HASH_W k).addr⟩,
  ⟨0x8010, 0x8010, 0x06, 0x06, 6, 2, .num 1, (fix 0 1), .none, .special .spinAtBoot⟩,
  ⟨0x8020, 0x8020, 0x01, 0x01, 0, 0, .num 0, (fix 0 255), .none, .field fun _ _ => R.AUTH_FAIL_CNT⟩,
  ⟨0x8030, 0x8030, 0x01, 0x01, 8, 4, .num 0, (fix 0 33554432), .none, .special .updateImage⟩,
  ⟨0x8030, 0x8030, 0x02, 0x02, 6, 2, .num 0, (fix 1 4), .none, .special .updateCommit⟩,
  ⟨0x8030, 0x8030, 0x03, 0x03, 0, 0, .num 15, (fix 0 15), .none, .special .updateStatus⟩,
  ⟨0x8040, 0x8040, 0x01, 0x01, 8, 4, .num 0, (fix 0 33554432), .none, .special .recoveryImage⟩,
  ⟨0x8040, 0x8040, 0x02, 0x02, 6, 2, .num 0, (fix 1 1), .none, .special .recoveryBoot⟩,
  ⟨0x8050, 0x8050, 0x01, 0x01, 6, 3, .now, (fix 1 1), .none, .special .debugUnlock⟩,
  ⟨0x8060, 0x8060, 0x01, 0x01, 1, 0, .num 0, (fix 0 65535), .none, .field fun _ _ => R.MEK_VALID⟩,
  ⟨0x8060, 0x8060, 0x02, 0x02, 0, 0, .num 0, (fix 0 255), .none, .field fun _ _ => R.CRYPTO_ERASE_CNT⟩,
  ⟨0x8070, 0x8070, 0x01, 0x01, 8, 0, .num 0, (fix 0 131072), .none, .special .certChain⟩,
  ⟨0x8070, 0x8070, 0x02, 0x02, 8, 0, .num 0, (fix 0 16384), .none, .special .aliasCert⟩,
  ⟨0x8070, 0x8070, 0x03, 0x03, 8, 0, .num 0, (fix 0 65536), .none, .special .measurements⟩,
  ⟨0x9000, 0x9000, 0x01, 0x01, 6, 0, .num 0, (fix 0 1), .none, .field fun _ _ => R.PERT_ARM⟩,
  ⟨0x9001, 0x9001, 0x01, 0x04, 6, 2, .num 0, (fix 0 1), .none, .bit R.DRAIN_REQ⟩,
  ⟨0x9002, 0x9002, 0x01, 0x01, 2, 0, .num 0, (fix 0 131071), .none, .field fun _ _ => R.ACTV_HOLD_US⟩,
  ⟨0xA000, 0xA000, 0x01, 0x01, 2, 0, .num 0, (fix 0 4294967295), .none, .field fun _ _ => R.CE_CNT⟩,
  ⟨0xA000, 0xA000, 0x02, 0x02, 1, 0, .num 0, (fix 0 65535), .none, .field fun _ _ => R.UE_CNT⟩,
  ⟨0xA000, 0xA000, 0x03, 0x03, 1, 0, .num 0, (fix 0 65535), .none, .field fun _ _ => R.POISON_RD_CNT⟩,
  ⟨0xA000, 0xA000, 0x04, 0x04, 1, 0, .num 0, (fix 0 65535), .none, .field fun _ _ => R.CURED_CNT⟩,
  ⟨0xA001, 0xA001, 0x01, 0x01, 1, 2, .num 168, (fix 1 720), .none, .field fun _ _ => R.SCRUB_PASS_H⟩,
  ⟨0xA001, 0xA001, 0x02, 0x02, 6, 2, .num 1, (fix 0 1), .none, .field fun _ _ => R.SCRUB_EN⟩,
  ⟨0xA001, 0xA001, 0x03, 0x03, 1, 0, .num 0, (fix 0 65535), .none, .field fun _ _ => R.SCRUB_PASSES⟩,
  ⟨0xA002, 0xA002, 0x01, 0x01, 0, 0, .num 0, (fix 0 32), .none, .field fun _ _ => R.CE_LOG_USED⟩,
  ⟨0xA002, 0xA002, 0x02, 0x02, 8, 0, .num 0, (fix 0 512), .none, .words 128 fun k => (R.CEL_WORD 0).addr + 4 * k⟩,
  ⟨0xA003, 0xA003, 0x01, 0x01, 1, 0, .now, (fix 0 512), .none, .field fun _ _ => R.SPARE_FUSED⟩,
  ⟨0xA003, 0xA003, 0x02, 0x02, 1, 0, .num 0, (fix 0 16384), .none, .field fun _ _ => R.SPARE_SOFT⟩,
  ⟨0xA003, 0xA003, 0x03, 0x03, 2, 3, .num 0, (fix 0 16777215), .none, .special .spareRow⟩]

/-- Every object of the dictionary. -/
def objects : List ObjRow :=
  hostObjects ++ mediaObjects ++ readObjects ++ servoObjects ++ calObjects ++ faultObjects ++ securityObjects

/-- The object at an index and subindex. -/
def findObject (idx sub : Nat) : Option ObjRow :=
  objects.find? fun r => decide (r.idxLo ≤ idx) && decide (idx ≤ r.idxHi) && decide (r.subLo ≤ sub) && decide (sub ≤ r.subHi)

/-- R12: the bytes of a value of a fixed-size type; none for STR and BLOB. -/
def typeBytes (t : Nat) : Option Nat :=
  if t = 0 ∨ t = 6 then some 1 else if t = 1 then some 2 else if t = 3 then some 8 else if t < 6 then some 4 else none

/-- R12: a type whose values are signed. -/
def typeSigned (t : Nat) : Bool := t == 4 || t == 5

/-- Several byte strings one after the other, as (length, value) pairs. -/
def joinBytes (l : List (Nat × Nat)) : Nat × Nat := l.foldl (fun (x : Nat × Nat) (p : Nat × Nat) =>
  (x.1 + p.1, x.2 + p.2 % 2 ^ (8 * p.1) * 2 ^ (8 * x.1))) (0, 0)

/-- R145, R646: the DevID chain in the identity region: its own first two bytes give its length. -/
def devidChain (s : State) : Nat × Nat :=
  let n := s.boot.certChain % 65536
  (n, s.boot.certChain % 2 ^ (8 * n))

namespace State

/-! ### Measurements (R647) -/

/-- A value of the running firmware's header; free where none runs. -/
def ofFirmware (s : State) (r : Nat) (f : Image → Nat) : Nat := match s.boot.firmware with
  | some i => f i
  | none => r

/-- R647: the digest of what actuator `n` sequences from. -/
def sequencerDigest (s : State) (n : Nat) : Nat :=
  let e := s.rd (R.EXEC_SRC n)
  if e = 0 then Config.fsqRomDigest else Store.get 0 s.boot.fsqPayload (2 * n + (e - 1))

/-- R647: block `k`, 1 to 12: its DMTF value type, its length, its value; `r` stands for a header that is not there. -/
def measurement (s : State) (r k : Nat) : Nat × Nat × Nat :=
  let cut := fun (n v : Nat) => (n, v % 2 ^ (8 * n))
  if k = 1 then (0, cut 64 Config.bootRomDigest)
  else if k = 2 then (1, cut 64 (s.ofFirmware r fun i => headerField i 0x30 64))
  else if k = 3 then (1, cut 64 (s.ofFirmware r fun i => Config.shake256 512 0x778 (signedMessage i)))
  else if k = 4 then (6, cut 8 (s.ofFirmware r fun i => headerField i 0x28 8))
  else if k = 5 then (7, 12, s.rd R.BOOT_SVN + 2 ^ 32 * s.fuses.fwSvnMin + 2 ^ 64 * s.fuses.mcSvnMin)
  else if k ≤ 9 then (1, cut 64 (s.sequencerDigest (k - 6)))
  else if k = 10 then
    (2, 4, s.fuses.variant % 4 + 2 ^ 8 * (s.fuses.lifecycle % 4) + 2 ^ 16 * s.keysProgrammed + 2 ^ 24 * (s.fuses.revoked % 256))
  else if k = 11 then
    (3, 4, s.rd R.DBG_UNLOCKED + 2 * s.rd R.BOOT_RECOVERY + 4 * s.rd R.BOOT_TRIAL + 8 * s.rd R.BOOT_FALLBACK)
  else (9, 4, s.rd R.ACTIVE_SEQ)

/-- R647: block `k` in SPDM measurement-block format: index, specification, size, then the raw value with its type and size. -/
def measurementBlock (s : State) (r k : Nat) : Nat × Nat :=
  let m := s.measurement r k
  joinBytes [(1, k), (1, 1), (2, m.2.1 + 3), (1, 0x80 + m.1), (2, m.2.1), (m.2.1, m.2.2)]

/-- R646: the alias certificate SEC issued at this boot; empty until the alias key is ready. -/
def aliasCertificate (s : State) : Nat × Nat :=
  if s.flag R.ALIAS_READY then
    let m := joinBytes ([2, 3, 4, 5].map fun k => let x := s.measurement 0 k
      (x.2.1, x.2.2))
    let c := Config.aliasCert s.devidSeed (Config.falconPublic s.aliasSeed) m.2
    (c.1 % 16385, c.2 % 2 ^ (8 * (c.1 % 16385)))
  else (0, 0)

/-! ### What an object reads as -/

/-- R605, R625: the 128 ring records from RD_IDX onward, an absent one as zeros. -/
def tallyBytes (s : State) : Nat × Nat :=
  joinBytes ((List.range 128).map fun k => match Store.get none s.tly.ring ((s.rd R.RD_IDX + k) % 8192) with
    | some x => joinBytes ((List.range 8).map fun w => (4, recordWord x.record w))
    | none => (32, 0))

/-- The working-set words of targets, as bytes. -/
def targetBytes (s : State) (l : List CalTarget) : Nat × Nat := joinBytes (l.map fun t => (4, (s.targetValue t).1))

/-- R512: the targets of a calibration object, in byte order; the second value of a coefficient follows its first. -/
def objectTargets (k : Special) (a b : Nat) : List CalTarget := match k with
  | .profile => (List.range 32).map fun w => ⟨1, a, b, w⟩
  | .setpoint => [⟨2, a, b, 0⟩]
  | .coefficients => (List.range 512).map fun i => ⟨4, a, 0, i⟩
  | .inertia => [⟨5, 0, 0, 0⟩]
  | .seekTable => (List.range 256).map fun i => ⟨5, 0, 0, 64 + 256 * b + i⟩
  | _ => []

/-- An object that no single field holds, at its place `a`, `b`: the bytes it reads as (R90, R152, R192, R194, R222, R251, R368,
R400, R512, R597, R625, R651, R652, R658). -/
def specialValue (s : State) (k : Special) (a b : Nat) : Nat × Nat := match k with
  | .recovered => (2, s.rd (([R.RCV_OK1, R.RCV_OK2, R.RCV_OK3, R.RCV_OK4, R.RCV_OK5, R.RCV_OK6] : List Fld).getD b R.RCV_OK1))
  | .pcieWidth => (1, s.boot.width)
  | .subsystemVendor => (2, s.mgt.subsystem.1.getD (Config.pciVendorId % 65536))
  | .subsystem => (2, s.mgt.subsystem.2.getD 0x9640)
  | .sasName => (8, s.sasAddress b)
  | .actuatorFailed => (1, s.rd (R.ACT_FAIL_DECL b))
  | .compat => (1, if s.rd (R.EXEC_SRC b) = 0 then 0
      else s.rd (if s.rd (R.EXEC_SRC b) = 1 then R.BANK0_COMPAT b else R.BANK1_COMPAT b))
  | .severity => (1, s.readReg (R.SEV_CLASS b).addr % 128)
  | .owner => joinBytes [(1, s.rd R.OWN_POS), (4, s.rd R.OWN_ADDR_LO), (4, s.rd R.OWN_ADDR_HI)]
  | .calStore => (1, s.rd R.STORE_BUSY)
  | .calState => (1, if !s.flag R.CAL_LOADED then 3 else if s.flag R.SET_DAMAGED then 2 else s.rd R.CAL_FALLBACK)
  | .profile => s.targetBytes (objectTargets .profile a b)
  | .setpoint => s.targetBytes (objectTargets .setpoint a b)
  | .coefficients => joinBytes ((objectTargets .coefficients a b).flatMap fun t =>
      [(4, (s.targetValue t).1), (4, (s.targetValue t).2)])
  | .inertia => s.targetBytes (objectTargets .inertia a b)
  | .seekTable => s.targetBytes (objectTargets .seekTable a b)
  | .format => (byteLen s.cal.format, s.cal.format)
  | .history => let h := Store.get (0, 0, 0) s.cal.history (32 * (a + 1) + b)
    joinBytes [(4, h.1), (4, h.2.1), (4, h.2.2)]
  | .tallyRecords => s.tallyBytes
  | .tallyClear => (1, ofBool (s.flag R.CLEAR_BUSY || s.tly.clearWait.isSome))
  | .tallyFlush => (1, s.rd R.FLUSH_BUSY)
  | .inputVoltage => (4, 10 * s.rd R.VIN_10MV)
  | .inputPower => (4, 10 * s.rd R.PIN_10MW)
  | .hours => (4, s.rd R.POH_S / 3600)
  | .calendar => (8, s.calMs)
  | .fwSvn => (1, s.fuses.fwSvnMin)
  | .mcSvn => (1, s.fuses.mcSvnMin)
  | .revoke => (1, s.fuses.revoked % 256)
  | .spinAtBoot => (1, ofBool s.spinAtBoot)
  | .updateImage => (0, 0)
  | .updateCommit => (1, ofBool s.boot.update.isSome)
  | .updateStatus => (1, s.mgt.updateStatus)
  | .recoveryImage => (0, 0)
  | .recoveryBoot => (1, 0)
  | .debugUnlock => (1, s.rd R.DBG_UNLOCKED)
  | .certChain => devidChain s
  | .aliasCert => s.aliasCertificate
  | .measurements => joinBytes ((List.range 12).map fun i => s.measurementBlock 0 (i + 1))
  | .spareRow => (4, 0)

/-- R12, R14: the bytes of an object's value at its place `a`, `b`: a register field's value, a signed one extended. -/
def objectValue (s : State) (r : ObjRow) (a b : Nat) : Nat × Nat :=
  let n := (typeBytes r.type).getD 0
  let ext := fun (f : Fld) =>
    (n, if typeSigned r.type then unsigned (8 * n) (signed f.width (s.readFld f)) else s.readFld f)
  match r.store with
  | .field f => ext (f a b)
  | .coupled f => ext f
  | .bit f => (n, ofBool ((s.rd f).testBit b))
  | .words k addr =>
    let x := joinBytes ((List.range k).map fun i => (4, s.readReg (addr i)))
    if r.type = 2 then (4, x.2) else x
  | .special k => s.specialValue k a b

/-- R631: the default that DESCRIBE reports. -/
def objectDefault (s : State) (r : ObjRow) (a b : Nat) : Int := match r.dflt with
  | .num v => v
  | .reset => match r.store with
    | .field f => ((field (f a b).rst (f a b).lo (f a b).width : Nat) : Int)
    | .special .severity => ((sevActReset b % 128 : Nat) : Int)
    | _ => 0
  | .now => (((s.objectValue r a b).2 : Nat) : Int)

/-- R89, R575, R617: the object at `a`, `b` is locked against writes. -/
def objectLocked (s : State) (r : ObjRow) (a b : Nat) : Bool := match r.lock with
  | .none => false
  | .power => s.flag R.CFG_LOCK
  | .faults => s.flag R.FCU_CFG_LOCK
  | .source => s.srcIgnored (128 * a + b)
  | .thermal => s.flag R.THM_CFG_LOCK

end State

end Sys2Proof.Machine
end

