-- ==== Sys2Proof/Machine/Damot.lean ====
section
/-!
DEFINITION. Machine/Damot.lean: the Damot requests of the eleven endpoint positions: reading and writing the dictionary,
ownership, authorization tokens, and the writes that burn fuses, commit updates and boot a recovery image (R134 to R136, R152, R558,
R626 to R643, R651 to R654).
-/
namespace Sys2Proof.Machine

open Arith

/-! ### Requests and their forms (R626, R629 to R631) -/

/-- R632: DM_STATUS values. -/
def stNoObject : Nat := 1
/-- See `stNoObject`. -/
def stReadRefused : Nat := 2
/-- See `stNoObject`. -/
def stReadOnly : Nat := 3
/-- See `stNoObject`. -/
def stNotOwner : Nat := 4
/-- See `stNoObject`. -/
def stAuthRequired : Nat := 5
/-- See `stNoObject`. -/
def stAuthInvalid : Nat := 6
/-- See `stNoObject`. -/
def stRange : Nat := 7
/-- See `stNoObject`. -/
def stLength : Nat := 8
/-- See `stNoObject`. -/
def stBusy : Nat := 9
/-- See `stNoObject`. -/
def stBadOp : Nat := 0xA
/-- See `stNoObject`. -/
def stRefused : Nat := 0xB
/-- See `stNoObject`. -/
def stNoRequest : Nat := 0xC
/-- See `stNoObject`. -/
def stOwned : Nat := 0xD
/-- See `stNoObject`. -/
def stNotAvailable : Nat := 0xE

/-- R640: the bytes of a token. -/
def tokenBytes : Nat := 3338

/-- R630: DM_FLAGS. -/
def moreOf (q : DamotReq) : Bool := q.flags.toNat.testBit 0

/-- See `moreOf`. -/
def authOf (q : DamotReq) : Bool := q.flags.toNat.testBit 1

/-- R631: the operations. -/
def damotOps : List Nat := [0x01, 0x02, 0x04, 0x10, 0x11, 0x13, 0x14, 0x20]

/-- R631, R632: a malformed header or an unknown DM_OP. -/
def badHeader (q : DamotReq) : Bool :=
  q.ver != 1 || decide (4 ≤ q.flags.toNat) || !damotOps.contains q.op.toNat

/-- R630, R631: the payload bytes an operation's form has. -/
def formBytes (q : DamotReq) : Option Nat :=
  let o := q.op.toNat
  if o = 0x02 then some q.len.toNat
  else if o = 0x01 then some 0
  else
    let want := if o = 0x13 then 9 else if o = 0x10 ∧ authOf q then q.len.toNat else 0
    if q.len.toNat = want then some want else none

/-- R629: the payload that follows the header is the one the form has, with at most 3 bytes of padding, none over MCTP. -/
def framed (q : DamotReq) : Bool := match formBytes q with
  | some n => decide (n ≤ q.bytes) && decide (q.bytes < n + 4) && (decide (5 ≤ q.pos.val) || q.bytes == n)
  | none => false

/-- R626: an endpoint's identity, 9 bytes. -/
def endpointIdentity (pos addr : Nat) : Nat := pos + 2 ^ 8 * (addr % 2 ^ 64)

namespace State

/-! ### Endpoints (R626, R629, R653) -/

/-- MGT receives the request: its position's path is there, and while BOOT_RECOVERY = 1 it is position 4; an MCTP message has at
most 8,208 bytes. -/
def hears (s : State) (q : DamotReq) : Bool :=
  let p := q.pos.val
  s.dom.core && (!s.flag R.BOOT_RECOVERY || p == 4)
    && (if p < 4 then s.flag (R.PORT_PRESENT p) else if p = 4 then s.flag R.I3C_EN
        else if p < 9 then s.flag (R.PORT_PRESENT (p - 5)) else true)
    && (decide (5 ≤ p) || decide (q.bytes ≤ 8192))

/-- R635: the endpoint is the owner. -/
def ownedBy (s : State) (pos addr : Nat) : Bool :=
  s.rd R.OWN_STATE != 0 && s.rd R.OWN_POS == pos && s.rd R.OWN_ADDR_LO + 2 ^ 32 * s.rd R.OWN_ADDR_HI == addr

/-- The sender of a request is the owner. -/
def ownerSends (s : State) (q : DamotReq) : Bool := s.ownedBy q.pos.val q.addr.toNat

/-- R629, R630: a response: sent at once over MCTP, held for a Receive elsewhere. -/
def respond (s : State) (q : DamotReq) (r : DamotResp) : State :=
  let r := { r with op := q.op.toNat % 128, seq := q.seq.toNat }
  if q.pos.val < 5 then s.emit (.damot q.pos.val q.addr.toNat r)
  else
    let rest := s.mgt.held.filter fun e => !(e.1 == q.pos.val && e.2.1 == q.addr.toNat)
    { s with mgt := { s.mgt with held := rest ++ [(q.pos.val, q.addr.toNat, r)] } }

/-- A response about no object: what its object fields hold is left open. -/
def reply (s : State) (q : DamotReq) (status : Nat) (len : Nat := 0) (payload : Nat := 0) : State :=
  let (f, s) := s.free
  s.respond q { status := status, type := field f 0 8, access := field f 8 8, total := field f 16 32, len := len, payload := payload }

/-- A response about an object. -/
def replyObject (s : State) (q : DamotReq) (r : ObjRow) (total status : Nat) (len : Nat := 0) (payload : Nat := 0) : State :=
  s.respond q { status := status, type := r.type, access := r.access, total := total, len := len, payload := payload }

/-! ### Ownership (R635, R636) -/

/-- R636: the lease starts over. -/
def restartLease (s : State) : State :=
  ({ s with mgt := { s.mgt with leaseMs := 0 } }).wr R.LEASE_LEFT (s.rd R.LEASE_S)

/-- R636: the endpoint becomes the owner; an offer is dropped, a lease starts, line 208. -/
def takeOwner (s : State) (pos addr : Nat) : State :=
  let s := ((s.wr R.OWN_STATE 1).wr R.OWN_POS pos).wr R.OFFER_POS 0xF
  (((s.wr R.OWN_ADDR_LO addr).wr R.OWN_ADDR_HI (addr / 2 ^ 32)).restartLease).raise 208

/-- R636: a millisecond of the lease passes. -/
def leaseTick (s : State) : State :=
  if s.rd R.OWN_STATE = 0 then s
  else if s.mgt.leaseMs < 999 then { s with mgt := { s.mgt with leaseMs := s.mgt.leaseMs + 1 } }
  else ({ s with mgt := { s.mgt with leaseMs := 0 } }).wr R.LEASE_LEFT (s.rd R.LEASE_LEFT - 1)

/-! ### Tokens (R639 to R643) -/

/-- R640: `n` bytes of a token at offset `off`. -/
def tokenField (t off n : Nat) : Nat := field t (8 * off) (8 * n)

/-- R643, check 1: magic, version, zero fields, signature length. -/
def tokenFormOk (t : Nat) : Bool :=
  tokenField t 0 4 == 0x54415158 && tokenField t 4 1 == 1 && tokenField t 6 2 == 0 && tokenField t 0x74D 3 == 0
    && tokenField t 0x752 2 == 0 && decide (1 ≤ tokenField t 0x750 2) && decide (tokenField t 0x750 2 ≤ 1462)

/-- R643: the code of the first check that fails, 0 where all pass; `op` is the operation, `digest` that of the value or
identity presented. -/
def tokenCode (s : State) (q : DamotReq) (op t digest : Nat) : Nat :=
  let k := tokenField t 5 1
  let key := tokenField t 0x4C 1793
  let h := Store.get 0 s.fuses.keyHash k
  let (idx, sub) := if op = 0x10 then (0x1100, 0) else (q.index.toNat, q.sub.toNat)
  if !tokenFormOk t then 1
  else if 8 ≤ k ∨ h = 0 ∨ s.fuses.revoked.testBit k then 2
  else if Config.shake256 256 1793 key % 2 ^ 256 ≠ h then 3
  else if Store.get none s.mgt.nonces q.pos.val ≠ some (tokenField t 0x0C 16) then 4
  else if tokenField t 0x1C 16 ≠ s.fuses.serial % 2 ^ 128 then 5
  else if tokenField t 8 2 ≠ idx ∨ tokenField t 0x0A 1 ≠ sub ∨ tokenField t 0x0B 1 ≠ op then 6
  else if tokenField t 0x2C 32 ≠ digest % 2 ^ 256 then 7
  else if !Config.falconVerify key (tokenField t 0 0x750) (field t (8 * 0x754) (8 * tokenField t 0x750 2)) then 8
  else 0

/-- R642, R643: a token checked: the nonce is consumed where its check is reached; a failure is counted, line 210. -/
def checkToken (s : State) (q : DamotReq) (op t digest : Nat) : State × Nat :=
  let c := s.tokenCode q op t digest
  let s := if c = 0 ∨ 4 ≤ c then { s with mgt := { s.mgt with nonces := Store.put none s.mgt.nonces q.pos.val none } } else s
  if c = 0 then (s, 0) else ((s.count R.AUTH_FAIL_CNT).raise 210, c)

/-! ### What a write of an object does -/

/-- R496, R512: the entries that a calibration object's value makes. -/
def objectEntries (k : Special) (a b v : Nat) : List ListEntry :=
  let l := objectTargets k a b
  let pair := decide (k = Special.coefficients)
  ((List.range l.length).zip l).map fun (e : Nat × CalTarget) =>
    if pair then ⟨e.2, 0, field v (64 * e.1) 32, field v (64 * e.1 + 32) 32⟩ else ⟨e.2, 0, field v (32 * e.1) 32, 0⟩

/-- R512: each entry applied as a STEP; SET_DIRTY. -/
def applyEntries (s : State) (l : List ListEntry) : State :=
  (l.foldl (fun s e => s.queueValue none false e.target e.value e.value2) s).setDirty

/-- R134: a key slot may be revoked: it is not the last one that is programmed and not revoked, and did not sign the running
firmware. -/
def mayRevoke (s : State) (k : Nat) : Bool :=
  let good := fun (j : Nat) => s.keysProgrammed.testBit j && !s.fuses.revoked.testBit j
  let last := good k && !((List.range 8).any fun j => j != k && good j)
  !last && !(s.boot.firmware.isSome && s.rd R.BOOT_KEYSLOT == k)

/-- R135: a minimum may be raised to `v`: no lower than the fused one, no higher than the version of the image that runs. -/
def mayRaise (fused v : Nat) (i : Option Image) : Bool :=
  decide (fused ≤ v) && match i with
    | some i => decide (v ≤ securityVersion i)
    | none => false

/-- R133 to R136, R558: the burn may be done. -/
def mayBurn (s : State) (b : FuseBurn) : Bool := match b with
  | .fwSvn v => mayRaise s.fuses.fwSvnMin v s.boot.firmware
  | .mcSvn v => mayRaise s.fuses.mcSvnMin v s.boot.microcode
  | .revoke k => s.mayRevoke k
  | .spareRow r => (Store.get none s.dram.soft r).isSome && decide (s.fuses.spareRows.length < 512)

/-- R136: a burn requested: refused after PF, busy while another runs. -/
def requestBurn (s : State) (b : FuseBurn) : State × Nat :=
  if s.boot.burn.isSome then (s, stBusy)
  else if s.flag R.PF_ACTIVE || !s.mayBurn b then (s, stRefused)
  else ({ s with boot := { s.boot with burn := some b } }, 0)

/-- R651: an image staged whole by endpoint `ep`, in place of what it had staged. -/
def stageImage (s : State) (ep n v : Nat) : State :=
  let s := { s with hosts := { s.hosts with fwStage := s.hosts.fwStage.filter fun e => e.1 / 65536 != ep } }
  s.stage ep 0 ((List.range (ceilDiv n 4096)).map fun i => field v (32768 * i) 32768)

/-- R651, R652: UpdateCommit of slot `k`. -/
def damotCommit (s : State) (k : Nat) : State × Nat :=
  if s.boot.update.isSome then (s, stBusy)
  else if s.slotRuns k then (s.raise 202, stRefused)
  else
    let r := s.startCommit 6 k 0 none
    if r.2 = 0 then (r.1, 0) else ({ r.1 with mgt := { r.1.mgt with updateStatus := r.2 } }, 0)

/-- R132, R653: the staged recovery image checked, and entered where accepted: it is not written to NOR. -/
def recoveryBoot (s : State) : State × Nat × Option Nat :=
  if !s.flag R.BOOT_RECOVERY then (s, stNotAvailable, none)
  else
    let i := s.stagedImage 7
    let code := imageCode s.fuses i false false
    if code ≠ 0 then (s, stRefused, some code)
    else if 0x800000000 ≤ loadAddress i ∧ ¬ s.flag R.DRAM_READY then (s, stBusy, none)
    else
      let s := s.loadBytes (loadAddress i) (payloadSize i) i.payload
      let s := { s with boot := { s.boot with phase := .firmware, firmware := some i } }
      ((s.wr R.BOOT_KEYSLOT (keySlot i)).wr R.BOOT_SVN (securityVersion i), 0, none)

/-- R654: debug access enabled. -/
def debugUnlock (s : State) : State :=
  let s := (s.wr R.DBG_UNLOCKED 1).raise 203
  if s.fuses.lifecycle % 4 = 0 then s else s.detect 456

/-- A SET taken. -/
def setTaken (s : State) : State × Nat × Option Nat := (s, 0, none)

/-- A SET answered with a status. -/
def setAnswered (x : State × Nat) : State × Nat × Option Nat := (x.1, x.2, none)

/-- The write of an object that no single field holds: the state, the status, and the check code of a refusal. -/
def writeSpecial (s : State) (k : Special) (a b v n : Nat) : State × Nat × Option Nat :=
  match k with
  | .subsystemVendor => setTaken { s with mgt := { s.mgt with subsystem := (some v, s.mgt.subsystem.2) } }
  | .subsystem => setTaken { s with mgt := { s.mgt with subsystem := (s.mgt.subsystem.1, some v) } }
  | .actuatorFailed => setTaken (left s (execActuatorFailDeclare (Fin.ofNat 4 b) s))
  | .severity => setTaken (s.regWrite (R.SEV_CLASS b).addr v 127)
  | .calStore => if s.flag R.STORE_BUSY then (s, stBusy, none) else setTaken s.storeGo
  | .profile => setTaken (s.applyEntries (objectEntries k a b v))
  | .setpoint => setTaken (s.applyEntries (objectEntries k a b v))
  | .coefficients => setTaken (s.applyEntries (objectEntries k a b v))
  | .inertia => setTaken (s.applyEntries (objectEntries k a b v))
  | .seekTable => setTaken (s.applyEntries (objectEntries k a b v))
  | .format => setTaken ({ s with cal := { s.cal with format := v } }).setDirty
  | .tallyClear =>
    if s.flag R.CLEAR_BUSY || s.tly.clearWait.isSome then (s, stBusy, none) else setTaken (left s (execTallyClear (v == 2) s))
  | .tallyFlush => if s.flag R.FLUSH_BUSY then (s, stBusy, none) else setTaken s.tallyFlushStart
  | .calendar => setTaken (s.setCalendar v)
  | .fwSvn => setAnswered (s.requestBurn (.fwSvn v))
  | .mcSvn => setAnswered (s.requestBurn (.mcSvn v))
  | .revoke => setAnswered (s.requestBurn (.revoke v))
  | .spinAtBoot => setTaken (s.writeBootRecord fun r => { r with spin := v == 1 })
  | .updateImage => setTaken (s.stageImage 6 n v)
  | .updateCommit => setAnswered (s.damotCommit (v - 1))
  | .recoveryImage => setTaken (s.stageImage 7 n v)
  | .recoveryBoot => s.recoveryBoot
  | .debugUnlock => setTaken s.debugUnlock
  | .spareRow => setAnswered (s.requestBurn (.spareRow v))
  | _ => setTaken s

/-- R632: the value is outside the object's Range; for a field that others limit, also where a register write would limit it. -/
def outOfRange (s : State) (r : ObjRow) (a b v : Nat) : Bool :=
  let x : Int := if typeSigned r.type then signed 32 v else (v : Int)
  let (lo, hi) := r.range s
  match r.store with
  | .special .profile => !(objectEntries .profile a b v).all entryOk
  | .special .coefficients => !(objectEntries .coefficients a b v).all entryOk
  | .special .severity => decide (x < lo) || decide (hi < x) || v % 4 == 0
  | .coupled f => decide (x < lo) || decide (hi < x) || (s.fieldWrite f v).rd f != v
  | _ => (typeBytes r.type).isSome && (decide (x < lo) || decide (hi < x))

/-- R632: the value's length is wrong for the object's type, or past its limit. -/
def badLength (s : State) (r : ObjRow) (n : Nat) : Bool := match typeBytes r.type with
  | some k => n != k
  | none => let (lo, hi) := r.range s
    decide ((n : Int) < lo) || decide (hi < (n : Int))

/-- R14, R632: a value that passed takes effect; REG_TOKEN moves past MGT's position (R17). -/
def writeObject (s : State) (r : ObjRow) (a b v n : Nat) : State × Nat × Option Nat :=
  let t := s.wr R.REG_TOKEN 2
  match r.store with
  | .field f => (t.fieldWrite (f a b) v, 0, none)
  | .coupled f => (t.fieldWrite f v, 0, none)
  | .bit f => (t.fieldWrite f (putBit (s.rd f) b (v == 1)), 0, none)
  | .words _ _ => (t, 0, none)
  | .special k =>
    let w := t.writeSpecial k a b v n
    if w.2.1 = 0 then w else (w.1.wr R.REG_TOKEN (s.rd R.REG_TOKEN), w.2)

/-- R653: what is served while BOOT_RECOVERY = 1. -/
def servedNow (s : State) (idx sub : Nat) : Bool :=
  !s.flag R.BOOT_RECOVERY || idx == 0x1010 || idx == 0x1100 || idx == 0x8040 || (idx == 0x8010 && (sub == 4 || sub == 5))

/-- The token of an authorised SET, where it has one: the state after its check, and the code of a failure (0 for none). -/
def setToken (s : State) (q : DamotReq) (t digest : Nat) : State × Nat :=
  if authOf q then s.checkToken q 0x02 t digest else (s, 0)

/-- R632, R643: a SET judged and, where it passes, applied: `v` of `n` bytes with the token `t`. -/
def judgeSet (s : State) (q : DamotReq) (r : ObjRow) (a b v n t : Nat) : State × Nat × Option Nat :=
  if r.access = 0 || s.objectLocked r a b then (s, stReadOnly, none)
  else
    let (s, code) := s.setToken q t (Config.shake256 256 n v)
    if r.access = 2 && !s.ownerSends q then (s, stNotOwner, none)
    else if r.access = 3 && !authOf q then (s, stAuthRequired, none)
    else if code ≠ 0 then (s, stAuthInvalid, some code)
    else if s.outOfRange r a b v then (s, stRange, none)
    else if s.badLength r n then (s, stLength, none)
    else s.writeObject r a b v n

/-- A response with a check code as its one payload byte. -/
def replyCode (s : State) (q : DamotReq) (r : ObjRow) (total : Nat) (x : Nat × Option Nat) : State := match x.2 with
  | some c => s.replyObject q r total x.1 1 c
  | none => s.replyObject q r total x.1

/-- R633: bytes of a value placed at an offset. -/
def placeBytes (old off n v : Nat) : Nat := putField old (8 * off) (8 * n) v

/-- R633: the limit of a staged value. -/
def stageLimit : Nat := 48 * 2 ^ 20

/-- R633: what this endpoint has staged of this object; what else its position staged is discarded. -/
def stagedValue (s : State) (q : DamotReq) : Option DamotStage := match Store.get none s.mgt.stage q.pos.val with
  | some x => if x.addr = q.addr.toNat ∧ x.object = q.index.toNat * 256 + q.sub.toNat then some x else none
  | none => none

/-- R633: bytes staged by a SET with MORE. -/
def stageMore (s : State) (q : DamotReq) : State :=
  let st := s.stagedValue q
  let x : DamotStage := st.getD ⟨q.addr.toNat, q.index.toNat * 256 + q.sub.toNat, 0, 0⟩
  let (o, n) := (q.offset.toNat, q.len.toNat)
  if stageLimit < o + n then
    ({ s with mgt := { s.mgt with stage := Store.put none s.mgt.stage q.pos.val st } }).reply q stLength
  else
    let x := { x with value := placeBytes x.value o n (q.payload % 2 ^ (8 * n)), len := max x.len (o + n) }
    ({ s with mgt := { s.mgt with stage := Store.put none s.mgt.stage q.pos.val (some x) } }).reply q 0

/-- R632, R633: the SET that ends a value: staged bytes and its own. -/
def finalSet (s : State) (q : DamotReq) : State :=
  let st := s.stagedValue q
  let s := s.discardStage q.pos.val
  let n := q.len.toNat - (if authOf q then tokenBytes else 0)
  let t := if authOf q && decide (tokenBytes ≤ q.len.toNat) then q.payload / 2 ^ (8 * n) % 2 ^ (8 * tokenBytes) else 0
  let o := q.offset.toNat
  let whole := max ((st.map fun x => x.len).getD 0) (o + n)
  let v := if stageLimit < o + n then 0 else placeBytes ((st.map fun x => x.value).getD 0) o n (q.payload % 2 ^ (8 * n))
  match findObject q.index.toNat q.sub.toNat with
  | none => s.reply q stNoObject
  | some r =>
    let (a, b) := (q.index.toNat - r.idxLo, q.sub.toNat - r.subLo)
    if !s.servedNow q.index.toNat q.sub.toNat then s.replyObject q r (s.objectValue r a b).1 stNotAvailable
    else
      let w := s.judgeSet q r a b v whole t
      w.1.replyCode q r (w.1.objectValue r a b).1 w.2

/-! ### The other operations (R631, R636, R637, R642) -/

/-- R631: SET. -/
def damotSet (s : State) (q : DamotReq) : State := if moreOf q then s.stageMore q else s.finalSet q

/-- R631, R632: GET: a fixed-size value whole, else the bytes asked for that there are, as many as a message holds. -/
def damotGet (s : State) (q : DamotReq) : State := match findObject q.index.toNat q.sub.toNat with
  | none => s.reply q stNoObject
  | some r =>
    let (a, b) := (q.index.toNat - r.idxLo, q.sub.toNat - r.subLo)
    let (n, v) := s.objectValue r a b
    if !s.servedNow q.index.toNat q.sub.toNat then s.replyObject q r n stNotAvailable
    else if r.access = 4 then s.replyObject q r n stReadRefused
    else if (typeBytes r.type).isSome then s.replyObject q r n 0 n v
    else
      let k := min (min q.len.toNat 8192) (n - q.offset.toNat)
      s.replyObject q r n 0 k (field v (8 * q.offset.toNat) (8 * k))

/-- R631: DESCRIBE. -/
def damotDescribe (s : State) (q : DamotReq) : State := match findObject q.index.toNat q.sub.toNat with
  | none => s.reply q stNoObject
  | some r =>
    let (a, b) := (q.index.toNat - r.idxLo, q.sub.toNat - r.subLo)
    let (lo, hi) := r.range s
    let lo := if (typeBytes r.type).isSome then lo else 0
    let n := (s.objectValue r a b).1
    let u := unsigned 64
    if !s.servedNow q.index.toNat q.sub.toNat then s.replyObject q r n stNotAvailable
    else s.replyObject q r n 0 28
      (joinBytes [(1, r.type), (1, r.access), (2, 0), (8, u (s.objectDefault r a b)), (8, u lo), (8, u hi)]).2

/-- R636: a claim judged; `token` where it carries a valid one. -/
def judgeClaim (s : State) (q : DamotReq) (token : Bool) : State :=
  let (p, a) := (q.pos.val, q.addr.toNat)
  if s.rd R.OWN_STATE = 0 || token then (s.takeOwner p a).reply q 0
  else if s.ownedBy p a then (s.restartLease).reply q 0
  else ((s.count R.CLAIM_REF_CNT).raise 209).reply q stOwned

/-- R641, R643: the check of a claim's token: the code where it fails. -/
def claimToken (s : State) (q : DamotReq) : State × Nat :=
  if authOf q then
    s.checkToken q 0x10 (if q.len.toNat = tokenBytes then q.payload % 2 ^ (8 * tokenBytes) else 0)
      (Config.shake256 256 9 (endpointIdentity q.pos.val q.addr.toNat))
  else (s, 0)

/-- R637: the claims of one cycle: a token that fails is answered; the others are judged in turn-token order. -/
def claimCycle (s : State) (l : List DamotReq) : State :=
  let (s, l) := l.foldl (fun (x : State × List DamotReq) q =>
    let c := x.1.claimToken q
    if c.2 = 0 then (c.1, x.2 ++ [q]) else (c.1.reply q stAuthInvalid 1 c.2, x.2)) (s, [])
  let order := tokenOrder 11 (s.rd R.OWN_TOKEN) (l.map fun q => q.pos.val)
  let s := s.wr R.OWN_TOKEN (tokenAfter 11 (s.rd R.OWN_TOKEN) order)
  (order.flatMap fun p => l.filter fun q => q.pos.val == p).foldl (fun s q => s.judgeClaim q (authOf q)) s

/-- R636: RELEASE. -/
def damotRelease (s : State) (q : DamotReq) : State :=
  if s.ownerSends q then s.unown.reply q 0 else s.reply q stNotOwner

/-- R636: OFFER to the identity in the payload. -/
def damotOffer (s : State) (q : DamotReq) : State :=
  let p := field q.payload 0 8
  if !s.ownerSends q then s.reply q stNotOwner
  else if 10 < p then s.reply q stRange
  else
    let s := { s with mgt := { s.mgt with offerAddr := field q.payload 8 64 } }
    (((s.wr R.OWN_STATE 2).wr R.OFFER_POS p).raise 208).reply q 0

/-- R636: ACCEPT. -/
def damotAccept (s : State) (q : DamotReq) : State :=
  if s.rd R.OWN_STATE = 2 ∧ s.rd R.OFFER_POS = q.pos.val ∧ s.mgt.offerAddr = q.addr.toNat then
    (s.takeOwner q.pos.val q.addr.toNat).reply q 0
  else s.reply q stRefused

/-- R642: NONCE: 16 random bytes, bound to the position. -/
def damotNonce (s : State) (q : DamotReq) : State :=
  let (f, s) := s.free
  let n := f % 2 ^ 128
  ({ s with mgt := { s.mgt with nonces := Store.put none s.mgt.nonces q.pos.val (some n) } }).reply q 0 16 n

/-- A request counted, and the lease restarted where the owner sends it (R631). -/
def received (s : State) (q : DamotReq) : State :=
  let s := s.count R.DM_REQ_CNT
  if s.ownerSends q then s.restartLease else s

/-- R629, R631: a well-formed request of one operation, or its refusal. -/
def checked (s : State) (q : DamotReq) (f : State → DamotReq → State) : State :=
  if !s.hears q then s
  else
    let s := s.received q
    if badHeader q then s.reply q stBadOp else if !framed q then s.reply q stLength else f s q

/-- R637: claims that arrive in one cycle, at most one from each position. -/
def claims (s : State) (l : List DamotReq) : State :=
  let l := (List.range 11).filterMap fun p => l.find? fun q => q.pos.val == p && s.hears q
  let s := l.foldl received s
  let s := l.foldl (fun s q => if badHeader q then s.reply q stBadOp else if framed q then s else s.reply q stLength) s
  s.claimCycle (l.filter fun q => !badHeader q && framed q)

/-- R631: any request, by its DM_OP. -/
def damot (s : State) (q : DamotReq) : State :=
  let o := q.op.toNat
  if o = 0x10 then s.claims [q]
  else s.checked q fun s q =>
    if o = 0x01 then s.damotGet q else if o = 0x02 then s.damotSet q else if o = 0x04 then s.damotDescribe q
    else if o = 0x11 then s.damotRelease q else if o = 0x13 then s.damotOffer q else if o = 0x14 then s.damotAccept q
    else s.damotNonce q

/-! ### Damot Send and Receive (R629) -/

/-- R629: the endpoint position and address a host command comes from. -/
def hostEndpoint (s : State) (c : Cmd) : Nat × Nat :=
  if c.port < 4 then (5 + c.port, 0)
  else (5 + c.port, ((s.nexusAt (c.port - 4) c.req.queue).map fun n => n.addr).getD 0)

/-- R629: the length of a host command's transfer in bytes. -/
def damotLength (c : Cmd) : Nat := if c.port < 4 then 4 * c.req.cdw10 else c.req.cdw10

/-- R629: a Damot Send or Receive of opcode `op`, its length checked. -/
def onDamot (s : State) (t op : Nat) (f : Cmd → State) : State :=
  s.onCmd t (fun c => c.req.opcode == op && (decide (4 ≤ c.port) || c.req.queue == 0)) fun c =>
    if 8208 < damotLength c ∨ damotLength c % 4 ≠ 0 then s.finish c.tag invalidField else f c

/-- R629: a Send: the request is served, and the command completes without error whatever its response. -/
def damotSend (s : State) (q : DamotReq) (c : Cmd) : State :=
  let e := s.hostEndpoint c
  let n := damotLength c
  let q := { q with pos := Fin.ofNat 11 e.1, addr := BitVec.ofNat 64 e.2, bytes := n - 16, ver := if n < 16 then 0 else q.ver }
  (s.finish c.tag doneOk).damot q

/-- R629: a Receive: the endpoint's response, or NO_REQUEST. -/
def damotReceive (s : State) (c : Cmd) : State :=
  let e := s.hostEndpoint c
  let mine := fun (x : Nat × Nat × DamotResp) => x.1 == e.1 && x.2.1 == e.2
  match s.mgt.held.find? mine with
  | some x =>
    ((s.emit (.damot e.1 e.2 x.2.2)).finish c.tag doneOk) |> fun s =>
      { s with mgt := { s.mgt with held := s.mgt.held.filter fun x => !mine x } }
  | none =>
    let (f, s) := s.free
    let r : DamotResp := { op := field f 0 7, seq := field f 8 16, status := stNoRequest, type := field f 24 8, access := field f 32 8
                           total := field f 40 32 }
    (s.emit (.damot e.1 e.2 r)).finish c.tag doneOk

/-- A SET of one fixed object: the row's own operation and object, whatever the request's header names. -/
def setFixed (s : State) (q : DamotReq) (idx sub : Nat) : State :=
  s.checked { q with op := 0x02, index := BitVec.ofNat 16 idx, sub := BitVec.ofNat 8 sub } damotSet

end State

/-! ### The commands -/

/-- DAMOT_SEND (R629). -/
def execDamotSend (tag : BitVec 13) (req : DamotReq) (s : State) : Result :=
  .next (s.onDamot tag.toNat 0xC1 (s.damotSend req))

/-- DAMOT_RECEIVE (R629). -/
def execDamotReceive (tag : BitVec 13) (s : State) : Result := .next (s.onDamot tag.toNat 0xC2 s.damotReceive)

/-- DAMOT_GET (R631). -/
def execDamotGet (req : DamotReq) (s : State) : Result := .next (s.checked { req with op := 0x01 } State.damotGet)

/-- DAMOT_SET (R632, R633). -/
def execDamotSet (req : DamotReq) (s : State) : Result := .next (s.checked { req with op := 0x02 } State.damotSet)

/-- DAMOT_DESCRIBE (R631). -/
def execDamotDescribe (req : DamotReq) (s : State) : Result :=
  .next (s.checked { req with op := 0x04 } State.damotDescribe)

/-- DAMOT_CLAIM (R636, R637): the claims of one cycle. -/
def execDamotClaim (reqs : List DamotReq) (s : State) : Result :=
  .next (s.claims (reqs.map fun q => { q with op := 0x10 }))

/-- DAMOT_RELEASE (R636). -/
def execDamotRelease (req : DamotReq) (s : State) : Result :=
  .next (s.checked { req with op := 0x11 } State.damotRelease)

/-- DAMOT_OFFER (R636). -/
def execDamotOffer (req : DamotReq) (s : State) : Result := .next (s.checked { req with op := 0x13 } State.damotOffer)

/-- DAMOT_ACCEPT (R636). -/
def execDamotAccept (req : DamotReq) (s : State) : Result := .next (s.checked { req with op := 0x14 } State.damotAccept)

/-- DAMOT_NONCE (R642). -/
def execDamotNonce (req : DamotReq) (s : State) : Result := .next (s.checked { req with op := 0x20 } State.damotNonce)

/-- DAMOT_BAD_OP (R631, R632): a request whose header is malformed or whose DM_OP is unknown. -/
def execDamotBadOp (req : DamotReq) (s : State) : Result :=
  .next (if badHeader req then s.checked req fun s _ => s else s)

/-- NONCE_EXPIRY (R642). -/
def execNonceExpiry (pos : Fin 11) (s : State) : Result :=
  .next { s with mgt := { s.mgt with nonces := Store.put none s.mgt.nonces pos.val none } }

/-- LEASE_EXPIRY (R636). -/
def execLeaseExpiry (s : State) : Result := .next (if s.rd R.OWN_STATE = 0 then s else s.unown.raise 211)

/-- OFFER_TIMEOUT (R636). -/
def execOfferTimeout (s : State) : Result :=
  .next (if s.rd R.OWN_STATE = 2 then (((s.wr R.OWN_STATE 1).wr R.OFFER_POS 0xF).raise 208).raise 212 else s)

/-- OWN_DROP (R636). -/
def execOwnDrop (s : State) : Result := .next (s.access R.OWN_DROP State.unown)

/-- SPIN_AT_BOOT_WRITE (R125, R152). -/
def execSpinAtBootWrite (req : DamotReq) (s : State) : Result := .next (s.setFixed req 0x8010 6)

/-- KEY_SLOT_REVOKE (R134, R136). -/
def execKeySlotRevoke (req : DamotReq) (s : State) : Result := .next (s.setFixed req 0x8010 3)

/-- FIRMWARE_SVN_MIN (R135, R136). -/
def execFirmwareSvnMin (req : DamotReq) (s : State) : Result := .next (s.setFixed req 0x8010 1)

/-- MICROCODE_SVN_MIN (R135, R136). -/
def execMicrocodeSvnMin (req : DamotReq) (s : State) : Result := .next (s.setFixed req 0x8010 2)

/-- UPDATE_COMMIT (R651, R652). -/
def execUpdateCommit (req : DamotReq) (s : State) : Result := .next (s.setFixed req 0x8030 2)

/-- RECOVERY_BOOT (R653). -/
def execRecoveryBoot (req : DamotReq) (s : State) : Result := .next (s.setFixed req 0x8040 2)

/-- DEBUG_UNLOCK (R654). -/
def execDebugUnlock (req : DamotReq) (s : State) : Result := .next (s.setFixed req 0x8050 1)

/-- SPARE_ROW_BURN (R558). -/
def execSpareRowBurn (req : DamotReq) (s : State) : Result := .next (s.setFixed req 0xA003 3)

end Sys2Proof.Machine
end

