-- ==== Sys2Proof/Machine/Attest.lean ====
section
/-!
DEFINITION. Machine/Attest.lean: the MCTP control messages, the I3C target's address, and SPDM (R144, R627, R628, R636, R644 to
R647).
-/
namespace Sys2Proof.Machine

open Arith

/-! ### SPDM's codes -/

/-- ERROR codes. -/
def spdmInvalid : Nat := 0x01
/-- See `spdmInvalid`. -/
def spdmUnexpected : Nat := 0x04
/-- See `spdmInvalid`. -/
def spdmUnsupported : Nat := 0x07
/-- See `spdmInvalid`. -/
def spdmLarge : Nat := 0x0F
/-- See `spdmInvalid`. -/
def spdmVersion : Nat := 0x41

/-- The code of a request. -/
def spdmCode : SpdmReq → Nat
  | .getVersion => 0x84
  | .getCapabilities _ _ => 0xE1
  | .negotiate _ _ => 0xE3
  | .getDigests => 0x81
  | .getCertificate _ _ _ => 0x82
  | .challenge _ => 0x83
  | .getMeasurements _ _ _ => 0xE0
  | .unsupported c => c.toNat

/-- R640: the bytes a Falcon-1024 signature takes. -/
def signatureBytes : Nat := 1462

/-- R646: the chain of slot 1: slot 0's, its length field raised, and the alias certificate. -/
def aliasChain (chain cert : Nat × Nat) : Nat × Nat :=
  let n := chain.1 + cert.1
  (n, putField chain.2 0 16 n + cert.2 * 2 ^ (8 * chain.1))

namespace State

/-! ### MCTP control (R627) -/

/-- R626, R653: an MCTP or I3C message on position `p` reaches MGT. -/
def mctpUp (s : State) (p : Nat) : Bool :=
  s.dom.core && (!s.flag R.BOOT_RECOVERY || p == 4) && (if p < 4 then s.flag (R.PORT_PRESENT p) else s.flag R.I3C_EN)

/-- An MCTP control request on position `p`. -/
def mctp (s : State) (p : Nat) (f : State → State) : State := if s.mctpUp p then f s else s

/-- R627: the EID of a position. -/
def eid (s : State) (p : Nat) : Nat := Store.get 0 s.mgt.eids p

/-- R627: Set Endpoint ID; an EID that cannot be assigned is Invalid Data. -/
def setEid (s : State) (p e : Nat) : State :=
  if e = 0 ∨ e = 0xFF then s.emit (.mctp p 2 [])
  else ({ s with mgt := { s.mgt with eids := Store.put 0 s.mgt.eids p e } }).emit (.mctp p 0 [("EID", e)])

/-! ### The I3C target (R628) -/

/-- R628: the target takes a dynamic address, where it is enabled and has none. -/
def takeDynamic (s : State) (a : Nat) : State :=
  if s.dom.core && s.flag R.I3C_EN && s.rd R.I3C_DYN == 0 then s.wr R.I3C_DYN a else s

/-! ### SPDM connections (R644) -/

/-- The connection of position `p`. -/
def spdmAt (s : State) (p : Nat) : SpdmConn := Store.get {} s.mgt.spdm p

/-- The connection of position `p` changed. -/
def modSpdm (s : State) (p : Nat) (f : SpdmConn → SpdmConn) : State :=
  { s with mgt := { s.mgt with spdm := Store.modify {} s.mgt.spdm p f } }

/-- The length of a response in bytes. -/
def spdmLength : SpdmResp → Nat
  | .error _ _ => 4
  | .answer _ n _ => n

/-- R644: a response sent; one longer than the requester takes is held, to be fetched in chunks. -/
def spdmSend (s : State) (p : Nat) (r : SpdmResp) : State :=
  let c := s.spdmAt p
  if c.transfer < spdmLength r ∧ c.transfer ≠ 0 then
    let h := c.handles % 256
    (s.modSpdm p fun c => { c with large := some (h, 0, 0, r), handles := c.handles + 1 }).emit (.spdm p (.error spdmLarge h))
  else s.emit (.spdm p r)

/-- R646: the certificate chain of slot 0 or 1; none of another slot, or before SEC has issued the alias certificate. -/
def slotChain (s : State) (slot : Nat) : Option (Nat × Nat) :=
  if slot = 0 then some (devidChain s)
  else if slot = 1 ∧ s.flag R.ALIAS_READY then some (aliasChain (devidChain s) s.aliasCertificate)
  else none

/-- The digest of a chain. -/
def chainDigest (c : Nat × Nat) : Nat := Config.shake256 512 c.1 c.2 % 2 ^ 512

/-- R644, R645: the contents of ALGORITHMS. -/
def algorithms (asym hash : Bool) : List (String × Nat) :=
  [("BASE_ASYM", 0), ("BASE_HASH", 0), ("MEAS_SPEC", 1), ("MEAS_HASH_RAW", 1)]
    ++ (if asym then [("EXT_ASYM_VENDOR", Config.pciVendorId % 65536), ("EXT_ASYM", 1)] else [])
    ++ (if hash then [("EXT_HASH_VENDOR", Config.pciVendorId % 65536), ("EXT_HASH", 2)] else [])

/-- R647: the blocks GET_MEASUREMENTS for an index returns; none where there is no such block. -/
def measured (i : Nat) : Option (List Nat) :=
  if i = 0 then some [] else if i = 0xFF then some ((List.range 12).map fun k => k + 1)
  else if i ≤ 12 then some [i] else none

/-- R144, R646: the key of a slot is ready. -/
def keyReady (s : State) (slot : Nat) : Bool := s.flag (if slot = 0 then R.DEVID_READY else R.ALIAS_READY)

/-- R644, R645: the slot whose key a request needs, where it is in order and asks for a signature. -/
def signSlot (s : State) (p : Nat) (q : SpdmReq) : Option Nat :=
  if !(s.spdmAt p).chosen then none
  else match q with
    | .challenge slot => if slot.toNat < 2 then some slot.toNat else none
    | .getMeasurements i signed slot =>
      if signed ∧ slot.toNat < 2 ∧ (measured i.toNat).isSome then some slot.toNat else none
    | _ => none

/-- R144, R645, R646: a signature by the key of a slot. What SPDM signs, and the signer's randomness, are free. -/
def signature (s : State) (slot : Nat) : Nat × State :=
  let (m, s) := s.free
  let (n, s) := s.free
  (Config.falconSign (if slot = 0 then s.devidSeed else s.aliasSeed) m n, s)

/-- R645: CHALLENGE_AUTH of a slot. -/
def challengeAuth (s : State) (p slot : Nat) : State := match s.slotChain slot with
  | none => s.emit (.spdm p (.error spdmInvalid 0))
  | some c =>
    let (n, s) := s.free
    let (sig, s) := s.signature slot
    s.spdmSend p (.answer 0x83 (4 + 64 + 32 + 2 + signatureBytes)
      [("SLOT", slot), ("CHAIN_HASH", chainDigest c), ("NONCE", n % 2 ^ 256), ("SIGNATURE", sig)])

/-- R647: MEASUREMENTS of an index, signed by a slot's key where `signed`. -/
def measurementsOf (s : State) (p i : Nat) (signed : Bool) (slot : Nat) : State := match measured i with
  | none => s.emit (.spdm p (.error spdmInvalid 0))
  | some l =>
    let (r, s) := s.free
    let (n, s) := s.free
    let b := joinBytes (l.map fun k => s.measurementBlock r k)
    let (sig, s) := if signed then s.signature slot else (0, s)
    let sg := if signed then [("SLOT", slot), ("SIGNATURE", sig)] else []
    s.spdmSend p (.answer 0xE0 (8 + b.1 + 32 + 2 + if signed then signatureBytes else 0)
      ([("COUNT", if i = 0 then 12 else l.length), ("BLOCKS", b.2), ("NONCE", n % 2 ^ 256)] ++ sg))

/-- A signing request served: its key is ready. -/
def signNow (s : State) (p : Nat) (q : SpdmReq) : State := match q with
  | .challenge slot => s.challengeAuth p slot.toNat
  | .getMeasurements i signed slot => s.measurementsOf p i.toNat signed slot.toNat
  | _ => s

/-- R144, R645: a signing request granted: one made before its key is ready waits. -/
def signGranted (s : State) (p : Nat) (q : SpdmReq) : State := match s.signSlot p q with
  | some slot =>
    if s.keyReady slot then s.signNow p q else { s with mgt := { s.mgt with signWait := s.mgt.signWait ++ [(p, q)] } }
  | none => s

/-- R644: GET_CAPABILITIES: the version is chosen. -/
def spdmCapabilities (s : State) (p v transfer : Nat) : State :=
  let c := s.spdmAt p
  if !c.open_ || c.version.isSome then s.emit (.spdm p (.error spdmUnexpected 0))
  else if v ≠ 0x12 ∧ v ≠ 0x13 then s.emit (.spdm p (.error spdmVersion 0))
  else if transfer < 42 then s.emit (.spdm p (.error spdmInvalid 0))
  else
    (s.modSpdm p fun c => { c with version := some v, transfer := transfer }).spdmSend p (.answer 0xE1 20
      [("CERT_CAP", 1), ("CHAL_CAP", 1), ("MEAS_CAP", 2), ("CHUNK_CAP", 1), ("DATA_TRANSFER", 4096), ("MAX_MESSAGE", 65536)])

/-- R645: NEGOTIATE_ALGORITHMS. -/
def spdmNegotiate (s : State) (p : Nat) (asym hash : Bool) : State :=
  let c := s.spdmAt p
  if c.version.isNone || c.chosen then s.emit (.spdm p (.error spdmUnexpected 0))
  else if !asym && !hash then s.emit (.spdm p (.error spdmInvalid 0))
  else (s.modSpdm p fun c => { c with chosen := true }).spdmSend p
    (.answer 0xE3 (36 + 4 * (ofBool asym + ofBool hash)) (algorithms asym hash))

/-- R646: GET_DIGESTS. -/
def spdmDigests (s : State) (p : Nat) : State :=
  let l := [0, 1].filterMap fun k => s.slotChain k
  s.spdmSend p (.answer 0x81 (4 + 64 * l.length)
    (("SLOT_MASK", 2 ^ l.length - 1) :: l.map fun c => ("DIGEST", chainDigest c)))

/-- R646: GET_CERTIFICATE: the bytes asked for that the chain has, and how many remain. -/
def spdmCertificate (s : State) (p slot off len : Nat) : State := match s.slotChain slot with
  | none => s.emit (.spdm p (.error spdmInvalid 0))
  | some c =>
    if c.1 ≤ off then s.emit (.spdm p (.error spdmInvalid 0))
    else
      let n := min len (c.1 - off)
      s.spdmSend p (.answer 0x82 (8 + n)
        [("SLOT", slot), ("LENGTH", n), ("REMAINDER", c.1 - off - n), ("CHAIN", field c.2 (8 * off) (8 * n))])

/-- A request that wants the algorithms chosen first. -/
def spdmLate (s : State) (p : Nat) (f : State → State) : State :=
  if (s.spdmAt p).chosen then f s else s.emit (.spdm p (.error spdmUnexpected 0))

/-- R644 to R647: a request that asks for no signature. -/
def spdmServe (s : State) (p : Nat) (q : SpdmReq) : State :=
  match q with
  | .getVersion =>
    (s.modSpdm p fun c => { open_ := true, handles := c.handles }).emit (.spdm p (.answer 0x84 10 [("VERSION", 0x12), ("VERSION", 0x13)]))
  | .getCapabilities v t => s.spdmCapabilities p v.toNat t.toNat
  | .negotiate a h => s.spdmNegotiate p a h
  | .getDigests => s.spdmLate p fun s => s.spdmDigests p
  | .getCertificate slot off len => s.spdmLate p fun s => s.spdmCertificate p slot.toNat off.toNat len.toNat
  | .challenge _ => s.spdmLate p fun s => s.emit (.spdm p (.error spdmInvalid 0))
  | .getMeasurements i signed _ =>
    s.spdmLate p fun s => if signed then s.emit (.spdm p (.error spdmInvalid 0)) else s.measurementsOf p i.toNat false 0
  | .unsupported c => s.emit (.spdm p (.error spdmUnsupported c.toNat))

/-- R645: the requests of one cycle: those that ask for a signature in the order SEC_TOKEN gives, over positions 0 to 4. -/
def spdmCycle (s : State) (l : List (Nat × SpdmReq)) : State :=
  let l := l.filter fun e => s.mctpUp e.1
  let signs := l.filter fun e => (s.signSlot e.1 e.2).isSome
  let s := (l.filter fun e => (s.signSlot e.1 e.2).isNone).foldl (fun s e => s.spdmServe e.1 e.2) s
  let order := tokenOrder 5 (s.rd R.SEC_TOKEN) (signs.map fun e => e.1)
  let s := s.wr R.SEC_TOKEN (tokenAfter 5 (s.rd R.SEC_TOKEN) order)
  (order.flatMap fun p => signs.filter fun e => e.1 == p).foldl (fun s e => s.signGranted e.1 e.2) s

/-- One request alone in its cycle. -/
def spdmOne (s : State) (p : Nat) (q : SpdmReq) : State := s.spdmCycle [(p, q)]

/-- R144, R645: a key has become ready: the requests that waited for it are served in their order. -/
def serveSigning (s : State) : State :=
  let can := fun (e : Nat × SpdmReq) => match s.signSlot e.1 e.2 with
    | some k => s.keyReady k
    | none => true
  let t := { s with mgt := { s.mgt with signWait := s.mgt.signWait.filter fun e => !can e } }
  (s.mgt.signWait.filter can).foldl (fun s e => s.signGranted e.1 e.2) t

/-! ### Chunks (R644) -/

/-- The bytes held of a chunked request, where `chunk` is the next of it; its first chunk begins it anew. -/
def chunkHeld (c : SpdmConn) (handle chunk : Nat) : Option Nat :=
  if chunk = 0 then some 0
  else match c.sending with
    | some (h, k, n) => if h = handle ∧ k = chunk then some n else none
    | none => none

/-- R644: a chunk of a large request: the chunks of one handle in their order, at most 4,096 bytes each and 65,536 in all. The last
one hands over the request. -/
def chunkSend (s : State) (p handle chunk size total : Nat) (last : Bool) (q : SpdmReq) : State :=
  let c := s.spdmAt p
  let drop := s.modSpdm p fun c => { c with sending := none }
  match chunkHeld c handle chunk with
  | none => drop.emit (.spdm p (.error spdmInvalid 0))
  | some n =>
    if c.version.isNone then s.emit (.spdm p (.error spdmUnexpected 0))
    else if 4096 < size ∨ 65536 < total ∨ total < n + size ∨ (last = (n + size != total)) then
      drop.emit (.spdm p (.error spdmInvalid 0))
    else
      let ack := SpdmResp.answer 0x85 6 [("HANDLE", handle), ("CHUNK", chunk)]
      if last then (drop.emit (.spdm p ack)).spdmOne p q
      else (s.modSpdm p fun c => { c with sending := some (handle, chunk + 1, n + size) }).emit (.spdm p ack)

/-- R644: the next chunk of a large response: as many bytes as the requester takes at once. -/
def chunkGet (s : State) (p handle chunk : Nat) : State :=
  let c := s.spdmAt p
  match c.large with
  | none => s.emit (.spdm p (.error spdmInvalid 0))
  | some (h, k, off, r) =>
    if h ≠ handle ∨ k ≠ chunk then s.emit (.spdm p (.error spdmInvalid 0))
    else
      let n := min (c.transfer - if k = 0 then 16 else 12) (spdmLength r - off)
      let last := spdmLength r == off + n
      (s.modSpdm p fun c => { c with large := if last then none else some (h, k + 1, off + n, r) }).emit
        (.spdmChunk p k off n last r)

end State

/-! ### The commands -/

/-- DEVID_KEY_READY (R144). -/
def execDevidKeyReady (s : State) : Result := .next (if s.firmwareRuns then s.devidReady.serveSigning else s)

/-- ALIAS_KEY_READY (R144, R121): after the DevID key. -/
def execAliasKeyReady (s : State) : Result :=
  .next (if s.flag R.DEVID_READY then (s.wr R.ALIAS_READY 1).serveSigning else s)

/-- SET_ENDPOINT_ID (R627). -/
def execSetEndpointId (pos : Fin 5) (eid : BitVec 8) (s : State) : Result :=
  .next (s.mctp pos.val fun s => s.setEid pos.val eid.toNat)

/-- GET_ENDPOINT_ID (R627). -/
def execGetEndpointId (pos : Fin 5) (s : State) : Result :=
  .next (s.mctp pos.val fun s => s.emit (.mctp pos.val 0 [("EID", s.eid pos.val)]))

/-- GET_MCTP_VERSION_SUPPORT (R627): which versions is left open; a type that is not served is refused. -/
def execGetMctpVersionSupport (pos : Fin 5) (type : BitVec 8) (s : State) : Result :=
  .next (s.mctp pos.val fun s =>
    if [0x00, 0x05, 0x7E, 0xFF].contains type.toNat then
      let (v, s) := s.free
      s.emit (.mctp pos.val 0 [("VERSIONS", v)])
    else s.emit (.mctp pos.val 0x80 []))

/-- GET_MESSAGE_TYPE_SUPPORT (R627). -/
def execGetMessageTypeSupport (pos : Fin 5) (s : State) : Result :=
  .next (s.mctp pos.val fun s => s.emit (.mctp pos.val 0 [("TYPE", 0x00), ("TYPE", 0x05), ("TYPE", 0x7E)]))

/-- GET_VENDOR_DEFINED_MSG_SUPPORT (R627): one vendor, the first selector. -/
def execGetVendorDefinedMsgSupport (pos : Fin 5) (selector : BitVec 8) (s : State) : Result :=
  .next (s.mctp pos.val fun s =>
    if selector = 0 then s.emit (.mctp pos.val 0 [("NEXT", 0xFF), ("PCI_VENDOR", Config.pciVendorId % 65536)])
    else s.emit (.mctp pos.val 2 []))

/-- ENTDAA (R628): the target gives its provisional ID and takes the address. -/
def execEntdaa (addr : BitVec 7) (s : State) : Result :=
  .next (if s.dom.core && s.flag R.I3C_EN && s.rd R.I3C_DYN == 0 then
    (s.emit (.provisionalId (crc32c 16 s.fuses.serial))).takeDynamic addr.toNat else s)

/-- SETDASA (R628): addressed by I3C_STATIC. -/
def execSetdasa (static addr : BitVec 7) (s : State) : Result :=
  .next (if static.toNat = s.rd R.I3C_STATIC then s.takeDynamic addr.toNat else s)

/-- I3C_DYNAMIC_ADDRESS_LOSS (R636). -/
def execI3cDynamicAddressLoss (s : State) : Result := .next ((s.wr R.I3C_DYN 0).transportLost [4])

/-- GET_VERSION (R644). -/
def execGetVersion (pos : Fin 5) (s : State) : Result := .next (s.spdmOne pos.val .getVersion)

/-- GET_CAPABILITIES (R644). -/
def execGetCapabilities (pos : Fin 5) (version : BitVec 8) (transfer : BitVec 32) (s : State) : Result :=
  .next (s.spdmOne pos.val (.getCapabilities version transfer))

/-- NEGOTIATE_ALGORITHMS (R645). -/
def execNegotiateAlgorithms (pos : Fin 5) (asym hash : Bool) (s : State) : Result :=
  .next (s.spdmOne pos.val (.negotiate asym hash))

/-- GET_DIGESTS (R644, R646). -/
def execGetDigests (pos : Fin 5) (s : State) : Result := .next (s.spdmOne pos.val .getDigests)

/-- GET_CERTIFICATE (R646). -/
def execGetCertificate (pos : Fin 5) (slot : BitVec 4) (offset len : BitVec 16) (s : State) : Result :=
  .next (s.spdmOne pos.val (.getCertificate slot offset len))

/-- CHALLENGE (R645): with the other requests of its cycle. -/
def execChallenge (pos : Fin 5) (slot : BitVec 4) (tied : List (Fin 5 × SpdmReq)) (s : State) : Result :=
  .next (s.spdmCycle ((pos.val, .challenge slot) :: tied.map fun e => (e.1.val, e.2)))

/-- GET_MEASUREMENTS (R645, R647): with the other requests of its cycle. -/
def execGetMeasurements (pos : Fin 5) (index : BitVec 8) (signed : Bool) (slot : BitVec 4) (tied : List (Fin 5 × SpdmReq))
    (s : State) : Result :=
  .next (s.spdmCycle ((pos.val, .getMeasurements index signed slot) :: tied.map fun e => (e.1.val, e.2)))

/-- CHUNK_SEND (R644). -/
def execChunkSend (pos : Fin 5) (handle : BitVec 8) (chunk : BitVec 16) (size total : BitVec 32) (last : Bool) (req : SpdmReq)
    (s : State) : Result :=
  .next (s.mctp pos.val fun s => s.chunkSend pos.val handle.toNat chunk.toNat size.toNat total.toNat last req)

/-- CHUNK_GET (R644). -/
def execChunkGet (pos : Fin 5) (handle : BitVec 8) (chunk : BitVec 16) (s : State) : Result :=
  .next (s.mctp pos.val fun s => s.chunkGet pos.val handle.toNat chunk.toNat)

/-- SPDM_UNSUPPORTED_REQUEST (R644). -/
def execSpdmUnsupportedRequest (pos : Fin 5) (code : BitVec 8) (s : State) : Result :=
  .next (s.spdmOne pos.val (.unsupported code))

end Sys2Proof.Machine
end

