-- ==== Sys2Proof/Machine/Dispatch.lean ====
section
/-!
DEFINITION. Machine/Dispatch.lean: one arm per command, each one call of that command's own meaning.
-/
namespace Sys2Proof.Machine

def exec (i : Instr) (s : State) : Host.Outcome State Fault Refusal :=
  match i with
  | .registerWrite writes => Sys2Proof.Machine.execRegisterWrite writes s
  | .evrClaim cores events => Sys2Proof.Machine.execEvrClaim cores events s
  | .evrSoft bits => Sys2Proof.Machine.execEvrSoft bits s
  | .aonPowerOn => Sys2Proof.Machine.execAonPowerOn s
  | .xt32Stable => Sys2Proof.Machine.execXt32Stable s
  | .powerOnReset => Sys2Proof.Machine.execPowerOnReset s
  | .inrushComplete => Sys2Proof.Machine.execInrushComplete s
  | .xt25Stable => Sys2Proof.Machine.execXt25Stable s
  | .pllLock pll => Sys2Proof.Machine.execPllLock pll s
  | .pllUnlock pll => Sys2Proof.Machine.execPllUnlock pll s
  | .coreResetRelease bifsel => Sys2Proof.Machine.execCoreResetRelease bifsel s
  | .mcaInitComplete => Sys2Proof.Machine.execMcaInitComplete s
  | .dramReady => Sys2Proof.Machine.execDramReady s
  | .firmwareSlotCheck norError => Sys2Proof.Machine.execFirmwareSlotCheck norError s
  | .microcodeSlotCheck norError => Sys2Proof.Machine.execMicrocodeSlotCheck norError s
  | .firmwareEntry => Sys2Proof.Machine.execFirmwareEntry s
  | .devidKeyReady => Sys2Proof.Machine.execDevidKeyReady s
  | .aliasKeyReady => Sys2Proof.Machine.execAliasKeyReady s
  | .spinUp => Sys2Proof.Machine.execSpinUp s
  | .spindleAtSpeed rpm within => Sys2Proof.Machine.execSpindleAtSpeed rpm within s
  | .spindleStall => Sys2Proof.Machine.execSpindleStall s
  | .spindleSetSpeed rpm => Sys2Proof.Machine.execSpindleSetSpeed rpm s
  | .replayGo area => Sys2Proof.Machine.execReplayGo area s
  | .replayComplete crcError => Sys2Proof.Machine.execReplayComplete crcError s
  | .consume area => Sys2Proof.Machine.execConsume area s
  | .consumeMarkerWritten => Sys2Proof.Machine.execConsumeMarkerWritten s
  | .mapLoad => Sys2Proof.Machine.execMapLoad s
  | .powerFail vin10mV => Sys2Proof.Machine.execPowerFail vin10mV s
  | .kscReady => Sys2Proof.Machine.execKscReady s
  | .flushCommit inputBack => Sys2Proof.Machine.execFlushCommit inputBack s
  | .pstgOff vbulkMv => Sys2Proof.Machine.execPstgOff vbulkMv s
  | .overvoltageDetect vin10mV => Sys2Proof.Machine.execOvervoltageDetect vin10mV s
  | .ovRideEnd vin10mV vbulkMv => Sys2Proof.Machine.execOvRideEnd vin10mV vbulkMv s
  | .ovRideTimeout => Sys2Proof.Machine.execOvRideTimeout s
  | .holdupRecompute vin10mV pin10mW vbulkMv => Sys2Proof.Machine.execHoldupRecompute vin10mV pin10mW vbulkMv s
  | .keepImageCommit => Sys2Proof.Machine.execKeepImageCommit s
  | .paRailEnable paEn passtEn => Sys2Proof.Machine.execPaRailEnable paEn passtEn s
  | .paRailReady n rail => Sys2Proof.Machine.execPaRailReady n rail s
  | .paRailOvercurrent n rail => Sys2Proof.Machine.execPaRailOvercurrent n rail s
  | .calTempComp tempC => Sys2Proof.Machine.execCalTempComp tempC s
  | .bandgapRetrim site => Sys2Proof.Machine.execBandgapRetrim site s
  | .idleTimerExpiry depth arrival => Sys2Proof.Machine.execIdleTimerExpiry depth arrival s
  | .stateTransitionComplete => Sys2Proof.Machine.execStateTransitionComplete s
  | .sleepEntry => Sys2Proof.Machine.execSleepEntry s
  | .wakeFromSleep cause => Sys2Proof.Machine.execWakeFromSleep cause s
  | .deviceReset request => Sys2Proof.Machine.execDeviceReset request s
  | .actuatorReset mask => Sys2Proof.Machine.execActuatorReset mask s
  | .pcieReset => Sys2Proof.Machine.execPcieReset s
  | .tapReset => Sys2Proof.Machine.execTapReset s
  | .fuseBurnComplete => Sys2Proof.Machine.execFuseBurnComplete s
  | .pcieLinkTraining port => Sys2Proof.Machine.execPcieLinkTraining port s
  | .portReset port cause => Sys2Proof.Machine.execPortReset port cause s
  | .ccEnSet port ams asqs acqs => Sys2Proof.Machine.execCcEnSet port ams asqs acqs s
  | .controllerReady port => Sys2Proof.Machine.execControllerReady port s
  | .shutdownNotification port shn => Sys2Proof.Machine.execShutdownNotification port shn s
  | .shutdownComplete port => Sys2Proof.Machine.execShutdownComplete port s
  | .sqTailDoorbell port sqid tail => Sys2Proof.Machine.execSqTailDoorbell port sqid tail s
  | .cqHeadDoorbell port cqid head => Sys2Proof.Machine.execCqHeadDoorbell port cqid head s
  | .commandFetch entries => Sys2Proof.Machine.execCommandFetch entries s
  | .commandArrival tag => Sys2Proof.Machine.execCommandArrival tag s
  | .arrivalResume => Sys2Proof.Machine.execArrivalResume s
  | .hazardRelease => Sys2Proof.Machine.execHazardRelease s
  | .orderedBarrierStart tag => Sys2Proof.Machine.execOrderedBarrierStart tag s
  | .completionCommit tag => Sys2Proof.Machine.execCompletionCommit tag s
  | .interruptCoalesceTimeout port vector => Sys2Proof.Machine.execInterruptCoalesceTimeout port vector s
  | .msixUnmask port vector => Sys2Proof.Machine.execMsixUnmask port vector s
  | .deleteIoSq tag => Sys2Proof.Machine.execDeleteIoSq tag s
  | .deleteIoCq tag => Sys2Proof.Machine.execDeleteIoCq tag s
  | .createIoSq tag => Sys2Proof.Machine.execCreateIoSq tag s
  | .createIoCq tag => Sys2Proof.Machine.execCreateIoCq tag s
  | .getLogPage tag => Sys2Proof.Machine.execGetLogPage tag s
  | .identify tag => Sys2Proof.Machine.execIdentify tag s
  | .abort tag sameCycle => Sys2Proof.Machine.execAbort tag sameCycle s
  | .setFeatures tag => Sys2Proof.Machine.execSetFeatures tag s
  | .setFeaturesPowerMgmt tag => Sys2Proof.Machine.execSetFeaturesPowerMgmt tag s
  | .setFeaturesNumQueues tag => Sys2Proof.Machine.execSetFeaturesNumQueues tag s
  | .setFeaturesTimestamp tag => Sys2Proof.Machine.execSetFeaturesTimestamp tag s
  | .getFeatures tag => Sys2Proof.Machine.execGetFeatures tag s
  | .apstTransition port => Sys2Proof.Machine.execApstTransition port s
  | .asyncEventRequest tag => Sys2Proof.Machine.execAsyncEventRequest tag s
  | .namespaceManagement tag => Sys2Proof.Machine.execNamespaceManagement tag s
  | .namespaceAttachment tag => Sys2Proof.Machine.execNamespaceAttachment tag s
  | .firmwareImageDownload tag data => Sys2Proof.Machine.execFirmwareImageDownload tag data s
  | .firmwareCommit tag => Sys2Proof.Machine.execFirmwareCommit tag s
  | .firmwareCommitActivate tag => Sys2Proof.Machine.execFirmwareCommitActivate tag s
  | .firmwareSlotWriteDone => Sys2Proof.Machine.execFirmwareSlotWriteDone s
  | .directiveSend tag => Sys2Proof.Machine.execDirectiveSend tag s
  | .directiveReceive tag => Sys2Proof.Machine.execDirectiveReceive tag s
  | .formatNvm tag => Sys2Proof.Machine.execFormatNvm tag s
  | .sanitize tag => Sys2Proof.Machine.execSanitize tag s
  | .invalidAdminOpcode tag => Sys2Proof.Machine.execInvalidAdminOpcode tag s
  | .nvmeFlush tag => Sys2Proof.Machine.execNvmeFlush tag s
  | .nvmeWrite tag data transferError => Sys2Proof.Machine.execNvmeWrite tag data transferError s
  | .nvmeRead tag sendTo => Sys2Proof.Machine.execNvmeRead tag sendTo s
  | .nvmeCompare tag data => Sys2Proof.Machine.execNvmeCompare tag data s
  | .writeZeroes tag => Sys2Proof.Machine.execWriteZeroes tag s
  | .datasetManagement tag => Sys2Proof.Machine.execDatasetManagement tag s
  | .nvmeVerify tag => Sys2Proof.Machine.execNvmeVerify tag s
  | .zoneOpen tag => Sys2Proof.Machine.execZoneOpen tag s
  | .zoneClose tag => Sys2Proof.Machine.execZoneClose tag s
  | .zoneFinish tag => Sys2Proof.Machine.execZoneFinish tag s
  | .zoneReset tag => Sys2Proof.Machine.execZoneReset tag s
  | .zoneMgmtSendUnsupported tag => Sys2Proof.Machine.execZoneMgmtSendUnsupported tag s
  | .reportZones tag => Sys2Proof.Machine.execReportZones tag s
  | .zoneAppend tag data transferError => Sys2Proof.Machine.execZoneAppend tag data transferError s
  | .invalidIoOpcode tag => Sys2Proof.Machine.execInvalidIoOpcode tag s
  | .sasCommandFrame port nexus initiator frame => Sys2Proof.Machine.execSasCommandFrame port nexus initiator frame s
  | .xferRdy tag => Sys2Proof.Machine.execXferRdy tag s
  | .sasDataFrame tag offset len data => Sys2Proof.Machine.execSasDataFrame tag offset len data s
  | .sasLinkReset port rate => Sys2Proof.Machine.execSasLinkReset port rate s
  | .abortTask port nexus tmf lun task sameCycle => Sys2Proof.Machine.execAbortTask port nexus tmf lun task sameCycle s
  | .abortTaskSet port nexus tmf lun => Sys2Proof.Machine.execAbortTaskSet port nexus tmf lun s
  | .clearTaskSet port nexus tmf lun => Sys2Proof.Machine.execClearTaskSet port nexus tmf lun s
  | .logicalUnitReset port nexus tmf lun => Sys2Proof.Machine.execLogicalUnitReset port nexus tmf lun s
  | .iTNexusReset port nexus tmf => Sys2Proof.Machine.execITNexusReset port nexus tmf s
  | .queryTask port nexus tmf lun task => Sys2Proof.Machine.execQueryTask port nexus tmf lun task s
  | .queryTaskSet port nexus tmf lun => Sys2Proof.Machine.execQueryTaskSet port nexus tmf lun s
  | .queryAsynchronousEvent port nexus tmf lun => Sys2Proof.Machine.execQueryAsynchronousEvent port nexus tmf lun s
  | .tmfNotSupported port nexus tmf lun => Sys2Proof.Machine.execTmfNotSupported port nexus tmf lun s
  | .iTNexusLoss port nexus => Sys2Proof.Machine.execITNexusLoss port nexus s
  | .testUnitReady tag => Sys2Proof.Machine.execTestUnitReady tag s
  | .requestSense tag => Sys2Proof.Machine.execRequestSense tag s
  | .formatUnit tag => Sys2Proof.Machine.execFormatUnit tag s
  | .inquiry tag => Sys2Proof.Machine.execInquiry tag s
  | .modeSelect tag page values => Sys2Proof.Machine.execModeSelect tag page values s
  | .modeSense tag => Sys2Proof.Machine.execModeSense tag s
  | .startStopUnit tag => Sys2Proof.Machine.execStartStopUnit tag s
  | .readCapacity tag => Sys2Proof.Machine.execReadCapacity tag s
  | .scsiRead tag sendTo => Sys2Proof.Machine.execScsiRead tag sendTo s
  | .scsiWrite tag => Sys2Proof.Machine.execScsiWrite tag s
  | .scsiVerify tag => Sys2Proof.Machine.execScsiVerify tag s
  | .synchronizeCache tag => Sys2Proof.Machine.execSynchronizeCache tag s
  | .writeSame16 tag data => Sys2Proof.Machine.execWriteSame16 tag data s
  | .unmap tag => Sys2Proof.Machine.execUnmap tag s
  | .writeBuffer tag data => Sys2Proof.Machine.execWriteBuffer tag data s
  | .readBuffer tag => Sys2Proof.Machine.execReadBuffer tag s
  | .scsiSanitize tag => Sys2Proof.Machine.execScsiSanitize tag s
  | .logSense tag => Sys2Proof.Machine.execLogSense tag s
  | .reportLuns tag => Sys2Proof.Machine.execReportLuns tag s
  | .reportSupportedOpcodes tag => Sys2Proof.Machine.execReportSupportedOpcodes tag s
  | .closeZone tag => Sys2Proof.Machine.execCloseZone tag s
  | .finishZone tag => Sys2Proof.Machine.execFinishZone tag s
  | .openZone tag => Sys2Proof.Machine.execOpenZone tag s
  | .resetWritePointer tag => Sys2Proof.Machine.execResetWritePointer tag s
  | .scsiInvalidOpcode tag => Sys2Proof.Machine.execScsiInvalidOpcode tag s
  | .damotSend tag req => Sys2Proof.Machine.execDamotSend tag req s
  | .damotReceive tag => Sys2Proof.Machine.execDamotReceive tag s
  | .damotGet req => Sys2Proof.Machine.execDamotGet req s
  | .damotSet req => Sys2Proof.Machine.execDamotSet req s
  | .damotDescribe req => Sys2Proof.Machine.execDamotDescribe req s
  | .damotClaim reqs => Sys2Proof.Machine.execDamotClaim reqs s
  | .damotRelease req => Sys2Proof.Machine.execDamotRelease req s
  | .damotOffer req => Sys2Proof.Machine.execDamotOffer req s
  | .damotAccept req => Sys2Proof.Machine.execDamotAccept req s
  | .damotNonce req => Sys2Proof.Machine.execDamotNonce req s
  | .damotBadOp req => Sys2Proof.Machine.execDamotBadOp req s
  | .nonceExpiry pos => Sys2Proof.Machine.execNonceExpiry pos s
  | .leaseExpiry => Sys2Proof.Machine.execLeaseExpiry s
  | .offerTimeout => Sys2Proof.Machine.execOfferTimeout s
  | .ownDrop => Sys2Proof.Machine.execOwnDrop s
  | .setEndpointId pos eid => Sys2Proof.Machine.execSetEndpointId pos eid s
  | .getEndpointId pos => Sys2Proof.Machine.execGetEndpointId pos s
  | .getMctpVersionSupport pos type => Sys2Proof.Machine.execGetMctpVersionSupport pos type s
  | .getMessageTypeSupport pos => Sys2Proof.Machine.execGetMessageTypeSupport pos s
  | .getVendorDefinedMsgSupport pos selector => Sys2Proof.Machine.execGetVendorDefinedMsgSupport pos selector s
  | .entdaa addr => Sys2Proof.Machine.execEntdaa addr s
  | .setdasa static addr => Sys2Proof.Machine.execSetdasa static addr s
  | .getVersion pos => Sys2Proof.Machine.execGetVersion pos s
  | .getCapabilities pos version transfer => Sys2Proof.Machine.execGetCapabilities pos version transfer s
  | .negotiateAlgorithms pos asym hash => Sys2Proof.Machine.execNegotiateAlgorithms pos asym hash s
  | .getDigests pos => Sys2Proof.Machine.execGetDigests pos s
  | .getCertificate pos slot offset len => Sys2Proof.Machine.execGetCertificate pos slot offset len s
  | .challenge pos slot tied => Sys2Proof.Machine.execChallenge pos slot tied s
  | .getMeasurements pos index signed slot tied => Sys2Proof.Machine.execGetMeasurements pos index signed slot tied s
  | .chunkSend pos handle chunk size total last req => Sys2Proof.Machine.execChunkSend pos handle chunk size total last req s
  | .chunkGet pos handle chunk => Sys2Proof.Machine.execChunkGet pos handle chunk s
  | .spdmUnsupportedRequest pos code => Sys2Proof.Machine.execSpdmUnsupportedRequest pos code s
  | .spinAtBootWrite req => Sys2Proof.Machine.execSpinAtBootWrite req s
  | .keySlotRevoke req => Sys2Proof.Machine.execKeySlotRevoke req s
  | .firmwareSvnMin req => Sys2Proof.Machine.execFirmwareSvnMin req s
  | .microcodeSvnMin req => Sys2Proof.Machine.execMicrocodeSvnMin req s
  | .updateCommit req => Sys2Proof.Machine.execUpdateCommit req s
  | .recoveryBoot req => Sys2Proof.Machine.execRecoveryBoot req s
  | .debugUnlock req => Sys2Proof.Machine.execDebugUnlock req s
  | .spareRowBurn req => Sys2Proof.Machine.execSpareRowBurn req s
  | .actuatorFailDeclare n => Sys2Proof.Machine.execActuatorFailDeclare n s
  | .headDeclaredUnable head read => Sys2Proof.Machine.execHeadDeclaredUnable head read s
  | .bufferReserve => Sys2Proof.Machine.execBufferReserve s
  | .writeContextRelease ns zone => Sys2Proof.Machine.execWriteContextRelease ns zone s
  | .mediaOpIssue n reach place control => Sys2Proof.Machine.execMediaOpIssue n reach place control s
  | .journalSegmentWrite => Sys2Proof.Machine.execJournalSegmentWrite s
  | .mapCheckpoint => Sys2Proof.Machine.execMapCheckpoint s
  | .relocateSector surface track sector spareTrack spareSector => Sys2Proof.Machine.execRelocateSector surface track sector spareTrack spareSector s
  | .mcaLookup tag addr others upset => Sys2Proof.Machine.execMcaLookup tag addr others upset s
  | .mcaUpdate addr value others upset => Sys2Proof.Machine.execMcaUpdate addr value others upset s
  | .mcaFillReturn line upset => Sys2Proof.Machine.execMcaFillReturn line upset s
  | .mcaVictimLand line upset => Sys2Proof.Machine.execMcaVictimLand line upset s
  | .mcaPrefetch tag => Sys2Proof.Machine.execMcaPrefetch tag s
  | .mcaWindowEnable k base => Sys2Proof.Machine.execMcaWindowEnable k base s
  | .mcaWindowDisable k => Sys2Proof.Machine.execMcaWindowDisable k s
  | .mcaLockEnable k => Sys2Proof.Machine.execMcaLockEnable k s
  | .mcaLockDisable k => Sys2Proof.Machine.execMcaLockDisable k s
  | .lockLoad k => Sys2Proof.Machine.execLockLoad k s
  | .lockLoadComplete k upsets => Sys2Proof.Machine.execLockLoadComplete k upsets s
  | .rangeClean => Sys2Proof.Machine.execRangeClean s
  | .rangeInvalidate => Sys2Proof.Machine.execRangeInvalidate s
  | .rangeDiscard => Sys2Proof.Machine.execRangeDiscard s
  | .rangeComplete upsets => Sys2Proof.Machine.execRangeComplete upsets s
  | .mapResume => Sys2Proof.Machine.execMapResume s
  | .mcDiagGo set way victim upset => Sys2Proof.Machine.execMcDiagGo set way victim upset s
  | .mcCntClr => Sys2Proof.Machine.execMcCntClr s
  | .sectorStart starts => Sys2Proof.Machine.execSectorStart starts s
  | .timingField n h phase rateOver => Sys2Proof.Machine.execTimingField n h phase rateOver s
  | .syncMarkDecision n h cands predDist => Sys2Proof.Machine.execSyncMarkDecision n h cands predDist s
  | .llrHandover n h spans seen time => Sys2Proof.Machine.execLlrHandover n h spans seen time s
  | .reframeRequest slot => Sys2Proof.Machine.execReframeRequest slot s
  | .chnCntClr n => Sys2Proof.Machine.execChnCntClr n s
  | .beadStart => Sys2Proof.Machine.execBeadStart s
  | .beadIterationEnd bead resid word memErr => Sys2Proof.Machine.execBeadIterationEnd bead resid word memErr s
  | .decodeResult slot time => Sys2Proof.Machine.execDecodeResult slot time s
  | .ladderStepStart loc time => Sys2Proof.Machine.execLadderStepStart loc time s
  | .recoveryLimitExpiry tag loc elapsedMs => Sys2Proof.Machine.execRecoveryLimitExpiry tag loc elapsedMs s
  | .abxMemoryError slot corrected => Sys2Proof.Machine.execAbxMemoryError slot corrected s
  | .abxCntClr => Sys2Proof.Machine.execAbxCntClr s
  | .fsqContinue n fetch => Sys2Proof.Machine.execFsqContinue n fetch s
  | .fsqJump n fetch => Sys2Proof.Machine.execFsqJump n fetch s
  | .fsqBranch n fetch => Sys2Proof.Machine.execFsqBranch n fetch s
  | .fsqCall n fetch => Sys2Proof.Machine.execFsqCall n fetch s
  | .fsqReturn n fetch => Sys2Proof.Machine.execFsqReturn n fetch s
  | .fsqWait n fetch => Sys2Proof.Machine.execFsqWait n fetch s
  | .fsqWaitEnd n expired events => Sys2Proof.Machine.execFsqWaitEnd n expired events s
  | .fsqWatchdog n => Sys2Proof.Machine.execFsqWatchdog n s
  | .fsqDispatch n fetch => Sys2Proof.Machine.execFsqDispatch n fetch s
  | .headProfile n fetch => Sys2Proof.Machine.execHeadProfile n fetch s
  | .readArm n fetch => Sys2Proof.Machine.execReadArm n fetch s
  | .writeArm n fetch => Sys2Proof.Machine.execWriteArm n fetch s
  | .seek n fetch => Sys2Proof.Machine.execSeek n fetch s
  | .maOffset n fetch => Sys2Proof.Machine.execMaOffset n fetch s
  | .report n fetch => Sys2Proof.Machine.execReport n fetch s
  | .jdOverride n fetch => Sys2Proof.Machine.execJdOverride n fetch s
  | .ovrClear n fetch => Sys2Proof.Machine.execOvrClear n fetch s
  | .loadUnload n fetch => Sys2Proof.Machine.execLoadUnload n fetch s
  | .psiWrite n fetch => Sys2Proof.Machine.execPsiWrite n fetch s
  | .psiRead n fetch => Sys2Proof.Machine.execPsiRead n fetch s
  | .psiDGo n tie => Sys2Proof.Machine.execPsiDGo n tie s
  | .psiFrameEnd n ok data => Sys2Proof.Machine.execPsiFrameEnd n ok data s
  | .mcRestart n => Sys2Proof.Machine.execMcRestart n s
  | .swapReq n => Sys2Proof.Machine.execSwapReq n s
  | .loadGo n => Sys2Proof.Machine.execLoadGo n s
  | .microcodeLoadComplete n => Sys2Proof.Machine.execMicrocodeLoadComplete n s
  | .wsqSrcWrite n h src => Sys2Proof.Machine.execWsqSrcWrite n h src s
  | .wsqStart n h sam fetches => Sys2Proof.Machine.execWsqStart n h sam fetches s
  | .fsqCntClr n => Sys2Proof.Machine.execFsqCntClr n s
  | .wedgeStrobe n h wedge late => Sys2Proof.Machine.execWedgeStrobe n h wedge late s
  | .servoFrame input => Sys2Proof.Machine.execServoFrame input s
  | .sliceDeadline lane0 lane1 lane2 lane3 voterError corrected => Sys2Proof.Machine.execSliceDeadline lane0 lane1 lane2 lane3 voterError corrected s
  | .checkpoint noMajority => Sys2Proof.Machine.execCheckpoint noMajority s
  | .followingErrorFault n => Sys2Proof.Machine.execFollowingErrorFault n s
  | .coastRetract n => Sys2Proof.Machine.execCoastRetract n s
  | .slotDrop n h => Sys2Proof.Machine.execSlotDrop n h s
  | .vcmSubsample n current rms watts overcurrent => Sys2Proof.Machine.execVcmSubsample n current rms watts overcurrent s
  | .retract n => Sys2Proof.Machine.execRetract n s
  | .crashStopDetect n => Sys2Proof.Machine.execCrashStopDetect n s
  | .parkHoldDone n => Sys2Proof.Machine.execParkHoldDone n s
  | .parkHandover n => Sys2Proof.Machine.execParkHandover n s
  | .loadAcquireTimeout n => Sys2Proof.Machine.execLoadAcquireTimeout n s
  | .loadComplete n => Sys2Proof.Machine.execLoadComplete n s
  | .shockTrip y excursion => Sys2Proof.Machine.execShockTrip y excursion s
  | .shockHoldEnd => Sys2Proof.Machine.execShockHoldEnd s
  | .coefApply mask => Sys2Proof.Machine.execCoefApply mask s
  | .svCntClr n => Sys2Proof.Machine.execSvCntClr n s
  | .laneRetire cause => Sys2Proof.Machine.execLaneRetire cause s
  | .laneWarmStart trigger => Sys2Proof.Machine.execLaneWarmStart trigger s
  | .warmCopyComplete => Sys2Proof.Machine.execWarmCopyComplete s
  | .warmStateLoad => Sys2Proof.Machine.execWarmStateLoad s
  | .laneJoin cycles => Sys2Proof.Machine.execLaneJoin cycles s
  | .laneBist mask => Sys2Proof.Machine.execLaneBist mask s
  | .laneBistDone l pass => Sys2Proof.Machine.execLaneBistDone l pass s
  | .triadCntClr => Sys2Proof.Machine.execTriadCntClr s
  | .htsRead n tie => Sys2Proof.Machine.execHtsRead n tie s
  | .assistCodeWrite n tie => Sys2Proof.Machine.execAssistCodeWrite n tie s
  | .ageStep j => Sys2Proof.Machine.execAgeStep j s
  | .assistForceClear mask => Sys2Proof.Machine.execAssistForceClear mask s
  | .asdCntClr => Sys2Proof.Machine.execAsdCntClr s
  | .runStart k type unit slot => Sys2Proof.Machine.execRunStart k type unit slot s
  | .runPreconditionViolation k judged => Sys2Proof.Machine.execRunPreconditionViolation k judged s
  | .runCancel k judged => Sys2Proof.Machine.execRunCancel k judged s
  | .runFinish k judged => Sys2Proof.Machine.execRunFinish k judged s
  | .runValidationComplete k judged => Sys2Proof.Machine.execRunValidationComplete k judged s
  | .tblDataAccess write => Sys2Proof.Machine.execTblDataAccess write s
  | .rampStep entry => Sys2Proof.Machine.execRampStep entry s
  | .rampFallback entry => Sys2Proof.Machine.execRampFallback entry s
  | .storeGo => Sys2Proof.Machine.execStoreGo s
  | .calStoreCommit ok => Sys2Proof.Machine.execCalStoreCommit ok s
  | .calLoad failedA failedB => Sys2Proof.Machine.execCalLoad failedA failedB s
  | .norGrant requests => Sys2Proof.Machine.execNorGrant requests s
  | .packBlockCompress blocks => Sys2Proof.Machine.execPackBlockCompress blocks s
  | .packBlockDone lane externIndex => Sys2Proof.Machine.execPackBlockDone lane externIndex s
  | .poolBufferFree => Sys2Proof.Machine.execPoolBufferFree s
  | .unpackBlock blocks => Sys2Proof.Machine.execUnpackBlock blocks s
  | .zrWrite ratio activation => Sys2Proof.Machine.execZrWrite ratio activation s
  | .zrRead => Sys2Proof.Machine.execZrRead s
  | .pakCntClr => Sys2Proof.Machine.execPakCntClr s
  | .dramRead reads => Sys2Proof.Machine.execDramRead reads s
  | .dramWrite writes => Sys2Proof.Machine.execDramWrite writes s
  | .dramPartialWrite writes => Sys2Proof.Machine.execDramPartialWrite writes s
  | .regionEnable k base adopt => Sys2Proof.Machine.execRegionEnable k base adopt s
  | .regionDisable k => Sys2Proof.Machine.execRegionDisable k s
  | .regMark k => Sys2Proof.Machine.execRegMark k s
  | .regionOpComplete k => Sys2Proof.Machine.execRegionOpComplete k s
  | .scrubStep behind => Sys2Proof.Machine.execScrubStep behind s
  | .sprGo bank row => Sys2Proof.Machine.execSprGo bank row s
  | .spareRowDone => Sys2Proof.Machine.execSpareRowDone s
  | .diagRawRead word => Sys2Proof.Machine.execDiagRawRead word s
  | .diagWriteAll word => Sys2Proof.Machine.execDiagWriteAll word s
  | .diagWriteData word => Sys2Proof.Machine.execDiagWriteData word s
  | .diagWriteCheck word => Sys2Proof.Machine.execDiagWriteCheck word s
  | .ceLogClr => Sys2Proof.Machine.execCeLogClr s
  | .celValidClear k => Sys2Proof.Machine.execCelValidClear k s
  | .dmcCntClr => Sys2Proof.Machine.execDmcCntClr s
  | .faultDetection sources => Sys2Proof.Machine.execFaultDetection sources s
  | .shadowReady step n => Sys2Proof.Machine.execShadowReady step n s
  | .shadowTimeout step n => Sys2Proof.Machine.execShadowTimeout step n s
  | .windowClose k => Sys2Proof.Machine.execWindowClose k s
  | .qPop => Sys2Proof.Machine.execQPop s
  | .actHoldRelease mask held => Sys2Proof.Machine.execActHoldRelease mask held s
  | .fatalResetTimer => Sys2Proof.Machine.execFatalResetTimer s
  | .pipToggle => Sys2Proof.Machine.execPipToggle s
  | .wdogEn => Sys2Proof.Machine.execWdogEn s
  | .wdogKick => Sys2Proof.Machine.execWdogKick s
  | .wdogMsWrite ms elapsedMs => Sys2Proof.Machine.execWdogMsWrite ms elapsedMs s
  | .watchdogExpiry kick => Sys2Proof.Machine.execWatchdogExpiry kick s
  | .extRetractRequest => Sys2Proof.Machine.execExtRetractRequest s
  | .extRetractEnd => Sys2Proof.Machine.execExtRetractEnd s
  | .fcuCntClr => Sys2Proof.Machine.execFcuCntClr s
  | .tallyInletAdmit => Sys2Proof.Machine.execTallyInletAdmit s
  | .tallyCommit => Sys2Proof.Machine.execTallyCommit s
  | .tallyRepeat => Sys2Proof.Machine.execTallyRepeat s
  | .tallyFreeze => Sys2Proof.Machine.execTallyFreeze s
  | .tallyUnfreeze => Sys2Proof.Machine.execTallyUnfreeze s
  | .tallyFreezeTimeout => Sys2Proof.Machine.execTallyFreezeTimeout s
  | .tallyArchiveTimeout => Sys2Proof.Machine.execTallyArchiveTimeout s
  | .tallyArchiveProgram => Sys2Proof.Machine.execTallyArchiveProgram s
  | .tallyProgramComplete ok => Sys2Proof.Machine.execTallyProgramComplete ok s
  | .tallyFlush => Sys2Proof.Machine.execTallyFlush s
  | .tallyFlushDone => Sys2Proof.Machine.execTallyFlushDone s
  | .tallyReady => Sys2Proof.Machine.execTallyReady s
  | .tallyClear both => Sys2Proof.Machine.execTallyClear both s
  | .tallyClearDone => Sys2Proof.Machine.execTallyClearDone s
  | .lifeGroupTimer => Sys2Proof.Machine.execLifeGroupTimer s
  | .fwEvtGo => Sys2Proof.Machine.execFwEvtGo s
  | .pohTick => Sys2Proof.Machine.execPohTick s
  | .calendarSet ms => Sys2Proof.Machine.execCalendarSet ms s
  | .thermalSample sensor value => Sys2Proof.Machine.execThermalSample sensor value s
  | .drainRequest req => Sys2Proof.Machine.execDrainRequest req s
  | .actvGo overlaps => Sys2Proof.Machine.execActvGo overlaps s
  | .actvCopyComplete damaged => Sys2Proof.Machine.execActvCopyComplete damaged s
  | .actvEntry => Sys2Proof.Machine.execActvEntry s
  | .actvRelease => Sys2Proof.Machine.execActvRelease s
  | .actvHoldTimeout => Sys2Proof.Machine.execActvHoldTimeout s
  | .pertArm arm => Sys2Proof.Machine.execPertArm arm s
  | .extest => Sys2Proof.Machine.execExtest s
  | .idcode => Sys2Proof.Machine.execIdcode s
  | .samplePreload cells => Sys2Proof.Machine.execSamplePreload cells s
  | .clamp => Sys2Proof.Machine.execClamp s
  | .highz => Sys2Proof.Machine.execHighz s
  | .devReset => Sys2Proof.Machine.execDevReset s
  | .debug => Sys2Proof.Machine.execDebug s
  | .bypass code => Sys2Proof.Machine.execBypass code s
  | .cohortIdWrite id => Sys2Proof.Machine.execCohortIdWrite id s
  | .cohortMarkEdge elapsed revolution phaseErr => Sys2Proof.Machine.execCohortMarkEdge elapsed revolution phaseErr s
  | .cohortLost => Sys2Proof.Machine.execCohortLost s
  | .aonSupplyLoss => Sys2Proof.Machine.execAonSupplyLoss s
  | .pcieLinkUp port speed width flit => Sys2Proof.Machine.execPcieLinkUp port speed width flit s
  | .linkL12Change port inL12 => Sys2Proof.Machine.execLinkL12Change port inL12 s
  | .sasLinkLoss port nexus => Sys2Proof.Machine.execSasLinkLoss port nexus s
  | .i3cDynamicAddressLoss => Sys2Proof.Machine.execI3cDynamicAddressLoss s

end Sys2Proof.Machine
end

