-- ==== Sys2Proof/Machine/Tick.lean ====
section
/-!
DEFINITION. Machine/Tick.lean: what a microsecond without a command does: the FCU's timer (R593), and each millisecond the
calendar (R613), the idle timers of the SAS ports (R111) and the lease (R636).
-/
namespace Sys2Proof.Machine

open Arith

namespace State

/-- R613: a millisecond of the calendar, 48 bits wide. -/
def calendarTick (s : State) : State :=
  let m := (s.calMs + 1) % 2 ^ 48
  (s.wr R.CAL_MS_LO m).wr R.CAL_MS_HI (m / 2 ^ 32)

/-- R111: the state that the power condition timers of SAS port `p` have reached after `ms` milliseconds: a timer of 0 is off. -/
def sasTimerState (s : State) (p ms : Nat) : Nat :=
  [0, 1, 2, 3].foldl (fun d k =>
    let v := s.modeValue 0x1A k (16 + p)
    if v != 0 && decide (100 * v ≤ ms) then k + 1 else d) 0

/-- R111, R112: a millisecond without a media command on SAS port `p`: a timer that expires deepens the port's request. -/
def sasTick (s : State) (p : Nat) : State :=
  let ms := Store.get 0 s.pm.sasIdleMs p + 1
  let s := { s with pm := { s.pm with sasIdleMs := Store.put 0 s.pm.sasIdleMs p ms } }
  if s.sasTimerState p ms = s.sasTimerState p (ms - 1) then s
  else s.requestState (4 + p) (max (Store.get 0 s.pm.request (4 + p)) (s.sasTimerState p ms))

/-- A millisecond: the calendar while AON is on; the SAS ports' timers and the lease while CORE is. -/
def millisecond (s : State) : State :=
  let s := if s.dom.aon then s.calendarTick else s
  if s.dom.core then ((s.sasTick 0).sasTick 1).leaseTick else s

/-- A microsecond: FCU_US advances while CORE is on. -/
def tick (s : State) : State :=
  let s := if s.dom.core then s.advance R.FCU_US else s
  if s.usInMs < 999 then { s with usInMs := s.usInMs + 1 } else ({ s with usInMs := 0 }).millisecond

end State

end Sys2Proof.Machine
end

