-- ==== Sys2Proof/Machine/Step.lean ====
section
/-!
DEFINITION. Machine/Step.lean: one step of the block: the command at the front of the queue, or, where none waits, one
microsecond.
-/
namespace Sys2Proof.Machine

/-- One step: the command at the front runs with the rest of the queue waiting; an empty queue lets a microsecond pass (DESIGN
CHOICE, see the assumption log). -/
def step (s : State) : Host.Outcome State Fault Refusal := match s.pending with
  | [] => .next s.tick
  | c :: rest => exec c { s with pending := rest }

/-- The command a word of `nbits` bits spells, put at the front of the queue; a word that spells none leaves the state. -/
def State.withFetchWord (s : State) (nbits w : Nat) : State := match decodeTableWord nbits w with
  | some c => { s with pending := c :: s.pending }
  | none => s

end Sys2Proof.Machine
end

