-- ==== Sys2Proof/Safety.lean ====
section
/-!
DEFINITION. Safety.lean: the terms that claims are stated in: what a field of a register and its neighbours are, when a command
completes, what a register frame is, and the invariant of the device.
-/
namespace Sys2Proof.Machine

/-- The field lies in its 32-bit register (R7). -/
def Fld.fits (f : Fld) : Bool := decide (f.lo + f.width ≤ 32)

/-- A write of `f` cannot change `g`: they stand in two registers, or apart in one. -/
def Fld.apart (f g : Fld) : Bool :=
  f.addr != g.addr || (f.rst == g.rst && f.fits && g.fits && decide (f.lo + f.width ≤ g.lo ∨ g.lo + g.width ≤ f.lo))

/-- The command completes, in a state of which `p` holds. -/
def Completes (r : Result) (p : State → Prop) : Prop := ∃ t, r = .next t ∧ p t

/-- The register frame: between `s` and `t` no field has changed that stands apart from all of `l`. -/
def RegFrame (s t : State) (l : List Fld) : Prop := ∀ g : Fld, (∀ f ∈ l, f.apart g = true) → t.rd g = s.rd g

/-- Nothing but registers has changed between `s` and `t`. -/
abbrev RegsOnly (s t : State) : Prop := t = { s with regs := t.regs }

/-- `s` as a write through the register fabric finds it: the register arbiter has granted its position 0 (R17). -/
abbrev State.granting (s : State) : State := s.wr R.REG_TOKEN 1

/-- The command that holds tag `t` has ended as `d`. -/
abbrev State.endedAs (s : State) (t : Nat) (d : Done) : Prop := ∃ c, s.cmd t = some c ∧ c.done = some d

/-- `c` is the command that holds tag `g`: it has not ended, and `ok` holds of it. -/
abbrev State.live (s : State) (g : BitVec 13) (ok : Cmd → Bool) (c : Cmd) : Prop :=
  s.cmd g.toNat = some c ∧ c.done = none ∧ ok c = true

/-- `c` is the SCSI command that holds tag `g`: it has not ended, has one of these operation codes, and its logical unit takes it. -/
abbrev State.scsi (s : State) (g : BitVec 13) (ops : List Nat) (c : Cmd) : Prop :=
  s.live g (fun c => State.isSas ops c && s.scsiAccepted c.req) c

/-- An admin command of a PCIe port with this opcode. -/
def isAdmin (op : Nat) (c : Cmd) : Bool := decide (c.port < 4 ∧ c.req.queue = 0 ∧ c.req.opcode = op)

/-- The write `c` may receive all its blocks: space is reserved for them, and nothing holds it or keeps it from ending. -/
abbrev State.writeMayRun (s : State) (c : Cmd) : Prop :=
  s.mayReceive = true ∧ s.barrierHolds c = false ∧ s.needsFailed c = false ∧ c.received = 0 ∧ c.reserved = c.req.blocks
    ∧ s.journalRoom = true

/-- The blocks of `c`, as written by it, are in the write buffer. -/
abbrev State.holdsBlocks (s : State) (c : Cmd) (data : Nat → Nat) : Prop :=
  ∀ i < c.req.blocks, ∃ x ∈ s.media.buffer, x.ns = c.req.ns ∧ x.lba = c.lba + i ∧ x.data = data i ∧ x.arrival = c.arrival

/-- The read `c` has taken every block, none of them unreadable, and is not part of a fused pair. -/
abbrev State.readReady (s : State) (c : Cmd) : Prop :=
  s.mtuRuns = true ∧ State.missing c = [] ∧ State.gotBad c = false ∧ c.req.fused = 0 ∧ c.partner = none

/-- The command `c` may act on a zone of the zoned namespace `n` now (R209, R232, R240). -/
abbrev State.zoneFree (s : State) (c : Cmd) (n : Namespace) : Prop :=
  s.namespaceOf c.req.ns = some n ∧ n.zoned = true ∧ s.mtuRuns = true ∧ c.req.all = false ∧ s.hosts.hzt = []
    ∧ s.journalRoom = true ∧ s.laterWrites c (State.zoneOf n c.req.lba) n.zoneBlocks = false

/-- The zone that `c` names. -/
def State.zoneNamed (s : State) (c : Cmd) (n : Namespace) : Zone := s.zone (State.zoneKey c.req.ns (State.zoneOf n c.req.lba))

/-- FSQn executes the word `w` next: it runs, and the word it fetches is sound (R370 to R372, R381, R382). -/
abbrev State.fetches (s : State) (n : Nat) (f : FsqFetch) (w : Nat) : Prop :=
  s.dom.med.testBit n = true ∧ s.flag (R.MCHK n) = false ∧ s.flag (R.FSQ_WAITING n) = false
    ∧ s.fsqWord n (s.rd (R.FSQ_PC n)) f.rom.toNat = some w ∧ f.upset = false ∧ fsqParity w = true ∧ illegalField w = false

/-- The word `w` does the transfer `x` (R376) and goes on at the next word; its other fields are 0. -/
abbrev transferWord (x w : Nat) : Prop :=
  Arith.field w 80 4 = x ∧ Arith.field w 17 3 = 0 ∧ (∀ i < 4, w.testBit (48 + i) = false) ∧ Arith.field w 52 3 = 0
    ∧ Arith.field w 87 2 = 0 ∧ w.testBit 89 = false

/-- MGT takes the request `q` and finds its form sound (R626, R629, R631). -/
abbrev State.sound (s : State) (q : DamotReq) : Prop := s.hears q = true ∧ badHeader q = false ∧ framed q = true

/-- The SET `q` carries the value `v` of `n` bytes whole, with its token where it has one, and its object is served (R633, R653). -/
abbrev State.setWhole (s : State) (q : DamotReq) (n v : Nat) : Prop :=
  s.sound q ∧ moreOf q = false ∧ q.offset = 0 ∧ q.len.toNat = n + (if authOf q then tokenBytes else 0)
    ∧ q.payload % 2 ^ (8 * n) = v ∧ Store.get none s.mgt.stage q.pos.val = none ∧ s.servedNow q.index.toNat q.sub.toNat = true

/-- The code of the first check that the token of such a SET fails, 0 where it passes them all (R643). -/
def State.tokenResult (s : State) (q : DamotReq) (n v : Nat) : Nat :=
  s.tokenCode q 0x02 (q.payload / 2 ^ (8 * n) % 2 ^ (8 * tokenBytes)) (Config.shake256 256 n v)

/-- R135: a fuse burn under way does not lower a fused minimum. -/
def BurnOk (s : State) : Prop := match s.boot.burn with
  | some (.fwSvn v) => s.fuses.fwSvnMin ≤ v
  | some (.mcSvn v) => s.fuses.mcSvnMin ≤ v
  | _ => True

/-- The invariant of the device: the register file, the SRAM and the DRAM stand in their canonical forms, and no burn under way
would lower a fused minimum. -/
structure Inv (s : State) : Prop where
  regs : Store.rising s.regs = true
  sram : Store.wf 0 s.sram = true
  dram : Store.wf 0 s.dram.words = true
  burn : BurnOk s

/-- R133 to R136: from `f` to `g` no fuse is unburned: revoked key slots stay revoked, minimum versions do not fall. -/
structure OneWay (f g : Fuses) : Prop where
  revoked : ∀ k, f.revoked.testBit k = true → g.revoked.testBit k = true
  fwSvn : f.fwSvnMin ≤ g.fwSvnMin
  mcSvn : f.mcSvnMin ≤ g.mcSvnMin

/-- The fuses that no command burns: the identity, the configuration and the keys. -/
def Fuses.unburned (f : Fuses) : Fuses := { f with revoked := 0, fwSvnMin := 0, mcSvnMin := 0, spareRows := [] }

end Sys2Proof.Machine
end

