-- ==== Sys2Proof/Certificates/Slice0/Obligations.lean ====
section
/-!
DEFINITION. Certificates/Slice0/Obligations.lean: the statements for the provers. A clause about a command says under what
conditions exec answers a next state for it, and what that state holds.
-/

open Sys2Proof Sys2Proof.Machine

/-- The device comes up (R66, R67, R91, R97, R117, R121): what each command of the power-up sequence leaves. The model's own
choices in it: assumptions 25 and 14. -/
def Obligations.PowerUpCompletes : Prop :=
  (∀ s : State, Completes (exec .aonPowerOn s) fun t =>
    t.dom = { aon := true } ∧ t.regs = [] ∧ t.fuses = s.fuses ∧ t.nv = s.nv ∧ t.pins = s.pins)
  ∧ (∀ s : State, s.dom.aon = true → Completes (exec .xt32Stable s) fun t =>
    t.rd R.XT32_OK = 1 ∧ RegsOnly s t ∧ RegFrame s t [R.XT32_OK])
  ∧ (∀ s : State, (s.dom.pstg && s.flag R.IN_OK) = false → Completes (exec .powerOnReset s) fun t =>
    t.dom = { aon := true, pstg := true } ∧ t.pwr.inputSwitch = true ∧ t.rd R.RC_POR = 1 ∧ t.rd R.IN_OK = 1
      ∧ t.fuses = s.fuses)
  ∧ (∀ s : State, s.dom.pstg = true → s.pwr.inputSwitch = true → Completes (exec .inrushComplete s) fun t =>
    t.pwr.xt25En = true ∧ t.rd R.INRUSH_DONE = 1 ∧ RegFrame s t [R.INRUSH_DONE])
  ∧ (∀ s : State, s.pwr.xt25En = true → Completes (exec .xt25Stable s) fun t =>
    t.rd R.XT25_OK = 1 ∧ RegsOnly s t ∧ RegFrame s t [R.XT25_OK])
  ∧ (∀ (s : State) (p : Pll), s.flag R.XT25_OK = true → s.flag R.INRUSH_DONE = true → Completes (exec (.pllLock p) s) fun t =>
    t.rd (lockFld p) = 1 ∧ t.dom = s.domainsUp p ∧ RegFrame s t [lockFld p])
  ∧ (∀ (s : State) (b : BitVec 2), s.flag R.CCLK_LOCK = true → s.boot.phase = .held → s.dom.pstg = true →
    Completes (exec (.coreResetRelease b) s) fun t =>
      t.dom.core = true ∧ t.boot.phase = .rom ∧ t.boot.cores = 1 ∧ t.pins.bifsel = b.toNat)
  ∧ (∀ s : State, s.flag R.DCLK_LOCK = true → s.dom.core = true → Completes (exec .dramReady s) fun t =>
    t.dom.dram = true ∧ t.dram.fused = s.fuses.spareRows ∧ t.rd R.DRAM_READY = 1)

/-- Firmware starts, and the spindle with it (R122, R126, R130, R136, R438, R441). The model's own choices in it: assumptions
32 and 33. -/
def Obligations.BootCompletes : Prop :=
  (∀ (s : State) (i : Image) (b : Nat) (trial : Bool), s.boot.phase = .rom → s.boot.order = some (0, b, trial) →
    s.rd R.FAIL_A = 0xF → Store.get none s.boot.slots 0 = some i → loadAddress i < 0x800000000 →
    Completes (exec (.firmwareSlotCheck false) s) fun t => t.rd R.FAIL_A = imageCode s.fuses i false false
      ∧ (imageCode s.fuses i false false = 0 → t.boot.phase = .firmwareLoaded ∧ t.boot.firmware = some i ∧ t.rd R.BOOT_SLOT = 0
        ∧ t.flag R.BOOT_TRIAL = trial)
      ∧ (imageCode s.fuses i false false ≠ 0 → t.boot = s.boot ∧ RegFrame s t [R.FAIL_A]))
  ∧ (∀ (s : State) (i : Image), s.boot.phase = .firmwareLoaded → s.rd R.BOOT_SLOT = 0 → s.rd R.MC_FAIL_A = 0xF →
    Store.get none s.boot.slots 2 = some i → exec (.microcodeSlotCheck false) s =
      .next (if imageCode s.fuses i true false = 0 then (s.wr R.MC_FAIL_A 0).acceptMicrocode i 0
        else s.wr R.MC_FAIL_A (imageCode s.fuses i true false)))
  ∧ (∀ s : State, s.boot.phase = .microcodeLoaded → Completes (exec .firmwareEntry s) fun t =>
    t.boot.phase = .firmware ∧ t.rd R.PIP_RUN = 1 ∧ RegFrame s t [R.PIP_RUN])
  ∧ (∀ s : State, s.dom.pstg = true → s.flag R.BOOT_RECOVERY = false → s.rd R.SPM_RPM = 0 → s.rd R.SPM_RPM_NOW = 0 →
    s.flag R.SPM_STALL = false → s.driveHeld = false → s.spinAtBoot = true → Completes (exec .spinUp s) fun t =>
      t.rd R.SPM_RPM = 7200 ∧ t.rd R.SPM_STATE = 1 ∧ t.pwr.brake = false
        ∧ RegFrame s t [R.SPM_RPM, R.SPIN_STARTS, R.SPM_STATE])
  ∧ (∀ (s : State) (rpm : BitVec 14), s.rd R.SPM_RPM ≠ 0 → s.driveHeld = false →
    Completes (exec (.spindleAtSpeed rpm true) s) fun t =>
      t.rd R.SPM_RPM_NOW = rpm.toNat ∧ t.rd R.SPM_STATE = 4 ∧ t.flag R.SPM_AT_SPEED = true)
  ∧ (∀ s : State, s.rd R.SPM_RPM ≠ 0 → s.driveHeld = false → exec .spindleStall s =
    .next ((((((s.wr R.SPM_STALL 1).wr R.SPM_STATE 0).setAtSpeed false).wr R.SPM_RPM_NOW 0).raise 153).detect 320))
  ∧ (∀ (s : State) (k : Nat), s.boot.burn = some (.revoke k) → Completes (exec .fuseBurnComplete s) fun t =>
    t.boot.burn = none ∧ t.fuses.revoked.testBit k = true ∧ t.fuses.unburned = s.fuses.unburned ∧ t.regs = s.regs)

/-- The Keep store is replayed and consumed (R139 to R142). The model's own choices in it: assumptions 35 and 34. -/
def Obligations.ReplayCompletes : Prop :=
  (∀ (s : State) (a : Fin 2), s.reachable R.REPLAY_GO.addr = true → s.flag R.REPLAY_BUSY = false →
    Completes (exec (.replayGo a) s) fun t =>
      t.ksc.replaying = some a.val ∧ t.dom.ksc = true ∧ t.rd R.REPLAY_BUSY = 1 ∧ t.rd R.REPLAY_AREA = a.val)
  ∧ (∀ (s : State) (a : Nat) (i : KeepImage), s.ksc.replaying = some a → s.area a = some i → i.badCrc = false →
    Completes (exec (.replayComplete false) s) fun t =>
      t.ksc.replaying = none ∧ t.rd R.REPLAY_BUSY = 0 ∧ t.media.buffer = s.media.buffer ++ i.buffer.map State.restoreBlock
        ∧ t.area a = some { i with replayed := true } ∧ RegFrame s t [R.REPLAY_BUSY])
  ∧ (∀ (s : State) (a : Fin 2) (i : KeepImage), s.reachable R.CONSUME.addr = true → s.area a.val = some i → i.replayed = true →
    s.flag R.REPLAY_BUSY = false → s.flag R.HOLDUP_OK = true → Completes (exec (.consume a) s) fun t =>
      t.ksc.consuming = some a.val ∧ RegFrame s t [R.REG_TOKEN, R.REPLAY_AREA])
  ∧ (∀ (s : State) (a : Nat) (i : KeepImage), s.ksc.consuming = some a → s.area a = some i →
    Completes (exec .consumeMarkerWritten s) fun t =>
      t.ksc.consuming = none ∧ t.area a = some { i with consumed := true } ∧ t.regs = s.regs)

/-- The supply is lost and the buffer saved (R69, R76, R79, R80, R85). The model's own choices in it: assumptions 34, 105 and
25. -/
def Obligations.PowerLossCompletes : Prop :=
  (∀ s : State, s.dom.pstg = false → Completes (exec .aonSupplyLoss s) fun t =>
    t.dom = {} ∧ t.regs = [] ∧ t.fuses = s.fuses ∧ t.nv = s.nv)
  ∧ (∀ (s : State) (v : BitVec 16), v.toNat < s.rd R.PF_THRESH_DV * 10 → exec (.powerFail v) s =
    .next (((s.wr R.VIN_10MV v.toNat).wr R.IN_OK 0).powerFailStart))
  ∧ (∀ s : State, s.pwr.pf = .started → Completes (exec .kscReady s) fun t =>
    t.pwr.pf = .flushing ∧ t.dom.ksc = true ∧ t.dom.abx = false ∧ t.dom.med = 0 ∧ t.dom.svt = false ∧ t.dom.hphy = 0
      ∧ t.rd R.CCLK_LOW = 1)
  ∧ (∀ s : State, s.pwr.pf = .flushing → Completes (exec (.flushCommit false) s) fun t =>
    t.pwr.pf = .committed ∧ t.pwr.brake = true ∧ t.dom.core = false ∧ t.dom.ksc = false ∧ t.rd R.HOLDUP_OK = 0)
  ∧ (∀ (s : State) (mv : BitVec 17), s.pwr.pf = .committed → mv.toNat < 12000 → Completes (exec (.pstgOff mv) s) fun t =>
    t.dom.pstg = false ∧ t.pwr.pf = .off ∧ t.regs = s.regs)
  ∧ (∀ (s : State) (v : BitVec 16), 8000 < v.toNat → s.flag R.PF_ACTIVE = false → Completes (exec (.overvoltageDetect v) s) fun t =>
    t.pwr.inputSwitch = false ∧ t.rd R.OV_RIDE = 1 ∧ t.rd R.IN_OK = 0 ∧ RegFrame s t [R.VIN_10MV, R.IN_OK, R.OV_RIDE])
  ∧ (∀ (s : State) (v : BitVec 16) (mv : BitVec 17), s.flag R.OV_RIDE = true → v.toNat < 7700 → 38000 ≤ mv.toNat →
    ∃ u : State, exec (.ovRideEnd v mv) s = .next (u.detect 369) ∧ u.rd R.OV_RIDE = 0 ∧ u.rd R.OV_EVENT = 1
      ∧ u.pwr.inputSwitch = true)
  ∧ (∀ s : State, s.flag R.OV_RIDE = true → exec .ovRideTimeout s = .next s.powerFailStart)

/-- Hold-up, the rails of the preamplifiers, and their supervision (R72, R73, R76, R79, R92, R94). The model's own choices in
it: assumptions 26, 25 and 30. -/
def Obligations.RailsComplete : Prop :=
  (∀ (s : State) (v p : BitVec 16) (mv : BitVec 17) (e : Nat), s.dom.pstg = true → s.bufferDirty = false →
    e = State.holdupEnergy mv.toNat (Store.get 0 s.cal.device 0) (s.rd R.SPM_RPM_NOW) / (12 * 10 ^ 51) →
    Completes (exec (.holdupRecompute v p mv) s) fun t =>
      (t.rd R.HOLDUP_MJ = min 0xFFFF e ∨ t.rd R.HOLDUP_MJ = min 0xFFFF (e + 1))
        ∧ t.flag R.HOLDUP_OK = decide (s.rd R.HOLDUP_NEED_MJ ≤ t.rd R.HOLDUP_MJ) ∧ t.rd R.VIN_10MV = v.toNat
        ∧ t.rd R.PIN_10MW = p.toNat ∧ RegFrame s t [R.VIN_10MV, R.PIN_10MW, R.IN_OK, R.HOLDUP_MJ, R.HOLDUP_OK])
  ∧ (∀ (s : State) (a : Nat), s.ksc.writing = some a → Completes (exec .keepImageCommit s) fun t =>
    t.ksc.writing = none ∧ t.dom.ksc = false)
  ∧ (∀ (s : State) (pa asst : BitVec 4), s.reachable R.PA_EN.addr = true → s.rd R.PA_RAIL_OC = 0 →
    Completes (exec (.paRailEnable pa asst) s) fun t => t.rd R.PA_EN = pa.toNat ∧ t.rd R.PASST_EN = pa.toNat &&& asst.toNat)
  ∧ (∀ (s : State) (n : Fin 4), s.bitAt R.PA_EN n.val = true → Completes (exec (.paRailReady n .pa5v) s) fun t =>
    t.pwr.paReg.testBit n.val = true ∧ RegFrame s t [R.PA_RAIL_OK])
  ∧ (∀ (s : State) (n : Fin 4), ∃ u : State, exec (.paRailOvercurrent n .pa5v) s = .next (u.detect (370 + n.val))
    ∧ u.bitAt R.PA_EN n.val = false ∧ u.bitAt R.PASST_EN n.val = false ∧ u.bitAt R.PA_RAIL_OC n.val = true)
  ∧ (∀ (s : State) (c : BitVec 8), Completes (exec (.calTempComp c) s) fun t =>
    t.pwr.calPpb = Arith.signed 16 (s.rd R.TC_COEF) * (Arith.signed 8 c.toNat - Arith.signed 8 (s.rd R.TC_TURN)) *
      (Arith.signed 8 c.toNat - Arith.signed 8 (s.rd R.TC_TURN)) ∧ RegFrame s t [R.CAL_MS_LO, R.CAL_MS_HI])
  ∧ (∀ (s : State) (k : Fin 12), Completes (exec (.bandgapRetrim k) s) fun t =>
    Store.get 0 t.pwr.bandgapTrim k.val = s.rd (R.SENS_T k.val) ∧ t.regs = s.regs)

/-- Clocks and power states (R98, R99, R101, R103, R115). The model's own choices in it: assumptions 28 and 29. -/
def Obligations.PowerStatesComplete : Prop :=
  (∀ (s : State) (p : Pll), s.flag (lockFld p) = true → s.clockedOn p = true →
    exec (.pllUnlock p) s = .next (((s.wr (lockFld p) 0).count R.PLL_UNLOCK_CNT).detect (unlockSource p)))
  ∧ (∀ (s : State) (d : Fin 4), s.idleMs (d.val + 1) ≠ 0 → Completes (exec (.idleTimerExpiry d false) s) fun t =>
    t.pm.timerDepth = max s.pm.timerDepth (s.expiryDepth (d.val + 1))
      ∧ t.rd R.PSTATE_TARGET = max s.shallowest (min t.pm.timerDepth (s.rd R.IDLE_DEPTH_MAX)) % 8
      ∧ RegFrame s t [R.REQ_DEPTH, R.PSTATE_TARGET, R.PSTATE_BUSY])
  ∧ (∀ s : State, s.flag R.PSTATE_BUSY = true → s.rd R.PSTATE_TARGET = 0 → s.rd R.PSTATE_NOW < 5 →
    Completes (exec .stateTransitionComplete s) fun t =>
      t.rd R.PSTATE_NOW = 0 ∧ t.flag R.PSTATE_BUSY = false ∧ t.dom.abx = true ∧ t.dom.med = 15 ∧ t.dom.svt = true
        ∧ t.pm.backgroundStopped = false)
  ∧ (∀ s : State, s.rd R.PSTATE_NOW = 4 → s.flag R.PSTATE_BUSY = false → s.flag R.SLEEP_EN = true →
    (∀ p < 4, s.flag (R.LINK_L12 p) = true ∨ s.flag (R.PORT_PRESENT p) = false) → s.pm.l12Running = true →
    Completes (exec .sleepEntry s) fun t =>
      t.rd R.PSTATE_NOW = 5 ∧ t.dom.core = false ∧ t.dom.dram = false ∧ t.dom.hphy = 0 ∧ t.rd R.CCLK_LOCK = 0
        ∧ t.dram = s.dram ∧ t.sram = s.sram)
  ∧ (∀ s : State, s.rd R.PSTATE_NOW = 5 → Completes (exec (.wakeFromSleep .perst) s) fun t =>
    t.rd R.PSTATE_NOW = 4 ∧ t.dom.core = true ∧ t.dom.dram = true ∧ t.rd R.CCLK_LOCK = 1 ∧ t.dram = s.dram ∧ t.sram = s.sram)
  ∧ (∀ (s : State) (d e : Nat), 1 ≤ d → d < e → e ≤ 4 → s.idleMs e ≠ 0 → s.idleMs e ≤ s.idleMs d → e ≤ s.expiryDepth d)

/-- Resets and the event router (R43, R44, R47 to R49, R117 to R119). The model's own choices in it: assumptions 34 and 10. -/
def Obligations.ResetsAndEventsComplete : Prop :=
  (∀ s : State, exec (.deviceReset .software) s = .next (s.deviceReset R.RC_SW))
  ∧ (∀ s : State, exec (.actuatorReset 5) s = .next ((s.actuatorReset 0).actuatorReset 2))
  ∧ (∀ (s : State) (c : Fin 4) (n : Nat), s.reachable (R.CLAIM_LINE 0).addr = true → s.claimLine c.val = some n →
    Completes (exec (.evrClaim [c] []) s) fun t =>
      t.out = .claim c.val (0x80000000 + n) :: s.out ∧ t.rd R.CLAIM_TOKEN = (c.val + 1) % 4)
  ∧ (∀ (s : State) (b : BitVec 24) (j : Nat), s.reachable R.SOFT_SET.addr = true → b.toNat.testBit j = true →
    Completes (exec (.evrSoft b) s) fun t => t.linePending (232 + j) = true ∧ RegsOnly s t)

/-- The fault collection unit (R570 to R589, R592). The model's own choices in it: assumption 91. -/
def Obligations.FaultCommandsComplete : Prop :=
  (∀ (s : State) (i : Fin 512) (d : BitVec 32), exec (.faultDetection [(i, d)]) s = .next (s.detectAll [(i.val, d.toNat)]))
  ∧ (∀ (s : State) (k : ShadowStep) (n : Fin 4), Completes (exec (.shadowReady k n) s) fun t =>
    t.shadowOpen (stepCode k) n.val = false ∧ t.regs = s.regs)
  ∧ (∀ (s : State) (k : ShadowStep) (n : Fin 4), s.shadowOpen (stepCode k) n.val = true → exec (.shadowTimeout k n) s =
    .next (((s.closeShadow (stepCode k) n.val).raise 179).detect 386 (stepCode k + 8 * n.val)))
  ∧ (∀ (s : State) (k : Fin 5) (w : FaultWindow), s.window k.val = some w → s.windowDone w = true →
    Completes (exec (.windowClose k) s) fun t => t.window k.val = none ∧ t.linePending 181 = true)
  ∧ (∀ s : State, s.reachable R.Q_POP.addr = true → Completes (exec .qPop s) fun t => t.fcu.queue = s.fcu.queue.tail)
  ∧ (∀ (s : State) (n : Fin 4), s.reachable R.ACT_HOLD.addr = true → s.window n.val = none → s.window 4 = none →
    s.flag R.FATAL = false → Completes (exec (.actHoldRelease (BitVec.ofNat 4 (2 ^ n.val)) 0) s) fun t =>
      t.bitAt R.ACT_HOLD n.val = false ∧ t.flag (R.ACT_DRAINED n.val) = s.bitAt R.DRAIN_REQ n.val
        ∧ RegFrame s t [R.REG_TOKEN, R.ACT_HOLD, R.ACT_DRAINED n.val])
  ∧ (∀ s : State, s.flag R.FATAL = true → s.flag R.FATAL_RESET = true → s.rd R.FATAL_RST_CNT < s.rd R.FATAL_RST_MAX →
    s.flag R.PF_ACTIVE = false → exec .fatalResetTimer s =
      .next ((s.wr R.FATAL_RST_CNT (s.rd R.FATAL_RST_CNT + 1)).deviceReset R.RC_FCU))

/-- The watchdog, the PIP pin and the external retract pin (R587 to R589). The model's own choices in it: assumptions 92 and
91. -/
def Obligations.WatchdogAndPinsComplete : Prop :=
  (∀ s : State, s.flag R.PIP_RUN = true → Completes (exec .pipToggle s) fun t =>
    t.flag R.PIP_LEVEL = !s.flag R.PIP_LEVEL ∧ t.fcu.pipPhase = (s.fcu.pipPhase + 48) % 125 ∧ RegFrame s t [R.PIP_LEVEL])
  ∧ (∀ s : State, s.reachable R.WDOG_EN.addr = true → Completes (exec .wdogEn s) fun t =>
    t.flag R.WDOG_EN = true ∧ t.fcu.wdogRunning = (s.fcu.wdogRunning || !s.flag R.WDOG_EN) ∧ RegFrame s t [R.REG_TOKEN, R.WDOG_EN])
  ∧ (∀ s : State, s.reachable R.WDOG_KICK.addr = true → s.flag R.WDOG_EN = true → Completes (exec .wdogKick s) fun t =>
    t.fcu.wdogRunning = true ∧ t.regs = s.granting.regs)
  ∧ (∀ (s : State) (ms e : BitVec 16), s.reachable R.WDOG_MS.addr = true → s.flag R.WDOG_EN = false →
    Completes (exec (.wdogMsWrite ms e) s) fun t =>
      t.rd R.WDOG_MS = max 10 (min 60000 ms.toNat) ∧ RegsOnly s t ∧ RegFrame s t [R.REG_TOKEN, R.WDOG_MS])
  ∧ (∀ s : State, s.flag R.WDOG_EN = true → s.fcu.wdogRunning = true → exec (.watchdogExpiry false) s =
    .next (({ s with fcu := { s.fcu with wdogRunning := false } }).detect 385))
  ∧ (∀ s : State, s.flag R.EXT_RETRACT = false → s.rd R.PSTATE_NOW ≠ 5 → exec .extRetractRequest s =
    .next (((({ s with pins := { s.pins with retractReqN := false } }).wr R.EXT_RETRACT 1).raise 180).detect 384))
  ∧ (∀ s : State, Completes (exec .extRetractEnd s) fun t =>
    t.flag R.EXT_RETRACT = false ∧ t.pins.retractReqN = true ∧ t.bitAt R.ACT_HOLD = s.bitAt R.ACT_HOLD
      ∧ RegFrame s t [R.EXT_RETRACT])
  ∧ (∀ (s : State) (i : Fin 512), s.reachable R.FCU_CNT_CLR.addr = true → Completes (exec .fcuCntClr s) fun t =>
    t.rd (R.SRC_CNT i.val) = 0 ∧ t.rd R.LOST_CNT = 0 ∧ RegsOnly s t)

/-- PCIe ports and their controllers (R101, R117, R121, R153, R156, R159, R161, R164, R171). The model's own choices in it:
assumption 100. -/
def Obligations.PortCommandsComplete : Prop :=
  (∀ s : State, s.dom.core = true → Completes (exec .pcieReset s) fun t =>
    t.pins.perstN = false ∧ t.pins.training = 0 ∧ t.rd R.RC_PERST = 1)
  ∧ (∀ (s : State) (k : Fin 4), s.dom.core = true → s.flag (R.PORT_PRESENT k.val) = true →
    Completes (exec (.pcieLinkTraining k) s) fun t =>
      t.pins.perstN = true ∧ t.pins.training.testBit k.val = true ∧ t.regs = s.regs)
  ∧ (∀ (s : State) (k : Fin 4) (speed : Fin 7) (flit : Bool), s.pins.training.testBit k.val = true → speed.val ≠ 0 →
    Completes (exec (.pcieLinkUp k speed 4 flit) s) fun t =>
      t.rd (R.LINK_SPEED k.val) = speed.val ∧ t.rd (R.LINK_WIDTH k.val) = 4 ∧ t.flag (R.LINK_FLIT k.val) = (flit || speed.val == 6)
        ∧ RegsOnly s t)
  ∧ (∀ (s : State) (k : Fin 4) (b : Bool), s.dom.core = true → s.flag (R.PORT_PRESENT k.val) = true → s.rd R.PSTATE_NOW ≠ 5 →
    Completes (exec (.linkL12Change k b) s) fun t =>
      t.flag (R.LINK_L12 k.val) = b ∧ RegFrame s t [R.LINK_L12 k.val]
        ∧ (t.pm.l12Running = true ↔ ∀ j < 4, t.flag (R.PORT_PRESENT j) = true → t.flag (R.LINK_L12 j) = true))
  ∧ (∀ (s : State) (k : Fin 4) (c : PortResetCause), s.dom.core = true → s.flag (R.PORT_PRESENT k.val) = true →
    Completes (exec (.portReset k c) s) fun t =>
      t.flag (R.CTRL_EN k.val) = false ∧ t.flag (R.CTRL_RDY k.val) = false ∧ t.rd (R.Q_GRANTED k.val) = 0
        ∧ t.flag (R.PORT_RESET_EV k.val) = true ∧ t.ctrl k.val = {}
        ∧ (∀ e ∈ t.hosts.fetched, e.1 ≠ k.val) ∧ (c = .linkDown → t.rd (R.LINK_SPEED k.val) = 0))
  ∧ (∀ (s : State) (k : Fin 4) (ams : BitVec 3) (a b : BitVec 12), s.dom.core = true → s.flag (R.PORT_PRESENT k.val) = true →
    s.flag (R.CTRL_EN k.val) = false → Completes (exec (.ccEnSet k ams a b) s) fun t =>
      t.flag (R.CTRL_EN k.val) = true ∧ (t.ctrl k.val).sqs = [(0, some { size := a.toNat + 1, cq := 0, prio := 0 })]
        ∧ (t.ctrl k.val).quota = s.rd (R.Q_QUOTA k.val) ∧ RegFrame s t [R.CTRL_EN k.val, R.Q_GRANTED k.val])
  ∧ (∀ (s : State) (k : Fin 4), s.flag (R.CTRL_EN k.val) = true → s.flag R.BOOT_RECOVERY = false →
    exec (.controllerReady k) s = .next (s.wr (R.CTRL_RDY k.val) 1))
  ∧ (∀ (s : State) (k : Fin 4) (shn : BitVec 2), s.flag (R.CTRL_EN k.val) = true → (shn = 1 ∨ shn = 2) →
    exec (.shutdownNotification k shn) s = .next (s.modCtrl k.val fun c => { c with stopFetch := true, shst := 1 }))
  ∧ (∀ (s : State) (k : Fin 4), (s.ctrl k.val).shst = 1 → (∀ e ∈ s.hosts.fetched, e.1 ≠ k.val) →
    (∀ c ∈ s.hosts.cmds, c.port = k.val → c.tag ∈ (s.ctrl k.val).aers) →
    exec (.shutdownComplete k) s = .next (s.modCtrl k.val fun c => { c with shst := 2 }))

/-- Doorbells, fetch, arrival, the hazard table and interrupts (R174 to R184, R209 to R215). The model's own choices in it:
assumptions 38 and 10. -/
def Obligations.QueueCommandsComplete : Prop :=
  (∀ (s : State) (k : Fin 4) (i v : BitVec 16) (q : Sq), s.dom.core = true → s.flag (R.PORT_PRESENT k.val) = true →
    Store.get none (s.ctrl k.val).sqs i.toNat = some q → v.toNat < q.size → exec (.sqTailDoorbell k i v) s =
      .next (s.modCtrl k.val fun c => { c with sqs := Store.put none c.sqs i.toNat (some { q with tail := v.toNat }) }))
  ∧ (∀ (s : State) (k : Fin 4) (i v : BitVec 16) (q : Cq), s.dom.core = true → s.flag (R.PORT_PRESENT k.val) = true → (s.ctrl k.val).held = [] →
    Store.get none (s.ctrl k.val).cqs i.toNat = some q → v.toNat < q.size → (∀ e ∈ (s.ctrl k.val).sqs, ∀ x, e.2 = some x →
      x.deleting = none) → Completes (exec (.cqHeadDoorbell k i v) s) fun t =>
      Store.get none (t.ctrl k.val).cqs i.toNat = some { q with head := v.toNat } ∧ t.regs = s.regs)
  ∧ (∀ (s : State) (l : List HostReq) (k q : Nat) (renew : Bool) (x : Sq), s.boot.hold = none →
    tokenGrant 4 (s.rd R.FETCH_TOKEN) s.fetchPorts = some k → s.chooseSq k = some (q, renew) →
    Store.get none (s.ctrl k).sqs q = some x → Completes (exec (.commandFetch l) s) fun t =>
      t.hosts.fetched = s.hosts.fetched ++ (l.take (min ((x.tail + x.size - x.head) % x.size) (s.burst k))).map
        (fun r => (k, { r with queue := q })) ∧ t.rd R.FETCH_TOKEN = (k + 1) % 4 ∧ RegFrame s t [R.FETCH_TOKEN])
  ∧ (∀ (s : State) (g : BitVec 13) (p : Nat) (e : Nat × HostReq), s.cmuRunning = true → s.flag R.ARRIVAL_STALL = false →
    s.cmd g.toNat = none → s.hosts.stalled = none →
    tokenGrant 3 (s.rd R.ARRIVE_TOKEN) ((List.range 3).filter fun p => (s.atStep p).isSome) = some p → s.atStep p = some e →
    ((s.takeAtStep p e).wr R.ARRIVE_TOKEN ((p + 1) % 3)).hztRoom e = true → Completes (exec (.commandArrival g) s) fun t =>
      t = ((s.takeAtStep p e).wr R.ARRIVE_TOKEN ((p + 1) % 3)).arrive g.toNat e)
  ∧ (∀ s : State, s.hosts.stalled = none → exec .arrivalResume s = .next (s.wr R.ARRIVAL_STALL 0))
  ∧ (∀ s : State, exec .hazardRelease s = .next s.settle)
  ∧ (∀ (s : State) (g : BitVec 13) (c : Cmd), s.cmd g.toNat = some c → c.barrier = true → c.started = false →
    c.inHzt = true → c.partner = none → (∀ d ∈ s.hosts.cmds, d.arrival < c.arrival → d.req.ns = c.req.ns → d.inHzt = false) →
    exec (.orderedBarrierStart g) s = .next ((s.modCmd g.toNat fun c => { c with started := true }).count R.BARRIERS))
  ∧ (∀ (s : State) (g : BitVec 13) (c : Cmd) (d : Done), s.cmd g.toNat = some c → c.done = some d → s.cmuRunning = true →
    s.mayCommitCmd c = true → s.abortWaits g.toNat = false → (c.port < 4 → s.cqRoom c.port c.req.queue = true) →
    exec (.completionCommit g) s = .next (s.commit c d))
  ∧ (∀ (s : State) (k : Fin 4) (v : BitVec 11), Store.get 0 (s.ctrl k.val).unsignalled v.toNat ≠ 0 →
    (s.ctrl k.val).masked.testBit v.toNat = false → Completes (exec (.interruptCoalesceTimeout k v) s) fun t =>
      t.out = .interrupt k.val v.toNat :: s.out ∧ Store.get 0 (t.ctrl k.val).unsignalled v.toNat = 0 ∧ t.regs = s.regs)
  ∧ (∀ (s : State) (k : Fin 4) (v : BitVec 11), (s.ctrl k.val).msixPend.testBit v.toNat = true →
    Completes (exec (.msixUnmask k v) s) fun t => t.out = .interrupt k.val v.toNat :: s.out
      ∧ (t.ctrl k.val).masked.testBit v.toNat = false ∧ (t.ctrl k.val).msixPend.testBit v.toNat = false)

/-- Queues are created and deleted and commands aborted (R173, R177, R185). The model's own choices in it: assumption 15. -/
def Obligations.QueueAdminCompletes : Prop :=
  (∀ (s : State) (g : BitVec 13) (c : Cmd) (q v : Nat), s.cmd g.toNat = some c → c.port < 4 → c.req.queue = 0 → c.req.opcode = 5 →
    c.done = none → q = c.req.cdw10 % 65536 → v = c.req.cdw11 / 65536 % 65536 → 0 < q → q ≤ (s.ctrl c.port).cqGranted →
    Store.get none (s.ctrl c.port).cqs q = none → c.req.cdw10 / 65536 % 65536 ≠ 0 → s.badVector c.port v = false →
    c.req.cdw11 % 2 = 1 → Completes (exec (.createIoCq g) s) fun t => t.endedAs g.toNat doneOk ∧ t.regs = s.regs ∧
      Store.get none (t.ctrl c.port).cqs q = some { size := c.req.cdw10 / 65536 % 65536 + 1, vector := v, ien := c.req.cdw11 / 2 % 2 == 1 })
  ∧ (∀ (s : State) (g : BitVec 13) (c : Cmd) (q n : Nat), s.cmd g.toNat = some c → c.port < 4 → c.req.queue = 0 → c.req.opcode = 1 →
    c.done = none → q = c.req.cdw10 % 65536 → n = c.req.cdw11 / 65536 % 65536 → 0 < q → q ≤ s.rd (R.Q_GRANTED c.port) →
    Store.get none (s.ctrl c.port).sqs q = none → c.req.cdw10 / 65536 % 65536 ≠ 0 → n ≠ 0 →
    (Store.get none (s.ctrl c.port).cqs n).isSome = true → c.req.cdw11 % 2 = 1 → Completes (exec (.createIoSq g) s) fun t =>
      t.endedAs g.toNat doneOk ∧ t.regs = s.regs ∧ Store.get none (t.ctrl c.port).sqs q =
        some { size := c.req.cdw10 / 65536 % 65536 + 1, cq := n, prio := c.req.cdw11 / 2 % 4 })
  ∧ (∀ (s : State) (g : BitVec 13) (c : Cmd) (q : Nat), s.cmd g.toNat = some c → c.port < 4 → c.req.queue = 0 → c.req.opcode = 4 →
    c.done = none → q = c.req.cdw10 % 65536 → q ≠ 0 → (Store.get none (s.ctrl c.port).cqs q).isSome = true →
    (∀ e ∈ (s.ctrl c.port).sqs, e.2.map Sq.cq ≠ some q) → Completes (exec (.deleteIoCq g) s) fun t =>
      t.endedAs g.toNat doneOk ∧ Store.get none (t.ctrl c.port).cqs q = none ∧ t.regs = s.regs)
  ∧ (∀ (s : State) (g : BitVec 13) (c : Cmd) (q : Nat) (a x : Sq), s.cmd g.toNat = some c → c.port < 4 → c.req.queue = 0 →
    c.req.opcode = 0 → c.done = none → q = c.req.cdw10 % 65536 → q ≠ 0 → (s.ctrl c.port).sqs = [(0, some a), (q, some x)] →
    a.deleting = none →
    (∀ d ∈ s.hosts.cmds, d.port = c.port → d.req.queue ≠ q) → s.atTagStep = [] → (s.ctrl c.port).held = [] →
    Completes (exec (.deleteIoSq g) s) fun t =>
      t.endedAs g.toNat doneOk ∧ Store.get none (t.ctrl c.port).sqs q = none ∧ t.regs = s.regs)
  ∧ (∀ (s : State) (g : BitVec 13) (c d : Cmd), s.cmd g.toNat = some c → c.port < 4 → c.req.queue = 0 → c.req.opcode = 8 →
    c.done = none → (s.hosts.cmds.filter fun x => x.port == c.port && x.req.queue == 0 && x.req.opcode == 8
      && decide (x.arrival < c.arrival)).length < 8 → c.req.cdw10 % 65536 ≠ 0 →
    (Store.get none (s.ctrl c.port).sqs (c.req.cdw10 % 65536)).isSome = true → s.atTagStep = [] →
    (s.hosts.cmds.find? fun x => x.port == c.port && x.req.queue == c.req.cdw10 % 65536
      && x.req.cid == c.req.cdw10 / 65536 % 65536) = some d → d.abortedBy = none →
    exec (.abort g false) s = .next (s.abortMatch g.toNat d))

/-- NVMe admin commands that report (R109, R165, R167, R168, R174): what each answers. The model's own choices in it:
assumptions 15 and 38. -/
def Obligations.NvmeReportsComplete : Prop :=
  (∀ (s : State) (g : BitVec 13) (c : Cmd), s.live g (isAdmin 0x06) c → c.req.cdw10 % 256 = 1 → Completes (exec (.identify g) s) fun t =>
    t.endedAs g.toNat doneOk ∧ t.out = .fields c.port c.req.cid (s.identifyController c.port ++ State.powerStates) :: s.out ∧ t.regs = s.regs)
  ∧ (∀ (s : State) (g : BitVec 13) (c : Cmd), s.live g (isAdmin 0x02) c → c.req.cdw10 % 256 = 3 →
    Completes (exec (.getLogPage g) s) fun t =>
      t.endedAs g.toNat doneOk ∧ t.out = .fields c.port c.req.cid [("AFI", s.rd R.BOOT_SLOT + 1)] :: s.out ∧ t.regs = s.regs)
  ∧ (∀ (s : State) (g : BitVec 13) (c : Cmd), s.live g (isAdmin 0x0A) c → c.req.cdw10 = 8 →
    Completes (exec (.getFeatures g) s) fun t =>
      t.endedAs g.toNat { doneOk with dw0 := Store.get 0 (s.ctrl c.port).feats 8 } ∧ t.regs = s.regs ∧ t.out = s.out)
  ∧ (∀ (s : State) (g : BitVec 13) (c : Cmd), s.live g (isAdmin 0x0C) c → c.tag ∉ (s.ctrl c.port).aers → (s.ctrl c.port).events = [] →
    (s.ctrl c.port).aers.length < 16 → exec (.asyncEventRequest g) s =
      .next (s.modCtrl c.port fun y => { y with aers := y.aers ++ [c.tag] }))
  ∧ (∀ (s : State) (g : BitVec 13) (c : Cmd), s.live g (isAdmin 0x1A) c → c.req.cdw11 % 256 = 3 → c.req.cdw11 / 256 % 256 = 1 →
    s.namespaceOf c.req.ns = none → Completes (exec (.directiveReceive g) s) fun t =>
      t.endedAs g.toNat { doneOk with dw0 := min (c.req.cdw12 % 65536) s.maxStreams } ∧ t.regs = s.regs)
  ∧ (∀ (s : State) (g : BitVec 13) (c : Cmd),
    s.live g (fun c => c.port < 4 && c.req.queue == 0 && !State.adminOpcodes.contains c.req.opcode) c →
    Completes (exec (.invalidAdminOpcode g) s) fun t => t.endedAs g.toNat invalidOpcode ∧ t.regs = s.regs)

/-- NVMe features (R110, R168, R172, R613). The model's own choices in it: assumption 15. -/
def Obligations.NvmeFeaturesComplete : Prop :=
  (∀ (s : State) (g : BitVec 13) (c : Cmd), s.live g (isAdmin 0x09) c → c.req.cdw10 = 8 → Completes (exec (.setFeatures g) s) fun t =>
    t.endedAs g.toNat doneOk ∧ Store.get 0 (t.ctrl c.port).feats 8 = c.req.cdw11 ∧ t.regs = s.regs ∧ t.nv = s.nv)
  ∧ (∀ (s : State) (g : BitVec 13) (c : Cmd), s.live g (isAdmin 0x09) c → c.req.cdw10 = 2 → c.req.cdw11 % 32 ≤ 4 →
    Completes (exec (.setFeaturesPowerMgmt g) s) fun t =>
      t.endedAs g.toNat doneOk ∧ Store.get 0 t.pm.request c.port = c.req.cdw11 % 32
        ∧ RegFrame s t [R.REQ_DEPTH, R.PSTATE_TARGET, R.PSTATE_BUSY])
  ∧ (∀ (s : State) (g : BitVec 13) (c : Cmd), s.live g (isAdmin 0x09) c → c.req.cdw10 = 7 → (s.ctrl c.port).ioCreated = false →
    Completes (exec (.setFeaturesNumQueues g) s) fun t =>
      t.rd (R.Q_GRANTED c.port) = min (c.req.cdw11 % 65536 + 1) (s.ctrl c.port).quota % 2 ^ (R.Q_GRANTED c.port).width ∧ RegFrame s t [R.Q_GRANTED c.port]
        ∧ (t.ctrl c.port).cqGranted = min (c.req.cdw11 / 65536 % 65536 + 1) (s.ctrl c.port).quota)
  ∧ (∀ (s : State) (g : BitVec 13) (c : Cmd), s.live g (isAdmin 0x09) c → c.req.cdw10 = 14 →
    Completes (exec (.setFeaturesTimestamp g) s) fun t =>
      t.endedAs g.toNat doneOk ∧ t.rd R.CAL_SET = 1 ∧ t.rd R.CAL_MS_LO = c.req.cdw11 % 2 ^ 32
        ∧ RegFrame s t [R.CAL_MS_LO, R.CAL_MS_HI, R.CAL_SET])
  ∧ (∀ (s : State) (k : Fin 4) (e : Nat × Nat), s.pm.apstOn.testBit k.val = true → e.2 ≠ 0 → e.1 ≤ 4 →
    Store.get (0, 0) s.pm.apstTable (32 * k.val + Store.get 0 s.pm.request k.val) = e →
    exec (.apstTransition k) s = .next (s.requestState k.val e.1))

/-- Namespaces, directives, firmware and erasure (R165, R170, R208, R227, R235, R650, R651). The model's own choices in it:
assumptions 46, 61 and 54. -/
def Obligations.NvmeAdminCompletes : Prop :=
  (∀ (s : State) (g : BitVec 13) (c : Cmd), s.live g (isAdmin 0x0D) c → c.req.cdw10 % 16 = 1 → s.nsExists c.req.ns = true →
    s.imagesConsumed = true → Completes (exec (.namespaceManagement g) s) fun t =>
      t.endedAs g.toNat doneOk ∧ t.namespaceOf c.req.ns = none)
  ∧ (∀ (s : State) (g : BitVec 13) (c : Cmd) (n : Namespace), s.live g (isAdmin 0x15) c → c.req.cdw10 % 16 = 0 →
    s.namespaceOf c.req.ns = some n → c.req.ranges = [(1, 0)] → Completes (exec (.namespaceAttachment g) s) fun t =>
      t.endedAs g.toNat doneOk ∧ t.namespaceOf c.req.ns = some { n with attached := Arith.putBit n.attached 0 true }
        ∧ t.regs = s.regs)
  ∧ (∀ (s : State) (g : BitVec 13) (c : Cmd) (b : Block), s.live g (isAdmin 0x11) c → c.req.cdw10 = 1023 → c.req.cdw11 % 1024 = 0 →
    Completes (exec (.firmwareImageDownload g [b]) s) fun t => t.endedAs g.toNat doneOk ∧ t.regs = s.regs
      ∧ t.hosts.fwStage = Store.put 0 s.hosts.fwStage (c.port * 65536 + 4 * c.req.cdw11 / 4096) b.toNat)
  ∧ (∀ (s : State) (g : BitVec 13) (c : Cmd) (a : Fin 3), s.live g (isAdmin 0x10) c → c.req.cdw10 = 8 * a.val + 2 →
    s.boot.update = none → s.slotRuns 1 = false → Completes (exec (.firmwareCommit g) s) fun t =>
      (imageCode s.fuses (s.stagedImage c.port) false false = 0 → t.boot.update = some ⟨c.port, 1, a.val, s.stagedImage c.port, some c.tag⟩
          ∧ t.regs = s.regs ∧ t.hosts = s.hosts)
        ∧ (imageCode s.fuses (s.stagedImage c.port) false false ≠ 0 → t.boot = s.boot ∧ t.linePending 202 = true
          ∧ t.endedAs g.toNat (State.rejectDone (imageCode s.fuses (s.stagedImage c.port) false false))))
  ∧ (∀ (s : State) (g : BitVec 13) (c : Cmd), s.live g (isAdmin 0x10) c → c.req.cdw10 = 8 * 3 + 2 →
    s.boot.update = none → s.boot.activation = none → s.slotRuns 1 = false → Completes (exec (.firmwareCommitActivate g) s) fun t =>
      (imageCode s.fuses (s.stagedImage c.port) false false = 0 → t.boot.update = some ⟨c.port, 1, 3, s.stagedImage c.port, some c.tag⟩
          ∧ t.regs = s.regs ∧ t.hosts = s.hosts)
        ∧ (imageCode s.fuses (s.stagedImage c.port) false false ≠ 0 → t.boot = s.boot
          ∧ t.endedAs g.toNat (State.rejectDone (imageCode s.fuses (s.stagedImage c.port) false false))))
  ∧ (∀ (s : State) (j : UpdateJob), s.boot.update = some j → Completes (exec .firmwareSlotWriteDone s) fun t =>
    t.boot.update = none ∧ Store.get none t.boot.slots j.slot = some j.image ∧ t.linePending 201 = true)
  ∧ (∀ (s : State) (g : BitVec 13) (c : Cmd) (n : Namespace), s.live g (isAdmin 0x19) c → c.req.cdw11 % 65536 = 0x102 →
    s.namespaceOf c.req.ns = some n → Completes (exec (.directiveSend g) s) fun t =>
      t.endedAs g.toNat doneOk ∧ t.namespaceOf c.req.ns = some { n with streams := [] } ∧ t.regs = s.regs)
  ∧ (∀ (s : State) (g : BitVec 13) (c : Cmd), s.live g (isAdmin 0x80) c → c.req.cdw10 / 512 % 8 = 1 → c.req.cdw10 % 16 = 0 →
    s.nsExists c.req.ns = true → (∀ e ∈ s.hosts.hzt, e.arrival < c.arrival → e.ns ≠ c.req.ns) → s.mtuRuns = true →
    s.imagesConsumed = true → exec (.formatNvm g) s = .next (((s.cryptoErase c.req.ns).announceFormat c [c.req.ns]).finish c.tag doneOk))
  ∧ (∀ (s : State) (g : BitVec 13) (c : Cmd), s.live g (isAdmin 0x84) c → c.req.cdw10 % 8 = 4 → s.hosts.hzt = [] → s.mtuRuns = true →
    s.imagesConsumed = true → exec (.sanitize g) s =
      .next (((s.allNamespaces.foldl State.cryptoErase s).announceFormat c s.allNamespaces).finish c.tag doneOk))

/-- NVMe I/O commands (R166, R211, R231, R238, R243, R244). The model's own choices in it: assumption 38. -/
def Obligations.NvmeIoCompletes : Prop :=
  (∀ (s : State) (g : BitVec 13) (c : Cmd), s.live g (State.isNvmeIo [0]) c → Completes (exec (.nvmeFlush g) s) fun t =>
    t.endedAs g.toNat doneOk ∧ t.regs = s.regs ∧ t.media = s.media)
  ∧ (∀ (s : State) (g : BitVec 13) (c : Cmd) (d : List Block), s.live g (State.isNvmeIo [1]) c → c.req.fused = 0 → c.req.dtype = 0 →
    s.writeMayRun c → d.length = c.req.blocks → Completes (exec (.nvmeWrite g d false) s) fun t =>
      t.endedAs g.toNat doneOk ∧ t.holdsBlocks c fun i => (d.getD i 0).toNat)
  ∧ (∀ (s : State) (g : BitVec 13) (c : Cmd) (d : List Block), s.live g (State.isNvmeIo [0x7D]) c → s.writeMayRun c →
    d.length = c.req.blocks → Completes (exec (.zoneAppend g d false) s) fun t =>
      t.endedAs g.toNat { doneOk with dw0 := c.lba } ∧ t.holdsBlocks c fun i => (d.getD i 0).toNat)
  ∧ (∀ (s : State) (g : BitVec 13) (c : Cmd) (n : Namespace), s.live g (State.isNvmeIo [8]) c → s.writeMayRun c →
    c.req.dealloc = false → s.namespaceOf c.req.ns = some n → Completes (exec (.writeZeroes g) s) fun t =>
      t.endedAs g.toNat doneOk ∧ t.holdsBlocks c fun _ => 0)
  ∧ (∀ (s : State) (g : BitVec 13) (c : Cmd) (n : BitVec 17), s.live g (State.isNvmeIo [2]) c → s.readReady c → c.sent = 0 →
    0 < c.req.blocks → c.req.blocks ≤ n.toNat → Completes (exec (.nvmeRead g n) s) fun t =>
      t.endedAs g.toNat doneOk ∧ t.out = .readData c.port c.req.cid 0 ((State.gotData c).take c.req.blocks) :: s.out)
  ∧ (∀ (s : State) (g : BitVec 13) (c : Cmd) (d : List Block), s.live g (State.isNvmeIo [5]) c → s.readReady c →
    State.gotData c = d.map (·.toNat) → Completes (exec (.nvmeCompare g d) s) fun t => t.endedAs g.toNat doneOk)
  ∧ (∀ (s : State) (g : BitVec 13) (c : Cmd), s.live g (State.isNvmeIo [0x0C]) c → s.readReady c →
    Completes (exec (.nvmeVerify g) s) fun t => t.endedAs g.toNat doneOk)
  ∧ (∀ (s : State) (g : BitVec 13) (c : Cmd), s.live g (State.isNvmeIo [9]) c → s.nvmeOpcodeOk c.req = true → c.req.cdw11 / 4 % 2 = 1 →
    c.req.ranges = [(c.lba / 16 * 16, 16)] → s.hosts.hzt = [] → s.hosts.cmds = [c] → s.mayReceive = true → s.journalRoom = true →
    s.bufferUsed + 32 ≤ s.bufferSize → Completes (exec (.datasetManagement g) s) fun t =>
      t.endedAs g.toNat doneOk ∧ Store.get none t.media.tables.map (State.mapUnit c.req.ns c.lba) = none)
  ∧ (∀ (s : State) (g : BitVec 13) (c : Cmd), s.live g (fun c => c.port < 4 && c.req.queue != 0 && !s.nvmeOpcodeOk c.req) c →
    Completes (exec (.invalidIoOpcode g) s) fun t => t.endedAs g.toNat invalidOpcode ∧ t.regs = s.regs)

/-- Zone management (R166, R229, R232, R233). The model's own choices in it: assumption 46. -/
def Obligations.NvmeZonesComplete : Prop :=
  (∀ (s : State) (g : BitVec 13) (c : Cmd) (n : Namespace), s.live g (fun c => State.isNvmeIo [0x79] c && c.req.cdw13 % 256 == 3) c →
    s.zoneFree c n → (s.zoneNamed c n).cond = .closed → Completes (exec (.zoneOpen g) s) fun t =>
      t.endedAs g.toNat doneOk ∧ (t.zoneNamed c n).cond = .explicitlyOpened)
  ∧ (∀ (s : State) (g : BitVec 13) (c : Cmd) (n : Namespace), s.live g (fun c => State.isNvmeIo [0x79] c && c.req.cdw13 % 256 == 1) c →
    s.zoneFree c n → (s.zoneNamed c n).cond = .implicitlyOpened → Completes (exec (.zoneClose g) s) fun t =>
      t.endedAs g.toNat doneOk ∧ (t.zoneNamed c n).cond =
        if (s.zoneNamed c n).wp = 0 then ZoneCond.empty else ZoneCond.closed)
  ∧ (∀ (s : State) (g : BitVec 13) (c : Cmd) (n : Namespace), s.live g (fun c => State.isNvmeIo [0x79] c && c.req.cdw13 % 256 == 2) c →
    s.zoneFree c n → (s.zoneNamed c n).cond = .implicitlyOpened → Completes (exec (.zoneFinish g) s) fun t =>
      t.endedAs g.toNat doneOk ∧ (t.zoneNamed c n).cond = .full ∧ (t.zoneNamed c n).wp = n.zoneBlocks)
  ∧ (∀ (s : State) (g : BitVec 13) (c : Cmd) (n : Namespace), s.live g (fun c => State.isNvmeIo [0x79] c && c.req.cdw13 % 256 == 4) c →
    s.zoneFree c n → (s.zoneNamed c n).cond = .full → Completes (exec (.zoneReset g) s) fun t =>
      t.endedAs g.toNat doneOk ∧ (t.zoneNamed c n).cond = .empty ∧ (t.zoneNamed c n).wp = 0)
  ∧ (∀ (s : State) (g : BitVec 13) (c : Cmd),
    s.live g (fun c => State.isNvmeIo [0x79] c && !([1, 2, 3, 4].contains (c.req.cdw13 % 256))) c →
    Completes (exec (.zoneMgmtSendUnsupported g) s) fun t => t.endedAs g.toNat invalidField ∧ t.regs = s.regs)
  ∧ (∀ (s : State) (g : BitVec 13) (c : Cmd) (n : Namespace), s.live g (State.isNvmeIo [0x7A]) c → c.req.cdw13 % 256 = 0 →
    s.namespaceOf c.req.ns = some n → n.zoned = true → n.zoneBlocks ≠ 0 → Completes (exec (.reportZones g) s) fun t =>
      t.endedAs g.toNat doneOk ∧ t.regs = s.regs ∧ t.media = s.media ∧ ∃ l, t.out = .zones c.port c.req.cid l :: s.out
        ∧ ∀ e ∈ l, e.2.1 = (s.zone (State.zoneKey c.req.ns e.1)).cond
          ∧ e.2.2 = e.1 * n.zoneBlocks + (s.zone (State.zoneKey c.req.ns e.1)).wp)

/-- The SAS links, frames and write transfers (R193, R197, R200, R201, R207, R219). The model's own choices in it: assumptions
39 and 40. -/
def Obligations.SasTransportCompletes : Prop :=
  (∀ (s : State) (p : Fin 2) (r : Fin 4), s.dom.core = true → Completes (exec (.sasLinkReset p r) s) fun t =>
    t.rd (R.SAS_RATE p.val) = min r.val (s.rd (R.SAS_MAX_RATE p.val)) ∧ (t.flag (R.SAS_FEC p.val) = true ↔ t.rd (R.SAS_RATE p.val) = 3)
      ∧ RegsOnly s t ∧ RegFrame s t [R.SAS_RATE p.val, R.SAS_FEC p.val])
  ∧ (∀ (s : State) (p : Fin 2) (n : Fin 32) (x : Nexus), s.nexusAt p.val n.val = some x → x.link = .connected →
    Completes (exec (.sasLinkLoss p (some n)) s) fun t =>
      t.nexusAt p.val n.val = some { x with link := .losing } ∧ RegFrame s t [R.NEXUS_CNT p.val])
  ∧ (∀ (s : State) (p : Fin 2) (n : Fin 32) (a : BitVec 64) (r : HostReq), s.dom.core = true → s.rd (R.SAS_RATE p.val) ≠ 0 →
    s.nexusAt p.val n.val = none → s.overlaps p.val n.val { r with queue := n.val } = false →
    (Store.get [] s.hosts.inlet p.val).length < 128 → Completes (exec (.sasCommandFrame p n a r) s) fun t =>
      Store.get [] t.hosts.inlet p.val = Store.get [] s.hosts.inlet p.val ++ [{ r with queue := n.val }]
        ∧ t.nexusAt p.val n.val = some { addr := a.toNat } ∧ RegFrame s t [R.NEXUS_CNT p.val, R.INLET_USED 0, R.INLET_USED 1])
  ∧ (∀ (s : State) (g : BitVec 13) (c : Cmd), s.live g State.isScsiWrite c → s.flag R.HOLDUP_OK = true → c.xferRdy = none →
    c.received < c.reserved → s.hosts.cmds = [c] → Completes (exec (.xferRdy g) s) fun t =>
      t.out = .xferRdy (c.port - 4) c.req.cid c.received (c.reserved - c.received) :: s.out ∧ t.regs = s.regs
        ∧ t.cmd g.toNat = some { c with xferRdy := some (c.received, c.reserved - c.received) })
  ∧ (∀ (s : State) (g : BitVec 13) (c : Cmd) (n : Fin 1025) (d : BitVec 8192), s.live g State.isScsiWrite c → s.mayReceive = true →
    c.xferRdy = some (0, 8) → c.received = 0 → c.partLen = 0 → Completes (exec (.sasDataFrame g 0 n d) s) fun t =>
      t.regs = s.regs ∧ t.media = s.media
        ∧ t.cmd g.toNat = some { c with partLen := n.val, part := c.part + d.toNat % 2 ^ (8 * n.val) })
  ∧ (∀ (s : State) (p : Fin 2) (n : Fin 32) (x : Nexus), s.nexusAt p.val n.val = some x → x.link = .losing → s.hosts.cmds = [] →
    s.hosts.stalled = none → s.rd R.OWN_STATE = 0 → Completes (exec (.iTNexusLoss p n) s) fun t =>
      t.nexusAt p.val n.val = some { x with link := .gone } ∧ ∀ r ∈ Store.get [] t.hosts.inlet p.val, r.queue ≠ n.val)

/-- SAS task management (R205, R206): the response of each function and what it aborts. The model's own choices in it:
assumptions 42 and 41. -/
def Obligations.TaskManagementCompletes : Prop :=
  (∀ (s : State) (p : Fin 2) (n : Fin 32) (m k : BitVec 16) (u : BitVec 8) (c : Cmd), s.nsExists (u.toNat + 1) = true →
    s.hosts.cmds.find? (State.sasCmd p.val n.val u.toNat k.toNat) = some c → c.silent = false →
    exec (.abortTask p n m u k false) s = .next ((s.abortSilent c).emit (.taskResponse p.val n.val m.toNat 0 1)))
  ∧ (∀ (s : State) (p : Fin 2) (n : Fin 32) (m : BitVec 16) (u : BitVec 8), s.nsExists (u.toNat + 1) = true →
    Completes (exec (.abortTaskSet p n m u) s) fun t => t.out.head? = some (.taskResponse p.val n.val m.toNat 0 0)
      ∧ t = (s.abortSet fun q r => q == p.val && r.queue == n.val && r.ns == u.toNat + 1).emit (.taskResponse p.val n.val m.toNat 0 0))
  ∧ (∀ (s : State) (p : Fin 2) (n : Fin 32) (m : BitVec 16) (u : BitVec 8), s.nsExists (u.toNat + 1) = true →
    Completes (exec (.clearTaskSet p n m u) s) fun t => t.out.head? = some (.taskResponse p.val n.val m.toNat 0 0)
      ∧ ∃ b : State, b = s.abortSet (State.ofLun u.toNat) ∧ t.hosts.cmds = b.hosts.cmds ∧ t.regs = b.regs)
  ∧ (∀ (s : State) (p : Fin 2) (n : Fin 32) (m : BitVec 16) (u : BitVec 8), s.nsExists (u.toNat + 1) = true →
    Completes (exec (.logicalUnitReset p n m u) s) fun t => t.out.head? = some (.taskResponse p.val n.val m.toNat 0 0)
      ∧ ∀ e ∈ t.hosts.modePages, e.1 % 32 ≠ u.toNat)
  ∧ (∀ (s : State) (p : Fin 2) (n : Fin 32) (m : BitVec 16), exec (.iTNexusReset p n m) s =
    .next ((s.nexusReset p.val n.val).emit (.taskResponse p.val n.val m.toNat 0 0)))
  ∧ (∀ (s : State) (p : Fin 2) (n : Fin 32) (m k : BitVec 16) (u : BitVec 8) (c : Cmd), s.nsExists (u.toNat + 1) = true →
    c ∈ s.hosts.cmds → State.sasCmd p.val n.val u.toNat k.toNat c = true →
    exec (.queryTask p n m u k) s = .next (s.emit (.taskResponse p.val n.val m.toNat 8 0)))
  ∧ (∀ (s : State) (p : Fin 2) (n : Fin 32) (m : BitVec 16) (u : BitVec 8), s.nsExists (u.toNat + 1) = true → s.hosts.cmds = [] →
    s.hosts.inlet = [] → s.hosts.stalled = none →
    exec (.queryTaskSet p n m u) s = .next (s.emit (.taskResponse p.val n.val m.toNat 0 0)))
  ∧ (∀ (s : State) (p : Fin 2) (n : Fin 32) (m : BitVec 16) (u : BitVec 8) (x : Nexus) (a : Nat), s.nsExists (u.toNat + 1) = true →
    s.nexusAt p.val n.val = some x → x.ua = [a] → exec (.queryAsynchronousEvent p n m u) s =
      .next (s.emit (.taskResponse p.val n.val m.toNat 8 (0x260000 + a))))
  ∧ (∀ (s : State) (p : Fin 2) (n : Fin 32) (m : BitVec 16) (u : BitVec 8), s.nsExists (u.toNat + 1) = true →
    exec (.tmfNotSupported p n m u) s = .next (s.emit (.taskResponse p.val n.val m.toNat 4 0)))

/-- SCSI commands that report (R195, R196, R203). The model's own choices in it: assumptions 41 and 15. -/
def Obligations.ScsiReportsComplete : Prop :=
  (∀ (s : State) (g : BitVec 13) (c : Cmd), s.scsi g [0x00] c → Completes (exec (.testUnitReady g) s) fun t => t.regs = s.regs
    ∧ t.endedAs g.toNat (if s.pm.sasStopped.testBit (c.port - 4) then doneSense 0 2 4 2 else doneOk))
  ∧ (∀ (s : State) (g : BitVec 13) (c : Cmd) (u : Nat), s.scsi g [0x03] c → s.nextUa (32 * (c.port - 4) + c.req.queue) = some u →
    Completes (exec (.requestSense g) s) fun t => t.endedAs g.toNat doneOk ∧ t.out = .fields c.port c.req.cid
      [("DESCRIPTOR", s.modeValue 0x0A 0 (c.req.ns - 1)), ("KEY", 6), ("ASC", u / 256), ("ASCQ", u % 256)] :: s.out)
  ∧ (∀ (s : State) (g : BitVec 13) (c : Cmd), s.scsi g [0x12] c → c.req.cdw10 % 2 = 0 → Completes (exec (.inquiry g) s) fun t =>
    t.endedAs g.toNat doneOk ∧ t.out = .fields c.port c.req.cid (s.deviceType c.req.ns) :: s.out ∧ t.regs = s.regs)
  ∧ (∀ (s : State) (g : BitVec 13) (c : Cmd), s.scsi g [0x1A, 0x5A] c → c.req.cdw10 % 64 = 0x1C → Completes (exec (.modeSense g) s) fun t =>
    t.endedAs g.toNat doneOk ∧ t.regs = s.regs ∧ ∃ l, t.out = .fields c.port c.req.cid (("PAGE", 0x1C) :: l) :: s.out)
  ∧ (∀ (s : State) (g : BitVec 13) (c : Cmd) (n : Namespace), s.scsi g [0x25, 0x9E] c → s.namespaceOf c.req.ns = some n →
    Completes (exec (.readCapacity g) s) fun t => t.endedAs g.toNat doneOk ∧ t.regs = s.regs ∧ t.out = .fields c.port c.req.cid
      [("LAST_LBA", n.size - 1), ("BLOCK_LENGTH", 4096), ("LBPME", Arith.ofBool !n.zoned), ("LBPRZ", Arith.ofBool !n.zoned)] :: s.out)
  ∧ (∀ (s : State) (g : BitVec 13) (c : Cmd), s.scsi g [0x4D] c → c.req.cdw10 % 64 = 0x2F → Completes (exec (.logSense g) s) fun t =>
    t.endedAs g.toNat doneOk ∧ t.out = .fields c.port c.req.cid [("TEMPERATURE", s.compositeTemp)] :: s.out)
  ∧ (∀ (s : State) (g : BitVec 13) (c : Cmd), s.scsi g [0xA0] c → Completes (exec (.reportLuns g) s) fun t =>
    t.endedAs g.toNat doneOk ∧ t.out = .fields c.port c.req.cid (s.nv.namespaces.map fun e => ("LUN", e.1 - 1)) :: s.out)
  ∧ (∀ (s : State) (g : BitVec 13) (c : Cmd), s.scsi g [0xA3] c → Completes (exec (.reportSupportedOpcodes g) s) fun t =>
    t.endedAs g.toNat doneOk ∧ t.out = .fields c.port c.req.cid (State.scsiOpcodes.map fun o => ("OPCODE", o)) :: s.out)
  ∧ (∀ (s : State) (g : BitVec 13) (c : Cmd), s.scsi g [0x3C] c → c.req.cdw10 = 0x0E → c.req.cdw11 % 4096 = 0 → c.req.cdw12 = 4096 →
    Completes (exec (.readBuffer g) s) fun t => t.endedAs g.toNat doneOk
      ∧ t.out = .readData c.port c.req.cid 0 [Store.get 0 s.hosts.fwStage (c.port * 65536 + c.req.cdw11 / 4096)] :: s.out)
  ∧ (∀ (s : State) (g : BitVec 13) (c : Cmd), s.live g (fun c => decide (4 ≤ c.port) && !s.scsiAccepted c.req) c →
    Completes (exec (.scsiInvalidOpcode g) s) fun t => t.endedAs g.toNat invalidOpcode ∧ t.regs = s.regs)

/-- SCSI commands that act (R111, R112, R203, R229, R232, R238, R650, R651). The model's own choices in it: assumptions 45 and
43. -/
def Obligations.ScsiActionsComplete : Prop :=
  (∀ (s : State) (g : BitVec 13) (c : Cmd), s.scsi g [0x04] c → c.req.cdw10 % 2 = 0 → s.nsExists c.req.ns = true → s.hosts.hzt = [] →
    s.mtuRuns = true → exec (.formatUnit g) s =
      .next ((((s.clearNamespace c.req.ns).journal).announceFormat c [c.req.ns]).finish c.tag doneOk))
  ∧ (∀ (s : State) (g : BitVec 13) (c : Cmd) (page : BitVec 6) (f : Fin 8) (v : BitVec 32), s.scsi g [0x15, 0x55] c → c.req.cdw10 = 0 →
    State.modePageList.contains page.toNat = true → Completes (exec (.modeSelect g page [(f, v)]) s) fun t =>
      t.endedAs g.toNat doneOk ∧ t.modeValue page.toNat f.val (State.modeScope c page.toNat) = v.toNat ∧ t.nv = s.nv ∧ t.regs = s.regs)
  ∧ (∀ (s : State) (g : BitVec 13) (c : Cmd), s.scsi g [0x1B] c → c.req.cdw10 = 0 → c.req.cdw12 % 2 = 0 →
    Completes (exec (.startStopUnit g) s) fun t => t.endedAs g.toNat doneOk ∧ t.pm.sasStopped.testBit (c.port - 4) = true
      ∧ Store.get 0 t.pm.request c.port = 4)
  ∧ (∀ (s : State) (g : BitVec 13) (c : Cmd) (n : BitVec 17), s.scsi g [0x28, 0x88] c → s.readReady c → c.sent = 0 →
    0 < c.req.blocks → c.req.blocks ≤ n.toNat → Completes (exec (.scsiRead g n) s) fun t => t.endedAs g.toNat doneOk
      ∧ t.out = .readData c.port c.req.cid 0 ((State.gotData c).take c.req.blocks) :: s.out)
  ∧ (∀ (s : State) (g : BitVec 13) (c : Cmd), s.scsi g [0x2A, 0x8A] c → s.mtuRuns = true → s.cmuRunning = true →
    c.req.blocks ≤ c.received → s.journalRoom = true → exec (.scsiWrite g) s = .next (s.journal.finish g.toNat doneOk))
  ∧ (∀ (s : State) (g : BitVec 13) (c : Cmd), s.scsi g [0x2F, 0x8F] c → c.req.cdw10 = 0 → s.readReady c →
    Completes (exec (.scsiVerify g) s) fun t => t.endedAs g.toNat doneOk)
  ∧ (∀ (s : State) (g : BitVec 13) (c : Cmd), s.scsi g [0x35, 0x91] c → exec (.synchronizeCache g) s = .next (s.finish g.toNat doneOk))
  ∧ (∀ (s : State) (g : BitVec 13) (c : Cmd) (n : Namespace), s.scsi g [0x93] c → s.writeMayRun c → c.req.dealloc = false →
    s.namespaceOf c.req.ns = some n → Completes (exec (.writeSame16 g 0) s) fun t =>
      t.endedAs g.toNat doneOk ∧ t.holdsBlocks c fun _ => 0)
  ∧ (∀ (s : State) (g : BitVec 13) (c : Cmd), s.scsi g [0x42] c → c.req.ranges = [(c.lba / 16 * 16, 16)] → s.hosts.hzt = [] →
    s.mayReceive = true → s.journalRoom = true → s.bufferUsed + 32 ≤ s.bufferSize → Completes (exec (.unmap g) s) fun t =>
      t.endedAs g.toNat doneOk ∧ Store.get none t.media.tables.map (State.mapUnit c.req.ns c.lba) = none)
  ∧ (∀ (s : State) (g : BitVec 13) (c : Cmd) (b : Block), s.scsi g [0x3B] c → c.req.cdw10 = 0x0E → c.req.cdw11 % 4096 = 0 →
    c.req.cdw12 = 4096 → Completes (exec (.writeBuffer g [b]) s) fun t => t.endedAs g.toNat doneOk ∧ t.regs = s.regs
      ∧ t.hosts.fwStage = Store.put 0 s.hosts.fwStage (c.port * 65536 + c.req.cdw11 / 4096) b.toNat)
  ∧ (∀ (s : State) (g : BitVec 13) (c : Cmd), s.scsi g [0x48] c → c.req.action = 3 → s.hosts.hzt = [] → s.mtuRuns = true →
    s.imagesConsumed = true → exec (.scsiSanitize g) s =
      .next (((s.cryptoErase c.req.ns).announceFormat c [c.req.ns]).finish c.tag doneOk))

/-- The zone commands of SAS (R203, R229, R232). The model's own choices in it: assumption 15. -/
def Obligations.ScsiZonesComplete : Prop :=
  (∀ (s : State) (g : BitVec 13) (c : Cmd) (n : Namespace), s.scsi g [0x94] c → c.req.action = 1 → s.zoneFree c n →
    (s.zoneNamed c n).cond = .explicitlyOpened → Completes (exec (.closeZone g) s) fun t => t.endedAs g.toNat doneOk
      ∧ (t.zoneNamed c n).cond = if (s.zoneNamed c n).wp = 0 then ZoneCond.empty else ZoneCond.closed)
  ∧ (∀ (s : State) (g : BitVec 13) (c : Cmd) (n : Namespace), s.scsi g [0x94] c → c.req.action = 2 → s.zoneFree c n →
    (s.zoneNamed c n).cond = .empty → Completes (exec (.finishZone g) s) fun t => t.endedAs g.toNat doneOk
      ∧ (t.zoneNamed c n).cond = .full ∧ (t.zoneNamed c n).wp = n.zoneBlocks)
  ∧ (∀ (s : State) (g : BitVec 13) (c : Cmd) (n : Namespace), s.scsi g [0x94] c → c.req.action = 3 → s.zoneFree c n →
    (s.zoneNamed c n).cond = .closed → Completes (exec (.openZone g) s) fun t => t.endedAs g.toNat doneOk
      ∧ (t.zoneNamed c n).cond = .explicitlyOpened)
  ∧ (∀ (s : State) (g : BitVec 13) (c : Cmd) (n : Namespace), s.scsi g [0x94] c → c.req.action = 4 → s.zoneFree c n →
    (s.zoneNamed c n).cond = .full → Completes (exec (.resetWritePointer g) s) fun t => t.endedAs g.toNat doneOk
      ∧ (t.zoneNamed c n).cond = .empty ∧ (t.zoneNamed c n).wp = 0)

/-- The MTU (R226, R233, R234, R239 to R242, R250 to R253). The model's own choices in it: assumptions 57 and 58. -/
def Obligations.MapCommandsComplete : Prop :=
  (∀ s : State, s.flag R.MAP_LOADED = false → s.mtuRuns = true → s.media.loadedOnce = true → s.media.replayed = none →
    s.media.tables.stamp ≤ s.nv.tables.stamp → Completes (exec .mapLoad s) fun t =>
      t.flag R.MAP_LOADED = true ∧ t.media.tables = State.restartTables s.nv.tables
        ∧ RegFrame s t [R.MAP_LOADED, R.RELOC_USED, R.ZONES_ACTIVE])
  ∧ (∀ (s : State) (c : Cmd), s.hosts.cmds = [c] → s.wantsSpace c = true → s.bufferUsed + s.spaceWanted c ≤ s.bufferSize →
    exec .bufferReserve s = .next ((s.modCmd c.tag fun c => { c with reserved := c.received + s.spaceWanted c }).refreshBuffer))
  ∧ (∀ (s : State) (i : BitVec 5) (z : BitVec 20) (n : Namespace), s.namespaceOf i.toNat = some n → s.mtuRuns = true →
    (s.zone (State.zoneKey i.toNat z.toNat)).context = true → State.isActive (s.zone (State.zoneKey i.toNat z.toNat)).cond = false →
    s.media.buffer = [] → s.media.ctxWait = [] → exec (.writeContextRelease i z) s =
      .next (s.modZone (State.zoneKey i.toNat z.toNat) fun z => { z with context := false }))
  ∧ (∀ (s : State) (n : Fin 4) (r : List (BitVec 13)) (p : MediaPlace) (d : OpDesc), s.mayIssue n.val = true →
    (d.opType = 1 ∨ (5 ≤ d.opType ∧ d.opType ≤ 8)) → Completes (exec (.mediaOpIssue n r p (some d)) s) fun t =>
      t.flag (R.FSQ_IDLE n.val) = false ∧ ∃ k, (t.fsqOf n.val).issued = some ⟨{ d with opId := k }, none, none⟩)
  ∧ (∀ s : State, s.mtuRuns = true → 262144 * s.rd R.JRNL_WM_256K ≤ s.media.tailBytes → s.media.reportWait = [] →
    Completes (exec .journalSegmentWrite s) fun t =>
      t.media.tailBytes = 0 ∧ t.media.segBytes = s.media.segBytes + s.media.tailBytes ∧ t.nv.tables = s.media.tables
        ∧ t.rd R.JRNL_TAIL_256K = 0 ∧ RegFrame s t [R.JRNL_TAIL_256K, R.JRNL_FULL_STALL])
  ∧ (∀ s : State, s.mtuRuns = true → 2 ^ 30 ≤ s.media.segBytes → Completes (exec .mapCheckpoint s) fun t =>
    t.media.segBytes = 0 ∧ t.nv.tables = s.media.tables ∧ t.regs = s.regs)
  ∧ (∀ (s : State) (f : Fin 32) (a c : BitVec 24) (b e : BitVec 12) (r : Reloc), s.mtuRuns = true → s.pm.backgroundStopped = false →
    s.rd R.THR_LEVEL = 0 → s.media.tables.reloc.length < 262144 → s.journalRoom = true →
    s.media.relocWait = [r] → r.loc = State.location f.val a.toNat b.toNat → (∀ x ∈ s.media.tables.reloc, x.2 ≠ r.loc) →
    Completes (exec (.relocateSector f a b c e) s) fun t =>
      t.relocated r.loc = State.location f.val c.toNat e.toNat ∧ t.media.relocWait = []
        ∧ ∃ x, Store.get none t.nv.sectors (State.location f.val c.toNat e.toNat) = some x ∧ x.user = r.user)
  ∧ (∀ (s : State) (n : Fin 4), s.reachable (R.ACT_FAIL_DECL n.val).addr = true → s.flag (R.ACT_FAIL_DECL n.val) = false →
    exec (.actuatorFailDeclare n) s = .next (((s.granting.wr (R.ACT_FAIL_DECL n.val) 1).zonesFailed n.val).actuatorLost n.val))
  ∧ (∀ (s : State) (h : Fin 32) (b : Bool), s.mtuRuns = true → Completes (exec (.headDeclaredUnable h b) s) fun t =>
    (if b then t.nv.noRead else t.nv.noWrite).testBit h.val = true ∧ ∀ z, s.everyZone = [z] →
      State.surfaceOf (s.bandLoc z.1 z.2 0) = h.val → (t.zone (State.zoneKey z.1 z.2)).cond =
        State.unableState (s.zone (State.zoneKey z.1 z.2)).cond b)

/-- The read/write channels (R292, R301 to R306, R319 to R326, R331, R339). The model's own choices in it: assumptions 65 and
66. -/
def Obligations.ChannelCommandsComplete : Prop :=
  (∀ (s : State) (k : Fin 8) (b : BitVec 12) (r : SectorRun) (i : Nat), (s.slot k.val).run = some r → r.write = false →
    r.next < r.count → b.toNat = r.first + r.next → s.bitAt (R.RG_ON (k.val / 2)) (k.val % 2) = true →
    (s.slot k.val).stopRead = false → s.llrSlotFor k.val = some i →
    Completes (exec (.sectorStart [{ stream := k, sector := b }]) s) fun t =>
      ∃ x, Store.get none t.abx.llr i = some x ∧ x.stream = k.val ∧ x.location = State.location r.surface r.track b.toNat
        ∧ (t.slot k.val).llr = some i ∧ (t.slot k.val).run = some { r with next := r.next + 1 } ∧ t.flag (R.BP_ACTIVE k.val) = false)
  ∧ (∀ (s : State) (n : Fin 4) (h : Fin 2) (p : BitVec 8), s.rd (R.DLC_NW n.val h.val) ≠ 0 → s.dom.med.testBit n.val = true →
    s.bitAt (R.WG_ON n.val) h.val = false → Completes (exec (.timingField n h p false) s) fun t =>
      t.rd (R.DLC_PHERR n.val h.val) = p.toNat ∧ t.flag (R.DLC_RATE_ERR n.val h.val) = false
        ∧ t.bitAt (R.DLC_COASTING n.val) h.val = false ∧ (t.slot (2 * n.val + h.val)).lostWedges = 0
        ∧ (p.toInt.natAbs ≤ 16 → 1 ≤ (s.slot (2 * n.val + h.val)).goodFields → t.bitAt (R.DLC_LOCK n.val) h.val = true))
  ∧ (∀ (s : State) (n : Fin 4) (h : Fin 2) (l : List (BitVec 6 × BitVec 6)) (d : BitVec 6) (i : Nat) (x : LlrSlot),
    (s.slot (2 * n.val + h.val)).llr = some i → Store.get none s.abx.llr i = some x → x.decided = false →
    Completes (exec (.syncMarkDecision n h l d) s) fun t => ∃ y, Store.get none t.abx.llr i = some y ∧ y.decided = true
      ∧ y.cands = State.chooseCands ((l.map fun c => (c.1.toInt, c.2.toNat)).filter fun c =>
          decide (-(s.rd (R.SYNC_WIN n.val) : Int) ≤ c.1) && decide (c.1 ≤ (s.rd (R.SYNC_WIN n.val) : Int)) && decide (c.2 ≤ s.rd (R.SYNC_THR n.val)))
      ∧ y.blind = y.cands.isEmpty ∧ y.predDist = d.toNat)
  ∧ (∀ (s : State) (n : Fin 4) (h : Fin 2) (l : List Span) (e : SectorSeen) (a : BitVec 64) (i : Nat) (x : LlrSlot),
    State.handing (s.slot (2 * n.val + h.val)) = some i → Store.get none s.abx.llr i = some x → x.decided = true → x.handed = false →
    Completes (exec (.llrHandover n h l e a) s) fun t => ∃ y, Store.get none t.abx.llr i = some y ∧ y.handed = true
      ∧ y.readyAt = a.toNat ∧ y.deadline = a.toNat + 1600 * s.rd (R.DL_US x.stream) ∧ y.spans = min 8 l.length
      ∧ (t.slot (2 * n.val + h.val)).ended = none ∧ (t.slot (2 * n.val + h.val)).llr =
        (if (s.slot (2 * n.val + h.val)).ended.isSome then (s.slot (2 * n.val + h.val)).llr else none)
      ∧ t.rd (R.SECT_READ_CNT n.val) = min (2 ^ 32 - 1) (s.rd (R.SECT_READ_CNT n.val) + 1))
  ∧ (∀ (s : State) (i : Fin 384) (x : LlrSlot) (g : Framing), Store.get none s.abx.llr i.val = some x → x.handed = true →
    x.framings = [g] → g.st = .failed → g.ofs ≠ 0 → g.kind ≠ 2 → x.memErr = false → x.eraseLimit = false → x.erased = [] →
    s.flag (R.REFRAME_EN (x.stream / 2)) = true → Completes (exec (.reframeRequest i) s) fun t =>
      ∃ y f, Store.get none t.abx.llr i.val = some y ∧ y.framings = [g, f] ∧ f.kind = 2 ∧ f.ofs = 0 ∧ f.budget = s.rd R.BEAD_ITER
        ∧ f.st = .ready)
  ∧ (∀ (s : State) (n : Fin 4), s.reachable (R.CHN_CNT_CLR n.val).addr = true → Completes (exec (.chnCntClr n) s) fun t =>
    t.rd (R.SECT_READ_CNT n.val) = 0 ∧ t.rd (R.BLIND_CNT n.val) = 0 ∧ t.rd (R.AMBIG_CNT n.val) = 0 ∧ t.rd (R.REFRAME_CNT n.val) = 0
      ∧ t.rd (R.DUAL_PASS_CNT n.val) = 0 ∧ t.rd (R.WG_CUT_CNT n.val) = 0 ∧ t.rd (R.WPH_FAULT_CNT n.val) = 0
      ∧ t.rd (R.ERASE_SECT_CNT n.val) = 0 ∧ t.rd (R.SYNC_MISS_CNT n.val) = 0 ∧ RegsOnly s t)

/-- The Abacus: beads, results and the recovery ladder (R343 to R361, R367). The model's own choices in it: assumptions 67 and
38. -/
def Obligations.AbacusCommandsComplete : Prop :=
  (∀ (s : State) (b i j : Nat) (x : LlrSlot) (f : Framing), s.dom.abx = true →
    (List.range s.usableBeads).find? (fun b => (Store.get none s.abx.beads b).isNone) = some b → s.nextReady = some (i, x, j) →
    x.framings[j]? = some f → Completes (exec .beadStart s) fun t =>
      Store.get none t.abx.beads b = some ⟨i, j, 0, min (s.rd R.BEAD_ITER) (f.budget - f.used)⟩ ∧ t.rd R.BEAD_TOKEN = (x.stream + 1) % 8)
  ∧ (∀ (s : State) (k : Fin 48) (r : BitVec 13) (c : Codeword) (b : Bead) (x : LlrSlot) (f : Framing),
    Store.get none s.abx.beads k.val = some b → Store.get none s.abx.llr b.slot = some x → x.framings[b.framing]? = some f →
    x.ending = false → x.memErr = false → r ≠ 0 → b.done + 1 < b.limit → Completes (exec (.beadIterationEnd k r c false) s) fun t =>
      Store.get none t.abx.beads k.val = some { b with done := b.done + 1 } ∧ t.regs = s.regs)
  ∧ (∀ (s : State) (i : Fin 384) (a : BitVec 64) (x : LlrSlot), Store.get none s.abx.llr i.val = some x → s.settled i.val x = true →
    Completes (exec (.decodeResult i a) s) fun t => ∃ d m, t.out.head? =
      some (.decodeResult x.dataAddr (State.framingWord x (State.verdict x).f) d m) ∧ t.rd R.LAST_DSW = d % 2 ^ 32
        ∧ ((State.verdict x).ok = true → m % 2 ^ 48 = x.location))
  ∧ (∀ (s : State) (l : BitVec 41) (a : BitVec 64) (e : Ladder) (k b : Nat), s.entryAtLoc l.toNat = some e → e.waiting = false →
    s.nextStep e = some (k, b) → Completes (exec (.ladderStepStart l a) s) fun t =>
      t.entryAtLoc l.toNat = some { e with step := k, begun := b + 1, waiting := true })
  ∧ (∀ (s : State) (l : BitVec 41) (m : BitVec 32) (c : RecoveryClock), s.clockOf (2 * l.toNat + 1) = some c → c.expired = false →
    c.limitMs ≤ m.toNat → s.abx.ladder = [] → Completes (exec (.recoveryLimitExpiry none l m) s) fun t =>
      t.clockOf (2 * l.toNat + 1) = some { c with expired := true } ∧ t.regs = s.regs)
  ∧ (∀ (s : State) (i : Fin 384), s.dom.abx = true → exec (.abxMemoryError i true) s = .next (s.detect 128)
    ∧ exec (.abxMemoryError i false) s = .next ((s.modLlr i.val fun x => { x with memErr := true }).detect 129))
  ∧ (∀ s : State, s.reachable R.ABX_CNT_CLR.addr = true → Completes (exec .abxCntClr s) fun t =>
    t.rd R.CW_DECODED = 0 ∧ t.rd R.CW_FAIL0 = 0 ∧ t.rd R.UNREC_CNT = 0 ∧ t.rd R.DL_MISS_CNT = 0 ∧ t.rd R.BP_SKIP_CNT = 0
      ∧ t.rd R.CRC_FAIL_CNT = 0 ∧ t.rd R.RCV_OK1 = 0 ∧ t.rd R.RCV_OK6 = 0 ∧ (∀ k < 8, t.rd (R.ITER_HIST k) = 0) ∧ RegsOnly s t)

/-- The format sequencers' words by their SEQ field (R371 to R375). The model's own choices in it: assumptions 68 and 69. -/
def Obligations.FsqSequencingCompletes : Prop :=
  (∀ (s : State) (n : Fin 4) (f : FsqFetch) (w : Nat), s.fetches n.val f w → Arith.field w 17 3 = 0 → exec (.fsqContinue n f) s =
    .next ((s.wordActs n.val w f.tie).wr (R.FSQ_PC n.val) (s.rd (R.FSQ_PC n.val) + 1)))
  ∧ (∀ (s : State) (n : Fin 4) (f : FsqFetch) (w : Nat), s.fetches n.val f w → Arith.field w 17 3 = 1 → exec (.fsqJump n f) s =
    .next ((s.wordActs n.val w f.tie).wr (R.FSQ_PC n.val) (Arith.field w 0 17)))
  ∧ (∀ (s : State) (n : Fin 4) (f : FsqFetch) (w : Nat), s.fetches n.val f w → Arith.field w 17 3 = 2 → exec (.fsqBranch n f) s =
    .next ((s.wordActs n.val w f.tie).wr (R.FSQ_PC n.val) (if (s.wordActs n.val w f.tie).wordCond n.val w f.events.toNat
      then Arith.field w 0 17 else s.rd (R.FSQ_PC n.val) + 1)))
  ∧ (∀ (s u : State) (n : Fin 4) (f : FsqFetch) (w : Nat), s.fetches n.val f w → Arith.field w 17 3 = 3 →
    u = s.wordActs n.val w f.tie → (u.fsqOf n.val).stack.length < 8 → Completes (exec (.fsqCall n f) s) fun t =>
      (t.fsqOf n.val).stack = (s.rd (R.FSQ_PC n.val) + 1) % 2 ^ 17 :: (u.fsqOf n.val).stack ∧ t.rd (R.FSQ_PC n.val) = Arith.field w 0 17)
  ∧ (∀ (s u : State) (n : Fin 4) (f : FsqFetch) (w a : Nat) (l : List Nat), s.fetches n.val f w → Arith.field w 17 3 = 4 →
    u = s.wordActs n.val w f.tie → (u.fsqOf n.val).stack = a :: l → Completes (exec (.fsqReturn n f) s) fun t =>
      (t.fsqOf n.val).stack = l ∧ t.rd (R.FSQ_PC n.val) = a % 2 ^ 17)
  ∧ (∀ (s u : State) (n : Fin 4) (f : FsqFetch) (w : Nat), s.fetches n.val f w → Arith.field w 17 3 = 5 →
    u = s.wordActs n.val w f.tie → u.wordCond n.val w f.events.toNat = false → Completes (exec (.fsqWait n f) s) fun t =>
      (t.fsqOf n.val).wait = some w ∧ t.flag (R.FSQ_WAITING n.val) = true ∧ RegFrame u t [R.FSQ_WAITING n.val])
  ∧ (∀ (s u : State) (n : Fin 4) (f : FsqFetch) (w : Nat) (i : Issued), s.fetches n.val f w → Arith.field w 17 3 = 6 →
    u = s.wordActs n.val w f.tie → (u.fsqOf n.val).issued = some i → Completes (exec (.fsqDispatch n f) s) fun t =>
      (t.fsqOf n.val).current = some i ∧ (t.fsqOf n.val).issued = none ∧ t.flag (R.FSQ_IDLE n.val) = false
        ∧ t.rd (R.FSQ_PC n.val) = ((if u.rd (R.EXEC_SRC n.val) = 0 then 0 else 0x10000) + 8 * i.desc.opType) % 2 ^ 17)
  ∧ (∀ (s : State) (n : Fin 4) (b : Bool) (e : BitVec 4) (w : Nat), s.flag (R.MCHK n.val) = false → (s.fsqOf n.val).wait = some w →
    s.wordCond n.val w e.toNat = true → Completes (exec (.fsqWaitEnd n b e) s) fun t =>
      (t.fsqOf n.val).wait = none ∧ t.flag (R.FSQ_WAITING n.val) = false
        ∧ t.rd (R.FSQ_PC n.val) = (s.rd (R.FSQ_PC n.val) + 1) % 2 ^ 17 ∧ RegFrame s t [R.FSQ_WAITING n.val, R.FSQ_PC n.val])
  ∧ (∀ (s : State) (n : Fin 4), s.flag (R.FSQ_WAITING n.val) = true → exec (.fsqWatchdog n) s =
    .next (s.machineCheck n.val 4 (s.rd (R.FSQ_PC n.val))))

/-- The format sequencers' transfers (R376, R377): what each does, the sequencer going on at the next word. The model's own
choices in it: assumptions 69 and 71. -/
def Obligations.FsqTransfersComplete : Prop :=
  (∀ (s : State) (n : Fin 4) (f : FsqFetch) (w : Nat) (d : OpDesc), s.fetches n.val f w → transferWord 1 w → s.opDesc n.val = some d →
    exec (.headProfile n f) s = .next ((s.headProfile n.val (Arith.field w 84 1) (State.descSlot d (Arith.field w 84 1))).wr
      (R.FSQ_PC n.val) (s.rd (R.FSQ_PC n.val) + 1)))
  ∧ (∀ (s : State) (n : Fin 4) (f : FsqFetch) (w h : Nat) (i : Issued), s.fetches n.val f w → transferWord 2 w →
    h = Arith.field w 84 1 → (s.fsqOf n.val).current = some i → Completes (exec (.readArm n f) s) fun t =>
      ∃ r, (t.slot (2 * n.val + h)).run = some r ∧ r.write = false ∧ r.track = (State.descSlot i.desc h).track
        ∧ r.first = (State.descSlot i.desc h).start ∧ r.count = (State.descSlot i.desc h).count ∧ r.next = 0
        ∧ RegFrame s t [R.FSQ_PC n.val])
  ∧ (∀ (s : State) (n : Fin 4) (f : FsqFetch) (w h : Nat) (i : Issued), s.fetches n.val f w → transferWord 3 w →
    h = Arith.field w 84 1 → (s.fsqOf n.val).current = some i → Completes (exec (.writeArm n f) s) fun t =>
      ∃ r, (t.slot (2 * n.val + h)).run = some r ∧ r.write = true ∧ r.track = (State.descSlot i.desc h).track
        ∧ r.first = (State.descSlot i.desc h).start ∧ r.count = (State.descSlot i.desc h).count ∧ r.next = 0
        ∧ RegFrame s t [R.FSQ_PC n.val])
  ∧ (∀ (s : State) (n : Fin 4) (f : FsqFetch) (w : Nat) (d : OpDesc), s.fetches n.val f w → transferWord 4 w → s.opDesc n.val = some d →
    Completes (exec (.seek n f) s) fun t => (t.servo n.val).seekReq = some (d.slotMask % 4, d.slot0.track, d.slot1.track)
      ∧ RegFrame s t [R.FSQ_PC n.val])
  ∧ (∀ (s : State) (n : Fin 4) (f : FsqFetch) (w : Nat), s.fetches n.val f w → transferWord 5 w → Completes (exec (.maOffset n f) s) fun t =>
    (if Arith.field w 84 1 = 0 then (t.servo n.val).ofsReq0 else (t.servo n.val).ofsReq1) =
      some (64 * Arith.signed 16 (Arith.field w 128 16), true) ∧ RegFrame s t [R.FSQ_PC n.val])
  ∧ (∀ (s : State) (n : Fin 4) (f : FsqFetch) (w : Nat), s.fetches n.val f w → transferWord 6 w → exec (.report n f) s =
    .next ((s.report n.val).wr (R.FSQ_PC n.val) (s.rd (R.FSQ_PC n.val) + 1)))
  ∧ (∀ (s : State) (n : Fin 4) (f : FsqFetch) (w : Nat), s.fetches n.val f w → transferWord 7 w → Completes (exec (.jdOverride n f) s) fun t =>
    (t.slot (2 * n.val + Arith.field w 84 1)).jdMode = some (Arith.field w 128 16 % 4) ∧ RegFrame s t [R.FSQ_PC n.val])
  ∧ (∀ (s : State) (n : Fin 4) (f : FsqFetch) (w : Nat), s.fetches n.val f w → transferWord 8 w → Completes (exec (.ovrClear n f) s) fun t =>
    (t.slot (2 * n.val + Arith.field w 84 1)).jdMode = none ∧ RegFrame s t [R.FSQ_PC n.val])
  ∧ (∀ (s : State) (n : Fin 4) (f : FsqFetch) (w : Nat), s.fetches n.val f w → transferWord 9 w → Completes (exec (.loadUnload n f) s) fun t =>
    (t.servo n.val).loadReq = some (Arith.field w 128 16 == 1) ∧ RegFrame s t [R.FSQ_PC n.val])

/-- The preamplifier links, machine checks and banks (R371, R383 to R387, R391 to R393, R397). The model's own choices in it:
assumptions 71, 70 and 72. -/
def Obligations.FsqServiceCompletes : Prop :=
  (∀ (s : State) (n : Fin 4) (f : FsqFetch) (w : Nat), s.fetches n.val f w → Arith.field w 52 3 = 1 → Arith.field w 80 4 = 0 →
    Arith.field w 17 3 = 0 → (∀ i < 4, w.testBit (48 + i) = false) → Arith.field w 87 2 = 0 → w.testBit 89 = false →
    exec (.psiWrite n f) s = .next ((s.psiPush n.val 0 [{ read := false, addr := Arith.field w 55 7, data := Arith.field w 64 16 }]
      f.tie).wr (R.FSQ_PC n.val) (s.rd (R.FSQ_PC n.val) + 1)))
  ∧ (∀ (s : State) (n : Fin 4) (f : FsqFetch) (w : Nat), s.fetches n.val f w → Arith.field w 52 3 = 2 → Arith.field w 80 4 = 0 →
    Arith.field w 17 3 = 0 → (∀ i < 4, w.testBit (48 + i) = false) → Arith.field w 87 2 = 0 → w.testBit 89 = false →
    exec (.psiRead n f) s = .next ((s.psiPush n.val 0 [{ read := true, addr := Arith.field w 55 7 }] f.tie).wr
      (R.FSQ_PC n.val) (s.rd (R.FSQ_PC n.val) + 1)))
  ∧ (∀ (s : State) (n : Fin 4), s.reachable (R.PSI_D_GO n.val).addr = true → s.flag (R.PSI_D_BUSY n.val) = false →
    (s.fsqOf n.val).psiRun = none → (∀ p < 3, s.psiAt n.val p = []) →
    Completes (exec (.psiDGo n false) s) fun t => t.flag (R.PSI_D_BUSY n.val) = true ∧ t.rd (R.PSI_TOKEN n.val) = 0
      ∧ ∃ f, (t.fsqOf n.val).psiRun = some (2, f) ∧ f.read = s.flag (R.PSI_D_RW n.val) ∧ f.addr = s.rd (R.PSI_D_ADDR n.val))
  ∧ (∀ (s : State) (n : Fin 4) (b : BitVec 16) (f : PsiFrame), (s.fsqOf n.val).psiRun = some (0, f) → f.read = true → f.addr ≠ 0x1F →
    (∀ p < 3, s.psiAt n.val p = []) → Completes (exec (.psiFrameEnd n true b) s) fun t =>
      t.rd (R.PSI_RDATA n.val) = b.toNat ∧ (t.fsqOf n.val).psiRun = none ∧ (t.fsqOf n.val).psiFail = false
        ∧ RegFrame s t [R.PSI_RDATA n.val])
  ∧ (∀ (s : State) (n : Fin 4), s.reachable (R.MC_RESTART n.val).addr = true → s.flag (R.MCHK n.val) = true →
    s.flag (R.SWAP_PEND n.val) = false → Completes (exec (.mcRestart n) s) fun t =>
      t.flag (R.MCHK n.val) = false ∧ t.flag (R.WSQ_STOPPED n.val 0) = false ∧ t.flag (R.WSQ_STOPPED n.val 1) = false
        ∧ t.rd (R.FSQ_PC n.val) = (if s.rd (R.EXEC_SRC n.val) = 0 then 0 else 0x10000)
        ∧ RegFrame s t [R.REG_TOKEN, R.MCHK n.val, R.WSQ_STOPPED n.val 0, R.WSQ_STOPPED n.val 1, R.FSQ_PC n.val])
  ∧ (∀ (s : State) (n : Fin 4), s.reachable (R.SWAP_REQ n.val).addr = true → s.rd (R.SWAP_TO n.val) = 0 →
    Completes (exec (.swapReq n) s) fun t => t.flag (R.SWAP_PEND n.val) = true ∧ (t.fsqOf n.val).swapTo = 0
      ∧ RegFrame s t [R.REG_TOKEN, R.SWAP_PEND n.val])
  ∧ (∀ (s : State) (n : Fin 4), s.reachable (R.LOAD_GO n.val).addr = true → s.flag (R.LOAD_BUSY n.val) = false →
    s.flag (R.SWAP_PEND n.val) = false → s.bankInUse n.val (s.rd (R.LOAD_BANK n.val)) = false → Completes (exec (.loadGo n) s) fun t =>
      t.flag (R.LOAD_BUSY n.val) = true ∧ ∃ l, (t.fsqOf n.val).load = some l ∧ l.bank = s.rd (R.LOAD_BANK n.val)
        ∧ l.image = s.imageAt (s.rd (R.LOAD_ADDR_LO n.val) + 2 ^ 32 * s.rd (R.LOAD_ADDR_HI n.val)))
  ∧ (∀ (s : State) (n : Fin 4) (l : UcodeLoad), (s.fsqOf n.val).load = some l → l.code ≠ 0 →
    Completes (exec (.microcodeLoadComplete n) s) fun t => (t.fsqOf n.val).load = none ∧ t.flag (R.LOAD_BUSY n.val) = false
      ∧ t.rd (R.LOAD_CODE n.val) = l.code % 2 ^ (R.LOAD_CODE n.val).width ∧ t.linePending (122 + 4 * n.val) = true ∧ t.ucode = s.ucode)
  ∧ (∀ (s : State) (n : Fin 4) (h : Fin 2), s.reachable (R.WSQ_SRC n.val h.val).addr = true →
    exec (.wsqSrcWrite n h 0) s = .next (s.granting.wr (R.WSQ_SRC n.val h.val) 0))
  ∧ (∀ (s : State) (n : Fin 4) (h : Fin 2) (b : Bool), s.dom.med.testBit n.val = true → s.flag (R.WSQ_STOPPED n.val h.val) = false →
    s.bitAt (R.DLC_LOCK n.val) h.val = true → s.flag (R.WSQ_RUN n.val h.val) = false → exec (.wsqStart n h b []) s =
      .next ((s.wr (R.WSQ_PC n.val h.val) (s.rd (R.WSQ_ENTRY n.val h.val))).wr (R.WSQ_RUN n.val h.val) 1))
  ∧ (∀ (s : State) (n : Fin 4), s.reachable (R.FSQ_CNT_CLR n.val).addr = true → Completes (exec (.fsqCntClr n) s) fun t =>
    t.rd (R.MCHK_CNT n.val) = 0 ∧ t.rd (R.PSI_ERR_CNT n.val) = 0 ∧ t.rd (R.OPS_DONE n.val) = 0 ∧ RegsOnly s t
      ∧ RegFrame s t [R.REG_TOKEN, R.MCHK_CNT n.val, R.PSI_ERR_CNT n.val, R.OPS_DONE n.val])

/-- Servo wedges, frames and current loops (R402, R403, R405, R408, R420, R425 to R429, R442, R445, R447, R467). The model's
own choices in it: assumptions 73, 75 and 74. -/
def Obligations.ServoCommandsComplete : Prop :=
  (∀ (s : State) (n : Fin 4) (h : Fin 2) (f : WedgeFields) (b : Bool), s.dom.svt = true → s.underServo n.val = false → f.sam = true →
    (s.bitAt (R.RG_ON n.val) h.val = true ∨ s.bitAt (R.DLC_LOCK n.val) h.val = true) →
    Completes (exec (.wedgeStrobe n h f b) s) fun t => (State.loopOf (t.servo n.val) h.val).sam = some f.time.toNat
      ∧ (State.loopOf (t.servo n.val) h.val).track = f.track.toNat ∧ t.regs = s.regs)
  ∧ (∀ (s : State) (f : FrameInput), s.dom.svt = true → s.svt.phase = 0 → s.rd R.PSTATE_NOW ≠ 1 →
    exec (.servoFrame f) s = .next (s.servoFrame f))
  ∧ (∀ (s : State) (n : Fin 4), s.rd (R.FE_TIME n.val) < (s.servo n.val).feRun → (s.servo n.val).feDone = false →
    ∃ u : State, exec (.followingErrorFault n) s = .next (u.detect (272 + n.val)) ∧ u.flag (R.FE_FAULT n.val) = true
      ∧ u.linePending (140 + n.val) = true ∧ RegFrame s u [R.FE_FAULT n.val, R.FE_FAULT_CNT n.val, R.PEND_BITS ((140 + n.val) / 32)])
  ∧ (∀ (s : State) (n : Fin 4), s.coastOver n.val = true → ∃ u : State, exec (.coastRetract n) s = .next ((u.detect (276 + n.val)).retract n.val)
    ∧ u.flag (R.COAST_RETRACT n.val) = true ∧ u.linePending (140 + n.val) = true)
  ∧ (∀ (s : State) (n : Fin 4) (h : Fin 2), s.underServo n.val = true → s.slotActive n.val h.val = true → s.otherGood n.val h.val = true →
    s.rd (R.SV_COAST_MAX n.val) < (State.loopOf (s.servo n.val) h.val).lossRun → ∃ u : State,
      exec (.slotDrop n h) s = .next (u.detect (280 + n.val)) ∧ u.bitAt (R.SLOT_DROP n.val) h.val = true
        ∧ u.flag (R.SLOT_PLACED (2 * n.val + h.val)) = false ∧ (State.loopOf (u.servo n.val) h.val).dropped = true)
  ∧ (∀ (s : State) (n : Fin 4) (i : BitVec 16) (r : BitVec 12) (w : BitVec 8), Completes (exec (.vcmSubsample n i r w 0) s) fun t =>
    t.rd (R.VCM_I_NOW n.val) = i.toNat ∧ t.flag (R.VCM_IRMS_LIM n.val) = decide (1200 ≤ r.toNat)
      ∧ (∀ m < 4, t.flag (R.VCM_PWR_LIM m) = decide (s.rd R.VCM_PWR_MAX < w.toNat))
      ∧ (t.servo n.val).duty = Config.freeValue s.freeCount)
  ∧ (∀ (s : State) (b : Bool) (m : BitVec 16), s.rd R.SHK_THR ≤ m.toNat → Completes (exec (.shockTrip b m) s) fun t =>
    t.flag R.SHOCK_HOLD = true ∧ t.svt.calm = 0 ∧ ∀ n < 4, t.flag (R.WRITE_SAFE n) = false)
  ∧ (∀ s : State, s.rd R.SHOCK_HOLD_WEDGES ≤ s.svt.calm → exec .shockHoldEnd s = .next (s.wr R.SHOCK_HOLD 0))
  ∧ (∀ (s : State) (m : BitVec 4), s.reachable R.COEF_APPLY.addr = true → exec (.coefApply m) s =
    .next (s.granting.wr R.COEF_PEND (s.rd R.COEF_PEND ||| m.toNat)))
  ∧ (∀ (s : State) (n : Fin 4), s.reachable (R.SV_CNT_CLR n.val).addr = true → Completes (exec (.svCntClr n) s) fun t =>
    t.rd (R.LOST_WEDGE_CNT n.val) = 0 ∧ t.rd (R.FROZEN_CNT n.val) = 0 ∧ t.rd (R.SV_OVR_CNT n.val) = 0 ∧ t.rd (R.FE_FAULT_CNT n.val) = 0
      ∧ t.rd (R.SV_REQ_REJ n.val) = 0 ∧ RegsOnly s t)

/-- Retract, park and load (R163, R431 to R435, R445, R611). The model's own choices in it: assumptions 76 and 77. -/
def Obligations.ParkAndLoadComplete : Prop :=
  (∀ (s : State) (n : Fin 4), exec (.retract n) s = .next (s.retract n.val))
  ∧ (∀ (s : State) (n : Fin 4), (s.rd (R.VCM_STATE n.val) = 2 ∨ s.rd (R.VCM_STATE n.val) = 3) →
    exec (.crashStopDetect n) s = .next (s.wr (R.VCM_STATE n.val) 4))
  ∧ (∀ (s : State) (n : Fin 4), s.rd (R.VCM_STATE n.val) = 4 → s.boot.actResetWait.testBit n.val = false →
    Completes (exec (.parkHoldDone n) s) fun t => t.rd (R.VCM_STATE n.val) = 5 ∧ t.flag (R.PARKED n.val) = true
      ∧ t.rd (R.SV_MODE n.val) = 7 ∧ (t.servo n.val).inUse = 0 ∧ (t.servo n.val).duty = 0)
  ∧ (∀ (s : State) (n : Fin 4), (s.servo n.val).parking = true → s.flag (R.SV_SETTLED n.val) = true → ∃ u : State,
    exec (.parkHandover n) s = .next (u.writeUnsafe n.val) ∧ u.rd (R.VCM_STATE n.val) = 3 ∧ u.rd (R.SV_MODE n.val) = 6
      ∧ u.flag (R.SV_SETTLED n.val) = false ∧ (u.servo n.val).parking = false
      ∧ RegFrame s u [R.VCM_STATE n.val, R.SV_MODE n.val, R.SV_SETTLED n.val])
  ∧ (∀ (s : State) (n : Fin 4), s.rd (R.VCM_STATE n.val) = 6 → (s.servo n.val).slot0.acquired = false → (s.servo n.val).tries < 2 →
    Completes (exec (.loadAcquireTimeout n) s) fun t => (t.servo n.val).tries = (s.servo n.val).tries + 1 ∧ t.regs = s.regs)
  ∧ (∀ (s : State) (n : Fin 4), s.rd (R.VCM_STATE n.val) = 6 → (s.servo n.val).slot0.acquired = true →
    s.bitAt (R.DLC_LOCK n.val) 0 = true → Completes (exec (.loadComplete n) s) fun t =>
      t.rd (R.VCM_STATE n.val) = 1 ∧ t.rd (R.SV_MODE n.val) = 4 ∧ t.flag (R.SV_SETTLED n.val) = true ∧ t.media.loadedOnce = true
        ∧ t.linePending 155 = true
        ∧ RegFrame s t [R.VCM_STATE n.val, R.SV_MODE n.val, R.SV_SETTLED n.val, R.SV_COAST_NOW n.val, R.GOOD_WEDGES n.val,
          R.LOAD_CNT n.val, R.PEND_BITS 4])

/-- The triad of lanes (R406, R457, R459, R463, R465 to R469). The model's own choices in it: assumptions 78 and 79. -/
def Obligations.TriadCommandsComplete : Prop :=
  (∀ s : State, s.dom.svt = true → 1 ≤ s.svt.phase → s.svt.phase ≤ 4 → (List.range 4).filter s.voting = [0, 1, 2] →
    Completes (exec (.sliceDeadline .agrees .agrees .agrees .missing false 0) s) fun t => t.svt.phase = s.svt.phase + 1
      ∧ ∃ u : State, u = s.sliceDone (s.svt.phase - 1) ∧ t.regs = u.regs ∧ t.svt.acts = u.svt.acts)
  ∧ (∀ s : State, s.dom.svt = true → s.svt.phase = 5 → Completes (exec (.checkpoint []) s) fun t =>
    t.svt.phase = 0 ∧ t.rd R.CKPT_BUF = 1 - s.rd R.CKPT_BUF ∧ t.rd R.CKPT_SEQ = s.svt.seq % 2 ^ 16)
  ∧ (∀ (s : State) (l : Fin 4), s.dom.svt = true → s.voting l.val = true → s.rd R.DIS_RETIRE_THR ≤ s.rd (R.LANE_WIN_DIS l.val) →
    exec (.laneRetire (.window l)) s = .next (s.retire l.val 1))
  ∧ (∀ s : State, s.svt.warmDue = true → s.dom.svt = true → s.flag R.WARM_BUSY = false →
    Completes (exec (.laneWarmStart .retirement) s) fun t => t.rd (R.LANE_STATE 3) = 1 ∧ t.flag R.WARM_BUSY = true
      ∧ t.rd R.WARM_LANE = 3 ∧ t.rd R.WARM_PHASE = 2 ∧ RegFrame s t [R.REG_TOKEN, R.LANE_STATE 3, R.WARM_BUSY, R.WARM_LANE, R.WARM_PHASE])
  ∧ (∀ s : State, s.flag R.WARM_BUSY = true → s.rd R.WARM_PHASE = 2 → exec .warmCopyComplete s = .next (s.wr R.WARM_PHASE 3))
  ∧ (∀ s : State, s.flag R.WARM_BUSY = true → s.rd R.WARM_PHASE = 3 → s.svt.clean = true → s.svt.phase = 0 →
    exec .warmStateLoad s = .next (s.wr R.WARM_PHASE 4))
  ∧ (∀ (s : State) (c : BitVec 16), s.flag R.WARM_BUSY = true → s.rd R.WARM_PHASE = 4 → s.svt.phase ≤ 1 → s.rd R.COEF_PEND = 0 →
    Completes (exec (.laneJoin c) s) fun t => t.rd (R.LANE_STATE (s.rd R.WARM_LANE)) = 2 ∧ t.flag R.WARM_BUSY = false
      ∧ t.rd R.WARM_PHASE = 0 ∧ t.rd R.WARM_TIME_LAST = c.toNat ∧ t.linePending 150 = true)
  ∧ (∀ (s : State) (l : Fin 4), s.reachable R.LANE_BIST.addr = true → (s.rd (R.LANE_STATE l.val) = 0 ∨ s.rd (R.LANE_STATE l.val) = 3) →
    Completes (exec (.laneBist (BitVec.ofNat 4 (2 ^ l.val))) s) fun t => t.rd (R.LANE_STATE l.val) = 4 ∧ t.flag R.BIST_BUSY = true
      ∧ RegFrame s t [R.REG_TOKEN, R.LANE_STATE l.val, R.BIST_BUSY])
  ∧ (∀ (s : State) (l : Fin 4), s.rd (R.LANE_STATE l.val) = 4 → Completes (exec (.laneBistDone l false) s) fun t =>
    t.rd (R.LANE_STATE l.val) = 5 ∧ t.rd (R.LANE_CAUSE l.val) = 4 ∧ RegFrame s t [R.LANE_STATE l.val, R.LANE_CAUSE l.val, R.BIST_BUSY])
  ∧ (∀ s : State, s.reachable R.TRIAD_CNT_CLR.addr = true → Completes (exec .triadCntClr s) fun t => t.rd R.DUAL_MISMATCH_CNT = 0
    ∧ t.rd R.TRIPLE_MISMATCH_CNT = 0 ∧ t.rd R.VOTER_ERR_CNT = 0 ∧ t.rd R.WARM_STARTS = 0 ∧ t.rd R.RETIREMENTS = 0
    ∧ (∀ l < 4, t.rd (R.LANE_DIS_CNT l) = 0 ∧ t.rd (R.LANE_CE_CNT l) = 0) ∧ RegsOnly s t)

/-- The assist loops and the calibration tables (R482, R484, R486, R489, R498 to R501, R509, R511). The model's own choices in
it: assumptions 80 and 81. -/
def Obligations.AssistCommandsComplete : Prop :=
  (∀ (s : State) (n : Fin 4) (b : Bool), s.dom.svt = true → s.svt.phase = 1 → s.rd R.FRAME_WEDGE % 16 = (4 * n.val + 14) % 16 →
    s.flag (R.SLOT_PLACED (2 * n.val)) = true → s.flag (R.SLOT_PLACED (2 * n.val + 1)) = false → Completes (exec (.htsRead n b) s) fun t =>
      (t.asdSlot (2 * n.val)).asked = true ∧ (t.asdSlot (2 * n.val)).reading = none ∧ RegFrame s t [R.PSI_TOKEN n.val])
  ∧ (∀ (s : State) (n : Fin 4) (b : Bool) (x : Int), s.flag (R.SLOT_PLACED (2 * n.val)) = true →
    s.flag (R.SLOT_PLACED (2 * n.val + 1)) = false → s.bitAt R.ASST_FORCED n.val = false → s.bitAt R.ASST_EN n.val = true →
    s.assistFitted = true → s.rd R.PSTATE_NOW = 0 → (s.asdSlot (2 * n.val)).due = some x → exec (.assistCodeWrite n b) s =
      .next ((s.slotCode (2 * n.val) x b).assistCode (2 * n.val + 1) false))
  ∧ (∀ (s : State) (j : Fin 32) (a : AgeSum), s.flag R.AGE_EN = true → s.runsAssist j.val = false →
    a = Store.get {} s.cal.age j.val → 1024 * s.rd R.AGE_N_1K ≤ a.frames → Completes (exec (.ageStep j) s) fun t =>
      t.rd (R.AGE_GAIN j.val) = (Arith.iclamp (s.rd R.AGE_MIN) (s.rd R.AGE_LIMIT_THR) (State.agedGain (s.rd (R.AGE_GAIN j.val)) a
          (s.rd R.AGE_SHIFT) (Config.freeValue s.freeCount))).toNat % 2 ^ 16
        ∧ t.rd (R.AGE_ACC_1K j.val) = 0 ∧ t.rd R.SET_DIRTY = 1)
  ∧ (∀ (s : State) (n : Fin 4), s.reachable R.ASST_FORCED.addr = true → s.flag R.PF_ACTIVE = false → s.rd (R.VCM_STATE n.val) ≠ 2 →
    s.boundaryOn = false → exec (.assistForceClear (BitVec.ofNat 4 (2 ^ n.val))) s = .next (s.granting.clrBitAt R.ASST_FORCED n.val))
  ∧ (∀ s : State, s.reachable R.ASD_CNT_CLR.addr = true → Completes (exec .asdCntClr s) fun t =>
    t.rd R.ASST_CLAMP_CNT = 0 ∧ t.rd R.HTS_STALE_CNT = 0 ∧ RegsOnly s t ∧ RegFrame s t [R.REG_TOKEN, R.ASST_CLAMP_CNT, R.HTS_STALE_CNT])
  ∧ (∀ s : State, s.reachable R.TBL_DATA.addr = true → Completes (exec (.tblDataAccess none) s) fun t =>
    t.out = .read R.TBL_DATA.addr (Store.get 0 s.cal.profile (s.rd R.TBL_ADDR / 4)) :: s.out ∧ RegFrame s t [R.REG_TOKEN, R.TBL_ADDR]
      ∧ t.rd R.TBL_ADDR = (4 * (s.rd R.TBL_ADDR / 4 + 1)) % 2 ^ R.TBL_ADDR.width)
  ∧ (∀ (s : State) (i : BitVec 13) (e : CalRamp), s.rampAt i.toNat = some e → s.boundaryOk e.target = true → e.steps ≤ e.step + 1 →
    exec (.rampStep i) s = .next ((s.applyTarget e.target e.new e.new2).setRamps (s.cal.ramps.eraseIdx i.toNat)))
  ∧ (∀ (s : State) (i : BitVec 13) (e : CalRamp), s.rampAt i.toNat = some e → e.ramp = true →
    (s.count R.RAMP_FALLBACK_CNT).consumerRuns e.target = true → exec (.rampFallback i) s =
      .next ((s.count R.RAMP_FALLBACK_CNT).setRamps (s.cal.ramps.set i.toNat { e with step := e.steps - 1 })))

/-- Calibration runs and the calibration store (R491 to R495, R502 to R505). The model's own choices in it: assumptions 82, 83
and 84. -/
def Obligations.CalibrationCommandsComplete : Prop :=
  (∀ (s u : State) (k : Fin 4) (ty : BitVec 4) (i : BitVec 5) (b : Bool) (n : Nat) (r : CalRun),
    s.reachable (R.RUN_START k.val).addr = true →
    u = ((s.granting.wr (R.RUN_TYPE k.val) ty.toNat).wr (R.RUN_UNIT k.val) i.toNat).wr (R.RUN_SLOT k.val) (Arith.ofBool b) →
    n = (runActuator { type := ty.toNat, unit := i.toNat }).getD 0 →
    r = { type := ty.toNat, unit := i.toNat, slot := Arith.ofBool b, head0 := (s.slot (2 * n)).head, head1 := (s.slot (2 * n + 1)).head } →
    u.refuses k.val r = false → exec (.runStart k ty i b) s = .next (u.runBegin k.val r))
  ∧ (∀ (s : State) (k : Fin 4) (m : BitVec 12), (s.calRun k.val).isSome = true → s.violations k.val m.toNat ≠ 0 →
    exec (.runPreconditionViolation k m) s = .next ((s.endRun k.val 2 (s.violations k.val m.toNat)).raise 217))
  ∧ (∀ (s : State) (k : Fin 4) (m : BitVec 12), s.reachable (R.RUN_CANCEL k.val).addr = true → (s.calRun k.val).isSome = true →
    s.violations k.val m.toNat = 0 → exec (.runCancel k m) s = .next ((s.granting.endRun k.val 3 0).raise 217))
  ∧ (∀ (s : State) (k : Fin 4) (m : BitVec 12), s.reachable (R.RUN_FINISH k.val).addr = true → (s.calRun k.val).isSome = true →
    s.violations k.val m.toNat = 0 → exec (.runFinish k m) s = .next (s.granting.wr (R.RUN_STATE k.val) 2))
  ∧ (∀ (s : State) (k : Fin 4) (m : BitVec 12), s.rd (R.RUN_STATE k.val) = 2 → (s.calRun k.val).isSome = true →
    s.violations k.val m.toNat = 0 → s.rd (R.LIST_N k.val) = 0 → Completes (exec (.runValidationComplete k m) s) fun t =>
      t.linePending 216 = true ∧ t.rd (R.RUN_RESULT k.val) = 1 ∧ t.rd (R.PRE_ACTIVE k.val) = 0)
  ∧ (∀ (s : State) (q : Nat), s.reachable R.STORE_GO.addr = true → s.flag R.PF_ACTIVE = false → s.flag R.STORE_BUSY = false →
    s.storeBufOk = true → s.higherSeq = some q → Completes (exec .storeGo s) fun t =>
      t.flag R.STORE_BUSY = true ∧ RegFrame s t [R.REG_TOKEN, R.STORE_BUSY] ∧ t.cal.store = some { set := s.snapshot, seq := (q + 1) % 2 ^ 32, bank := 1 - s.rd R.ACTIVE_BANK }
        ∧ (if s.rd R.ACTIVE_BANK = 1 then t.nv.bankA else t.nv.bankB) = none)
  ∧ (∀ (s : State) (x : CalStore), s.cal.store = some x → x.bank < 2 → s.flag R.STORE_AGAIN = false →
    Completes (exec (.calStoreCommit true) s) fun t => t.flag R.STORE_BUSY = false ∧ t.rd R.ACTIVE_BANK = x.bank
      ∧ t.rd R.ACTIVE_SEQ = x.seq % 2 ^ 32 ∧ t.cal.store = none ∧ t.linePending 219 = true
      ∧ (if x.bank = 0 then t.nv.bankA else t.nv.bankB) = some ⟨x.seq, x.set, State.setLength x.set⟩)
  ∧ (∀ (s : State) (x : CalBank), s.firmwareRuns = true → s.flag R.CAL_LOADED = false → s.nv.bankA = some x → s.nv.bankB = none →
    Completes (exec (.calLoad [] []) s) fun t => t.flag R.CAL_LOADED = true ∧ t.linePending 221 = true ∧ t.cal.profile = x.set.profile
      ∧ t.cal.device = x.set.device ∧ t.nv = s.nv)
  ∧ (∀ s : State, s.cal.store.isSome = true → Completes (exec (.norGrant 1) s) fun t =>
    t.cal.norGranted = some 0 ∧ t.rd R.NOR_TOKEN = 1 ∧ RegFrame s t [R.NOR_TOKEN])

/-- Draining, activation without reset, the perturbation test and the cohort (R439, R659, R660, R663 to R668, R676 to R679).
The model's own choices in it: assumptions 103, 106 and 105. -/
def Obligations.LiveCommandsComplete : Prop :=
  (∀ (s : State) (v : BitVec 14), s.reachable R.SPM_RPM.addr = true → Completes (exec (.spindleSetSpeed v) s) fun t =>
    ∃ u : State, t = u.setSpeed v.toNat ∧ u.flag R.COHORT_LOCK = false ∧ u.cohort = { s.cohort with run := 0 }
      ∧ RegFrame s u [R.REG_TOKEN, R.COHORT_LOCK, R.PEND_BITS 7])
  ∧ (∀ (s : State) (m : BitVec 4), s.reachable R.DRAIN_REQ.addr = true → Completes (exec (.drainRequest m) s) fun t =>
    t.rd R.DRAIN_REQ = m.toNat ∧ (∀ n < 4, t.flag (R.ACT_DRAINED n) = (m.toNat.testBit n || s.bitAt R.ACT_HOLD n)
      ∧ (m.toNat.testBit n = false → t.bitAt R.DRAIN_DONE n = false) ∧ (m.toNat.testBit n = true → t.bitAt R.DRAIN_DONE n = s.bitAt R.DRAIN_DONE n))
      ∧ RegsOnly s t)
  ∧ (∀ s : State, s.reachable R.ACTV_GO.addr = true → s.activationRefused false = false → Completes (exec (.actvGo false) s) fun t =>
    t.boot.phase = .warm ∧ t.boot.cores = 1 ∧ t.boot.hold = some (s.rd R.FCU_US) ∧ t.rd R.ACTV_STATE = 1
      ∧ t.linePending 225 = true ∧ RegFrame s t [R.REG_TOKEN, R.ACTV_STATE, R.PEND_BITS 7])
  ∧ (∀ (s : State) (a : Activation), s.boot.activation = some a → s.rd R.ACTV_STATE = 1 → exec (.actvCopyComplete false) s =
      .next (if Config.shake256 512 (payloadSize a.image) a.image.payload % 2 ^ 512 = headerField a.image 0x30 64
        then (s.loadBytes (loadAddress a.image) (payloadSize a.image) a.image.payload).wr R.ACTV_STATE 2
        else ((s.wr R.ACTV_STATE 4).raise 227).deviceReset R.RC_SW))
  ∧ (∀ (s : State) (a : Activation), s.boot.activation = some a → s.rd R.ACTV_STATE = 2 → Completes (exec .actvEntry s) fun t =>
    t.boot.phase = .firmware ∧ t.boot.firmware = some a.image ∧ t.rd R.ACTV_STATE = 3 ∧ t.flag R.ALIAS_READY = false
      ∧ RegFrame s t [R.BOOT_SLOT, R.BOOT_KEYSLOT, R.BOOT_SVN, R.ALIAS_READY, R.ACTV_STATE])
  ∧ (∀ (s : State) (a : Activation) (x : Nat), s.reachable R.ACTV_RELEASE.addr = true → s.boot.hold = some x → s.boot.activation = some a →
    s.rd R.ACTV_STATE = 3 → Completes (exec .actvRelease s) fun t => t.boot.hold = none ∧ t.boot.activation = none
      ∧ t.rd R.ACTV_STATE = 0 ∧ t.rd R.ACTV_HOLD_US = min 131071 ((s.rd R.FCU_US + 2 ^ 32 - x) % 2 ^ 32)
      ∧ t.linePending 226 = true)
  ∧ (∀ s : State, s.boot.hold.isSome = true → Completes (exec .actvHoldTimeout s) fun t => t.boot.hold = none
    ∧ t.rd R.ACTV_HOLD_US = 100000 ∧ t.linePending 226 = true)
  ∧ (∀ s : State, s.reachable R.PERT_ARM.addr = true → s.pertWritable = true → s.flag R.PERT_ARM = true →
    exec (.pertArm false) s = .next ((s.granting.wr R.PERT_ARM 0).raise 224))
  ∧ (∀ (s : State) (i : BitVec 12), s.reachable R.COHORT_ID.addr = true → Completes (exec (.cohortIdWrite i) s) fun t =>
    t.rd R.COHORT_ID = i.toNat ∧ t.rd R.COHORT_PHASE = i.toNat * 40503 % 65536 ∧ RegFrame s t [R.REG_TOKEN, R.COHORT_ID, R.COHORT_PHASE])
  ∧ (∀ (s : State) (e : BitVec 40) (r : BitVec 32) (p : BitVec 16), s.dom.pstg = true → s.flag R.COHORT_EN = true →
    s.flag R.SPM_AT_SPEED = true → s.cohort.accepted = false → Completes (exec (.cohortMarkEdge e r p) s) fun t =>
      t.cohort.accepted = true ∧ t.rd R.PHASE_ERR = p.toNat ∧ (256 < p.toInt.natAbs → t.flag R.COHORT_LOCK = false)
        ∧ RegFrame s t [R.PHASE_ERR, R.COHORT_LOCK, R.PEND_BITS 7])
  ∧ (∀ s : State, s.dom.pstg = true → s.flag R.COHORT_EN = true → Completes (exec .cohortLost s) fun t =>
    t.cohort = {} ∧ t.flag R.COHORT_LOST = true ∧ t.flag R.COHORT_LOCK = false ∧ t.linePending 230 = true
      ∧ RegFrame s t [R.COHORT_LOST, R.COHORT_LOCK, R.PEND_BITS 7])

/-- The TAP's instructions (R117, R146, R673 to R675). The model's own choices in it: assumption 104. -/
def Obligations.TapCommandsComplete : Prop :=
  (∀ s : State, exec .tapReset s = .next { s with tap := {} })
  ∧ (∀ s : State, s.rd R.SPM_STATE = 0 → (∀ n < 4, s.flag (R.PARKED n) = true) → Completes (exec .extest s) fun t =>
    t.tap = { s.tap with ir := 0 } ∧ ∀ n < 4, t.bitAt R.ASST_FORCED n = true)
  ∧ (∀ s : State, s.rd R.SPM_STATE = 0 → (∀ n < 4, s.flag (R.PARKED n) = true) → Completes (exec .clamp s) fun t =>
    t.tap = { s.tap with ir := 4 } ∧ ∀ n < 4, t.bitAt R.ASST_FORCED n = true)
  ∧ (∀ s : State, s.rd R.SPM_STATE = 0 → (∀ n < 4, s.flag (R.PARKED n) = true) → Completes (exec .highz s) fun t =>
    t.tap = { s.tap with ir := 5 } ∧ ∀ n < 4, t.bitAt R.ASST_FORCED n = true)
  ∧ (∀ s : State, Completes (exec .idcode s) fun t => t.tap = { s.tap with ir := 1 } ∧ t.regs = s.regs
    ∧ t.out = .tap [("IDCODE", 2 ^ 28 * (s.fuses.stepping % 16) + 2 ^ 12 * 0x9640 + 2 * (Config.jedecId % 2 ^ 11) + 1)] :: s.out)
  ∧ (∀ (s : State) (c : BitVec 32), Completes (exec (.samplePreload c) s) fun t => t.tap = { ir := 2, cells := c.toNat }
    ∧ t.out = .tap s.sampleLands :: s.out ∧ t.regs = s.regs)
  ∧ (∀ s : State, exec .devReset s = .next ((s.loadTap 0x10).deviceReset R.RC_JTAG))
  ∧ (∀ s : State, exec .debug s = .next { s with tap := { s.tap with ir := if s.flag R.DBG_UNLOCKED then 0x20 else 0xFF } })
  ∧ (∀ (s : State) (c : BitVec 8), c.toNat ∉ [0, 1, 2, 4, 5, 0x10, 0x20] →
    exec (.bypass c) s = .next { s with tap := { s.tap with ir := 0xFF } })

/-- The Map Cache: requests, fills and landings (R260 to R268, R271, R272, R279, R283). The model's own choices in it:
assumptions 63, 62 and 64. -/
def Obligations.MapCacheRequestsComplete : Prop :=
  (∀ s : State, s.dom.core = true → s.flag R.CACHE_INIT_DONE = false → Completes (exec .mcaInitComplete s) fun t =>
    t.mca = {} ∧ t.flag R.CACHE_INIT_DONE = true ∧ (∀ k < 4, t.flag (R.WIN_EN k) = false)
      ∧ (∀ k < 8, t.flag (R.LOCK_EN k) = false ∧ t.flag (R.LOCK_BUSY k) = false ∧ t.rd (R.LOCK_RESIDENT k) = 0)
      ∧ t.rd R.LE_COUNT = 0 ∧ t.linePending 63 = true)
  ∧ (∀ (s : State) (g : BitVec 13) (a : BitVec 35) (w : Nat), s.mcaRuns = true → (s.windowOf (a.toNat / 8 * 8)).isSome = true →
    s.hitWay (a.toNat / 8 * 8 / 128) = some w → s.mca.range = none → Completes (exec (.mcaLookup g a [] false) s) fun t =>
      t.out = .mapEntry g.toNat (a.toNat / 8 * 8) (State.entryAt (s.wayAt (State.setOf (a.toNat / 8 * 8 / 128)) w).data (a.toNat / 8 * 8)) :: s.out
        ∧ t.rd R.PIPE_TOKEN = 1 ∧ RegFrame s t [R.PIPE_TOKEN, R.MC_PF_TRAINED, R.MC_HIT_CNT, R.MC_PF_USED_CNT])
  ∧ (∀ (s : State) (a : BitVec 35) (v : BitVec 64) (w : Nat), s.mcaRuns = true → (s.windowOf (a.toNat / 8 * 8)).isSome = true →
    s.hitWay (a.toNat / 8 * 8 / 128) = some w → s.mca.range = none → (s.wayAt (State.setOf (a.toNat / 8 * 8 / 128)) w).lock = none →
    Completes (exec (.mcaUpdate a v [] false) s) fun t => ∃ x, x = t.wayAt (State.setOf (a.toNat / 8 * 8 / 128)) w ∧ x.dirty = true
      ∧ x.data = State.putEntry (s.wayAt (State.setOf (a.toNat / 8 * 8 / 128)) w).data (a.toNat / 8 * 8) v.toNat
      ∧ t.out = s.out ∧ RegFrame s t [R.PIPE_TOKEN, R.MC_HIT_CNT, R.MC_PF_USED_CNT])
  ∧ (∀ (s g t u : State) (l : BitVec 28) (b : Bool) (f : McFill) (d : Nat), s.fillOf l.toNat = some f → s.dom.dram = true → s.dom.core = true →
    f.discard = false → g = s.modMca (fun m => { m with fills := m.fills.filter fun x => x.line != f.line }) →
    g.loadLine f.line = (t, some d) → t.install f.line d (f.prefetch && f.reqs.isEmpty) b = (u, true) →
    exec (.mcaFillReturn l b) s = .next ((u.serveFill f.line d f.reqs).retryWaiting))
  ∧ (∀ (s : State) (l : BitVec 28) (b : Bool) (e : McLine) (i : Nat), s.mca.evicting = [e] → e.line = l.toNat → s.victimSlot = some i →
    s.mca.stalled = [] → s.mca.noBuffer = [] → Completes (exec (.mcaVictimLand l b) s) fun t => t.mca.evicting = []
      ∧ Store.get none t.mca.victims i = some ⟨l.toNat, e.data, s.mca.clock⟩ ∧ t.regs = s.regs)
  ∧ (∀ (s : State) (g : BitVec 13) (i : Nat) (d : McDetector), (s.mca.detectors.findSome? fun e => e.2.bind fun d =>
      if d.tag = g.toNat ∧ d.due then some (e.1, d) else none) = some (i, d) → s.mcaRuns = true → s.flag R.MC_PF_EN = true →
    exec (.mcaPrefetch g) s = .next (s.prefetchAll i d))

/-- The Map Cache: windows, lock ranges and range operations (R261, R273 to R278, R282, R287 to R289). The model's own choices
in it: assumption 63. -/
def Obligations.MapCacheRangesComplete : Prop :=
  (∀ (s : State) (k : Fin 4) (b : BitVec 15), s.reachable (R.WIN_EN k.val).addr = true → s.flag (R.WIN_EN k.val) = false →
    (s.wr (R.WIN_BASE k.val) b.toNat).windowFits k.val = true → exec (.mcaWindowEnable k b) s =
      .next ((s.granting.wr (R.WIN_BASE k.val) b.toNat).wr (R.WIN_EN k.val) 1))
  ∧ (∀ (s : State) (k : Fin 4), s.reachable (R.WIN_EN k.val).addr = true → s.flag (R.WIN_EN k.val) = true → s.flag R.RANGE_BUSY = false →
    Completes (exec (.mcaWindowDisable k) s) fun t => t.flag (R.WIN_EN k.val) = false ∧ t.flag R.RANGE_BUSY = true)
  ∧ (∀ (s : State) (k : Fin 8), s.reachable (R.LOCK_EN k.val).addr = true → s.flag (R.LOCK_EN k.val) = false → s.lockFits k.val = true →
    exec (.mcaLockEnable k) s = .next (s.granting.wr (R.LOCK_EN k.val) 1))
  ∧ (∀ (s : State) (k : Fin 8), s.reachable (R.LOCK_EN k.val).addr = true → s.flag (R.LOCK_EN k.val) = true →
    Completes (exec (.mcaLockDisable k) s) fun t => t.flag (R.LOCK_EN k.val) = false ∧ t.flag (R.LOCK_BUSY k.val) = false)
  ∧ (∀ (s : State) (k : Fin 8), s.reachable (R.LOCK_LOAD k.val).addr = true → s.flag (R.LOCK_EN k.val) = true →
    s.flag (R.LOCK_BUSY k.val) = false → exec (.lockLoad k) s = .next (s.granting.wr (R.LOCK_BUSY k.val) 1))
  ∧ (∀ (s : State) (k : Fin 8) (l : List (BitVec 28)), s.flag (R.LOCK_BUSY k.val) = true → s.dom.dram = true →
    Completes (exec (.lockLoadComplete k l) s) fun t => t.flag (R.LOCK_BUSY k.val) = false ∧ t.linePending 57 = true ∧ t.rd R.PIPE_TOKEN = 0)
  ∧ (∀ s : State, s.reachable R.RANGE_GO.addr = true → s.flag R.RANGE_BUSY = false → s.flag R.MAP_HALT = false → s.rd R.RANGE_LINES ≠ 0 →
    Completes (exec .rangeClean s) fun t => t.flag R.RANGE_BUSY = true ∧ t.rd R.RANGE_OP = 0 ∧ RegFrame s t [R.REG_TOKEN, R.RANGE_BUSY, R.RANGE_OP]
      ∧ t.mca = { s.mca with range := some ⟨0, s.rd R.RANGE_LINE, s.rd R.RANGE_LINES, s.mca.clock⟩ })
  ∧ (∀ s : State, s.reachable R.RANGE_GO.addr = true → s.flag R.RANGE_BUSY = false → s.flag R.MAP_HALT = false → s.rd R.RANGE_LINES ≠ 0 →
    Completes (exec .rangeInvalidate s) fun t => t.flag R.RANGE_BUSY = true ∧ t.rd R.RANGE_OP = 1 ∧ RegFrame s t [R.REG_TOKEN, R.RANGE_BUSY, R.RANGE_OP]
      ∧ t.mca.range = some ⟨1, s.rd R.RANGE_LINE, s.rd R.RANGE_LINES, s.mca.clock⟩
      ∧ ∀ e ∈ t.mca.evicting, e.line < s.rd R.RANGE_LINE ∨ s.rd R.RANGE_LINE + s.rd R.RANGE_LINES ≤ e.line)
  ∧ (∀ s : State, s.reachable R.RANGE_GO.addr = true → s.flag R.RANGE_BUSY = false → s.rd R.RANGE_LINES ≠ 0 →
    Completes (exec .rangeDiscard s) fun t => t.flag R.RANGE_BUSY = true ∧ t.rd R.RANGE_OP = 2 ∧ RegFrame s t [R.REG_TOKEN, R.RANGE_BUSY, R.RANGE_OP]
      ∧ t.mca.range = some ⟨2, s.rd R.RANGE_LINE, s.rd R.RANGE_LINES, s.mca.clock⟩
      ∧ ∀ e ∈ t.mca.evicting, e.line < s.rd R.RANGE_LINE ∨ s.rd R.RANGE_LINE + s.rd R.RANGE_LINES ≤ e.line)
  ∧ (∀ (s : State) (l : List (BitVec 28)), s.mca.range.isSome = true → Completes (exec (.rangeComplete l) s) fun t =>
    t.mca.range = none ∧ t.flag R.RANGE_BUSY = false ∧ t.linePending 56 = true ∧ t.rd R.PIPE_TOKEN = 0)
  ∧ (∀ s : State, s.reachable R.MAP_RESUME.addr = true → s.flag R.RANGE_BUSY = false → s.flag R.MAP_HALT = true → s.mca.halted = [] →
    Completes (exec .mapResume s) fun t => t.flag R.MAP_HALT = false ∧ RegFrame s t [R.REG_TOKEN, R.MAP_HALT])
  ∧ (∀ (s : State) (i : BitVec 12) (w : Fin 16) (b : Bool), s.reachable R.MC_DIAG_GO.addr = true → Completes (exec (.mcDiagGo i w false b) s) fun t =>
    t.flag R.MC_DIAG_DONE = true ∧ t.flag R.MC_DIAG_VALID = (s.wayAt i.toNat w.val).line.isSome
      ∧ t.flag R.MC_DIAG_DIRTY = (s.wayAt i.toNat w.val).dirty ∧ t.flag R.MC_DIAG_PAR_ERR = b ∧ t.mca = s.mca
      ∧ ∀ j < 32, t.rd (R.MC_DIAG_WORD j) = Arith.field (s.wayAt i.toNat w.val).data (32 * j) 32)
  ∧ (∀ s : State, s.reachable R.MC_CNT_CLR.addr = true → Completes (exec .mcCntClr s) fun t =>
    t.rd R.MC_HIT_CNT = 0 ∧ t.rd R.MC_MISS_CNT = 0 ∧ t.rd R.MC_RECALL_CNT = 0 ∧ t.rd R.MC_EVB_STALL_CNT = 0 ∧ t.rd R.MC_PF_ISSUE_CNT = 0
      ∧ t.rd R.MC_PF_USED_CNT = 0 ∧ t.rd R.MC_WB_CNT = 0 ∧ t.rd R.MC_PAR_CLEAN_CNT = 0 ∧ t.rd R.MC_PAR_DIRTY_CNT = 0
      ∧ t.rd R.MC_PF_DROP_CNT = 0 ∧ RegsOnly s t)

/-- Pack: lanes and their pool, decompression and zone ratios (R514, R516 to R522, R526, R531, R532). The model's own choices
in it: assumptions 85, 86 and 87. -/
def Obligations.PackCommandsComplete : Prop :=
  (∀ (s : State) (b : ReadyBlock), s.mtuRuns = true → s.packReady b.ns.toNat (16 * b.block.toNat) = true → s.pak.lanes = [] →
    s.pak.ready = [] → Completes (exec (.packBlockCompress [b]) s) fun t => ∃ l, t.packLane 0 = some l ∧ l.ns = b.ns.toNat
      ∧ l.lba = 16 * b.block.toNat ∧ t.pak.ready = [] ∧ t.rd R.PACK_TOKEN = (b.source.toNat + 1) % 4096)
  ∧ (∀ (s : State) (i : Fin 4) (x : BitVec 24) (l : PackLane) (n : Namespace), s.packLane i.val = some l → l.stalled = none →
    s.namespaceOf l.ns = some n → n.zoned = false → s.pak.ready = [] → Completes (exec (.packBlockDone i x) s) fun t =>
      t.packLane i.val = none ∧ (∃ u, t.pak.units = s.pak.units ++ [u] ∧ u.ns = l.ns ∧ u.lba = l.lba ∧ u.extern = none
        ∧ u.raw = (packForm false (s.packSource l.ns l.lba)).1 ∧ u.sectors.length = max l.slot (storedSectors false (s.packSource l.ns l.lba)))
      ∧ t.rd R.SECT_OUT_CNT = min (2 ^ 32 - 1) (s.rd R.SECT_OUT_CNT + storedSectors false (s.packSource l.ns l.lba))
      ∧ RegFrame s t [R.PACKED_CNT, R.RAW_CNT, R.SECT_OUT_CNT])
  ∧ (∀ s : State, s.pak.freeDue ≠ 0 → (∀ e ∈ s.pak.lanes, e.2.bind PackLane.stalled = none) →
    Completes (exec .poolBufferFree s) fun t => t.pak.freeDue + 1 = s.pak.freeDue
      ∧ t.rd R.POOL_FREE = min 65535 (s.rd R.POOL_FREE + 1) ∧ RegFrame s t [R.POOL_FREE])
  ∧ (∀ (s : State) (i : Nat) (l : PackLane), s.pak.freeDue ≠ 0 → s.stalledLane = some (i, l) → l.need = l.have_ + 1 →
    Completes (exec .poolBufferFree s) fun t => t.packLane i = some { l with have_ := l.need, stalled := none }
      ∧ t.rd R.POOL_FREE = s.rd R.POOL_FREE ∧ t.rd R.POOL_TOKEN = (i + 1) % 4)
  ∧ (∀ (s u : State) (b : ReadyBlock) (x : ReadUnit) (n : Namespace), u = s.wr R.UNPACK_TOKEN ((b.source.toNat % 8 + 1) % 8) →
    u.readUnit b.ns.toNat (16 * b.block.toNat) = some x → u.namespaceOf b.ns.toNat = some n → n.zoned = false →
    u.baseSectors n x.ns x.lba ≠ 0 → State.lacking x 0 (u.baseSectors n x.ns x.lba) = [] → x.bad = false →
    exec (.unpackBlock [b]) s = .next (match unpack false (State.stagedBytes x (u.baseSectors n x.ns x.lba)) (u.baseSectors n x.ns x.lba) with
      | some d => u.deliverBlocks x (some d)
      | none => u.decodeError x))
  ∧ (∀ (s : State) (r : BitVec 2) (ns zi : Nat), s.reachable R.ZR_WRITE.addr = true → s.selectedZone = some (ns, zi) →
    (s.zone (State.zoneKey ns zi)).cond = .empty → r ≠ 3 → Completes (exec (.zrWrite r false) s) fun t =>
      t.zoneRatio ns zi = r.toNat ∧ t.rd R.ZR_RATIO = r.toNat ∧ t.rd R.ZR_DONE = 1
        ∧ RegFrame s t [R.REG_TOKEN, R.ZR_RATIO, R.ZR_DONE, R.JRNL_TAIL_256K, R.JRNL_FULL_STALL])
  ∧ (∀ (s : State) (ns zi : Nat), s.reachable R.ZR_READ.addr = true → s.selectedZone = some (ns, zi) →
    Completes (exec .zrRead s) fun t => t.rd R.ZR_RATIO = s.zoneRatio ns zi % 4 ∧ t.rd R.ZR_DONE = 1 ∧ RegsOnly s t
      ∧ RegFrame s t [R.REG_TOKEN, R.ZR_RATIO, R.ZR_DONE])
  ∧ (∀ s : State, s.reachable R.PAK_CNT_CLR.addr = true → Completes (exec .pakCntClr s) fun t =>
    t.rd R.PACKED_CNT = 0 ∧ t.rd R.RAW_CNT = 0 ∧ t.rd R.SECT_OUT_CNT = 0 ∧ t.rd R.SPILL_CNT = 0 ∧ t.rd R.EXTERN_CNT = 0
      ∧ t.rd R.DECOMP_ERR_CNT = 0 ∧ t.rd R.POOL_STALL_CNT = 0 ∧ RegsOnly s t)

/-- DRAM accesses of one requester in an arbiter cycle (R16, R535, R536, R544, R549, R550, R552). The model's own choices in
it: assumptions 88 and 89. -/
def Obligations.DramAccessesComplete : Prop :=
  (∀ (s : State) (p : Fin 8) (w : BitVec 29) (d : Nat), s.dom.dram = true → s.wordBusy w.toNat = false →
    (p ≠ 7 → s.inCheckArea w.toNat = false) → s.isWritten w.toNat = true →
    classify (s.codeOf w.toNat) (s.rawWord w.toNat) (s.rawCheck w.toNat) = (.clean, d, 0) →
    Completes (exec (.dramRead [(p, w)]) s) fun t => t.out = .dram p.val w.toNat 0 d :: s.out
      ∧ t.rd R.DRAM_TOKEN = (p.val + 1) % 8 ∧ RegFrame s t [R.DRAM_TOKEN] ∧ t.dram = s.dram)
  ∧ (∀ (s : State) (p : Fin 8) (w : BitVec 29), s.dom.dram = true → s.wordBusy w.toNat = false →
    (p ≠ 7 → s.inCheckArea w.toNat = false) → s.isWritten w.toNat = false →
    Completes (exec (.dramRead [(p, w)]) s) fun t => t.out = .dram p.val w.toNat 3 0 :: s.out ∧ t.dram = s.dram
      ∧ t.rd R.UNWRITTEN_RD_CNT = min (2 ^ R.UNWRITTEN_RD_CNT.width - 1) (s.rd R.UNWRITTEN_RD_CNT + 1))
  ∧ (∀ (s : State) (p : Fin 8) (w : BitVec 29) (d : BitVec 512), s.dom.dram = true → s.wordBusy w.toNat = false →
    (p ≠ 7 → s.inCheckArea w.toNat = false) → s.isWritten w.toNat = true → s.codeOf w.toNat = 0 →
    Completes (exec (.dramWrite [(p, w, d)]) s) fun t => t.rawWord w.toNat = d.toNat ∧ t.out = .dram p.val w.toNat 4 0 :: s.out
      ∧ (∀ x, s.physical x ≠ s.physical w.toNat → t.rawWord x = s.rawWord x)
      ∧ t.rd R.DRAM_TOKEN = (p.val + 1) % 8 ∧ RegFrame s t [R.DRAM_TOKEN])
  ∧ (∀ (s : State) (p : Fin 8) (w : BitVec 29) (m : BitVec 64) (d : BitVec 512), s.dom.dram = true → s.wordBusy w.toNat = false →
    (p ≠ 7 → s.inCheckArea w.toNat = false) → s.isWritten w.toNat = true → s.codeOf w.toNat = 0 →
    Completes (exec (.dramPartialWrite [(p, w, m, d)]) s) fun t =>
      t.rawWord w.toNat = mergeBytes (s.rawWord w.toNat) d.toNat m.toNat % 2 ^ 512 ∧ t.out = .dram p.val w.toNat 4 0 :: s.out
        ∧ (∀ x, s.physical x ≠ s.physical w.toNat → t.rawWord x = s.rawWord x)
        ∧ t.rd R.DRAM_TOKEN = (p.val + 1) % 8 ∧ RegFrame s t [R.DRAM_TOKEN])

/-- DRAM regions and spare rows (R537 to R539, R556, R557). The model's own choices in it: assumptions 90 and 88. -/
def Obligations.DramRegionsComplete : Prop :=
  (∀ (s u : State) (k : Fin 16) (b : BitVec 15) (a : Bool), s.reachable (R.REG_EN k.val).addr = true → s.flag (R.REG_EN k.val) = false →
    s.flag (R.REG_BUSY k.val) = false → u = (s.wr (R.REG_BASE k.val) b.toNat).wrFlag (R.REG_ADOPT k.val) a → u.regionFits k.val = true →
    Completes (exec (.regionEnable k b a) s) fun t => t.flag (R.REG_EN k.val) = true ∧ t.flag (R.REG_BUSY k.val) = true
      ∧ t.rd (R.REG_BASE k.val) = b.toNat ∧ t.flag (R.REG_ADOPT k.val) = a
      ∧ Store.get none t.dram.busy k.val = some ⟨u.regionLo k.val, u.regionHi k.val, if a then .adopt else .clear⟩
      ∧ RegFrame s t [R.REG_TOKEN, R.REG_BASE k.val, R.REG_ADOPT k.val, R.REG_EN k.val, R.REG_BUSY k.val])
  ∧ (∀ (s : State) (k : Fin 16), s.reachable (R.REG_EN k.val).addr = true → s.flag (R.REG_EN k.val) = true →
    s.flag (R.REG_BUSY k.val) = false → Completes (exec (.regionDisable k) s) fun t => t.flag (R.REG_EN k.val) = false
      ∧ t.flag (R.REG_BUSY k.val) = true ∧ Store.get none t.dram.busy k.val = some ⟨s.regionLo k.val, s.regionHi k.val, .clear⟩
      ∧ RegFrame s t [R.REG_TOKEN, R.REG_EN k.val, R.REG_BUSY k.val])
  ∧ (∀ (s : State) (k : Fin 16), s.reachable (R.REG_MARK k.val).addr = true → s.flag (R.REG_EN k.val) = true →
    s.flag (R.REG_BUSY k.val) = false → exec (.regMark k) s = .next (s.granting.startRegion k.val .mark))
  ∧ (∀ (s : State) (k : Fin 16) (lo hi : Nat), Store.get none s.dram.busy k.val = some ⟨lo, hi, .clear⟩ → s.dram.waiting = [] →
    Completes (exec (.regionOpComplete k) s) fun t => Store.get none t.dram.busy k.val = none ∧ t.flag (R.REG_BUSY k.val) = false
      ∧ (∀ e ∈ t.dram.written, 64 * e.1 < lo ∨ hi ≤ 64 * e.1) ∧ RegFrame s t [R.REG_BUSY k.val, R.REG_WR_GRAN k.val])
  ∧ (∀ (s : State) (b : BitVec 8) (r : BitVec 16), s.reachable R.SPR_GO.addr = true → s.freeSpares b.toNat ≠ [] →
    Store.get none s.dram.fused (b.toNat * 65536 + r.toNat) = none → Store.get none s.dram.soft (b.toNat * 65536 + r.toNat) = none →
    s.flag R.SPR_BUSY = false → Completes (exec (.sprGo b r) s) fun t =>
      (∃ x ∈ s.freeSpares b.toNat, t.dram = { s.dram with copying := some (b.toNat * 65536 + r.toNat, x) })
        ∧ t.flag R.SPR_BUSY = true ∧ RegFrame s t [R.REG_TOKEN, R.SPR_BANK, R.SPR_ROW, R.SPR_BUSY])
  ∧ (∀ (s : State) (key x : Nat), s.dram.copying = some (key, x) → s.dram.waiting = [] →
    (∀ c < 32, s.isWritten (wordAt (key / 65536) (key % 65536) c) = false) → Completes (exec .spareRowDone s) fun t =>
      t.dram.copying = none ∧ Store.get none t.dram.soft key = some x ∧ t.flag R.SPR_BUSY = false ∧ t.flag R.SPR_DONE = true
        ∧ t.rd R.SPARE_SOFT = t.dram.soft.length % 2 ^ R.SPARE_SOFT.width ∧ t.linePending 77 = true)

/-- The DRAM's scrubber, its diagnostic access and its correctable-error log (R554, R555, R559, R567). The model's own choices
in it: assumptions 90 and 88. -/
def Obligations.DramServiceCompletes : Prop :=
  (∀ (s u : State) (b : Bool) (w : Nat), s.flag R.SCRUB_EN = true → s.dom.dram = true → u = s.wrFlag R.SCRUB_BEHIND b →
    u.scrubNext (u.rd R.SCRUB_WORD) = some w → u.isWritten w = true → Completes (exec (.scrubStep b) s) fun t =>
      t.rd R.SCRUB_WORD = (w + 1) % 2 ^ 29 ∧ (∀ d, classify (u.codeOf w) (u.rawWord w) (u.rawCheck w) = (.clean, d, 0) →
        t.flag R.SCRUB_BEHIND = b ∧ t.dram = s.dram ∧ RegFrame s t [R.SCRUB_BEHIND, R.SCRUB_WORD]))
  ∧ (∀ (s : State) (w : BitVec 29), s.reachable R.DIAG_GO.addr = true → s.flag R.DIAG_EN = true →
    Completes (exec (.diagRawRead w) s) fun t => (∀ j < 16, t.rd (R.DIAG_DATA j) = Arith.field (s.rawWord w.toNat) (32 * j) 32)
      ∧ t.rd R.DIAG_CHK_LO = s.rawCheck w.toNat % 2 ^ 32 ∧ t.rd R.DIAG_CHK_HI = s.rawCheck w.toNat / 2 ^ 32 % 2 ^ 32
      ∧ t.flag R.DIAG_DONE = true ∧ t.linePending 79 = true ∧ t.dram = s.dram)
  ∧ (∀ (s : State) (w : BitVec 29), s.reachable R.DIAG_GO.addr = true → s.flag R.DIAG_EN = true → s.isWritten w.toNat = true →
    s.regionOf w.toNat = none → Completes (exec (.diagWriteAll w) s) fun t => t.rawWord w.toNat = s.diagData % 2 ^ 512
      ∧ t.flag R.DIAG_DONE = true ∧ t.linePending 79 = true
      ∧ (∀ x, s.physical x ≠ s.physical w.toNat → t.rawWord x = s.rawWord x)
      ∧ RegFrame s t [R.REG_TOKEN, R.DIAG_WORD, R.DIAG_OP, R.DIAG_DONE, R.PEND_BITS 2])
  ∧ (∀ (s : State) (w : BitVec 29), s.reachable R.DIAG_GO.addr = true → s.flag R.DIAG_EN = true → s.isWritten w.toNat = true →
    Completes (exec (.diagWriteData w) s) fun t => t.rawWord w.toNat = s.diagData % 2 ^ 512
      ∧ t.flag R.DIAG_DONE = true ∧ t.linePending 79 = true
      ∧ (∀ x, s.physical x ≠ s.physical w.toNat → t.rawWord x = s.rawWord x)
      ∧ RegFrame s t [R.REG_TOKEN, R.DIAG_WORD, R.DIAG_OP, R.DIAG_DONE, R.PEND_BITS 2])
  ∧ (∀ (s u : State) (w : BitVec 29), s.reachable R.DIAG_GO.addr = true → s.flag R.DIAG_EN = true → s.isWritten w.toNat = true →
    s.codeOf w.toNat ≠ 0 → u = (s.granting.wr R.DIAG_WORD w.toNat).wr R.DIAG_OP 3 → exec (.diagWriteCheck w) s =
      .next (((u.putCheck w.toNat s.diagCheck).wr R.DIAG_DONE 1).raise 79))
  ∧ (∀ s : State, s.reachable R.CE_LOG_CLR.addr = true → Completes (exec .ceLogClr s) fun t =>
    (∀ k < 32, t.flag (R.CEL_VALID k) = false) ∧ t.rd R.CE_LOG_USED = 0 ∧ t.dram = { s.dram with overflowed := false })
  ∧ (∀ (s : State) (k : Fin 32), s.reachable (R.CEL_VALID k.val).addr = true → Completes (exec (.celValidClear k) s) fun t =>
    t.flag (R.CEL_VALID k.val) = false ∧ t.dram = { s.dram with overflowed := false }
      ∧ RegFrame s t [R.REG_TOKEN, R.CEL_VALID k.val, R.CE_LOG_USED])
  ∧ (∀ s : State, s.reachable R.DMC_CNT_CLR.addr = true → Completes (exec .dmcCntClr s) fun t =>
    t.rd R.CE_CNT = 0 ∧ t.rd R.UE_CNT = 0 ∧ t.rd R.POISON_RD_CNT = 0 ∧ t.rd R.CURED_CNT = 0 ∧ t.rd R.CE_LOG_OVF = 0
      ∧ t.rd R.UNWRITTEN_RD_CNT = 0 ∧ RegsOnly s t)

/-- The Tally recorder's inlet, ring and freeze (R598, R600 to R604). The model's own choices in it: assumptions 93 and 4. -/
def Obligations.TallyRecordsComplete : Prop :=
  (∀ (s : State) (p : Nat) (e : TlyEvent) (l : List TlyEvent), tokenGrant 4 (s.rd R.INLET_TLY_TOKEN) s.inletReq = some p →
    s.waiting p = e :: l → s.tly.inlet.length < 16 → Completes (exec .tallyInletAdmit s) fun t =>
      t.tly.inlet = s.tly.inlet ++ [s.stamp e] ∧ t.rd R.INLET_TLY_TOKEN = (p + 1) % 4 ∧ RegFrame s t [R.INLET_TLY_TOKEN])
  ∧ (∀ (s : State) (e : TlyEvent) (l : List TlyEvent), s.tly.inlet = e :: l → s.mayCommit = true → s.isRepeat e = false →
    s.rd R.DROP_PEND = 0 → s.ringAt (s.rd R.RING_HEAD) = none → e.kind ≠ 4 → Completes (exec .tallyCommit s) fun t =>
      t.tly.inlet = l ∧ t.ringAt (s.rd R.RING_HEAD) = some ⟨{ seq := s.rd R.NEXT_SEQ, ev := e, repeats := 0 }, .waiting⟩
        ∧ t.rd R.NEXT_SEQ = (s.rd R.NEXT_SEQ + 1) % 2 ^ R.NEXT_SEQ.width
        ∧ t.rd R.RING_HEAD = (s.rd R.RING_HEAD + 1) % 2 ^ R.RING_HEAD.width ∧ RegFrame s t [R.NEXT_SEQ, R.RING_HEAD])
  ∧ (∀ (s : State) (e : TlyEvent) (l : List TlyEvent) (i : Nat) (r : RingSlot), s.tly.inlet = e :: l → s.mayCommit = true →
    s.isRepeat e = true → s.rd R.DROP_PEND = 0 → s.tly.last = some i → s.ringAt i = some r → Completes (exec .tallyRepeat s) fun t =>
      t.tly.inlet = l ∧ t.regs = s.regs
        ∧ t.ringAt i = some { r with record := { r.record with repeats := min 65535 (r.record.repeats + 1) } })
  ∧ (∀ s : State, s.reachable R.FREEZE.addr = true → Completes (exec .tallyFreeze s) fun t =>
    t.rd R.FREEZE = 1 ∧ t.rd R.FROZEN = 1 ∧ RegsOnly s t ∧ RegFrame s t [R.REG_TOKEN, R.FREEZE, R.FROZEN])
  ∧ (∀ s : State, s.reachable R.FREEZE.addr = true → s.tly.clearWait = none → Completes (exec .tallyUnfreeze s) fun t =>
    t.rd R.FREEZE = 0 ∧ t.rd R.FROZEN = 0 ∧ RegsOnly s t ∧ RegFrame s t [R.REG_TOKEN, R.FREEZE, R.FROZEN])
  ∧ (∀ s : State, s.flag R.FREEZE = true → s.tly.clearWait = none → Completes (exec .tallyFreezeTimeout s) fun t =>
    t.rd R.FREEZE = 0 ∧ t.rd R.FROZEN = 0 ∧ t.rd R.FREEZE_TIMEOUT = 1 ∧ t.linePending 186 = true ∧ RegsOnly s t)
  ∧ (∀ (s : State) (b : Bool), s.flag R.FREEZE = false → s.flag R.TLY_READY = true → Completes (exec (.tallyClear b) s) fun t => t.tly.inlet = []
    ∧ t.rd R.RING_HEAD = 1 ∧ t.tly.ring.map (fun e => e.1) = [0] ∧ t.flag R.CLEAR_BUSY = (b || s.flag R.CLEAR_BUSY)
    ∧ (b = false → t.linePending 189 = true) ∧ t.tly.archive = s.tly.archive)

/-- The Tally archive, and its start (R606 to R610, R612). The model's own choices in it: assumptions 93 and 4. -/
def Obligations.TallyArchiveCompletes : Prop :=
  (∀ s : State, s.ringWaiting ≠ 0 → exec .tallyArchiveTimeout s = .next { s with tly := { s.tly with archiveRequest := true } })
  ∧ (∀ s : State, s.flag R.TLY_READY = true → s.tly.archiveRequest = true → s.tly.programBusy = false → s.flag R.PF_ACTIVE = false →
    s.flag R.CLEAR_BUSY = false → s.programCandidates ≠ [] → Completes (exec .tallyArchiveProgram s) fun t =>
      t.tly.programBusy = true ∧ t.tly.programRecs = s.programCandidates ∧ t.regs = s.regs)
  ∧ (∀ (s : State) (r : TlyRec), s.tly.programBusy = true → s.tly.programRecs = [r] → (s.rd R.ARCH_SLOT + 1) % 2048 ≠ 0 →
    Completes (exec (.tallyProgramComplete true) s) fun t => t.tly.programBusy = false ∧ t.tly.programRecs = []
      ∧ Store.get none t.tly.archive (s.rd R.ARCH_SLOT) = some r ∧ t.rd R.ARCH_SLOT = (s.rd R.ARCH_SLOT + 1) % 524288
      ∧ RegFrame s t [R.ARCH_SLOT])
  ∧ (∀ s : State, s.reachable R.FLUSH_REQ.addr = true → s.flag R.TLY_READY = true → s.flag R.PF_ACTIVE = false →
    s.flag R.CLEAR_BUSY = false → Completes (exec .tallyFlush s) fun t => t.flag R.FLUSH_BUSY = true
      ∧ t.tly = { s.tly with last := none, archiveRequest := true } ∧ RegFrame s t [R.REG_TOKEN, R.FLUSH_BUSY])
  ∧ (∀ s : State, s.flag R.FLUSH_BUSY = true → s.allArchived = true → Completes (exec .tallyFlushDone s) fun t =>
    t.flag R.FLUSH_BUSY = false ∧ t.flag R.FLUSH_DONE = true ∧ t.linePending 185 = true ∧ RegsOnly s t
      ∧ RegFrame s t [R.FLUSH_BUSY, R.FLUSH_DONE, R.PEND_BITS 5])
  ∧ (∀ s : State, s.flag R.TLY_READY = false → s.dom.core = true → s.archiveRecs = [] → s.imageTally = [] → s.flag R.RC_AON_POR = false →
    s.tly.flushWait = false → s.tly.eraseCut = false → s.tly.clearWait = none → Completes (exec .tallyReady s) fun t => t.flag R.TLY_READY = true
      ∧ t.rd R.NEXT_SEQ = 1 ∧ t.rd R.ARCH_SLOT = 0
      ∧ (∃ r, t.ringAt (s.rd R.RING_HEAD) = some r ∧ r.record.seq = 0 ∧ r.record.ev.kind = 3))
  ∧ (∀ s : State, s.flag R.CLEAR_BUSY = true → Completes (exec .tallyClearDone s) fun t => t.tly.archive = []
    ∧ t.flag R.CLEAR_BUSY = false ∧ t.rd R.ARCH_SLOT = 0 ∧ t.linePending 189 = true
    ∧ RegFrame s t [R.CLEAR_BUSY, R.ARCH_SLOT, R.PEND_BITS 5])
  ∧ (∀ s : State, s.tly.lifePoh + 28800 ≤ s.rd R.POH_S → Completes (exec .lifeGroupTimer s) fun t =>
    t.tly.waitOwn.length = s.tly.waitOwn.length + 12 ∧ t.tly.lifePoh = s.rd R.POH_S ∧ t.regs = s.regs)
  ∧ (∀ s : State, s.reachable R.FW_EVT_GO.addr = true → Completes (exec .fwEvtGo s) fun t =>
    t.tly = { s.tly with waitFw := s.tly.waitFw
      ++ [{ kind := 7, source := s.rd R.FW_SRC, code := s.rd R.FW_CODE, detail := s.rd R.FW_DETAIL }] } ∧ t.regs = s.granting.regs)

/-- Time and temperature (R611, R613 to R615). The model's own choices in it: assumptions 94 and 22. -/
def Obligations.TimeAndTemperatureComplete : Prop :=
  (∀ s : State, s.flag R.IN_OK = true → s.flag R.WARN_ON = false → s.rd R.THR_LEVEL = 0 → Completes (exec .pohTick s) fun t =>
    t.rd R.POH_S = min (2 ^ 32 - 1) (s.rd R.POH_S + 1) ∧ RegsOnly s t ∧ RegFrame s t [R.POH_S])
  ∧ (∀ s : State, s.flag R.IN_OK = true → s.flag R.WARN_ON = true → s.thm.warnSec = 59 → s.rd R.THR_LEVEL = 0 →
    Completes (exec .pohTick s) fun t => t.rd R.WARN_MIN = min (2 ^ R.WARN_MIN.width - 1) (s.rd R.WARN_MIN + 1)
      ∧ t.thm = { s.thm with warnSec := 0 } ∧ RegFrame s t [R.POH_S, R.WARN_MIN])
  ∧ (∀ (s : State) (m : BitVec 48), Completes (exec (.calendarSet m) s) fun t => t.rd R.CAL_MS_LO = m.toNat % 2 ^ 32
    ∧ t.rd R.CAL_MS_HI = m.toNat / 2 ^ 32 ∧ t.rd R.CAL_SET = 1 ∧ RegsOnly s t ∧ RegFrame s t [R.CAL_MS_LO, R.CAL_MS_HI, R.CAL_SET])
  ∧ (∀ (s : State) (i : Fin 12) (v : BitVec 16), s.dom.core = true → s.bitAt R.SENS_EN i.val = true → s.badSample i.val v.toInt = false →
    ∃ u : State, exec (.thermalSample i v) s = .next (u.judgeThermal.thresholdEvents s.compositeTemp)
      ∧ u.rd (R.SENS_T i.val) = v.toNat ∧ u.thm.sampled.testBit i.val = true
      ∧ Arith.signed 16 (u.rd (R.SENS_PEAK i.val)) = max (Arith.signed 16 (s.rd (R.SENS_PEAK i.val))) v.toInt
      ∧ RegFrame s u [R.SENS_T i.val, R.SENS_PEAK i.val])

/-- Damot requests over the dictionary (R629 to R633, R642). The model's own choices in it: assumptions 95, 96 and 98. -/
def Obligations.DamotRequestsComplete : Prop :=
  (∀ (s u : State) (q : DamotReq) (r : ObjRow) (n v : Nat), q.op = 0x01 → s.sound q → u = s.received q →
    findObject q.index.toNat q.sub.toNat = some r → u.servedNow q.index.toNat q.sub.toNat = true → r.access ≠ 4 →
    (typeBytes r.type).isSome = true → u.objectValue r (q.index.toNat - r.idxLo) (q.sub.toNat - r.subLo) = (n, v) →
    exec (.damotGet q) s = .next (u.replyObject q r n 0 n v))
  ∧ (∀ (s : State) (q : DamotReq), q.op = 0x02 → s.sound q → moreOf q = true → Store.get none s.mgt.stage q.pos.val = none →
    q.offset.toNat + q.len.toNat ≤ State.stageLimit → ∃ u : State, exec (.damotSet q) s = .next (u.reply q 0)
      ∧ (∃ x, Store.get none u.mgt.stage q.pos.val = some x ∧ x.addr = q.addr.toNat ∧ x.object = q.index.toNat * 256 + q.sub.toNat
        ∧ x.len = q.offset.toNat + q.len.toNat))
  ∧ (∀ (s : State) (q : DamotReq), q.op = 0x04 → s.sound q → exec (.damotDescribe q) s = .next ((s.received q).damotDescribe q))
  ∧ (∀ (s : State) (q : DamotReq), q.op = 0x20 → s.sound q → ∃ (u : State) (n : Nat), exec (.damotNonce q) s = .next (u.reply q 0 16 n)
    ∧ n < 2 ^ 128 ∧ Store.get none u.mgt.nonces q.pos.val = some n ∧ RegFrame s u [R.DM_REQ_CNT, R.LEASE_LEFT])
  ∧ (∀ (s : State) (q : DamotReq), s.hears q = true → badHeader q = true →
    exec (.damotBadOp q) s = .next ((s.received q).reply q 0xA))
  ∧ (∀ (s : State) (p : Fin 11), exec (.nonceExpiry p) s =
    .next { s with mgt := { s.mgt with nonces := Store.put none s.mgt.nonces p.val none } })
  ∧ (∀ (s : State) (g : BitVec 13) (c : Cmd) (q : DamotReq), s.live g (isAdmin 0xC1) c → 4 ≤ c.req.cdw10 → 4 * c.req.cdw10 ≤ 8208 →
    exec (.damotSend g q) s = .next ((s.finish c.tag doneOk).damot
      { q with pos := Fin.ofNat 11 (5 + c.port), addr := 0, bytes := 4 * c.req.cdw10 - 16 }))
  ∧ (∀ (s : State) (g : BitVec 13) (c : Cmd) (r : DamotResp), s.live g (isAdmin 0xC2) c → 4 * c.req.cdw10 ≤ 8208 →
    s.mgt.held = [(5 + c.port, 0, r)] → Completes (exec (.damotReceive g) s) fun t => t.endedAs g.toNat doneOk ∧ t.mgt.held = []
      ∧ t.out = .damot (5 + c.port) 0 r :: s.out ∧ t.regs = s.regs)

/-- Ownership (R635 to R637). The model's own choices in it: assumptions 99 and 96. -/
def Obligations.OwnershipCommandsComplete : Prop :=
  (∀ (s : State) (q : DamotReq), q.op = 0x10 → s.sound q → authOf q = false → s.rd R.OWN_STATE = 0 →
    ∃ u : State, exec (.damotClaim [q]) s = .next (u.reply q 0) ∧ u.rd R.OWN_STATE = 1 ∧ u.rd R.OWN_POS = q.pos.val
      ∧ u.ownedBy q.pos.val q.addr.toNat = true ∧ u.rd R.LEASE_LEFT = s.rd R.LEASE_S ∧ u.linePending 208 = true
      ∧ u.rd R.OWN_TOKEN = (q.pos.val + 1) % 11)
  ∧ (∀ (s : State) (q : DamotReq), q.op = 0x11 → s.sound q → s.ownerSends q = true → ∃ u : State,
    exec (.damotRelease q) s = .next (u.reply q 0) ∧ u.rd R.OWN_STATE = 0 ∧ u.rd R.OWN_POS = 0xF ∧ u.linePending 208 = true)
  ∧ (∀ (s : State) (q : DamotReq), q.op = 0x13 → s.sound q → s.ownerSends q = true → Arith.field q.payload 0 8 ≤ 10 → ∃ u : State,
    exec (.damotOffer q) s = .next (u.reply q 0) ∧ u.rd R.OWN_STATE = 2 ∧ u.rd R.OFFER_POS = Arith.field q.payload 0 8
      ∧ u.mgt.offerAddr = Arith.field q.payload 8 64 ∧ u.rd R.OWN_POS = s.rd R.OWN_POS ∧ u.linePending 208 = true)
  ∧ (∀ (s : State) (q : DamotReq), q.op = 0x14 → s.sound q → s.rd R.OWN_STATE = 2 → s.rd R.OFFER_POS = q.pos.val →
    s.mgt.offerAddr = q.addr.toNat → ∃ u : State, exec (.damotAccept q) s = .next (u.reply q 0) ∧ u.rd R.OWN_STATE = 1
      ∧ u.ownedBy q.pos.val q.addr.toNat = true ∧ u.rd R.LEASE_LEFT = s.rd R.LEASE_S ∧ u.linePending 208 = true)
  ∧ (∀ s : State, s.rd R.OWN_STATE ≠ 0 → Completes (exec .leaseExpiry s) fun t => t.rd R.OWN_STATE = 0 ∧ t.rd R.OWN_POS = 0xF
    ∧ t.rd R.LEASE_LEFT = 0 ∧ t.linePending 208 = true ∧ t.linePending 211 = true ∧ RegsOnly s t)
  ∧ (∀ s : State, s.rd R.OWN_STATE = 2 → Completes (exec .offerTimeout s) fun t => t.rd R.OWN_STATE = 1 ∧ t.rd R.OFFER_POS = 0xF
    ∧ t.linePending 212 = true ∧ RegFrame s t [R.OWN_STATE, R.OFFER_POS, R.PEND_BITS 6])
  ∧ (∀ s : State, s.reachable R.OWN_DROP.addr = true → s.rd R.OWN_STATE ≠ 0 → Completes (exec .ownDrop s) fun t =>
    t.rd R.OWN_STATE = 0 ∧ t.rd R.OWN_POS = 0xF ∧ t.linePending 208 = true ∧ RegsOnly s t)

/-- Dictionary writes that burn fuses, commit an update, boot a recovery image or unlock debug access (R125, R134 to R136,
R152, R558, R643, R651 to R654). The model's own choices in it: assumptions 97, 99 and 98. -/
def Obligations.FixedWritesComplete : Prop :=
  (∀ (s : State) (q : DamotReq) (v : Nat), q.op = 0x02 → q.index = 0x8010 → q.sub = 6 → s.setWhole q 1 v → authOf q = false →
    s.ownerSends q = true → v ≤ 1 → (∀ x, s.bootRecord = some x → x.1.seq + 1 < 2 ^ 32) → Completes (exec (.spinAtBootWrite q) s) fun t =>
      t.spinAtBoot = (v == 1))
  ∧ (∀ (s : State) (q : DamotReq) (v : Nat), q.op = 0x02 → q.index = 0x8010 → q.sub = 3 → s.setWhole q 1 v → authOf q = true →
    v ≤ 7 → s.boot.burn = none → s.flag R.PF_ACTIVE = false → s.mayRevoke v = true → Completes (exec (.keySlotRevoke q) s) fun t => t.fuses = s.fuses
      ∧ (s.tokenResult q 1 v = 0 → t.boot = { s.boot with burn := some (.revoke v) })
      ∧ (s.tokenResult q 1 v ≠ 0 → t.boot = s.boot ∧ t.rd R.AUTH_FAIL_CNT = min 255 (s.rd R.AUTH_FAIL_CNT + 1)))
  ∧ (∀ (s : State) (q : DamotReq) (v : Nat), q.op = 0x02 → q.index = 0x8010 → q.sub = 1 → s.setWhole q 1 v → authOf q = true →
    v ≤ 127 → s.boot.burn = none → s.flag R.PF_ACTIVE = false → State.mayRaise s.fuses.fwSvnMin v s.boot.firmware = true → Completes (exec (.firmwareSvnMin q) s) fun t => t.fuses = s.fuses
      ∧ (s.tokenResult q 1 v = 0 → t.boot = { s.boot with burn := some (.fwSvn v) })
      ∧ (s.tokenResult q 1 v ≠ 0 → t.boot = s.boot ∧ t.rd R.AUTH_FAIL_CNT = min 255 (s.rd R.AUTH_FAIL_CNT + 1)))
  ∧ (∀ (s : State) (q : DamotReq) (v : Nat), q.op = 0x02 → q.index = 0x8010 → q.sub = 2 → s.setWhole q 1 v → authOf q = true →
    v ≤ 63 → s.boot.burn = none → s.flag R.PF_ACTIVE = false → State.mayRaise s.fuses.mcSvnMin v s.boot.microcode = true → Completes (exec (.microcodeSvnMin q) s) fun t => t.fuses = s.fuses
      ∧ (s.tokenResult q 1 v = 0 → t.boot = { s.boot with burn := some (.mcSvn v) })
      ∧ (s.tokenResult q 1 v ≠ 0 → t.boot = s.boot ∧ t.rd R.AUTH_FAIL_CNT = min 255 (s.rd R.AUTH_FAIL_CNT + 1)))
  ∧ (∀ (s : State) (q : DamotReq) (v : Nat), q.op = 0x02 → q.index = 0xA003 → q.sub = 3 → s.setWhole q 4 v → authOf q = true →
    v ≤ 16777215 → s.boot.burn = none → s.flag R.PF_ACTIVE = false → s.mayBurn (.spareRow v) = true → Completes (exec (.spareRowBurn q) s) fun t => t.fuses = s.fuses
      ∧ (s.tokenResult q 4 v = 0 → t.boot = { s.boot with burn := some (.spareRow v) })
      ∧ (s.tokenResult q 4 v ≠ 0 → t.boot = s.boot ∧ t.rd R.AUTH_FAIL_CNT = min 255 (s.rd R.AUTH_FAIL_CNT + 1)))
  ∧ (∀ (s : State) (q : DamotReq) (v : Nat), q.op = 0x02 → q.index = 0x8030 → q.sub = 2 → s.setWhole q 1 v → authOf q = false →
    s.ownerSends q = true → 1 ≤ v → v ≤ 4 → s.boot.update = none → s.slotRuns (v - 1) = false → Completes (exec (.updateCommit q) s) fun t =>
      (imageCode s.fuses (s.stagedImage 6) (decide (2 ≤ v - 1)) false = 0 →
          t.boot = { s.boot with update := some ⟨6, v - 1, 0, s.stagedImage 6, none⟩ })
        ∧ (imageCode s.fuses (s.stagedImage 6) (decide (2 ≤ v - 1)) false ≠ 0 → t.boot = s.boot ∧ t.linePending 202 = true
          ∧ t.mgt.updateStatus = imageCode s.fuses (s.stagedImage 6) (decide (2 ≤ v - 1)) false))
  ∧ (∀ (s : State) (q : DamotReq), q.op = 0x02 → q.index = 0x8040 → q.sub = 2 → s.setWhole q 1 1 → authOf q = false →
    s.ownerSends q = true → s.flag R.BOOT_RECOVERY = true → loadAddress (s.stagedImage 7) < 0x800000000 → Completes (exec (.recoveryBoot q) s) fun t =>
      (imageCode s.fuses (s.stagedImage 7) false false = 0 → t.boot = { s.boot with phase := .firmware, firmware := some (s.stagedImage 7) }
          ∧ t.rd R.BOOT_KEYSLOT = keySlot (s.stagedImage 7) % 2 ^ R.BOOT_KEYSLOT.width)
        ∧ (imageCode s.fuses (s.stagedImage 7) false false ≠ 0 → t.boot = s.boot))
  ∧ (∀ (s : State) (q : DamotReq), q.op = 0x02 → q.index = 0x8050 → q.sub = 1 → s.setWhole q 1 1 → authOf q = true →
    s.fuses.lifecycle % 4 = 0 → Completes (exec (.debugUnlock q) s) fun t => t.fuses = s.fuses
      ∧ (s.tokenResult q 1 1 = 0 → t.flag R.DBG_UNLOCKED = true ∧ t.linePending 203 = true)
      ∧ (s.tokenResult q 1 1 ≠ 0 → t.flag R.DBG_UNLOCKED = s.flag R.DBG_UNLOCKED ∧ t.rd R.AUTH_FAIL_CNT = min 255 (s.rd R.AUTH_FAIL_CNT + 1)))

/-- REGISTER_WRITE (R7 to R10, R17, R29, R30, R33): to a register of a block that is on, of one that is off, and to the SRAM.
The model's own choices in it: assumptions 19 and 20. -/
def Obligations.RegisterWriteCompletes : Prop :=
  (∀ (s : State) (x : RegAccess), s.mayWrite x.writer = true → x.addr.toNat / 2 ^ 28 = 4 → x.whole = true → x.addr.toNat % 4 = 0 →
    State.inWindow x.addr.toNat = true → s.reachable x.addr.toNat = true → exec (.registerWrite [x]) s =
      .next ((s.wr R.REG_TOKEN ((State.writerPos x.writer + 1) % 3)).regWrite x.addr.toNat x.value.toNat (State.writerMask x)))
  ∧ (∀ (s : State) (v : BitVec 32), s.boot.cores.testBit 0 = true → s.reachable R.FW_DETAIL.addr = true →
    Completes (exec (.registerWrite [{ writer := .core 0, addr := BitVec.ofNat 36 R.FW_DETAIL.addr, value := v }]) s) fun t =>
      t.rd R.FW_DETAIL = v.toNat ∧ t.rd R.REG_TOKEN = 1 ∧ RegsOnly s t ∧ RegFrame s t [R.FW_DETAIL, R.REG_TOKEN])
  ∧ (∀ (s : State) (x : RegAccess), s.mayWrite x.writer = true → x.addr.toNat / 2 ^ 28 = 4 → s.reachable x.addr.toNat = false →
    Completes (exec (.registerWrite [x]) s) fun t => t.out = .busError x.addr.toNat :: s.out ∧ RegFrame s t [])
  ∧ (∀ (s : State) (x : RegAccess), s.mayWrite x.writer = true → 0x10000000 ≤ x.addr.toNat → x.addr.toNat ≤ 0x117FFFFC →
    Completes (exec (.registerWrite [x]) s) fun t =>
      (∀ i < 4, Store.get 0 t.sram (x.addr.toNat + i) = BitVec.ofNat 8 (x.value.toNat / 2 ^ (8 * i)))
        ∧ (∀ a, a < x.addr.toNat ∨ x.addr.toNat + 4 ≤ a → Store.get 0 t.sram a = Store.get 0 s.sram a)
        ∧ RegFrame s t [R.REG_TOKEN] ∧ t.out = s.out)

/-- Keys, MCTP control and the I3C target (R121, R144, R627, R628, R636). The model's own choices in it: assumption 101. -/
def Obligations.EndpointCommandsComplete : Prop :=
  (∀ s : State, s.firmwareRuns = true → s.mgt.signWait = [] → Completes (exec .devidKeyReady s) fun t => t.flag R.DEVID_READY = true
    ∧ (∀ k < 8, t.rd (R.DEVID_HASH_W k) = Arith.field (Config.shake256 256 1793 (Config.falconPublic s.devidSeed)) (32 * k) 32)
    ∧ RegsOnly s t)
  ∧ (∀ s : State, s.flag R.DEVID_READY = true → s.mgt.signWait = [] → Completes (exec .aliasKeyReady s) fun t =>
    t.flag R.ALIAS_READY = true ∧ RegsOnly s t ∧ RegFrame s t [R.ALIAS_READY])
  ∧ (∀ (s : State) (p : Fin 5) (e : BitVec 8), s.mctpUp p.val = true → e ≠ 0 → e ≠ 0xFF → Completes (exec (.setEndpointId p e) s) fun t =>
    t.eid p.val = e.toNat ∧ t.out = .mctp p.val 0 [("EID", e.toNat)] :: s.out ∧ t.regs = s.regs
      ∧ ∀ j, j ≠ p.val → t.eid j = s.eid j)
  ∧ (∀ (s : State) (p : Fin 5), s.mctpUp p.val = true → exec (.getEndpointId p) s = .next (s.emit (.mctp p.val 0 [("EID", s.eid p.val)])))
  ∧ (∀ (s : State) (p : Fin 5) (y : BitVec 8), s.mctpUp p.val = true → y.toNat ∈ [0x00, 0x05, 0x7E, 0xFF] →
    Completes (exec (.getMctpVersionSupport p y) s) fun t => ∃ v, t = { s with freeCount := s.freeCount + 1, out := .mctp p.val 0 [("VERSIONS", v)] :: s.out })
  ∧ (∀ (s : State) (p : Fin 5), s.mctpUp p.val = true → exec (.getMessageTypeSupport p) s =
    .next (s.emit (.mctp p.val 0 [("TYPE", 0x00), ("TYPE", 0x05), ("TYPE", 0x7E)])))
  ∧ (∀ (s : State) (p : Fin 5), s.mctpUp p.val = true → exec (.getVendorDefinedMsgSupport p 0) s =
    .next (s.emit (.mctp p.val 0 [("NEXT", 0xFF), ("PCI_VENDOR", Config.pciVendorId % 65536)])))
  ∧ (∀ (s : State) (a : BitVec 7), s.dom.core = true → s.flag R.I3C_EN = true → s.rd R.I3C_DYN = 0 → Completes (exec (.entdaa a) s) fun t =>
    t.rd R.I3C_DYN = a.toNat ∧ t.out = .provisionalId (crc32c 16 s.fuses.serial) :: s.out ∧ RegFrame s t [R.I3C_DYN])
  ∧ (∀ (s : State) (a b : BitVec 7), s.dom.core = true → s.flag R.I3C_EN = true → s.rd R.I3C_DYN = 0 → a.toNat = s.rd R.I3C_STATIC →
    Completes (exec (.setdasa a b) s) fun t => t.rd R.I3C_DYN = b.toNat ∧ RegsOnly s t ∧ RegFrame s t [R.I3C_DYN])
  ∧ (∀ s : State, Completes (exec .i3cDynamicAddressLoss s) fun t => t.rd R.I3C_DYN = 0 ∧ Store.get none t.mgt.stage 4 = none
    ∧ (s.rd R.OWN_POS = 4 → t.rd R.OWN_STATE = 0))

/-- SPDM (R644 to R647). The model's own choices in it: assumption 102. -/
def Obligations.SpdmRequestsComplete : Prop :=
  (∀ (s : State) (p : Fin 5), s.mctpUp p.val = true → Completes (exec (.getVersion p) s) fun t =>
    t.spdmAt p.val = { open_ := true, handles := (s.spdmAt p.val).handles }
      ∧ t.out = .spdm p.val (.answer 0x84 10 [("VERSION", 0x12), ("VERSION", 0x13)]) :: s.out)
  ∧ (∀ (s : State) (p : Fin 5) (v : BitVec 8) (n : BitVec 32), s.mctpUp p.val = true → (s.spdmAt p.val).open_ = true →
    (s.spdmAt p.val).version = none → (v = 0x12 ∨ v = 0x13) → 42 ≤ n.toNat → Completes (exec (.getCapabilities p v n) s) fun t =>
      t.spdmAt p.val = { s.spdmAt p.val with version := some v.toNat, transfer := n.toNat })
  ∧ (∀ (s : State) (p : Fin 5) (a h : Bool), s.mctpUp p.val = true → (s.spdmAt p.val).version.isSome = true →
    (s.spdmAt p.val).chosen = false → (a || h) = true → 44 ≤ (s.spdmAt p.val).transfer → Completes (exec (.negotiateAlgorithms p a h) s) fun t =>
      t.spdmAt p.val = { s.spdmAt p.val with chosen := true }
        ∧ t.out = .spdm p.val (.answer 0xE3 (36 + 4 * (Arith.ofBool a + Arith.ofBool h)) (State.algorithms a h)) :: s.out)
  ∧ (∀ (s : State) (p : Fin 5) (l : List (Nat × Nat)), s.mctpUp p.val = true → (s.spdmAt p.val).chosen = true →
    132 ≤ (s.spdmAt p.val).transfer → l = [0, 1].filterMap (fun k => s.slotChain k) → Completes (exec (.getDigests p) s) fun t =>
      t.out = .spdm p.val (.answer 0x81 (4 + 64 * l.length)
        (("SLOT_MASK", 2 ^ l.length - 1) :: l.map fun c => ("DIGEST", State.chainDigest c))) :: s.out ∧ t.mgt = s.mgt)
  ∧ (∀ (s u : State) (p : Fin 5) (k : BitVec 4) (o n : BitVec 16) (c : Nat × Nat), s.mctpUp p.val = true → (s.spdmAt p.val).chosen = true →
    s.slotChain k.toNat = some c → o.toNat < c.1 → u = s.spdmSend p.val (.answer 0x82 (8 + min n.toNat (c.1 - o.toNat))
      [("SLOT", k.toNat), ("LENGTH", min n.toNat (c.1 - o.toNat)), ("REMAINDER", c.1 - o.toNat - min n.toNat (c.1 - o.toNat)),
       ("CHAIN", Arith.field c.2 (8 * o.toNat) (8 * min n.toNat (c.1 - o.toNat)))]) →
    Completes (exec (.getCertificate p k o n) s) fun t => t.mgt = u.mgt ∧ t.out = u.out ∧ RegFrame s t [])
  ∧ (∀ (s u : State) (p : Fin 5) (k : BitVec 4) (c : Nat × Nat), s.mctpUp p.val = true → (s.spdmAt p.val).chosen = true → k.toNat < 2 →
    u = s.wr R.SEC_TOKEN ((p.val + 1) % 5) → u.keyReady k.toNat = true → u.slotChain k.toNat = some c → 1564 ≤ (s.spdmAt p.val).transfer →
    Completes (exec (.challenge p k []) s) fun t => t.rd R.SEC_TOKEN = (p.val + 1) % 5 ∧ t.freeCount = s.freeCount + 3
      ∧ ∃ n g, t.out = .spdm p.val (.answer 0x83 1564
        [("SLOT", k.toNat), ("CHAIN_HASH", State.chainDigest c), ("NONCE", n % 2 ^ 256), ("SIGNATURE", g)]) :: s.out)
  ∧ (∀ (s : State) (p : Fin 5) (i : BitVec 8) (k : BitVec 4) (l : List Nat), s.mctpUp p.val = true → (s.spdmAt p.val).chosen = true →
    State.measured i.toNat = some l → (s.spdmAt p.val).transfer = 0 → Completes (exec (.getMeasurements p i false k []) s) fun t =>
      t.freeCount = s.freeCount + 2 ∧ ∃ n b r, t.out = .spdm p.val (.answer 0xE0 n
        [("COUNT", if i = 0 then 12 else l.length), ("BLOCKS", b), ("NONCE", r % 2 ^ 256)]) :: s.out)
  ∧ (∀ (s : State) (p : Fin 5) (h : BitVec 8) (k : BitVec 16) (z w : BitVec 32) (q : SpdmReq) (n : Nat), s.mctpUp p.val = true →
    State.chunkHeld (s.spdmAt p.val) h.toNat k.toNat = some n → (s.spdmAt p.val).version.isSome = true → z.toNat ≤ 4096 → w.toNat ≤ 65536 →
    n + z.toNat < w.toNat → Completes (exec (.chunkSend p h k z w false q) s) fun t =>
      t.spdmAt p.val = { s.spdmAt p.val with sending := some (h.toNat, k.toNat + 1, n + z.toNat) } ∧ t.regs = s.regs
        ∧ t.out = .spdm p.val (.answer 0x85 6 [("HANDLE", h.toNat), ("CHUNK", k.toNat)]) :: s.out)
  ∧ (∀ (s : State) (p : Fin 5) (h : BitVec 8) (k : BitVec 16) (o n : Nat) (r : SpdmResp), s.mctpUp p.val = true →
    (s.spdmAt p.val).large = some (h.toNat, k.toNat, o, r) →
    n = min ((s.spdmAt p.val).transfer - if k.toNat = 0 then 16 else 12) (State.spdmLength r - o) → Completes (exec (.chunkGet p h k) s) fun t =>
      t.out = .spdmChunk p.val k.toNat o n (State.spdmLength r == o + n) r :: s.out ∧ t.regs = s.regs
        ∧ (State.spdmLength r = o + n → (t.spdmAt p.val).large = none))
  ∧ (∀ (s : State) (p : Fin 5) (c : BitVec 8), s.mctpUp p.val = true → Completes (exec (.spdmUnsupportedRequest p c) s) fun t =>
    t.out = .spdm p.val (.error 0x07 c.toNat) :: s.out ∧ t.mgt = s.mgt)

/-- One step of the block takes the command at the front of the queue and runs it with the rest waiting; an empty queue lets a
microsecond pass, which is the model's own choice (assumption 1). -/
def Obligations.StepTakesTheFront : Prop :=
  (∀ (s : State) (c : Instr) (l : List Instr), s.pending = c :: l → step s = exec c { s with pending := l })
  ∧ (∀ s : State, s.pending = [] → step s = .next s.tick)

/-- The state after reset: the AON domain alone is supplied, every register field holds its reset value, no memory is listed,
no command waits, and the invariant holds (R11, R117). That the fuses read 0 and the memories are empty is the model's choice
(assumptions 12, 13 and 14). -/
def Obligations.ResetHoldsTheInvariant : Prop :=
  Inv State.reset ∧ State.reset.dom = { aon := true } ∧ State.reset.pending = [] ∧ State.reset.out = []
  ∧ State.reset.sram = [] ∧ State.reset.dram = {} ∧ State.reset.hosts = {} ∧ State.reset.media = {} ∧ State.reset.fcu = {}
  ∧ (∀ f : Fld, f.rst < 2 ^ 32 → State.reset.rd f = Arith.field f.rst f.lo f.width)
  ∧ State.reset.flag R.RC_AON_POR = true

/-- Every step answers a next state, takes the front command off the queue and keeps the invariant: the register file, the SRAM
and the DRAM stay in their canonical forms, and no burn under way would lower a fused minimum. The model's own choices in it:
assumptions 1 and 5. -/
def Obligations.EveryStepKeepsTheInvariant : Prop :=
  ∀ s : State, Inv s → ∃ t, step s = .next t ∧ Inv t ∧ t.pending = s.pending.tail

/-- No step unburns a fuse: the identity, the keys and the configuration never change; a revoked key slot stays revoked and a
minimum version never falls (R133 to R136). The model's own choices in it: assumption 1. -/
def Obligations.FusesAreOneWay : Prop :=
  ∀ s t : State, BurnOk s → step s = .next t → t.fuses.unburned = s.fuses.unburned ∧ OneWay s.fuses t.fuses

/-- Every command completes from every state, whatever its operands: it leaves the queue alone, takes back nothing that was
sent, and takes only fresh free values. The model's own choices in it: assumptions 5 and 9. -/
def Obligations.EveryCommandCompletes : Prop :=
  ∀ (c : Instr) (s : State), ∃ t, exec c s = .next t ∧ t.pending = s.pending ∧ s.out <:+ t.out ∧ s.freeCount ≤ t.freeCount

/-- R47: a claim returns the pending line of the highest priority routed to the core, the lowest among equals, and clears its
pending bit; where no such line is pending it returns no line. -/
def Obligations.ClaimTakesTheBestLine : Prop :=
  (∀ (s : State) (c : Fin 4) (n : Nat), s.reachable (R.CLAIM_LINE 0).addr = true → n < 256 → s.linePending n = true →
    s.bitAt (R.ROUTE_CORES n) c.val = true → (∀ m < 256, s.linePending m = true → s.bitAt (R.ROUTE_CORES m) c.val = true →
      s.rd (R.ROUTE_PRIO m) < s.rd (R.ROUTE_PRIO n) ∨ s.rd (R.ROUTE_PRIO m) = s.rd (R.ROUTE_PRIO n) ∧ n ≤ m) →
    Completes (exec (.evrClaim [c] []) s) fun t => t.out = .claim c.val (0x80000000 + n) :: s.out ∧ t.linePending n = false
      ∧ (∀ m < 256, m ≠ n → t.linePending m = s.linePending m) ∧ RegFrame s t [R.CLAIM_TOKEN, R.PEND_BITS (n / 32)]
      ∧ t = { s with regs := t.regs, out := t.out })
  ∧ (∀ (s : State) (c : Fin 4), s.reachable (R.CLAIM_LINE 0).addr = true →
    (∀ m < 256, s.linePending m = true → s.bitAt (R.ROUTE_CORES m) c.val = false) →
    Completes (exec (.evrClaim [c] []) s) fun t => t.out = .claim c.val 0 :: s.out ∧ RegFrame s t [R.CLAIM_TOKEN]
      ∧ t = { s with regs := t.regs, out := t.out })

/-- R677: COHORT_ID loads COHORT_PHASE, firmware may write COHORT_PHASE, and no two of the first 4,096 members share a phase.
-/
def Obligations.CohortPhasesDiffer : Prop :=
  (∀ (s : State) (i : BitVec 12), s.reachable R.COHORT_ID.addr = true → Completes (exec (.cohortIdWrite i) s) fun t =>
    t.rd R.COHORT_ID = i.toNat ∧ t.rd R.COHORT_PHASE = i.toNat * 40503 % 65536 ∧ RegsOnly s t
      ∧ RegFrame s t [R.REG_TOKEN, R.COHORT_ID, R.COHORT_PHASE])
  ∧ (∀ (s : State) (v : BitVec 16), s.boot.cores.testBit 0 = true → s.reachable R.COHORT_PHASE.addr = true →
    Completes (exec (.registerWrite [{ writer := .core 0, addr := BitVec.ofNat 36 R.COHORT_PHASE.addr, value := v.zeroExtend 32 }]) s)
      fun t => t.rd R.COHORT_PHASE = v.toNat ∧ RegsOnly s t ∧ RegFrame s t [R.COHORT_PHASE, R.REG_TOKEN])
  ∧ (∀ (s u : State) (i j : BitVec 12), s.reachable R.COHORT_ID.addr = true → u.reachable R.COHORT_ID.addr = true → i ≠ j →
    Completes (exec (.cohortIdWrite i) s) fun t => Completes (exec (.cohortIdWrite j) u) fun v =>
      t.rd R.COHORT_PHASE ≠ v.rd R.COHORT_PHASE)

/-- R9: an access of another width or alignment writes nothing and ends in a bus error. -/
def Obligations.MalformedAccessWritesNothing : Prop :=
  (∀ (s : State) (x : RegAccess), s.mayWrite x.writer = true → x.addr.toNat / 2 ^ 28 = 4 → (x.whole = false ∨ x.addr.toNat % 4 ≠ 0) →
    Completes (exec (.registerWrite [x]) s) fun t => RegFrame s t []
      ∧ t = { s with regs := t.regs, out := .busError x.addr.toNat :: s.out })

/-- R16, as every arbiter of the model applies it: the requester granted is the one nearest to the token, counting upward and
wrapping; several served in one cycle are served in that order, each once; the token ends one past the last. The model's own
choices in it: assumption 10. -/
def Obligations.TurnTokenOrder : Prop :=
  ∀ (n token : Nat) (req : List Nat), token < n →
    (∀ i, tokenGrant n token req = some i ↔ i < n ∧ i ∈ req ∧ ∀ j ∈ req, j < n → (i + n - token) % n ≤ (j + n - token) % n)
    ∧ (tokenOrder n token req).Pairwise (fun i j => (i + n - token) % n < (j + n - token) % n)
    ∧ (∀ i, i ∈ tokenOrder n token req ↔ i < n ∧ i ∈ req)
    ∧ (∀ l : List Nat, tokenAfter n token l = (match l.getLast? with | some i => (i + 1) % n | none => token))

/-- R44, R49: an event sets its line's pending bit, a repeat leaves one bit set, and no other line changes. -/
def Obligations.EventsSetOneBit : Prop :=
  ∀ (s : State) (n : Nat), n < 256 → (s.raise n).linePending n = true ∧ (s.raise n).raise n = s.raise n
    ∧ (∀ m < 256, m ≠ n → (s.raise n).linePending m = s.linePending m) ∧ RegsOnly s (s.raise n)
    ∧ RegFrame s (s.raise n) [R.PEND_BITS (n / 32)]
end

