-- ==== Sys2Proof/Laws/Store.lean ====
section
/-!
SUPPORT. Laws/Store.lean: the laws of the sparse store: reading after a write, and the canonical form that every write keeps.
-/
namespace Sys2Proof.Store

variable {β : Type}

theorem get_erase_same (d : β) (m : Store β) (k : Nat) : get d (erase m k) k = d := by
  induction m with
  | nil => rfl
  | cons e m ih =>
    by_cases h : e.1 = k
    · simp only [erase, List.filter_cons, h]
      simpa [erase] using ih
    · simp only [erase, List.filter_cons, bne_iff_ne, ne_eq, h, not_false_eq_true, if_true]
      simpa [get, h, erase] using ih

theorem get_erase_other (d : β) (m : Store β) {k j : Nat} (h : j ≠ k) : get d (erase m k) j = get d m j := by
  induction m with
  | nil => rfl
  | cons e m ih =>
    by_cases h' : e.1 = k
    · have : e.1 ≠ j := fun x => h (x ▸ h')
      simp only [erase, List.filter_cons, h']
      simpa [get, h', erase, Ne.symm h] using ih
    · simp only [erase, List.filter_cons, bne_iff_ne, ne_eq, h', not_false_eq_true, if_true, get]
      split
      · rfl
      · exact ih

theorem get_insert_same (d : β) (m : Store β) (k : Nat) (v : β) (h : ∀ e ∈ m, e.1 ≠ k) : get d (insert m k v) k = v := by
  induction m with
  | nil => simp [insert, get]
  | cons e m ih =>
    have h1 : e.1 ≠ k := h e (by simp)
    simp only [insert]
    split
    · simp [get]
    · simp only [get, h1, if_false]
      exact ih fun x hx => h x (by simp [hx])

theorem get_insert_other (d : β) (m : Store β) {k j : Nat} (v : β) (h : j ≠ k) : get d (insert m k v) j = get d m j := by
  induction m with
  | nil => simp [insert, get, Ne.symm h]
  | cons e m ih =>
    simp only [insert]
    split
    · simp [get, Ne.symm h]
    · simp only [get, ih]

theorem ne_of_mem_erase (m : Store β) (k : Nat) : ∀ e ∈ erase m k, e.1 ≠ k := by
  intro e he
  simpa using (List.mem_filter.mp he).2

variable [DecidableEq β]

/-- A write is read back. -/
@[simp] theorem get_put_same (d : β) (m : Store β) (k : Nat) (v : β) : get d (put d m k v) k = v := by
  unfold put
  split
  · next h => rw [get_erase_same, h]
  · exact get_insert_same d _ k v (ne_of_mem_erase m k)

/-- A write leaves every other place alone, whatever an unlisted place reads as. -/
theorem get_put_ne (d e : β) (m : Store β) {k j : Nat} (v : β) (h : j ≠ k) : get e (put d m k v) j = get e m j := by
  unfold put
  split
  · exact get_erase_other e m h
  · rw [get_insert_other e _ v h, get_erase_other e m h]

/-- A write leaves every other place alone. -/
theorem get_put_other (d : β) (m : Store β) {k j : Nat} (v : β) (h : j ≠ k) : get d (put d m k v) j = get d m j :=
  get_put_ne d d m v h

/-! ### The canonical form -/

omit [DecidableEq β] in
theorem rising_filter (p : Nat × β → Bool) (m : Store β) (h : rising m = true) : rising (m.filter p) = true := by
  induction m with
  | nil => rfl
  | cons e m ih =>
    simp only [rising, Bool.and_eq_true, List.all_eq_true, decide_eq_true_eq] at h
    simp only [List.filter_cons]
    split
    · simp only [rising, Bool.and_eq_true, List.all_eq_true, decide_eq_true_eq]
      exact ⟨fun x hx => h.1 x (List.mem_filter.mp hx).1, ih h.2⟩
    · exact ih h.2

omit [DecidableEq β] in
theorem mem_insert (m : Store β) (k : Nat) (v : β) {e : Nat × β} (h : e ∈ insert m k v) : e = (k, v) ∨ e ∈ m := by
  induction m with
  | nil => simpa [insert] using h
  | cons x m ih =>
    simp only [insert] at h
    split at h
    · simpa using h
    · rcases List.mem_cons.mp h with h | h
      · exact .inr (by simp [h])
      · rcases ih h with h | h
        · exact .inl h
        · exact .inr (by simp [h])

omit [DecidableEq β] in
theorem rising_insert (m : Store β) (k : Nat) (v : β) (h : rising m = true) (hk : ∀ e ∈ m, e.1 ≠ k) :
    rising (insert m k v) = true := by
  induction m with
  | nil => simp [insert, rising]
  | cons e m ih =>
    simp only [rising, Bool.and_eq_true, List.all_eq_true, decide_eq_true_eq] at h
    have h1 : e.1 ≠ k := hk e (by simp)
    simp only [insert]
    split
    · next hlt =>
      simp only [rising, Bool.and_eq_true, List.all_eq_true, decide_eq_true_eq, List.mem_cons]
      refine ⟨?_, h.1, h.2⟩
      rintro x (rfl | hx)
      · exact hlt
      · exact Nat.lt_trans hlt (h.1 x hx)
    · next hge =>
      simp only [rising, Bool.and_eq_true, List.all_eq_true, decide_eq_true_eq]
      refine ⟨fun x hx => ?_, ih h.2 fun x hx => hk x (by simp [hx])⟩
      rcases mem_insert m k v hx with rfl | hx
      · exact Nat.lt_of_le_of_ne (Nat.not_lt.mp hge) h1
      · exact h.1 x hx

/-- A write keeps the addresses strictly rising. -/
theorem rising_put (d : β) (m : Store β) (k : Nat) (v : β) (h : rising m = true) : rising (put d m k v) = true := by
  unfold put
  split
  · exact rising_filter _ m h
  · exact rising_insert _ k v (rising_filter _ m h) (ne_of_mem_erase m k)

/-- A write keeps the canonical form. -/
theorem wf_put (d : β) (m : Store β) (k : Nat) (v : β) (h : wf d m = true) : wf d (put d m k v) = true := by
  simp only [wf, Bool.and_eq_true, List.all_eq_true, decide_eq_true_eq] at h ⊢
  refine ⟨rising_put d m k v h.1, fun e he => ?_⟩
  unfold put at he
  split at he
  · exact h.2 e (List.mem_filter.mp he).1
  · next hv =>
    rcases mem_insert _ k v he with rfl | he
    · exact hv
    · exact h.2 e (List.mem_filter.mp he).1

/-- A fold of writes keeps the canonical form. -/
theorem wf_foldl {α : Type} (d : β) (f : α → Nat) (g : α → β) (l : List α) (m : Store β) (h : wf d m = true) :
    wf d (l.foldl (fun m i => put d m (f i) (g i)) m) = true := by
  induction l generalizing m with
  | nil => exact h
  | cons a l ih => exact ih _ (wf_put d m (f a) (g a) h)

end Sys2Proof.Store
end

