-- ==== Sys2Proof/Laws/Kept.lean ====
section
/-!
SUPPORT. Laws/Kept.lean: what every operation of the block keeps, as one relation between the state before and after: `Kept s t`. The
files Laws/Keeps*.lean hold, for each operation, the lemma that it keeps it.
-/
namespace Sys2Proof.Machine

theorem OneWay.refl (f : Fuses) : OneWay f f := ⟨fun _ h => h, Nat.le_refl _, Nat.le_refl _⟩

theorem OneWay.trans {f g h : Fuses} (a : OneWay f g) (b : OneWay g h) : OneWay f h :=
  ⟨fun k x => b.revoked k (a.revoked k x), Nat.le_trans a.fwSvn b.fwSvn, Nat.le_trans a.mcSvn b.mcSvn⟩

/-- What every operation keeps: the queue; the fuses that no command burns, and the others one way; the canonical form of the
register file, the SRAM and the DRAM; what has been sent; the free values already taken. -/
structure Kept (s t : State) : Prop where
  pending : t.pending = s.pending
  unburned : t.fuses.unburned = s.fuses.unburned
  burns : BurnOk s → BurnOk t ∧ OneWay s.fuses t.fuses
  regs : Store.rising s.regs = true → Store.rising t.regs = true
  sram : Store.wf 0 s.sram = true → Store.wf 0 t.sram = true
  dram : Store.wf 0 s.dram.words = true → Store.wf 0 t.dram.words = true
  sent : s.out <:+ t.out
  fresh : s.freeCount ≤ t.freeCount

namespace Kept

theorem refl (s : State) : Kept s s :=
  ⟨rfl, rfl, fun h => ⟨h, .refl _⟩, id, id, id, List.suffix_refl _, Nat.le_refl _⟩

theorem trans {a b c : State} (x : Kept a b) (y : Kept b c) : Kept a c where
  pending := y.pending.trans x.pending
  unburned := y.unburned.trans x.unburned
  burns h := ⟨(y.burns (x.burns h).1).1, (x.burns h).2.trans (y.burns (x.burns h).1).2⟩
  regs h := y.regs (x.regs h)
  sram h := y.sram (x.sram h)
  dram h := y.dram (x.dram h)
  sent := x.sent.trans y.sent
  fresh := Nat.le_trans x.fresh y.fresh

/-- `trans` from its end. -/
theorem via {a b c : State} (y : Kept b c) (x : Kept a b) : Kept a c := x.trans y

/-- One step of a chain. -/
theorem step {a b c : State} (x : Kept a b) (y : Kept a b → Kept a c) : Kept a c := y x

/-- `via` for the state of a pair. -/
theorem via_fst {β : Type} {a b d : State} {c : β} {p : State × β} (y : Kept d p.1) (e : p = (b, c)) (x : Kept a d) : Kept a b :=
  x.trans (by rw [e] at y; exact y)

/-- `via` for the state of a pair that holds it second. -/
theorem via_snd {β : Type} {a b d : State} {c : β} {p : β × State} (y : Kept d p.2) (e : p = (c, b)) (x : Kept a d) : Kept a b :=
  x.trans (by rw [e] at y; exact y)

/-- `via` for the state of a triple that holds it third. -/
theorem via_third {β γ : Type} {a b d : State} {c : β} {f : γ} {p : β × γ × State} (y : Kept d p.2.2) (e : p = (c, f, b))
    (x : Kept a d) : Kept a b :=
  x.trans (by rw [e] at y; exact y)

/-- `via` for a state that may be absent. -/
theorem via_some {a b d : State} {p : Option State} (y : ∀ t, p = some t → Kept d t) (e : p = some b) (x : Kept a d) : Kept a b :=
  x.trans (y b e)

/-- A state that agrees with `b` on all that is kept. -/
theorem same {a b c : State} (x : Kept a b) (h1 : c.pending = b.pending) (h2 : c.fuses = b.fuses)
    (h3 : c.boot.burn = b.boot.burn) (h4 : c.regs = b.regs) (h5 : c.sram = b.sram) (h6 : c.dram.words = b.dram.words)
    (h7 : c.out = b.out) (h8 : c.freeCount = b.freeCount) : Kept a c := by
  refine x.trans ⟨h1, by rw [h2], fun h => ⟨?_, ?_⟩, fun h => by rw [h4]; exact h, fun h => by rw [h5]; exact h,
    fun h => by rw [h6]; exact h, h7.symm ▸ List.suffix_refl _, Nat.le_of_eq h8.symm⟩
  · simpa [BurnOk, h2, h3] using h
  · rw [h2]; exact .refl _

/-- A record update of `b` that leaves alone what is kept, a burn under way and the DRAM's words. -/
theorem update {a b : State} {x_dom x_pins x_pwr x_pm x_boot x_ksc x_tap x_cohort x_hosts x_media x_nv x_pak x_mca x_chn x_abx x_svt x_cal x_dram x_mgt x_fsq x_wsq x_ucode x_fcu x_tly x_thm x_usInMs} (x : Kept a b)
    (h3 : x_boot.burn = b.boot.burn) (h6 : x_dram.words = b.dram.words) :
    Kept a (State.mk b.regs b.sram x_dom x_pins x_pwr x_pm b.fuses x_boot x_ksc x_tap x_cohort x_hosts x_media x_nv x_pak x_mca x_chn x_abx x_svt x_cal x_dram x_mgt x_fsq x_wsq x_ucode x_fcu x_tly x_thm b.pending b.out b.freeCount x_usInMs) :=
  x.same rfl rfl h3 rfl rfl h6 rfl rfl

/-- `update` as a rewrite rule. -/
theorem update_iff {a b : State} {x_dom x_pins x_pwr x_pm x_boot x_ksc x_tap x_cohort x_hosts x_media x_nv x_pak x_mca x_chn x_abx x_svt x_cal x_dram x_mgt x_fsq x_wsq x_ucode x_fcu x_tly x_thm x_usInMs}
    (h3 : x_boot.burn = b.boot.burn) (h6 : x_dram.words = b.dram.words) :
    Kept a (State.mk b.regs b.sram x_dom x_pins x_pwr x_pm b.fuses x_boot x_ksc x_tap x_cohort x_hosts x_media x_nv x_pak x_mca x_chn x_abx x_svt x_cal x_dram x_mgt x_fsq x_wsq x_ucode x_fcu x_tly x_thm b.pending b.out b.freeCount x_usInMs)
      ↔ Kept a b :=
  ⟨fun x => x.same rfl rfl h3.symm rfl rfl h6.symm rfl rfl, fun x => x.update h3 h6⟩

theorem foldl {α : Type} {f : State → α → State} (h : ∀ s a, Kept s (f s a)) (l : List α) (s : State) :
    Kept s (l.foldl f s) := by
  induction l generalizing s with
  | nil => exact refl s
  | cons a l ih => exact (h s a).trans (ih _)

/-- A fold whose state is the first of a pair. -/
theorem foldl_fst {α β : Type} {f : State × β → α → State × β} (h : ∀ x a, Kept x.1 (f x a).1) (l : List α) (x : State × β) :
    Kept x.1 (l.foldl f x).1 := by
  induction l generalizing x with
  | nil => exact refl _
  | cons a l ih => exact (h x a).trans (ih _)

end Kept

/-- The outcome is a next state that keeps what every operation keeps. -/
def KeptBy (s : State) (r : Result) : Prop := ∃ t, r = .next t ∧ Kept s t

theorem KeptBy.next {s t : State} (h : Kept s t) : KeptBy s (.next t) := ⟨t, rfl, h⟩

end Sys2Proof.Machine
end

