-- ==== Sys2Proof/Laws/KeepsOps.lean ====
section
/-!
SUPPORT. Laws/KeepsOps.lean: each operation and command of Machine/Ops.lean keeps what every operation keeps (`Kept`).
-/
namespace Sys2Proof.Machine

theorem State.wr_kept (s : State) (f : Fld) (v : ℕ) : Kept s (State.wr s f v) := by
  exact ⟨rfl, rfl, fun h => ⟨h, .refl _⟩, fun h => Store.rising_put _ _ _ _ h, id, id, List.suffix_refl _, Nat.le_refl _⟩

theorem State.wrFlag_kept (s : State) (f : Fld) (b : Bool) : Kept s (State.wrFlag s f b) := by
  unfold State.wrFlag
  repeat' with_reducible first | apply Kept.refl | apply Kept.via (State.wr_kept ..)

theorem State.setBitAt_kept (s : State) (f : Fld) (i : ℕ) : Kept s (State.setBitAt s f i) := by
  unfold State.setBitAt
  repeat' with_reducible first | apply Kept.refl | apply Kept.via (State.wr_kept ..)

theorem State.clrBitAt_kept (s : State) (f : Fld) (i : ℕ) : Kept s (State.clrBitAt s f i) := by
  unfold State.clrBitAt
  repeat' with_reducible first | apply Kept.refl | apply Kept.via (State.wr_kept ..)

theorem State.putBitAt_kept (s : State) (f : Fld) (i : ℕ) (b : Bool) : Kept s (State.putBitAt s f i b) := by
  unfold State.putBitAt
  repeat' with_reducible first | apply Kept.refl | apply Kept.via (State.wr_kept ..)

theorem State.count_kept (s : State) (f : Fld) (d : ℕ) : Kept s (State.count s f d) := by
  unfold State.count
  repeat' with_reducible first | apply Kept.refl | apply Kept.via (State.wr_kept ..)

theorem State.advance_kept (s : State) (f : Fld) (d : ℕ) : Kept s (State.advance s f d) := by
  unfold State.advance
  repeat' with_reducible first | apply Kept.refl | apply Kept.via (State.wr_kept ..)

theorem State.raiseTo_kept (s : State) (f : Fld) (v : ℕ) : Kept s (State.raiseTo s f v) := by
  unfold State.raiseTo
  repeat' first
    | with_reducible first | apply Kept.refl | apply Kept.via (State.wr_kept ..)
    | split

theorem State.clearAll_kept (s : State) (l : List Fld) : Kept s (State.clearAll s l) := by
  unfold State.clearAll
  repeat' first
    | with_reducible first | apply Kept.refl | apply Kept.via (State.wr_kept ..) | apply Kept.via (Kept.foldl ?_ ..)
    | intro _

theorem State.resetBlock_kept (s : State) (base : ℕ) : Kept s (State.resetBlock s base) := by
  exact ⟨rfl, rfl, fun h => ⟨h, .refl _⟩, fun h => Store.rising_filter _ _ h, id, id, List.suffix_refl _, Nat.le_refl _⟩

theorem State.resetRange_kept (s : State) (lo : ℕ) (hi : ℕ) : Kept s (State.resetRange s lo hi) := by
  exact ⟨rfl, rfl, fun h => ⟨h, .refl _⟩, fun h => Store.rising_filter _ _ h, id, id, List.suffix_refl _, Nat.le_refl _⟩

theorem State.emit_kept (s : State) (o : Output) : Kept s (State.emit s o) := by
  exact ⟨rfl, rfl, fun h => ⟨h, .refl _⟩, id, id, id, ⟨[o], rfl⟩, Nat.le_refl _⟩

theorem State.free_kept (s : State) : Kept s (State.free s).2 := by
  exact ⟨rfl, rfl, fun h => ⟨h, .refl _⟩, id, id, id, List.suffix_refl _, Nat.le_succ _⟩

theorem State.raise_kept (s : State) (n : ℕ) : Kept s (State.raise s n) := by
  unfold State.raise
  repeat' with_reducible first | apply Kept.refl | apply Kept.via (State.setBitAt_kept ..)

theorem State.setAtSpeed_kept (s : State) (b : Bool) : Kept s (State.setAtSpeed s b) := by
  unfold State.setAtSpeed
  repeat' first
    | with_reducible first
      | apply Kept.refl | apply Kept.via (State.raise_kept ..) | apply Kept.via (State.wrFlag_kept ..)
    | split

theorem State.accessRead_kept (s : State) (f : Fld) (k : State → State) (h_k : ∀ a0, Kept a0 (k a0)) :
    Kept s (State.accessRead s f k) := by
  have e : @State.accessRead = @State.accessRead := rfl
  conv at e => rhs; delta State.accessRead
  rw [e]; clear e
  dsimp -zeta -iota -proj -eta -zetaUnused -zetaHave -failIfUnchanged only
  repeat' first
    | with_reducible first | apply Kept.refl | assumption | apply Kept.via (State.emit_kept ..) | apply Kept.via (h_k ..)
    | simp -zeta -iota -proj -zetaUnused -zetaHave (disch := rfl) only [Kept.update_iff]
    | intro _
    | (extract_lets -underBinder -merge +onlyGivenNames x; refine Kept.step (b := x) ?_ ?_
       all_goals first | (intro _; clear_value x) | dsimp -zeta -iota -proj -zetaUnused -zetaHave only [x])
    | extract_lets -underBinder -merge +onlyGivenNames x
    | split
    | (clear_value x; split)
    | dsimp only

theorem State.access_kept (s : State) (f : Fld) (k : State → State) (h_k : ∀ a0, Kept a0 (k a0)) :
    Kept s (State.access s f k) := by
  exact State.accessRead_kept _ _ _ fun a => Kept.trans (State.wr_kept a _ _) (h_k _)

theorem State.blockWrote_kept (s : State) : Kept s (State.blockWrote s) := by
  have e : @State.blockWrote = @State.blockWrote := rfl
  conv at e => rhs; delta State.blockWrote
  rw [e]; clear e
  dsimp -zeta -iota -proj -eta -zetaUnused -zetaHave -failIfUnchanged only
  repeat' first
    | with_reducible first | apply Kept.refl | assumption | apply Kept.via (State.wr_kept ..)
    | simp -zeta -iota -proj -zetaUnused -zetaHave (disch := rfl) only [Kept.update_iff]
    | intro _
    | (extract_lets -underBinder -merge +onlyGivenNames x; refine Kept.step (b := x) ?_ ?_
       all_goals first | (intro _; clear_value x) | dsimp -zeta -iota -proj -zetaUnused -zetaHave only [x])
    | extract_lets -underBinder -merge +onlyGivenNames x
    | split
    | (clear_value x; split)
    | dsimp only

end Sys2Proof.Machine
end

