-- ==== Sys2Proof/Laws/KeepsFlags.lean ====
section
/-!
SUPPORT. Laws/KeepsFlags.lean: each operation and command of Machine/Flags.lean keeps what every operation keeps (`Kept`).
-/
namespace Sys2Proof.Machine

theorem State.w1c_kept (s : State) (f : Fld) (v : ℕ) (any : Option ℕ) : Kept s (State.w1c s f v any) := by
  unfold State.w1c
  repeat' first
    | with_reducible first | apply Kept.refl | apply Kept.via (State.wr_kept ..)
    | split

theorem State.raiseLatch_kept (s : State) (src : ℕ) (cls : ℕ) (sev : ℕ) : Kept s (State.raiseLatch s src cls sev) := by
  have e : @State.raiseLatch = @State.raiseLatch := rfl
  conv at e => rhs; delta State.raiseLatch
  rw [e]; clear e
  dsimp -zeta -iota -proj -eta -zetaUnused -zetaHave -failIfUnchanged only
  repeat' first
    | with_reducible first
      | apply Kept.refl | assumption | apply Kept.via (State.raise_kept ..) | apply Kept.via (State.wr_kept ..)
      | apply Kept.via (State.raiseTo_kept ..)
    | simp -zeta -iota -proj -zetaUnused -zetaHave (disch := rfl) only [Kept.update_iff]
    | intro _
    | (extract_lets -underBinder -merge +onlyGivenNames x; refine Kept.step (b := x) ?_ ?_
       all_goals first | (intro _; clear_value x) | dsimp -zeta -iota -proj -zetaUnused -zetaHave only [x])
    | extract_lets -underBinder -merge +onlyGivenNames x
    | split
    | (clear_value x; split)
    | dsimp only

end Sys2Proof.Machine
end

