-- ==== Sys2Proof/Laws/KeepsReaction.lean ====
section
/-!
SUPPORT. Laws/KeepsReaction.lean: each operation and command of Machine/Reaction.lean keeps what every operation keeps (`Kept`).
-/
namespace Sys2Proof.Machine

theorem State.modSlot_kept (s : State) (k : ℕ) (f : ChanSlot → ChanSlot) : Kept s (State.modSlot s k f) := by
  unfold State.modSlot
  repeat' first
    | with_reducible first | apply Kept.refl
    | simp -zeta -iota -proj -zetaUnused -zetaHave (disch := rfl) only [Kept.update_iff]

theorem State.recordCut_kept (s : State) (n : ℕ) (h : ℕ) (src : ℕ) : Kept s (State.recordCut s n h src) := by
  unfold State.recordCut
  repeat' first
    | with_reducible first
      | apply Kept.refl | apply Kept.via (State.clrBitAt_kept ..) | apply Kept.via (State.free_kept ..)
      | apply Kept.via (State.count_kept ..) | apply Kept.via (State.wr_kept ..) | apply Kept.via (State.modSlot_kept ..)
    | simp -zeta -iota -proj -zetaUnused -zetaHave (disch := rfl) only [Kept.update_iff]
    | split

theorem State.cutSlot_kept (s : State) (n : ℕ) (h : ℕ) (src : ℕ) : Kept s (State.cutSlot s n h src) := by
  unfold State.cutSlot
  repeat' first
    | with_reducible first
      | apply Kept.refl | apply Kept.via (State.raise_kept ..) | apply Kept.via (State.recordCut_kept ..)
    | split

theorem State.cutGates_kept (s : State) (n : ℕ) (src : ℕ) : Kept s (State.cutGates s n src) := by
  unfold State.cutGates
  repeat' with_reducible first | apply Kept.refl | apply Kept.via (State.cutSlot_kept ..)

theorem State.modFsq_kept (s : State) (n : ℕ) (f : Fsq → Fsq) : Kept s (State.modFsq s n f) := by
  unfold State.modFsq
  repeat' first
    | with_reducible first | apply Kept.refl
    | simp -zeta -iota -proj -zetaUnused -zetaHave (disch := rfl) only [Kept.update_iff]

theorem State.modAsd_kept (s : State) (k : ℕ) (f : AsdSlot → AsdSlot) : Kept s (State.modAsd s k f) := by
  unfold State.modAsd
  repeat' first
    | with_reducible first | apply Kept.refl
    | simp -zeta -iota -proj -zetaUnused -zetaHave (disch := rfl) only [Kept.update_iff]

theorem State.modPsi_kept (s : State) (n : ℕ) (p : ℕ) (f : List PsiFrame → List PsiFrame) : Kept s (State.modPsi s n p f) := by
  unfold State.modPsi
  repeat' with_reducible first | apply Kept.refl | apply Kept.via (State.modFsq_kept ..)

theorem State.psiGrant_kept (s : State) (n : ℕ) (before : Option ℕ) : Kept s (State.psiGrant s n before) := by
  unfold State.psiGrant
  repeat' first
    | with_reducible first
      | apply Kept.refl | apply Kept.via (State.wr_kept ..) | apply Kept.via (State.modPsi_kept ..)
      | apply Kept.via (State.modFsq_kept ..)
    | split

theorem State.psiUngrant_kept (s : State) (n : ℕ) : Kept s (State.psiUngrant s n) := by
  unfold State.psiUngrant
  repeat' first
    | with_reducible first
      | apply Kept.refl | apply Kept.via (State.modFsq_kept ..) | apply Kept.via (State.wr_kept ..)
      | apply Kept.via (State.modPsi_kept ..)
    | split

theorem State.psiPush_kept (s : State) (n : ℕ) (p : ℕ) (l : List PsiFrame) (tie : Bool) :
    Kept s (State.psiPush s n p l tie) := by
  unfold State.psiPush
  repeat' first
    | with_reducible first
      | apply Kept.refl | apply Kept.via (State.psiUngrant_kept ..) | apply Kept.via (State.modPsi_kept ..)
      | apply Kept.via (State.psiGrant_kept ..)
    | split

theorem State.forceAssist_kept (s : State) (n : ℕ) : Kept s (State.forceAssist s n) := by
  have e : @State.forceAssist = @State.forceAssist := rfl
  conv at e => rhs; delta State.forceAssist
  rw [e]; clear e
  dsimp -zeta -iota -proj -eta -zetaUnused -zetaHave -failIfUnchanged only
  repeat' first
    | with_reducible first
      | apply Kept.refl | assumption | apply Kept.via (State.modPsi_kept ..) | apply Kept.via (State.modAsd_kept ..)
      | apply Kept.via (State.wr_kept ..) | apply Kept.via (State.putBitAt_kept ..) | apply Kept.via (State.raise_kept ..)
      | apply Kept.via (State.setBitAt_kept ..)
    | simp -zeta -iota -proj -zetaUnused -zetaHave (disch := rfl) only [Kept.update_iff]
    | intro _
    | (extract_lets -underBinder -merge +onlyGivenNames x; refine Kept.step (b := x) ?_ ?_
       all_goals first | (intro _; clear_value x) | dsimp -zeta -iota -proj -zetaUnused -zetaHave only [x])
    | extract_lets -underBinder -merge +onlyGivenNames x
    | split
    | (clear_value x; split)
    | dsimp only

theorem State.sendCode_kept (s : State) (k : ℕ) (code : ℕ) (tie : Bool) : Kept s (State.sendCode s k code tie) := by
  have e : @State.sendCode = @State.sendCode := rfl
  conv at e => rhs; delta State.sendCode
  rw [e]; clear e
  dsimp -zeta -iota -proj -eta -zetaUnused -zetaHave -failIfUnchanged only
  repeat' first
    | with_reducible first
      | apply Kept.refl | assumption | apply Kept.via (State.modAsd_kept ..) | apply Kept.via (State.psiPush_kept ..)
    | simp -zeta -iota -proj -zetaUnused -zetaHave (disch := rfl) only [Kept.update_iff]
    | intro _
    | (extract_lets -underBinder -merge +onlyGivenNames x; refine Kept.step (b := x) ?_ ?_
       all_goals first | (intro _; clear_value x) | dsimp -zeta -iota -proj -zetaUnused -zetaHave only [x])
    | extract_lets -underBinder -merge +onlyGivenNames x
    | split
    | (clear_value x; split)

theorem State.modServo_kept (s : State) (n : ℕ) (f : ServoAct → ServoAct) : Kept s (State.modServo s n f) := by
  unfold State.modServo
  repeat' first
    | with_reducible first | apply Kept.refl
    | simp -zeta -iota -proj -zetaUnused -zetaHave (disch := rfl) only [Kept.update_iff]

theorem State.retract_kept (s : State) (n : ℕ) : Kept s (State.retract s n) := by
  have e : @State.retract = @State.retract := rfl
  conv at e => rhs; delta State.retract
  rw [e]; clear e
  dsimp -zeta -iota -proj -eta -zetaUnused -zetaHave -failIfUnchanged only
  repeat' first
    | with_reducible first
      | apply Kept.refl | assumption | apply Kept.via (State.count_kept ..) | apply Kept.via (State.wr_kept ..)
      | apply Kept.via (State.clearAll_kept ..) | apply Kept.via (State.modServo_kept ..)
      | apply Kept.via (State.forceAssist_kept ..) | apply Kept.via (State.cutGates_kept ..)
    | simp -zeta -iota -proj -zetaUnused -zetaHave (disch := rfl) only [Kept.update_iff]
    | intro _
    | (extract_lets -underBinder -merge +onlyGivenNames x; refine Kept.step (b := x) ?_ ?_
       all_goals first | (intro _; clear_value x) | dsimp -zeta -iota -proj -zetaUnused -zetaHave only [x])
    | extract_lets -underBinder -merge +onlyGivenNames x
    | split
    | (clear_value x; split)
    | dsimp only

theorem State.modLoop_kept (s : State) (n : ℕ) (h : ℕ) (f : SlotLoop → SlotLoop) : Kept s (State.modLoop s n h f) := by
  unfold State.modLoop
  repeat' with_reducible first | apply Kept.refl | apply Kept.via (State.modServo_kept ..)

theorem State.tallyFcu_kept (s : State) (e : TlyEvent) : Kept s (State.tallyFcu s e) := by
  unfold State.tallyFcu
  repeat' first
    | with_reducible first | apply Kept.refl
    | simp -zeta -iota -proj -zetaUnused -zetaHave (disch := rfl) only [Kept.update_iff]

theorem State.tallyThm_kept (s : State) (e : TlyEvent) : Kept s (State.tallyThm s e) := by
  unfold State.tallyThm
  repeat' first
    | with_reducible first | apply Kept.refl
    | simp -zeta -iota -proj -zetaUnused -zetaHave (disch := rfl) only [Kept.update_iff]

theorem State.tallyFw_kept (s : State) (e : TlyEvent) : Kept s (State.tallyFw s e) := by
  unfold State.tallyFw
  repeat' first
    | with_reducible first | apply Kept.refl
    | simp -zeta -iota -proj -zetaUnused -zetaHave (disch := rfl) only [Kept.update_iff]

theorem State.tallyOwn_kept (s : State) (e : TlyEvent) : Kept s (State.tallyOwn s e) := by
  unfold State.tallyOwn
  repeat' first
    | with_reducible first | apply Kept.refl
    | simp -zeta -iota -proj -zetaUnused -zetaHave (disch := rfl) only [Kept.update_iff]

theorem State.flushNow_kept (s : State) : Kept s (State.flushNow s) := by
  have e : @State.flushNow = @State.flushNow := rfl
  conv at e => rhs; delta State.flushNow
  rw [e]; clear e
  dsimp -zeta -iota -proj -eta -zetaUnused -zetaHave -failIfUnchanged only
  repeat' first
    | with_reducible first
      | apply Kept.refl | assumption | apply Kept.via (State.raise_kept ..) | apply Kept.via (State.wr_kept ..)
    | simp -zeta -iota -proj -zetaUnused -zetaHave (disch := rfl) only [Kept.update_iff]
    | intro _
    | (extract_lets -underBinder -merge +onlyGivenNames x; refine Kept.step (b := x) ?_ ?_
       all_goals first | (intro _; clear_value x) | dsimp -zeta -iota -proj -zetaUnused -zetaHave only [x])
    | extract_lets -underBinder -merge +onlyGivenNames x
    | split
    | (clear_value x; split)
    | dsimp only

theorem State.tallyFlushStart_kept (s : State) : Kept s (State.tallyFlushStart s) := by
  have e : @State.tallyFlushStart = @State.tallyFlushStart := rfl
  conv at e => rhs; delta State.tallyFlushStart
  rw [e]; clear e
  dsimp -zeta -iota -proj -eta -zetaUnused -zetaHave -failIfUnchanged only
  repeat' first
    | with_reducible first
      | apply Kept.refl | assumption | apply Kept.via (State.flushNow_kept ..) | apply Kept.via (State.wr_kept ..)
    | simp -zeta -iota -proj -zetaUnused -zetaHave (disch := rfl) only [Kept.update_iff]
    | intro _
    | (extract_lets -underBinder -merge +onlyGivenNames x; refine Kept.step (b := x) ?_ ?_
       all_goals first | (intro _; clear_value x) | dsimp -zeta -iota -proj -zetaUnused -zetaHave only [x])
    | extract_lets -underBinder -merge +onlyGivenNames x
    | split
    | (clear_value x; split)

theorem State.openShadow_kept (s : State) (code : ℕ) (n : ℕ) (w : Option ℕ) : Kept s (State.openShadow s code n w) := by
  have e : @State.openShadow = @State.openShadow := rfl
  conv at e => rhs; delta State.openShadow
  rw [e]; clear e
  dsimp -zeta -iota -proj -eta -zetaUnused -zetaHave -failIfUnchanged only
  repeat' first
    | with_reducible first | apply Kept.refl
    | simp -zeta -iota -proj -zetaUnused -zetaHave (disch := rfl) only [Kept.update_iff]
    | intro _
    | (extract_lets -underBinder -merge +onlyGivenNames x; refine Kept.step (b := x) ?_ ?_
       all_goals first | (intro _; clear_value x) | dsimp -zeta -iota -proj -zetaUnused -zetaHave only [x])
    | extract_lets -underBinder -merge +onlyGivenNames x
    | split
    | (clear_value x; split)

theorem State.stepShadow_kept (s : State) (readyBefore : Bool) (code : ℕ) (n : ℕ) (w : Option ℕ) :
    Kept s (State.stepShadow s readyBefore code n w) := by
  unfold State.stepShadow
  repeat' first
    | with_reducible first | apply Kept.refl | apply Kept.via (State.openShadow_kept ..)
    | split

theorem State.holdAct_kept (s : State) (n : ℕ) : Kept s (State.holdAct s n) := by
  unfold State.holdAct
  repeat' with_reducible first | apply Kept.refl | apply Kept.via (State.wr_kept ..) | apply Kept.via (State.setBitAt_kept ..)

theorem State.requestActReset_kept (s : State) (n : ℕ) : Kept s (State.requestActReset s n) := by
  unfold State.requestActReset
  repeat' first
    | with_reducible first | apply Kept.refl | apply Kept.via (State.retract_kept ..)
    | simp -zeta -iota -proj -zetaUnused -zetaHave (disch := rfl) only [Kept.update_iff]

theorem State.takeSteps_kept (s : State) (n : ℕ) (take : ℕ) (w : Option ℕ) : Kept s (State.takeSteps s n take w) := by
  unfold State.takeSteps
  repeat' first
    | with_reducible first
      | apply Kept.refl | apply Kept.via (State.stepShadow_kept ..) | apply Kept.via (State.cutGates_kept ..)
      | apply Kept.via (State.forceAssist_kept ..) | apply Kept.via (State.holdAct_kept ..)
      | apply Kept.via (State.retract_kept ..) | apply Kept.via (State.openShadow_kept ..)
      | apply Kept.via (State.requestActReset_kept ..)
    | split

theorem State.clearPert_kept (s : State) : Kept s (State.clearPert s) := by
  have e : @State.clearPert = @State.clearPert := rfl
  conv at e => rhs; delta State.clearPert
  rw [e]; clear e
  dsimp -zeta -iota -proj -eta -zetaUnused -zetaHave -failIfUnchanged only
  repeat' first
    | with_reducible first
      | apply Kept.refl | assumption | apply Kept.via (State.resetRange_kept ..) | apply Kept.via (State.raise_kept ..)
    | simp -zeta -iota -proj -zetaUnused -zetaHave (disch := rfl) only [Kept.update_iff]
    | intro _
    | (extract_lets -underBinder -merge +onlyGivenNames x; refine Kept.step (b := x) ?_ ?_
       all_goals first | (intro _; clear_value x) | dsimp -zeta -iota -proj -zetaUnused -zetaHave only [x])
    | extract_lets -underBinder -merge +onlyGivenNames x
    | split
    | (clear_value x; split)

theorem State.goFatal_kept (s : State) : Kept s (State.goFatal s) := by
  unfold State.goFatal
  repeat' first
    | with_reducible first
      | apply Kept.refl | apply Kept.via (State.clearPert_kept ..) | apply Kept.via (State.holdAct_kept ..)
      | apply Kept.via (State.retract_kept ..) | apply Kept.via (State.forceAssist_kept ..)
      | apply Kept.via (State.cutGates_kept ..) | apply Kept.via (State.wr_kept ..)
      | apply Kept.via (State.tallyFlushStart_kept ..) | apply Kept.via (Kept.foldl ?_ ..)
    | simp -zeta -iota -proj -zetaUnused -zetaHave (disch := rfl) only [Kept.update_iff]
    | intro _
    | split

theorem State.mergeInto_kept (s : State) (k : ℕ) (src : ℕ) (cls : ℕ) (added : Bool) (retracted : ℕ) :
    Kept s (State.mergeInto s k src cls added retracted) := by
  have e : @State.mergeInto = @State.mergeInto := rfl
  conv at e => rhs; delta State.mergeInto
  rw [e]; clear e
  dsimp -zeta -iota -proj -eta -zetaUnused -zetaHave -failIfUnchanged only
  repeat' first
    | with_reducible first | apply Kept.refl
    | simp -zeta -iota -proj -zetaUnused -zetaHave (disch := rfl) only [Kept.update_iff]
    | intro _
    | (extract_lets -underBinder -merge +onlyGivenNames x; refine Kept.step (b := x) ?_ ?_
       all_goals first | (intro _; clear_value x) | dsimp -zeta -iota -proj -zetaUnused -zetaHave only [x])
    | extract_lets -underBinder -merge +onlyGivenNames x
    | split
    | (clear_value x; split)

theorem State.setQCount_kept (s : State) : Kept s (State.setQCount s) := by
  unfold State.setQCount
  repeat' with_reducible first | apply Kept.refl | apply Kept.via (State.wr_kept ..)

theorem State.openRecord_kept (s : State) (r : FaultRec) : Kept s (State.openRecord s r).1 := by
  have e : @State.openRecord = @State.openRecord := rfl
  conv at e => rhs; delta State.openRecord
  rw [e]; clear e
  dsimp -zeta -iota -proj -eta -zetaUnused -zetaHave -failIfUnchanged only
  repeat' first
    | with_reducible first
      | apply Kept.refl | apply Kept.via (State.raise_kept ..) | apply Kept.via (State.setQCount_kept ..)
      | apply Kept.via (State.count_kept ..)
    | simp -zeta -iota -proj -zetaUnused -zetaHave (disch := rfl) only [Kept.update_iff]
    | intro _
    | (extract_lets -underBinder -merge +onlyGivenNames x; refine Kept.step (b := x) ?_ ?_
       all_goals first | (intro _; clear_value x) | dsimp -zeta -iota -proj -zetaUnused -zetaHave only [x])
    | extract_lets -underBinder -merge +onlyGivenNames x
    | split
    | (clear_value x; split)

theorem State.openWindow_kept (s : State) (k : ℕ) (r : FaultRec) (fatal : Bool) : Kept s (State.openWindow s k r fatal) := by
  unfold State.openWindow
  repeat' first
    | with_reducible first | apply Kept.refl
    | simp -zeta -iota -proj -zetaUnused -zetaHave (disch := rfl) only [Kept.update_iff]

theorem State.runPlan_kept (s : State) (plan : List (ℕ × ℕ)) (w : Option ℕ) : Kept s (State.runPlan s plan w) := by
  unfold State.runPlan
  repeat' first
    | with_reducible first
      | apply Kept.refl | apply Kept.via (State.takeSteps_kept ..) | apply Kept.via (Kept.foldl ?_ ..)
    | intro _

theorem State.tallyFault_kept (s : State) (src : ℕ) (re : Reaction) (disp : ℕ) (detail : ℕ) (link : ℕ) :
    Kept s (State.tallyFault s src re disp detail link) := by
  unfold State.tallyFault
  repeat' first
    | with_reducible first | apply Kept.refl | apply Kept.via (State.tallyFcu_kept ..)
    | split

theorem State.mergeRetracts_kept (s : State) (k : ℕ) (ret : ℕ) : Kept s (State.mergeRetracts s k ret) := by
  have e : @State.mergeRetracts = @State.mergeRetracts := rfl
  conv at e => rhs; delta State.mergeRetracts
  rw [e]; clear e
  dsimp -zeta -iota -proj -eta -zetaUnused -zetaHave -failIfUnchanged only
  repeat' first
    | with_reducible first | apply Kept.refl
    | simp -zeta -iota -proj -zetaUnused -zetaHave (disch := rfl) only [Kept.update_iff]
    | intro _
    | (extract_lets -underBinder -merge +onlyGivenNames x; refine Kept.step (b := x) ?_ ?_
       all_goals first | (intro _; clear_value x) | dsimp -zeta -iota -proj -zetaUnused -zetaHave only [x])
    | extract_lets -underBinder -merge +onlyGivenNames x
    | split
    | (clear_value x; split)

theorem State.detectShadowed_kept (s : State) (i : ℕ) (detail : ℕ) (re : Reaction) (sh : Shadow) :
    Kept s (State.detectShadowed s i detail re sh) := by
  unfold State.detectShadowed
  repeat' first
    | with_reducible first
      | apply Kept.refl | apply Kept.via (State.tallyFault_kept ..) | apply Kept.via (State.mergeInto_kept ..)
    | split

theorem State.detectMerged_kept (s : State) (i : ℕ) (detail : ℕ) (re : Reaction) (plan : List (ℕ × ℕ)) (w : FaultWindow) :
    Kept s (State.detectMerged s i detail re plan w) := by
  unfold State.detectMerged
  repeat' first
    | with_reducible first
      | apply Kept.refl | apply Kept.via (State.mergeInto_kept ..) | apply Kept.via (State.runPlan_kept ..)
      | apply Kept.via (State.goFatal_kept ..) | apply Kept.via (State.tallyFault_kept ..)
    | split

theorem State.detectOpened_kept (s : State) (i : ℕ) (detail : ℕ) (re : Reaction) (plan : List (ℕ × ℕ)) :
    Kept s (State.detectOpened s i detail re plan) := by
  unfold State.detectOpened
  repeat' first
    | with_reducible first
      | apply Kept.refl | apply Kept.via (State.openRecord_kept ..) | apply Kept.via (State.openWindow_kept ..)
      | apply Kept.via (State.mergeRetracts_kept ..) | apply Kept.via (State.runPlan_kept ..)
      | apply Kept.via (State.goFatal_kept ..) | apply Kept.via (State.tallyFault_kept ..)
    | split

theorem State.detect_kept (s : State) (i : ℕ) (given : ℕ) : Kept s (State.detect s i given) := by
  have e : @State.detect = @State.detect := rfl
  conv at e => rhs; delta State.detect
  rw [e]; clear e
  dsimp -zeta -iota -proj -eta -zetaUnused -zetaHave -failIfUnchanged only
  repeat' first
    | with_reducible first
      | apply Kept.refl | assumption | apply Kept.via (State.count_kept ..) | apply Kept.via (State.wr_kept ..)
      | apply Kept.via (State.raiseLatch_kept ..) | apply Kept.via (State.detectShadowed_kept ..)
      | apply Kept.via (State.detectMerged_kept ..) | apply Kept.via (State.detectOpened_kept ..)
      | apply Kept.via (State.runPlan_kept ..) | apply Kept.via (State.goFatal_kept ..)
    | simp -zeta -iota -proj -zetaUnused -zetaHave (disch := rfl) only [Kept.update_iff]
    | intro _
    | (extract_lets -underBinder -merge +onlyGivenNames x; refine Kept.step (b := x) ?_ ?_
       all_goals first | (intro _; clear_value x) | dsimp -zeta -iota -proj -zetaUnused -zetaHave only [x])
    | extract_lets -underBinder -merge +onlyGivenNames x
    | split
    | (clear_value x; split)
    | dsimp only

theorem State.detectAll_kept (s : State) (l : List (ℕ × ℕ)) : Kept s (State.detectAll s l) := by
  have e : @State.detectAll = @State.detectAll := rfl
  conv at e => rhs; delta State.detectAll
  rw [e]; clear e
  dsimp -zeta -iota -proj -eta -zetaUnused -zetaHave -failIfUnchanged only
  repeat' first
    | with_reducible first
      | apply Kept.refl | assumption | apply Kept.via (State.detect_kept ..) | apply Kept.via (Kept.foldl ?_ ..)
    | simp -zeta -iota -proj -zetaUnused -zetaHave (disch := rfl) only [Kept.update_iff]
    | intro _
    | (extract_lets -underBinder -merge +onlyGivenNames x; refine Kept.step (b := x) ?_ ?_
       all_goals first | (intro _; clear_value x) | dsimp -zeta -iota -proj -zetaUnused -zetaHave only [x])
    | extract_lets -underBinder -merge +onlyGivenNames x
    | split
    | (clear_value x; split)

end Sys2Proof.Machine
end

