-- ==== Sys2Proof/Laws/KeepsDram.lean ====
section
/-!
SUPPORT. Laws/KeepsDram.lean: each operation and command of Machine/Dram.lean keeps what every operation keeps (`Kept`).
-/
namespace Sys2Proof.Machine

theorem State.putCell_kept (s : State) (cell : ℕ) (d : ℕ) : Kept s (State.putCell s cell d) := by
  exact ⟨rfl, rfl, fun h => ⟨h, .refl _⟩, id, id, fun h => Store.wf_put _ _ _ _ h, List.suffix_refl _, Nat.le_refl _⟩

theorem State.putRaw_kept (s : State) (w : ℕ) (d : ℕ) : Kept s (State.putRaw s w d) := by
  unfold State.putRaw
  repeat' with_reducible first | apply Kept.refl | apply Kept.via (State.putCell_kept ..)

theorem State.putCheck_kept (s : State) (w : ℕ) (c : ℕ) : Kept s (State.putCheck s w c) := by
  unfold State.putCheck
  repeat' first
    | with_reducible first | apply Kept.refl | apply Kept.via (State.putRaw_kept ..)
    | split

theorem State.putFresh_kept (s : State) (w : ℕ) (d : ℕ) : Kept s (State.putFresh s w d) := by
  unfold State.putFresh
  repeat' first
    | with_reducible first
      | apply Kept.refl | apply Kept.via (State.putRaw_kept ..) | apply Kept.via (State.putCheck_kept ..)
    | split

theorem State.poisonWord_kept (s : State) (w : ℕ) : Kept s (State.poisonWord s w) := by
  unfold State.poisonWord
  repeat' first
    | with_reducible first | apply Kept.refl | apply Kept.via (State.putCheck_kept ..)
    | split

theorem State.countGranules_kept (s : State) (k : ℕ) : Kept s (State.countGranules s k) := by
  unfold State.countGranules
  repeat' with_reducible first | apply Kept.refl | apply Kept.via (State.wr_kept ..)

theorem State.zeroFill_kept (s : State) (w : ℕ) : Kept s (State.zeroFill s w) := by
  have e : @State.zeroFill = @State.zeroFill := rfl
  conv at e => rhs; delta State.zeroFill
  rw [e]; clear e
  dsimp -zeta -iota -proj -eta -zetaUnused -zetaHave -failIfUnchanged only
  repeat' first
    | with_reducible first
      | apply Kept.refl | assumption | apply Kept.via (State.putFresh_kept ..) | apply Kept.via (State.countGranules_kept ..)
      | apply Kept.via (Kept.foldl ?_ ..)
    | simp -zeta -iota -proj -zetaUnused -zetaHave (disch := rfl) only [Kept.update_iff]
    | intro _
    | (extract_lets -underBinder -merge +onlyGivenNames x; refine Kept.step (b := x) ?_ ?_
       all_goals first | (intro _; clear_value x) | dsimp -zeta -iota -proj -zetaUnused -zetaHave only [x])
    | extract_lets -underBinder -merge +onlyGivenNames x
    | split
    | (clear_value x; split)

theorem State.countLog_kept (s : State) : Kept s (State.countLog s) := by
  unfold State.countLog
  repeat' with_reducible first | apply Kept.refl | apply Kept.via (State.wr_kept ..)

theorem State.logError_kept (s : State) (w : ℕ) (p : ℕ) (cured : Bool) (scrub : Bool) :
    Kept s (State.logError s w p cured scrub) := by
  have e : @State.logError = @State.logError := rfl
  conv at e => rhs; delta State.logError
  rw [e]; clear e
  dsimp -zeta -iota -proj -eta -zetaUnused -zetaHave -failIfUnchanged only
  repeat' first
    | with_reducible first
      | apply Kept.refl | assumption | apply Kept.via (State.count_kept ..) | apply Kept.via (State.wr_kept ..)
      | apply Kept.via (State.wrFlag_kept ..) | apply Kept.via (State.raise_kept ..) | apply Kept.via (State.countLog_kept ..)
    | simp -zeta -iota -proj -zetaUnused -zetaHave (disch := rfl) only [Kept.update_iff]
    | intro _
    | (extract_lets -underBinder -merge +onlyGivenNames x; refine Kept.step (b := x) ?_ ?_
       all_goals first | (intro _; clear_value x) | dsimp -zeta -iota -proj -zetaUnused -zetaHave only [x])
    | extract_lets -underBinder -merge +onlyGivenNames x
    | split
    | (clear_value x; split)
    | dsimp only

theorem State.correctable_kept (s : State) (w : ℕ) (p : ℕ) (cured : Bool) (scrub : Bool) :
    Kept s (State.correctable s w p cured scrub) := by
  unfold State.correctable
  repeat' with_reducible first
    | apply Kept.refl | apply Kept.via (State.detect_kept ..) | apply Kept.via (State.logError_kept ..)
    | apply Kept.via (State.count_kept ..)

theorem State.uncorrected_kept (s : State) (w : ℕ) : Kept s (State.uncorrected s w) := by
  unfold State.uncorrected
  repeat' with_reducible first
    | apply Kept.refl | apply Kept.via (State.raise_kept ..) | apply Kept.via (State.detect_kept ..)
    | apply Kept.via (State.count_kept ..) | apply Kept.via (State.poisonWord_kept ..)

theorem State.foundPoison_kept (s : State) : Kept s (State.foundPoison s) := by
  unfold State.foundPoison
  repeat' with_reducible first | apply Kept.refl | apply Kept.via (State.raise_kept ..) | apply Kept.via (State.count_kept ..)

theorem State.readWord_kept (s : State) (w : ℕ) (scrub : Bool) : Kept s (State.readWord s w scrub).1 := by
  have e : @State.readWord = @State.readWord := rfl
  conv at e => rhs; delta State.readWord
  rw [e]; clear e
  dsimp -zeta -iota -proj -eta -zetaUnused -zetaHave -failIfUnchanged only
  repeat' first
    | with_reducible first
      | apply Kept.refl | assumption | apply Kept.via (State.count_kept ..) | apply Kept.via (State.correctable_kept ..)
      | apply Kept.via (State.putFresh_kept ..) | apply Kept.via (State.foundPoison_kept ..)
      | apply Kept.via (State.uncorrected_kept ..)
    | simp -zeta -iota -proj -zetaUnused -zetaHave (disch := rfl) only [Kept.update_iff]
    | intro _
    | (extract_lets -underBinder -merge +onlyGivenNames x; refine Kept.step (b := x) ?_ ?_
       all_goals first | (intro _; clear_value x) | dsimp -zeta -iota -proj -zetaUnused -zetaHave only [x])
    | extract_lets -underBinder -merge +onlyGivenNames x
    | split
    | (clear_value x; split)

theorem State.writeWord_kept (s : State) (w : ℕ) (d : ℕ) : Kept s (State.writeWord s w d) := by
  unfold State.writeWord
  repeat' with_reducible first
    | apply Kept.refl | apply Kept.via (State.putFresh_kept ..) | apply Kept.via (State.zeroFill_kept ..)

theorem State.mergeWord_kept (s : State) (w : ℕ) (mask : ℕ) (d : ℕ) : Kept s (State.mergeWord s w mask d).1 := by
  have e : @State.mergeWord = @State.mergeWord := rfl
  conv at e => rhs; delta State.mergeWord
  rw [e]; clear e
  dsimp -zeta -iota -proj -eta -zetaUnused -zetaHave -failIfUnchanged only
  repeat' first
    | with_reducible first
      | apply Kept.refl | assumption | apply Kept.via (State.zeroFill_kept ..) | apply Kept.via (State.putRaw_kept ..)
      | apply Kept.via (State.putFresh_kept ..) | apply Kept.via (State.correctable_kept ..)
      | apply Kept.via (State.count_kept ..) | apply Kept.via (State.poisonWord_kept ..)
      | apply Kept.via (State.foundPoison_kept ..) | apply Kept.via (State.uncorrected_kept ..)
    | simp -zeta -iota -proj -zetaUnused -zetaHave (disch := rfl) only [Kept.update_iff]
    | intro _
    | (extract_lets -underBinder -merge +onlyGivenNames x; refine Kept.step (b := x) ?_ ?_
       all_goals first | (intro _; clear_value x) | dsimp -zeta -iota -proj -zetaUnused -zetaHave only [x])
    | extract_lets -underBinder -merge +onlyGivenNames x
    | split
    | (clear_value x; split)

theorem State.answerDram_kept (s : State) (pos : ℕ) (w : ℕ) (st : DramStatus) (d : ℕ) :
    Kept s (State.answerDram s pos w st d) := by
  unfold State.answerDram
  repeat' first
    | with_reducible first | apply Kept.refl | apply Kept.via (State.emit_kept ..)
    | split

theorem State.performDram_kept (s : State) (r : DramReq) : Kept s (State.performDram s r) := by
  unfold State.performDram
  repeat' first
    | with_reducible first
      | apply Kept.refl | apply Kept.via (State.answerDram_kept ..) | apply Kept.via (State.readWord_kept ..)
      | apply Kept.via (State.writeWord_kept ..) | apply Kept.via (State.mergeWord_kept ..)
    | split

theorem State.requestDram_kept (s : State) (r : DramReq) : Kept s (State.requestDram s r) := by
  unfold State.requestDram
  repeat' first
    | with_reducible first
      | apply Kept.refl | apply Kept.via (State.answerDram_kept ..) | apply Kept.via (State.performDram_kept ..)
    | simp -zeta -iota -proj -zetaUnused -zetaHave (disch := rfl) only [Kept.update_iff]
    | split

theorem State.grantDram_kept (s : State) (l : List DramReq) : Kept s (State.grantDram s l) := by
  unfold State.grantDram
  repeat' first
    | with_reducible first
      | apply Kept.refl | apply Kept.via (State.requestDram_kept ..) | apply Kept.via (State.wr_kept ..)
      | apply Kept.via (Kept.foldl ?_ ..)
    | intro _

theorem State.dramRead_kept (s : State) (a : ℕ) : Kept s (State.dramRead s a).1 := by
  unfold State.dramRead
  repeat' with_reducible first | apply Kept.refl | apply Kept.via (State.readWord_kept ..)

theorem State.dramFill_kept (s : State) (a : ℕ) (n : ℕ) (v : ℕ) : Kept s (State.dramFill s a n v) := by
  unfold State.dramFill
  repeat' first
    | with_reducible first
      | apply Kept.refl | apply Kept.via (State.writeWord_kept ..) | apply Kept.via (Kept.foldl ?_ ..)
    | intro _

theorem State.regionError_kept (s : State) : Kept s (State.regionError s) := by
  unfold State.regionError
  repeat' with_reducible first | apply Kept.refl | apply Kept.via (State.raise_kept ..) | apply Kept.via (State.wr_kept ..)

theorem State.startRegion_kept (s : State) (k : ℕ) (job : RegionJob) : Kept s (State.startRegion s k job) := by
  unfold State.startRegion
  repeat' first
    | with_reducible first | apply Kept.refl | apply Kept.via (State.wr_kept ..)
    | simp -zeta -iota -proj -zetaUnused -zetaHave (disch := rfl) only [Kept.update_iff]

theorem State.clearWritten_kept (s : State) (lo : ℕ) (hi : ℕ) : Kept s (State.clearWritten s lo hi) := by
  unfold State.clearWritten
  repeat' first
    | with_reducible first | apply Kept.refl
    | simp -zeta -iota -proj -zetaUnused -zetaHave (disch := rfl) only [Kept.update_iff]

theorem State.encodeGranule_kept (s : State) (g : ℕ) : Kept s (State.encodeGranule s g) := by
  unfold State.encodeGranule
  repeat' first
    | with_reducible first | apply Kept.refl | apply Kept.via (State.putFresh_kept ..) | apply Kept.via (Kept.foldl ?_ ..)
    | intro _

theorem State.markGranules_kept (s : State) (lo : ℕ) (hi : ℕ) : Kept s (State.markGranules s lo hi) := by
  have e : @State.markGranules = @State.markGranules := rfl
  conv at e => rhs; delta State.markGranules
  rw [e]; clear e
  dsimp -zeta -iota -proj -eta -zetaUnused -zetaHave -failIfUnchanged only
  repeat' first
    | with_reducible first
      | apply Kept.refl | assumption | apply Kept.via (State.encodeGranule_kept ..) | apply Kept.via (Kept.foldl ?_ ..)
    | simp -zeta -iota -proj -zetaUnused -zetaHave (disch := rfl) only [Kept.update_iff]
    | intro _
    | (extract_lets -underBinder -merge +onlyGivenNames x; refine Kept.step (b := x) ?_ ?_
       all_goals first | (intro _; clear_value x) | dsimp -zeta -iota -proj -zetaUnused -zetaHave only [x])
    | extract_lets -underBinder -merge +onlyGivenNames x
    | split
    | (clear_value x; split)

theorem State.serveWaiting_kept (s : State) : Kept s (State.serveWaiting s) := by
  unfold State.serveWaiting
  repeat' first
    | with_reducible first
      | apply Kept.refl | apply Kept.via (State.requestDram_kept ..) | apply Kept.via (Kept.foldl ?_ ..)
    | simp -zeta -iota -proj -zetaUnused -zetaHave (disch := rfl) only [Kept.update_iff]
    | intro _

theorem State.finishRegion_kept (s : State) (k : ℕ) : Kept s (State.finishRegion s k) := by
  unfold State.finishRegion
  repeat' first
    | with_reducible first
      | apply Kept.refl | apply Kept.via (State.clearWritten_kept ..) | apply Kept.via (State.encodeGranule_kept ..)
      | apply Kept.via (State.markGranules_kept ..) | apply Kept.via (State.wr_kept ..)
      | apply Kept.via (State.serveWaiting_kept ..) | apply Kept.via (State.countGranules_kept ..)
      | apply Kept.via (Kept.foldl ?_ ..)
    | simp -zeta -iota -proj -zetaUnused -zetaHave (disch := rfl) only [Kept.update_iff]
    | intro _
    | split

theorem State.enableRegion_kept (s : State) (k : ℕ) (base : ℕ) (adopt : Bool) : Kept s (State.enableRegion s k base adopt) := by
  have e : @State.enableRegion = @State.enableRegion := rfl
  conv at e => rhs; delta State.enableRegion
  rw [e]; clear e
  dsimp -zeta -iota -proj -eta -zetaUnused -zetaHave -failIfUnchanged only
  repeat' first
    | with_reducible first
      | apply Kept.refl | assumption | apply Kept.via (State.regionError_kept ..) | apply Kept.via (State.wrFlag_kept ..)
      | apply Kept.via (State.wr_kept ..) | apply Kept.via (State.finishRegion_kept ..)
      | apply Kept.via (State.startRegion_kept ..)
    | simp -zeta -iota -proj -zetaUnused -zetaHave (disch := rfl) only [Kept.update_iff]
    | intro _
    | (extract_lets -underBinder -merge +onlyGivenNames x; refine Kept.step (b := x) ?_ ?_
       all_goals first | (intro _; clear_value x) | dsimp -zeta -iota -proj -zetaUnused -zetaHave only [x])
    | extract_lets -underBinder -merge +onlyGivenNames x
    | split
    | (clear_value x; split)

theorem State.disableRegion_kept (s : State) (k : ℕ) : Kept s (State.disableRegion s k) := by
  unfold State.disableRegion
  repeat' first
    | with_reducible first
      | apply Kept.refl | apply Kept.via (State.regionError_kept ..) | apply Kept.via (State.wr_kept ..)
      | apply Kept.via (State.startRegion_kept ..)
    | split

theorem State.markRegion_kept (s : State) (k : ℕ) : Kept s (State.markRegion s k) := by
  unfold State.markRegion
  repeat' first
    | with_reducible first
      | apply Kept.refl | apply Kept.via (State.startRegion_kept ..) | apply Kept.via (State.regionError_kept ..)
    | split

theorem State.scrubStep_kept (s : State) (behind : Bool) : Kept s (State.scrubStep s behind) := by
  have e : @State.scrubStep = @State.scrubStep := rfl
  conv at e => rhs; delta State.scrubStep
  rw [e]; clear e
  dsimp -zeta -iota -proj -eta -zetaUnused -zetaHave -failIfUnchanged only
  repeat' first
    | with_reducible first
      | apply Kept.refl | assumption | apply Kept.via (State.wrFlag_kept ..) | apply Kept.via (State.wr_kept ..)
      | apply Kept.via (State.readWord_kept ..) | apply Kept.via (State.raise_kept ..) | apply Kept.via (State.count_kept ..)
    | simp -zeta -iota -proj -zetaUnused -zetaHave (disch := rfl) only [Kept.update_iff]
    | intro _
    | (extract_lets -underBinder -merge +onlyGivenNames x; refine Kept.step (b := x) ?_ ?_
       all_goals first | (intro _; clear_value x) | dsimp -zeta -iota -proj -zetaUnused -zetaHave only [x])
    | extract_lets -underBinder -merge +onlyGivenNames x
    | split
    | (clear_value x; split)

theorem State.countSpares_kept (s : State) : Kept s (State.countSpares s) := by
  unfold State.countSpares
  repeat' with_reducible first | apply Kept.refl | apply Kept.via (State.wr_kept ..)

theorem State.sparGo_kept (s : State) (bank : ℕ) (row : ℕ) : Kept s (State.sparGo s bank row) := by
  have e : @State.sparGo = @State.sparGo := rfl
  conv at e => rhs; delta State.sparGo
  rw [e]; clear e
  dsimp -zeta -iota -proj -eta -zetaUnused -zetaHave -failIfUnchanged only
  repeat' first
    | with_reducible first
      | apply Kept.refl | assumption | apply Kept.via (State.wr_kept ..) | apply Kept.via (State.raise_kept ..)
      | apply Kept.via (State.free_kept ..)
    | simp -zeta -iota -proj -zetaUnused -zetaHave (disch := rfl) only [Kept.update_iff]
    | intro _
    | (extract_lets -underBinder -merge +onlyGivenNames x; refine Kept.step (b := x) ?_ ?_
       all_goals first | (intro _; clear_value x) | dsimp -zeta -iota -proj -zetaUnused -zetaHave only [x])
    | extract_lets -underBinder -merge +onlyGivenNames x
    | split
    | (clear_value x; split)

theorem State.copyWord_kept (s : State) (bank : ℕ) (row : ℕ) (sp : ℕ) (col : ℕ) :
    Kept s (State.copyWord s bank row sp col) := by
  have e : @State.copyWord = @State.copyWord := rfl
  conv at e => rhs; delta State.copyWord
  rw [e]; clear e
  dsimp -zeta -iota -proj -eta -zetaUnused -zetaHave -failIfUnchanged only
  repeat' first
    | with_reducible first
      | apply Kept.refl | assumption | apply Kept.via (State.putCell_kept ..) | apply Kept.via (State.readWord_kept ..)
      | apply Kept.via (State.putCheck_kept ..)
    | simp -zeta -iota -proj -zetaUnused -zetaHave (disch := rfl) only [Kept.update_iff]
    | intro _
    | (extract_lets -underBinder -merge +onlyGivenNames x; refine Kept.step (b := x) ?_ ?_
       all_goals first | (intro _; clear_value x) | dsimp -zeta -iota -proj -zetaUnused -zetaHave only [x])
    | extract_lets -underBinder -merge +onlyGivenNames x
    | split
    | (clear_value x; split)

theorem State.spareDone_kept (s : State) : Kept s (State.spareDone s) := by
  unfold State.spareDone
  repeat' first
    | with_reducible first
      | apply Kept.refl | apply Kept.via (State.copyWord_kept ..) | apply Kept.via (State.raise_kept ..)
      | apply Kept.via (State.serveWaiting_kept ..) | apply Kept.via (State.countSpares_kept ..)
      | apply Kept.via (State.wr_kept ..) | apply Kept.via (Kept.foldl ?_ ..)
    | simp -zeta -iota -proj -zetaUnused -zetaHave (disch := rfl) only [Kept.update_iff]
    | intro _
    | split

theorem State.diagResult_kept (s : State) (d : ℕ) (c : ℕ) : Kept s (State.diagResult s d c) := by
  unfold State.diagResult
  repeat' first
    | with_reducible first | apply Kept.refl | apply Kept.via (State.wr_kept ..) | apply Kept.via (Kept.foldl ?_ ..)
    | intro _

theorem State.diagGo_kept (s : State) (w : ℕ) (op : ℕ) : Kept s (State.diagGo s w op) := by
  have e : @State.diagGo = @State.diagGo := rfl
  conv at e => rhs; delta State.diagGo
  rw [e]; clear e
  dsimp -zeta -iota -proj -eta -zetaUnused -zetaHave -failIfUnchanged only
  repeat' first
    | with_reducible first
      | apply Kept.refl | assumption | apply Kept.via (State.wr_kept ..) | apply Kept.via (State.diagResult_kept ..)
      | apply Kept.via (State.zeroFill_kept ..) | apply Kept.via (State.putCheck_kept ..)
      | apply Kept.via (State.putRaw_kept ..) | apply Kept.via (State.raise_kept ..)
    | simp -zeta -iota -proj -zetaUnused -zetaHave (disch := rfl) only [Kept.update_iff]
    | intro _
    | (extract_lets -underBinder -merge +onlyGivenNames x; refine Kept.step (b := x) ?_ ?_
       all_goals first | (intro _; clear_value x) | dsimp -zeta -iota -proj -zetaUnused -zetaHave only [x])
    | extract_lets -underBinder -merge +onlyGivenNames x
    | split
    | (clear_value x; split)
    | dsimp only

theorem State.freeLog_kept (s : State) (k : ℕ) : Kept s (State.freeLog s k) := by
  unfold State.freeLog
  repeat' first
    | with_reducible first | apply Kept.refl | apply Kept.via (State.wr_kept ..) | apply Kept.via (State.countLog_kept ..)
    | simp -zeta -iota -proj -zetaUnused -zetaHave (disch := rfl) only [Kept.update_iff]

theorem execDramRead_kept (reads : List (Fin 8 × BitVec 29)) (s : State) : KeptBy s (execDramRead reads s) := by
  unfold execDramRead
  refine KeptBy.next ?_
  repeat' with_reducible first | apply Kept.refl | apply Kept.via (State.grantDram_kept ..)

theorem execDramWrite_kept (writes : List (Fin 8 × BitVec 29 × BitVec 512)) (s : State) :
    KeptBy s (execDramWrite writes s) := by
  unfold execDramWrite
  refine KeptBy.next ?_
  repeat' with_reducible first | apply Kept.refl | apply Kept.via (State.grantDram_kept ..)

theorem execDramPartialWrite_kept (writes : List (Fin 8 × BitVec 29 × BitVec 64 × BitVec 512)) (s : State) :
    KeptBy s (execDramPartialWrite writes s) := by
  unfold execDramPartialWrite
  refine KeptBy.next ?_
  repeat' with_reducible first | apply Kept.refl | apply Kept.via (State.grantDram_kept ..)

theorem execRegionEnable_kept (k : Fin 16) (base : BitVec 15) (adopt : Bool) (s : State) :
    KeptBy s (execRegionEnable k base adopt s) := by
  unfold execRegionEnable
  refine KeptBy.next ?_
  repeat' first
    | with_reducible first
      | apply Kept.refl | apply Kept.via (State.access_kept (h_k := ?_) ..) | apply Kept.via (State.enableRegion_kept ..)
    | simp -zeta -iota -proj -zetaUnused -zetaHave (disch := rfl) only [Kept.update_iff]
    | intro _

theorem execRegionDisable_kept (k : Fin 16) (s : State) : KeptBy s (execRegionDisable k s) := by
  unfold execRegionDisable
  refine KeptBy.next ?_
  repeat' first
    | with_reducible first
      | apply Kept.refl | apply Kept.via (State.access_kept (h_k := ?_) ..) | apply Kept.via (State.disableRegion_kept ..)
    | simp -zeta -iota -proj -zetaUnused -zetaHave (disch := rfl) only [Kept.update_iff]
    | intro _

theorem execRegMark_kept (k : Fin 16) (s : State) : KeptBy s (execRegMark k s) := by
  unfold execRegMark
  refine KeptBy.next ?_
  repeat' first
    | with_reducible first
      | apply Kept.refl | apply Kept.via (State.access_kept (h_k := ?_) ..) | apply Kept.via (State.markRegion_kept ..)
    | simp -zeta -iota -proj -zetaUnused -zetaHave (disch := rfl) only [Kept.update_iff]
    | intro _

theorem execRegionOpComplete_kept (k : Fin 16) (s : State) : KeptBy s (execRegionOpComplete k s) := by
  unfold execRegionOpComplete
  refine KeptBy.next ?_
  repeat' with_reducible first | apply Kept.refl | apply Kept.via (State.finishRegion_kept ..)

theorem execScrubStep_kept (behind : Bool) (s : State) : KeptBy s (execScrubStep behind s) := by
  unfold execScrubStep
  refine KeptBy.next ?_
  repeat' first
    | with_reducible first | apply Kept.refl | apply Kept.via (State.scrubStep_kept ..)
    | split

theorem execSprGo_kept (bank : BitVec 8) (row : BitVec 16) (s : State) : KeptBy s (execSprGo bank row s) := by
  unfold execSprGo
  refine KeptBy.next ?_
  repeat' first
    | with_reducible first
      | apply Kept.refl | apply Kept.via (State.access_kept (h_k := ?_) ..) | apply Kept.via (State.sparGo_kept ..)
    | simp -zeta -iota -proj -zetaUnused -zetaHave (disch := rfl) only [Kept.update_iff]
    | intro _

theorem execSpareRowDone_kept (s : State) : KeptBy s (execSpareRowDone s) := by
  unfold execSpareRowDone
  refine KeptBy.next ?_
  repeat' with_reducible first | apply Kept.refl | apply Kept.via (State.spareDone_kept ..)

theorem execDiagRawRead_kept (word : BitVec 29) (s : State) : KeptBy s (execDiagRawRead word s) := by
  unfold execDiagRawRead
  refine KeptBy.next ?_
  repeat' first
    | with_reducible first
      | apply Kept.refl | apply Kept.via (State.access_kept (h_k := ?_) ..) | apply Kept.via (State.diagGo_kept ..)
    | simp -zeta -iota -proj -zetaUnused -zetaHave (disch := rfl) only [Kept.update_iff]
    | intro _

theorem execDiagWriteAll_kept (word : BitVec 29) (s : State) : KeptBy s (execDiagWriteAll word s) := by
  unfold execDiagWriteAll
  refine KeptBy.next ?_
  repeat' first
    | with_reducible first
      | apply Kept.refl | apply Kept.via (State.access_kept (h_k := ?_) ..) | apply Kept.via (State.diagGo_kept ..)
    | simp -zeta -iota -proj -zetaUnused -zetaHave (disch := rfl) only [Kept.update_iff]
    | intro _

theorem execDiagWriteData_kept (word : BitVec 29) (s : State) : KeptBy s (execDiagWriteData word s) := by
  unfold execDiagWriteData
  refine KeptBy.next ?_
  repeat' first
    | with_reducible first
      | apply Kept.refl | apply Kept.via (State.access_kept (h_k := ?_) ..) | apply Kept.via (State.diagGo_kept ..)
    | simp -zeta -iota -proj -zetaUnused -zetaHave (disch := rfl) only [Kept.update_iff]
    | intro _

theorem execDiagWriteCheck_kept (word : BitVec 29) (s : State) : KeptBy s (execDiagWriteCheck word s) := by
  unfold execDiagWriteCheck
  refine KeptBy.next ?_
  repeat' first
    | with_reducible first
      | apply Kept.refl | apply Kept.via (State.access_kept (h_k := ?_) ..) | apply Kept.via (State.diagGo_kept ..)
    | simp -zeta -iota -proj -zetaUnused -zetaHave (disch := rfl) only [Kept.update_iff]
    | intro _

theorem execCeLogClr_kept (s : State) : KeptBy s (execCeLogClr s) := by
  unfold execCeLogClr
  refine KeptBy.next ?_
  repeat' first
    | with_reducible first
      | apply Kept.refl | apply Kept.via (State.access_kept (h_k := ?_) ..) | apply Kept.via (State.freeLog_kept ..)
      | apply Kept.via (Kept.foldl ?_ ..)
    | intro _

theorem execCelValidClear_kept (k : Fin 32) (s : State) : KeptBy s (execCelValidClear k s) := by
  unfold execCelValidClear
  refine KeptBy.next ?_
  repeat' first
    | with_reducible first
      | apply Kept.refl | apply Kept.via (State.access_kept (h_k := ?_) ..) | apply Kept.via (State.freeLog_kept ..)
    | simp -zeta -iota -proj -zetaUnused -zetaHave (disch := rfl) only [Kept.update_iff]
    | intro _

theorem execDmcCntClr_kept (s : State) : KeptBy s (execDmcCntClr s) := by
  unfold execDmcCntClr
  refine KeptBy.next ?_
  repeat' first
    | with_reducible first
      | apply Kept.refl | apply Kept.via (State.access_kept (h_k := ?_) ..) | apply Kept.via (State.clearAll_kept ..)
    | simp -zeta -iota -proj -zetaUnused -zetaHave (disch := rfl) only [Kept.update_iff]
    | intro _

end Sys2Proof.Machine
end

