-- ==== Sys2Proof/Laws/KeepsReset.lean ====
section
/-!
SUPPORT. Laws/KeepsReset.lean: each operation and command of Machine/Reset.lean keeps what every operation keeps (`Kept`).
-/
namespace Sys2Proof.Machine

theorem State.showNamespaces_kept (s : State) : Kept s (State.showNamespaces s) := by
  unfold State.showNamespaces
  repeat' first
    | with_reducible first
      | apply Kept.refl | apply Kept.via (State.wr_kept ..) | apply Kept.via (State.wrFlag_kept ..)
      | apply Kept.via (Kept.foldl ?_ ..)
    | simp -zeta -iota -proj -zetaUnused -zetaHave (disch := rfl) only [Kept.update_iff]
    | intro _
    | split

theorem State.countVoters_kept (s : State) : Kept s (State.countVoters s) := by
  unfold State.countVoters
  repeat' with_reducible first | apply Kept.refl | apply Kept.via (State.wr_kept ..)

theorem State.abandonWarm_kept (s : State) : Kept s (State.abandonWarm s) := by
  unfold State.abandonWarm
  repeat' first
    | with_reducible first | apply Kept.refl | apply Kept.via (State.wr_kept ..) | apply Kept.via (State.raise_kept ..)
    | split

theorem State.startLanes_kept (s : State) : Kept s (State.startLanes s) := by
  unfold State.startLanes
  repeat' first
    | with_reducible first
      | apply Kept.refl | apply Kept.via (State.wr_kept ..) | apply Kept.via (State.countVoters_kept ..)
    | split

theorem State.keepLanes_kept (s : State) (old : State) : Kept s (State.keepLanes s old) := by
  unfold State.keepLanes
  repeat' first
    | with_reducible first
      | apply Kept.refl | apply Kept.via (State.wr_kept ..) | apply Kept.via (State.startLanes_kept ..)
      | apply Kept.via (Kept.foldl ?_ ..)
    | intro _

theorem State.reinit_kept (s : State) (keepPstg : Bool) : Kept s (State.reinit s keepPstg) := by
  exact ⟨rfl, rfl, fun h => ⟨h, .refl _⟩, Store.rising_filter _ _, fun _ => rfl, fun _ => rfl, List.suffix_refl _, Nat.le_refl _⟩

theorem State.refreshAbx_kept (s : State) : Kept s (State.refreshAbx s) := by
  unfold State.refreshAbx
  repeat' first
    | with_reducible first | apply Kept.refl | apply Kept.via (State.wr_kept ..) | apply Kept.via (Kept.foldl ?_ ..)
    | intro _

theorem State.modLlr_kept (s : State) (i : ℕ) (f : LlrSlot → LlrSlot) : Kept s (State.modLlr s i f) := by
  unfold State.modLlr
  repeat' first
    | with_reducible first | apply Kept.refl
    | simp -zeta -iota -proj -zetaUnused -zetaHave (disch := rfl) only [Kept.update_iff]
    | split

theorem State.freeLlr_kept (s : State) (i : ℕ) : Kept s (State.freeLlr s i) := by
  unfold State.freeLlr
  repeat' first
    | with_reducible first | apply Kept.refl | apply Kept.via (State.refreshAbx_kept ..)
    | simp -zeta -iota -proj -zetaUnused -zetaHave (disch := rfl) only [Kept.update_iff]

theorem State.requeueSector_kept (s : State) (l : ℕ) (v : Serve) : Kept s (State.requeueSector s l v) := by
  unfold State.requeueSector
  repeat' first
    | with_reducible first | apply Kept.refl | apply Kept.via (State.wr_kept ..)
    | simp -zeta -iota -proj -zetaUnused -zetaHave (disch := rfl) only [Kept.update_iff]

theorem State.dropStream_kept (s : State) (k : ℕ) : Kept s (State.dropStream s k) := by
  have e : @State.dropStream = @State.dropStream := rfl
  conv at e => rhs; delta State.dropStream
  rw [e]; clear e
  dsimp -zeta -iota -proj -eta -zetaUnused -zetaHave -failIfUnchanged only
  repeat' first
    | with_reducible first
      | apply Kept.refl | assumption | apply Kept.via (State.requeueSector_kept ..) | apply Kept.via (State.modLlr_kept ..)
      | apply Kept.via (State.freeLlr_kept ..) | apply Kept.via (State.refreshAbx_kept ..) | apply Kept.via (Kept.foldl ?_ ..)
    | simp -zeta -iota -proj -zetaUnused -zetaHave (disch := rfl) only [Kept.update_iff]
    | intro _
    | (extract_lets -underBinder -merge +onlyGivenNames x; refine Kept.step (b := x) ?_ ?_
       all_goals first | (intro _; clear_value x) | dsimp -zeta -iota -proj -zetaUnused -zetaHave only [x])
    | extract_lets -underBinder -merge +onlyGivenNames x
    | split
    | (clear_value x; split)

theorem State.requeueOps_kept (s : State) (n : ℕ) (l : List MediaOp) : Kept s (State.requeueOps s n l) := by
  unfold State.requeueOps
  repeat' first
    | with_reducible first | apply Kept.refl | apply Kept.via (State.wr_kept ..)
    | simp -zeta -iota -proj -zetaUnused -zetaHave (disch := rfl) only [Kept.update_iff]

theorem State.interruptOps_kept (s : State) (n : ℕ) (l : List MediaOp) : Kept s (State.interruptOps s n l) := by
  have e : @State.interruptOps = @State.interruptOps := rfl
  conv at e => rhs; delta State.interruptOps
  rw [e]; clear e
  dsimp -zeta -iota -proj -eta -zetaUnused -zetaHave -failIfUnchanged only
  repeat' first
    | with_reducible first | apply Kept.refl | assumption | apply Kept.via (State.requeueOps_kept ..)
    | simp -zeta -iota -proj -zetaUnused -zetaHave (disch := rfl) only [Kept.update_iff]
    | intro _
    | (extract_lets -underBinder -merge +onlyGivenNames x; refine Kept.step (b := x) ?_ ?_
       all_goals first | (intro _; clear_value x) | dsimp -zeta -iota -proj -zetaUnused -zetaHave only [x])
    | extract_lets -underBinder -merge +onlyGivenNames x
    | split
    | (clear_value x; split)

theorem State.reinitAct_kept (s : State) (n : ℕ) : Kept s (State.reinitAct s n) := by
  have e : @State.reinitAct = @State.reinitAct := rfl
  conv at e => rhs; delta State.reinitAct
  rw [e]; clear e
  dsimp -zeta -iota -proj -eta -zetaUnused -zetaHave -failIfUnchanged only
  repeat' first
    | with_reducible first
      | apply Kept.refl | assumption | apply Kept.via (State.resetBlock_kept ..) | apply Kept.via (State.wr_kept ..)
      | apply Kept.via (State.interruptOps_kept ..) | apply Kept.via (State.dropStream_kept ..)
      | apply Kept.via (Kept.foldl ?_ ..) | apply Kept.via (Kept.foldl_fst ?_ ..)
    | simp -zeta -iota -proj -zetaUnused -zetaHave (disch := rfl) only [Kept.update_iff]
    | intro _
    | (extract_lets -underBinder -merge +onlyGivenNames x; refine Kept.step (b := x) ?_ ?_
       all_goals first | (intro _; clear_value x) | dsimp -zeta -iota -proj -zetaUnused -zetaHave only [x])
    | extract_lets -underBinder -merge +onlyGivenNames x
    | split
    | (clear_value x; split)
    | dsimp only

theorem State.writeImage_kept (s : State) (emptyBuf : Bool) : Kept s (State.writeImage s emptyBuf) := by
  unfold State.writeImage
  repeat' first
    | with_reducible first | apply Kept.refl
    | simp -zeta -iota -proj -zetaUnused -zetaHave (disch := rfl) only [Kept.update_iff]
    | split

theorem State.makeSafe_kept (s : State) : Kept s (State.makeSafe s) := by
  unfold State.makeSafe
  repeat' first
    | with_reducible first
      | apply Kept.refl | apply Kept.via (State.forceAssist_kept ..) | apply Kept.via (State.cutGates_kept ..)
      | apply Kept.via (Kept.foldl ?_ ..)
    | intro _

theorem State.deviceReset_kept (s : State) (rc : Fld) : Kept s (State.deviceReset s rc) := by
  unfold State.deviceReset
  repeat' first
    | with_reducible first
      | apply Kept.refl | apply Kept.via (State.wr_kept ..) | apply Kept.via (State.retract_kept ..)
      | apply Kept.via (State.makeSafe_kept ..) | apply Kept.via (State.writeImage_kept ..)
      | apply Kept.via (State.showNamespaces_kept ..) | apply Kept.via (State.keepLanes_kept ..)
      | apply Kept.via (State.reinit_kept ..) | apply Kept.via (Kept.foldl ?_ ..)
    | simp -zeta -iota -proj -zetaUnused -zetaHave (disch := rfl) only [Kept.update_iff]
    | intro _
    | split

theorem State.actuatorReset_kept (s : State) (n : ℕ) : Kept s (State.actuatorReset s n) := by
  have e : @State.actuatorReset = @State.actuatorReset := rfl
  conv at e => rhs; delta State.actuatorReset
  rw [e]; clear e
  dsimp -zeta -iota -proj -eta -zetaUnused -zetaHave -failIfUnchanged only
  repeat' first
    | with_reducible first
      | apply Kept.refl | assumption | apply Kept.via (State.setBitAt_kept ..) | apply Kept.via (State.reinitAct_kept ..)
      | apply Kept.via (State.requestActReset_kept ..)
    | simp -zeta -iota -proj -zetaUnused -zetaHave (disch := rfl) only [Kept.update_iff]
    | intro _
    | (extract_lets -underBinder -merge +onlyGivenNames x; refine Kept.step (b := x) ?_ ?_
       all_goals first | (intro _; clear_value x) | dsimp -zeta -iota -proj -zetaUnused -zetaHave only [x])
    | extract_lets -underBinder -merge +onlyGivenNames x
    | split
    | (clear_value x; split)

theorem State.dropDrains_kept (s : State) : Kept s (State.dropDrains s) := by
  unfold State.dropDrains
  repeat' first
    | with_reducible first
      | apply Kept.refl | apply Kept.via (State.clearAll_kept ..) | apply Kept.via (State.wrFlag_kept ..)
      | apply Kept.via (Kept.foldl ?_ ..)
    | intro _

end Sys2Proof.Machine
end

