-- ==== Sys2Proof/Laws/KeepsTally.lean ====
section
/-!
SUPPORT. Laws/KeepsTally.lean: each operation and command of Machine/Tally.lean keeps what every operation keeps (`Kept`).
-/
namespace Sys2Proof.Machine

theorem State.setCalendar_kept (s : State) (ms : ℕ) : Kept s (State.setCalendar s ms) := by
  unfold State.setCalendar
  repeat' with_reducible first | apply Kept.refl | apply Kept.via (State.wr_kept ..)

theorem State.dropWaiting_kept (s : State) (p : ℕ) : Kept s (State.dropWaiting s p) := by
  have e : @State.dropWaiting = @State.dropWaiting := rfl
  conv at e => rhs; delta State.dropWaiting
  rw [e]; clear e
  dsimp -zeta -iota -proj -eta -zetaUnused -zetaHave -failIfUnchanged only
  repeat' first
    | with_reducible first | apply Kept.refl
    | simp -zeta -iota -proj -zetaUnused -zetaHave (disch := rfl) only [Kept.update_iff]
    | intro _
    | (extract_lets -underBinder -merge +onlyGivenNames x; refine Kept.step (b := x) ?_ ?_
       all_goals first | (intro _; clear_value x) | dsimp -zeta -iota -proj -zetaUnused -zetaHave only [x])
    | extract_lets -underBinder -merge +onlyGivenNames x
    | split
    | (clear_value x; split)

theorem State.admitEvent_kept (s : State) (e : TlyEvent) : Kept s (State.admitEvent s e) := by
  have e : @State.admitEvent = @State.admitEvent := rfl
  conv at e => rhs; delta State.admitEvent
  rw [e]; clear e
  dsimp -zeta -iota -proj -eta -zetaUnused -zetaHave -failIfUnchanged only
  repeat' first
    | with_reducible first
      | apply Kept.refl | assumption | apply Kept.via (State.count_kept ..) | apply Kept.via (State.detect_kept ..)
    | simp -zeta -iota -proj -zetaUnused -zetaHave (disch := rfl) only [Kept.update_iff]
    | intro _
    | (extract_lets -underBinder -merge +onlyGivenNames x; refine Kept.step (b := x) ?_ ?_
       all_goals first | (intro _; clear_value x) | dsimp -zeta -iota -proj -zetaUnused -zetaHave only [x])
    | extract_lets -underBinder -merge +onlyGivenNames x
    | split
    | (clear_value x; split)

theorem State.inletCycle_kept (s : State) : Kept s (State.inletCycle s) := by
  have e : @State.inletCycle = @State.inletCycle := rfl
  conv at e => rhs; delta State.inletCycle
  rw [e]; clear e
  dsimp -zeta -iota -proj -eta -zetaUnused -zetaHave -failIfUnchanged only
  repeat' first
    | with_reducible first
      | apply Kept.refl | assumption | apply Kept.via (State.wr_kept ..) | apply Kept.via (State.admitEvent_kept ..)
      | apply Kept.via (State.dropWaiting_kept ..)
    | simp -zeta -iota -proj -zetaUnused -zetaHave (disch := rfl) only [Kept.update_iff]
    | intro _
    | (extract_lets -underBinder -merge +onlyGivenNames x; refine Kept.step (b := x) ?_ ?_
       all_goals first | (intro _; clear_value x) | dsimp -zeta -iota -proj -zetaUnused -zetaHave only [x])
    | extract_lets -underBinder -merge +onlyGivenNames x
    | split
    | (clear_value x; split)

theorem State.leaveInlet_kept (s : State) : Kept s (State.leaveInlet s) := by
  have e : @State.leaveInlet = @State.leaveInlet := rfl
  conv at e => rhs; delta State.leaveInlet
  rw [e]; clear e
  dsimp -zeta -iota -proj -eta -zetaUnused -zetaHave -failIfUnchanged only
  repeat' first
    | with_reducible first | apply Kept.refl | assumption | apply Kept.via (State.wr_kept ..)
    | simp -zeta -iota -proj -zetaUnused -zetaHave (disch := rfl) only [Kept.update_iff]
    | intro _
    | (extract_lets -underBinder -merge +onlyGivenNames x; refine Kept.step (b := x) ?_ ?_
       all_goals first | (intro _; clear_value x) | dsimp -zeta -iota -proj -zetaUnused -zetaHave only [x])
    | extract_lets -underBinder -merge +onlyGivenNames x
    | split
    | (clear_value x; split)

theorem State.archiveDemand_kept (s : State) : Kept s (State.archiveDemand s) := by
  unfold State.archiveDemand
  repeat' first
    | with_reducible first | apply Kept.refl
    | simp -zeta -iota -proj -zetaUnused -zetaHave (disch := rfl) only [Kept.update_iff]
    | split

theorem State.commitRecord_kept (s : State) (e : TlyEvent) : Kept s (State.commitRecord s e) := by
  unfold State.commitRecord
  repeat' first
    | with_reducible first
      | apply Kept.refl | apply Kept.via (State.raise_kept ..) | apply Kept.via (State.count_kept ..)
      | apply Kept.via (State.advance_kept ..) | apply Kept.via (State.archiveDemand_kept ..)
    | simp -zeta -iota -proj -zetaUnused -zetaHave (disch := rfl) only [Kept.update_iff]
    | split

theorem State.applyRepeat_kept (s : State) : Kept s (State.applyRepeat s) := by
  have e : @State.applyRepeat = @State.applyRepeat := rfl
  conv at e => rhs; delta State.applyRepeat
  rw [e]; clear e
  dsimp -zeta -iota -proj -eta -zetaUnused -zetaHave -failIfUnchanged only
  repeat' first
    | with_reducible first | apply Kept.refl
    | simp -zeta -iota -proj -zetaUnused -zetaHave (disch := rfl) only [Kept.update_iff]
    | intro _
    | (extract_lets -underBinder -merge +onlyGivenNames x; refine Kept.step (b := x) ?_ ?_
       all_goals first | (intro _; clear_value x) | dsimp -zeta -iota -proj -zetaUnused -zetaHave only [x])
    | extract_lets -underBinder -merge +onlyGivenNames x
    | split
    | (clear_value x; split)

theorem State.startErase_kept (s : State) : Kept s (State.startErase s) := by
  have e : @State.startErase = @State.startErase := rfl
  conv at e => rhs; delta State.startErase
  rw [e]; clear e
  dsimp -zeta -iota -proj -eta -zetaUnused -zetaHave -failIfUnchanged only
  repeat' first
    | with_reducible first
      | apply Kept.refl | assumption | apply Kept.via (State.wr_kept ..) | apply Kept.via (State.flushNow_kept ..)
    | simp -zeta -iota -proj -zetaUnused -zetaHave (disch := rfl) only [Kept.update_iff]
    | intro _
    | (extract_lets -underBinder -merge +onlyGivenNames x; refine Kept.step (b := x) ?_ ?_
       all_goals first | (intro _; clear_value x) | dsimp -zeta -iota -proj -zetaUnused -zetaHave only [x])
    | extract_lets -underBinder -merge +onlyGivenNames x
    | split
    | (clear_value x; split)
    | dsimp only

theorem State.runClear_kept (s : State) (code : ℕ) : Kept s (State.runClear s code) := by
  unfold State.runClear
  repeat' first
    | with_reducible first
      | apply Kept.refl | apply Kept.via (State.wr_kept ..) | apply Kept.via (State.commitRecord_kept ..)
      | apply Kept.via (State.startErase_kept ..) | apply Kept.via (State.raise_kept ..)
    | simp -zeta -iota -proj -zetaUnused -zetaHave (disch := rfl) only [Kept.update_iff]
    | split

theorem State.unfreeze_kept (s : State) : Kept s (State.unfreeze s) := by
  have e : @State.unfreeze = @State.unfreeze := rfl
  conv at e => rhs; delta State.unfreeze
  rw [e]; clear e
  dsimp -zeta -iota -proj -eta -zetaUnused -zetaHave -failIfUnchanged only
  repeat' first
    | with_reducible first
      | apply Kept.refl | assumption | apply Kept.via (State.wr_kept ..) | apply Kept.via (State.runClear_kept ..)
    | simp -zeta -iota -proj -zetaUnused -zetaHave (disch := rfl) only [Kept.update_iff]
    | intro _
    | (extract_lets -underBinder -merge +onlyGivenNames x; refine Kept.step (b := x) ?_ ?_
       all_goals first | (intro _; clear_value x) | dsimp -zeta -iota -proj -zetaUnused -zetaHave only [x])
    | extract_lets -underBinder -merge +onlyGivenNames x
    | split
    | (clear_value x; split)

theorem State.markRing_kept (s : State) (seqs : List ℕ) (st : ArchState) : Kept s (State.markRing s seqs st) := by
  have e : @State.markRing = @State.markRing := rfl
  conv at e => rhs; delta State.markRing
  rw [e]; clear e
  dsimp -zeta -iota -proj -eta -zetaUnused -zetaHave -failIfUnchanged only
  repeat' first
    | with_reducible first | apply Kept.refl
    | simp -zeta -iota -proj -zetaUnused -zetaHave (disch := rfl) only [Kept.update_iff]
    | intro _
    | (extract_lets -underBinder -merge +onlyGivenNames x; refine Kept.step (b := x) ?_ ?_
       all_goals first | (intro _; clear_value x) | dsimp -zeta -iota -proj -zetaUnused -zetaHave only [x])
    | extract_lets -underBinder -merge +onlyGivenNames x
    | split
    | (clear_value x; split)

theorem State.programStart_kept (s : State) : Kept s (State.programStart s) := by
  have e : @State.programStart = @State.programStart := rfl
  conv at e => rhs; delta State.programStart
  rw [e]; clear e
  dsimp -zeta -iota -proj -eta -zetaUnused -zetaHave -failIfUnchanged only
  repeat' first
    | with_reducible first | apply Kept.refl | assumption | apply Kept.via (State.markRing_kept ..)
    | simp -zeta -iota -proj -zetaUnused -zetaHave (disch := rfl) only [Kept.update_iff]
    | intro _
    | (extract_lets -underBinder -merge +onlyGivenNames x; refine Kept.step (b := x) ?_ ?_
       all_goals first | (intro _; clear_value x) | dsimp -zeta -iota -proj -zetaUnused -zetaHave only [x])
    | extract_lets -underBinder -merge +onlyGivenNames x
    | split
    | (clear_value x; split)

theorem State.eraseAhead_kept (s : State) (sec : ℕ) : Kept s (State.eraseAhead s sec) := by
  have e : @State.eraseAhead = @State.eraseAhead := rfl
  conv at e => rhs; delta State.eraseAhead
  rw [e]; clear e
  dsimp -zeta -iota -proj -eta -zetaUnused -zetaHave -failIfUnchanged only
  repeat' first
    | with_reducible first | apply Kept.refl
    | simp -zeta -iota -proj -zetaUnused -zetaHave (disch := rfl) only [Kept.update_iff]
    | intro _
    | (extract_lets -underBinder -merge +onlyGivenNames x; refine Kept.step (b := x) ?_ ?_
       all_goals first | (intro _; clear_value x) | dsimp -zeta -iota -proj -zetaUnused -zetaHave only [x])
    | extract_lets -underBinder -merge +onlyGivenNames x
    | split
    | (clear_value x; split)

theorem State.archiveOne_kept (s : State) (r : TlyRec) : Kept s (State.archiveOne s r) := by
  have e : @State.archiveOne = @State.archiveOne := rfl
  conv at e => rhs; delta State.archiveOne
  rw [e]; clear e
  dsimp -zeta -iota -proj -eta -zetaUnused -zetaHave -failIfUnchanged only
  repeat' first
    | with_reducible first
      | apply Kept.refl | assumption | apply Kept.via (State.wr_kept ..) | apply Kept.via (State.eraseAhead_kept ..)
    | simp -zeta -iota -proj -zetaUnused -zetaHave (disch := rfl) only [Kept.update_iff]
    | intro _
    | (extract_lets -underBinder -merge +onlyGivenNames x; refine Kept.step (b := x) ?_ ?_
       all_goals first | (intro _; clear_value x) | dsimp -zeta -iota -proj -zetaUnused -zetaHave only [x])
    | extract_lets -underBinder -merge +onlyGivenNames x
    | split
    | (clear_value x; split)
    | dsimp only

theorem State.programEnd_kept (s : State) (ok : Bool) : Kept s (State.programEnd s ok) := by
  unfold State.programEnd
  repeat' first
    | with_reducible first
      | apply Kept.refl | apply Kept.via (State.markRing_kept ..) | apply Kept.via (State.archiveOne_kept ..)
      | apply Kept.via (State.raise_kept ..) | apply Kept.via (State.count_kept ..)
      | apply Kept.via (State.eraseAhead_kept ..) | apply Kept.via (State.wr_kept ..) | apply Kept.via (State.detect_kept ..)
      | apply Kept.via (Kept.foldl ?_ ..)
    | simp -zeta -iota -proj -zetaUnused -zetaHave (disch := rfl) only [Kept.update_iff]
    | intro _
    | split

theorem State.lifeGroup_kept (s : State) : Kept s (State.lifeGroup s) := by
  have e : @State.lifeGroup = @State.lifeGroup := rfl
  conv at e => rhs; delta State.lifeGroup
  rw [e]; clear e
  dsimp -zeta -iota -proj -eta -zetaUnused -zetaHave -failIfUnchanged only
  repeat' first
    | with_reducible first
      | apply Kept.refl | assumption | apply Kept.via (State.tallyOwn_kept ..) | apply Kept.via (Kept.foldl ?_ ..)
    | simp -zeta -iota -proj -zetaUnused -zetaHave (disch := rfl) only [Kept.update_iff]
    | intro _
    | (extract_lets -underBinder -merge +onlyGivenNames x; refine Kept.step (b := x) ?_ ?_
       all_goals first | (intro _; clear_value x) | dsimp -zeta -iota -proj -zetaUnused -zetaHave only [x])
    | extract_lets -underBinder -merge +onlyGivenNames x
    | split
    | (clear_value x; split)

theorem State.lifeHottest_kept (s : State) (t : ℕ) (p : ℕ) : Kept s (State.lifeHottest s t p) := by
  unfold State.lifeHottest
  repeat' first
    | with_reducible first | apply Kept.refl | apply Kept.via (State.wr_kept ..)
    | split

theorem State.lifeCounter_kept (s : State) (vals : List ℕ) (i : ℕ) : Kept s (State.lifeCounter s vals i) := by
  unfold State.lifeCounter
  repeat' first
    | with_reducible first | apply Kept.refl | apply Kept.via (State.count_kept ..)
    | split

theorem State.lifeMax_kept (s : State) (vals : List ℕ) : Kept s (State.lifeMax s vals) := by
  unfold State.lifeMax
  repeat' first
    | with_reducible first | apply Kept.refl | apply Kept.via (State.lifeHottest_kept ..)
    | split

theorem State.lifeRestore_kept (s : State) (l : List TlyRec) : Kept s (State.lifeRestore s l) := by
  have e : @State.lifeRestore = @State.lifeRestore := rfl
  conv at e => rhs; delta State.lifeRestore
  rw [e]; clear e
  dsimp -zeta -iota -proj -eta -zetaUnused -zetaHave -failIfUnchanged only
  repeat' first
    | with_reducible first
      | apply Kept.refl | assumption | apply Kept.via (State.lifeCounter_kept ..) | apply Kept.via (State.wr_kept ..)
      | apply Kept.via (State.lifeMax_kept ..) | apply Kept.via (Kept.foldl ?_ ..)
    | simp -zeta -iota -proj -zetaUnused -zetaHave (disch := rfl) only [Kept.update_iff]
    | intro _
    | (extract_lets -underBinder -merge +onlyGivenNames x; refine Kept.step (b := x) ?_ ?_
       all_goals first | (intro _; clear_value x) | dsimp -zeta -iota -proj -zetaUnused -zetaHave only [x])
    | extract_lets -underBinder -merge +onlyGivenNames x
    | split
    | (clear_value x; split)

theorem State.tallyReady_kept (s : State) : Kept s (State.tallyReady s) := by
  have e : @State.tallyReady = @State.tallyReady := rfl
  conv at e => rhs; delta State.tallyReady
  rw [e]; clear e
  dsimp -zeta -iota -proj -eta -zetaUnused -zetaHave -failIfUnchanged only
  repeat' first
    | with_reducible first
      | apply Kept.refl | assumption | apply Kept.via (State.wr_kept ..) | apply Kept.via (State.commitRecord_kept ..)
      | apply Kept.via (State.lifeRestore_kept ..) | apply Kept.via (State.lifeGroup_kept ..)
      | apply Kept.via (State.tallyFlushStart_kept ..) | apply Kept.via (State.runClear_kept ..)
      | apply Kept.via (Kept.foldl ?_ ..) | apply Kept.via (Kept.foldl_fst ?_ ..)
    | simp -zeta -iota -proj -zetaUnused -zetaHave (disch := rfl) only [Kept.update_iff]
    | intro _
    | (extract_lets -underBinder -merge +onlyGivenNames x; refine Kept.step (b := x) ?_ ?_
       all_goals first | (intro _; clear_value x) | dsimp -zeta -iota -proj -zetaUnused -zetaHave only [x])
    | extract_lets -underBinder -merge +onlyGivenNames x
    | split
    | (clear_value x; split)
    | dsimp only

theorem execTallyInletAdmit_kept (s : State) : KeptBy s (execTallyInletAdmit s) := by
  unfold execTallyInletAdmit
  refine KeptBy.next ?_
  repeat' with_reducible first | apply Kept.refl | apply Kept.via (State.inletCycle_kept ..)

theorem execTallyCommit_kept (s : State) : KeptBy s (execTallyCommit s) := by
  unfold execTallyCommit
  refine KeptBy.next ?_
  repeat' first
    | with_reducible first
      | apply Kept.refl | apply Kept.via (State.commitRecord_kept ..) | apply Kept.via (State.leaveInlet_kept ..)
    | split

theorem execTallyRepeat_kept (s : State) : KeptBy s (execTallyRepeat s) := by
  unfold execTallyRepeat
  refine KeptBy.next ?_
  repeat' first
    | with_reducible first
      | apply Kept.refl | apply Kept.via (State.leaveInlet_kept ..) | apply Kept.via (State.applyRepeat_kept ..)
    | split

theorem execTallyFreeze_kept (s : State) : KeptBy s (execTallyFreeze s) := by
  unfold execTallyFreeze
  refine KeptBy.next ?_
  repeat' first
    | with_reducible first
      | apply Kept.refl | apply Kept.via (State.access_kept (h_k := ?_) ..) | apply Kept.via (State.wr_kept ..)
    | simp -zeta -iota -proj -zetaUnused -zetaHave (disch := rfl) only [Kept.update_iff]
    | intro _

theorem execTallyUnfreeze_kept (s : State) : KeptBy s (execTallyUnfreeze s) := by
  unfold execTallyUnfreeze
  refine KeptBy.next ?_
  repeat' first
    | with_reducible first
      | apply Kept.refl | apply Kept.via (State.access_kept (h_k := ?_) ..) | apply Kept.via (State.unfreeze_kept ..)
    | simp -zeta -iota -proj -zetaUnused -zetaHave (disch := rfl) only [Kept.update_iff]
    | intro _

theorem execTallyFreezeTimeout_kept (s : State) : KeptBy s (execTallyFreezeTimeout s) := by
  unfold execTallyFreezeTimeout
  refine KeptBy.next ?_
  repeat' first
    | with_reducible first
      | apply Kept.refl | apply Kept.via (State.raise_kept ..) | apply Kept.via (State.wr_kept ..)
      | apply Kept.via (State.unfreeze_kept ..)
    | split

theorem execTallyArchiveTimeout_kept (s : State) : KeptBy s (execTallyArchiveTimeout s) := by
  unfold execTallyArchiveTimeout
  refine KeptBy.next ?_
  repeat' first
    | with_reducible first | apply Kept.refl
    | simp -zeta -iota -proj -zetaUnused -zetaHave (disch := rfl) only [Kept.update_iff]
    | split

theorem execTallyArchiveProgram_kept (s : State) : KeptBy s (execTallyArchiveProgram s) := by
  unfold execTallyArchiveProgram
  refine KeptBy.next ?_
  repeat' first
    | with_reducible first | apply Kept.refl | apply Kept.via (State.programStart_kept ..)
    | split

theorem execTallyProgramComplete_kept (ok : Bool) (s : State) : KeptBy s (execTallyProgramComplete ok s) := by
  unfold execTallyProgramComplete
  refine KeptBy.next ?_
  repeat' first
    | with_reducible first | apply Kept.refl | apply Kept.via (State.programEnd_kept ..)
    | split

theorem execTallyFlush_kept (s : State) : KeptBy s (execTallyFlush s) := by
  unfold execTallyFlush
  refine KeptBy.next ?_
  repeat' first
    | with_reducible first
      | apply Kept.refl | apply Kept.via (State.access_kept (h_k := ?_) ..) | apply Kept.via (State.tallyFlushStart_kept ..)
    | simp -zeta -iota -proj -zetaUnused -zetaHave (disch := rfl) only [Kept.update_iff]
    | intro _

theorem execTallyFlushDone_kept (s : State) : KeptBy s (execTallyFlushDone s) := by
  unfold execTallyFlushDone
  refine KeptBy.next ?_
  repeat' first
    | with_reducible first | apply Kept.refl | apply Kept.via (State.raise_kept ..) | apply Kept.via (State.wr_kept ..)
    | split

theorem execTallyReady_kept (s : State) : KeptBy s (execTallyReady s) := by
  unfold execTallyReady
  refine KeptBy.next ?_
  repeat' first
    | with_reducible first | apply Kept.refl | apply Kept.via (State.tallyReady_kept ..)
    | split

theorem execTallyClear_kept (both : Bool) (s : State) : KeptBy s (execTallyClear both s) := by
  have e : @execTallyClear = @execTallyClear := rfl
  conv at e => rhs; delta execTallyClear
  rw [e]; clear e
  dsimp -zeta -iota -proj -eta -zetaUnused -zetaHave -failIfUnchanged only
  refine KeptBy.next ?_
  repeat' first
    | with_reducible first | apply Kept.refl | apply Kept.via (State.runClear_kept ..)
    | simp -zeta -iota -proj -zetaUnused -zetaHave (disch := rfl) only [Kept.update_iff]
    | intro _
    | (extract_lets -underBinder -merge +onlyGivenNames x; refine Kept.step (b := x) ?_ ?_
       all_goals first | (intro _; clear_value x) | dsimp -zeta -iota -proj -zetaUnused -zetaHave only [x])
    | extract_lets -underBinder -merge +onlyGivenNames x
    | split
    | (clear_value x; split)

theorem execTallyClearDone_kept (s : State) : KeptBy s (execTallyClearDone s) := by
  unfold execTallyClearDone
  refine KeptBy.next ?_
  repeat' first
    | with_reducible first | apply Kept.refl | apply Kept.via (State.raise_kept ..) | apply Kept.via (State.wr_kept ..)
    | simp -zeta -iota -proj -zetaUnused -zetaHave (disch := rfl) only [Kept.update_iff]
    | split

theorem execLifeGroupTimer_kept (s : State) : KeptBy s (execLifeGroupTimer s) := by
  unfold execLifeGroupTimer
  refine KeptBy.next ?_
  repeat' first
    | with_reducible first | apply Kept.refl | apply Kept.via (State.lifeGroup_kept ..)
    | split

theorem execFwEvtGo_kept (s : State) : KeptBy s (execFwEvtGo s) := by
  unfold execFwEvtGo
  refine KeptBy.next ?_
  repeat' first
    | with_reducible first
      | apply Kept.refl | apply Kept.via (State.access_kept (h_k := ?_) ..) | apply Kept.via (State.tallyFw_kept ..)
    | simp -zeta -iota -proj -zetaUnused -zetaHave (disch := rfl) only [Kept.update_iff]
    | intro _

theorem execPohTick_kept (s : State) : KeptBy s (execPohTick s) := by
  have e : @execPohTick = @execPohTick := rfl
  conv at e => rhs; delta execPohTick
  rw [e]; clear e
  dsimp -zeta -iota -proj -eta -zetaUnused -zetaHave -failIfUnchanged only
  repeat' first
    | with_reducible first | refine KeptBy.next ?_ | apply Kept.refl | assumption | apply Kept.via (State.count_kept ..)
    | simp -zeta -iota -proj -zetaUnused -zetaHave (disch := rfl) only [Kept.update_iff]
    | intro _
    | (extract_lets -underBinder -merge +onlyGivenNames x; refine Kept.step (b := x) ?_ ?_
       all_goals first | (intro _; clear_value x) | dsimp -zeta -iota -proj -zetaUnused -zetaHave only [x])
    | extract_lets -underBinder -merge +onlyGivenNames x
    | split
    | (clear_value x; split)
    | dsimp only

theorem execCalendarSet_kept (ms : BitVec 48) (s : State) : KeptBy s (execCalendarSet ms s) := by
  unfold execCalendarSet
  refine KeptBy.next ?_
  repeat' with_reducible first | apply Kept.refl | apply Kept.via (State.setCalendar_kept ..)

end Sys2Proof.Machine
end

