-- ==== Sys2Proof/Laws/KeepsPower.lean ====
section
/-!
SUPPORT. Laws/KeepsPower.lean: each operation and command of Machine/Power.lean keeps what every operation keeps (`Kept`).
-/
namespace Sys2Proof.Machine

theorem State.powerFailStart_kept (s : State) : Kept s (State.powerFailStart s) := by
  have e : @State.powerFailStart = @State.powerFailStart := rfl
  conv at e => rhs; delta State.powerFailStart
  rw [e]; clear e
  dsimp -zeta -iota -proj -eta -zetaUnused -zetaHave -failIfUnchanged only
  repeat' first
    | with_reducible first
      | apply Kept.refl | assumption | apply Kept.via (State.wr_kept ..) | apply Kept.via (State.count_kept ..)
      | apply Kept.via (State.unfreeze_kept ..) | apply Kept.via (State.flushNow_kept ..)
      | apply Kept.via (State.clearPert_kept ..) | apply Kept.via (State.dropDrains_kept ..)
      | apply Kept.via (State.detect_kept ..) | apply Kept.via (State.makeSafe_kept ..)
      | apply Kept.via (State.retract_kept ..) | apply Kept.via (State.clearAll_kept ..) | apply Kept.via (Kept.foldl ?_ ..)
      | apply Kept.via (Kept.foldl_fst ?_ ..)
    | simp -zeta -iota -proj -zetaUnused -zetaHave (disch := rfl) only [Kept.update_iff]
    | intro _
    | (extract_lets -underBinder -merge +onlyGivenNames x; refine Kept.step (b := x) ?_ ?_
       all_goals first | (intro _; clear_value x) | dsimp -zeta -iota -proj -zetaUnused -zetaHave only [x])
    | extract_lets -underBinder -merge +onlyGivenNames x
    | split
    | (clear_value x; split)
    | dsimp only

theorem State.railOk_kept (s : State) (n : ℕ) : Kept s (State.railOk s n) := by
  unfold State.railOk
  repeat' with_reducible first | apply Kept.refl | apply Kept.via (State.putBitAt_kept ..)

theorem State.powerOnReset_kept (s : State) (rc : Fld) : Kept s (State.powerOnReset s rc) := by
  unfold State.powerOnReset
  repeat' first
    | with_reducible first
      | apply Kept.refl | apply Kept.via (State.reinit_kept ..) | apply Kept.via (State.wr_kept ..)
      | apply Kept.via (State.count_kept ..)
    | simp -zeta -iota -proj -zetaUnused -zetaHave (disch := rfl) only [Kept.update_iff]

theorem State.kscReady_kept (s : State) : Kept s (State.kscReady s) := by
  unfold State.kscReady
  repeat' first
    | with_reducible first
      | apply Kept.refl | apply Kept.via (State.abandonWarm_kept ..) | apply Kept.via (State.wr_kept ..)
    | simp -zeta -iota -proj -zetaUnused -zetaHave (disch := rfl) only [Kept.update_iff]
    | split

theorem State.flushImage_kept (s : State) : Kept s (State.flushImage s) := by
  unfold State.flushImage
  repeat' with_reducible first | apply Kept.refl | apply Kept.via (State.writeImage_kept ..)

theorem State.flushCommit_kept (s : State) (inputBack : Bool) : Kept s (State.flushCommit s inputBack) := by
  unfold State.flushCommit
  repeat' first
    | with_reducible first
      | apply Kept.refl | apply Kept.via (State.flushImage_kept ..) | apply Kept.via (State.wr_kept ..)
      | apply Kept.via (State.powerOnReset_kept ..)
    | simp -zeta -iota -proj -zetaUnused -zetaHave (disch := rfl) only [Kept.update_iff]
    | split

theorem State.holdupImageStart_kept (s : State) : Kept s (State.holdupImageStart s) := by
  have e : @State.holdupImageStart = @State.holdupImageStart := rfl
  conv at e => rhs; delta State.holdupImageStart
  rw [e]; clear e
  dsimp -zeta -iota -proj -eta -zetaUnused -zetaHave -failIfUnchanged only
  repeat' first
    | with_reducible first | apply Kept.refl | assumption | apply Kept.via (State.detect_kept ..)
    | simp -zeta -iota -proj -zetaUnused -zetaHave (disch := rfl) only [Kept.update_iff]
    | intro _
    | (extract_lets -underBinder -merge +onlyGivenNames x; refine Kept.step (b := x) ?_ ?_
       all_goals first | (intro _; clear_value x) | dsimp -zeta -iota -proj -zetaUnused -zetaHave only [x])
    | extract_lets -underBinder -merge +onlyGivenNames x
    | split
    | (clear_value x; split)

theorem State.holdupJudge_kept (s : State) (ok : Bool) : Kept s (State.holdupJudge s ok) := by
  have e : @State.holdupJudge = @State.holdupJudge := rfl
  conv at e => rhs; delta State.holdupJudge
  rw [e]; clear e
  dsimp -zeta -iota -proj -eta -zetaUnused -zetaHave -failIfUnchanged only
  repeat' first
    | with_reducible first
      | apply Kept.refl | assumption | apply Kept.via (State.wrFlag_kept ..) | apply Kept.via (State.holdupImageStart_kept ..)
    | simp -zeta -iota -proj -zetaUnused -zetaHave (disch := rfl) only [Kept.update_iff]
    | intro _
    | (extract_lets -underBinder -merge +onlyGivenNames x; refine Kept.step (b := x) ?_ ?_
       all_goals first | (intro _; clear_value x) | dsimp -zeta -iota -proj -zetaUnused -zetaHave only [x])
    | extract_lets -underBinder -merge +onlyGivenNames x
    | split
    | (clear_value x; split)

theorem State.holdupRecompute_kept (s : State) (vin : ℕ) (pin : ℕ) (mv : ℕ) : Kept s (State.holdupRecompute s vin pin mv) := by
  unfold State.holdupRecompute
  repeat' first
    | with_reducible first
      | apply Kept.refl | apply Kept.via (State.wrFlag_kept ..) | apply Kept.via (State.wr_kept ..)
      | apply Kept.via (State.free_kept ..) | apply Kept.via (State.holdupJudge_kept ..)
    | simp -zeta -iota -proj -zetaUnused -zetaHave (disch := rfl) only [Kept.update_iff]

theorem State.railEnable_kept (s : State) (pa : ℕ) (asst : ℕ) : Kept s (State.railEnable s pa asst) := by
  unfold State.railEnable
  repeat' first
    | with_reducible first
      | apply Kept.refl | apply Kept.via (State.wr_kept ..) | apply Kept.via (State.wrFlag_kept ..)
      | apply Kept.via (State.railOk_kept ..) | apply Kept.via (Kept.foldl ?_ ..)
    | simp -zeta -iota -proj -zetaUnused -zetaHave (disch := rfl) only [Kept.update_iff]
    | intro _

theorem State.railReady_kept (s : State) (n : ℕ) (rail : Rail) : Kept s (State.railReady s n rail) := by
  unfold State.railReady
  repeat' first
    | with_reducible first | apply Kept.refl | apply Kept.via (State.railOk_kept ..) | apply Kept.via (State.wr_kept ..)
    | simp -zeta -iota -proj -zetaUnused -zetaHave (disch := rfl) only [Kept.update_iff]
    | split

theorem State.railOvercurrent_kept (s : State) (n : ℕ) (rail : Rail) : Kept s (State.railOvercurrent s n rail) := by
  unfold State.railOvercurrent
  repeat' first
    | with_reducible first
      | apply Kept.refl | apply Kept.via (State.clrBitAt_kept ..) | apply Kept.via (State.setBitAt_kept ..)
      | apply Kept.via (State.railOk_kept ..) | apply Kept.via (State.wr_kept ..) | apply Kept.via (State.detect_kept ..)
    | simp -zeta -iota -proj -zetaUnused -zetaHave (disch := rfl) only [Kept.update_iff]
    | split

theorem execPowerOnReset_kept (s : State) : KeptBy s (execPowerOnReset s) := by
  unfold execPowerOnReset
  refine KeptBy.next ?_
  repeat' first
    | with_reducible first | apply Kept.refl | apply Kept.via (State.powerOnReset_kept ..)
    | split

theorem execInrushComplete_kept (s : State) : KeptBy s (execInrushComplete s) := by
  unfold execInrushComplete
  refine KeptBy.next ?_
  repeat' first
    | with_reducible first | apply Kept.refl | apply Kept.via (State.wr_kept ..)
    | simp -zeta -iota -proj -zetaUnused -zetaHave (disch := rfl) only [Kept.update_iff]
    | split

theorem execPowerFail_kept (vin10mV : BitVec 16) (s : State) : KeptBy s (execPowerFail vin10mV s) := by
  unfold execPowerFail
  refine KeptBy.next ?_
  repeat' first
    | with_reducible first
      | apply Kept.refl | apply Kept.via (State.powerFailStart_kept ..) | apply Kept.via (State.wr_kept ..)
    | split

theorem execKscReady_kept (s : State) : KeptBy s (execKscReady s) := by
  unfold execKscReady
  refine KeptBy.next ?_
  repeat' with_reducible first | apply Kept.refl | apply Kept.via (State.kscReady_kept ..)

theorem execFlushCommit_kept (inputBack : Bool) (s : State) : KeptBy s (execFlushCommit inputBack s) := by
  unfold execFlushCommit
  refine KeptBy.next ?_
  repeat' with_reducible first | apply Kept.refl | apply Kept.via (State.flushCommit_kept ..)

theorem execPstgOff_kept (vbulkMv : BitVec 17) (s : State) : KeptBy s (execPstgOff vbulkMv s) := by
  unfold execPstgOff
  refine KeptBy.next ?_
  repeat' first
    | with_reducible first | apply Kept.refl
    | simp -zeta -iota -proj -zetaUnused -zetaHave (disch := rfl) only [Kept.update_iff]
    | split

theorem execOvervoltageDetect_kept (vin10mV : BitVec 16) (s : State) : KeptBy s (execOvervoltageDetect vin10mV s) := by
  unfold execOvervoltageDetect
  refine KeptBy.next ?_
  repeat' first
    | with_reducible first | apply Kept.refl | apply Kept.via (State.wr_kept ..)
    | simp -zeta -iota -proj -zetaUnused -zetaHave (disch := rfl) only [Kept.update_iff]
    | split

theorem execOvRideEnd_kept (vin10mV : BitVec 16) (vbulkMv : BitVec 17) (s : State) :
    KeptBy s (execOvRideEnd vin10mV vbulkMv s) := by
  unfold execOvRideEnd
  refine KeptBy.next ?_
  repeat' first
    | with_reducible first
      | apply Kept.refl | apply Kept.via (State.wrFlag_kept ..) | apply Kept.via (State.wr_kept ..)
      | apply Kept.via (State.detect_kept ..)
    | simp -zeta -iota -proj -zetaUnused -zetaHave (disch := rfl) only [Kept.update_iff]
    | split

theorem execOvRideTimeout_kept (s : State) : KeptBy s (execOvRideTimeout s) := by
  unfold execOvRideTimeout
  refine KeptBy.next ?_
  repeat' first
    | with_reducible first | apply Kept.refl | apply Kept.via (State.powerFailStart_kept ..)
    | split

theorem execHoldupRecompute_kept (vin10mV : BitVec 16) (pin10mW : BitVec 16) (vbulkMv : BitVec 17) (s : State) :
    KeptBy s (execHoldupRecompute vin10mV pin10mW vbulkMv s) := by
  unfold execHoldupRecompute
  refine KeptBy.next ?_
  repeat' first
    | with_reducible first | apply Kept.refl | apply Kept.via (State.holdupRecompute_kept ..)
    | split

theorem execKeepImageCommit_kept (s : State) : KeptBy s (execKeepImageCommit s) := by
  have e : @execKeepImageCommit = @execKeepImageCommit := rfl
  conv at e => rhs; delta execKeepImageCommit
  rw [e]; clear e
  dsimp -zeta -iota -proj -eta -zetaUnused -zetaHave -failIfUnchanged only
  refine KeptBy.next ?_
  repeat' first
    | with_reducible first | apply Kept.refl | assumption | apply Kept.via (State.writeImage_kept ..)
    | simp -zeta -iota -proj -zetaUnused -zetaHave (disch := rfl) only [Kept.update_iff]
    | intro _
    | (extract_lets -underBinder -merge +onlyGivenNames x; refine Kept.step (b := x) ?_ ?_
       all_goals first | (intro _; clear_value x) | dsimp -zeta -iota -proj -zetaUnused -zetaHave only [x])
    | extract_lets -underBinder -merge +onlyGivenNames x
    | split
    | (clear_value x; split)

theorem execPaRailEnable_kept (paEn : BitVec 4) (passtEn : BitVec 4) (s : State) :
    KeptBy s (execPaRailEnable paEn passtEn s) := by
  unfold execPaRailEnable
  refine KeptBy.next ?_
  repeat' first
    | with_reducible first
      | apply Kept.refl | apply Kept.via (State.access_kept (h_k := ?_) ..) | apply Kept.via (State.railEnable_kept ..)
    | simp -zeta -iota -proj -zetaUnused -zetaHave (disch := rfl) only [Kept.update_iff]
    | intro _

theorem execPaRailReady_kept (n : Fin 4) (rail : Rail) (s : State) : KeptBy s (execPaRailReady n rail s) := by
  unfold execPaRailReady
  refine KeptBy.next ?_
  repeat' with_reducible first | apply Kept.refl | apply Kept.via (State.railReady_kept ..)

theorem execPaRailOvercurrent_kept (n : Fin 4) (rail : Rail) (s : State) : KeptBy s (execPaRailOvercurrent n rail s) := by
  unfold execPaRailOvercurrent
  refine KeptBy.next ?_
  repeat' with_reducible first | apply Kept.refl | apply Kept.via (State.railOvercurrent_kept ..)

end Sys2Proof.Machine
end

