-- ==== Sys2Proof/Laws/KeepsUcode.lean ====
section
/-!
SUPPORT. Laws/KeepsUcode.lean: each operation and command of Machine/Ucode.lean keeps what every operation keeps (`Kept`).
-/
namespace Sys2Proof.Machine

theorem State.setBank_kept (s : State) (q : ℕ) (b : ℕ) (valid : Bool) (compat : Bool) :
    Kept s (State.setBank s q b valid compat) := by
  unfold State.setBank
  repeat' first
    | with_reducible first | apply Kept.refl | apply Kept.via (State.wrFlag_kept ..)
    | simp -zeta -iota -proj -zetaUnused -zetaHave (disch := rfl) only [Kept.update_iff]
    | split

theorem State.loadSection_kept (s : State) (i : Image) (x : UcodeSection) (q : ℕ) (b : ℕ) :
    Kept s (State.loadSection s i x q b) := by
  unfold State.loadSection
  repeat' first
    | with_reducible first | apply Kept.refl | apply Kept.via (State.setBank_kept ..)
    | simp -zeta -iota -proj -zetaUnused -zetaHave (disch := rfl) only [Kept.update_iff]

theorem State.loadImage_kept (s : State) (i : Image) (acts : List ℕ) (b : ℕ) : Kept s (State.loadImage s i acts b) := by
  unfold State.loadImage
  repeat' first
    | with_reducible first
      | apply Kept.refl | apply Kept.via (State.loadSection_kept ..) | apply Kept.via (Kept.foldl ?_ ..)
    | intro _

theorem State.bootTarget_kept (s : State) (q : ℕ) : Kept s (State.bootTarget s q) := by
  unfold State.bootTarget
  repeat' first
    | with_reducible first | apply Kept.refl | apply Kept.via (State.wr_kept ..)
    | split

end Sys2Proof.Machine
end

