-- ==== Sys2Proof/Laws/KeepsBoot.lean ====
section
/-!
SUPPORT. Laws/KeepsBoot.lean: each operation and command of Machine/Boot.lean keeps what every operation keeps (`Kept`).
-/
namespace Sys2Proof.Machine

theorem State.aonPowerOn_kept (s : State) : Kept s (State.aonPowerOn s) := by
  exact Kept.trans (State.reinit_kept s false) ⟨rfl, rfl, fun h => ⟨h, .refl _⟩, fun _ => rfl, id, id, List.suffix_refl _, Nat.le_refl _⟩

theorem State.aonSupplyLoss_kept (s : State) : Kept s (State.aonSupplyLoss s) := by
  exact Kept.trans (State.reinit_kept s false) ⟨rfl, rfl, fun h => ⟨h, .refl _⟩, fun _ => rfl, id, id, List.suffix_refl _, Nat.le_refl _⟩

theorem State.refreshTags_kept (s : State) : Kept s (State.refreshTags s) := by
  unfold State.refreshTags
  repeat' first
    | with_reducible first | apply Kept.refl | apply Kept.via (State.wr_kept ..) | apply Kept.via (Kept.foldl ?_ ..)
    | intro _

theorem State.coreRelease_kept (s : State) (bifsel : ℕ) : Kept s (State.coreRelease s bifsel) := by
  unfold State.coreRelease
  repeat' first
    | with_reducible first
      | apply Kept.refl | apply Kept.via (State.wr_kept ..) | apply Kept.via (State.showNamespaces_kept ..)
      | apply Kept.via (State.refreshTags_kept ..) | apply Kept.via (State.wrFlag_kept ..) | apply Kept.via (Kept.foldl ?_ ..)
    | simp -zeta -iota -proj -zetaUnused -zetaHave (disch := rfl) only [Kept.update_iff]
    | intro _

theorem State.writeBootRecord_kept (s : State) (f : BootRec → BootRec) : Kept s (State.writeBootRecord s f) := by
  have e : @State.writeBootRecord = @State.writeBootRecord := rfl
  conv at e => rhs; delta State.writeBootRecord
  rw [e]; clear e
  dsimp -zeta -iota -proj -eta -zetaUnused -zetaHave -failIfUnchanged only
  repeat' first
    | with_reducible first | apply Kept.refl
    | simp -zeta -iota -proj -zetaUnused -zetaHave (disch := rfl) only [Kept.update_iff]
    | intro _
    | (extract_lets -underBinder -merge +onlyGivenNames x; refine Kept.step (b := x) ?_ ?_
       all_goals first | (intro _; clear_value x) | dsimp -zeta -iota -proj -zetaUnused -zetaHave only [x])
    | extract_lets -underBinder -merge +onlyGivenNames x
    | split
    | (clear_value x; split)

theorem State.setOrder_kept (s : State) (o : ℕ × ℕ × Bool) : Kept s (State.setOrder s o) := by
  unfold State.setOrder
  repeat' first
    | with_reducible first | apply Kept.refl
    | simp -zeta -iota -proj -zetaUnused -zetaHave (disch := rfl) only [Kept.update_iff]

theorem State.chooseOrder_kept (s : State) : Kept s (State.chooseOrder s) := by
  unfold State.chooseOrder
  repeat' first
    | with_reducible first
      | apply Kept.refl | apply Kept.via (State.setOrder_kept ..) | apply Kept.via (State.writeBootRecord_kept ..)
    | split

theorem State.loadBytes_kept (s : State) (a : ℕ) (n : ℕ) (v : ℕ) : Kept s (State.loadBytes s a n v) := by
  unfold State.loadBytes
  split
  · exact ⟨rfl, rfl, fun h => ⟨h, .refl _⟩, id, Store.wf_foldl 0 _ _ _ _, id, List.suffix_refl _, Nat.le_refl _⟩
  · exact State.dramFill_kept ..

theorem State.spindleStop_kept (s : State) : Kept s (State.spindleStop s) := by
  unfold State.spindleStop
  repeat' first
    | with_reducible first | apply Kept.refl | apply Kept.via (State.wr_kept ..)
    | split

theorem State.enterRecovery_kept (s : State) : Kept s (State.enterRecovery s) := by
  unfold State.enterRecovery
  repeat' first
    | with_reducible first
      | apply Kept.refl | apply Kept.via (State.wr_kept ..) | apply Kept.via (State.spindleStop_kept ..)
    | simp -zeta -iota -proj -zetaUnused -zetaHave (disch := rfl) only [Kept.update_iff]

theorem State.acceptFirmware_kept (s : State) (i : Image) (n : ℕ) (first : Bool) (trial : Bool) :
    Kept s (State.acceptFirmware s i n first trial) := by
  unfold State.acceptFirmware
  repeat' first
    | with_reducible first
      | apply Kept.refl | apply Kept.via (State.loadBytes_kept ..) | apply Kept.via (State.wrFlag_kept ..)
      | apply Kept.via (State.wr_kept ..)
    | simp -zeta -iota -proj -zetaUnused -zetaHave (disch := rfl) only [Kept.update_iff]

theorem State.firmwareSlotCheck_kept (s : State) (norError : Bool) : Kept s (State.firmwareSlotCheck s norError) := by
  have e : @State.firmwareSlotCheck = @State.firmwareSlotCheck := rfl
  conv at e => rhs; delta State.firmwareSlotCheck
  rw [e]; clear e
  dsimp -zeta -iota -proj -eta -zetaUnused -zetaHave -failIfUnchanged only
  repeat' first
    | with_reducible first
      | apply Kept.refl | assumption | apply Kept.via (State.chooseOrder_kept ..) | apply Kept.via (State.wr_kept ..)
      | apply Kept.via (State.acceptFirmware_kept ..) | apply Kept.via (State.enterRecovery_kept ..)
    | simp -zeta -iota -proj -zetaUnused -zetaHave (disch := rfl) only [Kept.update_iff]
    | intro _
    | (extract_lets -underBinder -merge +onlyGivenNames x; refine Kept.step (b := x) ?_ ?_
       all_goals first | (intro _; clear_value x) | dsimp -zeta -iota -proj -zetaUnused -zetaHave only [x])
    | extract_lets -underBinder -merge +onlyGivenNames x
    | split
    | (clear_value x; split)
    | dsimp only

theorem State.acceptMicrocode_kept (s : State) (i : Image) (n : ℕ) : Kept s (State.acceptMicrocode s i n) := by
  unfold State.acceptMicrocode
  repeat' first
    | with_reducible first
      | apply Kept.refl | apply Kept.via (State.loadImage_kept ..) | apply Kept.via (State.wr_kept ..)
      | apply Kept.via (State.bootTarget_kept ..) | apply Kept.via (Kept.foldl ?_ ..)
    | simp -zeta -iota -proj -zetaUnused -zetaHave (disch := rfl) only [Kept.update_iff]
    | intro _

theorem State.microcodeSlotCheck_kept (s : State) (norError : Bool) : Kept s (State.microcodeSlotCheck s norError) := by
  have e : @State.microcodeSlotCheck = @State.microcodeSlotCheck := rfl
  conv at e => rhs; delta State.microcodeSlotCheck
  rw [e]; clear e
  dsimp -zeta -iota -proj -eta -zetaUnused -zetaHave -failIfUnchanged only
  repeat' first
    | with_reducible first
      | apply Kept.refl | assumption | apply Kept.via (State.wr_kept ..) | apply Kept.via (State.acceptMicrocode_kept ..)
    | simp -zeta -iota -proj -zetaUnused -zetaHave (disch := rfl) only [Kept.update_iff]
    | intro _
    | (extract_lets -underBinder -merge +onlyGivenNames x; refine Kept.step (b := x) ?_ ?_
       all_goals first | (intro _; clear_value x) | dsimp -zeta -iota -proj -zetaUnused -zetaHave only [x])
    | extract_lets -underBinder -merge +onlyGivenNames x
    | split
    | (clear_value x; split)

theorem State.firmwareEntry_kept (s : State) : Kept s (State.firmwareEntry s) := by
  have e : @State.firmwareEntry = @State.firmwareEntry := rfl
  conv at e => rhs; delta State.firmwareEntry
  rw [e]; clear e
  dsimp -zeta -iota -proj -eta -zetaUnused -zetaHave -failIfUnchanged only
  repeat' first
    | with_reducible first | apply Kept.refl | apply Kept.via (State.wr_kept ..)
    | simp -zeta -iota -proj -zetaUnused -zetaHave (disch := rfl) only [Kept.update_iff]
    | intro _
    | (extract_lets -underBinder -merge +onlyGivenNames x; refine Kept.step (b := x) ?_ ?_
       all_goals first | (intro _; clear_value x) | dsimp -zeta -iota -proj -zetaUnused -zetaHave only [x])
    | extract_lets -underBinder -merge +onlyGivenNames x
    | split
    | (clear_value x; split)

theorem State.devidReady_kept (s : State) : Kept s (State.devidReady s) := by
  unfold State.devidReady
  repeat' first
    | with_reducible first | apply Kept.refl | apply Kept.via (State.wr_kept ..) | apply Kept.via (Kept.foldl ?_ ..)
    | intro _

theorem State.spinTo_kept (s : State) (rpm : ℕ) : Kept s (State.spinTo s rpm) := by
  have e : @State.spinTo = @State.spinTo := rfl
  conv at e => rhs; delta State.spinTo
  rw [e]; clear e
  dsimp -zeta -iota -proj -eta -zetaUnused -zetaHave -failIfUnchanged only
  repeat' first
    | with_reducible first | apply Kept.refl | apply Kept.via (State.wr_kept ..) | apply Kept.via (State.count_kept ..)
    | simp -zeta -iota -proj -zetaUnused -zetaHave (disch := rfl) only [Kept.update_iff]
    | intro _
    | (extract_lets -underBinder -merge +onlyGivenNames x; refine Kept.step (b := x) ?_ ?_
       all_goals first | (intro _; clear_value x) | dsimp -zeta -iota -proj -zetaUnused -zetaHave only [x])
    | extract_lets -underBinder -merge +onlyGivenNames x
    | split
    | (clear_value x; split)

theorem State.brakeIfSlow_kept (s : State) : Kept s (State.brakeIfSlow s) := by
  unfold State.brakeIfSlow
  repeat' first
    | with_reducible first | apply Kept.refl | apply Kept.via (State.wr_kept ..)
    | simp -zeta -iota -proj -zetaUnused -zetaHave (disch := rfl) only [Kept.update_iff]
    | split

theorem State.spinStop_kept (s : State) : Kept s (State.spinStop s) := by
  have e : @State.spinStop = @State.spinStop := rfl
  conv at e => rhs; delta State.spinStop
  rw [e]; clear e
  dsimp -zeta -iota -proj -eta -zetaUnused -zetaHave -failIfUnchanged only
  repeat' first
    | with_reducible first
      | apply Kept.refl | assumption | apply Kept.via (State.setAtSpeed_kept ..) | apply Kept.via (State.wr_kept ..)
      | apply Kept.via (State.brakeIfSlow_kept ..)
    | simp -zeta -iota -proj -zetaUnused -zetaHave (disch := rfl) only [Kept.update_iff]
    | intro _
    | (extract_lets -underBinder -merge +onlyGivenNames x; refine Kept.step (b := x) ?_ ?_
       all_goals first | (intro _; clear_value x) | dsimp -zeta -iota -proj -zetaUnused -zetaHave only [x])
    | extract_lets -underBinder -merge +onlyGivenNames x
    | split
    | (clear_value x; split)

theorem State.setSpeed_kept (s : State) (v : ℕ) : Kept s (State.setSpeed s v) := by
  have e : @State.setSpeed = @State.setSpeed := rfl
  conv at e => rhs; delta State.setSpeed
  rw [e]; clear e
  dsimp -zeta -iota -proj -eta -zetaUnused -zetaHave -failIfUnchanged only
  repeat' first
    | with_reducible first
      | apply Kept.refl | apply Kept.via (State.spinStop_kept ..) | apply Kept.via (State.spinTo_kept ..)
      | apply Kept.via (State.setAtSpeed_kept ..)
    | simp -zeta -iota -proj -zetaUnused -zetaHave (disch := rfl) only [Kept.update_iff]
    | intro _
    | (extract_lets -underBinder -merge +onlyGivenNames x; refine Kept.step (b := x) ?_ ?_
       all_goals first | (intro _; clear_value x) | dsimp -zeta -iota -proj -zetaUnused -zetaHave only [x])
    | extract_lets -underBinder -merge +onlyGivenNames x
    | split
    | (clear_value x; split)

theorem State.putArea_kept (s : State) (a : ℕ) (i : Option KeepImage) : Kept s (State.putArea s a i) := by
  unfold State.putArea
  repeat' first
    | with_reducible first | apply Kept.refl
    | simp -zeta -iota -proj -zetaUnused -zetaHave (disch := rfl) only [Kept.update_iff]
    | split

theorem State.replayGo_kept (s : State) (a : ℕ) : Kept s (State.replayGo s a) := by
  have e : @State.replayGo = @State.replayGo := rfl
  conv at e => rhs; delta State.replayGo
  rw [e]; clear e
  dsimp -zeta -iota -proj -eta -zetaUnused -zetaHave -failIfUnchanged only
  repeat' first
    | with_reducible first | apply Kept.refl | assumption | apply Kept.via (State.wr_kept ..)
    | simp -zeta -iota -proj -zetaUnused -zetaHave (disch := rfl) only [Kept.update_iff]
    | intro _
    | (extract_lets -underBinder -merge +onlyGivenNames x; refine Kept.step (b := x) ?_ ?_
       all_goals first | (intro _; clear_value x) | dsimp -zeta -iota -proj -zetaUnused -zetaHave only [x])
    | extract_lets -underBinder -merge +onlyGivenNames x
    | split
    | (clear_value x; split)

theorem State.replayEnd_kept (s : State) (crcError : Bool) : Kept s (State.replayEnd s crcError) := by
  have e : @State.replayEnd = @State.replayEnd := rfl
  conv at e => rhs; delta State.replayEnd
  rw [e]; clear e
  dsimp -zeta -iota -proj -eta -zetaUnused -zetaHave -failIfUnchanged only
  repeat' first
    | with_reducible first
      | apply Kept.refl | assumption | apply Kept.via (State.wr_kept ..) | apply Kept.via (State.detect_kept ..)
      | apply Kept.via (State.putArea_kept ..)
    | simp -zeta -iota -proj -zetaUnused -zetaHave (disch := rfl) only [Kept.update_iff]
    | intro _
    | (extract_lets -underBinder -merge +onlyGivenNames x; refine Kept.step (b := x) ?_ ?_
       all_goals first | (intro _; clear_value x) | dsimp -zeta -iota -proj -zetaUnused -zetaHave only [x])
    | extract_lets -underBinder -merge +onlyGivenNames x
    | split
    | (clear_value x; split)

theorem State.consumeGo_kept (s : State) (a : ℕ) : Kept s (State.consumeGo s a) := by
  have e : @State.consumeGo = @State.consumeGo := rfl
  conv at e => rhs; delta State.consumeGo
  rw [e]; clear e
  dsimp -zeta -iota -proj -eta -zetaUnused -zetaHave -failIfUnchanged only
  repeat' first
    | with_reducible first | apply Kept.refl | assumption | apply Kept.via (State.wr_kept ..)
    | simp -zeta -iota -proj -zetaUnused -zetaHave (disch := rfl) only [Kept.update_iff]
    | intro _
    | (extract_lets -underBinder -merge +onlyGivenNames x; refine Kept.step (b := x) ?_ ?_
       all_goals first | (intro _; clear_value x) | dsimp -zeta -iota -proj -zetaUnused -zetaHave only [x])
    | extract_lets -underBinder -merge +onlyGivenNames x
    | split
    | (clear_value x; split)

theorem State.consumeDone_kept (s : State) : Kept s (State.consumeDone s) := by
  unfold State.consumeDone
  repeat' first
    | with_reducible first | apply Kept.refl | apply Kept.via (State.putArea_kept ..)
    | simp -zeta -iota -proj -zetaUnused -zetaHave (disch := rfl) only [Kept.update_iff]
    | split

theorem State.burnDone_kept (s : State) : Kept s (State.burnDone s) := by
  refine ⟨rfl, ?_, fun h => ⟨trivial, ?_⟩, id, id, id, List.suffix_refl _, Nat.le_refl _⟩
  · unfold State.burnDone
    dsimp only
    split <;> rfl
  · unfold State.burnDone
    unfold BurnOk at h
    dsimp only
    split
    · exact .refl _
    · refine ⟨fun k hk => ?_, Nat.le_refl _, Nat.le_refl _⟩
      simp only [Nat.testBit_or, hk, Bool.true_or]
    · rename_i e
      rw [e] at h
      exact ⟨fun _ hk => hk, h, Nat.le_refl _⟩
    · rename_i e
      rw [e] at h
      exact ⟨fun _ hk => hk, Nat.le_refl _, h⟩
    · exact ⟨fun _ hk => hk, Nat.le_refl _, Nat.le_refl _⟩

theorem execAonPowerOn_kept (s : State) : KeptBy s (execAonPowerOn s) := by
  unfold execAonPowerOn
  refine KeptBy.next ?_
  repeat' with_reducible first | apply Kept.refl | apply Kept.via (State.aonPowerOn_kept ..)

theorem execAonSupplyLoss_kept (s : State) : KeptBy s (execAonSupplyLoss s) := by
  unfold execAonSupplyLoss
  refine KeptBy.next ?_
  repeat' first
    | with_reducible first | apply Kept.refl | apply Kept.via (State.aonSupplyLoss_kept ..)
    | split

theorem execCoreResetRelease_kept (bifsel : BitVec 2) (s : State) : KeptBy s (execCoreResetRelease bifsel s) := by
  unfold execCoreResetRelease
  refine KeptBy.next ?_
  repeat' first
    | with_reducible first | apply Kept.refl | apply Kept.via (State.coreRelease_kept ..)
    | split

theorem execDramReady_kept (s : State) : KeptBy s (execDramReady s) := by
  unfold execDramReady
  refine KeptBy.next ?_
  repeat' first
    | with_reducible first
      | apply Kept.refl | apply Kept.via (State.countSpares_kept ..) | apply Kept.via (State.wr_kept ..)
    | simp -zeta -iota -proj -zetaUnused -zetaHave (disch := rfl) only [Kept.update_iff]
    | split

theorem execFirmwareSlotCheck_kept (norError : Bool) (s : State) : KeptBy s (execFirmwareSlotCheck norError s) := by
  unfold execFirmwareSlotCheck
  refine KeptBy.next ?_
  repeat' with_reducible first | apply Kept.refl | apply Kept.via (State.firmwareSlotCheck_kept ..)

theorem execMicrocodeSlotCheck_kept (norError : Bool) (s : State) : KeptBy s (execMicrocodeSlotCheck norError s) := by
  unfold execMicrocodeSlotCheck
  refine KeptBy.next ?_
  repeat' with_reducible first | apply Kept.refl | apply Kept.via (State.microcodeSlotCheck_kept ..)

theorem execFirmwareEntry_kept (s : State) : KeptBy s (execFirmwareEntry s) := by
  unfold execFirmwareEntry
  refine KeptBy.next ?_
  repeat' with_reducible first | apply Kept.refl | apply Kept.via (State.firmwareEntry_kept ..)

theorem execSpinUp_kept (s : State) : KeptBy s (execSpinUp s) := by
  unfold execSpinUp
  refine KeptBy.next ?_
  repeat' first
    | with_reducible first | apply Kept.refl | apply Kept.via (State.spinTo_kept ..)
    | split

theorem execSpindleAtSpeed_kept (rpm : BitVec 14) (within : Bool) (s : State) : KeptBy s (execSpindleAtSpeed rpm within s) := by
  unfold execSpindleAtSpeed
  refine KeptBy.next ?_
  repeat' first
    | with_reducible first
      | apply Kept.refl | apply Kept.via (State.setAtSpeed_kept ..) | apply Kept.via (State.wr_kept ..)
    | split

theorem execSpindleStall_kept (s : State) : KeptBy s (execSpindleStall s) := by
  unfold execSpindleStall
  refine KeptBy.next ?_
  repeat' first
    | with_reducible first
      | apply Kept.refl | apply Kept.via (State.detect_kept ..) | apply Kept.via (State.raise_kept ..)
      | apply Kept.via (State.wr_kept ..) | apply Kept.via (State.setAtSpeed_kept ..)
    | split

theorem execReplayGo_kept (area : Fin 2) (s : State) : KeptBy s (execReplayGo area s) := by
  unfold execReplayGo
  refine KeptBy.next ?_
  repeat' first
    | with_reducible first
      | apply Kept.refl | apply Kept.via (State.access_kept (h_k := ?_) ..) | apply Kept.via (State.replayGo_kept ..)
    | simp -zeta -iota -proj -zetaUnused -zetaHave (disch := rfl) only [Kept.update_iff]
    | intro _

theorem execReplayComplete_kept (crcError : Bool) (s : State) : KeptBy s (execReplayComplete crcError s) := by
  unfold execReplayComplete
  refine KeptBy.next ?_
  repeat' with_reducible first | apply Kept.refl | apply Kept.via (State.replayEnd_kept ..)

theorem execConsume_kept (area : Fin 2) (s : State) : KeptBy s (execConsume area s) := by
  unfold execConsume
  refine KeptBy.next ?_
  repeat' first
    | with_reducible first
      | apply Kept.refl | apply Kept.via (State.access_kept (h_k := ?_) ..) | apply Kept.via (State.consumeGo_kept ..)
    | simp -zeta -iota -proj -zetaUnused -zetaHave (disch := rfl) only [Kept.update_iff]
    | intro _

theorem execConsumeMarkerWritten_kept (s : State) : KeptBy s (execConsumeMarkerWritten s) := by
  unfold execConsumeMarkerWritten
  refine KeptBy.next ?_
  repeat' with_reducible first | apply Kept.refl | apply Kept.via (State.consumeDone_kept ..)

theorem execDeviceReset_kept (request : ResetRequest) (s : State) : KeptBy s (execDeviceReset request s) := by
  unfold execDeviceReset
  refine KeptBy.next ?_
  repeat' with_reducible first | apply Kept.refl | apply Kept.via (State.deviceReset_kept ..)

theorem execActuatorReset_kept (mask : BitVec 4) (s : State) : KeptBy s (execActuatorReset mask s) := by
  unfold execActuatorReset
  refine KeptBy.next ?_
  repeat' first
    | with_reducible first
      | apply Kept.refl | apply Kept.via (State.actuatorReset_kept ..) | apply Kept.via (Kept.foldl ?_ ..)
    | simp -zeta -iota -proj -zetaUnused -zetaHave (disch := rfl) only [Kept.update_iff]
    | intro _
    | split

theorem execFuseBurnComplete_kept (s : State) : KeptBy s (execFuseBurnComplete s) := by
  unfold execFuseBurnComplete
  refine KeptBy.next ?_
  repeat' with_reducible first | apply Kept.refl | apply Kept.via (State.burnDone_kept ..)

end Sys2Proof.Machine
end

