-- ==== Sys2Proof/Laws/KeepsClocks.lean ====
section
/-!
SUPPORT. Laws/KeepsClocks.lean: each operation and command of Machine/Clocks.lean keeps what every operation keeps (`Kept`).
-/
namespace Sys2Proof.Machine

theorem State.retarget_kept (s : State) : Kept s (State.retarget s) := by
  have e : @State.retarget = @State.retarget := rfl
  conv at e => rhs; delta State.retarget
  rw [e]; clear e
  dsimp -zeta -iota -proj -eta -zetaUnused -zetaHave -failIfUnchanged only
  repeat' first
    | with_reducible first
      | apply Kept.refl | assumption | apply Kept.via (State.wr_kept ..) | apply Kept.via (State.wrFlag_kept ..)
    | simp -zeta -iota -proj -zetaUnused -zetaHave (disch := rfl) only [Kept.update_iff]
    | intro _
    | (extract_lets -underBinder -merge +onlyGivenNames x; refine Kept.step (b := x) ?_ ?_
       all_goals first | (intro _; clear_value x) | dsimp -zeta -iota -proj -zetaUnused -zetaHave only [x])
    | extract_lets -underBinder -merge +onlyGivenNames x
    | split
    | (clear_value x; split)
    | dsimp only

theorem State.ioActivity_kept (s : State) : Kept s (State.ioActivity s) := by
  unfold State.ioActivity
  repeat' first
    | with_reducible first | apply Kept.refl | apply Kept.via (State.retarget_kept ..)
    | simp -zeta -iota -proj -zetaUnused -zetaHave (disch := rfl) only [Kept.update_iff]

theorem State.requestState_kept (s : State) (p : ℕ) (st : ℕ) : Kept s (State.requestState s p st) := by
  unfold State.requestState
  repeat' first
    | with_reducible first | apply Kept.refl | apply Kept.via (State.retarget_kept ..)
    | simp -zeta -iota -proj -zetaUnused -zetaHave (disch := rfl) only [Kept.update_iff]

theorem State.zeroCodes_kept (s : State) : Kept s (State.zeroCodes s) := by
  unfold State.zeroCodes
  repeat' first
    | with_reducible first
      | apply Kept.refl | apply Kept.via (State.modAsd_kept ..) | apply Kept.via (State.sendCode_kept ..)
      | apply Kept.via (Kept.foldl ?_ ..)
    | simp -zeta -iota -proj -zetaUnused -zetaHave (disch := rfl) only [Kept.update_iff]
    | intro _
    | split

theorem State.enterState_kept (s : State) (t : ℕ) : Kept s (State.enterState s t) := by
  have e : @State.enterState = @State.enterState := rfl
  conv at e => rhs; delta State.enterState
  rw [e]; clear e
  dsimp -zeta -iota -proj -eta -zetaUnused -zetaHave -failIfUnchanged only
  repeat' first
    | with_reducible first
      | apply Kept.refl | assumption | apply Kept.via (State.wr_kept ..) | apply Kept.via (State.wrFlag_kept ..)
      | apply Kept.via (State.startLanes_kept ..) | apply Kept.via (State.zeroCodes_kept ..)
      | apply Kept.via (State.setAtSpeed_kept ..)
    | simp -zeta -iota -proj -zetaUnused -zetaHave (disch := rfl) only [Kept.update_iff]
    | intro _
    | (extract_lets -underBinder -merge +onlyGivenNames x; refine Kept.step (b := x) ?_ ?_
       all_goals first | (intro _; clear_value x) | dsimp -zeta -iota -proj -zetaUnused -zetaHave only [x])
    | extract_lets -underBinder -merge +onlyGivenNames x
    | split
    | (clear_value x; split)
    | dsimp only

theorem execXt32Stable_kept (s : State) : KeptBy s (execXt32Stable s) := by
  unfold execXt32Stable
  refine KeptBy.next ?_
  repeat' first
    | with_reducible first | apply Kept.refl | apply Kept.via (State.wr_kept ..)
    | split

theorem execXt25Stable_kept (s : State) : KeptBy s (execXt25Stable s) := by
  unfold execXt25Stable
  refine KeptBy.next ?_
  repeat' first
    | with_reducible first | apply Kept.refl | apply Kept.via (State.wr_kept ..)
    | split

theorem execPllLock_kept (pll : Pll) (s : State) : KeptBy s (execPllLock pll s) := by
  unfold execPllLock
  refine KeptBy.next ?_
  repeat' first
    | with_reducible first | apply Kept.refl | apply Kept.via (State.wr_kept ..)
    | simp -zeta -iota -proj -zetaUnused -zetaHave (disch := rfl) only [Kept.update_iff]
    | split

theorem execPllUnlock_kept (pll : Pll) (s : State) : KeptBy s (execPllUnlock pll s) := by
  unfold execPllUnlock
  refine KeptBy.next ?_
  repeat' first
    | with_reducible first
      | apply Kept.refl | apply Kept.via (State.detect_kept ..) | apply Kept.via (State.count_kept ..)
      | apply Kept.via (State.wr_kept ..)
    | split

theorem execCalTempComp_kept (tempC : BitVec 8) (s : State) : KeptBy s (execCalTempComp tempC s) := by
  unfold execCalTempComp
  refine KeptBy.next ?_
  repeat' first
    | with_reducible first | apply Kept.refl | apply Kept.via (State.wr_kept ..)
    | simp -zeta -iota -proj -zetaUnused -zetaHave (disch := rfl) only [Kept.update_iff]

theorem execBandgapRetrim_kept (site : Fin 12) (s : State) : KeptBy s (execBandgapRetrim site s) := by
  unfold execBandgapRetrim
  refine KeptBy.next ?_
  repeat' first
    | with_reducible first | apply Kept.refl
    | simp -zeta -iota -proj -zetaUnused -zetaHave (disch := rfl) only [Kept.update_iff]

theorem execIdleTimerExpiry_kept (depth : Fin 4) (arrival : Bool) (s : State) :
    KeptBy s (execIdleTimerExpiry depth arrival s) := by
  unfold execIdleTimerExpiry
  refine KeptBy.next ?_
  repeat' first
    | with_reducible first
      | apply Kept.refl | apply Kept.via (State.ioActivity_kept ..) | apply Kept.via (State.retarget_kept ..)
    | simp -zeta -iota -proj -zetaUnused -zetaHave (disch := rfl) only [Kept.update_iff]
    | split

theorem execStateTransitionComplete_kept (s : State) : KeptBy s (execStateTransitionComplete s) := by
  have e : @execStateTransitionComplete = @execStateTransitionComplete := rfl
  conv at e => rhs; delta execStateTransitionComplete
  rw [e]; clear e
  dsimp -zeta -iota -proj -eta -zetaUnused -zetaHave -failIfUnchanged only
  refine KeptBy.next ?_
  repeat' first
    | with_reducible first
      | apply Kept.refl | apply Kept.via (State.enterState_kept ..) | apply Kept.via (State.abandonWarm_kept ..)
    | simp -zeta -iota -proj -zetaUnused -zetaHave (disch := rfl) only [Kept.update_iff]
    | intro _
    | (extract_lets -underBinder -merge +onlyGivenNames x; refine Kept.step (b := x) ?_ ?_
       all_goals first | (intro _; clear_value x) | dsimp -zeta -iota -proj -zetaUnused -zetaHave only [x])
    | extract_lets -underBinder -merge +onlyGivenNames x
    | split
    | (clear_value x; split)

theorem execSleepEntry_kept (s : State) : KeptBy s (execSleepEntry s) := by
  unfold execSleepEntry
  refine KeptBy.next ?_
  repeat' first
    | with_reducible first | apply Kept.refl | apply Kept.via (State.wr_kept ..)
    | simp -zeta -iota -proj -zetaUnused -zetaHave (disch := rfl) only [Kept.update_iff]
    | split

theorem execWakeFromSleep_kept (cause : WakeCause) (s : State) : KeptBy s (execWakeFromSleep cause s) := by
  have e : @execWakeFromSleep = @execWakeFromSleep := rfl
  conv at e => rhs; delta execWakeFromSleep
  rw [e]; clear e
  dsimp -zeta -iota -proj -eta -zetaUnused -zetaHave -failIfUnchanged only
  repeat' first
    | with_reducible first | refine KeptBy.next ?_ | apply Kept.refl | assumption | apply Kept.via (State.wr_kept ..)
    | simp -zeta -iota -proj -zetaUnused -zetaHave (disch := rfl) only [Kept.update_iff]
    | intro _
    | (extract_lets -underBinder -merge +onlyGivenNames x; refine Kept.step (b := x) ?_ ?_
       all_goals first | (intro _; clear_value x) | dsimp -zeta -iota -proj -zetaUnused -zetaHave only [x])
    | extract_lets -underBinder -merge +onlyGivenNames x
    | split
    | (clear_value x; split)
    | dsimp only

end Sys2Proof.Machine
end

