-- ==== Sys2Proof/Laws/KeepsHosts.lean ====
section
/-!
SUPPORT. Laws/KeepsHosts.lean: each operation and command of Machine/Hosts.lean keeps what every operation keeps (`Kept`).
-/
namespace Sys2Proof.Machine

theorem State.modCmd_kept (s : State) (t : ℕ) (f : Cmd → Cmd) : Kept s (State.modCmd s t f) := by
  unfold State.modCmd
  repeat' first
    | with_reducible first | apply Kept.refl
    | simp -zeta -iota -proj -zetaUnused -zetaHave (disch := rfl) only [Kept.update_iff]

theorem State.finish_kept (s : State) (t : ℕ) (d : Done) : Kept s (State.finish s t d) := by
  unfold State.finish
  repeat' with_reducible first | apply Kept.refl | apply Kept.via (State.modCmd_kept ..)

theorem State.modCtrl_kept (s : State) (k : ℕ) (f : Ctrl → Ctrl) : Kept s (State.modCtrl s k f) := by
  unfold State.modCtrl
  repeat' first
    | with_reducible first | apply Kept.refl
    | simp -zeta -iota -proj -zetaUnused -zetaHave (disch := rfl) only [Kept.update_iff]

theorem State.modZone_kept (s : State) (key : ℕ) (f : Zone → Zone) : Kept s (State.modZone s key f) := by
  have e : @State.modZone = @State.modZone := rfl
  conv at e => rhs; delta State.modZone
  rw [e]; clear e
  dsimp -zeta -iota -proj -eta -zetaUnused -zetaHave -failIfUnchanged only
  repeat' first
    | with_reducible first | apply Kept.refl
    | simp -zeta -iota -proj -zetaUnused -zetaHave (disch := rfl) only [Kept.update_iff]
    | intro _
    | (extract_lets -underBinder -merge +onlyGivenNames x; refine Kept.step (b := x) ?_ ?_
       all_goals first | (intro _; clear_value x) | dsimp -zeta -iota -proj -zetaUnused -zetaHave only [x])
    | extract_lets -underBinder -merge +onlyGivenNames x
    | split
    | (clear_value x; split)

theorem State.refreshZones_kept (s : State) : Kept s (State.refreshZones s) := by
  unfold State.refreshZones
  repeat' with_reducible first | apply Kept.refl | apply Kept.via (State.wr_kept ..)

theorem State.takeContext_kept (s : State) (key : ℕ) : Kept s (State.takeContext s key) := by
  unfold State.takeContext
  repeat' first
    | with_reducible first | apply Kept.refl | apply Kept.via (State.modZone_kept ..)
    | simp -zeta -iota -proj -zetaUnused -zetaHave (disch := rfl) only [Kept.update_iff]
    | split

theorem State.grantContexts_kept (s : State) : Kept s (State.grantContexts s) := by
  have e : @State.grantContexts = @State.grantContexts := rfl
  conv at e => rhs; delta State.grantContexts
  rw [e]; clear e
  dsimp -zeta -iota -proj -eta -zetaUnused -zetaHave -failIfUnchanged only
  repeat' first
    | with_reducible first
      | apply Kept.refl | assumption | apply Kept.via (State.takeContext_kept ..) | apply Kept.via (Kept.foldl ?_ ..)
      | apply Kept.via (Kept.foldl_fst ?_ ..)
    | simp -zeta -iota -proj -zetaUnused -zetaHave (disch := rfl) only [Kept.update_iff]
    | intro _
    | (extract_lets -underBinder -merge +onlyGivenNames x; refine Kept.step (b := x) ?_ ?_
       all_goals first | (intro _; clear_value x) | dsimp -zeta -iota -proj -zetaUnused -zetaHave only [x])
    | extract_lets -underBinder -merge +onlyGivenNames x
    | split
    | (clear_value x; split)
    | dsimp only

theorem State.releaseContext_kept (s : State) (key : ℕ) : Kept s (State.releaseContext s key) := by
  have e : @State.releaseContext = @State.releaseContext := rfl
  conv at e => rhs; delta State.releaseContext
  rw [e]; clear e
  dsimp -zeta -iota -proj -eta -zetaUnused -zetaHave -failIfUnchanged only
  repeat' first
    | with_reducible first
      | apply Kept.refl | assumption | apply Kept.via (State.grantContexts_kept ..) | apply Kept.via (State.modZone_kept ..)
    | simp -zeta -iota -proj -zetaUnused -zetaHave (disch := rfl) only [Kept.update_iff]
    | intro _
    | (extract_lets -underBinder -merge +onlyGivenNames x; refine Kept.step (b := x) ?_ ?_
       all_goals first | (intro _; clear_value x) | dsimp -zeta -iota -proj -zetaUnused -zetaHave only [x])
    | extract_lets -underBinder -merge +onlyGivenNames x
    | split
    | (clear_value x; split)
    | dsimp only

theorem State.openZoneAs_kept (s : State) (key : ℕ) (c : ZoneCond) : Kept s (State.openZoneAs s key c) := by
  unfold State.openZoneAs
  repeat' with_reducible first
    | apply Kept.refl | apply Kept.via (State.refreshZones_kept ..) | apply Kept.via (State.takeContext_kept ..)
    | apply Kept.via (State.modZone_kept ..)

theorem State.journal_kept (s : State) : Kept s (State.journal s) := by
  unfold State.journal
  repeat' first
    | with_reducible first | apply Kept.refl | apply Kept.via (State.wr_kept ..)
    | simp -zeta -iota -proj -zetaUnused -zetaHave (disch := rfl) only [Kept.update_iff]

theorem State.journalStall_kept (s : State) : Kept s (State.journalStall s) := by
  unfold State.journalStall
  repeat' with_reducible first | apply Kept.refl | apply Kept.via (State.wr_kept ..)

theorem State.refreshHzt_kept (s : State) : Kept s (State.refreshHzt s) := by
  unfold State.refreshHzt
  repeat' with_reducible first | apply Kept.refl | apply Kept.via (State.wr_kept ..) | apply Kept.via (State.raiseTo_kept ..)

theorem State.trimEntries_kept (s : State) : Kept s (State.trimEntries s) := by
  have e : @State.trimEntries = @State.trimEntries := rfl
  conv at e => rhs; delta State.trimEntries
  rw [e]; clear e
  dsimp -zeta -iota -proj -eta -zetaUnused -zetaHave -failIfUnchanged only
  repeat' first
    | with_reducible first | apply Kept.refl
    | simp -zeta -iota -proj -zetaUnused -zetaHave (disch := rfl) only [Kept.update_iff]
    | intro _
    | (extract_lets -underBinder -merge +onlyGivenNames x; refine Kept.step (b := x) ?_ ?_
       all_goals first | (intro _; clear_value x) | dsimp -zeta -iota -proj -zetaUnused -zetaHave only [x])
    | extract_lets -underBinder -merge +onlyGivenNames x
    | split
    | (clear_value x; split)

theorem State.settle_kept (s : State) : Kept s (State.settle s) := by
  unfold State.settle
  repeat' first
    | with_reducible first
      | apply Kept.refl | apply Kept.via (State.trimEntries_kept ..) | apply Kept.via (State.refreshHzt_kept ..)
      | apply Kept.via (Kept.foldl ?_ ..)
    | simp -zeta -iota -proj -zetaUnused -zetaHave (disch := rfl) only [Kept.update_iff]
    | intro _
    | split

theorem State.disown_kept (s : State) (t : ℕ) : Kept s (State.disown s t) := by
  unfold State.disown
  repeat' first
    | with_reducible first
      | apply Kept.refl | apply Kept.via (State.refreshHzt_kept ..) | apply Kept.via (State.trimEntries_kept ..)
    | simp -zeta -iota -proj -zetaUnused -zetaHave (disch := rfl) only [Kept.update_iff]

theorem State.refreshBuffer_kept (s : State) : Kept s (State.refreshBuffer s) := by
  unfold State.refreshBuffer
  repeat' with_reducible first | apply Kept.refl | apply Kept.via (State.wr_kept ..)

theorem State.placeBlock_kept (s : State) (ns : ℕ) (b : ℕ) (data : ℕ) (a : ℕ) : Kept s (State.placeBlock s ns b data a) := by
  have e : @State.placeBlock = @State.placeBlock := rfl
  conv at e => rhs; delta State.placeBlock
  rw [e]; clear e
  dsimp -zeta -iota -proj -eta -zetaUnused -zetaHave -failIfUnchanged only
  repeat' first
    | with_reducible first | apply Kept.refl
    | simp -zeta -iota -proj -zetaUnused -zetaHave (disch := rfl) only [Kept.update_iff]
    | intro _
    | (extract_lets -underBinder -merge +onlyGivenNames x; refine Kept.step (b := x) ?_ ?_
       all_goals first | (intro _; clear_value x) | dsimp -zeta -iota -proj -zetaUnused -zetaHave only [x])
    | extract_lets -underBinder -merge +onlyGivenNames x
    | split
    | (clear_value x; split)

theorem State.advanceWp_kept (s : State) (ns : ℕ) (key : ℕ) (start : ℕ) (cap : ℕ) (fuel : ℕ) :
    Kept s (State.advanceWp s ns key start cap fuel) := by
  induction fuel generalizing s with
  | zero => exact Kept.refl s
  | succ fuel ih =>
    rw [State.advanceWp]
    split
    · exact Kept.trans (State.modZone_kept ..) (ih _)
    · exact Kept.refl s

theorem State.fillCheck_kept (s : State) (key : ℕ) (cap : ℕ) : Kept s (State.fillCheck s key cap) := by
  unfold State.fillCheck
  repeat' first
    | with_reducible first
      | apply Kept.refl | apply Kept.via (State.refreshZones_kept ..) | apply Kept.via (State.modZone_kept ..)
    | split

theorem State.followZone_kept (s : State) (ns : ℕ) (b : ℕ) : Kept s (State.followZone s ns b) := by
  unfold State.followZone
  repeat' first
    | with_reducible first
      | apply Kept.refl | apply Kept.via (State.fillCheck_kept ..) | apply Kept.via (State.advanceWp_kept ..)
    | split

theorem State.acceptZoneWrite_kept (s : State) (ns : ℕ) (b : ℕ) (len : ℕ) (append : Bool) :
    Kept s (State.acceptZoneWrite s ns b len append).1 := by
  have e : @State.acceptZoneWrite = @State.acceptZoneWrite := rfl
  conv at e => rhs; delta State.acceptZoneWrite
  rw [e]; clear e
  dsimp -zeta -iota -proj -eta -zetaUnused -zetaHave -failIfUnchanged only
  repeat' first
    | with_reducible first
      | apply Kept.refl | assumption | apply Kept.via (State.modZone_kept ..) | apply Kept.via (State.openZoneAs_kept ..)
    | simp -zeta -iota -proj -zetaUnused -zetaHave (disch := rfl) only [Kept.update_iff]
    | intro _
    | (extract_lets -underBinder -merge +onlyGivenNames x; refine Kept.step (b := x) ?_ ?_
       all_goals first | (intro _; clear_value x) | dsimp -zeta -iota -proj -zetaUnused -zetaHave only [x])
    | extract_lets -underBinder -merge +onlyGivenNames x
    | split
    | (clear_value x; split)

theorem State.shortWrite_kept (s : State) (c : Cmd) : Kept s (State.shortWrite s c) := by
  have e : @State.shortWrite = @State.shortWrite := rfl
  conv at e => rhs; delta State.shortWrite
  rw [e]; clear e
  dsimp -zeta -iota -proj -eta -zetaUnused -zetaHave -failIfUnchanged only
  repeat' first
    | with_reducible first
      | apply Kept.refl | assumption | apply Kept.via (State.modZone_kept ..) | apply Kept.via (State.finish_kept ..)
      | apply Kept.via (State.modCmd_kept ..) | apply Kept.via (Kept.foldl ?_ ..)
    | simp -zeta -iota -proj -zetaUnused -zetaHave (disch := rfl) only [Kept.update_iff]
    | intro _
    | (extract_lets -underBinder -merge +onlyGivenNames x; refine Kept.step (b := x) ?_ ?_
       all_goals first | (intro _; clear_value x) | dsimp -zeta -iota -proj -zetaUnused -zetaHave only [x])
    | extract_lets -underBinder -merge +onlyGivenNames x
    | split
    | (clear_value x; split)

theorem State.takeBlock_kept (s : State) (t : ℕ) (i : ℕ) : Kept s (State.takeBlock s t i) := by
  unfold State.takeBlock
  repeat' first
    | with_reducible first | apply Kept.refl | apply Kept.via (State.modCmd_kept ..)
    | split

theorem State.queueOp_kept (s : State) (o : MediaOp) : Kept s (State.queueOp s o) := by
  unfold State.queueOp
  repeat' first
    | with_reducible first | apply Kept.refl | apply Kept.via (State.wr_kept ..)
    | simp -zeta -iota -proj -zetaUnused -zetaHave (disch := rfl) only [Kept.update_iff]

theorem State.queueRun_kept (s : State) (kind : OpKind) (write : Bool) (partialTrack : Bool) (r : List (ℕ × Serve)) :
    Kept s (State.queueRun s kind write partialTrack r) := by
  unfold State.queueRun
  repeat' first
    | with_reducible first | apply Kept.refl | apply Kept.via (State.queueOp_kept ..)
    | split

theorem State.queueAll_kept (s : State) (kind : OpKind) (write : Bool) (partialTrack : Bool) (l : List (ℕ × Serve)) :
    Kept s (State.queueAll s kind write partialTrack l) := by
  unfold State.queueAll
  repeat' first
    | with_reducible first | apply Kept.refl | apply Kept.via (State.queueRun_kept ..) | apply Kept.via (Kept.foldl ?_ ..)
    | intro _

theorem State.openUnit_kept (s : State) (ns : ℕ) (b : ℕ) (forMtu : Bool) : Kept s (State.openUnit s ns b forMtu) := by
  unfold State.openUnit
  repeat' first
    | with_reducible first | apply Kept.refl
    | simp -zeta -iota -proj -zetaUnused -zetaHave (disch := rfl) only [Kept.update_iff]

theorem State.planReads_kept (s : State) (kind : OpKind) (tag : Option ℕ) (blocks : List (ℕ × ℕ)) :
    Kept s (State.planReads s kind tag blocks) := by
  have e : @State.planReads = @State.planReads := rfl
  conv at e => rhs; delta State.planReads
  rw [e]; clear e
  dsimp -zeta -iota -proj -eta -zetaUnused -zetaHave -failIfUnchanged only
  repeat' first
    | with_reducible first
      | apply Kept.refl | assumption | apply Kept.via (State.openUnit_kept ..) | apply Kept.via (State.queueAll_kept ..)
      | apply Kept.via (Kept.foldl ?_ ..) | apply Kept.via (Kept.foldl_fst ?_ ..)
    | simp -zeta -iota -proj -zetaUnused -zetaHave (disch := rfl) only [Kept.update_iff]
    | intro _
    | (extract_lets -underBinder -merge +onlyGivenNames x; refine Kept.step (b := x) ?_ ?_
       all_goals first | (intro _; clear_value x) | dsimp -zeta -iota -proj -zetaUnused -zetaHave only [x])
    | extract_lets -underBinder -merge +onlyGivenNames x
    | split
    | (clear_value x; split)
    | dsimp only

theorem State.queueReads_kept (s : State) (t : ℕ) : Kept s (State.queueReads s t) := by
  unfold State.queueReads
  repeat' first
    | with_reducible first
      | apply Kept.refl | apply Kept.via (State.modCmd_kept ..) | apply Kept.via (State.planReads_kept ..)
    | split

theorem State.deliver_kept (s : State) (t : ℕ) (ns : ℕ) (b : ℕ) (g : Got) : Kept s (State.deliver s t ns b g) := by
  unfold State.deliver
  repeat' with_reducible first | apply Kept.refl | apply Kept.via (State.modCmd_kept ..)

theorem State.releaseRead_kept (s : State) (c : Cmd) : Kept s (State.releaseRead s c) := by
  unfold State.releaseRead
  repeat' first
    | with_reducible first | apply Kept.refl | apply Kept.via (State.disown_kept ..)
    | split

theorem State.freeDetector_kept (s : State) (t : ℕ) : Kept s (State.freeDetector s t) := by
  unfold State.freeDetector
  repeat' first
    | with_reducible first | apply Kept.refl | apply Kept.via (State.wr_kept ..)
    | simp -zeta -iota -proj -zetaUnused -zetaHave (disch := rfl) only [Kept.update_iff]

theorem State.dropCmd_kept (s : State) (t : ℕ) : Kept s (State.dropCmd s t) := by
  unfold State.dropCmd
  repeat' first
    | with_reducible first
      | apply Kept.refl | apply Kept.via (State.freeDetector_kept ..) | apply Kept.via (State.refreshBuffer_kept ..)
      | apply Kept.via (State.refreshTags_kept ..) | apply Kept.via (State.disown_kept ..)
    | simp -zeta -iota -proj -zetaUnused -zetaHave (disch := rfl) only [Kept.update_iff]

theorem State.stopCmd_kept (s : State) (c : Cmd) (d : Done) : Kept s (State.stopCmd s c d) := by
  unfold State.stopCmd
  repeat' first
    | with_reducible first
      | apply Kept.refl | apply Kept.via (State.modCmd_kept ..) | apply Kept.via (State.shortWrite_kept ..)
      | apply Kept.via (State.followZone_kept ..)
    | split

end Sys2Proof.Machine
end

