-- ==== Sys2Proof/Laws/KeepsQueues.lean ====
section
/-!
SUPPORT. Laws/KeepsQueues.lean: each operation and command of Machine/Queues.lean keeps what every operation keeps (`Kept`).
-/
namespace Sys2Proof.Machine

theorem State.unown_kept (s : State) : Kept s (State.unown s) := by
  unfold State.unown
  repeat' first
    | with_reducible first | apply Kept.refl | apply Kept.via (State.wr_kept ..) | apply Kept.via (State.raise_kept ..)
    | split

theorem State.discardStage_kept (s : State) (pos : ℕ) : Kept s (State.discardStage s pos) := by
  unfold State.discardStage
  repeat' first
    | with_reducible first | apply Kept.refl
    | simp -zeta -iota -proj -zetaUnused -zetaHave (disch := rfl) only [Kept.update_iff]

theorem State.transportLost_kept (s : State) (pos : List ℕ) : Kept s (State.transportLost s pos) := by
  have e : @State.transportLost = @State.transportLost := rfl
  conv at e => rhs; delta State.transportLost
  rw [e]; clear e
  dsimp -zeta -iota -proj -eta -zetaUnused -zetaHave -failIfUnchanged only
  repeat' first
    | with_reducible first
      | apply Kept.refl | assumption | apply Kept.via (State.discardStage_kept ..) | apply Kept.via (State.unown_kept ..)
      | apply Kept.via (Kept.foldl ?_ ..)
    | simp -zeta -iota -proj -zetaUnused -zetaHave (disch := rfl) only [Kept.update_iff]
    | intro _
    | (extract_lets -underBinder -merge +onlyGivenNames x; refine Kept.step (b := x) ?_ ?_
       all_goals first | (intro _; clear_value x) | dsimp -zeta -iota -proj -zetaUnused -zetaHave only [x])
    | extract_lets -underBinder -merge +onlyGivenNames x
    | split
    | (clear_value x; split)

theorem State.asyncEvent_kept (s : State) (k : ℕ) (dw0 : ℕ) : Kept s (State.asyncEvent s k dw0) := by
  unfold State.asyncEvent
  repeat' first
    | with_reducible first
      | apply Kept.refl | apply Kept.via (State.finish_kept ..) | apply Kept.via (State.modCtrl_kept ..)
    | split

theorem State.doorbellError_kept (s : State) (k : ℕ) (info : ℕ) : Kept s (State.doorbellError s k info) := by
  unfold State.doorbellError
  repeat' with_reducible first
    | apply Kept.refl | apply Kept.via (State.asyncEvent_kept ..) | apply Kept.via (State.count_kept ..)

theorem State.postUa_kept (s : State) (key : ℕ) (code : ℕ) : Kept s (State.postUa s key code) := by
  have e : @State.postUa = @State.postUa := rfl
  conv at e => rhs; delta State.postUa
  rw [e]; clear e
  dsimp -zeta -iota -proj -eta -zetaUnused -zetaHave -failIfUnchanged only
  repeat' first
    | with_reducible first | apply Kept.refl
    | simp -zeta -iota -proj -zetaUnused -zetaHave (disch := rfl) only [Kept.update_iff]
    | intro _
    | (extract_lets -underBinder -merge +onlyGivenNames x; refine Kept.step (b := x) ?_ ?_
       all_goals first | (intro _; clear_value x) | dsimp -zeta -iota -proj -zetaUnused -zetaHave only [x])
    | extract_lets -underBinder -merge +onlyGivenNames x
    | split
    | (clear_value x; split)

theorem State.postUaAll_kept (s : State) (code : ℕ) (except_ : Option ℕ) : Kept s (State.postUaAll s code except_) := by
  unfold State.postUaAll
  repeat' first
    | with_reducible first | apply Kept.refl | apply Kept.via (State.postUa_kept ..) | apply Kept.via (Kept.foldl ?_ ..)
    | simp -zeta -iota -proj -zetaUnused -zetaHave (disch := rfl) only [Kept.update_iff]
    | intro _
    | split

theorem State.eventAll_kept (s : State) (dw0 : ℕ) (except_ : Option ℕ) : Kept s (State.eventAll s dw0 except_) := by
  unfold State.eventAll
  repeat' first
    | with_reducible first
      | apply Kept.refl | apply Kept.via (State.asyncEvent_kept ..) | apply Kept.via (Kept.foldl ?_ ..)
    | simp -zeta -iota -proj -zetaUnused -zetaHave (disch := rfl) only [Kept.update_iff]
    | intro _
    | split

theorem State.sendInterrupt_kept (s : State) (k : ℕ) (v : ℕ) : Kept s (State.sendInterrupt s k v) := by
  have e : @State.sendInterrupt = @State.sendInterrupt := rfl
  conv at e => rhs; delta State.sendInterrupt
  rw [e]; clear e
  dsimp -zeta -iota -proj -eta -zetaUnused -zetaHave -failIfUnchanged only
  repeat' first
    | with_reducible first
      | apply Kept.refl | assumption | apply Kept.via (State.modCtrl_kept ..) | apply Kept.via (State.emit_kept ..)
    | simp -zeta -iota -proj -zetaUnused -zetaHave (disch := rfl) only [Kept.update_iff]
    | intro _
    | (extract_lets -underBinder -merge +onlyGivenNames x; refine Kept.step (b := x) ?_ ?_
       all_goals first | (intro _; clear_value x) | dsimp -zeta -iota -proj -zetaUnused -zetaHave only [x])
    | extract_lets -underBinder -merge +onlyGivenNames x
    | split
    | (clear_value x; split)

theorem State.noteEntry_kept (s : State) (k : ℕ) (v : ℕ) : Kept s (State.noteEntry s k v) := by
  have e : @State.noteEntry = @State.noteEntry := rfl
  conv at e => rhs; delta State.noteEntry
  rw [e]; clear e
  dsimp -zeta -iota -proj -eta -zetaUnused -zetaHave -failIfUnchanged only
  repeat' first
    | with_reducible first
      | apply Kept.refl | assumption | apply Kept.via (State.modCtrl_kept ..) | apply Kept.via (State.sendInterrupt_kept ..)
    | simp -zeta -iota -proj -zetaUnused -zetaHave (disch := rfl) only [Kept.update_iff]
    | intro _
    | (extract_lets -underBinder -merge +onlyGivenNames x; refine Kept.step (b := x) ?_ ?_
       all_goals first | (intro _; clear_value x) | dsimp -zeta -iota -proj -zetaUnused -zetaHave only [x])
    | extract_lets -underBinder -merge +onlyGivenNames x
    | split
    | (clear_value x; split)

theorem State.writeEntry_kept (s : State) (k : ℕ) (q : ℕ) (sq : ℕ) (cid : ℕ) (d : Done) :
    Kept s (State.writeEntry s k q sq cid d) := by
  unfold State.writeEntry
  repeat' first
    | with_reducible first
      | apply Kept.refl | apply Kept.via (State.emit_kept ..) | apply Kept.via (State.modCtrl_kept ..)
      | apply Kept.via (State.noteEntry_kept ..)
    | split

theorem State.postUntagged_kept (s : State) (k : ℕ) (r : HostReq) (d : Done) : Kept s (State.postUntagged s k r d) := by
  unfold State.postUntagged
  repeat' first
    | with_reducible first
      | apply Kept.refl | apply Kept.via (State.writeEntry_kept ..) | apply Kept.via (State.modCtrl_kept ..)
    | split

theorem State.finishDeletes_kept (s : State) (k : ℕ) : Kept s (State.finishDeletes s k) := by
  have e : @State.finishDeletes = @State.finishDeletes := rfl
  conv at e => rhs; delta State.finishDeletes
  rw [e]; clear e
  dsimp -zeta -iota -proj -eta -zetaUnused -zetaHave -failIfUnchanged only
  repeat' first
    | with_reducible first
      | apply Kept.refl | assumption | apply Kept.via (State.finish_kept ..) | apply Kept.via (State.modCtrl_kept ..)
      | apply Kept.via (Kept.foldl ?_ ..)
    | simp -zeta -iota -proj -zetaUnused -zetaHave (disch := rfl) only [Kept.update_iff]
    | intro _
    | (extract_lets -underBinder -merge +onlyGivenNames x; refine Kept.step (b := x) ?_ ?_
       all_goals first | (intro _; clear_value x) | dsimp -zeta -iota -proj -zetaUnused -zetaHave only [x])
    | extract_lets -underBinder -merge +onlyGivenNames x
    | split
    | (clear_value x; split)

theorem State.logStatus_kept (s : State) (k : ℕ) (sq : ℕ) (cid : ℕ) (code : ℕ) : Kept s (State.logStatus s k sq cid code) := by
  unfold State.logStatus
  repeat' first
    | with_reducible first | apply Kept.refl | apply Kept.via (State.modCtrl_kept ..)
    | split

theorem State.commit_kept (s : State) (c : Cmd) (d : Done) : Kept s (State.commit s c d) := by
  unfold State.commit
  repeat' first
    | with_reducible first
      | apply Kept.refl | apply Kept.via (State.wr_kept ..) | apply Kept.via (State.logStatus_kept ..)
      | apply Kept.via (State.writeEntry_kept ..) | apply Kept.via (State.emit_kept ..)
      | apply Kept.via (State.dropCmd_kept ..) | apply Kept.via (State.finishDeletes_kept ..)
      | apply Kept.via (State.ioActivity_kept ..)
    | split

theorem State.tryCommit_kept (s : State) (t : ℕ) : Kept s (State.tryCommit s t) := by
  unfold State.tryCommit
  repeat' first
    | with_reducible first | apply Kept.refl | apply Kept.via (State.commit_kept ..)
    | split

theorem State.portReset_kept (s : State) (k : ℕ) : Kept s (State.portReset s k) := by
  unfold State.portReset
  repeat' first
    | with_reducible first
      | apply Kept.refl | apply Kept.via (State.stopCmd_kept ..) | apply Kept.via (State.dropCmd_kept ..)
      | apply Kept.via (State.wr_kept ..) | apply Kept.via (State.transportLost_kept ..) | apply Kept.via (Kept.foldl ?_ ..)
    | simp -zeta -iota -proj -zetaUnused -zetaHave (disch := rfl) only [Kept.update_iff]
    | intro _
    | split

theorem State.linkDown_kept (s : State) (k : ℕ) : Kept s (State.linkDown s k) := by
  unfold State.linkDown
  repeat' with_reducible first | apply Kept.refl | apply Kept.via (State.wr_kept ..)

theorem State.pcieReset_kept (s : State) : Kept s (State.pcieReset s) := by
  unfold State.pcieReset
  repeat' first
    | with_reducible first
      | apply Kept.refl | apply Kept.via (State.linkDown_kept ..) | apply Kept.via (State.portReset_kept ..)
      | apply Kept.via (State.wr_kept ..) | apply Kept.via (Kept.foldl ?_ ..)
    | simp -zeta -iota -proj -zetaUnused -zetaHave (disch := rfl) only [Kept.update_iff]
    | intro _
    | split

theorem State.restoreFeats_kept (s : State) (k : ℕ) : Kept s (State.restoreFeats s k) := by
  have e : @State.restoreFeats = @State.restoreFeats := rfl
  conv at e => rhs; delta State.restoreFeats
  rw [e]; clear e
  dsimp -zeta -iota -proj -eta -zetaUnused -zetaHave -failIfUnchanged only
  repeat' first
    | with_reducible first
      | apply Kept.refl | assumption | apply Kept.via (State.modCtrl_kept ..) | apply Kept.via (Kept.foldl ?_ ..)
      | apply Kept.via (Kept.foldl_fst ?_ ..)
    | simp -zeta -iota -proj -zetaUnused -zetaHave (disch := rfl) only [Kept.update_iff]
    | intro _
    | (extract_lets -underBinder -merge +onlyGivenNames x; refine Kept.step (b := x) ?_ ?_
       all_goals first | (intro _; clear_value x) | dsimp -zeta -iota -proj -zetaUnused -zetaHave only [x])
    | extract_lets -underBinder -merge +onlyGivenNames x
    | split
    | (clear_value x; split)
    | dsimp only

theorem State.enable_kept (s : State) (k : ℕ) (ams : ℕ) (asqs : ℕ) (acqs : ℕ) : Kept s (State.enable s k ams asqs acqs) := by
  unfold State.enable
  repeat' first
    | with_reducible first
      | apply Kept.refl | apply Kept.via (State.restoreFeats_kept ..) | apply Kept.via (State.wr_kept ..)
    | simp -zeta -iota -proj -zetaUnused -zetaHave (disch := rfl) only [Kept.update_iff]

theorem State.afterFetch_kept (s : State) (k : ℕ) (q : ℕ) (n : ℕ) (renew : Bool) : Kept s (State.afterFetch s k q n renew) := by
  unfold State.afterFetch
  repeat' first
    | with_reducible first | apply Kept.refl | apply Kept.via (State.modCtrl_kept ..)
    | split

theorem State.fetch_kept (s : State) (entries : List HostReq) : Kept s (State.fetch s entries) := by
  have e : @State.fetch = @State.fetch := rfl
  conv at e => rhs; delta State.fetch
  rw [e]; clear e
  dsimp -zeta -iota -proj -eta -zetaUnused -zetaHave -failIfUnchanged only
  repeat' first
    | with_reducible first
      | apply Kept.refl | assumption | apply Kept.via (State.wr_kept ..) | apply Kept.via (State.modCtrl_kept ..)
      | apply Kept.via (State.afterFetch_kept ..)
    | simp -zeta -iota -proj -zetaUnused -zetaHave (disch := rfl) only [Kept.update_iff]
    | intro _
    | (extract_lets -underBinder -merge +onlyGivenNames x; refine Kept.step (b := x) ?_ ?_
       all_goals first | (intro _; clear_value x) | dsimp -zeta -iota -proj -zetaUnused -zetaHave only [x])
    | extract_lets -underBinder -merge +onlyGivenNames x
    | split
    | (clear_value x; split)

theorem State.leaveTagStep_kept (s : State) (l : List (ℕ × HostReq)) : Kept s (State.leaveTagStep s l) := by
  have e : @State.leaveTagStep = @State.leaveTagStep := rfl
  conv at e => rhs; delta State.leaveTagStep
  rw [e]; clear e
  dsimp -zeta -iota -proj -eta -zetaUnused -zetaHave -failIfUnchanged only
  repeat' first
    | with_reducible first | apply Kept.refl | assumption | apply Kept.via (State.wr_kept ..)
    | simp -zeta -iota -proj -zetaUnused -zetaHave (disch := rfl) only [Kept.update_iff]
    | intro _
    | (extract_lets -underBinder -merge +onlyGivenNames x; refine Kept.step (b := x) ?_ ?_
       all_goals first | (intro _; clear_value x) | dsimp -zeta -iota -proj -zetaUnused -zetaHave only [x])
    | extract_lets -underBinder -merge +onlyGivenNames x
    | split
    | (clear_value x; split)
    | dsimp only

theorem State.refreshInlets_kept (s : State) : Kept s (State.refreshInlets s) := by
  unfold State.refreshInlets
  repeat' first
    | with_reducible first | apply Kept.refl | apply Kept.via (State.wr_kept ..) | apply Kept.via (Kept.foldl ?_ ..)
    | intro _

theorem State.takeAtStep_kept (s : State) (pos : ℕ) (e : ℕ × HostReq) : Kept s (State.takeAtStep s pos e) := by
  unfold State.takeAtStep
  repeat' first
    | with_reducible first | apply Kept.refl | apply Kept.via (State.refreshInlets_kept ..)
    | simp -zeta -iota -proj -zetaUnused -zetaHave (disch := rfl) only [Kept.update_iff]
    | split

theorem State.endLoneFirst_kept (s : State) (port : ℕ) (r : HostReq) : Kept s (State.endLoneFirst s port r) := by
  have e : @State.endLoneFirst = @State.endLoneFirst := rfl
  conv at e => rhs; delta State.endLoneFirst
  rw [e]; clear e
  dsimp -zeta -iota -proj -eta -zetaUnused -zetaHave -failIfUnchanged only
  repeat' first
    | with_reducible first
      | apply Kept.refl | assumption | apply Kept.via (State.finish_kept ..) | apply Kept.via (Kept.foldl ?_ ..)
      | apply Kept.via (Kept.foldl_fst ?_ ..)
    | simp -zeta -iota -proj -zetaUnused -zetaHave (disch := rfl) only [Kept.update_iff]
    | intro _
    | (extract_lets -underBinder -merge +onlyGivenNames x; refine Kept.step (b := x) ?_ ?_
       all_goals first | (intro _; clear_value x) | dsimp -zeta -iota -proj -zetaUnused -zetaHave only [x])
    | extract_lets -underBinder -merge +onlyGivenNames x
    | split
    | (clear_value x; split)
    | dsimp only

theorem State.zoneAcceptance_kept (s : State) (r : HostReq) (action : ℕ) (n : Namespace) (key : ℕ) :
    Kept s (State.zoneAcceptance s r action n key) := by
  have e : @State.zoneAcceptance = @State.zoneAcceptance := rfl
  conv at e => rhs; delta State.zoneAcceptance
  rw [e]; clear e
  dsimp -zeta -iota -proj -eta -zetaUnused -zetaHave -failIfUnchanged only
  repeat' first
    | with_reducible first | apply Kept.refl | apply Kept.via (State.modZone_kept ..)
    | simp -zeta -iota -proj -zetaUnused -zetaHave (disch := rfl) only [Kept.update_iff]
    | intro _
    | (extract_lets -underBinder -merge +onlyGivenNames x; refine Kept.step (b := x) ?_ ?_
       all_goals first | (intro _; clear_value x) | dsimp -zeta -iota -proj -zetaUnused -zetaHave only [x])
    | extract_lets -underBinder -merge +onlyGivenNames x
    | split
    | (clear_value x; split)

theorem State.zoneArrival_kept (s : State) (r : HostReq) (action : ℕ) : Kept s (State.zoneArrival s r action) := by
  unfold State.zoneArrival
  repeat' first
    | with_reducible first
      | apply Kept.refl | apply Kept.via (State.zoneAcceptance_kept ..) | apply Kept.via (Kept.foldl ?_ ..)
    | simp -zeta -iota -proj -zetaUnused -zetaHave (disch := rfl) only [Kept.update_iff]
    | intro _
    | split

theorem State.takeUa_kept (s : State) (key : ℕ) : Kept s (State.takeUa s key) := by
  unfold State.takeUa
  repeat' first
    | with_reducible first | apply Kept.refl
    | simp -zeta -iota -proj -zetaUnused -zetaHave (disch := rfl) only [Kept.update_iff]
    | split

theorem State.sasActivity_kept (s : State) (p : ℕ) : Kept s (State.sasActivity s p) := by
  unfold State.sasActivity
  repeat' first
    | with_reducible first | apply Kept.refl | apply Kept.via (State.requestState_kept ..)
    | simp -zeta -iota -proj -zetaUnused -zetaHave (disch := rfl) only [Kept.update_iff]

theorem State.putCmd_kept (s : State) (c : Cmd) : Kept s (State.putCmd s c) := by
  unfold State.putCmd
  repeat' first
    | with_reducible first | apply Kept.refl | apply Kept.via (State.refreshTags_kept ..)
    | simp -zeta -iota -proj -zetaUnused -zetaHave (disch := rfl) only [Kept.update_iff]

theorem State.acceptLba_kept (s : State) (r : HostReq) (k : State.CmdKind) : Kept s (State.acceptLba s r k).1 := by
  unfold State.acceptLba
  repeat' first
    | with_reducible first | apply Kept.refl | apply Kept.via (State.acceptZoneWrite_kept ..)
    | split

theorem State.enterHzt_kept (s : State) (t : ℕ) (a : ℕ) (port : ℕ) (r : HostReq) (lba : ℕ) (first : Option Cmd) :
    Kept s (State.enterHzt s t a port r lba first) := by
  have e : @State.enterHzt = @State.enterHzt := rfl
  conv at e => rhs; delta State.enterHzt
  rw [e]; clear e
  dsimp -zeta -iota -proj -eta -zetaUnused -zetaHave -failIfUnchanged only
  repeat' first
    | with_reducible first | apply Kept.refl
    | simp -zeta -iota -proj -zetaUnused -zetaHave (disch := rfl) only [Kept.update_iff]
    | intro _
    | (extract_lets -underBinder -merge +onlyGivenNames x; refine Kept.step (b := x) ?_ ?_
       all_goals first | (intro _; clear_value x) | dsimp -zeta -iota -proj -zetaUnused -zetaHave only [x])
    | extract_lets -underBinder -merge +onlyGivenNames x
    | split
    | (clear_value x; split)

theorem State.arrivalEffects_kept (s : State) (c : Cmd) : Kept s (State.arrivalEffects s c) := by
  unfold State.arrivalEffects
  repeat' first
    | with_reducible first
      | apply Kept.refl | apply Kept.via (State.zoneArrival_kept ..) | apply Kept.via (State.requestState_kept ..)
      | apply Kept.via (State.sasActivity_kept ..) | apply Kept.via (State.ioActivity_kept ..)
      | apply Kept.via (State.refreshHzt_kept ..)
    | split

theorem State.arriveAccepted_kept (s : State) (c : Cmd) : Kept s (State.arriveAccepted s c) := by
  unfold State.arriveAccepted
  repeat' first
    | with_reducible first
      | apply Kept.refl | apply Kept.via (State.acceptLba_kept ..) | apply Kept.via (State.putCmd_kept ..)
      | apply Kept.via (State.enterHzt_kept ..) | apply Kept.via (State.modCmd_kept ..)
      | apply Kept.via (State.arrivalEffects_kept ..)
    | split

theorem State.arrive_kept (s : State) (t : ℕ) (e : ℕ × HostReq) : Kept s (State.arrive s t e) := by
  have e : @State.arrive = @State.arrive := rfl
  conv at e => rhs; delta State.arrive
  rw [e]; clear e
  dsimp -zeta -iota -proj -eta -zetaUnused -zetaHave -failIfUnchanged only
  repeat' first
    | with_reducible first
      | apply Kept.refl | assumption | apply Kept.via (State.endLoneFirst_kept ..) | apply Kept.via (State.finish_kept ..)
      | apply Kept.via (State.putCmd_kept ..) | apply Kept.via (State.takeUa_kept ..)
      | apply Kept.via (State.arriveAccepted_kept ..)
    | simp -zeta -iota -proj -zetaUnused -zetaHave (disch := rfl) only [Kept.update_iff]
    | intro _
    | (extract_lets -underBinder -merge +onlyGivenNames x; refine Kept.step (b := x) ?_ ?_
       all_goals first | (intro _; clear_value x) | dsimp -zeta -iota -proj -zetaUnused -zetaHave only [x])
    | extract_lets -underBinder -merge +onlyGivenNames x
    | split
    | (clear_value x; split)
    | dsimp only

theorem State.arrivalStep_kept (s : State) (t : ℕ) : Kept s (State.arrivalStep s t) := by
  have e : @State.arrivalStep = @State.arrivalStep := rfl
  conv at e => rhs; delta State.arrivalStep
  rw [e]; clear e
  dsimp -zeta -iota -proj -eta -zetaUnused -zetaHave -failIfUnchanged only
  repeat' first
    | with_reducible first
      | apply Kept.refl | assumption | apply Kept.via (State.arrive_kept ..) | apply Kept.via (State.wr_kept ..)
      | apply Kept.via (State.takeAtStep_kept ..)
    | simp -zeta -iota -proj -zetaUnused -zetaHave (disch := rfl) only [Kept.update_iff]
    | intro _
    | (extract_lets -underBinder -merge +onlyGivenNames x; refine Kept.step (b := x) ?_ ?_
       all_goals first | (intro _; clear_value x) | dsimp -zeta -iota -proj -zetaUnused -zetaHave only [x])
    | extract_lets -underBinder -merge +onlyGivenNames x
    | split
    | (clear_value x; split)

theorem State.barrierStart_kept (s : State) (t : ℕ) : Kept s (State.barrierStart s t) := by
  have e : @State.barrierStart = @State.barrierStart := rfl
  conv at e => rhs; delta State.barrierStart
  rw [e]; clear e
  dsimp -zeta -iota -proj -eta -zetaUnused -zetaHave -failIfUnchanged only
  repeat' first
    | with_reducible first
      | apply Kept.refl | assumption | apply Kept.via (State.modCmd_kept ..) | apply Kept.via (State.count_kept ..)
    | simp -zeta -iota -proj -zetaUnused -zetaHave (disch := rfl) only [Kept.update_iff]
    | intro _
    | (extract_lets -underBinder -merge +onlyGivenNames x; refine Kept.step (b := x) ?_ ?_
       all_goals first | (intro _; clear_value x) | dsimp -zeta -iota -proj -zetaUnused -zetaHave only [x])
    | extract_lets -underBinder -merge +onlyGivenNames x
    | split
    | (clear_value x; split)

theorem State.onAdmin_kept (s : State) (t : ℕ) (op : ℕ) (f : Cmd → State) (h_f : ∀ a0, Kept s (f a0)) :
    Kept s (State.onAdmin s t op f) := by
  unfold State.onAdmin
  repeat' first
    | with_reducible first | apply Kept.refl | apply Kept.via (h_f ..)
    | split

theorem State.createCq_kept (s : State) (c : Cmd) : Kept s (State.createCq s c) := by
  have e : @State.createCq = @State.createCq := rfl
  conv at e => rhs; delta State.createCq
  rw [e]; clear e
  dsimp -zeta -iota -proj -eta -zetaUnused -zetaHave -failIfUnchanged only
  repeat' first
    | with_reducible first
      | apply Kept.refl | apply Kept.via (State.finish_kept ..) | apply Kept.via (State.modCtrl_kept ..)
    | simp -zeta -iota -proj -zetaUnused -zetaHave (disch := rfl) only [Kept.update_iff]
    | intro _
    | (extract_lets -underBinder -merge +onlyGivenNames x; refine Kept.step (b := x) ?_ ?_
       all_goals first | (intro _; clear_value x) | dsimp -zeta -iota -proj -zetaUnused -zetaHave only [x])
    | extract_lets -underBinder -merge +onlyGivenNames x
    | split
    | (clear_value x; split)

theorem State.createSq_kept (s : State) (c : Cmd) : Kept s (State.createSq s c) := by
  have e : @State.createSq = @State.createSq := rfl
  conv at e => rhs; delta State.createSq
  rw [e]; clear e
  dsimp -zeta -iota -proj -eta -zetaUnused -zetaHave -failIfUnchanged only
  repeat' first
    | with_reducible first
      | apply Kept.refl | apply Kept.via (State.finish_kept ..) | apply Kept.via (State.modCtrl_kept ..)
    | simp -zeta -iota -proj -zetaUnused -zetaHave (disch := rfl) only [Kept.update_iff]
    | intro _
    | (extract_lets -underBinder -merge +onlyGivenNames x; refine Kept.step (b := x) ?_ ?_
       all_goals first | (intro _; clear_value x) | dsimp -zeta -iota -proj -zetaUnused -zetaHave only [x])
    | extract_lets -underBinder -merge +onlyGivenNames x
    | split
    | (clear_value x; split)

theorem State.deleteSq_kept (s : State) (c : Cmd) : Kept s (State.deleteSq s c) := by
  have e : @State.deleteSq = @State.deleteSq := rfl
  conv at e => rhs; delta State.deleteSq
  rw [e]; clear e
  dsimp -zeta -iota -proj -eta -zetaUnused -zetaHave -failIfUnchanged only
  repeat' first
    | with_reducible first
      | apply Kept.refl | assumption | apply Kept.via (State.finish_kept ..) | apply Kept.via (State.modCtrl_kept ..)
      | apply Kept.via (State.stopCmd_kept ..) | apply Kept.via (State.finishDeletes_kept ..)
      | apply Kept.via (State.postUntagged_kept ..) | apply Kept.via (State.leaveTagStep_kept ..)
      | apply Kept.via (Kept.foldl ?_ ..)
    | simp -zeta -iota -proj -zetaUnused -zetaHave (disch := rfl) only [Kept.update_iff]
    | intro _
    | (extract_lets -underBinder -merge +onlyGivenNames x; refine Kept.step (b := x) ?_ ?_
       all_goals first | (intro _; clear_value x) | dsimp -zeta -iota -proj -zetaUnused -zetaHave only [x])
    | extract_lets -underBinder -merge +onlyGivenNames x
    | split
    | (clear_value x; split)

theorem State.deleteCq_kept (s : State) (c : Cmd) : Kept s (State.deleteCq s c) := by
  have e : @State.deleteCq = @State.deleteCq := rfl
  conv at e => rhs; delta State.deleteCq
  rw [e]; clear e
  dsimp -zeta -iota -proj -eta -zetaUnused -zetaHave -failIfUnchanged only
  repeat' first
    | with_reducible first
      | apply Kept.refl | apply Kept.via (State.finish_kept ..) | apply Kept.via (State.modCtrl_kept ..)
    | simp -zeta -iota -proj -zetaUnused -zetaHave (disch := rfl) only [Kept.update_iff]
    | intro _
    | (extract_lets -underBinder -merge +onlyGivenNames x; refine Kept.step (b := x) ?_ ?_
       all_goals first | (intro _; clear_value x) | dsimp -zeta -iota -proj -zetaUnused -zetaHave only [x])
    | extract_lets -underBinder -merge +onlyGivenNames x
    | split
    | (clear_value x; split)

theorem State.abortMissed_kept (s : State) (t : ℕ) : Kept s (State.abortMissed s t) := by
  unfold State.abortMissed
  repeat' with_reducible first
    | apply Kept.refl | apply Kept.via (State.finish_kept ..) | apply Kept.via (State.count_kept ..)

theorem State.abortMatch_kept (s : State) (t : ℕ) (target : Cmd) : Kept s (State.abortMatch s t target) := by
  unfold State.abortMatch
  repeat' first
    | with_reducible first
      | apply Kept.refl | apply Kept.via (State.modCmd_kept ..) | apply Kept.via (State.stopCmd_kept ..)
      | apply Kept.via (State.finish_kept ..) | apply Kept.via (State.wr_kept ..) | apply Kept.via (State.count_kept ..)
    | split

theorem State.abortPartner_kept (s : State) (t : ℕ) (e : ℕ × HostReq) : Kept s (State.abortPartner s t e) := by
  have e : @State.abortPartner = @State.abortPartner := rfl
  conv at e => rhs; delta State.abortPartner
  rw [e]; clear e
  dsimp -zeta -iota -proj -eta -zetaUnused -zetaHave -failIfUnchanged only
  repeat' first
    | with_reducible first
      | apply Kept.refl | assumption | apply Kept.via (State.postUntagged_kept ..)
      | apply Kept.via (State.leaveTagStep_kept ..) | apply Kept.via (State.modCmd_kept ..)
      | apply Kept.via (State.stopCmd_kept ..)
    | simp -zeta -iota -proj -zetaUnused -zetaHave (disch := rfl) only [Kept.update_iff]
    | intro _
    | (extract_lets -underBinder -merge +onlyGivenNames x; refine Kept.step (b := x) ?_ ?_
       all_goals first | (intro _; clear_value x) | dsimp -zeta -iota -proj -zetaUnused -zetaHave only [x])
    | extract_lets -underBinder -merge +onlyGivenNames x
    | split
    | (clear_value x; split)
    | dsimp only

theorem State.abortTarget_kept (s : State) (c : Cmd) (target : Cmd) (sameCycle : Bool) :
    Kept s (State.abortTarget s c target sameCycle) := by
  unfold State.abortTarget
  repeat' first
    | with_reducible first
      | apply Kept.refl | apply Kept.via (State.abortMissed_kept ..) | apply Kept.via (State.tryCommit_kept ..)
      | apply Kept.via (State.abortMatch_kept ..)
    | split

theorem State.abortCmd_kept (s : State) (c : Cmd) (sameCycle : Bool) : Kept s (State.abortCmd s c sameCycle) := by
  have e : @State.abortCmd = @State.abortCmd := rfl
  conv at e => rhs; delta State.abortCmd
  rw [e]; clear e
  dsimp -zeta -iota -proj -eta -zetaUnused -zetaHave -failIfUnchanged only
  repeat' first
    | with_reducible first
      | apply Kept.refl | apply Kept.via (State.finish_kept ..) | apply Kept.via (State.abortMissed_kept ..)
      | apply Kept.via (State.count_kept ..) | apply Kept.via (State.abortPartner_kept ..)
      | apply Kept.via (State.postUntagged_kept ..) | apply Kept.via (State.leaveTagStep_kept ..)
      | apply Kept.via (State.abortTarget_kept ..)
    | simp -zeta -iota -proj -zetaUnused -zetaHave (disch := rfl) only [Kept.update_iff]
    | intro _
    | (extract_lets -underBinder -merge +onlyGivenNames x; refine Kept.step (b := x) ?_ ?_
       all_goals first | (intro _; clear_value x) | dsimp -zeta -iota -proj -zetaUnused -zetaHave only [x])
    | extract_lets -underBinder -merge +onlyGivenNames x
    | split
    | (clear_value x; split)

theorem execPcieReset_kept (s : State) : KeptBy s (execPcieReset s) := by
  unfold execPcieReset
  refine KeptBy.next ?_
  repeat' first
    | with_reducible first
      | apply Kept.refl | apply Kept.via (State.pcieReset_kept ..) | apply Kept.via (State.wr_kept ..)
    | split

theorem execPcieLinkTraining_kept (port : Fin 4) (s : State) : KeptBy s (execPcieLinkTraining port s) := by
  unfold execPcieLinkTraining
  refine KeptBy.next ?_
  repeat' first
    | with_reducible first | apply Kept.refl
    | simp -zeta -iota -proj -zetaUnused -zetaHave (disch := rfl) only [Kept.update_iff]
    | split

theorem execPcieLinkUp_kept (port : Fin 4) (speed : Fin 7) (width : BitVec 5) (flit : Bool) (s : State) :
    KeptBy s (execPcieLinkUp port speed width flit s) := by
  have e : @execPcieLinkUp = @execPcieLinkUp := rfl
  conv at e => rhs; delta execPcieLinkUp
  rw [e]; clear e
  dsimp -zeta -iota -proj -eta -zetaUnused -zetaHave -failIfUnchanged only
  refine KeptBy.next ?_
  repeat' first
    | with_reducible first | apply Kept.refl | apply Kept.via (State.wrFlag_kept ..) | apply Kept.via (State.wr_kept ..)
    | simp -zeta -iota -proj -zetaUnused -zetaHave (disch := rfl) only [Kept.update_iff]
    | intro _
    | (extract_lets -underBinder -merge +onlyGivenNames x; refine Kept.step (b := x) ?_ ?_
       all_goals first | (intro _; clear_value x) | dsimp -zeta -iota -proj -zetaUnused -zetaHave only [x])
    | extract_lets -underBinder -merge +onlyGivenNames x
    | split
    | (clear_value x; split)

theorem execLinkL12Change_kept (port : Fin 4) (inL12 : Bool) (s : State) : KeptBy s (execLinkL12Change port inL12 s) := by
  have e : @execLinkL12Change = @execLinkL12Change := rfl
  conv at e => rhs; delta execLinkL12Change
  rw [e]; clear e
  dsimp -zeta -iota -proj -eta -zetaUnused -zetaHave -failIfUnchanged only
  refine KeptBy.next ?_
  repeat' first
    | with_reducible first | apply Kept.refl | assumption | apply Kept.via (State.wrFlag_kept ..)
    | simp -zeta -iota -proj -zetaUnused -zetaHave (disch := rfl) only [Kept.update_iff]
    | intro _
    | (extract_lets -underBinder -merge +onlyGivenNames x; refine Kept.step (b := x) ?_ ?_
       all_goals first | (intro _; clear_value x) | dsimp -zeta -iota -proj -zetaUnused -zetaHave only [x])
    | extract_lets -underBinder -merge +onlyGivenNames x
    | split
    | (clear_value x; split)

theorem execPortReset_kept (port : Fin 4) (cause : PortResetCause) (s : State) : KeptBy s (execPortReset port cause s) := by
  unfold execPortReset
  refine KeptBy.next ?_
  repeat' first
    | with_reducible first
      | apply Kept.refl | apply Kept.via (State.portReset_kept ..) | apply Kept.via (State.linkDown_kept ..)
    | split

theorem execCcEnSet_kept (port : Fin 4) (ams : BitVec 3) (asqs : BitVec 12) (acqs : BitVec 12) (s : State) :
    KeptBy s (execCcEnSet port ams asqs acqs s) := by
  unfold execCcEnSet
  refine KeptBy.next ?_
  repeat' first
    | with_reducible first | apply Kept.refl | apply Kept.via (State.enable_kept ..)
    | split

theorem execControllerReady_kept (port : Fin 4) (s : State) : KeptBy s (execControllerReady port s) := by
  unfold execControllerReady
  refine KeptBy.next ?_
  repeat' first
    | with_reducible first | apply Kept.refl | apply Kept.via (State.wr_kept ..)
    | split

theorem execShutdownNotification_kept (port : Fin 4) (shn : BitVec 2) (s : State) :
    KeptBy s (execShutdownNotification port shn s) := by
  unfold execShutdownNotification
  refine KeptBy.next ?_
  repeat' first
    | with_reducible first | apply Kept.refl | apply Kept.via (State.modCtrl_kept ..)
    | split

theorem execShutdownComplete_kept (port : Fin 4) (s : State) : KeptBy s (execShutdownComplete port s) := by
  have e : @execShutdownComplete = @execShutdownComplete := rfl
  conv at e => rhs; delta execShutdownComplete
  rw [e]; clear e
  dsimp -zeta -iota -proj -eta -zetaUnused -zetaHave -failIfUnchanged only
  refine KeptBy.next ?_
  repeat' first
    | with_reducible first | apply Kept.refl | apply Kept.via (State.modCtrl_kept ..)
    | simp -zeta -iota -proj -zetaUnused -zetaHave (disch := rfl) only [Kept.update_iff]
    | intro _
    | (extract_lets -underBinder -merge +onlyGivenNames x; refine Kept.step (b := x) ?_ ?_
       all_goals first | (intro _; clear_value x) | dsimp -zeta -iota -proj -zetaUnused -zetaHave only [x])
    | extract_lets -underBinder -merge +onlyGivenNames x
    | split
    | (clear_value x; split)

theorem execSqTailDoorbell_kept (port : Fin 4) (sqid : BitVec 16) (tail : BitVec 16) (s : State) :
    KeptBy s (execSqTailDoorbell port sqid tail s) := by
  unfold execSqTailDoorbell
  refine KeptBy.next ?_
  repeat' first
    | with_reducible first
      | apply Kept.refl | apply Kept.via (State.doorbellError_kept ..) | apply Kept.via (State.modCtrl_kept ..)
    | split

theorem execCqHeadDoorbell_kept (port : Fin 4) (cqid : BitVec 16) (head : BitVec 16) (s : State) :
    KeptBy s (execCqHeadDoorbell port cqid head s) := by
  unfold execCqHeadDoorbell
  refine KeptBy.next ?_
  repeat' first
    | with_reducible first
      | apply Kept.refl | apply Kept.via (State.doorbellError_kept ..) | apply Kept.via (State.modCtrl_kept ..)
      | apply Kept.via (State.finishDeletes_kept ..) | apply Kept.via (State.postUntagged_kept ..)
      | apply Kept.via (Kept.foldl ?_ ..)
    | simp -zeta -iota -proj -zetaUnused -zetaHave (disch := rfl) only [Kept.update_iff]
    | intro _
    | split

theorem execCommandFetch_kept (entries : List HostReq) (s : State) : KeptBy s (execCommandFetch entries s) := by
  unfold execCommandFetch
  refine KeptBy.next ?_
  repeat' with_reducible first | apply Kept.refl | apply Kept.via (State.fetch_kept ..)

theorem execCommandArrival_kept (tag : BitVec 13) (s : State) : KeptBy s (execCommandArrival tag s) := by
  unfold execCommandArrival
  refine KeptBy.next ?_
  repeat' first
    | with_reducible first | apply Kept.refl | apply Kept.via (State.arrivalStep_kept ..)
    | split

theorem execArrivalResume_kept (s : State) : KeptBy s (execArrivalResume s) := by
  unfold execArrivalResume
  refine KeptBy.next ?_
  repeat' first
    | with_reducible first | apply Kept.refl | apply Kept.via (State.wr_kept ..)
    | split

theorem execHazardRelease_kept (s : State) : KeptBy s (execHazardRelease s) := by
  unfold execHazardRelease
  refine KeptBy.next ?_
  repeat' with_reducible first | apply Kept.refl | apply Kept.via (State.settle_kept ..)

theorem execOrderedBarrierStart_kept (tag : BitVec 13) (s : State) : KeptBy s (execOrderedBarrierStart tag s) := by
  unfold execOrderedBarrierStart
  refine KeptBy.next ?_
  repeat' with_reducible first | apply Kept.refl | apply Kept.via (State.barrierStart_kept ..)

theorem execCompletionCommit_kept (tag : BitVec 13) (s : State) : KeptBy s (execCompletionCommit tag s) := by
  unfold execCompletionCommit
  refine KeptBy.next ?_
  repeat' with_reducible first | apply Kept.refl | apply Kept.via (State.tryCommit_kept ..)

theorem execInterruptCoalesceTimeout_kept (port : Fin 4) (vector : BitVec 11) (s : State) :
    KeptBy s (execInterruptCoalesceTimeout port vector s) := by
  unfold execInterruptCoalesceTimeout
  refine KeptBy.next ?_
  repeat' first
    | with_reducible first | apply Kept.refl | apply Kept.via (State.sendInterrupt_kept ..)
    | split

theorem execMsixUnmask_kept (port : Fin 4) (vector : BitVec 11) (s : State) : KeptBy s (execMsixUnmask port vector s) := by
  have e : @execMsixUnmask = @execMsixUnmask := rfl
  conv at e => rhs; delta execMsixUnmask
  rw [e]; clear e
  dsimp -zeta -iota -proj -eta -zetaUnused -zetaHave -failIfUnchanged only
  refine KeptBy.next ?_
  repeat' first
    | with_reducible first
      | apply Kept.refl | assumption | apply Kept.via (State.modCtrl_kept ..) | apply Kept.via (State.emit_kept ..)
    | simp -zeta -iota -proj -zetaUnused -zetaHave (disch := rfl) only [Kept.update_iff]
    | intro _
    | (extract_lets -underBinder -merge +onlyGivenNames x; refine Kept.step (b := x) ?_ ?_
       all_goals first | (intro _; clear_value x) | dsimp -zeta -iota -proj -zetaUnused -zetaHave only [x])
    | extract_lets -underBinder -merge +onlyGivenNames x
    | split
    | (clear_value x; split)

theorem execCreateIoCq_kept (tag : BitVec 13) (s : State) : KeptBy s (execCreateIoCq tag s) := by
  unfold execCreateIoCq
  refine KeptBy.next ?_
  repeat' first
    | with_reducible first
      | apply Kept.refl | apply Kept.via (State.onAdmin_kept (h_f := ?_) ..) | apply Kept.via (State.createCq_kept ..)
    | simp -zeta -iota -proj -zetaUnused -zetaHave (disch := rfl) only [Kept.update_iff]
    | intro _

theorem execCreateIoSq_kept (tag : BitVec 13) (s : State) : KeptBy s (execCreateIoSq tag s) := by
  unfold execCreateIoSq
  refine KeptBy.next ?_
  repeat' first
    | with_reducible first
      | apply Kept.refl | apply Kept.via (State.onAdmin_kept (h_f := ?_) ..) | apply Kept.via (State.createSq_kept ..)
    | simp -zeta -iota -proj -zetaUnused -zetaHave (disch := rfl) only [Kept.update_iff]
    | intro _

theorem execDeleteIoSq_kept (tag : BitVec 13) (s : State) : KeptBy s (execDeleteIoSq tag s) := by
  unfold execDeleteIoSq
  refine KeptBy.next ?_
  repeat' first
    | with_reducible first
      | apply Kept.refl | apply Kept.via (State.onAdmin_kept (h_f := ?_) ..) | apply Kept.via (State.deleteSq_kept ..)
    | simp -zeta -iota -proj -zetaUnused -zetaHave (disch := rfl) only [Kept.update_iff]
    | intro _

theorem execDeleteIoCq_kept (tag : BitVec 13) (s : State) : KeptBy s (execDeleteIoCq tag s) := by
  unfold execDeleteIoCq
  refine KeptBy.next ?_
  repeat' first
    | with_reducible first
      | apply Kept.refl | apply Kept.via (State.onAdmin_kept (h_f := ?_) ..) | apply Kept.via (State.deleteCq_kept ..)
    | simp -zeta -iota -proj -zetaUnused -zetaHave (disch := rfl) only [Kept.update_iff]
    | intro _

theorem execAbort_kept (tag : BitVec 13) (sameCycle : Bool) (s : State) : KeptBy s (execAbort tag sameCycle s) := by
  unfold execAbort
  refine KeptBy.next ?_
  repeat' first
    | with_reducible first
      | apply Kept.refl | apply Kept.via (State.onAdmin_kept (h_f := ?_) ..) | apply Kept.via (State.abortCmd_kept ..)
    | simp -zeta -iota -proj -zetaUnused -zetaHave (disch := rfl) only [Kept.update_iff]
    | intro _

end Sys2Proof.Machine
end

