-- ==== Sys2Proof/Laws/KeepsTransfer.lean ====
section
/-!
SUPPORT. Laws/KeepsTransfer.lean: each operation and command of Machine/Transfer.lean keeps what every operation keeps (`Kept`).
-/
namespace Sys2Proof.Machine

theorem State.onCmd_kept (s : State) (t : ℕ) (ok : Cmd → Bool) (f : Cmd → State) (h_f : ∀ a0, Kept s (f a0)) :
    Kept s (State.onCmd s t ok f) := by
  unfold State.onCmd
  repeat' first
    | with_reducible first | apply Kept.refl | apply Kept.via (h_f ..)
    | split

theorem State.reserveNext_kept (s : State) : Kept s (State.reserveNext s) := by
  have e : @State.reserveNext = @State.reserveNext := rfl
  conv at e => rhs; delta State.reserveNext
  rw [e]; clear e
  dsimp -zeta -iota -proj -eta -zetaUnused -zetaHave -failIfUnchanged only
  repeat' first
    | with_reducible first
      | apply Kept.refl | apply Kept.via (State.refreshBuffer_kept ..) | apply Kept.via (State.modCmd_kept ..)
    | simp -zeta -iota -proj -zetaUnused -zetaHave (disch := rfl) only [Kept.update_iff]
    | intro _
    | (extract_lets -underBinder -merge +onlyGivenNames x; refine Kept.step (b := x) ?_ ?_
       all_goals first | (intro _; clear_value x) | dsimp -zeta -iota -proj -zetaUnused -zetaHave only [x])
    | extract_lets -underBinder -merge +onlyGivenNames x
    | split
    | (clear_value x; split)

theorem State.receive_kept (s : State) (c : Cmd) (data : List ℕ) : Kept s (State.receive s c data) := by
  unfold State.receive
  repeat' first
    | with_reducible first
      | apply Kept.refl | apply Kept.via (State.placeBlock_kept ..) | apply Kept.via (State.modCmd_kept ..)
      | apply Kept.via (State.refreshBuffer_kept ..) | apply Kept.via (State.followZone_kept ..)
      | apply Kept.via (Kept.foldl ?_ ..)
    | intro _

theorem State.writeDone_kept (s : State) (t : ℕ) (d : Done) : Kept s (State.writeDone s t d) := by
  unfold State.writeDone
  repeat' first
    | with_reducible first
      | apply Kept.refl | apply Kept.via (State.finish_kept ..) | apply Kept.via (State.journal_kept ..)
      | apply Kept.via (State.journalStall_kept ..)
    | split

theorem State.writeShort_kept (s : State) (c : Cmd) (d : Done) : Kept s (State.writeShort s c d) := by
  unfold State.writeShort
  repeat' first
    | with_reducible first | apply Kept.refl | apply Kept.via (State.stopCmd_kept ..)
    | split

theorem State.writeStep_kept (s : State) (c : Cmd) (data : List ℕ) (bad : Bool) (d : Done) :
    Kept s (State.writeStep s c data bad d) := by
  unfold State.writeStep
  repeat' first
    | with_reducible first
      | apply Kept.refl | apply Kept.via (State.writeShort_kept ..) | apply Kept.via (State.receive_kept ..)
      | apply Kept.via (State.writeDone_kept ..)
    | split

theorem State.unmapUnit_kept (s : State) (ns : ℕ) (u : ℕ) : Kept s (State.unmapUnit s ns u) := by
  have e : @State.unmapUnit = @State.unmapUnit := rfl
  conv at e => rhs; delta State.unmapUnit
  rw [e]; clear e
  dsimp -zeta -iota -proj -eta -zetaUnused -zetaHave -failIfUnchanged only
  repeat' first
    | with_reducible first | apply Kept.refl
    | simp -zeta -iota -proj -zetaUnused -zetaHave (disch := rfl) only [Kept.update_iff]
    | intro _
    | (extract_lets -underBinder -merge +onlyGivenNames x; refine Kept.step (b := x) ?_ ?_
       all_goals first | (intro _; clear_value x) | dsimp -zeta -iota -proj -zetaUnused -zetaHave only [x])
    | extract_lets -underBinder -merge +onlyGivenNames x
    | split
    | (clear_value x; split)

theorem State.deallocate_kept (s : State) (c : Cmd) (p : ℕ × ℕ) : Kept s (State.deallocate s c p) := by
  unfold State.deallocate
  repeat' first
    | with_reducible first
      | apply Kept.refl | apply Kept.via (State.unmapUnit_kept ..) | apply Kept.via (State.placeBlock_kept ..)
      | apply Kept.via (Kept.foldl ?_ ..)
    | intro _

theorem State.deallocateAll_kept (s : State) (c : Cmd) (ranges : List (ℕ × ℕ)) : Kept s (State.deallocateAll s c ranges) := by
  have e : @State.deallocateAll = @State.deallocateAll := rfl
  conv at e => rhs; delta State.deallocateAll
  rw [e]; clear e
  dsimp -zeta -iota -proj -eta -zetaUnused -zetaHave -failIfUnchanged only
  repeat' first
    | with_reducible first
      | apply Kept.refl | assumption | apply Kept.via (State.finish_kept ..) | apply Kept.via (State.refreshBuffer_kept ..)
      | apply Kept.via (State.journal_kept ..) | apply Kept.via (State.deallocate_kept ..)
      | apply Kept.via (State.journalStall_kept ..) | apply Kept.via (Kept.foldl ?_ ..)
    | simp -zeta -iota -proj -zetaUnused -zetaHave (disch := rfl) only [Kept.update_iff]
    | intro _
    | (extract_lets -underBinder -merge +onlyGivenNames x; refine Kept.step (b := x) ?_ ?_
       all_goals first | (intro _; clear_value x) | dsimp -zeta -iota -proj -zetaUnused -zetaHave only [x])
    | extract_lets -underBinder -merge +onlyGivenNames x
    | split
    | (clear_value x; split)

theorem State.writeZeroes_kept (s : State) (c : Cmd) : Kept s (State.writeZeroes s c) := by
  unfold State.writeZeroes
  repeat' first
    | with_reducible first
      | apply Kept.refl | apply Kept.via (State.finish_kept ..) | apply Kept.via (State.deallocateAll_kept ..)
      | apply Kept.via (State.writeStep_kept ..)
    | split

theorem State.takeAll_kept (s : State) (c : Cmd) : Kept s (State.takeAll s c) := by
  unfold State.takeAll
  repeat' first
    | with_reducible first
      | apply Kept.refl | apply Kept.via (State.takeBlock_kept ..) | apply Kept.via (Kept.foldl ?_ ..)
    | simp -zeta -iota -proj -zetaUnused -zetaHave (disch := rfl) only [Kept.update_iff]
    | intro _
    | split

theorem State.readStep_kept (s : State) (t : ℕ) (done : Cmd → State → State) (h_done : ∀ a0 a1, Kept a1 (done a0 a1)) :
    Kept s (State.readStep s t done) := by
  have e : @State.readStep = @State.readStep := rfl
  conv at e => rhs; delta State.readStep
  rw [e]; clear e
  dsimp -zeta -iota -proj -eta -zetaUnused -zetaHave -failIfUnchanged only
  repeat' first
    | with_reducible first
      | apply Kept.refl | assumption | apply Kept.via (State.queueReads_kept ..) | apply Kept.via (State.takeAll_kept ..)
      | apply Kept.via (State.releaseRead_kept ..) | apply Kept.via (h_done ..)
    | simp -zeta -iota -proj -zetaUnused -zetaHave (disch := rfl) only [Kept.update_iff]
    | intro _
    | (extract_lets -underBinder -merge +onlyGivenNames x; refine Kept.step (b := x) ?_ ?_
       all_goals first | (intro _; clear_value x) | dsimp -zeta -iota -proj -zetaUnused -zetaHave only [x])
    | extract_lets -underBinder -merge +onlyGivenNames x
    | split
    | (clear_value x; split)

theorem State.sendBlocks_kept (s : State) (c : Cmd) (n : ℕ) : Kept s (State.sendBlocks s c n) := by
  have e : @State.sendBlocks = @State.sendBlocks := rfl
  conv at e => rhs; delta State.sendBlocks
  rw [e]; clear e
  dsimp -zeta -iota -proj -eta -zetaUnused -zetaHave -failIfUnchanged only
  repeat' first
    | with_reducible first
      | apply Kept.refl | assumption | apply Kept.via (State.emit_kept ..) | apply Kept.via (State.modCmd_kept ..)
    | simp -zeta -iota -proj -zetaUnused -zetaHave (disch := rfl) only [Kept.update_iff]
    | intro _
    | (extract_lets -underBinder -merge +onlyGivenNames x; refine Kept.step (b := x) ?_ ?_
       all_goals first | (intro _; clear_value x) | dsimp -zeta -iota -proj -zetaUnused -zetaHave only [x])
    | extract_lets -underBinder -merge +onlyGivenNames x
    | split
    | (clear_value x; split)

theorem State.endRead_kept (n : ℕ) (c : Cmd) (s : State) : Kept s (State.endRead n c s) := by
  unfold State.endRead
  repeat' first
    | with_reducible first
      | apply Kept.refl | apply Kept.via (State.finish_kept ..) | apply Kept.via (State.sendBlocks_kept ..)
    | split

theorem State.endVerify_kept (c : Cmd) (s : State) : Kept s (State.endVerify c s) := by
  unfold State.endVerify
  repeat' with_reducible first | apply Kept.refl | apply Kept.via (State.finish_kept ..)

theorem State.endCompare_kept (data : List ℕ) (c : Cmd) (s : State) : Kept s (State.endCompare data c s) := by
  have e : @State.endCompare = @State.endCompare := rfl
  conv at e => rhs; delta State.endCompare
  rw [e]; clear e
  dsimp -zeta -iota -proj -eta -zetaUnused -zetaHave -failIfUnchanged only
  repeat' first
    | with_reducible first | apply Kept.refl | assumption | apply Kept.via (State.finish_kept ..)
    | simp -zeta -iota -proj -zetaUnused -zetaHave (disch := rfl) only [Kept.update_iff]
    | intro _
    | (extract_lets -underBinder -merge +onlyGivenNames x; refine Kept.step (b := x) ?_ ?_
       all_goals first | (intro _; clear_value x) | dsimp -zeta -iota -proj -zetaUnused -zetaHave only [x])
    | extract_lets -underBinder -merge +onlyGivenNames x
    | split
    | (clear_value x; split)

theorem State.leaveActive_kept (s : State) (key : ℕ) (c : ZoneCond) : Kept s (State.leaveActive s key c) := by
  unfold State.leaveActive
  repeat' first
    | with_reducible first
      | apply Kept.refl | apply Kept.via (State.modZone_kept ..) | apply Kept.via (State.refreshZones_kept ..)
    | simp -zeta -iota -proj -zetaUnused -zetaHave (disch := rfl) only [Kept.update_iff]

theorem State.zoneOpen_kept (s : State) (key : ℕ) : Kept s (State.zoneOpen s key).1 := by
  have e : @State.zoneOpen = @State.zoneOpen := rfl
  conv at e => rhs; delta State.zoneOpen
  rw [e]; clear e
  dsimp -zeta -iota -proj -eta -zetaUnused -zetaHave -failIfUnchanged only
  repeat' first
    | with_reducible first | apply Kept.refl | apply Kept.via (State.openZoneAs_kept ..)
    | simp -zeta -iota -proj -zetaUnused -zetaHave (disch := rfl) only [Kept.update_iff]
    | intro _
    | (extract_lets -underBinder -merge +onlyGivenNames x; refine Kept.step (b := x) ?_ ?_
       all_goals first | (intro _; clear_value x) | dsimp -zeta -iota -proj -zetaUnused -zetaHave only [x])
    | extract_lets -underBinder -merge +onlyGivenNames x
    | split
    | (clear_value x; split)

theorem State.zoneClose_kept (s : State) (key : ℕ) : Kept s (State.zoneClose s key).1 := by
  have e : @State.zoneClose = @State.zoneClose := rfl
  conv at e => rhs; delta State.zoneClose
  rw [e]; clear e
  dsimp -zeta -iota -proj -eta -zetaUnused -zetaHave -failIfUnchanged only
  repeat' first
    | with_reducible first
      | apply Kept.refl | apply Kept.via (State.leaveActive_kept ..) | apply Kept.via (State.modZone_kept ..)
    | simp -zeta -iota -proj -zetaUnused -zetaHave (disch := rfl) only [Kept.update_iff]
    | intro _
    | (extract_lets -underBinder -merge +onlyGivenNames x; refine Kept.step (b := x) ?_ ?_
       all_goals first | (intro _; clear_value x) | dsimp -zeta -iota -proj -zetaUnused -zetaHave only [x])
    | extract_lets -underBinder -merge +onlyGivenNames x
    | split
    | (clear_value x; split)

theorem State.zoneFinish_kept (s : State) (key : ℕ) (cap : ℕ) : Kept s (State.zoneFinish s key cap).1 := by
  have e : @State.zoneFinish = @State.zoneFinish := rfl
  conv at e => rhs; delta State.zoneFinish
  rw [e]; clear e
  dsimp -zeta -iota -proj -eta -zetaUnused -zetaHave -failIfUnchanged only
  repeat' first
    | with_reducible first
      | apply Kept.refl | apply Kept.via (State.leaveActive_kept ..) | apply Kept.via (State.modZone_kept ..)
    | simp -zeta -iota -proj -zetaUnused -zetaHave (disch := rfl) only [Kept.update_iff]
    | intro _
    | (extract_lets -underBinder -merge +onlyGivenNames x; refine Kept.step (b := x) ?_ ?_
       all_goals first | (intro _; clear_value x) | dsimp -zeta -iota -proj -zetaUnused -zetaHave only [x])
    | extract_lets -underBinder -merge +onlyGivenNames x
    | split
    | (clear_value x; split)

theorem State.slipAll_kept (s : State) (ns : ℕ) (z : ℕ) (lost : List ℕ) : Kept s (State.slipAll s ns z lost) := by
  have e : @State.slipAll = @State.slipAll := rfl
  conv at e => rhs; delta State.slipAll
  rw [e]; clear e
  dsimp -zeta -iota -proj -eta -zetaUnused -zetaHave -failIfUnchanged only
  repeat' first
    | with_reducible first
      | apply Kept.refl | assumption | apply Kept.via (State.modZone_kept ..) | apply Kept.via (Kept.foldl ?_ ..)
    | simp -zeta -iota -proj -zetaUnused -zetaHave (disch := rfl) only [Kept.update_iff]
    | intro _
    | (extract_lets -underBinder -merge +onlyGivenNames x; refine Kept.step (b := x) ?_ ?_
       all_goals first | (intro _; clear_value x) | dsimp -zeta -iota -proj -zetaUnused -zetaHave only [x])
    | extract_lets -underBinder -merge +onlyGivenNames x
    | split
    | (clear_value x; split)

theorem State.showStalls_kept (s : State) : Kept s (State.showStalls s) := by
  unfold State.showStalls
  repeat' with_reducible first | apply Kept.refl | apply Kept.via (State.wr_kept ..)

theorem State.discardZone_kept (s : State) (ns : ℕ) (z : ℕ) (len : ℕ) : Kept s (State.discardZone s ns z len) := by
  unfold State.discardZone
  repeat' first
    | with_reducible first
      | apply Kept.refl | apply Kept.via (State.slipAll_kept ..) | apply Kept.via (State.showStalls_kept ..)
      | apply Kept.via (State.refreshBuffer_kept ..) | apply Kept.via (State.wr_kept ..)
    | simp -zeta -iota -proj -zetaUnused -zetaHave (disch := rfl) only [Kept.update_iff]

theorem State.refreshExterns_kept (s : State) (ns : ℕ) : Kept s (State.refreshExterns s ns) := by
  have e : @State.refreshExterns = @State.refreshExterns := rfl
  conv at e => rhs; delta State.refreshExterns
  rw [e]; clear e
  dsimp -zeta -iota -proj -eta -zetaUnused -zetaHave -failIfUnchanged only
  repeat' first
    | with_reducible first
      | apply Kept.refl | assumption | apply Kept.via (State.wr_kept ..) | apply Kept.via (State.raise_kept ..)
      | apply Kept.via (Kept.foldl ?_ ..)
    | simp -zeta -iota -proj -zetaUnused -zetaHave (disch := rfl) only [Kept.update_iff]
    | intro _
    | (extract_lets -underBinder -merge +onlyGivenNames x; refine Kept.step (b := x) ?_ ?_
       all_goals first | (intro _; clear_value x) | dsimp -zeta -iota -proj -zetaUnused -zetaHave only [x])
    | extract_lets -underBinder -merge +onlyGivenNames x
    | split
    | (clear_value x; split)

theorem State.zoneReset_kept (s : State) (ns : ℕ) (z : ℕ) (cap : ℕ) : Kept s (State.zoneReset s ns z cap).1 := by
  have e : @State.zoneReset = @State.zoneReset := rfl
  conv at e => rhs; delta State.zoneReset
  rw [e]; clear e
  dsimp -zeta -iota -proj -eta -zetaUnused -zetaHave -failIfUnchanged only
  repeat' first
    | with_reducible first
      | apply Kept.refl | assumption | apply Kept.via (State.discardZone_kept ..) | apply Kept.via (State.modZone_kept ..)
      | apply Kept.via (State.refreshExterns_kept ..) | apply Kept.via (State.leaveActive_kept ..)
      | apply Kept.via (State.releaseContext_kept ..)
    | simp -zeta -iota -proj -zetaUnused -zetaHave (disch := rfl) only [Kept.update_iff]
    | intro _
    | (extract_lets -underBinder -merge +onlyGivenNames x; refine Kept.step (b := x) ?_ ?_
       all_goals first | (intro _; clear_value x) | dsimp -zeta -iota -proj -zetaUnused -zetaHave only [x])
    | extract_lets -underBinder -merge +onlyGivenNames x
    | split
    | (clear_value x; split)
    | dsimp only

theorem State.reopenZone_kept (s : State) (c : Cmd) (z : ℕ) (cap : ℕ) : Kept s (State.reopenZone s c z cap) := by
  have e : @State.reopenZone = @State.reopenZone := rfl
  conv at e => rhs; delta State.reopenZone
  rw [e]; clear e
  dsimp -zeta -iota -proj -eta -zetaUnused -zetaHave -failIfUnchanged only
  repeat' first
    | with_reducible first
      | apply Kept.refl | assumption | apply Kept.via (State.followZone_kept ..) | apply Kept.via (State.openZoneAs_kept ..)
    | simp -zeta -iota -proj -zetaUnused -zetaHave (disch := rfl) only [Kept.update_iff]
    | intro _
    | (extract_lets -underBinder -merge +onlyGivenNames x; refine Kept.step (b := x) ?_ ?_
       all_goals first | (intro _; clear_value x) | dsimp -zeta -iota -proj -zetaUnused -zetaHave only [x])
    | extract_lets -underBinder -merge +onlyGivenNames x
    | split
    | (clear_value x; split)
    | dsimp only

theorem State.zoneAct_kept (s : State) (c : Cmd) (z : ℕ) (cap : ℕ) (action : ℕ) :
    Kept s (State.zoneAct s c z cap action).1 := by
  unfold State.zoneAct
  repeat' first
    | with_reducible first
      | apply Kept.refl | apply Kept.via (State.zoneClose_kept ..) | apply Kept.via (State.zoneFinish_kept ..)
      | apply Kept.via (State.zoneOpen_kept ..) | apply Kept.via (State.zoneReset_kept ..)
      | apply Kept.via (State.reopenZone_kept ..)
    | split

theorem State.zoneCmd_kept (s : State) (c : Cmd) (action : ℕ) : Kept s (State.zoneCmd s c action) := by
  have e : @State.zoneCmd = @State.zoneCmd := rfl
  conv at e => rhs; delta State.zoneCmd
  rw [e]; clear e
  dsimp -zeta -iota -proj -eta -zetaUnused -zetaHave -failIfUnchanged only
  repeat' first
    | with_reducible first
      | apply Kept.refl | assumption | apply Kept.via (State.finish_kept ..)
      | refine Kept.via_fst (State.zoneAct_kept ..) ‹_› ?_ | apply Kept.via (State.zoneAct_kept ..)
      | apply Kept.via (State.journal_kept ..) | apply Kept.via (State.journalStall_kept ..)
      | apply Kept.via (Kept.foldl ?_ ..) | apply Kept.via (Kept.foldl_fst ?_ ..)
    | simp -zeta -iota -proj -zetaUnused -zetaHave (disch := rfl) only [Kept.update_iff]
    | intro _
    | (extract_lets -underBinder -merge +onlyGivenNames x; refine Kept.step (b := x) ?_ ?_
       all_goals first | (intro _; clear_value x) | dsimp -zeta -iota -proj -zetaUnused -zetaHave only [x])
    | extract_lets -underBinder -merge +onlyGivenNames x
    | split
    | (clear_value x; split)
    | dsimp only

theorem State.reportZones_kept (s : State) (c : Cmd) (room : ℕ) : Kept s (State.reportZones s c room) := by
  unfold State.reportZones
  repeat' first
    | with_reducible first | apply Kept.refl | apply Kept.via (State.finish_kept ..) | apply Kept.via (State.emit_kept ..)
    | split

theorem State.clearNamespace_kept (s : State) (ns : ℕ) : Kept s (State.clearNamespace s ns) := by
  unfold State.clearNamespace
  repeat' first
    | with_reducible first
      | apply Kept.refl | apply Kept.via (State.refreshBuffer_kept ..) | apply Kept.via (State.refreshZones_kept ..)
      | apply Kept.via (State.grantContexts_kept ..)
    | simp -zeta -iota -proj -zetaUnused -zetaHave (disch := rfl) only [Kept.update_iff]

theorem State.cryptoErase_kept (s : State) (ns : ℕ) : Kept s (State.cryptoErase s ns) := by
  unfold State.cryptoErase
  repeat' first
    | with_reducible first
      | apply Kept.refl | apply Kept.via (State.free_kept ..) | apply Kept.via (State.raise_kept ..)
      | apply Kept.via (State.count_kept ..) | apply Kept.via (State.journal_kept ..)
      | apply Kept.via (State.clearNamespace_kept ..)
    | simp -zeta -iota -proj -zetaUnused -zetaHave (disch := rfl) only [Kept.update_iff]

theorem State.announceFormat_kept (s : State) (c : Cmd) (l : List ℕ) : Kept s (State.announceFormat s c l) := by
  have e : @State.announceFormat = @State.announceFormat := rfl
  conv at e => rhs; delta State.announceFormat
  rw [e]; clear e
  dsimp -zeta -iota -proj -eta -zetaUnused -zetaHave -failIfUnchanged only
  repeat' first
    | with_reducible first
      | apply Kept.refl | assumption | apply Kept.via (State.modCtrl_kept ..) | apply Kept.via (State.eventAll_kept ..)
      | apply Kept.via (State.postUaAll_kept ..) | apply Kept.via (Kept.foldl ?_ ..) | apply Kept.via (Kept.foldl_fst ?_ ..)
    | simp -zeta -iota -proj -zetaUnused -zetaHave (disch := rfl) only [Kept.update_iff]
    | intro _
    | (extract_lets -underBinder -merge +onlyGivenNames x; refine Kept.step (b := x) ?_ ?_
       all_goals first | (intro _; clear_value x) | dsimp -zeta -iota -proj -zetaUnused -zetaHave only [x])
    | extract_lets -underBinder -merge +onlyGivenNames x
    | split
    | (clear_value x; split)
    | dsimp only

theorem State.formatNs_kept (s : State) (c : Cmd) (crypto : Bool) : Kept s (State.formatNs s c crypto) := by
  unfold State.formatNs
  repeat' first
    | with_reducible first
      | apply Kept.refl | apply Kept.via (State.finish_kept ..) | apply Kept.via (State.cryptoErase_kept ..)
      | apply Kept.via (State.journal_kept ..) | apply Kept.via (State.clearNamespace_kept ..)
      | apply Kept.via (State.announceFormat_kept ..)
    | split

theorem State.sanitizeAll_kept (s : State) (c : Cmd) (l : List ℕ) : Kept s (State.sanitizeAll s c l) := by
  unfold State.sanitizeAll
  repeat' first
    | with_reducible first
      | apply Kept.refl | apply Kept.via (State.finish_kept ..) | apply Kept.via (State.announceFormat_kept ..)
      | apply Kept.via (State.cryptoErase_kept ..) | apply Kept.via (Kept.foldl ?_ ..)
    | simp -zeta -iota -proj -zetaUnused -zetaHave (disch := rfl) only [Kept.update_iff]
    | intro _
    | split

theorem State.stage_kept (s : State) (ep : ℕ) (b : ℕ) (data : List ℕ) : Kept s (State.stage s ep b data) := by
  have e : @State.stage = @State.stage := rfl
  conv at e => rhs; delta State.stage
  rw [e]; clear e
  dsimp -zeta -iota -proj -eta -zetaUnused -zetaHave -failIfUnchanged only
  repeat' first
    | with_reducible first | apply Kept.refl
    | simp -zeta -iota -proj -zetaUnused -zetaHave (disch := rfl) only [Kept.update_iff]
    | intro _
    | (extract_lets -underBinder -merge +onlyGivenNames x; refine Kept.step (b := x) ?_ ?_
       all_goals first | (intro _; clear_value x) | dsimp -zeta -iota -proj -zetaUnused -zetaHave only [x])
    | extract_lets -underBinder -merge +onlyGivenNames x
    | split
    | (clear_value x; split)

theorem State.startCommit_kept (s : State) (ep : ℕ) (slot : ℕ) (action : ℕ) (t : Option ℕ) :
    Kept s (State.startCommit s ep slot action t).1 := by
  have e : @State.startCommit = @State.startCommit := rfl
  conv at e => rhs; delta State.startCommit
  rw [e]; clear e
  dsimp -zeta -iota -proj -eta -zetaUnused -zetaHave -failIfUnchanged only
  repeat' first
    | with_reducible first | apply Kept.refl | assumption | apply Kept.via (State.raise_kept ..)
    | simp -zeta -iota -proj -zetaUnused -zetaHave (disch := rfl) only [Kept.update_iff]
    | intro _
    | (extract_lets -underBinder -merge +onlyGivenNames x; refine Kept.step (b := x) ?_ ?_
       all_goals first | (intro _; clear_value x) | dsimp -zeta -iota -proj -zetaUnused -zetaHave only [x])
    | extract_lets -underBinder -merge +onlyGivenNames x
    | split
    | (clear_value x; split)
    | dsimp only

theorem State.commitRecordFor_kept (s : State) (j : UpdateJob) : Kept s (State.commitRecordFor s j) := by
  unfold State.commitRecordFor
  repeat' first
    | with_reducible first
      | apply Kept.refl | apply Kept.via (State.writeBootRecord_kept ..) | apply Kept.via (State.free_kept ..)
    | split

theorem State.stageActivation_kept (s : State) (j : UpdateJob) : Kept s (State.stageActivation s j) := by
  unfold State.stageActivation
  repeat' first
    | with_reducible first
      | apply Kept.refl | apply Kept.via (State.eventAll_kept ..) | apply Kept.via (State.postUaAll_kept ..)
    | simp -zeta -iota -proj -zetaUnused -zetaHave (disch := rfl) only [Kept.update_iff]

theorem State.updateDone_kept (s : State) : Kept s (State.updateDone s) := by
  have e : @State.updateDone = @State.updateDone := rfl
  conv at e => rhs; delta State.updateDone
  rw [e]; clear e
  dsimp -zeta -iota -proj -eta -zetaUnused -zetaHave -failIfUnchanged only
  repeat' first
    | with_reducible first
      | apply Kept.refl | assumption | apply Kept.via (State.raise_kept ..) | apply Kept.via (State.commitRecordFor_kept ..)
      | apply Kept.via (State.stageActivation_kept ..) | apply Kept.via (State.finish_kept ..)
    | simp -zeta -iota -proj -zetaUnused -zetaHave (disch := rfl) only [Kept.update_iff]
    | intro _
    | (extract_lets -underBinder -merge +onlyGivenNames x; refine Kept.step (b := x) ?_ ?_
       all_goals first | (intro _; clear_value x) | dsimp -zeta -iota -proj -zetaUnused -zetaHave only [x])
    | extract_lets -underBinder -merge +onlyGivenNames x
    | split
    | (clear_value x; split)

theorem State.hostCommit_kept (s : State) (c : Cmd) (slot : ℕ) (action : ℕ) : Kept s (State.hostCommit s c slot action) := by
  have e : @State.hostCommit = @State.hostCommit := rfl
  conv at e => rhs; delta State.hostCommit
  rw [e]; clear e
  dsimp -zeta -iota -proj -eta -zetaUnused -zetaHave -failIfUnchanged only
  repeat' first
    | with_reducible first
      | apply Kept.refl | apply Kept.via (State.finish_kept ..) | apply Kept.via (State.raise_kept ..)
      | apply Kept.via (State.startCommit_kept ..)
    | simp -zeta -iota -proj -zetaUnused -zetaHave (disch := rfl) only [Kept.update_iff]
    | intro _
    | (extract_lets -underBinder -merge +onlyGivenNames x; refine Kept.step (b := x) ?_ ?_
       all_goals first | (intro _; clear_value x) | dsimp -zeta -iota -proj -zetaUnused -zetaHave only [x])
    | extract_lets -underBinder -merge +onlyGivenNames x
    | split
    | (clear_value x; split)

end Sys2Proof.Machine
end

