-- ==== Sys2Proof/Laws/KeepsMedia.lean ====
section
/-!
SUPPORT. Laws/KeepsMedia.lean: each operation and command of Machine/Media.lean keeps what every operation keeps (`Kept`).
-/
namespace Sys2Proof.Machine

theorem State.destageZone_kept (s : State) (n : Namespace) (ns : ℕ) (zi : ℕ) (part : Bool) :
    Kept s (State.destageZone s n ns zi part) := by
  have e : @State.destageZone = @State.destageZone := rfl
  conv at e => rhs; delta State.destageZone
  rw [e]; clear e
  dsimp -zeta -iota -proj -eta -zetaUnused -zetaHave -failIfUnchanged only
  repeat' first
    | with_reducible first | apply Kept.refl | assumption | apply Kept.via (State.queueAll_kept ..)
    | simp -zeta -iota -proj -zetaUnused -zetaHave (disch := rfl) only [Kept.update_iff]
    | intro _
    | (extract_lets -underBinder -merge +onlyGivenNames x; refine Kept.step (b := x) ?_ ?_
       all_goals first | (intro _; clear_value x) | dsimp -zeta -iota -proj -zetaUnused -zetaHave only [x])
    | extract_lets -underBinder -merge +onlyGivenNames x
    | split
    | (clear_value x; split)
    | dsimp only

theorem State.destageExterns_kept (s : State) (n : ℕ) : Kept s (State.destageExterns s n) := by
  have e : @State.destageExterns = @State.destageExterns := rfl
  conv at e => rhs; delta State.destageExterns
  rw [e]; clear e
  dsimp -zeta -iota -proj -eta -zetaUnused -zetaHave -failIfUnchanged only
  repeat' first
    | with_reducible first
      | apply Kept.refl | assumption | apply Kept.via (State.queueAll_kept ..) | apply Kept.via (Kept.foldl ?_ ..)
      | apply Kept.via (Kept.foldl_fst ?_ ..)
    | simp -zeta -iota -proj -zetaUnused -zetaHave (disch := rfl) only [Kept.update_iff]
    | intro _
    | (extract_lets -underBinder -merge +onlyGivenNames x; refine Kept.step (b := x) ?_ ?_
       all_goals first | (intro _; clear_value x) | dsimp -zeta -iota -proj -zetaUnused -zetaHave only [x])
    | extract_lets -underBinder -merge +onlyGivenNames x
    | split
    | (clear_value x; split)
    | dsimp only

theorem State.destageZones_kept (s : State) (n : ℕ) : Kept s (State.destageZones s n) := by
  have e : @State.destageZones = @State.destageZones := rfl
  conv at e => rhs; delta State.destageZones
  rw [e]; clear e
  dsimp -zeta -iota -proj -eta -zetaUnused -zetaHave -failIfUnchanged only
  repeat' first
    | with_reducible first
      | apply Kept.refl | assumption | apply Kept.via (State.destageExterns_kept ..)
      | apply Kept.via (State.destageZone_kept ..) | apply Kept.via (Kept.foldl ?_ ..) | apply Kept.via (Kept.foldl_fst ?_ ..)
    | simp -zeta -iota -proj -zetaUnused -zetaHave (disch := rfl) only [Kept.update_iff]
    | intro _
    | (extract_lets -underBinder -merge +onlyGivenNames x; refine Kept.step (b := x) ?_ ?_
       all_goals first | (intro _; clear_value x) | dsimp -zeta -iota -proj -zetaUnused -zetaHave only [x])
    | extract_lets -underBinder -merge +onlyGivenNames x
    | split
    | (clear_value x; split)
    | dsimp only

theorem State.placeOld_kept (s : State) (ns : ℕ) (b : ℕ) (data : ℕ) (bad : Bool) : Kept s (State.placeOld s ns b data bad) := by
  have e : @State.placeOld = @State.placeOld := rfl
  conv at e => rhs; delta State.placeOld
  rw [e]; clear e
  dsimp -zeta -iota -proj -eta -zetaUnused -zetaHave -failIfUnchanged only
  repeat' first
    | with_reducible first | apply Kept.refl | assumption
    | simp -zeta -iota -proj -zetaUnused -zetaHave (disch := rfl) only [Kept.update_iff]
    | intro _
    | (extract_lets -underBinder -merge +onlyGivenNames x; refine Kept.step (b := x) ?_ ?_
       all_goals first | (intro _; clear_value x) | dsimp -zeta -iota -proj -zetaUnused -zetaHave only [x])
    | extract_lets -underBinder -merge +onlyGivenNames x
    | split
    | (clear_value x; split)
    | dsimp only

theorem State.mergeReads_kept (s : State) (units : List (ℕ × ℕ)) : Kept s (State.mergeReads s units) := by
  have e : @State.mergeReads = @State.mergeReads := rfl
  conv at e => rhs; delta State.mergeReads
  rw [e]; clear e
  dsimp -zeta -iota -proj -eta -zetaUnused -zetaHave -failIfUnchanged only
  repeat' first
    | with_reducible first
      | apply Kept.refl | assumption | apply Kept.via (State.placeOld_kept ..) | apply Kept.via (State.planReads_kept ..)
      | apply Kept.via (Kept.foldl ?_ ..) | apply Kept.via (Kept.foldl_fst ?_ ..)
    | simp -zeta -iota -proj -zetaUnused -zetaHave (disch := rfl) only [Kept.update_iff]
    | intro _
    | (extract_lets -underBinder -merge +onlyGivenNames x; refine Kept.step (b := x) ?_ ?_
       all_goals first | (intro _; clear_value x) | dsimp -zeta -iota -proj -zetaUnused -zetaHave only [x])
    | extract_lets -underBinder -merge +onlyGivenNames x
    | split
    | (clear_value x; split)
    | dsimp only

theorem State.cleanReads_kept (s : State) : Kept s (State.cleanReads s) := by
  have e : @State.cleanReads = @State.cleanReads := rfl
  conv at e => rhs; delta State.cleanReads
  rw [e]; clear e
  dsimp -zeta -iota -proj -eta -zetaUnused -zetaHave -failIfUnchanged only
  repeat' first
    | with_reducible first
      | apply Kept.refl | assumption | apply Kept.via (State.queueAll_kept ..) | apply Kept.via (Kept.foldl ?_ ..)
      | apply Kept.via (Kept.foldl_fst ?_ ..)
    | simp -zeta -iota -proj -zetaUnused -zetaHave (disch := rfl) only [Kept.update_iff]
    | intro _
    | (extract_lets -underBinder -merge +onlyGivenNames x; refine Kept.step (b := x) ?_ ?_
       all_goals first | (intro _; clear_value x) | dsimp -zeta -iota -proj -zetaUnused -zetaHave only [x])
    | extract_lets -underBinder -merge +onlyGivenNames x
    | split
    | (clear_value x; split)
    | dsimp only

theorem State.destageLog_kept (s : State) (n : ℕ) (at_ : ℕ) (room : ℕ) : Kept s (State.destageLog s n at_ room) := by
  have e : @State.destageLog = @State.destageLog := rfl
  conv at e => rhs; delta State.destageLog
  rw [e]; clear e
  dsimp -zeta -iota -proj -eta -zetaUnused -zetaHave -failIfUnchanged only
  repeat' first
    | with_reducible first
      | apply Kept.refl | assumption | apply Kept.via (State.mergeReads_kept ..) | apply Kept.via (State.queueAll_kept ..)
      | apply Kept.via (State.queueOp_kept ..)
    | simp -zeta -iota -proj -zetaUnused -zetaHave (disch := rfl) only [Kept.update_iff]
    | intro _
    | (extract_lets -underBinder -merge +onlyGivenNames x; refine Kept.step (b := x) ?_ ?_
       all_goals first | (intro _; clear_value x) | dsimp -zeta -iota -proj -zetaUnused -zetaHave only [x])
    | extract_lets -underBinder -merge +onlyGivenNames x
    | split
    | (clear_value x; split)
    | dsimp only

theorem State.convBands_kept (s : State) (free : ℕ) (clean : List (ℕ × ℕ)) : Kept s (State.convBands s free clean) := by
  have e : @State.convBands = @State.convBands := rfl
  conv at e => rhs; delta State.convBands
  rw [e]; clear e
  dsimp -zeta -iota -proj -eta -zetaUnused -zetaHave -failIfUnchanged only
  repeat' first
    | with_reducible first
      | apply Kept.refl | assumption | apply Kept.via (State.wr_kept ..) | apply Kept.via (State.wrFlag_kept ..)
      | apply Kept.via (State.cleanReads_kept ..)
    | simp -zeta -iota -proj -zetaUnused -zetaHave (disch := rfl) only [Kept.update_iff]
    | intro _
    | (extract_lets -underBinder -merge +onlyGivenNames x; refine Kept.step (b := x) ?_ ?_
       all_goals first | (intro _; clear_value x) | dsimp -zeta -iota -proj -zetaUnused -zetaHave only [x])
    | extract_lets -underBinder -merge +onlyGivenNames x
    | split
    | (clear_value x; split)
    | dsimp only

theorem State.failWrite_kept (s : State) (o : MediaOp) : Kept s (State.failWrite s o) := by
  have e : @State.failWrite = @State.failWrite := rfl
  conv at e => rhs; delta State.failWrite
  rw [e]; clear e
  dsimp -zeta -iota -proj -eta -zetaUnused -zetaHave -failIfUnchanged only
  repeat' first
    | with_reducible first | apply Kept.refl | assumption
    | simp -zeta -iota -proj -zetaUnused -zetaHave (disch := rfl) only [Kept.update_iff]
    | intro _
    | (extract_lets -underBinder -merge +onlyGivenNames x; refine Kept.step (b := x) ?_ ?_
       all_goals first | (intro _; clear_value x) | dsimp -zeta -iota -proj -zetaUnused -zetaHave only [x])
    | extract_lets -underBinder -merge +onlyGivenNames x
    | split
    | (clear_value x; split)
    | dsimp only

theorem State.advanceWritten_kept (s : State) (n : Namespace) (ns : ℕ) (zi : ℕ) (fuel : ℕ) :
    Kept s (State.advanceWritten s n ns zi fuel) := by
  induction fuel generalizing s with
  | zero => exact Kept.refl s
  | succ fuel ih =>
    rw [State.advanceWritten]
    split
    · exact Kept.trans (State.modZone_kept ..) (ih _)
    · exact Kept.refl s

theorem State.freeZone_kept (s : State) (n : Namespace) (ns : ℕ) (zi : ℕ) : Kept s (State.freeZone s n ns zi) := by
  have e : @State.freeZone = @State.freeZone := rfl
  conv at e => rhs; delta State.freeZone
  rw [e]; clear e
  dsimp -zeta -iota -proj -eta -zetaUnused -zetaHave -failIfUnchanged only
  repeat' first
    | with_reducible first
      | apply Kept.refl | assumption | apply Kept.via (Kept.foldl ?_ ..) | apply Kept.via (Kept.foldl_fst ?_ ..)
    | simp -zeta -iota -proj -zetaUnused -zetaHave (disch := rfl) only [Kept.update_iff]
    | intro _
    | (extract_lets -underBinder -merge +onlyGivenNames x; refine Kept.step (b := x) ?_ ?_
       all_goals first | (intro _; clear_value x) | dsimp -zeta -iota -proj -zetaUnused -zetaHave only [x])
    | extract_lets -underBinder -merge +onlyGivenNames x
    | split
    | (clear_value x; split)
    | dsimp only

theorem State.zoneWritten_kept (s : State) (n : Namespace) (ns : ℕ) (zi : ℕ) (o : MediaOp) :
    Kept s (State.zoneWritten s n ns zi o) := by
  have e : @State.zoneWritten = @State.zoneWritten := rfl
  conv at e => rhs; delta State.zoneWritten
  rw [e]; clear e
  dsimp -zeta -iota -proj -eta -zetaUnused -zetaHave -failIfUnchanged only
  repeat' first
    | with_reducible first
      | apply Kept.refl | assumption | apply Kept.via (State.advanceWritten_kept ..) | apply Kept.via (State.freeZone_kept ..)
    | simp -zeta -iota -proj -zetaUnused -zetaHave (disch := rfl) only [Kept.update_iff]
    | intro _
    | (extract_lets -underBinder -merge +onlyGivenNames x; refine Kept.step (b := x) ?_ ?_
       all_goals first | (intro _; clear_value x) | dsimp -zeta -iota -proj -zetaUnused -zetaHave only [x])
    | extract_lets -underBinder -merge +onlyGivenNames x
    | split
    | (clear_value x; split)
    | dsimp only

theorem State.logWritten_kept (s : State) (o : MediaOp) : Kept s (State.logWritten s o) := by
  have e : @State.logWritten = @State.logWritten := rfl
  conv at e => rhs; delta State.logWritten
  rw [e]; clear e
  dsimp -zeta -iota -proj -eta -zetaUnused -zetaHave -failIfUnchanged only
  repeat' first
    | with_reducible first
      | apply Kept.refl | assumption | apply Kept.via (State.journal_kept ..) | apply Kept.via (Kept.foldl ?_ ..)
      | apply Kept.via (Kept.foldl_fst ?_ ..)
    | simp -zeta -iota -proj -zetaUnused -zetaHave (disch := rfl) only [Kept.update_iff]
    | intro _
    | (extract_lets -underBinder -merge +onlyGivenNames x; refine Kept.step (b := x) ?_ ?_
       all_goals first | (intro _; clear_value x) | dsimp -zeta -iota -proj -zetaUnused -zetaHave only [x])
    | extract_lets -underBinder -merge +onlyGivenNames x
    | split
    | (clear_value x; split)
    | dsimp only

theorem State.writeDoneOp_kept (s : State) (o : MediaOp) : Kept s (State.writeDoneOp s o) := by
  have e : @State.writeDoneOp = @State.writeDoneOp := rfl
  conv at e => rhs; delta State.writeDoneOp
  rw [e]; clear e
  dsimp -zeta -iota -proj -eta -zetaUnused -zetaHave -failIfUnchanged only
  repeat' first
    | with_reducible first
      | apply Kept.refl | assumption | apply Kept.via (State.refreshBuffer_kept ..)
      | apply Kept.via (State.zoneWritten_kept ..) | apply Kept.via (State.logWritten_kept ..)
      | apply Kept.via (State.journalStall_kept ..)
    | simp -zeta -iota -proj -zetaUnused -zetaHave (disch := rfl) only [Kept.update_iff]
    | intro _
    | (extract_lets -underBinder -merge +onlyGivenNames x; refine Kept.step (b := x) ?_ ?_
       all_goals first | (intro _; clear_value x) | dsimp -zeta -iota -proj -zetaUnused -zetaHave only [x])
    | extract_lets -underBinder -merge +onlyGivenNames x
    | split
    | (clear_value x; split)
    | dsimp only

theorem State.reformWrite_kept (s : State) (o : MediaOp) : Kept s (State.reformWrite s o) := by
  have e : @State.reformWrite = @State.reformWrite := rfl
  conv at e => rhs; delta State.reformWrite
  rw [e]; clear e
  dsimp -zeta -iota -proj -eta -zetaUnused -zetaHave -failIfUnchanged only
  repeat' first
    | with_reducible first
      | apply Kept.refl | assumption | apply Kept.via (State.wr_kept ..) | apply Kept.via (State.modZone_kept ..)
    | simp -zeta -iota -proj -zetaUnused -zetaHave (disch := rfl) only [Kept.update_iff]
    | intro _
    | (extract_lets -underBinder -merge +onlyGivenNames x; refine Kept.step (b := x) ?_ ?_
       all_goals first | (intro _; clear_value x) | dsimp -zeta -iota -proj -zetaUnused -zetaHave only [x])
    | extract_lets -underBinder -merge +onlyGivenNames x
    | split
    | (clear_value x; split)
    | dsimp only

theorem State.reformWrites_kept (s : State) : Kept s (State.reformWrites s) := by
  have e : @State.reformWrites = @State.reformWrites := rfl
  conv at e => rhs; delta State.reformWrites
  rw [e]; clear e
  dsimp -zeta -iota -proj -eta -zetaUnused -zetaHave -failIfUnchanged only
  repeat' first
    | with_reducible first
      | apply Kept.refl | assumption | apply Kept.via (State.reformWrite_kept ..) | apply Kept.via (Kept.foldl ?_ ..)
      | apply Kept.via (Kept.foldl_fst ?_ ..)
    | simp -zeta -iota -proj -zetaUnused -zetaHave (disch := rfl) only [Kept.update_iff]
    | intro _
    | (extract_lets -underBinder -merge +onlyGivenNames x; refine Kept.step (b := x) ?_ ?_
       all_goals first | (intro _; clear_value x) | dsimp -zeta -iota -proj -zetaUnused -zetaHave only [x])
    | extract_lets -underBinder -merge +onlyGivenNames x
    | split
    | (clear_value x; split)
    | dsimp only

theorem State.reportOp_kept (s : State) (o : MediaOp) (done : Bool) (not : List ℕ) : Kept s (State.reportOp s o done not) := by
  have e : @State.reportOp = @State.reportOp := rfl
  conv at e => rhs; delta State.reportOp
  rw [e]; clear e
  dsimp -zeta -iota -proj -eta -zetaUnused -zetaHave -failIfUnchanged only
  repeat' first
    | with_reducible first
      | apply Kept.refl | assumption | apply Kept.via (State.writeDoneOp_kept ..) | apply Kept.via (State.failWrite_kept ..)
      | apply Kept.via (State.queueOp_kept ..) | apply Kept.via (Kept.foldl ?_ ..) | apply Kept.via (Kept.foldl_fst ?_ ..)
    | simp -zeta -iota -proj -zetaUnused -zetaHave (disch := rfl) only [Kept.update_iff]
    | intro _
    | (extract_lets -underBinder -merge +onlyGivenNames x; refine Kept.step (b := x) ?_ ?_
       all_goals first | (intro _; clear_value x) | dsimp -zeta -iota -proj -zetaUnused -zetaHave only [x])
    | extract_lets -underBinder -merge +onlyGivenNames x
    | split
    | (clear_value x; split)
    | dsimp only

theorem State.issue_kept (s : State) (n : ℕ) (i : Issued) : Kept s (State.issue s n i) := by
  have e : @State.issue = @State.issue := rfl
  conv at e => rhs; delta State.issue
  rw [e]; clear e
  dsimp -zeta -iota -proj -eta -zetaUnused -zetaHave -failIfUnchanged only
  repeat' first
    | with_reducible first
      | apply Kept.refl | assumption | apply Kept.via (State.wr_kept ..) | apply Kept.via (State.modFsq_kept ..)
    | simp -zeta -iota -proj -zetaUnused -zetaHave (disch := rfl) only [Kept.update_iff]
    | intro _
    | (extract_lets -underBinder -merge +onlyGivenNames x; refine Kept.step (b := x) ?_ ?_
       all_goals first | (intro _; clear_value x) | dsimp -zeta -iota -proj -zetaUnused -zetaHave only [x])
    | extract_lets -underBinder -merge +onlyGivenNames x
    | split
    | (clear_value x; split)
    | dsimp only

theorem State.issueQueued_kept (s : State) (n : ℕ) (reach : List ℕ) (pl : MediaPlace) :
    Kept s (State.issueQueued s n reach pl) := by
  have e : @State.issueQueued = @State.issueQueued := rfl
  conv at e => rhs; delta State.issueQueued
  rw [e]; clear e
  dsimp -zeta -iota -proj -eta -zetaUnused -zetaHave -failIfUnchanged only
  repeat' first
    | with_reducible first
      | apply Kept.refl | assumption | apply Kept.via (State.wr_kept ..) | apply Kept.via (State.issue_kept ..)
    | simp -zeta -iota -proj -zetaUnused -zetaHave (disch := rfl) only [Kept.update_iff]
    | intro _
    | (extract_lets -underBinder -merge +onlyGivenNames x; refine Kept.step (b := x) ?_ ?_
       all_goals first | (intro _; clear_value x) | dsimp -zeta -iota -proj -zetaUnused -zetaHave only [x])
    | extract_lets -underBinder -merge +onlyGivenNames x
    | split
    | (clear_value x; split)
    | dsimp only

theorem State.changeZone_kept (s : State) (ns : ℕ) (zi : ℕ) (c : ZoneCond) : Kept s (State.changeZone s ns zi c) := by
  have e : @State.changeZone = @State.changeZone := rfl
  conv at e => rhs; delta State.changeZone
  rw [e]; clear e
  dsimp -zeta -iota -proj -eta -zetaUnused -zetaHave -failIfUnchanged only
  repeat' first
    | with_reducible first
      | apply Kept.refl | assumption | apply Kept.via (State.leaveActive_kept ..) | apply Kept.via (State.asyncEvent_kept ..)
      | apply Kept.via (State.modCtrl_kept ..) | apply Kept.via (Kept.foldl ?_ ..) | apply Kept.via (Kept.foldl_fst ?_ ..)
    | simp -zeta -iota -proj -zetaUnused -zetaHave (disch := rfl) only [Kept.update_iff]
    | intro _
    | (extract_lets -underBinder -merge +onlyGivenNames x; refine Kept.step (b := x) ?_ ?_
       all_goals first | (intro _; clear_value x) | dsimp -zeta -iota -proj -zetaUnused -zetaHave only [x])
    | extract_lets -underBinder -merge +onlyGivenNames x
    | split
    | (clear_value x; split)
    | dsimp only

theorem State.zoneFailed_kept (s : State) (n : Namespace) (ns : ℕ) (zi : ℕ) : Kept s (State.zoneFailed s n ns zi) := by
  have e : @State.zoneFailed = @State.zoneFailed := rfl
  conv at e => rhs; delta State.zoneFailed
  rw [e]; clear e
  dsimp -zeta -iota -proj -eta -zetaUnused -zetaHave -failIfUnchanged only
  repeat' first
    | with_reducible first
      | apply Kept.refl | assumption | apply Kept.via (State.discardZone_kept ..) | apply Kept.via (State.leaveActive_kept ..)
      | apply Kept.via (State.releaseContext_kept ..)
    | simp -zeta -iota -proj -zetaUnused -zetaHave (disch := rfl) only [Kept.update_iff]
    | intro _
    | (extract_lets -underBinder -merge +onlyGivenNames x; refine Kept.step (b := x) ?_ ?_
       all_goals first | (intro _; clear_value x) | dsimp -zeta -iota -proj -zetaUnused -zetaHave only [x])
    | extract_lets -underBinder -merge +onlyGivenNames x
    | split
    | (clear_value x; split)
    | dsimp only

theorem State.refuseBlock_kept (s : State) (ns : ℕ) (b : ℕ) (readers : List Cmd) :
    Kept s (State.refuseBlock s ns b readers) := by
  have e : @State.refuseBlock = @State.refuseBlock := rfl
  conv at e => rhs; delta State.refuseBlock
  rw [e]; clear e
  dsimp -zeta -iota -proj -eta -zetaUnused -zetaHave -failIfUnchanged only
  repeat' first
    | with_reducible first
      | apply Kept.refl | assumption | apply Kept.via (State.deliver_kept ..) | apply Kept.via (Kept.foldl ?_ ..)
      | apply Kept.via (Kept.foldl_fst ?_ ..)
    | simp -zeta -iota -proj -zetaUnused -zetaHave (disch := rfl) only [Kept.update_iff]
    | intro _
    | (extract_lets -underBinder -merge +onlyGivenNames x; refine Kept.step (b := x) ?_ ?_
       all_goals first | (intro _; clear_value x) | dsimp -zeta -iota -proj -zetaUnused -zetaHave only [x])
    | extract_lets -underBinder -merge +onlyGivenNames x
    | split
    | (clear_value x; split)
    | dsimp only

theorem State.refuseSector_kept (s : State) (v : Serve) : Kept s (State.refuseSector s v) := by
  have e : @State.refuseSector = @State.refuseSector := rfl
  conv at e => rhs; delta State.refuseSector
  rw [e]; clear e
  dsimp -zeta -iota -proj -eta -zetaUnused -zetaHave -failIfUnchanged only
  repeat' first
    | with_reducible first
      | apply Kept.refl | assumption | apply Kept.via (State.refuseBlock_kept ..) | apply Kept.via (Kept.foldl ?_ ..)
      | apply Kept.via (Kept.foldl_fst ?_ ..)
    | simp -zeta -iota -proj -zetaUnused -zetaHave (disch := rfl) only [Kept.update_iff]
    | intro _
    | (extract_lets -underBinder -merge +onlyGivenNames x; refine Kept.step (b := x) ?_ ?_
       all_goals first | (intro _; clear_value x) | dsimp -zeta -iota -proj -zetaUnused -zetaHave only [x])
    | extract_lets -underBinder -merge +onlyGivenNames x
    | split
    | (clear_value x; split)
    | dsimp only

theorem State.endWaiting_kept (s : State) (o : MediaOp) : Kept s (State.endWaiting s o) := by
  have e : @State.endWaiting = @State.endWaiting := rfl
  conv at e => rhs; delta State.endWaiting
  rw [e]; clear e
  dsimp -zeta -iota -proj -eta -zetaUnused -zetaHave -failIfUnchanged only
  repeat' first
    | with_reducible first
      | apply Kept.refl | assumption | apply Kept.via (State.failWrite_kept ..) | apply Kept.via (State.refuseSector_kept ..)
      | apply Kept.via (Kept.foldl ?_ ..) | apply Kept.via (Kept.foldl_fst ?_ ..)
    | simp -zeta -iota -proj -zetaUnused -zetaHave (disch := rfl) only [Kept.update_iff]
    | intro _
    | (extract_lets -underBinder -merge +onlyGivenNames x; refine Kept.step (b := x) ?_ ?_
       all_goals first | (intro _; clear_value x) | dsimp -zeta -iota -proj -zetaUnused -zetaHave only [x])
    | extract_lets -underBinder -merge +onlyGivenNames x
    | split
    | (clear_value x; split)
    | dsimp only

theorem State.qualify_kept (s : State) (r : Reloc) : Kept s (State.qualify s r) := by
  have e : @State.qualify = @State.qualify := rfl
  conv at e => rhs; delta State.qualify
  rw [e]; clear e
  dsimp -zeta -iota -proj -eta -zetaUnused -zetaHave -failIfUnchanged only
  repeat' first
    | with_reducible first | apply Kept.refl | assumption | apply Kept.via (State.count_kept ..)
    | simp -zeta -iota -proj -zetaUnused -zetaHave (disch := rfl) only [Kept.update_iff]
    | intro _
    | (extract_lets -underBinder -merge +onlyGivenNames x; refine Kept.step (b := x) ?_ ?_
       all_goals first | (intro _; clear_value x) | dsimp -zeta -iota -proj -zetaUnused -zetaHave only [x])
    | extract_lets -underBinder -merge +onlyGivenNames x
    | split
    | (clear_value x; split)
    | dsimp only

theorem State.watchBlind_kept (s : State) (r : Reloc) : Kept s (State.watchBlind s r) := by
  have e : @State.watchBlind = @State.watchBlind := rfl
  conv at e => rhs; delta State.watchBlind
  rw [e]; clear e
  dsimp -zeta -iota -proj -eta -zetaUnused -zetaHave -failIfUnchanged only
  repeat' first
    | with_reducible first
      | apply Kept.refl | assumption | apply Kept.via (State.qualify_kept ..) | apply Kept.via (State.wr_kept ..)
    | simp -zeta -iota -proj -zetaUnused -zetaHave (disch := rfl) only [Kept.update_iff]
    | intro _
    | (extract_lets -underBinder -merge +onlyGivenNames x; refine Kept.step (b := x) ?_ ?_
       all_goals first | (intro _; clear_value x) | dsimp -zeta -iota -proj -zetaUnused -zetaHave only [x])
    | extract_lets -underBinder -merge +onlyGivenNames x
    | split
    | (clear_value x; split)
    | dsimp only

theorem execMapLoad_kept (s : State) : KeptBy s (execMapLoad s) := by
  have e : @execMapLoad = @execMapLoad := rfl
  conv at e => rhs; delta execMapLoad
  rw [e]; clear e
  dsimp -zeta -iota -proj -eta -zetaUnused -zetaHave -failIfUnchanged only
  repeat' first
    | with_reducible first
      | refine KeptBy.next ?_ | apply Kept.refl | assumption | apply Kept.via (State.refreshZones_kept ..)
      | apply Kept.via (State.wr_kept ..)
    | simp -zeta -iota -proj -zetaUnused -zetaHave (disch := rfl) only [Kept.update_iff]
    | intro _
    | (extract_lets -underBinder -merge +onlyGivenNames x; refine Kept.step (b := x) ?_ ?_
       all_goals first | (intro _; clear_value x) | dsimp -zeta -iota -proj -zetaUnused -zetaHave only [x])
    | extract_lets -underBinder -merge +onlyGivenNames x
    | split
    | (clear_value x; split)
    | dsimp only

theorem execBufferReserve_kept (s : State) : KeptBy s (execBufferReserve s) := by
  have e : @execBufferReserve = @execBufferReserve := rfl
  conv at e => rhs; delta execBufferReserve
  rw [e]; clear e
  dsimp -zeta -iota -proj -eta -zetaUnused -zetaHave -failIfUnchanged only
  repeat' first
    | with_reducible first
      | refine KeptBy.next ?_ | apply Kept.refl | assumption | apply Kept.via (State.reserveNext_kept ..)
    | simp -zeta -iota -proj -zetaUnused -zetaHave (disch := rfl) only [Kept.update_iff]
    | intro _
    | (extract_lets -underBinder -merge +onlyGivenNames x; refine Kept.step (b := x) ?_ ?_
       all_goals first | (intro _; clear_value x) | dsimp -zeta -iota -proj -zetaUnused -zetaHave only [x])
    | extract_lets -underBinder -merge +onlyGivenNames x
    | split
    | (clear_value x; split)
    | dsimp only

theorem execWriteContextRelease_kept (ns : BitVec 5) (zone : BitVec 20) (s : State) :
    KeptBy s (execWriteContextRelease ns zone s) := by
  have e : @execWriteContextRelease = @execWriteContextRelease := rfl
  conv at e => rhs; delta execWriteContextRelease
  rw [e]; clear e
  dsimp -zeta -iota -proj -eta -zetaUnused -zetaHave -failIfUnchanged only
  repeat' first
    | with_reducible first
      | refine KeptBy.next ?_ | apply Kept.refl | assumption | apply Kept.via (State.releaseContext_kept ..)
    | simp -zeta -iota -proj -zetaUnused -zetaHave (disch := rfl) only [Kept.update_iff]
    | intro _
    | (extract_lets -underBinder -merge +onlyGivenNames x; refine Kept.step (b := x) ?_ ?_
       all_goals first | (intro _; clear_value x) | dsimp -zeta -iota -proj -zetaUnused -zetaHave only [x])
    | extract_lets -underBinder -merge +onlyGivenNames x
    | split
    | (clear_value x; split)
    | dsimp only

theorem execMediaOpIssue_kept (n : Fin 4) (reach : List (BitVec 13)) (place : MediaPlace) (control : Option OpDesc) (s : State) :
    KeptBy s (execMediaOpIssue n reach place control s) := by
  have e : @execMediaOpIssue = @execMediaOpIssue := rfl
  conv at e => rhs; delta execMediaOpIssue
  rw [e]; clear e
  dsimp -zeta -iota -proj -eta -zetaUnused -zetaHave -failIfUnchanged only
  repeat' first
    | with_reducible first
      | refine KeptBy.next ?_ | apply Kept.refl | assumption | apply Kept.via (State.reformWrites_kept ..)
      | apply Kept.via (State.convBands_kept ..) | apply Kept.via (State.destageZones_kept ..)
      | apply Kept.via (State.destageLog_kept ..) | apply Kept.via (State.issue_kept ..)
      | apply Kept.via (State.issueQueued_kept ..)
    | simp -zeta -iota -proj -zetaUnused -zetaHave (disch := rfl) only [Kept.update_iff]
    | intro _
    | (extract_lets -underBinder -merge +onlyGivenNames x; refine Kept.step (b := x) ?_ ?_
       all_goals first | (intro _; clear_value x) | dsimp -zeta -iota -proj -zetaUnused -zetaHave only [x])
    | extract_lets -underBinder -merge +onlyGivenNames x
    | split
    | (clear_value x; split)
    | dsimp only

theorem execJournalSegmentWrite_kept (s : State) : KeptBy s (execJournalSegmentWrite s) := by
  have e : @execJournalSegmentWrite = @execJournalSegmentWrite := rfl
  conv at e => rhs; delta execJournalSegmentWrite
  rw [e]; clear e
  dsimp -zeta -iota -proj -eta -zetaUnused -zetaHave -failIfUnchanged only
  repeat' first
    | with_reducible first
      | refine KeptBy.next ?_ | apply Kept.refl | assumption | apply Kept.via (State.writeDoneOp_kept ..)
      | apply Kept.via (State.wr_kept ..) | apply Kept.via (Kept.foldl ?_ ..) | apply Kept.via (Kept.foldl_fst ?_ ..)
    | simp -zeta -iota -proj -zetaUnused -zetaHave (disch := rfl) only [Kept.update_iff]
    | intro _
    | (extract_lets -underBinder -merge +onlyGivenNames x; refine Kept.step (b := x) ?_ ?_
       all_goals first | (intro _; clear_value x) | dsimp -zeta -iota -proj -zetaUnused -zetaHave only [x])
    | extract_lets -underBinder -merge +onlyGivenNames x
    | split
    | (clear_value x; split)
    | dsimp only

theorem execMapCheckpoint_kept (s : State) : KeptBy s (execMapCheckpoint s) := by
  have e : @execMapCheckpoint = @execMapCheckpoint := rfl
  conv at e => rhs; delta execMapCheckpoint
  rw [e]; clear e
  dsimp -zeta -iota -proj -eta -zetaUnused -zetaHave -failIfUnchanged only
  repeat' first
    | with_reducible first | refine KeptBy.next ?_ | apply Kept.refl | assumption
    | simp -zeta -iota -proj -zetaUnused -zetaHave (disch := rfl) only [Kept.update_iff]
    | intro _
    | (extract_lets -underBinder -merge +onlyGivenNames x; refine Kept.step (b := x) ?_ ?_
       all_goals first | (intro _; clear_value x) | dsimp -zeta -iota -proj -zetaUnused -zetaHave only [x])
    | extract_lets -underBinder -merge +onlyGivenNames x
    | split
    | (clear_value x; split)
    | dsimp only

theorem execRelocateSector_kept (surface : Fin 32) (track : BitVec 24) (sector : BitVec 12) (spareTrack : BitVec 24) (spareSector : BitVec 12) (s : State) :
    KeptBy s (execRelocateSector surface track sector spareTrack spareSector s) := by
  have e : @execRelocateSector = @execRelocateSector := rfl
  conv at e => rhs; delta execRelocateSector
  rw [e]; clear e
  dsimp -zeta -iota -proj -eta -zetaUnused -zetaHave -failIfUnchanged only
  repeat' first
    | with_reducible first
      | refine KeptBy.next ?_ | apply Kept.refl | assumption | apply Kept.via (State.count_kept ..)
      | apply Kept.via (State.journalStall_kept ..) | apply Kept.via (State.journal_kept ..)
      | apply Kept.via (State.wr_kept ..)
    | simp -zeta -iota -proj -zetaUnused -zetaHave (disch := rfl) only [Kept.update_iff]
    | intro _
    | (extract_lets -underBinder -merge +onlyGivenNames x; refine Kept.step (b := x) ?_ ?_
       all_goals first | (intro _; clear_value x) | dsimp -zeta -iota -proj -zetaUnused -zetaHave only [x])
    | extract_lets -underBinder -merge +onlyGivenNames x
    | split
    | (clear_value x; split)
    | dsimp only

theorem State.zonesFailed_kept (s : State) (n : ℕ) : Kept s (State.zonesFailed s n) := by
  have e : @State.zonesFailed = @State.zonesFailed := rfl
  conv at e => rhs; delta State.zonesFailed
  rw [e]; clear e
  dsimp -zeta -iota -proj -eta -zetaUnused -zetaHave -failIfUnchanged only
  repeat' first
    | with_reducible first
      | apply Kept.refl | assumption | apply Kept.via (State.zoneFailed_kept ..) | apply Kept.via (Kept.foldl ?_ ..)
      | apply Kept.via (Kept.foldl_fst ?_ ..)
    | simp -zeta -iota -proj -zetaUnused -zetaHave (disch := rfl) only [Kept.update_iff]
    | intro _
    | (extract_lets -underBinder -merge +onlyGivenNames x; refine Kept.step (b := x) ?_ ?_
       all_goals first | (intro _; clear_value x) | dsimp -zeta -iota -proj -zetaUnused -zetaHave only [x])
    | extract_lets -underBinder -merge +onlyGivenNames x
    | split
    | (clear_value x; split)
    | dsimp only

theorem State.actuatorLost_kept (s : State) (n : ℕ) : Kept s (State.actuatorLost s n) := by
  have e : @State.actuatorLost = @State.actuatorLost := rfl
  conv at e => rhs; delta State.actuatorLost
  rw [e]; clear e
  dsimp -zeta -iota -proj -eta -zetaUnused -zetaHave -failIfUnchanged only
  repeat' first
    | with_reducible first
      | apply Kept.refl | assumption | apply Kept.via (State.endWaiting_kept ..) | apply Kept.via (State.wr_kept ..)
      | apply Kept.via (State.refreshBuffer_kept ..) | apply Kept.via (State.writeShort_kept ..)
      | apply Kept.via (Kept.foldl ?_ ..) | apply Kept.via (Kept.foldl_fst ?_ ..)
    | simp -zeta -iota -proj -zetaUnused -zetaHave (disch := rfl) only [Kept.update_iff]
    | intro _
    | (extract_lets -underBinder -merge +onlyGivenNames x; refine Kept.step (b := x) ?_ ?_
       all_goals first | (intro _; clear_value x) | dsimp -zeta -iota -proj -zetaUnused -zetaHave only [x])
    | extract_lets -underBinder -merge +onlyGivenNames x
    | split
    | (clear_value x; split)
    | dsimp only

theorem execActuatorFailDeclare_kept (n : Fin 4) (s : State) : KeptBy s (execActuatorFailDeclare n s) := by
  have e : @execActuatorFailDeclare = @execActuatorFailDeclare := rfl
  conv at e => rhs; delta execActuatorFailDeclare
  rw [e]; clear e
  dsimp -zeta -iota -proj -eta -zetaUnused -zetaHave -failIfUnchanged only
  repeat' first
    | with_reducible first
      | refine KeptBy.next ?_ | apply Kept.refl | assumption | apply Kept.via (State.access_kept (h_k := ?_) ..)
      | apply Kept.via (State.actuatorLost_kept ..) | apply Kept.via (State.zonesFailed_kept ..)
      | apply Kept.via (State.wr_kept ..)
    | simp -zeta -iota -proj -zetaUnused -zetaHave (disch := rfl) only [Kept.update_iff]
    | intro _
    | (extract_lets -underBinder -merge +onlyGivenNames x; refine Kept.step (b := x) ?_ ?_
       all_goals first | (intro _; clear_value x) | dsimp -zeta -iota -proj -zetaUnused -zetaHave only [x])
    | extract_lets -underBinder -merge +onlyGivenNames x
    | split
    | (clear_value x; split)
    | dsimp only

theorem execHeadDeclaredUnable_kept (head : Fin 32) (read : Bool) (s : State) :
    KeptBy s (execHeadDeclaredUnable head read s) := by
  have e : @execHeadDeclaredUnable = @execHeadDeclaredUnable := rfl
  conv at e => rhs; delta execHeadDeclaredUnable
  rw [e]; clear e
  dsimp -zeta -iota -proj -eta -zetaUnused -zetaHave -failIfUnchanged only
  repeat' first
    | with_reducible first
      | refine KeptBy.next ?_ | apply Kept.refl | assumption | apply Kept.via (State.changeZone_kept ..)
      | apply Kept.via (Kept.foldl ?_ ..) | apply Kept.via (Kept.foldl_fst ?_ ..)
    | simp -zeta -iota -proj -zetaUnused -zetaHave (disch := rfl) only [Kept.update_iff]
    | intro _
    | (extract_lets -underBinder -merge +onlyGivenNames x; refine Kept.step (b := x) ?_ ?_
       all_goals first | (intro _; clear_value x) | dsimp -zeta -iota -proj -zetaUnused -zetaHave only [x])
    | extract_lets -underBinder -merge +onlyGivenNames x
    | split
    | (clear_value x; split)
    | dsimp only

end Sys2Proof.Machine
end

