-- ==== Sys2Proof/Laws/KeepsChannel.lean ====
section
/-!
SUPPORT. Laws/KeepsChannel.lean: each operation and command of Machine/Channel.lean keeps what every operation keeps (`Kept`).
-/
namespace Sys2Proof.Machine

theorem State.setWriteGate_kept (s : State) (n : ℕ) (h : ℕ) (on : Bool) : Kept s (State.setWriteGate s n h on) := by
  unfold State.setWriteGate
  repeat' first
    | with_reducible first
      | apply Kept.refl | apply Kept.via (State.modSlot_kept ..) | apply Kept.via (State.setBitAt_kept ..)
      | apply Kept.via (State.recordCut_kept ..) | apply Kept.via (State.clrBitAt_kept ..)
    | split

theorem State.setReadGate_kept (s : State) (n : ℕ) (h : ℕ) (on : Bool) : Kept s (State.setReadGate s n h on) := by
  unfold State.setReadGate
  repeat' first
    | with_reducible first
      | apply Kept.refl | apply Kept.via (State.setBitAt_kept ..) | apply Kept.via (State.clrBitAt_kept ..)
    | split

theorem State.gatesOff_kept (s : State) (n : ℕ) (h : ℕ) : Kept s (State.gatesOff s n h) := by
  unfold State.gatesOff
  repeat' with_reducible first
    | apply Kept.refl | apply Kept.via (State.setReadGate_kept ..) | apply Kept.via (State.setWriteGate_kept ..)

theorem State.dlcUnlock_kept (s : State) (n : ℕ) (h : ℕ) : Kept s (State.dlcUnlock s n h) := by
  unfold State.dlcUnlock
  repeat' with_reducible first
    | apply Kept.refl | apply Kept.via (State.modSlot_kept ..) | apply Kept.via (State.clrBitAt_kept ..)

theorem State.dlcLost_kept (s : State) (n : ℕ) (h : ℕ) : Kept s (State.dlcLost s n h) := by
  have e : @State.dlcLost = @State.dlcLost := rfl
  conv at e => rhs; delta State.dlcLost
  rw [e]; clear e
  dsimp -zeta -iota -proj -eta -zetaUnused -zetaHave -failIfUnchanged only
  repeat' first
    | with_reducible first
      | apply Kept.refl | assumption | apply Kept.via (State.cutSlot_kept ..) | apply Kept.via (State.raise_kept ..)
      | apply Kept.via (State.setBitAt_kept ..) | apply Kept.via (State.dlcUnlock_kept ..)
      | apply Kept.via (State.clrBitAt_kept ..) | apply Kept.via (State.modSlot_kept ..)
      | apply Kept.via (State.detect_kept ..)
    | simp -zeta -iota -proj -zetaUnused -zetaHave (disch := rfl) only [Kept.update_iff]
    | intro _
    | (extract_lets -underBinder -merge +onlyGivenNames x; refine Kept.step (b := x) ?_ ?_
       all_goals first | (intro _; clear_value x) | dsimp -zeta -iota -proj -zetaUnused -zetaHave only [x])
    | extract_lets -underBinder -merge +onlyGivenNames x
    | split
    | (clear_value x; split)
    | dsimp only

theorem State.dlcCoast_kept (s : State) (n : ℕ) (h : ℕ) : Kept s (State.dlcCoast s n h) := by
  have e : @State.dlcCoast = @State.dlcCoast := rfl
  conv at e => rhs; delta State.dlcCoast
  rw [e]; clear e
  dsimp -zeta -iota -proj -eta -zetaUnused -zetaHave -failIfUnchanged only
  repeat' first
    | with_reducible first
      | apply Kept.refl | apply Kept.via (State.setBitAt_kept ..) | apply Kept.via (State.modSlot_kept ..)
      | apply Kept.via (State.modLlr_kept ..) | apply Kept.via (State.dlcLost_kept ..)
    | simp -zeta -iota -proj -zetaUnused -zetaHave (disch := rfl) only [Kept.update_iff]
    | intro _
    | (extract_lets -underBinder -merge +onlyGivenNames x; refine Kept.step (b := x) ?_ ?_
       all_goals first | (intro _; clear_value x) | dsimp -zeta -iota -proj -zetaUnused -zetaHave only [x])
    | extract_lets -underBinder -merge +onlyGivenNames x
    | split
    | (clear_value x; split)

theorem State.rateError_kept (s : State) (n : ℕ) (h : ℕ) : Kept s (State.rateError s n h) := by
  unfold State.rateError
  repeat' first
    | with_reducible first
      | apply Kept.refl | apply Kept.via (State.setReadGate_kept ..) | apply Kept.via (State.cutSlot_kept ..)
      | apply Kept.via (State.wr_kept ..) | apply Kept.via (State.detect_kept ..) | apply Kept.via (State.clrBitAt_kept ..)
      | apply Kept.via (State.dlcUnlock_kept ..)
    | split

theorem State.timingField_kept (s : State) (n : ℕ) (h : ℕ) (phase : ℕ) : Kept s (State.timingField s n h phase) := by
  have e : @State.timingField = @State.timingField := rfl
  conv at e => rhs; delta State.timingField
  rw [e]; clear e
  dsimp -zeta -iota -proj -eta -zetaUnused -zetaHave -failIfUnchanged only
  repeat' first
    | with_reducible first
      | apply Kept.refl | assumption | apply Kept.via (State.wr_kept ..) | apply Kept.via (State.raiseTo_kept ..)
      | apply Kept.via (State.clrBitAt_kept ..) | apply Kept.via (State.modSlot_kept ..)
      | apply Kept.via (State.setBitAt_kept ..) | apply Kept.via (State.detect_kept ..) | apply Kept.via (State.raise_kept ..)
      | apply Kept.via (State.count_kept ..) | apply Kept.via (State.cutSlot_kept ..)
    | simp -zeta -iota -proj -zetaUnused -zetaHave (disch := rfl) only [Kept.update_iff]
    | intro _
    | (extract_lets -underBinder -merge +onlyGivenNames x; refine Kept.step (b := x) ?_ ?_
       all_goals first | (intro _; clear_value x) | dsimp -zeta -iota -proj -zetaUnused -zetaHave only [x])
    | extract_lets -underBinder -merge +onlyGivenNames x
    | split
    | (clear_value x; split)
    | dsimp only

theorem State.setWeights_kept (s : State) (n : ℕ) (h : ℕ) : Kept s (State.setWeights s n h) := by
  have e : @State.setWeights = @State.setWeights := rfl
  conv at e => rhs; delta State.setWeights
  rw [e]; clear e
  dsimp -zeta -iota -proj -eta -zetaUnused -zetaHave -failIfUnchanged only
  repeat' first
    | with_reducible first
      | apply Kept.refl | assumption | apply Kept.via (State.wr_kept ..) | refine Kept.via_snd (State.free_kept ..) ‹_› ?_
      | apply Kept.via (State.free_kept ..)
    | simp -zeta -iota -proj -zetaUnused -zetaHave (disch := rfl) only [Kept.update_iff]
    | intro _
    | (extract_lets -underBinder -merge +onlyGivenNames x; refine Kept.step (b := x) ?_ ?_
       all_goals first | (intro _; clear_value x) | dsimp -zeta -iota -proj -zetaUnused -zetaHave only [x])
    | extract_lets -underBinder -merge +onlyGivenNames x
    | split
    | (clear_value x; split)
    | dsimp only

theorem State.sampleSlot_kept (s : State) (n : ℕ) (h : ℕ) : Kept s (State.sampleSlot s n h) := by
  have e : @State.sampleSlot = @State.sampleSlot := rfl
  conv at e => rhs; delta State.sampleSlot
  rw [e]; clear e
  dsimp -zeta -iota -proj -eta -zetaUnused -zetaHave -failIfUnchanged only
  repeat' first
    | with_reducible first | apply Kept.refl | assumption | apply Kept.via (State.modSlot_kept ..)
    | simp -zeta -iota -proj -zetaUnused -zetaHave (disch := rfl) only [Kept.update_iff]
    | intro _
    | (extract_lets -underBinder -merge +onlyGivenNames x; refine Kept.step (b := x) ?_ ?_
       all_goals first | (intro _; clear_value x) | dsimp -zeta -iota -proj -zetaUnused -zetaHave only [x])
    | extract_lets -underBinder -merge +onlyGivenNames x
    | split
    | (clear_value x; split)
    | dsimp only

theorem State.startTaps_kept (s : State) (n : ℕ) (h : ℕ) (taps : List (ℕ × ℕ)) : Kept s (State.startTaps s n h taps) := by
  have e : @State.startTaps = @State.startTaps := rfl
  conv at e => rhs; delta State.startTaps
  rw [e]; clear e
  dsimp -zeta -iota -proj -eta -zetaUnused -zetaHave -failIfUnchanged only
  repeat' first
    | with_reducible first
      | apply Kept.refl | assumption | apply Kept.via (State.wr_kept ..) | apply Kept.via (State.modSlot_kept ..)
      | apply Kept.via (Kept.foldl ?_ ..) | apply Kept.via (Kept.foldl_fst ?_ ..)
    | simp -zeta -iota -proj -zetaUnused -zetaHave (disch := rfl) only [Kept.update_iff]
    | intro _
    | (extract_lets -underBinder -merge +onlyGivenNames x; refine Kept.step (b := x) ?_ ?_
       all_goals first | (intro _; clear_value x) | dsimp -zeta -iota -proj -zetaUnused -zetaHave only [x])
    | extract_lets -underBinder -merge +onlyGivenNames x
    | split
    | (clear_value x; split)
    | dsimp only

theorem State.sectorLba_kept (s : State) (v : Serve) : Kept s (State.sectorLba s v).2 := by
  have e : @State.sectorLba = @State.sectorLba := rfl
  conv at e => rhs; delta State.sectorLba
  rw [e]; clear e
  dsimp -zeta -iota -proj -eta -zetaUnused -zetaHave -failIfUnchanged only
  repeat' first
    | with_reducible first
      | apply Kept.refl | assumption | refine Kept.via_snd (State.free_kept ..) ‹_› ?_ | apply Kept.via (State.free_kept ..)
    | simp -zeta -iota -proj -zetaUnused -zetaHave (disch := rfl) only [Kept.update_iff]
    | intro _
    | (extract_lets -underBinder -merge +onlyGivenNames x; refine Kept.step (b := x) ?_ ?_
       all_goals first | (intro _; clear_value x) | dsimp -zeta -iota -proj -zetaUnused -zetaHave only [x])
    | extract_lets -underBinder -merge +onlyGivenNames x
    | split
    | (clear_value x; split)
    | dsimp only

theorem State.sectorMeta_kept (s : State) (l : ℕ) (v : Serve) (bad : Bool) (gen : ℕ) :
    Kept s (State.sectorMeta s l v bad gen).2 := by
  have e : @State.sectorMeta = @State.sectorMeta := rfl
  conv at e => rhs; delta State.sectorMeta
  rw [e]; clear e
  dsimp -zeta -iota -proj -eta -zetaUnused -zetaHave -failIfUnchanged only
  repeat' first
    | with_reducible first
      | apply Kept.refl | assumption | refine Kept.via_snd (State.sectorLba_kept ..) ‹_› ?_
      | apply Kept.via (State.sectorLba_kept ..)
    | simp -zeta -iota -proj -zetaUnused -zetaHave (disch := rfl) only [Kept.update_iff]
    | intro _
    | (extract_lets -underBinder -merge +onlyGivenNames x; refine Kept.step (b := x) ?_ ?_
       all_goals first | (intro _; clear_value x) | dsimp -zeta -iota -proj -zetaUnused -zetaHave only [x])
    | extract_lets -underBinder -merge +onlyGivenNames x
    | split
    | (clear_value x; split)
    | dsimp only

theorem State.writeSector_kept (s : State) (k : ℕ) (r : SectorRun) (i : ℕ) : Kept s (State.writeSector s k r i) := by
  have e : @State.writeSector = @State.writeSector := rfl
  conv at e => rhs; delta State.writeSector
  rw [e]; clear e
  dsimp -zeta -iota -proj -eta -zetaUnused -zetaHave -failIfUnchanged only
  repeat' first
    | with_reducible first
      | apply Kept.refl | assumption | refine Kept.via_snd (State.sectorMeta_kept ..) ‹_› ?_
      | apply Kept.via (State.sectorMeta_kept ..) | apply Kept.via (State.modSlot_kept ..)
    | simp -zeta -iota -proj -zetaUnused -zetaHave (disch := rfl) only [Kept.update_iff]
    | intro _
    | (extract_lets -underBinder -merge +onlyGivenNames x; refine Kept.step (b := x) ?_ ?_
       all_goals first | (intro _; clear_value x) | dsimp -zeta -iota -proj -zetaUnused -zetaHave only [x])
    | extract_lets -underBinder -merge +onlyGivenNames x
    | split
    | (clear_value x; split)
    | dsimp only

theorem State.skipRun_kept (s : State) (k : ℕ) (r : SectorRun) : Kept s (State.skipRun s k r) := by
  have e : @State.skipRun = @State.skipRun := rfl
  conv at e => rhs; delta State.skipRun
  rw [e]; clear e
  dsimp -zeta -iota -proj -eta -zetaUnused -zetaHave -failIfUnchanged only
  repeat' first
    | with_reducible first
      | apply Kept.refl | assumption | apply Kept.via (State.raise_kept ..) | apply Kept.via (State.count_kept ..)
      | apply Kept.via (State.wr_kept ..) | apply Kept.via (State.modSlot_kept ..)
    | simp -zeta -iota -proj -zetaUnused -zetaHave (disch := rfl) only [Kept.update_iff]
    | intro _
    | (extract_lets -underBinder -merge +onlyGivenNames x; refine Kept.step (b := x) ?_ ?_
       all_goals first | (intro _; clear_value x) | dsimp -zeta -iota -proj -zetaUnused -zetaHave only [x])
    | extract_lets -underBinder -merge +onlyGivenNames x
    | split
    | (clear_value x; split)
    | dsimp only

theorem State.takeSlot_kept (s : State) (n : ℕ) (h : ℕ) (i : ℕ) (r : SectorRun) : Kept s (State.takeSlot s n h i r) := by
  have e : @State.takeSlot = @State.takeSlot := rfl
  conv at e => rhs; delta State.takeSlot
  rw [e]; clear e
  dsimp -zeta -iota -proj -eta -zetaUnused -zetaHave -failIfUnchanged only
  repeat' first
    | with_reducible first
      | apply Kept.refl | assumption | apply Kept.via (State.modSlot_kept ..) | apply Kept.via (State.refreshAbx_kept ..)
      | apply Kept.via (State.wr_kept ..)
    | simp -zeta -iota -proj -zetaUnused -zetaHave (disch := rfl) only [Kept.update_iff]
    | intro _
    | (extract_lets -underBinder -merge +onlyGivenNames x; refine Kept.step (b := x) ?_ ?_
       all_goals first | (intro _; clear_value x) | dsimp -zeta -iota -proj -zetaUnused -zetaHave only [x])
    | extract_lets -underBinder -merge +onlyGivenNames x
    | split
    | (clear_value x; split)
    | dsimp only

theorem State.startWrite_kept (s : State) (n : ℕ) (h : ℕ) (st : SlotStart) (r : SectorRun) :
    Kept s (State.startWrite s n h st r) := by
  have e : @State.startWrite = @State.startWrite := rfl
  conv at e => rhs; delta State.startWrite
  rw [e]; clear e
  dsimp -zeta -iota -proj -eta -zetaUnused -zetaHave -failIfUnchanged only
  repeat' first
    | with_reducible first
      | apply Kept.refl | assumption | apply Kept.via (State.modSlot_kept ..) | apply Kept.via (State.setBitAt_kept ..)
      | apply Kept.via (State.writeSector_kept ..)
    | simp -zeta -iota -proj -zetaUnused -zetaHave (disch := rfl) only [Kept.update_iff]
    | intro _
    | (extract_lets -underBinder -merge +onlyGivenNames x; refine Kept.step (b := x) ?_ ?_
       all_goals first | (intro _; clear_value x) | dsimp -zeta -iota -proj -zetaUnused -zetaHave only [x])
    | extract_lets -underBinder -merge +onlyGivenNames x
    | split
    | (clear_value x; split)
    | dsimp only

theorem State.startRead_kept (s : State) (n : ℕ) (h : ℕ) (st : SlotStart) (r : SectorRun) :
    Kept s (State.startRead s n h st r) := by
  have e : @State.startRead = @State.startRead := rfl
  conv at e => rhs; delta State.startRead
  rw [e]; clear e
  dsimp -zeta -iota -proj -eta -zetaUnused -zetaHave -failIfUnchanged only
  repeat' first
    | with_reducible first
      | apply Kept.refl | assumption | apply Kept.via (State.modSlot_kept ..) | apply Kept.via (State.skipRun_kept ..)
      | apply Kept.via (State.wr_kept ..) | apply Kept.via (State.takeSlot_kept ..)
      | apply Kept.via (State.setWeights_kept ..)
    | simp -zeta -iota -proj -zetaUnused -zetaHave (disch := rfl) only [Kept.update_iff]
    | intro _
    | (extract_lets -underBinder -merge +onlyGivenNames x; refine Kept.step (b := x) ?_ ?_
       all_goals first | (intro _; clear_value x) | dsimp -zeta -iota -proj -zetaUnused -zetaHave only [x])
    | extract_lets -underBinder -merge +onlyGivenNames x
    | split
    | (clear_value x; split)
    | dsimp only

theorem State.fsqCount_kept (s : State) (n : ℕ) (unit : ℕ) : Kept s (State.fsqCount s n unit) := by
  have e : @State.fsqCount = @State.fsqCount := rfl
  conv at e => rhs; delta State.fsqCount
  rw [e]; clear e
  dsimp -zeta -iota -proj -eta -zetaUnused -zetaHave -failIfUnchanged only
  repeat' first
    | with_reducible first | apply Kept.refl | assumption | apply Kept.via (State.modFsq_kept ..)
    | simp -zeta -iota -proj -zetaUnused -zetaHave (disch := rfl) only [Kept.update_iff]
    | intro _
    | (extract_lets -underBinder -merge +onlyGivenNames x; refine Kept.step (b := x) ?_ ?_
       all_goals first | (intro _; clear_value x) | dsimp -zeta -iota -proj -zetaUnused -zetaHave only [x])
    | extract_lets -underBinder -merge +onlyGivenNames x
    | split
    | (clear_value x; split)
    | dsimp only

theorem State.sectorStart_kept (s : State) (st : SlotStart) : Kept s (State.sectorStart s st) := by
  have e : @State.sectorStart = @State.sectorStart := rfl
  conv at e => rhs; delta State.sectorStart
  rw [e]; clear e
  dsimp -zeta -iota -proj -eta -zetaUnused -zetaHave -failIfUnchanged only
  repeat' first
    | with_reducible first
      | apply Kept.refl | assumption | apply Kept.via (State.modSlot_kept ..) | apply Kept.via (State.sampleSlot_kept ..)
      | apply Kept.via (State.startTaps_kept ..) | apply Kept.via (State.fsqCount_kept ..)
      | apply Kept.via (State.startWrite_kept ..) | apply Kept.via (State.startRead_kept ..)
    | simp -zeta -iota -proj -zetaUnused -zetaHave (disch := rfl) only [Kept.update_iff]
    | intro _
    | (extract_lets -underBinder -merge +onlyGivenNames x; refine Kept.step (b := x) ?_ ?_
       all_goals first | (intro _; clear_value x) | dsimp -zeta -iota -proj -zetaUnused -zetaHave only [x])
    | extract_lets -underBinder -merge +onlyGivenNames x
    | split
    | (clear_value x; split)
    | dsimp only

theorem State.decideMark_kept (s : State) (n : ℕ) (i : ℕ) (cands : List (ℤ × ℕ)) (predDist : ℕ) :
    Kept s (State.decideMark s n i cands predDist) := by
  have e : @State.decideMark = @State.decideMark := rfl
  conv at e => rhs; delta State.decideMark
  rw [e]; clear e
  dsimp -zeta -iota -proj -eta -zetaUnused -zetaHave -failIfUnchanged only
  repeat' first
    | with_reducible first
      | apply Kept.refl | assumption | apply Kept.via (State.modLlr_kept ..) | apply Kept.via (State.raise_kept ..)
      | apply Kept.via (State.count_kept ..)
    | simp -zeta -iota -proj -zetaUnused -zetaHave (disch := rfl) only [Kept.update_iff]
    | intro _
    | (extract_lets -underBinder -merge +onlyGivenNames x; refine Kept.step (b := x) ?_ ?_
       all_goals first | (intro _; clear_value x) | dsimp -zeta -iota -proj -zetaUnused -zetaHave only [x])
    | extract_lets -underBinder -merge +onlyGivenNames x
    | split
    | (clear_value x; split)
    | dsimp only

theorem State.handover_kept (s : State) (n : ℕ) (h : ℕ) (i : ℕ) (x : LlrSlot) (spans : List Span) (seen : SectorSeen) (time : ℕ) :
    Kept s (State.handover s n h i x spans seen time) := by
  have e : @State.handover = @State.handover := rfl
  conv at e => rhs; delta State.handover
  rw [e]; clear e
  dsimp -zeta -iota -proj -eta -zetaUnused -zetaHave -failIfUnchanged only
  repeat' first
    | with_reducible first
      | apply Kept.refl | assumption | apply Kept.via (State.modSlot_kept ..) | apply Kept.via (State.count_kept ..)
      | apply Kept.via (State.refreshAbx_kept ..) | apply Kept.via (State.raise_kept ..) | apply Kept.via (Kept.foldl ?_ ..)
      | apply Kept.via (Kept.foldl_fst ?_ ..)
    | simp -zeta -iota -proj -zetaUnused -zetaHave (disch := rfl) only [Kept.update_iff]
    | intro _
    | (extract_lets -underBinder -merge +onlyGivenNames x; refine Kept.step (b := x) ?_ ?_
       all_goals first | (intro _; clear_value x) | dsimp -zeta -iota -proj -zetaUnused -zetaHave only [x])
    | extract_lets -underBinder -merge +onlyGivenNames x
    | split
    | (clear_value x; split)
    | dsimp only

theorem State.reframe_kept (s : State) (i : ℕ) (x : LlrSlot) : Kept s (State.reframe s i x) := by
  have e : @State.reframe = @State.reframe := rfl
  conv at e => rhs; delta State.reframe
  rw [e]; clear e
  dsimp -zeta -iota -proj -eta -zetaUnused -zetaHave -failIfUnchanged only
  repeat' first
    | with_reducible first
      | apply Kept.refl | assumption | apply Kept.via (State.refreshAbx_kept ..) | apply Kept.via (State.modLlr_kept ..)
    | simp -zeta -iota -proj -zetaUnused -zetaHave (disch := rfl) only [Kept.update_iff]
    | intro _
    | (extract_lets -underBinder -merge +onlyGivenNames x; refine Kept.step (b := x) ?_ ?_
       all_goals first | (intro _; clear_value x) | dsimp -zeta -iota -proj -zetaUnused -zetaHave only [x])
    | extract_lets -underBinder -merge +onlyGivenNames x
    | split
    | (clear_value x; split)
    | dsimp only

theorem execSectorStart_kept (starts : List SlotStart) (s : State) : KeptBy s (execSectorStart starts s) := by
  have e : @execSectorStart = @execSectorStart := rfl
  conv at e => rhs; delta execSectorStart
  rw [e]; clear e
  dsimp -zeta -iota -proj -eta -zetaUnused -zetaHave -failIfUnchanged only
  repeat' first
    | with_reducible first
      | refine KeptBy.next ?_ | apply Kept.refl | assumption | apply Kept.via (State.sectorStart_kept ..)
      | apply Kept.via (State.wr_kept ..) | apply Kept.via (Kept.foldl ?_ ..) | apply Kept.via (Kept.foldl_fst ?_ ..)
    | simp -zeta -iota -proj -zetaUnused -zetaHave (disch := rfl) only [Kept.update_iff]
    | intro _
    | (extract_lets -underBinder -merge +onlyGivenNames x; refine Kept.step (b := x) ?_ ?_
       all_goals first | (intro _; clear_value x) | dsimp -zeta -iota -proj -zetaUnused -zetaHave only [x])
    | extract_lets -underBinder -merge +onlyGivenNames x
    | split
    | (clear_value x; split)
    | dsimp only

theorem execTimingField_kept (n : Fin 4) (h : Fin 2) (phase : BitVec 8) (rateOver : Bool) (s : State) :
    KeptBy s (execTimingField n h phase rateOver s) := by
  have e : @execTimingField = @execTimingField := rfl
  conv at e => rhs; delta execTimingField
  rw [e]; clear e
  dsimp -zeta -iota -proj -eta -zetaUnused -zetaHave -failIfUnchanged only
  repeat' first
    | with_reducible first
      | refine KeptBy.next ?_ | apply Kept.refl | assumption | apply Kept.via (State.rateError_kept ..)
      | apply Kept.via (State.timingField_kept ..)
    | simp -zeta -iota -proj -zetaUnused -zetaHave (disch := rfl) only [Kept.update_iff]
    | intro _
    | (extract_lets -underBinder -merge +onlyGivenNames x; refine Kept.step (b := x) ?_ ?_
       all_goals first | (intro _; clear_value x) | dsimp -zeta -iota -proj -zetaUnused -zetaHave only [x])
    | extract_lets -underBinder -merge +onlyGivenNames x
    | split
    | (clear_value x; split)
    | dsimp only

theorem execSyncMarkDecision_kept (n : Fin 4) (h : Fin 2) (cands : List (BitVec 6 × BitVec 6)) (predDist : BitVec 6) (s : State) :
    KeptBy s (execSyncMarkDecision n h cands predDist s) := by
  have e : @execSyncMarkDecision = @execSyncMarkDecision := rfl
  conv at e => rhs; delta execSyncMarkDecision
  rw [e]; clear e
  dsimp -zeta -iota -proj -eta -zetaUnused -zetaHave -failIfUnchanged only
  repeat' first
    | with_reducible first
      | refine KeptBy.next ?_ | apply Kept.refl | assumption | apply Kept.via (State.decideMark_kept ..)
    | simp -zeta -iota -proj -zetaUnused -zetaHave (disch := rfl) only [Kept.update_iff]
    | intro _
    | (extract_lets -underBinder -merge +onlyGivenNames x; refine Kept.step (b := x) ?_ ?_
       all_goals first | (intro _; clear_value x) | dsimp -zeta -iota -proj -zetaUnused -zetaHave only [x])
    | extract_lets -underBinder -merge +onlyGivenNames x
    | split
    | (clear_value x; split)
    | dsimp only

theorem execLlrHandover_kept (n : Fin 4) (h : Fin 2) (spans : List Span) (seen : SectorSeen) (time : BitVec 64) (s : State) :
    KeptBy s (execLlrHandover n h spans seen time s) := by
  have e : @execLlrHandover = @execLlrHandover := rfl
  conv at e => rhs; delta execLlrHandover
  rw [e]; clear e
  dsimp -zeta -iota -proj -eta -zetaUnused -zetaHave -failIfUnchanged only
  repeat' first
    | with_reducible first
      | refine KeptBy.next ?_ | apply Kept.refl | assumption | apply Kept.via (State.handover_kept ..)
    | simp -zeta -iota -proj -zetaUnused -zetaHave (disch := rfl) only [Kept.update_iff]
    | intro _
    | (extract_lets -underBinder -merge +onlyGivenNames x; refine Kept.step (b := x) ?_ ?_
       all_goals first | (intro _; clear_value x) | dsimp -zeta -iota -proj -zetaUnused -zetaHave only [x])
    | extract_lets -underBinder -merge +onlyGivenNames x
    | split
    | (clear_value x; split)
    | dsimp only

theorem execReframeRequest_kept (slot : Fin 384) (s : State) : KeptBy s (execReframeRequest slot s) := by
  have e : @execReframeRequest = @execReframeRequest := rfl
  conv at e => rhs; delta execReframeRequest
  rw [e]; clear e
  dsimp -zeta -iota -proj -eta -zetaUnused -zetaHave -failIfUnchanged only
  repeat' first
    | with_reducible first | refine KeptBy.next ?_ | apply Kept.refl | assumption | apply Kept.via (State.reframe_kept ..)
    | simp -zeta -iota -proj -zetaUnused -zetaHave (disch := rfl) only [Kept.update_iff]
    | intro _
    | (extract_lets -underBinder -merge +onlyGivenNames x; refine Kept.step (b := x) ?_ ?_
       all_goals first | (intro _; clear_value x) | dsimp -zeta -iota -proj -zetaUnused -zetaHave only [x])
    | extract_lets -underBinder -merge +onlyGivenNames x
    | split
    | (clear_value x; split)
    | dsimp only

theorem execChnCntClr_kept (n : Fin 4) (s : State) : KeptBy s (execChnCntClr n s) := by
  have e : @execChnCntClr = @execChnCntClr := rfl
  conv at e => rhs; delta execChnCntClr
  rw [e]; clear e
  dsimp -zeta -iota -proj -eta -zetaUnused -zetaHave -failIfUnchanged only
  repeat' first
    | with_reducible first
      | refine KeptBy.next ?_ | apply Kept.refl | assumption | apply Kept.via (State.access_kept (h_k := ?_) ..)
      | apply Kept.via (State.clearAll_kept ..)
    | simp -zeta -iota -proj -zetaUnused -zetaHave (disch := rfl) only [Kept.update_iff]
    | intro _
    | (extract_lets -underBinder -merge +onlyGivenNames x; refine Kept.step (b := x) ?_ ?_
       all_goals first | (intro _; clear_value x) | dsimp -zeta -iota -proj -zetaUnused -zetaHave only [x])
    | extract_lets -underBinder -merge +onlyGivenNames x
    | split
    | (clear_value x; split)
    | dsimp only

end Sys2Proof.Machine
end

