-- ==== Sys2Proof/Laws/KeepsThermal.lean ====
section
/-!
SUPPORT. Laws/KeepsThermal.lean: each operation and command of Machine/Thermal.lean keeps what every operation keeps (`Kept`).
-/
namespace Sys2Proof.Machine

theorem State.followThrottle_kept (s : State) : Kept s (State.followThrottle s) := by
  have e : @State.followThrottle = @State.followThrottle := rfl
  conv at e => rhs; delta State.followThrottle
  rw [e]; clear e
  dsimp -zeta -iota -proj -eta -zetaUnused -zetaHave -failIfUnchanged only
  repeat' first
    | with_reducible first
      | apply Kept.refl | apply Kept.via (State.raise_kept ..) | apply Kept.via (State.wrFlag_kept ..)
    | simp -zeta -iota -proj -zetaUnused -zetaHave (disch := rfl) only [Kept.update_iff]
    | intro _
    | (extract_lets -underBinder -merge +onlyGivenNames x; refine Kept.step (b := x) ?_ ?_
       all_goals first | (intro _; clear_value x) | dsimp -zeta -iota -proj -zetaUnused -zetaHave only [x])
    | extract_lets -underBinder -merge +onlyGivenNames x
    | split
    | (clear_value x; split)

theorem State.setLevels_kept (s : State) (warn : Bool) (lvl : ℕ) (shut : Bool) (noValid : Bool) :
    Kept s (State.setLevels s warn lvl shut noValid) := by
  have e : @State.setLevels = @State.setLevels := rfl
  conv at e => rhs; delta State.setLevels
  rw [e]; clear e
  dsimp -zeta -iota -proj -eta -zetaUnused -zetaHave -failIfUnchanged only
  repeat' first
    | with_reducible first
      | apply Kept.refl | assumption | apply Kept.via (State.wrFlag_kept ..) | apply Kept.via (State.wr_kept ..)
      | apply Kept.via (State.raise_kept ..) | apply Kept.via (State.tallyThm_kept ..)
      | apply Kept.via (State.followThrottle_kept ..) | apply Kept.via (State.detect_kept ..)
    | simp -zeta -iota -proj -zetaUnused -zetaHave (disch := rfl) only [Kept.update_iff]
    | intro _
    | (extract_lets -underBinder -merge +onlyGivenNames x; refine Kept.step (b := x) ?_ ?_
       all_goals first | (intro _; clear_value x) | dsimp -zeta -iota -proj -zetaUnused -zetaHave only [x])
    | extract_lets -underBinder -merge +onlyGivenNames x
    | split
    | (clear_value x; split)
    | dsimp only

theorem State.lifePeak_kept (s : State) : Kept s (State.lifePeak s) := by
  unfold State.lifePeak
  repeat' first
    | with_reducible first | apply Kept.refl | apply Kept.via (State.wr_kept ..)
    | split

theorem State.judgeThermal_kept (s : State) : Kept s (State.judgeThermal s) := by
  unfold State.judgeThermal
  repeat' first
    | with_reducible first
      | apply Kept.refl | apply Kept.via (State.setLevels_kept ..) | apply Kept.via (State.lifePeak_kept ..)
      | apply Kept.via (State.wr_kept ..)
    | split

theorem State.thresholdEvents_kept (s : State) (before : ℕ) : Kept s (State.thresholdEvents s before) := by
  unfold State.thresholdEvents
  repeat' first
    | with_reducible first
      | apply Kept.refl | apply Kept.via (State.asyncEvent_kept ..) | apply Kept.via (Kept.foldl ?_ ..)
    | simp -zeta -iota -proj -zetaUnused -zetaHave (disch := rfl) only [Kept.update_iff]
    | intro _
    | split

theorem State.notePeak_kept (s : State) (i : ℕ) (v : ℕ) : Kept s (State.notePeak s i v) := by
  unfold State.notePeak
  repeat' first
    | with_reducible first | apply Kept.refl | apply Kept.via (State.wr_kept ..)
    | split

theorem State.noteSampled_kept (s : State) (i : ℕ) : Kept s (State.noteSampled s i) := by
  unfold State.noteSampled
  repeat' first
    | with_reducible first | apply Kept.refl
    | simp -zeta -iota -proj -zetaUnused -zetaHave (disch := rfl) only [Kept.update_iff]

theorem State.judgeSample_kept (s : State) (i : ℕ) (bad : Bool) : Kept s (State.judgeSample s i bad) := by
  unfold State.judgeSample
  repeat' first
    | with_reducible first
      | apply Kept.refl | apply Kept.via (State.detect_kept ..) | apply Kept.via (State.raise_kept ..)
      | apply Kept.via (State.setBitAt_kept ..)
    | split

theorem State.sampleSensor_kept (s : State) (i : ℕ) (v : ℕ) : Kept s (State.sampleSensor s i v) := by
  unfold State.sampleSensor
  repeat' with_reducible first
    | apply Kept.refl | apply Kept.via (State.judgeSample_kept ..) | apply Kept.via (State.notePeak_kept ..)
    | apply Kept.via (State.noteSampled_kept ..) | apply Kept.via (State.wr_kept ..)
    | apply Kept.via (State.thresholdEvents_kept ..) | apply Kept.via (State.judgeThermal_kept ..)

theorem execThermalSample_kept (sensor : Fin 12) (value : BitVec 16) (s : State) :
    KeptBy s (execThermalSample sensor value s) := by
  unfold execThermalSample
  refine KeptBy.next ?_
  repeat' first
    | with_reducible first | apply Kept.refl | apply Kept.via (State.sampleSensor_kept ..)
    | split

end Sys2Proof.Machine
end

