-- ==== Sys2Proof/Laws/KeepsNvmeCmds.lean ====
section
/-!
SUPPORT. Laws/KeepsNvmeCmds.lean: each operation and command of Machine/NvmeCmds.lean keeps what every operation keeps (`Kept`).
-/
namespace Sys2Proof.Machine

theorem State.returnFields_kept (s : State) (c : Cmd) (l : List (String × ℕ)) (dw0 : ℕ) :
    Kept s (State.returnFields s c l dw0) := by
  unfold State.returnFields
  repeat' with_reducible first | apply Kept.refl | apply Kept.via (State.finish_kept ..) | apply Kept.via (State.emit_kept ..)

theorem State.identify_kept (s : State) (c : Cmd) : Kept s (State.identify s c) := by
  have e : @State.identify = @State.identify := rfl
  conv at e => rhs; delta State.identify
  rw [e]; clear e
  dsimp -zeta -iota -proj -eta -zetaUnused -zetaHave -failIfUnchanged only
  repeat' first
    | with_reducible first
      | apply Kept.refl | apply Kept.via (State.returnFields_kept ..) | apply Kept.via (State.finish_kept ..)
    | simp -zeta -iota -proj -zetaUnused -zetaHave (disch := rfl) only [Kept.update_iff]
    | intro _
    | (extract_lets -underBinder -merge +onlyGivenNames x; refine Kept.step (b := x) ?_ ?_
       all_goals first | (intro _; clear_value x) | dsimp -zeta -iota -proj -zetaUnused -zetaHave only [x])
    | extract_lets -underBinder -merge +onlyGivenNames x
    | split
    | (clear_value x; split)

theorem State.logPage_kept (s : State) (c : Cmd) : Kept s (State.logPage s c) := by
  have e : @State.logPage = @State.logPage := rfl
  conv at e => rhs; delta State.logPage
  rw [e]; clear e
  dsimp -zeta -iota -proj -eta -zetaUnused -zetaHave -failIfUnchanged only
  repeat' first
    | with_reducible first
      | apply Kept.refl | apply Kept.via (State.returnFields_kept ..) | apply Kept.via (State.modCtrl_kept ..)
      | apply Kept.via (State.finish_kept ..)
    | simp -zeta -iota -proj -zetaUnused -zetaHave (disch := rfl) only [Kept.update_iff]
    | intro _
    | (extract_lets -underBinder -merge +onlyGivenNames x; refine Kept.step (b := x) ?_ ?_
       all_goals first | (intro _; clear_value x) | dsimp -zeta -iota -proj -zetaUnused -zetaHave only [x])
    | extract_lets -underBinder -merge +onlyGivenNames x
    | split
    | (clear_value x; split)

theorem State.putFeature_kept (s : State) (c : Cmd) (key : ℕ) (v : ℕ) (save : Bool) :
    Kept s (State.putFeature s c key v save) := by
  have e : @State.putFeature = @State.putFeature := rfl
  conv at e => rhs; delta State.putFeature
  rw [e]; clear e
  dsimp -zeta -iota -proj -eta -zetaUnused -zetaHave -failIfUnchanged only
  repeat' first
    | with_reducible first | apply Kept.refl | assumption | apply Kept.via (State.modCtrl_kept ..)
    | simp -zeta -iota -proj -zetaUnused -zetaHave (disch := rfl) only [Kept.update_iff]
    | intro _
    | (extract_lets -underBinder -merge +onlyGivenNames x; refine Kept.step (b := x) ?_ ?_
       all_goals first | (intro _; clear_value x) | dsimp -zeta -iota -proj -zetaUnused -zetaHave only [x])
    | extract_lets -underBinder -merge +onlyGivenNames x
    | split
    | (clear_value x; split)

theorem State.setApst_kept (s : State) (c : Cmd) : Kept s (State.setApst s c) := by
  have e : @State.setApst = @State.setApst := rfl
  conv at e => rhs; delta State.setApst
  rw [e]; clear e
  dsimp -zeta -iota -proj -eta -zetaUnused -zetaHave -failIfUnchanged only
  repeat' first
    | with_reducible first
      | apply Kept.refl | assumption | apply Kept.via (Kept.foldl ?_ ..) | apply Kept.via (Kept.foldl_fst ?_ ..)
    | simp -zeta -iota -proj -zetaUnused -zetaHave (disch := rfl) only [Kept.update_iff]
    | intro _
    | (extract_lets -underBinder -merge +onlyGivenNames x; refine Kept.step (b := x) ?_ ?_
       all_goals first | (intro _; clear_value x) | dsimp -zeta -iota -proj -zetaUnused -zetaHave only [x])
    | extract_lets -underBinder -merge +onlyGivenNames x
    | split
    | (clear_value x; split)
    | dsimp only

theorem State.setFeature_kept (s : State) (c : Cmd) : Kept s (State.setFeature s c) := by
  have e : @State.setFeature = @State.setFeature := rfl
  conv at e => rhs; delta State.setFeature
  rw [e]; clear e
  dsimp -zeta -iota -proj -eta -zetaUnused -zetaHave -failIfUnchanged only
  repeat' first
    | with_reducible first
      | apply Kept.refl | assumption | apply Kept.via (State.finish_kept ..) | apply Kept.via (State.setApst_kept ..)
      | apply Kept.via (State.putFeature_kept ..)
    | simp -zeta -iota -proj -zetaUnused -zetaHave (disch := rfl) only [Kept.update_iff]
    | intro _
    | (extract_lets -underBinder -merge +onlyGivenNames x; refine Kept.step (b := x) ?_ ?_
       all_goals first | (intro _; clear_value x) | dsimp -zeta -iota -proj -zetaUnused -zetaHave only [x])
    | extract_lets -underBinder -merge +onlyGivenNames x
    | split
    | (clear_value x; split)

theorem State.setPower_kept (s : State) (c : Cmd) : Kept s (State.setPower s c) := by
  have e : @State.setPower = @State.setPower := rfl
  conv at e => rhs; delta State.setPower
  rw [e]; clear e
  dsimp -zeta -iota -proj -eta -zetaUnused -zetaHave -failIfUnchanged only
  repeat' first
    | with_reducible first
      | apply Kept.refl | apply Kept.via (State.finish_kept ..) | apply Kept.via (State.requestState_kept ..)
    | simp -zeta -iota -proj -zetaUnused -zetaHave (disch := rfl) only [Kept.update_iff]
    | intro _
    | (extract_lets -underBinder -merge +onlyGivenNames x; refine Kept.step (b := x) ?_ ?_
       all_goals first | (intro _; clear_value x) | dsimp -zeta -iota -proj -zetaUnused -zetaHave only [x])
    | extract_lets -underBinder -merge +onlyGivenNames x
    | split
    | (clear_value x; split)

theorem State.setQueues_kept (s : State) (c : Cmd) : Kept s (State.setQueues s c) := by
  have e : @State.setQueues = @State.setQueues := rfl
  conv at e => rhs; delta State.setQueues
  rw [e]; clear e
  dsimp -zeta -iota -proj -eta -zetaUnused -zetaHave -failIfUnchanged only
  repeat' first
    | with_reducible first
      | apply Kept.refl | apply Kept.via (State.finish_kept ..) | apply Kept.via (State.modCtrl_kept ..)
      | apply Kept.via (State.wr_kept ..)
    | simp -zeta -iota -proj -zetaUnused -zetaHave (disch := rfl) only [Kept.update_iff]
    | intro _
    | (extract_lets -underBinder -merge +onlyGivenNames x; refine Kept.step (b := x) ?_ ?_
       all_goals first | (intro _; clear_value x) | dsimp -zeta -iota -proj -zetaUnused -zetaHave only [x])
    | extract_lets -underBinder -merge +onlyGivenNames x
    | split
    | (clear_value x; split)

theorem State.setTimestamp_kept (s : State) (c : Cmd) : Kept s (State.setTimestamp s c) := by
  unfold State.setTimestamp
  repeat' first
    | with_reducible first
      | apply Kept.refl | apply Kept.via (State.finish_kept ..) | apply Kept.via (State.blockWrote_kept ..)
      | apply Kept.via (State.setCalendar_kept ..)
    | split

theorem State.getFeature_kept (s : State) (c : Cmd) : Kept s (State.getFeature s c) := by
  have e : @State.getFeature = @State.getFeature := rfl
  conv at e => rhs; delta State.getFeature
  rw [e]; clear e
  dsimp -zeta -iota -proj -eta -zetaUnused -zetaHave -failIfUnchanged only
  repeat' first
    | with_reducible first
      | apply Kept.refl | apply Kept.via (State.finish_kept ..) | apply Kept.via (State.returnFields_kept ..)
    | simp -zeta -iota -proj -zetaUnused -zetaHave (disch := rfl) only [Kept.update_iff]
    | intro _
    | (extract_lets -underBinder -merge +onlyGivenNames x; refine Kept.step (b := x) ?_ ?_
       all_goals first | (intro _; clear_value x) | dsimp -zeta -iota -proj -zetaUnused -zetaHave only [x])
    | extract_lets -underBinder -merge +onlyGivenNames x
    | split
    | (clear_value x; split)

theorem State.announceNs_kept (s : State) : Kept s (State.announceNs s) := by
  unfold State.announceNs
  repeat' with_reducible first | apply Kept.refl | apply Kept.via (State.postUaAll_kept ..)

theorem State.latchPack_kept (s : State) (k : ℕ) (n : Namespace) : Kept s (State.latchPack s k n) := by
  unfold State.latchPack
  repeat' first
    | with_reducible first | apply Kept.refl | apply Kept.via (State.wr_kept ..)
    | split

theorem State.createNs_kept (s : State) (c : Cmd) : Kept s (State.createNs s c) := by
  have e : @State.createNs = @State.createNs := rfl
  conv at e => rhs; delta State.createNs
  rw [e]; clear e
  dsimp -zeta -iota -proj -eta -zetaUnused -zetaHave -failIfUnchanged only
  repeat' first
    | with_reducible first
      | apply Kept.refl | assumption | refine Kept.via_snd (State.free_kept ..) ‹_› ?_ | apply Kept.via (State.free_kept ..)
      | apply Kept.via (State.finish_kept ..) | apply Kept.via (State.latchPack_kept ..)
      | apply Kept.via (State.announceNs_kept ..)
    | simp -zeta -iota -proj -zetaUnused -zetaHave (disch := rfl) only [Kept.update_iff]
    | intro _
    | (extract_lets -underBinder -merge +onlyGivenNames x; refine Kept.step (b := x) ?_ ?_
       all_goals first | (intro _; clear_value x) | dsimp -zeta -iota -proj -zetaUnused -zetaHave only [x])
    | extract_lets -underBinder -merge +onlyGivenNames x
    | split
    | (clear_value x; split)
    | dsimp only

theorem State.deleteNs_kept (s : State) (c : Cmd) : Kept s (State.deleteNs s c) := by
  unfold State.deleteNs
  repeat' first
    | with_reducible first
      | apply Kept.refl | apply Kept.via (State.finish_kept ..) | apply Kept.via (State.cryptoErase_kept ..)
      | apply Kept.via (State.wr_kept ..) | apply Kept.via (State.announceNs_kept ..)
    | simp -zeta -iota -proj -zetaUnused -zetaHave (disch := rfl) only [Kept.update_iff]
    | split

theorem State.attachNs_kept (s : State) (c : Cmd) : Kept s (State.attachNs s c) := by
  have e : @State.attachNs = @State.attachNs := rfl
  conv at e => rhs; delta State.attachNs
  rw [e]; clear e
  dsimp -zeta -iota -proj -eta -zetaUnused -zetaHave -failIfUnchanged only
  repeat' first
    | with_reducible first
      | apply Kept.refl | assumption | apply Kept.via (State.finish_kept ..) | apply Kept.via (State.modCtrl_kept ..)
      | apply Kept.via (State.announceNs_kept ..) | apply Kept.via (Kept.foldl ?_ ..)
    | simp -zeta -iota -proj -zetaUnused -zetaHave (disch := rfl) only [Kept.update_iff]
    | intro _
    | (extract_lets -underBinder -merge +onlyGivenNames x; refine Kept.step (b := x) ?_ ?_
       all_goals first | (intro _; clear_value x) | dsimp -zeta -iota -proj -zetaUnused -zetaHave only [x])
    | extract_lets -underBinder -merge +onlyGivenNames x
    | split
    | (clear_value x; split)

theorem State.modNs_kept (s : State) (ns : ℕ) (f : Namespace → Namespace) : Kept s (State.modNs s ns f) := by
  unfold State.modNs
  repeat' first
    | with_reducible first | apply Kept.refl
    | simp -zeta -iota -proj -zetaUnused -zetaHave (disch := rfl) only [Kept.update_iff]
    | split

theorem State.directiveSend_kept (s : State) (c : Cmd) : Kept s (State.directiveSend s c) := by
  have e : @State.directiveSend = @State.directiveSend := rfl
  conv at e => rhs; delta State.directiveSend
  rw [e]; clear e
  dsimp -zeta -iota -proj -eta -zetaUnused -zetaHave -failIfUnchanged only
  repeat' first
    | with_reducible first
      | apply Kept.refl | apply Kept.via (State.finish_kept ..) | apply Kept.via (State.modNs_kept ..)
    | simp -zeta -iota -proj -zetaUnused -zetaHave (disch := rfl) only [Kept.update_iff]
    | intro _
    | (extract_lets -underBinder -merge +onlyGivenNames x; refine Kept.step (b := x) ?_ ?_
       all_goals first | (intro _; clear_value x) | dsimp -zeta -iota -proj -zetaUnused -zetaHave only [x])
    | extract_lets -underBinder -merge +onlyGivenNames x
    | split
    | (clear_value x; split)

theorem State.directiveReceive_kept (s : State) (c : Cmd) : Kept s (State.directiveReceive s c) := by
  have e : @State.directiveReceive = @State.directiveReceive := rfl
  conv at e => rhs; delta State.directiveReceive
  rw [e]; clear e
  dsimp -zeta -iota -proj -eta -zetaUnused -zetaHave -failIfUnchanged only
  repeat' first
    | with_reducible first
      | apply Kept.refl | apply Kept.via (State.returnFields_kept ..) | apply Kept.via (State.finish_kept ..)
    | simp -zeta -iota -proj -zetaUnused -zetaHave (disch := rfl) only [Kept.update_iff]
    | intro _
    | (extract_lets -underBinder -merge +onlyGivenNames x; refine Kept.step (b := x) ?_ ?_
       all_goals first | (intro _; clear_value x) | dsimp -zeta -iota -proj -zetaUnused -zetaHave only [x])
    | extract_lets -underBinder -merge +onlyGivenNames x
    | split
    | (clear_value x; split)

theorem State.download_kept (s : State) (c : Cmd) (data : List ℕ) : Kept s (State.download s c data) := by
  have e : @State.download = @State.download := rfl
  conv at e => rhs; delta State.download
  rw [e]; clear e
  dsimp -zeta -iota -proj -eta -zetaUnused -zetaHave -failIfUnchanged only
  repeat' first
    | with_reducible first
      | apply Kept.refl | apply Kept.via (State.finish_kept ..) | apply Kept.via (State.stage_kept ..)
    | simp -zeta -iota -proj -zetaUnused -zetaHave (disch := rfl) only [Kept.update_iff]
    | intro _
    | (extract_lets -underBinder -merge +onlyGivenNames x; refine Kept.step (b := x) ?_ ?_
       all_goals first | (intro _; clear_value x) | dsimp -zeta -iota -proj -zetaUnused -zetaHave only [x])
    | extract_lets -underBinder -merge +onlyGivenNames x
    | split
    | (clear_value x; split)

theorem State.firmwareCommit_kept (s : State) (activate : Bool) (c : Cmd) : Kept s (State.firmwareCommit s activate c) := by
  have e : @State.firmwareCommit = @State.firmwareCommit := rfl
  conv at e => rhs; delta State.firmwareCommit
  rw [e]; clear e
  dsimp -zeta -iota -proj -eta -zetaUnused -zetaHave -failIfUnchanged only
  repeat' first
    | with_reducible first
      | apply Kept.refl | apply Kept.via (State.finish_kept ..) | apply Kept.via (State.hostCommit_kept ..)
    | simp -zeta -iota -proj -zetaUnused -zetaHave (disch := rfl) only [Kept.update_iff]
    | intro _
    | (extract_lets -underBinder -merge +onlyGivenNames x; refine Kept.step (b := x) ?_ ?_
       all_goals first | (intro _; clear_value x) | dsimp -zeta -iota -proj -zetaUnused -zetaHave only [x])
    | extract_lets -underBinder -merge +onlyGivenNames x
    | split
    | (clear_value x; split)

theorem State.formatCmd_kept (s : State) (c : Cmd) : Kept s (State.formatCmd s c) := by
  have e : @State.formatCmd = @State.formatCmd := rfl
  conv at e => rhs; delta State.formatCmd
  rw [e]; clear e
  dsimp -zeta -iota -proj -eta -zetaUnused -zetaHave -failIfUnchanged only
  repeat' first
    | with_reducible first
      | apply Kept.refl | apply Kept.via (State.finish_kept ..) | apply Kept.via (State.formatNs_kept ..)
    | simp -zeta -iota -proj -zetaUnused -zetaHave (disch := rfl) only [Kept.update_iff]
    | intro _
    | (extract_lets -underBinder -merge +onlyGivenNames x; refine Kept.step (b := x) ?_ ?_
       all_goals first | (intro _; clear_value x) | dsimp -zeta -iota -proj -zetaUnused -zetaHave only [x])
    | extract_lets -underBinder -merge +onlyGivenNames x
    | split
    | (clear_value x; split)

theorem State.sanitizeCmd_kept (s : State) (c : Cmd) : Kept s (State.sanitizeCmd s c) := by
  have e : @State.sanitizeCmd = @State.sanitizeCmd := rfl
  conv at e => rhs; delta State.sanitizeCmd
  rw [e]; clear e
  dsimp -zeta -iota -proj -eta -zetaUnused -zetaHave -failIfUnchanged only
  repeat' first
    | with_reducible first
      | apply Kept.refl | apply Kept.via (State.finish_kept ..) | apply Kept.via (State.sanitizeAll_kept ..)
    | simp -zeta -iota -proj -zetaUnused -zetaHave (disch := rfl) only [Kept.update_iff]
    | intro _
    | (extract_lets -underBinder -merge +onlyGivenNames x; refine Kept.step (b := x) ?_ ?_
       all_goals first | (intro _; clear_value x) | dsimp -zeta -iota -proj -zetaUnused -zetaHave only [x])
    | extract_lets -underBinder -merge +onlyGivenNames x
    | split
    | (clear_value x; split)

theorem State.openStream_kept (s : State) (c : Cmd) : Kept s (State.openStream s c) := by
  unfold State.openStream
  repeat' first
    | with_reducible first | apply Kept.refl | apply Kept.via (State.modNs_kept ..)
    | split

theorem State.zoneSend_kept (s : State) (t : ℕ) (action : ℕ) : Kept s (State.zoneSend s t action) := by
  unfold State.zoneSend
  repeat' first
    | with_reducible first
      | apply Kept.refl | apply Kept.via (State.onCmd_kept (h_f := ?_) ..) | apply Kept.via (State.zoneCmd_kept ..)
    | simp -zeta -iota -proj -zetaUnused -zetaHave (disch := rfl) only [Kept.update_iff]
    | intro _

theorem execGetLogPage_kept (tag : BitVec 13) (s : State) : KeptBy s (execGetLogPage tag s) := by
  unfold execGetLogPage
  refine KeptBy.next ?_
  repeat' first
    | with_reducible first
      | apply Kept.refl | apply Kept.via (State.onAdmin_kept (h_f := ?_) ..) | apply Kept.via (State.logPage_kept ..)
    | simp -zeta -iota -proj -zetaUnused -zetaHave (disch := rfl) only [Kept.update_iff]
    | intro _

theorem execIdentify_kept (tag : BitVec 13) (s : State) : KeptBy s (execIdentify tag s) := by
  unfold execIdentify
  refine KeptBy.next ?_
  repeat' first
    | with_reducible first
      | apply Kept.refl | apply Kept.via (State.onAdmin_kept (h_f := ?_) ..) | apply Kept.via (State.identify_kept ..)
    | simp -zeta -iota -proj -zetaUnused -zetaHave (disch := rfl) only [Kept.update_iff]
    | intro _

theorem execSetFeatures_kept (tag : BitVec 13) (s : State) : KeptBy s (execSetFeatures tag s) := by
  unfold execSetFeatures
  refine KeptBy.next ?_
  repeat' first
    | with_reducible first
      | apply Kept.refl | apply Kept.via (State.onAdmin_kept (h_f := ?_) ..) | apply Kept.via (State.setFeature_kept ..)
    | simp -zeta -iota -proj -zetaUnused -zetaHave (disch := rfl) only [Kept.update_iff]
    | intro _

theorem execSetFeaturesPowerMgmt_kept (tag : BitVec 13) (s : State) : KeptBy s (execSetFeaturesPowerMgmt tag s) := by
  unfold execSetFeaturesPowerMgmt
  refine KeptBy.next ?_
  repeat' first
    | with_reducible first
      | apply Kept.refl | apply Kept.via (State.onAdmin_kept (h_f := ?_) ..) | apply Kept.via (State.setPower_kept ..)
    | simp -zeta -iota -proj -zetaUnused -zetaHave (disch := rfl) only [Kept.update_iff]
    | intro _

theorem execSetFeaturesNumQueues_kept (tag : BitVec 13) (s : State) : KeptBy s (execSetFeaturesNumQueues tag s) := by
  unfold execSetFeaturesNumQueues
  refine KeptBy.next ?_
  repeat' first
    | with_reducible first
      | apply Kept.refl | apply Kept.via (State.onAdmin_kept (h_f := ?_) ..) | apply Kept.via (State.setQueues_kept ..)
    | simp -zeta -iota -proj -zetaUnused -zetaHave (disch := rfl) only [Kept.update_iff]
    | intro _

theorem execSetFeaturesTimestamp_kept (tag : BitVec 13) (s : State) : KeptBy s (execSetFeaturesTimestamp tag s) := by
  unfold execSetFeaturesTimestamp
  refine KeptBy.next ?_
  repeat' first
    | with_reducible first
      | apply Kept.refl | apply Kept.via (State.onAdmin_kept (h_f := ?_) ..) | apply Kept.via (State.setTimestamp_kept ..)
    | simp -zeta -iota -proj -zetaUnused -zetaHave (disch := rfl) only [Kept.update_iff]
    | intro _

theorem execGetFeatures_kept (tag : BitVec 13) (s : State) : KeptBy s (execGetFeatures tag s) := by
  unfold execGetFeatures
  refine KeptBy.next ?_
  repeat' first
    | with_reducible first
      | apply Kept.refl | apply Kept.via (State.onAdmin_kept (h_f := ?_) ..) | apply Kept.via (State.getFeature_kept ..)
    | simp -zeta -iota -proj -zetaUnused -zetaHave (disch := rfl) only [Kept.update_iff]
    | intro _

theorem execApstTransition_kept (port : Fin 4) (s : State) : KeptBy s (execApstTransition port s) := by
  have e : @execApstTransition = @execApstTransition := rfl
  conv at e => rhs; delta execApstTransition
  rw [e]; clear e
  dsimp -zeta -iota -proj -eta -zetaUnused -zetaHave -failIfUnchanged only
  refine KeptBy.next ?_
  repeat' first
    | with_reducible first | apply Kept.refl | apply Kept.via (State.requestState_kept ..)
    | simp -zeta -iota -proj -zetaUnused -zetaHave (disch := rfl) only [Kept.update_iff]
    | intro _
    | (extract_lets -underBinder -merge +onlyGivenNames x; refine Kept.step (b := x) ?_ ?_
       all_goals first | (intro _; clear_value x) | dsimp -zeta -iota -proj -zetaUnused -zetaHave only [x])
    | extract_lets -underBinder -merge +onlyGivenNames x
    | split
    | (clear_value x; split)

theorem execAsyncEventRequest_kept (tag : BitVec 13) (s : State) : KeptBy s (execAsyncEventRequest tag s) := by
  have e : @execAsyncEventRequest = @execAsyncEventRequest := rfl
  conv at e => rhs; delta execAsyncEventRequest
  rw [e]; clear e
  dsimp -zeta -iota -proj -eta -zetaUnused -zetaHave -failIfUnchanged only
  refine KeptBy.next ?_
  repeat' first
    | with_reducible first
      | apply Kept.refl | apply Kept.via (State.onAdmin_kept (h_f := ?_) ..) | apply Kept.via (State.finish_kept ..)
      | apply Kept.via (State.modCtrl_kept ..)
    | simp -zeta -iota -proj -zetaUnused -zetaHave (disch := rfl) only [Kept.update_iff]
    | intro _
    | (extract_lets -underBinder -merge +onlyGivenNames x; refine Kept.step (b := x) ?_ ?_
       all_goals first | (intro _; clear_value x) | dsimp -zeta -iota -proj -zetaUnused -zetaHave only [x])
    | extract_lets -underBinder -merge +onlyGivenNames x
    | split
    | (clear_value x; split)

theorem execNamespaceManagement_kept (tag : BitVec 13) (s : State) : KeptBy s (execNamespaceManagement tag s) := by
  unfold execNamespaceManagement
  refine KeptBy.next ?_
  repeat' first
    | with_reducible first
      | apply Kept.refl | apply Kept.via (State.onAdmin_kept (h_f := ?_) ..) | apply Kept.via (State.createNs_kept ..)
      | apply Kept.via (State.deleteNs_kept ..) | apply Kept.via (State.finish_kept ..)
    | simp -zeta -iota -proj -zetaUnused -zetaHave (disch := rfl) only [Kept.update_iff]
    | intro _
    | split

theorem execNamespaceAttachment_kept (tag : BitVec 13) (s : State) : KeptBy s (execNamespaceAttachment tag s) := by
  unfold execNamespaceAttachment
  refine KeptBy.next ?_
  repeat' first
    | with_reducible first
      | apply Kept.refl | apply Kept.via (State.onAdmin_kept (h_f := ?_) ..) | apply Kept.via (State.attachNs_kept ..)
    | simp -zeta -iota -proj -zetaUnused -zetaHave (disch := rfl) only [Kept.update_iff]
    | intro _

theorem execFirmwareImageDownload_kept (tag : BitVec 13) (data : List Block) (s : State) :
    KeptBy s (execFirmwareImageDownload tag data s) := by
  unfold execFirmwareImageDownload
  refine KeptBy.next ?_
  repeat' first
    | with_reducible first
      | apply Kept.refl | apply Kept.via (State.onAdmin_kept (h_f := ?_) ..) | apply Kept.via (State.download_kept ..)
    | simp -zeta -iota -proj -zetaUnused -zetaHave (disch := rfl) only [Kept.update_iff]
    | intro _

theorem execFirmwareCommit_kept (tag : BitVec 13) (s : State) : KeptBy s (execFirmwareCommit tag s) := by
  unfold execFirmwareCommit
  refine KeptBy.next ?_
  repeat' first
    | with_reducible first
      | apply Kept.refl | apply Kept.via (State.onAdmin_kept (h_f := ?_) ..) | apply Kept.via (State.firmwareCommit_kept ..)
    | simp -zeta -iota -proj -zetaUnused -zetaHave (disch := rfl) only [Kept.update_iff]
    | intro _

theorem execFirmwareCommitActivate_kept (tag : BitVec 13) (s : State) : KeptBy s (execFirmwareCommitActivate tag s) := by
  unfold execFirmwareCommitActivate
  refine KeptBy.next ?_
  repeat' first
    | with_reducible first
      | apply Kept.refl | apply Kept.via (State.onAdmin_kept (h_f := ?_) ..) | apply Kept.via (State.firmwareCommit_kept ..)
    | simp -zeta -iota -proj -zetaUnused -zetaHave (disch := rfl) only [Kept.update_iff]
    | intro _

theorem execFirmwareSlotWriteDone_kept (s : State) : KeptBy s (execFirmwareSlotWriteDone s) := by
  unfold execFirmwareSlotWriteDone
  refine KeptBy.next ?_
  repeat' with_reducible first | apply Kept.refl | apply Kept.via (State.updateDone_kept ..)

theorem execDirectiveSend_kept (tag : BitVec 13) (s : State) : KeptBy s (execDirectiveSend tag s) := by
  unfold execDirectiveSend
  refine KeptBy.next ?_
  repeat' first
    | with_reducible first
      | apply Kept.refl | apply Kept.via (State.onAdmin_kept (h_f := ?_) ..) | apply Kept.via (State.directiveSend_kept ..)
    | simp -zeta -iota -proj -zetaUnused -zetaHave (disch := rfl) only [Kept.update_iff]
    | intro _

theorem execDirectiveReceive_kept (tag : BitVec 13) (s : State) : KeptBy s (execDirectiveReceive tag s) := by
  unfold execDirectiveReceive
  refine KeptBy.next ?_
  repeat' first
    | with_reducible first
      | apply Kept.refl | apply Kept.via (State.onAdmin_kept (h_f := ?_) ..) | apply Kept.via (State.directiveReceive_kept ..)
    | simp -zeta -iota -proj -zetaUnused -zetaHave (disch := rfl) only [Kept.update_iff]
    | intro _

theorem execFormatNvm_kept (tag : BitVec 13) (s : State) : KeptBy s (execFormatNvm tag s) := by
  unfold execFormatNvm
  refine KeptBy.next ?_
  repeat' first
    | with_reducible first
      | apply Kept.refl | apply Kept.via (State.onAdmin_kept (h_f := ?_) ..) | apply Kept.via (State.formatCmd_kept ..)
    | simp -zeta -iota -proj -zetaUnused -zetaHave (disch := rfl) only [Kept.update_iff]
    | intro _

theorem execSanitize_kept (tag : BitVec 13) (s : State) : KeptBy s (execSanitize tag s) := by
  unfold execSanitize
  refine KeptBy.next ?_
  repeat' first
    | with_reducible first
      | apply Kept.refl | apply Kept.via (State.onAdmin_kept (h_f := ?_) ..) | apply Kept.via (State.sanitizeCmd_kept ..)
    | simp -zeta -iota -proj -zetaUnused -zetaHave (disch := rfl) only [Kept.update_iff]
    | intro _

theorem execInvalidAdminOpcode_kept (tag : BitVec 13) (s : State) : KeptBy s (execInvalidAdminOpcode tag s) := by
  unfold execInvalidAdminOpcode
  refine KeptBy.next ?_
  repeat' first
    | with_reducible first
      | apply Kept.refl | apply Kept.via (State.onCmd_kept (h_f := ?_) ..) | apply Kept.via (State.finish_kept ..)
    | simp -zeta -iota -proj -zetaUnused -zetaHave (disch := rfl) only [Kept.update_iff]
    | intro _

theorem execNvmeFlush_kept (tag : BitVec 13) (s : State) : KeptBy s (execNvmeFlush tag s) := by
  unfold execNvmeFlush
  refine KeptBy.next ?_
  repeat' first
    | with_reducible first
      | apply Kept.refl | apply Kept.via (State.onCmd_kept (h_f := ?_) ..) | apply Kept.via (State.finish_kept ..)
    | simp -zeta -iota -proj -zetaUnused -zetaHave (disch := rfl) only [Kept.update_iff]
    | intro _

theorem execNvmeWrite_kept (tag : BitVec 13) (data : List Block) (transferError : Bool) (s : State) :
    KeptBy s (execNvmeWrite tag data transferError s) := by
  unfold execNvmeWrite
  refine KeptBy.next ?_
  repeat' first
    | with_reducible first
      | apply Kept.refl | apply Kept.via (State.onCmd_kept (h_f := ?_) ..) | apply Kept.via (State.writeStep_kept ..)
      | apply Kept.via (State.openStream_kept ..)
    | simp -zeta -iota -proj -zetaUnused -zetaHave (disch := rfl) only [Kept.update_iff]
    | intro _
    | split

theorem execNvmeRead_kept (tag : BitVec 13) (sendTo : BitVec 17) (s : State) : KeptBy s (execNvmeRead tag sendTo s) := by
  unfold execNvmeRead
  refine KeptBy.next ?_
  repeat' first
    | with_reducible first
      | apply Kept.refl | apply Kept.via (State.onCmd_kept (h_f := ?_) ..)
      | apply Kept.via (State.readStep_kept (h_done := ?_) ..) | apply Kept.via (State.endRead_kept ..)
    | simp -zeta -iota -proj -zetaUnused -zetaHave (disch := rfl) only [Kept.update_iff]
    | intro _

theorem execNvmeCompare_kept (tag : BitVec 13) (data : List Block) (s : State) : KeptBy s (execNvmeCompare tag data s) := by
  have e : @execNvmeCompare = @execNvmeCompare := rfl
  conv at e => rhs; delta execNvmeCompare
  rw [e]; clear e
  dsimp -zeta -iota -proj -eta -zetaUnused -zetaHave -failIfUnchanged only
  repeat' first
    | with_reducible first
      | refine KeptBy.next ?_ | apply Kept.refl | assumption | apply Kept.via (State.onCmd_kept (h_f := ?_) ..)
      | apply Kept.via (State.readStep_kept (h_done := ?_) ..) | apply Kept.via (State.endCompare_kept ..)
    | simp -zeta -iota -proj -zetaUnused -zetaHave (disch := rfl) only [Kept.update_iff]
    | intro _
    | (extract_lets -underBinder -merge +onlyGivenNames x; refine Kept.step (b := x) ?_ ?_
       all_goals first | (intro _; clear_value x) | dsimp -zeta -iota -proj -zetaUnused -zetaHave only [x])
    | extract_lets -underBinder -merge +onlyGivenNames x
    | split
    | (clear_value x; split)
    | dsimp only

theorem execWriteZeroes_kept (tag : BitVec 13) (s : State) : KeptBy s (execWriteZeroes tag s) := by
  unfold execWriteZeroes
  refine KeptBy.next ?_
  repeat' first
    | with_reducible first
      | apply Kept.refl | apply Kept.via (State.onCmd_kept (h_f := ?_) ..) | apply Kept.via (State.writeZeroes_kept ..)
    | simp -zeta -iota -proj -zetaUnused -zetaHave (disch := rfl) only [Kept.update_iff]
    | intro _

theorem execDatasetManagement_kept (tag : BitVec 13) (s : State) : KeptBy s (execDatasetManagement tag s) := by
  unfold execDatasetManagement
  refine KeptBy.next ?_
  repeat' first
    | with_reducible first
      | apply Kept.refl | apply Kept.via (State.onCmd_kept (h_f := ?_) ..) | apply Kept.via (State.finish_kept ..)
      | apply Kept.via (State.deallocateAll_kept ..)
    | simp -zeta -iota -proj -zetaUnused -zetaHave (disch := rfl) only [Kept.update_iff]
    | intro _
    | split

theorem execNvmeVerify_kept (tag : BitVec 13) (s : State) : KeptBy s (execNvmeVerify tag s) := by
  unfold execNvmeVerify
  refine KeptBy.next ?_
  repeat' first
    | with_reducible first
      | apply Kept.refl | apply Kept.via (State.onCmd_kept (h_f := ?_) ..)
      | apply Kept.via (State.readStep_kept (h_done := ?_) ..) | apply Kept.via (State.endVerify_kept ..)
    | simp -zeta -iota -proj -zetaUnused -zetaHave (disch := rfl) only [Kept.update_iff]
    | intro _

theorem execZoneOpen_kept (tag : BitVec 13) (s : State) : KeptBy s (execZoneOpen tag s) := by
  unfold execZoneOpen
  refine KeptBy.next ?_
  repeat' with_reducible first | apply Kept.refl | apply Kept.via (State.zoneSend_kept ..)

theorem execZoneClose_kept (tag : BitVec 13) (s : State) : KeptBy s (execZoneClose tag s) := by
  unfold execZoneClose
  refine KeptBy.next ?_
  repeat' with_reducible first | apply Kept.refl | apply Kept.via (State.zoneSend_kept ..)

theorem execZoneFinish_kept (tag : BitVec 13) (s : State) : KeptBy s (execZoneFinish tag s) := by
  unfold execZoneFinish
  refine KeptBy.next ?_
  repeat' with_reducible first | apply Kept.refl | apply Kept.via (State.zoneSend_kept ..)

theorem execZoneReset_kept (tag : BitVec 13) (s : State) : KeptBy s (execZoneReset tag s) := by
  unfold execZoneReset
  refine KeptBy.next ?_
  repeat' with_reducible first | apply Kept.refl | apply Kept.via (State.zoneSend_kept ..)

theorem execZoneMgmtSendUnsupported_kept (tag : BitVec 13) (s : State) : KeptBy s (execZoneMgmtSendUnsupported tag s) := by
  unfold execZoneMgmtSendUnsupported
  refine KeptBy.next ?_
  repeat' first
    | with_reducible first
      | apply Kept.refl | apply Kept.via (State.onCmd_kept (h_f := ?_) ..) | apply Kept.via (State.finish_kept ..)
    | simp -zeta -iota -proj -zetaUnused -zetaHave (disch := rfl) only [Kept.update_iff]
    | intro _

theorem execReportZones_kept (tag : BitVec 13) (s : State) : KeptBy s (execReportZones tag s) := by
  unfold execReportZones
  refine KeptBy.next ?_
  repeat' first
    | with_reducible first
      | apply Kept.refl | apply Kept.via (State.onCmd_kept (h_f := ?_) ..) | apply Kept.via (State.finish_kept ..)
      | apply Kept.via (State.reportZones_kept ..)
    | simp -zeta -iota -proj -zetaUnused -zetaHave (disch := rfl) only [Kept.update_iff]
    | intro _
    | split

theorem execZoneAppend_kept (tag : BitVec 13) (data : List Block) (transferError : Bool) (s : State) :
    KeptBy s (execZoneAppend tag data transferError s) := by
  unfold execZoneAppend
  refine KeptBy.next ?_
  repeat' first
    | with_reducible first
      | apply Kept.refl | apply Kept.via (State.onCmd_kept (h_f := ?_) ..) | apply Kept.via (State.writeStep_kept ..)
    | simp -zeta -iota -proj -zetaUnused -zetaHave (disch := rfl) only [Kept.update_iff]
    | intro _

theorem execInvalidIoOpcode_kept (tag : BitVec 13) (s : State) : KeptBy s (execInvalidIoOpcode tag s) := by
  unfold execInvalidIoOpcode
  refine KeptBy.next ?_
  repeat' first
    | with_reducible first
      | apply Kept.refl | apply Kept.via (State.onCmd_kept (h_f := ?_) ..) | apply Kept.via (State.finish_kept ..)
    | simp -zeta -iota -proj -zetaUnused -zetaHave (disch := rfl) only [Kept.update_iff]
    | intro _

end Sys2Proof.Machine
end

