-- ==== Sys2Proof/Laws/KeepsSas.lean ====
section
/-!
SUPPORT. Laws/KeepsSas.lean: each operation and command of Machine/Sas.lean keeps what every operation keeps (`Kept`).
-/
namespace Sys2Proof.Machine

theorem State.refreshNexus_kept (s : State) (p : ℕ) : Kept s (State.refreshNexus s p) := by
  unfold State.refreshNexus
  repeat' with_reducible first | apply Kept.refl | apply Kept.via (State.wr_kept ..)

theorem State.putNexus_kept (s : State) (p : ℕ) (n : ℕ) (x : Nexus) : Kept s (State.putNexus s p n x) := by
  unfold State.putNexus
  repeat' first
    | with_reducible first | apply Kept.refl | apply Kept.via (State.refreshNexus_kept ..)
    | simp -zeta -iota -proj -zetaUnused -zetaHave (disch := rfl) only [Kept.update_iff]

theorem State.connect_kept (s : State) (p : ℕ) (n : ℕ) (addr : ℕ) : Kept s (State.connect s p n addr) := by
  unfold State.connect
  repeat' first
    | with_reducible first
      | apply Kept.refl | apply Kept.via (State.putNexus_kept ..) | apply Kept.via (State.postUa_kept ..)
    | split

theorem State.dropFrames_kept (s : State) (ok : ℕ → HostReq → Bool) : Kept s (State.dropFrames s ok) := by
  have e : @State.dropFrames = @State.dropFrames := rfl
  conv at e => rhs; delta State.dropFrames
  rw [e]; clear e
  dsimp -zeta -iota -proj -eta -zetaUnused -zetaHave -failIfUnchanged only
  repeat' first
    | with_reducible first
      | apply Kept.refl | assumption | apply Kept.via (State.refreshInlets_kept ..) | apply Kept.via (State.wr_kept ..)
      | apply Kept.via (Kept.foldl ?_ ..)
    | simp -zeta -iota -proj -zetaUnused -zetaHave (disch := rfl) only [Kept.update_iff]
    | intro _
    | (extract_lets -underBinder -merge +onlyGivenNames x; refine Kept.step (b := x) ?_ ?_
       all_goals first | (intro _; clear_value x) | dsimp -zeta -iota -proj -zetaUnused -zetaHave only [x])
    | extract_lets -underBinder -merge +onlyGivenNames x
    | split
    | (clear_value x; split)

theorem State.abortSilent_kept (s : State) (c : Cmd) : Kept s (State.abortSilent s c) := by
  unfold State.abortSilent
  repeat' with_reducible first
    | apply Kept.refl | apply Kept.via (State.stopCmd_kept ..) | apply Kept.via (State.wr_kept ..)
    | apply Kept.via (State.count_kept ..) | apply Kept.via (State.modCmd_kept ..)

theorem State.resolveAbort_kept (s : State) (c : Cmd) (sameCycle : Bool) : Kept s (State.resolveAbort s c sameCycle).1 := by
  unfold State.resolveAbort
  repeat' first
    | with_reducible first
      | apply Kept.refl | apply Kept.via (State.count_kept ..) | apply Kept.via (State.tryCommit_kept ..)
      | apply Kept.via (State.abortSilent_kept ..)
    | split

theorem State.abortSet_kept (s : State) (ok : ℕ → HostReq → Bool) : Kept s (State.abortSet s ok) := by
  unfold State.abortSet
  repeat' first
    | with_reducible first
      | apply Kept.refl | apply Kept.via (State.dropFrames_kept ..) | apply Kept.via (State.resolveAbort_kept ..)
      | apply Kept.via (Kept.foldl ?_ ..)
    | intro _

theorem State.abortTask_kept (s : State) (p : ℕ) (n : ℕ) (lun : ℕ) (task : ℕ) (sameCycle : Bool) :
    Kept s (State.abortTask s p n lun task sameCycle).1 := by
  have e : @State.abortTask = @State.abortTask := rfl
  conv at e => rhs; delta State.abortTask
  rw [e]; clear e
  dsimp -zeta -iota -proj -eta -zetaUnused -zetaHave -failIfUnchanged only
  repeat' first
    | with_reducible first
      | apply Kept.refl | apply Kept.via (State.resolveAbort_kept ..) | apply Kept.via (State.count_kept ..)
      | apply Kept.via (State.dropFrames_kept ..)
    | simp -zeta -iota -proj -zetaUnused -zetaHave (disch := rfl) only [Kept.update_iff]
    | intro _
    | (extract_lets -underBinder -merge +onlyGivenNames x; refine Kept.step (b := x) ?_ ?_
       all_goals first | (intro _; clear_value x) | dsimp -zeta -iota -proj -zetaUnused -zetaHave only [x])
    | extract_lets -underBinder -merge +onlyGivenNames x
    | split
    | (clear_value x; split)

theorem State.onLun_kept (s : State) (p : ℕ) (n : ℕ) (tmf : ℕ) (lun : ℕ) (f : State → State) (h_f : ∀ a0, Kept a0 (f a0)) :
    Kept s (State.onLun s p n tmf lun f) := by
  unfold State.onLun
  repeat' first
    | with_reducible first | apply Kept.refl | apply Kept.via (State.emit_kept ..) | apply Kept.via (h_f ..)
    | split

theorem State.commandFrame_kept (s : State) (p : ℕ) (n : ℕ) (addr : ℕ) (r : HostReq) :
    Kept s (State.commandFrame s p n addr r) := by
  have e : @State.commandFrame = @State.commandFrame := rfl
  conv at e => rhs; delta State.commandFrame
  rw [e]; clear e
  dsimp -zeta -iota -proj -eta -zetaUnused -zetaHave -failIfUnchanged only
  repeat' first
    | with_reducible first
      | apply Kept.refl | assumption | apply Kept.via (State.connect_kept ..) | apply Kept.via (State.emit_kept ..)
      | apply Kept.via (State.abortTask_kept ..) | apply Kept.via (State.count_kept ..)
      | apply Kept.via (State.refreshInlets_kept ..)
    | simp -zeta -iota -proj -zetaUnused -zetaHave (disch := rfl) only [Kept.update_iff]
    | intro _
    | (extract_lets -underBinder -merge +onlyGivenNames x; refine Kept.step (b := x) ?_ ?_
       all_goals first | (intro _; clear_value x) | dsimp -zeta -iota -proj -zetaUnused -zetaHave only [x])
    | extract_lets -underBinder -merge +onlyGivenNames x
    | split
    | (clear_value x; split)

theorem State.sendXrdy_kept (s : State) (c : Cmd) : Kept s (State.sendXrdy s c) := by
  have e : @State.sendXrdy = @State.sendXrdy := rfl
  conv at e => rhs; delta State.sendXrdy
  rw [e]; clear e
  dsimp -zeta -iota -proj -eta -zetaUnused -zetaHave -failIfUnchanged only
  repeat' first
    | with_reducible first | apply Kept.refl | apply Kept.via (State.emit_kept ..) | apply Kept.via (State.modCmd_kept ..)
    | simp -zeta -iota -proj -zetaUnused -zetaHave (disch := rfl) only [Kept.update_iff]
    | intro _
    | (extract_lets -underBinder -merge +onlyGivenNames x; refine Kept.step (b := x) ?_ ?_
       all_goals first | (intro _; clear_value x) | dsimp -zeta -iota -proj -zetaUnused -zetaHave only [x])
    | extract_lets -underBinder -merge +onlyGivenNames x
    | split
    | (clear_value x; split)

theorem State.takePayload_kept (s : State) (c : Cmd) (len : ℕ) (data : ℕ) : Kept s (State.takePayload s c len data) := by
  have e : @State.takePayload = @State.takePayload := rfl
  conv at e => rhs; delta State.takePayload
  rw [e]; clear e
  dsimp -zeta -iota -proj -eta -zetaUnused -zetaHave -failIfUnchanged only
  repeat' first
    | with_reducible first
      | apply Kept.refl | assumption | apply Kept.via (State.modCmd_kept ..) | apply Kept.via (State.placeBlock_kept ..)
      | apply Kept.via (State.refreshBuffer_kept ..) | apply Kept.via (State.followZone_kept ..)
    | simp -zeta -iota -proj -zetaUnused -zetaHave (disch := rfl) only [Kept.update_iff]
    | intro _
    | (extract_lets -underBinder -merge +onlyGivenNames x; refine Kept.step (b := x) ?_ ?_
       all_goals first | (intro _; clear_value x) | dsimp -zeta -iota -proj -zetaUnused -zetaHave only [x])
    | extract_lets -underBinder -merge +onlyGivenNames x
    | split
    | (clear_value x; split)
    | dsimp only

theorem State.dataFrame_kept (s : State) (c : Cmd) (offset : ℕ) (len : ℕ) (data : ℕ) :
    Kept s (State.dataFrame s c offset len data) := by
  unfold State.dataFrame
  repeat' first
    | with_reducible first
      | apply Kept.refl | apply Kept.via (State.writeShort_kept ..) | apply Kept.via (State.takePayload_kept ..)
    | split

theorem State.modeSelect_kept (s : State) (c : Cmd) (page : ℕ) (values : List (ℕ × ℕ)) :
    Kept s (State.modeSelect s c page values) := by
  unfold State.modeSelect
  repeat' first
    | with_reducible first | apply Kept.refl | apply Kept.via (State.finish_kept ..)
    | simp -zeta -iota -proj -zetaUnused -zetaHave (disch := rfl) only [Kept.update_iff]
    | split

theorem State.modeSense_kept (s : State) (c : Cmd) : Kept s (State.modeSense s c) := by
  have e : @State.modeSense = @State.modeSense := rfl
  conv at e => rhs; delta State.modeSense
  rw [e]; clear e
  dsimp -zeta -iota -proj -eta -zetaUnused -zetaHave -failIfUnchanged only
  repeat' first
    | with_reducible first
      | apply Kept.refl | apply Kept.via (State.finish_kept ..) | apply Kept.via (State.returnFields_kept ..)
    | simp -zeta -iota -proj -zetaUnused -zetaHave (disch := rfl) only [Kept.update_iff]
    | intro _
    | (extract_lets -underBinder -merge +onlyGivenNames x; refine Kept.step (b := x) ?_ ?_
       all_goals first | (intro _; clear_value x) | dsimp -zeta -iota -proj -zetaUnused -zetaHave only [x])
    | extract_lets -underBinder -merge +onlyGivenNames x
    | split
    | (clear_value x; split)

theorem State.restorePages_kept (s : State) (lun : ℕ) : Kept s (State.restorePages s lun) := by
  unfold State.restorePages
  repeat' first
    | with_reducible first | apply Kept.refl
    | simp -zeta -iota -proj -zetaUnused -zetaHave (disch := rfl) only [Kept.update_iff]

theorem State.requestSense_kept (s : State) (c : Cmd) : Kept s (State.requestSense s c) := by
  have e : @State.requestSense = @State.requestSense := rfl
  conv at e => rhs; delta State.requestSense
  rw [e]; clear e
  dsimp -zeta -iota -proj -eta -zetaUnused -zetaHave -failIfUnchanged only
  repeat' first
    | with_reducible first
      | apply Kept.refl | apply Kept.via (State.returnFields_kept ..) | apply Kept.via (State.takeUa_kept ..)
    | simp -zeta -iota -proj -zetaUnused -zetaHave (disch := rfl) only [Kept.update_iff]
    | intro _
    | (extract_lets -underBinder -merge +onlyGivenNames x; refine Kept.step (b := x) ?_ ?_
       all_goals first | (intro _; clear_value x) | dsimp -zeta -iota -proj -zetaUnused -zetaHave only [x])
    | extract_lets -underBinder -merge +onlyGivenNames x
    | split
    | (clear_value x; split)

theorem State.inquiry_kept (s : State) (c : Cmd) : Kept s (State.inquiry s c) := by
  unfold State.inquiry
  repeat' first
    | with_reducible first
      | apply Kept.refl | apply Kept.via (State.returnFields_kept ..) | apply Kept.via (State.finish_kept ..)
    | split

theorem State.readCapacity_kept (s : State) (c : Cmd) : Kept s (State.readCapacity s c) := by
  unfold State.readCapacity
  repeat' first
    | with_reducible first
      | apply Kept.refl | apply Kept.via (State.returnFields_kept ..) | apply Kept.via (State.finish_kept ..)
    | split

theorem State.logSense_kept (s : State) (c : Cmd) : Kept s (State.logSense s c) := by
  have e : @State.logSense = @State.logSense := rfl
  conv at e => rhs; delta State.logSense
  rw [e]; clear e
  dsimp -zeta -iota -proj -eta -zetaUnused -zetaHave -failIfUnchanged only
  repeat' first
    | with_reducible first
      | apply Kept.refl | apply Kept.via (State.returnFields_kept ..) | apply Kept.via (State.finish_kept ..)
    | simp -zeta -iota -proj -zetaUnused -zetaHave (disch := rfl) only [Kept.update_iff]
    | intro _
    | (extract_lets -underBinder -merge +onlyGivenNames x; refine Kept.step (b := x) ?_ ?_
       all_goals first | (intro _; clear_value x) | dsimp -zeta -iota -proj -zetaUnused -zetaHave only [x])
    | extract_lets -underBinder -merge +onlyGivenNames x
    | split
    | (clear_value x; split)

theorem State.onSas_kept (s : State) (t : ℕ) (ops : List ℕ) (f : Cmd → State) (h_f : ∀ a0, Kept s (f a0)) :
    Kept s (State.onSas s t ops f) := by
  unfold State.onSas
  repeat' first
    | with_reducible first | apply Kept.refl | apply Kept.via (State.onCmd_kept (h_f := ?_) ..) | apply Kept.via (h_f ..)
    | simp -zeta -iota -proj -zetaUnused -zetaHave (disch := rfl) only [Kept.update_iff]
    | intro _

theorem State.startStop_kept (s : State) (c : Cmd) : Kept s (State.startStop s c) := by
  unfold State.startStop
  repeat' first
    | with_reducible first
      | apply Kept.refl | apply Kept.via (State.finish_kept ..) | apply Kept.via (State.requestState_kept ..)
    | simp -zeta -iota -proj -zetaUnused -zetaHave (disch := rfl) only [Kept.update_iff]
    | split

theorem State.formatUnit_kept (s : State) (c : Cmd) : Kept s (State.formatUnit s c) := by
  unfold State.formatUnit
  repeat' first
    | with_reducible first
      | apply Kept.refl | apply Kept.via (State.finish_kept ..) | apply Kept.via (State.formatNs_kept ..)
    | split

theorem State.scsiSanitize_kept (s : State) (c : Cmd) : Kept s (State.scsiSanitize s c) := by
  unfold State.scsiSanitize
  repeat' first
    | with_reducible first
      | apply Kept.refl | apply Kept.via (State.finish_kept ..) | apply Kept.via (State.sanitizeAll_kept ..)
    | split

theorem State.writeBuffer_kept (s : State) (c : Cmd) (data : List ℕ) : Kept s (State.writeBuffer s c data) := by
  unfold State.writeBuffer
  repeat' first
    | with_reducible first
      | apply Kept.refl | apply Kept.via (State.finish_kept ..) | apply Kept.via (State.stage_kept ..)
      | apply Kept.via (State.hostCommit_kept ..)
    | split

theorem State.readBuffer_kept (s : State) (c : Cmd) : Kept s (State.readBuffer s c) := by
  unfold State.readBuffer
  repeat' first
    | with_reducible first | apply Kept.refl | apply Kept.via (State.finish_kept ..) | apply Kept.via (State.emit_kept ..)
    | split

theorem State.writeSame_kept (s : State) (c : Cmd) (data : ℕ) : Kept s (State.writeSame s c data) := by
  unfold State.writeSame
  repeat' first
    | with_reducible first
      | apply Kept.refl | apply Kept.via (State.finish_kept ..) | apply Kept.via (State.writeZeroes_kept ..)
    | split

theorem State.unmap_kept (s : State) (c : Cmd) : Kept s (State.unmap s c) := by
  unfold State.unmap
  repeat' first
    | with_reducible first
      | apply Kept.refl | apply Kept.via (State.finish_kept ..) | apply Kept.via (State.deallocateAll_kept ..)
    | split

theorem State.nexusTransport_kept (s : State) (p : ℕ) (addr : ℕ) (lost : Bool) :
    Kept s (State.nexusTransport s p addr lost) := by
  have e : @State.nexusTransport = @State.nexusTransport := rfl
  conv at e => rhs; delta State.nexusTransport
  rw [e]; clear e
  dsimp -zeta -iota -proj -eta -zetaUnused -zetaHave -failIfUnchanged only
  repeat' first
    | with_reducible first
      | apply Kept.refl | assumption | apply Kept.via (State.unown_kept ..) | apply Kept.via (State.discardStage_kept ..)
    | simp -zeta -iota -proj -zetaUnused -zetaHave (disch := rfl) only [Kept.update_iff]
    | intro _
    | (extract_lets -underBinder -merge +onlyGivenNames x; refine Kept.step (b := x) ?_ ?_
       all_goals first | (intro _; clear_value x) | dsimp -zeta -iota -proj -zetaUnused -zetaHave only [x])
    | extract_lets -underBinder -merge +onlyGivenNames x
    | split
    | (clear_value x; split)

theorem State.nexusLoss_kept (s : State) (p : ℕ) (n : ℕ) : Kept s (State.nexusLoss s p n) := by
  unfold State.nexusLoss
  repeat' first
    | with_reducible first
      | apply Kept.refl | apply Kept.via (State.abortSet_kept ..) | apply Kept.via (State.putNexus_kept ..)
      | apply Kept.via (State.nexusTransport_kept ..)
    | split

theorem State.nexusReset_kept (s : State) (p : ℕ) (n : ℕ) : Kept s (State.nexusReset s p n) := by
  have e : @State.nexusReset = @State.nexusReset := rfl
  conv at e => rhs; delta State.nexusReset
  rw [e]; clear e
  dsimp -zeta -iota -proj -eta -zetaUnused -zetaHave -failIfUnchanged only
  repeat' first
    | with_reducible first
      | apply Kept.refl | assumption | apply Kept.via (State.postUa_kept ..) | apply Kept.via (State.abortSet_kept ..)
      | apply Kept.via (State.nexusTransport_kept ..)
    | simp -zeta -iota -proj -zetaUnused -zetaHave (disch := rfl) only [Kept.update_iff]
    | intro _
    | (extract_lets -underBinder -merge +onlyGivenNames x; refine Kept.step (b := x) ?_ ?_
       all_goals first | (intro _; clear_value x) | dsimp -zeta -iota -proj -zetaUnused -zetaHave only [x])
    | extract_lets -underBinder -merge +onlyGivenNames x
    | split
    | (clear_value x; split)

theorem State.startLoss_kept (s : State) (p : ℕ) (n : ℕ) : Kept s (State.startLoss s p n) := by
  unfold State.startLoss
  repeat' first
    | with_reducible first | apply Kept.refl | apply Kept.via (State.putNexus_kept ..)
    | split

theorem execSasCommandFrame_kept (port : Fin 2) (nexus : Fin 32) (initiator : BitVec 64) (frame : HostReq) (s : State) :
    KeptBy s (execSasCommandFrame port nexus initiator frame s) := by
  unfold execSasCommandFrame
  refine KeptBy.next ?_
  repeat' first
    | with_reducible first | apply Kept.refl | apply Kept.via (State.commandFrame_kept ..)
    | split

theorem execXferRdy_kept (tag : BitVec 13) (s : State) : KeptBy s (execXferRdy tag s) := by
  unfold execXferRdy
  refine KeptBy.next ?_
  repeat' first
    | with_reducible first
      | apply Kept.refl | apply Kept.via (State.onCmd_kept (h_f := ?_) ..) | apply Kept.via (State.sendXrdy_kept ..)
    | simp -zeta -iota -proj -zetaUnused -zetaHave (disch := rfl) only [Kept.update_iff]
    | intro _

theorem execSasDataFrame_kept (tag : BitVec 13) (offset : BitVec 32) (len : Fin 1025) (data : BitVec 8192) (s : State) :
    KeptBy s (execSasDataFrame tag offset len data s) := by
  unfold execSasDataFrame
  refine KeptBy.next ?_
  repeat' first
    | with_reducible first
      | apply Kept.refl | apply Kept.via (State.onCmd_kept (h_f := ?_) ..) | apply Kept.via (State.dataFrame_kept ..)
    | simp -zeta -iota -proj -zetaUnused -zetaHave (disch := rfl) only [Kept.update_iff]
    | intro _

theorem execSasLinkReset_kept (port : Fin 2) (rate : Fin 4) (s : State) : KeptBy s (execSasLinkReset port rate s) := by
  unfold execSasLinkReset
  refine KeptBy.next ?_
  repeat' first
    | with_reducible first | apply Kept.refl | apply Kept.via (State.wrFlag_kept ..) | apply Kept.via (State.wr_kept ..)
    | split

theorem execSasLinkLoss_kept (port : Fin 2) (nexus : Option (Fin 32)) (s : State) :
    KeptBy s (execSasLinkLoss port nexus s) := by
  unfold execSasLinkLoss
  refine KeptBy.next ?_
  repeat' first
    | with_reducible first
      | apply Kept.refl | apply Kept.via (State.startLoss_kept ..) | apply Kept.via (State.wr_kept ..)
      | apply Kept.via (Kept.foldl ?_ ..)
    | simp -zeta -iota -proj -zetaUnused -zetaHave (disch := rfl) only [Kept.update_iff]
    | intro _
    | split

theorem execAbortTask_kept (port : Fin 2) (nexus : Fin 32) (tmf : BitVec 16) (lun : BitVec 8) (task : BitVec 16) (sameCycle : Bool) (s : State) :
    KeptBy s (execAbortTask port nexus tmf lun task sameCycle s) := by
  unfold execAbortTask
  refine KeptBy.next ?_
  repeat' first
    | with_reducible first
      | apply Kept.refl | apply Kept.via (State.onLun_kept (h_f := ?_) ..) | apply Kept.via (State.abortTask_kept ..)
      | apply Kept.via (State.emit_kept ..)
    | simp -zeta -iota -proj -zetaUnused -zetaHave (disch := rfl) only [Kept.update_iff]
    | intro _

theorem execAbortTaskSet_kept (port : Fin 2) (nexus : Fin 32) (tmf : BitVec 16) (lun : BitVec 8) (s : State) :
    KeptBy s (execAbortTaskSet port nexus tmf lun s) := by
  unfold execAbortTaskSet
  refine KeptBy.next ?_
  repeat' first
    | with_reducible first
      | apply Kept.refl | apply Kept.via (State.onLun_kept (h_f := ?_) ..) | apply Kept.via (State.emit_kept ..)
      | apply Kept.via (State.abortSet_kept ..)
    | simp -zeta -iota -proj -zetaUnused -zetaHave (disch := rfl) only [Kept.update_iff]
    | intro _

theorem execClearTaskSet_kept (port : Fin 2) (nexus : Fin 32) (tmf : BitVec 16) (lun : BitVec 8) (s : State) :
    KeptBy s (execClearTaskSet port nexus tmf lun s) := by
  unfold execClearTaskSet
  refine KeptBy.next ?_
  repeat' first
    | with_reducible first
      | apply Kept.refl | apply Kept.via (State.onLun_kept (h_f := ?_) ..) | apply Kept.via (State.emit_kept ..)
      | apply Kept.via (State.postUaAll_kept ..) | apply Kept.via (State.abortSet_kept ..)
    | simp -zeta -iota -proj -zetaUnused -zetaHave (disch := rfl) only [Kept.update_iff]
    | intro _

theorem execLogicalUnitReset_kept (port : Fin 2) (nexus : Fin 32) (tmf : BitVec 16) (lun : BitVec 8) (s : State) :
    KeptBy s (execLogicalUnitReset port nexus tmf lun s) := by
  unfold execLogicalUnitReset
  refine KeptBy.next ?_
  repeat' first
    | with_reducible first
      | apply Kept.refl | apply Kept.via (State.onLun_kept (h_f := ?_) ..) | apply Kept.via (State.emit_kept ..)
      | apply Kept.via (State.postUaAll_kept ..) | apply Kept.via (State.restorePages_kept ..)
      | apply Kept.via (State.abortSet_kept ..)
    | simp -zeta -iota -proj -zetaUnused -zetaHave (disch := rfl) only [Kept.update_iff]
    | intro _

theorem execITNexusReset_kept (port : Fin 2) (nexus : Fin 32) (tmf : BitVec 16) (s : State) :
    KeptBy s (execITNexusReset port nexus tmf s) := by
  unfold execITNexusReset
  refine KeptBy.next ?_
  repeat' with_reducible first
    | apply Kept.refl | apply Kept.via (State.emit_kept ..) | apply Kept.via (State.nexusReset_kept ..)

theorem execQueryTask_kept (port : Fin 2) (nexus : Fin 32) (tmf : BitVec 16) (lun : BitVec 8) (task : BitVec 16) (s : State) :
    KeptBy s (execQueryTask port nexus tmf lun task s) := by
  unfold execQueryTask
  refine KeptBy.next ?_
  repeat' first
    | with_reducible first
      | apply Kept.refl | apply Kept.via (State.onLun_kept (h_f := ?_) ..) | apply Kept.via (State.emit_kept ..)
    | simp -zeta -iota -proj -zetaUnused -zetaHave (disch := rfl) only [Kept.update_iff]
    | intro _

theorem execQueryTaskSet_kept (port : Fin 2) (nexus : Fin 32) (tmf : BitVec 16) (lun : BitVec 8) (s : State) :
    KeptBy s (execQueryTaskSet port nexus tmf lun s) := by
  unfold execQueryTaskSet
  refine KeptBy.next ?_
  repeat' first
    | with_reducible first
      | apply Kept.refl | apply Kept.via (State.onLun_kept (h_f := ?_) ..) | apply Kept.via (State.emit_kept ..)
    | simp -zeta -iota -proj -zetaUnused -zetaHave (disch := rfl) only [Kept.update_iff]
    | intro _

theorem execQueryAsynchronousEvent_kept (port : Fin 2) (nexus : Fin 32) (tmf : BitVec 16) (lun : BitVec 8) (s : State) :
    KeptBy s (execQueryAsynchronousEvent port nexus tmf lun s) := by
  unfold execQueryAsynchronousEvent
  refine KeptBy.next ?_
  repeat' first
    | with_reducible first
      | apply Kept.refl | apply Kept.via (State.onLun_kept (h_f := ?_) ..) | apply Kept.via (State.emit_kept ..)
    | simp -zeta -iota -proj -zetaUnused -zetaHave (disch := rfl) only [Kept.update_iff]
    | intro _
    | split

theorem execTmfNotSupported_kept (port : Fin 2) (nexus : Fin 32) (tmf : BitVec 16) (lun : BitVec 8) (s : State) :
    KeptBy s (execTmfNotSupported port nexus tmf lun s) := by
  unfold execTmfNotSupported
  refine KeptBy.next ?_
  repeat' first
    | with_reducible first
      | apply Kept.refl | apply Kept.via (State.onLun_kept (h_f := ?_) ..) | apply Kept.via (State.emit_kept ..)
    | simp -zeta -iota -proj -zetaUnused -zetaHave (disch := rfl) only [Kept.update_iff]
    | intro _

theorem execITNexusLoss_kept (port : Fin 2) (nexus : Fin 32) (s : State) : KeptBy s (execITNexusLoss port nexus s) := by
  unfold execITNexusLoss
  refine KeptBy.next ?_
  repeat' with_reducible first | apply Kept.refl | apply Kept.via (State.nexusLoss_kept ..)

theorem execTestUnitReady_kept (tag : BitVec 13) (s : State) : KeptBy s (execTestUnitReady tag s) := by
  unfold execTestUnitReady
  refine KeptBy.next ?_
  repeat' first
    | with_reducible first
      | apply Kept.refl | apply Kept.via (State.onSas_kept (h_f := ?_) ..) | apply Kept.via (State.finish_kept ..)
    | simp -zeta -iota -proj -zetaUnused -zetaHave (disch := rfl) only [Kept.update_iff]
    | intro _

theorem execRequestSense_kept (tag : BitVec 13) (s : State) : KeptBy s (execRequestSense tag s) := by
  unfold execRequestSense
  refine KeptBy.next ?_
  repeat' first
    | with_reducible first
      | apply Kept.refl | apply Kept.via (State.onSas_kept (h_f := ?_) ..) | apply Kept.via (State.requestSense_kept ..)
    | simp -zeta -iota -proj -zetaUnused -zetaHave (disch := rfl) only [Kept.update_iff]
    | intro _

theorem execFormatUnit_kept (tag : BitVec 13) (s : State) : KeptBy s (execFormatUnit tag s) := by
  unfold execFormatUnit
  refine KeptBy.next ?_
  repeat' first
    | with_reducible first
      | apply Kept.refl | apply Kept.via (State.onSas_kept (h_f := ?_) ..) | apply Kept.via (State.formatUnit_kept ..)
    | simp -zeta -iota -proj -zetaUnused -zetaHave (disch := rfl) only [Kept.update_iff]
    | intro _

theorem execInquiry_kept (tag : BitVec 13) (s : State) : KeptBy s (execInquiry tag s) := by
  unfold execInquiry
  refine KeptBy.next ?_
  repeat' first
    | with_reducible first
      | apply Kept.refl | apply Kept.via (State.onSas_kept (h_f := ?_) ..) | apply Kept.via (State.inquiry_kept ..)
    | simp -zeta -iota -proj -zetaUnused -zetaHave (disch := rfl) only [Kept.update_iff]
    | intro _

theorem execModeSelect_kept (tag : BitVec 13) (page : BitVec 6) (values : List (Fin 8 × BitVec 32)) (s : State) :
    KeptBy s (execModeSelect tag page values s) := by
  unfold execModeSelect
  refine KeptBy.next ?_
  repeat' first
    | with_reducible first
      | apply Kept.refl | apply Kept.via (State.onSas_kept (h_f := ?_) ..) | apply Kept.via (State.modeSelect_kept ..)
    | simp -zeta -iota -proj -zetaUnused -zetaHave (disch := rfl) only [Kept.update_iff]
    | intro _

theorem execModeSense_kept (tag : BitVec 13) (s : State) : KeptBy s (execModeSense tag s) := by
  unfold execModeSense
  refine KeptBy.next ?_
  repeat' first
    | with_reducible first
      | apply Kept.refl | apply Kept.via (State.onSas_kept (h_f := ?_) ..) | apply Kept.via (State.modeSense_kept ..)
    | simp -zeta -iota -proj -zetaUnused -zetaHave (disch := rfl) only [Kept.update_iff]
    | intro _

theorem execStartStopUnit_kept (tag : BitVec 13) (s : State) : KeptBy s (execStartStopUnit tag s) := by
  unfold execStartStopUnit
  refine KeptBy.next ?_
  repeat' first
    | with_reducible first
      | apply Kept.refl | apply Kept.via (State.onSas_kept (h_f := ?_) ..) | apply Kept.via (State.startStop_kept ..)
    | simp -zeta -iota -proj -zetaUnused -zetaHave (disch := rfl) only [Kept.update_iff]
    | intro _

theorem execReadCapacity_kept (tag : BitVec 13) (s : State) : KeptBy s (execReadCapacity tag s) := by
  unfold execReadCapacity
  refine KeptBy.next ?_
  repeat' first
    | with_reducible first
      | apply Kept.refl | apply Kept.via (State.onSas_kept (h_f := ?_) ..) | apply Kept.via (State.readCapacity_kept ..)
    | simp -zeta -iota -proj -zetaUnused -zetaHave (disch := rfl) only [Kept.update_iff]
    | intro _

theorem execScsiRead_kept (tag : BitVec 13) (sendTo : BitVec 17) (s : State) : KeptBy s (execScsiRead tag sendTo s) := by
  unfold execScsiRead
  refine KeptBy.next ?_
  repeat' first
    | with_reducible first
      | apply Kept.refl | apply Kept.via (State.onSas_kept (h_f := ?_) ..)
      | apply Kept.via (State.readStep_kept (h_done := ?_) ..) | apply Kept.via (State.endRead_kept ..)
    | simp -zeta -iota -proj -zetaUnused -zetaHave (disch := rfl) only [Kept.update_iff]
    | intro _

theorem execScsiWrite_kept (tag : BitVec 13) (s : State) : KeptBy s (execScsiWrite tag s) := by
  unfold execScsiWrite
  refine KeptBy.next ?_
  repeat' first
    | with_reducible first
      | apply Kept.refl | apply Kept.via (State.onSas_kept (h_f := ?_) ..) | apply Kept.via (State.writeDone_kept ..)
    | simp -zeta -iota -proj -zetaUnused -zetaHave (disch := rfl) only [Kept.update_iff]
    | intro _
    | split

theorem execScsiVerify_kept (tag : BitVec 13) (s : State) : KeptBy s (execScsiVerify tag s) := by
  unfold execScsiVerify
  refine KeptBy.next ?_
  repeat' first
    | with_reducible first
      | apply Kept.refl | apply Kept.via (State.onSas_kept (h_f := ?_) ..) | apply Kept.via (State.finish_kept ..)
      | apply Kept.via (State.readStep_kept (h_done := ?_) ..) | apply Kept.via (State.endVerify_kept ..)
    | simp -zeta -iota -proj -zetaUnused -zetaHave (disch := rfl) only [Kept.update_iff]
    | intro _
    | split

theorem execSynchronizeCache_kept (tag : BitVec 13) (s : State) : KeptBy s (execSynchronizeCache tag s) := by
  unfold execSynchronizeCache
  refine KeptBy.next ?_
  repeat' first
    | with_reducible first
      | apply Kept.refl | apply Kept.via (State.onSas_kept (h_f := ?_) ..) | apply Kept.via (State.finish_kept ..)
    | simp -zeta -iota -proj -zetaUnused -zetaHave (disch := rfl) only [Kept.update_iff]
    | intro _

theorem execWriteSame16_kept (tag : BitVec 13) (data : Block) (s : State) : KeptBy s (execWriteSame16 tag data s) := by
  unfold execWriteSame16
  refine KeptBy.next ?_
  repeat' first
    | with_reducible first
      | apply Kept.refl | apply Kept.via (State.onSas_kept (h_f := ?_) ..) | apply Kept.via (State.writeSame_kept ..)
    | simp -zeta -iota -proj -zetaUnused -zetaHave (disch := rfl) only [Kept.update_iff]
    | intro _

theorem execUnmap_kept (tag : BitVec 13) (s : State) : KeptBy s (execUnmap tag s) := by
  unfold execUnmap
  refine KeptBy.next ?_
  repeat' first
    | with_reducible first
      | apply Kept.refl | apply Kept.via (State.onSas_kept (h_f := ?_) ..) | apply Kept.via (State.unmap_kept ..)
    | simp -zeta -iota -proj -zetaUnused -zetaHave (disch := rfl) only [Kept.update_iff]
    | intro _

theorem execWriteBuffer_kept (tag : BitVec 13) (data : List Block) (s : State) : KeptBy s (execWriteBuffer tag data s) := by
  unfold execWriteBuffer
  refine KeptBy.next ?_
  repeat' first
    | with_reducible first
      | apply Kept.refl | apply Kept.via (State.onSas_kept (h_f := ?_) ..) | apply Kept.via (State.writeBuffer_kept ..)
    | simp -zeta -iota -proj -zetaUnused -zetaHave (disch := rfl) only [Kept.update_iff]
    | intro _

theorem execReadBuffer_kept (tag : BitVec 13) (s : State) : KeptBy s (execReadBuffer tag s) := by
  unfold execReadBuffer
  refine KeptBy.next ?_
  repeat' first
    | with_reducible first
      | apply Kept.refl | apply Kept.via (State.onSas_kept (h_f := ?_) ..) | apply Kept.via (State.readBuffer_kept ..)
    | simp -zeta -iota -proj -zetaUnused -zetaHave (disch := rfl) only [Kept.update_iff]
    | intro _

theorem execScsiSanitize_kept (tag : BitVec 13) (s : State) : KeptBy s (execScsiSanitize tag s) := by
  unfold execScsiSanitize
  refine KeptBy.next ?_
  repeat' first
    | with_reducible first
      | apply Kept.refl | apply Kept.via (State.onSas_kept (h_f := ?_) ..) | apply Kept.via (State.scsiSanitize_kept ..)
    | simp -zeta -iota -proj -zetaUnused -zetaHave (disch := rfl) only [Kept.update_iff]
    | intro _

theorem execLogSense_kept (tag : BitVec 13) (s : State) : KeptBy s (execLogSense tag s) := by
  unfold execLogSense
  refine KeptBy.next ?_
  repeat' first
    | with_reducible first
      | apply Kept.refl | apply Kept.via (State.onSas_kept (h_f := ?_) ..) | apply Kept.via (State.logSense_kept ..)
    | simp -zeta -iota -proj -zetaUnused -zetaHave (disch := rfl) only [Kept.update_iff]
    | intro _

theorem execReportLuns_kept (tag : BitVec 13) (s : State) : KeptBy s (execReportLuns tag s) := by
  unfold execReportLuns
  refine KeptBy.next ?_
  repeat' first
    | with_reducible first
      | apply Kept.refl | apply Kept.via (State.onSas_kept (h_f := ?_) ..) | apply Kept.via (State.returnFields_kept ..)
    | simp -zeta -iota -proj -zetaUnused -zetaHave (disch := rfl) only [Kept.update_iff]
    | intro _

theorem execReportSupportedOpcodes_kept (tag : BitVec 13) (s : State) : KeptBy s (execReportSupportedOpcodes tag s) := by
  unfold execReportSupportedOpcodes
  refine KeptBy.next ?_
  repeat' first
    | with_reducible first
      | apply Kept.refl | apply Kept.via (State.onSas_kept (h_f := ?_) ..) | apply Kept.via (State.returnFields_kept ..)
    | simp -zeta -iota -proj -zetaUnused -zetaHave (disch := rfl) only [Kept.update_iff]
    | intro _

theorem execCloseZone_kept (tag : BitVec 13) (s : State) : KeptBy s (execCloseZone tag s) := by
  unfold execCloseZone
  refine KeptBy.next ?_
  repeat' first
    | with_reducible first
      | apply Kept.refl | apply Kept.via (State.onSas_kept (h_f := ?_) ..) | apply Kept.via (State.zoneCmd_kept ..)
    | simp -zeta -iota -proj -zetaUnused -zetaHave (disch := rfl) only [Kept.update_iff]
    | intro _
    | split

theorem execFinishZone_kept (tag : BitVec 13) (s : State) : KeptBy s (execFinishZone tag s) := by
  unfold execFinishZone
  refine KeptBy.next ?_
  repeat' first
    | with_reducible first
      | apply Kept.refl | apply Kept.via (State.onSas_kept (h_f := ?_) ..) | apply Kept.via (State.zoneCmd_kept ..)
    | simp -zeta -iota -proj -zetaUnused -zetaHave (disch := rfl) only [Kept.update_iff]
    | intro _
    | split

theorem execOpenZone_kept (tag : BitVec 13) (s : State) : KeptBy s (execOpenZone tag s) := by
  unfold execOpenZone
  refine KeptBy.next ?_
  repeat' first
    | with_reducible first
      | apply Kept.refl | apply Kept.via (State.onSas_kept (h_f := ?_) ..) | apply Kept.via (State.zoneCmd_kept ..)
    | simp -zeta -iota -proj -zetaUnused -zetaHave (disch := rfl) only [Kept.update_iff]
    | intro _
    | split

theorem execResetWritePointer_kept (tag : BitVec 13) (s : State) : KeptBy s (execResetWritePointer tag s) := by
  unfold execResetWritePointer
  refine KeptBy.next ?_
  repeat' first
    | with_reducible first
      | apply Kept.refl | apply Kept.via (State.onSas_kept (h_f := ?_) ..) | apply Kept.via (State.zoneCmd_kept ..)
    | simp -zeta -iota -proj -zetaUnused -zetaHave (disch := rfl) only [Kept.update_iff]
    | intro _
    | split

theorem execScsiInvalidOpcode_kept (tag : BitVec 13) (s : State) : KeptBy s (execScsiInvalidOpcode tag s) := by
  unfold execScsiInvalidOpcode
  refine KeptBy.next ?_
  repeat' first
    | with_reducible first
      | apply Kept.refl | apply Kept.via (State.onCmd_kept (h_f := ?_) ..) | apply Kept.via (State.finish_kept ..)
    | simp -zeta -iota -proj -zetaUnused -zetaHave (disch := rfl) only [Kept.update_iff]
    | intro _

end Sys2Proof.Machine
end

