-- ==== Sys2Proof/Laws/KeepsAbacus.lean ====
section
/-!
SUPPORT. Laws/KeepsAbacus.lean: each operation and command of Machine/Abacus.lean keeps what every operation keeps (`Kept`).
-/
namespace Sys2Proof.Machine

theorem State.startClock_kept (s : State) (v : Serve) (loc : ℕ) : Kept s (State.startClock s v loc) := by
  have e : @State.startClock = @State.startClock := rfl
  conv at e => rhs; delta State.startClock
  rw [e]; clear e
  dsimp -zeta -iota -proj -eta -zetaUnused -zetaHave -failIfUnchanged only
  repeat' first
    | with_reducible first | apply Kept.refl
    | simp -zeta -iota -proj -zetaUnused -zetaHave (disch := rfl) only [Kept.update_iff]
    | intro _
    | (extract_lets -underBinder -merge +onlyGivenNames x; refine Kept.step (b := x) ?_ ?_
       all_goals first | (intro _; clear_value x) | dsimp -zeta -iota -proj -zetaUnused -zetaHave only [x])
    | extract_lets -underBinder -merge +onlyGivenNames x
    | split
    | (clear_value x; split)

theorem State.startBead_kept (s : State) : Kept s (State.startBead s) := by
  unfold State.startBead
  repeat' first
    | with_reducible first
      | apply Kept.refl | apply Kept.via (State.modLlr_kept ..) | apply Kept.via (State.refreshAbx_kept ..)
      | apply Kept.via (State.wr_kept ..)
    | simp -zeta -iota -proj -zetaUnused -zetaHave (disch := rfl) only [Kept.update_iff]
    | split

theorem State.freeBead_kept (s : State) (b : ℕ) : Kept s (State.freeBead s b) := by
  unfold State.freeBead
  repeat' first
    | with_reducible first | apply Kept.refl | apply Kept.via (State.refreshAbx_kept ..)
    | simp -zeta -iota -proj -zetaUnused -zetaHave (disch := rfl) only [Kept.update_iff]

theorem State.convergedAs_kept (s : State) (loc : ℕ) (word : Codeword) : Kept s (State.convergedAs s loc word).2 := by
  unfold State.convergedAs
  repeat' first
    | with_reducible first | apply Kept.refl | apply Kept.via (State.free_kept ..)
    | split

theorem State.iterationEnd_kept (s : State) (b : ℕ) (bd : Bead) (x : LlrSlot) (resid : ℕ) (word : Codeword) (memErr : Bool) :
    Kept s (State.iterationEnd s b bd x resid word memErr) := by
  have e : @State.iterationEnd = @State.iterationEnd := rfl
  conv at e => rhs; delta State.iterationEnd
  rw [e]; clear e
  dsimp -zeta -iota -proj -eta -zetaUnused -zetaHave -failIfUnchanged only
  repeat' first
    | with_reducible first
      | apply Kept.refl | assumption | apply Kept.via (State.freeBead_kept ..) | apply Kept.via (State.modLlr_kept ..)
      | apply Kept.via (State.freeLlr_kept ..) | refine Kept.via_snd (State.convergedAs_kept ..) ‹_› ?_
      | apply Kept.via (State.convergedAs_kept ..) | apply Kept.via (State.refreshAbx_kept ..)
    | simp -zeta -iota -proj -zetaUnused -zetaHave (disch := rfl) only [Kept.update_iff]
    | intro _
    | (extract_lets -underBinder -merge +onlyGivenNames x; refine Kept.step (b := x) ?_ ?_
       all_goals first | (intro _; clear_value x) | dsimp -zeta -iota -proj -zetaUnused -zetaHave only [x])
    | extract_lets -underBinder -merge +onlyGivenNames x
    | split
    | (clear_value x; split)
    | dsimp only

theorem State.countIf_kept (s : State) (c : Bool) (f : Fld) (line : ℕ) : Kept s (State.countIf s c f line) := by
  unfold State.countIf
  repeat' first
    | with_reducible first | apply Kept.refl | apply Kept.via (State.raise_kept ..) | apply Kept.via (State.count_kept ..)
    | split

theorem State.countResult_kept (s : State) (x : LlrSlot) (v : State.Verdict) (dlMiss : Bool) :
    Kept s (State.countResult s x v dlMiss) := by
  unfold State.countResult
  repeat' first
    | with_reducible first
      | apply Kept.refl | apply Kept.via (State.count_kept ..) | apply Kept.via (State.countIf_kept ..)
      | apply Kept.via (State.raise_kept ..)
    | split

theorem State.toUnit_kept (s : State) (v : Serve) (user : ℕ) (bad : Bool) : Kept s (State.toUnit s v user bad) := by
  have e : @State.toUnit = @State.toUnit := rfl
  conv at e => rhs; delta State.toUnit
  rw [e]; clear e
  dsimp -zeta -iota -proj -eta -zetaUnused -zetaHave -failIfUnchanged only
  repeat' first
    | with_reducible first | apply Kept.refl
    | simp -zeta -iota -proj -zetaUnused -zetaHave (disch := rfl) only [Kept.update_iff]
    | intro _
    | (extract_lets -underBinder -merge +onlyGivenNames x; refine Kept.step (b := x) ?_ ?_
       all_goals first | (intro _; clear_value x) | dsimp -zeta -iota -proj -zetaUnused -zetaHave only [x])
    | extract_lets -underBinder -merge +onlyGivenNames x
    | split
    | (clear_value x; split)

theorem State.stagedMib_kept (s : State) : Kept s (State.stagedMib s) := by
  unfold State.stagedMib
  repeat' with_reducible first | apply Kept.refl | apply Kept.via (State.wr_kept ..)

theorem State.serveSector_kept (s : State) (v : Serve) (user : ℕ) (bad : Bool) : Kept s (State.serveSector s v user bad) := by
  unfold State.serveSector
  repeat' first
    | with_reducible first
      | apply Kept.refl | apply Kept.via (State.stagedMib_kept ..) | apply Kept.via (State.toUnit_kept ..)
      | apply Kept.via (State.deliver_kept ..) | apply Kept.via (State.refreshBuffer_kept ..)
      | apply Kept.via (State.placeOld_kept ..)
    | simp -zeta -iota -proj -zetaUnused -zetaHave (disch := rfl) only [Kept.update_iff]
    | split

theorem State.modEntry_kept (s : State) (l : ℕ) (f : Ladder → Ladder) : Kept s (State.modEntry s l f) := by
  unfold State.modEntry
  repeat' first
    | with_reducible first | apply Kept.refl
    | simp -zeta -iota -proj -zetaUnused -zetaHave (disch := rfl) only [Kept.update_iff]

theorem State.dropEntry_kept (s : State) (l : ℕ) : Kept s (State.dropEntry s l) := by
  unfold State.dropEntry
  repeat' first
    | with_reducible first | apply Kept.refl
    | simp -zeta -iota -proj -zetaUnused -zetaHave (disch := rfl) only [Kept.update_iff]

theorem State.pinSlot_kept (s : State) (l : ℕ) (i : ℕ) : Kept s (State.pinSlot s l i) := by
  unfold State.pinSlot
  repeat' first
    | with_reducible first
      | apply Kept.refl | apply Kept.via (State.refreshAbx_kept ..) | apply Kept.via (State.modEntry_kept ..)
      | apply Kept.via (State.modLlr_kept ..) | apply Kept.via (State.freeLlr_kept ..) | apply Kept.via (State.raise_kept ..)
      | apply Kept.via (State.count_kept ..)
    | split

theorem State.unrecoverable_kept (s : State) (e : Ladder) : Kept s (State.unrecoverable s e) := by
  unfold State.unrecoverable
  repeat' first
    | with_reducible first
      | apply Kept.refl | apply Kept.via (State.raise_kept ..) | apply Kept.via (State.count_kept ..)
      | apply Kept.via (State.freeLlr_kept ..) | apply Kept.via (State.serveSector_kept ..)
      | apply Kept.via (State.dropEntry_kept ..)
    | split

theorem State.ladderNext_kept (s : State) (l : ℕ) : Kept s (State.ladderNext s l) := by
  unfold State.ladderNext
  repeat' first
    | with_reducible first | apply Kept.refl | apply Kept.via (State.unrecoverable_kept ..)
    | split

theorem State.enterLadder_kept (s : State) (i : ℕ) (x : LlrSlot) : Kept s (State.enterLadder s i x) := by
  unfold State.enterLadder
  repeat' first
    | with_reducible first
      | apply Kept.refl | apply Kept.via (State.startClock_kept ..) | apply Kept.via (State.raise_kept ..)
      | apply Kept.via (State.count_kept ..) | apply Kept.via (State.freeLlr_kept ..) | apply Kept.via (State.pinSlot_kept ..)
      | apply Kept.via (State.ladderNext_kept ..)
    | simp -zeta -iota -proj -zetaUnused -zetaHave (disch := rfl) only [Kept.update_iff]
    | split

theorem State.stepFailed_kept (s : State) (i : ℕ) (x : LlrSlot) (e : Ladder) : Kept s (State.stepFailed s i x e) := by
  unfold State.stepFailed
  repeat' first
    | with_reducible first
      | apply Kept.refl | apply Kept.via (State.modEntry_kept ..) | apply Kept.via (State.freeLlr_kept ..)
      | apply Kept.via (State.refreshAbx_kept ..) | apply Kept.via (State.modLlr_kept ..)
      | apply Kept.via (State.pinSlot_kept ..) | apply Kept.via (State.ladderNext_kept ..)
    | split

theorem State.relocCheck_kept (s : State) (x : LlrSlot) : Kept s (State.relocCheck s x) := by
  unfold State.relocCheck
  repeat' first
    | with_reducible first
      | apply Kept.refl | apply Kept.via (State.qualify_kept ..) | apply Kept.via (State.watchBlind_kept ..)
    | split

theorem State.unpinOther_kept (s : State) (i : ℕ) (x : LlrSlot) : Kept s (State.unpinOther s i x) := by
  unfold State.unpinOther
  repeat' first
    | with_reducible first | apply Kept.refl | apply Kept.via (State.freeLlr_kept ..)
    | split

theorem State.endEntry_kept (s : State) (i : ℕ) (x : LlrSlot) : Kept s (State.endEntry s i x) := by
  unfold State.endEntry
  repeat' first
    | with_reducible first
      | apply Kept.refl | apply Kept.via (State.dropEntry_kept ..) | apply Kept.via (State.unpinOther_kept ..)
    | split

theorem State.storeUser_kept (s : State) (x : LlrSlot) (user : ℕ) : Kept s (State.storeUser s x user) := by
  unfold State.storeUser
  repeat' first
    | with_reducible first | apply Kept.refl | apply Kept.via (State.dramFill_kept ..)
    | split

theorem State.sectorOk_kept (s : State) (i : ℕ) (x : LlrSlot) : Kept s (State.sectorOk s i x) := by
  unfold State.sectorOk
  repeat' first
    | with_reducible first
      | apply Kept.refl | apply Kept.via (State.relocCheck_kept ..) | apply Kept.via (State.storeUser_kept ..)
      | apply Kept.via (State.dropEntry_kept ..) | apply Kept.via (State.unpinOther_kept ..)
      | apply Kept.via (State.raise_kept ..) | apply Kept.via (State.count_kept ..)
      | apply Kept.via (State.serveSector_kept ..) | apply Kept.via (State.freeLlr_kept ..)
    | split

theorem State.settleSlot_kept (s : State) (i : ℕ) (x : LlrSlot) (v : State.Verdict) : Kept s (State.settleSlot s i x v) := by
  unfold State.settleSlot
  repeat' first
    | with_reducible first
      | apply Kept.refl | apply Kept.via (State.sectorOk_kept ..) | apply Kept.via (State.serveSector_kept ..)
      | apply Kept.via (State.freeLlr_kept ..) | apply Kept.via (State.endEntry_kept ..)
      | apply Kept.via (State.enterLadder_kept ..) | apply Kept.via (State.stepFailed_kept ..)
    | split

theorem State.countFraming_kept (s : State) (n : ℕ) (side : ℕ) (w : ℕ) : Kept s (State.countFraming s n side w) := by
  unfold State.countFraming
  repeat' first
    | with_reducible first
      | apply Kept.refl | apply Kept.via (State.raise_kept ..) | apply Kept.via (State.count_kept ..)
      | apply Kept.via (State.wr_kept ..)
    | split

theorem State.result_kept (s : State) (i : ℕ) (x : LlrSlot) (time : ℕ) : Kept s (State.result s i x time) := by
  unfold State.result
  repeat' with_reducible first
    | apply Kept.refl | apply Kept.via (State.settleSlot_kept ..) | apply Kept.via (State.countFraming_kept ..)
    | apply Kept.via (State.countResult_kept ..) | apply Kept.via (State.emit_kept ..) | apply Kept.via (State.wr_kept ..)

theorem State.stepStart_kept (s : State) (e : Ladder) (step : ℕ) (begun : ℕ) (time : ℕ) :
    Kept s (State.stepStart s e step begun time) := by
  unfold State.stepStart
  repeat' first
    | with_reducible first
      | apply Kept.refl | apply Kept.via (State.modEntry_kept ..) | apply Kept.via (State.refreshAbx_kept ..)
      | apply Kept.via (State.modLlr_kept ..) | apply Kept.via (State.queueOp_kept ..)
    | split

theorem State.cancelReread_kept (s : State) (l : ℕ) : Kept s (State.cancelReread s l) := by
  unfold State.cancelReread
  repeat' first
    | with_reducible first | apply Kept.refl | apply Kept.via (State.wr_kept ..)
    | simp -zeta -iota -proj -zetaUnused -zetaHave (disch := rfl) only [Kept.update_iff]

theorem State.expire_kept (s : State) (key : ℕ) : Kept s (State.expire s key) := by
  have e : @State.expire = @State.expire := rfl
  conv at e => rhs; delta State.expire
  rw [e]; clear e
  dsimp -zeta -iota -proj -eta -zetaUnused -zetaHave -failIfUnchanged only
  repeat' first
    | with_reducible first
      | apply Kept.refl | assumption | apply Kept.via (State.unrecoverable_kept ..)
      | apply Kept.via (State.cancelReread_kept ..) | apply Kept.via (Kept.foldl ?_ ..)
    | simp -zeta -iota -proj -zetaUnused -zetaHave (disch := rfl) only [Kept.update_iff]
    | intro _
    | (extract_lets -underBinder -merge +onlyGivenNames x; refine Kept.step (b := x) ?_ ?_
       all_goals first | (intro _; clear_value x) | dsimp -zeta -iota -proj -zetaUnused -zetaHave only [x])
    | extract_lets -underBinder -merge +onlyGivenNames x
    | split
    | (clear_value x; split)

theorem execBeadStart_kept (s : State) : KeptBy s (execBeadStart s) := by
  unfold execBeadStart
  refine KeptBy.next ?_
  repeat' first
    | with_reducible first | apply Kept.refl | apply Kept.via (State.startBead_kept ..)
    | split

theorem execBeadIterationEnd_kept (bead : Fin 48) (resid : BitVec 13) (word : Codeword) (memErr : Bool) (s : State) :
    KeptBy s (execBeadIterationEnd bead resid word memErr s) := by
  unfold execBeadIterationEnd
  refine KeptBy.next ?_
  repeat' first
    | with_reducible first
      | apply Kept.refl | apply Kept.via (State.iterationEnd_kept ..) | apply Kept.via (State.detect_kept ..)
      | apply Kept.via (State.freeBead_kept ..)
    | split

theorem execDecodeResult_kept (slot : Fin 384) (time : BitVec 64) (s : State) : KeptBy s (execDecodeResult slot time s) := by
  unfold execDecodeResult
  refine KeptBy.next ?_
  repeat' first
    | with_reducible first | apply Kept.refl | apply Kept.via (State.result_kept ..)
    | split

theorem execLadderStepStart_kept (loc : BitVec 41) (time : BitVec 64) (s : State) :
    KeptBy s (execLadderStepStart loc time s) := by
  unfold execLadderStepStart
  refine KeptBy.next ?_
  repeat' first
    | with_reducible first | apply Kept.refl | apply Kept.via (State.stepStart_kept ..)
    | split

theorem execRecoveryLimitExpiry_kept (tag : Option (BitVec 13)) (loc : BitVec 41) (elapsedMs : BitVec 32) (s : State) :
    KeptBy s (execRecoveryLimitExpiry tag loc elapsedMs s) := by
  have e : @execRecoveryLimitExpiry = @execRecoveryLimitExpiry := rfl
  conv at e => rhs; delta execRecoveryLimitExpiry
  rw [e]; clear e
  dsimp -zeta -iota -proj -eta -zetaUnused -zetaHave -failIfUnchanged only
  refine KeptBy.next ?_
  repeat' first
    | with_reducible first | apply Kept.refl | apply Kept.via (State.expire_kept ..)
    | simp -zeta -iota -proj -zetaUnused -zetaHave (disch := rfl) only [Kept.update_iff]
    | intro _
    | (extract_lets -underBinder -merge +onlyGivenNames x; refine Kept.step (b := x) ?_ ?_
       all_goals first | (intro _; clear_value x) | dsimp -zeta -iota -proj -zetaUnused -zetaHave only [x])
    | extract_lets -underBinder -merge +onlyGivenNames x
    | split
    | (clear_value x; split)

theorem execAbxMemoryError_kept (slot : Fin 384) (corrected : Bool) (s : State) :
    KeptBy s (execAbxMemoryError slot corrected s) := by
  unfold execAbxMemoryError
  refine KeptBy.next ?_
  repeat' first
    | with_reducible first
      | apply Kept.refl | apply Kept.via (State.detect_kept ..) | apply Kept.via (State.modLlr_kept ..)
    | split

theorem execAbxCntClr_kept (s : State) : KeptBy s (execAbxCntClr s) := by
  unfold execAbxCntClr
  refine KeptBy.next ?_
  repeat' first
    | with_reducible first
      | apply Kept.refl | apply Kept.via (State.access_kept (h_k := ?_) ..) | apply Kept.via (State.clearAll_kept ..)
    | simp -zeta -iota -proj -zetaUnused -zetaHave (disch := rfl) only [Kept.update_iff]
    | intro _

end Sys2Proof.Machine
end

