-- ==== Sys2Proof/Laws/KeepsSequencer.lean ====
section
/-!
SUPPORT. Laws/KeepsSequencer.lean: each operation and command of Machine/Sequencer.lean keeps what every operation keeps (`Kept`).
-/
namespace Sys2Proof.Machine

theorem State.psiFailed_kept (s : State) (n : ℕ) (p : ℕ) (f : PsiFrame) : Kept s (State.psiFailed s n p f) := by
  unfold State.psiFailed
  repeat' first
    | with_reducible first
      | apply Kept.refl | apply Kept.via (State.modFsq_kept ..) | apply Kept.via (State.wr_kept ..)
      | apply Kept.via (State.modAsd_kept ..) | apply Kept.via (State.detect_kept ..) | apply Kept.via (State.raise_kept ..)
      | apply Kept.via (State.count_kept ..)
    | split

theorem State.asdFrame_kept (s : State) (n : ℕ) (f : PsiFrame) (data : ℕ) : Kept s (State.asdFrame s n f data) := by
  unfold State.asdFrame
  repeat' first
    | with_reducible first
      | apply Kept.refl | apply Kept.via (State.wrFlag_kept ..) | apply Kept.via (State.wr_kept ..)
      | apply Kept.via (State.modAsd_kept ..)
    | split

theorem State.psiDone_kept (s : State) (n : ℕ) (p : ℕ) (f : PsiFrame) (data : ℕ) : Kept s (State.psiDone s n p f data) := by
  unfold State.psiDone
  repeat' first
    | with_reducible first
      | apply Kept.refl | apply Kept.via (State.modFsq_kept ..) | apply Kept.via (State.wr_kept ..)
      | apply Kept.via (State.asdFrame_kept ..) | apply Kept.via (State.detect_kept ..)
    | split

theorem State.psiEnd_kept (s : State) (n : ℕ) (ok : Bool) (data : ℕ) : Kept s (State.psiEnd s n ok data) := by
  unfold State.psiEnd
  repeat' first
    | with_reducible first
      | apply Kept.refl | apply Kept.via (State.modFsq_kept ..) | apply Kept.via (State.psiDone_kept ..)
      | apply Kept.via (State.psiFailed_kept ..) | apply Kept.via (State.psiGrant_kept ..)
    | split

theorem State.endOverrides_kept (s : State) (n : ℕ) (h : ℕ) : Kept s (State.endOverrides s n h) := by
  unfold State.endOverrides
  repeat' with_reducible first
    | apply Kept.refl | apply Kept.via (State.modSlot_kept ..) | apply Kept.via (State.modServo_kept ..)

theorem State.machineCheck_kept (s : State) (n : ℕ) (src : ℕ) (addr : ℕ) : Kept s (State.machineCheck s n src addr) := by
  unfold State.machineCheck
  repeat' first
    | with_reducible first
      | apply Kept.refl | apply Kept.via (State.wr_kept ..) | apply Kept.via (State.raise_kept ..)
      | apply Kept.via (State.count_kept ..) | apply Kept.via (State.modFsq_kept ..)
      | apply Kept.via (State.endOverrides_kept ..) | apply Kept.via (State.detect_kept ..)
      | apply Kept.via (State.interruptOps_kept ..) | apply Kept.via (State.modSlot_kept ..)
    | split

theorem State.loadProfile_kept (s : State) (n : ℕ) (h : ℕ) (head : ℕ) (zone : ℕ) :
    Kept s (State.loadProfile s n h head zone) := by
  unfold State.loadProfile
  repeat' first
    | with_reducible first
      | apply Kept.refl | apply Kept.via (State.wr_kept ..) | apply Kept.via (State.modSlot_kept ..)
      | apply Kept.via (Kept.foldl ?_ ..)
    | intro _

theorem State.headProfile_kept (s : State) (n : ℕ) (h : ℕ) (o : OpSlot) : Kept s (State.headProfile s n h o) := by
  unfold State.headProfile
  repeat' with_reducible first
    | apply Kept.refl | apply Kept.via (State.dlcUnlock_kept ..) | apply Kept.via (State.gatesOff_kept ..)
    | apply Kept.via (State.clrBitAt_kept ..) | apply Kept.via (State.loadProfile_kept ..)
    | apply Kept.via (State.modSlot_kept ..) | apply Kept.via (State.wr_kept ..) | apply Kept.via (State.modAsd_kept ..)
    | apply Kept.via (State.modLoop_kept ..) | apply Kept.via (State.psiPush_kept ..)

theorem State.armRun_kept (s : State) (n : ℕ) (h : ℕ) (write : Bool) : Kept s (State.armRun s n h write) := by
  unfold State.armRun
  repeat' first
    | with_reducible first | apply Kept.refl | apply Kept.via (State.modSlot_kept ..)
    | split

theorem State.askSeek_kept (s : State) (n : ℕ) : Kept s (State.askSeek s n) := by
  unfold State.askSeek
  repeat' first
    | with_reducible first | apply Kept.refl | apply Kept.via (State.modServo_kept ..)
    | split

theorem State.askOffset_kept (s : State) (n : ℕ) (h : ℕ) (arg : ℕ) : Kept s (State.askOffset s n h arg) := by
  unfold State.askOffset
  repeat' with_reducible first | apply Kept.refl | apply Kept.via (State.modServo_kept ..)

theorem State.reportOne_kept (s : State) (o : Option MediaOp) (undone : Option (List ℕ)) :
    Kept s (State.reportOne s o undone) := by
  unfold State.reportOne
  repeat' first
    | with_reducible first | apply Kept.refl | apply Kept.via (State.reportOp_kept ..)
    | split

theorem State.report_kept (s : State) (n : ℕ) : Kept s (State.report s n) := by
  have e : @State.report = @State.report := rfl
  conv at e => rhs; delta State.report
  rw [e]; clear e
  dsimp -zeta -iota -proj -eta -zetaUnused -zetaHave -failIfUnchanged only
  repeat' first
    | with_reducible first
      | apply Kept.refl | assumption | apply Kept.via (State.gatesOff_kept ..) | apply Kept.via (State.endOverrides_kept ..)
      | apply Kept.via (State.count_kept ..) | apply Kept.via (State.modSlot_kept ..) | apply Kept.via (State.modFsq_kept ..)
      | apply Kept.via (State.reportOne_kept ..)
    | simp -zeta -iota -proj -zetaUnused -zetaHave (disch := rfl) only [Kept.update_iff]
    | intro _
    | (extract_lets -underBinder -merge +onlyGivenNames x; refine Kept.step (b := x) ?_ ?_
       all_goals first | (intro _; clear_value x) | dsimp -zeta -iota -proj -zetaUnused -zetaHave only [x])
    | extract_lets -underBinder -merge +onlyGivenNames x
    | split
    | (clear_value x; split)
    | dsimp only

theorem State.transfer_kept (s : State) (n : ℕ) (w : ℕ) : Kept s (State.transfer s n w) := by
  have e : @State.transfer = @State.transfer := rfl
  conv at e => rhs; delta State.transfer
  rw [e]; clear e
  dsimp -zeta -iota -proj -eta -zetaUnused -zetaHave -failIfUnchanged only
  repeat' first
    | with_reducible first
      | apply Kept.refl | assumption | apply Kept.via (State.headProfile_kept ..) | apply Kept.via (State.armRun_kept ..)
      | apply Kept.via (State.askSeek_kept ..) | apply Kept.via (State.askOffset_kept ..)
      | apply Kept.via (State.report_kept ..) | apply Kept.via (State.modSlot_kept ..)
      | apply Kept.via (State.endOverrides_kept ..) | apply Kept.via (State.modServo_kept ..)
    | simp -zeta -iota -proj -zetaUnused -zetaHave (disch := rfl) only [Kept.update_iff]
    | intro _
    | (extract_lets -underBinder -merge +onlyGivenNames x; refine Kept.step (b := x) ?_ ?_
       all_goals first | (intro _; clear_value x) | dsimp -zeta -iota -proj -zetaUnused -zetaHave only [x])
    | extract_lets -underBinder -merge +onlyGivenNames x
    | split
    | (clear_value x; split)
    | dsimp only

theorem State.setGates_kept (s : State) (n : ℕ) (w : ℕ) : Kept s (State.setGates s n w) := by
  unfold State.setGates
  repeat' first
    | with_reducible first
      | apply Kept.refl | apply Kept.via (State.setReadGate_kept ..) | apply Kept.via (State.setWriteGate_kept ..)
      | apply Kept.via (Kept.foldl ?_ ..)
    | simp -zeta -iota -proj -zetaUnused -zetaHave (disch := rfl) only [Kept.update_iff]
    | intro _
    | split

theorem State.psiOp_kept (s : State) (n : ℕ) (w : ℕ) (tie : Bool) : Kept s (State.psiOp s n w tie) := by
  have e : @State.psiOp = @State.psiOp := rfl
  conv at e => rhs; delta State.psiOp
  rw [e]; clear e
  dsimp -zeta -iota -proj -eta -zetaUnused -zetaHave -failIfUnchanged only
  repeat' first
    | with_reducible first | apply Kept.refl | apply Kept.via (State.psiPush_kept ..)
    | simp -zeta -iota -proj -zetaUnused -zetaHave (disch := rfl) only [Kept.update_iff]
    | intro _
    | (extract_lets -underBinder -merge +onlyGivenNames x; refine Kept.step (b := x) ?_ ?_
       all_goals first | (intro _; clear_value x) | dsimp -zeta -iota -proj -zetaUnused -zetaHave only [x])
    | extract_lets -underBinder -merge +onlyGivenNames x
    | split
    | (clear_value x; split)

theorem State.countOp_kept (s : State) (n : ℕ) (w : ℕ) : Kept s (State.countOp s n w) := by
  have e : @State.countOp = @State.countOp := rfl
  conv at e => rhs; delta State.countOp
  rw [e]; clear e
  dsimp -zeta -iota -proj -eta -zetaUnused -zetaHave -failIfUnchanged only
  repeat' first
    | with_reducible first | apply Kept.refl | apply Kept.via (State.modFsq_kept ..)
    | simp -zeta -iota -proj -zetaUnused -zetaHave (disch := rfl) only [Kept.update_iff]
    | intro _
    | (extract_lets -underBinder -merge +onlyGivenNames x; refine Kept.step (b := x) ?_ ?_
       all_goals first | (intro _; clear_value x) | dsimp -zeta -iota -proj -zetaUnused -zetaHave only [x])
    | extract_lets -underBinder -merge +onlyGivenNames x
    | split
    | (clear_value x; split)

theorem State.wordActs_kept (s : State) (n : ℕ) (w : ℕ) (tie : Bool) : Kept s (State.wordActs s n w tie) := by
  unfold State.wordActs
  repeat' first
    | with_reducible first
      | apply Kept.refl | apply Kept.via (State.countOp_kept ..) | apply Kept.via (State.transfer_kept ..)
      | apply Kept.via (State.psiOp_kept ..) | apply Kept.via (State.setGates_kept ..) | apply Kept.via (State.raise_kept ..)
    | split

theorem State.goTo_kept (s : State) (n : ℕ) (pc : ℕ) : Kept s (State.goTo s n pc) := by
  unfold State.goTo
  repeat' with_reducible first | apply Kept.refl | apply Kept.via (State.wr_kept ..)

theorem State.callWord_kept (s : State) (n : ℕ) (pc : ℕ) (w : ℕ) : Kept s (State.callWord s n pc w) := by
  unfold State.callWord
  repeat' first
    | with_reducible first
      | apply Kept.refl | apply Kept.via (State.machineCheck_kept ..) | apply Kept.via (State.goTo_kept ..)
      | apply Kept.via (State.modFsq_kept ..)
    | split

theorem State.returnWord_kept (s : State) (n : ℕ) (pc : ℕ) : Kept s (State.returnWord s n pc) := by
  unfold State.returnWord
  repeat' first
    | with_reducible first
      | apply Kept.refl | apply Kept.via (State.machineCheck_kept ..) | apply Kept.via (State.goTo_kept ..)
      | apply Kept.via (State.modFsq_kept ..)
    | split

theorem State.waitWord_kept (s : State) (n : ℕ) (pc : ℕ) (w : ℕ) (ev : ℕ) : Kept s (State.waitWord s n pc w ev) := by
  unfold State.waitWord
  repeat' first
    | with_reducible first
      | apply Kept.refl | apply Kept.via (State.goTo_kept ..) | apply Kept.via (State.wr_kept ..)
      | apply Kept.via (State.modFsq_kept ..)
    | split

theorem State.bankSwap_kept (s : State) (n : ℕ) : Kept s (State.bankSwap s n) := by
  unfold State.bankSwap
  repeat' with_reducible first
    | apply Kept.refl | apply Kept.via (State.wr_kept ..) | apply Kept.via (State.raise_kept ..)
    | apply Kept.via (State.goTo_kept ..)

theorem State.drainDone_kept (s : State) (n : ℕ) : Kept s (State.drainDone s n) := by
  unfold State.drainDone
  repeat' first
    | with_reducible first
      | apply Kept.refl | apply Kept.via (State.raise_kept ..) | apply Kept.via (State.setBitAt_kept ..)
    | split

theorem State.dispatchWord_kept (s : State) (n : ℕ) : Kept s (State.dispatchWord s n) := by
  have e : @State.dispatchWord = @State.dispatchWord := rfl
  conv at e => rhs; delta State.dispatchWord
  rw [e]; clear e
  dsimp -zeta -iota -proj -eta -zetaUnused -zetaHave -failIfUnchanged only
  repeat' first
    | with_reducible first
      | apply Kept.refl | assumption | apply Kept.via (State.modFsq_kept ..) | apply Kept.via (State.goTo_kept ..)
      | apply Kept.via (State.wr_kept ..) | apply Kept.via (State.drainDone_kept ..) | apply Kept.via (State.bankSwap_kept ..)
    | simp -zeta -iota -proj -zetaUnused -zetaHave (disch := rfl) only [Kept.update_iff]
    | intro _
    | (extract_lets -underBinder -merge +onlyGivenNames x; refine Kept.step (b := x) ?_ ?_
       all_goals first | (intro _; clear_value x) | dsimp -zeta -iota -proj -zetaUnused -zetaHave only [x])
    | extract_lets -underBinder -merge +onlyGivenNames x
    | split
    | (clear_value x; split)

theorem State.sequence_kept (s : State) (n : ℕ) (pc : ℕ) (w : ℕ) (ev : ℕ) : Kept s (State.sequence s n pc w ev) := by
  have e : @State.sequence = @State.sequence := rfl
  conv at e => rhs; delta State.sequence
  rw [e]; clear e
  dsimp -zeta -iota -proj -eta -zetaUnused -zetaHave -failIfUnchanged only
  repeat' first
    | with_reducible first
      | apply Kept.refl | apply Kept.via (State.goTo_kept ..) | apply Kept.via (State.callWord_kept ..)
      | apply Kept.via (State.returnWord_kept ..) | apply Kept.via (State.waitWord_kept ..)
      | apply Kept.via (State.dispatchWord_kept ..)
    | simp -zeta -iota -proj -zetaUnused -zetaHave (disch := rfl) only [Kept.update_iff]
    | intro _
    | (extract_lets -underBinder -merge +onlyGivenNames x; refine Kept.step (b := x) ?_ ?_
       all_goals first | (intro _; clear_value x) | dsimp -zeta -iota -proj -zetaUnused -zetaHave only [x])
    | extract_lets -underBinder -merge +onlyGivenNames x
    | split
    | (clear_value x; split)

theorem State.fsqStep_kept (s : State) (n : ℕ) (f : FsqFetch) (want : ℕ → Bool) : Kept s (State.fsqStep s n f want) := by
  have e : @State.fsqStep = @State.fsqStep := rfl
  conv at e => rhs; delta State.fsqStep
  rw [e]; clear e
  dsimp -zeta -iota -proj -eta -zetaUnused -zetaHave -failIfUnchanged only
  repeat' first
    | with_reducible first
      | apply Kept.refl | apply Kept.via (State.machineCheck_kept ..) | apply Kept.via (State.sequence_kept ..)
      | apply Kept.via (State.wordActs_kept ..)
    | simp -zeta -iota -proj -zetaUnused -zetaHave (disch := rfl) only [Kept.update_iff]
    | intro _
    | (extract_lets -underBinder -merge +onlyGivenNames x; refine Kept.step (b := x) ?_ ?_
       all_goals first | (intro _; clear_value x) | dsimp -zeta -iota -proj -zetaUnused -zetaHave only [x])
    | extract_lets -underBinder -merge +onlyGivenNames x
    | split
    | (clear_value x; split)

theorem State.waitEnd_kept (s : State) (n : ℕ) (expired : Bool) (ev : ℕ) : Kept s (State.waitEnd s n expired ev) := by
  have e : @State.waitEnd = @State.waitEnd := rfl
  conv at e => rhs; delta State.waitEnd
  rw [e]; clear e
  dsimp -zeta -iota -proj -eta -zetaUnused -zetaHave -failIfUnchanged only
  repeat' first
    | with_reducible first
      | apply Kept.refl | apply Kept.via (State.goTo_kept ..) | apply Kept.via (State.wr_kept ..)
      | apply Kept.via (State.modFsq_kept ..)
    | simp -zeta -iota -proj -zetaUnused -zetaHave (disch := rfl) only [Kept.update_iff]
    | intro _
    | (extract_lets -underBinder -merge +onlyGivenNames x; refine Kept.step (b := x) ?_ ?_
       all_goals first | (intro _; clear_value x) | dsimp -zeta -iota -proj -zetaUnused -zetaHave only [x])
    | extract_lets -underBinder -merge +onlyGivenNames x
    | split
    | (clear_value x; split)

theorem State.loadGo_kept (s : State) (n : ℕ) : Kept s (State.loadGo s n) := by
  have e : @State.loadGo = @State.loadGo := rfl
  conv at e => rhs; delta State.loadGo
  rw [e]; clear e
  dsimp -zeta -iota -proj -eta -zetaUnused -zetaHave -failIfUnchanged only
  repeat' first
    | with_reducible first
      | apply Kept.refl | assumption | apply Kept.via (State.wr_kept ..) | apply Kept.via (State.setBank_kept ..)
      | apply Kept.via (State.modFsq_kept ..) | apply Kept.via (Kept.foldl ?_ ..)
    | simp -zeta -iota -proj -zetaUnused -zetaHave (disch := rfl) only [Kept.update_iff]
    | intro _
    | (extract_lets -underBinder -merge +onlyGivenNames x; refine Kept.step (b := x) ?_ ?_
       all_goals first | (intro _; clear_value x) | dsimp -zeta -iota -proj -zetaUnused -zetaHave only [x])
    | extract_lets -underBinder -merge +onlyGivenNames x
    | split
    | (clear_value x; split)

theorem State.loadEnd_kept (s : State) (n : ℕ) : Kept s (State.loadEnd s n) := by
  unfold State.loadEnd
  repeat' first
    | with_reducible first
      | apply Kept.refl | apply Kept.via (State.wr_kept ..) | apply Kept.via (State.modFsq_kept ..)
      | apply Kept.via (State.loadImage_kept ..) | apply Kept.via (State.raise_kept ..)
    | split

theorem State.swapReq_kept (s : State) (n : ℕ) : Kept s (State.swapReq s n) := by
  have e : @State.swapReq = @State.swapReq := rfl
  conv at e => rhs; delta State.swapReq
  rw [e]; clear e
  dsimp -zeta -iota -proj -eta -zetaUnused -zetaHave -failIfUnchanged only
  repeat' first
    | with_reducible first | apply Kept.refl | apply Kept.via (State.wr_kept ..) | apply Kept.via (State.modFsq_kept ..)
    | simp -zeta -iota -proj -zetaUnused -zetaHave (disch := rfl) only [Kept.update_iff]
    | intro _
    | (extract_lets -underBinder -merge +onlyGivenNames x; refine Kept.step (b := x) ?_ ?_
       all_goals first | (intro _; clear_value x) | dsimp -zeta -iota -proj -zetaUnused -zetaHave only [x])
    | extract_lets -underBinder -merge +onlyGivenNames x
    | split
    | (clear_value x; split)

theorem State.mcRestart_kept (s : State) (n : ℕ) : Kept s (State.mcRestart s n) := by
  have e : @State.mcRestart = @State.mcRestart := rfl
  conv at e => rhs; delta State.mcRestart
  rw [e]; clear e
  dsimp -zeta -iota -proj -eta -zetaUnused -zetaHave -failIfUnchanged only
  repeat' first
    | with_reducible first
      | apply Kept.refl | assumption | apply Kept.via (State.wr_kept ..) | apply Kept.via (State.modFsq_kept ..)
      | apply Kept.via (State.bankSwap_kept ..) | apply Kept.via (State.goTo_kept ..)
    | simp -zeta -iota -proj -zetaUnused -zetaHave (disch := rfl) only [Kept.update_iff]
    | intro _
    | (extract_lets -underBinder -merge +onlyGivenNames x; refine Kept.step (b := x) ?_ ?_
       all_goals first | (intro _; clear_value x) | dsimp -zeta -iota -proj -zetaUnused -zetaHave only [x])
    | extract_lets -underBinder -merge +onlyGivenNames x
    | split
    | (clear_value x; split)
    | dsimp only

theorem State.modWsq_kept (s : State) (k : ℕ) (f : Wsq → Wsq) : Kept s (State.modWsq s k f) := by
  unfold State.modWsq
  repeat' first
    | with_reducible first | apply Kept.refl
    | simp -zeta -iota -proj -zetaUnused -zetaHave (disch := rfl) only [Kept.update_iff]

theorem State.wsqStop_kept (s : State) (n : ℕ) (h : ℕ) (src : ℕ) (pc : ℕ) : Kept s (State.wsqStop s n h src pc) := by
  unfold State.wsqStop
  repeat' with_reducible first
    | apply Kept.refl | apply Kept.via (State.modWsq_kept ..) | apply Kept.via (State.wr_kept ..)
    | apply Kept.via (State.machineCheck_kept ..)

theorem State.wsqActs_kept (s : State) (k : ℕ) (w : ℕ) : Kept s (State.wsqActs s k w) := by
  unfold State.wsqActs
  repeat' with_reducible first | apply Kept.refl | apply Kept.via (State.modWsq_kept ..)

theorem State.wsqStep_kept (s : State) (n : ℕ) (h : ℕ) (w : ℕ) (f : WsqFetch) : Kept s (State.wsqStep s n h w f).1 := by
  have e : @State.wsqStep = @State.wsqStep := rfl
  conv at e => rhs; delta State.wsqStep
  rw [e]; clear e
  dsimp -zeta -iota -proj -eta -zetaUnused -zetaHave -failIfUnchanged only
  repeat' first
    | with_reducible first
      | apply Kept.refl | assumption | apply Kept.via (State.wsqActs_kept ..) | apply Kept.via (State.modWsq_kept ..)
      | apply Kept.via (State.wr_kept ..)
    | simp -zeta -iota -proj -zetaUnused -zetaHave (disch := rfl) only [Kept.update_iff]
    | intro _
    | (extract_lets -underBinder -merge +onlyGivenNames x; refine Kept.step (b := x) ?_ ?_
       all_goals first | (intro _; clear_value x) | dsimp -zeta -iota -proj -zetaUnused -zetaHave only [x])
    | extract_lets -underBinder -merge +onlyGivenNames x
    | split
    | (clear_value x; split)

theorem State.wsqRun_kept (s : State) (n : ℕ) (h : ℕ) (y3 : List WsqFetch) : Kept s (State.wsqRun s n h y3) := by
  induction y3 generalizing s with
  | nil => exact Kept.refl s
  | cons f l ih =>
    rw [State.wsqRun]
    split
    · exact State.wsqStop_kept ..
    · split
      · exact State.wsqStop_kept ..
      · split
        · exact Kept.trans (Kept.via_fst (State.wsqStep_kept ..) ‹_› (Kept.refl _)) (ih _)
        · exact Kept.via_fst (State.wsqStep_kept ..) ‹_› (Kept.refl _)

theorem State.wsqStart_kept (s : State) (n : ℕ) (h : ℕ) (l : List WsqFetch) : Kept s (State.wsqStart s n h l) := by
  unfold State.wsqStart
  repeat' first
    | with_reducible first
      | apply Kept.refl | apply Kept.via (State.modWsq_kept ..) | apply Kept.via (State.count_kept ..)
      | apply Kept.via (State.wsqRun_kept ..) | apply Kept.via (State.wr_kept ..)
    | split

theorem execFsqContinue_kept (n : Fin 4) (fetch : FsqFetch) (s : State) : KeptBy s (execFsqContinue n fetch s) := by
  unfold execFsqContinue
  refine KeptBy.next ?_
  repeat' with_reducible first | apply Kept.refl | apply Kept.via (State.fsqStep_kept ..)

theorem execFsqJump_kept (n : Fin 4) (fetch : FsqFetch) (s : State) : KeptBy s (execFsqJump n fetch s) := by
  unfold execFsqJump
  refine KeptBy.next ?_
  repeat' with_reducible first | apply Kept.refl | apply Kept.via (State.fsqStep_kept ..)

theorem execFsqBranch_kept (n : Fin 4) (fetch : FsqFetch) (s : State) : KeptBy s (execFsqBranch n fetch s) := by
  unfold execFsqBranch
  refine KeptBy.next ?_
  repeat' with_reducible first | apply Kept.refl | apply Kept.via (State.fsqStep_kept ..)

theorem execFsqCall_kept (n : Fin 4) (fetch : FsqFetch) (s : State) : KeptBy s (execFsqCall n fetch s) := by
  unfold execFsqCall
  refine KeptBy.next ?_
  repeat' with_reducible first | apply Kept.refl | apply Kept.via (State.fsqStep_kept ..)

theorem execFsqReturn_kept (n : Fin 4) (fetch : FsqFetch) (s : State) : KeptBy s (execFsqReturn n fetch s) := by
  unfold execFsqReturn
  refine KeptBy.next ?_
  repeat' with_reducible first | apply Kept.refl | apply Kept.via (State.fsqStep_kept ..)

theorem execFsqWait_kept (n : Fin 4) (fetch : FsqFetch) (s : State) : KeptBy s (execFsqWait n fetch s) := by
  unfold execFsqWait
  refine KeptBy.next ?_
  repeat' with_reducible first | apply Kept.refl | apply Kept.via (State.fsqStep_kept ..)

theorem execFsqWaitEnd_kept (n : Fin 4) (expired : Bool) (events : BitVec 4) (s : State) :
    KeptBy s (execFsqWaitEnd n expired events s) := by
  unfold execFsqWaitEnd
  refine KeptBy.next ?_
  repeat' first
    | with_reducible first | apply Kept.refl | apply Kept.via (State.waitEnd_kept ..)
    | split

theorem execFsqWatchdog_kept (n : Fin 4) (s : State) : KeptBy s (execFsqWatchdog n s) := by
  unfold execFsqWatchdog
  refine KeptBy.next ?_
  repeat' first
    | with_reducible first | apply Kept.refl | apply Kept.via (State.machineCheck_kept ..)
    | split

theorem execFsqDispatch_kept (n : Fin 4) (fetch : FsqFetch) (s : State) : KeptBy s (execFsqDispatch n fetch s) := by
  unfold execFsqDispatch
  refine KeptBy.next ?_
  repeat' with_reducible first | apply Kept.refl | apply Kept.via (State.fsqStep_kept ..)

theorem execHeadProfile_kept (n : Fin 4) (fetch : FsqFetch) (s : State) : KeptBy s (execHeadProfile n fetch s) := by
  unfold execHeadProfile
  refine KeptBy.next ?_
  repeat' with_reducible first | apply Kept.refl | apply Kept.via (State.fsqStep_kept ..)

theorem execReadArm_kept (n : Fin 4) (fetch : FsqFetch) (s : State) : KeptBy s (execReadArm n fetch s) := by
  unfold execReadArm
  refine KeptBy.next ?_
  repeat' with_reducible first | apply Kept.refl | apply Kept.via (State.fsqStep_kept ..)

theorem execWriteArm_kept (n : Fin 4) (fetch : FsqFetch) (s : State) : KeptBy s (execWriteArm n fetch s) := by
  unfold execWriteArm
  refine KeptBy.next ?_
  repeat' with_reducible first | apply Kept.refl | apply Kept.via (State.fsqStep_kept ..)

theorem execSeek_kept (n : Fin 4) (fetch : FsqFetch) (s : State) : KeptBy s (execSeek n fetch s) := by
  unfold execSeek
  refine KeptBy.next ?_
  repeat' with_reducible first | apply Kept.refl | apply Kept.via (State.fsqStep_kept ..)

theorem execMaOffset_kept (n : Fin 4) (fetch : FsqFetch) (s : State) : KeptBy s (execMaOffset n fetch s) := by
  unfold execMaOffset
  refine KeptBy.next ?_
  repeat' with_reducible first | apply Kept.refl | apply Kept.via (State.fsqStep_kept ..)

theorem execReport_kept (n : Fin 4) (fetch : FsqFetch) (s : State) : KeptBy s (execReport n fetch s) := by
  unfold execReport
  refine KeptBy.next ?_
  repeat' with_reducible first | apply Kept.refl | apply Kept.via (State.fsqStep_kept ..)

theorem execJdOverride_kept (n : Fin 4) (fetch : FsqFetch) (s : State) : KeptBy s (execJdOverride n fetch s) := by
  unfold execJdOverride
  refine KeptBy.next ?_
  repeat' with_reducible first | apply Kept.refl | apply Kept.via (State.fsqStep_kept ..)

theorem execOvrClear_kept (n : Fin 4) (fetch : FsqFetch) (s : State) : KeptBy s (execOvrClear n fetch s) := by
  unfold execOvrClear
  refine KeptBy.next ?_
  repeat' with_reducible first | apply Kept.refl | apply Kept.via (State.fsqStep_kept ..)

theorem execLoadUnload_kept (n : Fin 4) (fetch : FsqFetch) (s : State) : KeptBy s (execLoadUnload n fetch s) := by
  unfold execLoadUnload
  refine KeptBy.next ?_
  repeat' with_reducible first | apply Kept.refl | apply Kept.via (State.fsqStep_kept ..)

theorem execPsiWrite_kept (n : Fin 4) (fetch : FsqFetch) (s : State) : KeptBy s (execPsiWrite n fetch s) := by
  unfold execPsiWrite
  refine KeptBy.next ?_
  repeat' with_reducible first | apply Kept.refl | apply Kept.via (State.fsqStep_kept ..)

theorem execPsiRead_kept (n : Fin 4) (fetch : FsqFetch) (s : State) : KeptBy s (execPsiRead n fetch s) := by
  unfold execPsiRead
  refine KeptBy.next ?_
  repeat' with_reducible first | apply Kept.refl | apply Kept.via (State.fsqStep_kept ..)

theorem execPsiDGo_kept (n : Fin 4) (tie : Bool) (s : State) : KeptBy s (execPsiDGo n tie s) := by
  unfold execPsiDGo
  refine KeptBy.next ?_
  repeat' first
    | with_reducible first
      | apply Kept.refl | apply Kept.via (State.access_kept (h_k := ?_) ..) | apply Kept.via (State.psiPush_kept ..)
      | apply Kept.via (State.wr_kept ..)
    | simp -zeta -iota -proj -zetaUnused -zetaHave (disch := rfl) only [Kept.update_iff]
    | intro _
    | split

theorem execPsiFrameEnd_kept (n : Fin 4) (ok : Bool) (data : BitVec 16) (s : State) :
    KeptBy s (execPsiFrameEnd n ok data s) := by
  unfold execPsiFrameEnd
  refine KeptBy.next ?_
  repeat' with_reducible first | apply Kept.refl | apply Kept.via (State.psiEnd_kept ..)

theorem execMcRestart_kept (n : Fin 4) (s : State) : KeptBy s (execMcRestart n s) := by
  unfold execMcRestart
  refine KeptBy.next ?_
  repeat' first
    | with_reducible first
      | apply Kept.refl | apply Kept.via (State.access_kept (h_k := ?_) ..) | apply Kept.via (State.mcRestart_kept ..)
    | simp -zeta -iota -proj -zetaUnused -zetaHave (disch := rfl) only [Kept.update_iff]
    | intro _

theorem execSwapReq_kept (n : Fin 4) (s : State) : KeptBy s (execSwapReq n s) := by
  unfold execSwapReq
  refine KeptBy.next ?_
  repeat' first
    | with_reducible first
      | apply Kept.refl | apply Kept.via (State.access_kept (h_k := ?_) ..) | apply Kept.via (State.swapReq_kept ..)
    | simp -zeta -iota -proj -zetaUnused -zetaHave (disch := rfl) only [Kept.update_iff]
    | intro _

theorem execLoadGo_kept (n : Fin 4) (s : State) : KeptBy s (execLoadGo n s) := by
  unfold execLoadGo
  refine KeptBy.next ?_
  repeat' first
    | with_reducible first
      | apply Kept.refl | apply Kept.via (State.access_kept (h_k := ?_) ..) | apply Kept.via (State.loadGo_kept ..)
    | simp -zeta -iota -proj -zetaUnused -zetaHave (disch := rfl) only [Kept.update_iff]
    | intro _

theorem execMicrocodeLoadComplete_kept (n : Fin 4) (s : State) : KeptBy s (execMicrocodeLoadComplete n s) := by
  unfold execMicrocodeLoadComplete
  refine KeptBy.next ?_
  repeat' with_reducible first | apply Kept.refl | apply Kept.via (State.loadEnd_kept ..)

theorem execWsqSrcWrite_kept (n : Fin 4) (h : Fin 2) (src : BitVec 2) (s : State) : KeptBy s (execWsqSrcWrite n h src s) := by
  unfold execWsqSrcWrite
  refine KeptBy.next ?_
  repeat' first
    | with_reducible first
      | apply Kept.refl | apply Kept.via (State.access_kept (h_k := ?_) ..) | apply Kept.via (State.wr_kept ..)
    | simp -zeta -iota -proj -zetaUnused -zetaHave (disch := rfl) only [Kept.update_iff]
    | intro _
    | split

theorem execWsqStart_kept (n : Fin 4) (h : Fin 2) (sam : Bool) (fetches : List WsqFetch) (s : State) :
    KeptBy s (execWsqStart n h sam fetches s) := by
  unfold execWsqStart
  refine KeptBy.next ?_
  repeat' first
    | with_reducible first | apply Kept.refl | apply Kept.via (State.wsqStart_kept ..)
    | split

theorem execFsqCntClr_kept (n : Fin 4) (s : State) : KeptBy s (execFsqCntClr n s) := by
  unfold execFsqCntClr
  refine KeptBy.next ?_
  repeat' first
    | with_reducible first
      | apply Kept.refl | apply Kept.via (State.access_kept (h_k := ?_) ..) | apply Kept.via (State.clearAll_kept ..)
    | simp -zeta -iota -proj -zetaUnused -zetaHave (disch := rfl) only [Kept.update_iff]
    | intro _

end Sys2Proof.Machine
end

