-- ==== Sys2Proof/Laws/KeepsServo.lean ====
section
/-!
SUPPORT. Laws/KeepsServo.lean: each operation and command of Machine/Servo.lean keeps what every operation keeps (`Kept`).
-/
namespace Sys2Proof.Machine

theorem State.writeUnsafe_kept (s : State) (n : ℕ) : Kept s (State.writeUnsafe s n) := by
  have e : @State.writeUnsafe = @State.writeUnsafe := rfl
  conv at e => rhs; delta State.writeUnsafe
  rw [e]; clear e
  dsimp -zeta -iota -proj -eta -zetaUnused -zetaHave -failIfUnchanged only
  repeat' first
    | with_reducible first
      | apply Kept.refl | assumption | apply Kept.via (State.cutGates_kept ..) | apply Kept.via (State.wr_kept ..)
    | simp -zeta -iota -proj -zetaUnused -zetaHave (disch := rfl) only [Kept.update_iff]
    | intro _
    | (extract_lets -underBinder -merge +onlyGivenNames x; refine Kept.step (b := x) ?_ ?_
       all_goals first | (intro _; clear_value x) | dsimp -zeta -iota -proj -zetaUnused -zetaHave only [x])
    | extract_lets -underBinder -merge +onlyGivenNames x
    | split
    | (clear_value x; split)
    | dsimp only

theorem State.wedgeLost_kept (s : State) (n : ℕ) (h : ℕ) : Kept s (State.wedgeLost s n h) := by
  have e : @State.wedgeLost = @State.wedgeLost := rfl
  conv at e => rhs; delta State.wedgeLost
  rw [e]; clear e
  dsimp -zeta -iota -proj -eta -zetaUnused -zetaHave -failIfUnchanged only
  repeat' first
    | with_reducible first
      | apply Kept.refl | assumption | apply Kept.via (State.modLoop_kept ..) | apply Kept.via (State.count_kept ..)
      | apply Kept.via (State.writeUnsafe_kept ..) | apply Kept.via (State.dlcCoast_kept ..)
      | apply Kept.via (State.wr_kept ..)
    | simp -zeta -iota -proj -zetaUnused -zetaHave (disch := rfl) only [Kept.update_iff]
    | intro _
    | (extract_lets -underBinder -merge +onlyGivenNames x; refine Kept.step (b := x) ?_ ?_
       all_goals first | (intro _; clear_value x) | dsimp -zeta -iota -proj -zetaUnused -zetaHave only [x])
    | extract_lets -underBinder -merge +onlyGivenNames x
    | split
    | (clear_value x; split)
    | dsimp only

theorem State.acquireWedge_kept (s : State) (n : ℕ) (h : ℕ) (f : WedgeFields) : Kept s (State.acquireWedge s n h f) := by
  have e : @State.acquireWedge = @State.acquireWedge := rfl
  conv at e => rhs; delta State.acquireWedge
  rw [e]; clear e
  dsimp -zeta -iota -proj -eta -zetaUnused -zetaHave -failIfUnchanged only
  repeat' first
    | with_reducible first | apply Kept.refl | assumption | apply Kept.via (State.modLoop_kept ..)
    | simp -zeta -iota -proj -zetaUnused -zetaHave (disch := rfl) only [Kept.update_iff]
    | intro _
    | (extract_lets -underBinder -merge +onlyGivenNames x; refine Kept.step (b := x) ?_ ?_
       all_goals first | (intro _; clear_value x) | dsimp -zeta -iota -proj -zetaUnused -zetaHave only [x])
    | extract_lets -underBinder -merge +onlyGivenNames x
    | split
    | (clear_value x; split)
    | dsimp only

theorem State.latchWedge_kept (s : State) (n : ℕ) (h : ℕ) (f : WedgeFields) : Kept s (State.latchWedge s n h f) := by
  have e : @State.latchWedge = @State.latchWedge := rfl
  conv at e => rhs; delta State.latchWedge
  rw [e]; clear e
  dsimp -zeta -iota -proj -eta -zetaUnused -zetaHave -failIfUnchanged only
  repeat' first
    | with_reducible first
      | apply Kept.refl | assumption | apply Kept.via (State.modLoop_kept ..) | apply Kept.via (State.wedgeLost_kept ..)
      | apply Kept.via (State.writeUnsafe_kept ..)
    | simp -zeta -iota -proj -zetaUnused -zetaHave (disch := rfl) only [Kept.update_iff]
    | intro _
    | (extract_lets -underBinder -merge +onlyGivenNames x; refine Kept.step (b := x) ?_ ?_
       all_goals first | (intro _; clear_value x) | dsimp -zeta -iota -proj -zetaUnused -zetaHave only [x])
    | extract_lets -underBinder -merge +onlyGivenNames x
    | split
    | (clear_value x; split)
    | dsimp only

theorem State.wedgeStrobe_kept (s : State) (n : ℕ) (h : ℕ) (f : WedgeFields) (late : Bool) :
    Kept s (State.wedgeStrobe s n h f late) := by
  have e : @State.wedgeStrobe = @State.wedgeStrobe := rfl
  conv at e => rhs; delta State.wedgeStrobe
  rw [e]; clear e
  dsimp -zeta -iota -proj -eta -zetaUnused -zetaHave -failIfUnchanged only
  repeat' first
    | with_reducible first
      | apply Kept.refl | assumption | apply Kept.via (State.fsqCount_kept ..) | apply Kept.via (State.acquireWedge_kept ..)
      | apply Kept.via (State.wedgeLost_kept ..) | apply Kept.via (State.latchWedge_kept ..)
    | simp -zeta -iota -proj -zetaUnused -zetaHave (disch := rfl) only [Kept.update_iff]
    | intro _
    | (extract_lets -underBinder -merge +onlyGivenNames x; refine Kept.step (b := x) ?_ ?_
       all_goals first | (intro _; clear_value x) | dsimp -zeta -iota -proj -zetaUnused -zetaHave only [x])
    | extract_lets -underBinder -merge +onlyGivenNames x
    | split
    | (clear_value x; split)
    | dsimp only

theorem State.judgeSlot_kept (s : State) (n : ℕ) (wedge : ℕ) (h : ℕ) : Kept s (State.judgeSlot s n wedge h) := by
  have e : @State.judgeSlot = @State.judgeSlot := rfl
  conv at e => rhs; delta State.judgeSlot
  rw [e]; clear e
  dsimp -zeta -iota -proj -eta -zetaUnused -zetaHave -failIfUnchanged only
  repeat' first
    | with_reducible first
      | apply Kept.refl | assumption | apply Kept.via (State.wedgeLost_kept ..) | apply Kept.via (State.count_kept ..)
      | apply Kept.via (State.modLoop_kept ..) | apply Kept.via (State.modWsq_kept ..)
    | simp -zeta -iota -proj -zetaUnused -zetaHave (disch := rfl) only [Kept.update_iff]
    | intro _
    | (extract_lets -underBinder -merge +onlyGivenNames x; refine Kept.step (b := x) ?_ ?_
       all_goals first | (intro _; clear_value x) | dsimp -zeta -iota -proj -zetaUnused -zetaHave only [x])
    | extract_lets -underBinder -merge +onlyGivenNames x
    | split
    | (clear_value x; split)
    | dsimp only

theorem State.startSeek_kept (s : State) (n : ℕ) (mask : ℕ) (t0 : ℕ) (t1 : ℕ) (shaped : Bool) :
    Kept s (State.startSeek s n mask t0 t1 shaped) := by
  have e : @State.startSeek = @State.startSeek := rfl
  conv at e => rhs; delta State.startSeek
  rw [e]; clear e
  dsimp -zeta -iota -proj -eta -zetaUnused -zetaHave -failIfUnchanged only
  repeat' first
    | with_reducible first
      | apply Kept.refl | assumption | apply Kept.via (State.modServo_kept ..) | apply Kept.via (State.writeUnsafe_kept ..)
      | apply Kept.via (State.wr_kept ..)
    | simp -zeta -iota -proj -zetaUnused -zetaHave (disch := rfl) only [Kept.update_iff]
    | intro _
    | (extract_lets -underBinder -merge +onlyGivenNames x; refine Kept.step (b := x) ?_ ?_
       all_goals first | (intro _; clear_value x) | dsimp -zeta -iota -proj -zetaUnused -zetaHave only [x])
    | extract_lets -underBinder -merge +onlyGivenNames x
    | split
    | (clear_value x; split)
    | dsimp only

theorem State.takeSeek_kept (s : State) (n : ℕ) (wedge : ℕ) : Kept s (State.takeSeek s n wedge) := by
  have e : @State.takeSeek = @State.takeSeek := rfl
  conv at e => rhs; delta State.takeSeek
  rw [e]; clear e
  dsimp -zeta -iota -proj -eta -zetaUnused -zetaHave -failIfUnchanged only
  repeat' first
    | with_reducible first
      | apply Kept.refl | assumption | apply Kept.via (State.modServo_kept ..) | apply Kept.via (State.count_kept ..)
      | apply Kept.via (State.wr_kept ..) | apply Kept.via (State.startSeek_kept ..)
    | simp -zeta -iota -proj -zetaUnused -zetaHave (disch := rfl) only [Kept.update_iff]
    | intro _
    | (extract_lets -underBinder -merge +onlyGivenNames x; refine Kept.step (b := x) ?_ ?_
       all_goals first | (intro _; clear_value x) | dsimp -zeta -iota -proj -zetaUnused -zetaHave only [x])
    | extract_lets -underBinder -merge +onlyGivenNames x
    | split
    | (clear_value x; split)
    | dsimp only

theorem State.takeOffset_kept (s : State) (n : ℕ) (h : ℕ) : Kept s (State.takeOffset s n h) := by
  have e : @State.takeOffset = @State.takeOffset := rfl
  conv at e => rhs; delta State.takeOffset
  rw [e]; clear e
  dsimp -zeta -iota -proj -eta -zetaUnused -zetaHave -failIfUnchanged only
  repeat' first
    | with_reducible first
      | apply Kept.refl | assumption | apply Kept.via (State.modServo_kept ..) | apply Kept.via (State.count_kept ..)
      | apply Kept.via (State.modLoop_kept ..) | apply Kept.via (State.wr_kept ..)
      | apply Kept.via (State.writeUnsafe_kept ..)
    | simp -zeta -iota -proj -zetaUnused -zetaHave (disch := rfl) only [Kept.update_iff]
    | intro _
    | (extract_lets -underBinder -merge +onlyGivenNames x; refine Kept.step (b := x) ?_ ?_
       all_goals first | (intro _; clear_value x) | dsimp -zeta -iota -proj -zetaUnused -zetaHave only [x])
    | extract_lets -underBinder -merge +onlyGivenNames x
    | split
    | (clear_value x; split)
    | dsimp only

theorem State.startLoad_kept (s : State) (n : ℕ) : Kept s (State.startLoad s n) := by
  have e : @State.startLoad = @State.startLoad := rfl
  conv at e => rhs; delta State.startLoad
  rw [e]; clear e
  dsimp -zeta -iota -proj -eta -zetaUnused -zetaHave -failIfUnchanged only
  repeat' first
    | with_reducible first
      | apply Kept.refl | assumption | apply Kept.via (State.wr_kept ..) | apply Kept.via (State.modServo_kept ..)
    | simp -zeta -iota -proj -zetaUnused -zetaHave (disch := rfl) only [Kept.update_iff]
    | intro _
    | (extract_lets -underBinder -merge +onlyGivenNames x; refine Kept.step (b := x) ?_ ?_
       all_goals first | (intro _; clear_value x) | dsimp -zeta -iota -proj -zetaUnused -zetaHave only [x])
    | extract_lets -underBinder -merge +onlyGivenNames x
    | split
    | (clear_value x; split)
    | dsimp only

theorem State.startPark_kept (s : State) (n : ℕ) : Kept s (State.startPark s n) := by
  have e : @State.startPark = @State.startPark := rfl
  conv at e => rhs; delta State.startPark
  rw [e]; clear e
  dsimp -zeta -iota -proj -eta -zetaUnused -zetaHave -failIfUnchanged only
  repeat' first
    | with_reducible first
      | apply Kept.refl | assumption | apply Kept.via (State.modServo_kept ..) | apply Kept.via (State.startSeek_kept ..)
      | apply Kept.via (Kept.foldl ?_ ..) | apply Kept.via (Kept.foldl_fst ?_ ..)
    | simp -zeta -iota -proj -zetaUnused -zetaHave (disch := rfl) only [Kept.update_iff]
    | intro _
    | (extract_lets -underBinder -merge +onlyGivenNames x; refine Kept.step (b := x) ?_ ?_
       all_goals first | (intro _; clear_value x) | dsimp -zeta -iota -proj -zetaUnused -zetaHave only [x])
    | extract_lets -underBinder -merge +onlyGivenNames x
    | split
    | (clear_value x; split)
    | dsimp only

theorem State.takeLoad_kept (s : State) (n : ℕ) : Kept s (State.takeLoad s n) := by
  have e : @State.takeLoad = @State.takeLoad := rfl
  conv at e => rhs; delta State.takeLoad
  rw [e]; clear e
  dsimp -zeta -iota -proj -eta -zetaUnused -zetaHave -failIfUnchanged only
  repeat' first
    | with_reducible first
      | apply Kept.refl | assumption | apply Kept.via (State.modServo_kept ..) | apply Kept.via (State.startLoad_kept ..)
      | apply Kept.via (State.wr_kept ..) | apply Kept.via (State.startPark_kept ..)
    | simp -zeta -iota -proj -zetaUnused -zetaHave (disch := rfl) only [Kept.update_iff]
    | intro _
    | (extract_lets -underBinder -merge +onlyGivenNames x; refine Kept.step (b := x) ?_ ?_
       all_goals first | (intro _; clear_value x) | dsimp -zeta -iota -proj -zetaUnused -zetaHave only [x])
    | extract_lets -underBinder -merge +onlyGivenNames x
    | split
    | (clear_value x; split)
    | dsimp only

theorem State.takeRequests_kept (s : State) (wedge : ℕ) (n : ℕ) : Kept s (State.takeRequests s wedge n) := by
  have e : @State.takeRequests = @State.takeRequests := rfl
  conv at e => rhs; delta State.takeRequests
  rw [e]; clear e
  dsimp -zeta -iota -proj -eta -zetaUnused -zetaHave -failIfUnchanged only
  repeat' first
    | with_reducible first
      | apply Kept.refl | assumption | apply Kept.via (State.takeOffset_kept ..) | apply Kept.via (State.takeSeek_kept ..)
      | apply Kept.via (State.takeLoad_kept ..)
    | simp -zeta -iota -proj -zetaUnused -zetaHave (disch := rfl) only [Kept.update_iff]
    | intro _
    | (extract_lets -underBinder -merge +onlyGivenNames x; refine Kept.step (b := x) ?_ ?_
       all_goals first | (intro _; clear_value x) | dsimp -zeta -iota -proj -zetaUnused -zetaHave only [x])
    | extract_lets -underBinder -merge +onlyGivenNames x
    | split
    | (clear_value x; split)
    | dsimp only

theorem State.applyCoef_kept (s : State) (n : ℕ) : Kept s (State.applyCoef s n) := by
  have e : @State.applyCoef = @State.applyCoef := rfl
  conv at e => rhs; delta State.applyCoef
  rw [e]; clear e
  dsimp -zeta -iota -proj -eta -zetaUnused -zetaHave -failIfUnchanged only
  repeat' first
    | with_reducible first
      | apply Kept.refl | assumption | apply Kept.via (State.setBitAt_kept ..) | apply Kept.via (State.clrBitAt_kept ..)
    | simp -zeta -iota -proj -zetaUnused -zetaHave (disch := rfl) only [Kept.update_iff]
    | intro _
    | (extract_lets -underBinder -merge +onlyGivenNames x; refine Kept.step (b := x) ?_ ?_
       all_goals first | (intro _; clear_value x) | dsimp -zeta -iota -proj -zetaUnused -zetaHave only [x])
    | extract_lets -underBinder -merge +onlyGivenNames x
    | split
    | (clear_value x; split)
    | dsimp only

theorem State.assistInputs_kept (s : State) (k : ℕ) : Kept s (State.assistInputs s k) := by
  have e : @State.assistInputs = @State.assistInputs := rfl
  conv at e => rhs; delta State.assistInputs
  rw [e]; clear e
  dsimp -zeta -iota -proj -eta -zetaUnused -zetaHave -failIfUnchanged only
  repeat' first
    | with_reducible first
      | apply Kept.refl | assumption | apply Kept.via (State.wr_kept ..) | apply Kept.via (State.raise_kept ..)
      | apply Kept.via (State.count_kept ..) | apply Kept.via (State.modAsd_kept ..)
    | simp -zeta -iota -proj -zetaUnused -zetaHave (disch := rfl) only [Kept.update_iff]
    | intro _
    | (extract_lets -underBinder -merge +onlyGivenNames x; refine Kept.step (b := x) ?_ ?_
       all_goals first | (intro _; clear_value x) | dsimp -zeta -iota -proj -zetaUnused -zetaHave only [x])
    | extract_lets -underBinder -merge +onlyGivenNames x
    | split
    | (clear_value x; split)
    | dsimp only

theorem State.judgeActuator_kept (s : State) (wedge : ℕ) (n : ℕ) : Kept s (State.judgeActuator s wedge n) := by
  have e : @State.judgeActuator = @State.judgeActuator := rfl
  conv at e => rhs; delta State.judgeActuator
  rw [e]; clear e
  dsimp -zeta -iota -proj -eta -zetaUnused -zetaHave -failIfUnchanged only
  repeat' first
    | with_reducible first
      | apply Kept.refl | assumption | apply Kept.via (State.modServo_kept ..) | apply Kept.via (State.judgeSlot_kept ..)
      | apply Kept.via (Kept.foldl ?_ ..) | apply Kept.via (Kept.foldl_fst ?_ ..)
    | simp -zeta -iota -proj -zetaUnused -zetaHave (disch := rfl) only [Kept.update_iff]
    | intro _
    | (extract_lets -underBinder -merge +onlyGivenNames x; refine Kept.step (b := x) ?_ ?_
       all_goals first | (intro _; clear_value x) | dsimp -zeta -iota -proj -zetaUnused -zetaHave only [x])
    | extract_lets -underBinder -merge +onlyGivenNames x
    | split
    | (clear_value x; split)
    | dsimp only

theorem State.slideWindow_kept (s : State) (l : ℕ) : Kept s (State.slideWindow s l) := by
  have e : @State.slideWindow = @State.slideWindow := rfl
  conv at e => rhs; delta State.slideWindow
  rw [e]; clear e
  dsimp -zeta -iota -proj -eta -zetaUnused -zetaHave -failIfUnchanged only
  repeat' first
    | with_reducible first | apply Kept.refl | assumption | apply Kept.via (State.wr_kept ..)
    | simp -zeta -iota -proj -zetaUnused -zetaHave (disch := rfl) only [Kept.update_iff]
    | intro _
    | (extract_lets -underBinder -merge +onlyGivenNames x; refine Kept.step (b := x) ?_ ?_
       all_goals first | (intro _; clear_value x) | dsimp -zeta -iota -proj -zetaUnused -zetaHave only [x])
    | extract_lets -underBinder -merge +onlyGivenNames x
    | split
    | (clear_value x; split)
    | dsimp only

theorem State.servoFrame_kept (s : State) (f : FrameInput) : Kept s (State.servoFrame s f) := by
  have e : @State.servoFrame = @State.servoFrame := rfl
  conv at e => rhs; delta State.servoFrame
  rw [e]; clear e
  dsimp -zeta -iota -proj -eta -zetaUnused -zetaHave -failIfUnchanged only
  repeat' first
    | with_reducible first
      | apply Kept.refl | assumption | apply Kept.via (State.wr_kept ..) | apply Kept.via (State.wrFlag_kept ..)
      | apply Kept.via (State.raiseTo_kept ..) | apply Kept.via (State.applyCoef_kept ..)
      | apply Kept.via (State.slideWindow_kept ..) | apply Kept.via (State.judgeActuator_kept ..)
      | apply Kept.via (State.takeRequests_kept ..) | apply Kept.via (State.assistInputs_kept ..)
      | apply Kept.via (Kept.foldl ?_ ..) | apply Kept.via (Kept.foldl_fst ?_ ..)
    | simp -zeta -iota -proj -zetaUnused -zetaHave (disch := rfl) only [Kept.update_iff]
    | intro _
    | (extract_lets -underBinder -merge +onlyGivenNames x; refine Kept.step (b := x) ?_ ?_
       all_goals first | (intro _; clear_value x) | dsimp -zeta -iota -proj -zetaUnused -zetaHave only [x])
    | extract_lets -underBinder -merge +onlyGivenNames x
    | split
    | (clear_value x; split)
    | dsimp only

theorem State.sliceLoop_kept (s : State) (n : ℕ) (coast : Bool) : Kept s (State.sliceLoop s n coast) := by
  have e : @State.sliceLoop = @State.sliceLoop := rfl
  conv at e => rhs; delta State.sliceLoop
  rw [e]; clear e
  dsimp -zeta -iota -proj -eta -zetaUnused -zetaHave -failIfUnchanged only
  repeat' first
    | with_reducible first
      | apply Kept.refl | assumption | refine Kept.via_snd (State.free_kept ..) ‹_› ?_ | apply Kept.via (State.free_kept ..)
      | apply Kept.via (State.wr_kept ..) | apply Kept.via (State.modServo_kept ..)
    | simp -zeta -iota -proj -zetaUnused -zetaHave (disch := rfl) only [Kept.update_iff]
    | intro _
    | (extract_lets -underBinder -merge +onlyGivenNames x; refine Kept.step (b := x) ?_ ?_
       all_goals first | (intro _; clear_value x) | dsimp -zeta -iota -proj -zetaUnused -zetaHave only [x])
    | extract_lets -underBinder -merge +onlyGivenNames x
    | split
    | (clear_value x; split)
    | dsimp only

theorem State.assistLoop_kept (s : State) (n : ℕ) (h : ℕ) : Kept s (State.assistLoop s n h) := by
  have e : @State.assistLoop = @State.assistLoop := rfl
  conv at e => rhs; delta State.assistLoop
  rw [e]; clear e
  dsimp -zeta -iota -proj -eta -zetaUnused -zetaHave -failIfUnchanged only
  repeat' first
    | with_reducible first
      | apply Kept.refl | assumption | apply Kept.via (State.modLoop_kept ..) | apply Kept.via (State.modAsd_kept ..)
    | simp -zeta -iota -proj -zetaUnused -zetaHave (disch := rfl) only [Kept.update_iff]
    | intro _
    | (extract_lets -underBinder -merge +onlyGivenNames x; refine Kept.step (b := x) ?_ ?_
       all_goals first | (intro _; clear_value x) | dsimp -zeta -iota -proj -zetaUnused -zetaHave only [x])
    | extract_lets -underBinder -merge +onlyGivenNames x
    | split
    | (clear_value x; split)
    | dsimp only

theorem State.ageSum_kept (s : State) (n : ℕ) (h : ℕ) (reading : Option (ℤ × Bool × Bool)) :
    Kept s (State.ageSum s n h reading) := by
  have e : @State.ageSum = @State.ageSum := rfl
  conv at e => rhs; delta State.ageSum
  rw [e]; clear e
  dsimp -zeta -iota -proj -eta -zetaUnused -zetaHave -failIfUnchanged only
  repeat' first
    | with_reducible first | apply Kept.refl | assumption | apply Kept.via (State.wr_kept ..)
    | simp -zeta -iota -proj -zetaUnused -zetaHave (disch := rfl) only [Kept.update_iff]
    | intro _
    | (extract_lets -underBinder -merge +onlyGivenNames x; refine Kept.step (b := x) ?_ ?_
       all_goals first | (intro _; clear_value x) | dsimp -zeta -iota -proj -zetaUnused -zetaHave only [x])
    | extract_lets -underBinder -merge +onlyGivenNames x
    | split
    | (clear_value x; split)
    | dsimp only

theorem State.assistSlice_kept (s : State) (n : ℕ) : Kept s (State.assistSlice s n) := by
  have e : @State.assistSlice = @State.assistSlice := rfl
  conv at e => rhs; delta State.assistSlice
  rw [e]; clear e
  dsimp -zeta -iota -proj -eta -zetaUnused -zetaHave -failIfUnchanged only
  repeat' first
    | with_reducible first
      | apply Kept.refl | assumption | apply Kept.via (State.assistLoop_kept ..) | apply Kept.via (State.ageSum_kept ..)
    | simp -zeta -iota -proj -zetaUnused -zetaHave (disch := rfl) only [Kept.update_iff]
    | intro _
    | (extract_lets -underBinder -merge +onlyGivenNames x; refine Kept.step (b := x) ?_ ?_
       all_goals first | (intro _; clear_value x) | dsimp -zeta -iota -proj -zetaUnused -zetaHave only [x])
    | extract_lets -underBinder -merge +onlyGivenNames x
    | split
    | (clear_value x; split)
    | dsimp only

theorem State.coastFrame_kept (s : State) (n : ℕ) : Kept s (State.coastFrame s n) := by
  have e : @State.coastFrame = @State.coastFrame := rfl
  conv at e => rhs; delta State.coastFrame
  rw [e]; clear e
  dsimp -zeta -iota -proj -eta -zetaUnused -zetaHave -failIfUnchanged only
  repeat' first
    | with_reducible first
      | apply Kept.refl | assumption | apply Kept.via (State.count_kept ..) | apply Kept.via (State.modServo_kept ..)
      | apply Kept.via (State.writeUnsafe_kept ..) | apply Kept.via (State.raise_kept ..) | apply Kept.via (State.wr_kept ..)
    | simp -zeta -iota -proj -zetaUnused -zetaHave (disch := rfl) only [Kept.update_iff]
    | intro _
    | (extract_lets -underBinder -merge +onlyGivenNames x; refine Kept.step (b := x) ?_ ?_
       all_goals first | (intro _; clear_value x) | dsimp -zeta -iota -proj -zetaUnused -zetaHave only [x])
    | extract_lets -underBinder -merge +onlyGivenNames x
    | split
    | (clear_value x; split)
    | dsimp only

theorem State.endCoast_kept (s : State) (n : ℕ) : Kept s (State.endCoast s n) := by
  have e : @State.endCoast = @State.endCoast := rfl
  conv at e => rhs; delta State.endCoast
  rw [e]; clear e
  dsimp -zeta -iota -proj -eta -zetaUnused -zetaHave -failIfUnchanged only
  repeat' first
    | with_reducible first | apply Kept.refl | assumption | apply Kept.via (State.wr_kept ..)
    | simp -zeta -iota -proj -zetaUnused -zetaHave (disch := rfl) only [Kept.update_iff]
    | intro _
    | (extract_lets -underBinder -merge +onlyGivenNames x; refine Kept.step (b := x) ?_ ?_
       all_goals first | (intro _; clear_value x) | dsimp -zeta -iota -proj -zetaUnused -zetaHave only [x])
    | extract_lets -underBinder -merge +onlyGivenNames x
    | split
    | (clear_value x; split)
    | dsimp only

theorem State.nearTarget_kept (s : State) (n : ℕ) : Kept s (State.nearTarget s n) := by
  have e : @State.nearTarget = @State.nearTarget := rfl
  conv at e => rhs; delta State.nearTarget
  rw [e]; clear e
  dsimp -zeta -iota -proj -eta -zetaUnused -zetaHave -failIfUnchanged only
  repeat' first
    | with_reducible first
      | apply Kept.refl | assumption | apply Kept.via (State.modServo_kept ..) | apply Kept.via (State.wr_kept ..)
    | simp -zeta -iota -proj -zetaUnused -zetaHave (disch := rfl) only [Kept.update_iff]
    | intro _
    | (extract_lets -underBinder -merge +onlyGivenNames x; refine Kept.step (b := x) ?_ ?_
       all_goals first | (intro _; clear_value x) | dsimp -zeta -iota -proj -zetaUnused -zetaHave only [x])
    | extract_lets -underBinder -merge +onlyGivenNames x
    | split
    | (clear_value x; split)
    | dsimp only

theorem State.settleFrame_kept (s : State) (n : ℕ) : Kept s (State.settleFrame s n) := by
  have e : @State.settleFrame = @State.settleFrame := rfl
  conv at e => rhs; delta State.settleFrame
  rw [e]; clear e
  dsimp -zeta -iota -proj -eta -zetaUnused -zetaHave -failIfUnchanged only
  repeat' first
    | with_reducible first
      | apply Kept.refl | assumption | apply Kept.via (State.modServo_kept ..) | apply Kept.via (State.wr_kept ..)
    | simp -zeta -iota -proj -zetaUnused -zetaHave (disch := rfl) only [Kept.update_iff]
    | intro _
    | (extract_lets -underBinder -merge +onlyGivenNames x; refine Kept.step (b := x) ?_ ?_
       all_goals first | (intro _; clear_value x) | dsimp -zeta -iota -proj -zetaUnused -zetaHave only [x])
    | extract_lets -underBinder -merge +onlyGivenNames x
    | split
    | (clear_value x; split)
    | dsimp only

theorem State.judgeFrame_kept (s : State) (n : ℕ) : Kept s (State.judgeFrame s n) := by
  have e : @State.judgeFrame = @State.judgeFrame := rfl
  conv at e => rhs; delta State.judgeFrame
  rw [e]; clear e
  dsimp -zeta -iota -proj -eta -zetaUnused -zetaHave -failIfUnchanged only
  repeat' first
    | with_reducible first
      | apply Kept.refl | assumption | refine Kept.via_snd (State.free_kept ..) ‹_› ?_ | apply Kept.via (State.free_kept ..)
      | apply Kept.via (State.modServo_kept ..) | apply Kept.via (State.wr_kept ..)
      | apply Kept.via (State.writeUnsafe_kept ..)
    | simp -zeta -iota -proj -zetaUnused -zetaHave (disch := rfl) only [Kept.update_iff]
    | intro _
    | (extract_lets -underBinder -merge +onlyGivenNames x; refine Kept.step (b := x) ?_ ?_
       all_goals first | (intro _; clear_value x) | dsimp -zeta -iota -proj -zetaUnused -zetaHave only [x])
    | extract_lets -underBinder -merge +onlyGivenNames x
    | split
    | (clear_value x; split)
    | dsimp only

theorem State.showPes_kept (s : State) (n : ℕ) : Kept s (State.showPes s n) := by
  have e : @State.showPes = @State.showPes := rfl
  conv at e => rhs; delta State.showPes
  rw [e]; clear e
  dsimp -zeta -iota -proj -eta -zetaUnused -zetaHave -failIfUnchanged only
  repeat' first
    | with_reducible first | apply Kept.refl | assumption | apply Kept.via (State.wr_kept ..)
    | simp -zeta -iota -proj -zetaUnused -zetaHave (disch := rfl) only [Kept.update_iff]
    | intro _
    | (extract_lets -underBinder -merge +onlyGivenNames x; refine Kept.step (b := x) ?_ ?_
       all_goals first | (intro _; clear_value x) | dsimp -zeta -iota -proj -zetaUnused -zetaHave only [x])
    | extract_lets -underBinder -merge +onlyGivenNames x
    | split
    | (clear_value x; split)
    | dsimp only

theorem State.sliceDone_kept (s : State) (n : ℕ) : Kept s (State.sliceDone s n) := by
  have e : @State.sliceDone = @State.sliceDone := rfl
  conv at e => rhs; delta State.sliceDone
  rw [e]; clear e
  dsimp -zeta -iota -proj -eta -zetaUnused -zetaHave -failIfUnchanged only
  repeat' first
    | with_reducible first
      | apply Kept.refl | assumption | apply Kept.via (State.wr_kept ..) | apply Kept.via (State.assistSlice_kept ..)
      | apply Kept.via (State.coastFrame_kept ..) | apply Kept.via (State.endCoast_kept ..)
      | apply Kept.via (State.nearTarget_kept ..) | apply Kept.via (State.showPes_kept ..)
      | apply Kept.via (State.sliceLoop_kept ..) | apply Kept.via (State.modServo_kept ..)
      | apply Kept.via (State.judgeFrame_kept ..) | apply Kept.via (State.settleFrame_kept ..)
    | simp -zeta -iota -proj -zetaUnused -zetaHave (disch := rfl) only [Kept.update_iff]
    | intro _
    | (extract_lets -underBinder -merge +onlyGivenNames x; refine Kept.step (b := x) ?_ ?_
       all_goals first | (intro _; clear_value x) | dsimp -zeta -iota -proj -zetaUnused -zetaHave only [x])
    | extract_lets -underBinder -merge +onlyGivenNames x
    | split
    | (clear_value x; split)
    | dsimp only

theorem State.sliceMissed_kept (s : State) (n : ℕ) : Kept s (State.sliceMissed s n) := by
  have e : @State.sliceMissed = @State.sliceMissed := rfl
  conv at e => rhs; delta State.sliceMissed
  rw [e]; clear e
  dsimp -zeta -iota -proj -eta -zetaUnused -zetaHave -failIfUnchanged only
  repeat' first
    | with_reducible first
      | apply Kept.refl | assumption | apply Kept.via (State.modServo_kept ..) | apply Kept.via (State.raise_kept ..)
      | apply Kept.via (State.count_kept ..) | apply Kept.via (State.wr_kept ..) | apply Kept.via (State.writeUnsafe_kept ..)
      | apply Kept.via (State.coastFrame_kept ..) | apply Kept.via (State.detect_kept ..)
    | simp -zeta -iota -proj -zetaUnused -zetaHave (disch := rfl) only [Kept.update_iff]
    | intro _
    | (extract_lets -underBinder -merge +onlyGivenNames x; refine Kept.step (b := x) ?_ ?_
       all_goals first | (intro _; clear_value x) | dsimp -zeta -iota -proj -zetaUnused -zetaHave only [x])
    | extract_lets -underBinder -merge +onlyGivenNames x
    | split
    | (clear_value x; split)
    | dsimp only

theorem State.restoreMissed_kept (s : State) (n : ℕ) : Kept s (State.restoreMissed s n) := by
  have e : @State.restoreMissed = @State.restoreMissed := rfl
  conv at e => rhs; delta State.restoreMissed
  rw [e]; clear e
  dsimp -zeta -iota -proj -eta -zetaUnused -zetaHave -failIfUnchanged only
  repeat' first
    | with_reducible first
      | apply Kept.refl | assumption | apply Kept.via (State.coastFrame_kept ..) | apply Kept.via (State.modServo_kept ..)
    | simp -zeta -iota -proj -zetaUnused -zetaHave (disch := rfl) only [Kept.update_iff]
    | intro _
    | (extract_lets -underBinder -merge +onlyGivenNames x; refine Kept.step (b := x) ?_ ?_
       all_goals first | (intro _; clear_value x) | dsimp -zeta -iota -proj -zetaUnused -zetaHave only [x])
    | extract_lets -underBinder -merge +onlyGivenNames x
    | split
    | (clear_value x; split)
    | dsimp only

theorem State.unplace_kept (s : State) (n : ℕ) : Kept s (State.unplace s n) := by
  have e : @State.unplace = @State.unplace := rfl
  conv at e => rhs; delta State.unplace
  rw [e]; clear e
  dsimp -zeta -iota -proj -eta -zetaUnused -zetaHave -failIfUnchanged only
  repeat' first
    | with_reducible first | apply Kept.refl | assumption | apply Kept.via (State.clearAll_kept ..)
    | simp -zeta -iota -proj -zetaUnused -zetaHave (disch := rfl) only [Kept.update_iff]
    | intro _
    | (extract_lets -underBinder -merge +onlyGivenNames x; refine Kept.step (b := x) ?_ ?_
       all_goals first | (intro _; clear_value x) | dsimp -zeta -iota -proj -zetaUnused -zetaHave only [x])
    | extract_lets -underBinder -merge +onlyGivenNames x
    | split
    | (clear_value x; split)
    | dsimp only

theorem State.parkDone_kept (s : State) (n : ℕ) : Kept s (State.parkDone s n) := by
  have e : @State.parkDone = @State.parkDone := rfl
  conv at e => rhs; delta State.parkDone
  rw [e]; clear e
  dsimp -zeta -iota -proj -eta -zetaUnused -zetaHave -failIfUnchanged only
  repeat' first
    | with_reducible first
      | apply Kept.refl | assumption | apply Kept.via (State.raise_kept ..) | apply Kept.via (State.wr_kept ..)
      | apply Kept.via (State.modServo_kept ..) | apply Kept.via (State.unplace_kept ..)
      | apply Kept.via (State.reinitAct_kept ..)
    | simp -zeta -iota -proj -zetaUnused -zetaHave (disch := rfl) only [Kept.update_iff]
    | intro _
    | (extract_lets -underBinder -merge +onlyGivenNames x; refine Kept.step (b := x) ?_ ?_
       all_goals first | (intro _; clear_value x) | dsimp -zeta -iota -proj -zetaUnused -zetaHave only [x])
    | extract_lets -underBinder -merge +onlyGivenNames x
    | split
    | (clear_value x; split)
    | dsimp only

theorem State.capture_kept (s : State) (n : ℕ) : Kept s (State.capture s n) := by
  have e : @State.capture = @State.capture := rfl
  conv at e => rhs; delta State.capture
  rw [e]; clear e
  dsimp -zeta -iota -proj -eta -zetaUnused -zetaHave -failIfUnchanged only
  repeat' first
    | with_reducible first
      | apply Kept.refl | assumption | refine Kept.via_snd (State.free_kept ..) ‹_› ?_ | apply Kept.via (State.free_kept ..)
      | apply Kept.via (State.modServo_kept ..)
    | simp -zeta -iota -proj -zetaUnused -zetaHave (disch := rfl) only [Kept.update_iff]
    | intro _
    | (extract_lets -underBinder -merge +onlyGivenNames x; refine Kept.step (b := x) ?_ ?_
       all_goals first | (intro _; clear_value x) | dsimp -zeta -iota -proj -zetaUnused -zetaHave only [x])
    | extract_lets -underBinder -merge +onlyGivenNames x
    | split
    | (clear_value x; split)
    | dsimp only

theorem State.loadDone_kept (s : State) (n : ℕ) : Kept s (State.loadDone s n) := by
  have e : @State.loadDone = @State.loadDone := rfl
  conv at e => rhs; delta State.loadDone
  rw [e]; clear e
  dsimp -zeta -iota -proj -eta -zetaUnused -zetaHave -failIfUnchanged only
  repeat' first
    | with_reducible first
      | apply Kept.refl | assumption | apply Kept.via (State.capture_kept ..) | apply Kept.via (State.wr_kept ..)
      | apply Kept.via (State.raise_kept ..) | apply Kept.via (State.count_kept ..)
    | simp -zeta -iota -proj -zetaUnused -zetaHave (disch := rfl) only [Kept.update_iff]
    | intro _
    | (extract_lets -underBinder -merge +onlyGivenNames x; refine Kept.step (b := x) ?_ ?_
       all_goals first | (intro _; clear_value x) | dsimp -zeta -iota -proj -zetaUnused -zetaHave only [x])
    | extract_lets -underBinder -merge +onlyGivenNames x
    | split
    | (clear_value x; split)
    | dsimp only

theorem State.loadTimeout_kept (s : State) (n : ℕ) : Kept s (State.loadTimeout s n) := by
  have e : @State.loadTimeout = @State.loadTimeout := rfl
  conv at e => rhs; delta State.loadTimeout
  rw [e]; clear e
  dsimp -zeta -iota -proj -eta -zetaUnused -zetaHave -failIfUnchanged only
  repeat' first
    | with_reducible first
      | apply Kept.refl | assumption | apply Kept.via (State.modServo_kept ..) | apply Kept.via (State.wr_kept ..)
      | apply Kept.via (State.detect_kept ..) | apply Kept.via (State.raise_kept ..)
    | simp -zeta -iota -proj -zetaUnused -zetaHave (disch := rfl) only [Kept.update_iff]
    | intro _
    | (extract_lets -underBinder -merge +onlyGivenNames x; refine Kept.step (b := x) ?_ ?_
       all_goals first | (intro _; clear_value x) | dsimp -zeta -iota -proj -zetaUnused -zetaHave only [x])
    | extract_lets -underBinder -merge +onlyGivenNames x
    | split
    | (clear_value x; split)
    | dsimp only

theorem State.coastRetract_kept (s : State) (n : ℕ) : Kept s (State.coastRetract s n) := by
  have e : @State.coastRetract = @State.coastRetract := rfl
  conv at e => rhs; delta State.coastRetract
  rw [e]; clear e
  dsimp -zeta -iota -proj -eta -zetaUnused -zetaHave -failIfUnchanged only
  repeat' first
    | with_reducible first
      | apply Kept.refl | assumption | apply Kept.via (State.retract_kept ..) | apply Kept.via (State.detect_kept ..)
      | apply Kept.via (State.raise_kept ..) | apply Kept.via (State.wr_kept ..)
    | simp -zeta -iota -proj -zetaUnused -zetaHave (disch := rfl) only [Kept.update_iff]
    | intro _
    | (extract_lets -underBinder -merge +onlyGivenNames x; refine Kept.step (b := x) ?_ ?_
       all_goals first | (intro _; clear_value x) | dsimp -zeta -iota -proj -zetaUnused -zetaHave only [x])
    | extract_lets -underBinder -merge +onlyGivenNames x
    | split
    | (clear_value x; split)
    | dsimp only

theorem State.endSlotRun_kept (s : State) (k : ℕ) : Kept s (State.endSlotRun s k) := by
  have e : @State.endSlotRun = @State.endSlotRun := rfl
  conv at e => rhs; delta State.endSlotRun
  rw [e]; clear e
  dsimp -zeta -iota -proj -eta -zetaUnused -zetaHave -failIfUnchanged only
  repeat' first
    | with_reducible first | apply Kept.refl | assumption | apply Kept.via (State.modSlot_kept ..)
    | simp -zeta -iota -proj -zetaUnused -zetaHave (disch := rfl) only [Kept.update_iff]
    | intro _
    | (extract_lets -underBinder -merge +onlyGivenNames x; refine Kept.step (b := x) ?_ ?_
       all_goals first | (intro _; clear_value x) | dsimp -zeta -iota -proj -zetaUnused -zetaHave only [x])
    | extract_lets -underBinder -merge +onlyGivenNames x
    | split
    | (clear_value x; split)
    | dsimp only

theorem State.slotDrop_kept (s : State) (n : ℕ) (h : ℕ) : Kept s (State.slotDrop s n h) := by
  have e : @State.slotDrop = @State.slotDrop := rfl
  conv at e => rhs; delta State.slotDrop
  rw [e]; clear e
  dsimp -zeta -iota -proj -eta -zetaUnused -zetaHave -failIfUnchanged only
  repeat' first
    | with_reducible first
      | apply Kept.refl | assumption | apply Kept.via (State.modLoop_kept ..) | apply Kept.via (State.wr_kept ..)
      | apply Kept.via (State.raise_kept ..) | apply Kept.via (State.setBitAt_kept ..) | apply Kept.via (State.detect_kept ..)
      | apply Kept.via (State.endSlotRun_kept ..)
    | simp -zeta -iota -proj -zetaUnused -zetaHave (disch := rfl) only [Kept.update_iff]
    | intro _
    | (extract_lets -underBinder -merge +onlyGivenNames x; refine Kept.step (b := x) ?_ ?_
       all_goals first | (intro _; clear_value x) | dsimp -zeta -iota -proj -zetaUnused -zetaHave only [x])
    | extract_lets -underBinder -merge +onlyGivenNames x
    | split
    | (clear_value x; split)
    | dsimp only

theorem State.feFault_kept (s : State) (n : ℕ) : Kept s (State.feFault s n) := by
  have e : @State.feFault = @State.feFault := rfl
  conv at e => rhs; delta State.feFault
  rw [e]; clear e
  dsimp -zeta -iota -proj -eta -zetaUnused -zetaHave -failIfUnchanged only
  repeat' first
    | with_reducible first
      | apply Kept.refl | assumption | apply Kept.via (State.modServo_kept ..) | apply Kept.via (State.detect_kept ..)
      | apply Kept.via (State.raise_kept ..) | apply Kept.via (State.count_kept ..) | apply Kept.via (State.wr_kept ..)
    | simp -zeta -iota -proj -zetaUnused -zetaHave (disch := rfl) only [Kept.update_iff]
    | intro _
    | (extract_lets -underBinder -merge +onlyGivenNames x; refine Kept.step (b := x) ?_ ?_
       all_goals first | (intro _; clear_value x) | dsimp -zeta -iota -proj -zetaUnused -zetaHave only [x])
    | extract_lets -underBinder -merge +onlyGivenNames x
    | split
    | (clear_value x; split)
    | dsimp only

theorem State.subsample_kept (s : State) (n : ℕ) (current : ℕ) (rms : ℕ) (watts : ℕ) (excess : ℕ) :
    Kept s (State.subsample s n current rms watts excess) := by
  have e : @State.subsample = @State.subsample := rfl
  conv at e => rhs; delta State.subsample
  rw [e]; clear e
  dsimp -zeta -iota -proj -eta -zetaUnused -zetaHave -failIfUnchanged only
  repeat' first
    | with_reducible first
      | apply Kept.refl | assumption | apply Kept.via (State.wr_kept ..) | apply Kept.via (State.wrFlag_kept ..)
      | apply Kept.via (State.raise_kept ..) | refine Kept.via_snd (State.free_kept ..) ‹_› ?_
      | apply Kept.via (State.free_kept ..) | apply Kept.via (State.modServo_kept ..) | apply Kept.via (State.detect_kept ..)
      | apply Kept.via (Kept.foldl ?_ ..) | apply Kept.via (Kept.foldl_fst ?_ ..)
    | simp -zeta -iota -proj -zetaUnused -zetaHave (disch := rfl) only [Kept.update_iff]
    | intro _
    | (extract_lets -underBinder -merge +onlyGivenNames x; refine Kept.step (b := x) ?_ ?_
       all_goals first | (intro _; clear_value x) | dsimp -zeta -iota -proj -zetaUnused -zetaHave only [x])
    | extract_lets -underBinder -merge +onlyGivenNames x
    | split
    | (clear_value x; split)
    | dsimp only

theorem State.shockTrip_kept (s : State) (y : Bool) (mv : ℕ) : Kept s (State.shockTrip s y mv) := by
  have e : @State.shockTrip = @State.shockTrip := rfl
  conv at e => rhs; delta State.shockTrip
  rw [e]; clear e
  dsimp -zeta -iota -proj -eta -zetaUnused -zetaHave -failIfUnchanged only
  repeat' first
    | with_reducible first
      | apply Kept.refl | assumption | apply Kept.via (State.raiseTo_kept ..) | apply Kept.via (State.writeUnsafe_kept ..)
      | apply Kept.via (State.raise_kept ..) | apply Kept.via (State.wr_kept ..) | apply Kept.via (Kept.foldl ?_ ..)
      | apply Kept.via (Kept.foldl_fst ?_ ..)
    | simp -zeta -iota -proj -zetaUnused -zetaHave (disch := rfl) only [Kept.update_iff]
    | intro _
    | (extract_lets -underBinder -merge +onlyGivenNames x; refine Kept.step (b := x) ?_ ?_
       all_goals first | (intro _; clear_value x) | dsimp -zeta -iota -proj -zetaUnused -zetaHave only [x])
    | extract_lets -underBinder -merge +onlyGivenNames x
    | split
    | (clear_value x; split)
    | dsimp only

theorem execWedgeStrobe_kept (n : Fin 4) (h : Fin 2) (wedge : WedgeFields) (late : Bool) (s : State) :
    KeptBy s (execWedgeStrobe n h wedge late s) := by
  have e : @execWedgeStrobe = @execWedgeStrobe := rfl
  conv at e => rhs; delta execWedgeStrobe
  rw [e]; clear e
  dsimp -zeta -iota -proj -eta -zetaUnused -zetaHave -failIfUnchanged only
  repeat' first
    | with_reducible first
      | refine KeptBy.next ?_ | apply Kept.refl | assumption | apply Kept.via (State.wedgeStrobe_kept ..)
    | simp -zeta -iota -proj -zetaUnused -zetaHave (disch := rfl) only [Kept.update_iff]
    | intro _
    | (extract_lets -underBinder -merge +onlyGivenNames x; refine Kept.step (b := x) ?_ ?_
       all_goals first | (intro _; clear_value x) | dsimp -zeta -iota -proj -zetaUnused -zetaHave only [x])
    | extract_lets -underBinder -merge +onlyGivenNames x
    | split
    | (clear_value x; split)
    | dsimp only

theorem execServoFrame_kept (input : FrameInput) (s : State) : KeptBy s (execServoFrame input s) := by
  have e : @execServoFrame = @execServoFrame := rfl
  conv at e => rhs; delta execServoFrame
  rw [e]; clear e
  dsimp -zeta -iota -proj -eta -zetaUnused -zetaHave -failIfUnchanged only
  repeat' first
    | with_reducible first
      | refine KeptBy.next ?_ | apply Kept.refl | assumption | apply Kept.via (State.servoFrame_kept ..)
    | simp -zeta -iota -proj -zetaUnused -zetaHave (disch := rfl) only [Kept.update_iff]
    | intro _
    | (extract_lets -underBinder -merge +onlyGivenNames x; refine Kept.step (b := x) ?_ ?_
       all_goals first | (intro _; clear_value x) | dsimp -zeta -iota -proj -zetaUnused -zetaHave only [x])
    | extract_lets -underBinder -merge +onlyGivenNames x
    | split
    | (clear_value x; split)
    | dsimp only

theorem execFollowingErrorFault_kept (n : Fin 4) (s : State) : KeptBy s (execFollowingErrorFault n s) := by
  have e : @execFollowingErrorFault = @execFollowingErrorFault := rfl
  conv at e => rhs; delta execFollowingErrorFault
  rw [e]; clear e
  dsimp -zeta -iota -proj -eta -zetaUnused -zetaHave -failIfUnchanged only
  repeat' first
    | with_reducible first | refine KeptBy.next ?_ | apply Kept.refl | assumption | apply Kept.via (State.feFault_kept ..)
    | simp -zeta -iota -proj -zetaUnused -zetaHave (disch := rfl) only [Kept.update_iff]
    | intro _
    | (extract_lets -underBinder -merge +onlyGivenNames x; refine Kept.step (b := x) ?_ ?_
       all_goals first | (intro _; clear_value x) | dsimp -zeta -iota -proj -zetaUnused -zetaHave only [x])
    | extract_lets -underBinder -merge +onlyGivenNames x
    | split
    | (clear_value x; split)
    | dsimp only

theorem execCoastRetract_kept (n : Fin 4) (s : State) : KeptBy s (execCoastRetract n s) := by
  have e : @execCoastRetract = @execCoastRetract := rfl
  conv at e => rhs; delta execCoastRetract
  rw [e]; clear e
  dsimp -zeta -iota -proj -eta -zetaUnused -zetaHave -failIfUnchanged only
  repeat' first
    | with_reducible first
      | refine KeptBy.next ?_ | apply Kept.refl | assumption | apply Kept.via (State.coastRetract_kept ..)
    | simp -zeta -iota -proj -zetaUnused -zetaHave (disch := rfl) only [Kept.update_iff]
    | intro _
    | (extract_lets -underBinder -merge +onlyGivenNames x; refine Kept.step (b := x) ?_ ?_
       all_goals first | (intro _; clear_value x) | dsimp -zeta -iota -proj -zetaUnused -zetaHave only [x])
    | extract_lets -underBinder -merge +onlyGivenNames x
    | split
    | (clear_value x; split)
    | dsimp only

theorem execSlotDrop_kept (n : Fin 4) (h : Fin 2) (s : State) : KeptBy s (execSlotDrop n h s) := by
  have e : @execSlotDrop = @execSlotDrop := rfl
  conv at e => rhs; delta execSlotDrop
  rw [e]; clear e
  dsimp -zeta -iota -proj -eta -zetaUnused -zetaHave -failIfUnchanged only
  repeat' first
    | with_reducible first
      | refine KeptBy.next ?_ | apply Kept.refl | assumption | apply Kept.via (State.slotDrop_kept ..)
    | simp -zeta -iota -proj -zetaUnused -zetaHave (disch := rfl) only [Kept.update_iff]
    | intro _
    | (extract_lets -underBinder -merge +onlyGivenNames x; refine Kept.step (b := x) ?_ ?_
       all_goals first | (intro _; clear_value x) | dsimp -zeta -iota -proj -zetaUnused -zetaHave only [x])
    | extract_lets -underBinder -merge +onlyGivenNames x
    | split
    | (clear_value x; split)
    | dsimp only

theorem execVcmSubsample_kept (n : Fin 4) (current : BitVec 16) (rms : BitVec 12) (watts : BitVec 8) (overcurrent : BitVec 3) (s : State) :
    KeptBy s (execVcmSubsample n current rms watts overcurrent s) := by
  have e : @execVcmSubsample = @execVcmSubsample := rfl
  conv at e => rhs; delta execVcmSubsample
  rw [e]; clear e
  dsimp -zeta -iota -proj -eta -zetaUnused -zetaHave -failIfUnchanged only
  repeat' first
    | with_reducible first
      | refine KeptBy.next ?_ | apply Kept.refl | assumption | apply Kept.via (State.subsample_kept ..)
    | simp -zeta -iota -proj -zetaUnused -zetaHave (disch := rfl) only [Kept.update_iff]
    | intro _
    | (extract_lets -underBinder -merge +onlyGivenNames x; refine Kept.step (b := x) ?_ ?_
       all_goals first | (intro _; clear_value x) | dsimp -zeta -iota -proj -zetaUnused -zetaHave only [x])
    | extract_lets -underBinder -merge +onlyGivenNames x
    | split
    | (clear_value x; split)
    | dsimp only

theorem execRetract_kept (n : Fin 4) (s : State) : KeptBy s (execRetract n s) := by
  have e : @execRetract = @execRetract := rfl
  conv at e => rhs; delta execRetract
  rw [e]; clear e
  dsimp -zeta -iota -proj -eta -zetaUnused -zetaHave -failIfUnchanged only
  repeat' first
    | with_reducible first | refine KeptBy.next ?_ | apply Kept.refl | assumption | apply Kept.via (State.retract_kept ..)
    | simp -zeta -iota -proj -zetaUnused -zetaHave (disch := rfl) only [Kept.update_iff]
    | intro _
    | (extract_lets -underBinder -merge +onlyGivenNames x; refine Kept.step (b := x) ?_ ?_
       all_goals first | (intro _; clear_value x) | dsimp -zeta -iota -proj -zetaUnused -zetaHave only [x])
    | extract_lets -underBinder -merge +onlyGivenNames x
    | split
    | (clear_value x; split)
    | dsimp only

theorem execCrashStopDetect_kept (n : Fin 4) (s : State) : KeptBy s (execCrashStopDetect n s) := by
  have e : @execCrashStopDetect = @execCrashStopDetect := rfl
  conv at e => rhs; delta execCrashStopDetect
  rw [e]; clear e
  dsimp -zeta -iota -proj -eta -zetaUnused -zetaHave -failIfUnchanged only
  repeat' first
    | with_reducible first | refine KeptBy.next ?_ | apply Kept.refl | assumption | apply Kept.via (State.wr_kept ..)
    | simp -zeta -iota -proj -zetaUnused -zetaHave (disch := rfl) only [Kept.update_iff]
    | intro _
    | (extract_lets -underBinder -merge +onlyGivenNames x; refine Kept.step (b := x) ?_ ?_
       all_goals first | (intro _; clear_value x) | dsimp -zeta -iota -proj -zetaUnused -zetaHave only [x])
    | extract_lets -underBinder -merge +onlyGivenNames x
    | split
    | (clear_value x; split)
    | dsimp only

theorem execParkHoldDone_kept (n : Fin 4) (s : State) : KeptBy s (execParkHoldDone n s) := by
  have e : @execParkHoldDone = @execParkHoldDone := rfl
  conv at e => rhs; delta execParkHoldDone
  rw [e]; clear e
  dsimp -zeta -iota -proj -eta -zetaUnused -zetaHave -failIfUnchanged only
  repeat' first
    | with_reducible first
      | refine KeptBy.next ?_ | apply Kept.refl | assumption | apply Kept.via (State.parkDone_kept ..)
    | simp -zeta -iota -proj -zetaUnused -zetaHave (disch := rfl) only [Kept.update_iff]
    | intro _
    | (extract_lets -underBinder -merge +onlyGivenNames x; refine Kept.step (b := x) ?_ ?_
       all_goals first | (intro _; clear_value x) | dsimp -zeta -iota -proj -zetaUnused -zetaHave only [x])
    | extract_lets -underBinder -merge +onlyGivenNames x
    | split
    | (clear_value x; split)
    | dsimp only

theorem execParkHandover_kept (n : Fin 4) (s : State) : KeptBy s (execParkHandover n s) := by
  have e : @execParkHandover = @execParkHandover := rfl
  conv at e => rhs; delta execParkHandover
  rw [e]; clear e
  dsimp -zeta -iota -proj -eta -zetaUnused -zetaHave -failIfUnchanged only
  repeat' first
    | with_reducible first
      | refine KeptBy.next ?_ | apply Kept.refl | assumption | apply Kept.via (State.modServo_kept ..)
      | apply Kept.via (State.wr_kept ..) | apply Kept.via (State.writeUnsafe_kept ..)
    | simp -zeta -iota -proj -zetaUnused -zetaHave (disch := rfl) only [Kept.update_iff]
    | intro _
    | (extract_lets -underBinder -merge +onlyGivenNames x; refine Kept.step (b := x) ?_ ?_
       all_goals first | (intro _; clear_value x) | dsimp -zeta -iota -proj -zetaUnused -zetaHave only [x])
    | extract_lets -underBinder -merge +onlyGivenNames x
    | split
    | (clear_value x; split)
    | dsimp only

theorem execLoadAcquireTimeout_kept (n : Fin 4) (s : State) : KeptBy s (execLoadAcquireTimeout n s) := by
  have e : @execLoadAcquireTimeout = @execLoadAcquireTimeout := rfl
  conv at e => rhs; delta execLoadAcquireTimeout
  rw [e]; clear e
  dsimp -zeta -iota -proj -eta -zetaUnused -zetaHave -failIfUnchanged only
  repeat' first
    | with_reducible first
      | refine KeptBy.next ?_ | apply Kept.refl | assumption | apply Kept.via (State.loadTimeout_kept ..)
    | simp -zeta -iota -proj -zetaUnused -zetaHave (disch := rfl) only [Kept.update_iff]
    | intro _
    | (extract_lets -underBinder -merge +onlyGivenNames x; refine Kept.step (b := x) ?_ ?_
       all_goals first | (intro _; clear_value x) | dsimp -zeta -iota -proj -zetaUnused -zetaHave only [x])
    | extract_lets -underBinder -merge +onlyGivenNames x
    | split
    | (clear_value x; split)
    | dsimp only

theorem execLoadComplete_kept (n : Fin 4) (s : State) : KeptBy s (execLoadComplete n s) := by
  have e : @execLoadComplete = @execLoadComplete := rfl
  conv at e => rhs; delta execLoadComplete
  rw [e]; clear e
  dsimp -zeta -iota -proj -eta -zetaUnused -zetaHave -failIfUnchanged only
  repeat' first
    | with_reducible first
      | refine KeptBy.next ?_ | apply Kept.refl | assumption | apply Kept.via (State.loadDone_kept ..)
    | simp -zeta -iota -proj -zetaUnused -zetaHave (disch := rfl) only [Kept.update_iff]
    | intro _
    | (extract_lets -underBinder -merge +onlyGivenNames x; refine Kept.step (b := x) ?_ ?_
       all_goals first | (intro _; clear_value x) | dsimp -zeta -iota -proj -zetaUnused -zetaHave only [x])
    | extract_lets -underBinder -merge +onlyGivenNames x
    | split
    | (clear_value x; split)
    | dsimp only

theorem execShockTrip_kept (y : Bool) (excursion : BitVec 16) (s : State) : KeptBy s (execShockTrip y excursion s) := by
  have e : @execShockTrip = @execShockTrip := rfl
  conv at e => rhs; delta execShockTrip
  rw [e]; clear e
  dsimp -zeta -iota -proj -eta -zetaUnused -zetaHave -failIfUnchanged only
  repeat' first
    | with_reducible first
      | refine KeptBy.next ?_ | apply Kept.refl | assumption | apply Kept.via (State.shockTrip_kept ..)
    | simp -zeta -iota -proj -zetaUnused -zetaHave (disch := rfl) only [Kept.update_iff]
    | intro _
    | (extract_lets -underBinder -merge +onlyGivenNames x; refine Kept.step (b := x) ?_ ?_
       all_goals first | (intro _; clear_value x) | dsimp -zeta -iota -proj -zetaUnused -zetaHave only [x])
    | extract_lets -underBinder -merge +onlyGivenNames x
    | split
    | (clear_value x; split)
    | dsimp only

theorem execShockHoldEnd_kept (s : State) : KeptBy s (execShockHoldEnd s) := by
  have e : @execShockHoldEnd = @execShockHoldEnd := rfl
  conv at e => rhs; delta execShockHoldEnd
  rw [e]; clear e
  dsimp -zeta -iota -proj -eta -zetaUnused -zetaHave -failIfUnchanged only
  repeat' first
    | with_reducible first | refine KeptBy.next ?_ | apply Kept.refl | assumption | apply Kept.via (State.wr_kept ..)
    | simp -zeta -iota -proj -zetaUnused -zetaHave (disch := rfl) only [Kept.update_iff]
    | intro _
    | (extract_lets -underBinder -merge +onlyGivenNames x; refine Kept.step (b := x) ?_ ?_
       all_goals first | (intro _; clear_value x) | dsimp -zeta -iota -proj -zetaUnused -zetaHave only [x])
    | extract_lets -underBinder -merge +onlyGivenNames x
    | split
    | (clear_value x; split)
    | dsimp only

theorem execCoefApply_kept (mask : BitVec 4) (s : State) : KeptBy s (execCoefApply mask s) := by
  have e : @execCoefApply = @execCoefApply := rfl
  conv at e => rhs; delta execCoefApply
  rw [e]; clear e
  dsimp -zeta -iota -proj -eta -zetaUnused -zetaHave -failIfUnchanged only
  repeat' first
    | with_reducible first
      | refine KeptBy.next ?_ | apply Kept.refl | assumption | apply Kept.via (State.access_kept (h_k := ?_) ..)
      | apply Kept.via (State.wr_kept ..)
    | simp -zeta -iota -proj -zetaUnused -zetaHave (disch := rfl) only [Kept.update_iff]
    | intro _
    | (extract_lets -underBinder -merge +onlyGivenNames x; refine Kept.step (b := x) ?_ ?_
       all_goals first | (intro _; clear_value x) | dsimp -zeta -iota -proj -zetaUnused -zetaHave only [x])
    | extract_lets -underBinder -merge +onlyGivenNames x
    | split
    | (clear_value x; split)
    | dsimp only

theorem execSvCntClr_kept (n : Fin 4) (s : State) : KeptBy s (execSvCntClr n s) := by
  have e : @execSvCntClr = @execSvCntClr := rfl
  conv at e => rhs; delta execSvCntClr
  rw [e]; clear e
  dsimp -zeta -iota -proj -eta -zetaUnused -zetaHave -failIfUnchanged only
  repeat' first
    | with_reducible first
      | refine KeptBy.next ?_ | apply Kept.refl | assumption | apply Kept.via (State.access_kept (h_k := ?_) ..)
      | apply Kept.via (State.clearAll_kept ..)
    | simp -zeta -iota -proj -zetaUnused -zetaHave (disch := rfl) only [Kept.update_iff]
    | intro _
    | (extract_lets -underBinder -merge +onlyGivenNames x; refine Kept.step (b := x) ?_ ?_
       all_goals first | (intro _; clear_value x) | dsimp -zeta -iota -proj -zetaUnused -zetaHave only [x])
    | extract_lets -underBinder -merge +onlyGivenNames x
    | split
    | (clear_value x; split)
    | dsimp only

end Sys2Proof.Machine
end

