-- ==== Sys2Proof/Laws/KeepsAssist.lean ====
section
/-!
SUPPORT. Laws/KeepsAssist.lean: each operation and command of Machine/Assist.lean keeps what every operation keeps (`Kept`).
-/
namespace Sys2Proof.Machine

theorem State.slotCode_kept (s : State) (k : ℕ) (out : ℤ) (tie : Bool) : Kept s (State.slotCode s k out tie) := by
  unfold State.slotCode
  repeat' first
    | with_reducible first
      | apply Kept.refl | apply Kept.via (State.count_kept ..) | apply Kept.via (State.raise_kept ..)
      | apply Kept.via (State.modAsd_kept ..) | apply Kept.via (State.wrFlag_kept ..)
      | apply Kept.via (State.sendCode_kept ..)
    | split

theorem State.assistCode_kept (s : State) (k : ℕ) (tie : Bool) : Kept s (State.assistCode s k tie) := by
  unfold State.assistCode
  repeat' first
    | with_reducible first
      | apply Kept.refl | apply Kept.via (State.modAsd_kept ..) | apply Kept.via (State.sendCode_kept ..)
      | apply Kept.via (State.slotCode_kept ..)
    | split

theorem State.htsRead_kept (s : State) (n : ℕ) (tie : Bool) : Kept s (State.htsRead s n tie) := by
  unfold State.htsRead
  repeat' first
    | with_reducible first
      | apply Kept.refl | apply Kept.via (State.modAsd_kept ..) | apply Kept.via (State.psiPush_kept ..)
      | apply Kept.via (Kept.foldl ?_ ..)
    | intro _

theorem State.ageWarn_kept (s : State) (j : ℕ) : Kept s (State.ageWarn s j) := by
  unfold State.ageWarn
  repeat' first
    | with_reducible first
      | apply Kept.refl | apply Kept.via (State.raise_kept ..) | apply Kept.via (State.wrFlag_kept ..)
    | split

theorem State.setDirty_kept (s : State) : Kept s (State.setDirty s) := by
  unfold State.setDirty
  repeat' first
    | with_reducible first | apply Kept.refl | apply Kept.via (State.wr_kept ..)
    | simp -zeta -iota -proj -zetaUnused -zetaHave (disch := rfl) only [Kept.update_iff]

theorem State.clearSums_kept (s : State) (j : ℕ) : Kept s (State.clearSums s j) := by
  unfold State.clearSums
  repeat' first
    | with_reducible first | apply Kept.refl | apply Kept.via (State.wr_kept ..)
    | simp -zeta -iota -proj -zetaUnused -zetaHave (disch := rfl) only [Kept.update_iff]

theorem State.ageStep_kept (s : State) (j : ℕ) : Kept s (State.ageStep s j) := by
  have e : @State.ageStep = @State.ageStep := rfl
  conv at e => rhs; delta State.ageStep
  rw [e]; clear e
  dsimp -zeta -iota -proj -eta -zetaUnused -zetaHave -failIfUnchanged only
  repeat' first
    | with_reducible first
      | apply Kept.refl | apply Kept.via (State.clearSums_kept ..) | apply Kept.via (State.free_kept ..)
      | apply Kept.via (State.wr_kept ..) | apply Kept.via (State.raise_kept ..) | apply Kept.via (State.count_kept ..)
      | apply Kept.via (State.ageWarn_kept ..) | apply Kept.via (State.setDirty_kept ..)
    | simp -zeta -iota -proj -zetaUnused -zetaHave (disch := rfl) only [Kept.update_iff]
    | intro _
    | (extract_lets -underBinder -merge +onlyGivenNames x; refine Kept.step (b := x) ?_ ?_
       all_goals first | (intro _; clear_value x) | dsimp -zeta -iota -proj -zetaUnused -zetaHave only [x])
    | extract_lets -underBinder -merge +onlyGivenNames x
    | split
    | (clear_value x; split)

theorem State.clearForce_kept (s : State) (mask : ℕ) : Kept s (State.clearForce s mask) := by
  unfold State.clearForce
  repeat' first
    | with_reducible first | apply Kept.refl | apply Kept.via (State.clrBitAt_kept ..) | apply Kept.via (Kept.foldl ?_ ..)
    | simp -zeta -iota -proj -zetaUnused -zetaHave (disch := rfl) only [Kept.update_iff]
    | intro _
    | split

theorem execHtsRead_kept (n : Fin 4) (tie : Bool) (s : State) : KeptBy s (execHtsRead n tie s) := by
  unfold execHtsRead
  refine KeptBy.next ?_
  repeat' first
    | with_reducible first | apply Kept.refl | apply Kept.via (State.htsRead_kept ..)
    | split

theorem execAssistCodeWrite_kept (n : Fin 4) (tie : Bool) (s : State) : KeptBy s (execAssistCodeWrite n tie s) := by
  unfold execAssistCodeWrite
  refine KeptBy.next ?_
  repeat' with_reducible first | apply Kept.refl | apply Kept.via (State.assistCode_kept ..)

theorem execAgeStep_kept (j : Fin 32) (s : State) : KeptBy s (execAgeStep j s) := by
  unfold execAgeStep
  refine KeptBy.next ?_
  repeat' with_reducible first | apply Kept.refl | apply Kept.via (State.ageStep_kept ..)

theorem execAssistForceClear_kept (mask : BitVec 4) (s : State) : KeptBy s (execAssistForceClear mask s) := by
  unfold execAssistForceClear
  refine KeptBy.next ?_
  repeat' first
    | with_reducible first
      | apply Kept.refl | apply Kept.via (State.access_kept (h_k := ?_) ..) | apply Kept.via (State.clearForce_kept ..)
    | simp -zeta -iota -proj -zetaUnused -zetaHave (disch := rfl) only [Kept.update_iff]
    | intro _

theorem execAsdCntClr_kept (s : State) : KeptBy s (execAsdCntClr s) := by
  unfold execAsdCntClr
  refine KeptBy.next ?_
  repeat' first
    | with_reducible first
      | apply Kept.refl | apply Kept.via (State.access_kept (h_k := ?_) ..) | apply Kept.via (State.clearAll_kept ..)
    | simp -zeta -iota -proj -zetaUnused -zetaHave (disch := rfl) only [Kept.update_iff]
    | intro _

end Sys2Proof.Machine
end

