-- ==== Sys2Proof/Laws/KeepsCalib.lean ====
section
/-!
SUPPORT. Laws/KeepsCalib.lean: each operation and command of Machine/Calib.lean keeps what every operation keeps (`Kept`).
-/
namespace Sys2Proof.Machine

theorem State.profileToSlot_kept (s : State) (k : ℕ) (w : ℕ) (v : ℕ) : Kept s (State.profileToSlot s k w v) := by
  unfold State.profileToSlot
  repeat' first
    | with_reducible first
      | apply Kept.refl | apply Kept.via (State.wr_kept ..) | apply Kept.via (State.psiPush_kept ..)
      | apply Kept.via (State.modSlot_kept ..)
    | split

theorem State.writeTable_kept (s : State) (t : CalTarget) (v : ℕ) (v2 : ℕ) : Kept s (State.writeTable s t v v2) := by
  unfold State.writeTable
  repeat' first
    | with_reducible first
      | apply Kept.refl | apply Kept.via (State.wr_kept ..) | apply Kept.via (State.ageWarn_kept ..)
      | apply Kept.via (State.setBitAt_kept ..)
    | simp -zeta -iota -proj -zetaUnused -zetaHave (disch := rfl) only [Kept.update_iff]
    | split

theorem State.applyTarget_kept (s : State) (t : CalTarget) (v : ℕ) (v2 : ℕ) : Kept s (State.applyTarget s t v v2) := by
  unfold State.applyTarget
  repeat' first
    | with_reducible first
      | apply Kept.refl | apply Kept.via (State.writeTable_kept ..) | apply Kept.via (State.profileToSlot_kept ..)
      | apply Kept.via (Kept.foldl ?_ ..)
    | simp -zeta -iota -proj -zetaUnused -zetaHave (disch := rfl) only [Kept.update_iff]
    | intro _
    | split

theorem State.setRamps_kept (s : State) (l : List CalRamp) : Kept s (State.setRamps s l) := by
  unfold State.setRamps
  repeat' first
    | with_reducible first
      | apply Kept.refl | apply Kept.via (State.wr_kept ..) | apply Kept.via (State.raise_kept ..)
      | apply Kept.via (Kept.foldl ?_ ..)
    | simp -zeta -iota -proj -zetaUnused -zetaHave (disch := rfl) only [Kept.update_iff]
    | intro _
    | split

theorem State.queueValue_kept (s : State) (run : Option ℕ) (ramp : Bool) (t : CalTarget) (v : ℕ) (v2 : ℕ) :
    Kept s (State.queueValue s run ramp t v v2) := by
  unfold State.queueValue
  repeat' first
    | with_reducible first
      | apply Kept.refl | apply Kept.via (State.blockWrote_kept ..) | apply Kept.via (State.applyTarget_kept ..)
      | apply Kept.via (State.setRamps_kept ..)
    | split

theorem State.rampStep_kept (s : State) (i : ℕ) : Kept s (State.rampStep s i) := by
  unfold State.rampStep
  repeat' first
    | with_reducible first
      | apply Kept.refl | apply Kept.via (State.setRamps_kept ..) | apply Kept.via (State.blockWrote_kept ..)
      | apply Kept.via (State.applyTarget_kept ..) | apply Kept.via (State.free_kept ..)
    | split

theorem State.rampFallback_kept (s : State) (i : ℕ) : Kept s (State.rampFallback s i) := by
  have e : @State.rampFallback = @State.rampFallback := rfl
  conv at e => rhs; delta State.rampFallback
  rw [e]; clear e
  dsimp -zeta -iota -proj -eta -zetaUnused -zetaHave -failIfUnchanged only
  repeat' first
    | with_reducible first
      | apply Kept.refl | assumption | apply Kept.via (State.count_kept ..) | apply Kept.via (State.setRamps_kept ..)
      | apply Kept.via (State.blockWrote_kept ..) | apply Kept.via (State.applyTarget_kept ..)
    | simp -zeta -iota -proj -zetaUnused -zetaHave (disch := rfl) only [Kept.update_iff]
    | intro _
    | (extract_lets -underBinder -merge +onlyGivenNames x; refine Kept.step (b := x) ?_ ?_
       all_goals first | (intro _; clear_value x) | dsimp -zeta -iota -proj -zetaUnused -zetaHave only [x])
    | extract_lets -underBinder -merge +onlyGivenNames x
    | split
    | (clear_value x; split)

theorem State.cancelRamp_kept (s : State) (t : CalTarget) : Kept s (State.cancelRamp s t) := by
  unfold State.cancelRamp
  repeat' first
    | with_reducible first | apply Kept.refl | apply Kept.via (State.wr_kept ..) | apply Kept.via (State.setRamps_kept ..)
    | split

theorem State.firmwareWord_kept (s : State) (t : CalTarget) (v : ℕ) : Kept s (State.firmwareWord s t v) := by
  have e : @State.firmwareWord = @State.firmwareWord := rfl
  conv at e => rhs; delta State.firmwareWord
  rw [e]; clear e
  dsimp -zeta -iota -proj -eta -zetaUnused -zetaHave -failIfUnchanged only
  repeat' first
    | with_reducible first
      | apply Kept.refl | assumption | apply Kept.via (State.setDirty_kept ..) | apply Kept.via (State.writeTable_kept ..)
      | apply Kept.via (State.cancelRamp_kept ..) | apply Kept.via (State.wr_kept ..)
    | simp -zeta -iota -proj -zetaUnused -zetaHave (disch := rfl) only [Kept.update_iff]
    | intro _
    | (extract_lets -underBinder -merge +onlyGivenNames x; refine Kept.step (b := x) ?_ ?_
       all_goals first | (intro _; clear_value x) | dsimp -zeta -iota -proj -zetaUnused -zetaHave only [x])
    | extract_lets -underBinder -merge +onlyGivenNames x
    | split
    | (clear_value x; split)

theorem State.modHistory_kept (s : State) (r : CalRun) (f : ℕ × ℕ × ℕ → ℕ × ℕ × ℕ) : Kept s (State.modHistory s r f) := by
  unfold State.modHistory
  repeat' first
    | with_reducible first | apply Kept.refl | apply Kept.via (State.setDirty_kept ..)
    | simp -zeta -iota -proj -zetaUnused -zetaHave (disch := rfl) only [Kept.update_iff]

theorem State.endRun_kept (s : State) (k : ℕ) (result : ℕ) (mask : ℕ) : Kept s (State.endRun s k result mask) := by
  have e : @State.endRun = @State.endRun := rfl
  conv at e => rhs; delta State.endRun
  rw [e]; clear e
  dsimp -zeta -iota -proj -eta -zetaUnused -zetaHave -failIfUnchanged only
  repeat' first
    | with_reducible first
      | apply Kept.refl | assumption | apply Kept.via (State.wr_kept ..) | apply Kept.via (State.modHistory_kept ..)
      | apply Kept.via (State.queueValue_kept ..) | apply Kept.via (Kept.foldl ?_ ..) | apply Kept.via (Kept.foldl_fst ?_ ..)
    | simp -zeta -iota -proj -zetaUnused -zetaHave (disch := rfl) only [Kept.update_iff]
    | intro _
    | (extract_lets -underBinder -merge +onlyGivenNames x; refine Kept.step (b := x) ?_ ?_
       all_goals first | (intro _; clear_value x) | dsimp -zeta -iota -proj -zetaUnused -zetaHave only [x])
    | extract_lets -underBinder -merge +onlyGivenNames x
    | split
    | (clear_value x; split)
    | dsimp only

theorem State.abortRun_kept (s : State) (k : ℕ) (mask : ℕ) : Kept s (State.abortRun s k mask) := by
  unfold State.abortRun
  repeat' with_reducible first
    | apply Kept.refl | apply Kept.via (State.raise_kept ..) | apply Kept.via (State.endRun_kept ..)

theorem State.checkRun_kept (s : State) (k : ℕ) : Kept s (State.checkRun s k) := by
  have e : @State.checkRun = @State.checkRun := rfl
  conv at e => rhs; delta State.checkRun
  rw [e]; clear e
  dsimp -zeta -iota -proj -eta -zetaUnused -zetaHave -failIfUnchanged only
  repeat' first
    | with_reducible first | apply Kept.refl | apply Kept.via (State.abortRun_kept ..)
    | simp -zeta -iota -proj -zetaUnused -zetaHave (disch := rfl) only [Kept.update_iff]
    | intro _
    | (extract_lets -underBinder -merge +onlyGivenNames x; refine Kept.step (b := x) ?_ ?_
       all_goals first | (intro _; clear_value x) | dsimp -zeta -iota -proj -zetaUnused -zetaHave only [x])
    | extract_lets -underBinder -merge +onlyGivenNames x
    | split
    | (clear_value x; split)

theorem State.runBegin_kept (s : State) (k : ℕ) (r : CalRun) : Kept s (State.runBegin s k r) := by
  unfold State.runBegin
  repeat' first
    | with_reducible first | apply Kept.refl | apply Kept.via (State.wr_kept ..) | apply Kept.via (State.checkRun_kept ..)
    | simp -zeta -iota -proj -zetaUnused -zetaHave (disch := rfl) only [Kept.update_iff]

theorem State.runStart_kept (s : State) (k : ℕ) (type : ℕ) (unit : ℕ) (slot : ℕ) :
    Kept s (State.runStart s k type unit slot) := by
  have e : @State.runStart = @State.runStart := rfl
  conv at e => rhs; delta State.runStart
  rw [e]; clear e
  dsimp -zeta -iota -proj -eta -zetaUnused -zetaHave -failIfUnchanged only
  repeat' first
    | with_reducible first
      | apply Kept.refl | assumption | apply Kept.via (State.wr_kept ..) | apply Kept.via (State.runBegin_kept ..)
    | simp -zeta -iota -proj -zetaUnused -zetaHave (disch := rfl) only [Kept.update_iff]
    | intro _
    | (extract_lets -underBinder -merge +onlyGivenNames x; refine Kept.step (b := x) ?_ ?_
       all_goals first | (intro _; clear_value x) | dsimp -zeta -iota -proj -zetaUnused -zetaHave only [x])
    | extract_lets -underBinder -merge +onlyGivenNames x
    | split
    | (clear_value x; split)

theorem State.judged_kept (s : State) (k : ℕ) (codes : ℕ) (go : State → State) (h_go : ∀ a0, Kept a0 (go a0)) :
    Kept s (State.judged s k codes go) := by
  have e : @State.judged = @State.judged := rfl
  conv at e => rhs; delta State.judged
  rw [e]; clear e
  dsimp -zeta -iota -proj -eta -zetaUnused -zetaHave -failIfUnchanged only
  repeat' first
    | with_reducible first | apply Kept.refl | apply Kept.via (State.abortRun_kept ..) | apply Kept.via (h_go ..)
    | simp -zeta -iota -proj -zetaUnused -zetaHave (disch := rfl) only [Kept.update_iff]
    | intro _
    | (extract_lets -underBinder -merge +onlyGivenNames x; refine Kept.step (b := x) ?_ ?_
       all_goals first | (intro _; clear_value x) | dsimp -zeta -iota -proj -zetaUnused -zetaHave only [x])
    | extract_lets -underBinder -merge +onlyGivenNames x
    | split
    | (clear_value x; split)

theorem State.validated_kept (s : State) (k : ℕ) : Kept s (State.validated s k) := by
  have e : @State.validated = @State.validated := rfl
  conv at e => rhs; delta State.validated
  rw [e]; clear e
  dsimp -zeta -iota -proj -eta -zetaUnused -zetaHave -failIfUnchanged only
  repeat' first
    | with_reducible first
      | apply Kept.refl | assumption | apply Kept.via (State.endRun_kept ..) | apply Kept.via (State.modHistory_kept ..)
      | apply Kept.via (State.wr_kept ..) | apply Kept.via (State.queueValue_kept ..) | apply Kept.via (State.raise_kept ..)
      | apply Kept.via (State.setRamps_kept ..) | apply Kept.via (Kept.foldl ?_ ..) | apply Kept.via (Kept.foldl_fst ?_ ..)
    | simp -zeta -iota -proj -zetaUnused -zetaHave (disch := rfl) only [Kept.update_iff]
    | intro _
    | (extract_lets -underBinder -merge +onlyGivenNames x; refine Kept.step (b := x) ?_ ?_
       all_goals first | (intro _; clear_value x) | dsimp -zeta -iota -proj -zetaUnused -zetaHave only [x])
    | extract_lets -underBinder -merge +onlyGivenNames x
    | split
    | (clear_value x; split)
    | dsimp only

theorem State.tblAccess_kept (s : State) (w : Option ℕ) : Kept s (State.tblAccess s w) := by
  unfold State.tblAccess
  repeat' first
    | with_reducible first
      | apply Kept.refl | apply Kept.via (State.firmwareWord_kept ..) | apply Kept.via (State.emit_kept ..)
      | apply Kept.via (State.wr_kept ..)
    | split

theorem State.setBankOf_kept (s : State) (b : ℕ) (c : Option CalBank) : Kept s (State.setBankOf s b c) := by
  unfold State.setBankOf
  repeat' first
    | with_reducible first | apply Kept.refl
    | simp -zeta -iota -proj -zetaUnused -zetaHave (disch := rfl) only [Kept.update_iff]
    | split

theorem State.storeStart_kept (s : State) : Kept s (State.storeStart s) := by
  unfold State.storeStart
  repeat' first
    | with_reducible first
      | apply Kept.refl | apply Kept.via (State.free_kept ..) | apply Kept.via (State.wr_kept ..)
      | apply Kept.via (State.setBankOf_kept ..)
    | simp -zeta -iota -proj -zetaUnused -zetaHave (disch := rfl) only [Kept.update_iff]
    | split

theorem State.storeGo_kept (s : State) : Kept s (State.storeGo s) := by
  unfold State.storeGo
  repeat' first
    | with_reducible first
      | apply Kept.refl | apply Kept.via (State.wr_kept ..) | apply Kept.via (State.storeStart_kept ..)
    | split

theorem State.storeAgain_kept (s : State) : Kept s (State.storeAgain s) := by
  have e : @State.storeAgain = @State.storeAgain := rfl
  conv at e => rhs; delta State.storeAgain
  rw [e]; clear e
  dsimp -zeta -iota -proj -eta -zetaUnused -zetaHave -failIfUnchanged only
  repeat' first
    | with_reducible first
      | apply Kept.refl | assumption | apply Kept.via (State.wr_kept ..) | apply Kept.via (State.storeStart_kept ..)
    | simp -zeta -iota -proj -zetaUnused -zetaHave (disch := rfl) only [Kept.update_iff]
    | intro _
    | (extract_lets -underBinder -merge +onlyGivenNames x; refine Kept.step (b := x) ?_ ?_
       all_goals first | (intro _; clear_value x) | dsimp -zeta -iota -proj -zetaUnused -zetaHave only [x])
    | extract_lets -underBinder -merge +onlyGivenNames x
    | split
    | (clear_value x; split)

theorem State.storeEnd_kept (s : State) (ok : Bool) : Kept s (State.storeEnd s ok) := by
  unfold State.storeEnd
  repeat' first
    | with_reducible first
      | apply Kept.refl | apply Kept.via (State.wr_kept ..) | apply Kept.via (State.setBankOf_kept ..)
      | apply Kept.via (State.storeAgain_kept ..) | apply Kept.via (State.raise_kept ..)
      | apply Kept.via (State.count_kept ..)
    | simp -zeta -iota -proj -zetaUnused -zetaHave (disch := rfl) only [Kept.update_iff]
    | split

theorem State.takeSet_kept (s : State) (c : CalSet) : Kept s (State.takeSet s c) := by
  unfold State.takeSet
  repeat' first
    | with_reducible first
      | apply Kept.refl | apply Kept.via (State.resetRange_kept ..) | apply Kept.via (State.writeTable_kept ..)
      | apply Kept.via (State.wr_kept ..) | apply Kept.via (State.applyCoef_kept ..) | apply Kept.via (Kept.foldl ?_ ..)
    | simp -zeta -iota -proj -zetaUnused -zetaHave (disch := rfl) only [Kept.update_iff]
    | intro _
    | split

theorem State.loadBank_kept (s : State) (b : ℕ) (x : CalBank) (failed : List CalRecord) :
    Kept s (State.loadBank s b x failed) := by
  unfold State.loadBank
  repeat' with_reducible first | apply Kept.refl | apply Kept.via (State.wr_kept ..) | apply Kept.via (State.takeSet_kept ..)

theorem State.calLoad_kept (s : State) (failedA : List CalRecord) (failedB : List CalRecord) :
    Kept s (State.calLoad s failedA failedB) := by
  unfold State.calLoad
  repeat' first
    | with_reducible first
      | apply Kept.refl | apply Kept.via (State.wr_kept ..) | apply Kept.via (State.takeSet_kept ..)
      | apply Kept.via (State.loadBank_kept ..) | apply Kept.via (State.raise_kept ..)
    | split

theorem State.norGrant_kept (s : State) (requests : ℕ) : Kept s (State.norGrant s requests) := by
  have e : @State.norGrant = @State.norGrant := rfl
  conv at e => rhs; delta State.norGrant
  rw [e]; clear e
  dsimp -zeta -iota -proj -eta -zetaUnused -zetaHave -failIfUnchanged only
  repeat' first
    | with_reducible first | apply Kept.refl | apply Kept.via (State.wr_kept ..)
    | simp -zeta -iota -proj -zetaUnused -zetaHave (disch := rfl) only [Kept.update_iff]
    | intro _
    | (extract_lets -underBinder -merge +onlyGivenNames x; refine Kept.step (b := x) ?_ ?_
       all_goals first | (intro _; clear_value x) | dsimp -zeta -iota -proj -zetaUnused -zetaHave only [x])
    | extract_lets -underBinder -merge +onlyGivenNames x
    | split
    | (clear_value x; split)

theorem execRunStart_kept (k : Fin 4) (type : BitVec 4) (unit : BitVec 5) (slot : Bool) (s : State) :
    KeptBy s (execRunStart k type unit slot s) := by
  unfold execRunStart
  refine KeptBy.next ?_
  repeat' first
    | with_reducible first
      | apply Kept.refl | apply Kept.via (State.access_kept (h_k := ?_) ..) | apply Kept.via (State.runStart_kept ..)
    | simp -zeta -iota -proj -zetaUnused -zetaHave (disch := rfl) only [Kept.update_iff]
    | intro _

theorem execRunPreconditionViolation_kept (k : Fin 4) (judged : BitVec 12) (s : State) :
    KeptBy s (execRunPreconditionViolation k judged s) := by
  unfold execRunPreconditionViolation
  refine KeptBy.next ?_
  repeat' with_reducible first | apply Kept.refl | apply Kept.via (State.judged_kept (h_go := ?_) ..)

theorem execRunCancel_kept (k : Fin 4) (judged : BitVec 12) (s : State) : KeptBy s (execRunCancel k judged s) := by
  unfold execRunCancel
  refine KeptBy.next ?_
  repeat' first
    | with_reducible first
      | apply Kept.refl | apply Kept.via (State.access_kept (h_k := ?_) ..)
      | apply Kept.via (State.judged_kept (h_go := ?_) ..) | apply Kept.via (State.raise_kept ..)
      | apply Kept.via (State.endRun_kept ..)
    | simp -zeta -iota -proj -zetaUnused -zetaHave (disch := rfl) only [Kept.update_iff]
    | intro _

theorem execRunFinish_kept (k : Fin 4) (judged : BitVec 12) (s : State) : KeptBy s (execRunFinish k judged s) := by
  unfold execRunFinish
  refine KeptBy.next ?_
  repeat' first
    | with_reducible first
      | apply Kept.refl | apply Kept.via (State.access_kept (h_k := ?_) ..)
      | apply Kept.via (State.judged_kept (h_go := ?_) ..) | apply Kept.via (State.wr_kept ..)
    | simp -zeta -iota -proj -zetaUnused -zetaHave (disch := rfl) only [Kept.update_iff]
    | intro _

theorem execRunValidationComplete_kept (k : Fin 4) (judged : BitVec 12) (s : State) :
    KeptBy s (execRunValidationComplete k judged s) := by
  unfold execRunValidationComplete
  refine KeptBy.next ?_
  repeat' first
    | with_reducible first
      | apply Kept.refl | apply Kept.via (State.judged_kept (h_go := ?_) ..) | apply Kept.via (State.validated_kept ..)
    | simp -zeta -iota -proj -zetaUnused -zetaHave (disch := rfl) only [Kept.update_iff]
    | intro _
    | split

theorem execTblDataAccess_kept (write : Option (BitVec 32)) (s : State) : KeptBy s (execTblDataAccess write s) := by
  have e : @execTblDataAccess = @execTblDataAccess := rfl
  conv at e => rhs; delta execTblDataAccess
  rw [e]; clear e
  dsimp -zeta -iota -proj -eta -zetaUnused -zetaHave -failIfUnchanged only
  repeat' first
    | with_reducible first
      | refine KeptBy.next ?_ | apply Kept.refl | assumption | apply Kept.via (State.access_kept (h_k := ?_) ..)
      | apply Kept.via (State.tblAccess_kept ..) | apply Kept.via (State.accessRead_kept (h_k := ?_) ..)
    | simp -zeta -iota -proj -zetaUnused -zetaHave (disch := rfl) only [Kept.update_iff]
    | intro _
    | (extract_lets -underBinder -merge +onlyGivenNames x; refine Kept.step (b := x) ?_ ?_
       all_goals first | (intro _; clear_value x) | dsimp -zeta -iota -proj -zetaUnused -zetaHave only [x])
    | extract_lets -underBinder -merge +onlyGivenNames x
    | split
    | (clear_value x; split)
    | dsimp only

theorem execRampStep_kept (entry : BitVec 13) (s : State) : KeptBy s (execRampStep entry s) := by
  unfold execRampStep
  refine KeptBy.next ?_
  repeat' with_reducible first | apply Kept.refl | apply Kept.via (State.rampStep_kept ..)

theorem execRampFallback_kept (entry : BitVec 13) (s : State) : KeptBy s (execRampFallback entry s) := by
  unfold execRampFallback
  refine KeptBy.next ?_
  repeat' with_reducible first | apply Kept.refl | apply Kept.via (State.rampFallback_kept ..)

theorem execStoreGo_kept (s : State) : KeptBy s (execStoreGo s) := by
  unfold execStoreGo
  refine KeptBy.next ?_
  repeat' first
    | with_reducible first
      | apply Kept.refl | apply Kept.via (State.access_kept (h_k := ?_) ..) | apply Kept.via (State.storeGo_kept ..)
    | simp -zeta -iota -proj -zetaUnused -zetaHave (disch := rfl) only [Kept.update_iff]
    | intro _

theorem execCalStoreCommit_kept (ok : Bool) (s : State) : KeptBy s (execCalStoreCommit ok s) := by
  unfold execCalStoreCommit
  refine KeptBy.next ?_
  repeat' with_reducible first | apply Kept.refl | apply Kept.via (State.storeEnd_kept ..)

theorem execCalLoad_kept (failedA : List CalRecord) (failedB : List CalRecord) (s : State) :
    KeptBy s (execCalLoad failedA failedB s) := by
  unfold execCalLoad
  refine KeptBy.next ?_
  repeat' first
    | with_reducible first | apply Kept.refl | apply Kept.via (State.calLoad_kept ..)
    | split

theorem execNorGrant_kept (requests : BitVec 3) (s : State) : KeptBy s (execNorGrant requests s) := by
  unfold execNorGrant
  refine KeptBy.next ?_
  repeat' with_reducible first | apply Kept.refl | apply Kept.via (State.norGrant_kept ..)

end Sys2Proof.Machine
end

