-- ==== Sys2Proof/Laws/KeepsFaults.lean ====
section
/-!
SUPPORT. Laws/KeepsFaults.lean: each operation and command of Machine/Faults.lean keeps what every operation keeps (`Kept`).
-/
namespace Sys2Proof.Machine

theorem State.closeShadow_kept (s : State) (code : ℕ) (n : ℕ) : Kept s (State.closeShadow s code n) := by
  unfold State.closeShadow
  repeat' first
    | with_reducible first | apply Kept.refl
    | simp -zeta -iota -proj -zetaUnused -zetaHave (disch := rfl) only [Kept.update_iff]

theorem State.popRecord_kept (s : State) : Kept s (State.popRecord s) := by
  unfold State.popRecord
  repeat' first
    | with_reducible first | apply Kept.refl | apply Kept.via (State.setQCount_kept ..)
    | simp -zeta -iota -proj -zetaUnused -zetaHave (disch := rfl) only [Kept.update_iff]

theorem State.releaseHolds_kept (s : State) (mask : ℕ) : Kept s (State.releaseHolds s mask) := by
  unfold State.releaseHolds
  repeat' first
    | with_reducible first
      | apply Kept.refl | apply Kept.via (State.wrFlag_kept ..) | apply Kept.via (State.clrBitAt_kept ..)
      | apply Kept.via (Kept.foldl ?_ ..)
    | simp -zeta -iota -proj -zetaUnused -zetaHave (disch := rfl) only [Kept.update_iff]
    | intro _
    | split

theorem State.watchdogFire_kept (s : State) : Kept s (State.watchdogFire s) := by
  unfold State.watchdogFire
  repeat' first
    | with_reducible first | apply Kept.refl | apply Kept.via (State.detect_kept ..)
    | simp -zeta -iota -proj -zetaUnused -zetaHave (disch := rfl) only [Kept.update_iff]

theorem execFaultDetection_kept (sources : List (Fin 512 × BitVec 32)) (s : State) :
    KeptBy s (execFaultDetection sources s) := by
  unfold execFaultDetection
  refine KeptBy.next ?_
  repeat' with_reducible first | apply Kept.refl | apply Kept.via (State.detectAll_kept ..)

theorem execShadowReady_kept (step : ShadowStep) (n : Fin 4) (s : State) : KeptBy s (execShadowReady step n s) := by
  unfold execShadowReady
  refine KeptBy.next ?_
  repeat' with_reducible first | apply Kept.refl | apply Kept.via (State.closeShadow_kept ..)

theorem execShadowTimeout_kept (step : ShadowStep) (n : Fin 4) (s : State) : KeptBy s (execShadowTimeout step n s) := by
  unfold execShadowTimeout
  refine KeptBy.next ?_
  repeat' first
    | with_reducible first
      | apply Kept.refl | apply Kept.via (State.detect_kept ..) | apply Kept.via (State.raise_kept ..)
      | apply Kept.via (State.closeShadow_kept ..)
    | split

theorem execWindowClose_kept (k : Fin 5) (s : State) : KeptBy s (execWindowClose k s) := by
  unfold execWindowClose
  refine KeptBy.next ?_
  repeat' first
    | with_reducible first | apply Kept.refl | apply Kept.via (State.raise_kept ..)
    | simp -zeta -iota -proj -zetaUnused -zetaHave (disch := rfl) only [Kept.update_iff]
    | split

theorem execQPop_kept (s : State) : KeptBy s (execQPop s) := by
  unfold execQPop
  refine KeptBy.next ?_
  repeat' first
    | with_reducible first
      | apply Kept.refl | apply Kept.via (State.access_kept (h_k := ?_) ..) | apply Kept.via (State.popRecord_kept ..)
    | simp -zeta -iota -proj -zetaUnused -zetaHave (disch := rfl) only [Kept.update_iff]
    | intro _

theorem execActHoldRelease_kept (mask : BitVec 4) (held : BitVec 4) (s : State) :
    KeptBy s (execActHoldRelease mask held s) := by
  unfold execActHoldRelease
  refine KeptBy.next ?_
  repeat' first
    | with_reducible first
      | apply Kept.refl | apply Kept.via (State.access_kept (h_k := ?_) ..) | apply Kept.via (State.releaseHolds_kept ..)
      | apply Kept.via (State.holdAct_kept ..) | apply Kept.via (Kept.foldl ?_ ..)
    | simp -zeta -iota -proj -zetaUnused -zetaHave (disch := rfl) only [Kept.update_iff]
    | intro _
    | split

theorem execFatalResetTimer_kept (s : State) : KeptBy s (execFatalResetTimer s) := by
  unfold execFatalResetTimer
  refine KeptBy.next ?_
  repeat' first
    | with_reducible first
      | apply Kept.refl | apply Kept.via (State.deviceReset_kept ..) | apply Kept.via (State.wr_kept ..)
    | split

theorem execPipToggle_kept (s : State) : KeptBy s (execPipToggle s) := by
  unfold execPipToggle
  refine KeptBy.next ?_
  repeat' first
    | with_reducible first | apply Kept.refl | apply Kept.via (State.wrFlag_kept ..)
    | simp -zeta -iota -proj -zetaUnused -zetaHave (disch := rfl) only [Kept.update_iff]
    | split

theorem execWdogEn_kept (s : State) : KeptBy s (execWdogEn s) := by
  have e : @execWdogEn = @execWdogEn := rfl
  conv at e => rhs; delta execWdogEn
  rw [e]; clear e
  dsimp -zeta -iota -proj -eta -zetaUnused -zetaHave -failIfUnchanged only
  repeat' first
    | with_reducible first
      | refine KeptBy.next ?_ | apply Kept.refl | assumption | apply Kept.via (State.access_kept (h_k := ?_) ..)
      | apply Kept.via (State.wr_kept ..)
    | simp -zeta -iota -proj -zetaUnused -zetaHave (disch := rfl) only [Kept.update_iff]
    | intro _
    | (extract_lets -underBinder -merge +onlyGivenNames x; refine Kept.step (b := x) ?_ ?_
       all_goals first | (intro _; clear_value x) | dsimp -zeta -iota -proj -zetaUnused -zetaHave only [x])
    | extract_lets -underBinder -merge +onlyGivenNames x
    | split
    | (clear_value x; split)
    | dsimp only

theorem execWdogKick_kept (s : State) : KeptBy s (execWdogKick s) := by
  unfold execWdogKick
  refine KeptBy.next ?_
  repeat' first
    | with_reducible first | apply Kept.refl | apply Kept.via (State.access_kept (h_k := ?_) ..)
    | simp -zeta -iota -proj -zetaUnused -zetaHave (disch := rfl) only [Kept.update_iff]
    | intro _
    | split

theorem execWdogMsWrite_kept (ms : BitVec 16) (elapsedMs : BitVec 16) (s : State) :
    KeptBy s (execWdogMsWrite ms elapsedMs s) := by
  have e : @execWdogMsWrite = @execWdogMsWrite := rfl
  conv at e => rhs; delta execWdogMsWrite
  rw [e]; clear e
  dsimp -zeta -iota -proj -eta -zetaUnused -zetaHave -failIfUnchanged only
  refine KeptBy.next ?_
  repeat' first
    | with_reducible first
      | apply Kept.refl | assumption | apply Kept.via (State.access_kept (h_k := ?_) ..) | apply Kept.via (State.wr_kept ..)
      | apply Kept.via (State.watchdogFire_kept ..)
    | simp -zeta -iota -proj -zetaUnused -zetaHave (disch := rfl) only [Kept.update_iff]
    | intro _
    | (extract_lets -underBinder -merge +onlyGivenNames x; refine Kept.step (b := x) ?_ ?_
       all_goals first | (intro _; clear_value x) | dsimp -zeta -iota -proj -zetaUnused -zetaHave only [x])
    | extract_lets -underBinder -merge +onlyGivenNames x
    | split
    | (clear_value x; split)

theorem execWatchdogExpiry_kept (kick : Bool) (s : State) : KeptBy s (execWatchdogExpiry kick s) := by
  unfold execWatchdogExpiry
  refine KeptBy.next ?_
  repeat' first
    | with_reducible first | apply Kept.refl | apply Kept.via (State.watchdogFire_kept ..)
    | split

theorem execExtRetractRequest_kept (s : State) : KeptBy s (execExtRetractRequest s) := by
  unfold execExtRetractRequest
  refine KeptBy.next ?_
  repeat' first
    | with_reducible first
      | apply Kept.refl | apply Kept.via (State.wr_kept ..) | apply Kept.via (State.detect_kept ..)
      | apply Kept.via (State.raise_kept ..)
    | simp -zeta -iota -proj -zetaUnused -zetaHave (disch := rfl) only [Kept.update_iff]
    | split

theorem execExtRetractEnd_kept (s : State) : KeptBy s (execExtRetractEnd s) := by
  unfold execExtRetractEnd
  refine KeptBy.next ?_
  repeat' first
    | with_reducible first | apply Kept.refl | apply Kept.via (State.wr_kept ..)
    | simp -zeta -iota -proj -zetaUnused -zetaHave (disch := rfl) only [Kept.update_iff]

theorem execFcuCntClr_kept (s : State) : KeptBy s (execFcuCntClr s) := by
  unfold execFcuCntClr
  refine KeptBy.next ?_
  repeat' first
    | with_reducible first
      | apply Kept.refl | apply Kept.via (State.access_kept (h_k := ?_) ..) | apply Kept.via (State.wr_kept ..)
      | apply Kept.via (Kept.foldl ?_ ..)
    | intro _

end Sys2Proof.Machine
end

