-- ==== Sys2Proof/Laws/KeepsLive.lean ====
section
/-!
SUPPORT. Laws/KeepsLive.lean: each operation and command of Machine/Live.lean keeps what every operation keeps (`Kept`).
-/
namespace Sys2Proof.Machine

theorem State.drainRequest_kept (s : State) (req : ℕ) : Kept s (State.drainRequest s req) := by
  unfold State.drainRequest
  repeat' first
    | with_reducible first
      | apply Kept.refl | apply Kept.via (State.wr_kept ..) | apply Kept.via (State.clrBitAt_kept ..)
      | apply Kept.via (State.wrFlag_kept ..) | apply Kept.via (Kept.foldl ?_ ..)
    | simp -zeta -iota -proj -zetaUnused -zetaHave (disch := rfl) only [Kept.update_iff]
    | intro _
    | split

theorem State.activationGo_kept (s : State) (overlaps : Bool) : Kept s (State.activationGo s overlaps) := by
  unfold State.activationGo
  repeat' first
    | with_reducible first | apply Kept.refl | apply Kept.via (State.wr_kept ..) | apply Kept.via (State.raise_kept ..)
    | simp -zeta -iota -proj -zetaUnused -zetaHave (disch := rfl) only [Kept.update_iff]
    | split

theorem State.activationCopied_kept (s : State) (damaged : Bool) : Kept s (State.activationCopied s damaged) := by
  unfold State.activationCopied
  repeat' first
    | with_reducible first
      | apply Kept.refl | apply Kept.via (State.deviceReset_kept ..) | apply Kept.via (State.raise_kept ..)
      | apply Kept.via (State.wr_kept ..) | apply Kept.via (State.loadBytes_kept ..)
    | split

theorem State.activationEntered_kept (s : State) : Kept s (State.activationEntered s) := by
  unfold State.activationEntered
  repeat' first
    | with_reducible first | apply Kept.refl | apply Kept.via (State.wr_kept ..)
    | simp -zeta -iota -proj -zetaUnused -zetaHave (disch := rfl) only [Kept.update_iff]
    | split

theorem State.activationOver_kept (s : State) : Kept s (State.activationOver s) := by
  unfold State.activationOver
  repeat' first
    | with_reducible first | apply Kept.refl | apply Kept.via (State.wr_kept ..) | apply Kept.via (State.finish_kept ..)
    | simp -zeta -iota -proj -zetaUnused -zetaHave (disch := rfl) only [Kept.update_iff]
    | split

theorem State.holdEnds_kept (s : State) (us : ℕ) : Kept s (State.holdEnds s us) := by
  unfold State.holdEnds
  repeat' first
    | with_reducible first | apply Kept.refl | apply Kept.via (State.raise_kept ..) | apply Kept.via (State.wr_kept ..)
    | simp -zeta -iota -proj -zetaUnused -zetaHave (disch := rfl) only [Kept.update_iff]

theorem State.activationRelease_kept (s : State) : Kept s (State.activationRelease s) := by
  unfold State.activationRelease
  repeat' first
    | with_reducible first
      | apply Kept.refl | apply Kept.via (State.activationOver_kept ..) | apply Kept.via (State.holdEnds_kept ..)
    | split

theorem State.holdTimeout_kept (s : State) : Kept s (State.holdTimeout s) := by
  unfold State.holdTimeout
  repeat' first
    | with_reducible first
      | apply Kept.refl | apply Kept.via (State.activationOver_kept ..) | apply Kept.via (State.holdEnds_kept ..)
    | split

theorem State.pertArm_kept (s : State) (arm : Bool) : Kept s (State.pertArm s arm) := by
  unfold State.pertArm
  repeat' first
    | with_reducible first
      | apply Kept.refl | apply Kept.via (State.detect_kept ..) | apply Kept.via (State.raise_kept ..)
      | apply Kept.via (State.wr_kept ..)
    | split

theorem State.loadTap_kept (s : State) (code : ℕ) : Kept s (State.loadTap s code) := by
  unfold State.loadTap
  repeat' first
    | with_reducible first | apply Kept.refl
    | simp -zeta -iota -proj -zetaUnused -zetaHave (disch := rfl) only [Kept.update_iff]

theorem State.loadBoundary_kept (s : State) (code : ℕ) : Kept s (State.loadBoundary s code) := by
  unfold State.loadBoundary
  repeat' first
    | with_reducible first
      | apply Kept.refl | apply Kept.via (State.loadTap_kept ..) | apply Kept.via (State.forceAssist_kept ..)
      | apply Kept.via (Kept.foldl ?_ ..)
    | simp -zeta -iota -proj -zetaUnused -zetaHave (disch := rfl) only [Kept.update_iff]
    | intro _
    | split

theorem State.setCohortLock_kept (s : State) (b : Bool) : Kept s (State.setCohortLock s b) := by
  unfold State.setCohortLock
  repeat' first
    | with_reducible first
      | apply Kept.refl | apply Kept.via (State.raise_kept ..) | apply Kept.via (State.wrFlag_kept ..)
    | split

theorem State.speedWritten_kept (s : State) (rpm : ℕ) : Kept s (State.speedWritten s rpm) := by
  unfold State.speedWritten
  repeat' first
    | with_reducible first
      | apply Kept.refl | apply Kept.via (State.setSpeed_kept ..) | apply Kept.via (State.setCohortLock_kept ..)
    | simp -zeta -iota -proj -zetaUnused -zetaHave (disch := rfl) only [Kept.update_iff]

theorem State.cohortId_kept (s : State) (id : ℕ) : Kept s (State.cohortId s id) := by
  unfold State.cohortId
  repeat' with_reducible first | apply Kept.refl | apply Kept.via (State.wr_kept ..)

theorem State.markAccepted_kept (s : State) (err : ℕ) : Kept s (State.markAccepted s err) := by
  have e : @State.markAccepted = @State.markAccepted := rfl
  conv at e => rhs; delta State.markAccepted
  rw [e]; clear e
  dsimp -zeta -iota -proj -eta -zetaUnused -zetaHave -failIfUnchanged only
  repeat' first
    | with_reducible first
      | apply Kept.refl | assumption | apply Kept.via (State.wr_kept ..) | apply Kept.via (State.setCohortLock_kept ..)
    | simp -zeta -iota -proj -zetaUnused -zetaHave (disch := rfl) only [Kept.update_iff]
    | intro _
    | (extract_lets -underBinder -merge +onlyGivenNames x; refine Kept.step (b := x) ?_ ?_
       all_goals first | (intro _; clear_value x) | dsimp -zeta -iota -proj -zetaUnused -zetaHave only [x])
    | extract_lets -underBinder -merge +onlyGivenNames x
    | split
    | (clear_value x; split)

theorem State.markEdge_kept (s : State) (elapsed : ℕ) (rev : ℕ) (err : ℕ) : Kept s (State.markEdge s elapsed rev err) := by
  unfold State.markEdge
  repeat' first
    | with_reducible first
      | apply Kept.refl | apply Kept.via (State.markAccepted_kept ..) | apply Kept.via (State.count_kept ..)
    | split

theorem State.cohortLost_kept (s : State) : Kept s (State.cohortLost s) := by
  unfold State.cohortLost
  repeat' first
    | with_reducible first
      | apply Kept.refl | apply Kept.via (State.raise_kept ..) | apply Kept.via (State.setCohortLock_kept ..)
      | apply Kept.via (State.wr_kept ..)
    | simp -zeta -iota -proj -zetaUnused -zetaHave (disch := rfl) only [Kept.update_iff]
    | split

theorem execSpindleSetSpeed_kept (rpm : BitVec 14) (s : State) : KeptBy s (execSpindleSetSpeed rpm s) := by
  unfold execSpindleSetSpeed
  refine KeptBy.next ?_
  repeat' first
    | with_reducible first
      | apply Kept.refl | apply Kept.via (State.access_kept (h_k := ?_) ..) | apply Kept.via (State.speedWritten_kept ..)
    | simp -zeta -iota -proj -zetaUnused -zetaHave (disch := rfl) only [Kept.update_iff]
    | intro _

theorem execDrainRequest_kept (req : BitVec 4) (s : State) : KeptBy s (execDrainRequest req s) := by
  unfold execDrainRequest
  refine KeptBy.next ?_
  repeat' first
    | with_reducible first
      | apply Kept.refl | apply Kept.via (State.access_kept (h_k := ?_) ..) | apply Kept.via (State.drainRequest_kept ..)
    | simp -zeta -iota -proj -zetaUnused -zetaHave (disch := rfl) only [Kept.update_iff]
    | intro _

theorem execActvGo_kept (overlaps : Bool) (s : State) : KeptBy s (execActvGo overlaps s) := by
  unfold execActvGo
  refine KeptBy.next ?_
  repeat' first
    | with_reducible first
      | apply Kept.refl | apply Kept.via (State.access_kept (h_k := ?_) ..) | apply Kept.via (State.activationGo_kept ..)
    | simp -zeta -iota -proj -zetaUnused -zetaHave (disch := rfl) only [Kept.update_iff]
    | intro _

theorem execActvCopyComplete_kept (damaged : Bool) (s : State) : KeptBy s (execActvCopyComplete damaged s) := by
  unfold execActvCopyComplete
  refine KeptBy.next ?_
  repeat' with_reducible first | apply Kept.refl | apply Kept.via (State.activationCopied_kept ..)

theorem execActvEntry_kept (s : State) : KeptBy s (execActvEntry s) := by
  unfold execActvEntry
  refine KeptBy.next ?_
  repeat' with_reducible first | apply Kept.refl | apply Kept.via (State.activationEntered_kept ..)

theorem execActvRelease_kept (s : State) : KeptBy s (execActvRelease s) := by
  unfold execActvRelease
  refine KeptBy.next ?_
  repeat' first
    | with_reducible first
      | apply Kept.refl | apply Kept.via (State.access_kept (h_k := ?_) ..) | apply Kept.via (State.activationRelease_kept ..)
    | simp -zeta -iota -proj -zetaUnused -zetaHave (disch := rfl) only [Kept.update_iff]
    | intro _

theorem execActvHoldTimeout_kept (s : State) : KeptBy s (execActvHoldTimeout s) := by
  unfold execActvHoldTimeout
  refine KeptBy.next ?_
  repeat' with_reducible first | apply Kept.refl | apply Kept.via (State.holdTimeout_kept ..)

theorem execPertArm_kept (arm : Bool) (s : State) : KeptBy s (execPertArm arm s) := by
  unfold execPertArm
  refine KeptBy.next ?_
  repeat' first
    | with_reducible first
      | apply Kept.refl | apply Kept.via (State.access_kept (h_k := ?_) ..) | apply Kept.via (State.pertArm_kept ..)
    | simp -zeta -iota -proj -zetaUnused -zetaHave (disch := rfl) only [Kept.update_iff]
    | intro _

theorem execTapReset_kept (s : State) : KeptBy s (execTapReset s) := by
  unfold execTapReset
  refine KeptBy.next ?_
  repeat' first
    | with_reducible first | apply Kept.refl
    | simp -zeta -iota -proj -zetaUnused -zetaHave (disch := rfl) only [Kept.update_iff]

theorem execExtest_kept (s : State) : KeptBy s (execExtest s) := by
  unfold execExtest
  refine KeptBy.next ?_
  repeat' with_reducible first | apply Kept.refl | apply Kept.via (State.loadBoundary_kept ..)

theorem execIdcode_kept (s : State) : KeptBy s (execIdcode s) := by
  unfold execIdcode
  refine KeptBy.next ?_
  repeat' with_reducible first
    | apply Kept.refl | apply Kept.via (State.emit_kept ..) | apply Kept.via (State.loadTap_kept ..)

theorem execSamplePreload_kept (cells : BitVec 32) (s : State) : KeptBy s (execSamplePreload cells s) := by
  unfold execSamplePreload
  refine KeptBy.next ?_
  repeat' first
    | with_reducible first | apply Kept.refl | apply Kept.via (State.emit_kept ..)
    | simp -zeta -iota -proj -zetaUnused -zetaHave (disch := rfl) only [Kept.update_iff]

theorem execClamp_kept (s : State) : KeptBy s (execClamp s) := by
  unfold execClamp
  refine KeptBy.next ?_
  repeat' with_reducible first | apply Kept.refl | apply Kept.via (State.loadBoundary_kept ..)

theorem execHighz_kept (s : State) : KeptBy s (execHighz s) := by
  unfold execHighz
  refine KeptBy.next ?_
  repeat' with_reducible first | apply Kept.refl | apply Kept.via (State.loadBoundary_kept ..)

theorem execDevReset_kept (s : State) : KeptBy s (execDevReset s) := by
  unfold execDevReset
  refine KeptBy.next ?_
  repeat' with_reducible first
    | apply Kept.refl | apply Kept.via (State.deviceReset_kept ..) | apply Kept.via (State.loadTap_kept ..)

theorem execDebug_kept (s : State) : KeptBy s (execDebug s) := by
  unfold execDebug
  refine KeptBy.next ?_
  repeat' with_reducible first | apply Kept.refl | apply Kept.via (State.loadTap_kept ..)

theorem execBypass_kept (code : BitVec 8) (s : State) : KeptBy s (execBypass code s) := by
  unfold execBypass
  refine KeptBy.next ?_
  repeat' with_reducible first | apply Kept.refl | apply Kept.via (State.loadTap_kept ..)

theorem execCohortIdWrite_kept (id : BitVec 12) (s : State) : KeptBy s (execCohortIdWrite id s) := by
  unfold execCohortIdWrite
  refine KeptBy.next ?_
  repeat' first
    | with_reducible first
      | apply Kept.refl | apply Kept.via (State.access_kept (h_k := ?_) ..) | apply Kept.via (State.cohortId_kept ..)
    | simp -zeta -iota -proj -zetaUnused -zetaHave (disch := rfl) only [Kept.update_iff]
    | intro _

theorem execCohortMarkEdge_kept (elapsed : BitVec 40) (revolution : BitVec 32) (phaseErr : BitVec 16) (s : State) :
    KeptBy s (execCohortMarkEdge elapsed revolution phaseErr s) := by
  unfold execCohortMarkEdge
  refine KeptBy.next ?_
  repeat' with_reducible first | apply Kept.refl | apply Kept.via (State.markEdge_kept ..)

theorem execCohortLost_kept (s : State) : KeptBy s (execCohortLost s) := by
  unfold execCohortLost
  refine KeptBy.next ?_
  repeat' with_reducible first | apply Kept.refl | apply Kept.via (State.cohortLost_kept ..)

end Sys2Proof.Machine
end

