-- ==== Sys2Proof/Laws/KeepsMapCache.lean ====
section
/-!
SUPPORT. Laws/KeepsMapCache.lean: each operation and command of Machine/MapCache.lean keeps what every operation keeps (`Kept`).
-/
namespace Sys2Proof.Machine

theorem State.modMca_kept (s : State) (f : Mca → Mca) : Kept s (State.modMca s f) := by
  unfold State.modMca
  repeat' first
    | with_reducible first | apply Kept.refl
    | simp -zeta -iota -proj -zetaUnused -zetaHave (disch := rfl) only [Kept.update_iff]

theorem State.putWay_kept (s : State) (set : ℕ) (w : ℕ) (x : McWay) : Kept s (State.putWay s set w x) := by
  unfold State.putWay
  repeat' with_reducible first | apply Kept.refl | apply Kept.via (State.modMca_kept ..)

theorem State.refreshSet_kept (s : State) (set : ℕ) : Kept s (State.refreshSet s set) := by
  unfold State.refreshSet
  repeat' first
    | with_reducible first
      | apply Kept.refl | apply Kept.via (State.putBitAt_kept ..) | apply Kept.via (State.raise_kept ..)
      | apply Kept.via (State.advance_kept ..) | apply Kept.via (State.wr_kept ..) | apply Kept.via (Kept.foldl ?_ ..)
    | simp -zeta -iota -proj -zetaUnused -zetaHave (disch := rfl) only [Kept.update_iff]
    | intro _
    | split

theorem State.invalidateWay_kept (s : State) (set : ℕ) (w : ℕ) : Kept s (State.invalidateWay s set w) := by
  unfold State.invalidateWay
  repeat' with_reducible first
    | apply Kept.refl | apply Kept.via (State.refreshSet_kept ..) | apply Kept.via (State.putWay_kept ..)

theorem State.storeLine_kept (s : State) (line : ℕ) (data : ℕ) : Kept s (State.storeLine s line data) := by
  unfold State.storeLine
  repeat' with_reducible first
    | apply Kept.refl | apply Kept.via (State.count_kept ..) | apply Kept.via (State.writeWord_kept ..)

theorem State.loadLine_kept (s : State) (line : ℕ) : Kept s (State.loadLine s line).1 := by
  unfold State.loadLine
  repeat' with_reducible first | apply Kept.refl | apply Kept.via (State.readWord_kept ..)

theorem State.haltMap_kept (s : State) (line : ℕ) : Kept s (State.haltMap s line) := by
  unfold State.haltMap
  repeat' first
    | with_reducible first | apply Kept.refl | apply Kept.via (State.raise_kept ..) | apply Kept.via (State.wr_kept ..)
    | split

theorem State.parityClean_kept (s : State) : Kept s (State.parityClean s) := by
  unfold State.parityClean
  repeat' with_reducible first
    | apply Kept.refl | apply Kept.via (State.detect_kept ..) | apply Kept.via (State.raise_kept ..)
    | apply Kept.via (State.count_kept ..)

theorem State.parityDirty_kept (s : State) (line : ℕ) : Kept s (State.parityDirty s line) := by
  unfold State.parityDirty
  repeat' first
    | with_reducible first
      | apply Kept.refl | apply Kept.via (State.count_kept ..) | apply Kept.via (State.detect_kept ..)
      | apply Kept.via (State.haltMap_kept ..)
    | split

theorem State.plainWay_kept (s : State) (set : ℕ) : Kept s (State.plainWay s set).2 := by
  have e : @State.plainWay = @State.plainWay := rfl
  conv at e => rhs; delta State.plainWay
  rw [e]; clear e
  dsimp -zeta -iota -proj -eta -zetaUnused -zetaHave -failIfUnchanged only
  repeat' first
    | with_reducible first | apply Kept.refl | apply Kept.via (State.free_kept ..)
    | simp -zeta -iota -proj -zetaUnused -zetaHave (disch := rfl) only [Kept.update_iff]
    | intro _
    | (extract_lets -underBinder -merge +onlyGivenNames x; refine Kept.step (b := x) ?_ ?_
       all_goals first | (intro _; clear_value x) | dsimp -zeta -iota -proj -zetaUnused -zetaHave only [x])
    | extract_lets -underBinder -merge +onlyGivenNames x
    | split
    | (clear_value x; split)

theorem State.touchSet_kept (s : State) (set : ℕ) : Kept s (State.touchSet s set) := by
  unfold State.touchSet
  repeat' with_reducible first | apply Kept.refl | apply Kept.via (State.modMca_kept ..)

theorem State.evict_kept (s : State) (set : ℕ) (w : ℕ) (upset : Bool) : Kept s (State.evict s set w upset) := by
  have e : @State.evict = @State.evict := rfl
  conv at e => rhs; delta State.evict
  rw [e]; clear e
  dsimp -zeta -iota -proj -eta -zetaUnused -zetaHave -failIfUnchanged only
  repeat' first
    | with_reducible first
      | apply Kept.refl | assumption | apply Kept.via (State.parityDirty_kept ..) | apply Kept.via (State.parityClean_kept ..)
      | apply Kept.via (State.storeLine_kept ..) | apply Kept.via (State.modMca_kept ..)
    | simp -zeta -iota -proj -zetaUnused -zetaHave (disch := rfl) only [Kept.update_iff]
    | intro _
    | (extract_lets -underBinder -merge +onlyGivenNames x; refine Kept.step (b := x) ?_ ?_
       all_goals first | (intro _; clear_value x) | dsimp -zeta -iota -proj -zetaUnused -zetaHave only [x])
    | extract_lets -underBinder -merge +onlyGivenNames x
    | split
    | (clear_value x; split)

theorem State.placeFor_kept (s : State) (line : ℕ) : Kept s (State.placeFor s line).2.2 := by
  have e : @State.placeFor = @State.placeFor := rfl
  conv at e => rhs; delta State.placeFor
  rw [e]; clear e
  dsimp -zeta -iota -proj -eta -zetaUnused -zetaHave -failIfUnchanged only
  repeat' first
    | with_reducible first | apply Kept.refl | apply Kept.via (State.plainWay_kept ..)
    | simp -zeta -iota -proj -zetaUnused -zetaHave (disch := rfl) only [Kept.update_iff]
    | intro _
    | (extract_lets -underBinder -merge +onlyGivenNames x; refine Kept.step (b := x) ?_ ?_
       all_goals first | (intro _; clear_value x) | dsimp -zeta -iota -proj -zetaUnused -zetaHave only [x])
    | extract_lets -underBinder -merge +onlyGivenNames x
    | split
    | (clear_value x; split)

theorem State.lockOverflow_kept (s : State) : Kept s (State.lockOverflow s) := by
  unfold State.lockOverflow
  repeat' first
    | with_reducible first | apply Kept.refl | apply Kept.via (State.raise_kept ..) | apply Kept.via (State.wr_kept ..)
    | split

theorem State.install_kept (s : State) (line : ℕ) (data : ℕ) (prefetched : Bool) (upset : Bool) :
    Kept s (State.install s line data prefetched upset).1 := by
  have e : @State.install = @State.install := rfl
  conv at e => rhs; delta State.install
  rw [e]; clear e
  dsimp -zeta -iota -proj -eta -zetaUnused -zetaHave -failIfUnchanged only
  repeat' first
    | with_reducible first
      | apply Kept.refl | assumption | refine Kept.via_third (State.placeFor_kept ..) ‹_› ?_
      | apply Kept.via (State.placeFor_kept ..) | apply Kept.via (State.lockOverflow_kept ..)
      | apply Kept.via (State.evict_kept ..) | apply Kept.via (State.putWay_kept ..) | apply Kept.via (State.modMca_kept ..)
      | apply Kept.via (State.refreshSet_kept ..)
    | simp -zeta -iota -proj -zetaUnused -zetaHave (disch := rfl) only [Kept.update_iff]
    | intro _
    | (extract_lets -underBinder -merge +onlyGivenNames x; refine Kept.step (b := x) ?_ ?_
       all_goals first | (intro _; clear_value x) | dsimp -zeta -iota -proj -zetaUnused -zetaHave only [x])
    | extract_lets -underBinder -merge +onlyGivenNames x
    | split
    | (clear_value x; split)
    | dsimp only

theorem State.answerMap_kept (s : State) (r : McReq) (data : ℕ) : Kept s (State.answerMap s r data) := by
  have e : @State.answerMap = @State.answerMap := rfl
  conv at e => rhs; delta State.answerMap
  rw [e]; clear e
  dsimp -zeta -iota -proj -eta -zetaUnused -zetaHave -failIfUnchanged only
  repeat' first
    | with_reducible first | apply Kept.refl | assumption | apply Kept.via (State.emit_kept ..)
    | simp -zeta -iota -proj -zetaUnused -zetaHave (disch := rfl) only [Kept.update_iff]
    | intro _
    | (extract_lets -underBinder -merge +onlyGivenNames x; refine Kept.step (b := x) ?_ ?_
       all_goals first | (intro _; clear_value x) | dsimp -zeta -iota -proj -zetaUnused -zetaHave only [x])
    | extract_lets -underBinder -merge +onlyGivenNames x
    | split
    | (clear_value x; split)
    | dsimp only

theorem State.serveWay_kept (s : State) (set : ℕ) (w : ℕ) (r : McReq) : Kept s (State.serveWay s set w r) := by
  have e : @State.serveWay = @State.serveWay := rfl
  conv at e => rhs; delta State.serveWay
  rw [e]; clear e
  dsimp -zeta -iota -proj -eta -zetaUnused -zetaHave -failIfUnchanged only
  repeat' first
    | with_reducible first
      | apply Kept.refl | assumption | apply Kept.via (State.count_kept ..) | apply Kept.via (State.putWay_kept ..)
      | apply Kept.via (State.touchSet_kept ..) | apply Kept.via (State.answerMap_kept ..)
      | apply Kept.via (State.storeLine_kept ..)
    | simp -zeta -iota -proj -zetaUnused -zetaHave (disch := rfl) only [Kept.update_iff]
    | intro _
    | (extract_lets -underBinder -merge +onlyGivenNames x; refine Kept.step (b := x) ?_ ?_
       all_goals first | (intro _; clear_value x) | dsimp -zeta -iota -proj -zetaUnused -zetaHave only [x])
    | extract_lets -underBinder -merge +onlyGivenNames x
    | split
    | (clear_value x; split)
    | dsimp only

theorem State.miss_kept (s : State) (r : McReq) : Kept s (State.miss s r) := by
  have e : @State.miss = @State.miss := rfl
  conv at e => rhs; delta State.miss
  rw [e]; clear e
  dsimp -zeta -iota -proj -eta -zetaUnused -zetaHave -failIfUnchanged only
  repeat' first
    | with_reducible first | apply Kept.refl | assumption | apply Kept.via (State.modMca_kept ..)
    | simp -zeta -iota -proj -zetaUnused -zetaHave (disch := rfl) only [Kept.update_iff]
    | intro _
    | (extract_lets -underBinder -merge +onlyGivenNames x; refine Kept.step (b := x) ?_ ?_
       all_goals first | (intro _; clear_value x) | dsimp -zeta -iota -proj -zetaUnused -zetaHave only [x])
    | extract_lets -underBinder -merge +onlyGivenNames x
    | split
    | (clear_value x; split)
    | dsimp only

theorem State.recallLine_kept (s : State) (i : ℕ) (v : McLine) (r : McReq) (upset : Bool) :
    Kept s (State.recallLine s i v r upset) := by
  have e : @State.recallLine = @State.recallLine := rfl
  conv at e => rhs; delta State.recallLine
  rw [e]; clear e
  dsimp -zeta -iota -proj -eta -zetaUnused -zetaHave -failIfUnchanged only
  repeat' first
    | with_reducible first
      | apply Kept.refl | assumption | apply Kept.via (State.modMca_kept ..) | apply Kept.via (State.miss_kept ..)
      | apply Kept.via (State.parityClean_kept ..) | refine Kept.via_fst (State.install_kept ..) ‹_› ?_
      | apply Kept.via (State.install_kept ..) | apply Kept.via (State.count_kept ..)
      | apply Kept.via (State.serveWay_kept ..) | apply Kept.via (State.answerMap_kept ..)
      | apply Kept.via (State.storeLine_kept ..)
    | simp -zeta -iota -proj -zetaUnused -zetaHave (disch := rfl) only [Kept.update_iff]
    | intro _
    | (extract_lets -underBinder -merge +onlyGivenNames x; refine Kept.step (b := x) ?_ ?_
       all_goals first | (intro _; clear_value x) | dsimp -zeta -iota -proj -zetaUnused -zetaHave only [x])
    | extract_lets -underBinder -merge +onlyGivenNames x
    | split
    | (clear_value x; split)
    | dsimp only

theorem State.request_kept (s : State) (r : McReq) (upset : Bool) : Kept s (State.request s r upset) := by
  have e : @State.request = @State.request := rfl
  conv at e => rhs; delta State.request
  rw [e]; clear e
  dsimp -zeta -iota -proj -eta -zetaUnused -zetaHave -failIfUnchanged only
  repeat' first
    | with_reducible first
      | apply Kept.refl | assumption | apply Kept.via (State.count_kept ..) | apply Kept.via (State.modMca_kept ..)
      | apply Kept.via (State.parityDirty_kept ..) | apply Kept.via (State.miss_kept ..)
      | apply Kept.via (State.invalidateWay_kept ..) | apply Kept.via (State.parityClean_kept ..)
      | apply Kept.via (State.serveWay_kept ..) | apply Kept.via (State.storeLine_kept ..)
      | apply Kept.via (State.recallLine_kept ..)
    | simp -zeta -iota -proj -zetaUnused -zetaHave (disch := rfl) only [Kept.update_iff]
    | intro _
    | (extract_lets -underBinder -merge +onlyGivenNames x; refine Kept.step (b := x) ?_ ?_
       all_goals first | (intro _; clear_value x) | dsimp -zeta -iota -proj -zetaUnused -zetaHave only [x])
    | extract_lets -underBinder -merge +onlyGivenNames x
    | split
    | (clear_value x; split)
    | dsimp only

theorem State.uncached_kept (s : State) (r : McReq) : Kept s (State.uncached s r) := by
  have e : @State.uncached = @State.uncached := rfl
  conv at e => rhs; delta State.uncached
  rw [e]; clear e
  dsimp -zeta -iota -proj -eta -zetaUnused -zetaHave -failIfUnchanged only
  repeat' first
    | with_reducible first
      | apply Kept.refl | assumption | refine Kept.via_fst (State.mergeWord_kept ..) ‹_› ?_
      | apply Kept.via (State.mergeWord_kept ..) | refine Kept.via_fst (State.readWord_kept ..) ‹_› ?_
      | apply Kept.via (State.readWord_kept ..) | apply Kept.via (State.emit_kept ..)
    | simp -zeta -iota -proj -zetaUnused -zetaHave (disch := rfl) only [Kept.update_iff]
    | intro _
    | (extract_lets -underBinder -merge +onlyGivenNames x; refine Kept.step (b := x) ?_ ?_
       all_goals first | (intro _; clear_value x) | dsimp -zeta -iota -proj -zetaUnused -zetaHave only [x])
    | extract_lets -underBinder -merge +onlyGivenNames x
    | split
    | (clear_value x; split)
    | dsimp only

theorem State.grantPipe_kept (s : State) (p : ℕ) : Kept s (State.grantPipe s p) := by
  have e : @State.grantPipe = @State.grantPipe := rfl
  conv at e => rhs; delta State.grantPipe
  rw [e]; clear e
  dsimp -zeta -iota -proj -eta -zetaUnused -zetaHave -failIfUnchanged only
  repeat' first
    | with_reducible first | apply Kept.refl | assumption | apply Kept.via (State.wr_kept ..)
    | simp -zeta -iota -proj -zetaUnused -zetaHave (disch := rfl) only [Kept.update_iff]
    | intro _
    | (extract_lets -underBinder -merge +onlyGivenNames x; refine Kept.step (b := x) ?_ ?_
       all_goals first | (intro _; clear_value x) | dsimp -zeta -iota -proj -zetaUnused -zetaHave only [x])
    | extract_lets -underBinder -merge +onlyGivenNames x
    | split
    | (clear_value x; split)
    | dsimp only

theorem State.mapRequest_kept (s : State) (r : McReq) (upset : Bool) : Kept s (State.mapRequest s r upset) := by
  have e : @State.mapRequest = @State.mapRequest := rfl
  conv at e => rhs; delta State.mapRequest
  rw [e]; clear e
  dsimp -zeta -iota -proj -eta -zetaUnused -zetaHave -failIfUnchanged only
  repeat' first
    | with_reducible first
      | apply Kept.refl | assumption | apply Kept.via (State.uncached_kept ..) | apply Kept.via (State.request_kept ..)
    | simp -zeta -iota -proj -zetaUnused -zetaHave (disch := rfl) only [Kept.update_iff]
    | intro _
    | (extract_lets -underBinder -merge +onlyGivenNames x; refine Kept.step (b := x) ?_ ?_
       all_goals first | (intro _; clear_value x) | dsimp -zeta -iota -proj -zetaUnused -zetaHave only [x])
    | extract_lets -underBinder -merge +onlyGivenNames x
    | split
    | (clear_value x; split)
    | dsimp only

theorem State.countTrained_kept (s : State) : Kept s (State.countTrained s) := by
  have e : @State.countTrained = @State.countTrained := rfl
  conv at e => rhs; delta State.countTrained
  rw [e]; clear e
  dsimp -zeta -iota -proj -eta -zetaUnused -zetaHave -failIfUnchanged only
  repeat' first
    | with_reducible first | apply Kept.refl | assumption | apply Kept.via (State.wr_kept ..)
    | simp -zeta -iota -proj -zetaUnused -zetaHave (disch := rfl) only [Kept.update_iff]
    | intro _
    | (extract_lets -underBinder -merge +onlyGivenNames x; refine Kept.step (b := x) ?_ ?_
       all_goals first | (intro _; clear_value x) | dsimp -zeta -iota -proj -zetaUnused -zetaHave only [x])
    | extract_lets -underBinder -merge +onlyGivenNames x
    | split
    | (clear_value x; split)
    | dsimp only

theorem State.train_kept (s : State) (tag : ℕ) (line : ℕ) : Kept s (State.train s tag line) := by
  have e : @State.train = @State.train := rfl
  conv at e => rhs; delta State.train
  rw [e]; clear e
  dsimp -zeta -iota -proj -eta -zetaUnused -zetaHave -failIfUnchanged only
  repeat' first
    | with_reducible first
      | apply Kept.refl | assumption | apply Kept.via (State.countTrained_kept ..) | apply Kept.via (State.modMca_kept ..)
    | simp -zeta -iota -proj -zetaUnused -zetaHave (disch := rfl) only [Kept.update_iff]
    | intro _
    | (extract_lets -underBinder -merge +onlyGivenNames x; refine Kept.step (b := x) ?_ ?_
       all_goals first | (intro _; clear_value x) | dsimp -zeta -iota -proj -zetaUnused -zetaHave only [x])
    | extract_lets -underBinder -merge +onlyGivenNames x
    | split
    | (clear_value x; split)
    | dsimp only

theorem State.prefetch_kept (s : State) (from_ : ℕ) (line : ℕ) : Kept s (State.prefetch s from_ line) := by
  have e : @State.prefetch = @State.prefetch := rfl
  conv at e => rhs; delta State.prefetch
  rw [e]; clear e
  dsimp -zeta -iota -proj -eta -zetaUnused -zetaHave -failIfUnchanged only
  repeat' first
    | with_reducible first
      | apply Kept.refl | assumption | apply Kept.via (State.count_kept ..) | apply Kept.via (State.modMca_kept ..)
    | simp -zeta -iota -proj -zetaUnused -zetaHave (disch := rfl) only [Kept.update_iff]
    | intro _
    | (extract_lets -underBinder -merge +onlyGivenNames x; refine Kept.step (b := x) ?_ ?_
       all_goals first | (intro _; clear_value x) | dsimp -zeta -iota -proj -zetaUnused -zetaHave only [x])
    | extract_lets -underBinder -merge +onlyGivenNames x
    | split
    | (clear_value x; split)
    | dsimp only

theorem State.prefetchAll_kept (s : State) (i : ℕ) (d : McDetector) : Kept s (State.prefetchAll s i d) := by
  have e : @State.prefetchAll = @State.prefetchAll := rfl
  conv at e => rhs; delta State.prefetchAll
  rw [e]; clear e
  dsimp -zeta -iota -proj -eta -zetaUnused -zetaHave -failIfUnchanged only
  repeat' first
    | with_reducible first
      | apply Kept.refl | assumption | apply Kept.via (State.modMca_kept ..) | apply Kept.via (State.prefetch_kept ..)
      | apply Kept.via (Kept.foldl ?_ ..) | apply Kept.via (Kept.foldl_fst ?_ ..)
    | simp -zeta -iota -proj -zetaUnused -zetaHave (disch := rfl) only [Kept.update_iff]
    | intro _
    | (extract_lets -underBinder -merge +onlyGivenNames x; refine Kept.step (b := x) ?_ ?_
       all_goals first | (intro _; clear_value x) | dsimp -zeta -iota -proj -zetaUnused -zetaHave only [x])
    | extract_lets -underBinder -merge +onlyGivenNames x
    | split
    | (clear_value x; split)
    | dsimp only

theorem State.retryWaiting_kept (s : State) : Kept s (State.retryWaiting s) := by
  have e : @State.retryWaiting = @State.retryWaiting := rfl
  conv at e => rhs; delta State.retryWaiting
  rw [e]; clear e
  dsimp -zeta -iota -proj -eta -zetaUnused -zetaHave -failIfUnchanged only
  repeat' first
    | with_reducible first
      | apply Kept.refl | assumption | apply Kept.via (State.request_kept ..) | apply Kept.via (State.modMca_kept ..)
      | apply Kept.via (Kept.foldl ?_ ..) | apply Kept.via (Kept.foldl_fst ?_ ..)
    | simp -zeta -iota -proj -zetaUnused -zetaHave (disch := rfl) only [Kept.update_iff]
    | intro _
    | (extract_lets -underBinder -merge +onlyGivenNames x; refine Kept.step (b := x) ?_ ?_
       all_goals first | (intro _; clear_value x) | dsimp -zeta -iota -proj -zetaUnused -zetaHave only [x])
    | extract_lets -underBinder -merge +onlyGivenNames x
    | split
    | (clear_value x; split)
    | dsimp only

theorem State.serveFill_kept (s : State) (line : ℕ) (data : ℕ) (l : List McReq) : Kept s (State.serveFill s line data l) := by
  have e : @State.serveFill = @State.serveFill := rfl
  conv at e => rhs; delta State.serveFill
  rw [e]; clear e
  dsimp -zeta -iota -proj -eta -zetaUnused -zetaHave -failIfUnchanged only
  repeat' first
    | with_reducible first
      | apply Kept.refl | assumption | apply Kept.via (State.serveWay_kept ..) | apply Kept.via (State.answerMap_kept ..)
      | apply Kept.via (State.storeLine_kept ..) | apply Kept.via (Kept.foldl ?_ ..) | apply Kept.via (Kept.foldl_fst ?_ ..)
    | simp -zeta -iota -proj -zetaUnused -zetaHave (disch := rfl) only [Kept.update_iff]
    | intro _
    | (extract_lets -underBinder -merge +onlyGivenNames x; refine Kept.step (b := x) ?_ ?_
       all_goals first | (intro _; clear_value x) | dsimp -zeta -iota -proj -zetaUnused -zetaHave only [x])
    | extract_lets -underBinder -merge +onlyGivenNames x
    | split
    | (clear_value x; split)
    | dsimp only

theorem State.fillReturn_kept (s : State) (f : McFill) (upset : Bool) : Kept s (State.fillReturn s f upset) := by
  have e : @State.fillReturn = @State.fillReturn := rfl
  conv at e => rhs; delta State.fillReturn
  rw [e]; clear e
  dsimp -zeta -iota -proj -eta -zetaUnused -zetaHave -failIfUnchanged only
  repeat' first
    | with_reducible first
      | apply Kept.refl | assumption | apply Kept.via (State.modMca_kept ..)
      | refine Kept.via_fst (State.loadLine_kept ..) ‹_› ?_ | apply Kept.via (State.loadLine_kept ..)
      | apply Kept.via (State.raise_kept ..) | apply Kept.via (State.wr_kept ..) | apply Kept.via (State.retryWaiting_kept ..)
      | apply Kept.via (State.haltMap_kept ..) | refine Kept.via_fst (State.install_kept ..) ‹_› ?_
      | apply Kept.via (State.install_kept ..) | apply Kept.via (State.serveFill_kept ..)
    | simp -zeta -iota -proj -zetaUnused -zetaHave (disch := rfl) only [Kept.update_iff]
    | intro _
    | (extract_lets -underBinder -merge +onlyGivenNames x; refine Kept.step (b := x) ?_ ?_
       all_goals first | (intro _; clear_value x) | dsimp -zeta -iota -proj -zetaUnused -zetaHave only [x])
    | extract_lets -underBinder -merge +onlyGivenNames x
    | split
    | (clear_value x; split)
    | dsimp only

theorem State.land_kept (s : State) (line : ℕ) (upset : Bool) : Kept s (State.land s line upset) := by
  have e : @State.land = @State.land := rfl
  conv at e => rhs; delta State.land
  rw [e]; clear e
  dsimp -zeta -iota -proj -eta -zetaUnused -zetaHave -failIfUnchanged only
  repeat' first
    | with_reducible first
      | apply Kept.refl | assumption | apply Kept.via (State.modMca_kept ..) | apply Kept.via (State.retryWaiting_kept ..)
      | apply Kept.via (State.serveWay_kept ..) | apply Kept.via (State.recallLine_kept ..)
      | apply Kept.via (State.miss_kept ..) | apply Kept.via (Kept.foldl ?_ ..) | apply Kept.via (Kept.foldl_fst ?_ ..)
    | simp -zeta -iota -proj -zetaUnused -zetaHave (disch := rfl) only [Kept.update_iff]
    | intro _
    | (extract_lets -underBinder -merge +onlyGivenNames x; refine Kept.step (b := x) ?_ ?_
       all_goals first | (intro _; clear_value x) | dsimp -zeta -iota -proj -zetaUnused -zetaHave only [x])
    | extract_lets -underBinder -merge +onlyGivenNames x
    | split
    | (clear_value x; split)
    | dsimp only

theorem State.rangeError_kept (s : State) : Kept s (State.rangeError s) := by
  have e : @State.rangeError = @State.rangeError := rfl
  conv at e => rhs; delta State.rangeError
  rw [e]; clear e
  dsimp -zeta -iota -proj -eta -zetaUnused -zetaHave -failIfUnchanged only
  repeat' first
    | with_reducible first | apply Kept.refl | assumption | apply Kept.via (State.wr_kept ..)
    | simp -zeta -iota -proj -zetaUnused -zetaHave (disch := rfl) only [Kept.update_iff]
    | intro _
    | (extract_lets -underBinder -merge +onlyGivenNames x; refine Kept.step (b := x) ?_ ?_
       all_goals first | (intro _; clear_value x) | dsimp -zeta -iota -proj -zetaUnused -zetaHave only [x])
    | extract_lets -underBinder -merge +onlyGivenNames x
    | split
    | (clear_value x; split)
    | dsimp only

theorem State.startRange_kept (s : State) (op : ℕ) (line : ℕ) (count : ℕ) : Kept s (State.startRange s op line count) := by
  have e : @State.startRange = @State.startRange := rfl
  conv at e => rhs; delta State.startRange
  rw [e]; clear e
  dsimp -zeta -iota -proj -eta -zetaUnused -zetaHave -failIfUnchanged only
  repeat' first
    | with_reducible first
      | apply Kept.refl | assumption | apply Kept.via (State.modMca_kept ..) | apply Kept.via (State.miss_kept ..)
      | apply Kept.via (State.wr_kept ..) | apply Kept.via (Kept.foldl ?_ ..) | apply Kept.via (Kept.foldl_fst ?_ ..)
    | simp -zeta -iota -proj -zetaUnused -zetaHave (disch := rfl) only [Kept.update_iff]
    | intro _
    | (extract_lets -underBinder -merge +onlyGivenNames x; refine Kept.step (b := x) ?_ ?_
       all_goals first | (intro _; clear_value x) | dsimp -zeta -iota -proj -zetaUnused -zetaHave only [x])
    | extract_lets -underBinder -merge +onlyGivenNames x
    | split
    | (clear_value x; split)
    | dsimp only

theorem State.rangeGo_kept (s : State) (op : ℕ) : Kept s (State.rangeGo s op) := by
  have e : @State.rangeGo = @State.rangeGo := rfl
  conv at e => rhs; delta State.rangeGo
  rw [e]; clear e
  dsimp -zeta -iota -proj -eta -zetaUnused -zetaHave -failIfUnchanged only
  repeat' first
    | with_reducible first
      | apply Kept.refl | assumption | apply Kept.via (State.wr_kept ..) | apply Kept.via (State.rangeError_kept ..)
      | apply Kept.via (State.raise_kept ..) | apply Kept.via (State.startRange_kept ..)
    | simp -zeta -iota -proj -zetaUnused -zetaHave (disch := rfl) only [Kept.update_iff]
    | intro _
    | (extract_lets -underBinder -merge +onlyGivenNames x; refine Kept.step (b := x) ?_ ?_
       all_goals first | (intro _; clear_value x) | dsimp -zeta -iota -proj -zetaUnused -zetaHave only [x])
    | extract_lets -underBinder -merge +onlyGivenNames x
    | split
    | (clear_value x; split)
    | dsimp only

theorem State.rangeLine_kept (s : State) (op : ℕ) (set : ℕ) (w : ℕ) (upset : Bool) :
    Kept s (State.rangeLine s op set w upset) := by
  have e : @State.rangeLine = @State.rangeLine := rfl
  conv at e => rhs; delta State.rangeLine
  rw [e]; clear e
  dsimp -zeta -iota -proj -eta -zetaUnused -zetaHave -failIfUnchanged only
  repeat' first
    | with_reducible first
      | apply Kept.refl | assumption | apply Kept.via (State.parityDirty_kept ..)
      | apply Kept.via (State.invalidateWay_kept ..) | apply Kept.via (State.parityClean_kept ..)
      | apply Kept.via (State.storeLine_kept ..) | apply Kept.via (State.putWay_kept ..)
    | simp -zeta -iota -proj -zetaUnused -zetaHave (disch := rfl) only [Kept.update_iff]
    | intro _
    | (extract_lets -underBinder -merge +onlyGivenNames x; refine Kept.step (b := x) ?_ ?_
       all_goals first | (intro _; clear_value x) | dsimp -zeta -iota -proj -zetaUnused -zetaHave only [x])
    | extract_lets -underBinder -merge +onlyGivenNames x
    | split
    | (clear_value x; split)
    | dsimp only

theorem State.rangeDone_kept (s : State) (upsets : List ℕ) : Kept s (State.rangeDone s upsets) := by
  have e : @State.rangeDone = @State.rangeDone := rfl
  conv at e => rhs; delta State.rangeDone
  rw [e]; clear e
  dsimp -zeta -iota -proj -eta -zetaUnused -zetaHave -failIfUnchanged only
  repeat' first
    | with_reducible first
      | apply Kept.refl | assumption | apply Kept.via (State.rangeLine_kept ..) | apply Kept.via (State.grantPipe_kept ..)
      | apply Kept.via (State.raise_kept ..) | apply Kept.via (State.wr_kept ..) | apply Kept.via (State.modMca_kept ..)
      | apply Kept.via (Kept.foldl ?_ ..) | apply Kept.via (Kept.foldl_fst ?_ ..)
    | simp -zeta -iota -proj -zetaUnused -zetaHave (disch := rfl) only [Kept.update_iff]
    | intro _
    | (extract_lets -underBinder -merge +onlyGivenNames x; refine Kept.step (b := x) ?_ ?_
       all_goals first | (intro _; clear_value x) | dsimp -zeta -iota -proj -zetaUnused -zetaHave only [x])
    | extract_lets -underBinder -merge +onlyGivenNames x
    | split
    | (clear_value x; split)
    | dsimp only

theorem State.lockError_kept (s : State) : Kept s (State.lockError s) := by
  have e : @State.lockError = @State.lockError := rfl
  conv at e => rhs; delta State.lockError
  rw [e]; clear e
  dsimp -zeta -iota -proj -eta -zetaUnused -zetaHave -failIfUnchanged only
  repeat' first
    | with_reducible first | apply Kept.refl | assumption | apply Kept.via (State.wr_kept ..)
    | simp -zeta -iota -proj -zetaUnused -zetaHave (disch := rfl) only [Kept.update_iff]
    | intro _
    | (extract_lets -underBinder -merge +onlyGivenNames x; refine Kept.step (b := x) ?_ ?_
       all_goals first | (intro _; clear_value x) | dsimp -zeta -iota -proj -zetaUnused -zetaHave only [x])
    | extract_lets -underBinder -merge +onlyGivenNames x
    | split
    | (clear_value x; split)
    | dsimp only

theorem State.unlockRange_kept (s : State) (k : ℕ) : Kept s (State.unlockRange s k) := by
  have e : @State.unlockRange = @State.unlockRange := rfl
  conv at e => rhs; delta State.unlockRange
  rw [e]; clear e
  dsimp -zeta -iota -proj -eta -zetaUnused -zetaHave -failIfUnchanged only
  repeat' first
    | with_reducible first
      | apply Kept.refl | assumption | apply Kept.via (State.refreshSet_kept ..) | apply Kept.via (State.putWay_kept ..)
      | apply Kept.via (State.wr_kept ..) | apply Kept.via (Kept.foldl ?_ ..) | apply Kept.via (Kept.foldl_fst ?_ ..)
    | simp -zeta -iota -proj -zetaUnused -zetaHave (disch := rfl) only [Kept.update_iff]
    | intro _
    | (extract_lets -underBinder -merge +onlyGivenNames x; refine Kept.step (b := x) ?_ ?_
       all_goals first | (intro _; clear_value x) | dsimp -zeta -iota -proj -zetaUnused -zetaHave only [x])
    | extract_lets -underBinder -merge +onlyGivenNames x
    | split
    | (clear_value x; split)
    | dsimp only

theorem State.lockLine_kept (s : State) (k : ℕ) (line : ℕ) (upset : Bool) : Kept s (State.lockLine s k line upset) := by
  have e : @State.lockLine = @State.lockLine := rfl
  conv at e => rhs; delta State.lockLine
  rw [e]; clear e
  dsimp -zeta -iota -proj -eta -zetaUnused -zetaHave -failIfUnchanged only
  repeat' first
    | with_reducible first
      | apply Kept.refl | assumption | apply Kept.via (State.parityDirty_kept ..)
      | apply Kept.via (State.invalidateWay_kept ..) | apply Kept.via (State.parityClean_kept ..)
      | apply Kept.via (State.lockOverflow_kept ..) | apply Kept.via (State.storeLine_kept ..)
      | apply Kept.via (State.refreshSet_kept ..) | apply Kept.via (State.putWay_kept ..)
      | apply Kept.via (State.modMca_kept ..) | refine Kept.via_fst (State.install_kept ..) ‹_› ?_
      | apply Kept.via (State.install_kept ..) | apply Kept.via (State.count_kept ..)
      | refine Kept.via_fst (State.loadLine_kept ..) ‹_› ?_ | apply Kept.via (State.loadLine_kept ..)
      | apply Kept.via (State.haltMap_kept ..) | apply Kept.via (State.raise_kept ..) | apply Kept.via (State.wr_kept ..)
    | simp -zeta -iota -proj -zetaUnused -zetaHave (disch := rfl) only [Kept.update_iff]
    | intro _
    | (extract_lets -underBinder -merge +onlyGivenNames x; refine Kept.step (b := x) ?_ ?_
       all_goals first | (intro _; clear_value x) | dsimp -zeta -iota -proj -zetaUnused -zetaHave only [x])
    | extract_lets -underBinder -merge +onlyGivenNames x
    | split
    | (clear_value x; split)
    | dsimp only

theorem State.windowError_kept (s : State) : Kept s (State.windowError s) := by
  have e : @State.windowError = @State.windowError := rfl
  conv at e => rhs; delta State.windowError
  rw [e]; clear e
  dsimp -zeta -iota -proj -eta -zetaUnused -zetaHave -failIfUnchanged only
  repeat' first
    | with_reducible first | apply Kept.refl | assumption | apply Kept.via (State.wr_kept ..)
    | simp -zeta -iota -proj -zetaUnused -zetaHave (disch := rfl) only [Kept.update_iff]
    | intro _
    | (extract_lets -underBinder -merge +onlyGivenNames x; refine Kept.step (b := x) ?_ ?_
       all_goals first | (intro _; clear_value x) | dsimp -zeta -iota -proj -zetaUnused -zetaHave only [x])
    | extract_lets -underBinder -merge +onlyGivenNames x
    | split
    | (clear_value x; split)
    | dsimp only

theorem State.closeWindow_kept (s : State) (k : ℕ) : Kept s (State.closeWindow s k) := by
  have e : @State.closeWindow = @State.closeWindow := rfl
  conv at e => rhs; delta State.closeWindow
  rw [e]; clear e
  dsimp -zeta -iota -proj -eta -zetaUnused -zetaHave -failIfUnchanged only
  repeat' first
    | with_reducible first
      | apply Kept.refl | assumption | apply Kept.via (State.wr_kept ..) | apply Kept.via (State.unlockRange_kept ..)
      | apply Kept.via (State.startRange_kept ..) | apply Kept.via (Kept.foldl ?_ ..) | apply Kept.via (Kept.foldl_fst ?_ ..)
    | simp -zeta -iota -proj -zetaUnused -zetaHave (disch := rfl) only [Kept.update_iff]
    | intro _
    | (extract_lets -underBinder -merge +onlyGivenNames x; refine Kept.step (b := x) ?_ ?_
       all_goals first | (intro _; clear_value x) | dsimp -zeta -iota -proj -zetaUnused -zetaHave only [x])
    | extract_lets -underBinder -merge +onlyGivenNames x
    | split
    | (clear_value x; split)
    | dsimp only

theorem State.diagEntry_kept (s : State) (line : Option ℕ) (dirty : Bool) (locked : Bool) (data : ℕ) (upset : Bool) :
    Kept s (State.diagEntry s line dirty locked data upset) := by
  have e : @State.diagEntry = @State.diagEntry := rfl
  conv at e => rhs; delta State.diagEntry
  rw [e]; clear e
  dsimp -zeta -iota -proj -eta -zetaUnused -zetaHave -failIfUnchanged only
  repeat' first
    | with_reducible first
      | apply Kept.refl | assumption | apply Kept.via (State.wrFlag_kept ..) | apply Kept.via (State.wr_kept ..)
      | apply Kept.via (Kept.foldl ?_ ..) | apply Kept.via (Kept.foldl_fst ?_ ..)
    | simp -zeta -iota -proj -zetaUnused -zetaHave (disch := rfl) only [Kept.update_iff]
    | intro _
    | (extract_lets -underBinder -merge +onlyGivenNames x; refine Kept.step (b := x) ?_ ?_
       all_goals first | (intro _; clear_value x) | dsimp -zeta -iota -proj -zetaUnused -zetaHave only [x])
    | extract_lets -underBinder -merge +onlyGivenNames x
    | split
    | (clear_value x; split)
    | dsimp only

theorem execMcaInitComplete_kept (s : State) : KeptBy s (execMcaInitComplete s) := by
  have e : @execMcaInitComplete = @execMcaInitComplete := rfl
  conv at e => rhs; delta execMcaInitComplete
  rw [e]; clear e
  dsimp -zeta -iota -proj -eta -zetaUnused -zetaHave -failIfUnchanged only
  repeat' first
    | with_reducible first
      | refine KeptBy.next ?_ | apply Kept.refl | assumption | apply Kept.via (State.wr_kept ..)
      | apply Kept.via (State.resetRange_kept ..) | apply Kept.via (State.raise_kept ..) | apply Kept.via (Kept.foldl ?_ ..)
      | apply Kept.via (Kept.foldl_fst ?_ ..)
    | simp -zeta -iota -proj -zetaUnused -zetaHave (disch := rfl) only [Kept.update_iff]
    | intro _
    | (extract_lets -underBinder -merge +onlyGivenNames x; refine Kept.step (b := x) ?_ ?_
       all_goals first | (intro _; clear_value x) | dsimp -zeta -iota -proj -zetaUnused -zetaHave only [x])
    | extract_lets -underBinder -merge +onlyGivenNames x
    | split
    | (clear_value x; split)
    | dsimp only

theorem execMcaLookup_kept (tag : BitVec 13) (addr : BitVec 35) (others : List (Fin 3)) (upset : Bool) (s : State) :
    KeptBy s (execMcaLookup tag addr others upset s) := by
  have e : @execMcaLookup = @execMcaLookup := rfl
  conv at e => rhs; delta execMcaLookup
  rw [e]; clear e
  dsimp -zeta -iota -proj -eta -zetaUnused -zetaHave -failIfUnchanged only
  repeat' first
    | with_reducible first
      | refine KeptBy.next ?_ | apply Kept.refl | assumption | apply Kept.via (State.grantPipe_kept ..)
      | apply Kept.via (State.train_kept ..) | apply Kept.via (State.mapRequest_kept ..)
    | simp -zeta -iota -proj -zetaUnused -zetaHave (disch := rfl) only [Kept.update_iff]
    | intro _
    | (extract_lets -underBinder -merge +onlyGivenNames x; refine Kept.step (b := x) ?_ ?_
       all_goals first | (intro _; clear_value x) | dsimp -zeta -iota -proj -zetaUnused -zetaHave only [x])
    | extract_lets -underBinder -merge +onlyGivenNames x
    | split
    | (clear_value x; split)
    | dsimp only

theorem execMcaUpdate_kept (addr : BitVec 35) (value : BitVec 64) (others : List (Fin 3)) (upset : Bool) (s : State) :
    KeptBy s (execMcaUpdate addr value others upset s) := by
  have e : @execMcaUpdate = @execMcaUpdate := rfl
  conv at e => rhs; delta execMcaUpdate
  rw [e]; clear e
  dsimp -zeta -iota -proj -eta -zetaUnused -zetaHave -failIfUnchanged only
  repeat' first
    | with_reducible first
      | refine KeptBy.next ?_ | apply Kept.refl | assumption | apply Kept.via (State.mapRequest_kept ..)
      | apply Kept.via (State.grantPipe_kept ..)
    | simp -zeta -iota -proj -zetaUnused -zetaHave (disch := rfl) only [Kept.update_iff]
    | intro _
    | (extract_lets -underBinder -merge +onlyGivenNames x; refine Kept.step (b := x) ?_ ?_
       all_goals first | (intro _; clear_value x) | dsimp -zeta -iota -proj -zetaUnused -zetaHave only [x])
    | extract_lets -underBinder -merge +onlyGivenNames x
    | split
    | (clear_value x; split)
    | dsimp only

theorem execMcaFillReturn_kept (line : BitVec 28) (upset : Bool) (s : State) : KeptBy s (execMcaFillReturn line upset s) := by
  have e : @execMcaFillReturn = @execMcaFillReturn := rfl
  conv at e => rhs; delta execMcaFillReturn
  rw [e]; clear e
  dsimp -zeta -iota -proj -eta -zetaUnused -zetaHave -failIfUnchanged only
  repeat' first
    | with_reducible first
      | refine KeptBy.next ?_ | apply Kept.refl | assumption | apply Kept.via (State.fillReturn_kept ..)
    | simp -zeta -iota -proj -zetaUnused -zetaHave (disch := rfl) only [Kept.update_iff]
    | intro _
    | (extract_lets -underBinder -merge +onlyGivenNames x; refine Kept.step (b := x) ?_ ?_
       all_goals first | (intro _; clear_value x) | dsimp -zeta -iota -proj -zetaUnused -zetaHave only [x])
    | extract_lets -underBinder -merge +onlyGivenNames x
    | split
    | (clear_value x; split)
    | dsimp only

theorem execMcaVictimLand_kept (line : BitVec 28) (upset : Bool) (s : State) : KeptBy s (execMcaVictimLand line upset s) := by
  have e : @execMcaVictimLand = @execMcaVictimLand := rfl
  conv at e => rhs; delta execMcaVictimLand
  rw [e]; clear e
  dsimp -zeta -iota -proj -eta -zetaUnused -zetaHave -failIfUnchanged only
  repeat' first
    | with_reducible first | refine KeptBy.next ?_ | apply Kept.refl | assumption | apply Kept.via (State.land_kept ..)
    | simp -zeta -iota -proj -zetaUnused -zetaHave (disch := rfl) only [Kept.update_iff]
    | intro _
    | (extract_lets -underBinder -merge +onlyGivenNames x; refine Kept.step (b := x) ?_ ?_
       all_goals first | (intro _; clear_value x) | dsimp -zeta -iota -proj -zetaUnused -zetaHave only [x])
    | extract_lets -underBinder -merge +onlyGivenNames x
    | split
    | (clear_value x; split)
    | dsimp only

theorem execMcaPrefetch_kept (tag : BitVec 13) (s : State) : KeptBy s (execMcaPrefetch tag s) := by
  have e : @execMcaPrefetch = @execMcaPrefetch := rfl
  conv at e => rhs; delta execMcaPrefetch
  rw [e]; clear e
  dsimp -zeta -iota -proj -eta -zetaUnused -zetaHave -failIfUnchanged only
  repeat' first
    | with_reducible first
      | refine KeptBy.next ?_ | apply Kept.refl | assumption | apply Kept.via (State.prefetchAll_kept ..)
    | simp -zeta -iota -proj -zetaUnused -zetaHave (disch := rfl) only [Kept.update_iff]
    | intro _
    | (extract_lets -underBinder -merge +onlyGivenNames x; refine Kept.step (b := x) ?_ ?_
       all_goals first | (intro _; clear_value x) | dsimp -zeta -iota -proj -zetaUnused -zetaHave only [x])
    | extract_lets -underBinder -merge +onlyGivenNames x
    | split
    | (clear_value x; split)
    | dsimp only

theorem execMcaWindowEnable_kept (k : Fin 4) (base : BitVec 15) (s : State) : KeptBy s (execMcaWindowEnable k base s) := by
  have e : @execMcaWindowEnable = @execMcaWindowEnable := rfl
  conv at e => rhs; delta execMcaWindowEnable
  rw [e]; clear e
  dsimp -zeta -iota -proj -eta -zetaUnused -zetaHave -failIfUnchanged only
  repeat' first
    | with_reducible first
      | refine KeptBy.next ?_ | apply Kept.refl | assumption | apply Kept.via (State.access_kept (h_k := ?_) ..)
      | apply Kept.via (State.windowError_kept ..) | apply Kept.via (State.wr_kept ..)
    | simp -zeta -iota -proj -zetaUnused -zetaHave (disch := rfl) only [Kept.update_iff]
    | intro _
    | (extract_lets -underBinder -merge +onlyGivenNames x; refine Kept.step (b := x) ?_ ?_
       all_goals first | (intro _; clear_value x) | dsimp -zeta -iota -proj -zetaUnused -zetaHave only [x])
    | extract_lets -underBinder -merge +onlyGivenNames x
    | split
    | (clear_value x; split)
    | dsimp only

theorem execMcaWindowDisable_kept (k : Fin 4) (s : State) : KeptBy s (execMcaWindowDisable k s) := by
  have e : @execMcaWindowDisable = @execMcaWindowDisable := rfl
  conv at e => rhs; delta execMcaWindowDisable
  rw [e]; clear e
  dsimp -zeta -iota -proj -eta -zetaUnused -zetaHave -failIfUnchanged only
  repeat' first
    | with_reducible first
      | refine KeptBy.next ?_ | apply Kept.refl | assumption | apply Kept.via (State.access_kept (h_k := ?_) ..)
      | apply Kept.via (State.windowError_kept ..) | apply Kept.via (State.closeWindow_kept ..)
    | simp -zeta -iota -proj -zetaUnused -zetaHave (disch := rfl) only [Kept.update_iff]
    | intro _
    | (extract_lets -underBinder -merge +onlyGivenNames x; refine Kept.step (b := x) ?_ ?_
       all_goals first | (intro _; clear_value x) | dsimp -zeta -iota -proj -zetaUnused -zetaHave only [x])
    | extract_lets -underBinder -merge +onlyGivenNames x
    | split
    | (clear_value x; split)
    | dsimp only

theorem execMcaLockEnable_kept (k : Fin 8) (s : State) : KeptBy s (execMcaLockEnable k s) := by
  have e : @execMcaLockEnable = @execMcaLockEnable := rfl
  conv at e => rhs; delta execMcaLockEnable
  rw [e]; clear e
  dsimp -zeta -iota -proj -eta -zetaUnused -zetaHave -failIfUnchanged only
  repeat' first
    | with_reducible first
      | refine KeptBy.next ?_ | apply Kept.refl | assumption | apply Kept.via (State.access_kept (h_k := ?_) ..)
      | apply Kept.via (State.wr_kept ..) | apply Kept.via (State.lockError_kept ..)
    | simp -zeta -iota -proj -zetaUnused -zetaHave (disch := rfl) only [Kept.update_iff]
    | intro _
    | (extract_lets -underBinder -merge +onlyGivenNames x; refine Kept.step (b := x) ?_ ?_
       all_goals first | (intro _; clear_value x) | dsimp -zeta -iota -proj -zetaUnused -zetaHave only [x])
    | extract_lets -underBinder -merge +onlyGivenNames x
    | split
    | (clear_value x; split)
    | dsimp only

theorem execMcaLockDisable_kept (k : Fin 8) (s : State) : KeptBy s (execMcaLockDisable k s) := by
  have e : @execMcaLockDisable = @execMcaLockDisable := rfl
  conv at e => rhs; delta execMcaLockDisable
  rw [e]; clear e
  dsimp -zeta -iota -proj -eta -zetaUnused -zetaHave -failIfUnchanged only
  repeat' first
    | with_reducible first
      | refine KeptBy.next ?_ | apply Kept.refl | assumption | apply Kept.via (State.access_kept (h_k := ?_) ..)
      | apply Kept.via (State.unlockRange_kept ..)
    | simp -zeta -iota -proj -zetaUnused -zetaHave (disch := rfl) only [Kept.update_iff]
    | intro _
    | (extract_lets -underBinder -merge +onlyGivenNames x; refine Kept.step (b := x) ?_ ?_
       all_goals first | (intro _; clear_value x) | dsimp -zeta -iota -proj -zetaUnused -zetaHave only [x])
    | extract_lets -underBinder -merge +onlyGivenNames x
    | split
    | (clear_value x; split)
    | dsimp only

theorem execLockLoad_kept (k : Fin 8) (s : State) : KeptBy s (execLockLoad k s) := by
  have e : @execLockLoad = @execLockLoad := rfl
  conv at e => rhs; delta execLockLoad
  rw [e]; clear e
  dsimp -zeta -iota -proj -eta -zetaUnused -zetaHave -failIfUnchanged only
  repeat' first
    | with_reducible first
      | refine KeptBy.next ?_ | apply Kept.refl | assumption | apply Kept.via (State.access_kept (h_k := ?_) ..)
      | apply Kept.via (State.wr_kept ..)
    | simp -zeta -iota -proj -zetaUnused -zetaHave (disch := rfl) only [Kept.update_iff]
    | intro _
    | (extract_lets -underBinder -merge +onlyGivenNames x; refine Kept.step (b := x) ?_ ?_
       all_goals first | (intro _; clear_value x) | dsimp -zeta -iota -proj -zetaUnused -zetaHave only [x])
    | extract_lets -underBinder -merge +onlyGivenNames x
    | split
    | (clear_value x; split)
    | dsimp only

theorem execLockLoadComplete_kept (k : Fin 8) (upsets : List (BitVec 28)) (s : State) :
    KeptBy s (execLockLoadComplete k upsets s) := by
  have e : @execLockLoadComplete = @execLockLoadComplete := rfl
  conv at e => rhs; delta execLockLoadComplete
  rw [e]; clear e
  dsimp -zeta -iota -proj -eta -zetaUnused -zetaHave -failIfUnchanged only
  repeat' first
    | with_reducible first
      | refine KeptBy.next ?_ | apply Kept.refl | assumption | apply Kept.via (State.lockLine_kept ..)
      | apply Kept.via (State.grantPipe_kept ..) | apply Kept.via (State.raise_kept ..) | apply Kept.via (State.wr_kept ..)
      | apply Kept.via (Kept.foldl ?_ ..) | apply Kept.via (Kept.foldl_fst ?_ ..)
    | simp -zeta -iota -proj -zetaUnused -zetaHave (disch := rfl) only [Kept.update_iff]
    | intro _
    | (extract_lets -underBinder -merge +onlyGivenNames x; refine Kept.step (b := x) ?_ ?_
       all_goals first | (intro _; clear_value x) | dsimp -zeta -iota -proj -zetaUnused -zetaHave only [x])
    | extract_lets -underBinder -merge +onlyGivenNames x
    | split
    | (clear_value x; split)
    | dsimp only

theorem execRangeClean_kept (s : State) : KeptBy s (execRangeClean s) := by
  have e : @execRangeClean = @execRangeClean := rfl
  conv at e => rhs; delta execRangeClean
  rw [e]; clear e
  dsimp -zeta -iota -proj -eta -zetaUnused -zetaHave -failIfUnchanged only
  repeat' first
    | with_reducible first
      | refine KeptBy.next ?_ | apply Kept.refl | assumption | apply Kept.via (State.access_kept (h_k := ?_) ..)
      | apply Kept.via (State.rangeGo_kept ..)
    | simp -zeta -iota -proj -zetaUnused -zetaHave (disch := rfl) only [Kept.update_iff]
    | intro _
    | (extract_lets -underBinder -merge +onlyGivenNames x; refine Kept.step (b := x) ?_ ?_
       all_goals first | (intro _; clear_value x) | dsimp -zeta -iota -proj -zetaUnused -zetaHave only [x])
    | extract_lets -underBinder -merge +onlyGivenNames x
    | split
    | (clear_value x; split)
    | dsimp only

theorem execRangeInvalidate_kept (s : State) : KeptBy s (execRangeInvalidate s) := by
  have e : @execRangeInvalidate = @execRangeInvalidate := rfl
  conv at e => rhs; delta execRangeInvalidate
  rw [e]; clear e
  dsimp -zeta -iota -proj -eta -zetaUnused -zetaHave -failIfUnchanged only
  repeat' first
    | with_reducible first
      | refine KeptBy.next ?_ | apply Kept.refl | assumption | apply Kept.via (State.access_kept (h_k := ?_) ..)
      | apply Kept.via (State.rangeGo_kept ..)
    | simp -zeta -iota -proj -zetaUnused -zetaHave (disch := rfl) only [Kept.update_iff]
    | intro _
    | (extract_lets -underBinder -merge +onlyGivenNames x; refine Kept.step (b := x) ?_ ?_
       all_goals first | (intro _; clear_value x) | dsimp -zeta -iota -proj -zetaUnused -zetaHave only [x])
    | extract_lets -underBinder -merge +onlyGivenNames x
    | split
    | (clear_value x; split)
    | dsimp only

theorem execRangeDiscard_kept (s : State) : KeptBy s (execRangeDiscard s) := by
  have e : @execRangeDiscard = @execRangeDiscard := rfl
  conv at e => rhs; delta execRangeDiscard
  rw [e]; clear e
  dsimp -zeta -iota -proj -eta -zetaUnused -zetaHave -failIfUnchanged only
  repeat' first
    | with_reducible first
      | refine KeptBy.next ?_ | apply Kept.refl | assumption | apply Kept.via (State.access_kept (h_k := ?_) ..)
      | apply Kept.via (State.rangeGo_kept ..)
    | simp -zeta -iota -proj -zetaUnused -zetaHave (disch := rfl) only [Kept.update_iff]
    | intro _
    | (extract_lets -underBinder -merge +onlyGivenNames x; refine Kept.step (b := x) ?_ ?_
       all_goals first | (intro _; clear_value x) | dsimp -zeta -iota -proj -zetaUnused -zetaHave only [x])
    | extract_lets -underBinder -merge +onlyGivenNames x
    | split
    | (clear_value x; split)
    | dsimp only

theorem execRangeComplete_kept (upsets : List (BitVec 28)) (s : State) : KeptBy s (execRangeComplete upsets s) := by
  have e : @execRangeComplete = @execRangeComplete := rfl
  conv at e => rhs; delta execRangeComplete
  rw [e]; clear e
  dsimp -zeta -iota -proj -eta -zetaUnused -zetaHave -failIfUnchanged only
  repeat' first
    | with_reducible first
      | refine KeptBy.next ?_ | apply Kept.refl | assumption | apply Kept.via (State.rangeDone_kept ..)
    | simp -zeta -iota -proj -zetaUnused -zetaHave (disch := rfl) only [Kept.update_iff]
    | intro _
    | (extract_lets -underBinder -merge +onlyGivenNames x; refine Kept.step (b := x) ?_ ?_
       all_goals first | (intro _; clear_value x) | dsimp -zeta -iota -proj -zetaUnused -zetaHave only [x])
    | extract_lets -underBinder -merge +onlyGivenNames x
    | split
    | (clear_value x; split)
    | dsimp only

theorem execMapResume_kept (s : State) : KeptBy s (execMapResume s) := by
  have e : @execMapResume = @execMapResume := rfl
  conv at e => rhs; delta execMapResume
  rw [e]; clear e
  dsimp -zeta -iota -proj -eta -zetaUnused -zetaHave -failIfUnchanged only
  repeat' first
    | with_reducible first
      | refine KeptBy.next ?_ | apply Kept.refl | assumption | apply Kept.via (State.access_kept (h_k := ?_) ..)
      | apply Kept.via (State.modMca_kept ..) | apply Kept.via (State.wr_kept ..) | apply Kept.via (State.mapRequest_kept ..)
      | apply Kept.via (Kept.foldl ?_ ..) | apply Kept.via (Kept.foldl_fst ?_ ..)
    | simp -zeta -iota -proj -zetaUnused -zetaHave (disch := rfl) only [Kept.update_iff]
    | intro _
    | (extract_lets -underBinder -merge +onlyGivenNames x; refine Kept.step (b := x) ?_ ?_
       all_goals first | (intro _; clear_value x) | dsimp -zeta -iota -proj -zetaUnused -zetaHave only [x])
    | extract_lets -underBinder -merge +onlyGivenNames x
    | split
    | (clear_value x; split)
    | dsimp only

theorem execMcDiagGo_kept (set : BitVec 12) (way : Fin 16) (victim : Bool) (upset : Bool) (s : State) :
    KeptBy s (execMcDiagGo set way victim upset s) := by
  have e : @execMcDiagGo = @execMcDiagGo := rfl
  conv at e => rhs; delta execMcDiagGo
  rw [e]; clear e
  dsimp -zeta -iota -proj -eta -zetaUnused -zetaHave -failIfUnchanged only
  repeat' first
    | with_reducible first
      | refine KeptBy.next ?_ | apply Kept.refl | assumption | apply Kept.via (State.access_kept (h_k := ?_) ..)
      | apply Kept.via (State.wrFlag_kept ..) | apply Kept.via (State.wr_kept ..) | apply Kept.via (State.grantPipe_kept ..)
      | apply Kept.via (State.diagEntry_kept ..)
    | simp -zeta -iota -proj -zetaUnused -zetaHave (disch := rfl) only [Kept.update_iff]
    | intro _
    | (extract_lets -underBinder -merge +onlyGivenNames x; refine Kept.step (b := x) ?_ ?_
       all_goals first | (intro _; clear_value x) | dsimp -zeta -iota -proj -zetaUnused -zetaHave only [x])
    | extract_lets -underBinder -merge +onlyGivenNames x
    | split
    | (clear_value x; split)
    | dsimp only

theorem execMcCntClr_kept (s : State) : KeptBy s (execMcCntClr s) := by
  have e : @execMcCntClr = @execMcCntClr := rfl
  conv at e => rhs; delta execMcCntClr
  rw [e]; clear e
  dsimp -zeta -iota -proj -eta -zetaUnused -zetaHave -failIfUnchanged only
  repeat' first
    | with_reducible first
      | refine KeptBy.next ?_ | apply Kept.refl | assumption | apply Kept.via (State.access_kept (h_k := ?_) ..)
      | apply Kept.via (State.clearAll_kept ..)
    | simp -zeta -iota -proj -zetaUnused -zetaHave (disch := rfl) only [Kept.update_iff]
    | intro _
    | (extract_lets -underBinder -merge +onlyGivenNames x; refine Kept.step (b := x) ?_ ?_
       all_goals first | (intro _; clear_value x) | dsimp -zeta -iota -proj -zetaUnused -zetaHave only [x])
    | extract_lets -underBinder -merge +onlyGivenNames x
    | split
    | (clear_value x; split)
    | dsimp only

end Sys2Proof.Machine
end

