-- ==== Sys2Proof/Laws/KeepsPack.lean ====
section
/-!
SUPPORT. Laws/KeepsPack.lean: each operation and command of Machine/Pack.lean keeps what every operation keeps (`Kept`).
-/
namespace Sys2Proof.Machine

theorem State.setLane_kept (s : State) (i : ℕ) (l : Option PackLane) : Kept s (State.setLane s i l) := by
  unfold State.setLane
  repeat' first
    | with_reducible first | apply Kept.refl
    | simp -zeta -iota -proj -zetaUnused -zetaHave (disch := rfl) only [Kept.update_iff]

theorem State.dropStale_kept (s : State) (ns : ℕ) (lba : ℕ) : Kept s (State.dropStale s ns lba) := by
  have e : @State.dropStale = @State.dropStale := rfl
  conv at e => rhs; delta State.dropStale
  rw [e]; clear e
  dsimp -zeta -iota -proj -eta -zetaUnused -zetaHave -failIfUnchanged only
  repeat' first
    | with_reducible first | apply Kept.refl
    | simp -zeta -iota -proj -zetaUnused -zetaHave (disch := rfl) only [Kept.update_iff]
    | intro _
    | (extract_lets -underBinder -merge +onlyGivenNames x; refine Kept.step (b := x) ?_ ?_
       all_goals first | (intro _; clear_value x) | dsimp -zeta -iota -proj -zetaUnused -zetaHave only [x])
    | extract_lets -underBinder -merge +onlyGivenNames x
    | split
    | (clear_value x; split)

theorem State.takePool_kept (s : State) (i : ℕ) (at_ : ℕ) (l : PackLane) : Kept s (State.takePool s i at_ l) := by
  have e : @State.takePool = @State.takePool := rfl
  conv at e => rhs; delta State.takePool
  rw [e]; clear e
  dsimp -zeta -iota -proj -eta -zetaUnused -zetaHave -failIfUnchanged only
  repeat' first
    | with_reducible first
      | apply Kept.refl | assumption | apply Kept.via (State.wr_kept ..) | apply Kept.via (State.raise_kept ..)
      | apply Kept.via (State.showStalls_kept ..) | apply Kept.via (State.setLane_kept ..)
      | apply Kept.via (State.count_kept ..)
    | simp -zeta -iota -proj -zetaUnused -zetaHave (disch := rfl) only [Kept.update_iff]
    | intro _
    | (extract_lets -underBinder -merge +onlyGivenNames x; refine Kept.step (b := x) ?_ ?_
       all_goals first | (intro _; clear_value x) | dsimp -zeta -iota -proj -zetaUnused -zetaHave only [x])
    | extract_lets -underBinder -merge +onlyGivenNames x
    | split
    | (clear_value x; split)
    | dsimp only

theorem State.enterLane_kept (s : State) (i : ℕ) (at_ : ℕ) (ns : ℕ) (lba : ℕ) : Kept s (State.enterLane s i at_ ns lba) := by
  unfold State.enterLane
  repeat' first
    | with_reducible first | apply Kept.refl | apply Kept.via (State.takePool_kept ..)
    | split

theorem State.fillLanes_kept (s : State) : Kept s (State.fillLanes s) := by
  unfold State.fillLanes
  repeat' first
    | with_reducible first
      | apply Kept.refl | apply Kept.via (State.enterLane_kept ..) | apply Kept.via (Kept.foldl ?_ ..)
    | simp -zeta -iota -proj -zetaUnused -zetaHave (disch := rfl) only [Kept.update_iff]
    | intro _

theorem State.packCompress_kept (s : State) (l : List ReadyBlock) : Kept s (State.packCompress s l) := by
  unfold State.packCompress
  repeat' first
    | with_reducible first
      | apply Kept.refl | apply Kept.via (State.dropStale_kept ..) | apply Kept.via (State.wr_kept ..)
      | apply Kept.via (State.fillLanes_kept ..) | apply Kept.via (Kept.foldl ?_ ..)
    | simp -zeta -iota -proj -zetaUnused -zetaHave (disch := rfl) only [Kept.update_iff]
    | intro _

theorem State.freeBuffer_kept (s : State) : Kept s (State.freeBuffer s) := by
  have e : @State.freeBuffer = @State.freeBuffer := rfl
  conv at e => rhs; delta State.freeBuffer
  rw [e]; clear e
  dsimp -zeta -iota -proj -eta -zetaUnused -zetaHave -failIfUnchanged only
  repeat' first
    | with_reducible first
      | apply Kept.refl | assumption | apply Kept.via (State.count_kept ..) | apply Kept.via (State.wr_kept ..)
      | apply Kept.via (State.takePool_kept ..)
    | simp -zeta -iota -proj -zetaUnused -zetaHave (disch := rfl) only [Kept.update_iff]
    | intro _
    | (extract_lets -underBinder -merge +onlyGivenNames x; refine Kept.step (b := x) ?_ ?_
       all_goals first | (intro _; clear_value x) | dsimp -zeta -iota -proj -zetaUnused -zetaHave only [x])
    | extract_lets -underBinder -merge +onlyGivenNames x
    | split
    | (clear_value x; split)

theorem State.placeSpill_kept (s : State) (n : Namespace) (ns : ℕ) (zi : ℕ) (k : ℕ) (externIndex : ℕ) :
    Kept s (State.placeSpill s n ns zi k externIndex).1 := by
  have e : @State.placeSpill = @State.placeSpill := rfl
  conv at e => rhs; delta State.placeSpill
  rw [e]; clear e
  dsimp -zeta -iota -proj -eta -zetaUnused -zetaHave -failIfUnchanged only
  repeat' first
    | with_reducible first
      | apply Kept.refl | assumption | apply Kept.via (State.modZone_kept ..) | apply Kept.via (State.journal_kept ..)
      | apply Kept.via (State.count_kept ..) | apply Kept.via (State.raise_kept ..)
      | apply Kept.via (State.refreshExterns_kept ..)
    | simp -zeta -iota -proj -zetaUnused -zetaHave (disch := rfl) only [Kept.update_iff]
    | intro _
    | (extract_lets -underBinder -merge +onlyGivenNames x; refine Kept.step (b := x) ?_ ?_
       all_goals first | (intro _; clear_value x) | dsimp -zeta -iota -proj -zetaUnused -zetaHave only [x])
    | extract_lets -underBinder -merge +onlyGivenNames x
    | split
    | (clear_value x; split)
    | dsimp only

theorem State.storeBlock_kept (s : State) (n : Namespace) (l : PackLane) (externIndex : ℕ) :
    Kept s (State.storeBlock s n l externIndex) := by
  have e : @State.storeBlock = @State.storeBlock := rfl
  conv at e => rhs; delta State.storeBlock
  rw [e]; clear e
  dsimp -zeta -iota -proj -eta -zetaUnused -zetaHave -failIfUnchanged only
  repeat' first
    | with_reducible first
      | apply Kept.refl | assumption | refine Kept.via_fst (State.placeSpill_kept ..) ‹_› ?_
      | apply Kept.via (State.placeSpill_kept ..) | apply Kept.via (State.count_kept ..)
    | simp -zeta -iota -proj -zetaUnused -zetaHave (disch := rfl) only [Kept.update_iff]
    | intro _
    | (extract_lets -underBinder -merge +onlyGivenNames x; refine Kept.step (b := x) ?_ ?_
       all_goals first | (intro _; clear_value x) | dsimp -zeta -iota -proj -zetaUnused -zetaHave only [x])
    | extract_lets -underBinder -merge +onlyGivenNames x
    | split
    | (clear_value x; split)
    | dsimp only

theorem State.packDone_kept (s : State) (i : ℕ) (externIndex : ℕ) : Kept s (State.packDone s i externIndex) := by
  unfold State.packDone
  repeat' first
    | with_reducible first
      | apply Kept.refl | apply Kept.via (State.fillLanes_kept ..) | apply Kept.via (State.setLane_kept ..)
      | apply Kept.via (State.storeBlock_kept ..)
    | split

theorem State.deliverBlocks_kept (s : State) (u : ReadUnit) (data : Option ℕ) : Kept s (State.deliverBlocks s u data) := by
  have e : @State.deliverBlocks = @State.deliverBlocks := rfl
  conv at e => rhs; delta State.deliverBlocks
  rw [e]; clear e
  dsimp -zeta -iota -proj -eta -zetaUnused -zetaHave -failIfUnchanged only
  repeat' first
    | with_reducible first
      | apply Kept.refl | assumption | apply Kept.via (State.deliver_kept ..) | apply Kept.via (State.placeOld_kept ..)
      | apply Kept.via (State.refreshBuffer_kept ..) | apply Kept.via (State.wr_kept ..) | apply Kept.via (Kept.foldl ?_ ..)
    | simp -zeta -iota -proj -zetaUnused -zetaHave (disch := rfl) only [Kept.update_iff]
    | intro _
    | (extract_lets -underBinder -merge +onlyGivenNames x; refine Kept.step (b := x) ?_ ?_
       all_goals first | (intro _; clear_value x) | dsimp -zeta -iota -proj -zetaUnused -zetaHave only [x])
    | extract_lets -underBinder -merge +onlyGivenNames x
    | split
    | (clear_value x; split)

theorem State.decodeError_kept (s : State) (u : ReadUnit) : Kept s (State.decodeError s u) := by
  unfold State.decodeError
  repeat' with_reducible first
    | apply Kept.refl | apply Kept.via (State.deliverBlocks_kept ..) | apply Kept.via (State.detect_kept ..)
    | apply Kept.via (State.raise_kept ..) | apply Kept.via (State.count_kept ..)

theorem State.unpackUnit_kept (s : State) (n : Namespace) (u : ReadUnit) : Kept s (State.unpackUnit s n u) := by
  have e : @State.unpackUnit = @State.unpackUnit := rfl
  conv at e => rhs; delta State.unpackUnit
  rw [e]; clear e
  dsimp -zeta -iota -proj -eta -zetaUnused -zetaHave -failIfUnchanged only
  repeat' first
    | with_reducible first
      | apply Kept.refl | apply Kept.via (State.deliverBlocks_kept ..) | apply Kept.via (State.decodeError_kept ..)
      | apply Kept.via (State.queueAll_kept ..)
    | simp -zeta -iota -proj -zetaUnused -zetaHave (disch := rfl) only [Kept.update_iff]
    | intro _
    | (extract_lets -underBinder -merge +onlyGivenNames x; refine Kept.step (b := x) ?_ ?_
       all_goals first | (intro _; clear_value x) | dsimp -zeta -iota -proj -zetaUnused -zetaHave only [x])
    | extract_lets -underBinder -merge +onlyGivenNames x
    | split
    | (clear_value x; split)

theorem State.unpackBlocks_kept (s : State) (l : List ReadyBlock) : Kept s (State.unpackBlocks s l) := by
  unfold State.unpackBlocks
  repeat' first
    | with_reducible first
      | apply Kept.refl | apply Kept.via (State.wr_kept ..) | apply Kept.via (State.unpackUnit_kept ..)
      | apply Kept.via (Kept.foldl ?_ ..)
    | simp -zeta -iota -proj -zetaUnused -zetaHave (disch := rfl) only [Kept.update_iff]
    | intro _
    | split

theorem State.pakCfgErr_kept (s : State) : Kept s (State.pakCfgErr s) := by
  unfold State.pakCfgErr
  repeat' with_reducible first | apply Kept.refl | apply Kept.via (State.raise_kept ..) | apply Kept.via (State.wr_kept ..)

theorem State.zrWrite_kept (s : State) (ratio : ℕ) (activation : Bool) : Kept s (State.zrWrite s ratio activation) := by
  have e : @State.zrWrite = @State.zrWrite := rfl
  conv at e => rhs; delta State.zrWrite
  rw [e]; clear e
  dsimp -zeta -iota -proj -eta -zetaUnused -zetaHave -failIfUnchanged only
  repeat' first
    | with_reducible first
      | apply Kept.refl | assumption | apply Kept.via (State.wr_kept ..) | apply Kept.via (State.pakCfgErr_kept ..)
      | apply Kept.via (State.journal_kept ..) | apply Kept.via (State.modZone_kept ..)
    | simp -zeta -iota -proj -zetaUnused -zetaHave (disch := rfl) only [Kept.update_iff]
    | intro _
    | (extract_lets -underBinder -merge +onlyGivenNames x; refine Kept.step (b := x) ?_ ?_
       all_goals first | (intro _; clear_value x) | dsimp -zeta -iota -proj -zetaUnused -zetaHave only [x])
    | extract_lets -underBinder -merge +onlyGivenNames x
    | split
    | (clear_value x; split)

theorem execPackBlockCompress_kept (blocks : List ReadyBlock) (s : State) : KeptBy s (execPackBlockCompress blocks s) := by
  unfold execPackBlockCompress
  refine KeptBy.next ?_
  repeat' first
    | with_reducible first | apply Kept.refl | apply Kept.via (State.packCompress_kept ..)
    | split

theorem execPackBlockDone_kept (lane : Fin 4) (externIndex : BitVec 24) (s : State) :
    KeptBy s (execPackBlockDone lane externIndex s) := by
  unfold execPackBlockDone
  refine KeptBy.next ?_
  repeat' with_reducible first | apply Kept.refl | apply Kept.via (State.packDone_kept ..)

theorem execPoolBufferFree_kept (s : State) : KeptBy s (execPoolBufferFree s) := by
  unfold execPoolBufferFree
  refine KeptBy.next ?_
  repeat' with_reducible first | apply Kept.refl | apply Kept.via (State.freeBuffer_kept ..)

theorem execUnpackBlock_kept (blocks : List ReadyBlock) (s : State) : KeptBy s (execUnpackBlock blocks s) := by
  unfold execUnpackBlock
  refine KeptBy.next ?_
  repeat' with_reducible first | apply Kept.refl | apply Kept.via (State.unpackBlocks_kept ..)

theorem execZrWrite_kept (ratio : BitVec 2) (activation : Bool) (s : State) : KeptBy s (execZrWrite ratio activation s) := by
  unfold execZrWrite
  refine KeptBy.next ?_
  repeat' first
    | with_reducible first
      | apply Kept.refl | apply Kept.via (State.access_kept (h_k := ?_) ..) | apply Kept.via (State.zrWrite_kept ..)
    | simp -zeta -iota -proj -zetaUnused -zetaHave (disch := rfl) only [Kept.update_iff]
    | intro _

theorem execZrRead_kept (s : State) : KeptBy s (execZrRead s) := by
  unfold execZrRead
  refine KeptBy.next ?_
  repeat' first
    | with_reducible first
      | apply Kept.refl | apply Kept.via (State.access_kept (h_k := ?_) ..) | apply Kept.via (State.wr_kept ..)
    | simp -zeta -iota -proj -zetaUnused -zetaHave (disch := rfl) only [Kept.update_iff]
    | intro _
    | split

theorem execPakCntClr_kept (s : State) : KeptBy s (execPakCntClr s) := by
  unfold execPakCntClr
  refine KeptBy.next ?_
  repeat' first
    | with_reducible first
      | apply Kept.refl | apply Kept.via (State.access_kept (h_k := ?_) ..) | apply Kept.via (State.clearAll_kept ..)
    | simp -zeta -iota -proj -zetaUnused -zetaHave (disch := rfl) only [Kept.update_iff]
    | intro _

end Sys2Proof.Machine
end

