-- ==== Sys2Proof/Laws/KeepsRouter.lean ====
section
/-!
SUPPORT. Laws/KeepsRouter.lean: each operation and command of Machine/Router.lean keeps what every operation keeps (`Kept`).
-/
namespace Sys2Proof.Machine

theorem State.claimOne_kept (s : State) (c : ℕ) : Kept s (State.claimOne s c) := by
  unfold State.claimOne
  repeat' first
    | with_reducible first
      | apply Kept.refl | apply Kept.via (State.emit_kept ..) | apply Kept.via (State.clrBitAt_kept ..)
    | split

theorem State.claimAll_kept (s : State) (cores : List ℕ) (events : List ℕ) : Kept s (State.claimAll s cores events) := by
  unfold State.claimAll
  repeat' first
    | with_reducible first
      | apply Kept.refl | apply Kept.via (State.wr_kept ..) | apply Kept.via (State.raise_kept ..)
      | apply Kept.via (State.claimOne_kept ..) | apply Kept.via (Kept.foldl ?_ ..)
    | intro _

theorem State.softEvents_kept (s : State) (v : ℕ) : Kept s (State.softEvents s v) := by
  unfold State.softEvents
  repeat' first
    | with_reducible first | apply Kept.refl | apply Kept.via (State.raise_kept ..) | apply Kept.via (Kept.foldl ?_ ..)
    | intro _

theorem execEvrClaim_kept (cores : List (Fin 4)) (events : List (Fin 256)) (s : State) :
    KeptBy s (execEvrClaim cores events s) := by
  unfold execEvrClaim
  refine KeptBy.next ?_
  repeat' first
    | with_reducible first
      | apply Kept.refl | apply Kept.via (State.accessRead_kept (h_k := ?_) ..) | apply Kept.via (State.claimAll_kept ..)
    | simp -zeta -iota -proj -zetaUnused -zetaHave (disch := rfl) only [Kept.update_iff]
    | intro _

theorem execEvrSoft_kept (bits : BitVec 24) (s : State) : KeptBy s (execEvrSoft bits s) := by
  unfold execEvrSoft
  refine KeptBy.next ?_
  repeat' first
    | with_reducible first
      | apply Kept.refl | apply Kept.via (State.access_kept (h_k := ?_) ..) | apply Kept.via (State.softEvents_kept ..)
    | simp -zeta -iota -proj -zetaUnused -zetaHave (disch := rfl) only [Kept.update_iff]
    | intro _

end Sys2Proof.Machine
end

