-- ==== Sys2Proof/Laws/KeepsTriad.lean ====
section
/-!
SUPPORT. Laws/KeepsTriad.lean: each operation and command of Machine/Triad.lean keeps what every operation keeps (`Kept`).
-/
namespace Sys2Proof.Machine

theorem State.disagree_kept (s : State) (l : ℕ) : Kept s (State.disagree s l) := by
  unfold State.disagree
  repeat' first
    | with_reducible first
      | apply Kept.refl | apply Kept.via (State.slideWindow_kept ..) | apply Kept.via (State.raise_kept ..)
      | apply Kept.via (State.count_kept ..)
    | simp -zeta -iota -proj -zetaUnused -zetaHave (disch := rfl) only [Kept.update_iff]

theorem State.triadLost_kept (s : State) : Kept s (State.triadLost s) := by
  unfold State.triadLost
  repeat' first
    | with_reducible first
      | apply Kept.refl | apply Kept.via (State.detect_kept ..) | apply Kept.via (State.raise_kept ..)
      | apply Kept.via (State.wr_kept ..)
    | split

theorem State.afterRetirement_kept (s : State) : Kept s (State.afterRetirement s) := by
  have e : @State.afterRetirement = @State.afterRetirement := rfl
  conv at e => rhs; delta State.afterRetirement
  rw [e]; clear e
  dsimp -zeta -iota -proj -eta -zetaUnused -zetaHave -failIfUnchanged only
  repeat' first
    | with_reducible first
      | apply Kept.refl | apply Kept.via (State.triadLost_kept ..) | apply Kept.via (State.abandonWarm_kept ..)
    | simp -zeta -iota -proj -zetaUnused -zetaHave (disch := rfl) only [Kept.update_iff]
    | intro _
    | (extract_lets -underBinder -merge +onlyGivenNames x; refine Kept.step (b := x) ?_ ?_
       all_goals first | (intro _; clear_value x) | dsimp -zeta -iota -proj -zetaUnused -zetaHave only [x])
    | extract_lets -underBinder -merge +onlyGivenNames x
    | split
    | (clear_value x; split)

theorem State.retire_kept (s : State) (l : ℕ) (cause : ℕ) : Kept s (State.retire s l cause) := by
  have e : @State.retire = @State.retire := rfl
  conv at e => rhs; delta State.retire
  rw [e]; clear e
  dsimp -zeta -iota -proj -eta -zetaUnused -zetaHave -failIfUnchanged only
  repeat' first
    | with_reducible first
      | apply Kept.refl | assumption | apply Kept.via (State.abandonWarm_kept ..) | apply Kept.via (State.countVoters_kept ..)
      | apply Kept.via (State.wr_kept ..) | apply Kept.via (State.detect_kept ..) | apply Kept.via (State.raise_kept ..)
      | apply Kept.via (State.count_kept ..) | apply Kept.via (State.afterRetirement_kept ..)
    | simp -zeta -iota -proj -zetaUnused -zetaHave (disch := rfl) only [Kept.update_iff]
    | intro _
    | (extract_lets -underBinder -merge +onlyGivenNames x; refine Kept.step (b := x) ?_ ?_
       all_goals first | (intro _; clear_value x) | dsimp -zeta -iota -proj -zetaUnused -zetaHave only [x])
    | extract_lets -underBinder -merge +onlyGivenNames x
    | split
    | (clear_value x; split)
    | dsimp only

theorem State.retireFirmware_kept (s : State) (l : ℕ) : Kept s (State.retireFirmware s l) := by
  unfold State.retireFirmware
  repeat' first
    | with_reducible first | apply Kept.refl | apply Kept.via (State.wr_kept ..) | apply Kept.via (State.retire_kept ..)
    | split

theorem State.sliceNotes_kept (s : State) (voterError : Bool) (corrected : ℕ) :
    Kept s (State.sliceNotes s voterError corrected) := by
  unfold State.sliceNotes
  repeat' first
    | with_reducible first
      | apply Kept.refl | apply Kept.via (State.detect_kept ..) | apply Kept.via (State.count_kept ..)
      | apply Kept.via (Kept.foldl ?_ ..)
    | simp -zeta -iota -proj -zetaUnused -zetaHave (disch := rfl) only [Kept.update_iff]
    | intro _
    | split

theorem State.sliceVote_kept (s : State) (n : ℕ) (v : State.Vote) : Kept s (State.sliceVote s n v) := by
  unfold State.sliceVote
  repeat' first
    | with_reducible first
      | apply Kept.refl | apply Kept.via (State.disagree_kept ..) | apply Kept.via (State.sliceDone_kept ..)
      | apply Kept.via (State.detect_kept ..) | apply Kept.via (State.raise_kept ..) | apply Kept.via (State.count_kept ..)
      | apply Kept.via (State.sliceMissed_kept ..) | apply Kept.via (State.triadLost_kept ..)
      | apply Kept.via (Kept.foldl ?_ ..)
    | simp -zeta -iota -proj -zetaUnused -zetaHave (disch := rfl) only [Kept.update_iff]
    | intro _
    | split

theorem State.writeCheckpoint_kept (s : State) (bad : List ℕ) : Kept s (State.writeCheckpoint s bad) := by
  unfold State.writeCheckpoint
  repeat' first
    | with_reducible first | apply Kept.refl | apply Kept.via (State.free_kept ..) | apply Kept.via (State.wr_kept ..)
    | simp -zeta -iota -proj -zetaUnused -zetaHave (disch := rfl) only [Kept.update_iff]

theorem State.warmStart_kept (s : State) (l : ℕ) : Kept s (State.warmStart s l) := by
  unfold State.warmStart
  repeat' first
    | with_reducible first | apply Kept.refl | apply Kept.via (State.wr_kept ..)
    | simp -zeta -iota -proj -zetaUnused -zetaHave (disch := rfl) only [Kept.update_iff]

theorem State.warmWrite_kept (s : State) (l : ℕ) : Kept s (State.warmWrite s l) := by
  have e : @State.warmWrite = @State.warmWrite := rfl
  conv at e => rhs; delta State.warmWrite
  rw [e]; clear e
  dsimp -zeta -iota -proj -eta -zetaUnused -zetaHave -failIfUnchanged only
  repeat' first
    | with_reducible first
      | apply Kept.refl | apply Kept.via (State.wr_kept ..) | apply Kept.via (State.warmStart_kept ..)
    | simp -zeta -iota -proj -zetaUnused -zetaHave (disch := rfl) only [Kept.update_iff]
    | intro _
    | (extract_lets -underBinder -merge +onlyGivenNames x; refine Kept.step (b := x) ?_ ?_
       all_goals first | (intro _; clear_value x) | dsimp -zeta -iota -proj -zetaUnused -zetaHave only [x])
    | extract_lets -underBinder -merge +onlyGivenNames x
    | split
    | (clear_value x; split)

theorem State.laneJoin_kept (s : State) (cycles : ℕ) : Kept s (State.laneJoin s cycles) := by
  unfold State.laneJoin
  repeat' first
    | with_reducible first
      | apply Kept.refl | apply Kept.via (State.countVoters_kept ..) | apply Kept.via (State.wr_kept ..)
      | apply Kept.via (State.raise_kept ..) | apply Kept.via (State.count_kept ..) | apply Kept.via (State.applyCoef_kept ..)
      | apply Kept.via (Kept.foldl ?_ ..)
    | simp -zeta -iota -proj -zetaUnused -zetaHave (disch := rfl) only [Kept.update_iff]
    | intro _
    | split

theorem State.bistBusy_kept (s : State) : Kept s (State.bistBusy s) := by
  unfold State.bistBusy
  repeat' with_reducible first | apply Kept.refl | apply Kept.via (State.wrFlag_kept ..)

theorem execSliceDeadline_kept (lane0 : LaneRecord) (lane1 : LaneRecord) (lane2 : LaneRecord) (lane3 : LaneRecord) (voterError : Bool) (corrected : BitVec 4) (s : State) :
    KeptBy s (execSliceDeadline lane0 lane1 lane2 lane3 voterError corrected s) := by
  have e : @execSliceDeadline = @execSliceDeadline := rfl
  conv at e => rhs; delta execSliceDeadline
  rw [e]; clear e
  dsimp -zeta -iota -proj -eta -zetaUnused -zetaHave -failIfUnchanged only
  repeat' first
    | with_reducible first
      | refine KeptBy.next ?_ | apply Kept.refl | assumption | apply Kept.via (State.sliceNotes_kept ..)
      | apply Kept.via (State.sliceVote_kept ..)
    | simp -zeta -iota -proj -zetaUnused -zetaHave (disch := rfl) only [Kept.update_iff]
    | intro _
    | (extract_lets -underBinder -merge +onlyGivenNames x; refine Kept.step (b := x) ?_ ?_
       all_goals first | (intro _; clear_value x) | dsimp -zeta -iota -proj -zetaUnused -zetaHave only [x])
    | extract_lets -underBinder -merge +onlyGivenNames x
    | split
    | (clear_value x; split)
    | dsimp only

theorem execCheckpoint_kept (noMajority : List (Fin 512)) (s : State) : KeptBy s (execCheckpoint noMajority s) := by
  have e : @execCheckpoint = @execCheckpoint := rfl
  conv at e => rhs; delta execCheckpoint
  rw [e]; clear e
  dsimp -zeta -iota -proj -eta -zetaUnused -zetaHave -failIfUnchanged only
  repeat' first
    | with_reducible first
      | refine KeptBy.next ?_ | apply Kept.refl | assumption | apply Kept.via (State.restoreMissed_kept ..)
      | apply Kept.via (State.writeCheckpoint_kept ..) | apply Kept.via (Kept.foldl ?_ ..)
      | apply Kept.via (Kept.foldl_fst ?_ ..)
    | simp -zeta -iota -proj -zetaUnused -zetaHave (disch := rfl) only [Kept.update_iff]
    | intro _
    | (extract_lets -underBinder -merge +onlyGivenNames x; refine Kept.step (b := x) ?_ ?_
       all_goals first | (intro _; clear_value x) | dsimp -zeta -iota -proj -zetaUnused -zetaHave only [x])
    | extract_lets -underBinder -merge +onlyGivenNames x
    | split
    | (clear_value x; split)
    | dsimp only

theorem execLaneRetire_kept (cause : RetireCause) (s : State) : KeptBy s (execLaneRetire cause s) := by
  unfold execLaneRetire
  refine KeptBy.next ?_
  repeat' first
    | with_reducible first
      | apply Kept.refl | apply Kept.via (State.retire_kept ..) | apply Kept.via (State.access_kept (h_k := ?_) ..)
      | apply Kept.via (State.retireFirmware_kept ..) | apply Kept.via (Kept.foldl ?_ ..)
    | simp -zeta -iota -proj -zetaUnused -zetaHave (disch := rfl) only [Kept.update_iff]
    | intro _
    | split

theorem execLaneWarmStart_kept (trigger : WarmTrigger) (s : State) : KeptBy s (execLaneWarmStart trigger s) := by
  unfold execLaneWarmStart
  refine KeptBy.next ?_
  repeat' first
    | with_reducible first
      | apply Kept.refl | apply Kept.via (State.warmStart_kept ..) | apply Kept.via (State.access_kept (h_k := ?_) ..)
      | apply Kept.via (State.warmWrite_kept ..) | apply Kept.via (Kept.foldl ?_ ..)
    | simp -zeta -iota -proj -zetaUnused -zetaHave (disch := rfl) only [Kept.update_iff]
    | intro _
    | split

theorem execWarmCopyComplete_kept (s : State) : KeptBy s (execWarmCopyComplete s) := by
  unfold execWarmCopyComplete
  refine KeptBy.next ?_
  repeat' first
    | with_reducible first | apply Kept.refl | apply Kept.via (State.wr_kept ..)
    | split

theorem execWarmStateLoad_kept (s : State) : KeptBy s (execWarmStateLoad s) := by
  unfold execWarmStateLoad
  refine KeptBy.next ?_
  repeat' first
    | with_reducible first | apply Kept.refl | apply Kept.via (State.wr_kept ..)
    | split

theorem execLaneJoin_kept (cycles : BitVec 16) (s : State) : KeptBy s (execLaneJoin cycles s) := by
  unfold execLaneJoin
  refine KeptBy.next ?_
  repeat' first
    | with_reducible first | apply Kept.refl | apply Kept.via (State.laneJoin_kept ..)
    | split

theorem execLaneBist_kept (mask : BitVec 4) (s : State) : KeptBy s (execLaneBist mask s) := by
  have e : @execLaneBist = @execLaneBist := rfl
  conv at e => rhs; delta execLaneBist
  rw [e]; clear e
  dsimp -zeta -iota -proj -eta -zetaUnused -zetaHave -failIfUnchanged only
  refine KeptBy.next ?_
  repeat' first
    | with_reducible first
      | apply Kept.refl | assumption | apply Kept.via (State.access_kept (h_k := ?_) ..)
      | apply Kept.via (State.bistBusy_kept ..) | apply Kept.via (State.wr_kept ..) | apply Kept.via (Kept.foldl ?_ ..)
    | simp -zeta -iota -proj -zetaUnused -zetaHave (disch := rfl) only [Kept.update_iff]
    | intro _
    | (extract_lets -underBinder -merge +onlyGivenNames x; refine Kept.step (b := x) ?_ ?_
       all_goals first | (intro _; clear_value x) | dsimp -zeta -iota -proj -zetaUnused -zetaHave only [x])
    | extract_lets -underBinder -merge +onlyGivenNames x
    | split
    | (clear_value x; split)

theorem execLaneBistDone_kept (l : Fin 4) (pass : Bool) (s : State) : KeptBy s (execLaneBistDone l pass s) := by
  unfold execLaneBistDone
  refine KeptBy.next ?_
  repeat' first
    | with_reducible first | apply Kept.refl | apply Kept.via (State.bistBusy_kept ..) | apply Kept.via (State.wr_kept ..)
    | split

theorem execTriadCntClr_kept (s : State) : KeptBy s (execTriadCntClr s) := by
  unfold execTriadCntClr
  refine KeptBy.next ?_
  repeat' first
    | with_reducible first
      | apply Kept.refl | apply Kept.via (State.access_kept (h_k := ?_) ..) | apply Kept.via (State.clearAll_kept ..)
    | simp -zeta -iota -proj -zetaUnused -zetaHave (disch := rfl) only [Kept.update_iff]
    | intro _

end Sys2Proof.Machine
end

