-- ==== Sys2Proof/Laws/KeepsRegWrite.lean ====
section
/-!
SUPPORT. Laws/KeepsRegWrite.lean: each operation and command of Machine/RegWrite.lean keeps what every operation keeps (`Kept`).
-/
namespace Sys2Proof.Machine

theorem left_kept (s : State) (r : Result) (h : KeptBy s r) : Kept s (left s r) := by
  obtain ⟨t, rfl, k⟩ := h
  exact k

theorem State.ignoreIf_kept (s : State) (b : Bool) : ∀ t, s.ignoreIf b = some t → Kept s t := by
  intro t h
  unfold State.ignoreIf at h
  split at h
  · exact Option.some.inj h ▸ Kept.refl s
  · cases h

theorem State.packLocked_kept (s : State) (k : Nat) : ∀ t, s.packLocked k = some t → Kept s t := by
  intro t h
  unfold State.packLocked at h
  split at h
  · exact Option.some.inj h ▸ State.wr_kept ..
  · cases h

theorem State.heldField_kept (s : State) (on : Bool) (f : Fld) (v : Nat) (err : State → State) (h_err : ∀ s, Kept s (err s)) :
    ∀ t, s.heldField on f v err = some t → Kept s t := by
  intro t h
  unfold State.heldField at h
  split at h
  · rw [← Option.some.inj h]
    split
    · exact Kept.refl s
    · exact h_err s
  · cases h

theorem State.writeTagRsv_kept (s : State) (k : ℕ) (v : ℕ) : Kept s (State.writeTagRsv s k v) := by
  have e : @State.writeTagRsv = @State.writeTagRsv := rfl
  conv at e => rhs; delta State.writeTagRsv
  rw [e]; clear e
  dsimp -zeta -iota -proj -eta -zetaUnused -zetaHave -failIfUnchanged only
  repeat' first
    | with_reducible first
      | apply Kept.refl | apply Kept.via (State.wr_kept ..) | apply Kept.via (State.refreshTags_kept ..)
    | simp -zeta -iota -proj -zetaUnused -zetaHave (disch := rfl) only [Kept.update_iff]
    | intro _
    | (extract_lets -underBinder -merge +onlyGivenNames x; refine Kept.step (b := x) ?_ ?_
       all_goals first | (intro _; clear_value x) | dsimp -zeta -iota -proj -zetaUnused -zetaHave only [x])
    | extract_lets -underBinder -merge +onlyGivenNames x
    | split
    | (clear_value x; split)

theorem State.writeQuota_kept (s : State) (k : ℕ) (v : ℕ) : Kept s (State.writeQuota s k v) := by
  have e : @State.writeQuota = @State.writeQuota := rfl
  conv at e => rhs; delta State.writeQuota
  rw [e]; clear e
  dsimp -zeta -iota -proj -eta -zetaUnused -zetaHave -failIfUnchanged only
  repeat' first
    | with_reducible first | apply Kept.refl | apply Kept.via (State.wr_kept ..)
    | simp -zeta -iota -proj -zetaUnused -zetaHave (disch := rfl) only [Kept.update_iff]
    | intro _
    | (extract_lets -underBinder -merge +onlyGivenNames x; refine Kept.step (b := x) ?_ ?_
       all_goals first | (intro _; clear_value x) | dsimp -zeta -iota -proj -zetaUnused -zetaHave only [x])
    | extract_lets -underBinder -merge +onlyGivenNames x
    | split
    | (clear_value x; split)

theorem State.writeContexts_kept (s : State) (v : ℕ) : Kept s (State.writeContexts s v) := by
  have e : @State.writeContexts = @State.writeContexts := rfl
  conv at e => rhs; delta State.writeContexts
  rw [e]; clear e
  dsimp -zeta -iota -proj -eta -zetaUnused -zetaHave -failIfUnchanged only
  repeat' first
    | with_reducible first | apply Kept.refl | apply Kept.via (State.wr_kept ..)
    | simp -zeta -iota -proj -zetaUnused -zetaHave (disch := rfl) only [Kept.update_iff]
    | intro _
    | (extract_lets -underBinder -merge +onlyGivenNames x; refine Kept.step (b := x) ?_ ?_
       all_goals first | (intro _; clear_value x) | dsimp -zeta -iota -proj -zetaUnused -zetaHave only [x])
    | extract_lets -underBinder -merge +onlyGivenNames x
    | split
    | (clear_value x; split)

theorem State.writeLlrRsv_kept (s : State) (k : ℕ) (v : ℕ) : Kept s (State.writeLlrRsv s k v) := by
  have e : @State.writeLlrRsv = @State.writeLlrRsv := rfl
  conv at e => rhs; delta State.writeLlrRsv
  rw [e]; clear e
  dsimp -zeta -iota -proj -eta -zetaUnused -zetaHave -failIfUnchanged only
  repeat' first
    | with_reducible first | apply Kept.refl | apply Kept.via (State.raise_kept ..) | apply Kept.via (State.wr_kept ..)
    | simp -zeta -iota -proj -zetaUnused -zetaHave (disch := rfl) only [Kept.update_iff]
    | intro _
    | (extract_lets -underBinder -merge +onlyGivenNames x; refine Kept.step (b := x) ?_ ?_
       all_goals first | (intro _; clear_value x) | dsimp -zeta -iota -proj -zetaUnused -zetaHave only [x])
    | extract_lets -underBinder -merge +onlyGivenNames x
    | split
    | (clear_value x; split)

theorem State.limitThermal_kept (s : State) : Kept s (State.limitThermal s) := by
  unfold State.limitThermal
  repeat' with_reducible first | apply Kept.refl | apply Kept.via (State.wr_kept ..)

theorem State.limitAge_kept (s : State) : Kept s (State.limitAge s) := by
  unfold State.limitAge
  repeat' first
    | with_reducible first
      | apply Kept.refl | apply Kept.via (State.wr_kept ..) | apply Kept.via (State.ageWarn_kept ..)
      | apply Kept.via (Kept.foldl ?_ ..)
    | intro _

theorem State.limitBands_kept (s : State) : Kept s (State.limitBands s) := by
  unfold State.limitBands
  repeat' with_reducible first | apply Kept.refl | apply Kept.via (State.wr_kept ..)

theorem State.writeWedgeSymbols_kept (s : State) (n : ℕ) (h : ℕ) (v : ℕ) : Kept s (State.writeWedgeSymbols s n h v) := by
  unfold State.writeWedgeSymbols
  repeat' with_reducible first | apply Kept.refl | apply Kept.via (State.modSlot_kept ..) | apply Kept.via (State.wr_kept ..)

theorem State.writeTap_kept (s : State) (n : ℕ) (h : ℕ) (r : ℕ) (k : ℕ) (v : ℕ) : Kept s (State.writeTap s n h r k v) := by
  unfold State.writeTap
  repeat' with_reducible first | apply Kept.refl | apply Kept.via (State.modSlot_kept ..) | apply Kept.via (State.wr_kept ..)

theorem State.writeCohortEn_kept (s : State) (v : ℕ) : Kept s (State.writeCohortEn s v) := by
  unfold State.writeCohortEn
  repeat' first
    | with_reducible first | apply Kept.refl | apply Kept.via (State.wr_kept ..)
    | simp -zeta -iota -proj -zetaUnused -zetaHave (disch := rfl) only [Kept.update_iff]
    | split

theorem State.writeFreeze_kept (s : State) (v : ℕ) : Kept s (State.writeFreeze s v) := by
  unfold State.writeFreeze
  repeat' first
    | with_reducible first
      | apply Kept.refl | exact left_kept _ _ (execTallyFreeze_kept ..) | exact left_kept _ _ (execTallyUnfreeze_kept ..)
    | split

theorem State.writeWindowEn_kept (s : State) (k : Fin 4) (v : ℕ) : Kept s (State.writeWindowEn s k v) := by
  unfold State.writeWindowEn
  repeat' first
    | with_reducible first
      | apply Kept.refl | exact left_kept _ _ (execMcaWindowEnable_kept ..)
      | exact left_kept _ _ (execMcaWindowDisable_kept ..)
    | split

theorem State.writeRegionEn_kept (s : State) (k : ℕ) (v : ℕ) : Kept s (State.writeRegionEn s k v) := by
  unfold State.writeRegionEn
  repeat' first
    | with_reducible first
      | apply Kept.refl | apply Kept.via (State.disableRegion_kept ..) | apply Kept.via (State.enableRegion_kept ..)
    | split

theorem State.writeAssistTable_kept (s : State) (j : ℕ) (z : ℕ) (w : ℕ) : Kept s (State.writeAssistTable s j z w) := by
  unfold State.writeAssistTable
  repeat' with_reducible first | apply Kept.refl | apply Kept.via (State.firmwareWord_kept ..)

theorem State.writeAssistHead_kept (s : State) (j : ℕ) (w : ℕ) : Kept s (State.writeAssistHead s j w) := by
  unfold State.writeAssistHead
  repeat' with_reducible first | apply Kept.refl | apply Kept.via (State.firmwareWord_kept ..)

theorem State.plainWrite_kept (s : State) (f : Fld) (r : FldRow) (v : ℕ) : Kept s (State.plainWrite s f r v) := by
  unfold State.plainWrite
  repeat' first
    | with_reducible first | apply Kept.refl | apply Kept.via (State.wr_kept ..) | apply Kept.via (State.w1c_kept ..)
    | split

theorem State.writeGuards_kept : ∀ e ∈ State.writeGuards, ∀ i v s t, e.2 i v s = some t → Kept s t := by
  simp only [State.writeGuards, List.forall_mem_cons]
  repeat' first
    | refine And.intro ?_ ?_
    | exact fun _ h => absurd h List.not_mem_nil
    | (intro _ _ _ t h
       first
       | exact State.ignoreIf_kept _ _ t h
       | exact State.packLocked_kept _ _ t h
       | exact State.heldField_kept _ _ _ _ _ State.windowError_kept t h
       | exact State.heldField_kept _ _ _ _ _ State.lockError_kept t h
       | exact State.heldField_kept _ _ _ _ _ State.regionError_kept t h)

theorem State.hostHooks_kept : ∀ e ∈ State.hostHooks, ∀ i v w s, Kept s (e.2 i v w s) := by
  simp only [State.hostHooks, List.forall_mem_cons]
  repeat' first
    | refine And.intro ?_ ?_
    | exact fun _ h => absurd h List.not_mem_nil
    | intro _
    | with_reducible exact Kept.refl _
    | with_reducible apply Kept.via (State.softEvents_kept ..)
    | with_reducible apply Kept.via (State.railEnable_kept ..)
    | with_reducible apply Kept.via (State.replayGo_kept ..)
    | with_reducible apply Kept.via (State.consumeGo_kept ..)
    | with_reducible apply Kept.via (State.writeTagRsv_kept ..)
    | with_reducible apply Kept.via (State.writeQuota_kept ..)
    | with_reducible apply Kept.via (State.writeContexts_kept ..)
    | with_reducible apply Kept.via (State.writeWindowEn_kept ..)
    | with_reducible apply Kept.via (State.rangeGo_kept ..)
    | with_reducible apply Kept.via (State.zrWrite_kept ..)
    | with_reducible apply Kept.via (State.writeRegionEn_kept ..)
    | with_reducible apply Kept.via (State.markRegion_kept ..)
    | with_reducible apply Kept.via (State.sparGo_kept ..)
    | with_reducible apply Kept.via (State.diagGo_kept ..)
    | with_reducible apply Kept.via (State.freeLog_kept ..)
    | (with_reducible refine left_kept _ _ ?_)
    | with_reducible exact execDeviceReset_kept ..
    | with_reducible exact execActuatorReset_kept ..
    | with_reducible exact execActuatorFailDeclare_kept ..
    | with_reducible exact execMapResume_kept ..
    | with_reducible exact execMcCntClr_kept ..
    | with_reducible exact execMcaLockEnable_kept ..
    | with_reducible exact execMcaLockDisable_kept ..
    | with_reducible exact execLockLoad_kept ..
    | with_reducible exact execMcDiagGo_kept ..
    | with_reducible exact execZrRead_kept ..
    | with_reducible exact execPakCntClr_kept ..
    | with_reducible exact execDmcCntClr_kept ..
    | with_reducible exact execCeLogClr_kept ..
    | split
    | dsimp only

theorem State.driveHooks_kept : ∀ e ∈ State.driveHooks, ∀ i v w s, Kept s (e.2 i v w s) := by
  simp only [State.driveHooks, List.forall_mem_cons]
  repeat' first
    | refine And.intro ?_ ?_
    | exact fun _ h => absurd h List.not_mem_nil
    | intro _
    | with_reducible exact Kept.refl _
    | with_reducible apply Kept.via (State.writeWedgeSymbols_kept ..)
    | with_reducible apply Kept.via (State.writeTap_kept ..)
    | with_reducible apply Kept.via (State.wr_kept ..)
    | with_reducible apply Kept.via (State.writeLlrRsv_kept ..)
    | with_reducible apply Kept.via (State.swapReq_kept ..)
    | with_reducible apply Kept.via (State.mcRestart_kept ..)
    | with_reducible apply Kept.via (State.loadGo_kept ..)
    | with_reducible apply Kept.via (State.speedWritten_kept ..)
    | with_reducible apply Kept.via (State.clearForce_kept ..)
    | with_reducible apply Kept.via (State.storeGo_kept ..)
    | with_reducible apply Kept.via (State.tblAccess_kept ..)
    | with_reducible apply Kept.via (State.runStart_kept ..)
    | (with_reducible refine left_kept _ _ ?_)
    | with_reducible exact execChnCntClr_kept ..
    | with_reducible exact execAbxCntClr_kept ..
    | with_reducible exact execFsqCntClr_kept ..
    | with_reducible exact execPsiDGo_kept ..
    | with_reducible exact execWsqSrcWrite_kept ..
    | with_reducible exact execCoefApply_kept ..
    | with_reducible exact execSvCntClr_kept ..
    | with_reducible exact execLaneRetire_kept ..
    | with_reducible exact execLaneWarmStart_kept ..
    | with_reducible exact execTriadCntClr_kept ..
    | with_reducible exact execLaneBist_kept ..
    | with_reducible exact execAsdCntClr_kept ..
    | with_reducible exact execRunFinish_kept ..
    | with_reducible exact execRunCancel_kept ..
    | split
    | dsimp only

theorem State.faultHooks_kept : ∀ e ∈ State.faultHooks, ∀ i v w s, Kept s (e.2 i v w s) := by
  simp only [State.faultHooks, List.forall_mem_cons]
  repeat' first
    | refine And.intro ?_ ?_
    | exact fun _ h => absurd h List.not_mem_nil
    | intro _
    | with_reducible exact Kept.refl _
    | with_reducible apply Kept.via (State.popRecord_kept ..)
    | with_reducible apply Kept.via (State.clearAll_kept ..)
    | with_reducible apply Kept.via (State.releaseHolds_kept ..)
    | with_reducible apply Kept.via (State.writeFreeze_kept ..)
    | with_reducible apply Kept.via (State.tallyFlushStart_kept ..)
    | with_reducible apply Kept.via (State.setCalendar_kept ..)
    | with_reducible apply Kept.via (State.unown_kept ..)
    | with_reducible apply Kept.via (State.drainRequest_kept ..)
    | with_reducible apply Kept.via (State.activationGo_kept ..)
    | with_reducible apply Kept.via (State.activationRelease_kept ..)
    | with_reducible apply Kept.via (State.pertArm_kept ..)
    | with_reducible apply Kept.via (State.cohortId_kept ..)
    | with_reducible apply Kept.via (State.writeCohortEn_kept ..)
    | (with_reducible refine left_kept _ _ ?_)
    | with_reducible exact execFcuCntClr_kept ..
    | with_reducible exact execWdogMsWrite_kept ..
    | with_reducible exact execWdogEn_kept ..
    | with_reducible exact execWdogKick_kept ..
    | with_reducible exact execFwEvtGo_kept ..
    | split
    | dsimp only

theorem State.writeField_kept (base : Nat) (i : List Nat) (addr : Nat) (row : RegRow) (w m : Nat) (s : State) (r : FldRow) :
    Kept s (State.writeField base i addr row w m s r) := by
  unfold State.writeField
  split
  · exact Kept.refl s
  · extract_lets v f same taken
    have ht : ∀ t, taken = some t → Kept s t := by
      intro t h
      simp only [taken] at h
      split at h
      · rename_i e he
        exact State.writeGuards_kept e (List.mem_of_find?_eq_some he) _ _ _ _ h
      · cases h
    clear_value taken
    split
    · exact ht _ rfl
    · split
      · rename_i e he
        have hm := List.mem_of_find?_eq_some he
        simp only [List.mem_append] at hm
        obtain (hm | hm) | hm := hm
        · exact State.hostHooks_kept e hm _ _ _ _
        · exact State.driveHooks_kept e hm _ _ _ _
        · exact State.faultHooks_kept e hm _ _ _ _
      · exact State.plainWrite_kept ..

theorem State.afterWrite_kept : ∀ e ∈ State.afterWrite, ∀ s, Kept s (e.2 s) := by
  simp only [State.afterWrite, List.forall_mem_cons]
  repeat' first
    | refine And.intro ?_ ?_
    | exact fun _ h => absurd h List.not_mem_nil
    | intro _
    | with_reducible exact Kept.refl _
    | with_reducible apply Kept.via (State.limitThermal_kept ..)
    | with_reducible apply Kept.via (State.limitAge_kept ..)
    | with_reducible apply Kept.via (State.limitBands_kept ..)
    | with_reducible apply Kept.via (State.retarget_kept ..)
    | split
    | dsimp only

theorem State.wordHooks_kept : ∀ e ∈ State.wordHooks, ∀ i w s, Kept s (e.2 i w s) := by
  simp only [State.wordHooks, List.forall_mem_cons]
  repeat' first
    | refine And.intro ?_ ?_
    | exact fun _ h => absurd h List.not_mem_nil
    | intro _
    | with_reducible exact Kept.refl _
    | with_reducible apply Kept.via (State.writeAssistTable_kept ..)
    | with_reducible apply Kept.via (State.writeAssistHead_kept ..)
    | split
    | dsimp only

theorem State.regWrite_kept (s : State) (addr v m : Nat) : Kept s (State.regWrite s addr v m) := by
  unfold State.regWrite
  split
  · exact Kept.refl s
  · split
    · rename_i e he
      exact State.wordHooks_kept e (List.mem_of_find?_eq_some he) _ _ _
    · split
      · rename_i e he
        exact Kept.trans (Kept.foldl (fun _ _ => State.writeField_kept ..) _ _) (State.afterWrite_kept e (List.mem_of_find?_eq_some he) _)
      · exact Kept.foldl (fun _ _ => State.writeField_kept ..) _ _

theorem State.fieldWrite_kept (s : State) (f : Fld) (v : ℕ) : Kept s (State.fieldWrite s f v) := by
  unfold State.fieldWrite
  repeat' with_reducible first | apply Kept.refl | apply Kept.via (State.regWrite_kept ..)

theorem State.oneWrite_kept (s : State) (x : RegAccess) : Kept s (State.oneWrite s x) := by
  have e : @State.oneWrite = @State.oneWrite := rfl
  conv at e => rhs; delta State.oneWrite
  rw [e]; clear e
  dsimp -zeta -iota -proj -eta -zetaUnused -zetaHave -failIfUnchanged only
  repeat' first
    | with_reducible first
      | apply Kept.refl | apply Kept.via (State.regWrite_kept ..) | apply Kept.via (State.emit_kept ..)
    | simp -zeta -iota -proj -zetaUnused -zetaHave (disch := rfl) only [Kept.update_iff]
    | intro _
    | (extract_lets -underBinder -merge +onlyGivenNames x; refine Kept.step (b := x) ?_ ?_
       all_goals first | (intro _; clear_value x) | dsimp -zeta -iota -proj -zetaUnused -zetaHave only [x])
    | extract_lets -underBinder -merge +onlyGivenNames x
    | split
    | (clear_value x; split)

theorem State.memoryWrite_kept (s : State) (x : RegAccess) : Kept s (State.memoryWrite s x) := by
  have e : @State.memoryWrite = @State.memoryWrite := rfl
  conv at e => rhs; delta State.memoryWrite
  rw [e]; clear e
  dsimp -zeta -iota -proj -eta -zetaUnused -zetaHave -failIfUnchanged only
  repeat' first
    | with_reducible first
      | apply Kept.refl | apply Kept.via (State.loadBytes_kept ..) | apply Kept.via (State.grantDram_kept ..)
      | apply Kept.via (State.emit_kept ..)
    | simp -zeta -iota -proj -zetaUnused -zetaHave (disch := rfl) only [Kept.update_iff]
    | intro _
    | (extract_lets -underBinder -merge +onlyGivenNames x; refine Kept.step (b := x) ?_ ?_
       all_goals first | (intro _; clear_value x) | dsimp -zeta -iota -proj -zetaUnused -zetaHave only [x])
    | extract_lets -underBinder -merge +onlyGivenNames x
    | split
    | (clear_value x; split)

theorem State.cycleWrites_kept (s : State) (l : List RegAccess) : Kept s (State.cycleWrites s l) := by
  unfold State.cycleWrites
  repeat' first
    | with_reducible first
      | apply Kept.refl | apply Kept.via (State.wr_kept ..) | apply Kept.via (State.oneWrite_kept ..)
      | apply Kept.via (State.memoryWrite_kept ..) | apply Kept.via (Kept.foldl ?_ ..)
    | intro _

theorem execRegisterWrite_kept (writes : List RegAccess) (s : State) : KeptBy s (execRegisterWrite writes s) := by
  unfold execRegisterWrite
  refine KeptBy.next ?_
  repeat' with_reducible first | apply Kept.refl | apply Kept.via (State.cycleWrites_kept ..)

end Sys2Proof.Machine
end

