-- ==== Sys2Proof/Laws/KeepsAttest.lean ====
section
/-!
SUPPORT. Laws/KeepsAttest.lean: each operation and command of Machine/Attest.lean keeps what every operation keeps (`Kept`).
-/
namespace Sys2Proof.Machine

theorem State.mctp_kept (s : State) (p : ℕ) (f : State → State) (h_f : ∀ a0, Kept a0 (f a0)) : Kept s (State.mctp s p f) := by
  unfold State.mctp
  repeat' first
    | with_reducible first | apply Kept.refl | apply Kept.via (h_f ..)
    | split

theorem State.setEid_kept (s : State) (p : ℕ) (e : ℕ) : Kept s (State.setEid s p e) := by
  unfold State.setEid
  repeat' first
    | with_reducible first | apply Kept.refl | apply Kept.via (State.emit_kept ..)
    | simp -zeta -iota -proj -zetaUnused -zetaHave (disch := rfl) only [Kept.update_iff]
    | split

theorem State.takeDynamic_kept (s : State) (a : ℕ) : Kept s (State.takeDynamic s a) := by
  unfold State.takeDynamic
  repeat' first
    | with_reducible first | apply Kept.refl | apply Kept.via (State.wr_kept ..)
    | split

theorem State.modSpdm_kept (s : State) (p : ℕ) (f : SpdmConn → SpdmConn) : Kept s (State.modSpdm s p f) := by
  unfold State.modSpdm
  repeat' first
    | with_reducible first | apply Kept.refl
    | simp -zeta -iota -proj -zetaUnused -zetaHave (disch := rfl) only [Kept.update_iff]

theorem State.spdmSend_kept (s : State) (p : ℕ) (r : SpdmResp) : Kept s (State.spdmSend s p r) := by
  have e : @State.spdmSend = @State.spdmSend := rfl
  conv at e => rhs; delta State.spdmSend
  rw [e]; clear e
  dsimp -zeta -iota -proj -eta -zetaUnused -zetaHave -failIfUnchanged only
  repeat' first
    | with_reducible first
      | apply Kept.refl | apply Kept.via (State.emit_kept ..) | apply Kept.via (State.modSpdm_kept ..)
    | simp -zeta -iota -proj -zetaUnused -zetaHave (disch := rfl) only [Kept.update_iff]
    | intro _
    | (extract_lets -underBinder -merge +onlyGivenNames x; refine Kept.step (b := x) ?_ ?_
       all_goals first | (intro _; clear_value x) | dsimp -zeta -iota -proj -zetaUnused -zetaHave only [x])
    | extract_lets -underBinder -merge +onlyGivenNames x
    | split
    | (clear_value x; split)

theorem State.signature_kept (s : State) (slot : ℕ) : Kept s (State.signature s slot).2 := by
  unfold State.signature
  repeat' with_reducible first | apply Kept.refl | apply Kept.via (State.free_kept ..)

theorem State.challengeAuth_kept (s : State) (p : ℕ) (slot : ℕ) : Kept s (State.challengeAuth s p slot) := by
  unfold State.challengeAuth
  repeat' first
    | with_reducible first
      | apply Kept.refl | apply Kept.via (State.emit_kept ..) | apply Kept.via (State.free_kept ..)
      | apply Kept.via (State.signature_kept ..) | apply Kept.via (State.spdmSend_kept ..)
    | split

theorem State.measurementsOf_kept (s : State) (p : ℕ) (i : ℕ) (signed : Bool) (slot : ℕ) :
    Kept s (State.measurementsOf s p i signed slot) := by
  unfold State.measurementsOf
  repeat' first
    | with_reducible first
      | apply Kept.refl | apply Kept.via (State.emit_kept ..) | apply Kept.via (State.free_kept ..)
      | apply Kept.via (State.signature_kept ..) | apply Kept.via (State.spdmSend_kept ..)
    | split

theorem State.signNow_kept (s : State) (p : ℕ) (q : SpdmReq) : Kept s (State.signNow s p q) := by
  unfold State.signNow
  repeat' first
    | with_reducible first
      | apply Kept.refl | apply Kept.via (State.challengeAuth_kept ..) | apply Kept.via (State.measurementsOf_kept ..)
    | split

theorem State.signGranted_kept (s : State) (p : ℕ) (q : SpdmReq) : Kept s (State.signGranted s p q) := by
  unfold State.signGranted
  repeat' first
    | with_reducible first | apply Kept.refl | apply Kept.via (State.signNow_kept ..)
    | simp -zeta -iota -proj -zetaUnused -zetaHave (disch := rfl) only [Kept.update_iff]
    | split

theorem State.spdmCapabilities_kept (s : State) (p : ℕ) (v : ℕ) (transfer : ℕ) :
    Kept s (State.spdmCapabilities s p v transfer) := by
  have e : @State.spdmCapabilities = @State.spdmCapabilities := rfl
  conv at e => rhs; delta State.spdmCapabilities
  rw [e]; clear e
  dsimp -zeta -iota -proj -eta -zetaUnused -zetaHave -failIfUnchanged only
  repeat' first
    | with_reducible first
      | apply Kept.refl | apply Kept.via (State.emit_kept ..) | apply Kept.via (State.spdmSend_kept ..)
      | apply Kept.via (State.modSpdm_kept ..)
    | simp -zeta -iota -proj -zetaUnused -zetaHave (disch := rfl) only [Kept.update_iff]
    | intro _
    | (extract_lets -underBinder -merge +onlyGivenNames x; refine Kept.step (b := x) ?_ ?_
       all_goals first | (intro _; clear_value x) | dsimp -zeta -iota -proj -zetaUnused -zetaHave only [x])
    | extract_lets -underBinder -merge +onlyGivenNames x
    | split
    | (clear_value x; split)

theorem State.spdmNegotiate_kept (s : State) (p : ℕ) (asym : Bool) (hash : Bool) :
    Kept s (State.spdmNegotiate s p asym hash) := by
  have e : @State.spdmNegotiate = @State.spdmNegotiate := rfl
  conv at e => rhs; delta State.spdmNegotiate
  rw [e]; clear e
  dsimp -zeta -iota -proj -eta -zetaUnused -zetaHave -failIfUnchanged only
  repeat' first
    | with_reducible first
      | apply Kept.refl | apply Kept.via (State.emit_kept ..) | apply Kept.via (State.spdmSend_kept ..)
      | apply Kept.via (State.modSpdm_kept ..)
    | simp -zeta -iota -proj -zetaUnused -zetaHave (disch := rfl) only [Kept.update_iff]
    | intro _
    | (extract_lets -underBinder -merge +onlyGivenNames x; refine Kept.step (b := x) ?_ ?_
       all_goals first | (intro _; clear_value x) | dsimp -zeta -iota -proj -zetaUnused -zetaHave only [x])
    | extract_lets -underBinder -merge +onlyGivenNames x
    | split
    | (clear_value x; split)

theorem State.spdmDigests_kept (s : State) (p : ℕ) : Kept s (State.spdmDigests s p) := by
  unfold State.spdmDigests
  repeat' with_reducible first | apply Kept.refl | apply Kept.via (State.spdmSend_kept ..)

theorem State.spdmCertificate_kept (s : State) (p : ℕ) (slot : ℕ) (off : ℕ) (len : ℕ) :
    Kept s (State.spdmCertificate s p slot off len) := by
  unfold State.spdmCertificate
  repeat' first
    | with_reducible first
      | apply Kept.refl | apply Kept.via (State.emit_kept ..) | apply Kept.via (State.spdmSend_kept ..)
    | split

theorem State.spdmLate_kept (s : State) (p : ℕ) (f : State → State) (h_f : ∀ a0, Kept a0 (f a0)) :
    Kept s (State.spdmLate s p f) := by
  unfold State.spdmLate
  repeat' first
    | with_reducible first | apply Kept.refl | apply Kept.via (State.emit_kept ..) | apply Kept.via (h_f ..)
    | split

theorem State.spdmServe_kept (s : State) (p : ℕ) (q : SpdmReq) : Kept s (State.spdmServe s p q) := by
  unfold State.spdmServe
  repeat' first
    | with_reducible first
      | apply Kept.refl | apply Kept.via (State.emit_kept ..) | apply Kept.via (State.modSpdm_kept ..)
      | apply Kept.via (State.spdmCapabilities_kept ..) | apply Kept.via (State.spdmNegotiate_kept ..)
      | apply Kept.via (State.spdmLate_kept (h_f := ?_) ..) | apply Kept.via (State.spdmDigests_kept ..)
      | apply Kept.via (State.spdmCertificate_kept ..) | apply Kept.via (State.measurementsOf_kept ..)
    | simp -zeta -iota -proj -zetaUnused -zetaHave (disch := rfl) only [Kept.update_iff]
    | intro _
    | split

theorem State.spdmCycle_kept (s : State) (l : List (ℕ × SpdmReq)) : Kept s (State.spdmCycle s l) := by
  unfold State.spdmCycle
  repeat' first
    | with_reducible first
      | apply Kept.refl | apply Kept.via (State.spdmServe_kept ..) | apply Kept.via (State.wr_kept ..)
      | apply Kept.via (State.signGranted_kept ..) | apply Kept.via (Kept.foldl ?_ ..)
    | intro _

theorem State.spdmOne_kept (s : State) (p : ℕ) (q : SpdmReq) : Kept s (State.spdmOne s p q) := by
  unfold State.spdmOne
  repeat' with_reducible first | apply Kept.refl | apply Kept.via (State.spdmCycle_kept ..)

theorem State.serveSigning_kept (s : State) : Kept s (State.serveSigning s) := by
  unfold State.serveSigning
  repeat' first
    | with_reducible first
      | apply Kept.refl | apply Kept.via (State.signGranted_kept ..) | apply Kept.via (Kept.foldl ?_ ..)
    | simp -zeta -iota -proj -zetaUnused -zetaHave (disch := rfl) only [Kept.update_iff]
    | intro _

theorem State.chunkSend_kept (s : State) (p : ℕ) (handle : ℕ) (chunk : ℕ) (size : ℕ) (total : ℕ) (last : Bool) (q : SpdmReq) :
    Kept s (State.chunkSend s p handle chunk size total last q) := by
  have e : @State.chunkSend = @State.chunkSend := rfl
  conv at e => rhs; delta State.chunkSend
  rw [e]; clear e
  dsimp -zeta -iota -proj -eta -zetaUnused -zetaHave -failIfUnchanged only
  repeat' first
    | with_reducible first
      | apply Kept.refl | assumption | apply Kept.via (State.modSpdm_kept ..) | apply Kept.via (State.emit_kept ..)
      | apply Kept.via (State.spdmOne_kept ..)
    | simp -zeta -iota -proj -zetaUnused -zetaHave (disch := rfl) only [Kept.update_iff]
    | intro _
    | (extract_lets -underBinder -merge +onlyGivenNames x; refine Kept.step (b := x) ?_ ?_
       all_goals first | (intro _; clear_value x) | dsimp -zeta -iota -proj -zetaUnused -zetaHave only [x])
    | extract_lets -underBinder -merge +onlyGivenNames x
    | split
    | (clear_value x; split)

theorem State.chunkGet_kept (s : State) (p : ℕ) (handle : ℕ) (chunk : ℕ) : Kept s (State.chunkGet s p handle chunk) := by
  have e : @State.chunkGet = @State.chunkGet := rfl
  conv at e => rhs; delta State.chunkGet
  rw [e]; clear e
  dsimp -zeta -iota -proj -eta -zetaUnused -zetaHave -failIfUnchanged only
  repeat' first
    | with_reducible first
      | apply Kept.refl | apply Kept.via (State.emit_kept ..) | apply Kept.via (State.modSpdm_kept ..)
    | simp -zeta -iota -proj -zetaUnused -zetaHave (disch := rfl) only [Kept.update_iff]
    | intro _
    | (extract_lets -underBinder -merge +onlyGivenNames x; refine Kept.step (b := x) ?_ ?_
       all_goals first | (intro _; clear_value x) | dsimp -zeta -iota -proj -zetaUnused -zetaHave only [x])
    | extract_lets -underBinder -merge +onlyGivenNames x
    | split
    | (clear_value x; split)

theorem execDevidKeyReady_kept (s : State) : KeptBy s (execDevidKeyReady s) := by
  unfold execDevidKeyReady
  refine KeptBy.next ?_
  repeat' first
    | with_reducible first
      | apply Kept.refl | apply Kept.via (State.serveSigning_kept ..) | apply Kept.via (State.devidReady_kept ..)
    | split

theorem execAliasKeyReady_kept (s : State) : KeptBy s (execAliasKeyReady s) := by
  unfold execAliasKeyReady
  refine KeptBy.next ?_
  repeat' first
    | with_reducible first
      | apply Kept.refl | apply Kept.via (State.serveSigning_kept ..) | apply Kept.via (State.wr_kept ..)
    | split

theorem execSetEndpointId_kept (pos : Fin 5) (eid : BitVec 8) (s : State) : KeptBy s (execSetEndpointId pos eid s) := by
  unfold execSetEndpointId
  refine KeptBy.next ?_
  repeat' first
    | with_reducible first
      | apply Kept.refl | apply Kept.via (State.mctp_kept (h_f := ?_) ..) | apply Kept.via (State.setEid_kept ..)
    | simp -zeta -iota -proj -zetaUnused -zetaHave (disch := rfl) only [Kept.update_iff]
    | intro _

theorem execGetEndpointId_kept (pos : Fin 5) (s : State) : KeptBy s (execGetEndpointId pos s) := by
  unfold execGetEndpointId
  refine KeptBy.next ?_
  repeat' first
    | with_reducible first
      | apply Kept.refl | apply Kept.via (State.mctp_kept (h_f := ?_) ..) | apply Kept.via (State.emit_kept ..)
    | simp -zeta -iota -proj -zetaUnused -zetaHave (disch := rfl) only [Kept.update_iff]
    | intro _

theorem execGetMctpVersionSupport_kept (pos : Fin 5) (type : BitVec 8) (s : State) :
    KeptBy s (execGetMctpVersionSupport pos type s) := by
  unfold execGetMctpVersionSupport
  refine KeptBy.next ?_
  repeat' first
    | with_reducible first
      | apply Kept.refl | apply Kept.via (State.mctp_kept (h_f := ?_) ..) | apply Kept.via (State.free_kept ..)
      | apply Kept.via (State.emit_kept ..)
    | simp -zeta -iota -proj -zetaUnused -zetaHave (disch := rfl) only [Kept.update_iff]
    | intro _
    | split

theorem execGetMessageTypeSupport_kept (pos : Fin 5) (s : State) : KeptBy s (execGetMessageTypeSupport pos s) := by
  unfold execGetMessageTypeSupport
  refine KeptBy.next ?_
  repeat' first
    | with_reducible first
      | apply Kept.refl | apply Kept.via (State.mctp_kept (h_f := ?_) ..) | apply Kept.via (State.emit_kept ..)
    | simp -zeta -iota -proj -zetaUnused -zetaHave (disch := rfl) only [Kept.update_iff]
    | intro _

theorem execGetVendorDefinedMsgSupport_kept (pos : Fin 5) (selector : BitVec 8) (s : State) :
    KeptBy s (execGetVendorDefinedMsgSupport pos selector s) := by
  unfold execGetVendorDefinedMsgSupport
  refine KeptBy.next ?_
  repeat' first
    | with_reducible first
      | apply Kept.refl | apply Kept.via (State.mctp_kept (h_f := ?_) ..) | apply Kept.via (State.emit_kept ..)
    | simp -zeta -iota -proj -zetaUnused -zetaHave (disch := rfl) only [Kept.update_iff]
    | intro _
    | split

theorem execEntdaa_kept (addr : BitVec 7) (s : State) : KeptBy s (execEntdaa addr s) := by
  unfold execEntdaa
  refine KeptBy.next ?_
  repeat' first
    | with_reducible first
      | apply Kept.refl | apply Kept.via (State.takeDynamic_kept ..) | apply Kept.via (State.emit_kept ..)
    | split

theorem execSetdasa_kept (static : BitVec 7) (addr : BitVec 7) (s : State) : KeptBy s (execSetdasa static addr s) := by
  unfold execSetdasa
  refine KeptBy.next ?_
  repeat' first
    | with_reducible first | apply Kept.refl | apply Kept.via (State.takeDynamic_kept ..)
    | split

theorem execI3cDynamicAddressLoss_kept (s : State) : KeptBy s (execI3cDynamicAddressLoss s) := by
  unfold execI3cDynamicAddressLoss
  refine KeptBy.next ?_
  repeat' with_reducible first
    | apply Kept.refl | apply Kept.via (State.transportLost_kept ..) | apply Kept.via (State.wr_kept ..)

theorem execGetVersion_kept (pos : Fin 5) (s : State) : KeptBy s (execGetVersion pos s) := by
  unfold execGetVersion
  refine KeptBy.next ?_
  repeat' with_reducible first | apply Kept.refl | apply Kept.via (State.spdmOne_kept ..)

theorem execGetCapabilities_kept (pos : Fin 5) (version : BitVec 8) (transfer : BitVec 32) (s : State) :
    KeptBy s (execGetCapabilities pos version transfer s) := by
  unfold execGetCapabilities
  refine KeptBy.next ?_
  repeat' with_reducible first | apply Kept.refl | apply Kept.via (State.spdmOne_kept ..)

theorem execNegotiateAlgorithms_kept (pos : Fin 5) (asym : Bool) (hash : Bool) (s : State) :
    KeptBy s (execNegotiateAlgorithms pos asym hash s) := by
  unfold execNegotiateAlgorithms
  refine KeptBy.next ?_
  repeat' with_reducible first | apply Kept.refl | apply Kept.via (State.spdmOne_kept ..)

theorem execGetDigests_kept (pos : Fin 5) (s : State) : KeptBy s (execGetDigests pos s) := by
  unfold execGetDigests
  refine KeptBy.next ?_
  repeat' with_reducible first | apply Kept.refl | apply Kept.via (State.spdmOne_kept ..)

theorem execGetCertificate_kept (pos : Fin 5) (slot : BitVec 4) (offset : BitVec 16) (len : BitVec 16) (s : State) :
    KeptBy s (execGetCertificate pos slot offset len s) := by
  unfold execGetCertificate
  refine KeptBy.next ?_
  repeat' with_reducible first | apply Kept.refl | apply Kept.via (State.spdmOne_kept ..)

theorem execChallenge_kept (pos : Fin 5) (slot : BitVec 4) (tied : List (Fin 5 × SpdmReq)) (s : State) :
    KeptBy s (execChallenge pos slot tied s) := by
  unfold execChallenge
  refine KeptBy.next ?_
  repeat' with_reducible first | apply Kept.refl | apply Kept.via (State.spdmCycle_kept ..)

theorem execGetMeasurements_kept (pos : Fin 5) (index : BitVec 8) (signed : Bool) (slot : BitVec 4) (tied : List (Fin 5 × SpdmReq)) (s : State) :
    KeptBy s (execGetMeasurements pos index signed slot tied s) := by
  unfold execGetMeasurements
  refine KeptBy.next ?_
  repeat' with_reducible first | apply Kept.refl | apply Kept.via (State.spdmCycle_kept ..)

theorem execChunkSend_kept (pos : Fin 5) (handle : BitVec 8) (chunk : BitVec 16) (size : BitVec 32) (total : BitVec 32) (last : Bool) (req : SpdmReq) (s : State) :
    KeptBy s (execChunkSend pos handle chunk size total last req s) := by
  unfold execChunkSend
  refine KeptBy.next ?_
  repeat' first
    | with_reducible first
      | apply Kept.refl | apply Kept.via (State.mctp_kept (h_f := ?_) ..) | apply Kept.via (State.chunkSend_kept ..)
    | simp -zeta -iota -proj -zetaUnused -zetaHave (disch := rfl) only [Kept.update_iff]
    | intro _

theorem execChunkGet_kept (pos : Fin 5) (handle : BitVec 8) (chunk : BitVec 16) (s : State) :
    KeptBy s (execChunkGet pos handle chunk s) := by
  unfold execChunkGet
  refine KeptBy.next ?_
  repeat' first
    | with_reducible first
      | apply Kept.refl | apply Kept.via (State.mctp_kept (h_f := ?_) ..) | apply Kept.via (State.chunkGet_kept ..)
    | simp -zeta -iota -proj -zetaUnused -zetaHave (disch := rfl) only [Kept.update_iff]
    | intro _

theorem execSpdmUnsupportedRequest_kept (pos : Fin 5) (code : BitVec 8) (s : State) :
    KeptBy s (execSpdmUnsupportedRequest pos code s) := by
  unfold execSpdmUnsupportedRequest
  refine KeptBy.next ?_
  repeat' with_reducible first | apply Kept.refl | apply Kept.via (State.spdmOne_kept ..)

end Sys2Proof.Machine
end

