-- ==== Sys2Proof/Laws/KeepsDamot.lean ====
section
/-!
SUPPORT. Laws/KeepsDamot.lean: each operation and command of Machine/Damot.lean keeps what every operation keeps (`Kept`).
-/
namespace Sys2Proof.Machine

theorem State.respond_kept (s : State) (q : DamotReq) (r : DamotResp) : Kept s (State.respond s q r) := by
  have e : @State.respond = @State.respond := rfl
  conv at e => rhs; delta State.respond
  rw [e]; clear e
  dsimp -zeta -iota -proj -eta -zetaUnused -zetaHave -failIfUnchanged only
  repeat' first
    | with_reducible first | apply Kept.refl | apply Kept.via (State.emit_kept ..)
    | simp -zeta -iota -proj -zetaUnused -zetaHave (disch := rfl) only [Kept.update_iff]
    | intro _
    | (extract_lets -underBinder -merge +onlyGivenNames x; refine Kept.step (b := x) ?_ ?_
       all_goals first | (intro _; clear_value x) | dsimp -zeta -iota -proj -zetaUnused -zetaHave only [x])
    | extract_lets -underBinder -merge +onlyGivenNames x
    | split
    | (clear_value x; split)

theorem State.reply_kept (s : State) (q : DamotReq) (status : ℕ) (len : ℕ) (payload : ℕ) :
    Kept s (State.reply s q status len payload) := by
  unfold State.reply
  repeat' with_reducible first
    | apply Kept.refl | apply Kept.via (State.free_kept ..) | apply Kept.via (State.respond_kept ..)

theorem State.replyObject_kept (s : State) (q : DamotReq) (r : ObjRow) (total : ℕ) (status : ℕ) (len : ℕ) (payload : ℕ) :
    Kept s (State.replyObject s q r total status len payload) := by
  unfold State.replyObject
  repeat' with_reducible first | apply Kept.refl | apply Kept.via (State.respond_kept ..)

theorem State.restartLease_kept (s : State) : Kept s (State.restartLease s) := by
  unfold State.restartLease
  repeat' first
    | with_reducible first | apply Kept.refl | apply Kept.via (State.wr_kept ..)
    | simp -zeta -iota -proj -zetaUnused -zetaHave (disch := rfl) only [Kept.update_iff]

theorem State.takeOwner_kept (s : State) (pos : ℕ) (addr : ℕ) : Kept s (State.takeOwner s pos addr) := by
  unfold State.takeOwner
  repeat' with_reducible first
    | apply Kept.refl | apply Kept.via (State.wr_kept ..) | apply Kept.via (State.raise_kept ..)
    | apply Kept.via (State.restartLease_kept ..)

theorem State.leaseTick_kept (s : State) : Kept s (State.leaseTick s) := by
  unfold State.leaseTick
  repeat' first
    | with_reducible first | apply Kept.refl | apply Kept.via (State.wr_kept ..)
    | simp -zeta -iota -proj -zetaUnused -zetaHave (disch := rfl) only [Kept.update_iff]
    | split

theorem State.checkToken_kept (s : State) (q : DamotReq) (op : ℕ) (t : ℕ) (digest : ℕ) :
    Kept s (State.checkToken s q op t digest).1 := by
  have e : @State.checkToken = @State.checkToken := rfl
  conv at e => rhs; delta State.checkToken
  rw [e]; clear e
  dsimp -zeta -iota -proj -eta -zetaUnused -zetaHave -failIfUnchanged only
  repeat' first
    | with_reducible first
      | apply Kept.refl | assumption | apply Kept.via (State.raise_kept ..) | apply Kept.via (State.count_kept ..)
    | simp -zeta -iota -proj -zetaUnused -zetaHave (disch := rfl) only [Kept.update_iff]
    | intro _
    | (extract_lets -underBinder -merge +onlyGivenNames x; refine Kept.step (b := x) ?_ ?_
       all_goals first | (intro _; clear_value x) | dsimp -zeta -iota -proj -zetaUnused -zetaHave only [x])
    | extract_lets -underBinder -merge +onlyGivenNames x
    | split
    | (clear_value x; split)

theorem State.applyEntries_kept (s : State) (l : List ListEntry) : Kept s (State.applyEntries s l) := by
  unfold State.applyEntries
  repeat' first
    | with_reducible first
      | apply Kept.refl | apply Kept.via (State.setDirty_kept ..) | apply Kept.via (State.queueValue_kept ..)
      | apply Kept.via (Kept.foldl ?_ ..)
    | intro _

theorem State.requestBurn_kept (s : State) (b : FuseBurn) : Kept s (State.requestBurn s b).1 := by
  unfold State.requestBurn
  split
  · exact Kept.refl s
  · split
    · exact Kept.refl s
    · rename_i h
      refine ⟨rfl, rfl, fun _ => ⟨?_, .refl _⟩, id, id, id, List.suffix_refl _, Nat.le_refl _⟩
      simp only [Bool.or_eq_true, Bool.not_eq_true', not_or, Bool.not_eq_false] at h
      have hb := h.2
      cases b <;> simp only [BurnOk]
      · simp only [State.mayBurn, State.mayRaise, Bool.and_eq_true, decide_eq_true_eq] at hb
        exact hb.1
      · simp only [State.mayBurn, State.mayRaise, Bool.and_eq_true, decide_eq_true_eq] at hb
        exact hb.1

theorem State.stageImage_kept (s : State) (ep : ℕ) (n : ℕ) (v : ℕ) : Kept s (State.stageImage s ep n v) := by
  unfold State.stageImage
  repeat' first
    | with_reducible first | apply Kept.refl | apply Kept.via (State.stage_kept ..)
    | simp -zeta -iota -proj -zetaUnused -zetaHave (disch := rfl) only [Kept.update_iff]

theorem State.damotCommit_kept (s : State) (k : ℕ) : Kept s (State.damotCommit s k).1 := by
  have e : @State.damotCommit = @State.damotCommit := rfl
  conv at e => rhs; delta State.damotCommit
  rw [e]; clear e
  dsimp -zeta -iota -proj -eta -zetaUnused -zetaHave -failIfUnchanged only
  repeat' first
    | with_reducible first
      | apply Kept.refl | assumption | apply Kept.via (State.raise_kept ..)
      | refine Kept.via_fst (State.startCommit_kept ..) ‹_› ?_ | apply Kept.via (State.startCommit_kept ..)
    | simp -zeta -iota -proj -zetaUnused -zetaHave (disch := rfl) only [Kept.update_iff]
    | intro _
    | (extract_lets -underBinder -merge +onlyGivenNames x; refine Kept.step (b := x) ?_ ?_
       all_goals first | (intro _; clear_value x) | dsimp -zeta -iota -proj -zetaUnused -zetaHave only [x])
    | extract_lets -underBinder -merge +onlyGivenNames x
    | split
    | (clear_value x; split)
    | dsimp only

theorem State.recoveryBoot_kept (s : State) : Kept s (State.recoveryBoot s).1 := by
  have e : @State.recoveryBoot = @State.recoveryBoot := rfl
  conv at e => rhs; delta State.recoveryBoot
  rw [e]; clear e
  dsimp -zeta -iota -proj -eta -zetaUnused -zetaHave -failIfUnchanged only
  repeat' first
    | with_reducible first
      | apply Kept.refl | assumption | apply Kept.via (State.loadBytes_kept ..) | apply Kept.via (State.wr_kept ..)
    | simp -zeta -iota -proj -zetaUnused -zetaHave (disch := rfl) only [Kept.update_iff]
    | intro _
    | (extract_lets -underBinder -merge +onlyGivenNames x; refine Kept.step (b := x) ?_ ?_
       all_goals first | (intro _; clear_value x) | dsimp -zeta -iota -proj -zetaUnused -zetaHave only [x])
    | extract_lets -underBinder -merge +onlyGivenNames x
    | split
    | (clear_value x; split)

theorem State.debugUnlock_kept (s : State) : Kept s (State.debugUnlock s) := by
  have e : @State.debugUnlock = @State.debugUnlock := rfl
  conv at e => rhs; delta State.debugUnlock
  rw [e]; clear e
  dsimp -zeta -iota -proj -eta -zetaUnused -zetaHave -failIfUnchanged only
  repeat' first
    | with_reducible first
      | apply Kept.refl | assumption | apply Kept.via (State.raise_kept ..) | apply Kept.via (State.wr_kept ..)
      | apply Kept.via (State.detect_kept ..)
    | simp -zeta -iota -proj -zetaUnused -zetaHave (disch := rfl) only [Kept.update_iff]
    | intro _
    | (extract_lets -underBinder -merge +onlyGivenNames x; refine Kept.step (b := x) ?_ ?_
       all_goals first | (intro _; clear_value x) | dsimp -zeta -iota -proj -zetaUnused -zetaHave only [x])
    | extract_lets -underBinder -merge +onlyGivenNames x
    | split
    | (clear_value x; split)

theorem State.setTaken_kept (s : State) : Kept s (State.setTaken s).1 := by
  unfold State.setTaken
  exact Kept.refl _

theorem State.writeSpecial_kept (s : State) (k : Special) (a : ℕ) (b : ℕ) (v : ℕ) (n : ℕ) :
    Kept s (State.writeSpecial s k a b v n).1 := by
  unfold State.writeSpecial
  repeat' first
    | with_reducible first
      | apply Kept.refl | apply Kept.via (State.setTaken_kept ..) | exact left_kept _ _ (execActuatorFailDeclare_kept ..)
      | apply Kept.via (State.regWrite_kept ..) | apply Kept.via (State.storeGo_kept ..)
      | apply Kept.via (State.applyEntries_kept ..) | apply Kept.via (State.setDirty_kept ..)
      | exact left_kept _ _ (execTallyClear_kept ..) | apply Kept.via (State.tallyFlushStart_kept ..)
      | apply Kept.via (State.setCalendar_kept ..) | apply Kept.via (State.requestBurn_kept ..)
      | apply Kept.via (State.writeBootRecord_kept ..) | apply Kept.via (State.stageImage_kept ..)
      | apply Kept.via (State.damotCommit_kept ..) | apply Kept.via (State.recoveryBoot_kept ..)
      | apply Kept.via (State.debugUnlock_kept ..)
    | (exact State.requestBurn_kept ..)
    | (exact State.damotCommit_kept ..)
    | simp -zeta -iota -proj -zetaUnused -zetaHave (disch := rfl) only [Kept.update_iff]
    | split

theorem State.writeObject_kept (s : State) (r : ObjRow) (a : ℕ) (b : ℕ) (v : ℕ) (n : ℕ) :
    Kept s (State.writeObject s r a b v n).1 := by
  have e : @State.writeObject = @State.writeObject := rfl
  conv at e => rhs; delta State.writeObject
  rw [e]; clear e
  dsimp -zeta -iota -proj -eta -zetaUnused -zetaHave -failIfUnchanged only
  repeat' first
    | with_reducible first
      | apply Kept.refl | assumption | apply Kept.via (State.wr_kept ..) | apply Kept.via (State.fieldWrite_kept ..)
      | apply Kept.via (State.writeSpecial_kept ..)
    | simp -zeta -iota -proj -zetaUnused -zetaHave (disch := rfl) only [Kept.update_iff]
    | intro _
    | (extract_lets -underBinder -merge +onlyGivenNames x; refine Kept.step (b := x) ?_ ?_
       all_goals first | (intro _; clear_value x) | dsimp -zeta -iota -proj -zetaUnused -zetaHave only [x])
    | extract_lets -underBinder -merge +onlyGivenNames x
    | split
    | (clear_value x; split)

theorem State.setToken_kept (s : State) (q : DamotReq) (t : ℕ) (digest : ℕ) : Kept s (State.setToken s q t digest).1 := by
  unfold State.setToken
  repeat' first
    | with_reducible first | apply Kept.refl | apply Kept.via (State.checkToken_kept ..)
    | split

theorem State.judgeSet_kept (s : State) (q : DamotReq) (r : ObjRow) (a : ℕ) (b : ℕ) (v : ℕ) (n : ℕ) (t : ℕ) :
    Kept s (State.judgeSet s q r a b v n t).1 := by
  have e : @State.judgeSet = @State.judgeSet := rfl
  conv at e => rhs; delta State.judgeSet
  rw [e]; clear e
  dsimp -zeta -iota -proj -eta -zetaUnused -zetaHave -failIfUnchanged only
  repeat' first
    | with_reducible first
      | apply Kept.refl | assumption | refine Kept.via_fst (State.setToken_kept ..) ‹_› ?_
      | apply Kept.via (State.setToken_kept ..) | refine Kept.via_fst (State.writeObject_kept ..) ‹_› ?_
      | apply Kept.via (State.writeObject_kept ..)
    | simp -zeta -iota -proj -zetaUnused -zetaHave (disch := rfl) only [Kept.update_iff]
    | intro _
    | (extract_lets -underBinder -merge +onlyGivenNames x; refine Kept.step (b := x) ?_ ?_
       all_goals first | (intro _; clear_value x) | dsimp -zeta -iota -proj -zetaUnused -zetaHave only [x])
    | extract_lets -underBinder -merge +onlyGivenNames x
    | split
    | (clear_value x; split)
    | dsimp only

theorem State.replyCode_kept (s : State) (q : DamotReq) (r : ObjRow) (total : ℕ) (x : ℕ × Option ℕ) :
    Kept s (State.replyCode s q r total x) := by
  unfold State.replyCode
  repeat' first
    | with_reducible first | apply Kept.refl | apply Kept.via (State.replyObject_kept ..)
    | split

theorem State.stageMore_kept (s : State) (q : DamotReq) : Kept s (State.stageMore s q) := by
  unfold State.stageMore
  repeat' first
    | with_reducible first | apply Kept.refl | apply Kept.via (State.reply_kept ..)
    | simp -zeta -iota -proj -zetaUnused -zetaHave (disch := rfl) only [Kept.update_iff]
    | split

theorem State.finalSet_kept (s : State) (q : DamotReq) : Kept s (State.finalSet s q) := by
  have e : @State.finalSet = @State.finalSet := rfl
  conv at e => rhs; delta State.finalSet
  rw [e]; clear e
  dsimp -zeta -iota -proj -eta -zetaUnused -zetaHave -failIfUnchanged only
  repeat' first
    | with_reducible first
      | apply Kept.refl | assumption | apply Kept.via (State.discardStage_kept ..) | apply Kept.via (State.reply_kept ..)
      | apply Kept.via (State.replyObject_kept ..) | apply Kept.via (State.judgeSet_kept ..)
      | apply Kept.via (State.replyCode_kept ..)
    | simp -zeta -iota -proj -zetaUnused -zetaHave (disch := rfl) only [Kept.update_iff]
    | intro _
    | (extract_lets -underBinder -merge +onlyGivenNames x; refine Kept.step (b := x) ?_ ?_
       all_goals first | (intro _; clear_value x) | dsimp -zeta -iota -proj -zetaUnused -zetaHave only [x])
    | extract_lets -underBinder -merge +onlyGivenNames x
    | split
    | (clear_value x; split)

theorem State.damotSet_kept (s : State) (q : DamotReq) : Kept s (State.damotSet s q) := by
  unfold State.damotSet
  repeat' first
    | with_reducible first
      | apply Kept.refl | apply Kept.via (State.stageMore_kept ..) | apply Kept.via (State.finalSet_kept ..)
    | split

theorem State.damotGet_kept (s : State) (q : DamotReq) : Kept s (State.damotGet s q) := by
  unfold State.damotGet
  repeat' first
    | with_reducible first
      | apply Kept.refl | apply Kept.via (State.reply_kept ..) | apply Kept.via (State.replyObject_kept ..)
    | split

theorem State.damotDescribe_kept (s : State) (q : DamotReq) : Kept s (State.damotDescribe s q) := by
  unfold State.damotDescribe
  repeat' first
    | with_reducible first
      | apply Kept.refl | apply Kept.via (State.reply_kept ..) | apply Kept.via (State.replyObject_kept ..)
    | split

theorem State.judgeClaim_kept (s : State) (q : DamotReq) (token : Bool) : Kept s (State.judgeClaim s q token) := by
  unfold State.judgeClaim
  repeat' first
    | with_reducible first
      | apply Kept.refl | apply Kept.via (State.reply_kept ..) | apply Kept.via (State.takeOwner_kept ..)
      | apply Kept.via (State.restartLease_kept ..) | apply Kept.via (State.raise_kept ..)
      | apply Kept.via (State.count_kept ..)
    | split

theorem State.claimToken_kept (s : State) (q : DamotReq) : Kept s (State.claimToken s q).1 := by
  unfold State.claimToken
  repeat' first
    | with_reducible first | apply Kept.refl | apply Kept.via (State.checkToken_kept ..)
    | split

theorem State.claimCycle_kept (s : State) (l : List DamotReq) : Kept s (State.claimCycle s l) := by
  have e : @State.claimCycle = @State.claimCycle := rfl
  conv at e => rhs; delta State.claimCycle
  rw [e]; clear e
  dsimp -zeta -iota -proj -eta -zetaUnused -zetaHave -failIfUnchanged only
  repeat' first
    | with_reducible first
      | apply Kept.refl | assumption | refine Kept.via_fst (State.claimToken_kept ..) ‹_› ?_
      | apply Kept.via (State.claimToken_kept ..) | apply Kept.via (State.reply_kept ..) | apply Kept.via (State.wr_kept ..)
      | apply Kept.via (State.judgeClaim_kept ..) | apply Kept.via (Kept.foldl ?_ ..) | apply Kept.via (Kept.foldl_fst ?_ ..)
    | simp -zeta -iota -proj -zetaUnused -zetaHave (disch := rfl) only [Kept.update_iff]
    | intro _
    | (extract_lets -underBinder -merge +onlyGivenNames x; refine Kept.step (b := x) ?_ ?_
       all_goals first | (intro _; clear_value x) | dsimp -zeta -iota -proj -zetaUnused -zetaHave only [x])
    | extract_lets -underBinder -merge +onlyGivenNames x
    | split
    | (clear_value x; split)
    | dsimp only

theorem State.damotRelease_kept (s : State) (q : DamotReq) : Kept s (State.damotRelease s q) := by
  unfold State.damotRelease
  repeat' first
    | with_reducible first | apply Kept.refl | apply Kept.via (State.reply_kept ..) | apply Kept.via (State.unown_kept ..)
    | split

theorem State.damotOffer_kept (s : State) (q : DamotReq) : Kept s (State.damotOffer s q) := by
  have e : @State.damotOffer = @State.damotOffer := rfl
  conv at e => rhs; delta State.damotOffer
  rw [e]; clear e
  dsimp -zeta -iota -proj -eta -zetaUnused -zetaHave -failIfUnchanged only
  repeat' first
    | with_reducible first
      | apply Kept.refl | assumption | apply Kept.via (State.reply_kept ..) | apply Kept.via (State.raise_kept ..)
      | apply Kept.via (State.wr_kept ..)
    | simp -zeta -iota -proj -zetaUnused -zetaHave (disch := rfl) only [Kept.update_iff]
    | intro _
    | (extract_lets -underBinder -merge +onlyGivenNames x; refine Kept.step (b := x) ?_ ?_
       all_goals first | (intro _; clear_value x) | dsimp -zeta -iota -proj -zetaUnused -zetaHave only [x])
    | extract_lets -underBinder -merge +onlyGivenNames x
    | split
    | (clear_value x; split)

theorem State.damotAccept_kept (s : State) (q : DamotReq) : Kept s (State.damotAccept s q) := by
  unfold State.damotAccept
  repeat' first
    | with_reducible first
      | apply Kept.refl | apply Kept.via (State.reply_kept ..) | apply Kept.via (State.takeOwner_kept ..)
    | split

theorem State.damotNonce_kept (s : State) (q : DamotReq) : Kept s (State.damotNonce s q) := by
  unfold State.damotNonce
  repeat' first
    | with_reducible first | apply Kept.refl | apply Kept.via (State.free_kept ..) | apply Kept.via (State.reply_kept ..)
    | simp -zeta -iota -proj -zetaUnused -zetaHave (disch := rfl) only [Kept.update_iff]

theorem State.received_kept (s : State) (q : DamotReq) : Kept s (State.received s q) := by
  have e : @State.received = @State.received := rfl
  conv at e => rhs; delta State.received
  rw [e]; clear e
  dsimp -zeta -iota -proj -eta -zetaUnused -zetaHave -failIfUnchanged only
  repeat' first
    | with_reducible first
      | apply Kept.refl | assumption | apply Kept.via (State.count_kept ..) | apply Kept.via (State.restartLease_kept ..)
    | simp -zeta -iota -proj -zetaUnused -zetaHave (disch := rfl) only [Kept.update_iff]
    | intro _
    | (extract_lets -underBinder -merge +onlyGivenNames x; refine Kept.step (b := x) ?_ ?_
       all_goals first | (intro _; clear_value x) | dsimp -zeta -iota -proj -zetaUnused -zetaHave only [x])
    | extract_lets -underBinder -merge +onlyGivenNames x
    | split
    | (clear_value x; split)

theorem State.checked_kept (s : State) (q : DamotReq) (f : State → DamotReq → State) (h_f : ∀ a0 a1, Kept a0 (f a0 a1)) :
    Kept s (State.checked s q f) := by
  unfold State.checked
  repeat' first
    | with_reducible first
      | apply Kept.refl | apply Kept.via (State.received_kept ..) | apply Kept.via (State.reply_kept ..)
      | apply Kept.via (h_f ..)
    | split

theorem State.claims_kept (s : State) (l : List DamotReq) : Kept s (State.claims s l) := by
  unfold State.claims
  repeat' first
    | with_reducible first
      | apply Kept.refl | apply Kept.via (State.received_kept ..) | apply Kept.via (State.reply_kept ..)
      | apply Kept.via (State.claimCycle_kept ..) | apply Kept.via (Kept.foldl ?_ ..)
    | simp -zeta -iota -proj -zetaUnused -zetaHave (disch := rfl) only [Kept.update_iff]
    | intro _
    | split

theorem State.damot_kept (s : State) (q : DamotReq) : Kept s (State.damot s q) := by
  have e : @State.damot = @State.damot := rfl
  conv at e => rhs; delta State.damot
  rw [e]; clear e
  dsimp -zeta -iota -proj -eta -zetaUnused -zetaHave -failIfUnchanged only
  repeat' first
    | with_reducible first
      | apply Kept.refl | apply Kept.via (State.claims_kept ..) | apply Kept.via (State.checked_kept (h_f := ?_) ..)
      | apply Kept.via (State.damotGet_kept ..) | apply Kept.via (State.damotSet_kept ..)
      | apply Kept.via (State.damotDescribe_kept ..) | apply Kept.via (State.damotRelease_kept ..)
      | apply Kept.via (State.damotOffer_kept ..) | apply Kept.via (State.damotAccept_kept ..)
      | apply Kept.via (State.damotNonce_kept ..)
    | simp -zeta -iota -proj -zetaUnused -zetaHave (disch := rfl) only [Kept.update_iff]
    | intro _
    | (extract_lets -underBinder -merge +onlyGivenNames x; refine Kept.step (b := x) ?_ ?_
       all_goals first | (intro _; clear_value x) | dsimp -zeta -iota -proj -zetaUnused -zetaHave only [x])
    | extract_lets -underBinder -merge +onlyGivenNames x
    | split
    | (clear_value x; split)

theorem State.onDamot_kept (s : State) (t : ℕ) (op : ℕ) (f : Cmd → State) (h_f : ∀ a0, Kept s (f a0)) :
    Kept s (State.onDamot s t op f) := by
  unfold State.onDamot
  repeat' first
    | with_reducible first
      | apply Kept.refl | apply Kept.via (State.onCmd_kept (h_f := ?_) ..) | apply Kept.via (State.finish_kept ..)
      | apply Kept.via (h_f ..)
    | simp -zeta -iota -proj -zetaUnused -zetaHave (disch := rfl) only [Kept.update_iff]
    | intro _
    | split

theorem State.damotSend_kept (s : State) (q : DamotReq) (c : Cmd) : Kept s (State.damotSend s q c) := by
  unfold State.damotSend
  repeat' with_reducible first
    | apply Kept.refl | apply Kept.via (State.damot_kept ..) | apply Kept.via (State.finish_kept ..)

theorem State.damotReceive_kept (s : State) (c : Cmd) : Kept s (State.damotReceive s c) := by
  have e : @State.damotReceive = @State.damotReceive := rfl
  conv at e => rhs; delta State.damotReceive
  rw [e]; clear e
  dsimp -zeta -iota -proj -eta -zetaUnused -zetaHave -failIfUnchanged only
  repeat' first
    | with_reducible first
      | apply Kept.refl | apply Kept.via (State.finish_kept ..) | apply Kept.via (State.emit_kept ..)
      | apply Kept.via (State.free_kept ..)
    | simp -zeta -iota -proj -zetaUnused -zetaHave (disch := rfl) only [Kept.update_iff]
    | intro _
    | (extract_lets -underBinder -merge +onlyGivenNames x; refine Kept.step (b := x) ?_ ?_
       all_goals first | (intro _; clear_value x) | dsimp -zeta -iota -proj -zetaUnused -zetaHave only [x])
    | extract_lets -underBinder -merge +onlyGivenNames x
    | split
    | (clear_value x; split)

theorem State.setFixed_kept (s : State) (q : DamotReq) (idx : ℕ) (sub : ℕ) : Kept s (State.setFixed s q idx sub) := by
  unfold State.setFixed
  repeat' first
    | with_reducible first
      | apply Kept.refl | apply Kept.via (State.checked_kept (h_f := ?_) ..) | apply Kept.via (State.damotSet_kept ..)
    | simp -zeta -iota -proj -zetaUnused -zetaHave (disch := rfl) only [Kept.update_iff]
    | intro _

theorem execDamotSend_kept (tag : BitVec 13) (req : DamotReq) (s : State) : KeptBy s (execDamotSend tag req s) := by
  unfold execDamotSend
  refine KeptBy.next ?_
  repeat' first
    | with_reducible first
      | apply Kept.refl | apply Kept.via (State.onDamot_kept (h_f := ?_) ..) | apply Kept.via (State.damotSend_kept ..)
    | simp -zeta -iota -proj -zetaUnused -zetaHave (disch := rfl) only [Kept.update_iff]
    | intro _

theorem execDamotReceive_kept (tag : BitVec 13) (s : State) : KeptBy s (execDamotReceive tag s) := by
  unfold execDamotReceive
  refine KeptBy.next ?_
  repeat' first
    | with_reducible first
      | apply Kept.refl | apply Kept.via (State.onDamot_kept (h_f := ?_) ..) | apply Kept.via (State.damotReceive_kept ..)
    | simp -zeta -iota -proj -zetaUnused -zetaHave (disch := rfl) only [Kept.update_iff]
    | intro _

theorem execDamotGet_kept (req : DamotReq) (s : State) : KeptBy s (execDamotGet req s) := by
  unfold execDamotGet
  refine KeptBy.next ?_
  repeat' first
    | with_reducible first
      | apply Kept.refl | apply Kept.via (State.checked_kept (h_f := ?_) ..) | apply Kept.via (State.damotGet_kept ..)
    | simp -zeta -iota -proj -zetaUnused -zetaHave (disch := rfl) only [Kept.update_iff]
    | intro _

theorem execDamotSet_kept (req : DamotReq) (s : State) : KeptBy s (execDamotSet req s) := by
  unfold execDamotSet
  refine KeptBy.next ?_
  repeat' first
    | with_reducible first
      | apply Kept.refl | apply Kept.via (State.checked_kept (h_f := ?_) ..) | apply Kept.via (State.damotSet_kept ..)
    | simp -zeta -iota -proj -zetaUnused -zetaHave (disch := rfl) only [Kept.update_iff]
    | intro _

theorem execDamotDescribe_kept (req : DamotReq) (s : State) : KeptBy s (execDamotDescribe req s) := by
  unfold execDamotDescribe
  refine KeptBy.next ?_
  repeat' first
    | with_reducible first
      | apply Kept.refl | apply Kept.via (State.checked_kept (h_f := ?_) ..) | apply Kept.via (State.damotDescribe_kept ..)
    | simp -zeta -iota -proj -zetaUnused -zetaHave (disch := rfl) only [Kept.update_iff]
    | intro _

theorem execDamotClaim_kept (reqs : List DamotReq) (s : State) : KeptBy s (execDamotClaim reqs s) := by
  unfold execDamotClaim
  refine KeptBy.next ?_
  repeat' with_reducible first | apply Kept.refl | apply Kept.via (State.claims_kept ..)

theorem execDamotRelease_kept (req : DamotReq) (s : State) : KeptBy s (execDamotRelease req s) := by
  unfold execDamotRelease
  refine KeptBy.next ?_
  repeat' first
    | with_reducible first
      | apply Kept.refl | apply Kept.via (State.checked_kept (h_f := ?_) ..) | apply Kept.via (State.damotRelease_kept ..)
    | simp -zeta -iota -proj -zetaUnused -zetaHave (disch := rfl) only [Kept.update_iff]
    | intro _

theorem execDamotOffer_kept (req : DamotReq) (s : State) : KeptBy s (execDamotOffer req s) := by
  unfold execDamotOffer
  refine KeptBy.next ?_
  repeat' first
    | with_reducible first
      | apply Kept.refl | apply Kept.via (State.checked_kept (h_f := ?_) ..) | apply Kept.via (State.damotOffer_kept ..)
    | simp -zeta -iota -proj -zetaUnused -zetaHave (disch := rfl) only [Kept.update_iff]
    | intro _

theorem execDamotAccept_kept (req : DamotReq) (s : State) : KeptBy s (execDamotAccept req s) := by
  unfold execDamotAccept
  refine KeptBy.next ?_
  repeat' first
    | with_reducible first
      | apply Kept.refl | apply Kept.via (State.checked_kept (h_f := ?_) ..) | apply Kept.via (State.damotAccept_kept ..)
    | simp -zeta -iota -proj -zetaUnused -zetaHave (disch := rfl) only [Kept.update_iff]
    | intro _

theorem execDamotNonce_kept (req : DamotReq) (s : State) : KeptBy s (execDamotNonce req s) := by
  unfold execDamotNonce
  refine KeptBy.next ?_
  repeat' first
    | with_reducible first
      | apply Kept.refl | apply Kept.via (State.checked_kept (h_f := ?_) ..) | apply Kept.via (State.damotNonce_kept ..)
    | simp -zeta -iota -proj -zetaUnused -zetaHave (disch := rfl) only [Kept.update_iff]
    | intro _

theorem execDamotBadOp_kept (req : DamotReq) (s : State) : KeptBy s (execDamotBadOp req s) := by
  unfold execDamotBadOp
  refine KeptBy.next ?_
  repeat' first
    | with_reducible first | apply Kept.refl | apply Kept.via (State.checked_kept (h_f := ?_) ..)
    | simp -zeta -iota -proj -zetaUnused -zetaHave (disch := rfl) only [Kept.update_iff]
    | intro _
    | split

theorem execNonceExpiry_kept (pos : Fin 11) (s : State) : KeptBy s (execNonceExpiry pos s) := by
  unfold execNonceExpiry
  refine KeptBy.next ?_
  repeat' first
    | with_reducible first | apply Kept.refl
    | simp -zeta -iota -proj -zetaUnused -zetaHave (disch := rfl) only [Kept.update_iff]

theorem execLeaseExpiry_kept (s : State) : KeptBy s (execLeaseExpiry s) := by
  unfold execLeaseExpiry
  refine KeptBy.next ?_
  repeat' first
    | with_reducible first | apply Kept.refl | apply Kept.via (State.raise_kept ..) | apply Kept.via (State.unown_kept ..)
    | split

theorem execOfferTimeout_kept (s : State) : KeptBy s (execOfferTimeout s) := by
  unfold execOfferTimeout
  refine KeptBy.next ?_
  repeat' first
    | with_reducible first | apply Kept.refl | apply Kept.via (State.raise_kept ..) | apply Kept.via (State.wr_kept ..)
    | split

theorem execOwnDrop_kept (s : State) : KeptBy s (execOwnDrop s) := by
  unfold execOwnDrop
  refine KeptBy.next ?_
  repeat' first
    | with_reducible first
      | apply Kept.refl | apply Kept.via (State.access_kept (h_k := ?_) ..) | apply Kept.via (State.unown_kept ..)
    | simp -zeta -iota -proj -zetaUnused -zetaHave (disch := rfl) only [Kept.update_iff]
    | intro _

theorem execSpinAtBootWrite_kept (req : DamotReq) (s : State) : KeptBy s (execSpinAtBootWrite req s) := by
  unfold execSpinAtBootWrite
  refine KeptBy.next ?_
  repeat' with_reducible first | apply Kept.refl | apply Kept.via (State.setFixed_kept ..)

theorem execKeySlotRevoke_kept (req : DamotReq) (s : State) : KeptBy s (execKeySlotRevoke req s) := by
  unfold execKeySlotRevoke
  refine KeptBy.next ?_
  repeat' with_reducible first | apply Kept.refl | apply Kept.via (State.setFixed_kept ..)

theorem execFirmwareSvnMin_kept (req : DamotReq) (s : State) : KeptBy s (execFirmwareSvnMin req s) := by
  unfold execFirmwareSvnMin
  refine KeptBy.next ?_
  repeat' with_reducible first | apply Kept.refl | apply Kept.via (State.setFixed_kept ..)

theorem execMicrocodeSvnMin_kept (req : DamotReq) (s : State) : KeptBy s (execMicrocodeSvnMin req s) := by
  unfold execMicrocodeSvnMin
  refine KeptBy.next ?_
  repeat' with_reducible first | apply Kept.refl | apply Kept.via (State.setFixed_kept ..)

theorem execUpdateCommit_kept (req : DamotReq) (s : State) : KeptBy s (execUpdateCommit req s) := by
  unfold execUpdateCommit
  refine KeptBy.next ?_
  repeat' with_reducible first | apply Kept.refl | apply Kept.via (State.setFixed_kept ..)

theorem execRecoveryBoot_kept (req : DamotReq) (s : State) : KeptBy s (execRecoveryBoot req s) := by
  unfold execRecoveryBoot
  refine KeptBy.next ?_
  repeat' with_reducible first | apply Kept.refl | apply Kept.via (State.setFixed_kept ..)

theorem execDebugUnlock_kept (req : DamotReq) (s : State) : KeptBy s (execDebugUnlock req s) := by
  unfold execDebugUnlock
  refine KeptBy.next ?_
  repeat' with_reducible first | apply Kept.refl | apply Kept.via (State.setFixed_kept ..)

theorem execSpareRowBurn_kept (req : DamotReq) (s : State) : KeptBy s (execSpareRowBurn req s) := by
  unfold execSpareRowBurn
  refine KeptBy.next ?_
  repeat' with_reducible first | apply Kept.refl | apply Kept.via (State.setFixed_kept ..)

end Sys2Proof.Machine
end

