-- ==== Sys2Proof/Laws/KeepsTick.lean ====
section
/-!
SUPPORT. Laws/KeepsTick.lean: each operation and command of Machine/Tick.lean keeps what every operation keeps (`Kept`).
-/
namespace Sys2Proof.Machine

theorem State.calendarTick_kept (s : State) : Kept s (State.calendarTick s) := by
  unfold State.calendarTick
  repeat' with_reducible first | apply Kept.refl | apply Kept.via (State.wr_kept ..)

theorem State.sasTick_kept (s : State) (p : ℕ) : Kept s (State.sasTick s p) := by
  have e : @State.sasTick = @State.sasTick := rfl
  conv at e => rhs; delta State.sasTick
  rw [e]; clear e
  dsimp -zeta -iota -proj -eta -zetaUnused -zetaHave -failIfUnchanged only
  repeat' first
    | with_reducible first | apply Kept.refl | assumption | apply Kept.via (State.requestState_kept ..)
    | simp -zeta -iota -proj -zetaUnused -zetaHave (disch := rfl) only [Kept.update_iff]
    | intro _
    | (extract_lets -underBinder -merge +onlyGivenNames x; refine Kept.step (b := x) ?_ ?_
       all_goals first | (intro _; clear_value x) | dsimp -zeta -iota -proj -zetaUnused -zetaHave only [x])
    | extract_lets -underBinder -merge +onlyGivenNames x
    | split
    | (clear_value x; split)

theorem State.millisecond_kept (s : State) : Kept s (State.millisecond s) := by
  have e : @State.millisecond = @State.millisecond := rfl
  conv at e => rhs; delta State.millisecond
  rw [e]; clear e
  dsimp -zeta -iota -proj -eta -zetaUnused -zetaHave -failIfUnchanged only
  repeat' first
    | with_reducible first
      | apply Kept.refl | assumption | apply Kept.via (State.calendarTick_kept ..) | apply Kept.via (State.leaseTick_kept ..)
      | apply Kept.via (State.sasTick_kept ..)
    | simp -zeta -iota -proj -zetaUnused -zetaHave (disch := rfl) only [Kept.update_iff]
    | intro _
    | (extract_lets -underBinder -merge +onlyGivenNames x; refine Kept.step (b := x) ?_ ?_
       all_goals first | (intro _; clear_value x) | dsimp -zeta -iota -proj -zetaUnused -zetaHave only [x])
    | extract_lets -underBinder -merge +onlyGivenNames x
    | split
    | (clear_value x; split)

theorem State.tick_kept (s : State) : Kept s (State.tick s) := by
  have e : @State.tick = @State.tick := rfl
  conv at e => rhs; delta State.tick
  rw [e]; clear e
  dsimp -zeta -iota -proj -eta -zetaUnused -zetaHave -failIfUnchanged only
  repeat' first
    | with_reducible first
      | apply Kept.refl | assumption | apply Kept.via (State.advance_kept ..) | apply Kept.via (State.millisecond_kept ..)
    | simp -zeta -iota -proj -zetaUnused -zetaHave (disch := rfl) only [Kept.update_iff]
    | intro _
    | (extract_lets -underBinder -merge +onlyGivenNames x; refine Kept.step (b := x) ?_ ?_
       all_goals first | (intro _; clear_value x) | dsimp -zeta -iota -proj -zetaUnused -zetaHave only [x])
    | extract_lets -underBinder -merge +onlyGivenNames x
    | split
    | (clear_value x; split)

end Sys2Proof.Machine
end

