-- ==== Sys2Proof/Laws/State.lean ====
section
/-!
SUPPORT. Laws/State.lean: reading a register field after a write of it or of another, and what each named operation leaves
alone, as rewrite rules: no later proof unfolds a record update.
-/
namespace Sys2Proof.Machine

open Arith

/-! ### Bit fields -/

theorem Arith.testBit_field (v lo w i : Nat) : (field v lo w).testBit i = (decide (i < w) && v.testBit (lo + i)) := by
  rw [field, Nat.testBit_mod_two_pow, Nat.testBit_div_two_pow, Nat.add_comm]

theorem Arith.testBit_putField (v lo w x i : Nat) : (putField v lo w x).testBit i =
    if i < lo then v.testBit i else if i < lo + w then x.testBit (i - lo) else v.testBit i := by
  have e : putField v lo w x = 2 ^ lo * (2 ^ w * (v / 2 ^ (lo + w)) + x % 2 ^ w) + v % 2 ^ lo := by
    unfold putField
    rw [Nat.pow_add, Nat.mul_add, Nat.mul_comm (x % 2 ^ w)]
    have : v / (2 ^ lo * 2 ^ w) * (2 ^ lo * 2 ^ w) = 2 ^ lo * (2 ^ w * (v / (2 ^ lo * 2 ^ w))) := by
      rw [Nat.mul_comm, Nat.mul_assoc]
    omega
  rw [e, Nat.testBit_two_pow_mul_add _ (Nat.mod_lt _ (Nat.two_pow_pos lo)),
    Nat.testBit_two_pow_mul_add _ (Nat.mod_lt _ (Nat.two_pow_pos w))]
  by_cases h1 : i < lo
  · simp [h1]
  · by_cases h2 : i < lo + w
    · have h3 : i - lo < w := by omega
      simp [h1, h2, h3]
    · have h3 : ¬ i - lo < w := by omega
      have h4 : i - lo - w + (lo + w) = i := by omega
      simp [h1, h2, h3, Nat.testBit_div_two_pow, h4]

/-- A field reads back what was put there, cut to its width. -/
@[simp] theorem Arith.field_putField (v lo w x : Nat) : field (putField v lo w x) lo w = x % 2 ^ w := by
  apply Nat.eq_of_testBit_eq
  intro i
  rw [Arith.testBit_field, Arith.testBit_putField, Nat.testBit_mod_two_pow]
  by_cases h : i < w
  · have h1 : ¬ lo + i < lo := by omega
    have h2 : lo + i < lo + w := by omega
    have h3 : lo + i - lo = i := by omega
    simp only [h1, h2, h3, if_true, if_false]
  · simp [h]

/-- A field below or above the one put is not changed. -/
theorem Arith.field_putField_apart (v lo w x lo' w' : Nat) (h : lo + w ≤ lo' ∨ lo' + w' ≤ lo) :
    field (putField v lo w x) lo' w' = field v lo' w' := by
  apply Nat.eq_of_testBit_eq
  intro i
  rw [Arith.testBit_field, Arith.testBit_field, Arith.testBit_putField]
  by_cases hi : i < w'
  · split
    · rfl
    · split
      · omega
      · rfl
  · simp [hi]

theorem Arith.field_mod (v lo w n : Nat) (h : lo + w ≤ n) : field (v % 2 ^ n) lo w = field v lo w := by
  apply Nat.eq_of_testBit_eq
  intro i
  rw [Arith.testBit_field, Arith.testBit_field, Nat.testBit_mod_two_pow]
  by_cases hi : i < w
  · have h1 : lo + i < n := by omega
    simp only [h1, decide_true, Bool.true_and]
  · simp [hi]

namespace State

/-! ### Reading after writing -/

/-- A field reads back what was written to it, cut to its width. -/
theorem rd_wr_same (s : State) (f : Fld) (v : Nat) (h : f.fits = true) : (s.wr f v).rd f = v % 2 ^ f.width := by
  simp only [Fld.fits, decide_eq_true_eq] at h
  unfold rd word wr
  rw [Store.get_put_same, BitVec.toNat_ofNat, Arith.field_mod _ _ _ _ h, Arith.field_putField]

/-- A write leaves the fields apart from it. -/
theorem rd_wr_apart (s : State) (f g : Fld) (v : Nat) (h : f.apart g = true) : (s.wr f v).rd g = s.rd g := by
  simp only [Fld.apart, Fld.fits, Bool.or_eq_true, Bool.and_eq_true, bne_iff_ne, ne_eq, beq_iff_eq, decide_eq_true_eq] at h
  by_cases ha : f.addr = g.addr
  · rcases h with h | ⟨⟨⟨hr, hf⟩, hg⟩, h⟩
    · exact absurd ha h
    · unfold rd word wr
      rw [← ha, ← hr, Store.get_put_same, BitVec.toNat_ofNat, Arith.field_mod _ _ _ _ hg, Arith.field_putField_apart _ _ _ _ _ _ h]
      rfl
  · unfold rd word wr
    exact congrArg (fun w => field (BitVec.toNat w) g.lo g.width) (Store.get_put_ne _ _ _ _ (Ne.symm ha))

/-- A field read depends on the register file alone. -/
theorem rd_congr {s t : State} (h : t.regs = s.regs) (f : Fld) : t.rd f = s.rd f := by unfold rd word; rw [h]

/-- A record update that leaves the register file leaves every field. -/
@[simp] theorem rd_update {b : State} {x_sram x_dom x_pins x_pwr x_pm x_fuses x_boot x_ksc x_tap x_cohort x_hosts x_media x_nv
    x_pak x_mca x_chn x_abx x_svt x_cal x_dram x_mgt x_fsq x_wsq x_ucode x_fcu x_tly x_thm x_pending x_out x_freeCount x_usInMs}
    (f : Fld) : State.rd (State.mk b.regs x_sram x_dom x_pins x_pwr x_pm x_fuses x_boot x_ksc x_tap x_cohort x_hosts x_media
      x_nv x_pak x_mca x_chn x_abx x_svt x_cal x_dram x_mgt x_fsq x_wsq x_ucode x_fcu x_tly x_thm x_pending x_out x_freeCount
      x_usInMs) f = b.rd f := rfl

@[simp] theorem rd_emit (s : State) (o : Output) (f : Fld) : (s.emit o).rd f = s.rd f := rfl
@[simp] theorem rd_free (s : State) (f : Fld) : s.free.2.rd f = s.rd f := rfl

theorem flag_wr_same (s : State) (f : Fld) (v : Nat) (h : f.fits = true) : (s.wr f v).flag f = (v % 2 ^ f.width != 0) := by
  unfold flag
  rw [rd_wr_same s f v h]

theorem flag_wr_apart (s : State) (f g : Fld) (v : Nat) (h : f.apart g = true) : (s.wr f v).flag g = s.flag g := by
  unfold flag
  rw [rd_wr_apart s f g v h]

/-! ### Event lines (R44) -/

theorem pendBits_fits (k : Nat) : (R.PEND_BITS k).fits = true := by simp [Fld.fits, R.PEND_BITS]

/-- An event sets its line. -/
theorem linePending_raise (s : State) (n : Nat) : (s.raise n).linePending n = true := by
  unfold raise setBitAt linePending bitAt
  rw [rd_wr_same _ _ _ (pendBits_fits _), Nat.testBit_mod_two_pow]
  have h1 : n % 32 < (R.PEND_BITS (n / 32)).width := by simp [R.PEND_BITS]; omega
  simp only [h1, decide_true, Bool.true_and, setBit]
  split
  · assumption
  · next hb =>
    rw [Nat.add_comm, Nat.testBit_two_pow_add_eq]
    simpa using hb

/-- A field apart from the pending word is not changed by an event. -/
theorem rd_raise (s : State) (n : Nat) (g : Fld) (h : (R.PEND_BITS (n / 32)).apart g = true) : (s.raise n).rd g = s.rd g :=
  rd_wr_apart s _ g _ h

/-! ### What the named operations leave alone -/

@[simp] theorem wr_sram (s : State) (f : Fld) (v : Nat) : (s.wr f v).sram = s.sram := rfl
@[simp] theorem wr_dom (s : State) (f : Fld) (v : Nat) : (s.wr f v).dom = s.dom := rfl
@[simp] theorem wr_pins (s : State) (f : Fld) (v : Nat) : (s.wr f v).pins = s.pins := rfl
@[simp] theorem wr_pwr (s : State) (f : Fld) (v : Nat) : (s.wr f v).pwr = s.pwr := rfl
@[simp] theorem wr_pm (s : State) (f : Fld) (v : Nat) : (s.wr f v).pm = s.pm := rfl
@[simp] theorem wr_fuses (s : State) (f : Fld) (v : Nat) : (s.wr f v).fuses = s.fuses := rfl
@[simp] theorem wr_boot (s : State) (f : Fld) (v : Nat) : (s.wr f v).boot = s.boot := rfl
@[simp] theorem wr_ksc (s : State) (f : Fld) (v : Nat) : (s.wr f v).ksc = s.ksc := rfl
@[simp] theorem wr_tap (s : State) (f : Fld) (v : Nat) : (s.wr f v).tap = s.tap := rfl
@[simp] theorem wr_cohort (s : State) (f : Fld) (v : Nat) : (s.wr f v).cohort = s.cohort := rfl
@[simp] theorem wr_hosts (s : State) (f : Fld) (v : Nat) : (s.wr f v).hosts = s.hosts := rfl
@[simp] theorem wr_media (s : State) (f : Fld) (v : Nat) : (s.wr f v).media = s.media := rfl
@[simp] theorem wr_nv (s : State) (f : Fld) (v : Nat) : (s.wr f v).nv = s.nv := rfl
@[simp] theorem wr_pak (s : State) (f : Fld) (v : Nat) : (s.wr f v).pak = s.pak := rfl
@[simp] theorem wr_mca (s : State) (f : Fld) (v : Nat) : (s.wr f v).mca = s.mca := rfl
@[simp] theorem wr_chn (s : State) (f : Fld) (v : Nat) : (s.wr f v).chn = s.chn := rfl
@[simp] theorem wr_abx (s : State) (f : Fld) (v : Nat) : (s.wr f v).abx = s.abx := rfl
@[simp] theorem wr_svt (s : State) (f : Fld) (v : Nat) : (s.wr f v).svt = s.svt := rfl
@[simp] theorem wr_cal (s : State) (f : Fld) (v : Nat) : (s.wr f v).cal = s.cal := rfl
@[simp] theorem wr_dram (s : State) (f : Fld) (v : Nat) : (s.wr f v).dram = s.dram := rfl
@[simp] theorem wr_mgt (s : State) (f : Fld) (v : Nat) : (s.wr f v).mgt = s.mgt := rfl
@[simp] theorem wr_fsq (s : State) (f : Fld) (v : Nat) : (s.wr f v).fsq = s.fsq := rfl
@[simp] theorem wr_wsq (s : State) (f : Fld) (v : Nat) : (s.wr f v).wsq = s.wsq := rfl
@[simp] theorem wr_ucode (s : State) (f : Fld) (v : Nat) : (s.wr f v).ucode = s.ucode := rfl
@[simp] theorem wr_fcu (s : State) (f : Fld) (v : Nat) : (s.wr f v).fcu = s.fcu := rfl
@[simp] theorem wr_tly (s : State) (f : Fld) (v : Nat) : (s.wr f v).tly = s.tly := rfl
@[simp] theorem wr_thm (s : State) (f : Fld) (v : Nat) : (s.wr f v).thm = s.thm := rfl
@[simp] theorem wr_pending (s : State) (f : Fld) (v : Nat) : (s.wr f v).pending = s.pending := rfl
@[simp] theorem wr_out (s : State) (f : Fld) (v : Nat) : (s.wr f v).out = s.out := rfl
@[simp] theorem wr_freeCount (s : State) (f : Fld) (v : Nat) : (s.wr f v).freeCount = s.freeCount := rfl
@[simp] theorem wr_usInMs (s : State) (f : Fld) (v : Nat) : (s.wr f v).usInMs = s.usInMs := rfl
@[simp] theorem emit_regs (s : State) (o : Output) : (s.emit o).regs = s.regs := rfl
@[simp] theorem emit_sram (s : State) (o : Output) : (s.emit o).sram = s.sram := rfl
@[simp] theorem emit_dom (s : State) (o : Output) : (s.emit o).dom = s.dom := rfl
@[simp] theorem emit_pins (s : State) (o : Output) : (s.emit o).pins = s.pins := rfl
@[simp] theorem emit_pwr (s : State) (o : Output) : (s.emit o).pwr = s.pwr := rfl
@[simp] theorem emit_pm (s : State) (o : Output) : (s.emit o).pm = s.pm := rfl
@[simp] theorem emit_fuses (s : State) (o : Output) : (s.emit o).fuses = s.fuses := rfl
@[simp] theorem emit_boot (s : State) (o : Output) : (s.emit o).boot = s.boot := rfl
@[simp] theorem emit_ksc (s : State) (o : Output) : (s.emit o).ksc = s.ksc := rfl
@[simp] theorem emit_tap (s : State) (o : Output) : (s.emit o).tap = s.tap := rfl
@[simp] theorem emit_cohort (s : State) (o : Output) : (s.emit o).cohort = s.cohort := rfl
@[simp] theorem emit_hosts (s : State) (o : Output) : (s.emit o).hosts = s.hosts := rfl
@[simp] theorem emit_media (s : State) (o : Output) : (s.emit o).media = s.media := rfl
@[simp] theorem emit_nv (s : State) (o : Output) : (s.emit o).nv = s.nv := rfl
@[simp] theorem emit_pak (s : State) (o : Output) : (s.emit o).pak = s.pak := rfl
@[simp] theorem emit_mca (s : State) (o : Output) : (s.emit o).mca = s.mca := rfl
@[simp] theorem emit_chn (s : State) (o : Output) : (s.emit o).chn = s.chn := rfl
@[simp] theorem emit_abx (s : State) (o : Output) : (s.emit o).abx = s.abx := rfl
@[simp] theorem emit_svt (s : State) (o : Output) : (s.emit o).svt = s.svt := rfl
@[simp] theorem emit_cal (s : State) (o : Output) : (s.emit o).cal = s.cal := rfl
@[simp] theorem emit_dram (s : State) (o : Output) : (s.emit o).dram = s.dram := rfl
@[simp] theorem emit_mgt (s : State) (o : Output) : (s.emit o).mgt = s.mgt := rfl
@[simp] theorem emit_fsq (s : State) (o : Output) : (s.emit o).fsq = s.fsq := rfl
@[simp] theorem emit_wsq (s : State) (o : Output) : (s.emit o).wsq = s.wsq := rfl
@[simp] theorem emit_ucode (s : State) (o : Output) : (s.emit o).ucode = s.ucode := rfl
@[simp] theorem emit_fcu (s : State) (o : Output) : (s.emit o).fcu = s.fcu := rfl
@[simp] theorem emit_tly (s : State) (o : Output) : (s.emit o).tly = s.tly := rfl
@[simp] theorem emit_thm (s : State) (o : Output) : (s.emit o).thm = s.thm := rfl
@[simp] theorem emit_pending (s : State) (o : Output) : (s.emit o).pending = s.pending := rfl
@[simp] theorem emit_freeCount (s : State) (o : Output) : (s.emit o).freeCount = s.freeCount := rfl
@[simp] theorem emit_usInMs (s : State) (o : Output) : (s.emit o).usInMs = s.usInMs := rfl
@[simp] theorem resetBlock_sram (s : State) (a : Nat) : (s.resetBlock a).sram = s.sram := rfl
@[simp] theorem resetBlock_dom (s : State) (a : Nat) : (s.resetBlock a).dom = s.dom := rfl
@[simp] theorem resetBlock_pins (s : State) (a : Nat) : (s.resetBlock a).pins = s.pins := rfl
@[simp] theorem resetBlock_pwr (s : State) (a : Nat) : (s.resetBlock a).pwr = s.pwr := rfl
@[simp] theorem resetBlock_pm (s : State) (a : Nat) : (s.resetBlock a).pm = s.pm := rfl
@[simp] theorem resetBlock_fuses (s : State) (a : Nat) : (s.resetBlock a).fuses = s.fuses := rfl
@[simp] theorem resetBlock_boot (s : State) (a : Nat) : (s.resetBlock a).boot = s.boot := rfl
@[simp] theorem resetBlock_ksc (s : State) (a : Nat) : (s.resetBlock a).ksc = s.ksc := rfl
@[simp] theorem resetBlock_tap (s : State) (a : Nat) : (s.resetBlock a).tap = s.tap := rfl
@[simp] theorem resetBlock_cohort (s : State) (a : Nat) : (s.resetBlock a).cohort = s.cohort := rfl
@[simp] theorem resetBlock_hosts (s : State) (a : Nat) : (s.resetBlock a).hosts = s.hosts := rfl
@[simp] theorem resetBlock_media (s : State) (a : Nat) : (s.resetBlock a).media = s.media := rfl
@[simp] theorem resetBlock_nv (s : State) (a : Nat) : (s.resetBlock a).nv = s.nv := rfl
@[simp] theorem resetBlock_pak (s : State) (a : Nat) : (s.resetBlock a).pak = s.pak := rfl
@[simp] theorem resetBlock_mca (s : State) (a : Nat) : (s.resetBlock a).mca = s.mca := rfl
@[simp] theorem resetBlock_chn (s : State) (a : Nat) : (s.resetBlock a).chn = s.chn := rfl
@[simp] theorem resetBlock_abx (s : State) (a : Nat) : (s.resetBlock a).abx = s.abx := rfl
@[simp] theorem resetBlock_svt (s : State) (a : Nat) : (s.resetBlock a).svt = s.svt := rfl
@[simp] theorem resetBlock_cal (s : State) (a : Nat) : (s.resetBlock a).cal = s.cal := rfl
@[simp] theorem resetBlock_dram (s : State) (a : Nat) : (s.resetBlock a).dram = s.dram := rfl
@[simp] theorem resetBlock_mgt (s : State) (a : Nat) : (s.resetBlock a).mgt = s.mgt := rfl
@[simp] theorem resetBlock_fsq (s : State) (a : Nat) : (s.resetBlock a).fsq = s.fsq := rfl
@[simp] theorem resetBlock_wsq (s : State) (a : Nat) : (s.resetBlock a).wsq = s.wsq := rfl
@[simp] theorem resetBlock_ucode (s : State) (a : Nat) : (s.resetBlock a).ucode = s.ucode := rfl
@[simp] theorem resetBlock_fcu (s : State) (a : Nat) : (s.resetBlock a).fcu = s.fcu := rfl
@[simp] theorem resetBlock_tly (s : State) (a : Nat) : (s.resetBlock a).tly = s.tly := rfl
@[simp] theorem resetBlock_thm (s : State) (a : Nat) : (s.resetBlock a).thm = s.thm := rfl
@[simp] theorem resetBlock_pending (s : State) (a : Nat) : (s.resetBlock a).pending = s.pending := rfl
@[simp] theorem resetBlock_out (s : State) (a : Nat) : (s.resetBlock a).out = s.out := rfl
@[simp] theorem resetBlock_freeCount (s : State) (a : Nat) : (s.resetBlock a).freeCount = s.freeCount := rfl
@[simp] theorem resetBlock_usInMs (s : State) (a : Nat) : (s.resetBlock a).usInMs = s.usInMs := rfl
@[simp] theorem resetRange_sram (s : State) (a b : Nat) : (s.resetRange a b).sram = s.sram := rfl
@[simp] theorem resetRange_dom (s : State) (a b : Nat) : (s.resetRange a b).dom = s.dom := rfl
@[simp] theorem resetRange_pins (s : State) (a b : Nat) : (s.resetRange a b).pins = s.pins := rfl
@[simp] theorem resetRange_pwr (s : State) (a b : Nat) : (s.resetRange a b).pwr = s.pwr := rfl
@[simp] theorem resetRange_pm (s : State) (a b : Nat) : (s.resetRange a b).pm = s.pm := rfl
@[simp] theorem resetRange_fuses (s : State) (a b : Nat) : (s.resetRange a b).fuses = s.fuses := rfl
@[simp] theorem resetRange_boot (s : State) (a b : Nat) : (s.resetRange a b).boot = s.boot := rfl
@[simp] theorem resetRange_ksc (s : State) (a b : Nat) : (s.resetRange a b).ksc = s.ksc := rfl
@[simp] theorem resetRange_tap (s : State) (a b : Nat) : (s.resetRange a b).tap = s.tap := rfl
@[simp] theorem resetRange_cohort (s : State) (a b : Nat) : (s.resetRange a b).cohort = s.cohort := rfl
@[simp] theorem resetRange_hosts (s : State) (a b : Nat) : (s.resetRange a b).hosts = s.hosts := rfl
@[simp] theorem resetRange_media (s : State) (a b : Nat) : (s.resetRange a b).media = s.media := rfl
@[simp] theorem resetRange_nv (s : State) (a b : Nat) : (s.resetRange a b).nv = s.nv := rfl
@[simp] theorem resetRange_pak (s : State) (a b : Nat) : (s.resetRange a b).pak = s.pak := rfl
@[simp] theorem resetRange_mca (s : State) (a b : Nat) : (s.resetRange a b).mca = s.mca := rfl
@[simp] theorem resetRange_chn (s : State) (a b : Nat) : (s.resetRange a b).chn = s.chn := rfl
@[simp] theorem resetRange_abx (s : State) (a b : Nat) : (s.resetRange a b).abx = s.abx := rfl
@[simp] theorem resetRange_svt (s : State) (a b : Nat) : (s.resetRange a b).svt = s.svt := rfl
@[simp] theorem resetRange_cal (s : State) (a b : Nat) : (s.resetRange a b).cal = s.cal := rfl
@[simp] theorem resetRange_dram (s : State) (a b : Nat) : (s.resetRange a b).dram = s.dram := rfl
@[simp] theorem resetRange_mgt (s : State) (a b : Nat) : (s.resetRange a b).mgt = s.mgt := rfl
@[simp] theorem resetRange_fsq (s : State) (a b : Nat) : (s.resetRange a b).fsq = s.fsq := rfl
@[simp] theorem resetRange_wsq (s : State) (a b : Nat) : (s.resetRange a b).wsq = s.wsq := rfl
@[simp] theorem resetRange_ucode (s : State) (a b : Nat) : (s.resetRange a b).ucode = s.ucode := rfl
@[simp] theorem resetRange_fcu (s : State) (a b : Nat) : (s.resetRange a b).fcu = s.fcu := rfl
@[simp] theorem resetRange_tly (s : State) (a b : Nat) : (s.resetRange a b).tly = s.tly := rfl
@[simp] theorem resetRange_thm (s : State) (a b : Nat) : (s.resetRange a b).thm = s.thm := rfl
@[simp] theorem resetRange_pending (s : State) (a b : Nat) : (s.resetRange a b).pending = s.pending := rfl
@[simp] theorem resetRange_out (s : State) (a b : Nat) : (s.resetRange a b).out = s.out := rfl
@[simp] theorem resetRange_freeCount (s : State) (a b : Nat) : (s.resetRange a b).freeCount = s.freeCount := rfl
@[simp] theorem resetRange_usInMs (s : State) (a b : Nat) : (s.resetRange a b).usInMs = s.usInMs := rfl
@[simp] theorem setBitAt_sram (s : State) (f : Fld) (i : Nat) : (s.setBitAt f i).sram = s.sram := rfl
@[simp] theorem setBitAt_dom (s : State) (f : Fld) (i : Nat) : (s.setBitAt f i).dom = s.dom := rfl
@[simp] theorem setBitAt_pins (s : State) (f : Fld) (i : Nat) : (s.setBitAt f i).pins = s.pins := rfl
@[simp] theorem setBitAt_pwr (s : State) (f : Fld) (i : Nat) : (s.setBitAt f i).pwr = s.pwr := rfl
@[simp] theorem setBitAt_pm (s : State) (f : Fld) (i : Nat) : (s.setBitAt f i).pm = s.pm := rfl
@[simp] theorem setBitAt_fuses (s : State) (f : Fld) (i : Nat) : (s.setBitAt f i).fuses = s.fuses := rfl
@[simp] theorem setBitAt_boot (s : State) (f : Fld) (i : Nat) : (s.setBitAt f i).boot = s.boot := rfl
@[simp] theorem setBitAt_ksc (s : State) (f : Fld) (i : Nat) : (s.setBitAt f i).ksc = s.ksc := rfl
@[simp] theorem setBitAt_tap (s : State) (f : Fld) (i : Nat) : (s.setBitAt f i).tap = s.tap := rfl
@[simp] theorem setBitAt_cohort (s : State) (f : Fld) (i : Nat) : (s.setBitAt f i).cohort = s.cohort := rfl
@[simp] theorem setBitAt_hosts (s : State) (f : Fld) (i : Nat) : (s.setBitAt f i).hosts = s.hosts := rfl
@[simp] theorem setBitAt_media (s : State) (f : Fld) (i : Nat) : (s.setBitAt f i).media = s.media := rfl
@[simp] theorem setBitAt_nv (s : State) (f : Fld) (i : Nat) : (s.setBitAt f i).nv = s.nv := rfl
@[simp] theorem setBitAt_pak (s : State) (f : Fld) (i : Nat) : (s.setBitAt f i).pak = s.pak := rfl
@[simp] theorem setBitAt_mca (s : State) (f : Fld) (i : Nat) : (s.setBitAt f i).mca = s.mca := rfl
@[simp] theorem setBitAt_chn (s : State) (f : Fld) (i : Nat) : (s.setBitAt f i).chn = s.chn := rfl
@[simp] theorem setBitAt_abx (s : State) (f : Fld) (i : Nat) : (s.setBitAt f i).abx = s.abx := rfl
@[simp] theorem setBitAt_svt (s : State) (f : Fld) (i : Nat) : (s.setBitAt f i).svt = s.svt := rfl
@[simp] theorem setBitAt_cal (s : State) (f : Fld) (i : Nat) : (s.setBitAt f i).cal = s.cal := rfl
@[simp] theorem setBitAt_dram (s : State) (f : Fld) (i : Nat) : (s.setBitAt f i).dram = s.dram := rfl
@[simp] theorem setBitAt_mgt (s : State) (f : Fld) (i : Nat) : (s.setBitAt f i).mgt = s.mgt := rfl
@[simp] theorem setBitAt_fsq (s : State) (f : Fld) (i : Nat) : (s.setBitAt f i).fsq = s.fsq := rfl
@[simp] theorem setBitAt_wsq (s : State) (f : Fld) (i : Nat) : (s.setBitAt f i).wsq = s.wsq := rfl
@[simp] theorem setBitAt_ucode (s : State) (f : Fld) (i : Nat) : (s.setBitAt f i).ucode = s.ucode := rfl
@[simp] theorem setBitAt_fcu (s : State) (f : Fld) (i : Nat) : (s.setBitAt f i).fcu = s.fcu := rfl
@[simp] theorem setBitAt_tly (s : State) (f : Fld) (i : Nat) : (s.setBitAt f i).tly = s.tly := rfl
@[simp] theorem setBitAt_thm (s : State) (f : Fld) (i : Nat) : (s.setBitAt f i).thm = s.thm := rfl
@[simp] theorem setBitAt_pending (s : State) (f : Fld) (i : Nat) : (s.setBitAt f i).pending = s.pending := rfl
@[simp] theorem setBitAt_out (s : State) (f : Fld) (i : Nat) : (s.setBitAt f i).out = s.out := rfl
@[simp] theorem setBitAt_freeCount (s : State) (f : Fld) (i : Nat) : (s.setBitAt f i).freeCount = s.freeCount := rfl
@[simp] theorem setBitAt_usInMs (s : State) (f : Fld) (i : Nat) : (s.setBitAt f i).usInMs = s.usInMs := rfl
@[simp] theorem clrBitAt_sram (s : State) (f : Fld) (i : Nat) : (s.clrBitAt f i).sram = s.sram := rfl
@[simp] theorem clrBitAt_dom (s : State) (f : Fld) (i : Nat) : (s.clrBitAt f i).dom = s.dom := rfl
@[simp] theorem clrBitAt_pins (s : State) (f : Fld) (i : Nat) : (s.clrBitAt f i).pins = s.pins := rfl
@[simp] theorem clrBitAt_pwr (s : State) (f : Fld) (i : Nat) : (s.clrBitAt f i).pwr = s.pwr := rfl
@[simp] theorem clrBitAt_pm (s : State) (f : Fld) (i : Nat) : (s.clrBitAt f i).pm = s.pm := rfl
@[simp] theorem clrBitAt_fuses (s : State) (f : Fld) (i : Nat) : (s.clrBitAt f i).fuses = s.fuses := rfl
@[simp] theorem clrBitAt_boot (s : State) (f : Fld) (i : Nat) : (s.clrBitAt f i).boot = s.boot := rfl
@[simp] theorem clrBitAt_ksc (s : State) (f : Fld) (i : Nat) : (s.clrBitAt f i).ksc = s.ksc := rfl
@[simp] theorem clrBitAt_tap (s : State) (f : Fld) (i : Nat) : (s.clrBitAt f i).tap = s.tap := rfl
@[simp] theorem clrBitAt_cohort (s : State) (f : Fld) (i : Nat) : (s.clrBitAt f i).cohort = s.cohort := rfl
@[simp] theorem clrBitAt_hosts (s : State) (f : Fld) (i : Nat) : (s.clrBitAt f i).hosts = s.hosts := rfl
@[simp] theorem clrBitAt_media (s : State) (f : Fld) (i : Nat) : (s.clrBitAt f i).media = s.media := rfl
@[simp] theorem clrBitAt_nv (s : State) (f : Fld) (i : Nat) : (s.clrBitAt f i).nv = s.nv := rfl
@[simp] theorem clrBitAt_pak (s : State) (f : Fld) (i : Nat) : (s.clrBitAt f i).pak = s.pak := rfl
@[simp] theorem clrBitAt_mca (s : State) (f : Fld) (i : Nat) : (s.clrBitAt f i).mca = s.mca := rfl
@[simp] theorem clrBitAt_chn (s : State) (f : Fld) (i : Nat) : (s.clrBitAt f i).chn = s.chn := rfl
@[simp] theorem clrBitAt_abx (s : State) (f : Fld) (i : Nat) : (s.clrBitAt f i).abx = s.abx := rfl
@[simp] theorem clrBitAt_svt (s : State) (f : Fld) (i : Nat) : (s.clrBitAt f i).svt = s.svt := rfl
@[simp] theorem clrBitAt_cal (s : State) (f : Fld) (i : Nat) : (s.clrBitAt f i).cal = s.cal := rfl
@[simp] theorem clrBitAt_dram (s : State) (f : Fld) (i : Nat) : (s.clrBitAt f i).dram = s.dram := rfl
@[simp] theorem clrBitAt_mgt (s : State) (f : Fld) (i : Nat) : (s.clrBitAt f i).mgt = s.mgt := rfl
@[simp] theorem clrBitAt_fsq (s : State) (f : Fld) (i : Nat) : (s.clrBitAt f i).fsq = s.fsq := rfl
@[simp] theorem clrBitAt_wsq (s : State) (f : Fld) (i : Nat) : (s.clrBitAt f i).wsq = s.wsq := rfl
@[simp] theorem clrBitAt_ucode (s : State) (f : Fld) (i : Nat) : (s.clrBitAt f i).ucode = s.ucode := rfl
@[simp] theorem clrBitAt_fcu (s : State) (f : Fld) (i : Nat) : (s.clrBitAt f i).fcu = s.fcu := rfl
@[simp] theorem clrBitAt_tly (s : State) (f : Fld) (i : Nat) : (s.clrBitAt f i).tly = s.tly := rfl
@[simp] theorem clrBitAt_thm (s : State) (f : Fld) (i : Nat) : (s.clrBitAt f i).thm = s.thm := rfl
@[simp] theorem clrBitAt_pending (s : State) (f : Fld) (i : Nat) : (s.clrBitAt f i).pending = s.pending := rfl
@[simp] theorem clrBitAt_out (s : State) (f : Fld) (i : Nat) : (s.clrBitAt f i).out = s.out := rfl
@[simp] theorem clrBitAt_freeCount (s : State) (f : Fld) (i : Nat) : (s.clrBitAt f i).freeCount = s.freeCount := rfl
@[simp] theorem clrBitAt_usInMs (s : State) (f : Fld) (i : Nat) : (s.clrBitAt f i).usInMs = s.usInMs := rfl
@[simp] theorem putBitAt_sram (s : State) (f : Fld) (i : Nat) (b : Bool) : (s.putBitAt f i b).sram = s.sram := rfl
@[simp] theorem putBitAt_dom (s : State) (f : Fld) (i : Nat) (b : Bool) : (s.putBitAt f i b).dom = s.dom := rfl
@[simp] theorem putBitAt_pins (s : State) (f : Fld) (i : Nat) (b : Bool) : (s.putBitAt f i b).pins = s.pins := rfl
@[simp] theorem putBitAt_pwr (s : State) (f : Fld) (i : Nat) (b : Bool) : (s.putBitAt f i b).pwr = s.pwr := rfl
@[simp] theorem putBitAt_pm (s : State) (f : Fld) (i : Nat) (b : Bool) : (s.putBitAt f i b).pm = s.pm := rfl
@[simp] theorem putBitAt_fuses (s : State) (f : Fld) (i : Nat) (b : Bool) : (s.putBitAt f i b).fuses = s.fuses := rfl
@[simp] theorem putBitAt_boot (s : State) (f : Fld) (i : Nat) (b : Bool) : (s.putBitAt f i b).boot = s.boot := rfl
@[simp] theorem putBitAt_ksc (s : State) (f : Fld) (i : Nat) (b : Bool) : (s.putBitAt f i b).ksc = s.ksc := rfl
@[simp] theorem putBitAt_tap (s : State) (f : Fld) (i : Nat) (b : Bool) : (s.putBitAt f i b).tap = s.tap := rfl
@[simp] theorem putBitAt_cohort (s : State) (f : Fld) (i : Nat) (b : Bool) : (s.putBitAt f i b).cohort = s.cohort := rfl
@[simp] theorem putBitAt_hosts (s : State) (f : Fld) (i : Nat) (b : Bool) : (s.putBitAt f i b).hosts = s.hosts := rfl
@[simp] theorem putBitAt_media (s : State) (f : Fld) (i : Nat) (b : Bool) : (s.putBitAt f i b).media = s.media := rfl
@[simp] theorem putBitAt_nv (s : State) (f : Fld) (i : Nat) (b : Bool) : (s.putBitAt f i b).nv = s.nv := rfl
@[simp] theorem putBitAt_pak (s : State) (f : Fld) (i : Nat) (b : Bool) : (s.putBitAt f i b).pak = s.pak := rfl
@[simp] theorem putBitAt_mca (s : State) (f : Fld) (i : Nat) (b : Bool) : (s.putBitAt f i b).mca = s.mca := rfl
@[simp] theorem putBitAt_chn (s : State) (f : Fld) (i : Nat) (b : Bool) : (s.putBitAt f i b).chn = s.chn := rfl
@[simp] theorem putBitAt_abx (s : State) (f : Fld) (i : Nat) (b : Bool) : (s.putBitAt f i b).abx = s.abx := rfl
@[simp] theorem putBitAt_svt (s : State) (f : Fld) (i : Nat) (b : Bool) : (s.putBitAt f i b).svt = s.svt := rfl
@[simp] theorem putBitAt_cal (s : State) (f : Fld) (i : Nat) (b : Bool) : (s.putBitAt f i b).cal = s.cal := rfl
@[simp] theorem putBitAt_dram (s : State) (f : Fld) (i : Nat) (b : Bool) : (s.putBitAt f i b).dram = s.dram := rfl
@[simp] theorem putBitAt_mgt (s : State) (f : Fld) (i : Nat) (b : Bool) : (s.putBitAt f i b).mgt = s.mgt := rfl
@[simp] theorem putBitAt_fsq (s : State) (f : Fld) (i : Nat) (b : Bool) : (s.putBitAt f i b).fsq = s.fsq := rfl
@[simp] theorem putBitAt_wsq (s : State) (f : Fld) (i : Nat) (b : Bool) : (s.putBitAt f i b).wsq = s.wsq := rfl
@[simp] theorem putBitAt_ucode (s : State) (f : Fld) (i : Nat) (b : Bool) : (s.putBitAt f i b).ucode = s.ucode := rfl
@[simp] theorem putBitAt_fcu (s : State) (f : Fld) (i : Nat) (b : Bool) : (s.putBitAt f i b).fcu = s.fcu := rfl
@[simp] theorem putBitAt_tly (s : State) (f : Fld) (i : Nat) (b : Bool) : (s.putBitAt f i b).tly = s.tly := rfl
@[simp] theorem putBitAt_thm (s : State) (f : Fld) (i : Nat) (b : Bool) : (s.putBitAt f i b).thm = s.thm := rfl
@[simp] theorem putBitAt_pending (s : State) (f : Fld) (i : Nat) (b : Bool) : (s.putBitAt f i b).pending = s.pending := rfl
@[simp] theorem putBitAt_out (s : State) (f : Fld) (i : Nat) (b : Bool) : (s.putBitAt f i b).out = s.out := rfl
@[simp] theorem putBitAt_freeCount (s : State) (f : Fld) (i : Nat) (b : Bool) : (s.putBitAt f i b).freeCount = s.freeCount := rfl
@[simp] theorem putBitAt_usInMs (s : State) (f : Fld) (i : Nat) (b : Bool) : (s.putBitAt f i b).usInMs = s.usInMs := rfl
@[simp] theorem wrFlag_sram (s : State) (f : Fld) (b : Bool) : (s.wrFlag f b).sram = s.sram := rfl
@[simp] theorem wrFlag_dom (s : State) (f : Fld) (b : Bool) : (s.wrFlag f b).dom = s.dom := rfl
@[simp] theorem wrFlag_pins (s : State) (f : Fld) (b : Bool) : (s.wrFlag f b).pins = s.pins := rfl
@[simp] theorem wrFlag_pwr (s : State) (f : Fld) (b : Bool) : (s.wrFlag f b).pwr = s.pwr := rfl
@[simp] theorem wrFlag_pm (s : State) (f : Fld) (b : Bool) : (s.wrFlag f b).pm = s.pm := rfl
@[simp] theorem wrFlag_fuses (s : State) (f : Fld) (b : Bool) : (s.wrFlag f b).fuses = s.fuses := rfl
@[simp] theorem wrFlag_boot (s : State) (f : Fld) (b : Bool) : (s.wrFlag f b).boot = s.boot := rfl
@[simp] theorem wrFlag_ksc (s : State) (f : Fld) (b : Bool) : (s.wrFlag f b).ksc = s.ksc := rfl
@[simp] theorem wrFlag_tap (s : State) (f : Fld) (b : Bool) : (s.wrFlag f b).tap = s.tap := rfl
@[simp] theorem wrFlag_cohort (s : State) (f : Fld) (b : Bool) : (s.wrFlag f b).cohort = s.cohort := rfl
@[simp] theorem wrFlag_hosts (s : State) (f : Fld) (b : Bool) : (s.wrFlag f b).hosts = s.hosts := rfl
@[simp] theorem wrFlag_media (s : State) (f : Fld) (b : Bool) : (s.wrFlag f b).media = s.media := rfl
@[simp] theorem wrFlag_nv (s : State) (f : Fld) (b : Bool) : (s.wrFlag f b).nv = s.nv := rfl
@[simp] theorem wrFlag_pak (s : State) (f : Fld) (b : Bool) : (s.wrFlag f b).pak = s.pak := rfl
@[simp] theorem wrFlag_mca (s : State) (f : Fld) (b : Bool) : (s.wrFlag f b).mca = s.mca := rfl
@[simp] theorem wrFlag_chn (s : State) (f : Fld) (b : Bool) : (s.wrFlag f b).chn = s.chn := rfl
@[simp] theorem wrFlag_abx (s : State) (f : Fld) (b : Bool) : (s.wrFlag f b).abx = s.abx := rfl
@[simp] theorem wrFlag_svt (s : State) (f : Fld) (b : Bool) : (s.wrFlag f b).svt = s.svt := rfl
@[simp] theorem wrFlag_cal (s : State) (f : Fld) (b : Bool) : (s.wrFlag f b).cal = s.cal := rfl
@[simp] theorem wrFlag_dram (s : State) (f : Fld) (b : Bool) : (s.wrFlag f b).dram = s.dram := rfl
@[simp] theorem wrFlag_mgt (s : State) (f : Fld) (b : Bool) : (s.wrFlag f b).mgt = s.mgt := rfl
@[simp] theorem wrFlag_fsq (s : State) (f : Fld) (b : Bool) : (s.wrFlag f b).fsq = s.fsq := rfl
@[simp] theorem wrFlag_wsq (s : State) (f : Fld) (b : Bool) : (s.wrFlag f b).wsq = s.wsq := rfl
@[simp] theorem wrFlag_ucode (s : State) (f : Fld) (b : Bool) : (s.wrFlag f b).ucode = s.ucode := rfl
@[simp] theorem wrFlag_fcu (s : State) (f : Fld) (b : Bool) : (s.wrFlag f b).fcu = s.fcu := rfl
@[simp] theorem wrFlag_tly (s : State) (f : Fld) (b : Bool) : (s.wrFlag f b).tly = s.tly := rfl
@[simp] theorem wrFlag_thm (s : State) (f : Fld) (b : Bool) : (s.wrFlag f b).thm = s.thm := rfl
@[simp] theorem wrFlag_pending (s : State) (f : Fld) (b : Bool) : (s.wrFlag f b).pending = s.pending := rfl
@[simp] theorem wrFlag_out (s : State) (f : Fld) (b : Bool) : (s.wrFlag f b).out = s.out := rfl
@[simp] theorem wrFlag_freeCount (s : State) (f : Fld) (b : Bool) : (s.wrFlag f b).freeCount = s.freeCount := rfl
@[simp] theorem wrFlag_usInMs (s : State) (f : Fld) (b : Bool) : (s.wrFlag f b).usInMs = s.usInMs := rfl
@[simp] theorem count_sram (s : State) (f : Fld) (d : Nat) : (s.count f d).sram = s.sram := rfl
@[simp] theorem count_dom (s : State) (f : Fld) (d : Nat) : (s.count f d).dom = s.dom := rfl
@[simp] theorem count_pins (s : State) (f : Fld) (d : Nat) : (s.count f d).pins = s.pins := rfl
@[simp] theorem count_pwr (s : State) (f : Fld) (d : Nat) : (s.count f d).pwr = s.pwr := rfl
@[simp] theorem count_pm (s : State) (f : Fld) (d : Nat) : (s.count f d).pm = s.pm := rfl
@[simp] theorem count_fuses (s : State) (f : Fld) (d : Nat) : (s.count f d).fuses = s.fuses := rfl
@[simp] theorem count_boot (s : State) (f : Fld) (d : Nat) : (s.count f d).boot = s.boot := rfl
@[simp] theorem count_ksc (s : State) (f : Fld) (d : Nat) : (s.count f d).ksc = s.ksc := rfl
@[simp] theorem count_tap (s : State) (f : Fld) (d : Nat) : (s.count f d).tap = s.tap := rfl
@[simp] theorem count_cohort (s : State) (f : Fld) (d : Nat) : (s.count f d).cohort = s.cohort := rfl
@[simp] theorem count_hosts (s : State) (f : Fld) (d : Nat) : (s.count f d).hosts = s.hosts := rfl
@[simp] theorem count_media (s : State) (f : Fld) (d : Nat) : (s.count f d).media = s.media := rfl
@[simp] theorem count_nv (s : State) (f : Fld) (d : Nat) : (s.count f d).nv = s.nv := rfl
@[simp] theorem count_pak (s : State) (f : Fld) (d : Nat) : (s.count f d).pak = s.pak := rfl
@[simp] theorem count_mca (s : State) (f : Fld) (d : Nat) : (s.count f d).mca = s.mca := rfl
@[simp] theorem count_chn (s : State) (f : Fld) (d : Nat) : (s.count f d).chn = s.chn := rfl
@[simp] theorem count_abx (s : State) (f : Fld) (d : Nat) : (s.count f d).abx = s.abx := rfl
@[simp] theorem count_svt (s : State) (f : Fld) (d : Nat) : (s.count f d).svt = s.svt := rfl
@[simp] theorem count_cal (s : State) (f : Fld) (d : Nat) : (s.count f d).cal = s.cal := rfl
@[simp] theorem count_dram (s : State) (f : Fld) (d : Nat) : (s.count f d).dram = s.dram := rfl
@[simp] theorem count_mgt (s : State) (f : Fld) (d : Nat) : (s.count f d).mgt = s.mgt := rfl
@[simp] theorem count_fsq (s : State) (f : Fld) (d : Nat) : (s.count f d).fsq = s.fsq := rfl
@[simp] theorem count_wsq (s : State) (f : Fld) (d : Nat) : (s.count f d).wsq = s.wsq := rfl
@[simp] theorem count_ucode (s : State) (f : Fld) (d : Nat) : (s.count f d).ucode = s.ucode := rfl
@[simp] theorem count_fcu (s : State) (f : Fld) (d : Nat) : (s.count f d).fcu = s.fcu := rfl
@[simp] theorem count_tly (s : State) (f : Fld) (d : Nat) : (s.count f d).tly = s.tly := rfl
@[simp] theorem count_thm (s : State) (f : Fld) (d : Nat) : (s.count f d).thm = s.thm := rfl
@[simp] theorem count_pending (s : State) (f : Fld) (d : Nat) : (s.count f d).pending = s.pending := rfl
@[simp] theorem count_out (s : State) (f : Fld) (d : Nat) : (s.count f d).out = s.out := rfl
@[simp] theorem count_freeCount (s : State) (f : Fld) (d : Nat) : (s.count f d).freeCount = s.freeCount := rfl
@[simp] theorem count_usInMs (s : State) (f : Fld) (d : Nat) : (s.count f d).usInMs = s.usInMs := rfl
@[simp] theorem advance_sram (s : State) (f : Fld) (d : Nat) : (s.advance f d).sram = s.sram := rfl
@[simp] theorem advance_dom (s : State) (f : Fld) (d : Nat) : (s.advance f d).dom = s.dom := rfl
@[simp] theorem advance_pins (s : State) (f : Fld) (d : Nat) : (s.advance f d).pins = s.pins := rfl
@[simp] theorem advance_pwr (s : State) (f : Fld) (d : Nat) : (s.advance f d).pwr = s.pwr := rfl
@[simp] theorem advance_pm (s : State) (f : Fld) (d : Nat) : (s.advance f d).pm = s.pm := rfl
@[simp] theorem advance_fuses (s : State) (f : Fld) (d : Nat) : (s.advance f d).fuses = s.fuses := rfl
@[simp] theorem advance_boot (s : State) (f : Fld) (d : Nat) : (s.advance f d).boot = s.boot := rfl
@[simp] theorem advance_ksc (s : State) (f : Fld) (d : Nat) : (s.advance f d).ksc = s.ksc := rfl
@[simp] theorem advance_tap (s : State) (f : Fld) (d : Nat) : (s.advance f d).tap = s.tap := rfl
@[simp] theorem advance_cohort (s : State) (f : Fld) (d : Nat) : (s.advance f d).cohort = s.cohort := rfl
@[simp] theorem advance_hosts (s : State) (f : Fld) (d : Nat) : (s.advance f d).hosts = s.hosts := rfl
@[simp] theorem advance_media (s : State) (f : Fld) (d : Nat) : (s.advance f d).media = s.media := rfl
@[simp] theorem advance_nv (s : State) (f : Fld) (d : Nat) : (s.advance f d).nv = s.nv := rfl
@[simp] theorem advance_pak (s : State) (f : Fld) (d : Nat) : (s.advance f d).pak = s.pak := rfl
@[simp] theorem advance_mca (s : State) (f : Fld) (d : Nat) : (s.advance f d).mca = s.mca := rfl
@[simp] theorem advance_chn (s : State) (f : Fld) (d : Nat) : (s.advance f d).chn = s.chn := rfl
@[simp] theorem advance_abx (s : State) (f : Fld) (d : Nat) : (s.advance f d).abx = s.abx := rfl
@[simp] theorem advance_svt (s : State) (f : Fld) (d : Nat) : (s.advance f d).svt = s.svt := rfl
@[simp] theorem advance_cal (s : State) (f : Fld) (d : Nat) : (s.advance f d).cal = s.cal := rfl
@[simp] theorem advance_dram (s : State) (f : Fld) (d : Nat) : (s.advance f d).dram = s.dram := rfl
@[simp] theorem advance_mgt (s : State) (f : Fld) (d : Nat) : (s.advance f d).mgt = s.mgt := rfl
@[simp] theorem advance_fsq (s : State) (f : Fld) (d : Nat) : (s.advance f d).fsq = s.fsq := rfl
@[simp] theorem advance_wsq (s : State) (f : Fld) (d : Nat) : (s.advance f d).wsq = s.wsq := rfl
@[simp] theorem advance_ucode (s : State) (f : Fld) (d : Nat) : (s.advance f d).ucode = s.ucode := rfl
@[simp] theorem advance_fcu (s : State) (f : Fld) (d : Nat) : (s.advance f d).fcu = s.fcu := rfl
@[simp] theorem advance_tly (s : State) (f : Fld) (d : Nat) : (s.advance f d).tly = s.tly := rfl
@[simp] theorem advance_thm (s : State) (f : Fld) (d : Nat) : (s.advance f d).thm = s.thm := rfl
@[simp] theorem advance_pending (s : State) (f : Fld) (d : Nat) : (s.advance f d).pending = s.pending := rfl
@[simp] theorem advance_out (s : State) (f : Fld) (d : Nat) : (s.advance f d).out = s.out := rfl
@[simp] theorem advance_freeCount (s : State) (f : Fld) (d : Nat) : (s.advance f d).freeCount = s.freeCount := rfl
@[simp] theorem advance_usInMs (s : State) (f : Fld) (d : Nat) : (s.advance f d).usInMs = s.usInMs := rfl
@[simp] theorem raise_sram (s : State) (n : Nat) : (s.raise n).sram = s.sram := by unfold State.raise; exact setBitAt_sram ..
@[simp] theorem raise_dom (s : State) (n : Nat) : (s.raise n).dom = s.dom := by unfold State.raise; exact setBitAt_dom ..
@[simp] theorem raise_pins (s : State) (n : Nat) : (s.raise n).pins = s.pins := by unfold State.raise; exact setBitAt_pins ..
@[simp] theorem raise_pwr (s : State) (n : Nat) : (s.raise n).pwr = s.pwr := by unfold State.raise; exact setBitAt_pwr ..
@[simp] theorem raise_pm (s : State) (n : Nat) : (s.raise n).pm = s.pm := by unfold State.raise; exact setBitAt_pm ..
@[simp] theorem raise_fuses (s : State) (n : Nat) : (s.raise n).fuses = s.fuses := by unfold State.raise; exact setBitAt_fuses ..
@[simp] theorem raise_boot (s : State) (n : Nat) : (s.raise n).boot = s.boot := by unfold State.raise; exact setBitAt_boot ..
@[simp] theorem raise_ksc (s : State) (n : Nat) : (s.raise n).ksc = s.ksc := by unfold State.raise; exact setBitAt_ksc ..
@[simp] theorem raise_tap (s : State) (n : Nat) : (s.raise n).tap = s.tap := by unfold State.raise; exact setBitAt_tap ..
@[simp] theorem raise_cohort (s : State) (n : Nat) : (s.raise n).cohort = s.cohort := by unfold State.raise; exact setBitAt_cohort ..
@[simp] theorem raise_hosts (s : State) (n : Nat) : (s.raise n).hosts = s.hosts := by unfold State.raise; exact setBitAt_hosts ..
@[simp] theorem raise_media (s : State) (n : Nat) : (s.raise n).media = s.media := by unfold State.raise; exact setBitAt_media ..
@[simp] theorem raise_nv (s : State) (n : Nat) : (s.raise n).nv = s.nv := by unfold State.raise; exact setBitAt_nv ..
@[simp] theorem raise_pak (s : State) (n : Nat) : (s.raise n).pak = s.pak := by unfold State.raise; exact setBitAt_pak ..
@[simp] theorem raise_mca (s : State) (n : Nat) : (s.raise n).mca = s.mca := by unfold State.raise; exact setBitAt_mca ..
@[simp] theorem raise_chn (s : State) (n : Nat) : (s.raise n).chn = s.chn := by unfold State.raise; exact setBitAt_chn ..
@[simp] theorem raise_abx (s : State) (n : Nat) : (s.raise n).abx = s.abx := by unfold State.raise; exact setBitAt_abx ..
@[simp] theorem raise_svt (s : State) (n : Nat) : (s.raise n).svt = s.svt := by unfold State.raise; exact setBitAt_svt ..
@[simp] theorem raise_cal (s : State) (n : Nat) : (s.raise n).cal = s.cal := by unfold State.raise; exact setBitAt_cal ..
@[simp] theorem raise_dram (s : State) (n : Nat) : (s.raise n).dram = s.dram := by unfold State.raise; exact setBitAt_dram ..
@[simp] theorem raise_mgt (s : State) (n : Nat) : (s.raise n).mgt = s.mgt := by unfold State.raise; exact setBitAt_mgt ..
@[simp] theorem raise_fsq (s : State) (n : Nat) : (s.raise n).fsq = s.fsq := by unfold State.raise; exact setBitAt_fsq ..
@[simp] theorem raise_wsq (s : State) (n : Nat) : (s.raise n).wsq = s.wsq := by unfold State.raise; exact setBitAt_wsq ..
@[simp] theorem raise_ucode (s : State) (n : Nat) : (s.raise n).ucode = s.ucode := by unfold State.raise; exact setBitAt_ucode ..
@[simp] theorem raise_fcu (s : State) (n : Nat) : (s.raise n).fcu = s.fcu := by unfold State.raise; exact setBitAt_fcu ..
@[simp] theorem raise_tly (s : State) (n : Nat) : (s.raise n).tly = s.tly := by unfold State.raise; exact setBitAt_tly ..
@[simp] theorem raise_thm (s : State) (n : Nat) : (s.raise n).thm = s.thm := by unfold State.raise; exact setBitAt_thm ..
@[simp] theorem raise_pending (s : State) (n : Nat) : (s.raise n).pending = s.pending := by unfold State.raise; exact setBitAt_pending ..
@[simp] theorem raise_out (s : State) (n : Nat) : (s.raise n).out = s.out := by unfold State.raise; exact setBitAt_out ..
@[simp] theorem raise_freeCount (s : State) (n : Nat) : (s.raise n).freeCount = s.freeCount := by unfold State.raise; exact setBitAt_freeCount ..
@[simp] theorem raise_usInMs (s : State) (n : Nat) : (s.raise n).usInMs = s.usInMs := by unfold State.raise; exact setBitAt_usInMs ..
@[simp] theorem raiseTo_sram (s : State) (f : Fld) (v : Nat) : (s.raiseTo f v).sram = s.sram := by unfold State.raiseTo; split; exact wr_sram ..; rfl
@[simp] theorem raiseTo_dom (s : State) (f : Fld) (v : Nat) : (s.raiseTo f v).dom = s.dom := by unfold State.raiseTo; split; exact wr_dom ..; rfl
@[simp] theorem raiseTo_pins (s : State) (f : Fld) (v : Nat) : (s.raiseTo f v).pins = s.pins := by unfold State.raiseTo; split; exact wr_pins ..; rfl
@[simp] theorem raiseTo_pwr (s : State) (f : Fld) (v : Nat) : (s.raiseTo f v).pwr = s.pwr := by unfold State.raiseTo; split; exact wr_pwr ..; rfl
@[simp] theorem raiseTo_pm (s : State) (f : Fld) (v : Nat) : (s.raiseTo f v).pm = s.pm := by unfold State.raiseTo; split; exact wr_pm ..; rfl
@[simp] theorem raiseTo_fuses (s : State) (f : Fld) (v : Nat) : (s.raiseTo f v).fuses = s.fuses := by unfold State.raiseTo; split; exact wr_fuses ..; rfl
@[simp] theorem raiseTo_boot (s : State) (f : Fld) (v : Nat) : (s.raiseTo f v).boot = s.boot := by unfold State.raiseTo; split; exact wr_boot ..; rfl
@[simp] theorem raiseTo_ksc (s : State) (f : Fld) (v : Nat) : (s.raiseTo f v).ksc = s.ksc := by unfold State.raiseTo; split; exact wr_ksc ..; rfl
@[simp] theorem raiseTo_tap (s : State) (f : Fld) (v : Nat) : (s.raiseTo f v).tap = s.tap := by unfold State.raiseTo; split; exact wr_tap ..; rfl
@[simp] theorem raiseTo_cohort (s : State) (f : Fld) (v : Nat) : (s.raiseTo f v).cohort = s.cohort := by unfold State.raiseTo; split; exact wr_cohort ..; rfl
@[simp] theorem raiseTo_hosts (s : State) (f : Fld) (v : Nat) : (s.raiseTo f v).hosts = s.hosts := by unfold State.raiseTo; split; exact wr_hosts ..; rfl
@[simp] theorem raiseTo_media (s : State) (f : Fld) (v : Nat) : (s.raiseTo f v).media = s.media := by unfold State.raiseTo; split; exact wr_media ..; rfl
@[simp] theorem raiseTo_nv (s : State) (f : Fld) (v : Nat) : (s.raiseTo f v).nv = s.nv := by unfold State.raiseTo; split; exact wr_nv ..; rfl
@[simp] theorem raiseTo_pak (s : State) (f : Fld) (v : Nat) : (s.raiseTo f v).pak = s.pak := by unfold State.raiseTo; split; exact wr_pak ..; rfl
@[simp] theorem raiseTo_mca (s : State) (f : Fld) (v : Nat) : (s.raiseTo f v).mca = s.mca := by unfold State.raiseTo; split; exact wr_mca ..; rfl
@[simp] theorem raiseTo_chn (s : State) (f : Fld) (v : Nat) : (s.raiseTo f v).chn = s.chn := by unfold State.raiseTo; split; exact wr_chn ..; rfl
@[simp] theorem raiseTo_abx (s : State) (f : Fld) (v : Nat) : (s.raiseTo f v).abx = s.abx := by unfold State.raiseTo; split; exact wr_abx ..; rfl
@[simp] theorem raiseTo_svt (s : State) (f : Fld) (v : Nat) : (s.raiseTo f v).svt = s.svt := by unfold State.raiseTo; split; exact wr_svt ..; rfl
@[simp] theorem raiseTo_cal (s : State) (f : Fld) (v : Nat) : (s.raiseTo f v).cal = s.cal := by unfold State.raiseTo; split; exact wr_cal ..; rfl
@[simp] theorem raiseTo_dram (s : State) (f : Fld) (v : Nat) : (s.raiseTo f v).dram = s.dram := by unfold State.raiseTo; split; exact wr_dram ..; rfl
@[simp] theorem raiseTo_mgt (s : State) (f : Fld) (v : Nat) : (s.raiseTo f v).mgt = s.mgt := by unfold State.raiseTo; split; exact wr_mgt ..; rfl
@[simp] theorem raiseTo_fsq (s : State) (f : Fld) (v : Nat) : (s.raiseTo f v).fsq = s.fsq := by unfold State.raiseTo; split; exact wr_fsq ..; rfl
@[simp] theorem raiseTo_wsq (s : State) (f : Fld) (v : Nat) : (s.raiseTo f v).wsq = s.wsq := by unfold State.raiseTo; split; exact wr_wsq ..; rfl
@[simp] theorem raiseTo_ucode (s : State) (f : Fld) (v : Nat) : (s.raiseTo f v).ucode = s.ucode := by unfold State.raiseTo; split; exact wr_ucode ..; rfl
@[simp] theorem raiseTo_fcu (s : State) (f : Fld) (v : Nat) : (s.raiseTo f v).fcu = s.fcu := by unfold State.raiseTo; split; exact wr_fcu ..; rfl
@[simp] theorem raiseTo_tly (s : State) (f : Fld) (v : Nat) : (s.raiseTo f v).tly = s.tly := by unfold State.raiseTo; split; exact wr_tly ..; rfl
@[simp] theorem raiseTo_thm (s : State) (f : Fld) (v : Nat) : (s.raiseTo f v).thm = s.thm := by unfold State.raiseTo; split; exact wr_thm ..; rfl
@[simp] theorem raiseTo_pending (s : State) (f : Fld) (v : Nat) : (s.raiseTo f v).pending = s.pending := by unfold State.raiseTo; split; exact wr_pending ..; rfl
@[simp] theorem raiseTo_out (s : State) (f : Fld) (v : Nat) : (s.raiseTo f v).out = s.out := by unfold State.raiseTo; split; exact wr_out ..; rfl
@[simp] theorem raiseTo_freeCount (s : State) (f : Fld) (v : Nat) : (s.raiseTo f v).freeCount = s.freeCount := by unfold State.raiseTo; split; exact wr_freeCount ..; rfl
@[simp] theorem raiseTo_usInMs (s : State) (f : Fld) (v : Nat) : (s.raiseTo f v).usInMs = s.usInMs := by unfold State.raiseTo; split; exact wr_usInMs ..; rfl

end State
end Sys2Proof.Machine
end

