-- ==== Sys2Proof/WellFormed.lean ====
section
/-!
DEFINITION. WellFormed.lean: the commands that can be presented: the requesters of one cycle are distinct (R16, R17, R637), and
the numbers in a message fit the fields that carry them.
-/
namespace Sys2Proof

/-- No two elements of a list are equal. -/
def distinct {α : Type} [DecidableEq α] : List α → Bool
  | [] => true
  | x :: l => !l.contains x && distinct l

/-- A host command's numbers fit their fields. -/
def HostReq.fits (r : HostReq) : Bool :=
  decide (r.opcode < 2 ^ 8) && decide (r.action < 2 ^ 5) && decide (r.cid < 2 ^ 16) && decide (r.queue < 2 ^ 16)
    && decide (r.ns < 2 ^ 32) && decide (r.lba < 2 ^ 64) && decide (r.blocks ≤ 2 ^ 32) && decide (r.fused < 4)
    && decide (r.attr < 8) && decide (r.dtype < 2 ^ 8) && decide (r.dspec < 2 ^ 16) && decide (r.cdw10 < 2 ^ 32)
    && decide (r.cdw11 < 2 ^ 32) && decide (r.cdw12 < 2 ^ 32) && decide (r.cdw13 < 2 ^ 32) && decide (r.cdw14 < 2 ^ 32)
    && decide (r.cdw15 < 2 ^ 32)

/-- A Damot request's payload has the bytes it is said to have. -/
def DamotReq.fits (q : DamotReq) : Bool := decide (q.payload < 2 ^ (8 * q.bytes))

/-- A command can be presented to the block. -/
def wellFormed : Instr → Bool
  | .evrClaim cores events => distinct cores && distinct events
  | .faultDetection sources => distinct (sources.map fun x => x.1)
  | .dramRead reads => distinct (reads.map fun x => x.1)
  | .dramWrite writes => distinct (writes.map fun x => x.1)
  | .dramPartialWrite writes => distinct (writes.map fun x => x.1)
  | .commandFetch entries => entries.all HostReq.fits
  | .sasCommandFrame _ _ _ frame => frame.fits
  | .mcaLookup _ _ others _ => distinct others
  | .mcaUpdate _ _ others _ => distinct others
  | .sectorStart starts => distinct (starts.map fun x => x.stream)
  | .checkpoint words => distinct words
  | .registerWrite writes => distinct (writes.map fun x => x.writer)
  | .damotClaim reqs => distinct (reqs.map fun q => q.pos) && reqs.all DamotReq.fits
  | .damotSend _ req => req.fits
  | .damotGet req => req.fits
  | .damotSet req => req.fits
  | .damotDescribe req => req.fits
  | .damotRelease req => req.fits
  | .damotOffer req => req.fits
  | .damotAccept req => req.fits
  | .damotNonce req => req.fits
  | .damotBadOp req => req.fits
  | .spinAtBootWrite req => req.fits
  | .keySlotRevoke req => req.fits
  | .firmwareSvnMin req => req.fits
  | .microcodeSvnMin req => req.fits
  | .updateCommit req => req.fits
  | .recoveryBoot req => req.fits
  | .debugUnlock req => req.fits
  | .spareRowBurn req => req.fits
  | .challenge pos _ tied => distinct (pos :: tied.map fun x => x.1)
  | .getMeasurements pos _ _ _ tied => distinct (pos :: tied.map fun x => x.1)
  | .evrSoft .. | .aonPowerOn | .xt32Stable | .powerOnReset | .inrushComplete | .xt25Stable | .pllLock .. | .pllUnlock ..
  | .coreResetRelease .. | .mcaInitComplete | .dramReady | .firmwareSlotCheck .. | .microcodeSlotCheck .. | .firmwareEntry
  | .devidKeyReady | .aliasKeyReady | .spinUp | .spindleAtSpeed .. | .spindleStall | .spindleSetSpeed .. | .replayGo ..
  | .replayComplete .. | .consume .. | .consumeMarkerWritten | .mapLoad | .powerFail .. | .kscReady | .flushCommit ..
  | .pstgOff .. | .overvoltageDetect .. | .ovRideEnd .. | .ovRideTimeout | .holdupRecompute .. | .keepImageCommit
  | .paRailEnable .. | .paRailReady .. | .paRailOvercurrent .. | .calTempComp .. | .bandgapRetrim .. | .idleTimerExpiry ..
  | .stateTransitionComplete | .sleepEntry | .wakeFromSleep .. | .deviceReset .. | .actuatorReset .. | .pcieReset | .tapReset
  | .fuseBurnComplete | .pcieLinkTraining .. | .portReset .. | .ccEnSet .. | .controllerReady .. | .shutdownNotification ..
  | .shutdownComplete .. | .sqTailDoorbell .. | .cqHeadDoorbell .. | .commandArrival .. | .arrivalResume | .hazardRelease
  | .orderedBarrierStart .. | .completionCommit .. | .interruptCoalesceTimeout .. | .msixUnmask .. | .deleteIoSq ..
  | .deleteIoCq .. | .createIoSq .. | .createIoCq .. | .getLogPage .. | .identify .. | .abort .. | .setFeatures ..
  | .setFeaturesPowerMgmt .. | .setFeaturesNumQueues .. | .setFeaturesTimestamp .. | .getFeatures .. | .apstTransition ..
  | .asyncEventRequest .. | .namespaceManagement .. | .namespaceAttachment .. | .firmwareImageDownload .. | .firmwareCommit ..
  | .firmwareCommitActivate .. | .firmwareSlotWriteDone | .directiveSend .. | .directiveReceive .. | .formatNvm ..
  | .sanitize .. | .invalidAdminOpcode .. | .nvmeFlush .. | .nvmeWrite .. | .nvmeRead .. | .nvmeCompare .. | .writeZeroes ..
  | .datasetManagement .. | .nvmeVerify .. | .zoneOpen .. | .zoneClose .. | .zoneFinish .. | .zoneReset ..
  | .zoneMgmtSendUnsupported .. | .reportZones .. | .zoneAppend .. | .invalidIoOpcode .. | .xferRdy .. | .sasDataFrame ..
  | .sasLinkReset .. | .abortTask .. | .abortTaskSet .. | .clearTaskSet .. | .logicalUnitReset .. | .iTNexusReset ..
  | .queryTask .. | .queryTaskSet .. | .queryAsynchronousEvent .. | .tmfNotSupported .. | .iTNexusLoss .. | .testUnitReady ..
  | .requestSense .. | .formatUnit .. | .inquiry .. | .modeSelect .. | .modeSense .. | .startStopUnit .. | .readCapacity ..
  | .scsiRead .. | .scsiWrite .. | .scsiVerify .. | .synchronizeCache .. | .writeSame16 .. | .unmap .. | .writeBuffer ..
  | .readBuffer .. | .scsiSanitize .. | .logSense .. | .reportLuns .. | .reportSupportedOpcodes .. | .closeZone ..
  | .finishZone .. | .openZone .. | .resetWritePointer .. | .scsiInvalidOpcode .. | .damotReceive .. | .nonceExpiry ..
  | .leaseExpiry | .offerTimeout | .ownDrop | .setEndpointId .. | .getEndpointId .. | .getMctpVersionSupport ..
  | .getMessageTypeSupport .. | .getVendorDefinedMsgSupport .. | .entdaa .. | .setdasa .. | .getVersion ..
  | .getCapabilities .. | .negotiateAlgorithms .. | .getDigests .. | .getCertificate .. | .chunkSend .. | .chunkGet ..
  | .spdmUnsupportedRequest .. | .actuatorFailDeclare .. | .headDeclaredUnable .. | .bufferReserve | .writeContextRelease ..
  | .mediaOpIssue .. | .journalSegmentWrite | .mapCheckpoint | .relocateSector .. | .mcaFillReturn .. | .mcaVictimLand ..
  | .mcaPrefetch .. | .mcaWindowEnable .. | .mcaWindowDisable .. | .mcaLockEnable .. | .mcaLockDisable .. | .lockLoad ..
  | .lockLoadComplete .. | .rangeClean | .rangeInvalidate | .rangeDiscard | .rangeComplete .. | .mapResume | .mcDiagGo ..
  | .mcCntClr | .timingField .. | .syncMarkDecision .. | .llrHandover .. | .reframeRequest .. | .chnCntClr .. | .beadStart
  | .beadIterationEnd .. | .decodeResult .. | .ladderStepStart .. | .recoveryLimitExpiry .. | .abxMemoryError .. | .abxCntClr
  | .fsqContinue .. | .fsqJump .. | .fsqBranch .. | .fsqCall .. | .fsqReturn .. | .fsqWait .. | .fsqWaitEnd ..
  | .fsqWatchdog .. | .fsqDispatch .. | .headProfile .. | .readArm .. | .writeArm .. | .seek .. | .maOffset .. | .report ..
  | .jdOverride .. | .ovrClear .. | .loadUnload .. | .psiWrite .. | .psiRead .. | .psiDGo .. | .psiFrameEnd .. | .mcRestart ..
  | .swapReq .. | .loadGo .. | .microcodeLoadComplete .. | .wsqSrcWrite .. | .wsqStart .. | .fsqCntClr .. | .wedgeStrobe ..
  | .servoFrame .. | .sliceDeadline .. | .followingErrorFault .. | .coastRetract .. | .slotDrop .. | .vcmSubsample ..
  | .retract .. | .crashStopDetect .. | .parkHoldDone .. | .parkHandover .. | .loadAcquireTimeout .. | .loadComplete ..
  | .shockTrip .. | .shockHoldEnd | .coefApply .. | .svCntClr .. | .laneRetire .. | .laneWarmStart .. | .warmCopyComplete
  | .warmStateLoad | .laneJoin .. | .laneBist .. | .laneBistDone .. | .triadCntClr | .htsRead .. | .assistCodeWrite ..
  | .ageStep .. | .assistForceClear .. | .asdCntClr | .runStart .. | .runPreconditionViolation .. | .runCancel ..
  | .runFinish .. | .runValidationComplete .. | .tblDataAccess .. | .rampStep .. | .rampFallback .. | .storeGo
  | .calStoreCommit .. | .calLoad .. | .norGrant .. | .packBlockCompress .. | .packBlockDone .. | .poolBufferFree
  | .unpackBlock .. | .zrWrite .. | .zrRead | .pakCntClr | .regionEnable .. | .regionDisable .. | .regMark ..
  | .regionOpComplete .. | .scrubStep .. | .sprGo .. | .spareRowDone | .diagRawRead .. | .diagWriteAll .. | .diagWriteData ..
  | .diagWriteCheck .. | .ceLogClr | .celValidClear .. | .dmcCntClr | .shadowReady .. | .shadowTimeout .. | .windowClose ..
  | .qPop | .actHoldRelease .. | .fatalResetTimer | .pipToggle | .wdogEn | .wdogKick | .wdogMsWrite .. | .watchdogExpiry ..
  | .extRetractRequest | .extRetractEnd | .fcuCntClr | .tallyInletAdmit | .tallyCommit | .tallyRepeat | .tallyFreeze
  | .tallyUnfreeze | .tallyFreezeTimeout | .tallyArchiveTimeout | .tallyArchiveProgram | .tallyProgramComplete .. | .tallyFlush
  | .tallyFlushDone | .tallyReady | .tallyClear .. | .tallyClearDone | .lifeGroupTimer | .fwEvtGo | .pohTick | .calendarSet ..
  | .thermalSample .. | .drainRequest .. | .actvGo .. | .actvCopyComplete .. | .actvEntry | .actvRelease | .actvHoldTimeout
  | .pertArm .. | .extest | .idcode | .samplePreload .. | .clamp | .highz | .devReset | .debug | .bypass .. | .cohortIdWrite ..
  | .cohortMarkEdge .. | .cohortLost | .aonSupplyLoss | .pcieLinkUp .. | .linkL12Change .. | .sasLinkLoss ..
  | .i3cDynamicAddressLoss => true

end Sys2Proof
end

