-- ==== Sys2Proof/Tests/Slice0.lean ====
section
/-!
SUPPORT. Tests/Slice0.lean: worked examples of the spec, commands that WellFormed refuses, and for every statement with
hypotheses the states and operands that meet those of each of its clauses.
-/

open Sys2Proof Sys2Proof.Machine

namespace Sys2Proof.Tests

/-! ### States for the witnesses -/

/-- A device with every domain on, whose firmware runs on core 0. -/
def on : State := { State.reset with
  dom := { aon := true, pstg := true, core := true, hphy := 15, dram := true, abx := true, med := 15, svt := true, spare := true, ksc := true }
  boot := { State.reset.boot with phase := .firmware, cores := 1 } }
/-- A state with register fields set. -/
def put (s : State) (l : List (Fld × Nat)) : State := l.foldl (fun s f => s.wr f.1 f.2) s
/-- A Keep store image with nothing in it. -/
def keep : KeepImage := ⟨1, true, false, false, false, {}, [], [], [], false⟩
/-- The journal tail of a state whose tail is empty has room. -/
theorem room (s : State) (h : s.media.tailBytes = 0) : s.journalRoom = true := by
  have := Nat.mod_lt (Config.journalBytes s.media.changes) (show 0 < 8 * 2 ^ 20 + 1 by omega)
  simp only [State.journalRoom, State.entryBytes, h, decide_eq_true_eq]
  omega
/-- The command with tag 5 on a port. -/
def cmd (port : Nat) (r : HostReq) : Cmd := { tag := 5, port := port, arrival := 3, shared := false, req := r }
/-- A state with one command in flight. -/
def running (s : State) (c : Cmd) : State := { s with hosts := { s.hosts with cmds := [c] } }
/-- A state with port 0's controller. -/
def ctrl0 (s : State) (c : Ctrl) : State := { s with hosts := { s.hosts with ctrl := [(0, c)] } }
/-- An admin command of port 0. -/
def adm (op d10 d11 : Nat) : Cmd := cmd 0 { opcode := op, cid := 9, ns := 1, cdw10 := d10, cdw11 := d11 }
/-- A conventional and a zoned namespace. -/
def conv : Namespace := { zoned := false, size := 4096, zoneBlocks := 0 }
/-- See `conv`. -/
def zoned : Namespace := { zoned := true, size := 131072, zoneBlocks := 65536 }
/-- A device that serves namespaces 1 (conventional) and 2 (zoned). -/
def serving : State := put { on with nv := { on.nv with namespaces := [(1, some conv), (2, some zoned)] } } [(R.HOLDUP_OK, 1), (R.MAP_HALT, 0)]
/-- A SCSI command of SAS port 0, nexus 2. -/
def scsi (r : HostReq) : Cmd := cmd 4 { r with queue := 2, cid := 9 }
/-- A device that serves, with an I_T nexus 2 on SAS port 0. -/
def sas : State := put { serving with hosts := { serving.hosts with nexus := [(2, some {})] } } [(R.SAS_RATE 0, 4)]
/-- A device that serves, with zone 1 of namespace 2 in a condition. -/
def withZone (z : Zone) : State :=
  { serving with media := { serving.media with tables := { serving.media.tables with zones := [(2 * 2 ^ 32 + 1, z)] } } }
/-- A state with LLR slot 7 in use. -/
def withLlr (s : State) (x : LlrSlot) : State := { s with abx := { s.abx with llr := [(7, some x)] } }
/-- A sector of stream 2 at a location, of the MTU's own. -/
def sector : LlrSlot := { stream := 2, location := 77, dataAddr := 4096, serve := ⟨.readBack, none, 1, 9, false, 0⟩ }
/-- A descriptor of operation type `t` over both slots. -/
def desc (t : Nat) : OpDesc :=
  { opType := t, slotMask := 3, slot0 := { head := 2, track := 500, start := 7, count := 4 }, slot1 := { head := 3, track := 501, start := 8, count := 5 } }
/-- FSQ 1 at microaddress 40, in the ROM. -/
def seq (q : Fsq) : State := put { on with fsq := [(1, q)] } [(R.FSQ_PC 1, 40)]
/-- A fetch of the FSQ word whose fields make up `v`. -/
def fetch (v : Nat) : FsqFetch := { rom := BitVec.ofNat 162 (withParity v) }
/-- A device whose servo program has this state for actuator 2, loaded and on track. -/
def servoing (a : ServoAct) : State := put { on with svt := { on.svt with acts := [(2, a)] } } [(R.VCM_STATE 2, 1), (R.SV_MODE 2, 4)]
/-- A device whose SVT has this state. -/
def withSvt (v : Svt) : State := { on with svt := v }
/-- An image with nothing in it. -/
def image0 : Image := { header := 0, payload := 0 }
/-- A device with an activation staged from slot 1, in ACTV_STATE `v`. -/
def activating (v : Nat) : State :=
  put { on with boot := { on.boot with hold := some 5, activation := some { image := image0, slot := 1, tag := none } } } [(R.ACTV_STATE, v)]
/-- A device whose Map Cache runs, with window 0 over megabytes 4 to 7. -/
def caching (m : Mca) : State :=
  put { serving with mca := m } [(R.CACHE_INIT_DONE, 1), (R.WIN_EN 0, 1), (R.WIN_BASE 0, 4), (R.WIN_SIZE 0, 4)]
/-- The line of megabyte 4's first bytes, in way 3. -/
def line4 : Mca := { ways := [(3, some { line := some 32768, data := 77 })] }
/-- A device that serves, whose Pack has this state. -/
def packing (p : Pak) : State := { serving with pak := p }
/-- A device that serves a packed conventional namespace 1 with one block buffered. -/
def packed : State :=
  { serving with nv := { serving.nv with namespaces := [(1, some { conv with ratio := 2 })] }
                 media := { serving.media with buffer := [{ ns := 1, lba := 32, data := 6, arrival := 3, visible := true }] } }
/-- A device whose DRAM has this state, with region 2 over 32 KiB * 32 at 1 MiB under LIGHT, its check area at 64 MiB. -/
def region (d : Dram) : State :=
  put { on with dram := d } [(R.REG_BASE 2, 1), (R.REG_SIZE 2, 1), (R.REG_CODE 2, 1), (R.CHK_BASE 2, 2048), (R.REG_EN 2, 1)]
/-- A device whose DRAM holds word 100, written. -/
def word100 : State := { on with dram := { words := [(100, 77)], written := [(1, true)] } }
/-- A device whose Tally has this state and is ready. -/
def tally (t : Tly) : State := put { on with tly := t } [(R.TLY_READY, 1), (R.NEXT_SEQ, 9), (R.RING_HEAD, 4)]
/-- A fault event. -/
def fault7 : TlyEvent := { kind := 1, source := 7, code := 2, detail := 3 }
/-- A device whose port 0 is there, its owner at position 5. -/
def owned : State := put on [(R.PORT_PRESENT 0, 1), (R.OWN_STATE, 1), (R.OWN_POS, 5), (R.OWN_ADDR_HI, 0)]
/-- A Damot request of position 5. -/
def ask (op idx sub : Nat) : DamotReq :=
  { pos := 5, op := BitVec.ofNat 8 op, index := BitVec.ofNat 16 idx, sub := BitVec.ofNat 8 sub }
/-- A SET of position 5, of the value `v` of `n` bytes, with a token where `auth` says so. -/
def setTo (idx sub n v : Nat) (auth : Bool) : DamotReq :=
  let m := n + if auth then tokenBytes else 0
  { ask 2 idx sub with flags := if auth then 2 else 0, len := BitVec.ofNat 32 m, bytes := m, payload := v }
/-- A device that runs firmware of security version 9 from key slot 3, with keys in slots 2 and 3. -/
def versioned : State :=
  { owned with boot := { owned.boot with firmware := some { header := 9 * 2 ^ (8 * 0x20), payload := 0 }, microcode := some { header := 9 * 2 ^ (8 * 0x20), payload := 0 } } }
/-- A device whose port 0 has this SPDM connection. -/
def spdm (c : SpdmConn) : State := { owned with mgt := { owned.mgt with spdm := [(0, c)] } }

/-! ### Worked examples of the spec -/

/-- The state that a step answers, where it answers one. -/
def after (r : Result) : State := match r with
  | .next t => t
  | .fault _ => State.reset
  | .refused _ => State.reset

/-- Chapter 00, the worked example of R16: a four-port arbiter with its token at 2. -/
theorem test_turn_token : tokenGrant 4 2 [1, 3] = some 3 ∧ tokenAfter 4 2 [3] = 0 ∧ tokenGrant 4 0 [0, 1] = some 0 ∧ tokenAfter 4 0 [0] = 1 := by
  decide

/-- Chapter 01, the worked example of R48: lines 90 and 140, both routed to C0 and C2. -/
def bothPending : State := put on [(R.ROUTE_CORES 90, 5), (R.ROUTE_PRIO 90, 2), (R.ROUTE_CORES 140, 5), (R.ROUTE_PRIO 140, 3),
  (R.PEND_BITS 2, 2 ^ 26), (R.PEND_BITS 4, 2 ^ 12), (R.CLAIM_TOKEN, 1)]

/-- See `bothPending`: C2 receives line 140, then C0 line 90; the token ends at 1, and both bits are clear. -/
theorem test_claims : (after (execEvrClaim [0, 2] [] bothPending)).out = [.claim 0 0x8000005A, .claim 2 0x8000008C]
    ∧ (after (execEvrClaim [0, 2] [] bothPending)).rd R.CLAIM_TOKEN = 1
    ∧ (after (execEvrClaim [0, 2] [] bothPending)).linePending 90 = false := by
  decide

/-- See `bothPending`: an event on line 90 in the cycle of the claims leaves it pending. -/
theorem test_claim_and_event : (after (execEvrClaim [0, 2] [90] bothPending)).linePending 90 = true := by decide

/-- Chapter 17, the worked example: sources 273 and 160 in one cycle, the token at 200, actuator 1 writing on both slots. -/
def failing : State := put { on with fcu := { on.fcu with nextSeq := 0x412 }, pwr := { on.pwr with asstReg := 15 } }
  [(R.INLET_TOKEN, 200), (R.WG_ON 1, 3), (R.VCM_STATE 1, 1), (R.SV_MODE 1, 4), (R.PARKED 1, 0), (R.PASST_EN, 15)]

/-- See `failing`: source 273 opens the record, source 160 merges, and shadows 1 to 3 of actuator 1 open. -/
theorem test_fault_record :
    (after (execFaultDetection [(273, 0), (160, 0)] failing)).fcu.queue.map (fun r => (r.src, r.seq, r.react, r.conseq, r.csrc))
      = [(273, 0x412, 15, 1, 160)]
    ∧ (after (execFaultDetection [(273, 0), (160, 0)] failing)).fcu.shadows.map (fun x => (x.code, x.actuator))
      = [(1, 1), (2, 1), (3, 1)] := by
  decide +kernel

/-- See `failing`: the gates are cut, actuator 1 is held, the latch rises to class 2, and the token moves to 161. -/
theorem test_fault_reaction :
    (after (execFaultDetection [(273, 0), (160, 0)] failing)).rd (R.WG_ON 1) = 0
    ∧ (after (execFaultDetection [(273, 0), (160, 0)] failing)).rd R.ACT_HOLD = 2
    ∧ (after (execFaultDetection [(273, 0), (160, 0)] failing)).rd R.HIGH_CLASS = 2
    ∧ (after (execFaultDetection [(273, 0), (160, 0)] failing)).linePending 178 = true
    ∧ (after (execFaultDetection [(273, 0), (160, 0)] failing)).rd R.INLET_TOKEN = 161 := by
  decide +kernel

/-- Chapter 19, the worked example of R637: claims of positions 4 and 6 in one cycle, OWN_TOKEN 5. -/
def twoClaims : State := put on [(R.OWN_TOKEN, 5), (R.OWN_STATE, 0), (R.OWN_POS, 15), (R.PORT_PRESENT 1, 1), (R.I3C_EN, 1)]

/-- See `twoClaims`: position 6 owns the device, the token ends at 5, and lines 208 and 209 are raised. -/
theorem test_two_claims :
    (after (execDamotClaim [{ pos := 4, op := 0x10 }, { pos := 6, op := 0x10 }] twoClaims)).rd R.OWN_POS = 6
    ∧ (after (execDamotClaim [{ pos := 4, op := 0x10 }, { pos := 6, op := 0x10 }] twoClaims)).rd R.OWN_TOKEN = 5
    ∧ (after (execDamotClaim [{ pos := 4, op := 0x10 }, { pos := 6, op := 0x10 }] twoClaims)).linePending 208 = true
    ∧ (after (execDamotClaim [{ pos := 4, op := 0x10 }, { pos := 6, op := 0x10 }] twoClaims)).linePending 209 = true := by
  decide

/-- Chapter 09, the worked example of R320: the candidates of sectors 101 and 103 as accepted with SYNC_THR 6. -/
theorem test_candidates : State.chooseCands [(0, 5), (-7, 4)] = [(-7, 4), (0, 5)] ∧ State.chooseCands [(-9, 3)] = [(-9, 3)] := by
  decide

/-- Chapter 16, the worked example: word 0x80_048D of region 0. -/
theorem test_dram_word : bankOf 0x80048D / 32 = 5 ∧ bankOf 0x80048D % 16 = 4 ∧ 0x80048D / 8192 = 1024
    ∧ (put on [(R.REG_BASE 0, 512), (R.REG_SIZE 0, 2048), (R.REG_CODE 0, 2), (R.CHK_BASE 0, 81920), (R.REG_EN 0, 1)]).checkAddr 0 0x80048D
      = 2560 * 2 ^ 20 + 0x2468 := by
  decide

/-- Chapter 14, the worked example: ASST_BASE 2,278 at AGE_GAIN 0x1148 makes code 2,460. -/
theorem test_assist_code : (put on [(R.AGE_GAIN 10, 0x1148)]).asstCode 10 (2278 * 2 ^ 19) = 2460 := by decide

/-- Chapter 13, the worked example: with L1 retired the vote of L0 and L2, which agree, is a record without dissent. -/
theorem test_vote : State.vote [(0, .agrees), (2, .agrees)] = .record [] ∧ State.vote [(0, .agrees), (1, .differs), (2, .agrees)] = .record [1] := by
  decide

/-! ### Commands that cannot be presented -/

/-- Two claims of one core in one cycle. -/
theorem test_ill_formed_claims : wellFormed (.evrClaim [1, 1] []) = false := by decide
/-- Two events on one line in one cycle. -/
theorem test_ill_formed_events : wellFormed (.evrClaim [1] [7, 7]) = false := by decide
/-- One fault source twice in one cycle. -/
theorem test_ill_formed_detection : wellFormed (.faultDetection [(3, 0), (3, 1)]) = false := by decide
/-- One DRAM requester twice in one cycle. -/
theorem test_ill_formed_dram : wellFormed (.dramRead [(2, 0), (2, 1)]) = false := by decide
/-- A CID of 17 bits. -/
theorem test_ill_formed_entry : wellFormed (.commandFetch [{ opcode := 2, cid := 0x10000 }]) = false := by decide
/-- A nexus's frame with an opcode of 9 bits. -/
theorem test_ill_formed_frame : HostReq.fits { opcode := 256 } = false := by decide
/-- One writer with two writes in one cycle. -/
theorem test_ill_formed_writes :
    wellFormed (.registerWrite [{ writer := .core 0, addr := 0, value := 0 }, { writer := .core 0, addr := 4, value := 0 }]) = false := by
  decide
/-- A payload larger than its bytes. -/
theorem test_ill_formed_payload : wellFormed (.damotSet { pos := 0, bytes := 1, payload := 256 }) = false := by decide
/-- Two claims of one endpoint position in one cycle. -/
theorem test_ill_formed_positions : wellFormed (.damotClaim [{ pos := 4 }, { pos := 4 }]) = false := by decide
/-- And a command that can be. -/
theorem test_well_formed : wellFormed (.evrClaim [0, 2] [90]) = true := by decide

/-! ### The commands' queue and the reset state -/

/-- An empty queue ticks: a microsecond passes. -/
theorem test_tick : (after (step State.reset)).usInMs = 1 := by decide
/-- After reset AON_POR is the one recorded cause, and nothing but AON is on. -/
theorem test_reset : State.reset.rd R.RC_AON_POR = 1 ∧ State.reset.rd R.RC_POR = 0 ∧ State.reset.dom = { aon := true } := by decide
/-- The first command that a powered device takes: XT32_STABLE. -/
theorem test_first_command : (after (step { State.reset with pending := [.xt32Stable] })).rd R.XT32_OK = 1 := by decide
/-- R219: the CRC-32C of the nine digits, as its polynomial's published check value has it. -/
theorem test_crc32c : crc32c 9 0x393837363534333231 = 0xE3069283 := by decide +kernel

/-! ### Witnesses -/

/-- States and operands that meet the hypotheses of every clause of `Obligations.PowerUpCompletes`. -/
theorem witness_powerUpCompletes :
    (∃ (s : State), s.dom.aon = true)
    ∧ (∃ (s : State), (s.dom.pstg && s.flag R.IN_OK) = false)
    ∧ (∃ (s : State), s.dom.pstg = true ∧ s.pwr.inputSwitch = true)
    ∧ (∃ (s : State), s.pwr.xt25En = true)
    ∧ (∃ (s : State), s.flag R.XT25_OK = true ∧ s.flag R.INRUSH_DONE = true)
    ∧ (∃ (s : State), s.flag R.CCLK_LOCK = true ∧ s.boot.phase = .held ∧ s.dom.pstg = true)
    ∧ (∃ (s : State), s.flag R.DCLK_LOCK = true ∧ s.dom.core = true) :=
  ⟨⟨(State.reset), by decide⟩,
   ⟨(State.reset), by decide⟩,
   ⟨({ State.reset with dom := { aon := true, pstg := true }, pwr := { State.reset.pwr with inputSwitch := true } }), by decide, by decide⟩,
   ⟨({ State.reset with pwr := { State.reset.pwr with xt25En := true } }), by decide⟩,
   ⟨(put State.reset [(R.XT25_OK, 1), (R.INRUSH_DONE, 1)]), by decide, by decide⟩,
   ⟨(put { State.reset with dom := { aon := true, pstg := true } } [(R.CCLK_LOCK, 1)]), by decide, by decide, by decide⟩,
   ⟨(put { on with fuses := { State.reset.fuses with spareRows := [(5, some 3)] } } [(R.DCLK_LOCK, 1)]), by decide, by decide⟩⟩

/-- States and operands that meet the hypotheses of every clause of `Obligations.BootCompletes`. -/
theorem witness_bootCompletes :
    (∃ (s : State) (i : Image) (b : Nat) (trial : Bool), s.boot.phase = .rom ∧ s.boot.order = some (0, b, trial) ∧ s.rd R.FAIL_A = 0xF ∧ Store.get none s.boot.slots 0 = some i ∧ loadAddress i < 0x800000000)
    ∧ (∃ (s : State) (i : Image), s.boot.phase = .firmwareLoaded ∧ s.rd R.BOOT_SLOT = 0 ∧ s.rd R.MC_FAIL_A = 0xF ∧ Store.get none s.boot.slots 2 = some i)
    ∧ (∃ (s : State), s.boot.phase = .microcodeLoaded)
    ∧ (∃ (s : State), s.dom.pstg = true ∧ s.flag R.BOOT_RECOVERY = false ∧ s.rd R.SPM_RPM = 0 ∧ s.rd R.SPM_RPM_NOW = 0 ∧ s.flag R.SPM_STALL = false ∧ s.driveHeld = false ∧ s.spinAtBoot = true)
    ∧ (∃ (s : State), s.rd R.SPM_RPM ≠ 0 ∧ s.driveHeld = false)
    ∧ (∃ (s : State), s.rd R.SPM_RPM ≠ 0 ∧ s.driveHeld = false)
    ∧ (∃ (s : State) (k : Nat), s.boot.burn = some (.revoke k)) :=
  ⟨⟨({ on with boot := { State.reset.boot with phase := .rom, order := some (0, 1, true), slots := [(0, some ⟨1, 0⟩)] } }), (⟨1, 0⟩), (1), (true), by decide, by decide, by decide, by decide, by decide⟩,
   ⟨({ on with boot := { State.reset.boot with phase := .firmwareLoaded, slots := [(2, some ⟨1, 0⟩)] } }), (⟨1, 0⟩), by decide, by decide, by decide, by decide⟩,
   ⟨({ on with boot := { State.reset.boot with phase := .microcodeLoaded } }), by decide⟩,
   ⟨(put on [(R.SPM_RPM, 0)]), by decide, by decide, by decide, by decide, by decide, by decide, by decide⟩,
   ⟨(put on [(R.SPM_RPM, 7200)]), by decide, by decide⟩,
   ⟨(put on [(R.SPM_RPM, 7200)]), by decide, by decide⟩,
   ⟨({ on with boot := { on.boot with burn := some (.revoke 3) } }), (3), by decide⟩⟩

/-- States and operands that meet the hypotheses of every clause of `Obligations.ReplayCompletes`. -/
theorem witness_replayCompletes :
    (∃ (s : State), s.reachable R.REPLAY_GO.addr = true ∧ s.flag R.REPLAY_BUSY = false)
    ∧ (∃ (s : State) (a : Nat) (i : KeepImage), s.ksc.replaying = some a ∧ s.area a = some i ∧ i.badCrc = false)
    ∧ (∃ (s : State) (a : Fin 2) (i : KeepImage), s.reachable R.CONSUME.addr = true ∧ s.area a.val = some i ∧ i.replayed = true ∧ s.flag R.REPLAY_BUSY = false ∧ s.flag R.HOLDUP_OK = true)
    ∧ (∃ (s : State) (a : Nat) (i : KeepImage), s.ksc.consuming = some a ∧ s.area a = some i) :=
  ⟨⟨({ on with ksc := { State.reset.ksc with area1 := some keep } }), by decide, by decide⟩,
   ⟨({ on with ksc := { State.reset.ksc with area1 := some keep, replaying := some 1 } }), (1), (keep), by decide, by decide, by decide⟩,
   ⟨(put { on with ksc := { State.reset.ksc with area1 := some { keep with replayed := true } } } [(R.HOLDUP_OK, 1)]), (1), ({ keep with replayed := true }), by decide, by decide, by decide, by decide, by decide⟩,
   ⟨({ on with ksc := { State.reset.ksc with area0 := some keep, consuming := some 0 } }), (0), (keep), by decide, by decide⟩⟩

/-- States and operands that meet the hypotheses of every clause of `Obligations.PowerLossCompletes`. -/
theorem witness_powerLossCompletes :
    (∃ (s : State), s.dom.pstg = false)
    ∧ (∃ (s : State) (v : BitVec 16), v.toNat < s.rd R.PF_THRESH_DV * 10)
    ∧ (∃ (s : State), s.pwr.pf = .started)
    ∧ (∃ (s : State), s.pwr.pf = .flushing)
    ∧ (∃ (s : State) (mv : BitVec 17), s.pwr.pf = .committed ∧ mv.toNat < 12000)
    ∧ (∃ (s : State) (v : BitVec 16), 8000 < v.toNat ∧ s.flag R.PF_ACTIVE = false)
    ∧ (∃ (s : State) (v : BitVec 16) (mv : BitVec 17), s.flag R.OV_RIDE = true ∧ v.toNat < 7700 ∧ 38000 ≤ mv.toNat)
    ∧ (∃ (s : State), s.flag R.OV_RIDE = true) :=
  ⟨⟨(State.reset), by decide⟩,
   ⟨(put on [(R.IN_OK, 1)]), (100), by decide⟩,
   ⟨({ on with pwr := { on.pwr with pf := .started } }), by decide⟩,
   ⟨({ on with pwr := { on.pwr with pf := .flushing } }), by decide⟩,
   ⟨({ on with pwr := { on.pwr with pf := .committed } }), (11999), by decide, by decide⟩,
   ⟨(put { on with pwr := { on.pwr with inputSwitch := true } } [(R.IN_OK, 1)]), (8001), by decide, by decide⟩,
   ⟨(put on [(R.OV_RIDE, 1)]), (7699), (38000), by decide, by decide, by decide⟩,
   ⟨(put on [(R.OV_RIDE, 1)]), by decide⟩⟩

/-- States and operands that meet the hypotheses of every clause of `Obligations.RailsComplete`. -/
theorem witness_railsComplete :
    (∃ (s : State) (mv : BitVec 17), ∃ e : Nat, e = State.holdupEnergy mv.toNat (Store.get 0 s.cal.device 0) (s.rd R.SPM_RPM_NOW) / (12 * 10 ^ 51) ∧ s.dom.pstg = true ∧ s.bufferDirty = false)
    ∧ (∃ (s : State) (a : Nat), s.ksc.writing = some a)
    ∧ (∃ (s : State), s.reachable R.PA_EN.addr = true ∧ s.rd R.PA_RAIL_OC = 0)
    ∧ (∃ (s : State) (n : Fin 4), s.bitAt R.PA_EN n.val = true) :=
  ⟨⟨(on), (40000), _, rfl, by decide, by decide⟩,
   ⟨({ on with ksc := { State.reset.ksc with area0 := some keep, writing := some 0 } }), (0), by decide⟩,
   ⟨(put on [(R.PA_RAIL_OC, 0)]), by decide, by decide⟩,
   ⟨(put on [(R.PA_EN, 2)]), (1), by decide⟩⟩

/-- States and operands that meet the hypotheses of every clause of `Obligations.PowerStatesComplete`. -/
theorem witness_powerStatesComplete :
    (∃ (s : State) (p : Pll), s.flag (lockFld p) = true ∧ s.clockedOn p = true)
    ∧ (∃ (s : State) (d : Fin 4), s.idleMs (d.val + 1) ≠ 0)
    ∧ (∃ (s : State), s.flag R.PSTATE_BUSY = true ∧ s.rd R.PSTATE_TARGET = 0 ∧ s.rd R.PSTATE_NOW < 5)
    ∧ (∃ (s : State), s.rd R.PSTATE_NOW = 4 ∧ s.flag R.PSTATE_BUSY = false ∧ s.flag R.SLEEP_EN = true ∧ (∀ p < 4, s.flag (R.LINK_L12 p) = true ∨ s.flag (R.PORT_PRESENT p) = false) ∧ s.pm.l12Running = true)
    ∧ (∃ (s : State), s.rd R.PSTATE_NOW = 5)
    ∧ (∃ (s : State) (d : Nat) (e : Nat), 1 ≤ d ∧ d < e ∧ e ≤ 4 ∧ s.idleMs e ≠ 0 ∧ s.idleMs e ≤ s.idleMs d) :=
  ⟨⟨(put on [(R.CCLK_LOCK, 1)]), (.cclk), by decide, by decide⟩,
   ⟨(put on [(R.IDLE_DEPTH_MAX, 4)]), (0), by decide⟩,
   ⟨(put { on with dom := { on.dom with abx := false, med := 0, svt := false } } [(R.PSTATE_BUSY, 1), (R.PSTATE_TARGET, 0), (R.PSTATE_NOW, 3)]), by decide, by decide, by decide⟩,
   ⟨(put { on with pm := { on.pm with l12Running := true } } [(R.PSTATE_NOW, 4), (R.SLEEP_EN, 1), (R.PSTATE_BUSY, 0)]), by decide, by decide, by decide, by decide, by decide⟩,
   ⟨(put { State.reset with dom := { aon := true, pstg := true } } [(R.PSTATE_NOW, 5)]), by decide⟩,
   ⟨(put on [(R.IDLE_A_MS, 100), (R.IDLE_B_MS, 100)]), (1), (2), by decide, by decide, by decide, by decide, by decide⟩⟩

/-- States and operands that meet the hypotheses of every clause of `Obligations.ResetsAndEventsComplete`. -/
theorem witness_resetsAndEventsComplete :
    (∃ (s : State) (c : Fin 4) (n : Nat), s.reachable (R.CLAIM_LINE 0).addr = true ∧ s.claimLine c.val = some n)
    ∧ (∃ (s : State) (b : BitVec 24) (j : Nat), s.reachable R.SOFT_SET.addr = true ∧ b.toNat.testBit j = true) :=
  ⟨⟨(put on [(R.PEND_BITS 0, 4), (R.ROUTE_CORES 2, 1)]), (0), (2), by decide, by decide⟩,
   ⟨(on), (0x800001), (23), by decide, by decide⟩⟩

/-- States and operands that meet the hypotheses of every clause of `Obligations.FaultCommandsComplete`. -/
theorem witness_faultCommandsComplete :
    (∃ (s : State) (k : ShadowStep) (n : Fin 4), s.shadowOpen (stepCode k) n.val = true)
    ∧ (∃ (s : State) (k : Fin 5) (w : FaultWindow), s.window k.val = some w ∧ s.windowDone w = true)
    ∧ (∃ (s : State), s.reachable R.Q_POP.addr = true)
    ∧ (∃ (s : State) (n : Fin 4), s.reachable R.ACT_HOLD.addr = true ∧ s.window n.val = none ∧ s.window 4 = none ∧ s.flag R.FATAL = false)
    ∧ (∃ (s : State), s.flag R.FATAL = true ∧ s.flag R.FATAL_RESET = true ∧ s.rd R.FATAL_RST_CNT < s.rd R.FATAL_RST_MAX ∧ s.flag R.PF_ACTIVE = false) :=
  ⟨⟨({ on with fcu := { on.fcu with shadows := [⟨stepCode .w, 2, none⟩] } }), (.w), (2), by decide⟩,
   ⟨({ on with fcu := { on.fcu with windows := [⟨2, ⟨144, 1, 1, 0, 0, 0, 0, 0, false, 0, 0, 0⟩, 1, false⟩] } }), (2), (⟨2, ⟨144, 1, 1, 0, 0, 0, 0, 0, false, 0, 0, 0⟩, 1, false⟩), by decide, by decide⟩,
   ⟨({ on with fcu := { on.fcu with queue := [⟨144, 1, 1, 0, 0, 0, 0, 0, false, 0, 0, 0⟩] } }), by decide⟩,
   ⟨(put on [(R.ACT_HOLD, 2), (R.ACT_DRAINED 1, 1)]), (1), by decide, by decide, by decide, by decide⟩,
   ⟨(put on [(R.FATAL, 1), (R.FATAL_RESET, 1), (R.FATAL_RST_MAX, 3)]), by decide, by decide, by decide, by decide⟩⟩

/-- States and operands that meet the hypotheses of every clause of `Obligations.WatchdogAndPinsComplete`. -/
theorem witness_watchdogAndPinsComplete :
    (∃ (s : State), s.flag R.PIP_RUN = true)
    ∧ (∃ (s : State), s.reachable R.WDOG_EN.addr = true)
    ∧ (∃ (s : State), s.reachable R.WDOG_KICK.addr = true ∧ s.flag R.WDOG_EN = true)
    ∧ (∃ (s : State), s.reachable R.WDOG_MS.addr = true ∧ s.flag R.WDOG_EN = false)
    ∧ (∃ (s : State), s.flag R.WDOG_EN = true ∧ s.fcu.wdogRunning = true)
    ∧ (∃ (s : State), s.flag R.EXT_RETRACT = false ∧ s.rd R.PSTATE_NOW ≠ 5)
    ∧ (∃ (s : State), s.reachable R.FCU_CNT_CLR.addr = true) :=
  ⟨⟨(put on [(R.PIP_RUN, 1)]), by decide⟩,
   ⟨(on), by decide⟩,
   ⟨(put on [(R.WDOG_EN, 1)]), by decide, by decide⟩,
   ⟨(put on [(R.WDOG_EN, 0)]), by decide, by decide⟩,
   ⟨(put { on with fcu := { on.fcu with wdogRunning := true } } [(R.WDOG_EN, 1)]), by decide, by decide⟩,
   ⟨(on), by decide, by decide⟩,
   ⟨(put on [(R.SRC_CNT 14, 5)]), by decide⟩⟩

/-- States and operands that meet the hypotheses of every clause of `Obligations.PortCommandsComplete`. -/
theorem witness_portCommandsComplete :
    (∃ (s : State), s.dom.core = true)
    ∧ (∃ (s : State) (k : Fin 4), s.dom.core = true ∧ s.flag (R.PORT_PRESENT k.val) = true)
    ∧ (∃ (s : State) (k : Fin 4) (speed : Fin 7), s.pins.training.testBit k.val = true ∧ speed.val ≠ 0)
    ∧ (∃ (s : State) (k : Fin 4), s.dom.core = true ∧ s.flag (R.PORT_PRESENT k.val) = true ∧ s.rd R.PSTATE_NOW ≠ 5)
    ∧ (∃ (s : State) (k : Fin 4), s.dom.core = true ∧ s.flag (R.PORT_PRESENT k.val) = true)
    ∧ (∃ (s : State) (k : Fin 4), s.dom.core = true ∧ s.flag (R.PORT_PRESENT k.val) = true ∧ s.flag (R.CTRL_EN k.val) = false)
    ∧ (∃ (s : State) (k : Fin 4), s.flag (R.CTRL_EN k.val) = true ∧ s.flag R.BOOT_RECOVERY = false)
    ∧ (∃ (s : State) (k : Fin 4) (shn : BitVec 2), s.flag (R.CTRL_EN k.val) = true ∧ (shn = 1 ∨ shn = 2))
    ∧ (∃ (s : State) (k : Fin 4), (s.ctrl k.val).shst = 1 ∧ (∀ e ∈ s.hosts.fetched, e.1 ≠ k.val) ∧ (∀ c ∈ s.hosts.cmds, c.port = k.val → c.tag ∈ (s.ctrl k.val).aers)) :=
  ⟨⟨(on), by decide⟩,
   ⟨(put on [(R.PORT_PRESENT 2, 1)]), (2), by decide, by decide⟩,
   ⟨({ on with pins := { on.pins with training := 4 } }), (2), (5), by decide, by decide⟩,
   ⟨(put on [(R.PORT_PRESENT 2, 1), (R.PSTATE_NOW, 0)]), (2), by decide, by decide, by decide⟩,
   ⟨(put on [(R.PORT_PRESENT 2, 1)]), (2), by decide, by decide⟩,
   ⟨(put on [(R.PORT_PRESENT 3, 1), (R.CTRL_EN 3, 0)]), (3), by decide, by decide, by decide⟩,
   ⟨(put on [(R.CTRL_EN 1, 1)]), (1), by decide, by decide⟩,
   ⟨(put on [(R.CTRL_EN 1, 1)]), (1), (2), by decide, by decide⟩,
   ⟨(ctrl0 on { shst := 1 }), (0), by decide, by decide, by decide⟩⟩

/-- States and operands that meet the hypotheses of every clause of `Obligations.QueueCommandsComplete`. -/
theorem witness_queueCommandsComplete :
    (∃ (s : State) (k : Fin 4) (i : BitVec 16) (v : BitVec 16) (q : Sq), s.dom.core = true ∧ s.flag (R.PORT_PRESENT k.val) = true ∧ Store.get none (s.ctrl k.val).sqs i.toNat = some q ∧ v.toNat < q.size)
    ∧ (∃ (s : State) (k : Fin 4) (i : BitVec 16) (v : BitVec 16) (q : Cq), s.dom.core = true ∧ s.flag (R.PORT_PRESENT k.val) = true ∧ (s.ctrl k.val).held = [] ∧ Store.get none (s.ctrl k.val).cqs i.toNat = some q ∧ v.toNat < q.size ∧ (∀ e ∈ (s.ctrl k.val).sqs, ∀ x, e.2 = some x → x.deleting = none))
    ∧ (∃ (s : State) (k : Nat) (q : Nat) (renew : Bool) (x : Sq), s.boot.hold = none ∧ tokenGrant 4 (s.rd R.FETCH_TOKEN) s.fetchPorts = some k ∧ s.chooseSq k = some (q, renew) ∧ Store.get none (s.ctrl k).sqs q = some x)
    ∧ (∃ (s : State) (g : BitVec 13) (p : Nat) (e : Nat × HostReq), s.cmuRunning = true ∧ s.flag R.ARRIVAL_STALL = false ∧ s.cmd g.toNat = none ∧ s.hosts.stalled = none ∧ tokenGrant 3 (s.rd R.ARRIVE_TOKEN) ((List.range 3).filter fun p => (s.atStep p).isSome) = some p ∧ s.atStep p = some e ∧ ((s.takeAtStep p e).wr R.ARRIVE_TOKEN ((p + 1) % 3)).hztRoom e = true)
    ∧ (∃ (s : State), s.hosts.stalled = none)
    ∧ (∃ (s : State) (g : BitVec 13) (c : Cmd), s.cmd g.toNat = some c ∧ c.barrier = true ∧ c.started = false ∧ c.inHzt = true ∧ c.partner = none ∧ (∀ d ∈ s.hosts.cmds, d.arrival < c.arrival → d.req.ns = c.req.ns → d.inHzt = false))
    ∧ (∃ (s : State) (g : BitVec 13) (c : Cmd) (d : Done), s.cmd g.toNat = some c ∧ c.done = some d ∧ s.cmuRunning = true ∧ s.mayCommitCmd c = true ∧ s.abortWaits g.toNat = false ∧ (c.port < 4 → s.cqRoom c.port c.req.queue = true))
    ∧ (∃ (s : State) (k : Fin 4) (v : BitVec 11), Store.get 0 (s.ctrl k.val).unsignalled v.toNat ≠ 0 ∧ (s.ctrl k.val).masked.testBit v.toNat = false)
    ∧ (∃ (s : State) (k : Fin 4) (v : BitVec 11), (s.ctrl k.val).msixPend.testBit v.toNat = true) :=
  ⟨⟨(put (ctrl0 on { sqs := [(3, some ⟨16, 1, 0, 2, 2, none⟩)] }) [(R.PORT_PRESENT 0, 1)]), (0), (3), (15), (⟨16, 1, 0, 2, 2, none⟩), by decide, by decide, by decide, by decide⟩,
   ⟨(put (ctrl0 on { cqs := [(3, some ⟨16, 1, true, 2, 5, true⟩)] }) [(R.PORT_PRESENT 0, 1)]), (0), (3), (5), (⟨16, 1, true, 2, 5, true⟩), by decide, by decide, by decide, by decide, by decide, by decide⟩,
   ⟨(put (ctrl0 on { sqs := [(0, some ⟨16, 0, 0, 2, 5, none⟩)], cqs := [(0, some ⟨16, 0, false, 0, 0, true⟩)] }) [(R.CTRL_RDY 0, 1), (R.PORT_PRESENT 0, 1), (R.TAG_RSV 0, 16)]), (0), (0), (false), (⟨16, 0, 0, 2, 5, none⟩), by decide, by decide, by decide, by decide⟩,
   ⟨(put { on with hosts := { on.hosts with fetched := [(0, { opcode := 6, cid := 7 })] } } [(R.PORT_PRESENT 0, 1), (R.TAG_RSV 0, 16)]), (40), (0), ((0, { opcode := 6, cid := 7 })), by decide, by decide, by decide, by decide, by decide, by decide, by decide⟩,
   ⟨(put on [(R.ARRIVAL_STALL, 1)]), by decide⟩,
   ⟨({ on with hosts := { on.hosts with cmds := [{ cmd 0 { opcode := 1, queue := 1, ns := 1, blocks := 2 } with barrier := true, inHzt := true }], hzt := [⟨3, [5], true, 1, [(0, 2)]⟩] } }), (5), ({ cmd 0 { opcode := 1, queue := 1, ns := 1, blocks := 2 } with barrier := true, inHzt := true }), by decide, by decide, by decide, by decide, by decide, by decide⟩,
   ⟨(put (running (ctrl0 on { cqs := [(0, some ⟨16, 0, false, 2, 5, true⟩)], sqs := [(0, some ⟨16, 0, 0, 2, 5, none⟩)] }) { adm 6 1 0 with done := some doneOk }) [(R.CTRL_EN 0, 1), (R.PORT_PRESENT 0, 1)]), (5), ({ adm 6 1 0 with done := some doneOk }), (doneOk), by decide, by decide, by decide, by decide, by decide, by decide⟩,
   ⟨(ctrl0 on { unsignalled := [(3, 2)], msixOn := true }), (0), (3), by decide, by decide⟩,
   ⟨(ctrl0 on { msixPend := 8, masked := 8, msixOn := true }), (0), (3), by decide⟩⟩

/-- States and operands that meet the hypotheses of every clause of `Obligations.QueueAdminCompletes`. -/
theorem witness_queueAdminCompletes :
    (∃ (s : State) (g : BitVec 13) (c : Cmd), ∃ q : Nat, q = c.req.cdw10 % 65536 ∧ ∃ v : Nat, v = c.req.cdw11 / 65536 % 65536 ∧ s.cmd g.toNat = some c ∧ c.port < 4 ∧ c.req.queue = 0 ∧ c.req.opcode = 5 ∧ c.done = none ∧ 0 < q ∧ q ≤ (s.ctrl c.port).cqGranted ∧ Store.get none (s.ctrl c.port).cqs q = none ∧ c.req.cdw10 / 65536 % 65536 ≠ 0 ∧ s.badVector c.port v = false ∧ c.req.cdw11 % 2 = 1)
    ∧ (∃ (s : State) (g : BitVec 13) (c : Cmd), ∃ q : Nat, q = c.req.cdw10 % 65536 ∧ ∃ n : Nat, n = c.req.cdw11 / 65536 % 65536 ∧ s.cmd g.toNat = some c ∧ c.port < 4 ∧ c.req.queue = 0 ∧ c.req.opcode = 1 ∧ c.done = none ∧ 0 < q ∧ q ≤ s.rd (R.Q_GRANTED c.port) ∧ Store.get none (s.ctrl c.port).sqs q = none ∧ c.req.cdw10 / 65536 % 65536 ≠ 0 ∧ n ≠ 0 ∧ (Store.get none (s.ctrl c.port).cqs n).isSome = true ∧ c.req.cdw11 % 2 = 1)
    ∧ (∃ (s : State) (g : BitVec 13) (c : Cmd), ∃ q : Nat, q = c.req.cdw10 % 65536 ∧ s.cmd g.toNat = some c ∧ c.port < 4 ∧ c.req.queue = 0 ∧ c.req.opcode = 4 ∧ c.done = none ∧ q ≠ 0 ∧ (Store.get none (s.ctrl c.port).cqs q).isSome = true ∧ (∀ e ∈ (s.ctrl c.port).sqs, e.2.map Sq.cq ≠ some q))
    ∧ (∃ (s : State) (g : BitVec 13) (c : Cmd) (a : Sq) (x : Sq), ∃ q : Nat, q = c.req.cdw10 % 65536 ∧ s.cmd g.toNat = some c ∧ c.port < 4 ∧ c.req.queue = 0 ∧ c.req.opcode = 0 ∧ c.done = none ∧ q ≠ 0 ∧ (s.ctrl c.port).sqs = [(0, some a), (q, some x)] ∧ a.deleting = none ∧ (∀ d ∈ s.hosts.cmds, d.port = c.port → d.req.queue ≠ q) ∧ s.atTagStep = [] ∧ (s.ctrl c.port).held = [])
    ∧ (∃ (s : State) (g : BitVec 13) (c : Cmd) (d : Cmd), s.cmd g.toNat = some c ∧ c.port < 4 ∧ c.req.queue = 0 ∧ c.req.opcode = 8 ∧ c.done = none ∧ (s.hosts.cmds.filter fun x => x.port == c.port && x.req.queue == 0 && x.req.opcode == 8 && decide (x.arrival < c.arrival)).length < 8 ∧ c.req.cdw10 % 65536 ≠ 0 ∧ (Store.get none (s.ctrl c.port).sqs (c.req.cdw10 % 65536)).isSome = true ∧ s.atTagStep = [] ∧ (s.hosts.cmds.find? fun x => x.port == c.port && x.req.queue == c.req.cdw10 % 65536 && x.req.cid == c.req.cdw10 / 65536 % 65536) = some d ∧ d.abortedBy = none) :=
  ⟨⟨(running (ctrl0 on { cqGranted := 8, msixOn := true }) (adm 5 (65536 * 15 + 3) (65536 * 2 + 3))), (5), (adm 5 (65536 * 15 + 3) (65536 * 2 + 3)), _, rfl, _, rfl, by decide, by decide, by decide, by decide, by decide, by decide, by decide, by decide, by decide, by decide, by decide⟩,
   ⟨(put (running (ctrl0 on { cqs := [(2, some ⟨16, 0, false, 0, 0, true⟩)] }) (adm 1 (65536 * 15 + 3) (65536 * 2 + 5))) [(R.Q_GRANTED 0, 8)]), (5), (adm 1 (65536 * 15 + 3) (65536 * 2 + 5)), _, rfl, _, rfl, by decide, by decide, by decide, by decide, by decide, by decide, by decide, by decide, by decide, by decide, by decide, by decide⟩,
   ⟨(running (ctrl0 on { cqs := [(2, some ⟨16, 0, false, 0, 0, true⟩)], sqs := [(0, some ⟨16, 0, 0, 2, 5, none⟩)] }) (adm 4 2 0)), (5), (adm 4 2 0), _, rfl, by decide, by decide, by decide, by decide, by decide, by decide, by decide, by decide⟩,
   ⟨(running (ctrl0 on { sqs := [(0, some ⟨16, 0, 0, 2, 5, none⟩), (2, some ⟨16, 1, 0, 2, 2, none⟩)] }) (adm 0 2 0)), (5), (adm 0 2 0), (⟨16, 0, 0, 2, 5, none⟩), (⟨16, 1, 0, 2, 2, none⟩), _, rfl, by decide, by decide, by decide, by decide, by decide, by decide, by decide, by decide, by decide, by decide, by decide⟩,
   ⟨({ on with hosts := { on.hosts with ctrl := [(0, { sqs := [(2, some ⟨16, 1, 0, 2, 2, none⟩)] })], cmds := [adm 8 (65536 * 7 + 2) 0, { cmd 0 { opcode := 2, queue := 2, cid := 7, ns := 1, blocks := 1 } with tag := 6 }] } }), (5), (adm 8 (65536 * 7 + 2) 0), ({ cmd 0 { opcode := 2, queue := 2, cid := 7, ns := 1, blocks := 1 } with tag := 6 }), by decide, by decide, by decide, by decide, by decide, by decide, by decide, by decide, by decide, by decide, by decide⟩⟩

/-- States and operands that meet the hypotheses of every clause of `Obligations.NvmeReportsComplete`. -/
theorem witness_nvmeReportsComplete :
    (∃ (s : State) (g : BitVec 13) (c : Cmd), s.live g (isAdmin 0x06) c ∧ c.req.cdw10 % 256 = 1)
    ∧ (∃ (s : State) (g : BitVec 13) (c : Cmd), s.live g (isAdmin 0x02) c ∧ c.req.cdw10 % 256 = 3)
    ∧ (∃ (s : State) (g : BitVec 13) (c : Cmd), s.live g (isAdmin 0x0A) c ∧ c.req.cdw10 = 8)
    ∧ (∃ (s : State) (g : BitVec 13) (c : Cmd), s.live g (isAdmin 0x0C) c ∧ c.tag ∉ (s.ctrl c.port).aers ∧ (s.ctrl c.port).events = [] ∧ (s.ctrl c.port).aers.length < 16)
    ∧ (∃ (s : State) (g : BitVec 13) (c : Cmd), s.live g (isAdmin 0x1A) c ∧ c.req.cdw11 % 256 = 3 ∧ c.req.cdw11 / 256 % 256 = 1 ∧ s.namespaceOf c.req.ns = none)
    ∧ (∃ (s : State) (g : BitVec 13) (c : Cmd), s.live g (fun c => c.port < 4 && c.req.queue == 0 && !State.adminOpcodes.contains c.req.opcode) c) :=
  ⟨⟨(running on (adm 6 1 0)), (5), (adm 6 1 0), by decide, by decide⟩,
   ⟨(running on (adm 2 3 0)), (5), (adm 2 3 0), by decide, by decide⟩,
   ⟨(running (ctrl0 on { feats := [(8, 77)] }) (adm 0x0A 8 0)), (5), (adm 0x0A 8 0), by decide, by decide⟩,
   ⟨(running on (adm 0x0C 0 0)), (5), (adm 0x0C 0 0), by decide, by decide, by decide, by decide⟩,
   ⟨(running on { adm 0x1A 0 0x103 with req := { (adm 0x1A 0 0x103).req with cdw12 := 9 } }), (5), ({ adm 0x1A 0 0x103 with req := { (adm 0x1A 0 0x103).req with cdw12 := 9 } }), by decide, by decide, by decide, by decide⟩,
   ⟨(running on (adm 0x7F 0 0)), (5), (adm 0x7F 0 0), by decide⟩⟩

/-- States and operands that meet the hypotheses of every clause of `Obligations.NvmeFeaturesComplete`. -/
theorem witness_nvmeFeaturesComplete :
    (∃ (s : State) (g : BitVec 13) (c : Cmd), s.live g (isAdmin 0x09) c ∧ c.req.cdw10 = 8)
    ∧ (∃ (s : State) (g : BitVec 13) (c : Cmd), s.live g (isAdmin 0x09) c ∧ c.req.cdw10 = 2 ∧ c.req.cdw11 % 32 ≤ 4)
    ∧ (∃ (s : State) (g : BitVec 13) (c : Cmd), s.live g (isAdmin 0x09) c ∧ c.req.cdw10 = 7 ∧ (s.ctrl c.port).ioCreated = false)
    ∧ (∃ (s : State) (g : BitVec 13) (c : Cmd), s.live g (isAdmin 0x09) c ∧ c.req.cdw10 = 14)
    ∧ (∃ (s : State) (k : Fin 4) (e : Nat × Nat), s.pm.apstOn.testBit k.val = true ∧ e.2 ≠ 0 ∧ e.1 ≤ 4 ∧ Store.get (0, 0) s.pm.apstTable (32 * k.val + Store.get 0 s.pm.request k.val) = e) :=
  ⟨⟨(running on (adm 9 8 77)), (5), (adm 9 8 77), by decide, by decide⟩,
   ⟨(running on (adm 9 2 4)), (5), (adm 9 2 4), by decide, by decide, by decide⟩,
   ⟨(running (ctrl0 on { quota := 20 }) (adm 9 7 (65536 * 30 + 5))), (5), (adm 9 7 (65536 * 30 + 5)), by decide, by decide, by decide⟩,
   ⟨(running on { adm 9 14 0x12345678 with req := { (adm 9 14 0x12345678).req with cdw12 := 0x9ABC } }), (5), ({ adm 9 14 0x12345678 with req := { (adm 9 14 0x12345678).req with cdw12 := 0x9ABC } }), by decide, by decide⟩,
   ⟨({ on with pm := { on.pm with apstOn := 2, apstTable := [(32, (3, 100))] } }), (1), ((3, 100)), by decide, by decide, by decide, by decide⟩⟩

/-- States and operands that meet the hypotheses of every clause of `Obligations.NvmeAdminCompletes`. -/
theorem witness_nvmeAdminCompletes :
    (∃ (s : State) (g : BitVec 13) (c : Cmd), s.live g (isAdmin 0x0D) c ∧ c.req.cdw10 % 16 = 1 ∧ s.nsExists c.req.ns = true ∧ s.imagesConsumed = true)
    ∧ (∃ (s : State) (g : BitVec 13) (c : Cmd) (n : Namespace), s.live g (isAdmin 0x15) c ∧ c.req.cdw10 % 16 = 0 ∧ s.namespaceOf c.req.ns = some n ∧ c.req.ranges = [(1, 0)])
    ∧ (∃ (s : State) (g : BitVec 13) (c : Cmd), s.live g (isAdmin 0x11) c ∧ c.req.cdw10 = 1023 ∧ c.req.cdw11 % 1024 = 0)
    ∧ (∃ (s : State) (g : BitVec 13) (c : Cmd) (a : Fin 3), s.live g (isAdmin 0x10) c ∧ c.req.cdw10 = 8 * a.val + 2 ∧ s.boot.update = none ∧ s.slotRuns 1 = false)
    ∧ (∃ (s : State) (g : BitVec 13) (c : Cmd), s.live g (isAdmin 0x10) c ∧ c.req.cdw10 = 8 * 3 + 2 ∧ s.boot.update = none ∧ s.boot.activation = none ∧ s.slotRuns 1 = false)
    ∧ (∃ (s : State) (j : UpdateJob), s.boot.update = some j)
    ∧ (∃ (s : State) (g : BitVec 13) (c : Cmd) (n : Namespace), s.live g (isAdmin 0x19) c ∧ c.req.cdw11 % 65536 = 0x102 ∧ s.namespaceOf c.req.ns = some n)
    ∧ (∃ (s : State) (g : BitVec 13) (c : Cmd), s.live g (isAdmin 0x80) c ∧ c.req.cdw10 / 512 % 8 = 1 ∧ c.req.cdw10 % 16 = 0 ∧ s.nsExists c.req.ns = true ∧ (∀ e ∈ s.hosts.hzt, e.arrival < c.arrival → e.ns ≠ c.req.ns) ∧ s.mtuRuns = true ∧ s.imagesConsumed = true)
    ∧ (∃ (s : State) (g : BitVec 13) (c : Cmd), s.live g (isAdmin 0x84) c ∧ c.req.cdw10 % 8 = 4 ∧ s.hosts.hzt = [] ∧ s.mtuRuns = true ∧ s.imagesConsumed = true) :=
  ⟨⟨(running serving (adm 0x0D 1 0)), (5), (adm 0x0D 1 0), by decide, by decide, by decide, by decide⟩,
   ⟨(running serving { adm 0x15 0 0 with req := { (adm 0x15 0 0).req with ranges := [(1, 0)] } }), (5), ({ adm 0x15 0 0 with req := { (adm 0x15 0 0).req with ranges := [(1, 0)] } }), (conv), by decide, by decide, by decide, by decide⟩,
   ⟨(running on (adm 0x11 1023 2048)), (5), (adm 0x11 1023 2048), by decide, by decide, by decide⟩,
   ⟨(running { on with boot := { on.boot with firmware := some ⟨1, 0⟩ } } (adm 0x10 18 0)), (5), (adm 0x10 18 0), (2), by decide, by decide, by decide, by decide⟩,
   ⟨(running on (adm 0x10 26 0)), (5), (adm 0x10 26 0), by decide, by decide, by decide, by decide, by decide⟩,
   ⟨(running { on with boot := { on.boot with update := some ⟨0, 1, 1, ⟨1, 0⟩, some 5⟩ } } (adm 0x10 10 0)), (⟨0, 1, 1, ⟨1, 0⟩, some 5⟩), by decide⟩,
   ⟨(running serving (adm 0x19 0 0x102)), (5), (adm 0x19 0 0x102), (conv), by decide, by decide, by decide⟩,
   ⟨(running serving (adm 0x80 512 0)), (5), (adm 0x80 512 0), by decide, by decide, by decide, by decide, by decide, by decide, by decide⟩,
   ⟨(running serving (adm 0x84 4 0)), (5), (adm 0x84 4 0), by decide, by decide, by decide, by decide, by decide⟩⟩

/-- States and operands that meet the hypotheses of every clause of `Obligations.NvmeIoCompletes`. -/
theorem witness_nvmeIoCompletes :
    (∃ (s : State) (g : BitVec 13) (c : Cmd), s.live g (State.isNvmeIo [0]) c)
    ∧ (∃ (s : State) (g : BitVec 13) (c : Cmd) (d : List Block), s.live g (State.isNvmeIo [1]) c ∧ c.req.fused = 0 ∧ c.req.dtype = 0 ∧ s.writeMayRun c ∧ d.length = c.req.blocks)
    ∧ (∃ (s : State) (g : BitVec 13) (c : Cmd) (d : List Block), s.live g (State.isNvmeIo [0x7D]) c ∧ s.writeMayRun c ∧ d.length = c.req.blocks)
    ∧ (∃ (s : State) (g : BitVec 13) (c : Cmd) (n : Namespace), s.live g (State.isNvmeIo [8]) c ∧ s.writeMayRun c ∧ c.req.dealloc = false ∧ s.namespaceOf c.req.ns = some n)
    ∧ (∃ (s : State) (g : BitVec 13) (c : Cmd) (n : BitVec 17), s.live g (State.isNvmeIo [2]) c ∧ s.readReady c ∧ c.sent = 0 ∧ 0 < c.req.blocks ∧ c.req.blocks ≤ n.toNat)
    ∧ (∃ (s : State) (g : BitVec 13) (c : Cmd) (d : List Block), s.live g (State.isNvmeIo [5]) c ∧ s.readReady c ∧ State.gotData c = d.map (·.toNat))
    ∧ (∃ (s : State) (g : BitVec 13) (c : Cmd), s.live g (State.isNvmeIo [0x0C]) c ∧ s.readReady c)
    ∧ (∃ (s : State) (g : BitVec 13) (c : Cmd), s.live g (State.isNvmeIo [9]) c ∧ s.nvmeOpcodeOk c.req = true ∧ c.req.cdw11 / 4 % 2 = 1 ∧ c.req.ranges = [(c.lba / 16 * 16, 16)] ∧ s.hosts.hzt = [] ∧ s.hosts.cmds = [c] ∧ s.mayReceive = true ∧ s.journalRoom = true ∧ s.bufferUsed + 32 ≤ s.bufferSize)
    ∧ (∃ (s : State) (g : BitVec 13) (c : Cmd), s.live g (fun c => c.port < 4 && c.req.queue != 0 && !s.nvmeOpcodeOk c.req) c) :=
  ⟨⟨(running serving (cmd 0 { opcode := 0, queue := 1, ns := 1 })), (5), (cmd 0 { opcode := 0, queue := 1, ns := 1 }), by decide⟩,
   ⟨(running serving { cmd 0 { opcode := 1, queue := 1, ns := 1, lba := 33, blocks := 2 } with lba := 33, reserved := 2 }), (5), ({ cmd 0 { opcode := 1, queue := 1, ns := 1, lba := 33, blocks := 2 } with lba := 33, reserved := 2 }), ([7, 8]), by decide, by decide, by decide, ⟨by decide, by decide, by decide, by decide, by decide, room _ rfl⟩, by decide⟩,
   ⟨(running serving { cmd 0 { opcode := 0x7D, queue := 1, ns := 2, lba := 0, blocks := 2 } with lba := 33, reserved := 2 }), (5), ({ cmd 0 { opcode := 0x7D, queue := 1, ns := 2, lba := 0, blocks := 2 } with lba := 33, reserved := 2 }), ([7, 8]), by decide, ⟨by decide, by decide, by decide, by decide, by decide, room _ rfl⟩, by decide⟩,
   ⟨(running serving { cmd 0 { opcode := 8, queue := 1, ns := 1, lba := 33, blocks := 2 } with lba := 33, reserved := 2 }), (5), ({ cmd 0 { opcode := 8, queue := 1, ns := 1, lba := 33, blocks := 2 } with lba := 33, reserved := 2 }), (conv), by decide, ⟨by decide, by decide, by decide, by decide, by decide, room _ rfl⟩, by decide, by decide⟩,
   ⟨(running serving { cmd 0 { opcode := 2, queue := 1, ns := 1, lba := 33, blocks := 2 } with lba := 33, got := [(0, some (.data 7)), (1, some (.data 8))] }), (5), ({ cmd 0 { opcode := 2, queue := 1, ns := 1, lba := 33, blocks := 2 } with lba := 33, got := [(0, some (.data 7)), (1, some (.data 8))] }), (2), by decide, by decide, by decide, by decide, by decide⟩,
   ⟨(running serving { cmd 0 { opcode := 5, queue := 1, ns := 1, lba := 33, blocks := 2 } with lba := 33, got := [(0, some (.data 7)), (1, some (.data 8))] }), (5), ({ cmd 0 { opcode := 5, queue := 1, ns := 1, lba := 33, blocks := 2 } with lba := 33, got := [(0, some (.data 7)), (1, some (.data 8))] }), ([7, 8]), by decide, by decide, by decide +kernel⟩,
   ⟨(running serving { cmd 0 { opcode := 0x0C, queue := 1, ns := 1, lba := 33, blocks := 2 } with lba := 33, got := [(0, some (.data 7)), (1, some (.data 8))] }), (5), ({ cmd 0 { opcode := 0x0C, queue := 1, ns := 1, lba := 33, blocks := 2 } with lba := 33, got := [(0, some (.data 7)), (1, some (.data 8))] }), by decide, by decide⟩,
   ⟨(running serving { cmd 0 { opcode := 9, queue := 1, ns := 1, cdw11 := 4, ranges := [(32, 16)] } with lba := 32 }), (5), ({ cmd 0 { opcode := 9, queue := 1, ns := 1, cdw11 := 4, ranges := [(32, 16)] } with lba := 32 }), by decide, by decide, by decide, by decide, by decide, by decide, by decide, room _ rfl, by decide⟩,
   ⟨(running serving (cmd 0 { opcode := 0x7D, queue := 1, ns := 1 })), (5), (cmd 0 { opcode := 0x7D, queue := 1, ns := 1 }), by decide⟩⟩

/-- States and operands that meet the hypotheses of every clause of `Obligations.NvmeZonesComplete`. -/
theorem witness_nvmeZonesComplete :
    (∃ (s : State) (g : BitVec 13) (c : Cmd) (n : Namespace), s.live g (fun c => State.isNvmeIo [0x79] c && c.req.cdw13 % 256 == 3) c ∧ s.zoneFree c n ∧ (s.zoneNamed c n).cond = .closed)
    ∧ (∃ (s : State) (g : BitVec 13) (c : Cmd) (n : Namespace), s.live g (fun c => State.isNvmeIo [0x79] c && c.req.cdw13 % 256 == 1) c ∧ s.zoneFree c n ∧ (s.zoneNamed c n).cond = .implicitlyOpened)
    ∧ (∃ (s : State) (g : BitVec 13) (c : Cmd) (n : Namespace), s.live g (fun c => State.isNvmeIo [0x79] c && c.req.cdw13 % 256 == 2) c ∧ s.zoneFree c n ∧ (s.zoneNamed c n).cond = .implicitlyOpened)
    ∧ (∃ (s : State) (g : BitVec 13) (c : Cmd) (n : Namespace), s.live g (fun c => State.isNvmeIo [0x79] c && c.req.cdw13 % 256 == 4) c ∧ s.zoneFree c n ∧ (s.zoneNamed c n).cond = .full)
    ∧ (∃ (s : State) (g : BitVec 13) (c : Cmd), s.live g (fun c => State.isNvmeIo [0x79] c && !([1, 2, 3, 4].contains (c.req.cdw13 % 256))) c)
    ∧ (∃ (s : State) (g : BitVec 13) (c : Cmd) (n : Namespace), s.live g (State.isNvmeIo [0x7A]) c ∧ c.req.cdw13 % 256 = 0 ∧ s.namespaceOf c.req.ns = some n ∧ n.zoned = true ∧ n.zoneBlocks ≠ 0) :=
  ⟨⟨(running (withZone { cond := .closed, wp := 4 }) (cmd 0 { opcode := 0x79, queue := 1, ns := 2, lba := 65536, cdw13 := 3 })), (5), (cmd 0 { opcode := 0x79, queue := 1, ns := 2, lba := 65536, cdw13 := 3 }), (zoned), by decide, ⟨by decide, by decide, by decide, by decide, by decide, room _ rfl, by decide⟩, by decide⟩,
   ⟨(running (withZone { cond := .implicitlyOpened, wp := 4 }) (cmd 0 { opcode := 0x79, queue := 1, ns := 2, lba := 65536, cdw13 := 1 })), (5), (cmd 0 { opcode := 0x79, queue := 1, ns := 2, lba := 65536, cdw13 := 1 }), (zoned), by decide, ⟨by decide, by decide, by decide, by decide, by decide, room _ rfl, by decide⟩, by decide⟩,
   ⟨(running (withZone { cond := .implicitlyOpened, wp := 4 }) (cmd 0 { opcode := 0x79, queue := 1, ns := 2, lba := 65536, cdw13 := 2 })), (5), (cmd 0 { opcode := 0x79, queue := 1, ns := 2, lba := 65536, cdw13 := 2 }), (zoned), by decide, ⟨by decide, by decide, by decide, by decide, by decide, room _ rfl, by decide⟩, by decide⟩,
   ⟨(running (withZone { cond := .full, wp := 65536 }) (cmd 0 { opcode := 0x79, queue := 1, ns := 2, lba := 65536, cdw13 := 4 })), (5), (cmd 0 { opcode := 0x79, queue := 1, ns := 2, lba := 65536, cdw13 := 4 }), (zoned), by decide, ⟨by decide, by decide, by decide, by decide, by decide, room _ rfl, by decide⟩, by decide⟩,
   ⟨(running serving (cmd 0 { opcode := 0x79, queue := 1, ns := 2, lba := 65536, cdw13 := 9 })), (5), (cmd 0 { opcode := 0x79, queue := 1, ns := 2, lba := 65536, cdw13 := 9 }), by decide⟩,
   ⟨(running serving (cmd 0 { opcode := 0x7A, queue := 1, ns := 2, lba := 65536, cdw12 := 31, cdw13 := 0 })), (5), (cmd 0 { opcode := 0x7A, queue := 1, ns := 2, lba := 65536, cdw12 := 31, cdw13 := 0 }), (zoned), by decide, by decide, by decide, by decide, by decide⟩⟩

/-- States and operands that meet the hypotheses of every clause of `Obligations.SasTransportCompletes`. -/
theorem witness_sasTransportCompletes :
    (∃ (s : State), s.dom.core = true)
    ∧ (∃ (s : State) (p : Fin 2) (n : Fin 32) (x : Nexus), s.nexusAt p.val n.val = some x ∧ x.link = .connected)
    ∧ (∃ (s : State) (p : Fin 2) (n : Fin 32) (r : HostReq), s.dom.core = true ∧ s.rd (R.SAS_RATE p.val) ≠ 0 ∧ s.nexusAt p.val n.val = none ∧ s.overlaps p.val n.val { r with queue := n.val } = false ∧ (Store.get [] s.hosts.inlet p.val).length < 128)
    ∧ (∃ (s : State) (g : BitVec 13) (c : Cmd), s.live g State.isScsiWrite c ∧ s.flag R.HOLDUP_OK = true ∧ c.xferRdy = none ∧ c.received < c.reserved ∧ s.hosts.cmds = [c])
    ∧ (∃ (s : State) (g : BitVec 13) (c : Cmd), s.live g State.isScsiWrite c ∧ s.mayReceive = true ∧ c.xferRdy = some (0, 8) ∧ c.received = 0 ∧ c.partLen = 0)
    ∧ (∃ (s : State) (p : Fin 2) (n : Fin 32) (x : Nexus), s.nexusAt p.val n.val = some x ∧ x.link = .losing ∧ s.hosts.cmds = [] ∧ s.hosts.stalled = none ∧ s.rd R.OWN_STATE = 0) :=
  ⟨⟨(on), by decide⟩,
   ⟨(sas), (0), (2), ({}), by decide, by decide⟩,
   ⟨(sas), (0), (3), ({ opcode := 0x12, ns := 1, cid := 4 }), by decide, by decide, by decide, by decide, by decide⟩,
   ⟨(running sas { scsi { opcode := 0x2A, ns := 1, lba := 8, blocks := 20 } with reserved := 20, lba := 8 }), (5), ({ scsi { opcode := 0x2A, ns := 1, lba := 8, blocks := 20 } with reserved := 20, lba := 8 }), by decide, by decide, by decide, by decide, by decide⟩,
   ⟨(running sas { scsi { opcode := 0x2A, ns := 1, lba := 8, blocks := 20 } with reserved := 20, lba := 8, xferRdy := some (0, 8) }), (5), ({ scsi { opcode := 0x2A, ns := 1, lba := 8, blocks := 20 } with reserved := 20, lba := 8, xferRdy := some (0, 8) }), by decide, by decide, by decide, by decide, by decide⟩,
   ⟨({ sas with hosts := { sas.hosts with nexus := [(2, some { link := .losing })] } }), (0), (2), ({ link := .losing }), by decide, by decide, by decide, by decide, by decide⟩⟩

/-- States and operands that meet the hypotheses of every clause of `Obligations.TaskManagementCompletes`. -/
theorem witness_taskManagementCompletes :
    (∃ (s : State) (p : Fin 2) (n : Fin 32) (k : BitVec 16) (u : BitVec 8) (c : Cmd), s.nsExists (u.toNat + 1) = true ∧ s.hosts.cmds.find? (State.sasCmd p.val n.val u.toNat k.toNat) = some c ∧ c.silent = false)
    ∧ (∃ (s : State) (u : BitVec 8), s.nsExists (u.toNat + 1) = true)
    ∧ (∃ (s : State) (u : BitVec 8), s.nsExists (u.toNat + 1) = true)
    ∧ (∃ (s : State) (u : BitVec 8), s.nsExists (u.toNat + 1) = true)
    ∧ (∃ (s : State) (p : Fin 2) (n : Fin 32) (k : BitVec 16) (u : BitVec 8) (c : Cmd), s.nsExists (u.toNat + 1) = true ∧ c ∈ s.hosts.cmds ∧ State.sasCmd p.val n.val u.toNat k.toNat c = true)
    ∧ (∃ (s : State) (u : BitVec 8), s.nsExists (u.toNat + 1) = true ∧ s.hosts.cmds = [] ∧ s.hosts.inlet = [] ∧ s.hosts.stalled = none)
    ∧ (∃ (s : State) (p : Fin 2) (n : Fin 32) (u : BitVec 8) (x : Nexus) (a : Nat), s.nsExists (u.toNat + 1) = true ∧ s.nexusAt p.val n.val = some x ∧ x.ua = [a])
    ∧ (∃ (s : State) (u : BitVec 8), s.nsExists (u.toNat + 1) = true) :=
  ⟨⟨(running sas (scsi { opcode := 0x28, ns := 1, blocks := 2 })), (0), (2), (9), (0), (scsi { opcode := 0x28, ns := 1, blocks := 2 }), by decide, by decide, by decide⟩,
   ⟨(running sas (scsi { opcode := 0x28, ns := 1, blocks := 2 })), (0), by decide⟩,
   ⟨(running sas (scsi { opcode := 0x28, ns := 1, blocks := 2 })), (0), by decide⟩,
   ⟨(running sas (scsi { opcode := 0x28, ns := 1, blocks := 2 })), (0), by decide⟩,
   ⟨(running sas (scsi { opcode := 0x28, ns := 1, blocks := 2 })), (0), (2), (9), (0), (scsi { opcode := 0x28, ns := 1, blocks := 2 }), by decide, by decide, by decide⟩,
   ⟨(sas), (0), by decide, by decide, by decide, by decide⟩,
   ⟨({ sas with hosts := { sas.hosts with nexus := [(2, some { ua := [0x2900] })] } }), (0), (2), (0), ({ ua := [0x2900] }), (0x2900), by decide, by decide, by decide⟩,
   ⟨(sas), (0), by decide⟩⟩

/-- States and operands that meet the hypotheses of every clause of `Obligations.ScsiReportsComplete`. -/
theorem witness_scsiReportsComplete :
    (∃ (s : State) (g : BitVec 13) (c : Cmd), s.scsi g [0x00] c)
    ∧ (∃ (s : State) (g : BitVec 13) (c : Cmd) (u : Nat), s.scsi g [0x03] c ∧ s.nextUa (32 * (c.port - 4) + c.req.queue) = some u)
    ∧ (∃ (s : State) (g : BitVec 13) (c : Cmd), s.scsi g [0x12] c ∧ c.req.cdw10 % 2 = 0)
    ∧ (∃ (s : State) (g : BitVec 13) (c : Cmd), s.scsi g [0x1A, 0x5A] c ∧ c.req.cdw10 % 64 = 0x1C)
    ∧ (∃ (s : State) (g : BitVec 13) (c : Cmd) (n : Namespace), s.scsi g [0x25, 0x9E] c ∧ s.namespaceOf c.req.ns = some n)
    ∧ (∃ (s : State) (g : BitVec 13) (c : Cmd), s.scsi g [0x4D] c ∧ c.req.cdw10 % 64 = 0x2F)
    ∧ (∃ (s : State) (g : BitVec 13) (c : Cmd), s.scsi g [0xA0] c)
    ∧ (∃ (s : State) (g : BitVec 13) (c : Cmd), s.scsi g [0xA3] c)
    ∧ (∃ (s : State) (g : BitVec 13) (c : Cmd), s.scsi g [0x3C] c ∧ c.req.cdw10 = 0x0E ∧ c.req.cdw11 % 4096 = 0 ∧ c.req.cdw12 = 4096)
    ∧ (∃ (s : State) (g : BitVec 13) (c : Cmd), s.live g (fun c => decide (4 ≤ c.port) && !s.scsiAccepted c.req) c) :=
  ⟨⟨(running sas (scsi { opcode := 0x00, ns := 1 })), (5), (scsi { opcode := 0x00, ns := 1 }), by decide⟩,
   ⟨(running { sas with hosts := { sas.hosts with nexus := [(2, some { ua := [0x2900] })] } } (scsi { opcode := 0x03, ns := 1 })), (5), (scsi { opcode := 0x03, ns := 1 }), (0x2900), by decide, by decide⟩,
   ⟨(running sas (scsi { opcode := 0x12, ns := 1 })), (5), (scsi { opcode := 0x12, ns := 1 }), by decide, by decide⟩,
   ⟨(running sas (scsi { opcode := 0x1A, ns := 1, cdw10 := 0x1C })), (5), (scsi { opcode := 0x1A, ns := 1, cdw10 := 0x1C }), by decide, by decide⟩,
   ⟨(running sas (scsi { opcode := 0x25, ns := 1 })), (5), (scsi { opcode := 0x25, ns := 1 }), (conv), by decide, by decide⟩,
   ⟨(running sas (scsi { opcode := 0x4D, ns := 1, cdw10 := 0x2F })), (5), (scsi { opcode := 0x4D, ns := 1, cdw10 := 0x2F }), by decide, by decide⟩,
   ⟨(running sas (scsi { opcode := 0xA0, ns := 1 })), (5), (scsi { opcode := 0xA0, ns := 1 }), by decide⟩,
   ⟨(running sas (scsi { opcode := 0xA3, action := 0x0C, ns := 1 })), (5), (scsi { opcode := 0xA3, action := 0x0C, ns := 1 }), by decide⟩,
   ⟨(running sas (scsi { opcode := 0x3C, ns := 1, cdw10 := 0x0E, cdw12 := 4096 })), (5), (scsi { opcode := 0x3C, ns := 1, cdw10 := 0x0E, cdw12 := 4096 }), by decide, by decide, by decide, by decide⟩,
   ⟨(running sas (scsi { opcode := 0xFF, ns := 1 })), (5), (scsi { opcode := 0xFF, ns := 1 }), by decide⟩⟩

/-- States and operands that meet the hypotheses of every clause of `Obligations.ScsiActionsComplete`. -/
theorem witness_scsiActionsComplete :
    (∃ (s : State) (g : BitVec 13) (c : Cmd), s.scsi g [0x04] c ∧ c.req.cdw10 % 2 = 0 ∧ s.nsExists c.req.ns = true ∧ s.hosts.hzt = [] ∧ s.mtuRuns = true)
    ∧ (∃ (s : State) (g : BitVec 13) (c : Cmd) (page : BitVec 6), s.scsi g [0x15, 0x55] c ∧ c.req.cdw10 = 0 ∧ State.modePageList.contains page.toNat = true)
    ∧ (∃ (s : State) (g : BitVec 13) (c : Cmd), s.scsi g [0x1B] c ∧ c.req.cdw10 = 0 ∧ c.req.cdw12 % 2 = 0)
    ∧ (∃ (s : State) (g : BitVec 13) (c : Cmd) (n : BitVec 17), s.scsi g [0x28, 0x88] c ∧ s.readReady c ∧ c.sent = 0 ∧ 0 < c.req.blocks ∧ c.req.blocks ≤ n.toNat)
    ∧ (∃ (s : State) (g : BitVec 13) (c : Cmd), s.scsi g [0x2A, 0x8A] c ∧ s.mtuRuns = true ∧ s.cmuRunning = true ∧ c.req.blocks ≤ c.received ∧ s.journalRoom = true)
    ∧ (∃ (s : State) (g : BitVec 13) (c : Cmd), s.scsi g [0x2F, 0x8F] c ∧ c.req.cdw10 = 0 ∧ s.readReady c)
    ∧ (∃ (s : State) (g : BitVec 13) (c : Cmd), s.scsi g [0x35, 0x91] c)
    ∧ (∃ (s : State) (g : BitVec 13) (c : Cmd) (n : Namespace), s.scsi g [0x93] c ∧ s.writeMayRun c ∧ c.req.dealloc = false ∧ s.namespaceOf c.req.ns = some n)
    ∧ (∃ (s : State) (g : BitVec 13) (c : Cmd), s.scsi g [0x42] c ∧ c.req.ranges = [(c.lba / 16 * 16, 16)] ∧ s.hosts.hzt = [] ∧ s.mayReceive = true ∧ s.journalRoom = true ∧ s.bufferUsed + 32 ≤ s.bufferSize)
    ∧ (∃ (s : State) (g : BitVec 13) (c : Cmd), s.scsi g [0x3B] c ∧ c.req.cdw10 = 0x0E ∧ c.req.cdw11 % 4096 = 0 ∧ c.req.cdw12 = 4096)
    ∧ (∃ (s : State) (g : BitVec 13) (c : Cmd), s.scsi g [0x48] c ∧ c.req.action = 3 ∧ s.hosts.hzt = [] ∧ s.mtuRuns = true ∧ s.imagesConsumed = true) :=
  ⟨⟨(running sas (scsi { opcode := 0x04, ns := 1 })), (5), (scsi { opcode := 0x04, ns := 1 }), by decide, by decide, by decide, by decide, by decide⟩,
   ⟨(running sas (scsi { opcode := 0x15, ns := 1 })), (5), (scsi { opcode := 0x15, ns := 1 }), (1), by decide, by decide, by decide⟩,
   ⟨(running sas (scsi { opcode := 0x1B, ns := 1 })), (5), (scsi { opcode := 0x1B, ns := 1 }), by decide, by decide, by decide⟩,
   ⟨(running sas { scsi { opcode := 0x28, ns := 1, lba := 33, blocks := 2 } with lba := 33, got := [(0, some (.data 7)), (1, some (.data 8))] }), (5), ({ scsi { opcode := 0x28, ns := 1, lba := 33, blocks := 2 } with lba := 33, got := [(0, some (.data 7)), (1, some (.data 8))] }), (2), by decide, by decide, by decide, by decide, by decide⟩,
   ⟨(running sas { scsi { opcode := 0x2A, ns := 1, lba := 8, blocks := 20 } with reserved := 20, lba := 8, received := 20 }), (5), ({ scsi { opcode := 0x2A, ns := 1, lba := 8, blocks := 20 } with reserved := 20, lba := 8, received := 20 }), by decide, by decide, by decide, by decide, room _ rfl⟩,
   ⟨(running sas { scsi { opcode := 0x2F, ns := 1, lba := 33, blocks := 2 } with lba := 33, got := [(0, some (.data 7)), (1, some (.data 8))] }), (5), ({ scsi { opcode := 0x2F, ns := 1, lba := 33, blocks := 2 } with lba := 33, got := [(0, some (.data 7)), (1, some (.data 8))] }), by decide, by decide, by decide⟩,
   ⟨(running sas (scsi { opcode := 0x35, ns := 1 })), (5), (scsi { opcode := 0x35, ns := 1 }), by decide⟩,
   ⟨(running sas { scsi { opcode := 0x93, ns := 1, lba := 33, blocks := 2 } with lba := 33, reserved := 2 }), (5), ({ scsi { opcode := 0x93, ns := 1, lba := 33, blocks := 2 } with lba := 33, reserved := 2 }), (conv), by decide, ⟨by decide, by decide, by decide, by decide, by decide, room _ rfl⟩, by decide, by decide⟩,
   ⟨(running sas { scsi { opcode := 0x42, ns := 1, ranges := [(32, 16)] } with lba := 32 }), (5), ({ scsi { opcode := 0x42, ns := 1, ranges := [(32, 16)] } with lba := 32 }), by decide, by decide, by decide, by decide, room _ rfl, by decide⟩,
   ⟨(running sas (scsi { opcode := 0x3B, ns := 1, cdw10 := 0x0E, cdw12 := 4096 })), (5), (scsi { opcode := 0x3B, ns := 1, cdw10 := 0x0E, cdw12 := 4096 }), by decide, by decide, by decide, by decide⟩,
   ⟨(running sas (scsi { opcode := 0x48, action := 3, ns := 1 })), (5), (scsi { opcode := 0x48, action := 3, ns := 1 }), by decide, by decide, by decide, by decide, by decide⟩⟩

/-- States and operands that meet the hypotheses of every clause of `Obligations.ScsiZonesComplete`. -/
theorem witness_scsiZonesComplete :
    (∃ (s : State) (g : BitVec 13) (c : Cmd) (n : Namespace), s.scsi g [0x94] c ∧ c.req.action = 1 ∧ s.zoneFree c n ∧ (s.zoneNamed c n).cond = .explicitlyOpened)
    ∧ (∃ (s : State) (g : BitVec 13) (c : Cmd) (n : Namespace), s.scsi g [0x94] c ∧ c.req.action = 2 ∧ s.zoneFree c n ∧ (s.zoneNamed c n).cond = .empty)
    ∧ (∃ (s : State) (g : BitVec 13) (c : Cmd) (n : Namespace), s.scsi g [0x94] c ∧ c.req.action = 3 ∧ s.zoneFree c n ∧ (s.zoneNamed c n).cond = .closed)
    ∧ (∃ (s : State) (g : BitVec 13) (c : Cmd) (n : Namespace), s.scsi g [0x94] c ∧ c.req.action = 4 ∧ s.zoneFree c n ∧ (s.zoneNamed c n).cond = .full) :=
  ⟨⟨(running (withZone { cond := .explicitlyOpened, wp := 4 }) (scsi { opcode := 0x94, action := 1, ns := 2, lba := 65536 })), (5), (scsi { opcode := 0x94, action := 1, ns := 2, lba := 65536 }), (zoned), by decide, by decide, ⟨by decide, by decide, by decide, by decide, by decide, room _ rfl, by decide⟩, by decide⟩,
   ⟨(running (withZone {}) (scsi { opcode := 0x94, action := 2, ns := 2, lba := 65536 })), (5), (scsi { opcode := 0x94, action := 2, ns := 2, lba := 65536 }), (zoned), by decide, by decide, ⟨by decide, by decide, by decide, by decide, by decide, room _ rfl, by decide⟩, by decide⟩,
   ⟨(running (withZone { cond := .closed, wp := 4 }) (scsi { opcode := 0x94, action := 3, ns := 2, lba := 65536 })), (5), (scsi { opcode := 0x94, action := 3, ns := 2, lba := 65536 }), (zoned), by decide, by decide, ⟨by decide, by decide, by decide, by decide, by decide, room _ rfl, by decide⟩, by decide⟩,
   ⟨(running (withZone { cond := .full, wp := 65536 }) (scsi { opcode := 0x94, action := 4, ns := 2, lba := 65536 })), (5), (scsi { opcode := 0x94, action := 4, ns := 2, lba := 65536 }), (zoned), by decide, by decide, ⟨by decide, by decide, by decide, by decide, by decide, room _ rfl, by decide⟩, by decide⟩⟩

/-- States and operands that meet the hypotheses of every clause of `Obligations.MapCommandsComplete`. -/
theorem witness_mapCommandsComplete :
    (∃ (s : State), s.flag R.MAP_LOADED = false ∧ s.mtuRuns = true ∧ s.media.loadedOnce = true ∧ s.media.replayed = none ∧ s.media.tables.stamp ≤ s.nv.tables.stamp)
    ∧ (∃ (s : State) (c : Cmd), s.hosts.cmds = [c] ∧ s.wantsSpace c = true ∧ s.bufferUsed + s.spaceWanted c ≤ s.bufferSize)
    ∧ (∃ (s : State) (i : BitVec 5) (z : BitVec 20) (n : Namespace), s.namespaceOf i.toNat = some n ∧ s.mtuRuns = true ∧ (s.zone (State.zoneKey i.toNat z.toNat)).context = true ∧ State.isActive (s.zone (State.zoneKey i.toNat z.toNat)).cond = false ∧ s.media.buffer = [] ∧ s.media.ctxWait = [])
    ∧ (∃ (s : State) (n : Fin 4) (d : OpDesc), s.mayIssue n.val = true ∧ (d.opType = 1 ∨ (5 ≤ d.opType ∧ d.opType ≤ 8)))
    ∧ (∃ (s : State), s.mtuRuns = true ∧ 262144 * s.rd R.JRNL_WM_256K ≤ s.media.tailBytes ∧ s.media.reportWait = [])
    ∧ (∃ (s : State), s.mtuRuns = true ∧ 2 ^ 30 ≤ s.media.segBytes)
    ∧ (∃ (s : State) (f : Fin 32) (a : BitVec 24) (b : BitVec 12) (r : Reloc), s.mtuRuns = true ∧ s.pm.backgroundStopped = false ∧ s.rd R.THR_LEVEL = 0 ∧ s.media.tables.reloc.length < 262144 ∧ s.journalRoom = true ∧ s.media.relocWait = [r] ∧ r.loc = State.location f.val a.toNat b.toNat ∧ (∀ x ∈ s.media.tables.reloc, x.2 ≠ r.loc))
    ∧ (∃ (s : State) (n : Fin 4), s.reachable (R.ACT_FAIL_DECL n.val).addr = true ∧ s.flag (R.ACT_FAIL_DECL n.val) = false)
    ∧ (∃ (s : State), s.mtuRuns = true) :=
  ⟨⟨(put { on with media := { on.media with loadedOnce := true }, nv := { on.nv with tables := { zones := [(2 * 2 ^ 32 + 1, { cond := .implicitlyOpened, wp := 9 })], stamp := 4 } } } [(R.MAP_LOADED, 0)]), by decide, by decide, by decide, by decide, by decide⟩,
   ⟨({ serving with hosts := { serving.hosts with cmds := [{ cmd 0 { opcode := 1, queue := 1, ns := 1, lba := 33, blocks := 2 } with lba := 33, inHzt := true }], hzt := [⟨3, [5], true, 1, [(33, 2)]⟩] } }), ({ cmd 0 { opcode := 1, queue := 1, ns := 1, lba := 33, blocks := 2 } with lba := 33, inHzt := true }), by decide, by decide, by decide⟩,
   ⟨(withZone { cond := .full, wp := 65536, context := true }), (2), (1), (zoned), by decide, by decide, by decide, by decide, by decide, by decide⟩,
   ⟨(put serving [(R.FSQ_IDLE 1, 1), (R.ACT_DRAINED 1, 0)]), (1), ({ opType := 6, slotMask := 0 }), by decide, by decide⟩,
   ⟨(put { serving with media := { serving.media with tailBytes := 2 ^ 23 } } [(R.JRNL_WM_256K, 32)]), by decide, by decide, by decide⟩,
   ⟨({ serving with media := { serving.media with segBytes := 2 ^ 30, tables := { stamp := 9 } } }), by decide, by decide⟩,
   ⟨({ serving with media := { serving.media with relocWait := [⟨State.location 3 5 7, 11, 13⟩] } }), (3), (5), (7), (⟨State.location 3 5 7, 11, 13⟩), by decide, by decide, by decide, by decide, room _ rfl, by decide, by decide, by decide⟩,
   ⟨(serving), (2), by decide, by decide⟩,
   ⟨(withZone { cond := .full, wp := 65536 }), by decide⟩⟩

/-- States and operands that meet the hypotheses of every clause of `Obligations.ChannelCommandsComplete`. -/
theorem witness_channelCommandsComplete :
    (∃ (s : State) (k : Fin 8) (b : BitVec 12) (r : SectorRun) (i : Nat), (s.slot k.val).run = some r ∧ r.write = false ∧ r.next < r.count ∧ b.toNat = r.first + r.next ∧ s.bitAt (R.RG_ON (k.val / 2)) (k.val % 2) = true ∧ (s.slot k.val).stopRead = false ∧ s.llrSlotFor k.val = some i)
    ∧ (∃ (s : State) (n : Fin 4) (h : Fin 2), s.rd (R.DLC_NW n.val h.val) ≠ 0 ∧ s.dom.med.testBit n.val = true ∧ s.bitAt (R.WG_ON n.val) h.val = false)
    ∧ (∃ (s : State) (n : Fin 4) (h : Fin 2) (i : Nat) (x : LlrSlot), (s.slot (2 * n.val + h.val)).llr = some i ∧ Store.get none s.abx.llr i = some x ∧ x.decided = false)
    ∧ (∃ (s : State) (n : Fin 4) (h : Fin 2) (i : Nat) (x : LlrSlot), State.handing (s.slot (2 * n.val + h.val)) = some i ∧ Store.get none s.abx.llr i = some x ∧ x.decided = true ∧ x.handed = false)
    ∧ (∃ (s : State) (i : Fin 384) (x : LlrSlot) (g : Framing), Store.get none s.abx.llr i.val = some x ∧ x.handed = true ∧ x.framings = [g] ∧ g.st = .failed ∧ g.ofs ≠ 0 ∧ g.kind ≠ 2 ∧ x.memErr = false ∧ x.eraseLimit = false ∧ x.erased = [] ∧ s.flag (R.REFRAME_EN (x.stream / 2)) = true)
    ∧ (∃ (s : State) (n : Fin 4), s.reachable (R.CHN_CNT_CLR n.val).addr = true) :=
  ⟨⟨(put { on with chn := [(2, { run := some ⟨false, 9, 5, 3, 4, 1, 0, none⟩ })] } [(R.RG_ON 1, 1)]), (2), (4), (⟨false, 9, 5, 3, 4, 1, 0, none⟩), (0), by decide, by decide, by decide, by decide, by decide, by decide, by decide⟩,
   ⟨(put { on with chn := [(3, { goodFields := 1, lostWedges := 3 })] } [(R.DLC_NW 1 1, 20000)]), (1), (1), by decide, by decide, by decide⟩,
   ⟨(withLlr { on with chn := [(2, { llr := some 7 })] } sector), (1), (0), (7), (sector), by decide, by decide, by decide⟩,
   ⟨(withLlr { on with chn := [(2, { llr := some 7 })] } { sector with decided := true, cands := [(0, 2)] }), (1), (0), (7), ({ sector with decided := true, cands := [(0, 2)] }), by decide, by decide, by decide, by decide⟩,
   ⟨(put (withLlr on { sector with decided := true, handed := true, framings := [{ kind := 0, ofs := 1, dist := 2, budget := 8, st := .failed }] }) [(R.REFRAME_EN 1, 1)]), (7), ({ sector with decided := true, handed := true, framings := [{ kind := 0, ofs := 1, dist := 2, budget := 8, st := .failed }] }), ({ kind := 0, ofs := 1, dist := 2, budget := 8, st := .failed }), by decide, by decide, by decide, by decide, by decide, by decide, by decide, by decide, by decide, by decide⟩,
   ⟨(put on [(R.SECT_READ_CNT 3, 9)]), (3), by decide⟩⟩

/-- States and operands that meet the hypotheses of every clause of `Obligations.AbacusCommandsComplete`. -/
theorem witness_abacusCommandsComplete :
    (∃ (s : State) (b : Nat) (i : Nat) (j : Nat) (x : LlrSlot) (f : Framing), s.dom.abx = true ∧ (List.range s.usableBeads).find? (fun b => (Store.get none s.abx.beads b).isNone) = some b ∧ s.nextReady = some (i, x, j) ∧ x.framings[j]? = some f)
    ∧ (∃ (s : State) (k : Fin 48) (r : BitVec 13) (b : Bead) (x : LlrSlot) (f : Framing), Store.get none s.abx.beads k.val = some b ∧ Store.get none s.abx.llr b.slot = some x ∧ x.framings[b.framing]? = some f ∧ x.ending = false ∧ x.memErr = false ∧ r ≠ 0 ∧ b.done + 1 < b.limit)
    ∧ (∃ (s : State) (i : Fin 384) (x : LlrSlot), Store.get none s.abx.llr i.val = some x ∧ s.settled i.val x = true)
    ∧ (∃ (s : State) (l : BitVec 41) (e : Ladder) (k : Nat) (b : Nat), s.entryAtLoc l.toNat = some e ∧ e.waiting = false ∧ s.nextStep e = some (k, b))
    ∧ (∃ (s : State) (l : BitVec 41) (m : BitVec 32) (c : RecoveryClock), s.clockOf (2 * l.toNat + 1) = some c ∧ c.expired = false ∧ c.limitMs ≤ m.toNat ∧ s.abx.ladder = [])
    ∧ (∃ (s : State), s.dom.abx = true)
    ∧ (∃ (s : State), s.reachable R.ABX_CNT_CLR.addr = true) :=
  ⟨⟨(withLlr on { sector with decided := true, handed := true, framings := [{ kind := 0, ofs := 0, dist := 2, budget := 8 }] }), (0), (7), (0), ({ sector with decided := true, handed := true, framings := [{ kind := 0, ofs := 0, dist := 2, budget := 8 }] }), ({ kind := 0, ofs := 0, dist := 2, budget := 8 }), by decide, by decide, by decide, by decide⟩,
   ⟨({ withLlr on { sector with decided := true, handed := true, framings := [{ kind := 0, ofs := 0, dist := 2, budget := 8, st := .running }] } with abx := { (withLlr on { sector with decided := true, handed := true, framings := [{ kind := 0, ofs := 0, dist := 2, budget := 8, st := .running }] }).abx with beads := [(4, some ⟨7, 0, 1, 8⟩)] } }), (4), (3), (⟨7, 0, 1, 8⟩), ({ sector with decided := true, handed := true, framings := [{ kind := 0, ofs := 0, dist := 2, budget := 8, st := .running }] }), ({ kind := 0, ofs := 0, dist := 2, budget := 8, st := .running }), by decide, by decide, by decide, by decide, by decide, by decide, by decide⟩,
   ⟨(withLlr on { sector with decided := true, handed := true, framings := [{ kind := 0, ofs := 0, dist := 2, budget := 8, used := 3, st := .passed 77 88 }] }), (7), ({ sector with decided := true, handed := true, framings := [{ kind := 0, ofs := 0, dist := 2, budget := 8, used := 3, st := .passed 77 88 }] }), by decide, by decide⟩,
   ⟨({ on with abx := { on.abx with ladder := [⟨2, 77, 4096, ⟨.readBack, none, 1, 9, false, 0⟩, 0, 0, 0, false, none, false, []⟩] } }), (77), (⟨2, 77, 4096, ⟨.readBack, none, 1, 9, false, 0⟩, 0, 0, 0, false, none, false, []⟩), (2), (0), by decide, by decide, by decide⟩,
   ⟨({ on with abx := { on.abx with clocks := [⟨2 * 77 + 1, 50, 63, false⟩] } }), (77), (50), (⟨2 * 77 + 1, 50, 63, false⟩), by decide, by decide, by decide, by decide⟩,
   ⟨(withLlr on sector), by decide⟩,
   ⟨(put on [(R.CW_DECODED, 9), (R.ITER_HIST 3, 9)]), by decide⟩⟩

/-- States and operands that meet the hypotheses of every clause of `Obligations.FsqSequencingCompletes`. -/
theorem witness_fsqSequencingCompletes :
    (∃ (s : State) (n : Fin 4) (f : FsqFetch) (w : Nat), s.fetches n.val f w ∧ Arith.field w 17 3 = 0)
    ∧ (∃ (s : State) (n : Fin 4) (f : FsqFetch) (w : Nat), s.fetches n.val f w ∧ Arith.field w 17 3 = 1)
    ∧ (∃ (s : State) (n : Fin 4) (f : FsqFetch) (w : Nat), s.fetches n.val f w ∧ Arith.field w 17 3 = 2)
    ∧ (∃ (s : State) (n : Fin 4) (f : FsqFetch) (w : Nat), ∃ u : State, u = s.wordActs n.val w f.tie ∧ s.fetches n.val f w ∧ Arith.field w 17 3 = 3 ∧ (u.fsqOf n.val).stack.length < 8)
    ∧ (∃ (s : State) (n : Fin 4) (f : FsqFetch) (w : Nat) (a : Nat) (l : List Nat), ∃ u : State, u = s.wordActs n.val w f.tie ∧ s.fetches n.val f w ∧ Arith.field w 17 3 = 4 ∧ (u.fsqOf n.val).stack = a :: l)
    ∧ (∃ (s : State) (n : Fin 4) (f : FsqFetch) (w : Nat), ∃ u : State, u = s.wordActs n.val w f.tie ∧ s.fetches n.val f w ∧ Arith.field w 17 3 = 5 ∧ u.wordCond n.val w f.events.toNat = false)
    ∧ (∃ (s : State) (n : Fin 4) (f : FsqFetch) (w : Nat) (i : Issued), ∃ u : State, u = s.wordActs n.val w f.tie ∧ s.fetches n.val f w ∧ Arith.field w 17 3 = 6 ∧ (u.fsqOf n.val).issued = some i)
    ∧ (∃ (s : State) (n : Fin 4) (e : BitVec 4) (w : Nat), s.flag (R.MCHK n.val) = false ∧ (s.fsqOf n.val).wait = some w ∧ s.wordCond n.val w e.toNat = true)
    ∧ (∃ (s : State) (n : Fin 4), s.flag (R.FSQ_WAITING n.val) = true) :=
  ⟨⟨(seq {}), (1), (fetch 0), (withParity 0), by decide, by decide⟩,
   ⟨(seq {}), (1), (fetch (2 ^ 17 + 99)), (withParity (2 ^ 17 + 99)), by decide, by decide⟩,
   ⟨(seq {}), (1), (fetch (2 * 2 ^ 17 + 99 + 2 ^ 25)), (withParity (2 * 2 ^ 17 + 99 + 2 ^ 25)), by decide, by decide⟩,
   ⟨(seq { stack := [1, 2, 3, 4, 5, 6, 7] }), (1), (fetch (3 * 2 ^ 17 + 99)), (withParity (3 * 2 ^ 17 + 99)), _, rfl, by decide, by decide, by decide⟩,
   ⟨(seq { stack := [77, 2] }), (1), (fetch (4 * 2 ^ 17)), (withParity (4 * 2 ^ 17)), (77), ([2]), _, rfl, by decide, by decide, by decide⟩,
   ⟨(seq {}), (1), (fetch (5 * 2 ^ 17 + 2 ^ 20)), (withParity (5 * 2 ^ 17 + 2 ^ 20)), _, rfl, by decide, by decide, by decide⟩,
   ⟨(seq { issued := some ⟨desc 6, none, none⟩ }), (1), (fetch (6 * 2 ^ 17)), (withParity (6 * 2 ^ 17)), (⟨desc 6, none, none⟩), _, rfl, by decide, by decide, by decide⟩,
   ⟨(put (seq { wait := some (withParity (5 * 2 ^ 17 + 2 ^ 20)) }) [(R.FSQ_WAITING 1, 1)]), (1), (1), (withParity (5 * 2 ^ 17 + 2 ^ 20)), by decide, by decide, by decide⟩,
   ⟨(put (seq {}) [(R.FSQ_WAITING 1, 1)]), (1), by decide⟩⟩

/-- States and operands that meet the hypotheses of every clause of `Obligations.FsqTransfersComplete`. -/
theorem witness_fsqTransfersComplete :
    (∃ (s : State) (n : Fin 4) (f : FsqFetch) (w : Nat) (d : OpDesc), s.fetches n.val f w ∧ transferWord 1 w ∧ s.opDesc n.val = some d)
    ∧ (∃ (s : State) (n : Fin 4) (f : FsqFetch) (w : Nat) (i : Issued), ∃ h : Nat, h = Arith.field w 84 1 ∧ s.fetches n.val f w ∧ transferWord 2 w ∧ (s.fsqOf n.val).current = some i)
    ∧ (∃ (s : State) (n : Fin 4) (f : FsqFetch) (w : Nat) (i : Issued), ∃ h : Nat, h = Arith.field w 84 1 ∧ s.fetches n.val f w ∧ transferWord 3 w ∧ (s.fsqOf n.val).current = some i)
    ∧ (∃ (s : State) (n : Fin 4) (f : FsqFetch) (w : Nat) (d : OpDesc), s.fetches n.val f w ∧ transferWord 4 w ∧ s.opDesc n.val = some d)
    ∧ (∃ (s : State) (n : Fin 4) (f : FsqFetch) (w : Nat), s.fetches n.val f w ∧ transferWord 5 w)
    ∧ (∃ (s : State) (n : Fin 4) (f : FsqFetch) (w : Nat), s.fetches n.val f w ∧ transferWord 6 w)
    ∧ (∃ (s : State) (n : Fin 4) (f : FsqFetch) (w : Nat), s.fetches n.val f w ∧ transferWord 7 w)
    ∧ (∃ (s : State) (n : Fin 4) (f : FsqFetch) (w : Nat), s.fetches n.val f w ∧ transferWord 8 w)
    ∧ (∃ (s : State) (n : Fin 4) (f : FsqFetch) (w : Nat), s.fetches n.val f w ∧ transferWord 9 w) :=
  ⟨⟨(seq { current := some ⟨desc 6, none, none⟩ }), (1), (fetch (2 ^ 80 + 2 ^ 84)), (withParity (2 ^ 80 + 2 ^ 84)), (desc 6), by decide, by decide, by decide⟩,
   ⟨(seq { current := some ⟨desc 6, none, none⟩ }), (1), (fetch (2 * 2 ^ 80 + 2 ^ 84)), (withParity (2 * 2 ^ 80 + 2 ^ 84)), (⟨desc 6, none, none⟩), _, rfl, by decide, by decide, by decide⟩,
   ⟨(seq { current := some ⟨desc 6, none, none⟩ }), (1), (fetch (3 * 2 ^ 80 + 2 ^ 84)), (withParity (3 * 2 ^ 80 + 2 ^ 84)), (⟨desc 6, none, none⟩), _, rfl, by decide, by decide, by decide⟩,
   ⟨(seq { current := some ⟨desc 6, none, none⟩ }), (1), (fetch (4 * 2 ^ 80)), (withParity (4 * 2 ^ 80)), (desc 6), by decide, by decide, by decide⟩,
   ⟨(seq {}), (1), (fetch (5 * 2 ^ 80 + 0xFFF0 * 2 ^ 128)), (withParity (5 * 2 ^ 80 + 0xFFF0 * 2 ^ 128)), by decide, by decide⟩,
   ⟨(seq {}), (1), (fetch (6 * 2 ^ 80)), (withParity (6 * 2 ^ 80)), by decide, by decide⟩,
   ⟨(seq {}), (1), (fetch (7 * 2 ^ 80 + 2 ^ 84 + 2 * 2 ^ 128)), (withParity (7 * 2 ^ 80 + 2 ^ 84 + 2 * 2 ^ 128)), by decide, by decide⟩,
   ⟨(seq {}), (1), (fetch (8 * 2 ^ 80 + 2 ^ 84)), (withParity (8 * 2 ^ 80 + 2 ^ 84)), by decide, by decide⟩,
   ⟨(seq {}), (1), (fetch (9 * 2 ^ 80 + 2 ^ 128)), (withParity (9 * 2 ^ 80 + 2 ^ 128)), by decide, by decide⟩⟩

/-- States and operands that meet the hypotheses of every clause of `Obligations.FsqServiceCompletes`. -/
theorem witness_fsqServiceCompletes :
    (∃ (s : State) (n : Fin 4) (f : FsqFetch) (w : Nat), s.fetches n.val f w ∧ Arith.field w 52 3 = 1 ∧ Arith.field w 80 4 = 0 ∧ Arith.field w 17 3 = 0 ∧ (∀ i < 4, w.testBit (48 + i) = false) ∧ Arith.field w 87 2 = 0 ∧ w.testBit 89 = false)
    ∧ (∃ (s : State) (n : Fin 4) (f : FsqFetch) (w : Nat), s.fetches n.val f w ∧ Arith.field w 52 3 = 2 ∧ Arith.field w 80 4 = 0 ∧ Arith.field w 17 3 = 0 ∧ (∀ i < 4, w.testBit (48 + i) = false) ∧ Arith.field w 87 2 = 0 ∧ w.testBit 89 = false)
    ∧ (∃ (s : State) (n : Fin 4), s.reachable (R.PSI_D_GO n.val).addr = true ∧ s.flag (R.PSI_D_BUSY n.val) = false ∧ (s.fsqOf n.val).psiRun = none ∧ (∀ p < 3, s.psiAt n.val p = []))
    ∧ (∃ (s : State) (n : Fin 4) (f : PsiFrame), (s.fsqOf n.val).psiRun = some (0, f) ∧ f.read = true ∧ f.addr ≠ 0x1F ∧ (∀ p < 3, s.psiAt n.val p = []))
    ∧ (∃ (s : State) (n : Fin 4), s.reachable (R.MC_RESTART n.val).addr = true ∧ s.flag (R.MCHK n.val) = true ∧ s.flag (R.SWAP_PEND n.val) = false)
    ∧ (∃ (s : State) (n : Fin 4), s.reachable (R.SWAP_REQ n.val).addr = true ∧ s.rd (R.SWAP_TO n.val) = 0)
    ∧ (∃ (s : State) (n : Fin 4), s.reachable (R.LOAD_GO n.val).addr = true ∧ s.flag (R.LOAD_BUSY n.val) = false ∧ s.flag (R.SWAP_PEND n.val) = false ∧ s.bankInUse n.val (s.rd (R.LOAD_BANK n.val)) = false)
    ∧ (∃ (s : State) (n : Fin 4) (l : UcodeLoad), (s.fsqOf n.val).load = some l ∧ l.code ≠ 0)
    ∧ (∃ (s : State) (n : Fin 4) (h : Fin 2), s.reachable (R.WSQ_SRC n.val h.val).addr = true)
    ∧ (∃ (s : State) (n : Fin 4) (h : Fin 2), s.dom.med.testBit n.val = true ∧ s.flag (R.WSQ_STOPPED n.val h.val) = false ∧ s.bitAt (R.DLC_LOCK n.val) h.val = true ∧ s.flag (R.WSQ_RUN n.val h.val) = false)
    ∧ (∃ (s : State) (n : Fin 4), s.reachable (R.FSQ_CNT_CLR n.val).addr = true) :=
  ⟨⟨(seq {}), (1), (fetch (2 ^ 52 + 4 * 2 ^ 55 + 9 * 2 ^ 64)), (withParity (2 ^ 52 + 4 * 2 ^ 55 + 9 * 2 ^ 64)), by decide, by decide, by decide, by decide, by decide, by decide, by decide⟩,
   ⟨(seq {}), (1), (fetch (2 * 2 ^ 52 + 4 * 2 ^ 55)), (withParity (2 * 2 ^ 52 + 4 * 2 ^ 55)), by decide, by decide, by decide, by decide, by decide, by decide, by decide⟩,
   ⟨(put on [(R.PSI_D_ADDR 1, 4)]), (1), by decide, by decide, by decide, by decide⟩,
   ⟨(seq { psiRun := some (0, ⟨true, 4, 0, 0, false⟩), psiFail := true }), (1), (⟨true, 4, 0, 0, false⟩), by decide, by decide, by decide, by decide⟩,
   ⟨(put (seq { stack := [4] }) [(R.MCHK 1, 1), (R.WSQ_STOPPED 1 0, 1)]), (1), by decide, by decide, by decide⟩,
   ⟨(on), (1), by decide, by decide⟩,
   ⟨(put on [(R.LOAD_ADDR_LO 1, 4096)]), (1), by decide, by decide, by decide, by decide⟩,
   ⟨({ on with fsq := [(1, { load := some { bank := 0, image := { header := 0, payload := 0 }, code := 3 } })] }), (1), ({ bank := 0, image := { header := 0, payload := 0 }, code := 3 }), by decide, by decide⟩,
   ⟨(on), (1), (1), by decide⟩,
   ⟨(put on [(R.DLC_LOCK 1, 2), (R.WSQ_ENTRY 1 1, 33)]), (1), (1), by decide, by decide, by decide, by decide⟩,
   ⟨(put on [(R.OPS_DONE 1, 9)]), (1), by decide⟩⟩

/-- States and operands that meet the hypotheses of every clause of `Obligations.ServoCommandsComplete`. -/
theorem witness_servoCommandsComplete :
    (∃ (s : State) (n : Fin 4) (h : Fin 2) (f : WedgeFields), s.dom.svt = true ∧ s.underServo n.val = false ∧ f.sam = true ∧ (s.bitAt (R.RG_ON n.val) h.val = true ∨ s.bitAt (R.DLC_LOCK n.val) h.val = true))
    ∧ (∃ (s : State), s.dom.svt = true ∧ s.svt.phase = 0 ∧ s.rd R.PSTATE_NOW ≠ 1)
    ∧ (∃ (s : State) (n : Fin 4), s.rd (R.FE_TIME n.val) < (s.servo n.val).feRun ∧ (s.servo n.val).feDone = false)
    ∧ (∃ (s : State) (n : Fin 4), s.coastOver n.val = true)
    ∧ (∃ (s : State) (n : Fin 4) (h : Fin 2), s.underServo n.val = true ∧ s.slotActive n.val h.val = true ∧ s.otherGood n.val h.val = true ∧ s.rd (R.SV_COAST_MAX n.val) < (State.loopOf (s.servo n.val) h.val).lossRun)
    ∧ (∃ (s : State) (m : BitVec 16), s.rd R.SHK_THR ≤ m.toNat)
    ∧ (∃ (s : State), s.rd R.SHOCK_HOLD_WEDGES ≤ s.svt.calm)
    ∧ (∃ (s : State), s.reachable R.COEF_APPLY.addr = true)
    ∧ (∃ (s : State) (n : Fin 4), s.reachable (R.SV_CNT_CLR n.val).addr = true) :=
  ⟨⟨(put on [(R.RG_ON 2, 2)]), (2), (1), ({ track := 500, time := 9999 }), by decide, by decide, by decide, by decide⟩,
   ⟨(on), by decide, by decide, by decide⟩,
   ⟨(servoing { feRun := 60000 }), (2), by decide, by decide⟩,
   ⟨(put (servoing {}) [(R.SV_COAST_NOW 2, 255), (R.SV_COAST_MAX 2, 9)]), (2), by decide⟩,
   ⟨({ servoing { slot0 := { lossRun := 300 } } with chn := [(4, { head := some 17 }), (5, { head := some 18 })] }), (2), (0), by decide, by decide, by decide, by decide⟩,
   ⟨(on), (0xFFFF), by decide⟩,
   ⟨(withSvt { calm := 100000 }), by decide⟩,
   ⟨(on), by decide⟩,
   ⟨(put on [(R.SV_REQ_REJ 2, 4)]), (2), by decide⟩⟩

/-- States and operands that meet the hypotheses of every clause of `Obligations.ParkAndLoadComplete`. -/
theorem witness_parkAndLoadComplete :
    (∃ (s : State) (n : Fin 4), (s.rd (R.VCM_STATE n.val) = 2 ∨ s.rd (R.VCM_STATE n.val) = 3))
    ∧ (∃ (s : State) (n : Fin 4), s.rd (R.VCM_STATE n.val) = 4 ∧ s.boot.actResetWait.testBit n.val = false)
    ∧ (∃ (s : State) (n : Fin 4), (s.servo n.val).parking = true ∧ s.flag (R.SV_SETTLED n.val) = true)
    ∧ (∃ (s : State) (n : Fin 4), s.rd (R.VCM_STATE n.val) = 6 ∧ (s.servo n.val).slot0.acquired = false ∧ (s.servo n.val).tries < 2)
    ∧ (∃ (s : State) (n : Fin 4), s.rd (R.VCM_STATE n.val) = 6 ∧ (s.servo n.val).slot0.acquired = true ∧ s.bitAt (R.DLC_LOCK n.val) 0 = true) :=
  ⟨⟨(put (servoing {}) [(R.VCM_STATE 2, 3)]), (2), by decide⟩,
   ⟨(put (servoing {}) [(R.VCM_STATE 2, 4)]), (2), by decide, by decide⟩,
   ⟨(put (servoing { parking := true }) [(R.SV_SETTLED 2, 1)]), (2), by decide, by decide⟩,
   ⟨(put (servoing { tries := 1 }) [(R.VCM_STATE 2, 6)]), (2), by decide, by decide, by decide⟩,
   ⟨(put (servoing { slot0 := { acquired := true } }) [(R.VCM_STATE 2, 6), (R.DLC_LOCK 2, 1)]), (2), by decide, by decide, by decide⟩⟩

/-- States and operands that meet the hypotheses of every clause of `Obligations.TriadCommandsComplete`. -/
theorem witness_triadCommandsComplete :
    (∃ (s : State), s.dom.svt = true ∧ 1 ≤ s.svt.phase ∧ s.svt.phase ≤ 4 ∧ (List.range 4).filter s.voting = [0, 1, 2])
    ∧ (∃ (s : State), s.dom.svt = true ∧ s.svt.phase = 5)
    ∧ (∃ (s : State) (l : Fin 4), s.dom.svt = true ∧ s.voting l.val = true ∧ s.rd R.DIS_RETIRE_THR ≤ s.rd (R.LANE_WIN_DIS l.val))
    ∧ (∃ (s : State), s.svt.warmDue = true ∧ s.dom.svt = true ∧ s.flag R.WARM_BUSY = false)
    ∧ (∃ (s : State), s.flag R.WARM_BUSY = true ∧ s.rd R.WARM_PHASE = 2)
    ∧ (∃ (s : State), s.flag R.WARM_BUSY = true ∧ s.rd R.WARM_PHASE = 3 ∧ s.svt.clean = true ∧ s.svt.phase = 0)
    ∧ (∃ (s : State), s.flag R.WARM_BUSY = true ∧ s.rd R.WARM_PHASE = 4 ∧ s.svt.phase ≤ 1 ∧ s.rd R.COEF_PEND = 0)
    ∧ (∃ (s : State) (l : Fin 4), s.reachable R.LANE_BIST.addr = true ∧ (s.rd (R.LANE_STATE l.val) = 0 ∨ s.rd (R.LANE_STATE l.val) = 3))
    ∧ (∃ (s : State) (l : Fin 4), s.rd (R.LANE_STATE l.val) = 4)
    ∧ (∃ (s : State), s.reachable R.TRIAD_CNT_CLR.addr = true) :=
  ⟨⟨(put (withSvt { phase := 2 }) [(R.LANE_STATE 0, 2), (R.LANE_STATE 1, 2), (R.LANE_STATE 2, 2)]), by decide, by decide, by decide, by decide⟩,
   ⟨(withSvt { phase := 5, seq := 6 }), by decide, by decide⟩,
   ⟨(put on [(R.LANE_WIN_DIS 1, 200), (R.LANE_STATE 1, 2)]), (1), by decide, by decide, by decide⟩,
   ⟨(withSvt { warmDue := true }), by decide, by decide, by decide⟩,
   ⟨(put on [(R.WARM_BUSY, 1), (R.WARM_PHASE, 2)]), by decide, by decide⟩,
   ⟨(put (withSvt { clean := true }) [(R.WARM_BUSY, 1), (R.WARM_PHASE, 3)]), by decide, by decide, by decide, by decide⟩,
   ⟨(put on [(R.WARM_BUSY, 1), (R.WARM_PHASE, 4), (R.WARM_LANE, 3)]), by decide, by decide, by decide, by decide⟩,
   ⟨(put on [(R.LANE_STATE 3, 3)]), (3), by decide, by decide⟩,
   ⟨(put on [(R.LANE_STATE 3, 4), (R.BIST_BUSY, 1)]), (3), by decide⟩,
   ⟨(put on [(R.DUAL_MISMATCH_CNT, 4)]), by decide⟩⟩

/-- States and operands that meet the hypotheses of every clause of `Obligations.AssistCommandsComplete`. -/
theorem witness_assistCommandsComplete :
    (∃ (s : State) (n : Fin 4), s.dom.svt = true ∧ s.svt.phase = 1 ∧ s.rd R.FRAME_WEDGE % 16 = (4 * n.val + 14) % 16 ∧ s.flag (R.SLOT_PLACED (2 * n.val)) = true ∧ s.flag (R.SLOT_PLACED (2 * n.val + 1)) = false)
    ∧ (∃ (s : State) (n : Fin 4) (x : Int), s.flag (R.SLOT_PLACED (2 * n.val)) = true ∧ s.flag (R.SLOT_PLACED (2 * n.val + 1)) = false ∧ s.bitAt R.ASST_FORCED n.val = false ∧ s.bitAt R.ASST_EN n.val = true ∧ s.assistFitted = true ∧ s.rd R.PSTATE_NOW = 0 ∧ (s.asdSlot (2 * n.val)).due = some x)
    ∧ (∃ (s : State) (j : Fin 32), ∃ a : AgeSum, a = Store.get {} s.cal.age j.val ∧ s.flag R.AGE_EN = true ∧ s.runsAssist j.val = false ∧ 1024 * s.rd R.AGE_N_1K ≤ a.frames)
    ∧ (∃ (s : State) (n : Fin 4), s.reachable R.ASST_FORCED.addr = true ∧ s.flag R.PF_ACTIVE = false ∧ s.rd (R.VCM_STATE n.val) ≠ 2 ∧ s.boundaryOn = false)
    ∧ (∃ (s : State), s.reachable R.ASD_CNT_CLR.addr = true)
    ∧ (∃ (s : State), s.reachable R.TBL_DATA.addr = true)
    ∧ (∃ (s : State) (i : BitVec 13) (e : CalRamp), s.rampAt i.toNat = some e ∧ s.boundaryOk e.target = true ∧ e.steps ≤ e.step + 1)
    ∧ (∃ (s : State) (i : BitVec 13) (e : CalRamp), s.rampAt i.toNat = some e ∧ e.ramp = true ∧ (s.count R.RAMP_FALLBACK_CNT).consumerRuns e.target = true) :=
  ⟨⟨(put (withSvt { phase := 1 }) [(R.FRAME_WEDGE, 18), (R.SLOT_PLACED 2, 1)]), (1), by decide, by decide, by decide, by decide, by decide⟩,
   ⟨(put { on with cal := { on.cal with asd := [(2, { due := some 500 })] }, fuses := { on.fuses with variant := 1 } } [(R.SLOT_PLACED 2, 1), (R.ASST_EN, 2), (R.ASST_FORCED, 0), (R.PSTATE_NOW, 0)]), (1), (500), by decide, by decide, by decide, by decide, by decide, by decide, by decide⟩,
   ⟨(put { on with cal := { on.cal with age := [(9, { sOut := 900, sBase := 800, frames := 70000000 })] } } [(R.AGE_EN, 1)]), (9), _, rfl, by decide, by decide, by decide⟩,
   ⟨({ put on [(R.ASST_FORCED, 4)] with tap := { on.tap with ir := 1 } }), (2), by decide, by decide, by decide, by decide⟩,
   ⟨(put on [(R.ASST_CLAMP_CNT, 4)]), by decide⟩,
   ⟨({ put on [(R.TBL_ADDR, 400)] with cal := { on.cal with profile := [(100, 77)] } }), by decide⟩,
   ⟨({ on with cal := { on.cal with ramps := [⟨⟨2, 3, 4, 0⟩, 5, 6, 0, 0, 0, 1, false, none⟩] } }), (0), (⟨⟨2, 3, 4, 0⟩, 5, 6, 0, 0, 0, 1, false, none⟩), by decide, by decide, by decide⟩,
   ⟨(put { on with cal := { on.cal with ramps := [⟨⟨2, 3, 4, 0⟩, 5, 6, 0, 0, 1, 9, true, none⟩] } } [(R.SLOT_PLACED 0, 1), (R.SLOT_HEAD 0, 3), (R.SLOT_ZONE 0, 4)]), (0), (⟨⟨2, 3, 4, 0⟩, 5, 6, 0, 0, 1, 9, true, none⟩), by decide, by decide, by decide⟩⟩

/-- States and operands that meet the hypotheses of every clause of `Obligations.CalibrationCommandsComplete`. -/
theorem witness_calibrationCommandsComplete :
    (∃ (s : State) (k : Fin 4) (ty : BitVec 4) (i : BitVec 5) (b : Bool), ∃ u : State, u = ((s.granting.wr (R.RUN_TYPE k.val) ty.toNat).wr (R.RUN_UNIT k.val) i.toNat).wr (R.RUN_SLOT k.val) (Arith.ofBool b) ∧ ∃ n : Nat, n = (runActuator { type := ty.toNat, unit := i.toNat }).getD 0 ∧ ∃ r : CalRun, r = { type := ty.toNat, unit := i.toNat, slot := Arith.ofBool b, head0 := (s.slot (2 * n)).head, head1 := (s.slot (2 * n + 1)).head } ∧ s.reachable (R.RUN_START k.val).addr = true ∧ u.refuses k.val r = false)
    ∧ (∃ (s : State) (k : Fin 4) (m : BitVec 12), (s.calRun k.val).isSome = true ∧ s.violations k.val m.toNat ≠ 0)
    ∧ (∃ (s : State) (k : Fin 4) (m : BitVec 12), s.reachable (R.RUN_CANCEL k.val).addr = true ∧ (s.calRun k.val).isSome = true ∧ s.violations k.val m.toNat = 0)
    ∧ (∃ (s : State) (k : Fin 4) (m : BitVec 12), s.reachable (R.RUN_FINISH k.val).addr = true ∧ (s.calRun k.val).isSome = true ∧ s.violations k.val m.toNat = 0)
    ∧ (∃ (s : State) (k : Fin 4) (m : BitVec 12), s.rd (R.RUN_STATE k.val) = 2 ∧ (s.calRun k.val).isSome = true ∧ s.violations k.val m.toNat = 0 ∧ s.rd (R.LIST_N k.val) = 0)
    ∧ (∃ (s : State) (q : Nat), s.reachable R.STORE_GO.addr = true ∧ s.flag R.PF_ACTIVE = false ∧ s.flag R.STORE_BUSY = false ∧ s.storeBufOk = true ∧ s.higherSeq = some q)
    ∧ (∃ (s : State) (x : CalStore), s.cal.store = some x ∧ x.bank < 2 ∧ s.flag R.STORE_AGAIN = false)
    ∧ (∃ (s : State) (x : CalBank), s.firmwareRuns = true ∧ s.flag R.CAL_LOADED = false ∧ s.nv.bankA = some x ∧ s.nv.bankB = none)
    ∧ (∃ (s : State), s.cal.store.isSome = true) :=
  ⟨⟨(on), (2), (2), (3), (true), _, rfl, _, rfl, _, rfl, by decide, by decide⟩,
   ⟨(put { on with cal := { on.cal with runs := [(2, { type := 2, unit := 3 })] } } [(R.RUN_STATE 2, 1), (R.PRE_ACTIVE 2, 0x80), (R.SHOCK_HOLD, 1)]), (2), (0x80), by decide, by decide⟩,
   ⟨(put { on with cal := { on.cal with runs := [(2, { type := 2, unit := 3 })] } } [(R.RUN_STATE 2, 1)]), (2), (0x80), by decide, by decide, by decide⟩,
   ⟨(put { on with cal := { on.cal with runs := [(2, { type := 2, unit := 3 })] } } [(R.RUN_STATE 2, 1)]), (2), (0x80), by decide, by decide, by decide⟩,
   ⟨(put { on with cal := { on.cal with runs := [(2, { type := 2, unit := 3 })] } } [(R.RUN_STATE 2, 2)]), (2), (0), by decide, by decide, by decide, by decide⟩,
   ⟨(put { on with nv := { on.nv with bankA := some ⟨6, {}, 64⟩ } } [(R.STORE_BUF_HI, 8)]), (6), by decide, by decide, by decide, by decide, by decide⟩,
   ⟨(put { on with cal := { on.cal with store := some ⟨{}, 7, 1, false⟩ } } [(R.STORE_BUSY, 1)]), (⟨{}, 7, 1, false⟩), by decide, by decide, by decide⟩,
   ⟨({ on with nv := { on.nv with bankA := some ⟨6, {}, 64⟩ } }), (⟨6, {}, 64⟩), by decide, by decide, by decide, by decide⟩,
   ⟨({ on with cal := { on.cal with store := some ⟨{}, 7, 1, false⟩ } }), by decide⟩⟩

/-- States and operands that meet the hypotheses of every clause of `Obligations.LiveCommandsComplete`. -/
theorem witness_liveCommandsComplete :
    (∃ (s : State), s.reachable R.SPM_RPM.addr = true)
    ∧ (∃ (s : State), s.reachable R.DRAIN_REQ.addr = true)
    ∧ (∃ (s : State), s.reachable R.ACTV_GO.addr = true ∧ s.activationRefused false = false)
    ∧ (∃ (s : State) (a : Activation), s.boot.activation = some a ∧ s.rd R.ACTV_STATE = 1)
    ∧ (∃ (s : State) (a : Activation), s.boot.activation = some a ∧ s.rd R.ACTV_STATE = 2)
    ∧ (∃ (s : State) (a : Activation) (x : Nat), s.reachable R.ACTV_RELEASE.addr = true ∧ s.boot.hold = some x ∧ s.boot.activation = some a ∧ s.rd R.ACTV_STATE = 3)
    ∧ (∃ (s : State), s.boot.hold.isSome = true)
    ∧ (∃ (s : State), s.reachable R.PERT_ARM.addr = true ∧ s.pertWritable = true ∧ s.flag R.PERT_ARM = true)
    ∧ (∃ (s : State), s.reachable R.COHORT_ID.addr = true)
    ∧ (∃ (s : State), s.dom.pstg = true ∧ s.flag R.COHORT_EN = true ∧ s.flag R.SPM_AT_SPEED = true ∧ s.cohort.accepted = false)
    ∧ (∃ (s : State), s.dom.pstg = true ∧ s.flag R.COHORT_EN = true) :=
  ⟨⟨(on), by decide⟩,
   ⟨(put on [(R.DRAIN_DONE, 3)]), by decide⟩,
   ⟨(put (activating 0) [(R.MAP_HALT, 0)]), by decide, by decide⟩,
   ⟨(activating 1), ({ image := image0, slot := 1, tag := none }), by decide, by decide⟩,
   ⟨(activating 2), ({ image := image0, slot := 1, tag := none }), by decide, by decide⟩,
   ⟨(put (activating 3) [(R.FCU_US, 900)]), ({ image := image0, slot := 1, tag := none }), (5), by decide, by decide, by decide, by decide⟩,
   ⟨(activating 3), by decide⟩,
   ⟨(put on [(R.PERT_ARM, 1)]), by decide, by decide, by decide⟩,
   ⟨(on), by decide⟩,
   ⟨(put { on with dom := { on.dom with pstg := true } } [(R.COHORT_EN, 1), (R.SPM_AT_SPEED, 1)]), by decide, by decide, by decide, by decide⟩,
   ⟨(put { on with dom := { on.dom with pstg := true } } [(R.COHORT_EN, 1)]), by decide, by decide⟩⟩

/-- States and operands that meet the hypotheses of every clause of `Obligations.TapCommandsComplete`. -/
theorem witness_tapCommandsComplete :
    (∃ (s : State), s.rd R.SPM_STATE = 0 ∧ (∀ n < 4, s.flag (R.PARKED n) = true))
    ∧ (∃ (s : State), s.rd R.SPM_STATE = 0 ∧ (∀ n < 4, s.flag (R.PARKED n) = true))
    ∧ (∃ (s : State), s.rd R.SPM_STATE = 0 ∧ (∀ n < 4, s.flag (R.PARKED n) = true))
    ∧ (∃ (c : BitVec 8), c.toNat ∉ [0, 1, 2, 4, 5, 0x10, 0x20]) :=
  ⟨⟨(put on [(R.PARKED 0, 1), (R.PARKED 1, 1), (R.PARKED 2, 1), (R.PARKED 3, 1)]), by decide, by decide⟩,
   ⟨(put on [(R.PARKED 0, 1), (R.PARKED 1, 1), (R.PARKED 2, 1), (R.PARKED 3, 1)]), by decide, by decide⟩,
   ⟨(put on [(R.PARKED 0, 1), (R.PARKED 1, 1), (R.PARKED 2, 1), (R.PARKED 3, 1)]), by decide, by decide⟩,
   ⟨(0x33), by decide⟩⟩

/-- States and operands that meet the hypotheses of every clause of `Obligations.MapCacheRequestsComplete`. -/
theorem witness_mapCacheRequestsComplete :
    (∃ (s : State), s.dom.core = true ∧ s.flag R.CACHE_INIT_DONE = false)
    ∧ (∃ (s : State) (a : BitVec 35) (w : Nat), s.mcaRuns = true ∧ (s.windowOf (a.toNat / 8 * 8)).isSome = true ∧ s.hitWay (a.toNat / 8 * 8 / 128) = some w ∧ s.mca.range = none)
    ∧ (∃ (s : State) (a : BitVec 35) (w : Nat), s.mcaRuns = true ∧ (s.windowOf (a.toNat / 8 * 8)).isSome = true ∧ s.hitWay (a.toNat / 8 * 8 / 128) = some w ∧ s.mca.range = none ∧ (s.wayAt (State.setOf (a.toNat / 8 * 8 / 128)) w).lock = none)
    ∧ (∃ (s : State) (t : State) (u : State) (l : BitVec 28) (b : Bool) (f : McFill) (d : Nat), ∃ g : State, g = s.modMca (fun m => { m with fills := m.fills.filter fun x => x.line != f.line }) ∧ s.fillOf l.toNat = some f ∧ s.dom.dram = true ∧ s.dom.core = true ∧ f.discard = false ∧ g.loadLine f.line = (t, some d) ∧ t.install f.line d (f.prefetch && f.reqs.isEmpty) b = (u, true))
    ∧ (∃ (s : State) (l : BitVec 28) (e : McLine) (i : Nat), s.mca.evicting = [e] ∧ e.line = l.toNat ∧ s.victimSlot = some i ∧ s.mca.stalled = [] ∧ s.mca.noBuffer = [])
    ∧ (∃ (s : State) (g : BitVec 13) (i : Nat) (d : McDetector), (s.mca.detectors.findSome? fun e => e.2.bind fun d => if d.tag = g.toNat ∧ d.due then some (e.1, d) else none) = some (i, d) ∧ s.mcaRuns = true ∧ s.flag R.MC_PF_EN = true) :=
  ⟨⟨(on), by decide, by decide⟩,
   ⟨(caching line4), (0x400010), (3), by decide, by decide, by decide, by decide⟩,
   ⟨(caching line4), (0x400010), (3), by decide, by decide, by decide, by decide, by decide⟩,
   ⟨(caching { fills := [{ line := 32768, reqs := [⟨none, 5, 0x400010⟩] }] }), ((((caching { fills := [{ line := 32768, reqs := [⟨none, 5, 0x400010⟩] }] }).modMca (fun m => { m with fills := m.fills.filter fun x => x.line != 32768 })).loadLine 32768).1), (((((caching { fills := [{ line := 32768, reqs := [⟨none, 5, 0x400010⟩] }] }).modMca (fun m => { m with fills := m.fills.filter fun x => x.line != 32768 })).loadLine 32768).1.install 32768 0 false false).1), (32768), (false), ({ line := 32768, reqs := [⟨none, 5, 0x400010⟩] }), (0), _, rfl, by decide, by decide, by decide, by decide, by decide +kernel, by decide +kernel⟩,
   ⟨(caching { evicting := [⟨99, 6, 0⟩] }), (99), (⟨99, 6, 0⟩), (0), by decide, by decide, by decide, by decide, by decide⟩,
   ⟨(put (caching { detectors := [(4, some { tag := 5, last := 32768, stride := 1, conf := 2, used := 0, due := true })] }) [(R.MC_PF_EN, 1)]), (5), (4), ({ tag := 5, last := 32768, stride := 1, conf := 2, used := 0, due := true }), by decide, by decide, by decide⟩⟩

/-- States and operands that meet the hypotheses of every clause of `Obligations.MapCacheRangesComplete`. -/
theorem witness_mapCacheRangesComplete :
    (∃ (s : State) (k : Fin 4) (b : BitVec 15), s.reachable (R.WIN_EN k.val).addr = true ∧ s.flag (R.WIN_EN k.val) = false ∧ (s.wr (R.WIN_BASE k.val) b.toNat).windowFits k.val = true)
    ∧ (∃ (s : State) (k : Fin 4), s.reachable (R.WIN_EN k.val).addr = true ∧ s.flag (R.WIN_EN k.val) = true ∧ s.flag R.RANGE_BUSY = false)
    ∧ (∃ (s : State) (k : Fin 8), s.reachable (R.LOCK_EN k.val).addr = true ∧ s.flag (R.LOCK_EN k.val) = false ∧ s.lockFits k.val = true)
    ∧ (∃ (s : State) (k : Fin 8), s.reachable (R.LOCK_EN k.val).addr = true ∧ s.flag (R.LOCK_EN k.val) = true)
    ∧ (∃ (s : State) (k : Fin 8), s.reachable (R.LOCK_LOAD k.val).addr = true ∧ s.flag (R.LOCK_EN k.val) = true ∧ s.flag (R.LOCK_BUSY k.val) = false)
    ∧ (∃ (s : State) (k : Fin 8), s.flag (R.LOCK_BUSY k.val) = true ∧ s.dom.dram = true)
    ∧ (∃ (s : State), s.reachable R.RANGE_GO.addr = true ∧ s.flag R.RANGE_BUSY = false ∧ s.flag R.MAP_HALT = false ∧ s.rd R.RANGE_LINES ≠ 0)
    ∧ (∃ (s : State), s.reachable R.RANGE_GO.addr = true ∧ s.flag R.RANGE_BUSY = false ∧ s.flag R.MAP_HALT = false ∧ s.rd R.RANGE_LINES ≠ 0)
    ∧ (∃ (s : State), s.reachable R.RANGE_GO.addr = true ∧ s.flag R.RANGE_BUSY = false ∧ s.rd R.RANGE_LINES ≠ 0)
    ∧ (∃ (s : State), s.mca.range.isSome = true)
    ∧ (∃ (s : State), s.reachable R.MAP_RESUME.addr = true ∧ s.flag R.RANGE_BUSY = false ∧ s.flag R.MAP_HALT = true ∧ s.mca.halted = [])
    ∧ (∃ (s : State), s.reachable R.MC_DIAG_GO.addr = true)
    ∧ (∃ (s : State), s.reachable R.MC_CNT_CLR.addr = true) :=
  ⟨⟨(put on [(R.WIN_SIZE 1, 4)]), (1), (32764), by decide, by decide, by decide⟩,
   ⟨(caching {}), (0), by decide, by decide, by decide⟩,
   ⟨(put (caching {}) [(R.LOCK_LINE 2, 32768), (R.LOCK_LINES 2, 8)]), (2), by decide, by decide, by decide⟩,
   ⟨(put (caching {}) [(R.LOCK_LINE 2, 32768), (R.LOCK_LINES 2, 8), (R.LOCK_EN 2, 1)]), (2), by decide, by decide⟩,
   ⟨(put (caching {}) [(R.LOCK_LINE 2, 32768), (R.LOCK_LINES 2, 8), (R.LOCK_EN 2, 1)]), (2), by decide, by decide, by decide⟩,
   ⟨(put (caching {}) [(R.LOCK_LINE 2, 32768), (R.LOCK_LINES 2, 8), (R.LOCK_EN 2, 1), (R.LOCK_BUSY 2, 1)]), (2), by decide, by decide⟩,
   ⟨(put (caching {}) [(R.RANGE_LINE, 32768), (R.RANGE_LINES, 8)]), by decide, by decide, by decide, by decide⟩,
   ⟨(put (caching { evicting := [⟨32770, 6, 0⟩, ⟨32776, 6, 0⟩] }) [(R.RANGE_LINE, 32768), (R.RANGE_LINES, 8)]), by decide, by decide, by decide, by decide⟩,
   ⟨(put (caching { evicting := [⟨32770, 6, 0⟩, ⟨32776, 6, 0⟩] }) [(R.RANGE_LINE, 32768), (R.RANGE_LINES, 8)]), by decide, by decide, by decide⟩,
   ⟨(put (caching { range := some ⟨0, 32768, 8, 0⟩ }) [(R.RANGE_BUSY, 1)]), by decide⟩,
   ⟨(put (caching {}) [(R.MAP_HALT, 1)]), by decide, by decide, by decide, by decide⟩,
   ⟨(caching line4), by decide⟩,
   ⟨(put on [(R.MC_HIT_CNT, 9)]), by decide⟩⟩

/-- States and operands that meet the hypotheses of every clause of `Obligations.PackCommandsComplete`. -/
theorem witness_packCommandsComplete :
    (∃ (s : State) (b : ReadyBlock), s.mtuRuns = true ∧ s.packReady b.ns.toNat (16 * b.block.toNat) = true ∧ s.pak.lanes = [] ∧ s.pak.ready = [])
    ∧ (∃ (s : State) (i : Fin 4) (l : PackLane) (n : Namespace), s.packLane i.val = some l ∧ l.stalled = none ∧ s.namespaceOf l.ns = some n ∧ n.zoned = false ∧ s.pak.ready = [])
    ∧ (∃ (s : State), s.pak.freeDue ≠ 0 ∧ (∀ e ∈ s.pak.lanes, e.2.bind PackLane.stalled = none))
    ∧ (∃ (s : State) (i : Nat) (l : PackLane), s.pak.freeDue ≠ 0 ∧ s.stalledLane = some (i, l) ∧ l.need = l.have_ + 1)
    ∧ (∃ (s : State) (b : ReadyBlock) (x : ReadUnit) (n : Namespace), ∃ u : State, u = s.wr R.UNPACK_TOKEN ((b.source.toNat % 8 + 1) % 8) ∧ u.readUnit b.ns.toNat (16 * b.block.toNat) = some x ∧ u.namespaceOf b.ns.toNat = some n ∧ n.zoned = false ∧ u.baseSectors n x.ns x.lba ≠ 0 ∧ State.lacking x 0 (u.baseSectors n x.ns x.lba) = [] ∧ x.bad = false)
    ∧ (∃ (s : State) (r : BitVec 2) (ns : Nat) (zi : Nat), s.reachable R.ZR_WRITE.addr = true ∧ s.selectedZone = some (ns, zi) ∧ (s.zone (State.zoneKey ns zi)).cond = .empty ∧ r ≠ 3)
    ∧ (∃ (s : State) (ns : Nat) (zi : Nat), s.reachable R.ZR_READ.addr = true ∧ s.selectedZone = some (ns, zi))
    ∧ (∃ (s : State), s.reachable R.PAK_CNT_CLR.addr = true) :=
  ⟨⟨(packed), ({ ns := 1, block := 2, source := 9 }), by decide, by decide, by decide, by decide⟩,
   ⟨(packing { lanes := [(2, some ⟨1, 32, 0, 16, 16, none⟩)] }), (2), (⟨1, 32, 0, 16, 16, none⟩), (conv), by decide, by decide, by decide, by decide, by decide⟩,
   ⟨(packing { freeDue := 3 }), by decide, by decide⟩,
   ⟨(put (packing { freeDue := 3, lanes := [(2, some ⟨1, 32, 0, 16, 15, some 0⟩)] }) [(R.POOL_FREE, 0)]), (2), (⟨1, 32, 0, 16, 15, some 0⟩), by decide, by decide, by decide⟩,
   ⟨({ packing { reads := [{ ns := 1, lba := 32, sectors := [(0, some 5)] }] } with media := { serving.media with tables := { serving.media.tables with map := [(2 ^ 32 + 2, some ⟨70, 1, true⟩)] } } }), ({ ns := 1, block := 2, source := 9 }), ({ ns := 1, lba := 32, sectors := [(0, some 5)] }), (conv), _, rfl, by decide, by decide, by decide, by decide, by decide, by decide⟩,
   ⟨(put serving [(R.ZSEL_NS, 1), (R.ZSEL_ZONE, 1)]), (2), (2), (1), by decide, by decide, by decide, by decide⟩,
   ⟨(put serving [(R.ZSEL_NS, 1), (R.ZSEL_ZONE, 1)]), (2), (1), by decide, by decide⟩,
   ⟨(put on [(R.PACKED_CNT, 9)]), by decide⟩⟩

/-- States and operands that meet the hypotheses of every clause of `Obligations.DramAccessesComplete`. -/
theorem witness_dramAccessesComplete :
    (∃ (s : State) (p : Fin 8) (w : BitVec 29) (d : Nat), s.dom.dram = true ∧ s.wordBusy w.toNat = false ∧ (p ≠ 7 → s.inCheckArea w.toNat = false) ∧ s.isWritten w.toNat = true ∧ classify (s.codeOf w.toNat) (s.rawWord w.toNat) (s.rawCheck w.toNat) = (.clean, d, 0))
    ∧ (∃ (s : State) (p : Fin 8) (w : BitVec 29), s.dom.dram = true ∧ s.wordBusy w.toNat = false ∧ (p ≠ 7 → s.inCheckArea w.toNat = false) ∧ s.isWritten w.toNat = false)
    ∧ (∃ (s : State) (p : Fin 8) (w : BitVec 29), s.dom.dram = true ∧ s.wordBusy w.toNat = false ∧ (p ≠ 7 → s.inCheckArea w.toNat = false) ∧ s.isWritten w.toNat = true ∧ s.codeOf w.toNat = 0)
    ∧ (∃ (s : State) (p : Fin 8) (w : BitVec 29), s.dom.dram = true ∧ s.wordBusy w.toNat = false ∧ (p ≠ 7 → s.inCheckArea w.toNat = false) ∧ s.isWritten w.toNat = true ∧ s.codeOf w.toNat = 0) :=
  ⟨⟨(word100), (5), (100), (77), by decide, by decide, by decide, by decide, by decide⟩,
   ⟨(on), (5), (100), by decide, by decide, by decide, by decide⟩,
   ⟨(word100), (5), (100), by decide, by decide, by decide, by decide, by decide⟩,
   ⟨(word100), (5), (100), by decide, by decide, by decide, by decide, by decide⟩⟩

/-- States and operands that meet the hypotheses of every clause of `Obligations.DramRegionsComplete`. -/
theorem witness_dramRegionsComplete :
    (∃ (s : State) (k : Fin 16) (b : BitVec 15) (a : Bool), ∃ u : State, u = (s.wr (R.REG_BASE k.val) b.toNat).wrFlag (R.REG_ADOPT k.val) a ∧ s.reachable (R.REG_EN k.val).addr = true ∧ s.flag (R.REG_EN k.val) = false ∧ s.flag (R.REG_BUSY k.val) = false ∧ u.regionFits k.val = true)
    ∧ (∃ (s : State) (k : Fin 16), s.reachable (R.REG_EN k.val).addr = true ∧ s.flag (R.REG_EN k.val) = true ∧ s.flag (R.REG_BUSY k.val) = false)
    ∧ (∃ (s : State) (k : Fin 16), s.reachable (R.REG_MARK k.val).addr = true ∧ s.flag (R.REG_EN k.val) = true ∧ s.flag (R.REG_BUSY k.val) = false)
    ∧ (∃ (s : State) (k : Fin 16) (lo : Nat) (hi : Nat), Store.get none s.dram.busy k.val = some ⟨lo, hi, .clear⟩ ∧ s.dram.waiting = [])
    ∧ (∃ (s : State) (b : BitVec 8) (r : BitVec 16), s.reachable R.SPR_GO.addr = true ∧ s.freeSpares b.toNat ≠ [] ∧ Store.get none s.dram.fused (b.toNat * 65536 + r.toNat) = none ∧ Store.get none s.dram.soft (b.toNat * 65536 + r.toNat) = none ∧ s.flag R.SPR_BUSY = false)
    ∧ (∃ (s : State) (key : Nat) (x : Nat), s.dram.copying = some (key, x) ∧ s.dram.waiting = [] ∧ (∀ c < 32, s.isWritten (wordAt (key / 65536) (key % 65536) c) = false)) :=
  ⟨⟨(put (region {}) [(R.REG_EN 2, 0)]), (2), (3), (true), _, rfl, by decide, by decide, by decide, by decide⟩,
   ⟨(region {}), (2), by decide, by decide, by decide⟩,
   ⟨(region {}), (2), by decide, by decide, by decide⟩,
   ⟨(region { busy := [(2, some ⟨16384, 32768, .clear⟩)], written := [(256, true), (512, true)] }), (2), (16384), (32768), by decide, by decide⟩,
   ⟨(on), (3), (500), by decide, by decide, by decide, by decide, by decide⟩,
   ⟨(put { on with dram := { on.dram with copying := some (3 * 65536 + 500, 2) } } [(R.SPR_BUSY, 1)]), (3 * 65536 + 500), (2), by decide, by decide, by decide⟩⟩

/-- States and operands that meet the hypotheses of every clause of `Obligations.DramServiceCompletes`. -/
theorem witness_dramServiceCompletes :
    (∃ (s : State) (b : Bool) (w : Nat), ∃ u : State, u = s.wrFlag R.SCRUB_BEHIND b ∧ s.flag R.SCRUB_EN = true ∧ s.dom.dram = true ∧ u.scrubNext (u.rd R.SCRUB_WORD) = some w ∧ u.isWritten w = true)
    ∧ (∃ (s : State), s.reachable R.DIAG_GO.addr = true ∧ s.flag R.DIAG_EN = true)
    ∧ (∃ (s : State) (w : BitVec 29), s.reachable R.DIAG_GO.addr = true ∧ s.flag R.DIAG_EN = true ∧ s.isWritten w.toNat = true ∧ s.regionOf w.toNat = none)
    ∧ (∃ (s : State) (w : BitVec 29), s.reachable R.DIAG_GO.addr = true ∧ s.flag R.DIAG_EN = true ∧ s.isWritten w.toNat = true)
    ∧ (∃ (s : State) (w : BitVec 29), ∃ u : State, u = (s.granting.wr R.DIAG_WORD w.toNat).wr R.DIAG_OP 3 ∧ s.reachable R.DIAG_GO.addr = true ∧ s.flag R.DIAG_EN = true ∧ s.isWritten w.toNat = true ∧ s.codeOf w.toNat ≠ 0)
    ∧ (∃ (s : State), s.reachable R.CE_LOG_CLR.addr = true)
    ∧ (∃ (s : State) (k : Fin 32), s.reachable (R.CEL_VALID k.val).addr = true)
    ∧ (∃ (s : State), s.reachable R.DMC_CNT_CLR.addr = true) :=
  ⟨⟨(put (region { written := [(256, true)] }) [(R.SCRUB_EN, 1), (R.SCRUB_WORD, 16390)]), (true), (16390), _, rfl, by decide, by decide, by decide, by decide⟩,
   ⟨(put word100 [(R.DIAG_EN, 1)]), by decide, by decide⟩,
   ⟨(put word100 [(R.DIAG_EN, 1), (R.DIAG_DATA 3, 9)]), (100), by decide, by decide, by decide, by decide⟩,
   ⟨(put word100 [(R.DIAG_EN, 1), (R.DIAG_DATA 3, 9)]), (100), by decide, by decide, by decide⟩,
   ⟨(put (region { words := [], written := [(256, true)] }) [(R.DIAG_EN, 1), (R.DIAG_CHK_LO, 9)]), (16390), _, rfl, by decide, by decide, by decide, by decide⟩,
   ⟨(put on [(R.CEL_VALID 3, 1)]), by decide⟩,
   ⟨(put on [(R.CEL_VALID 3, 1)]), (3), by decide⟩,
   ⟨(put on [(R.CE_CNT, 9)]), by decide⟩⟩

/-- States and operands that meet the hypotheses of every clause of `Obligations.TallyRecordsComplete`. -/
theorem witness_tallyRecordsComplete :
    (∃ (s : State) (p : Nat) (e : TlyEvent) (l : List TlyEvent), tokenGrant 4 (s.rd R.INLET_TLY_TOKEN) s.inletReq = some p ∧ s.waiting p = e :: l ∧ s.tly.inlet.length < 16)
    ∧ (∃ (s : State) (e : TlyEvent) (l : List TlyEvent), s.tly.inlet = e :: l ∧ s.mayCommit = true ∧ s.isRepeat e = false ∧ s.rd R.DROP_PEND = 0 ∧ s.ringAt (s.rd R.RING_HEAD) = none ∧ e.kind ≠ 4)
    ∧ (∃ (s : State) (e : TlyEvent) (l : List TlyEvent) (i : Nat) (r : RingSlot), s.tly.inlet = e :: l ∧ s.mayCommit = true ∧ s.isRepeat e = true ∧ s.rd R.DROP_PEND = 0 ∧ s.tly.last = some i ∧ s.ringAt i = some r)
    ∧ (∃ (s : State), s.reachable R.FREEZE.addr = true)
    ∧ (∃ (s : State), s.reachable R.FREEZE.addr = true ∧ s.tly.clearWait = none)
    ∧ (∃ (s : State), s.flag R.FREEZE = true ∧ s.tly.clearWait = none)
    ∧ (∃ (s : State), s.flag R.FREEZE = false ∧ s.flag R.TLY_READY = true) :=
  ⟨⟨(tally { waitThm := [fault7] }), (1), (fault7), ([]), by decide, by decide, by decide⟩,
   ⟨(tally { inlet := [fault7] }), (fault7), ([]), by decide, by decide, by decide, by decide, by decide, by decide⟩,
   ⟨(tally { inlet := [fault7], last := some 3, ring := [(3, some ⟨⟨8, fault7, 2, false⟩, .waiting⟩)] }), (fault7), ([]), (3), (⟨⟨8, fault7, 2, false⟩, .waiting⟩), by decide, by decide, by decide, by decide, by decide, by decide⟩,
   ⟨(tally {}), by decide⟩,
   ⟨(put (tally {}) [(R.FREEZE, 1), (R.FROZEN, 1)]), by decide, by decide⟩,
   ⟨(put (tally {}) [(R.FREEZE, 1), (R.FROZEN, 1)]), by decide, by decide⟩,
   ⟨(tally { inlet := [fault7] }), by decide, by decide⟩⟩

/-- States and operands that meet the hypotheses of every clause of `Obligations.TallyArchiveCompletes`. -/
theorem witness_tallyArchiveCompletes :
    (∃ (s : State), s.ringWaiting ≠ 0)
    ∧ (∃ (s : State), s.flag R.TLY_READY = true ∧ s.tly.archiveRequest = true ∧ s.tly.programBusy = false ∧ s.flag R.PF_ACTIVE = false ∧ s.flag R.CLEAR_BUSY = false ∧ s.programCandidates ≠ [])
    ∧ (∃ (s : State) (r : TlyRec), s.tly.programBusy = true ∧ s.tly.programRecs = [r] ∧ (s.rd R.ARCH_SLOT + 1) % 2048 ≠ 0)
    ∧ (∃ (s : State), s.reachable R.FLUSH_REQ.addr = true ∧ s.flag R.TLY_READY = true ∧ s.flag R.PF_ACTIVE = false ∧ s.flag R.CLEAR_BUSY = false)
    ∧ (∃ (s : State), s.flag R.FLUSH_BUSY = true ∧ s.allArchived = true)
    ∧ (∃ (s : State), s.flag R.TLY_READY = false ∧ s.dom.core = true ∧ s.archiveRecs = [] ∧ s.imageTally = [] ∧ s.flag R.RC_AON_POR = false ∧ s.tly.flushWait = false ∧ s.tly.eraseCut = false ∧ s.tly.clearWait = none)
    ∧ (∃ (s : State), s.flag R.CLEAR_BUSY = true)
    ∧ (∃ (s : State), s.tly.lifePoh + 28800 ≤ s.rd R.POH_S)
    ∧ (∃ (s : State), s.reachable R.FW_EVT_GO.addr = true) :=
  ⟨⟨(tally { ring := [(3, some ⟨⟨8, fault7, 2, false⟩, .waiting⟩)] }), by decide⟩,
   ⟨(tally { ring := [(3, some ⟨⟨8, fault7, 2, false⟩, .waiting⟩)], archiveRequest := true }), by decide, by decide, by decide, by decide, by decide, by decide⟩,
   ⟨(tally { programBusy := true, programRecs := [⟨8, fault7, 2, false⟩] }), (⟨8, fault7, 2, false⟩), by decide, by decide, by decide⟩,
   ⟨(tally {}), by decide, by decide, by decide, by decide⟩,
   ⟨(put (tally {}) [(R.FLUSH_BUSY, 1)]), by decide, by decide⟩,
   ⟨(put on [(R.RC_AON_POR, 0)]), by decide, by decide, by decide, by decide, by decide, by decide, by decide, by decide⟩,
   ⟨(put (tally { archive := [(5, some ⟨8, fault7, 2, false⟩)] }) [(R.CLEAR_BUSY, 1)]), by decide⟩,
   ⟨(put (tally {}) [(R.POH_S, 30000)]), by decide⟩,
   ⟨(put (tally {}) [(R.FW_SRC, 3)]), by decide⟩⟩

/-- States and operands that meet the hypotheses of every clause of `Obligations.TimeAndTemperatureComplete`. -/
theorem witness_timeAndTemperatureComplete :
    (∃ (s : State), s.flag R.IN_OK = true ∧ s.flag R.WARN_ON = false ∧ s.rd R.THR_LEVEL = 0)
    ∧ (∃ (s : State), s.flag R.IN_OK = true ∧ s.flag R.WARN_ON = true ∧ s.thm.warnSec = 59 ∧ s.rd R.THR_LEVEL = 0)
    ∧ (∃ (s : State) (i : Fin 12) (v : BitVec 16), s.dom.core = true ∧ s.bitAt R.SENS_EN i.val = true ∧ s.badSample i.val v.toInt = false) :=
  ⟨⟨(put on [(R.IN_OK, 1), (R.WARN_ON, 0), (R.POH_S, 7)]), by decide, by decide, by decide⟩,
   ⟨(put { on with thm := { on.thm with warnSec := 59 } } [(R.IN_OK, 1), (R.WARN_ON, 1)]), by decide, by decide, by decide, by decide⟩,
   ⟨(put on [(R.SENS_EN, 4)]), (2), (500), by decide, by decide, by decide⟩⟩

/-- States and operands that meet the hypotheses of every clause of `Obligations.DamotRequestsComplete`. -/
theorem witness_damotRequestsComplete :
    (∃ (s : State) (q : DamotReq) (r : ObjRow) (n : Nat) (v : Nat), ∃ u : State, u = s.received q ∧ q.op = 0x01 ∧ s.sound q ∧ findObject q.index.toNat q.sub.toNat = some r ∧ u.servedNow q.index.toNat q.sub.toNat = true ∧ r.access ≠ 4 ∧ (typeBytes r.type).isSome = true ∧ u.objectValue r (q.index.toNat - r.idxLo) (q.sub.toNat - r.subLo) = (n, v))
    ∧ (∃ (s : State) (q : DamotReq), q.op = 0x02 ∧ s.sound q ∧ moreOf q = true ∧ Store.get none s.mgt.stage q.pos.val = none ∧ q.offset.toNat + q.len.toNat ≤ State.stageLimit)
    ∧ (∃ (s : State) (q : DamotReq), q.op = 0x04 ∧ s.sound q)
    ∧ (∃ (s : State) (q : DamotReq), q.op = 0x20 ∧ s.sound q)
    ∧ (∃ (s : State) (q : DamotReq), s.hears q = true ∧ badHeader q = true)
    ∧ (∃ (s : State) (g : BitVec 13) (c : Cmd), s.live g (isAdmin 0xC1) c ∧ 4 ≤ c.req.cdw10 ∧ 4 * c.req.cdw10 ≤ 8208)
    ∧ (∃ (s : State) (g : BitVec 13) (c : Cmd) (r : DamotResp), s.live g (isAdmin 0xC2) c ∧ 4 * c.req.cdw10 ≤ 8208 ∧ s.mgt.held = [(5 + c.port, 0, r)]) :=
  ⟨⟨(owned), (ask 1 0x1100 3), ((findObject 0x1100 3).get (by decide)), (2), (60), _, rfl, by decide, by decide, rfl, by decide, by decide, by decide, by decide +kernel⟩,
   ⟨(owned), ({ setTo 0x8030 1 100 77 false with flags := 1 }), by decide, by decide, by decide, by decide, by decide⟩,
   ⟨(owned), (ask 4 0x1100 3), by decide, by decide⟩,
   ⟨(owned), (ask 0x20 0 0), by decide, by decide⟩,
   ⟨(owned), ({ ask 3 0 0 with seq := 8 }), by decide, by decide⟩,
   ⟨({ running owned (adm 0xC1 4 0) with hosts := { (running owned (adm 0xC1 4 0)).hosts with ctrl := [(0, {})] } }), (5), (adm 0xC1 4 0), by decide, by decide, by decide⟩,
   ⟨({ running owned (adm 0xC2 2000 0) with mgt := { owned.mgt with held := [(5, 0, { status := 3 })] } }), (5), (adm 0xC2 2000 0), ({ status := 3 }), by decide, by decide, by decide⟩⟩

/-- States and operands that meet the hypotheses of every clause of `Obligations.OwnershipCommandsComplete`. -/
theorem witness_ownershipCommandsComplete :
    (∃ (s : State) (q : DamotReq), q.op = 0x10 ∧ s.sound q ∧ authOf q = false ∧ s.rd R.OWN_STATE = 0)
    ∧ (∃ (s : State) (q : DamotReq), q.op = 0x11 ∧ s.sound q ∧ s.ownerSends q = true)
    ∧ (∃ (s : State) (q : DamotReq), q.op = 0x13 ∧ s.sound q ∧ s.ownerSends q = true ∧ Arith.field q.payload 0 8 ≤ 10)
    ∧ (∃ (s : State) (q : DamotReq), q.op = 0x14 ∧ s.sound q ∧ s.rd R.OWN_STATE = 2 ∧ s.rd R.OFFER_POS = q.pos.val ∧ s.mgt.offerAddr = q.addr.toNat)
    ∧ (∃ (s : State), s.rd R.OWN_STATE ≠ 0)
    ∧ (∃ (s : State), s.rd R.OWN_STATE = 2)
    ∧ (∃ (s : State), s.reachable R.OWN_DROP.addr = true ∧ s.rd R.OWN_STATE ≠ 0) :=
  ⟨⟨(put owned [(R.OWN_STATE, 0)]), (ask 0x10 0 0), by decide, by decide, by decide, by decide⟩,
   ⟨(owned), (ask 0x11 0 0), by decide, by decide, by decide⟩,
   ⟨(owned), ({ ask 0x13 0 0 with len := 9, bytes := 9, payload := 6 + 256 * 77 }), by decide, by decide, by decide, by decide⟩,
   ⟨(put owned [(R.OWN_STATE, 2), (R.OWN_POS, 9), (R.OFFER_POS, 5)]), (ask 0x14 0 0), by decide, by decide, by decide, by decide, by decide⟩,
   ⟨(owned), by decide⟩,
   ⟨(put owned [(R.OWN_STATE, 2), (R.OFFER_POS, 6)]), by decide⟩,
   ⟨(owned), by decide, by decide⟩⟩

/-- States and operands that meet the hypotheses of every clause of `Obligations.FixedWritesComplete`. -/
theorem witness_fixedWritesComplete :
    (∃ (s : State) (q : DamotReq) (v : Nat), q.op = 0x02 ∧ q.index = 0x8010 ∧ q.sub = 6 ∧ s.setWhole q 1 v ∧ authOf q = false ∧ s.ownerSends q = true ∧ v ≤ 1 ∧ (∀ x, s.bootRecord = some x → x.1.seq + 1 < 2 ^ 32))
    ∧ (∃ (s : State) (q : DamotReq) (v : Nat), q.op = 0x02 ∧ q.index = 0x8010 ∧ q.sub = 3 ∧ s.setWhole q 1 v ∧ authOf q = true ∧ v ≤ 7 ∧ s.boot.burn = none ∧ s.flag R.PF_ACTIVE = false ∧ s.mayRevoke v = true)
    ∧ (∃ (s : State) (q : DamotReq) (v : Nat), q.op = 0x02 ∧ q.index = 0x8010 ∧ q.sub = 1 ∧ s.setWhole q 1 v ∧ authOf q = true ∧ v ≤ 127 ∧ s.boot.burn = none ∧ s.flag R.PF_ACTIVE = false ∧ State.mayRaise s.fuses.fwSvnMin v s.boot.firmware = true)
    ∧ (∃ (s : State) (q : DamotReq) (v : Nat), q.op = 0x02 ∧ q.index = 0x8010 ∧ q.sub = 2 ∧ s.setWhole q 1 v ∧ authOf q = true ∧ v ≤ 63 ∧ s.boot.burn = none ∧ s.flag R.PF_ACTIVE = false ∧ State.mayRaise s.fuses.mcSvnMin v s.boot.microcode = true)
    ∧ (∃ (s : State) (q : DamotReq) (v : Nat), q.op = 0x02 ∧ q.index = 0xA003 ∧ q.sub = 3 ∧ s.setWhole q 4 v ∧ authOf q = true ∧ v ≤ 16777215 ∧ s.boot.burn = none ∧ s.flag R.PF_ACTIVE = false ∧ s.mayBurn (.spareRow v) = true)
    ∧ (∃ (s : State) (q : DamotReq) (v : Nat), q.op = 0x02 ∧ q.index = 0x8030 ∧ q.sub = 2 ∧ s.setWhole q 1 v ∧ authOf q = false ∧ s.ownerSends q = true ∧ 1 ≤ v ∧ v ≤ 4 ∧ s.boot.update = none ∧ s.slotRuns (v - 1) = false)
    ∧ (∃ (s : State) (q : DamotReq), q.op = 0x02 ∧ q.index = 0x8040 ∧ q.sub = 2 ∧ s.setWhole q 1 1 ∧ authOf q = false ∧ s.ownerSends q = true ∧ s.flag R.BOOT_RECOVERY = true ∧ loadAddress (s.stagedImage 7) < 0x800000000)
    ∧ (∃ (s : State) (q : DamotReq), q.op = 0x02 ∧ q.index = 0x8050 ∧ q.sub = 1 ∧ s.setWhole q 1 1 ∧ authOf q = true ∧ s.fuses.lifecycle % 4 = 0) :=
  ⟨⟨({ owned with boot := { owned.boot with rec0 := some ⟨7, 0, 0xFF, 0, false⟩ } }), (setTo 0x8010 6 1 1 false), (1), by decide, by decide, by decide, by decide, by decide, by decide, by decide, by intro x h; cases h; decide⟩,
   ⟨({ versioned with boot := { versioned.boot with firmware := none } }), (setTo 0x8010 3 1 5 true), (5), by decide, by decide, by decide, by decide, by decide, by decide, by decide, by decide, by decide⟩,
   ⟨(versioned), (setTo 0x8010 1 1 5 true), (5), by decide, by decide, by decide, by decide, by decide, by decide, by decide, by decide, by decide⟩,
   ⟨(versioned), (setTo 0x8010 2 1 5 true), (5), by decide, by decide, by decide, by decide, by decide, by decide, by decide, by decide, by decide⟩,
   ⟨({ owned with dram := { owned.dram with soft := [(777, some 3)] } }), (setTo 0xA003 3 4 777 true), (777), by decide, by decide, by decide, by decide, by decide, by decide, by decide, by decide, by decide⟩,
   ⟨(owned), (setTo 0x8030 2 1 2 false), (2), by decide, by decide, by decide, by decide, by decide, by decide, by decide, by decide, by decide, by decide⟩,
   ⟨(put { owned with hosts := owned.hosts } [(R.BOOT_RECOVERY, 1), (R.OWN_POS, 4), (R.I3C_EN, 1)]), ({ setTo 0x8040 2 1 1 false with pos := 4 }), by decide, by decide, by decide, by decide, by decide, by decide, by decide, by decide +kernel⟩,
   ⟨(owned), (setTo 0x8050 1 1 1 true), by decide, by decide, by decide, by decide, by decide, by decide⟩⟩

/-- States and operands that meet the hypotheses of every clause of `Obligations.RegisterWriteCompletes`. -/
theorem witness_registerWriteCompletes :
    (∃ (s : State) (x : RegAccess), s.mayWrite x.writer = true ∧ x.addr.toNat / 2 ^ 28 = 4 ∧ x.whole = true ∧ x.addr.toNat % 4 = 0 ∧ State.inWindow x.addr.toNat = true ∧ s.reachable x.addr.toNat = true)
    ∧ (∃ (s : State), s.boot.cores.testBit 0 = true ∧ s.reachable R.FW_DETAIL.addr = true)
    ∧ (∃ (s : State) (x : RegAccess), s.mayWrite x.writer = true ∧ x.addr.toNat / 2 ^ 28 = 4 ∧ s.reachable x.addr.toNat = false)
    ∧ (∃ (s : State) (x : RegAccess), s.mayWrite x.writer = true ∧ 0x10000000 ≤ x.addr.toNat ∧ x.addr.toNat ≤ 0x117FFFFC) :=
  ⟨⟨(on), ({ writer := .core 0, addr := BitVec.ofNat 36 R.FW_DETAIL.addr, value := 7 }), by decide, by decide, by decide, by decide, by decide, by decide⟩,
   ⟨(on), by decide, by decide⟩,
   ⟨({ on with dom := { on.dom with med := 14 } }), ({ writer := .core 0, addr := BitVec.ofNat 36 (R.RG_ON 0).addr, value := 7 }), by decide, by decide, by decide⟩,
   ⟨(on), ({ writer := .core 0, addr := 0x10000100, value := 0x01020304 }), by decide, by decide, by decide⟩⟩

/-- States and operands that meet the hypotheses of every clause of `Obligations.EndpointCommandsComplete`. -/
theorem witness_endpointCommandsComplete :
    (∃ (s : State), s.firmwareRuns = true ∧ s.mgt.signWait = [])
    ∧ (∃ (s : State), s.flag R.DEVID_READY = true ∧ s.mgt.signWait = [])
    ∧ (∃ (s : State) (p : Fin 5) (e : BitVec 8), s.mctpUp p.val = true ∧ e ≠ 0 ∧ e ≠ 0xFF)
    ∧ (∃ (s : State) (p : Fin 5), s.mctpUp p.val = true)
    ∧ (∃ (s : State) (p : Fin 5) (y : BitVec 8), s.mctpUp p.val = true ∧ y.toNat ∈ [0x00, 0x05, 0x7E, 0xFF])
    ∧ (∃ (s : State) (p : Fin 5), s.mctpUp p.val = true)
    ∧ (∃ (s : State) (p : Fin 5), s.mctpUp p.val = true)
    ∧ (∃ (s : State), s.dom.core = true ∧ s.flag R.I3C_EN = true ∧ s.rd R.I3C_DYN = 0)
    ∧ (∃ (s : State) (a : BitVec 7), s.dom.core = true ∧ s.flag R.I3C_EN = true ∧ s.rd R.I3C_DYN = 0 ∧ a.toNat = s.rd R.I3C_STATIC) :=
  ⟨⟨({ on with boot := { on.boot with firmware := some image0 } }), by decide, by decide⟩,
   ⟨(put on [(R.DEVID_READY, 1)]), by decide, by decide⟩,
   ⟨(owned), (0), (9), by decide, by decide, by decide⟩,
   ⟨(owned), (0), by decide⟩,
   ⟨(owned), (0), (0x7E), by decide, by decide⟩,
   ⟨(owned), (0), by decide⟩,
   ⟨(owned), (0), by decide⟩,
   ⟨(put on [(R.I3C_EN, 1)]), by decide, by decide, by decide⟩,
   ⟨(put on [(R.I3C_EN, 1)]), (29), by decide, by decide, by decide, by decide⟩⟩

/-- States and operands that meet the hypotheses of every clause of `Obligations.SpdmRequestsComplete`. -/
theorem witness_spdmRequestsComplete :
    (∃ (s : State) (p : Fin 5), s.mctpUp p.val = true)
    ∧ (∃ (s : State) (p : Fin 5) (v : BitVec 8) (n : BitVec 32), s.mctpUp p.val = true ∧ (s.spdmAt p.val).open_ = true ∧ (s.spdmAt p.val).version = none ∧ (v = 0x12 ∨ v = 0x13) ∧ 42 ≤ n.toNat)
    ∧ (∃ (s : State) (p : Fin 5) (a : Bool) (h : Bool), s.mctpUp p.val = true ∧ (s.spdmAt p.val).version.isSome = true ∧ (s.spdmAt p.val).chosen = false ∧ (a || h) = true ∧ 44 ≤ (s.spdmAt p.val).transfer)
    ∧ (∃ (s : State) (p : Fin 5), ∃ l : List (Nat × Nat), l = [0, 1].filterMap (fun k => s.slotChain k) ∧ s.mctpUp p.val = true ∧ (s.spdmAt p.val).chosen = true ∧ 132 ≤ (s.spdmAt p.val).transfer)
    ∧ (∃ (s : State) (p : Fin 5) (k : BitVec 4) (o : BitVec 16) (n : BitVec 16) (c : Nat × Nat), ∃ u : State, u = s.spdmSend p.val (.answer 0x82 (8 + min n.toNat (c.1 - o.toNat)) [("SLOT", k.toNat), ("LENGTH", min n.toNat (c.1 - o.toNat)), ("REMAINDER", c.1 - o.toNat - min n.toNat (c.1 - o.toNat)), ("CHAIN", Arith.field c.2 (8 * o.toNat) (8 * min n.toNat (c.1 - o.toNat)))]) ∧ s.mctpUp p.val = true ∧ (s.spdmAt p.val).chosen = true ∧ s.slotChain k.toNat = some c ∧ o.toNat < c.1)
    ∧ (∃ (s : State) (p : Fin 5) (k : BitVec 4) (c : Nat × Nat), ∃ u : State, u = s.wr R.SEC_TOKEN ((p.val + 1) % 5) ∧ s.mctpUp p.val = true ∧ (s.spdmAt p.val).chosen = true ∧ k.toNat < 2 ∧ u.keyReady k.toNat = true ∧ u.slotChain k.toNat = some c ∧ 1564 ≤ (s.spdmAt p.val).transfer)
    ∧ (∃ (s : State) (p : Fin 5) (i : BitVec 8) (l : List Nat), s.mctpUp p.val = true ∧ (s.spdmAt p.val).chosen = true ∧ State.measured i.toNat = some l ∧ (s.spdmAt p.val).transfer = 0)
    ∧ (∃ (s : State) (p : Fin 5) (h : BitVec 8) (k : BitVec 16) (z : BitVec 32) (w : BitVec 32) (n : Nat), s.mctpUp p.val = true ∧ State.chunkHeld (s.spdmAt p.val) h.toNat k.toNat = some n ∧ (s.spdmAt p.val).version.isSome = true ∧ z.toNat ≤ 4096 ∧ w.toNat ≤ 65536 ∧ n + z.toNat < w.toNat)
    ∧ (∃ (s : State) (p : Fin 5) (h : BitVec 8) (k : BitVec 16) (o : Nat) (r : SpdmResp), ∃ n : Nat, n = min ((s.spdmAt p.val).transfer - if k.toNat = 0 then 16 else 12) (State.spdmLength r - o) ∧ s.mctpUp p.val = true ∧ (s.spdmAt p.val).large = some (h.toNat, k.toNat, o, r))
    ∧ (∃ (s : State) (p : Fin 5), s.mctpUp p.val = true) :=
  ⟨⟨(owned), (0), by decide⟩,
   ⟨(spdm { open_ := true }), (0), (0x13), (4096), by decide, by decide, by decide, by decide, by decide⟩,
   ⟨(spdm { open_ := true, version := some 0x12, transfer := 4096 }), (0), (true), (true), by decide, by decide, by decide, by decide, by decide⟩,
   ⟨(spdm { open_ := true, version := some 0x12, transfer := 4096, chosen := true }), (0), _, rfl, by decide, by decide, by decide⟩,
   ⟨({ spdm { open_ := true, version := some 0x12, transfer := 4096, chosen := true } with boot := { on.boot with certChain := 300 } }), (0), (0), (0), (100), ((300, 300)), _, rfl, by decide, by decide, by decide +kernel, by decide⟩,
   ⟨(put (spdm { open_ := true, version := some 0x12, transfer := 4096, chosen := true }) [(R.DEVID_READY, 1)]), (0), (0), (devidChain (put (spdm { open_ := true, version := some 0x12, transfer := 4096, chosen := true }) [(R.DEVID_READY, 1)])), _, rfl, by decide, by decide, by decide, by decide, rfl, by decide⟩,
   ⟨(spdm { open_ := true, version := some 0x12, transfer := 0, chosen := true }), (0), (0xFF), ([1, 2, 3, 4, 5, 6, 7, 8, 9, 10, 11, 12]), by decide, by decide, by decide, by decide⟩,
   ⟨(spdm { open_ := true, version := some 0x12, transfer := 4096, chosen := true, sending := some (7, 3, 1000) }), (0), (7), (3), (1000), (9000), (1000), by decide, by decide, by decide, by decide, by decide, by decide⟩,
   ⟨(spdm { open_ := true, version := some 0x12, transfer := 60, chosen := true, large := some (7, 3, 120, .answer 0x81 132 []) }), (0), (7), (3), (120), (.answer 0x81 132 []), _, rfl, by decide, by decide⟩,
   ⟨(spdm {}), (0), by decide⟩⟩

/-- States and operands that meet the hypotheses of both clauses of `Obligations.StepTakesTheFront`. -/
theorem witness_stepTakesTheFront :
    (∃ (s : State) (c : Instr) (l : List Instr), s.pending = c :: l) ∧ (∃ s : State, s.pending = []) :=
  ⟨⟨{ on with pending := [.xt32Stable, .qPop] }, .xt32Stable, [.qPop], rfl⟩, State.reset, rfl⟩

/-- A state that meets the hypothesis of `Obligations.EveryStepKeepsTheInvariant`: the one after reset. -/
theorem witness_everyStepKeepsTheInvariant : ∃ s : State, Inv s :=
  ⟨State.reset, by decide, by decide, by decide, trivial⟩

/-- States that meet the hypotheses of `Obligations.FusesAreOneWay`, a burn of firmware version 9 under way. -/
theorem witness_fusesAreOneWay : ∃ s t : State, BurnOk s ∧ step s = .next t :=
  ⟨{ on with boot := { on.boot with burn := some (.fwSvn 9) }, pending := [.fuseBurnComplete] }, _, Nat.zero_le _, rfl⟩

/-- A state with lines 33 and 34 pending, routed to `cores`, line 34 of the higher priority. -/
def claiming (cores : Nat) : State := put on [(R.PEND_BITS 1, 6), (R.ROUTE_CORES 33, cores), (R.ROUTE_CORES 34, cores), (R.ROUTE_PRIO 34, 2)]

/-- States and operands that meet the hypotheses of both clauses of `Obligations.ClaimTakesTheBestLine`. -/
theorem witness_claimTakesTheBestLine :
    (∃ (s : State) (c : Fin 4) (n : Nat), s.reachable (R.CLAIM_LINE 0).addr = true ∧ n < 256 ∧ s.linePending n = true
      ∧ s.bitAt (R.ROUTE_CORES n) c.val = true ∧ (∀ m < 256, s.linePending m = true → s.bitAt (R.ROUTE_CORES m) c.val = true →
        s.rd (R.ROUTE_PRIO m) < s.rd (R.ROUTE_PRIO n) ∨ s.rd (R.ROUTE_PRIO m) = s.rd (R.ROUTE_PRIO n) ∧ n ≤ m))
    ∧ (∃ (s : State) (c : Fin 4), s.reachable (R.CLAIM_LINE 0).addr = true
      ∧ (∀ m < 256, s.linePending m = true → s.bitAt (R.ROUTE_CORES m) c.val = false)) :=
  ⟨⟨claiming 4, 2, 34, by decide, by decide, by decide, by decide, by decide +kernel⟩,
   ⟨claiming 3, 2, by decide, by decide +kernel⟩⟩

/-- States and operands that meet the hypotheses of every clause of `Obligations.CohortPhasesDiffer`. -/
theorem witness_cohortPhasesDiffer :
    (∃ (s : State) (_ : BitVec 12), s.reachable R.COHORT_ID.addr = true)
    ∧ (∃ (s : State) (_ : BitVec 16), s.boot.cores.testBit 0 = true ∧ s.reachable R.COHORT_PHASE.addr = true)
    ∧ (∃ (s u : State) (i j : BitVec 12), s.reachable R.COHORT_ID.addr = true ∧ u.reachable R.COHORT_ID.addr = true ∧ i ≠ j) :=
  ⟨⟨on, 4095, by decide⟩, ⟨on, 0xFFFF, by decide, by decide⟩, ⟨on, on, 0, 4095, by decide, by decide, by decide⟩⟩

/-- States and operands that meet the hypotheses of `Obligations.MalformedAccessWritesNothing`: a narrow access, and one at an
address that is no multiple of 4. -/
theorem witness_malformedAccessWritesNothing :
    (∃ (s : State) (x : RegAccess), s.mayWrite x.writer = true ∧ x.addr.toNat / 2 ^ 28 = 4 ∧ x.whole = false)
    ∧ (∃ (s : State) (x : RegAccess), s.mayWrite x.writer = true ∧ x.addr.toNat / 2 ^ 28 = 4 ∧ x.addr.toNat % 4 ≠ 0) :=
  ⟨⟨on, { writer := .core 0, addr := 0x40400004, value := 7, whole := false }, by decide, by decide, by decide⟩,
   ⟨on, { writer := .core 0, addr := 0x4FFFFFFF, value := 7 }, by decide, by decide, by decide⟩⟩

/-- Values that meet the hypothesis of `Obligations.TurnTokenOrder`, at the last token. -/
theorem witness_turnTokenOrder : ∃ (n token : Nat) (_ : List Nat), token < n := ⟨4, 3, [0, 1], by decide⟩

/-- A state and a line that meet the hypothesis of `Obligations.EventsSetOneBit`, at the last line. -/
theorem witness_eventsSetOneBit : ∃ (_ : State) (n : Nat), n < 256 := ⟨on, 255, by decide⟩

end Sys2Proof.Tests
end

section
/-!
O58, a malformed register access (R9). The access leaves every field of the device as it was (`exec_registerWrite_malformed`,
`malformedAccess_keeps_rd`). The obligation's frame also quantifies over fields that no register of the device has: those at
REG_TOKEN's address with another reset word. The rewrite of REG_TOKEN with its own value unlists a word that equals its reset
word, and only such a field tells the two stores apart.
-/
namespace Sys2Proof.Machine

open Sys2Proof.Arith

/-! ### The register arbiter with one requester (R16, R17) -/

theorem State.rd_lt (s : State) (f : Fld) : s.rd f < 2 ^ f.width := Nat.mod_lt _ (Nat.two_pow_pos _)

theorem State.writerPos_lt (w : Writer) : State.writerPos w < 3 := by
  cases w <;> simp [writerPos]

/-- A lone requester of the register arbiter is served, wherever the token stands. -/
theorem tokenOrder_singleton : ∀ token < 4, ∀ p < 3, tokenOrder 3 token [p] = [p] := by decide

theorem tokenOrder_nil (n token : Nat) : tokenOrder n token [] = [] := by simp [tokenOrder]

theorem State.tokenOrder_regToken (s : State) (w : Writer) :
    tokenOrder 3 (s.rd R.REG_TOKEN) [State.writerPos w] = [State.writerPos w] :=
  tokenOrder_singleton _ (s.rd_lt R.REG_TOKEN) _ (State.writerPos_lt w)

/-! ### A field written with its own value -/

/-- A part of a word put back leaves the word. -/
theorem Arith.putField_field (v lo w : Nat) : putField v lo w (field v lo w) = v := by
  apply Nat.eq_of_testBit_eq
  intro i
  rw [Arith.testBit_putField]
  by_cases hlo : i < lo
  · rw [if_pos hlo]
  · by_cases hw : i < lo + w
    · have hin : i - lo < w := by omega
      have hi : lo + (i - lo) = i := by omega
      rw [if_neg hlo, if_pos hw, Arith.testBit_field, hi]
      simp [hin]
    · rw [if_neg hlo, if_neg hw]

/-- The write of a field with its own value is not seen by a field of another register, nor by one with the same reset word. -/
theorem State.rd_wr_self (s : State) (f g : Fld) (h : g.addr ≠ f.addr ∨ g.rst = f.rst) : (s.wr f (s.rd f)).rd g = s.rd g := by
  unfold rd wr word
  by_cases ha : g.addr = f.addr
  · have hr : g.rst = f.rst := h.resolve_left (not_not_intro ha)
    rw [ha, hr, Store.get_put_same, Arith.putField_field, BitVec.ofNat_toNat, BitVec.setWidth_eq]
  · exact congrArg (fun w : Word => field w.toNat g.lo g.width) (Store.get_put_ne _ _ _ _ ha)

/-! ### A write that does not land (R9, R30, R33) -/

/-- R9: an access of another width or alignment does not reach its block. -/
theorem State.lands_malformed (s : State) {x : RegAccess} (h : x.whole = false ∨ x.addr.toNat % 4 ≠ 0) : s.lands x = false := by
  rcases h with h | h <;> simp [lands, h]

/-- Whether a write lands is not a matter of the register file. -/
theorem State.lands_wr (s : State) (f : Fld) (v : Nat) (x : RegAccess) : (s.wr f v).lands x = s.lands x := rfl

theorem State.oneWrite_of_not_lands (s : State) {x : RegAccess} (h : s.lands x = false) :
    s.oneWrite x = s.emit (.busError x.addr.toNat) := by
  simp [oneWrite, h]

/-- A register write alone in its cycle that does not land: REG_TOKEN stays where it stands (R17), and the write ends in a bus
error. -/
theorem State.cycleWrites_of_not_lands (s : State) {x : RegAccess} (hw : s.mayWrite x.writer = true)
    (ha : x.addr.toNat / 2 ^ 28 = 4) (h : s.lands x = false) :
    s.cycleWrites [x] = (s.wr R.REG_TOKEN (s.rd R.REG_TOKEN)).emit (.busError x.addr.toNat) := by
  have hx : (s.wr R.REG_TOKEN (s.rd R.REG_TOKEN)).oneWrite x
      = (s.wr R.REG_TOKEN (s.rd R.REG_TOKEN)).emit (.busError x.addr.toNat) :=
    State.oneWrite_of_not_lands _ (by rw [State.lands_wr, h])
  simp [-Nat.reducePow, cycleWrites, List.filter_singleton, hw, ha, h, s.tokenOrder_regToken, tokenOrder_nil, tokenAfter, hx]

theorem exec_registerWrite (l : List RegAccess) (s : State) : exec (.registerWrite l) s = .next (s.cycleWrites l) := rfl

/-- R9: what a malformed register write, alone in its cycle, does. -/
theorem exec_registerWrite_malformed (s : State) {x : RegAccess} (hw : s.mayWrite x.writer = true)
    (ha : x.addr.toNat / 2 ^ 28 = 4) (h : x.whole = false ∨ x.addr.toNat % 4 ≠ 0) :
    exec (.registerWrite [x]) s = .next ((s.wr R.REG_TOKEN (s.rd R.REG_TOKEN)).emit (.busError x.addr.toNat)) := by
  rw [exec_registerWrite, s.cycleWrites_of_not_lands hw ha (s.lands_malformed h)]

/-- R9 as the model has it: every field of another register, and every field of REG_TOKEN's register with that register's reset
word, reads as before, and the bus error is the one other change. -/
theorem malformedAccess_keeps_rd (s : State) {x : RegAccess} (hw : s.mayWrite x.writer = true)
    (ha : x.addr.toNat / 2 ^ 28 = 4) (h : x.whole = false ∨ x.addr.toNat % 4 ≠ 0) :
    Completes (exec (.registerWrite [x]) s) fun t =>
      (∀ g : Fld, g.addr ≠ R.REG_TOKEN.addr ∨ g.rst = R.REG_TOKEN.rst → t.rd g = s.rd g)
        ∧ t = { s with regs := t.regs, out := .busError x.addr.toNat :: s.out } :=
  ⟨_, exec_registerWrite_malformed s hw ha h, fun g hg => (State.rd_emit _ _ g).trans (s.rd_wr_self _ g hg), rfl⟩

/-! ### The counterexample to the frame over all fields -/

/-- A state in which C0 runs, that lists REG_TOKEN's register with the very word of its reset. -/
def listedResetWord : State :=
  { regs := [(R.REG_TOKEN.addr, BitVec.ofNat 32 R.REG_TOKEN.rst)], dom := { aon := true, core := true }, boot := { cores := 1 } }

/-- A narrow access of C0 to that register. -/
def narrowAccess : RegAccess := { writer := .core 0, addr := 0x40510000, value := 0, whole := false }

/-- The low bits of REG_TOKEN's register under another reset word, 0: a field that the device does not have. -/
def strayField : Fld := ⟨R.REG_TOKEN.addr, 0, 4, 0⟩

/-- The stray field sees REG_TOKEN written with its own value: it reads 15 before and 0 after. -/
theorem rd_strayField_changes :
    listedResetWord.rd strayField = 15
      ∧ (listedResetWord.wr R.REG_TOKEN (listedResetWord.rd R.REG_TOKEN)).rd strayField = 0 := by
  decide

end Sys2Proof.Machine

open Sys2Proof Sys2Proof.Machine in
/-- Refutes O58: its frame ranges over every `Fld`, and in the state `listedResetWord` a narrow access unlists the word of
REG_TOKEN's register, which changes the field `strayField` that takes another reset word for that register. -/
theorem not_malformedAccessWritesNothing : ¬ Obligations.MalformedAccessWritesNothing := by
  unfold Obligations.MalformedAccessWritesNothing
  intro h
  obtain ⟨t, hexec, hframe, -⟩ := h listedResetWord narrowAccess (by decide) (by decide) (.inl rfl)
  rw [exec_registerWrite_malformed listedResetWord (by decide) (by decide) (.inl rfl)] at hexec
  cases hexec
  obtain ⟨hbefore, hafter⟩ := rd_strayField_changes
  have hkept := hframe strayField (by simp)
  rw [State.rd_emit, hafter, hbefore] at hkept
  exact absurd hkept (by decide)
end

section
/-!
O56, a claim by one core (R47). `State.betterLine` folded over a rising list keeps the line that outranks all others
(`foldl_betterLine`), so `State.claimLine` is the best candidate; the claim then differs from the state before it in CLAIM_TOKEN
and in that line's pending bit alone.
-/
namespace Sys2Proof.Machine

open Sys2Proof.Arith

/-! ### One pending bit cleared (R41, R44) -/

theorem Arith.clearBit_eq_putField (v i : Nat) (h : v.testBit i = true) : clearBit v i = putField v i 1 0 := by
  have hbit : v / 2 ^ i % 2 = 1 := by simpa [Nat.testBit_eq_decide_div_mod_eq] using h
  have hlow := Nat.div_add_mod v (2 ^ i)
  have hhigh := Nat.div_add_mod (v / 2 ^ i) 2
  rw [hbit, Nat.div_div_eq_div_mul] at hhigh
  have hsplit : v = 2 ^ i * (2 * (v / (2 ^ i * 2)) + 1) + v % 2 ^ i := by rw [hhigh, hlow]
  rw [clearBit, if_pos h, putField, Nat.pow_succ 2 i, Nat.zero_mod, Nat.sub_eq_iff_eq_add (Nat.ge_two_pow_of_testBit h)]
  linarith

theorem Arith.testBit_clearBit (v i j : Nat) : (clearBit v i).testBit j = (v.testBit j && decide (j ≠ i)) := by
  by_cases hj : j = i
  · subst hj
    cases h : v.testBit j with
    | false => simp [clearBit, h]
    | true => simp [Arith.clearBit_eq_putField v j h, Arith.testBit_putField]
  · cases h : v.testBit i with
    | false => simp [clearBit, h, hj]
    | true =>
      have hout : ¬ (i ≤ j ∧ j < i + 1) := by omega
      rw [Arith.clearBit_eq_putField v i h, Arith.testBit_putField]
      simp only [hj, ne_eq, not_false_eq_true, decide_true, Bool.and_true]
      split
      · rfl
      · next hij => rw [if_neg fun hlt => hout ⟨not_lt.mp hij, hlt⟩]

namespace State

theorem bitAt_wr_apart (s : State) (f g : Fld) (v i : Nat) (h : f.apart g = true) : (s.wr f v).bitAt g i = s.bitAt g i := by
  rw [bitAt, rd_wr_apart s f g v h, bitAt]

/-- Line `n`'s pending bit cleared: every other line stays. -/
theorem linePending_clrLine (s : State) (n m : Nat) :
    (s.clrBitAt (R.PEND_BITS (n / 32)) (n % 32)).linePending m = (s.linePending m && decide (m ≠ n)) := by
  unfold clrBitAt linePending
  by_cases hk : m / 32 = n / 32
  · have hbit : m % 32 ≠ n % 32 ↔ m ≠ n := by omega
    have hlt : m % 32 < (R.PEND_BITS (n / 32)).width := Nat.mod_lt _ (by decide)
    rw [hk, bitAt, rd_wr_same _ _ _ (pendBits_fits _), Nat.testBit_mod_two_pow, Arith.testBit_clearBit]
    simp only [hlt, hbit, decide_true, Bool.true_and, bitAt]
  · have hne : m ≠ n := fun h => hk (by rw [h])
    have hapart : (R.PEND_BITS (n / 32)).apart (R.PEND_BITS (m / 32)) = true := by
      simp only [Fld.apart, R.PEND_BITS, Bool.or_eq_true, bne_iff_ne]
      omega
    simp [bitAt_wr_apart _ _ _ _ _ hapart, hne]

/-! ### The best candidate (R47) -/

/-- Line `n` may be claimed by core `c`: it is pending and routed to the core. -/
def Candidate (s : State) (c n : Nat) : Prop := n < 256 ∧ s.linePending n = true ∧ s.bitAt (R.ROUTE_CORES n) c = true

/-- R47's order: line `n` is of a higher priority than `m`, or of the same and not the higher line. -/
def Outranks (s : State) (n m : Nat) : Prop :=
  s.rd (R.ROUTE_PRIO m) < s.rd (R.ROUTE_PRIO n) ∨ s.rd (R.ROUTE_PRIO m) = s.rd (R.ROUTE_PRIO n) ∧ n ≤ m

/-- Of rising lines, the fold of `betterLine` keeps the one that outranks them all. -/
theorem foldl_betterLine (s : State) {n : Nat} (l : List Nat) : ∀ b : Nat, (b :: l).Pairwise (· < ·) → n ∈ b :: l →
    (∀ m ∈ b :: l, s.Outranks n m) → l.foldl s.betterLine (some b) = some n := by
  induction l with
  | nil =>
    intro b _ hn _
    rw [List.mem_singleton.mp hn, List.foldl_nil]
  | cons m l ih =>
    intro b hrise hn hbest
    have hbm : b < m := List.rel_of_pairwise_cons hrise List.mem_cons_self
    have hb : s.Outranks n b := hbest b (by simp)
    have hm : s.Outranks n m := hbest m (by simp)
    rw [List.foldl_cons, betterLine]
    split
    · next hlt =>
      refine ih m hrise.tail ?_ fun x hx => hbest x (List.mem_cons_of_mem _ hx)
      have hnb : n ≠ b := by rintro rfl; unfold Outranks at hm; omega
      exact (List.mem_cons.mp hn).resolve_left hnb
    · next hle =>
      have hsub : (b :: l).Sublist (b :: m :: l) := (List.sublist_cons_self m l).cons_cons b
      refine ih b (hrise.sublist hsub) ?_ fun x hx => hbest x (hsub.subset hx)
      have hnm : n ≠ m := by rintro rfl; unfold Outranks at hb; omega
      simpa [hnm] using hn

theorem mem_candidates (s : State) (c m : Nat) :
    m ∈ ((List.range 256).filter fun n => s.linePending n && s.bitAt (R.ROUTE_CORES n) c) ↔ s.Candidate c m := by
  simp [Candidate]

/-- R47: a claim takes the candidate that outranks every candidate. -/
theorem claimLine_eq_some (s : State) {c n : Nat} (hn : s.Candidate c n) (hbest : ∀ m, s.Candidate c m → s.Outranks n m) :
    s.claimLine c = some n := by
  have hmem := (s.mem_candidates c n).mpr hn
  have hrise := (List.pairwise_lt_range (n := 256)).filter fun n => s.linePending n && s.bitAt (R.ROUTE_CORES n) c
  have hall := fun m hm => hbest m ((s.mem_candidates c m).mp hm)
  rw [claimLine]
  cases hl : (List.range 256).filter fun n => s.linePending n && s.bitAt (R.ROUTE_CORES n) c with
  | nil => simp [hl] at hmem
  | cons b l =>
    rw [hl] at hmem hrise hall
    exact s.foldl_betterLine l b hrise hmem hall

/-- R47: without a candidate a claim takes no line. -/
theorem claimLine_eq_none (s : State) {c : Nat} (h : ∀ m, ¬ s.Candidate c m) : s.claimLine c = none := by
  rw [claimLine, List.eq_nil_iff_forall_not_mem.mpr fun m hm => h m ((s.mem_candidates c m).mp hm), List.foldl_nil]

/-! ### The claim token is none of a claim's inputs (R16) -/

theorem linePending_wr_claimToken (s : State) (v : Nat) {m : Nat} (hm : m < 256) :
    (s.wr R.CLAIM_TOKEN v).linePending m = s.linePending m := by
  refine bitAt_wr_apart s _ _ v _ ?_
  simp only [Fld.apart, R.CLAIM_TOKEN, R.PEND_BITS, Bool.or_eq_true, bne_iff_ne]
  omega

theorem claimToken_apart_of_route {g : Fld} {m : Nat} (hm : m < 256) (hg : g.addr = 0x40440000 + 0x4 * m) :
    R.CLAIM_TOKEN.apart g = true := by
  simp only [Fld.apart, R.CLAIM_TOKEN, hg, Bool.or_eq_true, bne_iff_ne]
  omega

theorem candidate_wr_claimToken (s : State) (v c m : Nat) : (s.wr R.CLAIM_TOKEN v).Candidate c m ↔ s.Candidate c m := by
  refine and_congr_right fun hm => ?_
  rw [linePending_wr_claimToken s v hm, bitAt_wr_apart s _ _ v c (claimToken_apart_of_route hm rfl)]

theorem outranks_wr_claimToken (s : State) (v : Nat) {n m : Nat} (hn : n < 256) (hm : m < 256) :
    (s.wr R.CLAIM_TOKEN v).Outranks n m ↔ s.Outranks n m := by
  rw [Outranks, rd_wr_apart s _ _ v (claimToken_apart_of_route hm rfl), rd_wr_apart s _ _ v (claimToken_apart_of_route hn rfl),
    Outranks]

/-! ### The state after a claim -/

/-- The state after a claim by core `c` that takes line `n`. -/
def claimed (s : State) (c n : Nat) : State :=
  ((s.wr R.CLAIM_TOKEN ((c + 1) % 4)).clrBitAt (R.PEND_BITS (n / 32)) (n % 32)).emit (.claim c (0x80000000 + n))

/-- The state after a claim by core `c` that takes no line. -/
def unclaimed (s : State) (c : Nat) : State := (s.wr R.CLAIM_TOKEN ((c + 1) % 4)).emit (.claim c 0)

@[simp] theorem emit_out (s : State) (o : Output) : (s.emit o).out = o :: s.out := rfl

@[simp] theorem linePending_emit (s : State) (o : Output) (n : Nat) : (s.emit o).linePending n = s.linePending n := rfl

/-- Stated for any field, so that the comparison of the two states does not compute a register's word. -/
theorem emit_wr_update (s : State) (f : Fld) (v : Nat) (o : Output) :
    (s.wr f v).emit o = { s with regs := ((s.wr f v).emit o).regs, out := ((s.wr f v).emit o).out } := rfl

theorem emit_clrBitAt_wr_update (s : State) (f g : Fld) (v i : Nat) (o : Output) :
    ((s.wr f v).clrBitAt g i).emit o = { s with
      regs := (((s.wr f v).clrBitAt g i).emit o).regs
      out := (((s.wr f v).clrBitAt g i).emit o).out } := rfl

theorem claimed_out (s : State) (c n : Nat) : (s.claimed c n).out = .claim c (0x80000000 + n) :: s.out := by
  rw [claimed, emit_out, clrBitAt_out, wr_out]

theorem claimed_update (s : State) (c n : Nat) :
    s.claimed c n = { s with regs := (s.claimed c n).regs, out := (s.claimed c n).out } :=
  emit_clrBitAt_wr_update ..

theorem claimed_regFrame (s : State) (c n : Nat) : RegFrame s (s.claimed c n) [R.CLAIM_TOKEN, R.PEND_BITS (n / 32)] := by
  intro g hg
  have htoken : R.CLAIM_TOKEN.apart g = true := hg _ (by simp)
  have hword : (R.PEND_BITS (n / 32)).apart g = true := hg _ (by simp)
  rw [claimed, rd_emit, clrBitAt, rd_wr_apart _ _ _ _ hword, rd_wr_apart _ _ _ _ htoken]

theorem linePending_claimed_same (s : State) (c n : Nat) : (s.claimed c n).linePending n = false := by
  simp [claimed, linePending_clrLine]

theorem linePending_claimed_ne (s : State) (c : Nat) {n m : Nat} (hm : m < 256) (hne : m ≠ n) :
    (s.claimed c n).linePending m = s.linePending m := by
  simp [claimed, linePending_clrLine, s.linePending_wr_claimToken _ hm, hne]

theorem unclaimed_out (s : State) (c : Nat) : (s.unclaimed c).out = .claim c 0 :: s.out := by
  rw [unclaimed, emit_out, wr_out]

theorem unclaimed_update (s : State) (c : Nat) :
    s.unclaimed c = { s with regs := (s.unclaimed c).regs, out := (s.unclaimed c).out } :=
  emit_wr_update ..

theorem unclaimed_regFrame (s : State) (c : Nat) : RegFrame s (s.unclaimed c) [R.CLAIM_TOKEN] := by
  intro g hg
  rw [unclaimed, rd_emit, rd_wr_apart _ _ _ _ (hg _ (by simp))]

end State

/-! ### The claim of a lone core (R47, R48) -/

/-- A lone requester of the claim arbiter is served, wherever the token stands. -/
theorem claimOrder_singleton : ∀ token < 4, ∀ c < 4, tokenOrder 4 token [c] = [c] := by decide

/-- The token moves one past the lone core, which then claims. -/
theorem exec_evrClaim_singleton (s : State) (c : Fin 4) (hreach : s.reachable (R.CLAIM_LINE 0).addr = true) :
    exec (.evrClaim [c] []) s = .next ((s.wr R.CLAIM_TOKEN ((c.val + 1) % 4)).claimOne c.val) := by
  have horder : tokenOrder 4 (s.rd R.CLAIM_TOKEN) [c.val] = [c.val] := claimOrder_singleton _ (s.rd_lt R.CLAIM_TOKEN) _ c.isLt
  change execEvrClaim [c] [] s = _
  simp [execEvrClaim, State.accessRead, hreach, State.claimAll, horder, tokenAfter]

/-- R47 where a line can be claimed. -/
theorem exec_evrClaim_claimed (s : State) (c : Fin 4) {n : Nat} (hreach : s.reachable (R.CLAIM_LINE 0).addr = true)
    (hn : s.Candidate c.val n) (hbest : ∀ m, s.Candidate c.val m → s.Outranks n m) :
    exec (.evrClaim [c] []) s = .next (s.claimed c.val n) := by
  have hline : (s.wr R.CLAIM_TOKEN ((c.val + 1) % 4)).claimLine c.val = some n := by
    refine State.claimLine_eq_some _ ((s.candidate_wr_claimToken _ _ _).mpr hn) fun m hm => ?_
    have hcand := (s.candidate_wr_claimToken _ _ _).mp hm
    exact (s.outranks_wr_claimToken _ hn.1 hcand.1).mpr (hbest m hcand)
  rw [exec_evrClaim_singleton s c hreach, State.claimOne, hline, State.claimed]

/-- R47 where no line can be claimed. -/
theorem exec_evrClaim_unclaimed (s : State) (c : Fin 4) (hreach : s.reachable (R.CLAIM_LINE 0).addr = true)
    (hnone : ∀ m, ¬ s.Candidate c.val m) : exec (.evrClaim [c] []) s = .next (s.unclaimed c.val) := by
  have hline : (s.wr R.CLAIM_TOKEN ((c.val + 1) % 4)).claimLine c.val = none :=
    State.claimLine_eq_none _ fun m hm => hnone m ((s.candidate_wr_claimToken _ _ _).mp hm)
  rw [exec_evrClaim_singleton s c hreach, State.claimOne, hline, State.unclaimed]

end Sys2Proof.Machine

open Sys2Proof Sys2Proof.Machine in
/-- Settles O56: the fold of `betterLine` yields the best candidate, and the claim writes the token and clears that line's bit. -/
theorem claimTakesTheBestLine : Obligations.ClaimTakesTheBestLine := by
  unfold Obligations.ClaimTakesTheBestLine
  constructor
  · intro s c n hreach hn hpend hroute hbest
    have hexec : exec (.evrClaim [c] []) s = .next (s.claimed c.val n) :=
      exec_evrClaim_claimed s c hreach ⟨hn, hpend, hroute⟩ fun m ⟨hm, hp, hr⟩ => hbest m hm hp hr
    exact ⟨_, hexec, s.claimed_out _ n, s.linePending_claimed_same _ n, fun _ hm hne => s.linePending_claimed_ne _ hm hne,
      s.claimed_regFrame _ n, s.claimed_update _ n⟩
  · intro s c hreach hnone
    have hcand : ∀ m, ¬ s.Candidate c.val m := fun m ⟨hm, hp, hr⟩ => by simp [hnone m hm hp] at hr
    exact ⟨_, exec_evrClaim_unclaimed s c hreach hcand, s.unclaimed_out _, s.unclaimed_regFrame _, s.unclaimed_update _⟩
end

section
/-!
O57, the cohort's identifier and phase (R677). After the register arbiter's grant, COHORT_ID's command writes COHORT_ID and
COHORT_PHASE (`exec_cohortIdWrite`). A register write of COHORT_PHASE is a plain write of that field
(`State.regWrite_cohortPhase`), since no guard and no hook stands at its register. Two members' phases differ because 40,503 is odd
and so coprime to 65,536 (`cohortPhase_inj`).
-/
namespace Sys2Proof.Machine

open Sys2Proof.Arith

namespace State

/-! ### COHORT_ID written -/

theorem access_of_reachable (s : State) (f : Fld) (k : State → State) (h : s.reachable f.addr = true) :
    s.access f k = k s.granting := by
  rw [access, accessRead, if_pos h]

/-- The COHORT_ID stored is the one written. -/
theorem rd_cohortId_id (s : State) {id : Nat} (h : id < 4096) : (s.cohortId id).rd R.COHORT_ID = id := by
  rw [cohortId, rd_wr_apart _ _ _ _ (by decide), rd_wr_same _ _ _ (by decide)]
  exact Nat.mod_eq_of_lt h

/-- R677: the phase that COHORT_ID loads. -/
theorem rd_cohortId_phase (s : State) (id : Nat) : (s.cohortId id).rd R.COHORT_PHASE = id * 40503 % 65536 := by
  rw [cohortId, rd_wr_same _ _ _ (by decide)]
  exact Nat.mod_mod _ _

/-- Stated for any fields, so that the comparison of the two states does not compute a register's word. -/
theorem regsOnly_wr_wr (s : State) (f g : Fld) (v w : Nat) : RegsOnly s ((s.wr f v).wr g w) := rfl

theorem regsOnly_wr_wr_wr (s : State) (f g h : Fld) (u v w : Nat) : RegsOnly s (((s.wr f u).wr g v).wr h w) := rfl

theorem regFrame_refl (s : State) (l : List Fld) : RegFrame s s l := fun _ _ => rfl

/-- A write of one of the fields listed keeps the frame. -/
theorem regFrame_wr {s t : State} {l : List Fld} (h : RegFrame s t l) {f : Fld} (v : Nat) (hf : f ∈ l) :
    RegFrame s (t.wr f v) l :=
  fun g hg => (rd_wr_apart t f g v (hg f hf)).trans (h g hg)

theorem regsOnly_granting_cohortId (s : State) (id : Nat) : RegsOnly s (s.granting.cohortId id) := regsOnly_wr_wr_wr ..

theorem regFrame_granting_cohortId (s : State) (id : Nat) :
    RegFrame s (s.granting.cohortId id) [R.REG_TOKEN, R.COHORT_ID, R.COHORT_PHASE] := by
  have htoken : RegFrame s s.granting [R.REG_TOKEN, R.COHORT_ID, R.COHORT_PHASE] :=
    regFrame_wr (s.regFrame_refl _) 1 (by simp)
  exact regFrame_wr (regFrame_wr htoken _ (by simp)) _ (by simp)

/-! ### One register write that lands (R16, R17) -/

/-- A register write alone in its cycle that lands: REG_TOKEN moves one past its writer, and the write is made. -/
theorem cycleWrites_of_lands (s : State) {x : RegAccess} (hw : s.mayWrite x.writer = true)
    (ha : x.addr.toNat / 2 ^ 28 = 4) (h : s.lands x = true) :
    s.cycleWrites [x] = (s.wr R.REG_TOKEN ((writerPos x.writer + 1) % 3)).regWrite x.addr.toNat x.value.toNat (writerMask x) := by
  have hx : ∀ v, (s.wr R.REG_TOKEN v).oneWrite x
      = (s.wr R.REG_TOKEN v).regWrite x.addr.toNat x.value.toNat (writerMask x) := fun v => by
    rw [oneWrite, if_pos ((s.lands_wr _ v x).trans h)]
  simp [-Nat.reducePow, cycleWrites, List.filter_singleton, hw, ha, h, s.tokenOrder_regToken, tokenAfter, hx]

/-! ### A register with no guard and no hook (R7, R10) -/

theorem findReg_append (addr : Nat) (l m : List RegRow) : findReg addr (l ++ m) = (findReg addr l).or (findReg addr m) := by
  induction l with
  | nil => rfl
  | cons r rs ih =>
    simp only [List.cons_append, findReg, ih]
    split
    · cases dimIndex r.dims (addr - r.base) <;> rfl
    · rfl

/-- A field of a register with no guard and no hook is written as its access code has it (R7). -/
theorem writeField_plain {base : Nat} (i : List Nat) (addr : Nat) (row : RegRow) (w : Nat) {m : Nat} (s : State) {r : FldRow}
    (hm : field m r.lo r.width = 2 ^ r.width - 1) (hguard : ∀ e ∈ writeGuards, e.1.addr ≠ base)
    (hhook : ∀ e ∈ hostHooks ++ driveHooks ++ faultHooks, e.1.addr ≠ base) :
    writeField base i addr row w m s r = s.plainWrite ⟨addr, r.lo, r.width, row.rst i⟩ r (field w r.lo r.width) := by
  have hg : (writeGuards.find? fun e => e.1.addr == base && e.1.lo == r.lo) = none :=
    List.find?_eq_none.mpr fun e he => by simp [hguard e he]
  have hh : ((hostHooks ++ driveHooks ++ faultHooks).find? fun e => e.1.addr == base && e.1.lo == r.lo) = none :=
    List.find?_eq_none.mpr fun e he => by simp [-List.mem_append, hhook e he]
  simp only [writeField, hm, ne_eq, not_true_eq_false, if_false, hg, hh]

/-- A register with no rule for its word as a whole is written field by field. -/
theorem regWrite_fields (s : State) {addr : Nat} {row : RegRow} {i : List Nat} (v m : Nat)
    (hrow : findReg addr regTable = some (row, i)) (hword : ∀ e ∈ wordHooks, e.1 ≠ row.base)
    (hafter : ∀ e ∈ afterWrite, e.1 ≠ addr) :
    s.regWrite addr v m = row.fields.foldl (writeField row.base i addr row v m) s := by
  have hw : (wordHooks.find? fun e => e.1 == row.base) = none := List.find?_eq_none.mpr fun e he => by simp [hword e he]
  have ha : (afterWrite.find? fun e => e.1 == addr) = none := List.find?_eq_none.mpr fun e he => by simp [hafter e he]
  simp only [regWrite, hrow, hw, ha]

/-! ### COHORT_PHASE written through its register -/

/-- COHORT_PHASE in its register's row: read and written as it stands. -/
def cohortPhaseField : FldRow := ⟨0, 16, .rw, .none, none⟩

/-- The register table's row of COHORT_PHASE. -/
def cohortPhaseRow : RegRow := ⟨R.COHORT_PHASE.addr, [], fun _ => R.COHORT_PHASE.rst, [cohortPhaseField]⟩

theorem findReg_cohortPhase_before : ∀ l ∈ [regRows0, regRows1, regRows2, regRows3, regRows4, regRows5, regRows6, regRows7,
    regRows8, regRows9, regRows10, regRows11], findReg R.COHORT_PHASE.addr l = none := by
  decide

theorem findReg_cohortPhase_last : findReg R.COHORT_PHASE.addr regRows12 = some (cohortPhaseRow, []) := rfl

/-- COHORT_PHASE's row in the register table. -/
theorem findReg_cohortPhase : findReg R.COHORT_PHASE.addr regTable = some (cohortPhaseRow, []) := by
  have hbefore := findReg_cohortPhase_before
  simp only [List.forall_mem_cons] at hbefore
  simp only [regTable, findReg_append, hbefore, findReg_cohortPhase_last, Option.none_or]

/-- R677: a whole write of COHORT_PHASE's register stores its low 16 bits in the field. -/
theorem regWrite_cohortPhase (s : State) (v : Nat) :
    s.regWrite R.COHORT_PHASE.addr v (2 ^ 32 - 1) = s.wr R.COHORT_PHASE (field v 0 16) := by
  have hguard : ∀ e ∈ writeGuards, e.1.addr ≠ cohortPhaseRow.base := by decide
  have hhook : ∀ e ∈ hostHooks ++ driveHooks ++ faultHooks, e.1.addr ≠ cohortPhaseRow.base := by decide
  calc s.regWrite R.COHORT_PHASE.addr v (2 ^ 32 - 1)
      = writeField cohortPhaseRow.base [] R.COHORT_PHASE.addr cohortPhaseRow v (2 ^ 32 - 1) s cohortPhaseField :=
        s.regWrite_fields v _ findReg_cohortPhase (by decide) (by decide)
    _ = s.plainWrite R.COHORT_PHASE cohortPhaseField (field v 0 16) := writeField_plain _ _ _ _ s (by decide) hguard hhook
    _ = s.wr R.COHORT_PHASE (field v 0 16) := rfl

end State

/-! ### The commands, and the members' phases -/

theorem exec_cohortIdWrite (s : State) (i : BitVec 12) (h : s.reachable R.COHORT_ID.addr = true) :
    exec (.cohortIdWrite i) s = .next (s.granting.cohortId i.toNat) :=
  congrArg Host.Outcome.next (s.access_of_reachable R.COHORT_ID _ h)

/-- C0's write of COHORT_PHASE's register. -/
def cohortPhaseWrite (v : BitVec 16) : RegAccess :=
  { writer := .core 0, addr := BitVec.ofNat 36 R.COHORT_PHASE.addr, value := v.zeroExtend 32 }

theorem addr_cohortPhaseWrite (v : BitVec 16) : (cohortPhaseWrite v).addr.toNat = R.COHORT_PHASE.addr := rfl

theorem lands_cohortPhaseWrite (s : State) (v : BitVec 16) (h : s.reachable R.COHORT_PHASE.addr = true) :
    s.lands (cohortPhaseWrite v) = true := by
  have hwindow : State.inWindow R.COHORT_PHASE.addr = true := by decide
  rw [State.lands, addr_cohortPhaseWrite, h, hwindow]
  rfl

theorem field_cohortPhaseWrite (v : BitVec 16) : field (cohortPhaseWrite v).value.toNat 0 16 = v.toNat := by
  have hv : v.toNat < 65536 := v.isLt
  simp [field, cohortPhaseWrite, Nat.mod_eq_of_lt hv]

/-- R677: firmware's write of COHORT_PHASE, after the register arbiter's grant. -/
theorem exec_cohortPhaseWrite (s : State) (v : BitVec 16) (hcore : s.boot.cores.testBit 0 = true)
    (h : s.reachable R.COHORT_PHASE.addr = true) :
    exec (.registerWrite [cohortPhaseWrite v]) s = .next (s.granting.wr R.COHORT_PHASE v.toNat) := by
  have hregister : (cohortPhaseWrite v).addr.toNat / 2 ^ 28 = 4 := by rw [addr_cohortPhaseWrite]; decide
  have hmask : State.writerMask (cohortPhaseWrite v) = 2 ^ 32 - 1 := if_neg fun hne => hne.2 rfl
  have hmay : s.mayWrite (cohortPhaseWrite v).writer = true := hcore
  rw [exec_registerWrite, s.cycleWrites_of_lands hmay hregister (lands_cohortPhaseWrite s v h), hmask]
  exact congrArg Host.Outcome.next <|
    (State.regWrite_cohortPhase _ _).trans (by rw [field_cohortPhaseWrite, cohortPhaseWrite, State.writerPos])

/-- R677: two members' phases differ: the factor has no divisor in common with a revolution's 65,536 units. -/
theorem cohortPhase_inj {i j : Nat} (hi : i < 4096) (hj : j < 4096) (h : i * 40503 % 65536 = j * 40503 % 65536) : i = j := by
  have hcoprime : Nat.gcd 65536 40503 = 1 := by decide
  have hmod : i ≡ j [MOD 65536] := Nat.ModEq.cancel_right_of_coprime hcoprime h
  exact hmod.eq_of_lt_of_lt (hi.trans (by decide)) (hj.trans (by decide))

end Sys2Proof.Machine

open Sys2Proof Sys2Proof.Machine in
/-- Settles O57: both commands write the fields named after the grant, and the factor of the phase is coprime to 65,536. -/
theorem cohortPhasesDiffer : Obligations.CohortPhasesDiffer := by
  unfold Obligations.CohortPhasesDiffer
  refine ⟨fun s i hreach => ?_, fun s v hcore hreach => ?_, fun s u i j hs hu hne => ?_⟩
  · exact ⟨_, exec_cohortIdWrite s i hreach, State.rd_cohortId_id _ i.isLt, State.rd_cohortId_phase _ _,
      s.regsOnly_granting_cohortId _, s.regFrame_granting_cohortId _⟩
  · exact ⟨_, exec_cohortPhaseWrite s v hcore hreach, (State.rd_wr_same _ _ _ (by decide)).trans (Nat.mod_eq_of_lt v.isLt),
      s.regsOnly_wr_wr _ _ _ _, State.regFrame_wr (State.regFrame_wr (s.regFrame_refl _) _ (by simp)) _ (by simp)⟩
  · refine ⟨_, exec_cohortIdWrite s i hs, _, exec_cohortIdWrite u j hu, fun h => hne ?_⟩
    rw [State.rd_cohortId_phase, State.rd_cohortId_phase] at h
    exact BitVec.eq_of_toNat_eq (cohortPhase_inj i.isLt j.isLt h)
end

section
/-!
O53, O54 and O55: what every step keeps (file 95). The laws of each command (`Kept`) are put together by the command into
`exec_kept` and by the queue into `step_kept`; the three obligations read their claims off.
-/
namespace Sys2Proof.Machine

/-- Every command completes in a state that keeps what every operation keeps: the meaning of each has its own law. -/
theorem exec_kept (c : Instr) (s : State) : KeptBy s (exec c s) := by
  cases c with
  | registerWrite writes => exact execRegisterWrite_kept writes s
  | evrClaim cores events => exact execEvrClaim_kept cores events s
  | evrSoft bits => exact execEvrSoft_kept bits s
  | aonPowerOn => exact execAonPowerOn_kept s
  | xt32Stable => exact execXt32Stable_kept s
  | powerOnReset => exact execPowerOnReset_kept s
  | inrushComplete => exact execInrushComplete_kept s
  | xt25Stable => exact execXt25Stable_kept s
  | pllLock pll => exact execPllLock_kept pll s
  | pllUnlock pll => exact execPllUnlock_kept pll s
  | coreResetRelease bifsel => exact execCoreResetRelease_kept bifsel s
  | mcaInitComplete => exact execMcaInitComplete_kept s
  | dramReady => exact execDramReady_kept s
  | firmwareSlotCheck norError => exact execFirmwareSlotCheck_kept norError s
  | microcodeSlotCheck norError => exact execMicrocodeSlotCheck_kept norError s
  | firmwareEntry => exact execFirmwareEntry_kept s
  | devidKeyReady => exact execDevidKeyReady_kept s
  | aliasKeyReady => exact execAliasKeyReady_kept s
  | spinUp => exact execSpinUp_kept s
  | spindleAtSpeed rpm within => exact execSpindleAtSpeed_kept rpm within s
  | spindleStall => exact execSpindleStall_kept s
  | spindleSetSpeed rpm => exact execSpindleSetSpeed_kept rpm s
  | replayGo area => exact execReplayGo_kept area s
  | replayComplete crcError => exact execReplayComplete_kept crcError s
  | consume area => exact execConsume_kept area s
  | consumeMarkerWritten => exact execConsumeMarkerWritten_kept s
  | mapLoad => exact execMapLoad_kept s
  | powerFail vin10mV => exact execPowerFail_kept vin10mV s
  | kscReady => exact execKscReady_kept s
  | flushCommit inputBack => exact execFlushCommit_kept inputBack s
  | pstgOff vbulkMv => exact execPstgOff_kept vbulkMv s
  | overvoltageDetect vin10mV => exact execOvervoltageDetect_kept vin10mV s
  | ovRideEnd vin10mV vbulkMv => exact execOvRideEnd_kept vin10mV vbulkMv s
  | ovRideTimeout => exact execOvRideTimeout_kept s
  | holdupRecompute vin10mV pin10mW vbulkMv => exact execHoldupRecompute_kept vin10mV pin10mW vbulkMv s
  | keepImageCommit => exact execKeepImageCommit_kept s
  | paRailEnable paEn passtEn => exact execPaRailEnable_kept paEn passtEn s
  | paRailReady n rail => exact execPaRailReady_kept n rail s
  | paRailOvercurrent n rail => exact execPaRailOvercurrent_kept n rail s
  | calTempComp tempC => exact execCalTempComp_kept tempC s
  | bandgapRetrim site => exact execBandgapRetrim_kept site s
  | idleTimerExpiry depth arrival => exact execIdleTimerExpiry_kept depth arrival s
  | stateTransitionComplete => exact execStateTransitionComplete_kept s
  | sleepEntry => exact execSleepEntry_kept s
  | wakeFromSleep cause => exact execWakeFromSleep_kept cause s
  | deviceReset request => exact execDeviceReset_kept request s
  | actuatorReset mask => exact execActuatorReset_kept mask s
  | pcieReset => exact execPcieReset_kept s
  | tapReset => exact execTapReset_kept s
  | fuseBurnComplete => exact execFuseBurnComplete_kept s
  | pcieLinkTraining port => exact execPcieLinkTraining_kept port s
  | portReset port cause => exact execPortReset_kept port cause s
  | ccEnSet port ams asqs acqs => exact execCcEnSet_kept port ams asqs acqs s
  | controllerReady port => exact execControllerReady_kept port s
  | shutdownNotification port shn => exact execShutdownNotification_kept port shn s
  | shutdownComplete port => exact execShutdownComplete_kept port s
  | sqTailDoorbell port sqid tail => exact execSqTailDoorbell_kept port sqid tail s
  | cqHeadDoorbell port cqid head => exact execCqHeadDoorbell_kept port cqid head s
  | commandFetch entries => exact execCommandFetch_kept entries s
  | commandArrival tag => exact execCommandArrival_kept tag s
  | arrivalResume => exact execArrivalResume_kept s
  | hazardRelease => exact execHazardRelease_kept s
  | orderedBarrierStart tag => exact execOrderedBarrierStart_kept tag s
  | completionCommit tag => exact execCompletionCommit_kept tag s
  | interruptCoalesceTimeout port vector => exact execInterruptCoalesceTimeout_kept port vector s
  | msixUnmask port vector => exact execMsixUnmask_kept port vector s
  | deleteIoSq tag => exact execDeleteIoSq_kept tag s
  | deleteIoCq tag => exact execDeleteIoCq_kept tag s
  | createIoSq tag => exact execCreateIoSq_kept tag s
  | createIoCq tag => exact execCreateIoCq_kept tag s
  | getLogPage tag => exact execGetLogPage_kept tag s
  | identify tag => exact execIdentify_kept tag s
  | abort tag sameCycle => exact execAbort_kept tag sameCycle s
  | setFeatures tag => exact execSetFeatures_kept tag s
  | setFeaturesPowerMgmt tag => exact execSetFeaturesPowerMgmt_kept tag s
  | setFeaturesNumQueues tag => exact execSetFeaturesNumQueues_kept tag s
  | setFeaturesTimestamp tag => exact execSetFeaturesTimestamp_kept tag s
  | getFeatures tag => exact execGetFeatures_kept tag s
  | apstTransition port => exact execApstTransition_kept port s
  | asyncEventRequest tag => exact execAsyncEventRequest_kept tag s
  | namespaceManagement tag => exact execNamespaceManagement_kept tag s
  | namespaceAttachment tag => exact execNamespaceAttachment_kept tag s
  | firmwareImageDownload tag data => exact execFirmwareImageDownload_kept tag data s
  | firmwareCommit tag => exact execFirmwareCommit_kept tag s
  | firmwareCommitActivate tag => exact execFirmwareCommitActivate_kept tag s
  | firmwareSlotWriteDone => exact execFirmwareSlotWriteDone_kept s
  | directiveSend tag => exact execDirectiveSend_kept tag s
  | directiveReceive tag => exact execDirectiveReceive_kept tag s
  | formatNvm tag => exact execFormatNvm_kept tag s
  | sanitize tag => exact execSanitize_kept tag s
  | invalidAdminOpcode tag => exact execInvalidAdminOpcode_kept tag s
  | nvmeFlush tag => exact execNvmeFlush_kept tag s
  | nvmeWrite tag data transferError => exact execNvmeWrite_kept tag data transferError s
  | nvmeRead tag sendTo => exact execNvmeRead_kept tag sendTo s
  | nvmeCompare tag data => exact execNvmeCompare_kept tag data s
  | writeZeroes tag => exact execWriteZeroes_kept tag s
  | datasetManagement tag => exact execDatasetManagement_kept tag s
  | nvmeVerify tag => exact execNvmeVerify_kept tag s
  | zoneOpen tag => exact execZoneOpen_kept tag s
  | zoneClose tag => exact execZoneClose_kept tag s
  | zoneFinish tag => exact execZoneFinish_kept tag s
  | zoneReset tag => exact execZoneReset_kept tag s
  | zoneMgmtSendUnsupported tag => exact execZoneMgmtSendUnsupported_kept tag s
  | reportZones tag => exact execReportZones_kept tag s
  | zoneAppend tag data transferError => exact execZoneAppend_kept tag data transferError s
  | invalidIoOpcode tag => exact execInvalidIoOpcode_kept tag s
  | sasCommandFrame port nexus initiator frame => exact execSasCommandFrame_kept port nexus initiator frame s
  | xferRdy tag => exact execXferRdy_kept tag s
  | sasDataFrame tag offset len data => exact execSasDataFrame_kept tag offset len data s
  | sasLinkReset port rate => exact execSasLinkReset_kept port rate s
  | abortTask port nexus tmf lun task sameCycle => exact execAbortTask_kept port nexus tmf lun task sameCycle s
  | abortTaskSet port nexus tmf lun => exact execAbortTaskSet_kept port nexus tmf lun s
  | clearTaskSet port nexus tmf lun => exact execClearTaskSet_kept port nexus tmf lun s
  | logicalUnitReset port nexus tmf lun => exact execLogicalUnitReset_kept port nexus tmf lun s
  | iTNexusReset port nexus tmf => exact execITNexusReset_kept port nexus tmf s
  | queryTask port nexus tmf lun task => exact execQueryTask_kept port nexus tmf lun task s
  | queryTaskSet port nexus tmf lun => exact execQueryTaskSet_kept port nexus tmf lun s
  | queryAsynchronousEvent port nexus tmf lun => exact execQueryAsynchronousEvent_kept port nexus tmf lun s
  | tmfNotSupported port nexus tmf lun => exact execTmfNotSupported_kept port nexus tmf lun s
  | iTNexusLoss port nexus => exact execITNexusLoss_kept port nexus s
  | testUnitReady tag => exact execTestUnitReady_kept tag s
  | requestSense tag => exact execRequestSense_kept tag s
  | formatUnit tag => exact execFormatUnit_kept tag s
  | inquiry tag => exact execInquiry_kept tag s
  | modeSelect tag page values => exact execModeSelect_kept tag page values s
  | modeSense tag => exact execModeSense_kept tag s
  | startStopUnit tag => exact execStartStopUnit_kept tag s
  | readCapacity tag => exact execReadCapacity_kept tag s
  | scsiRead tag sendTo => exact execScsiRead_kept tag sendTo s
  | scsiWrite tag => exact execScsiWrite_kept tag s
  | scsiVerify tag => exact execScsiVerify_kept tag s
  | synchronizeCache tag => exact execSynchronizeCache_kept tag s
  | writeSame16 tag data => exact execWriteSame16_kept tag data s
  | unmap tag => exact execUnmap_kept tag s
  | writeBuffer tag data => exact execWriteBuffer_kept tag data s
  | readBuffer tag => exact execReadBuffer_kept tag s
  | scsiSanitize tag => exact execScsiSanitize_kept tag s
  | logSense tag => exact execLogSense_kept tag s
  | reportLuns tag => exact execReportLuns_kept tag s
  | reportSupportedOpcodes tag => exact execReportSupportedOpcodes_kept tag s
  | closeZone tag => exact execCloseZone_kept tag s
  | finishZone tag => exact execFinishZone_kept tag s
  | openZone tag => exact execOpenZone_kept tag s
  | resetWritePointer tag => exact execResetWritePointer_kept tag s
  | scsiInvalidOpcode tag => exact execScsiInvalidOpcode_kept tag s
  | damotSend tag req => exact execDamotSend_kept tag req s
  | damotReceive tag => exact execDamotReceive_kept tag s
  | damotGet req => exact execDamotGet_kept req s
  | damotSet req => exact execDamotSet_kept req s
  | damotDescribe req => exact execDamotDescribe_kept req s
  | damotClaim reqs => exact execDamotClaim_kept reqs s
  | damotRelease req => exact execDamotRelease_kept req s
  | damotOffer req => exact execDamotOffer_kept req s
  | damotAccept req => exact execDamotAccept_kept req s
  | damotNonce req => exact execDamotNonce_kept req s
  | damotBadOp req => exact execDamotBadOp_kept req s
  | nonceExpiry pos => exact execNonceExpiry_kept pos s
  | leaseExpiry => exact execLeaseExpiry_kept s
  | offerTimeout => exact execOfferTimeout_kept s
  | ownDrop => exact execOwnDrop_kept s
  | setEndpointId pos eid => exact execSetEndpointId_kept pos eid s
  | getEndpointId pos => exact execGetEndpointId_kept pos s
  | getMctpVersionSupport pos type => exact execGetMctpVersionSupport_kept pos type s
  | getMessageTypeSupport pos => exact execGetMessageTypeSupport_kept pos s
  | getVendorDefinedMsgSupport pos selector => exact execGetVendorDefinedMsgSupport_kept pos selector s
  | entdaa addr => exact execEntdaa_kept addr s
  | setdasa static addr => exact execSetdasa_kept static addr s
  | getVersion pos => exact execGetVersion_kept pos s
  | getCapabilities pos version transfer => exact execGetCapabilities_kept pos version transfer s
  | negotiateAlgorithms pos asym hash => exact execNegotiateAlgorithms_kept pos asym hash s
  | getDigests pos => exact execGetDigests_kept pos s
  | getCertificate pos slot offset len => exact execGetCertificate_kept pos slot offset len s
  | challenge pos slot tied => exact execChallenge_kept pos slot tied s
  | getMeasurements pos index signed slot tied => exact execGetMeasurements_kept pos index signed slot tied s
  | chunkSend pos handle chunk size total last req => exact execChunkSend_kept pos handle chunk size total last req s
  | chunkGet pos handle chunk => exact execChunkGet_kept pos handle chunk s
  | spdmUnsupportedRequest pos code => exact execSpdmUnsupportedRequest_kept pos code s
  | spinAtBootWrite req => exact execSpinAtBootWrite_kept req s
  | keySlotRevoke req => exact execKeySlotRevoke_kept req s
  | firmwareSvnMin req => exact execFirmwareSvnMin_kept req s
  | microcodeSvnMin req => exact execMicrocodeSvnMin_kept req s
  | updateCommit req => exact execUpdateCommit_kept req s
  | recoveryBoot req => exact execRecoveryBoot_kept req s
  | debugUnlock req => exact execDebugUnlock_kept req s
  | spareRowBurn req => exact execSpareRowBurn_kept req s
  | actuatorFailDeclare n => exact execActuatorFailDeclare_kept n s
  | headDeclaredUnable head read => exact execHeadDeclaredUnable_kept head read s
  | bufferReserve => exact execBufferReserve_kept s
  | writeContextRelease ns zone => exact execWriteContextRelease_kept ns zone s
  | mediaOpIssue n reach place control => exact execMediaOpIssue_kept n reach place control s
  | journalSegmentWrite => exact execJournalSegmentWrite_kept s
  | mapCheckpoint => exact execMapCheckpoint_kept s
  | relocateSector surface track sector spareTrack spareSector => exact execRelocateSector_kept surface track sector spareTrack spareSector s
  | mcaLookup tag addr others upset => exact execMcaLookup_kept tag addr others upset s
  | mcaUpdate addr value others upset => exact execMcaUpdate_kept addr value others upset s
  | mcaFillReturn line upset => exact execMcaFillReturn_kept line upset s
  | mcaVictimLand line upset => exact execMcaVictimLand_kept line upset s
  | mcaPrefetch tag => exact execMcaPrefetch_kept tag s
  | mcaWindowEnable k base => exact execMcaWindowEnable_kept k base s
  | mcaWindowDisable k => exact execMcaWindowDisable_kept k s
  | mcaLockEnable k => exact execMcaLockEnable_kept k s
  | mcaLockDisable k => exact execMcaLockDisable_kept k s
  | lockLoad k => exact execLockLoad_kept k s
  | lockLoadComplete k upsets => exact execLockLoadComplete_kept k upsets s
  | rangeClean => exact execRangeClean_kept s
  | rangeInvalidate => exact execRangeInvalidate_kept s
  | rangeDiscard => exact execRangeDiscard_kept s
  | rangeComplete upsets => exact execRangeComplete_kept upsets s
  | mapResume => exact execMapResume_kept s
  | mcDiagGo set way victim upset => exact execMcDiagGo_kept set way victim upset s
  | mcCntClr => exact execMcCntClr_kept s
  | sectorStart starts => exact execSectorStart_kept starts s
  | timingField n h phase rateOver => exact execTimingField_kept n h phase rateOver s
  | syncMarkDecision n h cands predDist => exact execSyncMarkDecision_kept n h cands predDist s
  | llrHandover n h spans seen time => exact execLlrHandover_kept n h spans seen time s
  | reframeRequest slot => exact execReframeRequest_kept slot s
  | chnCntClr n => exact execChnCntClr_kept n s
  | beadStart => exact execBeadStart_kept s
  | beadIterationEnd bead resid word memErr => exact execBeadIterationEnd_kept bead resid word memErr s
  | decodeResult slot time => exact execDecodeResult_kept slot time s
  | ladderStepStart loc time => exact execLadderStepStart_kept loc time s
  | recoveryLimitExpiry tag loc elapsedMs => exact execRecoveryLimitExpiry_kept tag loc elapsedMs s
  | abxMemoryError slot corrected => exact execAbxMemoryError_kept slot corrected s
  | abxCntClr => exact execAbxCntClr_kept s
  | fsqContinue n fetch => exact execFsqContinue_kept n fetch s
  | fsqJump n fetch => exact execFsqJump_kept n fetch s
  | fsqBranch n fetch => exact execFsqBranch_kept n fetch s
  | fsqCall n fetch => exact execFsqCall_kept n fetch s
  | fsqReturn n fetch => exact execFsqReturn_kept n fetch s
  | fsqWait n fetch => exact execFsqWait_kept n fetch s
  | fsqWaitEnd n expired events => exact execFsqWaitEnd_kept n expired events s
  | fsqWatchdog n => exact execFsqWatchdog_kept n s
  | fsqDispatch n fetch => exact execFsqDispatch_kept n fetch s
  | headProfile n fetch => exact execHeadProfile_kept n fetch s
  | readArm n fetch => exact execReadArm_kept n fetch s
  | writeArm n fetch => exact execWriteArm_kept n fetch s
  | seek n fetch => exact execSeek_kept n fetch s
  | maOffset n fetch => exact execMaOffset_kept n fetch s
  | report n fetch => exact execReport_kept n fetch s
  | jdOverride n fetch => exact execJdOverride_kept n fetch s
  | ovrClear n fetch => exact execOvrClear_kept n fetch s
  | loadUnload n fetch => exact execLoadUnload_kept n fetch s
  | psiWrite n fetch => exact execPsiWrite_kept n fetch s
  | psiRead n fetch => exact execPsiRead_kept n fetch s
  | psiDGo n tie => exact execPsiDGo_kept n tie s
  | psiFrameEnd n ok data => exact execPsiFrameEnd_kept n ok data s
  | mcRestart n => exact execMcRestart_kept n s
  | swapReq n => exact execSwapReq_kept n s
  | loadGo n => exact execLoadGo_kept n s
  | microcodeLoadComplete n => exact execMicrocodeLoadComplete_kept n s
  | wsqSrcWrite n h src => exact execWsqSrcWrite_kept n h src s
  | wsqStart n h sam fetches => exact execWsqStart_kept n h sam fetches s
  | fsqCntClr n => exact execFsqCntClr_kept n s
  | wedgeStrobe n h wedge late => exact execWedgeStrobe_kept n h wedge late s
  | servoFrame input => exact execServoFrame_kept input s
  | sliceDeadline lane0 lane1 lane2 lane3 voterError corrected => exact execSliceDeadline_kept lane0 lane1 lane2 lane3 voterError corrected s
  | checkpoint noMajority => exact execCheckpoint_kept noMajority s
  | followingErrorFault n => exact execFollowingErrorFault_kept n s
  | coastRetract n => exact execCoastRetract_kept n s
  | slotDrop n h => exact execSlotDrop_kept n h s
  | vcmSubsample n current rms watts overcurrent => exact execVcmSubsample_kept n current rms watts overcurrent s
  | retract n => exact execRetract_kept n s
  | crashStopDetect n => exact execCrashStopDetect_kept n s
  | parkHoldDone n => exact execParkHoldDone_kept n s
  | parkHandover n => exact execParkHandover_kept n s
  | loadAcquireTimeout n => exact execLoadAcquireTimeout_kept n s
  | loadComplete n => exact execLoadComplete_kept n s
  | shockTrip y excursion => exact execShockTrip_kept y excursion s
  | shockHoldEnd => exact execShockHoldEnd_kept s
  | coefApply mask => exact execCoefApply_kept mask s
  | svCntClr n => exact execSvCntClr_kept n s
  | laneRetire cause => exact execLaneRetire_kept cause s
  | laneWarmStart trigger => exact execLaneWarmStart_kept trigger s
  | warmCopyComplete => exact execWarmCopyComplete_kept s
  | warmStateLoad => exact execWarmStateLoad_kept s
  | laneJoin cycles => exact execLaneJoin_kept cycles s
  | laneBist mask => exact execLaneBist_kept mask s
  | laneBistDone l pass => exact execLaneBistDone_kept l pass s
  | triadCntClr => exact execTriadCntClr_kept s
  | htsRead n tie => exact execHtsRead_kept n tie s
  | assistCodeWrite n tie => exact execAssistCodeWrite_kept n tie s
  | ageStep j => exact execAgeStep_kept j s
  | assistForceClear mask => exact execAssistForceClear_kept mask s
  | asdCntClr => exact execAsdCntClr_kept s
  | runStart k type unit slot => exact execRunStart_kept k type unit slot s
  | runPreconditionViolation k judged => exact execRunPreconditionViolation_kept k judged s
  | runCancel k judged => exact execRunCancel_kept k judged s
  | runFinish k judged => exact execRunFinish_kept k judged s
  | runValidationComplete k judged => exact execRunValidationComplete_kept k judged s
  | tblDataAccess write => exact execTblDataAccess_kept write s
  | rampStep entry => exact execRampStep_kept entry s
  | rampFallback entry => exact execRampFallback_kept entry s
  | storeGo => exact execStoreGo_kept s
  | calStoreCommit ok => exact execCalStoreCommit_kept ok s
  | calLoad failedA failedB => exact execCalLoad_kept failedA failedB s
  | norGrant requests => exact execNorGrant_kept requests s
  | packBlockCompress blocks => exact execPackBlockCompress_kept blocks s
  | packBlockDone lane externIndex => exact execPackBlockDone_kept lane externIndex s
  | poolBufferFree => exact execPoolBufferFree_kept s
  | unpackBlock blocks => exact execUnpackBlock_kept blocks s
  | zrWrite ratio activation => exact execZrWrite_kept ratio activation s
  | zrRead => exact execZrRead_kept s
  | pakCntClr => exact execPakCntClr_kept s
  | dramRead reads => exact execDramRead_kept reads s
  | dramWrite writes => exact execDramWrite_kept writes s
  | dramPartialWrite writes => exact execDramPartialWrite_kept writes s
  | regionEnable k base adopt => exact execRegionEnable_kept k base adopt s
  | regionDisable k => exact execRegionDisable_kept k s
  | regMark k => exact execRegMark_kept k s
  | regionOpComplete k => exact execRegionOpComplete_kept k s
  | scrubStep behind => exact execScrubStep_kept behind s
  | sprGo bank row => exact execSprGo_kept bank row s
  | spareRowDone => exact execSpareRowDone_kept s
  | diagRawRead word => exact execDiagRawRead_kept word s
  | diagWriteAll word => exact execDiagWriteAll_kept word s
  | diagWriteData word => exact execDiagWriteData_kept word s
  | diagWriteCheck word => exact execDiagWriteCheck_kept word s
  | ceLogClr => exact execCeLogClr_kept s
  | celValidClear k => exact execCelValidClear_kept k s
  | dmcCntClr => exact execDmcCntClr_kept s
  | faultDetection sources => exact execFaultDetection_kept sources s
  | shadowReady step n => exact execShadowReady_kept step n s
  | shadowTimeout step n => exact execShadowTimeout_kept step n s
  | windowClose k => exact execWindowClose_kept k s
  | qPop => exact execQPop_kept s
  | actHoldRelease mask held => exact execActHoldRelease_kept mask held s
  | fatalResetTimer => exact execFatalResetTimer_kept s
  | pipToggle => exact execPipToggle_kept s
  | wdogEn => exact execWdogEn_kept s
  | wdogKick => exact execWdogKick_kept s
  | wdogMsWrite ms elapsedMs => exact execWdogMsWrite_kept ms elapsedMs s
  | watchdogExpiry kick => exact execWatchdogExpiry_kept kick s
  | extRetractRequest => exact execExtRetractRequest_kept s
  | extRetractEnd => exact execExtRetractEnd_kept s
  | fcuCntClr => exact execFcuCntClr_kept s
  | tallyInletAdmit => exact execTallyInletAdmit_kept s
  | tallyCommit => exact execTallyCommit_kept s
  | tallyRepeat => exact execTallyRepeat_kept s
  | tallyFreeze => exact execTallyFreeze_kept s
  | tallyUnfreeze => exact execTallyUnfreeze_kept s
  | tallyFreezeTimeout => exact execTallyFreezeTimeout_kept s
  | tallyArchiveTimeout => exact execTallyArchiveTimeout_kept s
  | tallyArchiveProgram => exact execTallyArchiveProgram_kept s
  | tallyProgramComplete ok => exact execTallyProgramComplete_kept ok s
  | tallyFlush => exact execTallyFlush_kept s
  | tallyFlushDone => exact execTallyFlushDone_kept s
  | tallyReady => exact execTallyReady_kept s
  | tallyClear both => exact execTallyClear_kept both s
  | tallyClearDone => exact execTallyClearDone_kept s
  | lifeGroupTimer => exact execLifeGroupTimer_kept s
  | fwEvtGo => exact execFwEvtGo_kept s
  | pohTick => exact execPohTick_kept s
  | calendarSet ms => exact execCalendarSet_kept ms s
  | thermalSample sensor value => exact execThermalSample_kept sensor value s
  | drainRequest req => exact execDrainRequest_kept req s
  | actvGo overlaps => exact execActvGo_kept overlaps s
  | actvCopyComplete damaged => exact execActvCopyComplete_kept damaged s
  | actvEntry => exact execActvEntry_kept s
  | actvRelease => exact execActvRelease_kept s
  | actvHoldTimeout => exact execActvHoldTimeout_kept s
  | pertArm arm => exact execPertArm_kept arm s
  | extest => exact execExtest_kept s
  | idcode => exact execIdcode_kept s
  | samplePreload cells => exact execSamplePreload_kept cells s
  | clamp => exact execClamp_kept s
  | highz => exact execHighz_kept s
  | devReset => exact execDevReset_kept s
  | debug => exact execDebug_kept s
  | bypass code => exact execBypass_kept code s
  | cohortIdWrite id => exact execCohortIdWrite_kept id s
  | cohortMarkEdge elapsed revolution phaseErr => exact execCohortMarkEdge_kept elapsed revolution phaseErr s
  | cohortLost => exact execCohortLost_kept s
  | aonSupplyLoss => exact execAonSupplyLoss_kept s
  | pcieLinkUp port speed width flit => exact execPcieLinkUp_kept port speed width flit s
  | linkL12Change port inL12 => exact execLinkL12Change_kept port inL12 s
  | sasLinkLoss port nexus => exact execSasLinkLoss_kept port nexus s
  | i3cDynamicAddressLoss => exact execI3cDynamicAddressLoss_kept s

/-- The front command taken off the queue. -/
def State.rest (s : State) : State := { s with pending := s.pending.tail }

/-- One step keeps what every operation keeps, from the state whose front command is taken off the queue. -/
theorem step_kept (s : State) : KeptBy s.rest (step s) := by
  cases hq : s.pending with
  | nil =>
    have hrest : s.rest = s := by rw [State.rest, hq, List.tail_nil, ← hq]
    rw [hrest, step, hq]
    exact .next s.tick_kept
  | cons c l =>
    have hrest : s.rest = { s with pending := l } := by rw [State.rest, hq, List.tail_cons]
    rw [hrest, step, hq]
    exact exec_kept c _

/-- What every operation keeps, it keeps of the invariant. -/
theorem Inv.of_kept {s t : State} (h : Kept s t) (i : Inv s) : Inv t :=
  ⟨h.regs i.regs, h.sram i.sram, h.dram i.dram, (h.burns i.burn).1⟩

/-- The invariant does not speak of the queue. -/
theorem Inv.rest {s : State} (i : Inv s) : Inv s.rest := ⟨i.regs, i.sram, i.dram, i.burn⟩

end Sys2Proof.Machine

open Sys2Proof Sys2Proof.Machine in
/-- Settles O53: the step keeps the invariant, which does not speak of the queue. -/
theorem everyStepKeepsTheInvariant : Obligations.EveryStepKeepsTheInvariant := by
  unfold Obligations.EveryStepKeepsTheInvariant
  intro s hinv
  obtain ⟨t, hstep, hkept⟩ := step_kept s
  exact ⟨t, hstep, .of_kept hkept hinv.rest, hkept.pending⟩

open Sys2Proof Sys2Proof.Machine in
/-- Settles O54: every step keeps the fuses that nothing burns, and moves the others one way. -/
theorem fusesAreOneWay : Obligations.FusesAreOneWay := by
  unfold Obligations.FusesAreOneWay
  intro s t hburn hstep
  obtain ⟨u, hu, hkept⟩ := step_kept s
  rw [hstep] at hu
  cases hu
  exact ⟨hkept.unburned, (hkept.burns hburn).2⟩

open Sys2Proof Sys2Proof.Machine in
/-- Settles O55: the law of each command. -/
theorem everyCommandCompletes : Obligations.EveryCommandCompletes := by
  unfold Obligations.EveryCommandCompletes
  intro c s
  obtain ⟨t, hexec, hkept⟩ := exec_kept c s
  exact ⟨t, hexec, hkept.pending, hkept.sent, hkept.fresh⟩
end

section
/-!
What the named operations on registers do, as rewrite rules for the statements' own terms: the frames `RegFrame` and `RegsOnly`,
a field read after a write of it or of another, and the access of a block that is on (R7, R17, R33, R44).
-/
namespace Sys2Proof.Machine

open Sys2Proof.Arith

/-! ### Frames -/

@[simp] theorem regFrame_same (s : State) (l : List Fld) : RegFrame s s l := fun _ _ => rfl

/-- A write of a listed field is outside the frame. -/
@[simp] theorem regFrame_wr {s t : State} {l : List Fld} {f : Fld} {v : Nat} (hf : f ∈ l) :
    RegFrame s (t.wr f v) l ↔ RegFrame s t l :=
  forall_congr' fun g => forall_congr' fun hg => by rw [State.rd_wr_apart t f g v (hg f hf)]

@[simp] theorem regFrame_wrFlag {s t : State} {l : List Fld} {f : Fld} {b : Bool} (hf : f ∈ l) :
    RegFrame s (t.wrFlag f b) l ↔ RegFrame s t l := regFrame_wr hf

@[simp] theorem regFrame_setBitAt {s t : State} {l : List Fld} {f : Fld} {i : Nat} (hf : f ∈ l) :
    RegFrame s (t.setBitAt f i) l ↔ RegFrame s t l := regFrame_wr hf

@[simp] theorem regFrame_clrBitAt {s t : State} {l : List Fld} {f : Fld} {i : Nat} (hf : f ∈ l) :
    RegFrame s (t.clrBitAt f i) l ↔ RegFrame s t l := regFrame_wr hf

@[simp] theorem regFrame_putBitAt {s t : State} {l : List Fld} {f : Fld} {i : Nat} {b : Bool} (hf : f ∈ l) :
    RegFrame s (t.putBitAt f i b) l ↔ RegFrame s t l := regFrame_wr hf

@[simp] theorem regFrame_count {s t : State} {l : List Fld} {f : Fld} {d : Nat} (hf : f ∈ l) :
    RegFrame s (t.count f d) l ↔ RegFrame s t l := regFrame_wr hf

@[simp] theorem regFrame_advance {s t : State} {l : List Fld} {f : Fld} {d : Nat} (hf : f ∈ l) :
    RegFrame s (t.advance f d) l ↔ RegFrame s t l := regFrame_wr hf

@[simp] theorem regFrame_raise {s t : State} {l : List Fld} {n : Nat} (hf : R.PEND_BITS (n / 32) ∈ l) :
    RegFrame s (t.raise n) l ↔ RegFrame s t l := regFrame_wr hf

@[simp] theorem regFrame_emit {s t : State} {l : List Fld} {o : Output} : RegFrame s (t.emit o) l ↔ RegFrame s t l := Iff.rfl

@[simp] theorem regFrame_free {s t : State} {l : List Fld} : RegFrame s t.free.2 l ↔ RegFrame s t l := Iff.rfl

/-- The frame is about the register file alone. -/
theorem regFrame_congr {s t u : State} {l : List Fld} (h : u.regs = t.regs) : RegFrame s u l ↔ RegFrame s t l :=
  forall_congr' fun g => forall_congr' fun _ => by rw [State.rd_congr h]

/-- A record update that leaves the register file is outside the frame. -/
@[simp] theorem regFrame_update {s b : State} {l : List Fld} {x_sram x_dom x_pins x_pwr x_pm x_fuses x_boot x_ksc x_tap x_cohort
    x_hosts x_media x_nv x_pak x_mca x_chn x_abx x_svt x_cal x_dram x_mgt x_fsq x_wsq x_ucode x_fcu x_tly x_thm x_pending x_out
    x_freeCount x_usInMs} :
    RegFrame s (State.mk b.regs x_sram x_dom x_pins x_pwr x_pm x_fuses x_boot x_ksc x_tap x_cohort x_hosts x_media x_nv x_pak
      x_mca x_chn x_abx x_svt x_cal x_dram x_mgt x_fsq x_wsq x_ucode x_fcu x_tly x_thm x_pending x_out x_freeCount x_usInMs) l
      ↔ RegFrame s b l := regFrame_congr rfl

theorem RegFrame.trans {s t u : State} {l : List Fld} (h : RegFrame s t l) (k : RegFrame t u l) : RegFrame s u l :=
  fun g hg => (k g hg).trans (h g hg)

theorem RegsOnly.refl (s : State) : RegsOnly s s := rfl

theorem RegsOnly.trans {s t u : State} (h : RegsOnly s t) (k : RegsOnly t u) : RegsOnly s u := by
  rw [RegsOnly] at h k ⊢
  rw [k, h]

theorem regsOnly_wr (s : State) (f : Fld) (v : Nat) : RegsOnly s (s.wr f v) := rfl

/-- Nothing but registers changes in a write of a register. -/
theorem RegsOnly.wr {s t : State} (h : RegsOnly s t) (f : Fld) (v : Nat) : RegsOnly s (t.wr f v) := h.trans (regsOnly_wr t f v)
theorem RegsOnly.wrFlag {s t : State} (h : RegsOnly s t) (f : Fld) (b : Bool) : RegsOnly s (t.wrFlag f b) := h.wr _ _
theorem RegsOnly.setBitAt {s t : State} (h : RegsOnly s t) (f : Fld) (i : Nat) : RegsOnly s (t.setBitAt f i) := h.wr _ _
theorem RegsOnly.clrBitAt {s t : State} (h : RegsOnly s t) (f : Fld) (i : Nat) : RegsOnly s (t.clrBitAt f i) := h.wr _ _
theorem RegsOnly.putBitAt {s t : State} (h : RegsOnly s t) (f : Fld) (i : Nat) (b : Bool) : RegsOnly s (t.putBitAt f i b) := h.wr _ _
theorem RegsOnly.count {s t : State} (h : RegsOnly s t) (f : Fld) (d : Nat) : RegsOnly s (t.count f d) := h.wr _ _
theorem RegsOnly.advance {s t : State} (h : RegsOnly s t) (f : Fld) (d : Nat) : RegsOnly s (t.advance f d) := h.wr _ _
theorem RegsOnly.raise {s t : State} (h : RegsOnly s t) (n : Nat) : RegsOnly s (t.raise n) := h.setBitAt _ _

theorem RegsOnly.foldl {α : Type} {s t : State} (h : RegsOnly s t) {f : State → α → State} (hf : ∀ u a, RegsOnly u (f u a))
    (l : List α) : RegsOnly s (l.foldl f t) := by
  induction l generalizing t with
  | nil => exact h
  | cons a l ih => exact ih (h.trans (hf t a))

namespace State

/-! ### Fields written one after the other -/

theorem rd_foldl_wr_apart {α : Type} (s : State) (F : α → Fld) (v : α → Nat) (l : List α) {g : Fld}
    (h : ∀ a ∈ l, (F a).apart g = true) : (l.foldl (fun s a => s.wr (F a) (v a)) s).rd g = s.rd g := by
  induction l generalizing s with
  | nil => rfl
  | cons a l ih =>
    rw [List.foldl_cons, ih _ fun b hb => h b (by simp [hb]), rd_wr_apart _ _ _ _ (h a (by simp))]

/-- Each of several fields that stand apart reads what was written to it. -/
theorem rd_foldl_wr {α : Type} (s : State) (F : α → Fld) (v : α → Nat) {l : List α} (hfits : ∀ a ∈ l, (F a).fits = true)
    (hl : l.Pairwise fun a b => (F b).apart (F a) = true) {a : α} (ha : a ∈ l) :
    (l.foldl (fun s a => s.wr (F a) (v a)) s).rd (F a) = v a % 2 ^ (F a).width := by
  induction l generalizing s with
  | nil => simp at ha
  | cons b l ih =>
    rw [List.pairwise_cons] at hl
    rw [List.foldl_cons]
    rcases List.mem_cons.mp ha with rfl | ha
    · rw [rd_foldl_wr_apart _ F v l hl.1, rd_wr_same _ _ _ (hfits a (by simp))]
    · exact ih _ (fun c hc => hfits c (by simp [hc])) hl.2 ha

theorem rd_clearAll (s : State) {l : List Fld} (hfits : ∀ f ∈ l, f.fits = true)
    (hl : l.Pairwise fun f g => g.apart f = true) : ∀ f ∈ l, (s.clearAll l).rd f = 0 := fun _ hf =>
  (s.rd_foldl_wr id (fun _ => 0) hfits hl hf).trans (Nat.zero_mod _)

end State

theorem RegsOnly.clearAll {s t : State} (h : RegsOnly s t) (l : List Fld) : RegsOnly s (t.clearAll l) :=
  h.foldl (fun u f => (RegsOnly.refl u).wr f 0) l

/-- Fields all of which are listed are cleared outside the frame. -/
theorem RegFrame.clearAll {s t : State} {l : List Fld} (h : RegFrame s t l) {c : List Fld} (hc : ∀ f ∈ c, f ∈ l) :
    RegFrame s (t.clearAll c) l := fun g hg =>
  (State.rd_foldl_wr_apart t id (fun _ => 0) c fun f hf => hg f (hc f hf)).trans (h g hg)

namespace State

/-! ### A field read after an operation on it -/

theorem rd_wrFlag_same (s : State) (f : Fld) (b : Bool) (h : (f.fits && decide (0 < f.width)) = true) :
    (s.wrFlag f b).rd f = ofBool b := by
  simp only [Bool.and_eq_true, decide_eq_true_eq] at h
  obtain ⟨hfits, hwidth⟩ := h
  rw [wrFlag, rd_wr_same s f _ hfits]
  have hlt : ofBool b < 2 ^ f.width := by
    have := Nat.pow_lt_pow_right (a := 2) (by decide) hwidth
    cases b <;> simp [ofBool] at this ⊢
    omega
  exact Nat.mod_eq_of_lt hlt

theorem flag_wrFlag_same (s : State) (f : Fld) (b : Bool) (h : (f.fits && decide (0 < f.width)) = true) :
    (s.wrFlag f b).flag f = b := by
  rw [flag, rd_wrFlag_same s f b h]
  cases b <;> rfl

theorem rd_wrFlag_apart (s : State) (f g : Fld) (b : Bool) (h : f.apart g = true) : (s.wrFlag f b).rd g = s.rd g :=
  rd_wr_apart s f g _ h
theorem rd_setBitAt_apart (s : State) (f g : Fld) (i : Nat) (h : f.apart g = true) : (s.setBitAt f i).rd g = s.rd g :=
  rd_wr_apart s f g _ h
theorem rd_clrBitAt_apart (s : State) (f g : Fld) (i : Nat) (h : f.apart g = true) : (s.clrBitAt f i).rd g = s.rd g :=
  rd_wr_apart s f g _ h
theorem rd_putBitAt_apart (s : State) (f g : Fld) (i : Nat) (b : Bool) (h : f.apart g = true) : (s.putBitAt f i b).rd g = s.rd g :=
  rd_wr_apart s f g _ h
theorem rd_count_apart (s : State) (f g : Fld) (d : Nat) (h : f.apart g = true) : (s.count f d).rd g = s.rd g :=
  rd_wr_apart s f g _ h
theorem rd_advance_apart (s : State) (f g : Fld) (d : Nat) (h : f.apart g = true) : (s.advance f d).rd g = s.rd g :=
  rd_wr_apart s f g _ h

theorem rd_setBitAt_same (s : State) (f : Fld) (i : Nat) (h : f.fits = true) :
    (s.setBitAt f i).rd f = setBit (s.rd f) i % 2 ^ f.width := rd_wr_same s f _ h
theorem rd_clrBitAt_same (s : State) (f : Fld) (i : Nat) (h : f.fits = true) :
    (s.clrBitAt f i).rd f = clearBit (s.rd f) i % 2 ^ f.width := rd_wr_same s f _ h
theorem rd_putBitAt_same (s : State) (f : Fld) (i : Nat) (b : Bool) (h : f.fits = true) :
    (s.putBitAt f i b).rd f = putBit (s.rd f) i b % 2 ^ f.width := rd_wr_same s f _ h
theorem rd_advance_same (s : State) (f : Fld) (d : Nat) (h : f.fits = true) :
    (s.advance f d).rd f = (s.rd f + d) % 2 ^ f.width := rd_wr_same s f _ h
theorem rd_count_same (s : State) (f : Fld) (d : Nat) (h : f.fits = true) :
    (s.count f d).rd f = min (2 ^ f.width - 1) (s.rd f + d) := by
  rw [count, rd_wr_same s f _ h, satAdd, Nat.mod_eq_of_lt]
  have := Nat.two_pow_pos f.width
  omega

/-! ### Bits -/

end State

theorem Arith.setBit_eq_putField (v i : Nat) (h : v.testBit i = false) : setBit v i = putField v i 1 1 := by
  have hbit : v / 2 ^ i % 2 = 0 := by simpa [Nat.testBit_eq_decide_div_mod_eq] using h
  have hlow := Nat.div_add_mod v (2 ^ i)
  have hhigh := Nat.div_add_mod (v / 2 ^ i) 2
  rw [hbit, Nat.div_div_eq_div_mul] at hhigh
  have hsplit : v = 2 ^ i * (2 * (v / (2 ^ i * 2))) + v % 2 ^ i := by rw [← Nat.add_zero (2 * _), hhigh, hlow]
  have hone : 1 % 2 ^ 1 = 1 := rfl
  rw [setBit, h, if_neg (by decide), putField, Nat.pow_succ 2 i, hone]
  linarith

theorem Arith.testBit_setBit (v i j : Nat) : (setBit v i).testBit j = (v.testBit j || decide (j = i)) := by
  cases h : v.testBit i with
  | true =>
    rw [setBit, if_pos h]
    by_cases hj : j = i
    · simp [hj, h]
    · simp [hj]
  | false =>
    rw [Arith.setBit_eq_putField v i h, Arith.testBit_putField]
    by_cases hj : j = i
    · simp [hj]
    · have hout : ¬ (i ≤ j ∧ j < i + 1) := by omega
      simp only [hj, decide_false, Bool.or_false]
      split
      · rfl
      · next hij => rw [if_neg fun hlt => hout ⟨not_lt.mp hij, hlt⟩]

theorem Arith.testBit_putBit (v i j : Nat) (b : Bool) : (putBit v i b).testBit j = if j = i then b else v.testBit j := by
  cases b with
  | true => by_cases h : j = i <;> simp [putBit, Arith.testBit_setBit, h]
  | false => by_cases h : j = i <;> simp [putBit, Arith.testBit_clearBit, h]

namespace State

theorem bitAt_wr_same (s : State) (f : Fld) (v i : Nat) (h : f.fits = true) :
    (s.wr f v).bitAt f i = (decide (i < f.width) && v.testBit i) := by
  rw [bitAt, rd_wr_same s f v h, Nat.testBit_mod_two_pow]

theorem bitAt_setBitAt_same (s : State) (f : Fld) (i j : Nat) (h : (f.fits && decide (j < f.width)) = true) :
    (s.setBitAt f i).bitAt f j = (s.bitAt f j || decide (j = i)) := by
  simp only [Bool.and_eq_true, decide_eq_true_eq] at h
  rw [setBitAt, bitAt_wr_same _ _ _ _ h.1, Arith.testBit_setBit, bitAt]
  simp [h.2]

theorem bitAt_clrBitAt_same (s : State) (f : Fld) (i j : Nat) (h : (f.fits && decide (j < f.width)) = true) :
    (s.clrBitAt f i).bitAt f j = (s.bitAt f j && decide (j ≠ i)) := by
  simp only [Bool.and_eq_true, decide_eq_true_eq] at h
  rw [clrBitAt, bitAt_wr_same _ _ _ _ h.1, Arith.testBit_clearBit, bitAt]
  simp [h.2]

theorem bitAt_putBitAt_same (s : State) (f : Fld) (i j : Nat) (b : Bool) (h : (f.fits && decide (j < f.width)) = true) :
    (s.putBitAt f i b).bitAt f j = if j = i then b else s.bitAt f j := by
  simp only [Bool.and_eq_true, decide_eq_true_eq] at h
  rw [putBitAt, bitAt_wr_same _ _ _ _ h.1, Arith.testBit_putBit, bitAt]
  simp [h.2]

/-! ### Event lines (R44) -/

theorem linePending_wr_apart (s : State) (f : Fld) (v n : Nat) (h : f.apart (R.PEND_BITS (n / 32)) = true) :
    (s.wr f v).linePending n = s.linePending n := bitAt_wr_apart s f _ v _ h

theorem linePending_congr {s t : State} (h : t.regs = s.regs) (n : Nat) : t.linePending n = s.linePending n := by
  rw [linePending, bitAt, rd_congr h, linePending, bitAt]

@[simp] theorem linePending_update {b : State} {x_sram x_dom x_pins x_pwr x_pm x_fuses x_boot x_ksc x_tap x_cohort x_hosts x_media
    x_nv x_pak x_mca x_chn x_abx x_svt x_cal x_dram x_mgt x_fsq x_wsq x_ucode x_fcu x_tly x_thm x_pending x_out x_freeCount x_usInMs}
    (n : Nat) : State.linePending (State.mk b.regs x_sram x_dom x_pins x_pwr x_pm x_fuses x_boot x_ksc x_tap x_cohort x_hosts
      x_media x_nv x_pak x_mca x_chn x_abx x_svt x_cal x_dram x_mgt x_fsq x_wsq x_ucode x_fcu x_tly x_thm x_pending x_out
      x_freeCount x_usInMs) n = b.linePending n := linePending_congr rfl n

/-- R44: an event sets its own line and no other. -/
theorem linePending_raise_eq (s : State) (n m : Nat) : (s.raise n).linePending m = (s.linePending m || decide (m = n)) := by
  by_cases hk : m / 32 = n / 32
  · have hbit : m % 32 = n % 32 ↔ m = n := by omega
    have hin : ((R.PEND_BITS (n / 32)).fits && decide (m % 32 < (R.PEND_BITS (n / 32)).width)) = true := by
      simp [Fld.fits, R.PEND_BITS, Nat.mod_lt]
    rw [linePending, raise, hk, bitAt_setBitAt_same s _ _ _ hin, linePending, hk]
    simp [hbit]
  · have hne : m ≠ n := fun h => hk (by rw [h])
    have hapart : (R.PEND_BITS (n / 32)).apart (R.PEND_BITS (m / 32)) = true := by
      simp only [Fld.apart, R.PEND_BITS, Bool.or_eq_true, bne_iff_ne]
      omega
    rw [linePending, raise, setBitAt, bitAt_wr_apart _ _ _ _ _ hapart, linePending]
    simp [hne]

end State

/-! ### Completion -/

/-- A command completes as its meaning answers. -/
theorem Completes.next {t : State} {p : State → Prop} (h : p t) : Completes (.next t) p := ⟨t, rfl, h⟩

/-- A command on a register the fabric reaches acts on the state with the access granted (R17, R33). -/
theorem Completes.access {s : State} {f : Fld} {k : State → State} {p : State → Prop} (h : s.reachable f.addr = true)
    (hp : p (k s.granting)) : Completes (.next (s.access f k)) p :=
  ⟨_, congrArg Host.Outcome.next (s.access_of_reachable f k h), hp⟩

end Sys2Proof.Machine
end

section
/-!
O51 (one step), O52 (the state after reset), O59 (turn tokens, R16) and O60 (events, R44, R49).
-/
namespace Sys2Proof.Machine

open Sys2Proof.Arith

/-! ### The state after reset (R11, R117) -/

theorem inv_reset : Inv State.reset := ⟨rfl, rfl, rfl, trivial⟩

/-- After reset no word is listed: a field reads its part of the reset word. -/
theorem rd_reset (f : Fld) (h : f.rst < 2 ^ 32) : State.reset.rd f = field f.rst f.lo f.width := by
  have hword : State.reset.word f.addr f.rst = f.rst := Nat.mod_eq_of_lt h
  rw [State.rd, hword]

/-! ### Turn tokens (R16) -/

/-- How far position `i` of `n` stands from the token, counting upward and wrapping. -/
def tokenDist (n token i : Nat) : Nat := (i + n - token) % n

theorem tokenDist_turn {n token k : Nat} (ht : token < n) (hk : k < n) : tokenDist n token ((token + k) % n) = k := by
  rw [tokenDist]
  rcases Nat.lt_or_ge (token + k) n with hlt | hge
  · have hsum : token + k + n - token = k + n := by omega
    rw [Nat.mod_eq_of_lt hlt, hsum, Nat.add_mod_right, Nat.mod_eq_of_lt hk]
  · have hwrap : (token + k) % n = token + k - n := by rw [Nat.mod_eq_sub_mod hge, Nat.mod_eq_of_lt (by omega)]
    have hsum : token + k - n + n - token = k := by omega
    rw [hwrap, hsum, Nat.mod_eq_of_lt hk]

theorem tokenDist_inj {n token i j : Nat} (ht : token < n) (hi : i < n) (hj : j < n)
    (h : tokenDist n token i = tokenDist n token j) : i = j := by
  have hback : ∀ x, x < n → (token + tokenDist n token x) % n = x := fun x hx => by
    have hsum : token + (x + n - token) = x + n := by omega
    rw [tokenDist, Nat.add_mod_mod, hsum, Nat.add_mod_right, Nat.mod_eq_of_lt hx]
  rw [← hback i hi, h, hback j hj]

/-- The turn order counts upward from the token. -/
theorem turnOrder_pairwise {n token : Nat} (ht : token < n) :
    (turnOrder n token).Pairwise fun i j => tokenDist n token i < tokenDist n token j := by
  rw [turnOrder, List.pairwise_map]
  refine (List.pairwise_lt_range (n := n)).imp_of_mem fun {a b} ha hb hab => ?_
  rw [tokenDist_turn ht (List.mem_range.mp ha), tokenDist_turn ht (List.mem_range.mp hb)]
  exact hab

theorem mem_turnOrder {n token : Nat} (ht : token < n) (i : Nat) : i ∈ turnOrder n token ↔ i < n := by
  rw [turnOrder, List.mem_map]
  constructor
  · rintro ⟨k, -, rfl⟩
    exact Nat.mod_lt _ (by omega)
  · intro hi
    refine ⟨tokenDist n token i, List.mem_range.mpr (Nat.mod_lt _ (by omega)), ?_⟩
    have hsum : token + (i + n - token) = i + n := by omega
    rw [tokenDist, Nat.add_mod_mod, hsum, Nat.add_mod_right, Nat.mod_eq_of_lt hi]

theorem tokenOrder_pairwise {n token : Nat} (ht : token < n) (req : List Nat) :
    (tokenOrder n token req).Pairwise fun i j => tokenDist n token i < tokenDist n token j :=
  (turnOrder_pairwise ht).filter _

theorem mem_tokenOrder {n token : Nat} (ht : token < n) (req : List Nat) (i : Nat) :
    i ∈ tokenOrder n token req ↔ i < n ∧ i ∈ req := by
  rw [tokenOrder, List.mem_filter, mem_turnOrder ht, List.contains_iff_mem]

/-- R16: the requester granted is the one nearest to the token. -/
theorem tokenGrant_eq_some {n token : Nat} (ht : token < n) (req : List Nat) (i : Nat) :
    tokenGrant n token req = some i
      ↔ i < n ∧ i ∈ req ∧ ∀ j ∈ req, j < n → tokenDist n token i ≤ tokenDist n token j := by
  have hmem := mem_tokenOrder ht req
  have hpair := tokenOrder_pairwise ht req
  rw [tokenGrant]
  cases hl : tokenOrder n token req with
  | nil =>
    have hnone : ¬ (i < n ∧ i ∈ req) := by rw [← hmem, hl]; exact List.not_mem_nil
    simp only [List.head?_nil, reduceCtorEq, false_iff]
    rintro ⟨hi, hreq, -⟩
    exact hnone ⟨hi, hreq⟩
  | cons a l =>
    simp only [hl] at hmem hpair
    have ha := (hmem a).mp List.mem_cons_self
    have hfirst : ∀ j ∈ a :: l, tokenDist n token a ≤ tokenDist n token j := fun j hj => by
      rcases List.mem_cons.mp hj with rfl | hj
      · exact le_rfl
      · exact (List.rel_of_pairwise_cons hpair hj).le
    rw [List.head?_cons, Option.some.injEq]
    constructor
    · rintro rfl
      exact ⟨ha.1, ha.2, fun j hj hn => hfirst j ((hmem j).mpr ⟨hn, hj⟩)⟩
    · rintro ⟨hi, hreq, hbest⟩
      exact tokenDist_inj ht ha.1 hi (le_antisymm (hfirst i ((hmem i).mpr ⟨hi, hreq⟩)) (hbest a ha.2 ha.1))

/-- R16: a lone requester is served, wherever the token stands. -/
theorem tokenOrder_single {n p : Nat} (token : Nat) (hp : p < n) : tokenOrder n token [p] = [p] := by
  have hmod : tokenOrder n token [p] = tokenOrder n (token % n) [p] := by simp [tokenOrder, turnOrder]
  have ht : token % n < n := Nat.mod_lt _ (by omega)
  have hmem := mem_tokenOrder ht [p]
  have hpair := tokenOrder_pairwise ht [p]
  rw [hmod]
  cases hl : tokenOrder n (token % n) [p] with
  | nil =>
    rw [hl] at hmem
    simpa using (hmem p).mpr ⟨hp, by simp⟩
  | cons a l =>
    have hall : ∀ x ∈ a :: l, x = p := fun x hx => by simpa using ((hmem x).mp (hl ▸ hx)).2
    cases l with
    | nil => rw [hall a (by simp)]
    | cons b l =>
      rw [hl] at hpair
      have hab := List.rel_of_pairwise_cons hpair List.mem_cons_self
      rw [hall a (by simp), hall b (by simp)] at hab
      exact absurd hab (lt_irrefl _)

/-! ### A field written twice (R44) -/

theorem Store.erase_insert {β : Type} (m : Store β) (k : Nat) (v : β) : Store.erase (Store.insert m k v) k = Store.erase m k := by
  induction m with
  | nil => simp [Store.insert, Store.erase]
  | cons e m ih =>
    rw [Store.insert]
    split
    · simp [Store.erase]
    · simp only [Store.erase, List.filter_cons] at ih ⊢
      rw [ih]

theorem Store.put_put {β : Type} [DecidableEq β] (d : β) (m : Store β) (k : Nat) (v w : β) :
    Store.put d (Store.put d m k v) k w = Store.put d m k w := by
  have herase : Store.erase (Store.put d m k v) k = Store.erase m k := by
    rw [Store.put]
    split
    · simp [Store.erase]
    · rw [Store.erase_insert]
      simp [Store.erase]
  rw [Store.put, herase, Store.put]

theorem Store.get_put_self {β : Type} [DecidableEq β] (d e : β) (m : Store β) (k : Nat) (v : β) :
    Store.get e (Store.put d m k v) k = if v = d then e else v := by
  rw [Store.put]
  split
  · exact Store.get_erase_same e m k
  · exact Store.get_insert_same e _ k v (Store.ne_of_mem_erase m k)

/-- The two states agree on every register but the one at `A`. -/
def SameButAt (A : Nat) (s t : State) : Prop := ∀ a r, a ≠ A → t.word a r = s.word a r

theorem State.sameButAt_wr (s : State) (f : Fld) (v : Nat) : SameButAt f.addr s (s.wr f v) := fun _ _ ha =>
  congrArg BitVec.toNat (Store.get_put_ne _ _ _ _ ha)

theorem SameButAt.rd {A : Nat} {s t : State} (h : SameButAt A s t) {g : Fld} (hg : g.addr ≠ A) : t.rd g = s.rd g := by
  rw [State.rd, h _ _ hg, State.rd]

/-- One write made in both states. -/
theorem SameButAt.wr {A : Nat} {s t : State} (h : SameButAt A s t) (f : Fld) (v : Nat) : SameButAt A (s.wr f v) (t.wr f v) := by
  intro a r ha
  by_cases hf : a = f.addr
  · subst hf
    simp only [State.word, State.wr, Store.get_put_self]
    have hword := h _ f.rst ha
    simp only [State.word] at hword
    rw [hword]
  · have hs := s.sameButAt_wr f v a r hf
    have ht := t.sameButAt_wr f v a r hf
    rw [hs, ht, h a r ha]

/-- A field written once more with the value it holds is the field written once. -/
theorem State.wr_wr_self (s : State) (f : Fld) (v : Nat) : (s.wr f v).wr f ((s.wr f v).rd f) = s.wr f v := by
  have hword : (s.wr f v).word f.addr f.rst = (BitVec.ofNat 32 (putField (s.word f.addr f.rst) f.lo f.width v)).toNat := by
    rw [State.word, State.wr, Store.get_put_same]
  have hput : (s.wr f v).wr f ((s.wr f v).rd f) = { s.wr f v with
      regs := Store.put (BitVec.ofNat 32 f.rst) (s.wr f v).regs f.addr
        (BitVec.ofNat 32 (putField ((s.wr f v).word f.addr f.rst) f.lo f.width ((s.wr f v).rd f))) } := rfl
  rw [hput, State.rd, Arith.putField_field, hword, BitVec.ofNat_toNat, BitVec.setWidth_eq, State.wr, Store.put_put]

/-- R44: a repeat of an event leaves the one bit set. -/
theorem State.raise_raise (s : State) (n : Nat) : (s.raise n).raise n = s.raise n := by
  have hset : ((s.raise n).rd (R.PEND_BITS (n / 32))).testBit (n % 32) = true := s.linePending_raise n
  have hsame : (s.raise n).raise n = (s.raise n).wr (R.PEND_BITS (n / 32)) ((s.raise n).rd (R.PEND_BITS (n / 32))) := by
    conv_lhs => rw [State.raise, State.setBitAt, setBit, if_pos hset]
  rw [hsame, State.raise, State.setBitAt, State.wr_wr_self]

end Sys2Proof.Machine

open Sys2Proof Sys2Proof.Machine in
/-- Settles O51: the two cases of the queue. -/
theorem stepTakesTheFront : Obligations.StepTakesTheFront := by
  unfold Obligations.StepTakesTheFront
  constructor
  · intro s c l hq
    rw [step, hq]
  · intro s hq
    rw [step, hq]

open Sys2Proof Sys2Proof.Machine in
/-- Settles O52: no word is listed after reset, so every field reads its reset value. -/
theorem resetHoldsTheInvariant : Obligations.ResetHoldsTheInvariant := by
  unfold Obligations.ResetHoldsTheInvariant
  exact ⟨inv_reset, rfl, rfl, rfl, rfl, rfl, rfl, rfl, rfl, rd_reset, by decide⟩

open Sys2Proof Sys2Proof.Machine in
/-- Settles O59: the turn order counts upward from the token, and a filter of it keeps that order. -/
theorem turnTokenOrder : Obligations.TurnTokenOrder := by
  unfold Obligations.TurnTokenOrder
  intro n token req ht
  exact ⟨tokenGrant_eq_some ht req, tokenOrder_pairwise ht req, mem_tokenOrder ht req, fun _ => rfl⟩

open Sys2Proof Sys2Proof.Machine in
/-- Settles O60: an event is a write of its line's pending word with that one bit set. -/
theorem eventsSetOneBit : Obligations.EventsSetOneBit := by
  unfold Obligations.EventsSetOneBit
  intro s n hn
  refine ⟨s.linePending_raise n, s.raise_raise n, fun m _ hne => ?_, (RegsOnly.refl s).raise n, ?_⟩
  · rw [State.linePending_raise_eq, decide_eq_false hne, Bool.or_false]
  · exact (regFrame_raise List.mem_cons_self).mpr (regFrame_same s _)
end

section
/-!
O42 and O43, the Tally recorder (R598 to R612): its inlet, ring and freeze, its archive and its start.
-/
namespace Sys2Proof.Machine

open Sys2Proof.Arith

namespace State

/-! ### The inlet (R600, R603) -/

@[simp] theorem dropWaiting_inlet (s : State) (p : Nat) : (s.dropWaiting p).tly.inlet = s.tly.inlet := by
  unfold dropWaiting
  dsimp only
  split_ifs <;> rfl

@[simp] theorem dropWaiting_regs (s : State) (p : Nat) : (s.dropWaiting p).regs = s.regs := rfl

/-- R598: the stamps of an event come from the registers of the counters, the calendar and the freeze. -/
theorem stamp_congr {s t : State} (e : TlyEvent) (h : ∀ f ∈ [R.POH_S, R.PWR_CYCLES, R.CAL_MS_LO, R.CAL_MS_HI, R.FREEZE], t.rd f = s.rd f) :
    t.stamp e = s.stamp e := by
  simp only [List.forall_mem_cons] at h
  simp [stamp, calMs, flag, h]

/-- R600: the granted position's oldest event enters the inlet where it has room. -/
theorem inletCycle_of_room (s : State) {p : Nat} {e : TlyEvent} {l : List TlyEvent}
    (hgrant : tokenGrant 4 (s.rd R.INLET_TLY_TOKEN) s.inletReq = some p) (hwait : s.waiting p = e :: l)
    (hroom : s.tly.inlet.length < 16) :
    s.inletCycle.tly.inlet = s.tly.inlet ++ [s.stamp e] ∧ s.inletCycle.regs = (s.wr R.INLET_TLY_TOKEN ((p + 1) % 4)).regs := by
  have hstamp : ((s.wr R.INLET_TLY_TOKEN ((p + 1) % 4)).dropWaiting p).stamp e = s.stamp e := by
    refine stamp_congr e ?_
    simp (disch := decide) [rd_congr (dropWaiting_regs _ _), rd_wr_apart]
  have hwait' : (s.wr R.INLET_TLY_TOKEN ((p + 1) % 4)).waiting p = e :: l := hwait
  simp [inletCycle, hgrant, hwait', admitEvent, hroom, hstamp]

/-- R603: with no drop pending the head entry just leaves. -/
theorem leaveInlet_of_no_drop (s : State) (h : s.rd R.DROP_PEND = 0) :
    s.leaveInlet = { s with tly := { s.tly with inlet := s.tly.inlet.tail } } := by
  simp [leaveInlet, h]

/-! ### The ring (R601, R602) -/

@[simp] theorem archiveDemand_regs (s : State) : s.archiveDemand.regs = s.regs := by
  unfold archiveDemand
  split <;> rfl

@[simp] theorem archiveDemand_ring (s : State) : s.archiveDemand.tly.ring = s.tly.ring := by
  unfold archiveDemand
  split <;> rfl

@[simp] theorem archiveDemand_inlet (s : State) : s.archiveDemand.tly.inlet = s.tly.inlet := by
  unfold archiveDemand
  split <;> rfl

@[simp] theorem archiveDemand_archive (s : State) : s.archiveDemand.tly.archive = s.tly.archive := by
  unfold archiveDemand
  split <;> rfl

@[simp] theorem rd_archiveDemand (s : State) (f : Fld) : s.archiveDemand.rd f = s.rd f := rd_congr s.archiveDemand_regs f

@[simp] theorem regFrame_archiveDemand {s t : State} {l : List Fld} : RegFrame s t.archiveDemand l ↔ RegFrame s t l :=
  regFrame_congr t.archiveDemand_regs

/-- A record put in the ring at `i`, the last one; the archive is asked where that makes 128. -/
def ringed (s : State) (i : Nat) (r : TlyRec) : State :=
  let t := { s with tly := { s.tly with ring := Store.put none s.tly.ring i (some ⟨r, .waiting⟩), last := some i } }
  ((t.advance R.NEXT_SEQ).advance R.RING_HEAD).archiveDemand

@[simp] theorem ringed_inlet (s : State) (i : Nat) (r : TlyRec) : (s.ringed i r).tly.inlet = s.tly.inlet := by
  simp -implicitDefEqProofs [ringed]

@[simp] theorem ringed_archive (s : State) (i : Nat) (r : TlyRec) : (s.ringed i r).tly.archive = s.tly.archive := by
  simp -implicitDefEqProofs [ringed]

theorem ringed_ring (s : State) (i : Nat) (r : TlyRec) :
    (s.ringed i r).tly.ring = Store.put none s.tly.ring i (some ⟨r, .waiting⟩) := by
  simp -implicitDefEqProofs [ringed]

theorem ringAt_ringed (s : State) (i : Nat) (r : TlyRec) : (s.ringed i r).ringAt i = some ⟨r, .waiting⟩ := by
  rw [ringAt, ringed_ring, Store.get_put_same]

theorem rd_ringed_nextSeq (s : State) (i : Nat) (r : TlyRec) :
    (s.ringed i r).rd R.NEXT_SEQ = (s.rd R.NEXT_SEQ + 1) % 2 ^ R.NEXT_SEQ.width := by
  rw [ringed, rd_archiveDemand, rd_advance_apart _ _ _ _ (by decide), rd_advance_same _ _ _ (by decide), rd_update]

theorem rd_ringed_ringHead (s : State) (i : Nat) (r : TlyRec) :
    (s.ringed i r).rd R.RING_HEAD = (s.rd R.RING_HEAD + 1) % 2 ^ R.RING_HEAD.width := by
  rw [ringed, rd_archiveDemand, rd_advance_same _ _ _ (by decide), rd_advance_apart _ _ _ _ (by decide), rd_update]

theorem regFrame_ringed (s : State) (i : Nat) (r : TlyRec) : RegFrame s (s.ringed i r) [R.NEXT_SEQ, R.RING_HEAD] := by
  simp -implicitDefEqProofs [ringed]

/-- R606: the record at RING_HEAD about to be overwritten; one not yet copied is lost from the archive. -/
def overwriting (s : State) : State :=
  match s.ringAt (s.rd R.RING_HEAD) with
  | some r => if r.arch = .waiting then (s.count R.ARCH_LOST_CNT).raise 188 else s
  | none => s

theorem rd_overwriting (s : State) (f : Fld) (h : ∀ g ∈ [R.ARCH_LOST_CNT, R.PEND_BITS 5], g.apart f = true) :
    s.overwriting.rd f = s.rd f := by
  simp only [List.forall_mem_cons] at h
  obtain ⟨hcnt, hpend, -⟩ := h
  rw [overwriting]
  split
  · split
    · rw [rd_raise _ _ _ hpend, rd_count_apart _ _ _ _ hcnt]
    · rfl
  · rfl

theorem overwriting_tly (s : State) : s.overwriting.tly = s.tly := by
  unfold overwriting
  split
  · split <;> simp -implicitDefEqProofs
  · rfl

/-- R601: a record committed at RING_HEAD. -/
theorem commitRecord_eq (s : State) (e : TlyEvent) (hkind : e.kind ≠ 4) :
    s.commitRecord e = s.overwriting.ringed (s.rd R.RING_HEAD) { seq := s.overwriting.rd R.NEXT_SEQ, ev := e, repeats := 0 } := by
  simp only [commitRecord, if_neg hkind]
  rfl

/-- R601: a record committed to a free slot. -/
theorem commitRecord_of_free (s : State) (e : TlyEvent) (hfree : s.ringAt (s.rd R.RING_HEAD) = none) (hkind : e.kind ≠ 4) :
    s.commitRecord e = s.ringed (s.rd R.RING_HEAD) { seq := s.rd R.NEXT_SEQ, ev := e, repeats := 0 } := by
  have hsame : s.overwriting = s := by rw [overwriting, hfree]
  rw [s.commitRecord_eq e hkind, hsame]

theorem rd_commitRecord (s : State) (e : TlyEvent) (hkind : e.kind ≠ 4) (f : Fld)
    (h : ∀ g ∈ [R.ARCH_LOST_CNT, R.PEND_BITS 5, R.NEXT_SEQ, R.RING_HEAD], g.apart f = true) : (s.commitRecord e).rd f = s.rd f := by
  simp only [List.forall_mem_cons] at h
  obtain ⟨hcnt, hpend, hseq, hhead, -⟩ := h
  rw [s.commitRecord_eq e hkind, regFrame_ringed _ _ _ f (by simp [hseq, hhead]), rd_overwriting s f (by simp [hcnt, hpend])]

/-- A commit leaves what waits for TLY_READY or for the end of a freeze. -/
theorem commitRecord_waits (s : State) (e : TlyEvent) (hkind : e.kind ≠ 4) : (s.commitRecord e).tly.flushWait = s.tly.flushWait
    ∧ (s.commitRecord e).tly.eraseCut = s.tly.eraseCut ∧ (s.commitRecord e).tly.clearWait = s.tly.clearWait := by
  have hdemand : ∀ u : State, u.archiveDemand.tly.flushWait = u.tly.flushWait ∧ u.archiveDemand.tly.eraseCut = u.tly.eraseCut
      ∧ u.archiveDemand.tly.clearWait = u.tly.clearWait := fun u => by
    unfold archiveDemand
    split <;> simp
  rw [s.commitRecord_eq e hkind, ringed]
  simp -implicitDefEqProofs [hdemand, overwriting_tly]

/-- R602: a ring record that has been repeated once more. -/
def repeated (r : RingSlot) : RingSlot := { r with record := { r.record with repeats := min 65535 (r.record.repeats + 1) } }

/-- R602: the repeat of the last record. -/
theorem applyRepeat_of_last (s : State) {i : Nat} {r : RingSlot} (hlast : s.tly.last = some i) (hr : s.ringAt i = some r) :
    s.applyRepeat = { s with tly.ring := Store.put none s.tly.ring i (some (repeated r)) } := by
  simp [applyRepeat, hlast, hr, satAdd, repeated]

/-! ### Freezing and clearing (R604, R610) -/

theorem unfreeze_of_no_clear (s : State) (h : s.tly.clearWait = none) : s.unfreeze = (s.wr R.FREEZE 0).wr R.FROZEN 0 := by
  simp [unfreeze, h]

/-- R610: a record committed to the emptied ring. -/
theorem commitRecord_of_cleared (s : State) (e : TlyEvent) (hring : s.tly.ring = []) (hhead : s.rd R.RING_HEAD = 0) (hkind : e.kind ≠ 4) :
    s.commitRecord e = s.ringed 0 { seq := s.rd R.NEXT_SEQ, ev := e, repeats := 0 } := by
  have hfree : s.ringAt (s.rd R.RING_HEAD) = none := by rw [ringAt, hring, Store.get]
  rw [s.commitRecord_of_free e hfree hkind, hhead]

/-- The state in which a clear commits its record: the ring and the inlet are empty. -/
def cleared (s : State) : State :=
  ({ s with tly := { s.tly with ring := [], inlet := [], last := none, clearWait := none } }).wr R.RING_HEAD 0

/-- The record a clear of code `c` commits. -/
def clearedRec (s : State) (c : Nat) : TlyRec :=
  { seq := s.cleared.rd R.NEXT_SEQ, repeats := 0
    ev := s.cleared.stamp { kind := 5, source := 0, code := c, detail := s.tly.ring.length } }

/-- R610: the ring with the CLEARED record alone. -/
def reringed (s : State) (c : Nat) : State := s.cleared.ringed 0 (s.clearedRec c)

theorem rd_cleared_ringHead (s : State) : s.cleared.rd R.RING_HEAD = 0 := by
  rw [cleared, rd_wr_same _ _ _ (by decide), Nat.zero_mod]

theorem runClear_eq (s : State) (c : Nat) :
    s.runClear c = if c = 2 then (s.reringed c).startErase else (s.reringed c).raise 189 := by
  have hcommit := s.cleared.commitRecord_of_cleared
    (s.cleared.stamp { kind := 5, source := 0, code := c, detail := s.tly.ring.length }) rfl s.rd_cleared_ringHead
    (by simp [stamp])
  rw [reringed, clearedRec, ← hcommit]
  rfl

theorem rd_reringed_ringHead (s : State) (c : Nat) : (s.reringed c).rd R.RING_HEAD = 1 := by
  rw [reringed, rd_ringed_ringHead, rd_cleared_ringHead]
  decide

theorem rd_reringed_clearBusy (s : State) (c : Nat) : (s.reringed c).rd R.CLEAR_BUSY = s.rd R.CLEAR_BUSY := by
  simp -implicitDefEqProofs (disch := decide) [reringed, ringed, cleared, rd_advance_apart, rd_wr_apart]

theorem reringed_ring (s : State) (c : Nat) : (s.reringed c).tly.ring.map (fun e => e.1) = [0] := by
  have hring : s.cleared.tly.ring = [] := rfl
  rw [reringed, ringed_ring, hring]
  rfl

@[simp] theorem reringed_inlet (s : State) (c : Nat) : (s.reringed c).tly.inlet = [] := ringed_inlet _ _ _

@[simp] theorem reringed_archive (s : State) (c : Nat) : (s.reringed c).tly.archive = s.tly.archive := ringed_archive _ _ _

/-- R607: a flush that completes at once changes two registers of the flush and line 185. -/
theorem rd_flushNow (s : State) (f : Fld) (h : ∀ g ∈ [R.FLUSH_DONE, R.FLUSH_BUSY, R.PEND_BITS 5], g.apart f = true) :
    s.flushNow.rd f = s.rd f := by
  simp only [List.forall_mem_cons] at h
  obtain ⟨hdone, hbusy, hpend, -⟩ := h
  rw [flushNow, rd_raise _ _ _ hpend, rd_wr_apart _ _ _ _ hbusy, rd_wr_apart _ _ _ _ hdone, rd_update]

theorem flushNow_tly (s : State) : s.flushNow.tly = { s.tly with last := none } := by
  simp -implicitDefEqProofs [flushNow]

theorem startErase_kept_tly (s : State) :
    s.startErase.tly.ring = s.tly.ring ∧ s.startErase.tly.inlet = s.tly.inlet ∧ s.startErase.tly.archive = s.tly.archive := by
  unfold startErase
  dsimp only
  split <;> simp -implicitDefEqProofs [flushNow_tly]

theorem flag_startErase_clearBusy (s : State) : s.startErase.flag R.CLEAR_BUSY = true := by
  unfold startErase flag
  dsimp only
  split
  · rw [rd_flushNow _ _ (by decide), rd_wr_same _ _ _ (by decide)]
    decide
  · rw [rd_wr_same _ _ _ (by decide)]
    decide

theorem rd_startErase_ringHead (s : State) : s.startErase.rd R.RING_HEAD = s.rd R.RING_HEAD := by
  unfold startErase
  dsimp only
  split
  · rw [rd_flushNow _ _ (by decide), rd_wr_apart _ _ _ _ (by decide), rd_update]
  · rw [rd_wr_apart _ _ _ _ (by decide), rd_update]

/-! ### The archive (R606 to R608) -/

@[simp] theorem markRing_regs (s : State) (l : List Nat) (a : ArchState) : (s.markRing l a).regs = s.regs := rfl

/-- R606: a program that carries records. -/
theorem programStart_of_candidates (s : State) (h : s.programCandidates ≠ []) :
    s.programStart.tly.programBusy = true ∧ s.programStart.tly.programRecs = s.programCandidates
      ∧ s.programStart.regs = s.regs := by
  have hne : s.programCandidates.isEmpty = false := by simpa using h
  simp [programStart, hne]

/-- R606: one record archived within its sector. -/
theorem archiveOne_within (s : State) (r : TlyRec) (h : (s.rd R.ARCH_SLOT + 1) % 2048 ≠ 0) :
    s.archiveOne r = ({ s with tly := { s.tly with archive := Store.put none s.tly.archive (s.rd R.ARCH_SLOT) (some r) } }).wr
      R.ARCH_SLOT ((s.rd R.ARCH_SLOT + 1) % 524288) := by
  have hsector : (s.rd R.ARCH_SLOT + 1) % 524288 % 2048 = (s.rd R.ARCH_SLOT + 1) % 2048 := Nat.mod_mod_of_dvd _ (by decide)
  rw [archiveOne]
  exact if_neg (by rw [hsector]; exact h)

/-- R607: a flush that asks the archive for every record. -/
theorem tallyFlushStart_of_ready (s : State) (hready : s.flag R.TLY_READY = true) (hpf : s.flag R.PF_ACTIVE = false)
    (hclear : s.flag R.CLEAR_BUSY = false) :
    s.tallyFlushStart = ({ s with tly := { s.tly with last := none, archiveRequest := true } }).wr R.FLUSH_BUSY 1 := by
  rw [tallyFlushStart, if_pos hready, if_neg (by simp [hpf, hclear])]

theorem tallyFw_regs (s : State) (e : TlyEvent) : (s.tallyFw e).regs = s.regs := rfl

/-! ### LIFE groups (R612) -/

/-- R612: the records of a LIFE group wait at TLY's own position; no register changes. -/
theorem lifeGroup_eq (s : State) : ∃ l : List TlyEvent, l.length = 12
    ∧ s.lifeGroup = { s with tly := { s.tly with waitOwn := s.tly.waitOwn ++ l, lifePoh := s.rd R.POH_S } } := by
  refine ⟨(List.range 12).map fun i => { kind := 8, source := i, code := 0, detail := s.lifeValue i }, rfl, ?_⟩
  simp [lifeGroup, List.range_succ, tallyOwn, lifeValue, lifeFields]

/-- A LIFE group leaves what waits for TLY_READY or for the end of a freeze. -/
theorem lifeGroup_waits (s : State) : s.lifeGroup.tly.flushWait = s.tly.flushWait
    ∧ s.lifeGroup.tly.eraseCut = s.tly.eraseCut ∧ s.lifeGroup.tly.clearWait = s.tly.clearWait := by
  obtain ⟨l, -, hgroup⟩ := s.lifeGroup_eq
  rw [hgroup]
  exact ⟨rfl, rfl, rfl⟩

theorem rd_lifeGroup (s : State) (f : Fld) : s.lifeGroup.rd f = s.rd f := by
  obtain ⟨l, -, hgroup⟩ := s.lifeGroup_eq
  rw [hgroup, rd_update]

theorem ringAt_lifeGroup (s : State) (i : Nat) : s.lifeGroup.ringAt i = s.ringAt i := by
  obtain ⟨l, -, hgroup⟩ := s.lifeGroup_eq
  rw [hgroup]
  rfl

/-! ### Start (R608) -/

/-- NEXT_SEQ and ARCH_SLOT restart from 0 where nothing is archived and no image waits; TLY is ready to commit. -/
def readied (s : State) : State :=
  ((({ s with tly := { s.tly with imageRecs := [] } }).wr R.NEXT_SEQ 0).wr R.ARCH_SLOT 0).wr R.TLY_READY 1

theorem readied_waits (s : State) : s.readied.tly.flushWait = s.tly.flushWait ∧ s.readied.tly.eraseCut = s.tly.eraseCut
    ∧ s.readied.tly.clearWait = s.tly.clearWait := by
  simp -implicitDefEqProofs [readied]

/-- R608: the POWER_ON event's code and detail. -/
def powerOnEvent (s : State) : TlyEvent :=
  { kind := 3, source := 0, code := s.word 0x40430120 1 % 2 ^ 16, detail := s.word 0x40500000 R.FAIL_A.rst }

/-- R608: with nothing archived and no image, TLY_READY commits the POWER_ON record as the first, and the LIFE group follows. -/
theorem tallyReady_eq (s : State) (harch : s.archiveRecs = []) (himg : s.imageTally = []) (hwarm : s.flag R.RC_AON_POR = false)
    (hflush : s.tly.flushWait = false) (herase : s.tly.eraseCut = false) (hclear : s.tly.clearWait = none) :
    s.tallyReady = (s.readied.commitRecord (s.readied.stamp s.readied.powerOnEvent)).lifeGroup := by
  have hkind : (s.readied.stamp s.readied.powerOnEvent).kind ≠ 4 := by simp [stamp, powerOnEvent]
  have hcause : (s.readied.commitRecord (s.readied.stamp s.readied.powerOnEvent)).flag R.RC_AON_POR = false := by
    rw [flag, rd_commitRecord _ _ hkind _ (by decide), ← hwarm]
    simp -implicitDefEqProofs (disch := decide) [readied, rd_wr_apart, flag]
  obtain ⟨hflush', herase', hclear'⟩ := s.readied.commitRecord_waits _ hkind
  obtain ⟨hflush'', herase'', hclear''⟩ := s.readied_waits
  rw [hflush'', hflush] at hflush'
  rw [herase'', herase] at herase'
  rw [hclear'', hclear] at hclear'
  unfold tallyReady
  rw [harch, himg]
  extract_lets -merge arch img top newer next slot recs tly ready ready' committed restored grouped erased tly' flushed
  have hcommitted : committed = s.readied.commitRecord (s.readied.stamp s.readied.powerOnEvent) := rfl
  rw [← hcommitted] at hcause hflush' herase' hclear' ⊢
  obtain ⟨hgflush, hgerase, hgclear⟩ := committed.lifeGroup_waits
  clear_value committed
  have hrestored : restored = committed := if_neg (by simp [hcause])
  have hgrouped : grouped = committed.lifeGroup := by rw [← hrestored]
  clear_value grouped
  have herased : erased = grouped := if_neg (by simp [hgrouped, hgerase, herase'])
  clear_value erased
  have hflushed : flushed = erased := if_neg (by simp [herased, hgrouped, hgflush, hflush'])
  have hnone : flushed.tly.clearWait = none := by rw [hflushed, herased, hgrouped, hgclear, hclear']
  rw [hnone, hflushed, herased, hgrouped]

end State

/-! ### The commands of the inlet, the ring and the freeze -/

theorem exec_tallyInletAdmit (s : State) : exec .tallyInletAdmit s = .next s.inletCycle := rfl

theorem exec_tallyCommit (s : State) {e : TlyEvent} {l : List TlyEvent} (hinlet : s.tly.inlet = e :: l)
    (hmay : s.mayCommit = true) (hrepeat : s.isRepeat e = false) :
    exec .tallyCommit s = .next (s.leaveInlet.commitRecord e) := by
  change execTallyCommit s = _
  simp [execTallyCommit, hinlet, hmay, hrepeat]

theorem exec_tallyRepeat (s : State) {e : TlyEvent} {l : List TlyEvent} (hinlet : s.tly.inlet = e :: l)
    (hmay : s.mayCommit = true) (hrepeat : s.isRepeat e = true) :
    exec .tallyRepeat s = .next s.applyRepeat.leaveInlet := by
  change execTallyRepeat s = _
  simp [execTallyRepeat, hinlet, hmay, hrepeat]

theorem exec_tallyFreeze (s : State) (h : s.reachable R.FREEZE.addr = true) :
    exec .tallyFreeze s = .next ((s.granting.wr R.FREEZE 1).wr R.FROZEN 1) :=
  congrArg Host.Outcome.next (s.access_of_reachable R.FREEZE _ h)

theorem exec_tallyUnfreeze (s : State) (h : s.reachable R.FREEZE.addr = true) :
    exec .tallyUnfreeze s = .next s.granting.unfreeze :=
  congrArg Host.Outcome.next (s.access_of_reachable R.FREEZE _ h)

theorem exec_tallyFreezeTimeout (s : State) (h : s.flag R.FREEZE = true) :
    exec .tallyFreezeTimeout s = .next ((s.unfreeze.wr R.FREEZE_TIMEOUT 1).raise 186) :=
  congrArg Host.Outcome.next (if_pos h)

theorem exec_tallyClear (s : State) (b : Bool) (hfreeze : s.flag R.FREEZE = false) (hready : s.flag R.TLY_READY = true) :
    exec (.tallyClear b) s = .next (s.runClear (if b then 2 else 1)) := by
  change execTallyClear b s = _
  simp [execTallyClear, hfreeze, hready]

/-! ### The commands of the archive -/

theorem exec_tallyArchiveTimeout (s : State) (h : s.ringWaiting ≠ 0) :
    exec .tallyArchiveTimeout s = .next { s with tly := { s.tly with archiveRequest := true } } :=
  congrArg Host.Outcome.next (if_neg fun hnone => h hnone.1)

theorem exec_tallyArchiveProgram (s : State) (hready : s.flag R.TLY_READY = true) (hask : s.tly.archiveRequest = true)
    (hidle : s.tly.programBusy = false) (hpf : s.flag R.PF_ACTIVE = false) (hclear : s.flag R.CLEAR_BUSY = false) :
    exec .tallyArchiveProgram s = .next s.programStart :=
  congrArg Host.Outcome.next (if_pos (by simp [hready, hask, hidle, hpf, hclear]))

theorem exec_tallyProgramComplete (s : State) (ok : Bool) (h : s.tly.programBusy = true) :
    exec (.tallyProgramComplete ok) s = .next (s.programEnd ok) :=
  congrArg Host.Outcome.next (if_pos h)

theorem exec_tallyFlush (s : State) (h : s.reachable R.FLUSH_REQ.addr = true) :
    exec .tallyFlush s = .next s.granting.tallyFlushStart :=
  congrArg Host.Outcome.next (s.access_of_reachable R.FLUSH_REQ _ h)

theorem exec_tallyFlushDone (s : State) (hbusy : s.flag R.FLUSH_BUSY = true) (hall : s.allArchived = true) :
    exec .tallyFlushDone s = .next (((s.wr R.FLUSH_BUSY 0).wr R.FLUSH_DONE 1).raise 185) :=
  congrArg Host.Outcome.next (if_pos (by simp [hbusy, hall]))

theorem exec_tallyReady (s : State) (hready : s.flag R.TLY_READY = false) (hcore : s.dom.core = true) :
    exec .tallyReady s = .next s.tallyReady :=
  congrArg Host.Outcome.next (if_neg (by simp [hready, hcore]))

theorem exec_tallyClearDone (s : State) (h : s.flag R.CLEAR_BUSY = true) :
    exec .tallyClearDone s = .next (((({ s with tly := { s.tly with archive := [], eraseCut := false, archiveRequest := true } }).wr
      R.CLEAR_BUSY 0).wr R.ARCH_SLOT 0).raise 189) :=
  congrArg Host.Outcome.next (if_pos h)

theorem exec_lifeGroupTimer (s : State) (h : s.tly.lifePoh + 28800 ≤ s.rd R.POH_S) :
    exec .lifeGroupTimer s = .next s.lifeGroup :=
  congrArg Host.Outcome.next (if_pos h)

theorem exec_fwEvtGo (s : State) (h : s.reachable R.FW_EVT_GO.addr = true) :
    exec .fwEvtGo s = .next (s.granting.tallyFw
      { kind := 7, source := s.granting.rd R.FW_SRC, code := s.granting.rd R.FW_CODE, detail := s.granting.rd R.FW_DETAIL }) :=
  congrArg Host.Outcome.next (s.access_of_reachable R.FW_EVT_GO _ h)

/-! ### What they leave -/

/-- R601: the head entry committed to a free slot of the ring. -/
theorem tallyCommit_completes (s : State) {e : TlyEvent} {l : List TlyEvent} (hinlet : s.tly.inlet = e :: l)
    (hmay : s.mayCommit = true) (hrepeat : s.isRepeat e = false) (hdrop : s.rd R.DROP_PEND = 0)
    (hfree : s.ringAt (s.rd R.RING_HEAD) = none) (hkind : e.kind ≠ 4) : Completes (exec .tallyCommit s) fun t =>
      t.tly.inlet = l ∧ t.ringAt (s.rd R.RING_HEAD) = some ⟨{ seq := s.rd R.NEXT_SEQ, ev := e, repeats := 0 }, .waiting⟩
        ∧ t.rd R.NEXT_SEQ = (s.rd R.NEXT_SEQ + 1) % 2 ^ R.NEXT_SEQ.width
        ∧ t.rd R.RING_HEAD = (s.rd R.RING_HEAD + 1) % 2 ^ R.RING_HEAD.width ∧ RegFrame s t [R.NEXT_SEQ, R.RING_HEAD] := by
  rw [exec_tallyCommit s hinlet hmay hrepeat, s.leaveInlet_of_no_drop hdrop, hinlet, List.tail_cons]
  have hrd : ∀ f : Fld, State.rd { s with tly := { s.tly with inlet := l } } f = s.rd f := fun _ => rfl
  rw [State.commitRecord_of_free _ e (by rw [hrd]; exact hfree) hkind, hrd, hrd]
  refine .next ⟨State.ringed_inlet .., State.ringAt_ringed .., ?_, ?_, ?_⟩
  · rw [State.rd_ringed_nextSeq, hrd]
  · rw [State.rd_ringed_ringHead, hrd]
  · exact RegFrame.trans (t := { s with tly := { s.tly with inlet := l } }) (fun _ _ => rfl) (State.regFrame_ringed _ _ _)

/-- R602: the head entry repeats the last record. -/
theorem tallyRepeat_completes (s : State) {e : TlyEvent} {l : List TlyEvent} {i : Nat} {r : RingSlot} (hinlet : s.tly.inlet = e :: l)
    (hmay : s.mayCommit = true) (hrepeat : s.isRepeat e = true) (hdrop : s.rd R.DROP_PEND = 0) (hlast : s.tly.last = some i)
    (hr : s.ringAt i = some r) : Completes (exec .tallyRepeat s) fun t =>
      t.tly.inlet = l ∧ t.regs = s.regs ∧ t.ringAt i = some (State.repeated r) := by
  have happly := s.applyRepeat_of_last hlast hr
  have hdrop' : s.applyRepeat.rd R.DROP_PEND = 0 := by rw [happly]; exact hdrop
  rw [exec_tallyRepeat s hinlet hmay hrepeat, State.leaveInlet_of_no_drop _ hdrop', happly]
  refine .next ⟨congrArg List.tail hinlet, rfl, ?_⟩
  simp [State.ringAt]

/-- R604, R610: a clear with no freeze in force. -/
theorem tallyClear_completes (s : State) (b : Bool) (hfreeze : s.flag R.FREEZE = false) (hready : s.flag R.TLY_READY = true) :
    Completes (exec (.tallyClear b) s) fun t => t.tly.inlet = [] ∧ t.rd R.RING_HEAD = 1 ∧ t.tly.ring.map (fun e => e.1) = [0]
      ∧ t.flag R.CLEAR_BUSY = (b || s.flag R.CLEAR_BUSY) ∧ (b = false → t.linePending 189 = true)
      ∧ t.tly.archive = s.tly.archive := by
  rw [exec_tallyClear s b hfreeze hready, s.runClear_eq]
  cases b with
  | true =>
    obtain ⟨hring, hinlet, harch⟩ := (s.reringed 2).startErase_kept_tly
    refine .next ⟨?_, ?_, ?_, ?_, by simp, ?_⟩ <;> simp only [if_true]
    · rw [hinlet, State.reringed_inlet]
    · rw [State.rd_startErase_ringHead, State.rd_reringed_ringHead]
    · rw [hring, State.reringed_ring]
    · rw [State.flag_startErase_clearBusy, Bool.true_or]
    · rw [harch, State.reringed_archive]
  | false =>
    refine .next ⟨?_, ?_, ?_, ?_, fun _ => ?_, ?_⟩ <;> simp only [Bool.false_eq_true, if_false, OfNat.one_ne_ofNat]
    · rw [State.raise_tly, State.reringed_inlet]
    · rw [State.rd_raise _ _ _ (by decide), State.rd_reringed_ringHead]
    · rw [State.raise_tly, State.reringed_ring]
    · rw [State.flag, State.rd_raise _ _ _ (by decide), State.rd_reringed_clearBusy, Bool.false_or, State.flag]
    · exact State.linePending_raise ..
    · rw [State.raise_tly, State.reringed_archive]

/-- R606: a program of one record within its sector ends well. -/
theorem tallyProgramComplete_completes (s : State) {r : TlyRec} (hbusy : s.tly.programBusy = true) (hrecs : s.tly.programRecs = [r])
    (hwithin : (s.rd R.ARCH_SLOT + 1) % 2048 ≠ 0) : Completes (exec (.tallyProgramComplete true) s) fun t =>
      t.tly.programBusy = false ∧ t.tly.programRecs = [] ∧ Store.get none t.tly.archive (s.rd R.ARCH_SLOT) = some r
        ∧ t.rd R.ARCH_SLOT = (s.rd R.ARCH_SLOT + 1) % 524288 ∧ RegFrame s t [R.ARCH_SLOT] := by
  rw [exec_tallyProgramComplete s true hbusy]
  simp only [State.programEnd, hrecs, List.foldl_cons, List.foldl_nil, if_true]
  rw [State.archiveOne_within { s with tly := { s.tly with programRecs := [], programBusy := false } } r hwithin, State.rd_update]
  refine .next ⟨?_, ?_, ?_, ?_, ?_⟩
  · simp -implicitDefEqProofs [State.markRing]
  · simp -implicitDefEqProofs [State.markRing]
  · simp -implicitDefEqProofs [State.markRing]
  · rw [State.rd_congr (State.markRing_regs ..), State.rd_wr_same _ _ _ (by decide)]
    exact Nat.mod_mod _ _
  · rw [regFrame_congr (State.markRing_regs ..)]
    simp -implicitDefEqProofs

/-- R608: TLY becomes ready with nothing archived. -/
theorem tallyReady_completes (s : State) (hready : s.flag R.TLY_READY = false) (hcore : s.dom.core = true)
    (harch : s.archiveRecs = []) (himg : s.imageTally = []) (hwarm : s.flag R.RC_AON_POR = false)
    (hflush : s.tly.flushWait = false) (herase : s.tly.eraseCut = false) (hclear : s.tly.clearWait = none) :
    Completes (exec .tallyReady s) fun t => t.flag R.TLY_READY = true ∧ t.rd R.NEXT_SEQ = 1 ∧ t.rd R.ARCH_SLOT = 0
      ∧ (∃ r, t.ringAt (s.rd R.RING_HEAD) = some r ∧ r.record.seq = 0 ∧ r.record.ev.kind = 3) := by
  have hkind : (s.readied.stamp s.readied.powerOnEvent).kind = 3 := rfl
  have hkind' : (s.readied.stamp s.readied.powerOnEvent).kind ≠ 4 := by rw [hkind]; decide
  have hseq : s.readied.overwriting.rd R.NEXT_SEQ = 0 := by
    rw [State.rd_overwriting _ _ (by decide)]
    simp -implicitDefEqProofs (disch := decide) [State.readied, State.rd_wr_apart, State.rd_wr_same]
  have hhead : s.readied.rd R.RING_HEAD = s.rd R.RING_HEAD := by
    simp -implicitDefEqProofs (disch := decide) [State.readied, State.rd_wr_apart]
  rw [exec_tallyReady s hready hcore, s.tallyReady_eq harch himg hwarm hflush herase hclear]
  refine .next ⟨?_, ?_, ?_, ?_⟩
  · rw [State.flag, State.rd_lifeGroup, State.rd_commitRecord _ _ hkind' _ (by decide), State.readied, State.rd_wr_same _ _ _ (by decide)]
    decide
  · rw [State.rd_lifeGroup, State.commitRecord_eq _ _ hkind', State.rd_ringed_nextSeq, hseq]
    decide
  · rw [State.rd_lifeGroup, State.rd_commitRecord _ _ hkind' _ (by decide)]
    simp -implicitDefEqProofs (disch := decide) [State.readied, State.rd_wr_apart, State.rd_wr_same]
  · rw [State.ringAt_lifeGroup, State.commitRecord_eq _ _ hkind', hhead]
    exact ⟨_, State.ringAt_ringed .., hseq, hkind⟩

end Sys2Proof.Machine

open Sys2Proof Sys2Proof.Machine in
/-- Settles O42: the equation of each command, and what its operations leave. -/
theorem tallyRecordsComplete : Obligations.TallyRecordsComplete := by
  unfold Obligations.TallyRecordsComplete
  refine ⟨fun s p e l hgrant hwait hroom => ?_, fun s e l hinlet hmay hrepeat hdrop hfree hkind =>
    tallyCommit_completes s hinlet hmay hrepeat hdrop hfree hkind, fun s e l i r hinlet hmay hrepeat hdrop hlast hr =>
    tallyRepeat_completes s hinlet hmay hrepeat hdrop hlast hr, fun s hreach => ?_, fun s hreach hclear => ?_,
    fun s hfreeze hclear => ?_, tallyClear_completes⟩
  · obtain ⟨hinlet, hregs⟩ := s.inletCycle_of_room hgrant hwait hroom
    rw [exec_tallyInletAdmit]
    refine .next ⟨hinlet, ?_, (regFrame_congr hregs).mpr (by simp -implicitDefEqProofs)⟩
    rw [State.rd_congr hregs, State.rd_wr_same _ _ _ (by decide)]
    exact Nat.mod_mod _ _
  · rw [exec_tallyFreeze s hreach]
    refine .next ⟨?_, ?_, (((RegsOnly.refl s).wr _ _).wr _ _).wr _ _, by simp -implicitDefEqProofs⟩
    all_goals simp -implicitDefEqProofs (disch := decide) [State.rd_wr_apart, State.rd_wr_same]
  · rw [exec_tallyUnfreeze s hreach, s.granting.unfreeze_of_no_clear (by rw [State.wr_tly, hclear])]
    refine .next ⟨?_, ?_, (((RegsOnly.refl s).wr _ _).wr _ _).wr _ _, by simp -implicitDefEqProofs⟩
    all_goals simp -implicitDefEqProofs (disch := decide) [State.rd_wr_apart, State.rd_wr_same]
  · rw [exec_tallyFreezeTimeout s hfreeze, s.unfreeze_of_no_clear hclear]
    refine .next ⟨?_, ?_, ?_, State.linePending_raise .., ((((RegsOnly.refl s).wr _ _).wr _ _).wr _ _).raise _⟩
    all_goals simp -implicitDefEqProofs (disch := decide) [State.rd_raise, State.rd_wr_apart, State.rd_wr_same]

open Sys2Proof Sys2Proof.Machine in
/-- Settles O43: the equation of each command, and what its operations leave. -/
theorem tallyArchiveCompletes : Obligations.TallyArchiveCompletes := by
  unfold Obligations.TallyArchiveCompletes
  refine ⟨exec_tallyArchiveTimeout, fun s hready hask hidle hpf hclear hcand => ?_, fun s r hbusy hrecs hwithin =>
    tallyProgramComplete_completes s hbusy hrecs hwithin, fun s hreach hready hpf hclear => ?_, fun s hbusy hall => ?_,
    tallyReady_completes, fun s hclear => ?_, fun s hpoh => ?_, fun s hreach => ?_⟩
  · rw [exec_tallyArchiveProgram s hready hask hidle hpf hclear]
    exact .next (s.programStart_of_candidates hcand)
  · have hready' : s.granting.flag R.TLY_READY = true := (State.flag_wr_apart _ _ _ _ (by decide)).trans hready
    have hpf' : s.granting.flag R.PF_ACTIVE = false := (State.flag_wr_apart _ _ _ _ (by decide)).trans hpf
    have hclear' : s.granting.flag R.CLEAR_BUSY = false := (State.flag_wr_apart _ _ _ _ (by decide)).trans hclear
    rw [exec_tallyFlush s hreach, State.tallyFlushStart_of_ready _ hready' hpf' hclear']
    refine .next ⟨?_, ?_, by simp -implicitDefEqProofs⟩
    · simp -implicitDefEqProofs (disch := decide) [State.flag_wr_same]
    · simp -implicitDefEqProofs
  · rw [exec_tallyFlushDone s hbusy hall]
    refine .next ⟨?_, ?_, State.linePending_raise .., (((RegsOnly.refl s).wr _ _).wr _ _).raise _, by simp -implicitDefEqProofs⟩
    all_goals simp -implicitDefEqProofs (disch := decide) [State.flag, State.rd_raise, State.rd_wr_apart, State.rd_wr_same]
  · rw [exec_tallyClearDone s hclear]
    refine .next ⟨?_, ?_, ?_, State.linePending_raise .., by simp -implicitDefEqProofs⟩
    all_goals simp -implicitDefEqProofs (disch := decide) [State.flag, State.rd_raise, State.rd_wr_apart, State.rd_wr_same]
  · obtain ⟨l, hlen, hgroup⟩ := s.lifeGroup_eq
    rw [exec_lifeGroupTimer s hpoh, hgroup]
    exact .next ⟨by simp [hlen], rfl, rfl⟩
  · rw [exec_fwEvtGo s hreach]
    refine .next ⟨?_, State.tallyFw_regs ..⟩
    simp -implicitDefEqProofs (disch := decide) [State.tallyFw, State.rd_wr_apart]
end

section
/-!
O39, the accesses of the DRAM (R535 to R552), and the region map they rest on.
-/
namespace Sys2Proof.Machine

open Sys2Proof.Arith

/-! ### The region map depends on the regions' registers (R536, R540) -/

/-- The fields that give region `k` its place and its code. -/
def regionFields (k : Nat) : List Fld := [R.REG_BASE k, R.REG_SIZE k, R.REG_CODE k, R.CHK_BASE k, R.REG_EN k]

/-- The write of field `f` changes no region. -/
def offRegions (f : Fld) : Prop := ∀ k < 16, ∀ g ∈ regionFields k, f.apart g = true

/-- The regions of `t` are those of `s`. -/
def SameRegions (s t : State) : Prop := ∀ k < 16, ∀ g ∈ regionFields k, t.rd g = s.rd g

namespace SameRegions

theorem refl (s : State) : SameRegions s s := fun _ _ _ _ => rfl

theorem wr {s t : State} (h : SameRegions s t) {f : Fld} (v : Nat) (hf : offRegions f) : SameRegions s (t.wr f v) :=
  fun k hk g hg => (State.rd_wr_apart t f g v (hf k hk g hg)).trans (h k hk g hg)

/-- The registers of one region. -/
theorem fields {s t : State} (h : SameRegions s t) {k : Nat} (hk : k < 16) : t.rd (R.REG_BASE k) = s.rd (R.REG_BASE k)
    ∧ t.rd (R.REG_SIZE k) = s.rd (R.REG_SIZE k) ∧ t.rd (R.REG_CODE k) = s.rd (R.REG_CODE k)
    ∧ t.rd (R.CHK_BASE k) = s.rd (R.CHK_BASE k) ∧ t.rd (R.REG_EN k) = s.rd (R.REG_EN k) := by
  have hall := h k hk
  simp only [regionFields, List.forall_mem_cons] at hall
  obtain ⟨hbase, hsize, hcode, hchk, hen, -⟩ := hall
  exact ⟨hbase, hsize, hcode, hchk, hen⟩

theorem regionLo {s t : State} (h : SameRegions s t) {k : Nat} (hk : k < 16) : t.regionLo k = s.regionLo k := by
  simp [State.regionLo, h.fields hk]

theorem regionHi {s t : State} (h : SameRegions s t) {k : Nat} (hk : k < 16) : t.regionHi k = s.regionHi k := by
  simp [State.regionHi, h.fields hk]

theorem checkArea {s t : State} (h : SameRegions s t) {k : Nat} (hk : k < 16) : t.checkArea k = s.checkArea k := by
  simp [State.checkArea, h.fields hk]

theorem dataArea {s t : State} (h : SameRegions s t) {k : Nat} (hk : k < 16) : t.dataArea k = s.dataArea k := by
  simp [State.dataArea, h.fields hk]

theorem regionEn {s t : State} (h : SameRegions s t) {k : Nat} (hk : k < 16) : t.flag (R.REG_EN k) = s.flag (R.REG_EN k) := by
  simp [State.flag, h.fields hk]

theorem regionOf {s t : State} (h : SameRegions s t) (w : Nat) : t.regionOf w = s.regionOf w := by
  refine List.find?_congr fun k hk => ?_
  have hk := List.mem_range.mp hk
  rw [h.regionLo hk, h.regionHi hk, h.regionEn hk]

theorem inCheckArea {s t : State} (h : SameRegions s t) (w : Nat) : t.inCheckArea w = s.inCheckArea w := by
  rw [Bool.eq_iff_iff, State.inCheckArea, State.inCheckArea, List.any_eq_true, List.any_eq_true]
  refine exists_congr fun k => and_congr_right fun hk => ?_
  have hk := List.mem_range.mp hk
  simp only [h.checkArea hk, h.regionEn hk]

theorem regionFits {s t : State} (h : SameRegions s t) {k : Nat} (hk : k < 16) : t.regionFits k = s.regionFits k := by
  have hall : ∀ j ∈ List.range 16, t.dataArea j = s.dataArea j ∧ t.checkArea j = s.checkArea j
      ∧ t.flag (R.REG_EN j) = s.flag (R.REG_EN j) := fun j hj =>
    have hj := List.mem_range.mp hj
    ⟨h.dataArea hj, h.checkArea hj, h.regionEn hj⟩
  simp only [State.regionFits, h.dataArea hk, h.checkArea hk, h.fields hk]
  congr 1
  rw [Bool.eq_iff_iff, List.all_eq_true, List.all_eq_true]
  refine forall_congr' fun j => forall_congr' fun hj => ?_
  obtain ⟨hdata, hcheck, hen⟩ := hall j hj
  rw [hdata, hcheck, hen]

end SameRegions

namespace State

/-- The region of a word is one of the 16. -/
theorem regionOf_lt (s : State) {w k : Nat} (h : s.regionOf w = some k) : k < 16 :=
  List.mem_range.mp (List.mem_of_find?_eq_some h)

theorem codeOf_congr {s t : State} (h : SameRegions s t) (w : Nat) : t.codeOf w = s.codeOf w := by
  rw [codeOf, h.regionOf, codeOf]
  cases hk : s.regionOf w with
  | none => rfl
  | some k => exact (h.fields (s.regionOf_lt hk)).2.2.1

/-! ### Words (R544, R556, R557) -/

theorem rawWord_congr {s t : State} (h : t.dram = s.dram) (w : Nat) : t.rawWord w = s.rawWord w := by
  simp [rawWord, physical, h]

theorem isWritten_congr {s t : State} (h : t.dram = s.dram) (w : Nat) : t.isWritten w = s.isWritten w := by
  rw [isWritten, h, isWritten]

theorem rawCheck_congr {s t : State} (h : SameRegions s t) (hd : t.dram = s.dram) (w : Nat) : t.rawCheck w = s.rawCheck w := by
  rw [rawCheck, h.regionOf, rawCheck]
  cases hk : s.regionOf w with
  | none => rfl
  | some k =>
    have hlt := s.regionOf_lt hk
    simp only [checkAddr, h.checkArea hlt, h.regionLo hlt, h.fields hlt, rawWord_congr hd]

/-- Where a word lies does not depend on what the words hold. -/
@[simp] theorem physical_putRaw (s : State) (w d x : Nat) : (s.putRaw w d).physical x = s.physical x := rfl

@[simp] theorem putRaw_regs (s : State) (w d : Nat) : (s.putRaw w d).regs = s.regs := rfl

@[simp] theorem regFrame_putRaw {s t : State} {l : List Fld} {w d : Nat} : RegFrame s (t.putRaw w d) l ↔ RegFrame s t l :=
  regFrame_congr (t.putRaw_regs w d)

@[simp] theorem putRaw_out (s : State) (w d : Nat) : (s.putRaw w d).out = s.out := rfl

/-- R544: a word written is read back. -/
theorem rawWord_putRaw_same (s : State) (w d : Nat) : (s.putRaw w d).rawWord w = d % 2 ^ 512 := by
  rw [rawWord, physical_putRaw]
  exact Store.get_put_same 0 _ _ _

/-- The write of a word leaves every word that lies elsewhere. -/
theorem rawWord_putRaw_other (s : State) (w d : Nat) {x : Nat} (h : s.physical x ≠ s.physical w) :
    (s.putRaw w d).rawWord x = s.rawWord x := by
  rw [rawWord, physical_putRaw]
  exact Store.get_put_other 0 _ _ h

theorem zeroFill_of_written (s : State) {w : Nat} (h : s.isWritten w = true) : s.zeroFill w = s := by
  rw [zeroFill, if_pos h]

/-! ### One request of an arbiter cycle (R16, R535, R540) -/

/-- R535: a lone request is granted, and the token moves one past it. -/
theorem grantDram_single (s : State) (r : DramReq) (hp : r.pos < 8) :
    s.grantDram [r] = (s.requestDram r).wr R.DRAM_TOKEN ((r.pos + 1) % 8) := by
  have horder : ∀ token, tokenOrder 8 token [r.pos] = [r.pos] := fun token => tokenOrder_single token hp
  simp [grantDram, horder, tokenAfter]

/-- R540: a request that neither waits nor strikes a check area is performed. -/
theorem requestDram_of_idle (s : State) (r : DramReq) (hdom : s.dom.dram = true) (hidle : s.wordBusy r.word = false) :
    s.requestDram r = s.performDram r := by
  simp [requestDram, hdom, hidle]

/-- R540: a request is not refused for a check area that it does not strike. -/
theorem not_struck {s : State} {p w : Nat} (h : p ≠ 7 → s.inCheckArea w = false) : ¬ (p ≠ 7 ∧ s.inCheckArea w = true) :=
  fun ⟨hp, hin⟩ => by simp [h hp] at hin

/-- R552: an answer that is no ERROR goes to its requester. -/
theorem answerDram_ok (s : State) (p w d : Nat) {st : DramStatus} (h : statusCode st ≠ 2) :
    s.answerDram p w st d = s.emit (.dram p w (statusCode st) d) := by
  simp [answerDram, h]

theorem grantDram_read (s : State) {p w : Nat} (hp : p < 8) (hdom : s.dom.dram = true) (hidle : s.wordBusy w = false)
    (hcheck : p ≠ 7 → s.inCheckArea w = false) : s.grantDram [⟨p, w, .read⟩] =
      ((s.readWord w false).1.answerDram p w (s.readWord w false).2.1 (s.readWord w false).2.2).wr R.DRAM_TOKEN ((p + 1) % 8) := by
  rw [s.grantDram_single _ hp, s.requestDram_of_idle ⟨p, w, .read⟩ hdom hidle]
  simp only [performDram, if_neg (not_struck hcheck)]

/-- R544: a write under no code to a written granule. -/
theorem grantDram_write (s : State) {p w : Nat} (d : Nat) (hp : p < 8) (hdom : s.dom.dram = true) (hidle : s.wordBusy w = false)
    (hcheck : p ≠ 7 → s.inCheckArea w = false) (hwritten : s.isWritten w = true) (hcode : s.codeOf w = 0) :
    s.grantDram [⟨p, w, .write d⟩] = ((s.putRaw w d).emit (.dram p w 4 0)).wr R.DRAM_TOKEN ((p + 1) % 8) := by
  rw [s.grantDram_single _ hp, s.requestDram_of_idle ⟨p, w, .write d⟩ hdom hidle]
  simp only [performDram, if_neg (not_struck hcheck), writeWord, s.zeroFill_of_written hwritten, putFresh, hcode, if_true]
  rw [answerDram_ok _ _ _ _ (by decide)]
  rfl

/-- R544: a partial write under no code to a written granule. -/
theorem grantDram_masked (s : State) {p w : Nat} (m d : Nat) (hp : p < 8) (hdom : s.dom.dram = true)
    (hidle : s.wordBusy w = false) (hcheck : p ≠ 7 → s.inCheckArea w = false) (hwritten : s.isWritten w = true)
    (hcode : s.codeOf w = 0) : s.grantDram [⟨p, w, .masked m d⟩] =
      ((s.putRaw w (mergeBytes (s.rawWord w) d m)).emit (.dram p w 4 0)).wr R.DRAM_TOKEN ((p + 1) % 8) := by
  rw [s.grantDram_single _ hp, s.requestDram_of_idle ⟨p, w, .masked m d⟩ hdom hidle]
  simp only [performDram, if_neg (not_struck hcheck), mergeWord, s.zeroFill_of_written hwritten, hcode, if_true]
  rw [answerDram_ok _ _ _ _ (by decide)]
  rfl

theorem rd_dramToken (s : State) (v : Nat) : (s.wr R.DRAM_TOKEN (v % 8)).rd R.DRAM_TOKEN = v % 8 := by
  rw [rd_wr_same _ _ _ (by decide)]
  exact Nat.mod_mod _ _

/-- The word written, and the words that lie elsewhere, in the state after a granted write. -/
theorem rawWord_after_write (s : State) (w d v : Nat) (o : Output) :
    let t := ((s.putRaw w d).emit o).wr R.DRAM_TOKEN v
    t.rawWord w = d % 2 ^ 512 ∧ (∀ x, s.physical x ≠ s.physical w → t.rawWord x = s.rawWord x)
      ∧ t.out = o :: s.out ∧ RegFrame s t [R.DRAM_TOKEN] := by
  have hraw : ∀ x, (((s.putRaw w d).emit o).wr R.DRAM_TOKEN v).rawWord x = (s.putRaw w d).rawWord x := fun x =>
    rawWord_congr (by rw [wr_dram, emit_dram]) x
  refine ⟨?_, fun x hx => ?_, ?_, ?_⟩
  · rw [hraw, rawWord_putRaw_same]
  · rw [hraw, rawWord_putRaw_other _ _ _ hx]
  · rw [wr_out, emit_out, putRaw_out]
  · simp -implicitDefEqProofs

end State

/-- R540: but for position 7 no requester strikes a check area. -/
theorem offCheckArea {s : State} {p : Fin 8} {w : Nat} (h : p ≠ 7 → s.inCheckArea w = false) :
    p.val ≠ 7 → s.inCheckArea w = false := fun hp => h fun he => hp (by rw [he]; rfl)

theorem exec_dramRead (l : List (Fin 8 × BitVec 29)) (s : State) :
    exec (.dramRead l) s = .next (s.grantDram (l.map fun r => ⟨r.1.val, r.2.toNat, .read⟩)) := rfl

theorem exec_dramWrite (l : List (Fin 8 × BitVec 29 × BitVec 512)) (s : State) :
    exec (.dramWrite l) s = .next (s.grantDram (l.map fun r => ⟨r.1.val, r.2.1.toNat, .write r.2.2.toNat⟩)) := rfl

theorem exec_dramPartialWrite (l : List (Fin 8 × BitVec 29 × BitVec 64 × BitVec 512)) (s : State) :
    exec (.dramPartialWrite l) s =
      .next (s.grantDram (l.map fun r => ⟨r.1.val, r.2.1.toNat, .masked r.2.2.1.toNat r.2.2.2.toNat⟩)) := rfl

end Sys2Proof.Machine

open Sys2Proof Sys2Proof.Machine in
/-- Settles O39: a lone request is granted and performed at once, and the token moves one past it. -/
theorem dramAccessesComplete : Obligations.DramAccessesComplete := by
  unfold Obligations.DramAccessesComplete
  refine ⟨fun s p w d hdom hidle hcheck hwritten hclean => ?_, fun s p w hdom hidle hcheck hwritten => ?_,
    fun s p w d hdom hidle hcheck hwritten hcode => ?_, fun s p w m d hdom hidle hcheck hwritten hcode => ?_⟩
  · have hread : s.readWord w.toNat false = (s, .clean, d) := by simp [State.readWord, hwritten, hclean]
    rw [exec_dramRead, List.map_singleton, s.grantDram_read p.isLt hdom hidle (offCheckArea hcheck), hread, State.answerDram_ok _ _ _ _ (by simp [statusCode])]
    refine .next ⟨?_, State.rd_dramToken .., by simp -implicitDefEqProofs, by simp -implicitDefEqProofs⟩
    rw [State.wr_out, State.emit_out]
    rfl
  · have hread : s.readWord w.toNat false = (s.count R.UNWRITTEN_RD_CNT, .unwritten, 0) := by simp [State.readWord, hwritten]
    rw [exec_dramRead, List.map_singleton, s.grantDram_read p.isLt hdom hidle (offCheckArea hcheck), hread, State.answerDram_ok _ _ _ _ (by simp [statusCode])]
    refine .next ⟨?_, by simp -implicitDefEqProofs, ?_⟩
    · rw [State.wr_out, State.emit_out, State.count_out]
      rfl
    · rw [State.rd_wr_apart _ _ _ _ (by decide), State.rd_emit, State.rd_count_same _ _ _ (by decide)]
  · rw [exec_dramWrite, List.map_singleton, s.grantDram_write _ p.isLt hdom hidle (offCheckArea hcheck) hwritten hcode]
    obtain ⟨hword, hothers, hout, hframe⟩ := s.rawWord_after_write w.toNat d.toNat ((p.val + 1) % 8) (.dram p.val w.toNat 4 0)
    exact .next ⟨hword.trans (Nat.mod_eq_of_lt d.isLt), hout, hothers, State.rd_dramToken .., hframe⟩
  · rw [exec_dramPartialWrite, List.map_singleton, s.grantDram_masked _ _ p.isLt hdom hidle (offCheckArea hcheck) hwritten hcode]
    obtain ⟨hword, hothers, hout, hframe⟩ := s.rawWord_after_write w.toNat (mergeBytes (s.rawWord w.toNat) d.toNat m.toNat)
      ((p.val + 1) % 8) (.dram p.val w.toNat 4 0)
    exact .next ⟨hword, hout, hothers, State.rd_dramToken .., hframe⟩
end

section
/-!
O40, the regions and spare rows of the DRAM (R537 to R539, R556, R557).
-/
namespace Sys2Proof.Machine

open Sys2Proof.Arith

namespace State

/-! ### Region operations (R537 to R539) -/

theorem offRegions_regToken : offRegions R.REG_TOKEN := by unfold offRegions regionFields; decide

theorem sameRegions_granting (s : State) : SameRegions s s.granting := (SameRegions.refl s).wr _ offRegions_regToken

/-- Region `k` given a base and an adopt bit, as REG_EN's write does. -/
def rebased (s : State) (k b : Nat) (a : Bool) : State := (s.wr (R.REG_BASE k) b).wrFlag (R.REG_ADOPT k) a

theorem regField_fits (k : Nat) : (R.REG_BASE k).fits = true ∧ (R.REG_EN k).fits = true ∧ (R.REG_ADOPT k).fits = true
    ∧ (R.REG_BUSY k).fits = true := by
  simp [Fld.fits, R.REG_BASE, R.REG_EN, R.REG_ADOPT, R.REG_BUSY]

/-- The fields of a region stand apart from each other and from those of other regions. -/
theorem regField_apart {j k : Nat} : (R.REG_ADOPT k).apart (R.REG_BASE j) = true ∧ (R.REG_EN k).apart (R.REG_BASE j) = true
    ∧ (R.REG_EN k).apart (R.REG_ADOPT j) = true ∧ (R.REG_BUSY k).apart (R.REG_BASE j) = true
    ∧ (R.REG_BUSY k).apart (R.REG_ADOPT j) = true ∧ (R.REG_BUSY k).apart (R.REG_EN j) = true
    ∧ (R.REG_EN k).apart (R.REG_BUSY j) = true ∧ (R.REG_WR_GRAN k).apart (R.REG_BUSY j) = true
    ∧ (R.REG_ADOPT k).apart (R.REG_EN j) = true ∧ (R.REG_BASE k).apart (R.REG_EN j) = true
    ∧ (R.REG_BASE k).apart (R.REG_BUSY j) = true ∧ (R.REG_ADOPT k).apart (R.REG_BUSY j) = true
    ∧ (R.REG_EN k).apart (R.REG_SIZE j) = true := by
  simp [Fld.apart, Fld.fits, R.REG_BASE, R.REG_EN, R.REG_ADOPT, R.REG_BUSY, R.REG_WR_GRAN, R.REG_SIZE]
  omega

/-- The register arbiter's token lies in no region's registers. -/
theorem sameRegions_of_token {s t : State} (h : SameButAt R.REG_TOKEN.addr s t) : SameRegions s t := by
  intro k hk g hg
  refine h.rd ?_
  revert g
  simp only [regionFields, List.forall_mem_cons, R.REG_TOKEN, R.REG_BASE, R.REG_SIZE, R.REG_CODE, R.CHK_BASE, R.REG_EN]
  refine ⟨?_, ?_, ?_, ?_, ?_, by simp⟩ <;> omega

/-- A region operation of job `j` on region `k` as REG_EN's write to 1 starts it. -/
def enabling (s : State) (k : Nat) (j : RegionJob) : State := (s.wr (R.REG_EN k) 1).startRegion k j

/-- R537, R538: an idle region that fits is enabled. -/
theorem enableRegion_of_fits (s : State) {k b : Nat} {a : Bool} (hen : s.flag (R.REG_EN k) = false)
    (hbusy : s.flag (R.REG_BUSY k) = false) (hfits : (s.rebased k b a).regionFits k = true) :
    s.enableRegion k b a = (s.rebased k b a).enabling k (if a then .adopt else .clear) := by
  have hbusy' : (s.rebased k b a).flag (R.REG_BUSY k) = false := by
    obtain ⟨-, -, -, -, -, -, -, -, -, -, hbase, hadopt, -⟩ := @regField_apart k k
    rw [rebased, wrFlag, flag_wr_apart _ _ _ _ hadopt, flag_wr_apart _ _ _ _ hbase, hbusy]
  rw [enableRegion, hen, if_neg (by decide)]
  unfold rebased at hfits hbusy' ⊢
  simp only [hfits, hbusy', if_true, Bool.false_eq_true, if_false]
  rfl

/-- R538: the operation that `enabling` starts covers the region's data area. -/
theorem enabling_busy (s : State) (k : Nat) (j : RegionJob) :
    Store.get none (s.enabling k j).dram.busy k = some ⟨s.regionLo k, s.regionHi k, j⟩ := by
  obtain ⟨-, hbase, -, -, -, -, -, -, -, -, -, -, hsize⟩ := @regField_apart k k
  rw [enabling, startRegion, wr_dram]
  simp only [Store.get_put_same, regionLo, regionHi, rd_wr_apart _ _ _ _ hbase, rd_wr_apart _ _ _ _ hsize]

theorem rd_enabling (s : State) (k : Nat) (j : RegionJob) : (s.enabling k j).flag (R.REG_EN k) = true
    ∧ (s.enabling k j).flag (R.REG_BUSY k) = true ∧ (s.enabling k j).rd (R.REG_BASE k) = s.rd (R.REG_BASE k)
    ∧ (s.enabling k j).flag (R.REG_ADOPT k) = s.flag (R.REG_ADOPT k) := by
  obtain ⟨-, hbase, hadopt, hbase', hadopt', hen, -⟩ := @regField_apart k k
  obtain ⟨-, hfits, -, hfits'⟩ := regField_fits k
  refine ⟨?_, ?_, ?_, ?_⟩
  · rw [flag, enabling, startRegion, rd_wr_apart _ _ _ _ hen, rd_update, rd_wr_same _ _ _ hfits]
    rfl
  · rw [flag, enabling, startRegion, rd_wr_same _ _ _ hfits']
    rfl
  · rw [enabling, startRegion, rd_wr_apart _ _ _ _ hbase', rd_update, rd_wr_apart _ _ _ _ hbase]
  · rw [flag, enabling, startRegion, rd_wr_apart _ _ _ _ hadopt', rd_update, rd_wr_apart _ _ _ _ hadopt, flag]

theorem rd_rebased (s : State) {k b : Nat} (a : Bool) (hb : b < 2 ^ 15) : (s.rebased k b a).rd (R.REG_BASE k) = b
    ∧ (s.rebased k b a).flag (R.REG_ADOPT k) = a := by
  obtain ⟨hadopt, -⟩ := @regField_apart k k
  obtain ⟨hfits, -, -, -⟩ := regField_fits k
  refine ⟨?_, ?_⟩
  · rw [rebased, rd_wrFlag_apart _ _ _ _ hadopt, rd_wr_same _ _ _ hfits]
    exact Nat.mod_eq_of_lt hb
  · exact flag_wrFlag_same _ _ _ (by simp [Fld.fits, R.REG_ADOPT])

/-- R537, R538: an idle region is disabled; its written bits will be cleared. -/
theorem disableRegion_of_idle (s : State) {k : Nat} (hen : s.flag (R.REG_EN k) = true) (hbusy : s.flag (R.REG_BUSY k) = false) :
    s.disableRegion k = (s.startRegion k .clear).wr (R.REG_EN k) 0 := by
  simp [disableRegion, hen, hbusy]

@[simp] theorem free_dram (s : State) : s.free.2.dram = s.dram := rfl

theorem serveWaiting_of_none (s : State) (h : s.dram.waiting = []) : s.serveWaiting = { s with dram := { s.dram with waiting := [] } } := by
  rw [serveWaiting, h, List.foldl_nil]

/-! ### Spare rows (R557) -/

/-- R557: SPR_GO takes one of the bank's free spare rows. -/
theorem sparGo_of_free (s : State) {bank row : Nat} (hfree : s.freeSpares bank ≠ [])
    (hfused : Store.get none s.dram.fused (bank * 65536 + row) = none)
    (hsoft : Store.get none s.dram.soft (bank * 65536 + row) = none) (hbusy : s.flag R.SPR_BUSY = false) :
    ∃ x ∈ s.freeSpares bank, s.sparGo bank row = ({ (((s.wr R.SPR_BANK bank).wr R.SPR_ROW row).free).2 with
      dram := { (((s.wr R.SPR_BANK bank).wr R.SPR_ROW row).free).2.dram with
        copying := some (bank * 65536 + row, x) } }).wr R.SPR_BUSY 1 := by
  have hbusy' : ((s.wr R.SPR_BANK bank).wr R.SPR_ROW row).flag R.SPR_BUSY = false := by
    rw [flag_wr_apart _ _ _ _ (by decide), flag_wr_apart _ _ _ _ (by decide), hbusy]
  have hlen : 0 < (s.freeSpares bank).length := List.length_pos_iff.mpr hfree
  have hlt := Nat.mod_lt (((s.wr R.SPR_BANK bank).wr R.SPR_ROW row).free).1 hlen
  refine ⟨(s.freeSpares bank).getD ((((s.wr R.SPR_BANK bank).wr R.SPR_ROW row).free).1 % (s.freeSpares bank).length) 0, ?_, ?_⟩
  · rw [List.getD_eq_getElem _ _ hlt]
    exact List.getElem_mem hlt
  · have hspares : ((s.wr R.SPR_BANK bank).wr R.SPR_ROW row).freeSpares bank = s.freeSpares bank := by
      simp -implicitDefEqProofs only [freeSpares, wr_dram]
    have hne : (s.freeSpares bank).isEmpty = false := by simpa using hfree
    simp -implicitDefEqProofs only [sparGo, hspares, hne, wr_dram, hfused, hsoft, hbusy', Option.isSome_none, Bool.or_self,
      Bool.false_eq_true, if_false]

/-- R557: the copy of a word that has not been written changes the spare row's cell alone. -/
theorem copyWord_of_unwritten (s : State) {bank row : Nat} (sp col : Nat) (h : s.isWritten (wordAt bank row col) = false) :
    s.copyWord bank row sp col = s.putCell (spareWord bank sp col) (s.rawWord (wordAt bank row col)) := by
  simp [copyWord, h]

/-- A copy of words none of which has been written leaves the rest of the DRAM and the registers. -/
theorem copyRow_of_unwritten (s : State) {bank row : Nat} (sp : Nat) (l : List Nat)
    (h : ∀ c ∈ l, s.isWritten (wordAt bank row c) = false) : ∃ w, l.foldl (fun s c => s.copyWord bank row sp c) s =
      { s with dram := { s.dram with words := w } } := by
  induction l generalizing s with
  | nil => exact ⟨s.dram.words, rfl⟩
  | cons c l ih =>
    rw [List.foldl_cons, s.copyWord_of_unwritten sp c (h c (by simp))]
    obtain ⟨w, hw⟩ := ih (s.putCell (spareWord bank sp c) (s.rawWord (wordAt bank row c))) fun x hx => h x (by simp [hx])
    exact ⟨w, hw.trans rfl⟩

/-- R557: the row's copy completes. -/
theorem spareDone_of_unwritten (s : State) {key x : Nat} (hcopy : s.dram.copying = some (key, x)) (hwait : s.dram.waiting = [])
    (h : ∀ c < 32, s.isWritten (wordAt (key / 65536) (key % 65536) c) = false) : ∃ w, s.spareDone =
      { ((({ s with dram := { s.dram with words := w, soft := Store.put none s.dram.soft key (some x), copying := none } }).wr
        R.SPR_BUSY 0).wr R.SPR_DONE 1).countSpares with dram := { s.dram with words := w, soft := Store.put none s.dram.soft key (some x), copying := none, waiting := [] } }.raise 77 := by
  obtain ⟨w, hw⟩ := s.copyRow_of_unwritten (bank := key / 65536) (row := key % 65536) x (List.range 32)
    fun c hc => h c (List.mem_range.mp hc)
  refine ⟨w, ?_⟩
  simp only [spareDone, hcopy, hw]
  rw [serveWaiting_of_none]
  · simp -implicitDefEqProofs only [countSpares, wr_dram]
  · simp -implicitDefEqProofs only [countSpares, wr_dram, hwait]

end State

/-! ### O40 -/

theorem exec_regionEnable (s : State) (k : Fin 16) (b : BitVec 15) (a : Bool) :
    exec (.regionEnable k b a) s = .next (s.access (R.REG_EN k.val) fun s => s.enableRegion k.val b.toNat a) := rfl
theorem exec_regionDisable (s : State) (k : Fin 16) :
    exec (.regionDisable k) s = .next (s.access (R.REG_EN k.val) fun s => s.disableRegion k.val) := rfl
theorem exec_regMark (s : State) (k : Fin 16) :
    exec (.regMark k) s = .next (s.access (R.REG_MARK k.val) fun s => s.markRegion k.val) := rfl
theorem exec_regionOpComplete (s : State) (k : Fin 16) : exec (.regionOpComplete k) s = .next (s.finishRegion k.val) := rfl
theorem exec_sprGo (s : State) (b : BitVec 8) (r : BitVec 16) :
    exec (.sprGo b r) s = .next (s.access R.SPR_GO fun s => s.sparGo b.toNat r.toNat) := rfl
theorem exec_spareRowDone (s : State) : exec .spareRowDone s = .next s.spareDone := rfl

namespace State

theorem regToken_apart {k : Nat} (hk : k < 16) :
    R.REG_TOKEN.apart (R.REG_EN k) = true ∧ R.REG_TOKEN.apart (R.REG_BUSY k) = true := by
  simp only [Fld.apart, R.REG_TOKEN, R.REG_EN, R.REG_BUSY, Bool.or_eq_true, bne_iff_ne]
  omega

theorem flag_granting_region (s : State) (k : Fin 16) : s.granting.flag (R.REG_EN k.val) = s.flag (R.REG_EN k.val)
    ∧ s.granting.flag (R.REG_BUSY k.val) = s.flag (R.REG_BUSY k.val) :=
  ⟨flag_wr_apart _ _ _ _ (regToken_apart k.isLt).1, flag_wr_apart _ _ _ _ (regToken_apart k.isLt).2⟩

/-- A region given its base after the arbiter's grant is the region given its base. -/
theorem sameRegions_rebased (s : State) (k b : Nat) (a : Bool) : SameRegions (s.rebased k b a) (s.granting.rebased k b a) :=
  sameRegions_of_token (((s.sameButAt_wr _ _).wr _ _).wr _ _)

end State

/-- R537, R538. -/
theorem regionEnable_completes (s : State) (k : Fin 16) (b : BitVec 15) (a : Bool) (hreach : s.reachable (R.REG_EN k.val).addr = true)
    (hen : s.flag (R.REG_EN k.val) = false) (hbusy : s.flag (R.REG_BUSY k.val) = false)
    (hfits : (s.rebased k.val b.toNat a).regionFits k.val = true) :
    Completes (exec (.regionEnable k b a) s) fun t => t.flag (R.REG_EN k.val) = true ∧ t.flag (R.REG_BUSY k.val) = true
      ∧ t.rd (R.REG_BASE k.val) = b.toNat ∧ t.flag (R.REG_ADOPT k.val) = a
      ∧ Store.get none t.dram.busy k.val =
        some ⟨(s.rebased k.val b.toNat a).regionLo k.val, (s.rebased k.val b.toNat a).regionHi k.val, if a then .adopt else .clear⟩
      ∧ RegFrame s t [R.REG_TOKEN, R.REG_BASE k.val, R.REG_ADOPT k.val, R.REG_EN k.val, R.REG_BUSY k.val] := by
  have hsame := s.sameRegions_rebased k.val b.toNat a
  have hfits' := (hsame.regionFits k.isLt).trans hfits
  obtain ⟨hen', hbusy'⟩ := s.flag_granting_region k
  obtain ⟨hen2, hbusy2, hbase, hadopt⟩ := (s.granting.rebased k.val b.toNat a).rd_enabling k.val (if a then .adopt else .clear)
  obtain ⟨hbase', hadopt'⟩ := s.granting.rd_rebased a (k := k.val) (b := b.toNat) b.isLt
  rw [exec_regionEnable]
  refine .access hreach ?_
  rw [s.granting.enableRegion_of_fits (hen'.trans hen) (hbusy'.trans hbusy) hfits']
  refine ⟨hen2, hbusy2, hbase.trans hbase', hadopt.trans hadopt', ?_, ?_⟩
  · rw [State.enabling_busy, hsame.regionLo k.isLt, hsame.regionHi k.isLt]
  · simp -implicitDefEqProofs [State.enabling, State.startRegion, State.rebased]

/-- R537, R538. -/
theorem regionDisable_completes (s : State) (k : Fin 16) (hreach : s.reachable (R.REG_EN k.val).addr = true)
    (hen : s.flag (R.REG_EN k.val) = true) (hbusy : s.flag (R.REG_BUSY k.val) = false) :
    Completes (exec (.regionDisable k) s) fun t => t.flag (R.REG_EN k.val) = false
      ∧ t.flag (R.REG_BUSY k.val) = true ∧ Store.get none t.dram.busy k.val = some ⟨s.regionLo k.val, s.regionHi k.val, .clear⟩
      ∧ RegFrame s t [R.REG_TOKEN, R.REG_EN k.val, R.REG_BUSY k.val] := by
  have hsame := s.sameRegions_granting
  obtain ⟨hen', hbusy'⟩ := s.flag_granting_region k
  obtain ⟨-, hfits, -, hfits'⟩ := State.regField_fits k.val
  obtain ⟨-, -, -, -, -, -, hapart, -⟩ := @State.regField_apart k.val k.val
  rw [exec_regionDisable]
  refine .access hreach ?_
  rw [s.granting.disableRegion_of_idle (hen'.trans hen) (hbusy'.trans hbusy)]
  refine ⟨?_, ?_, ?_, ?_⟩
  · rw [State.flag, State.rd_wr_same _ _ _ hfits]
    rfl
  · rw [State.flag_wr_apart _ _ _ _ hapart, State.startRegion, State.flag, State.rd_wr_same _ _ _ hfits']
    rfl
  · rw [State.wr_dram, State.startRegion, State.wr_dram]
    simp only [Store.get_put_same, hsame.regionLo k.isLt, hsame.regionHi k.isLt]
  · simp -implicitDefEqProofs [State.startRegion]

/-- R538. -/
theorem regionOpComplete_completes (s : State) (k : Fin 16) {lo hi : Nat} (hjob : Store.get none s.dram.busy k.val = some ⟨lo, hi, .clear⟩)
    (hwait : s.dram.waiting = []) : Completes (exec (.regionOpComplete k) s) fun t =>
      Store.get none t.dram.busy k.val = none ∧ t.flag (R.REG_BUSY k.val) = false
        ∧ (∀ e ∈ t.dram.written, 64 * e.1 < lo ∨ hi ≤ 64 * e.1) ∧ RegFrame s t [R.REG_BUSY k.val, R.REG_WR_GRAN k.val] := by
  obtain ⟨-, -, -, hfits⟩ := State.regField_fits k.val
  obtain ⟨-, -, -, -, -, -, -, hapart, -⟩ := @State.regField_apart k.val k.val
  rw [exec_regionOpComplete]
  simp only [State.finishRegion, hjob]
  rw [State.serveWaiting_of_none _ (by simp only [State.countGranules, State.wr_dram, State.clearWritten, hwait])]
  refine .next ⟨?_, ?_, ?_, ?_⟩
  · simp only [State.countGranules, State.wr_dram, Store.get_put_same]
  · rw [State.flag, State.rd_update, State.countGranules, State.rd_wr_apart _ _ _ _ hapart, State.rd_wr_same _ _ _ hfits]
    rfl
  · simp only [State.countGranules, State.wr_dram, State.clearWritten, List.mem_filter]
    intro e he
    simpa using he.2
  · simp -implicitDefEqProofs [State.countGranules, State.clearWritten]

/-- R557. -/
theorem sprGo_completes (s : State) (b : BitVec 8) (r : BitVec 16) (hreach : s.reachable R.SPR_GO.addr = true)
    (hfree : s.freeSpares b.toNat ≠ []) (hfused : Store.get none s.dram.fused (b.toNat * 65536 + r.toNat) = none)
    (hsoft : Store.get none s.dram.soft (b.toNat * 65536 + r.toNat) = none) (hbusy : s.flag R.SPR_BUSY = false) :
    Completes (exec (.sprGo b r) s) fun t =>
      (∃ x ∈ s.freeSpares b.toNat, t.dram = { s.dram with copying := some (b.toNat * 65536 + r.toNat, x) })
        ∧ t.flag R.SPR_BUSY = true ∧ RegFrame s t [R.REG_TOKEN, R.SPR_BANK, R.SPR_ROW, R.SPR_BUSY] := by
  have hspares : s.granting.freeSpares b.toNat = s.freeSpares b.toNat := by simp -implicitDefEqProofs only [State.freeSpares, State.wr_dram]
  rw [exec_sprGo]
  refine .access hreach ?_
  obtain ⟨x, hx, heq⟩ := s.granting.sparGo_of_free (bank := b.toNat) (row := r.toNat) (by rwa [hspares])
    (by rwa [State.wr_dram]) (by rwa [State.wr_dram]) ((State.flag_wr_apart _ _ _ _ (by decide)).trans hbusy)
  rw [heq]
  refine ⟨⟨x, hspares ▸ hx, ?_⟩, ?_, ?_⟩
  · simp -implicitDefEqProofs only [State.wr_dram, State.free_dram]
  · rw [State.flag, State.rd_wr_same _ _ _ (by decide)]
    rfl
  · simp -implicitDefEqProofs

/-- R557. -/
theorem spareRowDone_completes (s : State) {key x : Nat} (hcopy : s.dram.copying = some (key, x)) (hwait : s.dram.waiting = [])
    (hunwritten : ∀ c < 32, s.isWritten (wordAt (key / 65536) (key % 65536) c) = false) : Completes (exec .spareRowDone s) fun t =>
      t.dram.copying = none ∧ Store.get none t.dram.soft key = some x ∧ t.flag R.SPR_BUSY = false ∧ t.flag R.SPR_DONE = true
        ∧ t.rd R.SPARE_SOFT = t.dram.soft.length % 2 ^ R.SPARE_SOFT.width ∧ t.linePending 77 = true := by
  obtain ⟨w, heq⟩ := s.spareDone_of_unwritten hcopy hwait hunwritten
  rw [exec_spareRowDone, heq]
  refine .next ⟨?_, ?_, ?_, ?_, ?_, State.linePending_raise ..⟩
  · simp -implicitDefEqProofs only [State.raise_dram]
  · simp -implicitDefEqProofs only [State.raise_dram, Store.get_put_same]
  all_goals simp -implicitDefEqProofs (disch := decide) [State.countSpares, State.flag, State.rd_raise, State.rd_wr_apart,
    State.rd_wr_same]

end Sys2Proof.Machine

open Sys2Proof Sys2Proof.Machine in
/-- Settles O40: each command's equation, the operation on the region's registers and what it leaves. -/
theorem dramRegionsComplete : Obligations.DramRegionsComplete := by
  unfold Obligations.DramRegionsComplete
  refine ⟨fun s u k b a hreach hen hbusy hu hfits => ?_, regionDisable_completes, fun s k hreach hen hbusy => ?_,
    fun s k lo hi hjob hwait => regionOpComplete_completes s k hjob hwait, sprGo_completes,
    fun s key x hcopy hwait h => spareRowDone_completes s hcopy hwait h⟩
  · subst hu
    exact regionEnable_completes s k b a hreach hen hbusy hfits
  · obtain ⟨hen', hbusy'⟩ := s.flag_granting_region k
    rw [exec_regMark, s.access_of_reachable _ _ hreach]
    simp only [State.markRegion, hen', hbusy', hen, hbusy, Bool.not_false, Bool.and_self, if_true]
end

section
/-!
O41, the DRAM's scrubber, its diagnostic access and its correctable-error log (R554, R555, R559, R567).
-/
namespace Sys2Proof.Machine

open Sys2Proof.Arith

namespace State

/-! ### Diagnostic access (R559) -/

/-- The state in which DIAG_GO acts: the fabric has granted, and the word and the operation are stored. -/
def asked (s : State) (w op : Nat) : State := (s.granting.wr R.DIAG_WORD w).wr R.DIAG_OP op

theorem sameRegions_asked (s : State) (w op : Nat) : SameRegions s (s.asked w op) :=
  (s.sameRegions_granting.wr _ (by unfold offRegions regionFields; decide)).wr _ (by unfold offRegions regionFields; decide)

@[simp] theorem asked_dram (s : State) (w op : Nat) : (s.asked w op).dram = s.dram := by
  rw [asked, wr_dram, wr_dram, wr_dram]

theorem rd_asked (s : State) (w op : Nat) {f : Fld} (htoken : R.REG_TOKEN.apart f = true) (hword : R.DIAG_WORD.apart f = true)
    (hop : R.DIAG_OP.apart f = true) : (s.asked w op).rd f = s.rd f := by
  rw [asked, rd_wr_apart _ _ _ _ hop, rd_wr_apart _ _ _ _ hword, rd_wr_apart _ _ _ _ htoken]

theorem diagData_asked (s : State) (w op : Nat) : (s.asked w op).diagData = s.diagData := by
  refine List.foldl_ext _ _ _ fun d j hj => ?_
  have hj := List.mem_range.mp hj
  have hfld : ∀ j < 16, R.REG_TOKEN.apart (R.DIAG_DATA j) = true ∧ R.DIAG_WORD.apart (R.DIAG_DATA j) = true
      ∧ R.DIAG_OP.apart (R.DIAG_DATA j) = true := by decide
  obtain ⟨htoken, hword, hop⟩ := hfld j hj
  rw [s.rd_asked w op htoken hword hop]

theorem diagCheck_asked (s : State) (w op : Nat) : (s.asked w op).diagCheck = s.diagCheck := by
  rw [diagCheck, rd_asked _ _ _ (by decide) (by decide) (by decide), rd_asked _ _ _ (by decide) (by decide) (by decide), diagCheck]

theorem isWritten_asked (s : State) {w op : Nat} (h : s.isWritten w = true) : (s.asked w op).zeroFill w = s.asked w op :=
  zeroFill_of_written _ ((isWritten_congr (s.asked_dram w op) w).trans h)

theorem flag_asked_diagEn (s : State) {w op : Nat} (h : s.flag R.DIAG_EN = true) : (s.asked w op).flag R.DIAG_EN = true := by
  rw [flag, s.rd_asked w op (by decide) (by decide) (by decide)]
  exact h

/-- R559: the operation of an enabled DIAG_GO is done. -/
def diagDone (s : State) : State := (s.wr R.DIAG_DONE 1).raise 79

theorem diagGo_rawRead (s : State) (w : Nat) (h : s.flag R.DIAG_EN = true) :
    s.granting.diagGo w 0 = ((s.asked w 0).diagResult (s.rawWord w) (s.rawCheck w)).diagDone := by
  have hen := s.flag_asked_diagEn (w := w) (op := 0) h
  have hraw := rawWord_congr (s.asked_dram w 0) w
  have hcheck := rawCheck_congr (s.sameRegions_asked w 0) (s.asked_dram w 0) w
  unfold asked at hen hraw hcheck ⊢
  simp [diagGo, diagDone, hen, hraw, hcheck]

theorem diagGo_writeAll (s : State) (w : Nat) (h : s.flag R.DIAG_EN = true) (hwritten : s.isWritten w = true) :
    s.granting.diagGo w 1 = (((s.asked w 1).putRaw w s.diagData).putCheck w s.diagCheck).diagDone := by
  have hen := s.flag_asked_diagEn (w := w) (op := 1) h
  have hfill := s.isWritten_asked (op := 1) hwritten
  have hdata := s.diagData_asked w 1
  have hcheck := s.diagCheck_asked w 1
  unfold asked at hen hfill hdata hcheck ⊢
  simp [diagGo, diagDone, hen, hfill, hdata, hcheck]

theorem diagGo_writeData (s : State) (w : Nat) (h : s.flag R.DIAG_EN = true) (hwritten : s.isWritten w = true) :
    s.granting.diagGo w 2 = ((s.asked w 2).putRaw w s.diagData).diagDone := by
  have hen := s.flag_asked_diagEn (w := w) (op := 2) h
  have hfill := s.isWritten_asked (op := 2) hwritten
  have hdata := s.diagData_asked w 2
  unfold asked at hen hfill hdata ⊢
  simp [diagGo, diagDone, hen, hfill, hdata]

theorem diagGo_writeCheck (s : State) (w : Nat) (h : s.flag R.DIAG_EN = true) (hwritten : s.isWritten w = true)
    (hcode : s.codeOf w ≠ 0) : s.granting.diagGo w 3 = ((s.asked w 3).putCheck w s.diagCheck).diagDone := by
  have hen := s.flag_asked_diagEn (w := w) (op := 3) h
  have hfill := s.isWritten_asked (op := 3) hwritten
  have hcheck := s.diagCheck_asked w 3
  have hcode' : (s.asked w 3).codeOf w ≠ 0 := by rwa [codeOf_congr (s.sameRegions_asked w 3)]
  unfold asked at hen hfill hcheck hcode' ⊢
  simp [diagGo, diagDone, hen, hfill, hcheck, hcode']

theorem regionOf_putRaw (s : State) (w d x : Nat) : (s.putRaw w d).regionOf x = s.regionOf x := rfl

theorem putCheck_of_no_region (s : State) {w : Nat} (c : Nat) (h : s.regionOf w = none) : s.putCheck w c = s := by
  rw [putCheck, h]

theorem diagDone_done (s : State) : s.diagDone.flag R.DIAG_DONE = true ∧ s.diagDone.linePending 79 = true := by
  refine ⟨?_, linePending_raise ..⟩
  rw [diagDone, flag, rd_raise _ _ _ (by decide), rd_wr_same _ _ _ (by decide)]
  rfl

theorem rd_diagDone (s : State) {f : Fld} (hdone : R.DIAG_DONE.apart f = true) (hpend : (R.PEND_BITS 2).apart f = true) :
    s.diagDone.rd f = s.rd f := by
  rw [diagDone, rd_raise _ _ _ hpend, rd_wr_apart _ _ _ _ hdone]

@[simp] theorem diagDone_dram (s : State) : s.diagDone.dram = s.dram := by rw [diagDone, raise_dram, wr_dram]

/-- R559: what a raw read leaves in the result registers. -/
theorem rd_diagResult (s : State) (d c : Nat) : (∀ j < 16, (s.diagResult d c).rd (R.DIAG_DATA j) = field d (32 * j) 32 % 2 ^ 32)
    ∧ (s.diagResult d c).rd R.DIAG_CHK_LO = c % 2 ^ 32 ∧ (s.diagResult d c).rd R.DIAG_CHK_HI = c / 2 ^ 32 % 2 ^ 32 := by
  have hfits : ∀ j ∈ List.range 16, (R.DIAG_DATA j).fits = true := by decide
  have hpair : (List.range 16).Pairwise fun i j => (R.DIAG_DATA j).apart (R.DIAG_DATA i) = true := by decide
  have hchk : ∀ j < 16, R.DIAG_CHK_LO.apart (R.DIAG_DATA j) = true ∧ R.DIAG_CHK_HI.apart (R.DIAG_DATA j) = true := by decide
  refine ⟨fun j hj => ?_, ?_, ?_⟩
  · obtain ⟨hlo, hhi⟩ := hchk j hj
    rw [diagResult, rd_wr_apart _ _ _ _ hhi, rd_wr_apart _ _ _ _ hlo]
    exact s.rd_foldl_wr R.DIAG_DATA (fun j => field d (32 * j) 32) hfits hpair (List.mem_range.mpr hj)
  · rw [diagResult, rd_wr_apart _ _ _ _ (by decide), rd_wr_same _ _ _ (by decide)]
    rfl
  · rw [diagResult, rd_wr_same _ _ _ (by decide)]
    rfl

@[simp] theorem diagResult_dram (s : State) (d c : Nat) : (s.diagResult d c).dram = s.dram := by
  have hfold : ∀ l : List Nat, (l.foldl (fun s j => s.wr (R.DIAG_DATA j) (field d (32 * j) 32)) s).dram = s.dram := by
    intro l
    induction l generalizing s with
    | nil => rfl
    | cons j l ih => rw [List.foldl_cons, ih, wr_dram]
  rw [diagResult, wr_dram, wr_dram, hfold]

/-- R559: the data of a word written by the diagnostic access. -/
theorem diagDone_putRaw (s : State) (w op : Nat) : let t := ((s.asked w op).putRaw w s.diagData).diagDone
    t.rawWord w = s.diagData % 2 ^ 512 ∧ t.flag R.DIAG_DONE = true ∧ t.linePending 79 = true
      ∧ (∀ x, s.physical x ≠ s.physical w → t.rawWord x = s.rawWord x)
      ∧ RegFrame s t [R.REG_TOKEN, R.DIAG_WORD, R.DIAG_OP, R.DIAG_DONE, R.PEND_BITS 2] := by
  obtain ⟨hdone, hpend⟩ := ((s.asked w op).putRaw w s.diagData).diagDone_done
  have hraw := rawWord_congr ((s.asked w op).putRaw w s.diagData).diagDone_dram
  have hphys : ∀ x, (s.asked w op).physical x = s.physical x := fun x => by rw [physical, asked_dram, physical]
  refine ⟨?_, hdone, hpend, fun x hx => ?_, ?_⟩
  · rw [hraw, rawWord_putRaw_same]
  · rw [hraw, rawWord_putRaw_other _ _ _ (by rwa [hphys, hphys]), rawWord_congr (s.asked_dram w op)]
  · simp -implicitDefEqProofs [diagDone, asked]

/-! ### The correctable-error log (R554) -/

theorem celValid_fits (k : Nat) : (R.CEL_VALID k).fits = true := by simp [Fld.fits, R.CEL_VALID]

theorem celValid_apart {j k : Nat} (h : j ≠ k) : (R.CEL_VALID j).apart (R.CEL_VALID k) = true := by
  simp only [Fld.apart, R.CEL_VALID, Bool.or_eq_true, bne_iff_ne]
  omega

theorem ceLogUsed_apart (k : Nat) : R.CE_LOG_USED.apart (R.CEL_VALID k) = true := by
  simp only [Fld.apart, R.CEL_VALID, R.CE_LOG_USED, Bool.or_eq_true, bne_iff_ne]
  omega

/-- R554: an entry freed is no longer valid; the others stay as they are. -/
theorem flag_freeLog (s : State) (k j : Nat) : (s.freeLog k).flag (R.CEL_VALID j) = if j = k then false else s.flag (R.CEL_VALID j) := by
  rw [freeLog, countLog, flag_wr_apart _ _ _ _ (ceLogUsed_apart j)]
  split
  · next h =>
    rw [h, flag, rd_update, rd_wr_same _ _ _ (celValid_fits k)]
    rfl
  · next h => rw [flag, rd_update, rd_wr_apart _ _ _ _ (celValid_apart (Ne.symm h)), flag]

theorem freeLog_dram (s : State) (k : Nat) : (s.freeLog k).dram = { s.dram with overflowed := false } := by
  simp -implicitDefEqProofs only [freeLog, countLog, wr_dram]

theorem rd_freeLog_used (s : State) (k : Nat) : (s.freeLog k).rd R.CE_LOG_USED =
    ((List.range 32).filter fun j => (s.freeLog k).flag (R.CEL_VALID j)).length % 2 ^ R.CE_LOG_USED.width := by
  rw [freeLog, countLog, rd_wr_same _ _ _ (by decide)]
  simp only [flag_wr_apart _ _ _ _ (ceLogUsed_apart _)]

/-- R554: entries freed one after the other. -/
theorem freeLogs (s : State) (n : Nat) : (∀ k ≤ n, ((List.range (n + 1)).foldl freeLog s).flag (R.CEL_VALID k) = false)
    ∧ ((List.range (n + 1)).foldl freeLog s).dram = { s.dram with overflowed := false } := by
  induction n with
  | zero =>
    refine ⟨fun k hk => ?_, freeLog_dram s 0⟩
    change (s.freeLog 0).flag _ = _
    rw [flag_freeLog, if_pos (Nat.le_zero.mp hk)]
  | succ n ih =>
    obtain ⟨hflags, hdram⟩ := ih
    rw [List.range_succ, List.foldl_append, List.foldl_cons, List.foldl_nil]
    refine ⟨fun k hk => ?_, by rw [freeLog_dram, hdram]⟩
    rw [flag_freeLog]
    split
    · rfl
    · exact hflags k (by omega)

end State

/-! ### O41 -/

theorem exec_scrubStep (s : State) (b : Bool) :
    exec (.scrubStep b) s = .next (if s.flag R.SCRUB_EN && s.dom.dram then s.scrubStep b else s) := rfl
theorem exec_diagRawRead (s : State) (w : BitVec 29) :
    exec (.diagRawRead w) s = .next (s.access R.DIAG_GO fun s => s.diagGo w.toNat 0) := rfl
theorem exec_diagWriteAll (s : State) (w : BitVec 29) :
    exec (.diagWriteAll w) s = .next (s.access R.DIAG_GO fun s => s.diagGo w.toNat 1) := rfl
theorem exec_diagWriteData (s : State) (w : BitVec 29) :
    exec (.diagWriteData w) s = .next (s.access R.DIAG_GO fun s => s.diagGo w.toNat 2) := rfl
theorem exec_diagWriteCheck (s : State) (w : BitVec 29) :
    exec (.diagWriteCheck w) s = .next (s.access R.DIAG_GO fun s => s.diagGo w.toNat 3) := rfl
theorem exec_ceLogClr (s : State) :
    exec .ceLogClr s = .next (s.access R.CE_LOG_CLR fun s => (List.range 32).foldl State.freeLog s) := rfl
theorem exec_celValidClear (s : State) (k : Fin 32) :
    exec (.celValidClear k) s = .next (s.access (R.CEL_VALID k.val) fun s => s.freeLog k.val) := rfl
theorem exec_dmcCntClr (s : State) : exec .dmcCntClr s = .next (s.access R.DMC_CNT_CLR fun s => s.clearAll
    [R.CE_CNT, R.UE_CNT, R.POISON_RD_CNT, R.CURED_CNT, R.CE_LOG_OVF, R.UNWRITTEN_RD_CNT]) := rfl

/-- R555: one step of the scrubber on a written word. -/
theorem scrubStep_completes (s : State) (b : Bool) {w : Nat} (hen : s.flag R.SCRUB_EN = true) (hdom : s.dom.dram = true)
    (hnext : (s.wrFlag R.SCRUB_BEHIND b).scrubNext ((s.wrFlag R.SCRUB_BEHIND b).rd R.SCRUB_WORD) = some w)
    (hwritten : (s.wrFlag R.SCRUB_BEHIND b).isWritten w = true) : Completes (exec (.scrubStep b) s) fun t =>
      t.rd R.SCRUB_WORD = (w + 1) % 2 ^ 29 ∧ (∀ d, classify ((s.wrFlag R.SCRUB_BEHIND b).codeOf w)
        ((s.wrFlag R.SCRUB_BEHIND b).rawWord w) ((s.wrFlag R.SCRUB_BEHIND b).rawCheck w) = (.clean, d, 0) →
        t.flag R.SCRUB_BEHIND = b ∧ t.dram = s.dram ∧ RegFrame s t [R.SCRUB_BEHIND, R.SCRUB_WORD]) := by
  have hstep : s.scrubStep b = ((s.wrFlag R.SCRUB_BEHIND b).readWord w true).1.wr R.SCRUB_WORD (w + 1) := by
    simp only [State.scrubStep, hnext]
  rw [exec_scrubStep, hen, hdom, Bool.and_self, if_pos rfl, hstep]
  refine .next ⟨?_, fun d hclean => ?_⟩
  · rw [State.rd_wr_same _ _ _ (by decide)]
    rfl
  · have hread : ((s.wrFlag R.SCRUB_BEHIND b).readWord w true).1 = s.wrFlag R.SCRUB_BEHIND b := by
      simp [State.readWord, hwritten, hclean]
    rw [hread]
    refine ⟨?_, ?_, by simp -implicitDefEqProofs⟩
    · rw [State.flag_wr_apart _ _ _ _ (by decide), State.flag_wrFlag_same _ _ _ (by decide)]
    · rw [State.wr_dram, State.wrFlag_dram]

end Sys2Proof.Machine

open Sys2Proof Sys2Proof.Machine in
/-- Settles O41: each command's equation, and what the operations on words, result registers and log entries leave. -/
theorem dramServiceCompletes : Obligations.DramServiceCompletes := by
  unfold Obligations.DramServiceCompletes
  refine ⟨fun s u b w hen hdom hu hnext hwritten => ?_, fun s w hreach hen => ?_, fun s w hreach hen hwritten hregion => ?_,
    fun s w hreach hen hwritten => ?_, fun s u w hreach hen hwritten hcode hu => ?_, fun s hreach => ?_, fun s k hreach => ?_,
    fun s hreach => ?_⟩
  · subst hu
    exact scrubStep_completes s b hen hdom hnext hwritten
  · rw [exec_diagRawRead]
    refine .access hreach ?_
    rw [s.diagGo_rawRead w.toNat hen]
    obtain ⟨hdata, hlo, hhi⟩ := (s.asked w.toNat 0).rd_diagResult (s.rawWord w.toNat) (s.rawCheck w.toNat)
    obtain ⟨hdone, hpend⟩ := ((s.asked w.toNat 0).diagResult (s.rawWord w.toNat) (s.rawCheck w.toNat)).diagDone_done
    have hapart : ∀ j < 16, R.DIAG_DONE.apart (R.DIAG_DATA j) = true ∧ (R.PEND_BITS 2).apart (R.DIAG_DATA j) = true := by decide
    refine ⟨fun j hj => ?_, ?_, ?_, hdone, hpend, ?_⟩
    · obtain ⟨hd, hp⟩ := hapart j hj
      rw [State.rd_diagDone _ hd hp, hdata j hj, Arith.field, Nat.mod_mod]
    · rw [State.rd_diagDone _ (by decide) (by decide), hlo]
    · rw [State.rd_diagDone _ (by decide) (by decide), hhi]
    · rw [State.diagDone_dram, State.diagResult_dram, State.asked_dram]
  · have hregion' : ((s.asked w.toNat 1).putRaw w.toNat s.diagData).regionOf w.toNat = none := by
      rw [State.regionOf_putRaw, (s.sameRegions_asked w.toNat 1).regionOf, hregion]
    rw [exec_diagWriteAll]
    refine .access hreach ?_
    rw [s.diagGo_writeAll w.toNat hen hwritten, State.putCheck_of_no_region _ _ hregion']
    exact s.diagDone_putRaw w.toNat 1
  · rw [exec_diagWriteData]
    refine .access hreach ?_
    rw [s.diagGo_writeData w.toNat hen hwritten]
    exact s.diagDone_putRaw w.toNat 2
  · rw [exec_diagWriteCheck, s.access_of_reachable _ _ hreach, s.diagGo_writeCheck w.toNat hen hwritten hcode, hu]
    rfl
  · rw [exec_ceLogClr]
    refine .access hreach ?_
    obtain ⟨hflags, hdram⟩ := s.granting.freeLogs 31
    refine ⟨fun k hk => hflags k (by omega), ?_, hdram.trans (by rw [State.wr_dram])⟩
    have hlast : (List.range 32).foldl State.freeLog s.granting = ((List.range 31).foldl State.freeLog s.granting).freeLog 31 := by
      rw [List.range_succ, List.foldl_append, List.foldl_cons, List.foldl_nil]
    have hnone : ((List.range 32).filter fun j => ((List.range 32).foldl State.freeLog s.granting).flag (R.CEL_VALID j)) = [] :=
      List.filter_eq_nil_iff.mpr fun j hj => by simp [hflags j (by have := List.mem_range.mp hj; omega)]
    rw [hlast] at hnone ⊢
    rw [State.rd_freeLog_used, hnone]
    rfl
  · rw [exec_celValidClear]
    refine .access hreach ⟨?_, ?_, ?_⟩
    · rw [State.flag_freeLog, if_pos rfl]
    · rw [State.freeLog_dram, State.wr_dram]
    · simp -implicitDefEqProofs [State.freeLog, State.countLog]
  · rw [exec_dmcCntClr]
    refine .access hreach ?_
    have hclear := s.granting.rd_clearAll (l := [R.CE_CNT, R.UE_CNT, R.POISON_RD_CNT, R.CURED_CNT, R.CE_LOG_OVF,
      R.UNWRITTEN_RD_CNT]) (by decide) (by decide)
    simp only [List.forall_mem_cons] at hclear
    obtain ⟨hce, hue, hpoison, hcured, hovf, hunwritten, -⟩ := hclear
    exact ⟨hce, hue, hpoison, hcured, hovf, hunwritten, ((RegsOnly.refl s).wr _ _).clearAll _⟩
end

section
/-!
O46, ownership (R635 to R637), and what every Damot request meets on its way (R629 to R631).
-/
namespace Sys2Proof.Machine

open Sys2Proof.Arith

namespace State

/-! ### Requests received (R629, R631) -/

theorem restartLease_eq (s : State) : ∃ r, s.restartLease = { s with regs := r, mgt.leaseMs := 0 } := ⟨s.restartLease.regs, rfl⟩

theorem count_eq (s : State) (f : Fld) (d : Nat) : ∃ r, s.count f d = { s with regs := r } := ⟨(s.count f d).regs, rfl⟩

/-- R631, R636: what a request received changes: its counter, and the lease where its sender is the owner. -/
theorem received_eq (s : State) (q : DamotReq) : ∃ r m, s.received q = { s with regs := r, mgt.leaseMs := m } := by
  obtain ⟨r, hr⟩ := s.count_eq R.DM_REQ_CNT 1
  simp only [received]
  rw [hr]
  split
  · obtain ⟨r', hr'⟩ := restartLease_eq { s with regs := r }
    exact ⟨r', 0, hr'⟩
  · exact ⟨r, s.mgt.leaseMs, rfl⟩

theorem rd_received (s : State) (q : DamotReq) {f : Fld} (hcnt : R.DM_REQ_CNT.apart f = true) (hlease : R.LEASE_LEFT.apart f = true) :
    (s.received q).rd f = s.rd f := by
  have hcount := rd_count_apart s R.DM_REQ_CNT f 1 hcnt
  simp only [received, restartLease]
  split
  · rw [rd_wr_apart _ _ _ _ hlease, rd_update, hcount]
  · exact hcount

theorem ownedBy_received (s : State) (q : DamotReq) (p a : Nat) : (s.received q).ownedBy p a = s.ownedBy p a := by
  simp (disch := decide) only [ownedBy, rd_received]

/-- R629, R631: a sound request is received, and then served. -/
theorem checked_of_sound (s : State) {q : DamotReq} (f : State → DamotReq → State) (h : s.sound q) :
    s.checked q f = f (s.received q) q := by
  obtain ⟨hhears, hheader, hframed⟩ := h
  simp [checked, hhears, hheader, hframed]

/-! ### Ownership (R635, R636) -/

theorem ownedBy_iff (s : State) (p a : Nat) : s.ownedBy p a = true ↔
    s.rd R.OWN_STATE ≠ 0 ∧ s.rd R.OWN_POS = p ∧ s.rd R.OWN_ADDR_LO + 2 ^ 32 * s.rd R.OWN_ADDR_HI = a := by
  simp [ownedBy, and_assoc]

/-- R636: what the new owner's registers read. -/
theorem rd_takeOwner (s : State) (p : Fin 11) (a : BitVec 64) : let t := s.takeOwner p.val a.toNat
    t.rd R.OWN_STATE = 1 ∧ t.rd R.OWN_POS = p.val ∧ t.ownedBy p.val a.toNat = true ∧ t.rd R.LEASE_LEFT = s.rd R.LEASE_S
      ∧ t.linePending 208 = true ∧ t.rd R.OWN_TOKEN = s.rd R.OWN_TOKEN := by
  have hpos : p.val % 2 ^ 4 = p.val := Nat.mod_eq_of_lt (by omega)
  have hstate : (s.takeOwner p.val a.toNat).rd R.OWN_STATE = 1 := by
    simp -implicitDefEqProofs (disch := decide) [takeOwner, restartLease, rd_raise, rd_wr_apart, rd_wr_same]
  have hown : (s.takeOwner p.val a.toNat).rd R.OWN_POS = p.val := by
    simp -implicitDefEqProofs (disch := decide) [takeOwner, restartLease, rd_raise, rd_wr_apart, rd_wr_same]
    exact hpos
  have hlo : (s.takeOwner p.val a.toNat).rd R.OWN_ADDR_LO = a.toNat % 2 ^ 32 := by
    simp -implicitDefEqProofs (disch := decide) [takeOwner, restartLease, rd_raise, rd_wr_apart, rd_wr_same]
    rfl
  have hhi : (s.takeOwner p.val a.toNat).rd R.OWN_ADDR_HI = a.toNat / 2 ^ 32 % 2 ^ 32 := by
    simp -implicitDefEqProofs (disch := decide) [takeOwner, restartLease, rd_raise, rd_wr_apart, rd_wr_same]
    rfl
  have hlease : (s.takeOwner p.val a.toNat).rd R.LEASE_LEFT = s.rd R.LEASE_S := by
    simp -implicitDefEqProofs (disch := decide) [takeOwner, restartLease, rd_raise, rd_wr_apart, rd_wr_same]
    exact Nat.mod_eq_of_lt (s.rd_lt R.LEASE_S)
  refine ⟨hstate, hown, ?_, hlease, linePending_raise .., ?_⟩
  · rw [ownedBy_iff, hstate, hown, hlo, hhi]
    have := a.isLt
    omega
  · simp -implicitDefEqProofs (disch := decide) [takeOwner, restartLease, rd_raise, rd_wr_apart]

/-- R636: what the registers of a device without an owner read. -/
theorem rd_unown (s : State) (h : s.rd R.OWN_STATE ≠ 0) : s.unown.rd R.OWN_STATE = 0 ∧ s.unown.rd R.OWN_POS = 0xF
    ∧ s.unown.rd R.LEASE_LEFT = 0 ∧ s.unown.linePending 208 = true := by
  rw [unown, if_neg h]
  refine ⟨?_, ?_, ?_, linePending_raise ..⟩
  all_goals
    simp -implicitDefEqProofs (disch := decide) [rd_raise, rd_wr_apart, rd_wr_same]
  rfl

theorem regsOnly_unown (s : State) : RegsOnly s s.unown := by
  rw [unown]
  split
  · exact RegsOnly.refl s
  · exact (((((((RegsOnly.refl s).wr _ _).wr _ _).wr _ _).wr _ _).wr _ _).wr _ _).raise _

/-! ### Claims (R636, R637) -/

/-- R637: a lone claim without a token is received and judged, and the claim token moves one past it. -/
theorem claims_single (s : State) {q : DamotReq} (h : s.sound q) (hauth : authOf q = false) :
    s.claims [q] = ((s.received q).wr R.OWN_TOKEN ((q.pos.val + 1) % 11)).judgeClaim q false := by
  obtain ⟨hhears, hheader, hframed⟩ := h
  have hone : (List.range 11).filterMap (fun p => [q].find? fun q => q.pos.val == p && s.hears q) = [q] := by
    have hfind : ∀ p, ([q].find? fun q => q.pos.val == p && s.hears q) = if q.pos.val = p then some q else none := fun p => by
      by_cases hp : q.pos.val = p <;> simp [hp, hhears]
    have hlt := q.pos.isLt
    simp only [hfind]
    generalize q.pos.val = x at hlt
    interval_cases x <;> rfl
  have horder : ∀ token, tokenOrder 11 token [q.pos.val] = [q.pos.val] := fun token => tokenOrder_single token q.pos.isLt
  simp only [claims, hone]
  simp -implicitDefEqProofs [hheader, hframed, claimCycle, claimToken, hauth, horder, tokenAfter]

end State

/-! ### O46 -/

/-- A request with its own operation named again. -/
theorem damotReq_op (q : DamotReq) {o : BitVec 8} (h : q.op = o) : { q with op := o } = q := by
  rw [← h]

/-- R636, R637. -/
theorem damotClaim_completes (s : State) (q : DamotReq) (hop : q.op = 0x10) (hsound : s.sound q) (hauth : authOf q = false)
    (hfree : s.rd R.OWN_STATE = 0) : ∃ u : State, exec (.damotClaim [q]) s = .next (u.reply q 0) ∧ u.rd R.OWN_STATE = 1
      ∧ u.rd R.OWN_POS = q.pos.val ∧ u.ownedBy q.pos.val q.addr.toNat = true ∧ u.rd R.LEASE_LEFT = s.rd R.LEASE_S
      ∧ u.linePending 208 = true ∧ u.rd R.OWN_TOKEN = (q.pos.val + 1) % 11 := by
  have hfree' : ((s.received q).wr R.OWN_TOKEN ((q.pos.val + 1) % 11)).rd R.OWN_STATE = 0 := by
    rw [State.rd_wr_apart _ _ _ _ (by decide), s.rd_received q (by decide) (by decide), hfree]
  have hexec : exec (.damotClaim [q]) s =
      .next ((((s.received q).wr R.OWN_TOKEN ((q.pos.val + 1) % 11)).takeOwner q.pos.val q.addr.toNat).reply q 0) := by
    change Host.Outcome.next (s.claims [{ q with op := 0x10 }]) = _
    rw [damotReq_op q hop, s.claims_single hsound hauth, State.judgeClaim]
    simp only [hfree', if_true, decide_true, Bool.true_or]
  obtain ⟨hstate, hpos, howned, hlease, hline, htoken⟩ :=
    ((s.received q).wr R.OWN_TOKEN ((q.pos.val + 1) % 11)).rd_takeOwner q.pos q.addr
  refine ⟨_, hexec, hstate, hpos, howned, hlease.trans ?_, hline, htoken.trans ?_⟩
  · rw [State.rd_wr_apart _ _ _ _ (by decide), s.rd_received q (by decide) (by decide)]
  · rw [State.rd_wr_same _ _ _ (by decide)]
    exact Nat.mod_eq_of_lt ((Nat.mod_lt _ (by decide)).trans (by decide : 11 < 2 ^ 4))

end Sys2Proof.Machine

open Sys2Proof Sys2Proof.Machine in
/-- Settles O46: a sound request is received and served, and what becoming and ceasing to be the owner leave. -/
theorem ownershipCommandsComplete : Obligations.OwnershipCommandsComplete := by
  unfold Obligations.OwnershipCommandsComplete
  refine ⟨damotClaim_completes, fun s q hop hsound howner => ?_, fun s q hop hsound howner hpos => ?_,
    fun s q hop hsound hstate hpos haddr => ?_, fun s hstate => ?_, fun s hstate => ?_, fun s hreach hstate => ?_⟩
  · have howner' : (s.received q).ownerSends q = true := (s.ownedBy_received q _ _).trans howner
    obtain ⟨hne, -, -⟩ := ((s.received q).ownedBy_iff _ _).mp howner'
    obtain ⟨hstate, hpos, -, hline⟩ := (s.received q).rd_unown hne
    refine ⟨(s.received q).unown, ?_, hstate, hpos, hline⟩
    change Host.Outcome.next (s.checked { q with op := 0x11 } _) = _
    rw [damotReq_op q hop, s.checked_of_sound _ hsound, State.damotRelease, if_pos howner']
  · have howner' : (s.received q).ownerSends q = true := (s.ownedBy_received q _ _).trans howner
    have hexec : exec (.damotOffer q) s = .next (((({ s.received q with
        mgt := { (s.received q).mgt with offerAddr := Arith.field q.payload 8 64 } }.wr R.OWN_STATE 2).wr R.OFFER_POS
          (Arith.field q.payload 0 8)).raise 208).reply q 0) := by
      change Host.Outcome.next (s.checked { q with op := 0x13 } _) = _
      rw [damotReq_op q hop, s.checked_of_sound _ hsound, State.damotOffer]
      simp only [howner', Bool.not_true, Bool.false_eq_true, if_false, if_neg (Nat.not_lt.mpr hpos)]
    refine ⟨_, hexec, ?_, ?_, ?_, ?_, State.linePending_raise ..⟩
    · simp -implicitDefEqProofs (disch := decide) [State.rd_raise, State.rd_wr_apart, State.rd_wr_same]
      rfl
    · rw [State.rd_raise _ _ _ (by decide), State.rd_wr_same _ _ _ (by decide)]
      exact Nat.mod_eq_of_lt (Nat.lt_of_le_of_lt hpos (by decide : 10 < 2 ^ 4))
    · simp -implicitDefEqProofs
    · simp -implicitDefEqProofs (disch := decide) [State.rd_raise, State.rd_wr_apart, State.rd_received]
  · have hstate' : (s.received q).rd R.OWN_STATE = 2 := (s.rd_received q (by decide) (by decide)).trans hstate
    have hpos' : (s.received q).rd R.OFFER_POS = q.pos.val := (s.rd_received q (by decide) (by decide)).trans hpos
    have haddr' : (s.received q).mgt.offerAddr = q.addr.toNat := by
      obtain ⟨r, m, heq⟩ := s.received_eq q
      rw [heq, haddr]
    obtain ⟨hown, -, howned, hlease, hline, -⟩ := (s.received q).rd_takeOwner q.pos q.addr
    refine ⟨(s.received q).takeOwner q.pos.val q.addr.toNat, ?_, hown, howned,
      hlease.trans (s.rd_received q (by decide) (by decide)), hline⟩
    change Host.Outcome.next (s.checked { q with op := 0x14 } _) = _
    rw [damotReq_op q hop, s.checked_of_sound _ hsound, State.damotAccept, if_pos ⟨hstate', hpos', haddr'⟩]
  · obtain ⟨hown, hpos, hlease, hline⟩ := s.rd_unown hstate
    change Completes (.next (if s.rd R.OWN_STATE = 0 then s else s.unown.raise 211)) _
    rw [if_neg hstate]
    refine .next ⟨?_, ?_, ?_, ?_, State.linePending_raise .., s.regsOnly_unown.raise _⟩
    · rw [State.rd_raise _ _ _ (by decide), hown]
    · rw [State.rd_raise _ _ _ (by decide), hpos]
    · rw [State.rd_raise _ _ _ (by decide), hlease]
    · rw [State.linePending_raise_eq, hline]
      rfl
  · change Completes (.next (if s.rd R.OWN_STATE = 2 then (((s.wr R.OWN_STATE 1).wr R.OFFER_POS 0xF).raise 208).raise 212 else s)) _
    rw [if_pos hstate]
    refine .next ⟨?_, ?_, State.linePending_raise .., by simp -implicitDefEqProofs⟩
    · simp -implicitDefEqProofs (disch := decide) [State.rd_raise, State.rd_wr_apart, State.rd_wr_same]
    · simp -implicitDefEqProofs (disch := decide) [State.rd_raise, State.rd_wr_same]
      rfl
  · refine Completes.access hreach ?_
    have hstate' : s.granting.rd R.OWN_STATE ≠ 0 := by rwa [State.rd_wr_apart _ _ _ _ (by decide)]
    obtain ⟨hown, hpos, -, hline⟩ := s.granting.rd_unown hstate'
    exact ⟨hown, hpos, hline, ((RegsOnly.refl s).wr _ _).trans s.granting.regsOnly_unown⟩
end

section
/-!
O47, the dictionary writes that burn fuses, commit an update, boot a recovery image or unlock debug access (R125, R134 to R136,
R152, R558, R643, R651 to R654): how a whole SET of one object is judged, and what each such write does.
-/
namespace Sys2Proof.Machine

open Sys2Proof.Arith

/-- An object of fixed size, written by its owner or by authorization, that no lock covers and that no single field holds. -/
def objectRow (i j type access : Nat) (d : Dflt) (lo hi : Int) (k : Special) : ObjRow :=
  ⟨i, i, j, j, type, access, d, fix lo hi, .none, .special k⟩

/-- The dictionary before its security objects. -/
def earlierObjects : List ObjRow := hostObjects ++ mediaObjects ++ readObjects ++ servoObjects ++ calObjects ++ faultObjects

/-- No earlier object has an index at or above 0x8000. -/
theorem earlierObjects_idxHi : earlierObjects.all (fun r => decide (r.idxHi < 0x8000)) = true := by decide

/-- An index at or above 0x8000 is looked up among the security objects. -/
theorem findObject_security {i : Nat} (j : Nat) (hi : 0x8000 ≤ i) : findObject i j = securityObjects.find? fun r =>
    decide (r.idxLo ≤ i) && decide (i ≤ r.idxHi) && decide (r.subLo ≤ j) && decide (j ≤ r.subHi) := by
  have hnone : earlierObjects.find? (fun r =>
      decide (r.idxLo ≤ i) && decide (i ≤ r.idxHi) && decide (r.subLo ≤ j) && decide (j ≤ r.subHi)) = none := by
    refine List.find?_eq_none.mpr fun r hr => ?_
    have hlt : r.idxHi < 0x8000 := of_decide_eq_true (List.all_eq_true.mp earlierObjects_idxHi r hr)
    simp [Nat.not_le.mpr (Nat.lt_of_lt_of_le hlt hi)]
  have hsplit : objects = earlierObjects ++ securityObjects := rfl
  rw [findObject, hsplit, List.find?_append, hnone, Option.none_or]

theorem findObject_spinAtBoot : findObject 0x8010 6 = some (objectRow 0x8010 6 6 2 (.num 1) 0 1 .spinAtBoot) :=
  (findObject_security _ (by decide)).trans rfl
theorem findObject_revoke : findObject 0x8010 3 = some (objectRow 0x8010 3 0 3 .now 0 7 .revoke) :=
  (findObject_security _ (by decide)).trans rfl
theorem findObject_fwSvn : findObject 0x8010 1 = some (objectRow 0x8010 1 0 3 .now 0 127 .fwSvn) :=
  (findObject_security _ (by decide)).trans rfl
theorem findObject_mcSvn : findObject 0x8010 2 = some (objectRow 0x8010 2 0 3 .now 0 63 .mcSvn) :=
  (findObject_security _ (by decide)).trans rfl
theorem findObject_spareRow : findObject 0xA003 3 = some (objectRow 0xA003 3 2 3 (.num 0) 0 16777215 .spareRow) :=
  (findObject_security _ (by decide)).trans rfl
theorem findObject_updateCommit : findObject 0x8030 2 = some (objectRow 0x8030 2 6 2 (.num 0) 1 4 .updateCommit) :=
  (findObject_security _ (by decide)).trans rfl
theorem findObject_recoveryBoot : findObject 0x8040 2 = some (objectRow 0x8040 2 6 2 (.num 0) 1 1 .recoveryBoot) :=
  (findObject_security _ (by decide)).trans rfl
theorem findObject_debugUnlock : findObject 0x8050 1 = some (objectRow 0x8050 1 6 3 .now 1 1 .debugUnlock) :=
  (findObject_security _ (by decide)).trans rfl

namespace State

/-! ### A whole SET (R632, R633, R643) -/

/-- The state in which a whole SET is judged: the request received, nothing staged. -/
def judging (s : State) (q : DamotReq) : State := (s.received q).discardStage q.pos.val

theorem judging_eq (s : State) (q : DamotReq) :
    ∃ r m x, s.judging q = { s with regs := r, mgt := { s.mgt with leaseMs := m, stage := x } } := by
  obtain ⟨r, m, h⟩ := s.received_eq q
  rw [judging, h]
  exact ⟨r, m, _, rfl⟩

theorem judging_fields (s : State) (q : DamotReq) :
    (s.judging q).fuses = s.fuses ∧ (s.judging q).boot = s.boot ∧ (s.judging q).dram = s.dram := by
  obtain ⟨r, m, x, h⟩ := s.judging_eq q
  rw [h]
  exact ⟨rfl, rfl, rfl⟩

theorem rd_judging (s : State) (q : DamotReq) {f : Fld} (hcnt : R.DM_REQ_CNT.apart f = true) (hlease : R.LEASE_LEFT.apart f = true) :
    (s.judging q).rd f = s.rd f := by
  rw [judging, discardStage, rd_update, s.rd_received q hcnt hlease]

/-- R633: the value of a whole SET is its own bytes. -/
theorem placeBytes_whole (n v : Nat) : placeBytes 0 0 n (v % 2 ^ (8 * n)) = v % 2 ^ (8 * n) := by
  simp [placeBytes, putField]

/-- What the answer to a request leaves. -/
theorem replyCode_eq (s : State) (q : DamotReq) (r : ObjRow) (n : Nat) (x : Nat × Option Nat) :
    ∃ o h, s.replyCode q r n x = { s with out := o, mgt := { s.mgt with held := h } } := by
  have hrespond : ∀ p, ∃ o h, s.respond q p = { s with out := o, mgt := { s.mgt with held := h } } := fun p => by
    simp only [respond]
    split
    · exact ⟨_, _, rfl⟩
    · exact ⟨_, _, rfl⟩
  rw [replyCode]
  split
  · exact hrespond _
  · exact hrespond _

/-- R640: the token that follows a value of `n` bytes, where there is one. -/
def tokenAfterValue (q : DamotReq) (n : Nat) : Nat :=
  if authOf q && decide (tokenBytes ≤ q.len.toNat) then q.payload / 2 ^ (8 * n) % 2 ^ (8 * tokenBytes) else 0

theorem tokenAfterValue_of_auth {s : State} {q : DamotReq} {n v : Nat} (hset : s.setWhole q n v) (hauth : authOf q = true) :
    tokenAfterValue q n = q.payload / 2 ^ (8 * n) % 2 ^ (8 * tokenBytes) := by
  obtain ⟨-, -, -, hlen, -⟩ := hset
  have htoken : tokenBytes ≤ q.len.toNat := by rw [hlen, hauth, if_pos rfl]; omega
  simp [tokenAfterValue, hauth, htoken]

/-- R632, R633: a whole SET of an object is judged with its value and its token, and answered. -/
theorem setFixed_of_whole (s : State) {q : DamotReq} {n v i j : Nat} {r : ObjRow} (hop : q.op = 0x02)
    (hi : q.index = BitVec.ofNat 16 i) (hj : q.sub = BitVec.ofNat 8 j) (hset : s.setWhole q n v) (hn : n ≤ 4)
    (hfind : findObject q.index.toNat q.sub.toNat = some r) :
    ∃ l, s.setFixed q i j = ((s.judging q).judgeSet q r (q.index.toNat - r.idxLo) (q.sub.toNat - r.subLo) v n
        (tokenAfterValue q n)).1.replyCode q r l
      ((s.judging q).judgeSet q r (q.index.toNat - r.idxLo) (q.sub.toNat - r.subLo) v n (tokenAfterValue q n)).2 := by
  obtain ⟨hsound, hmore, hoffset, hlen, hvalue, hstage, hserved⟩ := hset
  have hsame : { q with op := 0x02, index := BitVec.ofNat 16 i, sub := BitVec.ofNat 8 j } = q := by rw [← hop, ← hi, ← hj]
  have hstaged : (s.received q).stagedValue q = none := by
    obtain ⟨r, m, heq⟩ := s.received_eq q
    rw [heq]
    simp [stagedValue, hstage]
  have hserved' : (s.judging q).servedNow q.index.toNat q.sub.toNat = true := by
    rw [servedNow, flag, s.rd_judging q (by decide) (by decide)]
    exact hserved
  have hbytes : q.len.toNat - (if authOf q then tokenBytes else 0) = n := by rw [hlen, Nat.add_sub_cancel]
  have hvalue' : (if stageLimit < n then 0 else placeBytes 0 0 n (q.payload % 2 ^ (8 * n))) = v := by
    rw [if_neg (by rw [stageLimit]; omega), placeBytes_whole, hvalue]
  have hoffset' : q.offset.toNat = 0 := by rw [hoffset]; rfl
  rw [setFixed, hsame, s.checked_of_sound _ hsound, damotSet, hmore, if_neg (by decide), finalSet]
  unfold judging at hserved'
  simp only [hstaged, hbytes, hfind, hserved', hoffset', Option.map_none, Option.getD_none, hvalue', Nat.zero_add, Nat.zero_max,
    Bool.not_true, Bool.false_eq_true, if_false]
  exact ⟨_, rfl⟩

/-- R632: the answer to a whole SET leaves the registers, the boot state and the fuses as its judgement left them. -/
theorem setFixed_leaves (s : State) {q : DamotReq} {n v i j : Nat} {r : ObjRow} (hop : q.op = 0x02)
    (hi : q.index = BitVec.ofNat 16 i) (hj : q.sub = BitVec.ofNat 8 j) (hset : s.setWhole q n v) (hn : n ≤ 4)
    (hfind : findObject q.index.toNat q.sub.toNat = some r) :
    ∃ x y, (s.setFixed q i j).regs = ((s.judging q).judgeSet q r x y v n (tokenAfterValue q n)).1.regs
      ∧ (s.setFixed q i j).boot = ((s.judging q).judgeSet q r x y v n (tokenAfterValue q n)).1.boot
      ∧ (s.setFixed q i j).fuses = ((s.judging q).judgeSet q r x y v n (tokenAfterValue q n)).1.fuses
      ∧ (s.setFixed q i j).mgt.updateStatus =
        ((s.judging q).judgeSet q r x y v n (tokenAfterValue q n)).1.mgt.updateStatus := by
  obtain ⟨l, heq⟩ := s.setFixed_of_whole hop hi hj hset hn hfind
  obtain ⟨o, h, hreply⟩ := replyCode_eq ((s.judging q).judgeSet q r (q.index.toNat - r.idxLo) (q.sub.toNat - r.subLo) v n
    (tokenAfterValue q n)).1 q r l ((s.judging q).judgeSet q r (q.index.toNat - r.idxLo) (q.sub.toNat - r.subLo) v n
    (tokenAfterValue q n)).2
  rw [heq, hreply]
  exact ⟨_, _, rfl, rfl, rfl, rfl⟩

/-- R632: a SET by the owner of an object it may write, in range. -/
theorem judgeSet_of_owner (s : State) {q : DamotReq} {r : ObjRow} {a b v n : Nat} (t : Nat) (hacc : r.access = 2) (hlock : r.lock = .none)
    (hauth : authOf q = false) (howner : s.ownerSends q = true) (hrange : s.outOfRange r a b v = false)
    (hlen : s.badLength r n = false) : s.judgeSet q r a b v n t = s.writeObject r a b v n := by
  simp [judgeSet, setToken, objectLocked, hacc, hlock, hauth, howner, hrange, hlen]

/-- R632, R643: an authorized SET whose token fails a check. -/
theorem judgeSet_of_token_fails (s : State) {q : DamotReq} {r : ObjRow} {a b v n t c : Nat} (hacc : r.access = 3) (hlock : r.lock = .none)
    (hauth : authOf q = true) (hcode : s.tokenCode q 0x02 t (Config.shake256 256 n v) = c) (hc : c ≠ 0) :
    s.judgeSet q r a b v n t = ((s.checkToken q 0x02 t (Config.shake256 256 n v)).1, stAuthInvalid, some c) := by
  have hsnd : (s.checkToken q 0x02 t (Config.shake256 256 n v)).2 = c := by
    simp only [checkToken, hcode]
    rw [if_neg hc]
  simp [judgeSet, setToken, objectLocked, hacc, hlock, hauth, hsnd, hc]

/-- R642: the nonce of a request's position consumed. -/
def nonceConsumed (s : State) (q : DamotReq) : State :=
  { s with mgt := { s.mgt with nonces := Store.put none s.mgt.nonces q.pos.val none } }

theorem rd_nonceConsumed (s : State) (q : DamotReq) (f : Fld) : (s.nonceConsumed q).rd f = s.rd f := rfl

/-- R632, R643: an authorized SET whose token passes. -/
theorem judgeSet_of_token_passes (s : State) {q : DamotReq} {r : ObjRow} {a b v n t : Nat} (hacc : r.access = 3) (hlock : r.lock = .none)
    (hauth : authOf q = true) (hcode : s.tokenCode q 0x02 t (Config.shake256 256 n v) = 0)
    (hrange : (s.nonceConsumed q).outOfRange r a b v = false) (hlen : (s.nonceConsumed q).badLength r n = false) :
    s.judgeSet q r a b v n t = (s.nonceConsumed q).writeObject r a b v n := by
  unfold nonceConsumed at hrange hlen ⊢
  simp [judgeSet, setToken, checkToken, objectLocked, hacc, hlock, hauth, hcode, hrange, hlen]

/-- R643: what a token that fails leaves. -/
theorem checkToken_of_fails (s : State) {q : DamotReq} {o t d : Nat} (hcode : s.tokenCode q o t d ≠ 0) :
    ∃ x, (s.checkToken q o t d).1 = (({ s with mgt := { s.mgt with nonces := x } }.count R.AUTH_FAIL_CNT).raise 210) := by
  simp only [checkToken, if_neg hcode]
  split
  · exact ⟨_, rfl⟩
  · exact ⟨s.mgt.nonces, rfl⟩

theorem tokenCode_judging (s : State) (q : DamotReq) (o t d : Nat) : (s.judging q).tokenCode q o t d = s.tokenCode q o t d := by
  obtain ⟨r, m, x, h⟩ := s.judging_eq q
  rw [h]
  rfl

theorem ownerSends_judging (s : State) (q : DamotReq) : (s.judging q).ownerSends q = s.ownerSends q := by
  simp (disch := decide) only [ownerSends, ownedBy, rd_judging]

/-- R14, R632: a value that is taken. -/
theorem writeObject_of_taken (s : State) {r : ObjRow} {k : Special} {x y v n : Nat} {u : State} {c : Option Nat}
    (hstore : r.store = .special k) (hw : (s.wr R.REG_TOKEN 2).writeSpecial k x y v n = (u, 0, c)) :
    s.writeObject r x y v n = (u, 0, c) := by
  simp only [writeObject, hstore, hw, if_true]

/-- R632: a value that is refused; the register arbiter's token stays. -/
theorem writeObject_of_refused (s : State) {r : ObjRow} {k : Special} {x y v n e : Nat} {u : State} {c : Option Nat}
    (hstore : r.store = .special k) (hw : (s.wr R.REG_TOKEN 2).writeSpecial k x y v n = (u, e, c)) (he : e ≠ 0) :
    s.writeObject r x y v n = (u.wr R.REG_TOKEN (s.rd R.REG_TOKEN), e, c) := by
  simp only [writeObject, hstore, hw, if_neg he]

/-! ### Burns (R133 to R136, R558) -/

/-- R134, R135, R558: whether a burn may be done rests on the fuses, the images that run, the boot key's slot and the spare rows. -/
theorem mayBurn_congr {s t : State} (hfuses : t.fuses = s.fuses) (hboot : t.boot = s.boot) (hdram : t.dram = s.dram)
    (hkey : t.rd R.BOOT_KEYSLOT = s.rd R.BOOT_KEYSLOT) (b : FuseBurn) : t.mayBurn b = s.mayBurn b := by
  cases b <;> simp only [mayBurn, mayRevoke, keysProgrammed, hfuses, hboot, hdram, hkey]

/-- R136: a burn that may be done, requested while none runs, is under way. -/
theorem requestBurn_of_may (s : State) {b : FuseBurn} (hidle : s.boot.burn = none) (hpf : s.flag R.PF_ACTIVE = false)
    (hmay : s.mayBurn b = true) : s.requestBurn b = ({ s with boot := { s.boot with burn := some b } }, 0) := by
  simp [requestBurn, hidle, hpf, hmay]

theorem writeObject_burn (s : State) {r : ObjRow} {k : Special} {b : FuseBurn} {v n : Nat} (x y : Nat) (hstore : r.store = .special k)
    (hburn : ∀ u : State, u.writeSpecial k x y v n = setAnswered (u.requestBurn b)) (hidle : s.boot.burn = none)
    (hpf : s.flag R.PF_ACTIVE = false) (hmay : s.mayBurn b = true) : s.writeObject r x y v n =
      ({ s.wr R.REG_TOKEN 2 with boot := { s.boot with burn := some b } }, 0, none) := by
  have hpf' : (s.wr R.REG_TOKEN 2).flag R.PF_ACTIVE = false := by rw [flag_wr_apart _ _ _ _ (by decide), hpf]
  have hmay' : (s.wr R.REG_TOKEN 2).mayBurn b = true := by
    rw [mayBurn_congr (wr_fuses ..) (wr_boot ..) (wr_dram ..) (rd_wr_apart _ _ _ _ (by decide)), hmay]
  have hreq := (s.wr R.REG_TOKEN 2).requestBurn_of_may (b := b) (by rw [wr_boot, hidle]) hpf' hmay'
  simp -implicitDefEqProofs only [writeObject, hstore, hburn, hreq, setAnswered, if_true, wr_boot]

@[simp] theorem nonceConsumed_boot (s : State) (q : DamotReq) : (s.nonceConsumed q).boot = s.boot := rfl
@[simp] theorem nonceConsumed_fuses (s : State) (q : DamotReq) : (s.nonceConsumed q).fuses = s.fuses := rfl
@[simp] theorem nonceConsumed_dram (s : State) (q : DamotReq) : (s.nonceConsumed q).dram = s.dram := rfl

/-- R134 to R136, R558, R643: an authorized SET of an object that burns a fuse, judged: a burn is under way where its token
passes. -/
theorem judgeSet_burn (s : State) {q : DamotReq} {r : ObjRow} {k : Special} {b : FuseBurn} {x y v n t : Nat}
    (hauth : authOf q = true) (hacc : r.access = 3) (hlock : r.lock = .none) (hstore : r.store = .special k)
    (hburn : ∀ u : State, u.writeSpecial k x y v n = setAnswered (u.requestBurn b))
    (hrange : ∀ u : State, u.outOfRange r x y v = false) (hlen : ∀ u : State, u.badLength r n = false)
    (hidle : s.boot.burn = none) (hpf : s.flag R.PF_ACTIVE = false) (hmay : s.mayBurn b = true) :
    (s.judgeSet q r x y v n t).1.fuses = s.fuses
      ∧ (s.tokenCode q 0x02 t (Config.shake256 256 n v) = 0 → (s.judgeSet q r x y v n t).1.boot = { s.boot with burn := some b })
      ∧ (s.tokenCode q 0x02 t (Config.shake256 256 n v) ≠ 0 → (s.judgeSet q r x y v n t).1.boot = s.boot
        ∧ (s.judgeSet q r x y v n t).1.rd R.AUTH_FAIL_CNT = min 255 (s.rd R.AUTH_FAIL_CNT + 1)) := by
  by_cases hcode : s.tokenCode q 0x02 t (Config.shake256 256 n v) = 0
  · have hmay' : (s.nonceConsumed q).mayBurn b = true := by
      rw [mayBurn_congr (s.nonceConsumed_fuses q) (s.nonceConsumed_boot q) (s.nonceConsumed_dram q) (s.rd_nonceConsumed q _), hmay]
    have hpf' : (s.nonceConsumed q).flag R.PF_ACTIVE = false := by rw [flag, rd_nonceConsumed, ← flag, hpf]
    have hidle' : (s.nonceConsumed q).boot.burn = none := by rw [nonceConsumed_boot, hidle]
    rw [s.judgeSet_of_token_passes hacc hlock hauth hcode (hrange _) (hlen _),
      writeObject_burn (s.nonceConsumed q) _ _ hstore hburn hidle' hpf' hmay']
    refine ⟨?_, fun _ => ?_, fun hne => absurd hcode hne⟩
    · rw [wr_fuses, nonceConsumed_fuses]
    · rw [nonceConsumed_boot]
  · obtain ⟨m, hcheck⟩ := s.checkToken_of_fails hcode
    rw [s.judgeSet_of_token_fails hacc hlock hauth rfl hcode, hcheck]
    refine ⟨?_, fun h0 => absurd h0 hcode, fun _ => ⟨?_, ?_⟩⟩
    · rw [raise_fuses, count_fuses]
    · rw [raise_boot, count_boot]
    · rw [rd_raise _ _ _ (by decide), rd_count_same _ _ _ (by decide), rd_update]
      rfl

end State

/-- R643: the code found for the token of a whole SET. -/
theorem State.tokenCode_of_whole (s : State) {q : DamotReq} {n v : Nat} (hset : s.setWhole q n v) (hauth : authOf q = true) :
    (s.judging q).tokenCode q 0x02 (State.tokenAfterValue q n) (Config.shake256 256 n v) = s.tokenResult q n v := by
  rw [State.tokenCode_judging, State.tokenAfterValue_of_auth hset hauth, State.tokenResult]

/-- R134 to R136, R558, R643: an authorized SET of an object that burns a fuse. -/
theorem burnSet_completes (s : State) {q : DamotReq} {n v i j : Nat} {r : ObjRow} {k : Special} {b : FuseBurn} (hop : q.op = 0x02)
    (hi : q.index = BitVec.ofNat 16 i) (hj : q.sub = BitVec.ofNat 8 j) (hset : s.setWhole q n v) (hn : n ≤ 4)
    (hfind : findObject q.index.toNat q.sub.toNat = some r) (hauth : authOf q = true) (hacc : r.access = 3) (hlock : r.lock = .none)
    (hstore : r.store = .special k) (hburn : ∀ (u : State) (x y : Nat), u.writeSpecial k x y v n = State.setAnswered (u.requestBurn b))
    (hrange : ∀ (u : State) (x y : Nat), u.outOfRange r x y v = false) (hlen : ∀ u : State, u.badLength r n = false)
    (hidle : s.boot.burn = none) (hpf : s.flag R.PF_ACTIVE = false) (hmay : s.mayBurn b = true) :
    Completes (.next (s.setFixed q i j)) fun t => t.fuses = s.fuses
      ∧ (s.tokenResult q n v = 0 → t.boot = { s.boot with burn := some b })
      ∧ (s.tokenResult q n v ≠ 0 → t.boot = s.boot ∧ t.rd R.AUTH_FAIL_CNT = min 255 (s.rd R.AUTH_FAIL_CNT + 1)) := by
  obtain ⟨x, y, hregs, hbootrec, hfusesrec, -⟩ := s.setFixed_leaves hop hi hj hset hn hfind
  have hresult := s.tokenCode_of_whole hset hauth
  have hcount : (s.judging q).rd R.AUTH_FAIL_CNT = s.rd R.AUTH_FAIL_CNT := s.rd_judging q (by decide) (by decide)
  have hpf' : (s.judging q).flag R.PF_ACTIVE = false := by rw [State.flag, s.rd_judging q (by decide) (by decide), ← State.flag, hpf]
  have hkey : (s.judging q).rd R.BOOT_KEYSLOT = s.rd R.BOOT_KEYSLOT := s.rd_judging q (by decide) (by decide)
  obtain ⟨hfuses, hboot, hdram⟩ := s.judging_fields q
  obtain ⟨hfuses', hpass, hfail⟩ := (s.judging q).judgeSet_burn (t := State.tokenAfterValue q n) hauth hacc hlock hstore
    (fun u => hburn u x y) (fun u => hrange u _ _) hlen (by rw [hboot, hidle]) hpf'
    (by rw [State.mayBurn_congr hfuses hboot hdram hkey, hmay])
  rw [hresult, hboot] at hpass
  rw [hresult, hboot, hcount] at hfail
  exact .next ⟨hfusesrec.trans (hfuses'.trans hfuses), fun h0 => hbootrec.trans (hpass h0),
    fun hne => ⟨hbootrec.trans (hfail hne).1, (State.rd_congr hregs _).trans (hfail hne).2⟩⟩

/-- R632: a whole SET by the owner of an object it may write, in range, is applied and answered. -/
theorem ownerSet_leaves (s : State) {q : DamotReq} {n v i j : Nat} {r : ObjRow} (hop : q.op = 0x02) (hi : q.index = BitVec.ofNat 16 i)
    (hj : q.sub = BitVec.ofNat 8 j) (hset : s.setWhole q n v) (hn : n ≤ 4) (hfind : findObject q.index.toNat q.sub.toNat = some r)
    (hauth : authOf q = false) (howner : s.ownerSends q = true) (hacc : r.access = 2) (hlock : r.lock = .none)
    (hrange : ∀ (u : State) (x y : Nat), u.outOfRange r x y v = false) (hlen : ∀ u : State, u.badLength r n = false) :
    ∃ x y, (s.setFixed q i j).regs = ((s.judging q).writeObject r x y v n).1.regs
      ∧ (s.setFixed q i j).boot = ((s.judging q).writeObject r x y v n).1.boot
      ∧ (s.setFixed q i j).mgt.updateStatus = ((s.judging q).writeObject r x y v n).1.mgt.updateStatus := by
  obtain ⟨x, y, hregs, hboot, -, hstatus⟩ := s.setFixed_leaves hop hi hj hset hn hfind
  rw [(s.judging q).judgeSet_of_owner _ hacc hlock hauth ((s.ownerSends_judging q).trans howner) (hrange _ _ _) (hlen _)]
    at hregs hboot hstatus
  exact ⟨x, y, hregs, hboot, hstatus⟩

/-! ### The boot control record (R126, R152) -/

namespace State

theorem spinAtBoot_congr {s t : State} (h : t.boot = s.boot) : t.spinAtBoot = s.spinAtBoot := by
  simp only [spinAtBoot, bootRecord, h]

theorem bootRecord_congr {s t : State} (h : t.boot = s.boot) : t.bootRecord = s.bootRecord := by
  simp only [bootRecord, h]

/-- R126: the copy written is the one in use next, where its sequence does not wrap. -/
theorem spinAtBoot_writeBootRecord (s : State) (b : Bool) (hseq : ∀ x, s.bootRecord = some x → x.1.seq + 1 < 2 ^ 32) :
    (s.writeBootRecord fun r => { r with spin := b }).spinAtBoot = b := by
  cases h0 : s.boot.rec0 with
  | none =>
    cases h1 : s.boot.rec1 with
    | none => simp [spinAtBoot, bootRecord, writeBootRecord, h0, h1]
    | some d =>
      have hd : d.seq + 1 < 4294967296 := hseq (d, 1) (by simp [bootRecord, h0, h1])
      have hlt : ¬ (d.seq + 1) % 4294967296 < d.seq := by rw [Nat.mod_eq_of_lt hd]; omega
      simp [spinAtBoot, bootRecord, writeBootRecord, h0, h1, hlt]
  | some c =>
    cases h1 : s.boot.rec1 with
    | none =>
      have hc : c.seq + 1 < 4294967296 := hseq (c, 0) (by simp [bootRecord, h0, h1])
      have hlt : c.seq < (c.seq + 1) % 4294967296 := by rw [Nat.mod_eq_of_lt hc]; omega
      simp [spinAtBoot, bootRecord, writeBootRecord, h0, h1, hlt]
    | some d =>
      by_cases hlt : c.seq < d.seq
      · have hd : d.seq + 1 < 4294967296 := hseq (d, 1) (by simp [bootRecord, h0, h1, hlt])
        have hlt' : ¬ (d.seq + 1) % 4294967296 < d.seq := by rw [Nat.mod_eq_of_lt hd]; omega
        simp [spinAtBoot, bootRecord, writeBootRecord, h0, h1, hlt, hlt']
      · have hc : c.seq + 1 < 4294967296 := hseq (c, 0) (by simp [bootRecord, h0, h1, hlt])
        have hlt' : c.seq < (c.seq + 1) % 4294967296 := by rw [Nat.mod_eq_of_lt hc]; omega
        simp [spinAtBoot, bootRecord, writeBootRecord, h0, h1, hlt, hlt']

theorem writeSpecial_spinAtBoot (s : State) (x y v n : Nat) :
    s.writeSpecial .spinAtBoot x y v n = (s.writeBootRecord fun r => { r with spin := v == 1 }, 0, none) := rfl

end State

/-- R125, R152. -/
theorem spinAtBootWrite_completes (s : State) (q : DamotReq) (v : Nat) (hop : q.op = 0x02) (hi : q.index = 0x8010) (hj : q.sub = 6)
    (hset : s.setWhole q 1 v) (hauth : authOf q = false) (howner : s.ownerSends q = true) (hv : v ≤ 1)
    (hseq : ∀ x, s.bootRecord = some x → x.1.seq + 1 < 2 ^ 32) :
    Completes (exec (.spinAtBootWrite q) s) fun t => t.spinAtBoot = (v == 1) := by
  obtain ⟨x, y, -, hbootrec, -⟩ := ownerSet_leaves s (i := 0x8010) (j := 6) hop hi hj hset (by decide)
    (by rw [hi, hj]; exact findObject_spinAtBoot) hauth howner rfl rfl
    (fun u x y => by simp [State.outOfRange, objectRow, typeSigned, typeBytes, fix]; omega) (fun u => rfl)
  obtain ⟨-, hboot, -⟩ := s.judging_fields q
  change Completes (.next (s.setFixed q 0x8010 6)) _
  rw [State.writeObject_of_taken (s.judging q) (k := .spinAtBoot) rfl (State.writeSpecial_spinAtBoot ..)] at hbootrec
  refine .next ((State.spinAtBoot_congr hbootrec).trans (State.spinAtBoot_writeBootRecord ((s.judging q).wr R.REG_TOKEN 2) _
    fun x hx => hseq x ?_))
  rw [← hx, State.bootRecord_congr (State.wr_boot ..), State.bootRecord_congr hboot]

/-! ### Updates and recovery (R651 to R653) -/

namespace State

theorem stagedImage_congr {s t : State} (h : t.hosts = s.hosts) (ep : Nat) : t.stagedImage ep = s.stagedImage ep := by
  rw [stagedImage, h, stagedImage]

theorem slotRuns_congr {s t : State} (hboot : t.boot = s.boot) (hslot : t.rd R.BOOT_SLOT = s.rd R.BOOT_SLOT) (k : Nat) :
    t.slotRuns k = s.slotRuns k := by
  rw [slotRuns, hboot, hslot, slotRuns]

/-- R651, R652: an image that passes its checks begins to be written. -/
theorem damotCommit_of_accepted (s : State) {k : Nat} (hidle : s.boot.update = none) (hruns : s.slotRuns k = false)
    (hcode : imageCode s.fuses (s.stagedImage 6) (decide (2 ≤ k)) false = 0) :
    s.damotCommit k = ({ s with boot := { s.boot with update := some ⟨6, k, 0, s.stagedImage 6, none⟩ } }, 0) := by
  simp [damotCommit, startCommit, hidle, hruns, hcode]

/-- R651: an image that fails a check is announced and nothing is written. -/
theorem startCommit_of_rejected (s : State) {k c : Nat} (hcode : imageCode s.fuses (s.stagedImage 6) (decide (2 ≤ k)) false = c)
    (hc : c ≠ 0) : s.startCommit 6 k 0 none = (s.raise 202, c) := by
  simp only [startCommit, hcode, if_neg hc]

/-- R651, R652: the code of the image's check is UpdateStatus. -/
theorem damotCommit_of_rejected (s z : State) {k c : Nat} (hidle : s.boot.update = none) (hruns : s.slotRuns k = false) (hc : c ≠ 0)
    (hstart : s.startCommit 6 k 0 none = (z, c)) (hline : z.linePending 202 = true) :
    ∃ u, s.damotCommit k = (u, 0) ∧ u.boot = z.boot ∧ u.linePending 202 = true ∧ u.mgt.updateStatus = c := by
  have hcommit : s.damotCommit k = ({ z with mgt.updateStatus := c }, 0) := by
    simp only [damotCommit, hidle, hruns, hstart, Option.isSome_none, Bool.false_eq_true, if_false, if_neg hc]
  exact ⟨_, hcommit, rfl, (linePending_congr rfl 202).trans hline, rfl⟩

theorem writeSpecial_updateCommit (s : State) (x y v n : Nat) :
    s.writeSpecial .updateCommit x y v n = setAnswered (s.damotCommit (v - 1)) := rfl

end State

/-- R651, R652. -/
theorem updateCommit_completes (s : State) (q : DamotReq) (v : Nat) (hop : q.op = 0x02) (hi : q.index = 0x8030) (hj : q.sub = 2)
    (hset : s.setWhole q 1 v) (hauth : authOf q = false) (howner : s.ownerSends q = true) (hlo : 1 ≤ v) (hhi : v ≤ 4)
    (hidle : s.boot.update = none) (hruns : s.slotRuns (v - 1) = false) : Completes (exec (.updateCommit q) s) fun t =>
      (imageCode s.fuses (s.stagedImage 6) (decide (2 ≤ v - 1)) false = 0 →
          t.boot = { s.boot with update := some ⟨6, v - 1, 0, s.stagedImage 6, none⟩ })
        ∧ (imageCode s.fuses (s.stagedImage 6) (decide (2 ≤ v - 1)) false ≠ 0 → t.boot = s.boot ∧ t.linePending 202 = true
          ∧ t.mgt.updateStatus = imageCode s.fuses (s.stagedImage 6) (decide (2 ≤ v - 1)) false) := by
  obtain ⟨x, y, hregs, hbootrec, hstatus⟩ := ownerSet_leaves s (i := 0x8030) (j := 2) hop hi hj hset (by decide)
    (by rw [hi, hj]; exact findObject_updateCommit) hauth howner rfl rfl
    (fun u x y => by simp [State.outOfRange, objectRow, typeSigned, typeBytes, fix]; omega) (fun u => rfl)
  change Completes (.next (s.setFixed q 0x8030 2)) _
  obtain ⟨hfuses, hboot, -⟩ := s.judging_fields q
  have hhosts : ((s.judging q).wr R.REG_TOKEN 2).hosts = s.hosts := by
    obtain ⟨r, m, x, h⟩ := s.judging_eq q
    rw [State.wr_hosts, h]
  have hslot : ((s.judging q).wr R.REG_TOKEN 2).rd R.BOOT_SLOT = s.rd R.BOOT_SLOT := by
    rw [State.rd_wr_apart _ _ _ _ (by decide), s.rd_judging q (by decide) (by decide)]
  have hfuses' : ((s.judging q).wr R.REG_TOKEN 2).fuses = s.fuses := (State.wr_fuses ..).trans hfuses
  have hboot' : ((s.judging q).wr R.REG_TOKEN 2).boot = s.boot := (State.wr_boot ..).trans hboot
  have hidle' : ((s.judging q).wr R.REG_TOKEN 2).boot.update = none := by rw [hboot', hidle]
  have hruns' := (State.slotRuns_congr hboot' hslot (v - 1)).trans hruns
  have himage := State.stagedImage_congr hhosts 6
  by_cases hcode : imageCode s.fuses (s.stagedImage 6) (decide (2 ≤ v - 1)) false = 0
  · have hcommit := State.damotCommit_of_accepted _ hidle' hruns' (by rw [hfuses', himage, hcode])
    rw [State.writeObject_of_taken (s.judging q) (k := .updateCommit) rfl
      (by rw [State.writeSpecial_updateCommit, hcommit, State.setAnswered])] at hbootrec
    refine .next ⟨fun _ => ?_, fun hne => absurd hcode hne⟩
    simp -implicitDefEqProofs only [hbootrec, hboot', himage]
  · obtain ⟨u, hcommit, huboot, huline, hustatus⟩ := State.damotCommit_of_rejected _ _ hidle' hruns' hcode
      (State.startCommit_of_rejected _ (by rw [hfuses', himage]) hcode) (State.linePending_raise ..)
    rw [State.writeObject_of_taken (s.judging q) (k := .updateCommit) rfl
      (by rw [State.writeSpecial_updateCommit, hcommit, State.setAnswered])] at hregs hbootrec hstatus
    exact .next ⟨fun h0 => absurd h0 hcode, fun _ => ⟨hbootrec.trans (huboot.trans ((State.raise_boot ..).trans hboot')),
      (State.linePending_congr hregs _).trans huline, hstatus.trans hustatus⟩⟩

namespace State

/-- R132, R653: a recovery image bound for SRAM that passes its checks is entered. -/
theorem recoveryBoot_of_accepted (s : State) (hrec : s.flag R.BOOT_RECOVERY = true)
    (hcode : imageCode s.fuses (s.stagedImage 7) false false = 0) (hload : loadAddress (s.stagedImage 7) < 0x800000000) :
    ∃ m, s.recoveryBoot = (({ s with sram := m, boot := { s.boot with phase := .firmware, firmware := some (s.stagedImage 7) } }.wr
      R.BOOT_KEYSLOT (keySlot (s.stagedImage 7))).wr R.BOOT_SVN (securityVersion (s.stagedImage 7)), 0, none) := by
  have hno : ¬ (0x800000000 ≤ loadAddress (s.stagedImage 7) ∧ ¬ s.flag R.DRAM_READY = true) := fun h => absurd h.1 (Nat.not_le.mpr hload)
  simp only [recoveryBoot, hrec, hcode, loadBytes, if_pos hload, if_neg hno, Bool.not_true, Bool.false_eq_true, if_false, ne_eq,
    not_true_eq_false]
  exact ⟨_, rfl⟩

/-- R653: a recovery image that fails a check is refused. -/
theorem recoveryBoot_of_rejected (s : State) (hrec : s.flag R.BOOT_RECOVERY = true)
    (hcode : imageCode s.fuses (s.stagedImage 7) false false ≠ 0) :
    s.recoveryBoot = (s, stRefused, some (imageCode s.fuses (s.stagedImage 7) false false)) := by
  simp only [recoveryBoot, hrec, if_pos hcode, Bool.not_true, Bool.false_eq_true, if_false]

theorem writeSpecial_recoveryBoot (s : State) (x y v n : Nat) : s.writeSpecial .recoveryBoot x y v n = s.recoveryBoot := rfl
theorem writeSpecial_debugUnlock (s : State) (x y v n : Nat) : s.writeSpecial .debugUnlock x y v n = (s.debugUnlock, 0, none) := rfl

end State

/-- R132, R653. -/
theorem recoveryBoot_completes (s : State) (q : DamotReq) (hop : q.op = 0x02) (hi : q.index = 0x8040) (hj : q.sub = 2)
    (hset : s.setWhole q 1 1) (hauth : authOf q = false) (howner : s.ownerSends q = true) (hrec : s.flag R.BOOT_RECOVERY = true)
    (hload : loadAddress (s.stagedImage 7) < 0x800000000) : Completes (exec (.recoveryBoot q) s) fun t =>
      (imageCode s.fuses (s.stagedImage 7) false false = 0 →
          t.boot = { s.boot with phase := .firmware, firmware := some (s.stagedImage 7) }
            ∧ t.rd R.BOOT_KEYSLOT = keySlot (s.stagedImage 7) % 2 ^ R.BOOT_KEYSLOT.width)
        ∧ (imageCode s.fuses (s.stagedImage 7) false false ≠ 0 → t.boot = s.boot) := by
  obtain ⟨x, y, hregs, hboot, -⟩ := ownerSet_leaves s (i := 0x8040) (j := 2) hop hi hj hset (by decide)
    (by rw [hi, hj]; exact findObject_recoveryBoot) hauth howner rfl rfl (fun u x y => rfl) (fun u => rfl)
  change Completes (.next (s.setFixed q 0x8040 2)) _
  obtain ⟨hfuses, hsame, -⟩ := s.judging_fields q
  have hhosts : ((s.judging q).wr R.REG_TOKEN 2).hosts = s.hosts := by
    obtain ⟨r, m, x, h⟩ := s.judging_eq q
    rw [State.wr_hosts, h]
  have hrec' : ((s.judging q).wr R.REG_TOKEN 2).flag R.BOOT_RECOVERY = true := by
    rw [State.flag_wr_apart _ _ _ _ (by decide), State.flag, s.rd_judging q (by decide) (by decide), ← State.flag, hrec]
  have hfuses' : ((s.judging q).wr R.REG_TOKEN 2).fuses = s.fuses := (State.wr_fuses ..).trans hfuses
  have hsame' : ((s.judging q).wr R.REG_TOKEN 2).boot = s.boot := (State.wr_boot ..).trans hsame
  have himage := State.stagedImage_congr hhosts 7
  by_cases hcode : imageCode s.fuses (s.stagedImage 7) false false = 0
  · obtain ⟨m, hentered⟩ := State.recoveryBoot_of_accepted _ hrec' (by rw [hfuses', himage, hcode]) (by rwa [himage])
    rw [State.writeObject_of_taken (s.judging q) (k := .recoveryBoot) rfl ((State.writeSpecial_recoveryBoot ..).trans hentered),
      himage] at hregs hboot
    refine .next ⟨fun _ => ⟨?_, ?_⟩, fun hne => absurd hcode hne⟩
    · rw [hboot, State.wr_boot, State.wr_boot, hsame']
    · rw [State.rd_congr hregs, State.rd_wr_apart _ _ _ _ (by decide), State.rd_wr_same _ _ _ (by decide)]
  · have hrefused := State.recoveryBoot_of_rejected _ hrec' (by rwa [hfuses', himage])
    rw [State.writeObject_of_refused (s.judging q) (k := .recoveryBoot) rfl ((State.writeSpecial_recoveryBoot ..).trans hrefused)
      (by decide)] at hboot
    exact .next ⟨fun h0 => absurd h0 hcode, fun _ => hboot.trans ((State.wr_boot ..).trans hsame')⟩

/-! ### Debug access (R654) -/

namespace State

/-- R654: in the manufacture state debug access is enabled and announced. -/
theorem debugUnlock_manufacture (s : State) (h : s.fuses.lifecycle % 4 = 0) : s.debugUnlock = (s.wr R.DBG_UNLOCKED 1).raise 203 := by
  have hfuses : ((s.wr R.DBG_UNLOCKED 1).raise 203).fuses = s.fuses := (raise_fuses ..).trans (wr_fuses ..)
  rw [debugUnlock, hfuses, if_pos h]

/-- R643, R654: an authorized SET that enables debug access, judged. -/
theorem judgeSet_debugUnlock (s : State) {q : DamotReq} {r : ObjRow} {x y v n t : Nat} (hauth : authOf q = true)
    (hacc : r.access = 3) (hlock : r.lock = .none) (hstore : r.store = .special .debugUnlock)
    (hrange : ∀ u : State, u.outOfRange r x y v = false) (hlen : ∀ u : State, u.badLength r n = false)
    (hlife : s.fuses.lifecycle % 4 = 0) :
    (s.judgeSet q r x y v n t).1.fuses = s.fuses
      ∧ (s.tokenCode q 0x02 t (Config.shake256 256 n v) = 0 → (s.judgeSet q r x y v n t).1.flag R.DBG_UNLOCKED = true
        ∧ (s.judgeSet q r x y v n t).1.linePending 203 = true)
      ∧ (s.tokenCode q 0x02 t (Config.shake256 256 n v) ≠ 0 →
        (s.judgeSet q r x y v n t).1.flag R.DBG_UNLOCKED = s.flag R.DBG_UNLOCKED
        ∧ (s.judgeSet q r x y v n t).1.rd R.AUTH_FAIL_CNT = min 255 (s.rd R.AUTH_FAIL_CNT + 1)) := by
  by_cases hcode : s.tokenCode q 0x02 t (Config.shake256 256 n v) = 0
  · have hlife' : ((s.nonceConsumed q).wr R.REG_TOKEN 2).fuses.lifecycle % 4 = 0 := by rw [wr_fuses, nonceConsumed_fuses, hlife]
    rw [s.judgeSet_of_token_passes hacc hlock hauth hcode (hrange _) (hlen _),
      writeObject_of_taken (s.nonceConsumed q) hstore (writeSpecial_debugUnlock ..), debugUnlock_manufacture _ hlife']
    refine ⟨?_, fun _ => ⟨?_, linePending_raise ..⟩, fun hne => absurd hcode hne⟩
    · rw [raise_fuses, wr_fuses, wr_fuses, nonceConsumed_fuses]
    · rw [flag, rd_raise _ _ _ (by decide), rd_wr_same _ _ _ (by decide)]
      rfl
  · obtain ⟨m, hcheck⟩ := s.checkToken_of_fails hcode
    rw [s.judgeSet_of_token_fails hacc hlock hauth rfl hcode, hcheck]
    refine ⟨?_, fun h0 => absurd h0 hcode, fun _ => ⟨?_, ?_⟩⟩
    · rw [raise_fuses, count_fuses]
    · rw [flag, rd_raise _ _ _ (by decide), rd_count_apart _ _ _ _ (by decide), rd_update, flag]
    · rw [rd_raise _ _ _ (by decide), rd_count_same _ _ _ (by decide), rd_update]
      rfl

end State

/-- R643, R654. -/
theorem debugUnlock_completes (s : State) (q : DamotReq) (hop : q.op = 0x02) (hi : q.index = 0x8050) (hj : q.sub = 1)
    (hset : s.setWhole q 1 1) (hauth : authOf q = true) (hlife : s.fuses.lifecycle % 4 = 0) :
    Completes (exec (.debugUnlock q) s) fun t => t.fuses = s.fuses
      ∧ (s.tokenResult q 1 1 = 0 → t.flag R.DBG_UNLOCKED = true ∧ t.linePending 203 = true)
      ∧ (s.tokenResult q 1 1 ≠ 0 → t.flag R.DBG_UNLOCKED = s.flag R.DBG_UNLOCKED
        ∧ t.rd R.AUTH_FAIL_CNT = min 255 (s.rd R.AUTH_FAIL_CNT + 1)) := by
  obtain ⟨x, y, hregs, -, hfuses, -⟩ := s.setFixed_leaves (i := 0x8050) (j := 1) hop hi hj hset (by decide)
    (by rw [hi, hj]; exact findObject_debugUnlock)
  change Completes (.next (s.setFixed q 0x8050 1)) _
  have hresult := s.tokenCode_of_whole hset hauth
  obtain ⟨hsame, -, -⟩ := s.judging_fields q
  obtain ⟨hfuses', hpass, hfail⟩ := (s.judging q).judgeSet_debugUnlock
    (r := objectRow 0x8050 1 6 3 .now 1 1 .debugUnlock) (x := x) (y := y) (v := 1) (n := 1)
    (t := State.tokenAfterValue q 1) hauth rfl rfl rfl (fun u => rfl) (fun u => rfl) (by rw [hsame, hlife])
  rw [hresult] at hpass hfail
  have hcount : (s.judging q).rd R.AUTH_FAIL_CNT = s.rd R.AUTH_FAIL_CNT := s.rd_judging q (by decide) (by decide)
  have hflag : (s.judging q).flag R.DBG_UNLOCKED = s.flag R.DBG_UNLOCKED := by
    rw [State.flag, s.rd_judging q (by decide) (by decide), State.flag]
  rw [hcount, hflag] at hfail
  refine .next ⟨hfuses.trans (hfuses'.trans hsame), fun h0 => ?_, fun hne => ?_⟩
  · obtain ⟨hunlocked, hline⟩ := hpass h0
    exact ⟨by rw [State.flag, State.rd_congr hregs]; exact hunlocked, (State.linePending_congr hregs _).trans hline⟩
  · obtain ⟨hlocked, hfailed⟩ := hfail hne
    exact ⟨by rw [State.flag, State.rd_congr hregs]; exact hlocked, (State.rd_congr hregs _).trans hfailed⟩

end Sys2Proof.Machine

open Sys2Proof Sys2Proof.Machine in
/-- Settles O47: a whole SET is judged by its object's row, and what each of these objects' writes does. -/
theorem fixedWritesComplete : Obligations.FixedWritesComplete := by
  unfold Obligations.FixedWritesComplete
  refine ⟨spinAtBootWrite_completes, fun s q v hop hi hj hset hauth hv hidle hpf hmay => ?_,
    fun s q v hop hi hj hset hauth hv hidle hpf hmay => ?_, fun s q v hop hi hj hset hauth hv hidle hpf hmay => ?_,
    fun s q v hop hi hj hset hauth hv hidle hpf hmay => ?_, updateCommit_completes, recoveryBoot_completes, debugUnlock_completes⟩
  · exact burnSet_completes s (i := 0x8010) (j := 3) hop hi hj hset (by decide) (by rw [hi, hj]; exact findObject_revoke) hauth rfl rfl
      (k := .revoke) rfl (fun _ _ _ => rfl) (fun u x y => by simp [State.outOfRange, objectRow, typeSigned, typeBytes, fix]; omega)
      (fun _ => rfl) hidle hpf hmay
  · exact burnSet_completes s (i := 0x8010) (j := 1) hop hi hj hset (by decide) (by rw [hi, hj]; exact findObject_fwSvn) hauth rfl rfl
      (k := .fwSvn) rfl (fun _ _ _ => rfl) (fun u x y => by simp [State.outOfRange, objectRow, typeSigned, typeBytes, fix]; omega)
      (fun _ => rfl) hidle hpf hmay
  · exact burnSet_completes s (i := 0x8010) (j := 2) hop hi hj hset (by decide) (by rw [hi, hj]; exact findObject_mcSvn) hauth rfl rfl
      (k := .mcSvn) rfl (fun _ _ _ => rfl) (fun u x y => by simp [State.outOfRange, objectRow, typeSigned, typeBytes, fix]; omega)
      (fun _ => rfl) hidle hpf hmay
  · exact burnSet_completes s (i := 0xA003) (j := 3) hop hi hj hset (by decide) (by rw [hi, hj]; exact findObject_spareRow) hauth rfl rfl
      (k := .spareRow) rfl (fun _ _ _ => rfl) (fun u x y => by simp [State.outOfRange, objectRow, typeSigned, typeBytes, fix]; omega)
      (fun _ => rfl) hidle hpf hmay
end

section
/-!
O26, O27 and O28, the format sequencers (R370 to R397): one rule for each change of a sequencer's, a channel slot's and an actuator's
servo state, and the word a fetch brings.
-/
namespace Sys2Proof.Machine

open Sys2Proof.Arith

namespace State

/-! ### Slots, sequencers and servo records -/

@[simp] theorem rd_modSlot (s : State) (k : Nat) (f : ChanSlot → ChanSlot) (g : Fld) : (s.modSlot k f).rd g = s.rd g := rfl
@[simp] theorem rd_modFsq (s : State) (n : Nat) (f : Fsq → Fsq) (g : Fld) : (s.modFsq n f).rd g = s.rd g := rfl
@[simp] theorem rd_modServo (s : State) (n : Nat) (f : ServoAct → ServoAct) (g : Fld) : (s.modServo n f).rd g = s.rd g := rfl
@[simp] theorem flag_modFsq (s : State) (n : Nat) (f : Fsq → Fsq) (g : Fld) : (s.modFsq n f).flag g = s.flag g := rfl

@[simp] theorem fsqOf_wr (s : State) (f : Fld) (v n : Nat) : (s.wr f v).fsqOf n = s.fsqOf n := rfl
@[simp] theorem slot_wr (s : State) (f : Fld) (v k : Nat) : (s.wr f v).slot k = s.slot k := rfl
@[simp] theorem servo_wr (s : State) (f : Fld) (v n : Nat) : (s.wr f v).servo n = s.servo n := rfl
@[simp] theorem slot_modServo (s : State) (n k : Nat) (f : ServoAct → ServoAct) : (s.modServo n f).slot k = s.slot k := rfl

@[simp] theorem fsqOf_modFsq_same (s : State) (n : Nat) (f : Fsq → Fsq) : (s.modFsq n f).fsqOf n = f (s.fsqOf n) :=
  Store.get_put_same _ _ _ _
@[simp] theorem slot_modSlot_same (s : State) (k : Nat) (f : ChanSlot → ChanSlot) : (s.modSlot k f).slot k = f (s.slot k) :=
  Store.get_put_same _ _ _ _
@[simp] theorem servo_modServo_same (s : State) (n : Nat) (f : ServoAct → ServoAct) : (s.modServo n f).servo n = f (s.servo n) :=
  Store.get_put_same _ _ _ _

end State

@[simp] theorem regFrame_modSlot {s t : State} {l : List Fld} {k : Nat} {f : ChanSlot → ChanSlot} :
    RegFrame s (t.modSlot k f) l ↔ RegFrame s t l := Iff.rfl
@[simp] theorem regFrame_modFsq {s t : State} {l : List Fld} {n : Nat} {f : Fsq → Fsq} :
    RegFrame s (t.modFsq n f) l ↔ RegFrame s t l := Iff.rfl
@[simp] theorem regFrame_modServo {s t : State} {l : List Fld} {n : Nat} {f : ServoAct → ServoAct} :
    RegFrame s (t.modServo n f) l ↔ RegFrame s t l := Iff.rfl

/-- Where the sequencers' registers stand to each other. -/
theorem fsqFields (n : Fin 4) : (R.FSQ_PC n.val).fits = true ∧ (R.FSQ_WAITING n.val).fits = true ∧ (R.FSQ_IDLE n.val).fits = true
    ∧ (R.FSQ_PC n.val).apart (R.FSQ_WAITING n.val) = true ∧ (R.FSQ_PC n.val).apart (R.FSQ_IDLE n.val) = true
    ∧ (R.FSQ_WAITING n.val).apart (R.FSQ_PC n.val) = true := by
  revert n
  decide

namespace State

/-! ### A word fetched (R370 to R372) -/

/-- R371, R372: a sound word that is the command's does its acts and is sequenced. -/
theorem fsqStep_of_fetches (s : State) {n w : Nat} {f : FsqFetch} {want : Nat → Bool} (h : s.fetches n f w) (hw : want w = true) :
    s.fsqStep n f want = (s.wordActs n w f.tie).sequence n (s.rd (R.FSQ_PC n)) w f.events.toNat := by
  obtain ⟨hmed, hmchk, hwaiting, hword, hupset, hparity, hillegal⟩ := h
  simp [fsqStep, hmed, hmchk, hwaiting, hword, hupset, hparity, hillegal, hw]

theorem fsqStep_of_seq (s : State) {n w k : Nat} {f : FsqFetch} (h : s.fetches n f w) (hk : field w 17 3 = k) :
    s.fsqStep n f (seqIs k) = (s.wordActs n w f.tie).sequence n (s.rd (R.FSQ_PC n)) w f.events.toNat :=
  s.fsqStep_of_fetches h (beq_iff_eq.mpr hk)

/-- R371: a word whose gate mask is empty moves no gate. -/
theorem setGates_of_no_mask (s : State) (n : Nat) {w : Nat} (h : ∀ i < 4, w.testBit (48 + i) = false) : s.setGates n w = s := by
  have h0 := h 0 (by decide)
  have h1 := h 1 (by decide)
  have h2 := h 2 (by decide)
  have h3 := h 3 (by decide)
  simp [setGates, h0, h1, h2, h3]

/-- R376: the acts of a word that does nothing but its transfer. -/
theorem wordActs_of_transfer (s : State) (n : Nat) {x w : Nat} (tie : Bool) (h : transferWord x w) : s.wordActs n w tie = s.transfer n w := by
  obtain ⟨-, -, hmask, hpsi, hcnt, hevent⟩ := h
  simp [wordActs, s.setGates_of_no_mask n hmask, psiOp, countOp, hpsi, hcnt, hevent]

/-- R376: a transfer is done and the sequencer goes on at the next word. -/
theorem fsqStep_of_transfer (s : State) {n x w : Nat} {f : FsqFetch} (h : s.fetches n f w) (ht : transferWord x w) :
    s.fsqStep n f (xferIs x) = (s.transfer n w).wr (R.FSQ_PC n) (s.rd (R.FSQ_PC n) + 1) := by
  have hseq : field w 17 3 = 0 := ht.2.1
  have hxfer : xferIs x w = true := beq_iff_eq.mpr ht.1
  rw [s.fsqStep_of_fetches h hxfer, s.wordActs_of_transfer n f.tie ht]
  simp [sequence, hseq, goTo]

theorem transfer_headProfile (s : State) {n w : Nat} {d : OpDesc} (h : field w 80 4 = 1) (hd : s.opDesc n = some d) :
    s.transfer n w = s.headProfile n (field w 84 1) (descSlot d (field w 84 1)) := by simp [transfer, h, hd]
theorem transfer_readArm (s : State) {n w : Nat} (h : field w 80 4 = 2) : s.transfer n w = s.armRun n (field w 84 1) false := by
  simp [transfer, h]
theorem transfer_writeArm (s : State) {n w : Nat} (h : field w 80 4 = 3) : s.transfer n w = s.armRun n (field w 84 1) true := by
  simp [transfer, h]
theorem transfer_seek (s : State) {n w : Nat} (h : field w 80 4 = 4) : s.transfer n w = s.askSeek n := by simp [transfer, h]
theorem transfer_maOffset (s : State) {n w : Nat} (h : field w 80 4 = 5) :
    s.transfer n w = s.askOffset n (field w 84 1) (field w 128 16) := by simp [transfer, h]
theorem transfer_report (s : State) {n w : Nat} (h : field w 80 4 = 6) : s.transfer n w = s.report n := by simp [transfer, h]
theorem transfer_jdOverride (s : State) {n w : Nat} (h : field w 80 4 = 7) : s.transfer n w =
    s.modSlot (2 * n + field w 84 1) fun c => { c with jdMode := some (field w 128 16 % 4) } := by simp [transfer, h]
theorem transfer_ovrClear (s : State) {n w : Nat} (h : field w 80 4 = 8) : s.transfer n w = s.endOverrides n (field w 84 1) := by
  simp [transfer, h]
theorem transfer_loadUnload (s : State) {n w : Nat} (h : field w 80 4 = 9) : s.transfer n w =
    s.modServo n fun v => { v with loadReq := some (field w 128 16 == 1) } := by simp [transfer, h]

/-- R376: the run of an armed slot is that of the operation under way. -/
theorem armRun_armed (s : State) {n h : Nat} {i : Issued} (b : Bool) (hcur : (s.fsqOf n).current = some i) :
    ∃ r, ((s.armRun n h b).slot (2 * n + h)).run = some r ∧ r.write = b ∧ r.track = (descSlot i.desc h).track
      ∧ r.first = (descSlot i.desc h).start ∧ r.count = (descSlot i.desc h).count ∧ r.next = 0 := by
  rw [armRun, hcur]
  simp only [slot_modSlot_same]
  exact ⟨_, rfl, rfl, rfl, rfl, rfl, rfl⟩

/-- R376: arming a slot writes no register. -/
theorem armRun_regs (s : State) (n h : Nat) (b : Bool) : (s.armRun n h b).regs = s.regs := by
  rw [armRun]
  split <;> rfl

end State

/-! ### O26 -/

namespace State

/-- R373: a dispatch word takes the operation issued. -/
theorem dispatchWord_of_issued (s : State) {n : Nat} {i : Issued} (h : (s.fsqOf n).issued = some i) :
    s.dispatchWord n = (((s.modFsq n fun q => { q with issued := none, current := some i }).wr (R.FSQ_IDLE n) 0).goTo n
      (s.vectorBase n + 8 * i.desc.opType)) := by
  rw [dispatchWord, h]
  rfl

/-- R374, R375: a wait whose condition comes true ends at the next word. -/
theorem waitEnd_of_condition (s : State) {n w ev : Nat} (b : Bool) (hwait : (s.fsqOf n).wait = some w) (hcond : s.wordCond n w ev = true) :
    s.waitEnd n b ev = ((s.modFsq n fun q => { q with wait := none, waited := 0 }).wr (R.FSQ_WAITING n) 0).wr (R.FSQ_PC n)
      (s.rd (R.FSQ_PC n) + 1) := by
  simp [waitEnd, hwait, hcond, goTo]

end State

end Sys2Proof.Machine

open Sys2Proof Sys2Proof.Machine in
/-- Settles O26: a sound word's acts are done and it is sequenced by its SEQ field. -/
theorem fsqSequencingCompletes : Obligations.FsqSequencingCompletes := by
  unfold Obligations.FsqSequencingCompletes
  refine ⟨fun s n f w hf hseq => ?_, fun s n f w hf hseq => ?_, fun s n f w hf hseq => ?_, fun s u n f w hf hseq hu hroom => ?_,
    fun s u n f w a l hf hseq hu hstack => ?_, fun s u n f w hf hseq hu hcond => ?_, fun s u n f w i hf hseq hu hissued => ?_,
    fun s n b e w hmchk hwait hcond => ?_, fun s n hwaiting => ?_⟩
  · change Host.Outcome.next (s.fsqStep n.val f (State.seqIs 0)) = _
    rw [s.fsqStep_of_seq hf hseq]
    simp -implicitDefEqProofs [State.sequence, hseq, State.goTo]
  · change Host.Outcome.next (s.fsqStep n.val f (State.seqIs 1)) = _
    rw [s.fsqStep_of_seq hf hseq]
    simp -implicitDefEqProofs [State.sequence, hseq, State.goTo]
  · change Host.Outcome.next (s.fsqStep n.val f (State.seqIs 2)) = _
    rw [s.fsqStep_of_seq hf hseq]
    simp -implicitDefEqProofs [State.sequence, hseq, State.goTo]
  · obtain ⟨hpc, -⟩ := fsqFields n
    change Completes (.next (s.fsqStep n.val f (State.seqIs 3))) _
    rw [s.fsqStep_of_seq hf hseq, ← hu]
    simp only [State.sequence, hseq, Nat.reduceEqDiff, if_false, if_true, State.callWord, if_neg (Nat.not_le.mpr hroom), State.goTo]
    refine .next ⟨by simp -implicitDefEqProofs, ?_⟩
    rw [State.rd_wr_same _ _ _ hpc]
    exact Nat.mod_eq_of_lt (Nat.mod_lt _ (Nat.two_pow_pos 17))
  · obtain ⟨hpc, -⟩ := fsqFields n
    change Completes (.next (s.fsqStep n.val f (State.seqIs 4))) _
    rw [s.fsqStep_of_seq hf hseq, ← hu]
    simp only [State.sequence, hseq, Nat.reduceEqDiff, if_false, if_true, State.returnWord, hstack, State.goTo]
    refine .next ⟨by simp -implicitDefEqProofs, ?_⟩
    rw [State.rd_wr_same _ _ _ hpc]
    rfl
  · obtain ⟨-, hwaiting, -⟩ := fsqFields n
    change Completes (.next (s.fsqStep n.val f (State.seqIs 5))) _
    rw [s.fsqStep_of_seq hf hseq, ← hu]
    simp only [State.sequence, hseq, Nat.reduceEqDiff, if_false, if_true, State.waitWord, hcond, Bool.false_eq_true]
    refine .next ⟨by simp -implicitDefEqProofs, ?_, by simp -implicitDefEqProofs⟩
    rw [State.flag, State.rd_wr_same _ _ _ hwaiting]
    rfl
  · obtain ⟨hpc, -, hidle, -, hapart, -⟩ := fsqFields n
    change Completes (.next (s.fsqStep n.val f (State.seqIs 6))) _
    rw [s.fsqStep_of_seq hf hseq, ← hu]
    simp only [State.sequence, hseq, Nat.reduceEqDiff, if_false, if_true, u.dispatchWord_of_issued hissued, State.goTo]
    refine .next ⟨by simp -implicitDefEqProofs, by simp -implicitDefEqProofs, ?_, ?_⟩
    · rw [State.flag_wr_apart _ _ _ _ hapart, State.flag, State.rd_wr_same _ _ _ hidle]
      rfl
    · rw [State.rd_wr_same _ _ _ hpc]
      rfl
  · obtain ⟨hpc, hwaiting, -, hapart, -⟩ := fsqFields n
    change Completes (.next (if s.flag (R.MCHK n.val) then s else s.waitEnd n.val b e.toNat)) _
    rw [hmchk, if_neg (by decide), s.waitEnd_of_condition b hwait hcond]
    refine .next ⟨by simp -implicitDefEqProofs, ?_, ?_, by simp -implicitDefEqProofs⟩
    · rw [State.flag_wr_apart _ _ _ _ hapart, State.flag, State.rd_wr_same _ _ _ hwaiting]
      rfl
    · rw [State.rd_wr_same _ _ _ hpc]
      rfl
  · exact congrArg Host.Outcome.next (if_pos hwaiting)
end

section
namespace Sys2Proof.Machine

open Sys2Proof.Arith

/-! ### O27 -/

/-- R376: a slot armed for reading or writing. -/
theorem arm_completes (s : State) {n : Fin 4} {f : FsqFetch} {x w h : Nat} {i : Issued} {b : Bool} (hf : s.fetches n.val f w)
    (hx : transferWord x w) (hh : h = field w 84 1) (hcur : (s.fsqOf n.val).current = some i)
    (harm : s.transfer n.val w = s.armRun n.val (field w 84 1) b) :
    Completes (.next (s.fsqStep n.val f (State.xferIs x))) fun t => ∃ r, (t.slot (2 * n.val + h)).run = some r ∧ r.write = b
      ∧ r.track = (State.descSlot i.desc h).track ∧ r.first = (State.descSlot i.desc h).start
      ∧ r.count = (State.descSlot i.desc h).count ∧ r.next = 0 ∧ RegFrame s t [R.FSQ_PC n.val] := by
  obtain ⟨r, hrun, hwrite, htrack, hfirst, hcount, hnext⟩ := s.armRun_armed (h := h) b hcur
  have hframe : RegFrame s (s.armRun n.val h b) [R.FSQ_PC n.val] := (regFrame_congr (s.armRun_regs ..)).mpr (regFrame_same s _)
  rw [s.fsqStep_of_transfer hf hx, harm, ← hh]
  exact .next ⟨r, by rw [State.slot_wr]; exact hrun, hwrite, htrack, hfirst, hcount, hnext, (regFrame_wr (by simp)).mpr hframe⟩

end Sys2Proof.Machine

open Sys2Proof Sys2Proof.Machine in
/-- Settles O27: a sound word does its transfer and the sequencer goes on at the next word. -/
theorem fsqTransfersComplete : Obligations.FsqTransfersComplete := by
  unfold Obligations.FsqTransfersComplete
  refine ⟨fun s n f w d hf hx hd => ?_, fun s n f w h i hf hx hh hcur => ?_, fun s n f w h i hf hx hh hcur => ?_,
    fun s n f w d hf hx hd => ?_, fun s n f w hf hx => ?_, fun s n f w hf hx => ?_, fun s n f w hf hx => ?_,
    fun s n f w hf hx => ?_, fun s n f w hf hx => ?_⟩
  · change Host.Outcome.next (s.fsqStep n.val f (State.xferIs 1)) = _
    rw [s.fsqStep_of_transfer hf hx, s.transfer_headProfile hx.1 hd]
  · exact arm_completes s hf hx hh hcur (s.transfer_readArm hx.1)
  · exact arm_completes s hf hx hh hcur (s.transfer_writeArm hx.1)
  · change Completes (.next (s.fsqStep n.val f (State.xferIs 4))) _
    rw [s.fsqStep_of_transfer hf hx, s.transfer_seek hx.1, State.askSeek, hd]
    refine .next ⟨?_, by simp -implicitDefEqProofs⟩
    simp -implicitDefEqProofs
  · change Completes (.next (s.fsqStep n.val f (State.xferIs 5))) _
    rw [s.fsqStep_of_transfer hf hx, s.transfer_maOffset hx.1, State.askOffset]
    refine .next ⟨?_, by simp -implicitDefEqProofs⟩
    by_cases hh : Arith.field w 84 1 = 0 <;> simp -implicitDefEqProofs [hh]
  · change Host.Outcome.next (s.fsqStep n.val f (State.xferIs 6)) = _
    rw [s.fsqStep_of_transfer hf hx, s.transfer_report hx.1]
  · change Completes (.next (s.fsqStep n.val f (State.xferIs 7))) _
    rw [s.fsqStep_of_transfer hf hx, s.transfer_jdOverride hx.1]
    exact .next ⟨by simp -implicitDefEqProofs, by simp -implicitDefEqProofs⟩
  · change Completes (.next (s.fsqStep n.val f (State.xferIs 8))) _
    rw [s.fsqStep_of_transfer hf hx, s.transfer_ovrClear hx.1, State.endOverrides]
    exact .next ⟨by simp -implicitDefEqProofs, by simp -implicitDefEqProofs⟩
  · change Completes (.next (s.fsqStep n.val f (State.xferIs 9))) _
    rw [s.fsqStep_of_transfer hf hx, s.transfer_loadUnload hx.1]
    exact .next ⟨by simp -implicitDefEqProofs, by simp -implicitDefEqProofs⟩
end

section
namespace Sys2Proof.Machine

open Sys2Proof.Arith

/-- Where the service registers of actuator `n` stand to each other. -/
theorem serviceFields (n : Fin 4) : (R.PSI_D_BUSY n.val).fits = true ∧ (R.PSI_TOKEN n.val).fits = true
    ∧ (R.PSI_TOKEN n.val).apart (R.PSI_D_BUSY n.val) = true ∧ (R.PSI_RDATA n.val).fits = true
    ∧ (R.LOAD_BUSY n.val).fits = true ∧ (R.LOAD_CODE n.val).fits = true ∧ (R.LOAD_CODE n.val).apart (R.LOAD_BUSY n.val) = true
    ∧ (R.PEND_BITS ((122 + 4 * n.val) / 32)).apart (R.LOAD_BUSY n.val) = true
    ∧ (R.PEND_BITS ((122 + 4 * n.val) / 32)).apart (R.LOAD_CODE n.val) = true ∧ (R.SWAP_PEND n.val).fits = true
    ∧ (R.PSI_D_BUSY n.val).apart (R.PSI_D_RW n.val) = true ∧ (R.PSI_D_BUSY n.val).apart (R.PSI_D_ADDR n.val) = true := by
  revert n
  decide

/-- The register arbiter's token stands apart from the sequencers' registers. -/
theorem regToken_apart_fsq (n : Fin 4) : R.REG_TOKEN.apart (R.PSI_D_BUSY n.val) = true ∧ R.REG_TOKEN.apart (R.PSI_D_RW n.val) = true
    ∧ R.REG_TOKEN.apart (R.PSI_D_ADDR n.val) = true ∧ R.REG_TOKEN.apart (R.MCHK n.val) = true
    ∧ R.REG_TOKEN.apart (R.SWAP_PEND n.val) = true ∧ R.REG_TOKEN.apart (R.EXEC_SRC n.val) = true
    ∧ R.REG_TOKEN.apart (R.SWAP_TO n.val) = true ∧ R.REG_TOKEN.apart (R.LOAD_BUSY n.val) = true
    ∧ R.REG_TOKEN.apart (R.LOAD_BANK n.val) = true ∧ R.REG_TOKEN.apart (R.WSQ_SRC n.val 0) = true
    ∧ R.REG_TOKEN.apart (R.WSQ_SRC n.val 1) = true ∧ R.REG_TOKEN.apart (R.LOAD_ADDR_LO n.val) = true
    ∧ R.REG_TOKEN.apart (R.LOAD_ADDR_HI n.val) = true := by
  revert n
  decide

/-- Where the registers that MC_RESTART writes stand to each other. -/
theorem restartFields (n : Fin 4) : (R.MCHK n.val).fits = true ∧ (R.WSQ_STOPPED n.val 0).fits = true
    ∧ (R.WSQ_STOPPED n.val 1).fits = true ∧ (R.FSQ_PC n.val).fits = true ∧ (R.WSQ_STOPPED n.val 0).apart (R.MCHK n.val) = true
    ∧ (R.WSQ_STOPPED n.val 1).apart (R.MCHK n.val) = true ∧ (R.FSQ_PC n.val).apart (R.MCHK n.val) = true
    ∧ (R.WSQ_STOPPED n.val 1).apart (R.WSQ_STOPPED n.val 0) = true ∧ (R.FSQ_PC n.val).apart (R.WSQ_STOPPED n.val 0) = true
    ∧ (R.FSQ_PC n.val).apart (R.WSQ_STOPPED n.val 1) = true
    ∧ (∀ f ∈ [R.MCHK n.val, R.WSQ_STOPPED n.val 0, R.WSQ_STOPPED n.val 1],
      f.apart (R.SWAP_PEND n.val) = true ∧ f.apart (R.EXEC_SRC n.val) = true) := by
  revert n
  decide

namespace State

/-! ### The preamplifier links (R384 to R387) -/

/-- R371: the acts of a word that does nothing but push a preamplifier frame. -/
theorem wordActs_of_psi (s : State) (n : Nat) {w : Nat} (tie : Bool) (hxfer : field w 80 4 = 0)
    (hmask : ∀ i < 4, w.testBit (48 + i) = false) (hcnt : field w 87 2 = 0) (hevent : w.testBit 89 = false) :
    s.wordActs n w tie = s.psiOp n w tie := by
  simp [wordActs, s.setGates_of_no_mask n hmask, transfer, countOp, hxfer, hcnt, hevent]

/-- R385: an idle link with nothing pending grants nothing. -/
theorem psiGrant_of_none (s : State) (n : Nat) (b : Option Nat) (hrun : (s.fsqOf n).psiRun = none) (h : ∀ p < 3, s.psiAt n p = []) :
    s.psiGrant n b = s := by
  have h0 := h 0 (by decide)
  have h1 := h 1 (by decide)
  have h2 := h 2 (by decide)
  simp [psiGrant, hrun, h0, h1, h2, tokenGrant, tokenOrder]

@[simp] theorem psiAt_wr (s : State) (f : Fld) (v n p : Nat) : (s.wr f v).psiAt n p = s.psiAt n p := rfl

theorem psiAt_modPsi (s : State) (n p q : Nat) (f : List PsiFrame → List PsiFrame) :
    (s.modPsi n p f).psiAt n q = if q = p then f (s.psiAt n p) else s.psiAt n q := by
  rw [psiAt, modPsi, fsqOf_modFsq_same]
  split
  · next h => rw [h]; exact Store.get_put_same _ _ _ _
  · next h => exact Store.get_put_other _ _ _ h

@[simp] theorem psiRun_modPsi (s : State) (n p : Nat) (f : List PsiFrame → List PsiFrame) :
    ((s.modPsi n p f).fsqOf n).psiRun = (s.fsqOf n).psiRun := by rw [modPsi, fsqOf_modFsq_same]

/-- R385, R398: a frame of firmware's own, pushed on an idle link with nothing pending, is granted. -/
theorem psiPush_diag (s : State) (n : Nat) (f : PsiFrame) (hrun : (s.fsqOf n).psiRun = none) (h : ∀ p < 3, s.psiAt n p = []) :
    ∃ (u : State) (b : Option Nat), s.psiPush n 2 [f] false = ((u.wr (R.PSI_TOKEN n) 0).modFsq n fun q => { q with psiRun := some (2, f), psiBefore := b })
      ∧ u.regs = s.regs := by
  have hat : ∀ p, (s.modPsi n 2 fun q => q ++ [f]).psiAt n p = if p = 2 then [f] else s.psiAt n p := fun p => by
    rw [psiAt_modPsi, h 2 (by decide), List.nil_append]
  have hfilter : ([0, 1, 2].filter fun p => !((s.modPsi n 2 fun q => q ++ [f]).psiAt n p).isEmpty) = [2] := by
    simp [hat, h 0 (by decide), h 1 (by decide)]
  have hgrant : ∀ token, tokenGrant 3 token [2] = some 2 := fun token => by
    rw [tokenGrant, tokenOrder_single token (by decide)]
    rfl
  refine ⟨(s.modPsi n 2 fun q => q ++ [f]).modPsi n 2 fun _ => [], some (s.rd (R.PSI_TOKEN n)), ?_, rfl⟩
  have hrun' : ((s.modPsi n 2 fun q => q ++ [f]).fsqOf n).psiRun = none := by rw [psiRun_modPsi, hrun]
  have hat2 : (s.modPsi n 2 fun q => q ++ [f]).psiAt n 2 = [f] := hat 2
  have htoken : (s.modPsi n 2 fun q => q ++ [f]).rd (R.PSI_TOKEN n) = s.rd (R.PSI_TOKEN n) := rfl
  simp only [psiPush, List.isEmpty_cons, Bool.false_eq_true, if_false, psiGrant, hrun', hfilter, hgrant, hat2, gateSeen, htoken]
  rfl

/-- R386: a read that succeeds hands its data over, and nothing else waits. -/
theorem psiEnd_of_read (s : State) {n b : Nat} {f : PsiFrame} (hrun : (s.fsqOf n).psiRun = some (0, f)) (hread : f.read = true)
    (haddr : f.addr ≠ 0x1F) (h : ∀ p < 3, s.psiAt n p = []) :
    ∃ u : State, s.psiEnd n true b = u.wr (R.PSI_RDATA n) b ∧ u.regs = s.regs ∧ (u.fsqOf n).psiRun = none ∧ (u.fsqOf n).psiFail = false := by
  have hdone : (s.modFsq n fun q => { q with psiRun := none, psiBefore := none }).psiDone n 0 f b =
      ((s.modFsq n fun q => { q with psiRun := none, psiBefore := none }).modFsq n fun q => { q with psiFail := false }).wr
        (R.PSI_RDATA n) b := by
    simp [psiDone, hread, haddr]
  refine ⟨(s.modFsq n fun q => { q with psiRun := none, psiBefore := none }).modFsq n fun q => { q with psiFail := false }, ?_, rfl, ?_, ?_⟩
  · simp only [psiEnd, hrun, Bool.not_true, Bool.false_and, Bool.false_eq_true, if_false, if_true, hdone]
    refine psiGrant_of_none _ _ _ (by rw [fsqOf_wr, fsqOf_modFsq_same, fsqOf_modFsq_same]) fun p hp => ?_
    rw [← h p hp, psiAt_wr, psiAt, fsqOf_modFsq_same, fsqOf_modFsq_same, psiAt]
  · rw [fsqOf_modFsq_same, fsqOf_modFsq_same]
  · rw [fsqOf_modFsq_same]

/-! ### Banks in service (R383, R391 to R393) -/

/-- R383: a restart with no swap pending begins at vector 0 of the source in force. -/
theorem mcRestart_of_check (s : State) {n : Nat} (hmchk : s.flag (R.MCHK n) = true)
    (hswap : ((((s.wr (R.MCHK n) 0).wr (R.WSQ_STOPPED n 0) 0).wr (R.WSQ_STOPPED n 1) 0)).flag (R.SWAP_PEND n) = false)
    (hsrc : ((((s.wr (R.MCHK n) 0).wr (R.WSQ_STOPPED n 0) 0).wr (R.WSQ_STOPPED n 1) 0)).rd (R.EXEC_SRC n) = s.rd (R.EXEC_SRC n)) :
    s.mcRestart n = ((((s.wr (R.MCHK n) 0).wr (R.WSQ_STOPPED n 0) 0).wr (R.WSQ_STOPPED n 1) 0).modFsq n
      fun q => { q with stack := [] }).wr (R.FSQ_PC n) (if s.rd (R.EXEC_SRC n) = 0 then 0 else 0x10000) := by
  simp -implicitDefEqProofs [mcRestart, hmchk, hswap, hsrc, vectorBase, goTo]

/-- R392: a swap to the ROM may always be asked for. -/
theorem swapReq_of_rom (s : State) {n : Nat} (h : s.rd (R.SWAP_TO n) = 0) :
    s.swapReq n = (s.modFsq n fun q => { q with swapTo := 0 }).wr (R.SWAP_PEND n) 1 := by
  simp -implicitDefEqProofs [swapReq, h, sourceOk]

theorem imageAt_congr {s t : State} (h : t.dram = s.dram) (a : Nat) : t.imageAt a = s.imageAt a := by
  simp only [imageAt, dramBytes, rawWord_congr h]

/-- R391: a load of an idle bank starts. -/
theorem loadGo_of_idle (s : State) {n : Nat} (hbusy : s.flag (R.LOAD_BUSY n) = false) (hswap : s.flag (R.SWAP_PEND n) = false)
    (huse : s.bankInUse n (s.rd (R.LOAD_BANK n)) = false) :
    ∃ (u : State) (c : Nat), s.loadGo n = (u.modFsq n fun q => { q with load := some ⟨s.rd (R.LOAD_BANK n),
      s.imageAt (s.rd (R.LOAD_ADDR_LO n) + 2 ^ 32 * s.rd (R.LOAD_ADDR_HI n)), c⟩ }).wr (R.LOAD_BUSY n) 1 := by
  simp only [loadGo, hbusy, hswap, huse, Bool.or_self, Bool.false_eq_true, if_false]
  exact ⟨_, _, rfl⟩

/-- R391: the end of a load that was refused. -/
theorem loadEnd_of_refused (s : State) {n : Nat} {l : UcodeLoad} (hload : (s.fsqOf n).load = some l) (hcode : l.code ≠ 0) :
    s.loadEnd n = ((((s.modFsq n fun q => { q with load := none }).wr (R.LOAD_BUSY n) 0).wr (R.LOAD_CODE n) l.code).raise (122 + 4 * n)) := by
  simp only [loadEnd, hload, if_neg hcode]

end State

/-! ### O28 -/

theorem psiDGo_completes (s : State) (n : Fin 4) (hreach : s.reachable (R.PSI_D_GO n.val).addr = true)
    (hbusy : s.flag (R.PSI_D_BUSY n.val) = false) (hrun : (s.fsqOf n.val).psiRun = none) (hnone : ∀ p < 3, s.psiAt n.val p = []) :
    Completes (exec (.psiDGo n false) s) fun t => t.flag (R.PSI_D_BUSY n.val) = true ∧ t.rd (R.PSI_TOKEN n.val) = 0
      ∧ ∃ f, (t.fsqOf n.val).psiRun = some (2, f) ∧ f.read = s.flag (R.PSI_D_RW n.val) ∧ f.addr = s.rd (R.PSI_D_ADDR n.val) := by
  obtain ⟨hfits, hfits', hapart, -, -, -, -, -, -, -, hrw, haddr⟩ := serviceFields n
  obtain ⟨htoken, htokenRw, htokenAddr, -⟩ := regToken_apart_fsq n
  refine .access hreach ?_
  rw [State.flag_wr_apart _ _ _ _ htoken, hbusy, if_neg (by decide)]
  obtain ⟨u, b, heq, hregs⟩ := (s.granting.wr (R.PSI_D_BUSY n.val) 1).psiPush_diag n.val
    { read := s.granting.flag (R.PSI_D_RW n.val), addr := s.granting.rd (R.PSI_D_ADDR n.val), data := s.granting.rd (R.PSI_D_DATA n.val) }
    (by rw [State.fsqOf_wr, State.fsqOf_wr]; exact hrun) (fun p hp => by rw [State.psiAt_wr, State.psiAt_wr]; exact hnone p hp)
  rw [heq]
  refine ⟨?_, ?_, _, by rw [State.fsqOf_modFsq_same], ?_, ?_⟩
  · rw [State.flag_modFsq, State.flag_wr_apart _ _ _ _ hapart, State.flag, State.rd_congr hregs, State.rd_wr_same _ _ _ hfits]
    rfl
  · rw [State.rd_modFsq, State.rd_wr_same _ _ _ hfits']
    rfl
  · exact State.flag_wr_apart _ _ _ _ htokenRw
  · exact State.rd_wr_apart _ _ _ _ htokenAddr

theorem mcRestart_completes (s : State) (n : Fin 4) (hreach : s.reachable (R.MC_RESTART n.val).addr = true)
    (hmchk : s.flag (R.MCHK n.val) = true) (hswap : s.flag (R.SWAP_PEND n.val) = false) :
    Completes (exec (.mcRestart n) s) fun t => t.flag (R.MCHK n.val) = false ∧ t.flag (R.WSQ_STOPPED n.val 0) = false
      ∧ t.flag (R.WSQ_STOPPED n.val 1) = false ∧ t.rd (R.FSQ_PC n.val) = (if s.rd (R.EXEC_SRC n.val) = 0 then 0 else 0x10000)
      ∧ RegFrame s t [R.REG_TOKEN, R.MCHK n.val, R.WSQ_STOPPED n.val 0, R.WSQ_STOPPED n.val 1, R.FSQ_PC n.val] := by
  obtain ⟨hfits, hfits0, hfits1, hfitsPc, h0m, h1m, hpm, h10, hp0, hp1, hother⟩ := restartFields n
  obtain ⟨-, -, -, htoken, htokenSwap, htokenSrc, -⟩ := regToken_apart_fsq n
  obtain ⟨hm, h0, h1, -⟩ : _ ∧ _ ∧ _ ∧ _ := by simpa only [List.forall_mem_cons] using hother
  have hsrc : s.granting.rd (R.EXEC_SRC n.val) = s.rd (R.EXEC_SRC n.val) := State.rd_wr_apart _ _ _ _ htokenSrc
  refine .access hreach ?_
  rw [State.mcRestart_of_check s.granting (by rw [State.flag_wr_apart _ _ _ _ htoken, hmchk])
    (by rw [State.flag_wr_apart _ _ _ _ h1.1, State.flag_wr_apart _ _ _ _ h0.1, State.flag_wr_apart _ _ _ _ hm.1,
      State.flag_wr_apart _ _ _ _ htokenSwap, hswap])
    (by rw [State.rd_wr_apart _ _ _ _ h1.2, State.rd_wr_apart _ _ _ _ h0.2, State.rd_wr_apart _ _ _ _ hm.2]), hsrc]
  refine ⟨?_, ?_, ?_, ?_, by simp -implicitDefEqProofs⟩
  · rw [State.flag_wr_apart _ _ _ _ hpm, State.flag_modFsq, State.flag_wr_apart _ _ _ _ h1m, State.flag_wr_apart _ _ _ _ h0m,
      State.flag, State.rd_wr_same _ _ _ hfits]
    rfl
  · rw [State.flag_wr_apart _ _ _ _ hp0, State.flag_modFsq, State.flag_wr_apart _ _ _ _ h10, State.flag, State.rd_wr_same _ _ _ hfits0]
    rfl
  · rw [State.flag_wr_apart _ _ _ _ hp1, State.flag_modFsq, State.flag, State.rd_wr_same _ _ _ hfits1]
    rfl
  · rw [State.rd_wr_same _ _ _ hfitsPc]
    split <;> rfl

theorem loadGo_completes (s : State) (n : Fin 4) (hreach : s.reachable (R.LOAD_GO n.val).addr = true)
    (hbusy : s.flag (R.LOAD_BUSY n.val) = false) (hswap : s.flag (R.SWAP_PEND n.val) = false)
    (huse : s.bankInUse n.val (s.rd (R.LOAD_BANK n.val)) = false) : Completes (exec (.loadGo n) s) fun t =>
      t.flag (R.LOAD_BUSY n.val) = true ∧ ∃ l, (t.fsqOf n.val).load = some l ∧ l.bank = s.rd (R.LOAD_BANK n.val)
        ∧ l.image = s.imageAt (s.rd (R.LOAD_ADDR_LO n.val) + 2 ^ 32 * s.rd (R.LOAD_ADDR_HI n.val)) := by
  obtain ⟨-, -, -, -, hfits, -⟩ := serviceFields n
  obtain ⟨-, -, -, -, htokenSwap, htokenSrc, -, htokenBusy, htokenBank, htoken0, htoken1, htokenLo, htokenHi⟩ := regToken_apart_fsq n
  have hbank : s.granting.rd (R.LOAD_BANK n.val) = s.rd (R.LOAD_BANK n.val) := State.rd_wr_apart _ _ _ _ htokenBank
  have huse' : s.granting.bankInUse n.val (s.granting.rd (R.LOAD_BANK n.val)) = false := by
    rw [hbank, ← huse, State.bankInUse, State.rd_wr_apart _ _ _ _ htokenSrc, State.rd_wr_apart _ _ _ _ htoken0,
      State.rd_wr_apart _ _ _ _ htoken1, State.bankInUse]
  refine .access hreach ?_
  obtain ⟨u, c, heq⟩ := s.granting.loadGo_of_idle (by rw [State.flag_wr_apart _ _ _ _ htokenBusy, hbusy])
    (by rw [State.flag_wr_apart _ _ _ _ htokenSwap, hswap]) huse'
  rw [heq]
  refine ⟨?_, _, by rw [State.fsqOf_wr, State.fsqOf_modFsq_same], hbank, ?_⟩
  · rw [State.flag, State.rd_wr_same _ _ _ hfits]
    rfl
  · rw [State.imageAt_congr (State.wr_dram ..), State.rd_wr_apart _ _ _ _ htokenLo, State.rd_wr_apart _ _ _ _ htokenHi]

theorem exec_wsqStart (s : State) (n : Fin 4) (h : Fin 2) (b : Bool) (hmed : s.dom.med.testBit n.val = true)
    (hstop : s.flag (R.WSQ_STOPPED n.val h.val) = false) (hlock : s.bitAt (R.DLC_LOCK n.val) h.val = true)
    (hrun : s.flag (R.WSQ_RUN n.val h.val) = false) : exec (.wsqStart n h b []) s =
      .next ((s.wr (R.WSQ_PC n.val h.val) (s.rd (R.WSQ_ENTRY n.val h.val))).wr (R.WSQ_RUN n.val h.val) 1) := by
  change Host.Outcome.next _ = _
  simp only [hmed, hstop, hlock, Bool.not_true, Bool.or_self, Bool.true_or, Bool.false_eq_true, if_false, if_true,
    State.wsqStart, hrun, State.wsqRun]

end Sys2Proof.Machine

open Sys2Proof Sys2Proof.Machine in
/-- Settles O28: each command's equation, and what the link's grant and the load leave. -/
theorem fsqServiceCompletes : Obligations.FsqServiceCompletes := by
  unfold Obligations.FsqServiceCompletes
  refine ⟨fun s n f w hf hpsi hxfer hseq hmask hcnt hevent => ?_, fun s n f w hf hpsi hxfer hseq hmask hcnt hevent => ?_,
    psiDGo_completes, fun s n b f hrun hread haddr hnone => ?_, mcRestart_completes, fun s n hreach hto => ?_, loadGo_completes,
    fun s n l hload hcode => ?_, fun s n h hreach => ?_, exec_wsqStart, fun s n hreach => ?_⟩
  · change Host.Outcome.next (s.fsqStep n.val f fun w => Arith.field w 52 3 == 1) = _
    rw [s.fsqStep_of_fetches (want := fun w => Arith.field w 52 3 == 1) hf (beq_iff_eq.mpr hpsi), s.wordActs_of_psi n.val f.tie hxfer hmask hcnt hevent]
    simp -implicitDefEqProofs [State.psiOp, hpsi, State.sequence, hseq, State.goTo]
  · change Host.Outcome.next (s.fsqStep n.val f fun w => Arith.field w 52 3 == 2) = _
    rw [s.fsqStep_of_fetches (want := fun w => Arith.field w 52 3 == 2) hf (beq_iff_eq.mpr hpsi), s.wordActs_of_psi n.val f.tie hxfer hmask hcnt hevent]
    simp -implicitDefEqProofs [State.psiOp, hpsi, State.sequence, hseq, State.goTo]
  · obtain ⟨-, -, -, hfits, -⟩ := serviceFields n
    obtain ⟨u, heq, hregs, hidle, hgood⟩ := s.psiEnd_of_read (b := b.toNat) hrun hread haddr hnone
    change Completes (.next (s.psiEnd n.val true b.toNat)) _
    rw [heq]
    refine .next ⟨?_, by rw [State.fsqOf_wr]; exact hidle, by rw [State.fsqOf_wr]; exact hgood, (regFrame_wr (by simp)).mpr ((regFrame_congr hregs).mpr (regFrame_same s _))⟩
    rw [State.rd_wr_same _ _ _ hfits]
    exact Nat.mod_eq_of_lt b.isLt
  · obtain ⟨-, -, -, -, -, -, -, -, -, hfits, -⟩ := serviceFields n
    obtain ⟨-, -, -, -, -, -, htoken, -⟩ := regToken_apart_fsq n
    refine .access hreach ?_
    rw [State.swapReq_of_rom s.granting (by rw [State.rd_wr_apart _ _ _ _ htoken, hto])]
    refine ⟨?_, by simp -implicitDefEqProofs, by simp -implicitDefEqProofs⟩
    rw [State.flag, State.rd_wr_same _ _ _ hfits]
    rfl
  · obtain ⟨-, -, -, -, hfits, hfits', hapart, hpend, hpend', -⟩ := serviceFields n
    change Completes (.next (s.loadEnd n.val)) _
    rw [s.loadEnd_of_refused hload hcode]
    refine .next ⟨?_, ?_, ?_, State.linePending_raise .., ?_⟩
    · simp -implicitDefEqProofs [State.raise, State.setBitAt]
    · rw [State.flag, State.rd_raise _ _ _ hpend, State.rd_wr_apart _ _ _ _ hapart, State.rd_wr_same _ _ _ hfits]
      rfl
    · rw [State.rd_raise _ _ _ hpend', State.rd_wr_same _ _ _ hfits']
    · rw [State.raise_ucode, State.wr_ucode, State.wr_ucode]
      rfl
  · have hrom : ∀ u : State, u.sourceOk n.val (4 + 2 * n.val + h.val) 0 = true := fun _ => rfl
    exact congrArg Host.Outcome.next ((s.access_of_reachable _ _ hreach).trans (if_pos (hrom _)))
  · refine .access hreach ?_
    clear hreach
    have hfields : (∀ f ∈ [R.MCHK_CNT n.val, R.PSI_ERR_CNT n.val, R.OPS_DONE n.val], f.fits = true)
        ∧ [R.MCHK_CNT n.val, R.PSI_ERR_CNT n.val, R.OPS_DONE n.val].Pairwise fun f g => g.apart f = true := by
      revert n
      decide
    have hclear := s.granting.rd_clearAll hfields.1 hfields.2
    simp only [List.forall_mem_cons] at hclear
    obtain ⟨hmchk, hpsi, hops, -⟩ := hclear
    exact ⟨hmchk, hpsi, hops, ((RegsOnly.refl s).wr _ _).clearAll _, ((regFrame_wr (by simp)).mpr (regFrame_same s _)).clearAll (by simp)⟩
end

section
/-!
O29 and O30, the servo (R402 to R447): what a write-gate cut and the path of a lost WRITE_SAFE may change, and an equation for each command
under the hypotheses of its statement.
-/
namespace Sys2Proof.Machine

open Sys2Proof.Arith

/-- A frame of fewer fields is one of more. -/
theorem RegFrame.mono {s t : State} {l m : List Fld} (h : RegFrame s t l) (hsub : ∀ f ∈ l, f ∈ m) : RegFrame s t m := fun g hg =>
  h g fun f hf => hg f (hsub f hf)

namespace State

@[simp] theorem servo_raise (s : State) (n k : Nat) : (s.raise k).servo n = s.servo n := by
  rw [servo, raise_svt, servo]
@[simp] theorem free_regs (s : State) : s.free.2.regs = s.regs := rfl
@[simp] theorem modServo_regs (s : State) (n : Nat) (f : ServoAct → ServoAct) : (s.modServo n f).regs = s.regs := rfl
@[simp] theorem servo_free (s : State) (n : Nat) : s.free.2.servo n = s.servo n := rfl
@[simp] theorem loopOf_modLoop_same (s : State) (n h : Nat) (f : SlotLoop → SlotLoop) :
    loopOf ((s.modLoop n h f).servo n) h = f (loopOf (s.servo n) h) := by
  rw [modLoop, servo_modServo_same]
  by_cases hh : h = 0 <;> simp [loopOf, hh]
@[simp] theorem rd_modLoop (s : State) (n h : Nat) (f : SlotLoop → SlotLoop) (g : Fld) : (s.modLoop n h f).rd g = s.rd g := rfl

theorem servo_congr {s t : State} (h : t.svt = s.svt) (n : Nat) : t.servo n = s.servo n := by rw [servo, h, servo]
theorem underServo_congr {s t : State} (h : t.regs = s.regs) (n : Nat) : t.underServo n = s.underServo n := by
  rw [underServo, rd_congr h, rd_congr h, underServo]

/-! ### The path of a lost WRITE_SAFE (R311, R424) -/

/-- The registers of the cut of slot `h`'s write gate. -/
def cutFields (n h : Nat) : List Fld := [R.WG_ON n, R.WG_CUT_SYM n h, R.WG_CUT_SRC n h, R.WG_CUT_CNT n, R.PEND_BITS ((105 + 4 * n) / 32)]

/-- The registers of the path of a lost WRITE_SAFE of actuator `n`. -/
def writeSafeFields (n : Nat) : List Fld := R.WRITE_SAFE n :: (cutFields n 0 ++ cutFields n 1)

@[simp] theorem modSlot_svt (s : State) (k : Nat) (f : ChanSlot → ChanSlot) : (s.modSlot k f).svt = s.svt := rfl
@[simp] theorem free_svt (s : State) : s.free.2.svt = s.svt := rfl

/-- R311: a cut records itself in its registers and in the slot, and leaves the servo program alone. -/
theorem recordCut_frame (s : State) (n h src : Nat) :
    RegFrame s (s.recordCut n h src) (cutFields n h) ∧ (s.recordCut n h src).svt = s.svt := by
  cases hw : writingAt (s.slot (2 * n + h)) with
  | none => simp -implicitDefEqProofs [recordCut, hw, cutFields]
  | some l => simp -implicitDefEqProofs [recordCut, hw, cutFields]

theorem cutSlot_frame (s : State) (n h src : Nat) : RegFrame s (s.cutSlot n h src) (cutFields n h) := by
  rw [cutSlot]
  split
  · exact (regFrame_raise (by simp [cutFields])).mpr (s.recordCut_frame n h src).1
  · exact regFrame_same s _

theorem cutSlot_svt (s : State) (n h src : Nat) : (s.cutSlot n h src).svt = s.svt := by
  rw [cutSlot]
  split
  · exact (raise_svt ..).trans (s.recordCut_frame n h src).2
  · rfl

theorem writeUnsafe_frame (s : State) (n : Nat) : RegFrame s (s.writeUnsafe n) (writeSafeFields n) := by
  have hcut : ∀ h < 2, ∀ f ∈ cutFields n h, f ∈ writeSafeFields n := by
    intro h hh f hf
    have : h = 0 ∨ h = 1 := by omega
    rcases this with rfl | rfl <;> simp [writeSafeFields, hf]
  have hwr : RegFrame s (s.wr (R.WRITE_SAFE n) 0) (writeSafeFields n) := by simp [writeSafeFields]
  exact (hwr.trans ((cutSlot_frame _ n 0 1).mono (hcut 0 (by decide)))).trans ((cutSlot_frame _ n 1 1).mono (hcut 1 (by decide)))

@[simp] theorem writeUnsafe_svt (s : State) (n : Nat) : (s.writeUnsafe n).svt = s.svt := by
  rw [writeUnsafe, cutGates, cutSlot_svt, cutSlot_svt, wr_svt]

/-- Where the registers of write-safe, of shock and of the checkpoint stand to the path of a lost WRITE_SAFE. -/
theorem writeSafeFields_apart (n m : Fin 4) : (R.WRITE_SAFE m.val).fits = true
    ∧ (∀ f ∈ cutFields n.val 0 ++ cutFields n.val 1, f.apart (R.WRITE_SAFE m.val) = true)
    ∧ (n ≠ m → (R.WRITE_SAFE n.val).apart (R.WRITE_SAFE m.val) = true)
    ∧ (∀ f ∈ writeSafeFields n.val, f.apart R.SHOCK_HOLD = true) := by
  revert n m
  decide

/-- R424: an actuator stays not write-safe where another ceases to be write-safe. -/
theorem writeUnsafe_clears (s : State) (n m : Fin 4) (h : n = m ∨ s.flag (R.WRITE_SAFE m.val) = false) :
    (s.writeUnsafe n.val).flag (R.WRITE_SAFE m.val) = false := by
  obtain ⟨hfits, hcut, hother, -⟩ := writeSafeFields_apart n m
  have hwr : (s.wr (R.WRITE_SAFE n.val) 0).flag (R.WRITE_SAFE m.val) = false := by
    by_cases hnm : n = m
    · rw [hnm, flag_wr_same _ _ _ hfits, Nat.zero_mod]
      rfl
    · rw [flag_wr_apart _ _ _ _ (hother hnm)]
      exact h.resolve_left hnm
  have h0 := cutSlot_frame (s.wr (R.WRITE_SAFE n.val) 0) n.val 0 1 (R.WRITE_SAFE m.val) fun f hf => hcut f (by simp [hf])
  have h1 := cutSlot_frame ((s.wr (R.WRITE_SAFE n.val) 0).cutSlot n.val 0 1) n.val 1 1 (R.WRITE_SAFE m.val) fun f hf => hcut f (by simp [hf])
  rw [flag, writeUnsafe, cutGates, h1, h0]
  exact hwr

/-- R442: a shock trip leaves no actuator write-safe. -/
theorem writeUnsafe_all (s : State) (n : Fin 4) : (actuators.foldl writeUnsafe s).flag (R.WRITE_SAFE n.val) = false := by
  have hthen := fun (u : State) (m : Fin 4) (h : u.flag (R.WRITE_SAFE n.val) = false) => u.writeUnsafe_clears m n (.inr h)
  simp only [actuators, List.foldl_cons, List.foldl_nil]
  match n with
  | 0 => exact hthen _ 3 (hthen _ 2 (hthen _ 1 (s.writeUnsafe_clears 0 0 (.inl rfl))))
  | 1 => exact hthen _ 3 (hthen _ 2 (writeUnsafe_clears _ 1 1 (.inl rfl)))
  | 2 => exact hthen _ 3 (writeUnsafe_clears _ 2 2 (.inl rfl))
  | 3 => exact writeUnsafe_clears _ 3 3 (.inl rfl)

theorem writeUnsafe_all_kept (s : State) : (actuators.foldl writeUnsafe s).svt = s.svt
    ∧ (actuators.foldl writeUnsafe s).flag R.SHOCK_HOLD = s.flag R.SHOCK_HOLD := by
  have hthen := fun (u : State) (m : Fin 4) => u.writeUnsafe_frame m.val R.SHOCK_HOLD (writeSafeFields_apart m m).2.2.2
  simp only [actuators, List.foldl_cons, List.foldl_nil, writeUnsafe_svt, true_and]
  have hrd := (((hthen _ 3).trans (hthen _ 2)).trans (hthen _ 1)).trans (hthen s 0)
  exact congrArg (· != 0) hrd

/-! ### Wedges (R402, R403, R375) -/

theorem fsqCount_regs (s : State) (n unit : Nat) : (s.fsqCount n unit).dom = s.dom ∧ (s.fsqCount n unit).regs = s.regs := by
  rw [fsqCount]
  split
  · split <;> exact ⟨rfl, rfl⟩
  · exact ⟨rfl, rfl⟩

/-- R403: a wedge before the loop is closed is one of acquisition. -/
theorem wedgeStrobe_of_acquiring (s : State) {n h : Nat} {f : WedgeFields} {late : Bool} (hsvt : s.dom.svt = true)
    (hservo : s.underServo n = false) (hlock : s.bitAt (R.RG_ON n) h = true ∨ s.bitAt (R.DLC_LOCK n) h = true) :
    ∃ u : State, s.wedgeStrobe n h f late = u.acquireWedge n h f ∧ u.regs = s.regs := by
  unfold wedgeStrobe
  extract_lets u
  obtain ⟨hdom, hregs⟩ : u.dom = s.dom ∧ u.regs = s.regs := by
    simp only [u]
    split
    · exact s.fsqCount_regs n 2
    · exact ⟨rfl, rfl⟩
  clear_value u
  refine ⟨u, ?_, hregs⟩
  have hbits : (u.bitAt (R.RG_ON n) h || u.bitAt (R.DLC_LOCK n) h) = true := by
    rw [bitAt, bitAt, rd_congr hregs, rd_congr hregs]
    simpa [bitAt] using hlock
  simp [hdom, hsvt, underServo_congr hregs, hservo, hbits]

/-- R403: a servo address mark of acquisition gives its time and its track. -/
theorem acquireWedge_of_sam (s : State) {n h : Nat} {f : WedgeFields} (hsam : f.sam = true) :
    (loopOf ((s.acquireWedge n h f).servo n) h).sam = some f.time.toNat
      ∧ (loopOf ((s.acquireWedge n h f).servo n) h).track = f.track.toNat ∧ (s.acquireWedge n h f).regs = s.regs := by
  rw [acquireWedge, if_pos hsam, loopOf_modLoop_same]
  exact ⟨rfl, rfl, rfl⟩

/-! ### Losses (R425, R427, R428) -/

theorem feFault_of_excess (s : State) {n : Nat} (hrun : s.rd (R.FE_TIME n) < (s.servo n).feRun) (hdone : (s.servo n).feDone = false) :
    s.feFault n = ((((s.modServo n fun v => { v with feDone := true }).wr (R.FE_FAULT n) 1).count (R.FE_FAULT_CNT n)).raise
      (140 + n)).detect (272 + n) := by simp [feFault, hrun, hdone]

theorem slotDrop_of_loss (s : State) {n h : Nat} (hservo : s.underServo n = true) (hactive : s.slotActive n h = true)
    (hother : s.otherGood n h = true) (hloss : s.rd (R.SV_COAST_MAX n) < (loopOf (s.servo n) h).lossRun) : s.slotDrop n h =
      (((((s.modLoop n h fun l => { l with dropped := true, vma := 0, d := 0, lossRun := 0, lossWin := 0 }).setBitAt (R.SLOT_DROP n) h).raise
        (140 + n)).wr (R.SLOT_PLACED (2 * n + h)) 0).endSlotRun (2 * n + h)).detect (280 + n) := by
  simp [slotDrop, hservo, hactive, hother, hloss]

/-- Where the registers of the servo's losses stand to each other. -/
theorem lossFields (n : Fin 4) : (R.FE_FAULT n.val).fits = true ∧ (R.FE_FAULT_CNT n.val).apart (R.FE_FAULT n.val) = true
    ∧ (R.PEND_BITS ((140 + n.val) / 32)).apart (R.FE_FAULT n.val) = true
    ∧ (R.COAST_RETRACT n.val).fits = true ∧ (R.PEND_BITS ((140 + n.val) / 32)).apart (R.COAST_RETRACT n.val) = true
    ∧ (∀ h : Fin 2, (R.SLOT_PLACED (2 * n.val + h.val)).fits = true
      ∧ (R.SLOT_PLACED (2 * n.val + h.val)).apart (R.SLOT_DROP n.val) = true
      ∧ ((R.SLOT_DROP n.val).fits && decide (h.val < (R.SLOT_DROP n.val).width)) = true)
    ∧ (R.PEND_BITS ((140 + n.val) / 32)).apart (R.SLOT_DROP n.val) = true := by
  revert n
  decide

end State

theorem followingErrorFault_completes (s : State) (n : Fin 4) (hrun : s.rd (R.FE_TIME n.val) < (s.servo n.val).feRun)
    (hdone : (s.servo n.val).feDone = false) :
    ∃ u : State, exec (.followingErrorFault n) s = .next (u.detect (272 + n.val)) ∧ u.flag (R.FE_FAULT n.val) = true
      ∧ u.linePending (140 + n.val) = true
      ∧ RegFrame s u [R.FE_FAULT n.val, R.FE_FAULT_CNT n.val, R.PEND_BITS ((140 + n.val) / 32)] := by
  obtain ⟨hfits, hcnt, hpend, -⟩ := State.lossFields n
  refine ⟨_, congrArg Host.Outcome.next (s.feFault_of_excess hrun hdone), ?_, State.linePending_raise .., by simp⟩
  rw [State.flag, State.rd_raise _ _ _ hpend, State.rd_count_apart _ _ _ _ hcnt, State.rd_wr_same _ _ _ hfits]
  rfl

theorem coastRetract_completes (s : State) (n : Fin 4) (h : s.coastOver n.val = true) :
    ∃ u : State, exec (.coastRetract n) s = .next ((u.detect (276 + n.val)).retract n.val)
      ∧ u.flag (R.COAST_RETRACT n.val) = true ∧ u.linePending (140 + n.val) = true := by
  obtain ⟨-, -, -, hfits, hpend, -⟩ := State.lossFields n
  refine ⟨_, congrArg Host.Outcome.next (if_pos h), ?_, State.linePending_raise ..⟩
  rw [State.flag, State.rd_raise _ _ _ hpend, State.rd_wr_same _ _ _ hfits]
  rfl

namespace State

theorem endSlotRun_regs (s : State) (k : Nat) : (s.endSlotRun k).regs = s.regs := rfl
theorem servo_endSlotRun (s : State) (n k : Nat) : (s.endSlotRun k).servo n = s.servo n := rfl

end State

theorem slotDrop_completes (s : State) (n : Fin 4) (h : Fin 2) (hservo : s.underServo n.val = true)
    (hactive : s.slotActive n.val h.val = true) (hother : s.otherGood n.val h.val = true)
    (hloss : s.rd (R.SV_COAST_MAX n.val) < (State.loopOf (s.servo n.val) h.val).lossRun) : ∃ u : State,
      exec (.slotDrop n h) s = .next (u.detect (280 + n.val)) ∧ u.bitAt (R.SLOT_DROP n.val) h.val = true
        ∧ u.flag (R.SLOT_PLACED (2 * n.val + h.val)) = false ∧ (State.loopOf (u.servo n.val) h.val).dropped = true := by
  obtain ⟨-, -, -, -, -, hslot, hpend⟩ := State.lossFields n
  obtain ⟨hfits, hapart, hbit⟩ := hslot h
  refine ⟨_, congrArg Host.Outcome.next (s.slotDrop_of_loss hservo hactive hother hloss), ?_, ?_, ?_⟩
  · rw [State.bitAt, State.rd_congr (State.endSlotRun_regs ..), State.rd_wr_apart _ _ _ _ hapart, State.rd_raise _ _ _ hpend,
      ← State.bitAt, State.bitAt_setBitAt_same _ _ _ _ hbit]
    simp
  · rw [State.flag, State.rd_congr (State.endSlotRun_regs ..), State.rd_wr_same _ _ _ hfits]
    rfl
  · rw [State.servo_endSlotRun, State.servo_wr, State.servo_raise, State.setBitAt, State.servo_wr, State.loopOf_modLoop_same]

theorem mem_actuators {n : Nat} (h : n < 4) : n ∈ actuators := by
  interval_cases n <;> decide

/-! ### Current loops (R420) -/

namespace State

/-- Where the registers of the current loops stand to each other. -/
theorem vcmFields (n : Fin 4) : (R.VCM_I_NOW n.val).fits = true ∧ (R.VCM_I_NOW n.val).width = 16
    ∧ ((R.VCM_IRMS_LIM n.val).fits && decide (0 < (R.VCM_IRMS_LIM n.val).width)) = true
    ∧ (R.VCM_IRMS_LIM n.val).apart (R.VCM_I_NOW n.val) = true
    ∧ (∀ m ∈ actuators, (R.VCM_PWR_LIM m).apart (R.VCM_I_NOW n.val) = true)
    ∧ (∀ m ∈ actuators, (R.VCM_PWR_LIM m).apart (R.VCM_IRMS_LIM n.val) = true)
    ∧ (R.VCM_I_NOW n.val).apart R.VCM_PWR_MAX = true
    ∧ (R.PEND_BITS (157 / 32)).apart (R.VCM_I_NOW n.val) = true ∧ (R.PEND_BITS (157 / 32)).apart (R.VCM_IRMS_LIM n.val) = true
    ∧ (R.PEND_BITS (157 / 32)).apart (R.VCM_PWR_LIM n.val) = true := by
  revert n
  decide

/-- R420: the current of actuator `n`'s VCM measured, and its limits. -/
def metered (s : State) (n current : Nat) (lim pow : Bool) : State :=
  actuators.foldl (fun s m => s.wrFlag (R.VCM_PWR_LIM m) pow) ((s.wr (R.VCM_I_NOW n) current).wrFlag (R.VCM_IRMS_LIM n) lim)

theorem metered_freeCount (s : State) (n current : Nat) (lim pow : Bool) : (s.metered n current lim pow).freeCount = s.freeCount := by
  have hregs : RegsOnly s (s.metered n current lim pow) :=
    (((RegsOnly.refl s).wr _ _).wrFlag _ _).foldl (fun u m => (RegsOnly.refl u).wrFlag _ _) _
  rw [hregs]

/-- A current loop's sub-sample shows what it measured, and its integrator takes the free value. -/
theorem subsample_of_no_excess (s : State) (n : Fin 4) (current rms watts : Nat) :
    let u := s.metered n.val current (decide (1200 ≤ rms)) (decide (s.rd R.VCM_PWR_MAX < watts))
    ((s.subsample n.val current rms watts 0).regs = u.regs ∨ (s.subsample n.val current rms watts 0).regs = (u.raise 157).regs)
      ∧ ((s.subsample n.val current rms watts 0).servo n.val).duty = Config.freeValue s.freeCount := by
  obtain ⟨-, -, -, -, -, -, hmax, -⟩ := vcmFields n
  have hpow : (s.wr (R.VCM_I_NOW n.val) current).rd R.VCM_PWR_MAX = s.rd R.VCM_PWR_MAX := rd_wr_apart _ _ _ _ hmax
  have hcount := s.metered_freeCount n.val current (decide (1200 ≤ rms)) (decide (s.rd R.VCM_PWR_MAX < watts))
  simp -implicitDefEqProofs only [subsample, Nat.zero_testBit, Bool.false_eq_true, if_false, if_true]
  rw [hpow]
  rw [← metered]
  generalize s.metered n.val current (decide (1200 ≤ rms)) (decide (s.rd R.VCM_PWR_MAX < watts)) = u at hcount ⊢
  generalize (decide (1200 ≤ rms) && !(s.wr (R.VCM_I_NOW n.val) current).flag (R.VCM_IRMS_LIM n.val)
    || decide (s.rd R.VCM_PWR_MAX < watts) && !(s.wr (R.VCM_I_NOW n.val) current).flag (R.VCM_PWR_LIM n.val)) = fresh
  cases fresh with
  | false =>
    simp -implicitDefEqProofs only [Bool.false_eq_true, if_false]
    exact ⟨.inl (by rw [modServo_regs, free_regs, free_regs]), by simp -implicitDefEqProofs [free, hcount]⟩
  | true =>
    simp -implicitDefEqProofs only [if_true]
    exact ⟨.inr (by rw [modServo_regs, free_regs, free_regs]), by simp -implicitDefEqProofs [free, hcount]⟩

/-- R420: what the sub-sample shows. -/
theorem metered_shows (s : State) (n : Fin 4) (current : Nat) (lim pow : Bool) :
    (s.metered n.val current lim pow).rd (R.VCM_I_NOW n.val) = current % 2 ^ 16
      ∧ (s.metered n.val current lim pow).flag (R.VCM_IRMS_LIM n.val) = lim
      ∧ ∀ m ∈ actuators, (s.metered n.val current lim pow).flag (R.VCM_PWR_LIM m) = pow := by
  obtain ⟨hfits, hwidth, hlim, hnow, hpowNow, hpowLim, -⟩ := vcmFields n
  have hpow := fun m hm => rd_foldl_wr ((s.wr (R.VCM_I_NOW n.val) current).wrFlag (R.VCM_IRMS_LIM n.val) lim) R.VCM_PWR_LIM (fun _ => ofBool pow)
    (l := actuators) (by decide) (by decide) (a := m) hm
  have hapart := fun g => rd_foldl_wr_apart ((s.wr (R.VCM_I_NOW n.val) current).wrFlag (R.VCM_IRMS_LIM n.val) lim) R.VCM_PWR_LIM
    (fun _ => ofBool pow) actuators (g := g)
  refine ⟨?_, ?_, fun m hm => ?_⟩
  · exact (hapart _ hpowNow).trans (by rw [rd_wrFlag_apart _ _ _ _ hnow, rd_wr_same _ _ _ hfits, hwidth])
  · refine (congrArg (· != 0) (hapart _ hpowLim)).trans ?_
    rw [rd_wrFlag_same _ _ _ hlim]
    cases lim <;> rfl
  · refine (congrArg (· != 0) (hpow m hm)).trans ?_
    cases pow <;> rfl

/-- R442: a trip above the threshold starts the hold anew. -/
theorem shockTrip_of_trip (s : State) (y : Bool) {mv : Nat} (h : s.rd R.SHK_THR ≤ mv) : ∃ u : State,
    s.shockTrip y mv = actuators.foldl writeUnsafe u ∧ u.flag R.SHOCK_HOLD = true ∧ u.svt.calm = 0 := by
  have hthr : ∀ f ∈ [R.SHK_PEAK_Y, R.SHK_PEAK_X], (s.raiseTo f mv).rd R.SHK_THR = s.rd R.SHK_THR := by
    intro f hf
    have hapart : f.apart R.SHK_THR = true := (show ∀ f ∈ [R.SHK_PEAK_Y, R.SHK_PEAK_X], f.apart R.SHK_THR = true by decide) f hf
    rw [raiseTo]
    split
    · exact rd_wr_apart _ _ _ _ hapart
    · rfl
  have hno : ∀ f ∈ [R.SHK_PEAK_Y, R.SHK_PEAK_X], ¬ mv < (s.raiseTo f mv).rd R.SHK_THR := fun f hf => by rw [hthr f hf]; omega
  have hcond : ¬ mv < (s.raiseTo (if y then R.SHK_PEAK_Y else R.SHK_PEAK_X) mv).rd R.SHK_THR := hno _ (by cases y <;> simp)
  refine ⟨_, if_neg hcond, ?_, by rw [raise_svt, wr_svt]⟩
  rw [flag, rd_raise _ _ _ (by decide), rd_wr_same _ _ _ (by decide)]
  rfl

end State

/-- R420: a sub-sample with no excess current. -/
theorem vcmSubsample_completes (s : State) (n : Fin 4) (i : BitVec 16) (r : BitVec 12) (w : BitVec 8) :
    Completes (exec (.vcmSubsample n i r w 0) s) fun t =>
      t.rd (R.VCM_I_NOW n.val) = i.toNat ∧ t.flag (R.VCM_IRMS_LIM n.val) = decide (1200 ≤ r.toNat)
        ∧ (∀ m < 4, t.flag (R.VCM_PWR_LIM m) = decide (s.rd R.VCM_PWR_MAX < w.toNat))
        ∧ (t.servo n.val).duty = Config.freeValue s.freeCount := by
  obtain ⟨-, -, -, -, -, -, -, hnow, hlim, -⟩ := State.vcmFields n
  obtain ⟨hregs, hduty⟩ := s.subsample_of_no_excess n i.toNat r.toNat w.toNat
  obtain ⟨hI, hL, hP⟩ := s.metered_shows n i.toNat (decide (1200 ≤ r.toNat)) (decide (s.rd R.VCM_PWR_MAX < w.toNat))
  rw [Nat.mod_eq_of_lt i.isLt] at hI
  change Completes (.next (s.subsample n.val i.toNat r.toNat w.toNat 0)) _
  rcases hregs with hregs | hregs
  · refine .next ⟨by rw [State.rd_congr hregs, hI], by rw [State.flag, State.rd_congr hregs, ← State.flag, hL], fun m hm => ?_, hduty⟩
    rw [State.flag, State.rd_congr hregs, ← State.flag, hP m (mem_actuators hm)]
  · refine .next ⟨by rw [State.rd_congr hregs, State.rd_raise _ _ _ hnow, hI],
      by rw [State.flag, State.rd_congr hregs, State.rd_raise _ _ _ hlim, ← State.flag, hL], fun m hm => ?_, hduty⟩
    rw [State.flag, State.rd_congr hregs, State.rd_raise _ _ _ (State.vcmFields ⟨m, hm⟩).2.2.2.2.2.2.2.2.2, ← State.flag,
      hP m (mem_actuators hm)]

/-- R442: a shock trip above the threshold. -/
theorem shockTrip_completes (s : State) (b : Bool) (m : BitVec 16) (h : s.rd R.SHK_THR ≤ m.toNat) :
    Completes (exec (.shockTrip b m) s) fun t =>
      t.flag R.SHOCK_HOLD = true ∧ t.svt.calm = 0 ∧ ∀ n < 4, t.flag (R.WRITE_SAFE n) = false := by
  obtain ⟨u, heq, hhold, hcalm⟩ : ∃ u : State, s.shockTrip b m.toNat = actuators.foldl State.writeUnsafe u
      ∧ u.flag R.SHOCK_HOLD = true ∧ u.svt.calm = 0 := s.shockTrip_of_trip b h
  obtain ⟨hsvt, hflag⟩ := u.writeUnsafe_all_kept
  change Completes (.next (s.shockTrip b m.toNat)) _
  rw [heq]
  exact .next ⟨hflag.trans hhold, by rw [hsvt, hcalm], fun n hn => u.writeUnsafe_all ⟨n, hn⟩⟩

end Sys2Proof.Machine

open Sys2Proof Sys2Proof.Machine in
/-- Settles O29: an equation for each command, and what its last writes leave. -/
theorem servoCommandsComplete : Obligations.ServoCommandsComplete := by
  unfold Obligations.ServoCommandsComplete
  refine ⟨fun s n h f b hsvt hservo hsam hlock => ?_, fun s f hsvt hphase hidle => ?_, followingErrorFault_completes,
    coastRetract_completes, slotDrop_completes, vcmSubsample_completes, shockTrip_completes,
    fun s hcalm => congrArg Host.Outcome.next (if_pos hcalm), fun s m hreach => ?_, fun s n hreach => ?_⟩
  · obtain ⟨u, heq, hregs⟩ := s.wedgeStrobe_of_acquiring (f := f) (late := b) hsvt hservo hlock
    obtain ⟨htime, htrack, hacq⟩ := u.acquireWedge_of_sam (n := n.val) (h := h.val) hsam
    change Completes (.next (s.wedgeStrobe n.val h.val f b)) _
    rw [heq]
    exact .next ⟨htime, htrack, hacq.trans hregs⟩
  · change Host.Outcome.next _ = _
    simp [hsvt, hphase, hidle]
  · refine congrArg Host.Outcome.next ((s.access_of_reachable _ _ hreach).trans ?_)
    rw [State.rd_wr_apart _ _ _ _ (by decide)]
  · refine .access hreach ?_
    clear hreach
    have hfields : (∀ f ∈ [R.LOST_WEDGE_CNT n.val, R.FROZEN_CNT n.val, R.SV_OVR_CNT n.val, R.FE_FAULT_CNT n.val, R.SV_REQ_REJ n.val],
          f.fits = true)
        ∧ [R.LOST_WEDGE_CNT n.val, R.FROZEN_CNT n.val, R.SV_OVR_CNT n.val, R.FE_FAULT_CNT n.val, R.SV_REQ_REJ n.val].Pairwise
          fun f g => g.apart f = true := by
      revert n
      decide
    have hclear := s.granting.rd_clearAll hfields.1 hfields.2
    simp only [List.forall_mem_cons] at hclear
    obtain ⟨hlost, hfrozen, hovr, hfe, hrej, -⟩ := hclear
    exact ⟨hlost, hfrozen, hovr, hfe, hrej, ((RegsOnly.refl s).wr _ _).clearAll _⟩
end

section
/-!
O30, retract, park and load (R431 to R435): the state each of them leaves, and how its registers stand to each other.
-/
namespace Sys2Proof.Machine

open Sys2Proof.Arith

namespace State

@[simp] theorem modServo_boot (s : State) (n : Nat) (f : ServoAct → ServoAct) : (s.modServo n f).boot = s.boot := rfl

/-- Where the registers of the bridge and of the servo mode stand to each other. -/
theorem parkFields (n : Fin 4) : (R.VCM_STATE n.val).fits = true ∧ (R.VCM_STATE n.val).width = 3 ∧ (R.PARKED n.val).fits = true
    ∧ (R.SV_MODE n.val).fits = true ∧ (R.SV_MODE n.val).width = 3 ∧ (R.SV_SETTLED n.val).fits = true
    ∧ (R.SV_MODE n.val).apart (R.VCM_STATE n.val) = true ∧ (R.PARKED n.val).apart (R.VCM_STATE n.val) = true
    ∧ (R.SV_SETTLED n.val).apart (R.VCM_STATE n.val) = true ∧ (R.SV_MODE n.val).apart (R.PARKED n.val) = true
    ∧ (R.SV_SETTLED n.val).apart (R.SV_MODE n.val) = true := by
  revert n
  decide

/-- R432: the registers that a park's end writes after its modes leave them alone. -/
theorem parkFields_apart (n : Fin 4) : ∀ g ∈ [R.VCM_STATE n.val, R.PARKED n.val, R.SV_MODE n.val],
    (R.PEND_BITS (154 / 32)).apart g = true ∧ ∀ f ∈ [R.SLOT_PLACED (2 * n.val), R.SLOT_PLACED (2 * n.val + 1)], f.apart g = true := by
  revert n
  decide

/-- R435: the registers that a load's end writes leave its modes alone. -/
theorem loadFields_apart (n : Fin 4) : ∀ g ∈ [R.VCM_STATE n.val, R.SV_MODE n.val, R.SV_SETTLED n.val],
    (R.PEND_BITS (155 / 32)).apart g = true ∧ (R.LOAD_CNT n.val).apart g = true ∧ (R.GOOD_WEDGES n.val).apart g = true
      ∧ (R.SV_COAST_NOW n.val).apart g = true := by
  revert n
  decide

/-- R432: the hold of a park expires and no actuator reset waits for it. -/
theorem parkDone_of_holding (s : State) {n : Nat} (hstate : s.rd (R.VCM_STATE n) = 4) (hreset : s.boot.actResetWait.testBit n = false) :
    s.parkDone n = (((((s.wr (R.VCM_STATE n) 5).wr (R.PARKED n) 1).wr (R.SV_MODE n) 7).raise 154).unplace n).modServo n
      fun v => { v with inUse := 0, duty := 0, parking := false } := by
  have hboot : ((((((s.wr (R.VCM_STATE n) 5).wr (R.PARKED n) 1).wr (R.SV_MODE n) 7).raise 154).unplace n).modServo n
      fun v => { v with inUse := 0, duty := 0, parking := false }).boot = s.boot := by
    rw [modServo_boot, unplace, clearAll, List.foldl_cons, List.foldl_cons, List.foldl_nil, wr_boot, wr_boot, raise_boot, wr_boot,
      wr_boot, wr_boot]
  simp only [parkDone, if_neg (not_not.mpr hstate)]
  rw [if_neg]
  rw [hboot, hreset]
  decide

/-- R434: the park's seek has settled. -/
def handedOver (s : State) (n : Nat) : State :=
  (((s.wr (R.VCM_STATE n) 3).wr (R.SV_MODE n) 6).wr (R.SV_SETTLED n) 0).modServo n fun v => { v with parking := false }

/-- R435: the first capture writes no register. -/
theorem capture_regs (s : State) (n : Nat) : (s.capture n).regs = s.regs := rfl

/-- R435: a load that has acquired is done. -/
theorem loadDone_of_acquired (s : State) {n : Nat} (hstate : s.rd (R.VCM_STATE n) = 6) (hacq : (s.servo n).slot0.acquired = true)
    (hlock : s.bitAt (R.DLC_LOCK n) 0 = true) : ∃ u : State, s.loadDone n = { u with media := { u.media with loadedOnce := true } }
      ∧ u = ((((((((s.capture n).wr (R.VCM_STATE n) 1).wr (R.SV_MODE n) 4).wr (R.SV_SETTLED n) 1).wr (R.SV_COAST_NOW n) 0).wr
        (R.GOOD_WEDGES n) 0).count (R.LOAD_CNT n)).raise 155) := ⟨_, if_pos ⟨hstate, hacq, hlock⟩, rfl⟩

end State

theorem parkHoldDone_completes (s : State) (n : Fin 4) (hstate : s.rd (R.VCM_STATE n.val) = 4)
    (hreset : s.boot.actResetWait.testBit n.val = false) :
    Completes (exec (.parkHoldDone n) s) fun t => t.rd (R.VCM_STATE n.val) = 5 ∧ t.flag (R.PARKED n.val) = true
      ∧ t.rd (R.SV_MODE n.val) = 7 ∧ (t.servo n.val).inUse = 0 ∧ (t.servo n.val).duty = 0 := by
  obtain ⟨hvcm, hvcmWidth, hparked, hmode, hmodeWidth, -, hmodeVcm, hparkedVcm, -, hmodeParked, -⟩ := State.parkFields n
  have hlast : ∀ (u : State), ∀ g ∈ [R.VCM_STATE n.val, R.PARKED n.val, R.SV_MODE n.val], ((u.raise 154).unplace n.val).rd g = u.rd g := by
    intro u g hg
    obtain ⟨hpend, hplaced⟩ := State.parkFields_apart n g hg
    refine (State.rd_foldl_wr_apart (u.raise 154) id (fun _ => 0) _ hplaced).trans ?_
    rw [State.rd_raise _ _ _ hpend]
  change Completes (.next (s.parkDone n.val)) _
  rw [s.parkDone_of_holding hstate hreset]
  refine .next ⟨?_, ?_, ?_, by rw [State.servo_modServo_same], by rw [State.servo_modServo_same]⟩
  · rw [State.rd_modServo, hlast _ _ (by simp), State.rd_wr_apart _ _ _ _ hmodeVcm, State.rd_wr_apart _ _ _ _ hparkedVcm,
      State.rd_wr_same _ _ _ hvcm, hvcmWidth]
    rfl
  · rw [State.flag, State.rd_modServo, hlast _ _ (by simp), State.rd_wr_apart _ _ _ _ hmodeParked, State.rd_wr_same _ _ _ hparked]
    rfl
  · rw [State.rd_modServo, hlast _ _ (by simp), State.rd_wr_same _ _ _ hmode, hmodeWidth]
    rfl

theorem parkHandover_completes (s : State) (n : Fin 4) (hparking : (s.servo n.val).parking = true)
    (hsettled : s.flag (R.SV_SETTLED n.val) = true) : ∃ u : State,
    exec (.parkHandover n) s = .next (u.writeUnsafe n.val) ∧ u.rd (R.VCM_STATE n.val) = 3 ∧ u.rd (R.SV_MODE n.val) = 6
      ∧ u.flag (R.SV_SETTLED n.val) = false ∧ (u.servo n.val).parking = false
      ∧ RegFrame s u [R.VCM_STATE n.val, R.SV_MODE n.val, R.SV_SETTLED n.val] := by
  obtain ⟨hvcm, hvcmWidth, -, hmode, hmodeWidth, hsettledFits, hmodeVcm, -, hsettledVcm, -, hsettledMode⟩ := State.parkFields n
  refine ⟨s.handedOver n.val, congrArg Host.Outcome.next (if_pos ?_), ?_, ?_, ?_, ?_, ?_⟩
  · simp [hparking, hsettled]
  · rw [State.handedOver, State.rd_modServo, State.rd_wr_apart _ _ _ _ hsettledVcm, State.rd_wr_apart _ _ _ _ hmodeVcm,
      State.rd_wr_same _ _ _ hvcm, hvcmWidth]
    rfl
  · rw [State.handedOver, State.rd_modServo, State.rd_wr_apart _ _ _ _ hsettledMode, State.rd_wr_same _ _ _ hmode, hmodeWidth]
    rfl
  · rw [State.handedOver, State.flag, State.rd_modServo, State.rd_wr_same _ _ _ hsettledFits]
    rfl
  · rw [State.handedOver, State.servo_modServo_same]
  · simp [State.handedOver]

theorem loadAcquireTimeout_completes (s : State) (n : Fin 4) (hstate : s.rd (R.VCM_STATE n.val) = 6)
    (hacq : (s.servo n.val).slot0.acquired = false) (htries : (s.servo n.val).tries < 2) :
    Completes (exec (.loadAcquireTimeout n) s) fun t => (t.servo n.val).tries = (s.servo n.val).tries + 1 ∧ t.regs = s.regs := by
  change Completes (.next (s.loadTimeout n.val)) _
  simp only [State.loadTimeout, hstate, hacq, if_pos htries]
  exact .next ⟨by simp, by simp⟩

theorem loadComplete_completes (s : State) (n : Fin 4) (hstate : s.rd (R.VCM_STATE n.val) = 6)
    (hacq : (s.servo n.val).slot0.acquired = true) (hlock : s.bitAt (R.DLC_LOCK n.val) 0 = true) :
    Completes (exec (.loadComplete n) s) fun t =>
      t.rd (R.VCM_STATE n.val) = 1 ∧ t.rd (R.SV_MODE n.val) = 4 ∧ t.flag (R.SV_SETTLED n.val) = true ∧ t.media.loadedOnce = true
        ∧ t.linePending 155 = true
        ∧ RegFrame s t [R.VCM_STATE n.val, R.SV_MODE n.val, R.SV_SETTLED n.val, R.SV_COAST_NOW n.val, R.GOOD_WEDGES n.val,
          R.LOAD_CNT n.val, R.PEND_BITS 4] := by
  obtain ⟨hvcm, hvcmWidth, -, hmode, hmodeWidth, hsettledFits, hmodeVcm, -, hsettledVcm, -, hsettledMode⟩ := State.parkFields n
  have hlast : ∀ (u : State), ∀ g ∈ [R.VCM_STATE n.val, R.SV_MODE n.val, R.SV_SETTLED n.val],
      ((((u.wr (R.SV_COAST_NOW n.val) 0).wr (R.GOOD_WEDGES n.val) 0).count (R.LOAD_CNT n.val)).raise 155).rd g = u.rd g := by
    intro u g hg
    obtain ⟨hpend, hload, hgood, hcoast⟩ := State.loadFields_apart n g hg
    rw [State.rd_raise _ _ _ hpend, State.rd_count_apart _ _ _ _ hload, State.rd_wr_apart _ _ _ _ hgood, State.rd_wr_apart _ _ _ _ hcoast]
  obtain ⟨u, heq, rfl⟩ := s.loadDone_of_acquired hstate hacq hlock
  change Completes (.next (s.loadDone n.val)) _
  rw [heq]
  refine .next ⟨?_, ?_, ?_, rfl, ?_, ?_⟩
  · rw [State.rd_update, hlast _ _ (by simp), State.rd_wr_apart _ _ _ _ hsettledVcm, State.rd_wr_apart _ _ _ _ hmodeVcm,
      State.rd_wr_same _ _ _ hvcm, hvcmWidth]
    rfl
  · rw [State.rd_update, hlast _ _ (by simp), State.rd_wr_apart _ _ _ _ hsettledMode, State.rd_wr_same _ _ _ hmode, hmodeWidth]
    rfl
  · rw [State.flag, State.rd_update, hlast _ _ (by simp), State.rd_wr_same _ _ _ hsettledFits]
    rfl
  · rw [State.linePending_update]
    exact State.linePending_raise ..
  · have hcap : RegFrame s (s.capture n.val) [R.VCM_STATE n.val, R.SV_MODE n.val, R.SV_SETTLED n.val, R.SV_COAST_NOW n.val,
        R.GOOD_WEDGES n.val, R.LOAD_CNT n.val, R.PEND_BITS 4] := (regFrame_congr (s.capture_regs n.val)).mpr (regFrame_same s _)
    simpa -implicitDefEqProofs using hcap

end Sys2Proof.Machine

open Sys2Proof Sys2Proof.Machine in
/-- Settles O30: the state each command leaves, read field by field. -/
theorem parkAndLoadComplete : Obligations.ParkAndLoadComplete := by
  unfold Obligations.ParkAndLoadComplete
  exact ⟨fun s n => rfl, fun s n h => congrArg Host.Outcome.next (if_pos h), parkHoldDone_completes, parkHandover_completes,
    loadAcquireTimeout_completes, loadComplete_completes⟩
end

section
/-!
O31, the triad of lanes (R406 to R469): the vote of three lanes that agree, the checkpoint, and the registers of the warm start and
of the lanes' self-test.
-/
namespace Sys2Proof.Machine

open Sys2Proof.Arith

namespace State

/-! ### The slice (R457) -/

/-- R457: three lanes that agree give their record, and nobody dissents. -/
theorem vote_of_agreement : vote [(0, .agrees), (1, .agrees), (2, .agrees)] = .record [] := rfl

theorem voting_of_voters {s : State} (h : (List.range 4).filter s.voting = [0, 1, 2]) :
    s.voting 0 = true ∧ s.voting 1 = true ∧ s.voting 2 = true ∧ s.voting 3 = false := by
  have hmem : ∀ l, l ∈ (List.range 4).filter s.voting ↔ l ∈ [0, 1, 2] := fun l => by rw [h]
  have h3 := hmem 3
  refine ⟨(List.mem_filter.mp ((hmem 0).mpr (by decide))).2, (List.mem_filter.mp ((hmem 1).mpr (by decide))).2,
    (List.mem_filter.mp ((hmem 2).mpr (by decide))).2, ?_⟩
  simpa using h3

/-- R454, R458: a slice in which the voters agree and no lane corrects a word has no note. -/
theorem sliceNotes_none (s : State) : s.sliceNotes false 0 = s := by
  simp [sliceNotes, List.range_succ]

theorem sliceVote_record (s : State) (n : Nat) (d : List Nat) : s.sliceVote n (.record d) = d.foldl disagree (s.sliceDone n) := rfl

end State

theorem sliceDeadline_completes (s : State) (hsvt : s.dom.svt = true) (hlow : 1 ≤ s.svt.phase) (hhigh : s.svt.phase ≤ 4)
    (hvoters : (List.range 4).filter s.voting = [0, 1, 2]) :
    Completes (exec (.sliceDeadline .agrees .agrees .agrees .missing false 0) s) fun t => t.svt.phase = s.svt.phase + 1
      ∧ ∃ u : State, u = s.sliceDone (s.svt.phase - 1) ∧ t.regs = u.regs ∧ t.svt.acts = u.svt.acts := by
  obtain ⟨h0, h1, h2, h3⟩ := State.voting_of_voters hvoters
  have hrecs : (((List.range 4).zip [LaneRecord.agrees, .agrees, .agrees, .missing]).filter fun r => s.voting r.1) =
      [(0, .agrees), (1, .agrees), (2, .agrees)] := by
    simp [List.range_succ, h0, h1, h2, h3]
  refine ⟨_, congrArg Host.Outcome.next (if_pos (by simp [hsvt, hlow, hhigh])), rfl, _, rfl, ?_⟩
  have hnotes : s.sliceNotes false (0 : BitVec 4).toNat = s := s.sliceNotes_none
  simp -implicitDefEqProofs only [hrecs, State.vote_of_agreement, hnotes, State.sliceVote_record, List.foldl_nil, and_self]

/-! ### The checkpoint (R463, R464) -/

namespace State

/-- Where the checkpoint's registers stand to each other and to those of a coast. -/
theorem ckptFields (n : Fin 4) : (R.SV_COAST_NOW n.val).apart R.CKPT_BUF = true ∧ (R.SV_MODE n.val).apart R.CKPT_BUF = true
    ∧ (R.PEND_BITS ((136 + n.val) / 32)).apart R.CKPT_BUF = true ∧ (∀ f ∈ writeSafeFields n.val, f.apart R.CKPT_BUF = true) := by
  revert n
  decide

theorem coastFrame_keepsCkpt (s : State) (n : Fin 4) :
    (s.coastFrame n.val).rd R.CKPT_BUF = s.rd R.CKPT_BUF ∧ (s.coastFrame n.val).svt.seq = s.svt.seq := by
  obtain ⟨hcoast, hmode, hpend, hunsafe⟩ := ckptFields n
  rw [coastFrame]
  split
  · exact ⟨rd_count_apart _ _ _ _ hcoast, by rw [count_svt]⟩
  · refine ⟨?_, ?_⟩
    · rw [writeUnsafe_frame _ _ _ hunsafe, rd_raise _ _ _ hpend, rd_wr_apart _ _ _ _ hcoast, rd_wr_apart _ _ _ _ hmode, rd_modServo]
    · rw [writeUnsafe_svt, raise_svt, wr_svt, wr_svt]
      rfl

theorem restoreMissed_kept_ckpt (s : State) (n : Fin 4) :
    (s.restoreMissed n.val).rd R.CKPT_BUF = s.rd R.CKPT_BUF ∧ (s.restoreMissed n.val).svt.seq = s.svt.seq := by
  rw [restoreMissed]
  split
  · exact ⟨rfl, rfl⟩
  split
  · split
    · exact ⟨rfl, rfl⟩
    · exact s.coastFrame_keepsCkpt n
  · exact ⟨rfl, rfl⟩

theorem restoreMissed_all (s : State) : (actuators.foldl restoreMissed s).rd R.CKPT_BUF = s.rd R.CKPT_BUF
    ∧ (actuators.foldl restoreMissed s).svt.seq = s.svt.seq := by
  have hthen := fun (u : State) (n : Fin 4) => u.restoreMissed_kept_ckpt n
  simp only [actuators, List.foldl_cons, List.foldl_nil]
  exact ⟨(((hthen _ 3).1.trans (hthen _ 2).1).trans (hthen _ 1).1).trans (hthen s 0).1,
    (((hthen _ 3).2.trans (hthen _ 2).2).trans (hthen _ 1).2).trans (hthen s 0).2⟩

/-- R463: a checkpoint goes to the other buffer, under the number of its frame. -/
theorem writeCheckpoint_shows (s : State) (bad : List Nat) : (s.writeCheckpoint bad).rd R.CKPT_BUF = 1 - s.rd R.CKPT_BUF
    ∧ (s.writeCheckpoint bad).rd R.CKPT_SEQ = s.svt.seq % 2 ^ 16 := by
  have hbuf : (1 - s.rd R.CKPT_BUF) % 2 ^ 1 = 1 - s.rd R.CKPT_BUF := Nat.mod_eq_of_lt (by omega)
  dsimp only [writeCheckpoint]
  refine ⟨?_, ?_⟩
  · rw [rd_wr_apart _ _ _ _ (by decide), rd_wr_same _ _ _ (by decide)]
    exact hbuf
  · rw [rd_wr_apart _ _ _ _ (by decide), rd_wr_apart _ _ _ _ (by decide), rd_wr_same _ _ _ (by decide)]
    rfl

end State

theorem checkpoint_completes (s : State) (hsvt : s.dom.svt = true) (hphase : s.svt.phase = 5) :
    Completes (exec (.checkpoint []) s) fun t =>
      t.svt.phase = 0 ∧ t.rd R.CKPT_BUF = 1 - s.rd R.CKPT_BUF ∧ t.rd R.CKPT_SEQ = s.svt.seq % 2 ^ 16 := by
  obtain ⟨hbuf, hseq⟩ := s.restoreMissed_all
  obtain ⟨hnewBuf, hnewSeq⟩ := (actuators.foldl State.restoreMissed s).writeCheckpoint_shows []
  refine ⟨_, congrArg Host.Outcome.next (if_pos (by simp [hsvt, hphase])), rfl, ?_, ?_⟩
  · rw [State.rd_update]
    exact hnewBuf.trans (by rw [hbuf])
  · rw [State.rd_update]
    exact hnewSeq.trans (by rw [hseq])

/-! ### The warm start (R465 to R467) -/

namespace State

/-- Where the registers of a warm start stand to each other. -/
theorem warmFields (l : Fin 4) : (R.LANE_STATE l.val).fits = true ∧ (R.LANE_STATE l.val).width = 3
    ∧ (∀ f ∈ [R.WARM_BUSY, R.WARM_LANE, R.WARM_PHASE, R.VOTERS, R.WARM_TIME_LAST, R.WARM_STARTS, R.PEND_BITS (150 / 32)],
      f.apart (R.LANE_STATE l.val) = true)
    ∧ (R.LANE_STATE l.val).apart R.COEF_PEND = true := by
  revert l
  decide

/-- R467: with no coefficients pending none are applied. -/
theorem applyPending_none (s : State) (h : s.rd R.COEF_PEND = 0) :
    actuators.foldl (fun s n => if s.bitAt R.COEF_PEND n then s.applyCoef n else s) s = s := by
  have hbit : ∀ n, s.bitAt R.COEF_PEND n = false := fun n => by rw [bitAt, h, Nat.zero_testBit]
  simp [actuators, hbit]

/-- R465: the lane joins, with no coefficients pending. -/
theorem laneJoin_of_none_pending (s : State) (l : Fin 4) (hl : s.rd R.WARM_LANE = l.val) (hcoef : s.rd R.COEF_PEND = 0) (c : Nat) :
    s.laneJoin c = (((((((s.wr (R.LANE_STATE l.val) 2).wr R.WARM_BUSY 0).wr R.WARM_PHASE 0).countVoters).wr R.WARM_TIME_LAST c).count
      R.WARM_STARTS).raise 150) := by
  obtain ⟨-, -, -, hpend⟩ := warmFields l
  rw [laneJoin, hl]
  refine applyPending_none _ ?_
  rw [rd_raise _ _ _ (by decide), rd_count_apart _ _ _ _ (by decide), rd_wr_apart _ _ _ _ (by decide), countVoters,
    rd_wr_apart _ _ _ _ (by decide), rd_wr_apart _ _ _ _ (by decide), rd_wr_apart _ _ _ _ (by decide), rd_wr_apart _ _ _ _ hpend, hcoef]

end State

theorem laneWarmStart_completes (s : State) (hdue : s.svt.warmDue = true) (hsvt : s.dom.svt = true) (hbusy : s.flag R.WARM_BUSY = false) :
    Completes (exec (.laneWarmStart .retirement) s) fun t => t.rd (R.LANE_STATE 3) = 1 ∧ t.flag R.WARM_BUSY = true
      ∧ t.rd R.WARM_LANE = 3 ∧ t.rd R.WARM_PHASE = 2
      ∧ RegFrame s t [R.REG_TOKEN, R.LANE_STATE 3, R.WARM_BUSY, R.WARM_LANE, R.WARM_PHASE] := by
  refine ⟨s.warmStart 3, congrArg Host.Outcome.next (if_pos (by simp [hdue, hsvt, hbusy])), ?_, ?_, ?_, ?_, by
    simp -implicitDefEqProofs [State.warmStart]⟩
  all_goals simp -implicitDefEqProofs (disch := decide) [State.warmStart, State.flag, State.rd_wr_apart, State.rd_wr_same]
  all_goals decide

theorem laneJoin_completes (s : State) (c : BitVec 16) (hbusy : s.flag R.WARM_BUSY = true) (hphase : s.rd R.WARM_PHASE = 4)
    (hslot : s.svt.phase ≤ 1) (hcoef : s.rd R.COEF_PEND = 0) :
    Completes (exec (.laneJoin c) s) fun t => t.rd (R.LANE_STATE (s.rd R.WARM_LANE)) = 2 ∧ t.flag R.WARM_BUSY = false
      ∧ t.rd R.WARM_PHASE = 0 ∧ t.rd R.WARM_TIME_LAST = c.toNat ∧ t.linePending 150 = true := by
  have hlane : s.rd R.WARM_LANE < 4 := s.rd_lt R.WARM_LANE
  obtain ⟨hfits, hwidth, hapart, -⟩ := State.warmFields ⟨_, hlane⟩
  simp only [List.forall_mem_cons] at hapart
  obtain ⟨hwb, -, hwp, hvo, htl, hws, hpe, -⟩ := hapart
  refine ⟨s.laneJoin c.toNat, congrArg Host.Outcome.next (if_pos (by simp [hbusy, hphase, hslot])), ?_⟩
  rw [s.laneJoin_of_none_pending ⟨_, hlane⟩ rfl hcoef c.toNat, State.countVoters]
  refine ⟨?_, ?_, ?_, ?_, State.linePending_raise ..⟩
  · rw [State.rd_raise _ _ _ hpe, State.rd_count_apart _ _ _ _ hws, State.rd_wr_apart _ _ _ _ htl, State.rd_wr_apart _ _ _ _ hvo,
      State.rd_wr_apart _ _ _ _ hwp, State.rd_wr_apart _ _ _ _ hwb, State.rd_wr_same _ _ _ hfits, hwidth]
    rfl
  · rw [State.flag, State.rd_raise _ _ _ (by decide), State.rd_count_apart _ _ _ _ (by decide), State.rd_wr_apart _ _ _ _ (by decide),
      State.rd_wr_apart _ _ _ _ (by decide), State.rd_wr_apart _ _ _ _ (by decide), State.rd_wr_same _ _ _ (by decide)]
    rfl
  · rw [State.rd_raise _ _ _ (by decide), State.rd_count_apart _ _ _ _ (by decide), State.rd_wr_apart _ _ _ _ (by decide),
      State.rd_wr_apart _ _ _ _ (by decide), State.rd_wr_same _ _ _ (by decide)]
    rfl
  · rw [State.rd_raise _ _ _ (by decide), State.rd_count_apart _ _ _ _ (by decide), State.rd_wr_same _ _ _ (by decide)]
    exact Nat.mod_eq_of_lt c.isLt

/-! ### The lanes' self-test (R469) -/

namespace State

/-- Where the registers of the lanes' self-test stand to each other. -/
theorem bistFields (l : Fin 4) : (R.LANE_STATE l.val).fits = true ∧ (R.LANE_STATE l.val).width = 3 ∧ (R.LANE_CAUSE l.val).fits = true
    ∧ (R.LANE_CAUSE l.val).width = 3 ∧ (R.LANE_CAUSE l.val).apart (R.LANE_STATE l.val) = true
    ∧ R.BIST_BUSY.apart (R.LANE_STATE l.val) = true ∧ R.BIST_BUSY.apart (R.LANE_CAUSE l.val) = true
    ∧ R.REG_TOKEN.apart (R.LANE_STATE l.val) = true := by
  revert l
  decide

/-- A pass over the lanes that changes the state for one lane alone. -/
theorem foldl_lanes_single {f : State → Nat → State} (l : Fin 4) (h : ∀ u, ∀ i < 4, i ≠ l.val → f u i = u) (s : State) :
    (List.range 4).foldl f s = f s l.val := by
  simp only [List.range_succ, List.range_zero, List.nil_append, List.cons_append, List.foldl_cons, List.foldl_nil]
  match l with
  | 0 => simp [h _ 1, h _ 2, h _ 3]
  | 1 => simp [h _ 0, h _ 2, h _ 3]
  | 2 => simp [h _ 0, h _ 1, h _ 3]
  | 3 => simp [h _ 0, h _ 1, h _ 2]

theorem testBit_oneLane (l : Fin 4) : ∀ i < 4, (BitVec.ofNat 4 (2 ^ l.val)).toNat.testBit i = decide (i = l.val) := by
  revert l
  decide

end State

theorem laneBist_completes (s : State) (l : Fin 4) (hreach : s.reachable R.LANE_BIST.addr = true)
    (hstate : s.rd (R.LANE_STATE l.val) = 0 ∨ s.rd (R.LANE_STATE l.val) = 3) :
    Completes (exec (.laneBist (BitVec.ofNat 4 (2 ^ l.val))) s) fun t => t.rd (R.LANE_STATE l.val) = 4 ∧ t.flag R.BIST_BUSY = true
      ∧ RegFrame s t [R.REG_TOKEN, R.LANE_STATE l.val, R.BIST_BUSY] := by
  obtain ⟨hfits, hwidth, -, -, -, hbusy, -, htoken⟩ := State.bistFields l
  refine .access hreach ?_
  have hbit := State.testBit_oneLane l
  have hready : (s.granting.rd (R.LANE_STATE l.val) == 0 || s.granting.rd (R.LANE_STATE l.val) == 3) = true := by
    rw [State.rd_wr_apart _ _ _ _ htoken]
    simpa using hstate
  have hrd : (s.granting.wr (R.LANE_STATE l.val) 4).rd (R.LANE_STATE l.val) = 4 := by
    rw [State.rd_wr_same _ _ _ hfits, hwidth]
    rfl
  rw [State.foldl_lanes_single l fun u i hi hne => if_neg (by rw [hbit i hi, decide_eq_false hne]; simp)]
  simp only [hbit l.val l.isLt, decide_true, hready, Bool.and_self, if_true, State.bistBusy]
  refine ⟨?_, ?_, by simp -implicitDefEqProofs⟩
  · rw [State.rd_wrFlag_apart _ _ _ _ hbusy, hrd]
  · rw [State.flag_wrFlag_same _ _ _ (by decide), List.any_eq_true]
    exact ⟨l.val, List.mem_range.mpr l.isLt, by simp [hrd]⟩

theorem laneBistDone_completes (s : State) (l : Fin 4) (hstate : s.rd (R.LANE_STATE l.val) = 4) :
    Completes (exec (.laneBistDone l false) s) fun t => t.rd (R.LANE_STATE l.val) = 5 ∧ t.rd (R.LANE_CAUSE l.val) = 4
      ∧ RegFrame s t [R.LANE_STATE l.val, R.LANE_CAUSE l.val, R.BIST_BUSY] := by
  obtain ⟨hfits, hwidth, hcauseFits, hcauseWidth, hcause, hbusy, hbusyCause, -⟩ := State.bistFields l
  refine ⟨((s.wr (R.LANE_STATE l.val) 5).wr (R.LANE_CAUSE l.val) 4).bistBusy, congrArg Host.Outcome.next (if_pos hstate), ?_, ?_,
    by simp -implicitDefEqProofs [State.bistBusy]⟩
  · rw [State.bistBusy, State.rd_wrFlag_apart _ _ _ _ hbusy, State.rd_wr_apart _ _ _ _ hcause, State.rd_wr_same _ _ _ hfits, hwidth]
    rfl
  · rw [State.bistBusy, State.rd_wrFlag_apart _ _ _ _ hbusyCause, State.rd_wr_same _ _ _ hcauseFits, hcauseWidth]
    rfl

theorem triadCntClr_completes (s : State) (hreach : s.reachable R.TRIAD_CNT_CLR.addr = true) :
    Completes (exec .triadCntClr s) fun t => t.rd R.DUAL_MISMATCH_CNT = 0
      ∧ t.rd R.TRIPLE_MISMATCH_CNT = 0 ∧ t.rd R.VOTER_ERR_CNT = 0 ∧ t.rd R.WARM_STARTS = 0 ∧ t.rd R.RETIREMENTS = 0
      ∧ (∀ l < 4, t.rd (R.LANE_DIS_CNT l) = 0 ∧ t.rd (R.LANE_CE_CNT l) = 0) ∧ RegsOnly s t := by
  refine .access hreach ?_
  have hclear := s.granting.rd_clearAll (l := [R.DUAL_MISMATCH_CNT, R.TRIPLE_MISMATCH_CNT, R.VOTER_ERR_CNT, R.WARM_STARTS, R.RETIREMENTS]
    ++ (List.range 4).map R.LANE_DIS_CNT ++ (List.range 4).map R.LANE_CE_CNT) (by decide) (by decide)
  refine ⟨hclear _ (by simp), hclear _ (by simp), hclear _ (by simp), hclear _ (by simp), hclear _ (by simp), fun l hl => ?_,
    ((RegsOnly.refl s).wr _ _).clearAll _⟩
  exact ⟨hclear _ (List.mem_append_left _ (List.mem_append_right _ (List.mem_map_of_mem (List.mem_range.mpr hl)))),
    hclear _ (List.mem_append_right _ (List.mem_map_of_mem (List.mem_range.mpr hl)))⟩

end Sys2Proof.Machine

open Sys2Proof Sys2Proof.Machine in
/-- Settles O31: the vote of three lanes that agree, and the registers each of the other commands leaves. -/
theorem triadCommandsComplete : Obligations.TriadCommandsComplete := by
  unfold Obligations.TriadCommandsComplete
  refine ⟨sliceDeadline_completes, checkpoint_completes, fun s l hsvt hvoting hdis => ?_, laneWarmStart_completes, fun s hbusy hphase => ?_,
    fun s hbusy hphase hclean hslot => ?_, laneJoin_completes, laneBist_completes, laneBistDone_completes, triadCntClr_completes⟩
  · exact congrArg Host.Outcome.next (if_pos (by simp [hsvt, hvoting, hdis]))
  · exact congrArg Host.Outcome.next (if_pos (by simp [hbusy, hphase]))
  · exact congrArg Host.Outcome.next (if_pos (by simp [hbusy, hphase, hclean, hslot]))
end

section
/-!
O33, calibration runs and the calibration store (R491 to R505): which of a run's preconditions a register access can move, the
snapshot a store takes, and the set a bank gives.
-/
namespace Sys2Proof.Machine

open Sys2Proof.Arith

/-- An index is listed, with one value whatever the default, or it reads as the default. -/
theorem Store.get_listed_or {β : Type} (m : Store β) (k : Nat) : (∀ d, Store.get d m k = d) ∨ ∃ w, ∀ d, Store.get d m k = w := by
  induction m with
  | nil => exact .inl fun _ => rfl
  | cons e m ih =>
    by_cases h : e.1 = k
    · exact .inr ⟨e.2, fun d => by simp [Store.get, h]⟩
    · have hrest : ∀ d, Store.get d (e :: m) k = Store.get d m k := fun d => by simp [Store.get, h]
      simpa only [hrest] using ih

namespace State

/-! ### Preconditions seen through a register access (R17, R492) -/

/-- A field set, and clear at reset, below the register arbiter's token stays set in an access of its own register's address. -/
theorem flag_granting_of_flag (s : State) {g : Fld} (hplace : g.lo + g.width ≤ 16)
    (hrst : field (BitVec.ofNat 32 g.rst).toNat g.lo g.width = 0) (h : s.flag g = true) : s.granting.flag g = true := by
  by_cases haddr : R.REG_TOKEN.addr = g.addr
  · rcases Store.get_listed_or s.regs g.addr with hunlisted | ⟨w, hw⟩
    · rw [flag, rd, word, hunlisted, hrst] at h
      exact absurd h (by decide)
    · have hword : s.granting.word g.addr g.rst = putField w.toNat 16 2 1 % 2 ^ 32 := by
        have hne : BitVec.ofNat 32 (putField w.toNat 16 2 1) ≠ BitVec.ofNat 32 R.REG_TOKEN.rst := by
          intro heq
          have hfield := congrArg (fun v => field (BitVec.toNat v) 16 2) heq
          simp only [BitVec.toNat_ofNat] at hfield
          rw [Arith.field_mod _ _ _ _ (by decide), Arith.field_putField] at hfield
          exact absurd hfield (by decide)
        rw [word, granting, wr, ← haddr]
        simp only [Store.get_put_self]
        rw [word, haddr, hw]
        exact (congrArg BitVec.toNat (if_neg hne)).trans (BitVec.toNat_ofNat ..)
      rw [flag, rd, hword, Arith.field_mod _ _ _ _ (by omega), Arith.field_putField_apart _ _ _ _ _ _ (.inr hplace)]
      rw [flag, rd, word, hw] at h
      exact h
  · rw [flag_wr_apart _ _ _ _ (by simp [Fld.apart, haddr])]
    exact h

theorem regToken_apart_run (k : Fin 4) : R.REG_TOKEN.apart (R.PRE_ACTIVE k.val) = true ∧ R.REG_TOKEN.apart (R.RUN_STATE k.val) = true := by
  revert k
  decide

theorem rd_granting_svMode (s : State) (n : Nat) : s.granting.rd (R.SV_MODE n) = s.rd (R.SV_MODE n) :=
  rd_wr_apart _ _ _ _ (by simp only [Fld.apart, R.REG_TOKEN, R.SV_MODE, Bool.or_eq_true, bne_iff_ne]; omega)

theorem rd_granting_htsTarget (s : State) (k : Nat) : s.granting.rd (R.HTS_TGT_NOW k) = s.rd (R.HTS_TGT_NOW k) :=
  rd_wr_apart _ _ _ _ (by simp only [Fld.apart, R.REG_TOKEN, R.HTS_TGT_NOW, Bool.or_eq_true, bne_iff_ne]; omega)

theorem calOpOn_wr (s : State) (f : Fld) (v n h : Nat) : (s.wr f v).calOpOn n h = s.calOpOn n h := rfl
theorem asdSlot_wr (s : State) (f : Fld) (v k : Nat) : (s.wr f v).asdSlot k = s.asdSlot k := rfl

/-- R485: a slot that is ready is ready for the requester whose access is granted. -/
theorem slotReady_granting (s : State) (k : Nat) (h : s.slotReady k = true) : s.granting.slotReady k = true := by
  simp only [slotReady, Bool.and_eq_true] at h ⊢
  obtain ⟨⟨⟨⟨hplaced, hrail⟩, hen⟩, hstate⟩, hacked⟩ := h
  refine ⟨⟨⟨⟨s.flag_granting_of_flag (by simp [R.SLOT_PLACED]) (by simp [R.SLOT_PLACED, field]) hplaced, s.flag_granting_of_flag (by simp [R.ASST_RAIL_OK]) (by simp [R.ASST_RAIL_OK, field]) hrail⟩, ?_⟩, ?_⟩, ?_⟩
  · rw [bitAt_wr_apart _ _ _ _ _ (by decide)]
    exact hen
  · rw [rd_wr_apart _ _ _ _ (by decide)]
    exact hstate
  · rw [asdSlot_wr]
    exact hacked

/-- R485: so is one that is stable. -/
theorem slotStable_granting (s : State) (k : Nat) (h : s.slotStable k = true) : s.granting.slotStable k = true := by
  rw [slotStable, Bool.and_eq_true] at h ⊢
  refine ⟨s.slotReady_granting k h.1, ?_⟩
  rw [asdSlot_wr, rd_granting_htsTarget, rd_wr_apart _ _ R.ASST_STABLE_LIM _ (by decide)]
  exact h.2

theorem violated_unstable (s : State) (r : CalRun) :
    s.violated r 4 = (runSlots r).any fun h => !s.slotStable (2 * (runActuator r).getD 0 + h) := rfl
theorem violated_unready (s : State) (r : CalRun) :
    s.violated r 5 = (runSlots r).any fun h => !s.slotReady (2 * (runActuator r).getD 0 + h) := rfl

/-- R492: a precondition that holds holds for the requester whose access is granted. -/
theorem violated_granting (s : State) (r : CalRun) (c : Nat) (h : s.violated r c = false) : s.granting.violated r c = false := by
  have hrd : ∀ g ∈ [R.CAL_ONTRK_LIM, R.THM_MAX, R.CAL_TMIN, R.CAL_TMAX, R.SPM_AT_SPEED, R.SHOCK_HOLD, R.THR_LEVEL, R.VOTERS, R.PSTATE_NOW,
      R.PSTATE_BUSY], s.granting.rd g = s.rd g := fun g hg =>
    rd_wr_apart _ _ _ _ ((show ∀ g ∈ [R.CAL_ONTRK_LIM, R.THM_MAX, R.CAL_TMIN, R.CAL_TMAX, R.SPM_AT_SPEED, R.SHOCK_HOLD, R.THR_LEVEL,
      R.VOTERS, R.PSTATE_NOW, R.PSTATE_BUSY], R.REG_TOKEN.apart g = true by decide) g hg)
  simp only [List.forall_mem_cons] at hrd
  obtain ⟨hlim, hmax, htmin, htmax, hspeed, hshock, hthr, hvoters, hstate, hbusy, -⟩ := hrd
  by_cases h4 : c = 4
  · subst h4
    rw [violated_unstable, List.any_eq_false] at h ⊢
    exact fun j hj => by simpa using s.slotStable_granting _ (by simpa using h j hj)
  · by_cases h5 : c = 5
    · subst h5
      rw [violated_unready, List.any_eq_false] at h ⊢
      exact fun j hj => by simpa using s.slotReady_granting _ (by simpa using h j hj)
    · simp -implicitDefEqProofs only [violated, flag, if_neg h4, if_neg h5, hlim, hmax, htmin, htmax, hspeed, hshock, hthr, hvoters, hstate,
        hbusy, rd_granting_svMode, calOpOn_wr, servo_wr, slot_wr] at h ⊢
      exact h

/-- Bits set one by one leave 0 where none is set. -/
theorem foldl_setBit_eq_zero (p : Nat → Bool) (l : List Nat) (m : Nat) :
    l.foldl (fun m c => if p c then setBit m c else m) m = 0 ↔ m = 0 ∧ ∀ c ∈ l, p c = false := by
  induction l generalizing m with
  | nil => simp
  | cons c l ih =>
    rw [List.foldl_cons, ih, List.forall_mem_cons, ← and_assoc]
    refine and_congr_left fun _ => ?_
    cases p c with
    | false => simp
    | true =>
      have hne : setBit m c ≠ 0 := fun h => by simpa [h] using Arith.testBit_setBit m c c
      simp [hne]

/-- R493: no condition fails where none does as the access is made. -/
theorem violations_granting (s : State) (k : Fin 4) (m : Nat) (h : s.violations k.val m = 0) : s.granting.violations k.val m = 0 := by
  simp only [violations] at h ⊢
  rw [foldl_setBit_eq_zero] at h ⊢
  refine ⟨rfl, fun c hc => ?_⟩
  have hc' := h.2 c hc
  rw [bitAt_wr_apart _ _ _ _ _ (regToken_apart_run k).1]
  cases hv : s.violated (Store.get {} s.cal.runs k.val) c with
  | false => rw [wr_cal, s.violated_granting _ c hv, Bool.and_false]
  | true =>
    rw [hv, Bool.and_true] at hc'
    rw [hc', Bool.false_and]

theorem calRun_granting (s : State) (k : Fin 4) : s.granting.calRun k.val = s.calRun k.val := by
  rw [calRun, rd_wr_apart _ _ _ _ (regToken_apart_run k).2, wr_cal, calRun]

/-! ### Runs (R491 to R495) -/

/-- R491: a start that is not refused begins the run. -/
theorem runStart_of_accepted (s u : State) {k type unit slot n : Nat} {r : CalRun}
    (hu : u = ((s.wr (R.RUN_TYPE k) type).wr (R.RUN_UNIT k) unit).wr (R.RUN_SLOT k) slot)
    (hn : n = (runActuator { type := type, unit := unit }).getD 0)
    (hr : r = { type := type, unit := unit, slot := slot, head0 := (u.slot (2 * n)).head, head1 := (u.slot (2 * n + 1)).head })
    (h : u.refuses k r = false) : s.runStart k type unit slot = u.runBegin k r := by
  subst hr hn hu
  exact if_neg (by rw [h]; decide)

/-- R493: no condition fails, and the run goes on. -/
theorem judged_of_holding (s : State) {k m : Nat} (go : State → State) (hrun : (s.calRun k).isSome = true) (h : s.violations k m = 0) :
    s.judged k m go = go s := by
  have hsome : (s.calRun k).isNone = false := by rw [← Option.not_isSome, hrun, Bool.not_true]
  simp [judged, hsome, h]

/-- R493: a condition fails, and the run aborts. -/
theorem judged_of_violated (s : State) {k m : Nat} (go : State → State) (hrun : (s.calRun k).isSome = true) (h : s.violations k m ≠ 0) :
    s.judged k m go = (s.endRun k 2 (s.violations k m)).raise 217 := by
  have hsome : (s.calRun k).isNone = false := by rw [← Option.not_isSome, hrun, Bool.not_true]
  simp [judged, hsome, h, abortRun]

/-- Where a run's result stands to what the end of its validation writes. -/
theorem resultFields (k : Fin 4) : (R.RUN_RESULT k.val).fits = true ∧ (R.RUN_RESULT k.val).width = 3 ∧ (R.PRE_ACTIVE k.val).fits = true
    ∧ (R.RUN_STATE k.val).apart (R.RUN_RESULT k.val) = true ∧ (R.PRE_ACTIVE k.val).apart (R.RUN_RESULT k.val) = true := by
  revert k
  decide

theorem resultFields_apart (k : Fin 4) : ∀ g ∈ [R.RUN_RESULT k.val, R.PRE_ACTIVE k.val], R.RAMP_PEND.apart g = true
    ∧ (R.PEND_BITS (218 / 32)).apart g = true ∧ (R.PEND_BITS (216 / 32)).apart g = true
    ∧ ∀ j < 4, (R.RUN_STATE j).apart g = true := by
  revert k
  decide

/-- R499: what the pending entries show stands apart from a run's result. -/
theorem rd_setRamps (s : State) (l : List CalRamp) (k : Fin 4) {g : Fld} (hg : g ∈ [R.RUN_RESULT k.val, R.PRE_ACTIVE k.val]) :
    (s.setRamps l).rd g = s.rd g := by
  obtain ⟨hramp, hdone, -, hstate⟩ := resultFields_apart k g hg
  have hidle : ∀ (u : State) (p : Nat → Bool) (js : List Nat), (∀ j ∈ js, j < 4) →
      (js.foldl (fun s j => if s.rd (R.RUN_STATE j) == 3 && p j then s.wr (R.RUN_STATE j) 0 else s) u).rd g = u.rd g := by
    intro u p js hjs
    induction js generalizing u with
    | nil => rfl
    | cons j js ih =>
      rw [List.foldl_cons, ih _ fun i hi => hjs i (by simp [hi])]
      split
      · exact rd_wr_apart _ _ _ _ (hstate j (hjs j (by simp)))
      · rfl
  rw [setRamps]
  refine (hidle _ (fun j => !l.any fun e => e.run == some j) (List.range 4) fun j hj => List.mem_range.mp hj).trans ?_
  split
  · rw [rd_raise _ _ _ hdone, rd_wr_apart _ _ _ _ hramp, rd_update]
  · rw [rd_wr_apart _ _ _ _ hramp, rd_update]

/-- R495: an empty apply list is in order. -/
theorem validated_of_empty (s : State) {k : Nat} (h : s.rd (R.LIST_N k) = 0) : ∃ u : State, s.validated k =
    (((((u.wr (R.RUN_RESULT k) 1).wr (R.RUN_STATE k) 3).wr (R.PRE_ACTIVE k) 0)).setRamps
      (((u.wr (R.RUN_RESULT k) 1).wr (R.RUN_STATE k) 3).wr (R.PRE_ACTIVE k) 0).cal.ramps).raise 216 := by
  have hlist : s.applyList k = [] := by simp [applyList, h]
  have hin : s.listInDram k = true := by simp [listInDram, h]
  simp only [validated, hlist, hin, List.all_nil, Bool.and_self, Bool.not_true, Bool.false_eq_true, if_false, List.foldl_nil]
  exact ⟨_, rfl⟩

end State

theorem runStart_begins (s u : State) (k : Fin 4) (ty : BitVec 4) (i : BitVec 5) (b : Bool) (n : Nat) (r : CalRun)
    (hreach : s.reachable (R.RUN_START k.val).addr = true)
    (hu : u = ((s.granting.wr (R.RUN_TYPE k.val) ty.toNat).wr (R.RUN_UNIT k.val) i.toNat).wr (R.RUN_SLOT k.val) (ofBool b))
    (hn : n = (runActuator { type := ty.toNat, unit := i.toNat }).getD 0)
    (hr : r = { type := ty.toNat, unit := i.toNat, slot := ofBool b, head0 := (s.slot (2 * n)).head, head1 := (s.slot (2 * n + 1)).head })
    (h : u.refuses k.val r = false) : exec (.runStart k ty i b) s = .next (u.runBegin k.val r) := by
  have hslot : ∀ j, u.slot j = s.slot j := fun j => by rw [hu, State.slot_wr, State.slot_wr, State.slot_wr, State.slot_wr]
  exact congrArg Host.Outcome.next ((s.access_of_reachable _ _ hreach).trans
    (s.granting.runStart_of_accepted u hu hn (by rw [hslot, hslot, hr]) h))

theorem runValidation_completes (s : State) (k : Fin 4) (m : BitVec 12) (hstate : s.rd (R.RUN_STATE k.val) = 2)
    (hrun : (s.calRun k.val).isSome = true) (hok : s.violations k.val m.toNat = 0) (hlist : s.rd (R.LIST_N k.val) = 0) :
    Completes (exec (.runValidationComplete k m) s) fun t =>
      t.linePending 216 = true ∧ t.rd (R.RUN_RESULT k.val) = 1 ∧ t.rd (R.PRE_ACTIVE k.val) = 0 := by
  obtain ⟨hresult, hwidth, hactive, hstateApart, hactiveApart⟩ := State.resultFields k
  obtain ⟨u, heq⟩ := s.validated_of_empty hlist
  refine ⟨s.validated k.val, congrArg Host.Outcome.next ((if_pos hstate).trans (s.judged_of_holding _ hrun hok)), ?_⟩
  rw [heq]
  refine ⟨State.linePending_raise .., ?_, ?_⟩
  · rw [State.rd_raise _ _ _ (State.resultFields_apart k _ (by simp)).2.2.1, State.rd_setRamps _ _ k (by simp),
      State.rd_wr_apart _ _ _ _ hactiveApart, State.rd_wr_apart _ _ _ _ hstateApart, State.rd_wr_same _ _ _ hresult, hwidth]
    rfl
  · rw [State.rd_raise _ _ _ (State.resultFields_apart k _ (by simp)).2.2.1, State.rd_setRamps _ _ k (by simp),
      State.rd_wr_same _ _ _ hactive, Nat.zero_mod]

/-! ### The store (R503, R504) -/

/-- What a selection lists does not depend on a change at an index it leaves out. -/
theorem Store.filter_put {β : Type} [DecidableEq β] (d : β) (m : Store β) (k : Nat) (v : β) {p : Nat × β → Bool}
    (hp : ∀ w, p (k, w) = false) : (Store.put d m k v).filter p = m.filter p := by
  have herase : (Store.erase m k).filter p = m.filter p := by
    rw [Store.erase, List.filter_filter]
    refine List.filter_congr fun e _ => ?_
    by_cases h : e.1 = k
    · have hout : p e = false := by simpa [← h] using hp e.2
      simp [hout]
    · simp [h]
  have hinsert : ∀ m : Store β, (Store.insert m k v).filter p = m.filter p := by
    intro m
    induction m with
    | nil => simp [Store.insert, hp]
    | cons e m ih =>
      rw [Store.insert]
      split
      · simp [hp]
      · rw [List.filter_cons, List.filter_cons, ih]
  rw [Store.put]
  split
  · exact herase
  · rw [hinsert, herase]

namespace State

theorem regWords_wr (s : State) (f : Fld) (v lo hi : Nat) (h : f.addr < lo ∨ hi < f.addr) :
    regWords (s.wr f v).regs lo hi = regWords s.regs lo hi := by
  refine congrArg _ (Store.filter_put _ _ _ _ fun w => ?_)
  simp only [Bool.and_eq_false_iff, decide_eq_false_iff_not]
  omega

theorem targetValue_head (s : State) (j : Nat) :
    (s.targetValue ⟨3, j, 0, 0⟩).1 = s.word (R.AGE_GAIN j).addr (R.AGE_GAIN j).rst % 2 ^ 28 := rfl

theorem word_granting_head (s : State) {j : Nat} (hj : j < 32) :
    s.granting.word (R.AGE_GAIN j).addr (R.AGE_GAIN j).rst = s.word (R.AGE_GAIN j).addr (R.AGE_GAIN j).rst := by
  refine sameButAt_wr s R.REG_TOKEN 1 _ _ ?_
  simp only [R.AGE_GAIN, R.REG_TOKEN]
  omega

/-- R503: the head words of a snapshot are read from the register file. -/
theorem heads_congr {s u : State} {l : List Nat} (h : ∀ j ∈ l, u.word (R.AGE_GAIN j).addr (R.AGE_GAIN j).rst
    = s.word (R.AGE_GAIN j).addr (R.AGE_GAIN j).rst) (m : Store Nat) :
    l.foldl (fun m j => Store.put 0x1000 m j (u.targetValue ⟨3, j, 0, 0⟩).1) m
      = l.foldl (fun m j => Store.put 0x1000 m j (s.targetValue ⟨3, j, 0, 0⟩).1) m := by
  induction l generalizing m with
  | nil => rfl
  | cons j l ih =>
    rw [List.foldl_cons, List.foldl_cons, ih fun i hi => h i (by simp [hi]), targetValue_head, targetValue_head, h j (by simp)]

/-- R503: the register arbiter's token is no part of the working set. -/
theorem snapshot_granting (s : State) : s.granting.snapshot = s.snapshot := by
  have hassist := s.regWords_wr R.REG_TOKEN 1 tblLo (tblLo + 0x1FFC) (by decide)
  unfold snapshot
  rw [hassist, heads_congr (fun j hj => s.word_granting_head (List.mem_range.mp hj)) [], wr_cal, wr_svt]

theorem higherSeq_wr (s : State) (f : Fld) (v : Nat) : (s.wr f v).higherSeq = s.higherSeq := by
  unfold higherSeq
  rw [wr_nv]

/-- R503: a store of the next sequence begins. -/
theorem storeStart_of_seq (s : State) {q : Nat} (hseq : s.higherSeq = some q) : s.storeStart =
    (({ s with cal.store := some { set := s.snapshot, seq := (q + 1) % 2 ^ 32, bank := 1 - s.rd R.ACTIVE_BANK } } : State).setBankOf
      (1 - s.rd R.ACTIVE_BANK) none).wr R.STORE_BUSY 1 := by
  simp only [storeStart, hseq, Option.isNone_some, Bool.false_eq_true, if_false]

theorem setBankOf_shows (s : State) (b : Nat) (c : Option CalBank) : (s.setBankOf b c).regs = s.regs ∧ (s.setBankOf b c).cal = s.cal
    ∧ (if b = 0 then (s.setBankOf b c).nv.bankA else (s.setBankOf b c).nv.bankB) = c := by
  by_cases h : b = 0 <;> simp [setBankOf, h]

/-- R503: what a store that begins shows. -/
theorem storeStart_shows (s : State) {q : Nat} (hseq : s.higherSeq = some q) :
    s.storeStart.flag R.STORE_BUSY = true ∧ RegFrame s s.storeStart [R.STORE_BUSY]
      ∧ s.storeStart.cal.store = some { set := s.snapshot, seq := (q + 1) % 2 ^ 32, bank := 1 - s.rd R.ACTIVE_BANK }
      ∧ (if s.rd R.ACTIVE_BANK = 1 then s.storeStart.nv.bankA else s.storeStart.nv.bankB) = none := by
  have hlt : s.rd R.ACTIVE_BANK < 2 := s.rd_lt R.ACTIVE_BANK
  obtain ⟨hregs, hcal, hnone⟩ := ({ s with cal.store := some { set := s.snapshot, seq := (q + 1) % 2 ^ 32, bank := 1 - s.rd R.ACTIVE_BANK } }
    : State).setBankOf_shows (1 - s.rd R.ACTIVE_BANK) none
  rw [s.storeStart_of_seq hseq]
  refine ⟨?_, ?_, ?_, ?_⟩
  · rw [flag, rd_wr_same _ _ _ (by decide)]
    rfl
  · refine (Machine.regFrame_wr (by simp)).mpr ((regFrame_congr hregs).mpr (regFrame_update.mpr (regFrame_same s _)))
  · rw [wr_cal, hcal]
  · rw [wr_nv]
    refine Eq.trans ?_ hnone
    have hcases : s.rd R.ACTIVE_BANK = 0 ∨ s.rd R.ACTIVE_BANK = 1 := by omega
    rcases hcases with h | h <;> simp [h]

theorem storeGo_starts (s : State) (hpf : s.flag R.PF_ACTIVE = false) (hbusy : s.flag R.STORE_BUSY = false) (hbuf : s.storeBufOk = true) :
    s.storeGo = s.storeStart := by simp [storeGo, hpf, hbusy, hbuf]

/-- R503: the commit word of a store is written, and no further store follows. -/
theorem storeEnd_of_commit (s : State) {x : CalStore} (h : s.cal.store = some x) : ∃ u : State, s.storeEnd true = u.storeAgain
    ∧ ∃ v : State, (u = (v.count R.STORE_CNT).raise 219 ∨ u = ((v.wr R.SET_DIRTY 0).count R.STORE_CNT).raise 219) ∧
      v = ((((({ s with cal.store := none } : State).wr R.STORE_BUSY 0).setBankOf x.bank (some ⟨x.seq, x.set, setLength x.set⟩)).wr
        R.ACTIVE_BANK x.bank).wr R.ACTIVE_SEQ x.seq).wr R.SET_4K (ceilDiv (setLength x.set) 4096) := by
  simp only [storeEnd, h, if_true]
  cases x.changed with
  | true => exact ⟨_, rfl, _, .inl rfl, rfl⟩
  | false => exact ⟨_, rfl, _, .inr rfl, rfl⟩

/-- R504: no further store follows where STORE_AGAIN is clear. -/
theorem storeAgain_of_clear (s : State) (h : s.flag R.STORE_AGAIN = false) : s.storeAgain = s := by simp [storeAgain, h]

/-- What the registers of a store show after its commit word. -/
structure CommitShown (s : State) (x : CalStore) : Prop where
  busy : s.flag R.STORE_BUSY = false
  bank : s.rd R.ACTIVE_BANK = x.bank % 2
  seq : s.rd R.ACTIVE_SEQ = x.seq % 2 ^ 32
  again : s.flag R.STORE_AGAIN = false
  store : s.cal.store = none
  commit : (if x.bank = 0 then s.nv.bankA else s.nv.bankB) = some ⟨x.seq, x.set, setLength x.set⟩

theorem CommitShown.wr {s : State} {x : CalStore} (h : CommitShown s x) (f : Fld) (v : Nat)
    (hf : ∀ g ∈ [R.STORE_BUSY, R.ACTIVE_BANK, R.ACTIVE_SEQ, R.STORE_AGAIN], f.apart g = true) : CommitShown (s.wr f v) x where
  busy := by rw [flag_wr_apart _ _ _ _ (hf _ (by simp)), h.busy]
  bank := by rw [rd_wr_apart _ _ _ _ (hf _ (by simp)), h.bank]
  seq := by rw [rd_wr_apart _ _ _ _ (hf _ (by simp)), h.seq]
  again := by rw [flag_wr_apart _ _ _ _ (hf _ (by simp)), h.again]
  store := by rw [wr_cal, h.store]
  commit := by rw [wr_nv, h.commit]

/-- R503: the commit word and what shows it. -/
theorem commitShown_committed (s : State) (x : CalStore) (hagain : s.flag R.STORE_AGAIN = false) :
    CommitShown (((((({ s with cal.store := none } : State).wr R.STORE_BUSY 0).setBankOf x.bank
      (some ⟨x.seq, x.set, setLength x.set⟩)).wr R.ACTIVE_BANK x.bank).wr R.ACTIVE_SEQ x.seq).wr R.SET_4K
        (ceilDiv (setLength x.set) 4096)) x := by
  obtain ⟨hregs, hcal, hcommit⟩ := (({ s with cal.store := none } : State).wr R.STORE_BUSY 0).setBankOf_shows x.bank
    (some ⟨x.seq, x.set, setLength x.set⟩)
  refine CommitShown.wr ?_ _ _ (by decide)
  refine ⟨?_, ?_, ?_, ?_, ?_, ?_⟩
  · rw [flag, rd_wr_apart _ _ _ _ (by decide), rd_wr_apart _ _ _ _ (by decide), rd_congr hregs, rd_wr_same _ _ _ (by decide)]
    rfl
  · rw [rd_wr_apart _ _ _ _ (by decide), rd_wr_same _ _ _ (by decide)]
    rfl
  · rw [rd_wr_same _ _ _ (by decide)]
    rfl
  · rw [flag, rd_wr_apart _ _ _ _ (by decide), rd_wr_apart _ _ _ _ (by decide), rd_congr hregs, rd_wr_apart _ _ _ _ (by decide), rd_update]
    exact hagain
  · rw [wr_cal, wr_cal, hcal, wr_cal]
  · rw [wr_nv, wr_nv, hcommit]

end State

theorem storeGo_completes (s : State) (q : Nat) (hreach : s.reachable R.STORE_GO.addr = true) (hpf : s.flag R.PF_ACTIVE = false)
    (hbusy : s.flag R.STORE_BUSY = false) (hbuf : s.storeBufOk = true) (hseq : s.higherSeq = some q) :
    Completes (exec .storeGo s) fun t =>
      t.flag R.STORE_BUSY = true ∧ RegFrame s t [R.REG_TOKEN, R.STORE_BUSY]
        ∧ t.cal.store = some { set := s.snapshot, seq := (q + 1) % 2 ^ 32, bank := 1 - s.rd R.ACTIVE_BANK }
        ∧ (if s.rd R.ACTIVE_BANK = 1 then t.nv.bankA else t.nv.bankB) = none := by
  have hbank : s.granting.rd R.ACTIVE_BANK = s.rd R.ACTIVE_BANK := State.rd_wr_apart _ _ _ _ (by decide)
  have hbuf' : s.granting.storeBufOk = true := by
    rw [← hbuf, State.storeBufOk, State.rd_wr_apart _ _ _ _ (by decide), State.rd_wr_apart _ _ _ _ (by decide), State.storeBufOk]
  refine .access hreach ?_
  obtain ⟨hstart, hframe, hstore, hnone⟩ := s.granting.storeStart_shows ((s.higherSeq_wr _ _).trans hseq)
  rw [State.storeGo_starts _ (by rw [State.flag_wr_apart _ _ _ _ (by decide), hpf]) (by rw [State.flag_wr_apart _ _ _ _ (by decide), hbusy])
    hbuf']
  rw [s.snapshot_granting, hbank] at hstore
  rw [hbank] at hnone
  exact ⟨hstart, ((regFrame_wr (by simp)).mpr (regFrame_same s _)).trans (hframe.mono (by simp)), hstore, hnone⟩

theorem calStoreCommit_completes (s : State) (x : CalStore) (hstore : s.cal.store = some x) (hbank : x.bank < 2)
    (hagain : s.flag R.STORE_AGAIN = false) :
    Completes (exec (.calStoreCommit true) s) fun t => t.flag R.STORE_BUSY = false ∧ t.rd R.ACTIVE_BANK = x.bank
      ∧ t.rd R.ACTIVE_SEQ = x.seq % 2 ^ 32 ∧ t.cal.store = none ∧ t.linePending 219 = true
      ∧ (if x.bank = 0 then t.nv.bankA else t.nv.bankB) = some ⟨x.seq, x.set, State.setLength x.set⟩ := by
  obtain ⟨u, heq, v, hu, rfl⟩ := s.storeEnd_of_commit hstore
  have hv := s.commitShown_committed x hagain
  have hshown : State.CommitShown u x ∧ u.linePending 219 = true := by
    rcases hu with rfl | rfl
    · exact ⟨(hv.wr _ _ (by decide)).wr _ _ (by decide), State.linePending_raise ..⟩
    · exact ⟨((hv.wr _ _ (by decide)).wr _ _ (by decide)).wr _ _ (by decide), State.linePending_raise ..⟩
  obtain ⟨⟨hbusy, hactive, hseq, hclear, hnone, hcommit⟩, hline⟩ := hshown
  change Completes (.next (s.storeEnd true)) _
  rw [heq, u.storeAgain_of_clear hclear]
  exact .next ⟨hbusy, by rw [hactive, Nat.mod_eq_of_lt hbank], hseq, hnone, hline, hcommit⟩

/-! ### The set of a bank (R505) -/

/-- The profile table, the device record and the NOR flash are the same in both states. -/
structure SameSet (s t : State) : Prop where
  profile : t.cal.profile = s.cal.profile
  device : t.cal.device = s.cal.device
  nv : t.nv = s.nv

theorem SameSet.refl (s : State) : SameSet s s := ⟨rfl, rfl, rfl⟩
theorem SameSet.trans {s t u : State} (h : SameSet s t) (k : SameSet t u) : SameSet s u :=
  ⟨k.profile.trans h.profile, k.device.trans h.device, k.nv.trans h.nv⟩
theorem SameSet.wr {s t : State} (h : SameSet s t) (f : Fld) (v : Nat) : SameSet s (t.wr f v) :=
  ⟨by rw [State.wr_cal, h.profile], by rw [State.wr_cal, h.device], by rw [State.wr_nv, h.nv]⟩

theorem SameSet.foldl {α : Type} {s t : State} (h : SameSet s t) {f : State → α → State} (hf : ∀ u a, SameSet u (f u a)) (l : List α) :
    SameSet s (l.foldl f t) := by
  induction l generalizing t with
  | nil => exact h
  | cons a l ih => exact ih (h.trans (hf t a))

namespace State

theorem sameSet_ageWarn (s : State) (j : Nat) : SameSet s (s.ageWarn j) := by
  rw [ageWarn]
  refine SameSet.wr ?_ _ _
  split
  · exact (SameSet.refl s).wr _ _
  · exact .refl s

/-- R497: the assist table and the head words are registers. -/
theorem sameSet_writeTable (s : State) (t : CalTarget) (v v2 : Nat) (h : t.tgt = 2 ∨ t.tgt = 3) : SameSet s (s.writeTable t v v2) := by
  rcases h with h | h
  · simp only [writeTable, h]
    exact (SameSet.refl s).wr _ _
  · simp only [writeTable, h]
    exact (((SameSet.refl s).wr _ _).wr _ _).trans (sameSet_ageWarn _ _)

theorem sameSet_applyCoef (s : State) (n : Nat) : SameSet s (s.applyCoef n) := by
  have hsvt : ∀ x : Svt, SameSet s { s with svt := x } := fun _ => ⟨rfl, rfl, rfl⟩
  unfold applyCoef
  exact SameSet.wr (SameSet.wr (hsvt _) _ _) _ _

theorem sameSet_reset (s : State) (a b c d e f : Nat) : SameSet s (((s.resetRange a b).resetRange c d).resetRange e f) := ⟨rfl, rfl, rfl⟩

/-- R505: a set becomes the working set. -/
theorem takeSet_shows (s : State) (c : CalSet) :
    (s.takeSet c).cal.profile = c.profile ∧ (s.takeSet c).cal.device = c.device ∧ (s.takeSet c).nv = s.nv := by
  have hcoef : ∀ (u : State) (e : Nat × Nat), SameSet u (if e.1 % 2 = 0 then u.wr (R.COEF_VALUE (e.1 / 1024) (e.1 % 1024 / 2)) e.2
      else u.wr (R.COEF_SHIFT (e.1 / 1024) (e.1 % 1024 / 2)) e.2) := by
    intro u e
    split
    · exact (SameSet.refl u).wr _ _
    · exact (SameSet.refl u).wr _ _
  have hset : SameSet ({ s with cal := { s.cal with profile := c.profile, device := c.device, history := c.history, format := c.format } })
      (s.takeSet c) := by
    unfold takeSet
    refine SameSet.foldl (SameSet.foldl (SameSet.foldl (SameSet.foldl (sameSet_reset _ _ _ _ _ _ _) ?_ _) ?_ _) hcoef _) sameSet_applyCoef _
    · exact fun u e => u.sameSet_writeTable _ _ _ (.inl rfl)
    · exact fun u e => u.sameSet_writeTable _ _ _ (.inr rfl)
  exact ⟨hset.profile, hset.device, hset.nv⟩

/-- R505: of a set none of whose records fail everything passes. -/
theorem passing_all (c : CalSet) : (passing c []).profile = c.profile ∧ (passing c []).device = c.device := by
  simp [passing]

/-- R505: the one bank with a commit is loaded. -/
theorem calLoad_of_bankA (s : State) {x : CalBank} (ha : s.nv.bankA = some x) (hb : s.nv.bankB = none) :
    s.calLoad [] [] = ((s.loadBank 0 x []).wr R.CAL_LOADED 1).raise 221 := by
  simp [calLoad, ha, hb]

end State

theorem calLoad_completes (s : State) (x : CalBank) (hfw : s.firmwareRuns = true) (hloaded : s.flag R.CAL_LOADED = false)
    (ha : s.nv.bankA = some x) (hb : s.nv.bankB = none) :
    Completes (exec (.calLoad [] []) s) fun t => t.flag R.CAL_LOADED = true ∧ t.linePending 221 = true ∧ t.cal.profile = x.set.profile
      ∧ t.cal.device = x.set.device ∧ t.nv = s.nv := by
  refine ⟨s.calLoad [] [], congrArg Host.Outcome.next (if_pos (by simp [hfw, hloaded])), ?_⟩
  rw [s.calLoad_of_bankA ha hb, State.loadBank]
  obtain ⟨hprofile, hdevice, hnv⟩ := (((s.wr R.ACTIVE_BANK 0).wr R.ACTIVE_SEQ x.seq).wr R.SET_4K (ceilDiv x.len 4096)).takeSet_shows (State.passing x.set [])
  obtain ⟨hpass, hpassDevice⟩ := State.passing_all x.set
  refine ⟨?_, State.linePending_raise .., ?_, ?_, ?_⟩
  · rw [State.flag, State.rd_raise _ _ _ (by decide), State.rd_wr_same _ _ _ (by decide)]
    rfl
  · rw [State.raise_cal, State.wr_cal, hprofile, hpass]
  · rw [State.raise_cal, State.wr_cal, hdevice, hpassDevice]
  · rw [State.raise_nv, State.wr_nv, hnv, State.wr_nv, State.wr_nv, State.wr_nv]

theorem norGrant_completes (s : State) (h : s.cal.store.isSome = true) : Completes (exec (.norGrant 1) s) fun t =>
    t.cal.norGranted = some 0 ∧ t.rd R.NOR_TOKEN = 1 ∧ RegFrame s t [R.NOR_TOKEN] := by
  have hone : ([0, 1, 2].filter fun p => (1 : BitVec 3).toNat.testBit p && (p != 0 || s.cal.store.isSome)) = [0] := by
    simp only [h, Bool.or_true, Bool.and_true]
    decide
  have heq : s.norGrant (1 : BitVec 3).toNat = ({ s with cal.norGranted := some 0 } : State).wr R.NOR_TOKEN 1 := by
    have hgrant : tokenGrant 3 (s.rd R.NOR_TOKEN) [0] = some 0 := by
      rw [tokenGrant, tokenOrder_single _ (by decide)]
      rfl
    simp only [State.norGrant, hone, hgrant]
  change Completes (.next (s.norGrant _)) _
  rw [heq]
  refine .next ⟨by rw [State.wr_cal], ?_, by simp -implicitDefEqProofs⟩
  rw [State.rd_wr_same _ _ _ (by decide)]
  rfl

end Sys2Proof.Machine

open Sys2Proof Sys2Proof.Machine in
/-- Settles O33: the runs by what their preconditions show, the store by its registers and its bank. -/
theorem calibrationCommandsComplete : Obligations.CalibrationCommandsComplete := by
  unfold Obligations.CalibrationCommandsComplete
  refine ⟨runStart_begins, fun s k m hrun hv => congrArg Host.Outcome.next (s.judged_of_violated _ hrun hv),
    fun s k m hreach hrun hv => ?_, fun s k m hreach hrun hv => ?_, runValidation_completes, storeGo_completes, calStoreCommit_completes,
    calLoad_completes, norGrant_completes⟩
  · exact congrArg Host.Outcome.next ((s.access_of_reachable _ _ hreach).trans
      (s.granting.judged_of_holding _ (by rw [s.calRun_granting, hrun]) (s.violations_granting k _ hv)))
  · exact congrArg Host.Outcome.next ((s.access_of_reachable _ _ hreach).trans
      (s.granting.judged_of_holding _ (by rw [s.calRun_granting, hrun]) (s.violations_granting k _ hv)))
end

section
/-!
O34 and O35, draining, activation without reset, the perturbation test, the cohort and the TAP (R659 to R679).
-/
namespace Sys2Proof.Machine

open Sys2Proof.Arith

namespace State

/-! ### Draining (R659, R660) -/

/-- R660: actuator `n` as a request leaves it. -/
def drained (req : Nat) (s : State) (n : Nat) : State :=
  (if req.testBit n then s else s.clrBitAt R.DRAIN_DONE n).wrFlag (R.ACT_DRAINED n)
    (req.testBit n || (if req.testBit n then s else s.clrBitAt R.DRAIN_DONE n).bitAt R.ACT_HOLD n)

theorem drainRequest_eq (s : State) (req : Nat) : s.drainRequest req = actuators.foldl (drained req) (s.wr R.DRAIN_REQ req) := rfl

/-- Where the registers of a drain stand to each other. -/
theorem drainFields (n m : Fin 4) : ((R.ACT_DRAINED n.val).fits && decide (0 < (R.ACT_DRAINED n.val).width)) = true
    ∧ (n ≠ m → (R.ACT_DRAINED n.val).apart (R.ACT_DRAINED m.val) = true) ∧ (R.ACT_DRAINED n.val).apart R.DRAIN_REQ = true
    ∧ (R.ACT_DRAINED n.val).apart R.ACT_HOLD = true ∧ (R.ACT_DRAINED n.val).apart R.DRAIN_DONE = true
    ∧ R.DRAIN_DONE.apart (R.ACT_DRAINED n.val) = true ∧ (R.DRAIN_DONE.fits && decide (m.val < R.DRAIN_DONE.width)) = true := by
  revert n m
  decide

/-- What a request that has gone over the actuators of `l` shows. -/
structure DrainShown (req : Nat) (l : List Nat) (s t : State) : Prop where
  request : t.rd R.DRAIN_REQ = s.rd R.DRAIN_REQ
  hold : t.rd R.ACT_HOLD = s.rd R.ACT_HOLD
  drained : ∀ m : Fin 4, t.flag (R.ACT_DRAINED m.val) =
    if m.val ∈ l then req.testBit m.val || s.bitAt R.ACT_HOLD m.val else s.flag (R.ACT_DRAINED m.val)
  done : ∀ m : Fin 4, t.bitAt R.DRAIN_DONE m.val = (s.bitAt R.DRAIN_DONE m.val && (req.testBit m.val || decide (m.val ∉ l)))
  regs : RegsOnly s t

theorem drained_shows (req : Nat) (s : State) (n : Fin 4) : DrainShown req [n.val] s (drained req s n.val) := by
  obtain ⟨hfits, -, hreq, hhold, hdone, hdoneApart, -⟩ := drainFields n n
  have hclr : ∀ g, R.DRAIN_DONE.apart g = true → (if req.testBit n.val then s else s.clrBitAt R.DRAIN_DONE n.val).rd g = s.rd g := by
    intro g hg
    split
    · rfl
    · exact rd_clrBitAt_apart _ _ _ _ hg
  have hholdBit : (if req.testBit n.val then s else s.clrBitAt R.DRAIN_DONE n.val).bitAt R.ACT_HOLD n.val = s.bitAt R.ACT_HOLD n.val := by
    rw [bitAt, hclr _ (by decide), bitAt]
  refine ⟨?_, ?_, fun m => ?_, fun m => ?_, ?_⟩
  · rw [drained, rd_wrFlag_apart _ _ _ _ hreq, hclr _ (by decide)]
  · rw [drained, rd_wrFlag_apart _ _ _ _ hhold, hclr _ (by decide)]
  · by_cases h : m = n
    · rw [h, drained, flag_wrFlag_same _ _ _ hfits, hholdBit, if_pos (by simp)]
    · obtain ⟨-, hother, -, -, -, hm, -⟩ := drainFields m n
      have hnm : (R.ACT_DRAINED n.val).apart (R.ACT_DRAINED m.val) = true := (drainFields n m).2.1 fun hnm => h hnm.symm
      have hval : m.val ≠ n.val := fun hv => h (Fin.ext hv)
      rw [drained, flag, rd_wrFlag_apart _ _ _ _ hnm, hclr _ hm, if_neg (by simp [hval]), flag]
  · obtain ⟨-, -, -, -, -, -, hbit⟩ := drainFields n m
    rw [drained, bitAt, rd_wrFlag_apart _ _ _ _ hdone, ← bitAt]
    split
    · next h => by_cases hm : m.val = n.val <;> simp [hm, h]
    · next h =>
      rw [bitAt_clrBitAt_same _ _ _ _ hbit]
      by_cases hm : m.val = n.val <;> simp [hm, h]
  · refine RegsOnly.wrFlag ?_ _ _
    split
    · exact .refl s
    · exact (RegsOnly.refl s).clrBitAt _ _

theorem drainShown_foldl (req : Nat) (l : List Nat) (hl : ∀ n ∈ l, n < 4) (s : State) : DrainShown req l s (l.foldl (drained req) s) := by
  induction l generalizing s with
  | nil => exact ⟨rfl, rfl, fun m => by simp, fun m => by simp, .refl s⟩
  | cons n l ih =>
    have h := drained_shows req s ⟨n, hl n (by simp)⟩
    have k := ih (fun m hm => hl m (by simp [hm])) (drained req s n)
    refine ⟨k.request.trans h.request, k.hold.trans h.hold, fun m => ?_, fun m => ?_, h.regs.trans k.regs⟩
    · rw [List.foldl_cons, k.drained, h.drained, bitAt, h.hold, ← bitAt]
      by_cases hm : m.val = n <;> by_cases hml : m.val ∈ l <;> simp [hm, hml]
    · rw [List.foldl_cons, k.done, h.done]
      cases req.testBit m.val with
      | true => simp
      | false => by_cases hm : m.val = n <;> by_cases hml : m.val ∈ l <;> simp [hm, hml]

end State

theorem drainRequest_completes (s : State) (m : BitVec 4) (hreach : s.reachable R.DRAIN_REQ.addr = true) :
    Completes (exec (.drainRequest m) s) fun t =>
      t.rd R.DRAIN_REQ = m.toNat ∧ (∀ n < 4, t.flag (R.ACT_DRAINED n) = (m.toNat.testBit n || s.bitAt R.ACT_HOLD n)
        ∧ (m.toNat.testBit n = false → t.bitAt R.DRAIN_DONE n = false)
        ∧ (m.toNat.testBit n = true → t.bitAt R.DRAIN_DONE n = s.bitAt R.DRAIN_DONE n)) ∧ RegsOnly s t := by
  refine .access hreach ?_
  rw [State.drainRequest_eq]
  have h := State.drainShown_foldl m.toNat actuators (by decide) (s.granting.wr R.DRAIN_REQ m.toNat)
  refine ⟨?_, fun n hn => ⟨?_, fun hbit => ?_, fun hbit => ?_⟩, (((RegsOnly.refl s).wr _ _).wr _ _).trans h.regs⟩
  · rw [h.request, State.rd_wr_same _ _ _ (by decide)]
    exact Nat.mod_eq_of_lt m.isLt
  · refine (h.drained ⟨n, hn⟩).trans ?_
    rw [if_pos (mem_actuators hn), State.bitAt_wr_apart _ _ _ _ _ (by decide), State.bitAt_wr_apart _ _ _ _ _ (by decide)]
  · refine (h.done ⟨n, hn⟩).trans ?_
    simp [hbit, mem_actuators hn]
  · refine (h.done ⟨n, hn⟩).trans ?_
    rw [hbit, Bool.true_or, Bool.and_true, State.bitAt_wr_apart _ _ _ _ _ (by decide), State.bitAt_wr_apart _ _ _ _ _ (by decide)]

/-! ### The cohort (R676 to R679) -/

namespace State

/-- R679: the lock made equal to `b`, and nothing else but its line. -/
theorem setCohortLock_shows (s : State) (b : Bool) : (s.setCohortLock b).flag R.COHORT_LOCK = b
    ∧ (s.setCohortLock b).cohort = s.cohort ∧ RegFrame s (s.setCohortLock b) [R.COHORT_LOCK, R.PEND_BITS 7] := by
  rw [setCohortLock]
  by_cases h : s.flag R.COHORT_LOCK = b
  · rw [if_pos (beq_iff_eq.mpr h)]
    exact ⟨h, rfl, regFrame_same s _⟩
  · rw [if_neg (by simpa using h)]
    refine ⟨?_, by rw [raise_cohort, wrFlag_cohort], by simp -implicitDefEqProofs⟩
    rw [flag, rd_raise _ _ _ (by decide), ← flag, flag_wrFlag_same _ _ _ (by decide)]

/-- R439, R679: a speed written clears the cohort lock. -/
theorem speedWritten_shows (s : State) (v : Nat) : ∃ u : State, s.speedWritten v = u.setSpeed v ∧ u.flag R.COHORT_LOCK = false
    ∧ u.cohort = { s.cohort with run := 0 } ∧ RegFrame s u [R.COHORT_LOCK, R.PEND_BITS 7] := by
  obtain ⟨hlock, hcohort, hframe⟩ := ({ s with cohort.run := 0 } : State).setCohortLock_shows false
  exact ⟨_, rfl, hlock, hcohort, (regFrame_update.mpr (regFrame_same s _)).trans hframe⟩

theorem signed_toNat (p : BitVec 16) : signed 16 p.toNat = p.toInt := by
  have hlt := p.isLt
  rw [signed, Nat.mod_eq_of_lt hlt, BitVec.toInt_eq_toNat_cond]
  by_cases h : p.toNat < 2 ^ (16 - 1)
  · rw [if_pos h, if_pos (by omega)]
  · rw [if_neg h, if_neg (by omega)]

end State

theorem spindleSetSpeed_completes (s : State) (v : BitVec 14) (hreach : s.reachable R.SPM_RPM.addr = true) :
    Completes (exec (.spindleSetSpeed v) s) fun t =>
      ∃ u : State, t = u.setSpeed v.toNat ∧ u.flag R.COHORT_LOCK = false ∧ u.cohort = { s.cohort with run := 0 }
        ∧ RegFrame s u [R.REG_TOKEN, R.COHORT_LOCK, R.PEND_BITS 7] := by
  obtain ⟨u, heq, hlock, hcohort, hframe⟩ := s.granting.speedWritten_shows v.toNat
  refine .access hreach ⟨u, heq, hlock, hcohort.trans (by rw [State.wr_cohort]), ?_⟩
  exact ((regFrame_wr (by simp)).mpr (regFrame_same s _)).trans (hframe.mono (by simp))

theorem cohortMarkEdge_completes (s : State) (e : BitVec 40) (r : BitVec 32) (p : BitVec 16) (hpstg : s.dom.pstg = true)
    (hen : s.flag R.COHORT_EN = true) (hspeed : s.flag R.SPM_AT_SPEED = true) (hfirst : s.cohort.accepted = false) :
    Completes (exec (.cohortMarkEdge e r p) s) fun t =>
      t.cohort.accepted = true ∧ t.rd R.PHASE_ERR = p.toNat ∧ (256 < p.toInt.natAbs → t.flag R.COHORT_LOCK = false)
        ∧ RegFrame s t [R.PHASE_ERR, R.COHORT_LOCK, R.PEND_BITS 7] := by
  have heq : s.markEdge e.toNat r.toNat p.toNat = s.markAccepted p.toNat := by
    simp [State.markEdge, hpstg, hen, hspeed, hfirst]
  change Completes (.next (s.markEdge e.toNat r.toNat p.toNat)) _
  rw [heq, State.markAccepted, State.signed_toNat]
  generalize (if p.toInt.natAbs ≤ 64 then min 16 (s.cohort.run + 1) else 0) = run
  have hphase : ∀ u : State, RegFrame (({ s with cohort := { accepted := true, run := run } } : State).wr R.PHASE_ERR p.toNat) u
      [R.COHORT_LOCK, R.PEND_BITS 7] → u.rd R.PHASE_ERR = p.toNat ∧ RegFrame s u [R.PHASE_ERR, R.COHORT_LOCK, R.PEND_BITS 7] := by
    intro u hu
    refine ⟨?_, RegFrame.trans ((regFrame_wr (by simp)).mpr (regFrame_update.mpr (regFrame_same s _))) (hu.mono (by simp))⟩
    rw [hu _ (by decide), State.rd_wr_same _ _ _ (by decide)]
    exact Nat.mod_eq_of_lt p.isLt
  split
  · obtain ⟨hlock, hcohort, hframe⟩ := (({ s with cohort := { accepted := true, run := run } } : State).wr R.PHASE_ERR p.toNat).setCohortLock_shows false
    exact .next ⟨by rw [hcohort, State.wr_cohort], (hphase _ hframe).1, fun _ => hlock, (hphase _ hframe).2⟩
  · next hfar =>
    split
    · obtain ⟨-, hcohort, hframe⟩ := (({ s with cohort := { accepted := true, run := run } } : State).wr R.PHASE_ERR p.toNat).setCohortLock_shows true
      exact .next ⟨by rw [hcohort, State.wr_cohort], (hphase _ hframe).1, fun h => absurd h hfar, (hphase _ hframe).2⟩
    · have hsame := regFrame_same (({ s with cohort := { accepted := true, run := run } } : State).wr R.PHASE_ERR p.toNat) [R.COHORT_LOCK, R.PEND_BITS 7]
      exact .next ⟨by rw [State.wr_cohort], (hphase _ hsame).1, fun h => absurd h hfar, (hphase _ hsame).2⟩

theorem cohortLost_completes (s : State) (hpstg : s.dom.pstg = true) (hen : s.flag R.COHORT_EN = true) :
    Completes (exec .cohortLost s) fun t =>
      t.cohort = {} ∧ t.flag R.COHORT_LOST = true ∧ t.flag R.COHORT_LOCK = false ∧ t.linePending 230 = true
        ∧ RegFrame s t [R.COHORT_LOST, R.COHORT_LOCK, R.PEND_BITS 7] := by
  have heq : s.cohortLost = ((({ s with cohort := {} } : State).wr R.COHORT_LOST 1).setCohortLock false).raise 230 := by
    simp [State.cohortLost, hpstg, hen]
  obtain ⟨hlock, hcohort, hframe⟩ := (({ s with cohort := {} } : State).wr R.COHORT_LOST 1).setCohortLock_shows false
  change Completes (.next s.cohortLost) _
  rw [heq]
  refine .next ⟨by rw [State.raise_cohort, hcohort, State.wr_cohort], ?_, ?_, State.linePending_raise .., ?_⟩
  · rw [State.flag, State.rd_raise _ _ _ (by decide), hframe _ (by decide), State.rd_wr_same _ _ _ (by decide)]
    rfl
  · rw [State.flag, State.rd_raise _ _ _ (by decide), ← State.flag, hlock]
  · have hlost : RegFrame s (({ s with cohort := {} } : State).wr R.COHORT_LOST 1) [R.COHORT_LOST, R.COHORT_LOCK, R.PEND_BITS 7] :=
      (regFrame_wr (by simp)).mpr (regFrame_update.mpr (regFrame_same s _))
    exact (regFrame_raise (by simp)).mpr (hlost.trans (hframe.mono (by simp)))

/-! ### Activation without reset (R663 to R666) -/

namespace State

theorem finish_boot (s : State) (t : Nat) (d : Done) : (s.finish t d).boot = s.boot := rfl
theorem finish_regs (s : State) (t : Nat) (d : Done) : (s.finish t d).regs = s.regs := rfl

/-- R663: an activation that is not refused. -/
theorem activationGo_of_accepted (s : State) (h : s.activationRefused false = false) : s.activationGo false =
    ((({ s with boot := { s.boot with phase := .warm, cores := 1, hold := some (s.rd R.FCU_US) } } : State).wr R.ACTV_STATE 1).raise 225) := by
  simp [activationGo, h]

theorem activationRefused_granting (s : State) (b : Bool) : s.granting.activationRefused b = s.activationRefused b := by
  rw [activationRefused, wr_boot, rd_wr_apart _ _ _ _ (by decide), flag_wr_apart _ _ _ _ (by decide), flag_wr_apart _ _ _ _ (by decide),
    flag_wr_apart _ _ _ _ (by decide), activationRefused]

/-- R664: the new firmware is entered. -/
theorem activationEntered_of_copied (s : State) {a : Activation} (hact : s.boot.activation = some a) (hstate : s.rd R.ACTV_STATE = 2) :
    s.activationEntered = (((((({ s with boot := { s.boot with phase := .firmware, firmware := some a.image } } : State).wr R.BOOT_SLOT a.slot).wr
      R.BOOT_KEYSLOT (keySlot a.image)).wr R.BOOT_SVN (securityVersion a.image)).wr R.ALIAS_READY 0).wr R.ACTV_STATE 3) := by
  simp [activationEntered, hact, hstate]

/-- What an activation's end does not touch. -/
structure HoldOver (s t : State) : Prop where
  hold : t.boot.hold = s.boot.hold
  us : t.rd R.ACTV_HOLD_US = s.rd R.ACTV_HOLD_US
  line : t.linePending 226 = s.linePending 226

/-- R664: the end of an activation leaves the hold's time and its line. -/
theorem activationOver_holdOver (s : State) : HoldOver s s.activationOver := by
  rw [activationOver]
  split
  · exact ⟨rfl, rfl, rfl⟩
  · split
    · exact ⟨by rw [wr_boot], rd_wr_apart _ _ _ _ (by decide), linePending_wr_apart _ _ _ _ (by decide)⟩
    · split
      · exact ⟨by rw [finish_boot, wr_boot], (rd_congr (finish_regs ..) _).trans (rd_wr_apart _ _ _ _ (by decide)),
          (linePending_congr (finish_regs ..) _).trans (linePending_wr_apart _ _ _ _ (by decide))⟩
      · exact ⟨by rw [wr_boot], rd_wr_apart _ _ _ _ (by decide), linePending_wr_apart _ _ _ _ (by decide)⟩

/-- R664: an activation that has been entered is over. -/
theorem activationOver_of_entered (s : State) {a : Activation} (hact : s.boot.activation = some a) (hstate : s.rd R.ACTV_STATE = 3) :
    s.activationOver.boot.activation = none ∧ s.activationOver.rd R.ACTV_STATE = 0 := by
  have hzero : (({ s with boot.activation := none } : State).wr R.ACTV_STATE 0).rd R.ACTV_STATE = 0 := by
    rw [rd_wr_same _ _ _ (by decide)]
    rfl
  rw [activationOver, if_neg (by simp [hstate]), hact]
  dsimp only
  split
  · exact ⟨by rw [finish_boot, wr_boot], (rd_congr (finish_regs ..) _).trans hzero⟩
  · exact ⟨by rw [wr_boot], hzero⟩

/-- R664: what the end of the hold shows. -/
theorem holdEnds_shows (s : State) (us : Nat) : (s.holdEnds us).boot.hold = none ∧ (s.holdEnds us).rd R.ACTV_HOLD_US = min 131071 us
    ∧ (s.holdEnds us).linePending 226 = true := by
  refine ⟨by rw [holdEnds, raise_boot, wr_boot], ?_, linePending_raise ..⟩
  rw [holdEnds, rd_raise _ _ _ (by decide), rd_wr_same _ _ _ (by decide)]
  exact Nat.mod_eq_of_lt (by simp [R.ACTV_HOLD_US])

theorem holdEnds_keeps (s : State) (us : Nat) : (s.holdEnds us).boot.activation = s.boot.activation
    ∧ (s.holdEnds us).rd R.ACTV_STATE = s.rd R.ACTV_STATE :=
  ⟨by rw [holdEnds, raise_boot, wr_boot], by rw [holdEnds, rd_raise _ _ _ (by decide), rd_wr_apart _ _ _ _ (by decide), rd_update]⟩

end State

theorem actvGo_completes (s : State) (hreach : s.reachable R.ACTV_GO.addr = true) (h : s.activationRefused false = false) :
    Completes (exec (.actvGo false) s) fun t =>
      t.boot.phase = .warm ∧ t.boot.cores = 1 ∧ t.boot.hold = some (s.rd R.FCU_US) ∧ t.rd R.ACTV_STATE = 1
        ∧ t.linePending 225 = true ∧ RegFrame s t [R.REG_TOKEN, R.ACTV_STATE, R.PEND_BITS 7] := by
  refine .access hreach ?_
  rw [State.activationGo_of_accepted _ ((s.activationRefused_granting false).trans h), State.rd_wr_apart s R.REG_TOKEN R.FCU_US 1 (by decide)]
  refine ⟨by rw [State.raise_boot, State.wr_boot], by rw [State.raise_boot, State.wr_boot], by rw [State.raise_boot, State.wr_boot], ?_,
    State.linePending_raise .., by simp -implicitDefEqProofs⟩
  rw [State.rd_raise _ _ _ (by decide), State.rd_wr_same _ _ _ (by decide)]
  rfl

theorem actvCopyComplete_eq (s : State) (a : Activation) (hact : s.boot.activation = some a) (hstate : s.rd R.ACTV_STATE = 1) :
    exec (.actvCopyComplete false) s =
      .next (if Config.shake256 512 (payloadSize a.image) a.image.payload % 2 ^ 512 = headerField a.image 0x30 64
        then (s.loadBytes (loadAddress a.image) (payloadSize a.image) a.image.payload).wr R.ACTV_STATE 2
        else ((s.wr R.ACTV_STATE 4).raise 227).deviceReset R.RC_SW) := by
  refine congrArg Host.Outcome.next ?_
  rw [State.activationCopied, hact]
  dsimp only
  rw [if_neg (by simp [hstate])]
  by_cases h : Config.shake256 512 (payloadSize a.image) a.image.payload % 2 ^ 512 = headerField a.image 0x30 64
  · rw [if_neg (by rw [h, bne_self_eq_false, Bool.or_self]; exact Bool.false_ne_true), if_pos h]
  · rw [if_pos (by rw [Bool.false_or]; exact bne_iff_ne.mpr h), if_neg h]

theorem actvEntry_completes (s : State) (a : Activation) (hact : s.boot.activation = some a) (hstate : s.rd R.ACTV_STATE = 2) :
    Completes (exec .actvEntry s) fun t =>
      t.boot.phase = .firmware ∧ t.boot.firmware = some a.image ∧ t.rd R.ACTV_STATE = 3 ∧ t.flag R.ALIAS_READY = false
        ∧ RegFrame s t [R.BOOT_SLOT, R.BOOT_KEYSLOT, R.BOOT_SVN, R.ALIAS_READY, R.ACTV_STATE] := by
  change Completes (.next s.activationEntered) _
  rw [s.activationEntered_of_copied hact hstate]
  refine .next ⟨by simp only [State.wr_boot], by simp only [State.wr_boot], ?_, ?_, by simp -implicitDefEqProofs⟩
  · rw [State.rd_wr_same _ _ _ (by decide)]
    rfl
  · rw [State.flag, State.rd_wr_apart _ _ _ _ (by decide), State.rd_wr_same _ _ _ (by decide)]
    rfl

theorem actvRelease_completes (s : State) (a : Activation) (x : Nat) (hreach : s.reachable R.ACTV_RELEASE.addr = true)
    (hhold : s.boot.hold = some x) (hact : s.boot.activation = some a) (hstate : s.rd R.ACTV_STATE = 3) :
    Completes (exec .actvRelease s) fun t => t.boot.hold = none ∧ t.boot.activation = none
      ∧ t.rd R.ACTV_STATE = 0 ∧ t.rd R.ACTV_HOLD_US = min 131071 ((s.rd R.FCU_US + 2 ^ 32 - x) % 2 ^ 32) ∧ t.linePending 226 = true := by
  have heq : s.granting.activationRelease = (s.granting.holdEnds ((s.rd R.FCU_US + 2 ^ 32 - x) % 2 ^ 32)).activationOver := by
    rw [State.activationRelease, State.wr_boot, hhold, State.rd_wr_apart s R.REG_TOKEN R.FCU_US 1 (by decide)]
  obtain ⟨hnone, hus, hline⟩ := s.granting.holdEnds_shows ((s.rd R.FCU_US + 2 ^ 32 - x) % 2 ^ 32)
  obtain ⟨hkeepAct, hkeepState⟩ := s.granting.holdEnds_keeps ((s.rd R.FCU_US + 2 ^ 32 - x) % 2 ^ 32)
  obtain ⟨hholdOver, husOver, hlineOver⟩ := (s.granting.holdEnds ((s.rd R.FCU_US + 2 ^ 32 - x) % 2 ^ 32)).activationOver_holdOver
  obtain ⟨hover, hzero⟩ := State.activationOver_of_entered _ (hkeepAct.trans (by rw [State.wr_boot, hact]))
    (hkeepState.trans (by rw [State.rd_wr_apart _ _ _ _ (by decide), hstate]))
  refine .access hreach ?_
  rw [heq]
  exact ⟨hholdOver.trans hnone, hover, hzero, husOver.trans hus, hlineOver.trans hline⟩

theorem actvHoldTimeout_completes (s : State) (h : s.boot.hold.isSome = true) : Completes (exec .actvHoldTimeout s) fun t =>
    t.boot.hold = none ∧ t.rd R.ACTV_HOLD_US = 100000 ∧ t.linePending 226 = true := by
  obtain ⟨hnone, hus, hline⟩ := s.holdEnds_shows 100000
  obtain ⟨hholdOver, husOver, hlineOver⟩ := (s.holdEnds 100000).activationOver_holdOver
  exact ⟨_, congrArg Host.Outcome.next (if_pos h), hholdOver.trans hnone, husOver.trans hus, hlineOver.trans hline⟩

/-- R672: the perturbation test is disarmed. -/
theorem pertArm_disarm (s : State) (hreach : s.reachable R.PERT_ARM.addr = true) (hwritable : s.pertWritable = true)
    (harmed : s.flag R.PERT_ARM = true) : exec (.pertArm false) s = .next ((s.granting.wr R.PERT_ARM 0).raise 224) := by
  have hwritable' : s.granting.pertWritable = true := by
    rw [← hwritable, State.pertWritable, State.flag_wr_apart _ _ _ _ (by decide), State.wr_fuses, State.pertWritable]
  have harmed' : s.granting.flag R.PERT_ARM = true := by rw [State.flag_wr_apart _ _ _ _ (by decide), harmed]
  refine congrArg Host.Outcome.next ((s.access_of_reachable _ _ hreach).trans ?_)
  simp -implicitDefEqProofs only [State.pertArm, hwritable', harmed', Bool.not_true, Bool.false_or, Bool.true_beq, Bool.false_eq_true, if_false]

/-- R677: the cohort identifier and the phase it gives. -/
theorem cohortIdWrite_completes (s : State) (i : BitVec 12) (hreach : s.reachable R.COHORT_ID.addr = true) :
    Completes (exec (.cohortIdWrite i) s) fun t =>
      t.rd R.COHORT_ID = i.toNat ∧ t.rd R.COHORT_PHASE = i.toNat * 40503 % 65536
        ∧ RegFrame s t [R.REG_TOKEN, R.COHORT_ID, R.COHORT_PHASE] :=
  ⟨_, exec_cohortIdWrite s i hreach, State.rd_cohortId_id _ i.isLt, State.rd_cohortId_phase _ _, s.regFrame_granting_cohortId _⟩

end Sys2Proof.Machine

open Sys2Proof Sys2Proof.Machine in
/-- Settles O34: what each command leaves, the drain actuator by actuator, the activation and the cohort state by state. -/
theorem liveCommandsComplete : Obligations.LiveCommandsComplete := by
  unfold Obligations.LiveCommandsComplete
  exact ⟨spindleSetSpeed_completes, drainRequest_completes, actvGo_completes, actvCopyComplete_eq, actvEntry_completes,
    actvRelease_completes, actvHoldTimeout_completes, pertArm_disarm, cohortIdWrite_completes, cohortMarkEdge_completes,
    cohortLost_completes⟩

namespace Sys2Proof.Machine

open Sys2Proof.Arith

/-! ### The TAP (R673 to R675) -/

namespace State

@[simp] theorem modPsi_tap (s : State) (n p : Nat) (f : List PsiFrame → List PsiFrame) : (s.modPsi n p f).tap = s.tap := rfl
@[simp] theorem modAsd_tap (s : State) (k : Nat) (f : AsdSlot → AsdSlot) : (s.modAsd k f).tap = s.tap := rfl
theorem modPsi_regs (s : State) (n p : Nat) (f : List PsiFrame → List PsiFrame) : (s.modPsi n p f).regs = s.regs := rfl
theorem modAsd_regs (s : State) (k : Nat) (f : AsdSlot → AsdSlot) : (s.modAsd k f).regs = s.regs := rfl

/-- Where the registers of an assist force stand to each other. -/
theorem forceFields (n m : Fin 4) : (R.ASST_RAIL_OK n.val).apart R.ASST_FORCED = true ∧ R.PA_RAIL_OK.apart R.ASST_FORCED = true
    ∧ (R.ASST_FORCED.fits && decide (m.val < R.ASST_FORCED.width)) = true := by
  revert n m
  decide

/-- R488: assist forced off on an actuator shows in its own bit. -/
theorem forceAssist_shows (s : State) (n m : Fin 4) :
    (s.forceAssist n.val).bitAt R.ASST_FORCED m.val = (s.bitAt R.ASST_FORCED m.val || decide (m = n)) := by
  obtain ⟨hrail, hpa, hbit⟩ := forceFields n m
  obtain ⟨u, heq, hu⟩ : ∃ u : State, s.forceAssist n.val = (if u.bitAt R.ASST_FORCED n.val then u else (u.setBitAt R.ASST_FORCED n.val).raise 160)
      ∧ u.rd R.ASST_FORCED = s.rd R.ASST_FORCED := by
    refine ⟨_, rfl, ?_⟩
    rw [rd_putBitAt_apart _ _ _ _ _ hpa, rd_wr_apart _ _ _ _ hrail, rd_congr (modAsd_regs ..), rd_congr (modAsd_regs ..),
      rd_congr (modPsi_regs ..), rd_update]
  have hbits : ∀ i, u.bitAt R.ASST_FORCED i = s.bitAt R.ASST_FORCED i := fun i => by rw [bitAt, hu, bitAt]
  rw [heq]
  split
  · next h =>
    rw [hbits] at h
    rw [hbits]
    by_cases hm : m = n <;> simp [hm, h]
  · rw [bitAt, rd_raise _ _ _ (by decide), ← bitAt, bitAt_setBitAt_same _ _ _ _ hbit, hbits]
    simp [Fin.ext_iff]

@[simp] theorem forceAssist_tap (s : State) (n : Nat) : (s.forceAssist n).tap = s.tap := by
  rw [forceAssist]
  split <;> simp -implicitDefEqProofs

/-- R675: an instruction of the boundary scan takes effect with assist forced off everywhere. -/
theorem loadBoundary_of_parked (s : State) (code : Nat) (hstopped : s.rd R.SPM_STATE = 0) (hparked : ∀ n < 4, s.flag (R.PARKED n) = true) :
    (s.loadBoundary code).tap = { s.tap with ir := code } ∧ ∀ n < 4, (s.loadBoundary code).bitAt R.ASST_FORCED n = true := by
  have hall : (actuators.all fun n => s.flag (R.PARKED n)) = true := by
    simp [actuators, hparked 0, hparked 1, hparked 2, hparked 3]
  have heq : s.loadBoundary code = (actuators.foldl forceAssist s).loadTap code := by simp [loadBoundary, hstopped, hall]
  have hforced : ∀ n : Fin 4, (actuators.foldl forceAssist s).bitAt R.ASST_FORCED n.val = true := by
    intro n
    have hstep := fun (u : State) (m : Fin 4) => u.forceAssist_shows m n
    have hfold := (hstep _ 3).trans (congrArg (· || decide (n = 3)) ((hstep _ 2).trans (congrArg (· || decide (n = 2))
      ((hstep _ 1).trans (congrArg (· || decide (n = 1)) (hstep s 0))))))
    refine hfold.trans ?_
    match n with
    | 0 => simp
    | 1 => simp
    | 2 => simp
    | 3 => simp
  have htap : (actuators.foldl forceAssist s).tap = s.tap := by simp [actuators]
  rw [heq]
  refine ⟨?_, fun n hn => hforced ⟨n, hn⟩⟩
  rw [← htap]
  rfl

end State

theorem bypass_eq (s : State) (c : BitVec 8) (h : c.toNat ∉ [0, 1, 2, 4, 5, 0x10, 0x20]) :
    exec (.bypass c) s = .next { s with tap := { s.tap with ir := 0xFF } } := by
  have hnot : ([0, 1, 2, 4, 5, 0x10, 0x20].contains c.toNat) = false := by simpa using h
  change Host.Outcome.next (s.loadTap (if [0, 1, 2, 4, 5, 0x10, 0x20].contains c.toNat then s.tap.ir else 0xFF)) = _
  rw [hnot]
  rfl

end Sys2Proof.Machine

open Sys2Proof Sys2Proof.Machine in
/-- Settles O35: each instruction loads its code; those of the boundary scan force assist off first. -/
theorem tapCommandsComplete : Obligations.TapCommandsComplete := by
  unfold Obligations.TapCommandsComplete
  exact ⟨fun s => rfl, fun s hstopped hparked => .next (s.loadBoundary_of_parked 0 hstopped hparked),
    fun s hstopped hparked => .next (s.loadBoundary_of_parked 4 hstopped hparked),
    fun s hstopped hparked => .next (s.loadBoundary_of_parked 5 hstopped hparked), fun s => .next ⟨rfl, rfl, rfl⟩,
    fun s c => .next ⟨rfl, rfl, rfl⟩, fun s => rfl, fun s => rfl, bypass_eq⟩
end

section
/-!
O36 and O37, the Map Cache (R260 to R289): a hit served by its way, what a miss and the set bookkeeping may write, and the registers
of windows, lock ranges and range operations.
-/
namespace Sys2Proof.Machine

open Sys2Proof.Arith

theorem Store.get_filter {β : Type} (d : β) (m : Store β) (k : Nat) {p : Nat × β → Bool} (hp : ∀ v, p (k, v) = true) :
    Store.get d (m.filter p) k = Store.get d m k := by
  induction m with
  | nil => rfl
  | cons e m ih =>
    obtain ⟨j, v⟩ := e
    by_cases h : j = k
    · subst h
      simp [hp, Store.get]
    · by_cases hpe : p (j, v) = true
      · simp [hpe, Store.get, h, ih]
      · simp [hpe, Store.get, h, ih]

namespace State

/-- A field outside a range of registers keeps its value as they are reset. -/
theorem rd_resetRange_outside (s : State) {lo hi : Nat} {g : Fld} (h : g.addr < lo ∨ hi < g.addr) : (s.resetRange lo hi).rd g = s.rd g := by
  have hword : (s.resetRange lo hi).word g.addr g.rst = s.word g.addr g.rst :=
    congrArg BitVec.toNat (Store.get_filter _ _ _ fun v => by simpa using h)
  rw [rd, hword, rd]

/-! ### Ways, sets and requests -/

@[simp] theorem rd_modMca (s : State) (f : Mca → Mca) (g : Fld) : (s.modMca f).rd g = s.rd g := rfl
theorem modMca_regs (s : State) (f : Mca → Mca) : (s.modMca f).regs = s.regs := rfl
@[simp] theorem modMca_mca (s : State) (f : Mca → Mca) : (s.modMca f).mca = f s.mca := rfl
@[simp] theorem modMca_out (s : State) (f : Mca → Mca) : (s.modMca f).out = s.out := rfl
@[simp] theorem putWay_out (s : State) (n w : Nat) (x : McWay) : (s.putWay n w x).out = s.out := rfl
theorem putWay_regs (s : State) (n w : Nat) (x : McWay) : (s.putWay n w x).regs = s.regs := rfl

theorem wayAt_congr {s t : State} (h : t.mca.ways = s.mca.ways) (n w : Nat) : t.wayAt n w = s.wayAt n w := by rw [wayAt, h, wayAt]

/-- A way that holds a line or is locked reads as it was put. -/
theorem wayAt_putWay_same (s : State) (n w : Nat) {x : McWay} (h : x.line.isSome = true) : (s.putWay n w x).wayAt n w = x := by
  have hnone : x.line.isNone = false := by rw [← Option.not_isSome, h, Bool.not_true]
  simp [putWay, wayAt, hnone]

/-- The way that holds a line does. -/
theorem line_of_hitWay {s : State} {line w : Nat} (h : s.hitWay line = some w) : (s.wayAt (setOf line) w).line = some line := by
  have := List.find?_some h
  simpa using this

end State

@[simp] theorem regFrame_modMca {s t : State} {l : List Fld} {f : Mca → Mca} : RegFrame s (t.modMca f) l ↔ RegFrame s t l := Iff.rfl
@[simp] theorem regFrame_putWay {s t : State} {l : List Fld} {n w : Nat} {x : McWay} : RegFrame s (t.putWay n w x) l ↔ RegFrame s t l := Iff.rfl

namespace State

/-- R272: a way that a prefetch filled is used. -/
def used (s : State) (n w : Nat) : State :=
  if (s.wayAt n w).prefetched then (s.putWay n w { s.wayAt n w with prefetched := false }).count R.MC_PF_USED_CNT else s

theorem used_shows (s : State) (n w : Nat) (h : (s.wayAt n w).line.isSome = true) : ((s.used n w).wayAt n w).data = (s.wayAt n w).data
    ∧ ((s.used n w).wayAt n w).lock = (s.wayAt n w).lock ∧ ((s.used n w).wayAt n w).line = (s.wayAt n w).line
    ∧ (s.used n w).out = s.out ∧ RegFrame s (s.used n w) [R.MC_PF_USED_CNT] := by
  rw [used]
  split
  · have hway : ∀ v, (((s.putWay n w { s.wayAt n w with prefetched := false }).wr R.MC_PF_USED_CNT v).wayAt n w) =
        { s.wayAt n w with prefetched := false } := fun v => (wayAt_congr (congrArg _ (wr_mca ..)) n w).trans (s.wayAt_putWay_same n w h)
    rw [count, hway]
    exact ⟨rfl, rfl, rfl, by rw [wr_out, putWay_out], (Machine.regFrame_wr (by simp)).mpr (regFrame_same s _)⟩
  · exact ⟨rfl, rfl, rfl, rfl, regFrame_same s _⟩

/-- R263: a lookup served by its way. -/
theorem serveWay_of_lookup (s : State) (n w : Nat) {r : McReq} (h : r.update = none) :
    s.serveWay n w r = ((s.used n w).touchSet n).emit (.mapEntry r.tag r.addr (entryAt ((s.used n w).wayAt n w).data r.addr)) := by
  simp -implicitDefEqProofs only [serveWay, h]
  rw [answerMap, h]
  rfl

/-- R265: an update served by its way, which is not locked. -/
theorem serveWay_of_update (s : State) (n w : Nat) {r : McReq} {v : Nat} (h : r.update = some v)
    (hlock : ((s.used n w).wayAt n w).lock = none) : s.serveWay n w r = ((s.used n w).touchSet n).putWay n w
      { (s.used n w).wayAt n w with data := putEntry ((s.used n w).wayAt n w).data r.addr v, dirty := true } := by
  have hnot : ((s.used n w).wayAt n w).lock.isSome = false := by rw [hlock]; rfl
  simp -implicitDefEqProofs only [serveWay, h]
  rw [← used, hnot]
  rfl

/-- R263: a request that hits is served by the way, where no range operation runs. -/
theorem request_of_hit (s : State) {r : McReq} {w : Nat} (hhit : s.hitWay (r.addr / 128) = some w) (hrange : s.mca.range = none) :
    s.request r false = (s.count R.MC_HIT_CNT).serveWay (setOf (r.addr / 128)) w r := by
  have hno : ∀ age, (s.count R.MC_HIT_CNT).inRange (r.addr / 128) age = none := fun age => by rw [inRange, count_mca, hrange]; rfl
  simp -implicitDefEqProofs only [request, hhit, Bool.false_eq_true, if_false, hno]

/-- R262: a request of position `p` that stands alone is granted. -/
theorem granted_alone (s : State) {p : Nat} (hp : p < 3) : s.granted p [] = true := by
  rw [granted, List.map_nil, tokenGrant, tokenOrder_single _ hp]
  simp

theorem hitWay_congr {s t : State} (h : t.mca.ways = s.mca.ways) (line : Nat) : t.hitWay line = s.hitWay line := by
  simp only [hitWay, wayAt_congr h]

/-- R260: a window is found by its registers. -/
theorem windowOf_congr {s t : State} (h : ∀ k < 4, t.rd (R.WIN_EN k) = s.rd (R.WIN_EN k) ∧ t.rd (R.WIN_BASE k) = s.rd (R.WIN_BASE k)
    ∧ t.rd (R.WIN_SIZE k) = s.rd (R.WIN_SIZE k)) (a : Nat) : t.windowOf a = s.windowOf a := by
  rw [windowOf, windowOf]
  refine List.find?_congr ?_
  intro k hk
  obtain ⟨hen, hbase, hsize⟩ := h k (List.mem_range.mp hk)
  rw [flag, hen, hbase, hsize, flag]

theorem winFields_apart : ∀ f ∈ [R.REG_TOKEN, R.PIPE_TOKEN, R.MC_PF_TRAINED], ∀ k < 4, f.apart (R.WIN_EN k) = true
    ∧ f.apart (R.WIN_BASE k) = true ∧ f.apart (R.WIN_SIZE k) = true := by decide

theorem windowOf_wr (s : State) {f : Fld} (hf : f ∈ [R.REG_TOKEN, R.PIPE_TOKEN, R.MC_PF_TRAINED]) (v a : Nat) :
    (s.wr f v).windowOf a = s.windowOf a := windowOf_congr (fun k hk => by
  obtain ⟨hen, hbase, hsize⟩ := winFields_apart f hf k hk
  exact ⟨rd_wr_apart _ _ _ _ hen, rd_wr_apart _ _ _ _ hbase, rd_wr_apart _ _ _ _ hsize⟩) a

/-- R271: training moves the detectors and the cache's clock. -/
theorem train_shows (s : State) (tag line : Nat) : (s.train tag line).mca.ways = s.mca.ways ∧ (s.train tag line).mca.range = s.mca.range
    ∧ (s.train tag line).out = s.out ∧ RegFrame s (s.train tag line) [R.MC_PF_TRAINED] := by
  refine ⟨?_, ?_, ?_, ?_⟩
  · simp only [train, countTrained, wr_mca, modMca_mca]
  · simp only [train, countTrained, wr_mca, modMca_mca]
  · simp only [train, countTrained, wr_out, modMca_out]
  · simp -implicitDefEqProofs [train, countTrained]

/-- R263: a hit of a lookup, as it stands alone. -/
theorem lookup_of_hit (s : State) {r : McReq} {w : Nat} (hr : r.update = none) (hhit : s.hitWay (r.addr / 128) = some w)
    (hrange : s.mca.range = none) : (s.request r false).out =
        .mapEntry r.tag r.addr (entryAt (s.wayAt (setOf (r.addr / 128)) w).data r.addr) :: s.out
      ∧ RegFrame s (s.request r false) [R.MC_HIT_CNT, R.MC_PF_USED_CNT] := by
  have hways : (s.count R.MC_HIT_CNT).mca.ways = s.mca.ways := congrArg _ (count_mca ..)
  have hline : ((s.count R.MC_HIT_CNT).wayAt (setOf (r.addr / 128)) w).line.isSome = true := by
    rw [wayAt_congr hways, line_of_hitWay hhit]
    rfl
  obtain ⟨hdata, -, -, hout, hframe⟩ := used_shows _ _ _ hline
  rw [s.request_of_hit hhit hrange, serveWay_of_lookup _ _ _ hr, hdata, wayAt_congr hways]
  refine ⟨?_, ?_⟩
  · have hemit : ∀ (u : State) (n : Nat) (o : Output), ((u.touchSet n).emit o).out = o :: u.out := fun _ _ _ => rfl
    rw [hemit, hout, count_out]
  · have hcount : RegFrame s (s.count R.MC_HIT_CNT) [R.MC_HIT_CNT, R.MC_PF_USED_CNT] := (regFrame_count (by simp)).mpr (regFrame_same s _)
    exact hcount.trans (hframe.mono (by simp))

/-- R265: a hit of an update, whose way is not locked. -/
theorem update_of_hit (s : State) {r : McReq} {v w : Nat} (hr : r.update = some v) (hhit : s.hitWay (r.addr / 128) = some w)
    (hrange : s.mca.range = none) (hlock : (s.wayAt (setOf (r.addr / 128)) w).lock = none) :
    ((s.request r false).wayAt (setOf (r.addr / 128)) w).dirty = true
      ∧ ((s.request r false).wayAt (setOf (r.addr / 128)) w).data = putEntry (s.wayAt (setOf (r.addr / 128)) w).data r.addr v
      ∧ (s.request r false).out = s.out ∧ RegFrame s (s.request r false) [R.MC_HIT_CNT, R.MC_PF_USED_CNT] := by
  have hways : (s.count R.MC_HIT_CNT).mca.ways = s.mca.ways := congrArg _ (count_mca ..)
  have hline : ((s.count R.MC_HIT_CNT).wayAt (setOf (r.addr / 128)) w).line.isSome = true := by
    rw [wayAt_congr hways, line_of_hitWay hhit]
    rfl
  obtain ⟨hdata, hlockUsed, hlineUsed, hout, hframe⟩ := used_shows _ _ _ hline
  rw [s.request_of_hit hhit hrange, serveWay_of_update _ _ _ hr (by rw [hlockUsed, wayAt_congr hways, hlock])]
  have hput := ((used (s.count R.MC_HIT_CNT) (setOf (r.addr / 128)) w).touchSet (setOf (r.addr / 128))).wayAt_putWay_same
    (setOf (r.addr / 128)) w (x := { (used (s.count R.MC_HIT_CNT) (setOf (r.addr / 128)) w).wayAt (setOf (r.addr / 128)) w with
      data := putEntry ((used (s.count R.MC_HIT_CNT) (setOf (r.addr / 128)) w).wayAt (setOf (r.addr / 128)) w).data r.addr v, dirty := true })
    (by rw [hlineUsed, hline])
  rw [hput]
  refine ⟨rfl, by rw [hdata, wayAt_congr hways], ?_, ?_⟩
  · have hkeep : ∀ (u : State) (n : Nat) (x : McWay), ((u.touchSet n).putWay n w x).out = u.out := fun _ _ _ => rfl
    rw [hkeep, hout, count_out]
  · have hcount : RegFrame s (s.count R.MC_HIT_CNT) [R.MC_HIT_CNT, R.MC_PF_USED_CNT] := (regFrame_count (by simp)).mpr (regFrame_same s _)
    exact hcount.trans (hframe.mono (by simp))

end State

theorem mcaLookup_completes (s : State) (g : BitVec 13) (a : BitVec 35) (w : Nat) (hruns : s.mcaRuns = true)
    (hwin : (s.windowOf (a.toNat / 8 * 8)).isSome = true) (hhit : s.hitWay (a.toNat / 8 * 8 / 128) = some w) (hrange : s.mca.range = none) :
    Completes (exec (.mcaLookup g a [] false) s) fun t =>
      t.out = .mapEntry g.toNat (a.toNat / 8 * 8) (State.entryAt (s.wayAt (State.setOf (a.toNat / 8 * 8 / 128)) w).data (a.toNat / 8 * 8)) :: s.out
        ∧ t.rd R.PIPE_TOKEN = 1 ∧ RegFrame s t [R.PIPE_TOKEN, R.MC_PF_TRAINED, R.MC_HIT_CNT, R.MC_PF_USED_CNT] := by
  obtain ⟨u, heq, hways, hrange', hout, htoken, hframe⟩ : ∃ u : State,
      exec (.mcaLookup g a [] false) s = .next (u.request ⟨none, g.toNat, a.toNat / 8 * 8⟩ false)
      ∧ u.mca.ways = s.mca.ways ∧ u.mca.range = none ∧ u.out = s.out ∧ u.rd R.PIPE_TOKEN = 1
      ∧ RegFrame s u [R.PIPE_TOKEN, R.MC_PF_TRAINED] := by
    have hwinPipe : ((s.grantPipe 0).windowOf (a.toNat / 8 * 8)).isSome = true := by rw [State.grantPipe, State.windowOf_wr _ (by simp), hwin]
    obtain ⟨hways, hrange', hout, hframe⟩ := (s.grantPipe 0).train_shows g.toNat (a.toNat / 8 * 8 / 128)
    have hwinTrain : (((s.grantPipe 0).train g.toNat (a.toNat / 8 * 8 / 128)).windowOf (a.toNat / 8 * 8)).isNone = false := by
      rw [State.windowOf_congr (s := s.grantPipe 0) fun k hk => ?_, ← Option.not_isSome, hwinPipe, Bool.not_true]
      obtain ⟨hen, hbase, hsize⟩ := State.winFields_apart R.MC_PF_TRAINED (by simp) k hk
      exact ⟨hframe _ (by simpa using hen), hframe _ (by simpa using hbase), hframe _ (by simpa using hsize)⟩
    refine ⟨_, congrArg Host.Outcome.next ((if_neg (by simp [hruns, s.granted_alone (p := 0) (by decide)])).trans ?_), hways.trans ?_,
      hrange'.trans ?_, hout.trans ?_, ?_, RegFrame.trans ?_ (hframe.mono (by simp))⟩
    · simp -implicitDefEqProofs only [hwinPipe, if_true, State.mapRequest, hwinTrain, Bool.false_eq_true, if_false]
    · rw [State.grantPipe, State.wr_mca]
    · rw [State.grantPipe, State.wr_mca, hrange]
    · rw [State.grantPipe, State.wr_out]
    · rw [hframe _ (by decide), State.grantPipe, State.rd_wr_same _ _ _ (by decide)]
      rfl
    · exact (regFrame_wr (by simp)).mpr (regFrame_same s _)
  obtain ⟨hentry, hreq⟩ := u.lookup_of_hit (r := ⟨none, g.toNat, a.toNat / 8 * 8⟩) rfl ((State.hitWay_congr hways _).trans hhit) hrange'
  rw [heq]
  refine .next ⟨?_, ?_, (hframe.mono (by simp)).trans (hreq.mono (by simp))⟩
  · rw [hentry, hout, State.wayAt_congr hways]
  · rw [hreq _ (by decide), htoken]

theorem mcaUpdate_completes (s : State) (a : BitVec 35) (v : BitVec 64) (w : Nat) (hruns : s.mcaRuns = true)
    (hwin : (s.windowOf (a.toNat / 8 * 8)).isSome = true) (hhit : s.hitWay (a.toNat / 8 * 8 / 128) = some w) (hrange : s.mca.range = none)
    (hlock : (s.wayAt (State.setOf (a.toNat / 8 * 8 / 128)) w).lock = none) :
    Completes (exec (.mcaUpdate a v [] false) s) fun t => ∃ x, x = t.wayAt (State.setOf (a.toNat / 8 * 8 / 128)) w ∧ x.dirty = true
      ∧ x.data = State.putEntry (s.wayAt (State.setOf (a.toNat / 8 * 8 / 128)) w).data (a.toNat / 8 * 8) v.toNat
      ∧ t.out = s.out ∧ RegFrame s t [R.PIPE_TOKEN, R.MC_HIT_CNT, R.MC_PF_USED_CNT] := by
  have hways : (s.grantPipe 1).mca = s.mca := by rw [State.grantPipe, State.wr_mca]
  have hwinPipe : ((s.grantPipe 1).windowOf (a.toNat / 8 * 8)).isNone = false := by
    rw [State.grantPipe, State.windowOf_wr _ (by simp), ← Option.not_isSome, hwin, Bool.not_true]
  have heq : exec (.mcaUpdate a v [] false) s = .next ((s.grantPipe 1).request ⟨some v.toNat, 0, a.toNat / 8 * 8⟩ false) := by
    refine congrArg Host.Outcome.next ((if_neg (by simp [hruns, s.granted_alone (p := 1) (by decide)])).trans ?_)
    simp -implicitDefEqProofs only [State.mapRequest, hwinPipe, Bool.false_eq_true, if_false]
  obtain ⟨hdirty, hdata, hout, hreq⟩ := (s.grantPipe 1).update_of_hit (r := ⟨some v.toNat, 0, a.toNat / 8 * 8⟩) rfl
    ((State.hitWay_congr (congrArg _ hways) _).trans hhit) ((congrArg Mca.range hways).trans hrange)
    ((congrArg McWay.lock (State.wayAt_congr (congrArg _ hways) _ _)).trans hlock)
  rw [heq]
  refine .next ⟨_, rfl, hdirty, hdata.trans ?_, hout.trans ?_, RegFrame.trans ?_ (hreq.mono (by simp))⟩
  · rw [State.wayAt_congr (congrArg _ hways)]
  · rw [State.grantPipe, State.wr_out]
  · exact (regFrame_wr (by simp)).mpr (regFrame_same s _)

theorem mcaFillReturn_eq (s g t u : State) (l : BitVec 28) (b : Bool) (f : McFill) (d : Nat) (hfill : s.fillOf l.toNat = some f)
    (hdram : s.dom.dram = true) (hcore : s.dom.core = true) (hdiscard : f.discard = false)
    (hg : g = s.modMca (fun m => { m with fills := m.fills.filter fun x => x.line != f.line })) (hload : g.loadLine f.line = (t, some d))
    (hinstall : t.install f.line d (f.prefetch && f.reqs.isEmpty) b = (u, true)) :
    exec (.mcaFillReturn l b) s = .next ((u.serveFill f.line d f.reqs).retryWaiting) := by
  subst hg
  change Host.Outcome.next _ = _
  rw [hfill]
  simp -implicitDefEqProofs only [hdram, hcore, Bool.and_self, if_true, State.fillReturn, hdiscard, Bool.false_eq_true, if_false, hload,
    hinstall, Bool.not_true]

theorem mcaVictimLand_completes (s : State) (l : BitVec 28) (b : Bool) (e : McLine) (i : Nat) (hevicting : s.mca.evicting = [e])
    (hline : e.line = l.toNat) (hslot : s.victimSlot = some i) (hstalled : s.mca.stalled = []) (hwaiting : s.mca.noBuffer = []) :
    Completes (exec (.mcaVictimLand l b) s) fun t => t.mca.evicting = []
      ∧ Store.get none t.mca.victims i = some ⟨l.toNat, e.data, s.mca.clock⟩ ∧ t.regs = s.regs := by
  change Completes (.next (s.land l.toNat b)) _
  have hfind : s.mca.evicting.find? (fun e => e.line == l.toNat) = some e := by simp [hevicting, hline]
  rw [State.land, hfind, hslot]
  simp only [hstalled, List.filter_nil, List.foldl_nil, State.retryWaiting, State.modMca_mca, hwaiting]
  exact .next ⟨by simp [hevicting, hline], by simp, rfl⟩

theorem mcaPrefetch_eq (s : State) (g : BitVec 13) (i : Nat) (d : McDetector)
    (h : (s.mca.detectors.findSome? fun e => e.2.bind fun d => if d.tag = g.toNat ∧ d.due then some (e.1, d) else none) = some (i, d))
    (hruns : s.mcaRuns = true) (hen : s.flag R.MC_PF_EN = true) : exec (.mcaPrefetch g) s = .next (s.prefetchAll i d) := by
  change Host.Outcome.next _ = _
  rw [h]
  simp [hruns, hen]

/-! ### Initialisation (R283) -/

namespace State

/-- The registers that initialisation clears. -/
def initFields : List Fld := (List.range 4).map R.WIN_EN ++
  (List.range 8).flatMap fun k => [R.LOCK_EN k, R.LOCK_BUSY k, R.LOCK_RESIDENT k]

theorem initFields_cleared (s : State) : (List.range 8).foldl (fun s k => ((s.wr (R.LOCK_EN k) 0).wr (R.LOCK_BUSY k) 0).wr (R.LOCK_RESIDENT k) 0)
    ((List.range 4).foldl (fun s k => s.wr (R.WIN_EN k) 0) s) = s.clearAll initFields := by
  rw [initFields, clearAll, List.foldl_append, List.foldl_map, List.foldl_flatMap]
  rfl

theorem initFields_sound : (∀ f ∈ initFields, f.fits = true) ∧ initFields.Pairwise (fun f g => g.apart f = true)
    ∧ ∀ f ∈ initFields, R.LE_COUNT.apart f = true ∧ R.CACHE_INIT_DONE.apart f = true ∧ (R.PEND_BITS (63 / 32)).apart f = true
      ∧ f.addr < 0x40041000 := by decide

/-- R283: the Map Cache as its initialisation leaves it. -/
def initialised (s : State) : State :=
  ((((({ s with mca := {} } : State).clearAll initFields).resetRange 0x40041000 0x400411FF).wr R.LE_COUNT 0).wr R.CACHE_INIT_DONE 1).raise 63

theorem initialised_cleared (s : State) {f : Fld} (hf : f ∈ initFields) : s.initialised.rd f = 0 := by
  obtain ⟨hfits, hpair, hapart⟩ := initFields_sound
  obtain ⟨hcount, hdone, hpend, haddr⟩ := hapart f hf
  rw [initialised, rd_raise _ _ _ hpend, rd_wr_apart _ _ _ _ hdone, rd_wr_apart _ _ _ _ hcount, rd_resetRange_outside _ (.inl haddr),
    rd_clearAll _ hfits hpair f hf]

theorem clearAll_mca (s : State) (l : List Fld) : (s.clearAll l).mca = s.mca := by
  have h : RegsOnly s (s.clearAll l) := (RegsOnly.refl s).clearAll l
  rw [h]

end State

theorem mcaInitComplete_completes (s : State) (hcore : s.dom.core = true) (hdone : s.flag R.CACHE_INIT_DONE = false) :
    Completes (exec .mcaInitComplete s) fun t =>
      t.mca = {} ∧ t.flag R.CACHE_INIT_DONE = true ∧ (∀ k < 4, t.flag (R.WIN_EN k) = false)
        ∧ (∀ k < 8, t.flag (R.LOCK_EN k) = false ∧ t.flag (R.LOCK_BUSY k) = false ∧ t.rd (R.LOCK_RESIDENT k) = 0)
        ∧ t.rd R.LE_COUNT = 0 ∧ t.linePending 63 = true := by
  have heq : exec .mcaInitComplete s = .next s.initialised := by
    refine congrArg Host.Outcome.next ((if_neg (by simp [hcore, hdone])).trans ?_)
    rw [State.initialised, ← State.initFields_cleared]
  have hwin : ∀ k < 4, R.WIN_EN k ∈ State.initFields := by decide
  have hlock : ∀ k < 8, R.LOCK_EN k ∈ State.initFields ∧ R.LOCK_BUSY k ∈ State.initFields ∧ R.LOCK_RESIDENT k ∈ State.initFields := by decide
  have hflag : ∀ {f : Fld}, s.initialised.rd f = 0 → s.initialised.flag f = false := fun h => by rw [State.flag, h]; rfl
  rw [heq]
  refine .next ⟨?_, ?_, fun k hk => hflag (s.initialised_cleared (hwin k hk)), fun k hk => ?_, ?_, State.linePending_raise ..⟩
  · rw [State.initialised, State.raise_mca, State.wr_mca, State.wr_mca, State.resetRange_mca, State.clearAll_mca]
  · rw [State.initialised, State.flag, State.rd_raise _ _ _ (by decide), State.rd_wr_same _ _ _ (by decide)]
    rfl
  · obtain ⟨hen, hbusy, hres⟩ := hlock k hk
    exact ⟨hflag (s.initialised_cleared hen), hflag (s.initialised_cleared hbusy), s.initialised_cleared hres⟩
  · rw [State.initialised, State.rd_raise _ _ _ (by decide), State.rd_wr_apart _ _ _ _ (by decide), State.rd_wr_same _ _ _ (by decide),
      Nat.zero_mod]

end Sys2Proof.Machine

open Sys2Proof Sys2Proof.Machine in
/-- Settles O36: a hit by the way that serves it, a fill and a landing by the model's own steps, initialisation by its registers. -/
theorem mapCacheRequestsComplete : Obligations.MapCacheRequestsComplete := by
  unfold Obligations.MapCacheRequestsComplete
  exact ⟨mcaInitComplete_completes, mcaLookup_completes, mcaUpdate_completes, mcaFillReturn_eq, mcaVictimLand_completes, mcaPrefetch_eq⟩
end

section
/-!
O37, windows, lock ranges and range operations of the Map Cache (R261, R273 to R289): what a register access can move of their
tests, and what the last writes of each command leave.
-/
namespace Sys2Proof.Machine

open Sys2Proof.Arith

namespace State

/-! ### Tests under a register access (R17) -/

theorem regToken_apart_mca : (∀ k < 4, R.REG_TOKEN.addr ≠ (R.WIN_EN k).addr ∧ R.REG_TOKEN.addr ≠ (R.WIN_BASE k).addr
      ∧ R.REG_TOKEN.addr ≠ (R.WIN_SIZE k).addr)
    ∧ (∀ k < 8, R.REG_TOKEN.addr ≠ (R.LOCK_EN k).addr ∧ R.REG_TOKEN.addr ≠ (R.LOCK_LINE k).addr ∧ R.REG_TOKEN.addr ≠ (R.LOCK_LINES k).addr
      ∧ R.REG_TOKEN.addr ≠ (R.LOCK_BUSY k).addr) := by decide

theorem rd_granting_of_addr (s : State) {g : Fld} (h : R.REG_TOKEN.addr ≠ g.addr) : s.granting.rd g = s.rd g :=
  rd_wr_apart _ _ _ _ (by simp [Fld.apart, h])

theorem flag_granting_of_addr (s : State) {g : Fld} (h : R.REG_TOKEN.addr ≠ g.addr) : s.granting.flag g = s.flag g := by
  rw [flag, s.rd_granting_of_addr h, flag]

theorem all_range_congr {p q : Nat → Bool} {n : Nat} (h : ∀ j < n, p j = q j) : (List.range n).all p = (List.range n).all q := by
  rw [Bool.eq_iff_iff, List.all_eq_true, List.all_eq_true]
  exact forall₂_congr fun j hj => by rw [h j (List.mem_range.mp hj)]

/-- R261: a window's fit depends on the windows' registers. -/
theorem windowFits_congr {s t : State} (h : ∀ k < 4, t.rd (R.WIN_EN k) = s.rd (R.WIN_EN k) ∧ t.rd (R.WIN_BASE k) = s.rd (R.WIN_BASE k)
    ∧ t.rd (R.WIN_SIZE k) = s.rd (R.WIN_SIZE k)) (k : Fin 4) : t.windowFits k.val = s.windowFits k.val := by
  obtain ⟨-, hbase, hsize⟩ := h k.val k.isLt
  have hall : ((List.range 4).all fun j => j == k.val || !t.flag (R.WIN_EN j)
        || !rangesMeet (t.rd (R.WIN_BASE k.val), t.rd (R.WIN_SIZE k.val)) (t.rd (R.WIN_BASE j), t.rd (R.WIN_SIZE j)))
      = (List.range 4).all fun j => j == k.val || !s.flag (R.WIN_EN j)
        || !rangesMeet (s.rd (R.WIN_BASE k.val), s.rd (R.WIN_SIZE k.val)) (s.rd (R.WIN_BASE j), s.rd (R.WIN_SIZE j)) :=
    all_range_congr fun j hj => by
      obtain ⟨hen, hbase', hsize'⟩ := h j hj
      rw [flag, hen, hbase, hsize, hbase', hsize', flag]
  simp only [windowFits]
  rw [hall]
  simp -implicitDefEqProofs only [hbase, hsize]

/-- R273: a lock range's fit depends on the registers of the lock ranges and of the windows. -/
theorem lockFits_granting (s : State) (k : Fin 8) : s.granting.lockFits k.val = s.lockFits k.val := by
  have hlines : ∀ j < 8, s.granting.lockLines j = s.lockLines j := fun j hj => by
    obtain ⟨-, hline, hcount, -⟩ := regToken_apart_mca.2 j hj
    rw [lockLines, s.rd_granting_of_addr hline, s.rd_granting_of_addr hcount, lockLines]
  have hwin : ∀ a, s.granting.windowOf a = s.windowOf a := fun a => s.windowOf_wr (by simp) _ _
  have hall : ((List.range 8).all fun j => j == k.val || !s.granting.flag (R.LOCK_EN j) || !rangesMeet (s.lockLines k.val) (s.granting.lockLines j))
      = (List.range 8).all fun j => j == k.val || !s.flag (R.LOCK_EN j) || !rangesMeet (s.lockLines k.val) (s.lockLines j) :=
    all_range_congr fun j hj => by rw [s.flag_granting_of_addr (regToken_apart_mca.2 j hj).1, hlines j hj]
  simp only [lockFits, hlines k.val k.isLt, hwin]
  rw [hall]

end State

theorem mcaWindowEnable_eq (s : State) (k : Fin 4) (b : BitVec 15) (hreach : s.reachable (R.WIN_EN k.val).addr = true)
    (hoff : s.flag (R.WIN_EN k.val) = false) (hfits : (s.wr (R.WIN_BASE k.val) b.toNat).windowFits k.val = true) :
    exec (.mcaWindowEnable k b) s = .next ((s.granting.wr (R.WIN_BASE k.val) b.toNat).wr (R.WIN_EN k.val) 1) := by
  have hoff' : s.granting.flag (R.WIN_EN k.val) = false := by
    rw [s.flag_granting_of_addr (State.regToken_apart_mca.1 k.val k.isLt).1, hoff]
  have hsame : SameButAt R.REG_TOKEN.addr (s.wr (R.WIN_BASE k.val) b.toNat) (s.granting.wr (R.WIN_BASE k.val) b.toNat) :=
    (s.sameButAt_wr R.REG_TOKEN 1).wr _ _
  have hfits' : (s.granting.wr (R.WIN_BASE k.val) b.toNat).windowFits k.val = true := by
    rw [State.windowFits_congr (fun j hj => ?_) k, hfits]
    obtain ⟨hen, hbase, hsize⟩ := State.regToken_apart_mca.1 j hj
    exact ⟨hsame.rd hen.symm, hsame.rd hbase.symm, hsame.rd hsize.symm⟩
  refine congrArg Host.Outcome.next ((s.access_of_reachable _ _ hreach).trans ?_)
  simp -implicitDefEqProofs only [hoff', hfits', Bool.false_eq_true, if_false, if_true]

theorem mcaLockEnable_eq (s : State) (k : Fin 8) (hreach : s.reachable (R.LOCK_EN k.val).addr = true) (hoff : s.flag (R.LOCK_EN k.val) = false)
    (hfits : s.lockFits k.val = true) : exec (.mcaLockEnable k) s = .next (s.granting.wr (R.LOCK_EN k.val) 1) := by
  have hoff' : s.granting.flag (R.LOCK_EN k.val) = false := by
    rw [s.flag_granting_of_addr (State.regToken_apart_mca.2 k.val k.isLt).1, hoff]
  refine congrArg Host.Outcome.next ((s.access_of_reachable _ _ hreach).trans ?_)
  simp -implicitDefEqProofs only [hoff', s.lockFits_granting k, hfits, Bool.false_eq_true, if_false, if_true]

theorem lockLoad_eq (s : State) (k : Fin 8) (hreach : s.reachable (R.LOCK_LOAD k.val).addr = true) (hen : s.flag (R.LOCK_EN k.val) = true)
    (hidle : s.flag (R.LOCK_BUSY k.val) = false) : exec (.lockLoad k) s = .next (s.granting.wr (R.LOCK_BUSY k.val) 1) := by
  obtain ⟨henAddr, -, -, hbusyAddr⟩ := State.regToken_apart_mca.2 k.val k.isLt
  have hen' : s.granting.flag (R.LOCK_EN k.val) = true := by rw [s.flag_granting_of_addr henAddr, hen]
  have hidle' : s.granting.flag (R.LOCK_BUSY k.val) = false := by rw [s.flag_granting_of_addr hbusyAddr, hidle]
  refine congrArg Host.Outcome.next ((s.access_of_reachable _ _ hreach).trans ?_)
  simp -implicitDefEqProofs only [hen', hidle', Bool.not_true, Bool.or_self, Bool.false_eq_true, if_false]

/-! ### Lock ranges and windows undone (R261, R276) -/

namespace State

theorem lockFields (k : Fin 8) : (R.LOCK_EN k.val).fits = true ∧ (R.LOCK_BUSY k.val).fits = true
    ∧ (R.LOCK_BUSY k.val).apart (R.LOCK_EN k.val) = true ∧ R.PIPE_TOKEN.apart (R.LOCK_BUSY k.val) = true
    ∧ (R.PEND_BITS (57 / 32)).apart (R.LOCK_BUSY k.val) = true := by
  revert k
  decide

/-- R276: a lock range that is disabled loads no more. -/
theorem unlockRange_shows (s : State) (k : Fin 8) :
    (s.unlockRange k.val).flag (R.LOCK_EN k.val) = false ∧ (s.unlockRange k.val).flag (R.LOCK_BUSY k.val) = false := by
  obtain ⟨hen, hbusy, hapart, -⟩ := lockFields k
  refine ⟨?_, ?_⟩
  · rw [unlockRange, flag, rd_wr_apart _ _ _ _ hapart, rd_wr_same _ _ _ hen]
    rfl
  · rw [unlockRange, flag, rd_wr_same _ _ _ hbusy]
    rfl

theorem rd_foldl_kept {α : Type} {f : State → α → State} {g : Fld} {l : List α} (h : ∀ u, ∀ a ∈ l, (f u a).rd g = u.rd g) (s : State) :
    (l.foldl f s).rd g = s.rd g := by
  induction l generalizing s with
  | nil => rfl
  | cons a l ih => rw [List.foldl_cons, ih fun u b hb => h u b (by simp [hb]), h s a (by simp)]

theorem bookkeeping_apart (k : Fin 4) : R.LE_COUNT.apart (R.WIN_EN k.val) = true ∧ (R.PEND_BITS (59 / 32)).apart (R.WIN_EN k.val) = true
    ∧ ∀ j ∈ List.range 8, (R.LOCK_RESIDENT j).apart (R.WIN_EN k.val) = true := by
  revert k
  decide

/-- R289: the bookkeeping of a set stands apart from the windows. -/
theorem rd_refreshSet_window (s : State) (n : Nat) (k : Fin 4) : (s.refreshSet n).rd (R.WIN_EN k.val) = s.rd (R.WIN_EN k.val) := by
  have hbits : (R.LE_BITS (n / 32)).apart (R.WIN_EN k.val) = true := by
    have := k.isLt
    simp only [Fld.apart, R.LE_BITS, R.WIN_EN, Bool.or_eq_true, bne_iff_ne]
    omega
  obtain ⟨hcount, hpend, hres⟩ := bookkeeping_apart k
  unfold refreshSet
  extract_lets was now u v
  have hu : u.rd (R.WIN_EN k.val) = s.rd (R.WIN_EN k.val) := rd_putBitAt_apart _ _ _ _ _ hbits
  refine (rd_foldl_kept ?_ v).trans ?_
  · intro x j hj
    exact rd_wr_apart _ _ _ _ (hres j hj)
  simp only [v]
  split
  · rw [rd_raise _ _ _ hpend, rd_advance_apart _ _ _ _ hcount, hu]
  · split
    · rw [rd_wr_apart _ _ _ _ hcount, hu]
    · exact hu

/-- R276: a lock range that is disabled stands apart from the windows. -/
theorem rd_unlockRange_window (s : State) (j : Fin 8) (k : Fin 4) : (s.unlockRange j.val).rd (R.WIN_EN k.val) = s.rd (R.WIN_EN k.val) := by
  have hlock : (R.LOCK_EN j.val).apart (R.WIN_EN k.val) = true ∧ (R.LOCK_BUSY j.val).apart (R.WIN_EN k.val) = true := by
    revert j k
    decide
  rw [unlockRange, rd_wr_apart _ _ _ _ hlock.2, rd_wr_apart _ _ _ _ hlock.1]
  exact rd_foldl_kept (fun u e _ => (rd_refreshSet_window _ _ k).trans (rd_congr (putWay_regs ..) _)) s

/-! ### Range operations (R277 to R279) -/

/-- R263: a miss is booked in the cache's own record. -/
theorem miss_shows (s : State) (r : McReq) : (s.miss r).regs = s.regs ∧ (s.miss r).mca.evicting = s.mca.evicting
    ∧ (s.miss r).mca.range = s.mca.range := by
  rw [miss]
  split
  · exact ⟨rfl, rfl, rfl⟩
  · split <;> exact ⟨rfl, rfl, rfl⟩

theorem misses_show (s : State) (l : List McReq) : (l.foldl (fun s r => s.miss r) s).regs = s.regs
    ∧ (l.foldl (fun s r => s.miss r) s).mca.evicting = s.mca.evicting ∧ (l.foldl (fun s r => s.miss r) s).mca.range = s.mca.range := by
  induction l generalizing s with
  | nil => exact ⟨rfl, rfl, rfl⟩
  | cons r l ih =>
    obtain ⟨hregs, hevict, hrange⟩ := s.miss_shows r
    obtain ⟨hregs', hevict', hrange'⟩ := ih (s.miss r)
    exact ⟨hregs'.trans hregs, hevict'.trans hevict, hrange'.trans hrange⟩

/-- R278: what a range operation that starts shows. -/
theorem startRange_shows (s : State) (op line count : Nat) : (s.startRange op line count).flag R.RANGE_BUSY = true
    ∧ RegFrame s (s.startRange op line count) [R.RANGE_BUSY] ∧ (s.startRange op line count).mca.range = some ⟨op, line, count, s.mca.clock⟩ := by
  obtain ⟨u, heq, hregs, hrange⟩ : ∃ u : State, s.startRange op line count = u.wr R.RANGE_BUSY 1 ∧ u.regs = s.regs
      ∧ u.mca.range = some ⟨op, line, count, s.mca.clock⟩ := by
    refine ⟨_, rfl, ?_⟩
    split
    · exact ⟨rfl, rfl⟩
    · obtain ⟨hregs, -, hrange⟩ := misses_show _ _
      exact ⟨hregs, hrange⟩
  rw [heq]
  refine ⟨?_, (Machine.regFrame_wr (by simp)).mpr ((regFrame_congr hregs).mpr (regFrame_same s _)), by rw [wr_mca, hrange]⟩
  rw [flag, rd_wr_same _ _ _ (by decide)]
  rfl

/-- R277: CLEAN starts with nothing else of the cache changed. -/
theorem startRange_clean (s : State) (line count : Nat) :
    (s.startRange 0 line count).mca = { s.mca with range := some ⟨0, line, count, s.mca.clock⟩ } := rfl

/-- R279: the eviction buffer loses the lines of an operation other than CLEAN. -/
theorem startRange_evicting (s : State) {op line count : Nat} (hop : op ≠ 0) :
    ∀ e ∈ (s.startRange op line count).mca.evicting, e.line < line ∨ line + count ≤ e.line := by
  have hevict : (s.startRange op line count).mca.evicting =
      s.mca.evicting.filter fun e => !(decide (line ≤ e.line) && decide (e.line < line + count)) := by
    rw [startRange, wr_mca, if_neg hop]
    exact (misses_show _ _).2.1
  intro e he
  rw [hevict, List.mem_filter] at he
  obtain ⟨-, hout⟩ := he
  simp only [Bool.not_eq_true', Bool.and_eq_false_iff, decide_eq_false_iff_not] at hout
  omega

end State

theorem mcaWindowDisable_completes (s : State) (k : Fin 4) (hreach : s.reachable (R.WIN_EN k.val).addr = true)
    (hen : s.flag (R.WIN_EN k.val) = true) (hidle : s.flag R.RANGE_BUSY = false) :
    Completes (exec (.mcaWindowDisable k) s) fun t => t.flag (R.WIN_EN k.val) = false ∧ t.flag R.RANGE_BUSY = true := by
  have hen' : s.granting.flag (R.WIN_EN k.val) = true := by
    rw [s.flag_granting_of_addr (State.regToken_apart_mca.1 k.val k.isLt).1, hen]
  have hidle' : s.granting.flag R.RANGE_BUSY = false := by rw [s.flag_granting_of_addr (by decide), hidle]
  have hfields : (R.WIN_EN k.val).fits = true ∧ R.RANGE_BUSY.apart (R.WIN_EN k.val) = true := by
    clear hreach hen hen'
    revert k
    decide
  obtain ⟨u, b, n, heq, hu⟩ : ∃ (u : State) (b n : Nat), s.granting.closeWindow k.val = u.startRange 1 b n ∧ u.rd (R.WIN_EN k.val) = 0 := by
    refine ⟨_, _, _, rfl, ?_⟩
    rw [State.rd_foldl_kept (fun u j hj => ?_), State.rd_wr_same _ _ _ hfields.1, Nat.zero_mod]
    split
    · exact u.rd_unlockRange_window ⟨j, List.mem_range.mp hj⟩ k
    · rfl
  obtain ⟨hbusy, hframe, -⟩ := u.startRange_shows 1 b n
  refine .access hreach ?_
  rw [if_neg (by simp [hen']), if_neg (by simp [hidle']), heq]
  refine ⟨?_, hbusy⟩
  rw [State.flag, hframe _ (by simpa using hfields.2), hu]
  rfl

theorem mcaLockDisable_completes (s : State) (k : Fin 8) (hreach : s.reachable (R.LOCK_EN k.val).addr = true)
    (hen : s.flag (R.LOCK_EN k.val) = true) : Completes (exec (.mcaLockDisable k) s) fun t =>
    t.flag (R.LOCK_EN k.val) = false ∧ t.flag (R.LOCK_BUSY k.val) = false := by
  have hen' : s.granting.flag (R.LOCK_EN k.val) = true := by
    rw [s.flag_granting_of_addr (State.regToken_apart_mca.2 k.val k.isLt).1, hen]
  refine .access hreach ?_
  rw [if_pos hen']
  exact s.granting.unlockRange_shows k

theorem lockLoadComplete_completes (s : State) (k : Fin 8) (l : List (BitVec 28)) (hbusy : s.flag (R.LOCK_BUSY k.val) = true)
    (hdram : s.dom.dram = true) : Completes (exec (.lockLoadComplete k l) s) fun t =>
    t.flag (R.LOCK_BUSY k.val) = false ∧ t.linePending 57 = true ∧ t.rd R.PIPE_TOKEN = 0 := by
  obtain ⟨-, hfits, -, hpipe, hpend⟩ := State.lockFields k
  obtain ⟨u, heq⟩ : ∃ u : State, exec (.lockLoadComplete k l) s = .next (((u.wr (R.LOCK_BUSY k.val) 0).raise 57).grantPipe 2) :=
    ⟨_, congrArg Host.Outcome.next (if_neg (by simp [hbusy, hdram]))⟩
  rw [heq]
  refine .next ⟨?_, ?_, ?_⟩
  · rw [State.grantPipe, State.flag, State.rd_wr_apart _ _ _ _ hpipe, State.rd_raise _ _ _ hpend, State.rd_wr_same _ _ _ hfits]
    rfl
  · rw [State.grantPipe, State.linePending_wr_apart _ _ _ _ (by decide)]
    exact State.linePending_raise ..
  · rw [State.grantPipe, State.rd_wr_same _ _ _ (by decide)]
    rfl

/-! ### Range operations -/

namespace State

/-- R277: an operation that starts on a range of lines. -/
theorem rangeGo_starts (s : State) {op : Nat} (hop : op ≠ 3) (hidle : s.flag R.RANGE_BUSY = false)
    (hhalt : s.flag R.MAP_HALT = false ∨ op = 2) (hlines : s.rd R.RANGE_LINES ≠ 0) :
    s.granting.rangeGo op = (s.granting.wr R.RANGE_OP op).startRange op (s.rd R.RANGE_LINE) (s.rd R.RANGE_LINES) := by
  have hrd : ∀ g ∈ [R.RANGE_BUSY, R.MAP_HALT, R.RANGE_LINES, R.RANGE_LINE], (s.granting.wr R.RANGE_OP op).rd g = s.rd g := by
    intro g hg
    obtain ⟨hop, htoken⟩ := (show ∀ g ∈ [R.RANGE_BUSY, R.MAP_HALT, R.RANGE_LINES, R.RANGE_LINE], R.RANGE_OP.apart g = true
      ∧ R.REG_TOKEN.apart g = true by decide) g hg
    rw [rd_wr_apart _ _ _ _ hop, rd_wr_apart _ _ _ _ htoken]
  simp only [List.forall_mem_cons] at hrd
  obtain ⟨hbusy, hmap, hcount, hline, -⟩ := hrd
  have hgo : ((s.granting.wr R.RANGE_OP op).flag R.RANGE_BUSY || op == 3 || ((s.granting.wr R.RANGE_OP op).flag R.MAP_HALT && op != 2)) = false := by
    rw [flag, flag, hbusy, hmap, ← flag, ← flag, hidle]
    rcases hhalt with h | h <;> simp [h, hop]
  simp -implicitDefEqProofs only [rangeGo, hgo, hcount, hline, if_neg hlines, Bool.false_eq_true, if_false]

/-- R277: what the registers show of an operation that starts. -/
theorem rangeStarted_shows (s : State) {op : Nat} (hop : op < 3) (line count : Nat) :
    ((s.granting.wr R.RANGE_OP op).startRange op line count).flag R.RANGE_BUSY = true
      ∧ ((s.granting.wr R.RANGE_OP op).startRange op line count).rd R.RANGE_OP = op
      ∧ RegFrame s ((s.granting.wr R.RANGE_OP op).startRange op line count) [R.REG_TOKEN, R.RANGE_BUSY, R.RANGE_OP]
      ∧ ((s.granting.wr R.RANGE_OP op).startRange op line count).mca.range = some ⟨op, line, count, s.mca.clock⟩ := by
  obtain ⟨hbusy, hframe, hrange⟩ := (s.granting.wr R.RANGE_OP op).startRange_shows op line count
  have hgrant : RegFrame s (s.granting.wr R.RANGE_OP op) [R.REG_TOKEN, R.RANGE_BUSY, R.RANGE_OP] :=
    (Machine.regFrame_wr (by simp)).mpr ((Machine.regFrame_wr (by simp)).mpr (regFrame_same s _))
  refine ⟨hbusy, ?_, hgrant.trans (hframe.mono (by simp)), by rw [hrange, wr_mca, wr_mca]⟩
  rw [hframe _ (by decide), rd_wr_same _ _ _ (by decide)]
  exact Nat.mod_eq_of_lt (by simp [R.RANGE_OP]; omega)

end State

theorem rangeClean_completes (s : State) (hreach : s.reachable R.RANGE_GO.addr = true) (hidle : s.flag R.RANGE_BUSY = false)
    (hhalt : s.flag R.MAP_HALT = false) (hlines : s.rd R.RANGE_LINES ≠ 0) :
    Completes (exec .rangeClean s) fun t => t.flag R.RANGE_BUSY = true ∧ t.rd R.RANGE_OP = 0
      ∧ RegFrame s t [R.REG_TOKEN, R.RANGE_BUSY, R.RANGE_OP]
      ∧ t.mca = { s.mca with range := some ⟨0, s.rd R.RANGE_LINE, s.rd R.RANGE_LINES, s.mca.clock⟩ } := by
  obtain ⟨hbusy, hop, hframe, -⟩ := s.rangeStarted_shows (op := 0) (by decide) (s.rd R.RANGE_LINE) (s.rd R.RANGE_LINES)
  refine .access hreach ?_
  rw [s.rangeGo_starts (by decide) hidle (.inl hhalt) hlines]
  exact ⟨hbusy, hop, hframe, by rw [State.startRange_clean, State.wr_mca, State.wr_mca]⟩

theorem rangeInvalidate_completes (s : State) (hreach : s.reachable R.RANGE_GO.addr = true) (hidle : s.flag R.RANGE_BUSY = false)
    (hhalt : s.flag R.MAP_HALT = false) (hlines : s.rd R.RANGE_LINES ≠ 0) :
    Completes (exec .rangeInvalidate s) fun t => t.flag R.RANGE_BUSY = true ∧ t.rd R.RANGE_OP = 1
      ∧ RegFrame s t [R.REG_TOKEN, R.RANGE_BUSY, R.RANGE_OP]
      ∧ t.mca.range = some ⟨1, s.rd R.RANGE_LINE, s.rd R.RANGE_LINES, s.mca.clock⟩
      ∧ ∀ e ∈ t.mca.evicting, e.line < s.rd R.RANGE_LINE ∨ s.rd R.RANGE_LINE + s.rd R.RANGE_LINES ≤ e.line := by
  obtain ⟨hbusy, hop, hframe, hrange⟩ := s.rangeStarted_shows (op := 1) (by decide) (s.rd R.RANGE_LINE) (s.rd R.RANGE_LINES)
  refine .access hreach ?_
  rw [s.rangeGo_starts (by decide) hidle (.inl hhalt) hlines]
  exact ⟨hbusy, hop, hframe, hrange, State.startRange_evicting _ (by decide)⟩

theorem rangeDiscard_completes (s : State) (hreach : s.reachable R.RANGE_GO.addr = true) (hidle : s.flag R.RANGE_BUSY = false)
    (hlines : s.rd R.RANGE_LINES ≠ 0) :
    Completes (exec .rangeDiscard s) fun t => t.flag R.RANGE_BUSY = true ∧ t.rd R.RANGE_OP = 2
      ∧ RegFrame s t [R.REG_TOKEN, R.RANGE_BUSY, R.RANGE_OP]
      ∧ t.mca.range = some ⟨2, s.rd R.RANGE_LINE, s.rd R.RANGE_LINES, s.mca.clock⟩
      ∧ ∀ e ∈ t.mca.evicting, e.line < s.rd R.RANGE_LINE ∨ s.rd R.RANGE_LINE + s.rd R.RANGE_LINES ≤ e.line := by
  obtain ⟨hbusy, hop, hframe, hrange⟩ := s.rangeStarted_shows (op := 2) (by decide) (s.rd R.RANGE_LINE) (s.rd R.RANGE_LINES)
  refine .access hreach ?_
  rw [s.rangeGo_starts (by decide) hidle (.inr rfl) hlines]
  exact ⟨hbusy, hop, hframe, hrange, State.startRange_evicting _ (by decide)⟩

theorem rangeComplete_completes (s : State) (l : List (BitVec 28)) (h : s.mca.range.isSome = true) :
    Completes (exec (.rangeComplete l) s) fun t =>
      t.mca.range = none ∧ t.flag R.RANGE_BUSY = false ∧ t.linePending 56 = true ∧ t.rd R.PIPE_TOKEN = 0 := by
  obtain ⟨r, hr⟩ := Option.isSome_iff_exists.mp h
  obtain ⟨u, heq⟩ : ∃ u : State, s.rangeDone (l.map fun u => u.toNat) =
      (((u.modMca fun m => { m with range := none }).wr R.RANGE_BUSY 0).raise 56).grantPipe 2 := by
    rw [State.rangeDone, hr]
    exact ⟨_, rfl⟩
  change Completes (.next (s.rangeDone _)) _
  rw [heq, State.grantPipe]
  refine .next ⟨by rw [State.wr_mca, State.raise_mca, State.wr_mca, State.modMca_mca], ?_, ?_, ?_⟩
  · rw [State.flag, State.rd_wr_apart _ _ _ _ (by decide), State.rd_raise _ _ _ (by decide), State.rd_wr_same _ _ _ (by decide)]
    rfl
  · rw [State.linePending_wr_apart _ _ _ _ (by decide)]
    exact State.linePending_raise ..
  · rw [State.rd_wr_same _ _ _ (by decide)]
    rfl

theorem mapResume_completes (s : State) (hreach : s.reachable R.MAP_RESUME.addr = true) (hidle : s.flag R.RANGE_BUSY = false)
    (hhalt : s.flag R.MAP_HALT = true) (hnone : s.mca.halted = []) :
    Completes (exec .mapResume s) fun t => t.flag R.MAP_HALT = false ∧ RegFrame s t [R.REG_TOKEN, R.MAP_HALT] := by
  refine .access hreach ?_
  rw [s.flag_granting_of_addr (g := R.RANGE_BUSY) (by decide), s.flag_granting_of_addr (g := R.MAP_HALT) (by decide), State.wr_mca,
    hnone, if_neg (by simp [hidle, hhalt])]
  refine ⟨?_, ?_⟩
  · rw [List.foldl_nil, State.flag, State.rd_modMca, State.rd_wr_same _ _ _ (by decide)]
    rfl
  · rw [List.foldl_nil, regFrame_modMca]
    exact (regFrame_wr (by simp)).mpr ((regFrame_wr (by simp)).mpr (regFrame_same s _))

/-! ### Diagnostics (R288, R289) -/

namespace State

/-- R289: the selected entry as its result registers show it. -/
theorem diagEntry_shows (s : State) (line : Option Nat) (dirty locked : Bool) (data : Nat) (upset : Bool) :
    (s.diagEntry line dirty locked data upset).flag R.MC_DIAG_DONE = true
      ∧ (s.diagEntry line dirty locked data upset).flag R.MC_DIAG_VALID = line.isSome
      ∧ (s.diagEntry line dirty locked data upset).flag R.MC_DIAG_DIRTY = dirty
      ∧ (s.diagEntry line dirty locked data upset).flag R.MC_DIAG_PAR_ERR = upset
      ∧ RegsOnly s (s.diagEntry line dirty locked data upset)
      ∧ ∀ j < 32, (s.diagEntry line dirty locked data upset).rd (R.MC_DIAG_WORD j) = field data (32 * j) 32 := by
  have hwords := fun (u : State) (g : Fld) (hg : ∀ j ∈ List.range 32, (R.MC_DIAG_WORD j).apart g = true) =>
    u.rd_foldl_wr_apart R.MC_DIAG_WORD (fun j => field data (32 * j) 32) (List.range 32) hg
  rw [diagEntry]
  refine ⟨?_, ?_, ?_, ?_, ?_, fun j hj => ?_⟩
  · rw [flag, rd_wr_same _ _ _ (by decide)]
    rfl
  · rw [flag, rd_wr_apart _ _ _ _ (by decide), hwords _ _ (by decide), rd_wrFlag_apart _ _ _ _ (by decide),
      rd_wrFlag_apart _ _ _ _ (by decide), rd_wrFlag_apart _ _ _ _ (by decide), ← flag, flag_wrFlag_same _ _ _ (by decide)]
  · rw [flag, rd_wr_apart _ _ _ _ (by decide), hwords _ _ (by decide), rd_wrFlag_apart _ _ _ _ (by decide),
      rd_wrFlag_apart _ _ _ _ (by decide), ← flag, flag_wrFlag_same _ _ _ (by decide)]
  · rw [flag, rd_wr_apart _ _ _ _ (by decide), hwords _ _ (by decide), ← flag, flag_wrFlag_same _ _ _ (by decide)]
  · exact RegsOnly.wr (RegsOnly.foldl ((((((RegsOnly.refl s).wr _ _).wrFlag _ _).wrFlag _ _).wrFlag _ _).wrFlag _ _)
      (fun u j => (RegsOnly.refl u).wr _ _) _) _ _
  · have hapart : R.MC_DIAG_DONE.apart (R.MC_DIAG_WORD j) = true := (show ∀ j < 32, R.MC_DIAG_DONE.apart (R.MC_DIAG_WORD j) = true by decide) j hj
    rw [rd_wr_apart _ _ _ _ hapart, rd_foldl_wr (F := R.MC_DIAG_WORD) (v := fun j => field data (32 * j) 32) _ (by decide) (by decide)
      (List.mem_range.mpr hj)]
    exact Nat.mod_eq_of_lt (Nat.mod_lt _ (by decide))

end State

theorem mcDiagGo_completes (s : State) (i : BitVec 12) (w : Fin 16) (b : Bool) (hreach : s.reachable R.MC_DIAG_GO.addr = true) :
    Completes (exec (.mcDiagGo i w false b) s) fun t =>
      t.flag R.MC_DIAG_DONE = true ∧ t.flag R.MC_DIAG_VALID = (s.wayAt i.toNat w.val).line.isSome
        ∧ t.flag R.MC_DIAG_DIRTY = (s.wayAt i.toNat w.val).dirty ∧ t.flag R.MC_DIAG_PAR_ERR = b ∧ t.mca = s.mca
        ∧ ∀ j < 32, t.rd (R.MC_DIAG_WORD j) = field (s.wayAt i.toNat w.val).data (32 * j) 32 := by
  obtain ⟨u, heq, hmca⟩ : ∃ u : State, exec (.mcDiagGo i w false b) s = .next (u.diagEntry (u.wayAt i.toNat w.val).line
      (u.wayAt i.toNat w.val).dirty (u.wayAt i.toNat w.val).lock.isSome (u.wayAt i.toNat w.val).data b) ∧ u.mca = s.mca := by
    refine ⟨_, congrArg Host.Outcome.next ((s.access_of_reachable _ _ hreach).trans (if_neg Bool.false_ne_true)), ?_⟩
    rw [State.grantPipe, State.wr_mca, State.wrFlag_mca, State.wr_mca, State.wr_mca, State.wr_mca]
  obtain ⟨hdone, hvalid, hdirty, hpar, hregs, hword⟩ := u.diagEntry_shows (u.wayAt i.toNat w.val).line (u.wayAt i.toNat w.val).dirty
    (u.wayAt i.toNat w.val).lock.isSome (u.wayAt i.toNat w.val).data b
  have hway : u.wayAt i.toNat w.val = s.wayAt i.toNat w.val := State.wayAt_congr (congrArg _ hmca) _ _
  rw [heq]
  rw [hway] at hdone hvalid hdirty hpar hregs hword ⊢
  exact .next ⟨hdone, hvalid, hdirty, hpar, by rw [hregs, hmca], hword⟩

theorem mcCntClr_completes (s : State) (hreach : s.reachable R.MC_CNT_CLR.addr = true) : Completes (exec .mcCntClr s) fun t =>
    t.rd R.MC_HIT_CNT = 0 ∧ t.rd R.MC_MISS_CNT = 0 ∧ t.rd R.MC_RECALL_CNT = 0 ∧ t.rd R.MC_EVB_STALL_CNT = 0 ∧ t.rd R.MC_PF_ISSUE_CNT = 0
      ∧ t.rd R.MC_PF_USED_CNT = 0 ∧ t.rd R.MC_WB_CNT = 0 ∧ t.rd R.MC_PAR_CLEAN_CNT = 0 ∧ t.rd R.MC_PAR_DIRTY_CNT = 0
      ∧ t.rd R.MC_PF_DROP_CNT = 0 ∧ RegsOnly s t := by
  refine .access hreach ?_
  have hclear := s.granting.rd_clearAll (l := [R.MC_HIT_CNT, R.MC_MISS_CNT, R.MC_RECALL_CNT, R.MC_EVB_STALL_CNT,
    R.MC_PF_ISSUE_CNT, R.MC_PF_USED_CNT, R.MC_WB_CNT, R.MC_PAR_CLEAN_CNT, R.MC_PAR_DIRTY_CNT, R.MC_PF_DROP_CNT]) (by decide) (by decide)
  simp only [List.forall_mem_cons] at hclear
  obtain ⟨hhit, hmiss, hrecall, hstall, hissue, hused, hwb, hclean, hdirty, hdrop, -⟩ := hclear
  exact ⟨hhit, hmiss, hrecall, hstall, hissue, hused, hwb, hclean, hdirty, hdrop, ((RegsOnly.refl s).wr _ _).clearAll _⟩

end Sys2Proof.Machine

open Sys2Proof Sys2Proof.Machine in
/-- Settles O37: windows and lock ranges by what their tests read, range operations by what their start shows. -/
theorem mapCacheRangesComplete : Obligations.MapCacheRangesComplete := by
  unfold Obligations.MapCacheRangesComplete
  exact ⟨mcaWindowEnable_eq, mcaWindowDisable_completes, mcaLockEnable_eq, mcaLockDisable_completes, lockLoad_eq,
    lockLoadComplete_completes, rangeClean_completes, rangeInvalidate_completes, rangeDiscard_completes, rangeComplete_completes,
    mapResume_completes, mcDiagGo_completes, mcCntClr_completes⟩
end

section
/-!
Lemmas on the Abacus: what a bead, a result and a ladder step leave of its state.
-/
namespace Sys2Proof.Machine

open Sys2Proof.Arith

namespace State

/-! ### What the shared operations leave -/

/-- An LLR slot's change leaves the rest of the Abacus and the registers. -/
theorem modLlr_apart (s : State) (i : Nat) (f : LlrSlot → LlrSlot) :
    (s.modLlr i f).abx.beads = s.abx.beads ∧ (s.modLlr i f).abx.ladder = s.abx.ladder ∧ (s.modLlr i f).regs = s.regs := by
  unfold modLlr
  split <;> exact ⟨rfl, rfl, rfl⟩

theorem foldl_wr_abx {α : Type} (F : α → Fld) (v : α → Nat) (l : List α) (s : State) :
    (l.foldl (fun s a => s.wr (F a) (v a)) s).abx = s.abx := by
  induction l generalizing s with
  | nil => rfl
  | cons a l ih => rw [List.foldl_cons, ih, wr_abx]

theorem refreshAbx_abx (s : State) : s.refreshAbx.abx = s.abx := by
  unfold refreshAbx
  rw [foldl_wr_abx, wr_abx, wr_abx, wr_abx, wr_abx]

theorem rd_refreshAbx_token (s : State) : s.refreshAbx.rd R.BEAD_TOKEN = s.rd R.BEAD_TOKEN := by
  unfold refreshAbx
  rw [rd_foldl_wr_apart _ _ _ _ (by decide), rd_wr_apart _ _ _ _ (by decide), rd_wr_apart _ _ _ _ (by decide),
    rd_wr_apart _ _ _ _ (by decide), rd_wr_apart _ _ _ _ (by decide)]

theorem queueOp_abx (s : State) (o : MediaOp) : (s.queueOp o).abx = s.abx := by
  unfold queueOp
  rw [wr_abx]

/-! ### Beads -/

theorem startBead_shows (s : State) {b i j : Nat} {x : LlrSlot} {f : Framing}
    (hfree : (List.range s.usableBeads).find? (fun b => (Store.get none s.abx.beads b).isNone) = some b)
    (hnext : s.nextReady = some (i, x, j)) (hf : x.framings[j]? = some f) :
    Store.get none s.startBead.abx.beads b = some ⟨i, j, 0, min (s.rd R.BEAD_ITER) (f.budget - f.used)⟩
      ∧ s.startBead.rd R.BEAD_TOKEN = (x.stream + 1) % 8 := by
  unfold startBead
  rw [hfree, hnext]
  dsimp only
  rw [hf]
  constructor
  · rw [refreshAbx_abx, wr_abx, (modLlr_apart _ _ _).1]
    simp only [Store.get_put_same]
  · rw [rd_refreshAbx_token, rd_wr_same _ _ _ (by decide)]
    exact Nat.mod_mod ..

/-- An iteration that leaves checks unsatisfied short of the bead's limit: the bead goes on. -/
theorem iterationEnd_goesOn (s : State) (k : Nat) {r : Nat} (c : Codeword) {b : Bead} {x : LlrSlot} {f : Framing}
    (hf : x.framings[b.framing]? = some f) (hend : x.ending = false) (hmem : x.memErr = false) (hr : r ≠ 0) (hdone : b.done + 1 < b.limit) :
    Store.get none (s.iterationEnd k b x r c false).abx.beads k = some { b with done := b.done + 1 }
      ∧ (s.iterationEnd k b x r c false).regs = s.regs := by
  unfold iterationEnd
  rw [hf]
  dsimp only
  rw [if_neg Bool.false_ne_true, if_neg (by simp [hend]), if_neg (by simp [hmem]), if_neg hr, if_pos hdone]
  exact ⟨by simp only [Store.get_put_same], (modLlr_apart _ _ _).2.2⟩

/-! ### Results -/

theorem verdict_ok {x : LlrSlot} (h : (verdict x).ok = true) : (decoded (verdict x).f).1 % 2 ^ 48 = x.location := by
  unfold verdict at h ⊢
  generalize (if x.memErr then none else winner x) = w at h ⊢
  cases w with
  | none => simp at h
  | some f =>
    simp only [Option.isSome_some, Bool.true_and, Bool.and_eq_true, Bool.not_eq_true', bne_eq_false_iff_eq] at h
    simpa [field] using h.1

theorem result_shows (s : State) (i : Nat) (x : LlrSlot) (time : Nat) : ∃ d m,
    (s.result i x time).out.head? = some (.decodeResult x.dataAddr (framingWord x (verdict x).f) d m)
      ∧ (s.result i x time).rd R.LAST_DSW = d % 2 ^ 32 ∧ ((verdict x).ok = true → m % 2 ^ 48 = x.location) := by
  obtain ⟨t, d, m, heq, hm⟩ : ∃ t d m, s.result i x time
      = (State.wr t R.LAST_DSW d).emit (.decodeResult x.dataAddr (framingWord x (verdict x).f) d m)
        ∧ ((verdict x).ok = true → m = (decoded (verdict x).f).1) := by
    unfold result
    exact ⟨_, _, _, rfl, fun h => if_pos (by rw [h]; rfl)⟩
  refine ⟨d, m, ?_, ?_, fun h => ?_⟩
  · rw [heq]; rfl
  · rw [heq, rd_emit, rd_wr_same _ _ _ (by decide)]; rfl
  · rw [hm h]; exact verdict_ok h

/-! ### The ladder -/

theorem entryAtLoc_congr {s t : State} (h : t.abx.ladder = s.abx.ladder) (l : Nat) : t.entryAtLoc l = s.entryAtLoc l := by
  unfold entryAtLoc
  rw [h]

theorem entryAtLoc_location {s : State} {l : Nat} {e : Ladder} (h : s.entryAtLoc l = some e) : e.location = l := by
  unfold entryAtLoc at h
  simpa using List.find?_some h

/-- A change that keeps a ladder entry's location is read back there. -/
theorem entryAtLoc_modEntry {s : State} {l : Nat} {e : Ladder} (h : s.entryAtLoc l = some e) {f : Ladder → Ladder}
    (hf : ∀ e, (f e).location = e.location) : (s.modEntry l f).entryAtLoc l = some (f e) := by
  have hloc := entryAtLoc_location h
  unfold entryAtLoc at h
  unfold modEntry entryAtLoc
  have hkey : ((fun e : Ladder => e.location == l) ∘ fun e => if e.location = l then f e else e) = fun e => e.location == l := by
    funext e
    rw [Function.comp_apply]
    split
    · rw [hf]
    · rfl
  rw [List.find?_map, hkey, h, Option.map_some, if_pos hloc]

theorem stepStart_ladder (s : State) (e : Ladder) (k b time : Nat) : (s.stepStart e k b time).abx.ladder
    = (s.modEntry e.location fun e => { e with step := k, begun := b + 1, waiting := true }).abx.ladder := by
  unfold stepStart
  dsimp only
  split
  · split
    · rfl
    · rw [refreshAbx_abx, (modLlr_apart _ _ _).2.1]
  · rw [queueOp_abx]

/-! ### Recovery clocks -/

/-- No ladder entry, none ended by an expired clock. -/
theorem expire_of_empty {s : State} (h : s.abx.ladder = []) (key : Nat) : s.expire key = s := by
  unfold expire
  rw [h]
  rfl

theorem clockOf_expired {s t : State} {key : Nat} {c : RecoveryClock} (h : s.clockOf key = some c)
    (ht : t.abx.clocks = s.abx.clocks.map fun c => if c.key = key then { c with expired := true } else c) :
    t.clockOf key = some { c with expired := true } := by
  unfold clockOf at h ⊢
  have hkey : ((fun c : RecoveryClock => c.key == key) ∘ fun c => if c.key = key then { c with expired := true } else c)
      = fun c => c.key == key := by
    funext c
    rw [Function.comp_apply]
    split <;> rfl
  rw [ht, List.find?_map, hkey, h, Option.map_some, if_pos (by simpa using List.find?_some h)]

end State

/-! ### The clauses of the Abacus -/

theorem beadStart_completes (s : State) (b i j : Nat) (x : LlrSlot) (f : Framing) (hdom : s.dom.abx = true)
    (hfree : (List.range s.usableBeads).find? (fun b => (Store.get none s.abx.beads b).isNone) = some b)
    (hnext : s.nextReady = some (i, x, j)) (hf : x.framings[j]? = some f) : Completes (exec .beadStart s) fun t =>
      Store.get none t.abx.beads b = some ⟨i, j, 0, min (s.rd R.BEAD_ITER) (f.budget - f.used)⟩
        ∧ t.rd R.BEAD_TOKEN = (x.stream + 1) % 8 :=
  ⟨_, congrArg Host.Outcome.next (if_pos hdom), s.startBead_shows hfree hnext hf⟩

theorem beadIterationEnd_completes (s : State) (k : Fin 48) (r : BitVec 13) (c : Codeword) (b : Bead) (x : LlrSlot) (f : Framing)
    (hb : Store.get none s.abx.beads k.val = some b) (hx : Store.get none s.abx.llr b.slot = some x)
    (hf : x.framings[b.framing]? = some f) (hend : x.ending = false) (hmem : x.memErr = false) (hr : r ≠ 0)
    (hdone : b.done + 1 < b.limit) : Completes (exec (.beadIterationEnd k r c false) s) fun t =>
      Store.get none t.abx.beads k.val = some { b with done := b.done + 1 } ∧ t.regs = s.regs := by
  change Completes (execBeadIterationEnd k r c false s) _
  unfold execBeadIterationEnd
  rw [hb]
  dsimp only
  rw [hx]
  dsimp only
  rw [Bool.false_and, if_neg Bool.false_ne_true]
  exact .next (s.iterationEnd_goesOn k.val c hf hend hmem (fun h => hr (BitVec.eq_of_toNat_eq h)) hdone)

theorem decodeResult_completes (s : State) (i : Fin 384) (a : BitVec 64) (x : LlrSlot) (hx : Store.get none s.abx.llr i.val = some x)
    (hset : s.settled i.val x = true) : Completes (exec (.decodeResult i a) s) fun t => ∃ d m, t.out.head? =
      some (.decodeResult x.dataAddr (State.framingWord x (State.verdict x).f) d m) ∧ t.rd R.LAST_DSW = d % 2 ^ 32
        ∧ ((State.verdict x).ok = true → m % 2 ^ 48 = x.location) := by
  change Completes (execDecodeResult i a s) _
  unfold execDecodeResult
  rw [hx]
  dsimp only
  rw [if_pos hset]
  exact .next (s.result_shows i.val x a.toNat)

theorem ladderStepStart_completes (s : State) (l : BitVec 41) (a : BitVec 64) (e : Ladder) (k b : Nat)
    (he : s.entryAtLoc l.toNat = some e) (hwait : e.waiting = false) (hnext : s.nextStep e = some (k, b)) :
    Completes (exec (.ladderStepStart l a) s) fun t =>
      t.entryAtLoc l.toNat = some { e with step := k, begun := b + 1, waiting := true } := by
  change Completes (execLadderStepStart l a s) _
  unfold execLadderStepStart
  rw [he]
  dsimp only
  rw [if_neg (by simp [hwait]), hnext]
  refine .next ?_
  have hladder := s.stepStart_ladder e k b a.toNat
  rw [State.entryAtLoc_location he] at hladder
  rw [State.entryAtLoc_congr hladder]
  exact State.entryAtLoc_modEntry he (f := fun e => { e with step := k, begun := b + 1, waiting := true }) fun _ => rfl

theorem recoveryLimitExpiry_completes (s : State) (l : BitVec 41) (m : BitVec 32) (c : RecoveryClock)
    (hc : s.clockOf (2 * l.toNat + 1) = some c) (hexp : c.expired = false) (hlimit : c.limitMs ≤ m.toNat) (hempty : s.abx.ladder = []) :
    Completes (exec (.recoveryLimitExpiry none l m) s) fun t =>
      t.clockOf (2 * l.toNat + 1) = some { c with expired := true } ∧ t.regs = s.regs := by
  change Completes (execRecoveryLimitExpiry none l m s) _
  unfold execRecoveryLimitExpiry
  dsimp only
  rw [hc]
  dsimp only
  rw [if_neg (by simp [hexp, hlimit]), State.expire_of_empty (by exact hempty)]
  exact .next ⟨State.clockOf_expired hc rfl, rfl⟩

theorem abxMemoryError_eq (s : State) (i : Fin 384) (hdom : s.dom.abx = true) :
    exec (.abxMemoryError i true) s = .next (s.detect 128)
      ∧ exec (.abxMemoryError i false) s = .next ((s.modLlr i.val fun x => { x with memErr := true }).detect 129) := by
  have hdom' : ¬ (!s.dom.abx) = true := by simp [hdom]
  exact ⟨congrArg Host.Outcome.next ((if_neg hdom').trans (if_pos rfl)),
    congrArg Host.Outcome.next ((if_neg hdom').trans (if_neg Bool.false_ne_true))⟩

theorem abxCntClr_completes (s : State) (hreach : s.reachable R.ABX_CNT_CLR.addr = true) : Completes (exec .abxCntClr s) fun t =>
    t.rd R.CW_DECODED = 0 ∧ t.rd R.CW_FAIL0 = 0 ∧ t.rd R.UNREC_CNT = 0 ∧ t.rd R.DL_MISS_CNT = 0 ∧ t.rd R.BP_SKIP_CNT = 0
      ∧ t.rd R.CRC_FAIL_CNT = 0 ∧ t.rd R.RCV_OK1 = 0 ∧ t.rd R.RCV_OK6 = 0 ∧ (∀ k < 8, t.rd (R.ITER_HIST k) = 0) ∧ RegsOnly s t := by
  refine .access hreach ?_
  have hclear := s.granting.rd_clearAll (l := [R.CW_DECODED, R.CW_FAIL0, R.UNREC_CNT, R.DL_MISS_CNT, R.BP_SKIP_CNT,
    R.NO_COMBINE_CNT, R.CRC_FAIL_CNT, R.LOC_MISMATCH_CNT, R.ERASE_LIMIT_CNT, R.MEM_ERR_CNT]
    ++ [1, 2, 3, 4, 5, 6].map State.recoveredAt ++ (List.range 8).map fun k => R.ITER_HIST k) (by decide) (by decide)
  refine ⟨hclear _ (by decide), hclear _ (by decide), hclear _ (by decide), hclear _ (by decide), hclear _ (by decide),
    hclear _ (by decide), hclear _ (by decide), hclear _ (by decide), fun k hk => hclear _ ?_, ((RegsOnly.refl s).wr _ _).clearAll _⟩
  exact List.mem_append_right _ (List.mem_map_of_mem (List.mem_range.mpr hk))

end Sys2Proof.Machine

open Sys2Proof Sys2Proof.Machine in
/-- Settles O25: a bead's start, iteration and result by what the Abacus then holds, a ladder step by its location's entry. -/
theorem abacusCommandsComplete : Obligations.AbacusCommandsComplete := by
  unfold Obligations.AbacusCommandsComplete
  exact ⟨beadStart_completes, beadIterationEnd_completes, decodeResult_completes, ladderStepStart_completes,
    recoveryLimitExpiry_completes, abxMemoryError_eq, abxCntClr_completes⟩
end

section
/-!
Commands in flight: what ending one leaves, and the command a tag names.
-/
namespace Sys2Proof.Machine

open Sys2Proof.Arith

namespace State

/-! ### The command that holds a tag -/

theorem cmd_congr {s t : State} (h : t.hosts.cmds = s.hosts.cmds) (g : Nat) : t.cmd g = s.cmd g := by
  unfold cmd
  rw [h]

theorem cmd_tag {s : State} {g : Nat} {c : Cmd} (h : s.cmd g = some c) : c.tag = g := by
  unfold cmd at h
  simpa using List.find?_some h

/-- A change that keeps the command's tag is read back there. -/
theorem cmd_modCmd {s : State} {g : Nat} {c : Cmd} (h : s.cmd g = some c) {f : Cmd → Cmd} (hf : ∀ c, (f c).tag = c.tag) :
    (s.modCmd g f).cmd g = some (f c) := by
  have htag := cmd_tag h
  unfold cmd at h
  unfold modCmd cmd
  have hkey : ((fun c : Cmd => c.tag == g) ∘ fun c => if c.tag = g then f c else c) = fun c => c.tag == g := by
    funext c
    rw [Function.comp_apply]
    split
    · rw [hf]
    · rfl
  rw [List.find?_map, hkey, h, Option.map_some, if_pos htag]

/-- The same, the change made by the command's own tag. -/
theorem cmd_modCmd_tag {s : State} {g : Nat} {c : Cmd} (h : s.cmd g = some c) {f : Cmd → Cmd} (hf : ∀ c, (f c).tag = c.tag) :
    (s.modCmd c.tag f).cmd g = some (f c) := by
  rw [cmd_tag h, cmd_modCmd h hf]

/-! ### Ending a command -/

/-- A command that has not ended ends as it is told. -/
theorem endedAs_finish {s : State} {g : Nat} {c : Cmd} (h : s.cmd g = some c) (hdone : c.done = none) (d : Done) :
    (s.finish g d).endedAs g d := by
  refine ⟨_, cmd_modCmd h (f := fun c => if c.done.isSome then c else { c with done := some d }) fun c => ?_, ?_⟩
  · split <;> rfl
  · simp [hdone]

theorem finish_out (s : State) (g : Nat) (d : Done) : (s.finish g d).out = s.out := rfl
theorem finish_media (s : State) (g : Nat) (d : Done) : (s.finish g d).media = s.media := rfl
theorem finish_nv (s : State) (g : Nat) (d : Done) : (s.finish g d).nv = s.nv := rfl

/-- A command found by its tag that returns a data structure: it ends, and the structure goes out. -/
theorem returnFields_shows {s : State} {g : Nat} {c : Cmd} (h : s.cmd g = some c) (hdone : c.done = none) (l : List (String × Nat))
    (dw0 : Nat) : (s.returnFields c l dw0).endedAs g { doneOk with dw0 := dw0 }
      ∧ (s.returnFields c l dw0).out = .fields c.port c.req.cid l :: s.out ∧ (s.returnFields c l dw0).regs = s.regs := by
  unfold returnFields
  rw [cmd_tag h]
  exact ⟨endedAs_finish (s := s.emit _) h hdone _, rfl, rfl⟩

/-! ### The dispatch of a command by its tag -/

theorem onCmd_of_live {s : State} {g : BitVec 13} {ok : Cmd → Bool} {c : Cmd} (h : s.live g ok c) (f : Cmd → State) :
    s.onCmd g.toNat ok f = f c := by
  obtain ⟨hcmd, hdone, hok⟩ := h
  unfold onCmd
  rw [hcmd]
  exact if_pos (by rw [hdone, hok]; rfl)

theorem onSas_of_scsi {s : State} {g : BitVec 13} {ops : List Nat} {c : Cmd} (h : s.scsi g ops c) (f : Cmd → State) :
    s.onSas g.toNat ops f = f c := onCmd_of_live h f

theorem onAdmin_of_cmd {s : State} {g : Nat} {c : Cmd} {op : Nat} (h : s.cmd g = some c) (hport : c.port < 4) (hqueue : c.req.queue = 0)
    (hop : c.req.opcode = op) (hdone : c.done = none) (f : Cmd → State) : s.onAdmin g op f = f c := by
  unfold onAdmin
  rw [h]
  exact if_pos ⟨hport, hqueue, hop, by rw [hdone]; rfl⟩

end State

/-! ### The SCSI commands that report -/

/-- A SCSI command that only ends. -/
theorem finish_completes {s : State} {g : BitVec 13} {ok : Cmd → Bool} {c : Cmd} (h : s.live g ok c) (d : Done) :
    (s.finish c.tag d).endedAs g.toNat d := by
  obtain ⟨hcmd, hdone, -⟩ := h
  rw [State.cmd_tag hcmd]
  exact State.endedAs_finish hcmd hdone d

theorem testUnitReady_completes (s : State) (g : BitVec 13) (c : Cmd) (h : s.scsi g [0x00] c) :
    Completes (exec (.testUnitReady g) s) fun t => t.regs = s.regs
      ∧ t.endedAs g.toNat (if s.pm.sasStopped.testBit (c.port - 4) then doneSense 0 2 4 2 else doneOk) :=
  ⟨_, congrArg Host.Outcome.next (State.onSas_of_scsi h _), rfl, finish_completes h _⟩

theorem takeUa_apart (s : State) (k : Nat) : (s.takeUa k).hosts.cmds = s.hosts.cmds ∧ (s.takeUa k).out = s.out := by
  unfold State.takeUa
  split <;> exact ⟨rfl, rfl⟩

theorem requestSense_completes (s : State) (g : BitVec 13) (c : Cmd) (u : Nat) (h : s.scsi g [0x03] c)
    (hua : s.nextUa (32 * (c.port - 4) + c.req.queue) = some u) : Completes (exec (.requestSense g) s) fun t =>
      t.endedAs g.toNat doneOk ∧ t.out = .fields c.port c.req.cid
        [("DESCRIPTOR", s.modeValue 0x0A 0 (c.req.ns - 1)), ("KEY", 6), ("ASC", u / 256), ("ASCQ", u % 256)] :: s.out := by
  refine ⟨_, congrArg Host.Outcome.next (State.onSas_of_scsi h _), ?_⟩
  obtain ⟨hcmd, hdone, -⟩ := h
  obtain ⟨hcmds, hout⟩ := takeUa_apart s (32 * (c.port - 4) + c.req.queue)
  unfold State.requestSense
  dsimp only
  rw [hua]
  dsimp only
  obtain ⟨hend, hsent, -⟩ := State.returnFields_shows ((State.cmd_congr hcmds _).trans hcmd) hdone
    [("DESCRIPTOR", s.modeValue 0x0A 0 (c.req.ns - 1)), ("KEY", 6), ("ASC", u / 256), ("ASCQ", u % 256)] 0
  exact ⟨hend, hsent.trans (by rw [hout])⟩

theorem inquiry_completes (s : State) (g : BitVec 13) (c : Cmd) (h : s.scsi g [0x12] c) (hevpd : c.req.cdw10 % 2 = 0) :
    Completes (exec (.inquiry g) s) fun t => t.endedAs g.toNat doneOk
      ∧ t.out = .fields c.port c.req.cid (s.deviceType c.req.ns) :: s.out ∧ t.regs = s.regs :=
  ⟨_, congrArg Host.Outcome.next ((State.onSas_of_scsi h _).trans (if_pos (.inl hevpd))), State.returnFields_shows h.1 h.2.1 _ 0⟩

theorem modeSensePages_of_informational {c : Cmd} (h : c.req.cdw10 % 64 = 0x1C) : State.modeSensePages c = [0x1C] := by
  unfold State.modeSensePages
  rw [h]
  rfl

theorem modeSense_completes (s : State) (g : BitVec 13) (c : Cmd) (h : s.scsi g [0x1A, 0x5A] c) (hpage : c.req.cdw10 % 64 = 0x1C) :
    Completes (exec (.modeSense g) s) fun t => t.endedAs g.toNat doneOk ∧ t.regs = s.regs
      ∧ ∃ l, t.out = .fields c.port c.req.cid (("PAGE", 0x1C) :: l) :: s.out := by
  refine ⟨_, congrArg Host.Outcome.next (State.onSas_of_scsi h _), ?_⟩
  unfold State.modeSense
  rw [modeSensePages_of_informational hpage]
  obtain ⟨hend, hout, hregs⟩ := State.returnFields_shows h.1 h.2.1 _ 0
  exact ⟨hend, hregs, _, hout⟩

theorem readCapacity_completes (s : State) (g : BitVec 13) (c : Cmd) (n : Namespace) (h : s.scsi g [0x25, 0x9E] c)
    (hns : s.namespaceOf c.req.ns = some n) : Completes (exec (.readCapacity g) s) fun t => t.endedAs g.toNat doneOk ∧ t.regs = s.regs
      ∧ t.out = .fields c.port c.req.cid
        [("LAST_LBA", n.size - 1), ("BLOCK_LENGTH", 4096), ("LBPME", ofBool !n.zoned), ("LBPRZ", ofBool !n.zoned)] :: s.out := by
  refine ⟨_, congrArg Host.Outcome.next (State.onSas_of_scsi h _), ?_⟩
  unfold State.readCapacity
  rw [hns]
  obtain ⟨hend, hout, hregs⟩ := State.returnFields_shows h.1 h.2.1
    [("LAST_LBA", n.size - 1), ("BLOCK_LENGTH", 4096), ("LBPME", ofBool !n.zoned), ("LBPRZ", ofBool !n.zoned)] 0
  exact ⟨hend, hregs, hout⟩

theorem logSense_completes (s : State) (g : BitVec 13) (c : Cmd) (h : s.scsi g [0x4D] c) (hpage : c.req.cdw10 % 64 = 0x2F) :
    Completes (exec (.logSense g) s) fun t =>
      t.endedAs g.toNat doneOk ∧ t.out = .fields c.port c.req.cid [("TEMPERATURE", s.compositeTemp)] :: s.out := by
  refine ⟨_, congrArg Host.Outcome.next (State.onSas_of_scsi h _), ?_⟩
  unfold State.logSense
  dsimp only
  rw [hpage, if_neg (by decide), if_neg (by decide), if_neg (by decide), if_pos rfl]
  obtain ⟨hend, hout, -⟩ := State.returnFields_shows h.1 h.2.1 [("TEMPERATURE", s.compositeTemp)] 0
  exact ⟨hend, hout⟩

theorem reportLuns_completes (s : State) (g : BitVec 13) (c : Cmd) (h : s.scsi g [0xA0] c) : Completes (exec (.reportLuns g) s) fun t =>
    t.endedAs g.toNat doneOk ∧ t.out = .fields c.port c.req.cid (s.nv.namespaces.map fun e => ("LUN", e.1 - 1)) :: s.out := by
  refine ⟨_, congrArg Host.Outcome.next (State.onSas_of_scsi h _), ?_⟩
  obtain ⟨hend, hout, -⟩ := State.returnFields_shows h.1 h.2.1 (s.allNamespaces.map fun n => ("LUN", n - 1)) 0
  exact ⟨hend, hout.trans (by rw [State.allNamespaces, List.map_map]; rfl)⟩

theorem reportSupportedOpcodes_completes (s : State) (g : BitVec 13) (c : Cmd) (h : s.scsi g [0xA3] c) :
    Completes (exec (.reportSupportedOpcodes g) s) fun t => t.endedAs g.toNat doneOk
      ∧ t.out = .fields c.port c.req.cid (State.scsiOpcodes.map fun o => ("OPCODE", o)) :: s.out := by
  refine ⟨_, congrArg Host.Outcome.next (State.onSas_of_scsi h _), ?_⟩
  obtain ⟨hend, hout, -⟩ := State.returnFields_shows h.1 h.2.1 (State.scsiOpcodes.map fun o => ("OPCODE", o)) 0
  exact ⟨hend, hout⟩

theorem readBuffer_completes (s : State) (g : BitVec 13) (c : Cmd) (h : s.scsi g [0x3C] c) (hmode : c.req.cdw10 = 0x0E)
    (hofs : c.req.cdw11 % 4096 = 0) (hlen : c.req.cdw12 = 4096) : Completes (exec (.readBuffer g) s) fun t => t.endedAs g.toNat doneOk
      ∧ t.out = .readData c.port c.req.cid 0 [Store.get 0 s.hosts.fwStage (c.port * 65536 + c.req.cdw11 / 4096)] :: s.out := by
  refine ⟨_, congrArg Host.Outcome.next (State.onSas_of_scsi h _), ?_⟩
  unfold State.readBuffer
  rw [if_neg (by simp [hmode, hofs, hlen]), hlen]
  dsimp only
  have hlist (b : Nat) : (List.range (4096 / 4096)).map (fun i => Store.get 0 s.hosts.fwStage (b + i)) = [Store.get 0 s.hosts.fwStage b] := by
    simp
  rw [hlist]
  exact ⟨finish_completes (s := s.emit _) (ok := fun _ => true) ⟨h.1, h.2.1, rfl⟩ _, rfl⟩

theorem scsiInvalidOpcode_completes (s : State) (g : BitVec 13) (c : Cmd)
    (h : s.live g (fun c => decide (4 ≤ c.port) && !s.scsiAccepted c.req) c) :
    Completes (exec (.scsiInvalidOpcode g) s) fun t => t.endedAs g.toNat invalidOpcode ∧ t.regs = s.regs :=
  ⟨_, congrArg Host.Outcome.next (State.onCmd_of_live h _), finish_completes h _, rfl⟩

end Sys2Proof.Machine

open Sys2Proof Sys2Proof.Machine in
/-- Settles O20: each command that reports sends its data structure and ends. -/
theorem scsiReportsComplete : Obligations.ScsiReportsComplete := by
  unfold Obligations.ScsiReportsComplete
  exact ⟨testUnitReady_completes, requestSense_completes, inquiry_completes, modeSense_completes, readCapacity_completes,
    logSense_completes, reportLuns_completes, reportSupportedOpcodes_completes, readBuffer_completes, scsiInvalidOpcode_completes⟩
end

section
/-!
The NVMe and SCSI commands that deallocate (O16, O21) or open a zone (O17, O22): a barrier that has not started holds its own
command (R213), whatever the hazard table and the buffer hold, so that no block of it is deallocated and no zone opened.
-/
namespace Sys2Proof.Machine

open Sys2Proof.Arith

namespace State

/-- A barrier that has not started holds itself. -/
theorem barrierHolds_of_notStarted (s : State) {c : Cmd} (hin : c.inHzt = true) (hbar : c.barrier = true) (hstart : c.started = false) :
    s.barrierHolds c = true := by
  simp [barrierHolds, hin, hbar, hstart]

/-- A command that a barrier holds deallocates nothing, where its ranges name a block. -/
theorem deallocateAll_of_barred {s : State} {c : Cmd} (h : s.barrierHolds c = true) {b n : Nat} (hn : 0 < n) :
    s.deallocateAll c [(b, n)] = s := by
  unfold deallocateAll
  have hheld : ([(b, n)].any fun p => (List.range p.2).any fun i => s.blockHeld c (p.1 + i)) = true := by
    simp only [List.any_cons, List.any_nil, Bool.or_false, List.any_eq_true, List.mem_range]
    exact ⟨0, hn, by simp [blockHeld, h]⟩
  simp [hheld]

/-- A zone command on one zone that a barrier holds leaves the zone as it is, where the zone has a block. -/
theorem zoneCmd_of_barred {s : State} {c : Cmd} {n : Namespace} (h : s.barrierHolds c = true) (hns : s.namespaceOf c.req.ns = some n)
    (hzoned : n.zoned = true) (hblocks : 0 < n.zoneBlocks) (hmtu : s.mtuRuns = true) (hall : c.req.all = false) (action : Nat) :
    s.zoneCmd c action = s := by
  unfold zoneCmd
  rw [hns]
  dsimp only
  have hheld : ((List.range n.zoneBlocks).any fun i => s.blockHeld c (zoneOf n c.req.lba * n.zoneBlocks + i)) = true :=
    List.any_eq_true.mpr ⟨0, List.mem_range.mpr hblocks, by simp [blockHeld, h]⟩
  rw [if_neg (by simp [hzoned]), if_neg (by simp [hmtu]), if_neg (by simp [hall]), if_pos hheld]

/-- A core that runs, its hold-up sound, with the command `c` alone in flight and the hazard table empty. -/
def withCommand (c : Cmd) : State :=
  { State.reset.wr R.HOLDUP_OK 1 with dom := { aon := true, core := true }, hosts := { cmds := [c] } }

theorem withCommand_receives (c : Cmd) : (withCommand c).mayReceive = true := by
  have hflag (f : Fld) : (withCommand c).flag f = (State.reset.wr R.HOLDUP_OK 1).flag f := rfl
  have hcore : (withCommand c).dom.core = true := rfl
  have hreset : (withCommand c).boot.deviceReset = false := rfl
  simp only [mayReceive, mtuRuns, cmuRunning, hflag, hcore, hreset]
  decide

theorem withCommand_journalRoom (c : Cmd) : (withCommand c).journalRoom = true := by
  have hbytes : (withCommand c).entryBytes < 8 * 2 ^ 20 + 1 := Nat.mod_lt _ (by decide)
  have htail : (withCommand c).media.tailBytes = 0 := rfl
  simp only [journalRoom, htail, decide_eq_true_eq]
  omega

/-- A zoned namespace of one zone of 32,768 blocks. -/
def oneZone : Namespace := { zoned := true, size := 32768, zoneBlocks := 32768 }

/-- A core that runs, with the command `c` alone in flight and the one zone of namespace 1 Closed. -/
def withZone (c : Cmd) : State :=
  { withCommand c with nv := { namespaces := [(1, some oneZone)] }, media := { tables := { zones := [(2 ^ 32, { cond := .closed })] } } }

theorem withZone_mtuRuns (c : Cmd) : (withZone c).mtuRuns = true := by
  have hflag (f : Fld) : (withZone c).flag f = (State.reset.wr R.HOLDUP_OK 1).flag f := rfl
  have hcore : (withZone c).dom.core = true := rfl
  simp only [mtuRuns, hflag, hcore]
  decide

theorem withZone_journalRoom (c : Cmd) : (withZone c).journalRoom = true := by
  have hbytes : (withZone c).entryBytes < 8 * 2 ^ 20 + 1 := Nat.mod_lt _ (by decide)
  have htail : (withZone c).media.tailBytes = 0 := rfl
  simp only [journalRoom, htail, decide_eq_true_eq]
  omega

end State

/-- A Dataset Management command that deallocates 16 blocks, as a barrier that has not started. -/
def barredTrim : Cmd :=
  { tag := 0, port := 0, arrival := 0, shared := false, req := { opcode := 9, queue := 1, cdw11 := 4, ranges := [(0, 16)] }
    barrier := true, inHzt := true }

/-- An UNMAP of 16 blocks, as a barrier that has not started. -/
def barredUnmap : Cmd :=
  { tag := 0, port := 4, arrival := 0, shared := false, req := { opcode := 0x42, ranges := [(0, 16)] }, barrier := true, inHzt := true }

/-- A Zone Management Send that opens a zone, as a barrier that has not started. -/
def barredOpen : Cmd :=
  { tag := 0, port := 0, arrival := 0, shared := false, req := { opcode := 0x79, queue := 1, ns := 1, cdw13 := 3 }
    barrier := true, inHzt := true }

/-- An OPEN ZONE, as a barrier that has not started. -/
def barredOpenSas : Cmd :=
  { tag := 0, port := 4, arrival := 0, shared := false, req := { opcode := 0x94, action := 3, ns := 1 }, barrier := true, inHzt := true }

/-- The barrier of a Dataset Management command holds it: it does not end. -/
theorem datasetManagement_of_barred : exec (.datasetManagement 0) (State.withCommand barredTrim) = .next (State.withCommand barredTrim) :=
  congrArg Host.Outcome.next (State.deallocateAll_of_barred (s := State.withCommand barredTrim) (c := barredTrim)
    (State.barrierHolds_of_notStarted _ rfl rfl rfl) (b := 0) (n := 16) (by decide))

/-- The barrier of an UNMAP holds it: it does not end. -/
theorem unmap_of_barred : exec (.unmap 0) (State.withCommand barredUnmap) = .next (State.withCommand barredUnmap) :=
  congrArg Host.Outcome.next (State.deallocateAll_of_barred (s := State.withCommand barredUnmap) (c := barredUnmap)
    (State.barrierHolds_of_notStarted _ rfl rfl rfl) (b := 0) (n := 16) (by decide))

/-- The barrier of a Zone Management Send holds it: it does not end. -/
theorem zoneOpen_of_barred : exec (.zoneOpen 0) (State.withZone barredOpen) = .next (State.withZone barredOpen) :=
  congrArg Host.Outcome.next ((State.onCmd_of_live (c := barredOpen) ⟨rfl, rfl, by decide⟩ _).trans
    (State.zoneCmd_of_barred (State.barrierHolds_of_notStarted _ rfl rfl rfl) (n := State.oneZone) rfl rfl (by decide)
      (State.withZone_mtuRuns _) rfl 3))

/-- The barrier of an OPEN ZONE holds it: it does not end. -/
theorem openZone_of_barred : exec (.openZone 0) (State.withZone barredOpenSas) = .next (State.withZone barredOpenSas) :=
  congrArg Host.Outcome.next ((State.onSas_of_scsi (c := barredOpenSas) ⟨rfl, rfl, by decide⟩ _).trans ((if_pos rfl).trans
    (State.zoneCmd_of_barred (State.barrierHolds_of_notStarted _ rfl rfl rfl) (n := State.oneZone) rfl rfl (by decide)
      (State.withZone_mtuRuns _) rfl 3)))

/-- A state whose only command has not ended shows no end of it. -/
theorem not_endedAs_of_cmds {s : State} {c : Cmd} (hs : s.hosts.cmds = [c]) (htag : c.tag = 0) (hdone : c.done = none) (d : Done) :
    ¬ s.endedAs 0 d := by
  rintro ⟨c', hcmd, hd⟩
  have hc : s.cmd 0 = some c := by
    unfold State.cmd
    simp [hs, htag]
  rw [hc, Option.some.injEq] at hcmd
  subst hcmd
  simp [hdone] at hd

end Sys2Proof.Machine

open Sys2Proof Sys2Proof.Machine in
/-- Refutes O16: a Dataset Management command that is a barrier not yet started holds itself (R213) and does not end, while the
hazard table is empty, no other command is in flight and buffer and journal have room. -/
theorem not_nvmeIoCompletes : ¬ Obligations.NvmeIoCompletes := by
  unfold Obligations.NvmeIoCompletes
  rintro ⟨-, -, -, -, -, -, -, hdealloc, -⟩
  obtain ⟨t, ht, hended, -⟩ := hdealloc (State.withCommand barredTrim) 0 barredTrim ⟨rfl, rfl, rfl⟩ rfl rfl rfl rfl rfl
    (State.withCommand_receives _) (State.withCommand_journalRoom _) (by decide)
  rw [datasetManagement_of_barred, Host.Outcome.next.injEq] at ht
  subst ht
  exact not_endedAs_of_cmds (c := barredTrim) rfl rfl rfl _ hended

open Sys2Proof Sys2Proof.Machine in
/-- Refutes O21: an UNMAP that is a barrier not yet started holds itself (R213) and does not end, while the hazard table is empty
and buffer and journal have room. -/
theorem not_scsiActionsComplete : ¬ Obligations.ScsiActionsComplete := by
  unfold Obligations.ScsiActionsComplete
  rintro ⟨-, -, -, -, -, -, -, -, hunmap, -⟩
  obtain ⟨t, ht, hended, -⟩ := hunmap (State.withCommand barredUnmap) 0 barredUnmap ⟨rfl, rfl, rfl⟩ rfl rfl
    (State.withCommand_receives _) (State.withCommand_journalRoom _) (by decide)
  rw [unmap_of_barred, Host.Outcome.next.injEq] at ht
  subst ht
  exact not_endedAs_of_cmds (c := barredUnmap) rfl rfl rfl _ hended

open Sys2Proof Sys2Proof.Machine in
/-- Refutes O17: a Zone Management Send that is a barrier not yet started holds itself (R213) and does not open its zone, while the
hazard table is empty and the journal has room. -/
theorem not_nvmeZonesComplete : ¬ Obligations.NvmeZonesComplete := by
  unfold Obligations.NvmeZonesComplete
  rintro ⟨hopen, -⟩
  obtain ⟨t, ht, hended, -⟩ := hopen (State.withZone barredOpen) 0 barredOpen State.oneZone ⟨rfl, rfl, rfl⟩
    ⟨rfl, rfl, State.withZone_mtuRuns _, rfl, rfl, State.withZone_journalRoom _, rfl⟩ rfl
  rw [zoneOpen_of_barred, Host.Outcome.next.injEq] at ht
  subst ht
  exact not_endedAs_of_cmds (c := barredOpen) rfl rfl rfl _ hended

open Sys2Proof Sys2Proof.Machine in
/-- Refutes O22: an OPEN ZONE that is a barrier not yet started holds itself (R213) and does not open its zone, while the hazard
table is empty and the journal has room. -/
theorem not_scsiZonesComplete : ¬ Obligations.ScsiZonesComplete := by
  unfold Obligations.ScsiZonesComplete
  rintro ⟨-, -, hopen, -⟩
  obtain ⟨t, ht, hended, -⟩ := hopen (State.withZone barredOpenSas) 0 barredOpenSas State.oneZone ⟨rfl, rfl, rfl⟩ rfl
    ⟨rfl, rfl, State.withZone_mtuRuns _, rfl, rfl, State.withZone_journalRoom _, rfl⟩ rfl
  rw [openZone_of_barred, Host.Outcome.next.injEq] at ht
  subst ht
  exact not_endedAs_of_cmds (c := barredOpenSas) rfl rfl rfl _ hended
end

section
/-!
SAS task management (O19): each function on a logical unit that exists, by what it answers.
-/
namespace Sys2Proof.Machine

open Sys2Proof.Arith

namespace State

theorem onLun_of_exists {s : State} {lun : Nat} (h : s.nsExists (lun + 1) = true) (p n tmf : Nat) (f : State → State) :
    s.onLun p n tmf lun f = f s := if_pos h

/-- A unit attention changes the nexuses only. -/
theorem postUa_nexus (s : State) (key code : Nat) : ∃ m, s.postUa key code = { s with hosts := { s.hosts with nexus := m } } := by
  unfold postUa
  split
  · exact ⟨s.hosts.nexus, rfl⟩
  · exact ⟨_, rfl⟩

theorem postUaAll_nexus (s : State) (code : Nat) (e : Option Nat) :
    ∃ m, s.postUaAll code e = { s with hosts := { s.hosts with nexus := m } } := by
  unfold postUaAll
  generalize (s.hosts.nexus.map fun e => e.1) = l
  induction l generalizing s with
  | nil => exact ⟨s.hosts.nexus, rfl⟩
  | cons k l ih =>
    rw [List.foldl_cons]
    obtain ⟨m, hm⟩ : ∃ m, (if some k = e then s else s.postUa k code) = { s with hosts := { s.hosts with nexus := m } } := by
      split
      · exact ⟨s.hosts.nexus, rfl⟩
      · exact s.postUa_nexus k code
    obtain ⟨m', hm'⟩ := ih (if some k = e then s else s.postUa k code)
    exact ⟨m', by rw [hm', hm]⟩

/-- No page of a logical unit is left in force once its pages return to their saved values. -/
theorem restorePages_shows (s : State) (lun : Nat) : ∀ e ∈ (s.restorePages lun).hosts.modePages, e.1 % 32 ≠ lun := by
  intro e he
  unfold restorePages at he
  simpa using (List.mem_filter.mp he).2

theorem emit_head (s : State) (o : Output) : (s.emit o).out.head? = some o := rfl

/-- No command in flight, no frame in an inlet and none stalled: nothing waits. -/
theorem waitsFor_of_empty {s : State} (hinlet : s.hosts.inlet = []) (hstalled : s.hosts.stalled = none) (ok : Nat → HostReq → Bool) :
    s.waitsFor ok = false := by
  unfold waitsFor
  rw [hinlet, hstalled]
  rfl

end State

theorem abortTask_eq (s : State) (p : Fin 2) (n : Fin 32) (m k : BitVec 16) (u : BitVec 8) (c : Cmd) (hns : s.nsExists (u.toNat + 1) = true)
    (hfind : s.hosts.cmds.find? (State.sasCmd p.val n.val u.toNat k.toNat) = some c) (hsilent : c.silent = false) :
    exec (.abortTask p n m u k false) s = .next ((s.abortSilent c).emit (.taskResponse p.val n.val m.toNat 0 1)) := by
  have habort : s.abortTask p.val n.val u.toNat k.toNat false = (s.abortSilent c, true) := by
    unfold State.abortTask
    rw [hfind]
    unfold State.resolveAbort
    dsimp only
    rw [hsilent, Bool.false_and, Bool.false_and, if_neg Bool.false_ne_true, if_neg Bool.false_ne_true]
  refine congrArg Host.Outcome.next ((State.onLun_of_exists hns _ _ _ _).trans ?_)
  dsimp only
  rw [habort]
  rfl

theorem abortTaskSet_completes (s : State) (p : Fin 2) (n : Fin 32) (m : BitVec 16) (u : BitVec 8)
    (hns : s.nsExists (u.toNat + 1) = true) : Completes (exec (.abortTaskSet p n m u) s) fun t =>
      t.out.head? = some (.taskResponse p.val n.val m.toNat 0 0)
        ∧ t = (s.abortSet fun q r => q == p.val && r.queue == n.val && r.ns == u.toNat + 1).emit (.taskResponse p.val n.val m.toNat 0 0) :=
  ⟨_, congrArg Host.Outcome.next (State.onLun_of_exists hns _ _ _ _), State.emit_head _ _, rfl⟩

theorem clearTaskSet_completes (s : State) (p : Fin 2) (n : Fin 32) (m : BitVec 16) (u : BitVec 8)
    (hns : s.nsExists (u.toNat + 1) = true) : Completes (exec (.clearTaskSet p n m u) s) fun t =>
      t.out.head? = some (.taskResponse p.val n.val m.toNat 0 0)
        ∧ ∃ b : State, b = s.abortSet (State.ofLun u.toNat) ∧ t.hosts.cmds = b.hosts.cmds ∧ t.regs = b.regs := by
  refine ⟨_, congrArg Host.Outcome.next (State.onLun_of_exists hns _ _ _ _), State.emit_head _ _, _, rfl, ?_⟩
  obtain ⟨m, hm⟩ := (s.abortSet (State.ofLun u.toNat)).postUaAll_nexus 0x2F00 (some (32 * p.val + n.val))
  rw [hm]
  exact ⟨rfl, rfl⟩

theorem logicalUnitReset_completes (s : State) (p : Fin 2) (n : Fin 32) (m : BitVec 16) (u : BitVec 8)
    (hns : s.nsExists (u.toNat + 1) = true) : Completes (exec (.logicalUnitReset p n m u) s) fun t =>
      t.out.head? = some (.taskResponse p.val n.val m.toNat 0 0) ∧ ∀ e ∈ t.hosts.modePages, e.1 % 32 ≠ u.toNat := by
  refine ⟨_, congrArg Host.Outcome.next (State.onLun_of_exists hns _ _ _ _), State.emit_head _ _, ?_⟩
  obtain ⟨m, hm⟩ := ((s.abortSet (State.ofLun u.toNat)).restorePages u.toNat).postUaAll_nexus 0x2903 none
  intro e he
  rw [State.emit_hosts, hm] at he
  exact State.restorePages_shows _ _ e he

theorem queryTask_eq (s : State) (p : Fin 2) (n : Fin 32) (m k : BitVec 16) (u : BitVec 8) (c : Cmd) (hns : s.nsExists (u.toNat + 1) = true)
    (hmem : c ∈ s.hosts.cmds) (hc : State.sasCmd p.val n.val u.toNat k.toNat c = true) :
    exec (.queryTask p n m u k) s = .next (s.emit (.taskResponse p.val n.val m.toNat 8 0)) := by
  have hany : s.hosts.cmds.any (State.sasCmd p.val n.val u.toNat k.toNat) = true := List.any_eq_true.mpr ⟨c, hmem, hc⟩
  refine congrArg Host.Outcome.next ((State.onLun_of_exists hns _ _ _ _).trans ?_)
  dsimp only
  rw [hany, Bool.true_or, if_pos rfl]

theorem queryTaskSet_eq (s : State) (p : Fin 2) (n : Fin 32) (m : BitVec 16) (u : BitVec 8) (hns : s.nsExists (u.toNat + 1) = true)
    (hcmds : s.hosts.cmds = []) (hinlet : s.hosts.inlet = []) (hstalled : s.hosts.stalled = none) :
    exec (.queryTaskSet p n m u) s = .next (s.emit (.taskResponse p.val n.val m.toNat 0 0)) := by
  refine congrArg Host.Outcome.next ((State.onLun_of_exists hns _ _ _ _).trans ?_)
  dsimp only
  rw [hcmds, State.waitsFor_of_empty hinlet hstalled]
  rfl

theorem queryAsynchronousEvent_eq (s : State) (p : Fin 2) (n : Fin 32) (m : BitVec 16) (u : BitVec 8) (x : Nexus) (a : Nat)
    (hns : s.nsExists (u.toNat + 1) = true) (hx : s.nexusAt p.val n.val = some x) (hua : x.ua = [a]) :
    exec (.queryAsynchronousEvent p n m u) s = .next (s.emit (.taskResponse p.val n.val m.toNat 8 (0x260000 + a))) := by
  refine congrArg Host.Outcome.next ((State.onLun_of_exists hns _ _ _ _).trans ?_)
  rw [hx]
  dsimp only
  rw [hua]
  rfl

theorem tmfNotSupported_eq (s : State) (p : Fin 2) (n : Fin 32) (m : BitVec 16) (u : BitVec 8) (hns : s.nsExists (u.toNat + 1) = true) :
    exec (.tmfNotSupported p n m u) s = .next (s.emit (.taskResponse p.val n.val m.toNat 4 0)) :=
  congrArg Host.Outcome.next (State.onLun_of_exists hns _ _ _ _)

end Sys2Proof.Machine

open Sys2Proof Sys2Proof.Machine in
/-- Settles O19: each function answers on its logical unit; the sets it aborts are those of `abortSet`. -/
theorem taskManagementCompletes : Obligations.TaskManagementCompletes := by
  unfold Obligations.TaskManagementCompletes
  exact ⟨abortTask_eq, abortTaskSet_completes, clearTaskSet_completes, logicalUnitReset_completes, fun _ _ _ _ => rfl, queryTask_eq,
    queryTaskSet_eq, queryAsynchronousEvent_eq, tmfNotSupported_eq⟩
end

section
/-!
Queues created and deleted, and an Abort that finds its target (O12).
-/
namespace Sys2Proof.Machine

open Sys2Proof.Arith

namespace State

theorem ctrl_modCtrl_same (s : State) (k : Nat) (f : Ctrl → Ctrl) : (s.modCtrl k f).ctrl k = f (s.ctrl k) := by
  unfold ctrl modCtrl Store.modify
  rw [Store.get_put_same]

theorem finish_ctrl (s : State) (g : Nat) (d : Done) (k : Nat) : (s.finish g d).ctrl k = s.ctrl k := rfl

theorem modCtrl_cmds (s : State) (k : Nat) (f : Ctrl → Ctrl) : (s.modCtrl k f).hosts.cmds = s.hosts.cmds := rfl

theorem modCtrl_atTagStep (s : State) (k : Nat) (f : Ctrl → Ctrl) : (s.modCtrl k f).atTagStep = s.atTagStep := rfl

theorem cmd_modCtrl (s : State) (k : Nat) (f : Ctrl → Ctrl) (g : Nat) : (s.modCtrl k f).cmd g = s.cmd g := rfl

/-- A controller changed by a command that then ends: what the tag, the registers and the controller read. -/
theorem modCtrl_finish_shows {s : State} {g : Nat} {c : Cmd} (h : s.cmd g = some c) (hdone : c.done = none) (k : Nat) (f : Ctrl → Ctrl)
    (d : Done) : ((s.modCtrl k f).finish c.tag d).endedAs g d ∧ ((s.modCtrl k f).finish c.tag d).regs = s.regs
      ∧ ((s.modCtrl k f).finish c.tag d).ctrl k = f (s.ctrl k) := by
  rw [cmd_tag h]
  exact ⟨endedAs_finish ((s.cmd_modCtrl k f g).trans h) hdone d, rfl, (finish_ctrl _ _ _ _).trans (s.ctrl_modCtrl_same k f)⟩

/-! ### Deletion of a submission queue with nothing outstanding (R177) -/

/-- Nothing leaves the tag step: registers, commands and controllers are as they were. -/
theorem leaveTagStep_nil (s : State) : (s.leaveTagStep []).regs = s.regs ∧ (s.leaveTagStep []).hosts.cmds = s.hosts.cmds
    ∧ ∀ k, (s.leaveTagStep []).ctrl k = s.ctrl k := by
  unfold leaveTagStep
  dsimp only
  rw [if_neg]
  · exact ⟨rfl, rfl, fun _ => rfl⟩
  · split <;> simp

/-- A queue with no command in flight or at the tag step is marked as under deletion, and finished. -/
theorem deleteSq_idle {s : State} {c : Cmd} {x : Sq} {q : Nat} (hq : q = c.req.cdw10 % 65536)
    (hget : Store.get none (s.ctrl c.port).sqs q = some x) (hpos : q ≠ 0)
    (hcmds : ∀ d ∈ s.hosts.cmds, d.port = c.port → d.req.queue ≠ q) (hstep : s.atTagStep = []) :
    s.deleteSq c = ((s.modCtrl c.port fun y => { y with sqs := Store.put none y.sqs q (some { x with deleting := some c.tag }) }).leaveTagStep
      []).finishDeletes c.port := by
  have hnone : (s.hosts.cmds.filter fun d => d.port == c.port && d.req.queue == q) = [] := by
    rw [List.filter_eq_nil_iff]
    intro d hd hall
    simp only [Bool.and_eq_true, beq_iff_eq] at hall
    exact hcmds d hd hall.1 hall.2
  unfold deleteSq
  rw [← hq]
  dsimp only
  rw [hget]
  dsimp only
  rw [if_neg hpos]
  simp only [modCtrl_cmds, hnone, List.foldl_nil, modCtrl_atTagStep, hstep, List.filter_nil]

/-- A queue under deletion that no command of the port names is deleted, and the command that deletes it ends. -/
theorem finishDeletes_single {s : State} {k q : Nat} {a x : Sq} {g : Nat} (hsqs : (s.ctrl k).sqs = [(0, some a), (q, some x)])
    (ha : a.deleting = none) (hx : x.deleting = some g) (hcmds : ∀ d ∈ s.hosts.cmds, d.port = k → d.req.queue ≠ q)
    (hheld : (s.ctrl k).held = []) :
    s.finishDeletes k = (s.modCtrl k fun c => { c with sqs := Store.put none c.sqs q none }).finish g doneOk := by
  have hleft : (s.hosts.cmds.any (fun c => c.port == k && c.req.queue == q && q != 0)
      || (s.ctrl k).held.any fun h => h.1.queue == q) = false := by
    rw [hheld, List.any_nil, Bool.or_false, List.any_eq_false]
    intro d hd hall
    simp only [Bool.and_eq_true, beq_iff_eq] at hall
    exact hcmds d hd hall.1.1 hall.1.2
  unfold finishDeletes
  rw [hsqs, List.foldl_cons, List.foldl_cons, List.foldl_nil]
  dsimp only
  rw [ha]
  dsimp only
  rw [hx]
  dsimp only
  rw [hleft, if_neg Bool.false_ne_true]

end State

theorem createIoCq_completes (s : State) (g : BitVec 13) (c : Cmd) (q v : Nat) (hcmd : s.cmd g.toNat = some c) (hport : c.port < 4)
    (hqueue : c.req.queue = 0) (hop : c.req.opcode = 5) (hdone : c.done = none) (hq : q = c.req.cdw10 % 65536)
    (hv : v = c.req.cdw11 / 65536 % 65536) (hpos : 0 < q) (hle : q ≤ (s.ctrl c.port).cqGranted)
    (hnew : Store.get none (s.ctrl c.port).cqs q = none) (hsize : c.req.cdw10 / 65536 % 65536 ≠ 0) (hvec : s.badVector c.port v = false)
    (hpc : c.req.cdw11 % 2 = 1) : Completes (exec (.createIoCq g) s) fun t => t.endedAs g.toNat doneOk ∧ t.regs = s.regs ∧
      Store.get none (t.ctrl c.port).cqs q = some { size := c.req.cdw10 / 65536 % 65536 + 1, vector := v, ien := c.req.cdw11 / 2 % 2 == 1 } := by
  refine ⟨_, congrArg Host.Outcome.next (State.onAdmin_of_cmd hcmd hport hqueue hop hdone _), ?_⟩
  unfold State.createCq
  rw [← hq, ← hv, if_neg (by simp [hnew]; omega), if_neg hsize, if_neg (by simp [hvec]), if_neg (by omega)]
  obtain ⟨hend, hregs, hctrl⟩ := State.modCtrl_finish_shows hcmd hdone c.port (fun y => { y with
    cqs := Store.put none y.cqs q (some { size := c.req.cdw10 / 65536 % 65536 + 1, vector := v, ien := c.req.cdw11 / 2 % 2 == 1 })
    ioCreated := true }) doneOk
  exact ⟨hend, hregs, by rw [hctrl]; simp only [Store.get_put_same]⟩

theorem createIoSq_completes (s : State) (g : BitVec 13) (c : Cmd) (q n : Nat) (hcmd : s.cmd g.toNat = some c) (hport : c.port < 4)
    (hqueue : c.req.queue = 0) (hop : c.req.opcode = 1) (hdone : c.done = none) (hq : q = c.req.cdw10 % 65536)
    (hn : n = c.req.cdw11 / 65536 % 65536) (hpos : 0 < q) (hle : q ≤ s.rd (R.Q_GRANTED c.port))
    (hnew : Store.get none (s.ctrl c.port).sqs q = none) (hsize : c.req.cdw10 / 65536 % 65536 ≠ 0) (hcq : n ≠ 0)
    (hthere : (Store.get none (s.ctrl c.port).cqs n).isSome = true) (hpc : c.req.cdw11 % 2 = 1) :
    Completes (exec (.createIoSq g) s) fun t => t.endedAs g.toNat doneOk ∧ t.regs = s.regs ∧ Store.get none (t.ctrl c.port).sqs q =
      some { size := c.req.cdw10 / 65536 % 65536 + 1, cq := n, prio := c.req.cdw11 / 2 % 4 } := by
  refine ⟨_, congrArg Host.Outcome.next (State.onAdmin_of_cmd hcmd hport hqueue hop hdone _), ?_⟩
  have hthere' : (Store.get none (s.ctrl c.port).cqs n).isNone = false := by simpa [Option.isSome_iff_ne_none, Option.isNone_iff_eq_none] using hthere
  unfold State.createSq
  rw [← hq, ← hn, if_neg (by simp [hnew]; omega), if_neg hsize, if_neg (by simp [hcq, hthere']), if_neg (by omega)]
  obtain ⟨hend, hregs, hctrl⟩ := State.modCtrl_finish_shows hcmd hdone c.port (fun y => { y with
    sqs := Store.put none y.sqs q (some { size := c.req.cdw10 / 65536 % 65536 + 1, cq := n, prio := c.req.cdw11 / 2 % 4 })
    ioCreated := true }) doneOk
  exact ⟨hend, hregs, by rw [hctrl]; simp only [Store.get_put_same]⟩

theorem deleteIoCq_completes (s : State) (g : BitVec 13) (c : Cmd) (q : Nat) (hcmd : s.cmd g.toNat = some c) (hport : c.port < 4)
    (hqueue : c.req.queue = 0) (hop : c.req.opcode = 4) (hdone : c.done = none) (hq : q = c.req.cdw10 % 65536) (hpos : q ≠ 0)
    (hthere : (Store.get none (s.ctrl c.port).cqs q).isSome = true) (hfree : ∀ e ∈ (s.ctrl c.port).sqs, e.2.map Sq.cq ≠ some q) :
    Completes (exec (.deleteIoCq g) s) fun t =>
      t.endedAs g.toNat doneOk ∧ Store.get none (t.ctrl c.port).cqs q = none ∧ t.regs = s.regs := by
  refine ⟨_, congrArg Host.Outcome.next (State.onAdmin_of_cmd hcmd hport hqueue hop hdone _), ?_⟩
  have hthere' : (Store.get none (s.ctrl c.port).cqs q).isNone = false := by simpa [Option.isSome_iff_ne_none, Option.isNone_iff_eq_none] using hthere
  unfold State.deleteCq
  rw [← hq, if_neg (by simp [hpos, hthere']), if_neg]
  · obtain ⟨hend, hregs, hctrl⟩ := State.modCtrl_finish_shows hcmd hdone c.port
      (fun y => { y with cqs := Store.put none y.cqs q none }) doneOk
    exact ⟨hend, by rw [hctrl]; simp only [Store.get_put_same], hregs⟩
  · rw [List.any_eq_true]
    rintro ⟨⟨i, x⟩, hx, hcq⟩
    cases x with
    | none => exact Bool.false_ne_true hcq
    | some x => exact hfree _ hx (by simpa using hcq)

theorem deleteIoSq_completes (s : State) (g : BitVec 13) (c : Cmd) (q : Nat) (a x : Sq) (hcmd : s.cmd g.toNat = some c) (hport : c.port < 4)
    (hqueue : c.req.queue = 0) (hop : c.req.opcode = 0) (hdone : c.done = none) (hq : q = c.req.cdw10 % 65536) (hpos : q ≠ 0)
    (hsqs : (s.ctrl c.port).sqs = [(0, some a), (q, some x)]) (ha : a.deleting = none)
    (hcmds : ∀ d ∈ s.hosts.cmds, d.port = c.port → d.req.queue ≠ q) (hstep : s.atTagStep = []) (hheld : (s.ctrl c.port).held = []) :
    Completes (exec (.deleteIoSq g) s) fun t =>
      t.endedAs g.toNat doneOk ∧ Store.get none (t.ctrl c.port).sqs q = none ∧ t.regs = s.regs := by
  refine ⟨_, congrArg Host.Outcome.next (State.onAdmin_of_cmd hcmd hport hqueue hop hdone _), ?_⟩
  have hget : Store.get none (s.ctrl c.port).sqs q = some x := by rw [hsqs]; simp [Store.get, Ne.symm hpos]
  have hput : Store.put none (s.ctrl c.port).sqs q (some { x with deleting := some c.tag })
      = [(0, some a), (q, some { x with deleting := some c.tag })] := by
    rw [hsqs]
    simp [Store.put, Store.erase, Store.insert, Ne.symm hpos]
  generalize hu : (s.modCtrl c.port fun y => { y with sqs := Store.put none y.sqs q (some { x with deleting := some c.tag }) }).leaveTagStep
    [] = u
  obtain ⟨hregs, hucmds, hctrl⟩ : u.regs = s.regs ∧ u.hosts.cmds = s.hosts.cmds ∧ u.ctrl c.port
      = { s.ctrl c.port with sqs := [(0, some a), (q, some { x with deleting := some c.tag })] } := by
    obtain ⟨hregs, hcmds, hctrl⟩ := (s.modCtrl c.port fun y => { y with
      sqs := Store.put none y.sqs q (some { x with deleting := some c.tag }) }).leaveTagStep_nil
    rw [← hu, ← hput]
    exact ⟨hregs, hcmds, (hctrl c.port).trans (s.ctrl_modCtrl_same c.port _)⟩
  rw [State.deleteSq_idle hq hget hpos hcmds hstep, hu,
    State.finishDeletes_single (g := c.tag) (by rw [hctrl]) ha rfl (by rw [hucmds]; exact hcmds) (by rw [hctrl]; exact hheld)]
  obtain ⟨hend, hfregs, hfctrl⟩ := State.modCtrl_finish_shows ((State.cmd_congr hucmds _).trans hcmd) hdone c.port
    (fun y => { y with sqs := Store.put none y.sqs q none }) doneOk
  exact ⟨hend, by rw [hfctrl]; simp only [Store.get_put_same], hfregs.trans hregs⟩

theorem abort_eq (s : State) (g : BitVec 13) (c d : Cmd) (hcmd : s.cmd g.toNat = some c) (hport : c.port < 4)
    (hqueue : c.req.queue = 0) (hop : c.req.opcode = 8) (hdone : c.done = none)
    (hfew : (s.hosts.cmds.filter fun x => x.port == c.port && x.req.queue == 0 && x.req.opcode == 8
      && decide (x.arrival < c.arrival)).length < 8) (hsq : c.req.cdw10 % 65536 ≠ 0)
    (hthere : (Store.get none (s.ctrl c.port).sqs (c.req.cdw10 % 65536)).isSome = true) (hstep : s.atTagStep = [])
    (hfind : (s.hosts.cmds.find? fun x => x.port == c.port && x.req.queue == c.req.cdw10 % 65536
      && x.req.cid == c.req.cdw10 / 65536 % 65536) = some d) (hfresh : d.abortedBy = none) :
    exec (.abort g false) s = .next (s.abortMatch g.toNat d) := by
  refine congrArg Host.Outcome.next ((State.onAdmin_of_cmd hcmd hport hqueue hop hdone _).trans ?_)
  have hthere' : (Store.get none (s.ctrl c.port).sqs (c.req.cdw10 % 65536)).isNone = false := by
    simpa [Option.isSome_iff_ne_none, Option.isNone_iff_eq_none] using hthere
  unfold State.abortCmd
  dsimp only
  rw [if_neg (by omega), if_neg (by simp [hsq, hthere']), hstep, List.find?_nil]
  dsimp only
  rw [hfind]
  dsimp only
  unfold State.abortTarget
  rw [hfresh, if_neg (by simp), if_neg (by simp), State.cmd_tag hcmd]

end Sys2Proof.Machine

open Sys2Proof Sys2Proof.Machine in
/-- Settles O12: queues appear and go by the controller's store; an Abort that finds its target is the match. -/
theorem queueAdminCompletes : Obligations.QueueAdminCompletes := by
  unfold Obligations.QueueAdminCompletes
  exact ⟨createIoCq_completes, createIoSq_completes, deleteIoCq_completes, deleteIoSq_completes, abort_eq⟩
end

section
/-!
The SAS links, nexuses, inlets and write transfers (O18).
-/
namespace Sys2Proof.Machine

open Sys2Proof.Arith

namespace State

/-! ### Nexuses and inlets -/

theorem putNexus_hosts (s : State) (p n : Nat) (x : Nexus) :
    (s.putNexus p n x).hosts = { s.hosts with nexus := Store.put none s.hosts.nexus (32 * p + n) (some x) } := by
  unfold putNexus refreshNexus
  rw [wr_hosts]

theorem nexusAt_putNexus_same (s : State) (p n : Nat) (x : Nexus) : (s.putNexus p n x).nexusAt p n = some x := by
  unfold nexusAt
  rw [putNexus_hosts]
  simp only [Store.get_put_same]

theorem putNexus_frame (s : State) (p n : Nat) (x : Nexus) {l : List Fld} (h : R.NEXUS_CNT p ∈ l) : RegFrame s (s.putNexus p n x) l := by
  unfold putNexus refreshNexus
  exact (Machine.regFrame_wr h).mpr (regFrame_update.mpr (regFrame_same s l))

theorem putNexus_mgt (s : State) (p n : Nat) (x : Nexus) : (s.putNexus p n x).mgt = s.mgt := by
  unfold putNexus refreshNexus
  rw [wr_mgt]

theorem foldl_wr_hosts {α : Type} (F : α → Fld) (v : α → State → Nat) (l : List α) (s : State) :
    (l.foldl (fun s a => s.wr (F a) (v a s)) s).hosts = s.hosts := by
  induction l generalizing s with
  | nil => rfl
  | cons a l ih => rw [List.foldl_cons, ih, wr_hosts]

theorem refreshInlets_hosts (s : State) : s.refreshInlets.hosts = s.hosts :=
  foldl_wr_hosts R.INLET_USED (fun p s => (Store.get [] s.hosts.inlet p).length) _ s

theorem refreshInlets_frame (s : State) {l : List Fld} (h0 : R.INLET_USED 0 ∈ l) (h1 : R.INLET_USED 1 ∈ l) :
    RegFrame s s.refreshInlets l :=
  (Machine.regFrame_wr h1).mpr ((Machine.regFrame_wr h0).mpr (regFrame_same s l))

theorem nexusAt_congr {s t : State} (h : t.hosts.nexus = s.hosts.nexus) (p n : Nat) : t.nexusAt p n = s.nexusAt p n := by
  unfold nexusAt
  rw [h]

theorem overlaps_congr {s t : State} (hcmds : t.hosts.cmds = s.hosts.cmds) (hinlet : t.hosts.inlet = s.hosts.inlet)
    (hstalled : t.hosts.stalled = s.hosts.stalled) (p n : Nat) (r : HostReq) : t.overlaps p n r = s.overlaps p n r := by
  unfold overlaps waitsFor
  rw [hcmds, hinlet, hstalled]

/-! ### Frames -/

theorem connect_of_new {s : State} {p n : Nat} (h : s.nexusAt p n = none) (a : Nat) : s.connect p n a = s.putNexus p n { addr := a } := by
  unfold connect
  rw [h]

/-- A frame of a new nexus that overlaps no command enters its inlet. -/
theorem commandFrame_shows {s : State} {p n a : Nat} {r : HostReq} (hnew : s.nexusAt p n = none)
    (hover : s.overlaps p n { r with queue := n } = false) (hroom : (Store.get [] s.hosts.inlet p).length < 128) :
    Store.get [] (s.commandFrame p n a r).hosts.inlet p = Store.get [] s.hosts.inlet p ++ [{ r with queue := n }]
      ∧ (s.commandFrame p n a r).nexusAt p n = some { addr := a }
      ∧ RegFrame s (s.commandFrame p n a r) [R.NEXUS_CNT p, R.INLET_USED 0, R.INLET_USED 1] := by
  have hhosts := s.putNexus_hosts p n { addr := a }
  have hframe := s.putNexus_frame p n { addr := a } (l := [R.NEXUS_CNT p, R.INLET_USED 0, R.INLET_USED 1]) (by simp)
  have hnexus := s.nexusAt_putNexus_same p n { addr := a }
  unfold commandFrame
  rw [connect_of_new hnew]
  generalize s.putNexus p n { addr := a } = u at *
  have hinlet : u.hosts.inlet = s.hosts.inlet := by rw [hhosts]
  have hover' : u.overlaps p n { r with queue := n } = false := by
    rw [overlaps_congr (s := s) (by rw [hhosts]) hinlet (by rw [hhosts]), hover]
  dsimp only
  rw [hover', if_neg Bool.false_ne_true, hinlet, if_neg (by omega)]
  refine ⟨?_, ?_, ?_⟩
  · rw [refreshInlets_hosts]
    simp only [Store.get_put_same]
  · rw [nexusAt_congr (s := u) (by rw [refreshInlets_hosts]), hnexus]
  · exact hframe.trans (RegFrame.trans (regFrame_update.mpr (regFrame_same u _)) (refreshInlets_frame _ (by simp) (by simp)))

/-! ### Nexus loss (R207) -/

/-- The inlets without the frames that meet `ok`. -/
theorem get_filtered_inlets (m : Store (List HostReq)) (ok : Nat → HostReq → Bool) (p : Fin 2) :
    Store.get [] ([0, 1].foldl (fun m p => Store.modify [] m p fun l => l.filter fun r => !ok p r) m) p.val
      = (Store.get [] m p.val).filter fun r => !ok p.val r := by
  rw [List.foldl_cons, List.foldl_cons, List.foldl_nil]
  unfold Store.modify
  match p with
  | 0 => rw [show (0 : Fin 2).val = 0 from rfl, Store.get_put_other _ _ _ (by decide), Store.get_put_same]
  | 1 => rw [show (1 : Fin 2).val = 1 from rfl, Store.get_put_same, Store.get_put_other _ _ _ (by decide)]

/-- Frames dropped where none is stalled: the inlets lose them, and nothing else of the hosts changes. -/
theorem dropFrames_of_notStalled {s : State} (h : s.hosts.stalled = none) (ok : Nat → HostReq → Bool) :
    s.dropFrames ok = ({ s with hosts := { s.hosts with
      inlet := [0, 1].foldl (fun m p => Store.modify [] m p fun l => l.filter fun r => !ok p r) s.hosts.inlet
      stalled := none } }).refreshInlets := by
  unfold dropFrames
  rw [h]
  rfl

theorem abortSet_of_idle {s : State} (hcmds : s.hosts.cmds = []) (hstalled : s.hosts.stalled = none) (ok : Nat → HostReq → Bool) :
    s.abortSet ok = s.dropFrames ok := by
  have hnone : (s.dropFrames ok).hosts.cmds = [] := by rw [dropFrames_of_notStalled hstalled, refreshInlets_hosts]; exact hcmds
  unfold abortSet
  dsimp only
  rw [hnone]
  rfl

/-- An unowned device: a nexus's loss leaves hosts and registers. -/
theorem nexusTransport_hosts {s : State} (h : s.rd R.OWN_STATE = 0) (p a : Nat) (lost : Bool) :
    (s.nexusTransport p a lost).hosts = s.hosts := by
  unfold nexusTransport
  dsimp only
  rw [if_neg (by simp [h])]
  split
  · split <;> rfl
  · rfl

theorem nexusCount_apart (p : Fin 2) : (R.NEXUS_CNT p.val).apart R.OWN_STATE = true := by revert p; decide

theorem nexusLoss_shows {s : State} {p : Fin 2} {n : Nat} {x : Nexus} (hx : s.nexusAt p.val n = some x) (hlink : x.link = .losing)
    (hcmds : s.hosts.cmds = []) (hstalled : s.hosts.stalled = none) (hown : s.rd R.OWN_STATE = 0) :
    (s.nexusLoss p.val n).nexusAt p.val n = some { x with link := .gone }
      ∧ ∀ r ∈ Store.get [] (s.nexusLoss p.val n).hosts.inlet p.val, r.queue ≠ n := by
  have hdrop := dropFrames_of_notStalled hstalled (ofNexus p.val n)
  obtain ⟨u, hu, hnexus, hinlet, huown⟩ : ∃ u : State, s.abortSet (ofNexus p.val n) = u ∧ u.nexusAt p.val n = some x
      ∧ Store.get [] u.hosts.inlet p.val = ((Store.get [] s.hosts.inlet p.val).filter fun r => !ofNexus p.val n p.val r)
      ∧ u.rd R.OWN_STATE = 0 := by
    refine ⟨_, (abortSet_of_idle hcmds hstalled _).trans hdrop, ?_, ?_, ?_⟩
    · rw [nexusAt_congr (s := s) (by rw [refreshInlets_hosts]), hx]
    · rw [refreshInlets_hosts]
      exact get_filtered_inlets _ _ _
    · rw [(refreshInlets_frame _ (l := [R.INLET_USED 0, R.INLET_USED 1]) (by simp) (by simp)) _ (by decide), rd_update, hown]
  unfold nexusLoss
  rw [hx]
  dsimp only
  rw [if_pos hlink, hu, hnexus]
  dsimp only
  have hown' : (u.putNexus p.val n { x with link := .gone }).rd R.OWN_STATE = 0 := by
    rw [u.putNexus_frame p.val n _ (l := [R.NEXUS_CNT p.val]) (by simp) _ (by simpa using nexusCount_apart p), huown]
  have hhosts := nexusTransport_hosts hown' p.val x.addr true
  constructor
  · rw [nexusAt_congr (s := u.putNexus p.val n { x with link := .gone }) (by rw [hhosts]), nexusAt_putNexus_same]
  · intro r hr
    rw [hhosts, putNexus_hosts] at hr
    rw [hinlet] at hr
    simpa [ofNexus] using (List.mem_filter.mp hr).2

end State

theorem sasLink_apart (p : Fin 2) : (R.SAS_FEC p.val).apart (R.SAS_RATE p.val) = true ∧ (R.SAS_RATE p.val).fits = true
    ∧ ((R.SAS_FEC p.val).fits && decide (0 < (R.SAS_FEC p.val).width)) = true := by revert p; decide

theorem sasLinkReset_completes (s : State) (p : Fin 2) (r : Fin 4) (hdom : s.dom.core = true) :
    Completes (exec (.sasLinkReset p r) s) fun t =>
      t.rd (R.SAS_RATE p.val) = min r.val (s.rd (R.SAS_MAX_RATE p.val))
        ∧ (t.flag (R.SAS_FEC p.val) = true ↔ t.rd (R.SAS_RATE p.val) = 3)
        ∧ RegsOnly s t ∧ RegFrame s t [R.SAS_RATE p.val, R.SAS_FEC p.val] := by
  obtain ⟨hapart, hfits, hfec⟩ := sasLink_apart p
  have hrate : ((s.wr (R.SAS_RATE p.val) (min r.val (s.rd (R.SAS_MAX_RATE p.val)))).wrFlag (R.SAS_FEC p.val)
      (min r.val (s.rd (R.SAS_MAX_RATE p.val)) == 3)).rd (R.SAS_RATE p.val) = min r.val (s.rd (R.SAS_MAX_RATE p.val)) := by
    rw [State.rd_wrFlag_apart _ _ _ _ hapart, State.rd_wr_same _ _ _ hfits]
    exact Nat.mod_eq_of_lt (lt_of_le_of_lt (min_le_left _ _) (lt_trans r.isLt (show 4 < 2 ^ 3 by decide)))
  refine ⟨_, congrArg Host.Outcome.next (if_pos hdom), hrate, ?_, ((RegsOnly.refl s).wr _ _).wrFlag _ _,
    (regFrame_wrFlag (by simp)).mpr ((regFrame_wr (by simp)).mpr (regFrame_same s _))⟩
  rw [hrate, State.flag_wrFlag_same _ _ _ hfec]
  exact beq_iff_eq

theorem sasLinkLoss_completes (s : State) (p : Fin 2) (n : Fin 32) (x : Nexus) (hx : s.nexusAt p.val n.val = some x)
    (hlink : x.link = .connected) : Completes (exec (.sasLinkLoss p (some n)) s) fun t =>
      t.nexusAt p.val n.val = some { x with link := .losing } ∧ RegFrame s t [R.NEXUS_CNT p.val] := by
  change Completes (.next (s.startLoss p.val n.val)) _
  unfold State.startLoss
  rw [hx]
  dsimp only
  rw [if_pos hlink]
  exact .next ⟨s.nexusAt_putNexus_same _ _ _, s.putNexus_frame _ _ _ (by simp)⟩

theorem sasCommandFrame_completes (s : State) (p : Fin 2) (n : Fin 32) (a : BitVec 64) (r : HostReq) (hdom : s.dom.core = true)
    (hrate : s.rd (R.SAS_RATE p.val) ≠ 0) (hnew : s.nexusAt p.val n.val = none)
    (hover : s.overlaps p.val n.val { r with queue := n.val } = false) (hroom : (Store.get [] s.hosts.inlet p.val).length < 128) :
    Completes (exec (.sasCommandFrame p n a r) s) fun t =>
      Store.get [] t.hosts.inlet p.val = Store.get [] s.hosts.inlet p.val ++ [{ r with queue := n.val }]
        ∧ t.nexusAt p.val n.val = some { addr := a.toNat } ∧ RegFrame s t [R.NEXUS_CNT p.val, R.INLET_USED 0, R.INLET_USED 1] := by
  have hup : s.sasUp p.val = true := by simp [State.sasUp, hdom, hrate]
  exact ⟨_, congrArg Host.Outcome.next (if_pos hup), State.commandFrame_shows hnew hover hroom⟩

theorem xferRdy_completes (s : State) (g : BitVec 13) (c : Cmd) (h : s.live g State.isScsiWrite c) (hhold : s.flag R.HOLDUP_OK = true)
    (hnone : c.xferRdy = none) (hleft : c.received < c.reserved) (hcmds : s.hosts.cmds = [c]) :
    Completes (exec (.xferRdy g) s) fun t =>
      t.out = .xferRdy (c.port - 4) c.req.cid c.received (c.reserved - c.received) :: s.out ∧ t.regs = s.regs
        ∧ t.cmd g.toNat = some { c with xferRdy := some (c.received, c.reserved - c.received) } := by
  refine ⟨_, congrArg Host.Outcome.next (State.onCmd_of_live h _), ?_⟩
  obtain ⟨hcmd, hdone, hwrite⟩ := h
  have hwants : State.wantsXrdy c = true := by simp [State.wantsXrdy, hwrite, hdone, hnone, hleft]
  unfold State.sendXrdy
  rw [hcmds]
  dsimp only
  rw [if_pos (by simp [hwants, hnone, hhold])]
  exact ⟨rfl, rfl, State.cmd_modCmd_tag hcmd (f := fun d => { d with xferRdy := some (d.received, c.reserved - c.received) }) fun _ => rfl⟩

theorem sasDataFrame_completes (s : State) (g : BitVec 13) (c : Cmd) (n : Fin 1025) (d : BitVec 8192) (h : s.live g State.isScsiWrite c)
    (hrecv : s.mayReceive = true) (hxrdy : c.xferRdy = some (0, 8)) (hnone : c.received = 0) (hpart : c.partLen = 0) :
    Completes (exec (.sasDataFrame g 0 n d) s) fun t =>
      t.regs = s.regs ∧ t.media = s.media
        ∧ t.cmd g.toNat = some { c with partLen := n.val, part := c.part + d.toNat % 2 ^ (8 * n.val) } := by
  refine ⟨_, congrArg Host.Outcome.next (State.onCmd_of_live h _), ?_⟩
  have hbyte : State.expectedByte c = 0 := by simp [State.expectedByte, hnone, hpart]
  have hend : State.burstEnd c = 32768 := by
    unfold State.burstEnd
    rw [hxrdy]
  have hn := n.isLt
  unfold State.dataFrame
  rw [if_neg (by simp [hrecv]), hbyte, hend, if_neg (by simp), if_neg (by simp; omega)]
  unfold State.takePayload
  dsimp only
  rw [hpart, if_pos (by omega), Nat.zero_add, Nat.mul_zero, Nat.pow_zero, Nat.mul_one]
  exact ⟨rfl, rfl, State.cmd_modCmd_tag h.1 (f := fun e => { e with partLen := n.val, part := c.part + d.toNat % 2 ^ (8 * n.val) }) fun _ => rfl⟩

theorem iTNexusLoss_completes (s : State) (p : Fin 2) (n : Fin 32) (x : Nexus) (hx : s.nexusAt p.val n.val = some x)
    (hlink : x.link = .losing) (hcmds : s.hosts.cmds = []) (hstalled : s.hosts.stalled = none) (hown : s.rd R.OWN_STATE = 0) :
    Completes (exec (.iTNexusLoss p n) s) fun t =>
      t.nexusAt p.val n.val = some { x with link := .gone } ∧ ∀ r ∈ Store.get [] t.hosts.inlet p.val, r.queue ≠ n.val :=
  .next (State.nexusLoss_shows hx hlink hcmds hstalled hown)

end Sys2Proof.Machine

open Sys2Proof Sys2Proof.Machine in
/-- Settles O18: links by their registers, nexuses and inlets by the hosts' stores, transfers by the command that holds the tag. -/
theorem sasTransportCompletes : Obligations.SasTransportCompletes := by
  unfold Obligations.SasTransportCompletes
  exact ⟨sasLinkReset_completes, sasLinkLoss_completes, sasCommandFrame_completes, xferRdy_completes, sasDataFrame_completes,
    iTNexusLoss_completes⟩
end

section
/-!
The PCIe ports and their controllers (O10).
-/
namespace Sys2Proof.Machine

open Sys2Proof.Arith

namespace State

/-! ### Losing a transport (R636) -/

/-- The fields that the loss of ownership writes. -/
def ownFields : List Fld :=
  [R.OWN_STATE, R.OWN_POS, R.OFFER_POS, R.OWN_ADDR_LO, R.OWN_ADDR_HI, R.LEASE_LEFT, R.PEND_BITS (208 / 32)]

theorem unown_frame (s : State) : RegFrame s s.unown ownFields := by
  unfold unown
  split
  · exact regFrame_same s _
  · exact (regFrame_raise (by decide)).mpr ((Machine.regFrame_wr (by decide)).mpr ((Machine.regFrame_wr (by decide)).mpr
      ((Machine.regFrame_wr (by decide)).mpr ((Machine.regFrame_wr (by decide)).mpr ((Machine.regFrame_wr (by decide)).mpr
        ((Machine.regFrame_wr (by decide)).mpr (regFrame_same s _)))))))

theorem unown_hosts (s : State) : s.unown.hosts = s.hosts := by
  unfold unown
  split
  · rfl
  · dsimp only
    rw [raise_hosts, wr_hosts, wr_hosts, wr_hosts, wr_hosts, wr_hosts, wr_hosts]

theorem foldl_discardStage (l : List Nat) (s : State) : (l.foldl discardStage s).regs = s.regs ∧ (l.foldl discardStage s).hosts = s.hosts := by
  induction l generalizing s with
  | nil => exact ⟨rfl, rfl⟩
  | cons p l ih =>
    rw [List.foldl_cons]
    exact ih (s.discardStage p)

theorem transportLost_shows (s : State) (l : List Nat) : RegFrame s (s.transportLost l) ownFields ∧ (s.transportLost l).hosts = s.hosts := by
  obtain ⟨hregs, hhosts⟩ := foldl_discardStage l s
  have hframe : RegFrame s (l.foldl discardStage s) ownFields := (regFrame_congr hregs).mpr (regFrame_same s _)
  unfold transportLost
  dsimp only
  split
  · exact ⟨hframe.trans (unown_frame _), (unown_hosts _).trans hhosts⟩
  · exact ⟨hframe, hhosts⟩

/-! ### A port's fields -/

theorem portFields_fit (k : Fin 4) : ((R.LINK_SPEED k.val).fits = true ∧ (R.LINK_WIDTH k.val).fits = true
      ∧ ((R.LINK_FLIT k.val).fits && decide (0 < (R.LINK_FLIT k.val).width)) = true
      ∧ ((R.LINK_L12 k.val).fits && decide (0 < (R.LINK_L12 k.val).width)) = true)
    ∧ (R.CTRL_EN k.val).fits = true ∧ (R.CTRL_RDY k.val).fits = true ∧ (R.Q_GRANTED k.val).fits = true
    ∧ (R.PORT_RESET_EV k.val).fits = true := by revert k; decide

theorem linkFields_apart (k : Fin 4) : (R.LINK_WIDTH k.val).apart (R.LINK_SPEED k.val) = true ∧ (R.LINK_FLIT k.val).apart (R.LINK_SPEED k.val) = true
    ∧ (R.LINK_FLIT k.val).apart (R.LINK_WIDTH k.val) = true ∧ (R.LINK_L12 k.val).apart (R.LINK_SPEED k.val) = true := by revert k; decide

/-- The later writes of a port's reset stand apart from what each earlier one leaves. -/
theorem resetFields_apart (k : Fin 4) :
    (∀ f ∈ R.CTRL_RDY k.val :: R.CTRL_CFS k.val :: R.Q_GRANTED k.val :: R.PORT_RESET_EV k.val :: ownFields, f.apart (R.CTRL_EN k.val) = true)
    ∧ (∀ f ∈ R.CTRL_CFS k.val :: R.Q_GRANTED k.val :: R.PORT_RESET_EV k.val :: ownFields, f.apart (R.CTRL_RDY k.val) = true)
    ∧ (∀ f ∈ R.PORT_RESET_EV k.val :: ownFields, f.apart (R.Q_GRANTED k.val) = true)
    ∧ ∀ f ∈ ownFields, f.apart (R.PORT_RESET_EV k.val) = true := by revert k; decide

/-- The link's fields stand apart from those of its controller. -/
theorem linkDown_apart (k : Fin 4) : ∀ f ∈ [R.LINK_SPEED k.val, R.LINK_WIDTH k.val, R.LINK_FLIT k.val, R.LINK_L12 k.val],
    f.apart (R.CTRL_EN k.val) = true ∧ f.apart (R.CTRL_RDY k.val) = true ∧ f.apart (R.Q_GRANTED k.val) = true
      ∧ f.apart (R.PORT_RESET_EV k.val) = true := by revert k; decide

theorem linkDown_frame (s : State) (k : Nat) :
    RegFrame s (s.linkDown k) [R.LINK_SPEED k, R.LINK_WIDTH k, R.LINK_FLIT k, R.LINK_L12 k] :=
  (Machine.regFrame_wr (by simp)).mpr ((Machine.regFrame_wr (by simp)).mpr ((Machine.regFrame_wr (by simp)).mpr
    ((Machine.regFrame_wr (by simp)).mpr (regFrame_same s _))))

theorem linkDown_hosts (s : State) (k : Nat) : (s.linkDown k).hosts = s.hosts := by
  unfold linkDown
  rw [wr_hosts, wr_hosts, wr_hosts, wr_hosts]

theorem rd_linkDown_speed (s : State) (k : Fin 4) : (s.linkDown k.val).rd (R.LINK_SPEED k.val) = 0 := by
  obtain ⟨⟨hfits, -⟩, -⟩ := portFields_fit k
  obtain ⟨hwidth, hflit, -, hl12⟩ := linkFields_apart k
  unfold linkDown
  rw [rd_wr_apart _ _ _ _ hl12, rd_wr_apart _ _ _ _ hflit, rd_wr_apart _ _ _ _ hwidth, rd_wr_same _ _ _ hfits]
  exact Nat.zero_mod _

/-! ### A port's reset (R159) -/

/-- What a port's reset leaves of the port. -/
structure PortClear (k : Nat) (t : State) : Prop where
  en : t.rd (R.CTRL_EN k) = 0
  rdy : t.rd (R.CTRL_RDY k) = 0
  granted : t.rd (R.Q_GRANTED k) = 0
  event : t.rd (R.PORT_RESET_EV k) = 1
  ctrl : t.ctrl k = {}
  fetched : ∀ e ∈ t.hosts.fetched, e.1 ≠ k

theorem ite_wr_hosts (p : Prop) [Decidable p] (s : State) (f : Fld) (v : Nat) : (if p then s.wr f v else s).hosts = s.hosts := by
  split
  · rw [wr_hosts]
  · rfl

/-- The last writes of a port's reset, on a state whose controller and fetched commands are gone. -/
theorem portReset_eq (s : State) (k : Nat) : ∃ v : State, s.portReset k = (((((v.wr (R.CTRL_EN k) 0).wr (R.CTRL_RDY k) 0).wr
      (R.CTRL_CFS k) 0).wr (R.Q_GRANTED k) 0).wr (R.PORT_RESET_EV k) 1).transportLost [k, 5 + k]
    ∧ v.ctrl k = {} ∧ ∀ e ∈ v.hosts.fetched, e.1 ≠ k := by
  unfold portReset
  refine ⟨_, rfl, ?_, ?_⟩
  · unfold ctrl
    rw [ite_wr_hosts]
    simp only [Store.get_put_same]
  · intro e he
    rw [ite_wr_hosts] at he
    simpa using (List.mem_filter.mp he).2

theorem portReset_clear (s : State) (k : Fin 4) : PortClear k.val (s.portReset k.val) := by
  obtain ⟨v, heq, hctrl, hfetched⟩ := s.portReset_eq k.val
  obtain ⟨-, hen, hrdy, hgranted, hevent⟩ := portFields_fit k
  obtain ⟨hENa, hRDYa, hGRa, hEVa⟩ := resetFields_apart k
  simp only [List.forall_mem_cons] at hENa hRDYa hGRa
  rw [heq]
  obtain ⟨hframe, hhosts⟩ := (((((v.wr (R.CTRL_EN k.val) 0).wr (R.CTRL_RDY k.val) 0).wr (R.CTRL_CFS k.val) 0).wr (R.Q_GRANTED k.val) 0).wr
    (R.PORT_RESET_EV k.val) 1).transportLost_shows [k.val, 5 + k.val]
  have hhosts' : (((((v.wr (R.CTRL_EN k.val) 0).wr (R.CTRL_RDY k.val) 0).wr (R.CTRL_CFS k.val) 0).wr (R.Q_GRANTED k.val) 0).wr
      (R.PORT_RESET_EV k.val) 1).hosts = v.hosts := by
    rw [wr_hosts, wr_hosts, wr_hosts, wr_hosts, wr_hosts]
  refine ⟨?_, ?_, ?_, ?_, ?_, ?_⟩
  · rw [hframe _ hENa.2.2.2.2, rd_wr_apart _ _ _ _ hENa.2.2.2.1, rd_wr_apart _ _ _ _ hENa.2.2.1, rd_wr_apart _ _ _ _ hENa.2.1,
      rd_wr_apart _ _ _ _ hENa.1, rd_wr_same _ _ _ hen]
    exact Nat.zero_mod _
  · rw [hframe _ hRDYa.2.2.2, rd_wr_apart _ _ _ _ hRDYa.2.2.1, rd_wr_apart _ _ _ _ hRDYa.2.1, rd_wr_apart _ _ _ _ hRDYa.1,
      rd_wr_same _ _ _ hrdy]
    exact Nat.zero_mod _
  · rw [hframe _ hGRa.2, rd_wr_apart _ _ _ _ hGRa.1, rd_wr_same _ _ _ hgranted]
    exact Nat.zero_mod _
  · rw [hframe _ hEVa, rd_wr_same _ _ _ hevent]
    rfl
  · rw [State.ctrl, hhosts, hhosts']
    exact hctrl
  · rw [hhosts, hhosts']
    exact hfetched

theorem PortClear.linkDown {k : Fin 4} {t : State} (h : PortClear k.val t) : PortClear k.val (t.linkDown k.val) := by
  have hframe := t.linkDown_frame k.val
  have hapart := linkDown_apart k
  exact ⟨(hframe _ fun f hf => (hapart f hf).1).trans h.en, (hframe _ fun f hf => (hapart f hf).2.1).trans h.rdy,
    (hframe _ fun f hf => (hapart f hf).2.2.1).trans h.granted, (hframe _ fun f hf => (hapart f hf).2.2.2).trans h.event,
    by rw [State.ctrl, linkDown_hosts]; exact h.ctrl, by rw [linkDown_hosts]; exact h.fetched⟩

/-! ### Enabling a controller (R161, R168) -/

/-- Saved features put in force change a controller's features only. -/
theorem restoreFeats_shows (s : State) (k : Nat) : (s.restoreFeats k).regs = s.regs ∧ ((s.restoreFeats k).ctrl k).sqs = (s.ctrl k).sqs
    ∧ ((s.restoreFeats k).ctrl k).quota = (s.ctrl k).quota := by
  have hfold (l : List (Nat × Nat)) (u : State) :
      (l.foldl (fun s e => s.modCtrl k fun c => { c with feats := Store.put 0 c.feats (e.1 % 65536) e.2 }) u).regs = u.regs
        ∧ ((l.foldl (fun s e => s.modCtrl k fun c => { c with feats := Store.put 0 c.feats (e.1 % 65536) e.2 }) u).ctrl k).sqs = (u.ctrl k).sqs
        ∧ ((l.foldl (fun s e => s.modCtrl k fun c => { c with feats := Store.put 0 c.feats (e.1 % 65536) e.2 }) u).ctrl k).quota
          = (u.ctrl k).quota := by
    induction l generalizing u with
    | nil => exact ⟨rfl, rfl, rfl⟩
    | cons e l ih =>
      rw [List.foldl_cons]
      obtain ⟨hregs, hsqs, hquota⟩ := ih (u.modCtrl k fun c => { c with feats := Store.put 0 c.feats (e.1 % 65536) e.2 })
      exact ⟨hregs, by rw [hsqs, ctrl_modCtrl_same], by rw [hquota, ctrl_modCtrl_same]⟩
  obtain hfold := hfold (s.nv.savedFeats.filter fun e => e.1 / 65536 == k) s
  unfold restoreFeats
  dsimp only
  split
  · exact hfold
  · exact hfold

theorem enableFields_apart (k : Fin 4) : (R.Q_GRANTED k.val).apart (R.CTRL_EN k.val) = true := by revert k; decide

/-- A controller put in place and enabled, its saved features in force. -/
theorem enabled_shows (s : State) (k : Fin 4) (c : Ctrl) {t : State}
    (ht : t = ((({ s with hosts := { s.hosts with ctrl := Store.put {} s.hosts.ctrl k.val c } }).wr (R.CTRL_EN k.val) 1).wr
      (R.Q_GRANTED k.val) 0).restoreFeats k.val) :
    t.flag (R.CTRL_EN k.val) = true ∧ (t.ctrl k.val).sqs = c.sqs ∧ (t.ctrl k.val).quota = c.quota
      ∧ RegFrame s t [R.CTRL_EN k.val, R.Q_GRANTED k.val] := by
  obtain ⟨-, hen, -⟩ := portFields_fit k
  obtain ⟨u, hu, hregs, hctrl⟩ : ∃ u : State, { s with hosts := { s.hosts with ctrl := Store.put {} s.hosts.ctrl k.val c } } = u
      ∧ u.regs = s.regs ∧ u.ctrl k.val = c := by
    refine ⟨_, rfl, rfl, ?_⟩
    unfold ctrl
    simp only [Store.get_put_same]
  rw [hu] at ht
  obtain ⟨hrregs, hrsqs, hrquota⟩ := ((u.wr (R.CTRL_EN k.val) 1).wr (R.Q_GRANTED k.val) 0).restoreFeats_shows k.val
  have hkept : ((u.wr (R.CTRL_EN k.val) 1).wr (R.Q_GRANTED k.val) 0).ctrl k.val = c := by
    rw [ctrl, wr_hosts, wr_hosts]
    exact hctrl
  rw [ht]
  refine ⟨?_, by rw [hrsqs, hkept], by rw [hrquota, hkept], ?_⟩
  · rw [flag, rd_congr hrregs, rd_wr_apart _ _ _ _ (enableFields_apart k), rd_wr_same _ _ _ hen]
    rfl
  · exact (regFrame_congr hrregs).mpr ((Machine.regFrame_wr (by simp)).mpr ((Machine.regFrame_wr (by simp)).mpr
      ((regFrame_congr hregs).mpr (regFrame_same s _))))

end State

theorem pcieReset_completes (s : State) (hdom : s.dom.core = true) : Completes (exec .pcieReset s) fun t =>
    t.pins.perstN = false ∧ t.pins.training = 0 ∧ t.rd R.RC_PERST = 1 := by
  refine ⟨_, congrArg Host.Outcome.next (if_pos hdom), ?_⟩
  unfold State.pcieReset
  dsimp only
  exact ⟨by rw [State.wr_pins], by rw [State.wr_pins], (State.rd_wr_same _ _ _ (by decide)).trans rfl⟩

theorem pcieLinkTraining_completes (s : State) (k : Fin 4) (hdom : s.dom.core = true) (hport : s.flag (R.PORT_PRESENT k.val) = true) :
    Completes (exec (.pcieLinkTraining k) s) fun t =>
      t.pins.perstN = true ∧ t.pins.training.testBit k.val = true ∧ t.regs = s.regs :=
  ⟨_, congrArg Host.Outcome.next (if_pos (by rw [hdom, hport]; rfl)), rfl, by simp [Arith.testBit_setBit], rfl⟩

theorem four_le_lanes (s : State) : 4 ≤ s.lanes := by
  unfold State.lanes
  split
  · decide
  · split <;> decide

theorem pcieLinkUp_completes (s : State) (k : Fin 4) (speed : Fin 7) (flit : Bool) (htrain : s.pins.training.testBit k.val = true)
    (hspeed : speed.val ≠ 0) : Completes (exec (.pcieLinkUp k speed 4 flit) s) fun t =>
      t.rd (R.LINK_SPEED k.val) = speed.val ∧ t.rd (R.LINK_WIDTH k.val) = 4 ∧ t.flag (R.LINK_FLIT k.val) = (flit || speed.val == 6)
        ∧ RegsOnly s t := by
  obtain ⟨⟨hsfits, hwfits, hffits, -⟩, -⟩ := State.portFields_fit k
  obtain ⟨hws, hfs, hfw, -⟩ := State.linkFields_apart k
  have hlanes := four_le_lanes s
  refine ⟨_, congrArg Host.Outcome.next (if_pos (by simp [htrain, hspeed, hlanes])), ?_, ?_, State.flag_wrFlag_same _ _ _ hffits,
    (((RegsOnly.refl s).wr _ _).wr _ _).wrFlag _ _⟩
  · rw [State.rd_wrFlag_apart _ _ _ _ hfs, State.rd_wr_apart _ _ _ _ hws, State.rd_wr_same _ _ _ hsfits]
    exact Nat.mod_eq_of_lt (lt_trans speed.isLt (show 7 < 2 ^ 3 by decide))
  · rw [State.rd_wrFlag_apart _ _ _ _ hfw, State.rd_wr_same _ _ _ hwfits]
    rfl

theorem linkL12Change_completes (s : State) (k : Fin 4) (b : Bool) (hdom : s.dom.core = true)
    (hport : s.flag (R.PORT_PRESENT k.val) = true) (hstate : s.rd R.PSTATE_NOW ≠ 5) : Completes (exec (.linkL12Change k b) s) fun t =>
      t.flag (R.LINK_L12 k.val) = b ∧ RegFrame s t [R.LINK_L12 k.val]
        ∧ (t.pm.l12Running = true ↔ ∀ j < 4, t.flag (R.PORT_PRESENT j) = true → t.flag (R.LINK_L12 j) = true) := by
  obtain ⟨⟨-, -, -, hfits⟩, -⟩ := State.portFields_fit k
  refine ⟨_, congrArg Host.Outcome.next (if_pos (by simp [hdom, hport, hstate])), State.flag_wrFlag_same _ _ _ hfits,
    regFrame_update.mpr ((regFrame_wrFlag (by simp)).mpr (regFrame_same s _)), ?_⟩
  generalize s.wrFlag (R.LINK_L12 k.val) b = u
  change ((List.range 4).all fun k => !u.flag (R.PORT_PRESENT k) || u.flag (R.LINK_L12 k)) = true
    ↔ ∀ j < 4, u.flag (R.PORT_PRESENT j) = true → u.flag (R.LINK_L12 j) = true
  simp only [List.all_eq_true, List.mem_range, Bool.or_eq_true, Bool.not_eq_true']
  refine forall₂_congr fun j _ => ?_
  cases u.flag (R.PORT_PRESENT j) <;> simp

theorem portReset_completes (s : State) (k : Fin 4) (c : PortResetCause) (hdom : s.dom.core = true)
    (hport : s.flag (R.PORT_PRESENT k.val) = true) : Completes (exec (.portReset k c) s) fun t =>
      t.flag (R.CTRL_EN k.val) = false ∧ t.flag (R.CTRL_RDY k.val) = false ∧ t.rd (R.Q_GRANTED k.val) = 0
        ∧ t.flag (R.PORT_RESET_EV k.val) = true ∧ t.ctrl k.val = {}
        ∧ (∀ e ∈ t.hosts.fetched, e.1 ≠ k.val) ∧ (c = .linkDown → t.rd (R.LINK_SPEED k.val) = 0) := by
  refine ⟨_, congrArg Host.Outcome.next (if_pos (by rw [hdom, hport]; rfl)), ?_⟩
  have hclear := s.portReset_clear k
  dsimp only
  by_cases hc : c = .linkDown
  · rw [if_pos hc]
    have hclear := hclear.linkDown
    exact ⟨by rw [State.flag, hclear.en]; rfl, by rw [State.flag, hclear.rdy]; rfl, hclear.granted,
      by rw [State.flag, hclear.event]; rfl, hclear.ctrl, hclear.fetched, fun _ => State.rd_linkDown_speed _ k⟩
  · rw [if_neg hc]
    exact ⟨by rw [State.flag, hclear.en]; rfl, by rw [State.flag, hclear.rdy]; rfl, hclear.granted,
      by rw [State.flag, hclear.event]; rfl, hclear.ctrl, hclear.fetched, fun h => absurd h hc⟩

theorem ccEnSet_completes (s : State) (k : Fin 4) (ams : BitVec 3) (a b : BitVec 12) (hdom : s.dom.core = true)
    (hport : s.flag (R.PORT_PRESENT k.val) = true) (hoff : s.flag (R.CTRL_EN k.val) = false) :
    Completes (exec (.ccEnSet k ams a b) s) fun t =>
      t.flag (R.CTRL_EN k.val) = true ∧ (t.ctrl k.val).sqs = [(0, some { size := a.toNat + 1, cq := 0, prio := 0 })]
        ∧ (t.ctrl k.val).quota = s.rd (R.Q_QUOTA k.val) ∧ RegFrame s t [R.CTRL_EN k.val, R.Q_GRANTED k.val] := by
  refine ⟨_, congrArg Host.Outcome.next (if_pos (by rw [hdom, hport, hoff]; rfl)), ?_⟩
  exact s.enabled_shows k { ams := ams.toNat, quota := s.rd (R.Q_QUOTA k.val), wctemp := s.rd R.THR_WARN + 273
                            cctemp := s.rd R.THR_THROTTLE + 273, sqs := [(0, some { size := a.toNat + 1, cq := 0, prio := 0 })]
                            cqs := [(0, some { size := b.toNat + 1, vector := 0, ien := true })] } rfl

theorem controllerReady_eq (s : State) (k : Fin 4) (hen : s.flag (R.CTRL_EN k.val) = true) (hboot : s.flag R.BOOT_RECOVERY = false) :
    exec (.controllerReady k) s = .next (s.wr (R.CTRL_RDY k.val) 1) :=
  congrArg Host.Outcome.next ((if_pos hen).trans (if_neg (by rw [hboot]; decide)))

theorem shutdownNotification_eq (s : State) (k : Fin 4) (shn : BitVec 2) (hen : s.flag (R.CTRL_EN k.val) = true) (hshn : shn = 1 ∨ shn = 2) :
    exec (.shutdownNotification k shn) s = .next (s.modCtrl k.val fun c => { c with stopFetch := true, shst := 1 }) := by
  refine congrArg Host.Outcome.next (if_pos ?_)
  rcases hshn with rfl | rfl <;> simp [hen]

theorem shutdownComplete_eq (s : State) (k : Fin 4) (hshst : (s.ctrl k.val).shst = 1) (hfetched : ∀ e ∈ s.hosts.fetched, e.1 ≠ k.val)
    (hcmds : ∀ c ∈ s.hosts.cmds, c.port = k.val → c.tag ∈ (s.ctrl k.val).aers) :
    exec (.shutdownComplete k) s = .next (s.modCtrl k.val fun c => { c with shst := 2 }) := by
  refine congrArg Host.Outcome.next (if_pos ⟨hshst, ?_⟩)
  rw [Bool.or_eq_false_iff, List.any_eq_false, List.any_eq_false]
  constructor
  · intro c hc hall
    simp only [Bool.and_eq_true, beq_iff_eq, Bool.not_eq_true', List.contains_eq_mem, decide_eq_false_iff_not] at hall
    exact hall.2 (hcmds c hc hall.1)
  · intro e he hk
    exact hfetched e he (beq_iff_eq.mp hk)

end Sys2Proof.Machine

open Sys2Proof Sys2Proof.Machine in
/-- Settles O10: ports by their registers, controllers by the hosts' store. -/
theorem portCommandsComplete : Obligations.PortCommandsComplete := by
  unfold Obligations.PortCommandsComplete
  exact ⟨pcieReset_completes, pcieLinkTraining_completes, pcieLinkUp_completes, linkL12Change_completes, portReset_completes,
    ccEnSet_completes, controllerReady_eq, shutdownNotification_eq, shutdownComplete_eq⟩
end

section
/-!
Namespaces, directives, firmware and erasure over the NVMe admin queue (O15).
-/
namespace Sys2Proof.Machine

open Sys2Proof.Arith

namespace State

theorem onAdmin_of_live {s : State} {g : BitVec 13} {op : Nat} {c : Cmd} (h : s.live g (isAdmin op) c) (f : Cmd → State) :
    s.onAdmin g.toNat op f = f c := by
  obtain ⟨hcmd, hdone, hok⟩ := h
  obtain ⟨hport, hqueue, hop⟩ := of_decide_eq_true hok
  exact onAdmin_of_cmd hcmd hport hqueue hop hdone f

/-! ### What erasing and announcing leave of the hosts -/

theorem takeContext_hosts (s : State) (k : Nat) : (s.takeContext k).hosts = s.hosts := by
  unfold takeContext
  split
  · rfl
  · split <;> rfl

theorem grantContexts_hosts (s : State) : s.grantContexts.hosts = s.hosts := by
  have hfold (l : List Nat) (u : State) : (l.foldl takeContext u).hosts = u.hosts := by
    induction l generalizing u with
    | nil => rfl
    | cons k l ih => rw [List.foldl_cons, ih, takeContext_hosts]
  exact hfold _ _

theorem clearNamespace_hosts (s : State) (ns : Nat) : (s.clearNamespace ns).hosts = s.hosts := by
  unfold clearNamespace refreshBuffer refreshZones
  dsimp only
  rw [wr_hosts, wr_hosts, grantContexts_hosts]

theorem journal_hosts (s : State) : s.journal.hosts = s.hosts := by
  unfold journal
  dsimp only
  rw [wr_hosts, wr_hosts]

theorem cryptoErase_hosts (s : State) (ns : Nat) : (s.cryptoErase ns).hosts = s.hosts := by
  unfold cryptoErase
  rw [raise_hosts, count_hosts, journal_hosts, clearNamespace_hosts]
  rfl

/-- An announcement to the SAS nexuses leaves the commands, the namespaces and the registers. -/
theorem announceNs_shows (s : State) : s.announceNs.hosts.cmds = s.hosts.cmds ∧ s.announceNs.nv = s.nv ∧ s.announceNs.regs = s.regs := by
  obtain ⟨m, hm⟩ := s.postUaAll_nexus 0x3F0E none
  unfold announceNs
  rw [hm]
  exact ⟨rfl, rfl, rfl⟩

/-- An event to the controllers leaves the boot state and the registers. -/
theorem asyncEvent_shows (s : State) (k dw0 : Nat) : (s.asyncEvent k dw0).boot = s.boot ∧ (s.asyncEvent k dw0).regs = s.regs := by
  unfold asyncEvent
  split <;> exact ⟨rfl, rfl⟩

theorem eventAll_shows (s : State) (dw0 : Nat) (e : Option Nat) : (s.eventAll dw0 e).boot = s.boot ∧ (s.eventAll dw0 e).regs = s.regs := by
  unfold eventAll
  generalize List.range 4 = l
  induction l generalizing s with
  | nil => exact ⟨rfl, rfl⟩
  | cons k l ih =>
    rw [List.foldl_cons]
    obtain ⟨hboot, hregs⟩ := ih (if some k = e || !s.flag (R.CTRL_EN k) then s else s.asyncEvent k dw0)
    rw [hboot, hregs]
    split
    · exact ⟨rfl, rfl⟩
    · exact s.asyncEvent_shows k dw0

/-! ### Namespaces -/

theorem deleteNs_shows {s : State} {g : Nat} {c : Cmd} (hcmd : s.cmd g = some c) (hdone : c.done = none)
    (hns : s.nsExists c.req.ns = true) (himages : s.imagesConsumed = true) :
    (s.deleteNs c).endedAs g doneOk ∧ (s.deleteNs c).namespaceOf c.req.ns = none := by
  obtain ⟨u, hu, hucmds, hunv⟩ : ∃ u : State, s.deleteNs c = u.announceNs.finish c.tag doneOk ∧ u.hosts.cmds = s.hosts.cmds
      ∧ u.namespaceOf c.req.ns = none := by
    unfold deleteNs
    rw [hns, himages]
    refine ⟨_, rfl, ?_, ?_⟩
    · dsimp only
      rw [wr_hosts, wr_hosts, cryptoErase_hosts]
    · unfold namespaceOf
      dsimp only
      rw [wr_nv, wr_nv]
      simp only [Store.get_put_same]
  obtain ⟨hcmds, hnv, -⟩ := u.announceNs_shows
  rw [hu, cmd_tag hcmd]
  exact ⟨endedAs_finish ((cmd_congr (hcmds.trans hucmds) g).trans hcmd) hdone _,
    by rw [namespaceOf, finish_nv, hnv]; exact hunv⟩

theorem attachNs_shows {s : State} {g : Nat} {c : Cmd} {n : Namespace} (hcmd : s.cmd g = some c) (hdone : c.done = none)
    (hsel : c.req.cdw10 % 16 = 0) (hns : s.namespaceOf c.req.ns = some n) (hports : c.req.ranges = [(1, 0)]) :
    (s.attachNs c).endedAs g doneOk ∧ (s.attachNs c).namespaceOf c.req.ns = some { n with attached := putBit n.attached 0 true }
      ∧ (s.attachNs c).regs = s.regs := by
  obtain ⟨u, hu, hucmds, hunv, huregs⟩ : ∃ u : State, s.attachNs c = u.announceNs.finish c.tag doneOk ∧ u.hosts.cmds = s.hosts.cmds
      ∧ u.namespaceOf c.req.ns = some { n with attached := putBit n.attached 0 true } ∧ u.regs = s.regs := by
    unfold attachNs
    rw [hns]
    dsimp only
    rw [if_neg (by omega), hports, hsel]
    refine ⟨_, rfl, rfl, ?_, rfl⟩
    unfold namespaceOf
    simp only [List.map_cons, List.map_nil, Nat.sub_self, List.filter_cons, List.filter_nil, Nat.zero_lt_succ, decide_true, if_true,
      List.foldl_cons, List.foldl_nil, modCtrl, Store.get_put_same, beq_self_eq_true]
  obtain ⟨hcmds, hnv, hregs⟩ := u.announceNs_shows
  rw [hu, cmd_tag hcmd]
  exact ⟨endedAs_finish ((cmd_congr (hcmds.trans hucmds) g).trans hcmd) hdone _,
    by rw [namespaceOf, finish_nv, hnv]; exact hunv, (finish_regs _ _ _).trans (hregs.trans huregs)⟩

theorem directiveSend_releaseAll {s : State} {c : Cmd} {n : Namespace} (hop : c.req.cdw11 % 65536 = 0x102)
    (hns : s.namespaceOf c.req.ns = some n) : s.directiveSend c =
      ({ s with nv := { s.nv with namespaces := Store.put none s.nv.namespaces c.req.ns (some { n with streams := [] }) } } : State).finish
        c.tag doneOk := by
  unfold directiveSend
  dsimp only
  rw [if_neg (by omega), if_neg (by omega), if_pos (by omega)]
  unfold modNs
  rw [hns]

/-! ### Firmware -/

/-- One block staged. -/
theorem stage_single (s : State) (ep b v : Nat) :
    s.stage ep b [v] = { s with hosts := { s.hosts with fwStage := Store.put 0 s.hosts.fwStage (ep * 65536 + b) v } } := by
  unfold stage
  simp

/-- A commit to the second slot by a host: the image is checked, and begins to be written where it is accepted. -/
theorem hostCommit_second {s : State} {c : Cmd} {action : Nat} (hidle : s.boot.update = none)
    (hactive : action = 3 → s.boot.activation = none) (hruns : s.slotRuns 1 = false) :
    (imageCode s.fuses (s.stagedImage c.port) false false = 0 → s.hostCommit c 1 action
        = { s with boot := { s.boot with update := some ⟨c.port, 1, action, s.stagedImage c.port, some c.tag⟩ } })
      ∧ (imageCode s.fuses (s.stagedImage c.port) false false ≠ 0 → s.hostCommit c 1 action
        = (s.raise 202).finish c.tag (rejectDone (imageCode s.fuses (s.stagedImage c.port) false false))) := by
  have hfree : ¬ ((s.boot.update.isSome || (action == 3 && s.boot.activation.isSome)) = true) := by
    simp only [hidle, Option.isSome_none, Bool.false_or, Bool.and_eq_true, beq_iff_eq, not_and]
    intro h3
    simp [hactive h3]
  have hslot : decide (2 ≤ 1) = false := rfl
  unfold hostCommit
  rw [if_neg hfree, hruns, if_neg Bool.false_ne_true]
  constructor
  · intro hcode
    simp only [startCommit, hslot, hcode, if_true]
  · intro hcode
    simp only [startCommit, hslot, if_neg hcode]

theorem firmwareCommit_second {s : State} {c : Cmd} {action : Nat} (hle : action ≤ 3) (hcdw : c.req.cdw10 = 8 * action + 2) :
    s.firmwareCommit (decide (action = 3)) c = s.hostCommit c 1 action := by
  have haction : c.req.cdw10 / 8 % 8 = action := by omega
  have hslot : c.req.cdw10 % 8 = 2 := by omega
  unfold firmwareCommit
  dsimp only
  rw [haction, hslot, if_neg (by simp), if_neg (by omega), if_neg (by omega)]

/-- A record written to the boot control area leaves the slots, the update under way and the registers. -/
theorem writeBootRecord_shows (s : State) (f : BootRec → BootRec) : (s.writeBootRecord f).boot.update = s.boot.update
    ∧ (s.writeBootRecord f).boot.slots = s.boot.slots ∧ (s.writeBootRecord f).regs = s.regs := by
  unfold writeBootRecord
  dsimp only
  split <;> split <;> exact ⟨rfl, rfl, rfl⟩

theorem commitRecordFor_shows (s : State) (j : UpdateJob) : (s.commitRecordFor j).boot.update = s.boot.update
    ∧ (s.commitRecordFor j).boot.slots = s.boot.slots := by
  unfold commitRecordFor
  split
  · split
    · exact ⟨(s.writeBootRecord_shows _).1, (s.writeBootRecord_shows _).2.1⟩
    · split
      · exact ⟨(s.free.2.writeBootRecord_shows _).1, (s.free.2.writeBootRecord_shows _).2.1⟩
      · exact ⟨rfl, rfl⟩
  · exact ⟨rfl, rfl⟩

theorem stageActivation_shows (s : State) (j : UpdateJob) : (s.stageActivation j).boot.update = s.boot.update
    ∧ (s.stageActivation j).boot.slots = s.boot.slots ∧ (s.stageActivation j).regs = s.regs := by
  obtain ⟨m, hm⟩ := ({ s with boot := { s.boot with activation := some ⟨j.image, j.slot, j.tag⟩ } } : State).postUaAll_nexus 0x3F01 none
  unfold stageActivation
  rw [hm]
  obtain ⟨hboot, hregs⟩ := eventAll_shows ({ s with boot := { s.boot with activation := some ⟨j.image, j.slot, j.tag⟩ }
                                                    hosts := { s.hosts with nexus := m } }) 0x030102 none
  exact ⟨by rw [hboot], by rw [hboot], hregs⟩

theorem ite_mgt_shows (p : Prop) [Decidable p] (s : State) (m : Mgt) :
    (if p then { s with mgt := m } else s).boot = s.boot ∧ (if p then { s with mgt := m } else s).regs = s.regs := by
  split <;> exact ⟨rfl, rfl⟩

/-- The NOR write of an update ends: its image stands in its slot and line 201 pends. -/
theorem updateDone_shows {s : State} {j : UpdateJob} (h : s.boot.update = some j) :
    s.updateDone.boot.update = none ∧ Store.get none s.updateDone.boot.slots j.slot = some j.image
      ∧ s.updateDone.linePending 201 = true := by
  obtain ⟨u, hu, hupdate, hslots, hline⟩ : ∃ u : State, s.updateDone = (if j.action = 3 then u.stageActivation j else match j.tag with
        | some t => u.finish t doneOk
        | none => u)
      ∧ u.boot.update = none ∧ Store.get none u.boot.slots j.slot = some j.image ∧ u.linePending 201 = true := by
    unfold updateDone
    rw [h]
    refine ⟨_, rfl, ?_, ?_, ?_⟩
    · rw [(ite_mgt_shows _ _ _).1, raise_boot, (commitRecordFor_shows _ j).1]
    · rw [(ite_mgt_shows _ _ _).1, raise_boot, (commitRecordFor_shows _ j).2]
      simp only [Store.get_put_same]
    · rw [linePending_congr (ite_mgt_shows _ _ _).2, linePending_raise]
  rw [hu]
  split
  · obtain ⟨hb, hs, hr⟩ := u.stageActivation_shows j
    exact ⟨hb.trans hupdate, by rw [hs, hslots], (linePending_congr hr 201).trans hline⟩
  · split
    · exact ⟨hupdate, hslots, (linePending_congr rfl 201).trans hline⟩
    · exact ⟨hupdate, hslots, hline⟩

end State

/-! ### The clauses -/

theorem namespaceManagement_completes (s : State) (g : BitVec 13) (c : Cmd) (h : s.live g (isAdmin 0x0D) c) (hsel : c.req.cdw10 % 16 = 1)
    (hns : s.nsExists c.req.ns = true) (himages : s.imagesConsumed = true) : Completes (exec (.namespaceManagement g) s) fun t =>
      t.endedAs g.toNat doneOk ∧ t.namespaceOf c.req.ns = none :=
  ⟨_, congrArg Host.Outcome.next ((State.onAdmin_of_live h _).trans ((if_neg (by omega)).trans (if_pos hsel))),
    State.deleteNs_shows h.1 h.2.1 hns himages⟩

theorem namespaceAttachment_completes (s : State) (g : BitVec 13) (c : Cmd) (n : Namespace) (h : s.live g (isAdmin 0x15) c)
    (hsel : c.req.cdw10 % 16 = 0) (hns : s.namespaceOf c.req.ns = some n) (hports : c.req.ranges = [(1, 0)]) :
    Completes (exec (.namespaceAttachment g) s) fun t => t.endedAs g.toNat doneOk
      ∧ t.namespaceOf c.req.ns = some { n with attached := putBit n.attached 0 true } ∧ t.regs = s.regs :=
  ⟨_, congrArg Host.Outcome.next (State.onAdmin_of_live h _), State.attachNs_shows h.1 h.2.1 hsel hns hports⟩

theorem firmwareImageDownload_completes (s : State) (g : BitVec 13) (c : Cmd) (b : Block) (h : s.live g (isAdmin 0x11) c)
    (hlen : c.req.cdw10 = 1023) (hofs : c.req.cdw11 % 1024 = 0) : Completes (exec (.firmwareImageDownload g [b]) s) fun t =>
      t.endedAs g.toNat doneOk ∧ t.regs = s.regs
        ∧ t.hosts.fwStage = Store.put 0 s.hosts.fwStage (c.port * 65536 + 4 * c.req.cdw11 / 4096) b.toNat := by
  refine ⟨_, congrArg Host.Outcome.next (State.onAdmin_of_live h _), ?_⟩
  unfold State.download
  dsimp only
  have htake : ([b].map (·.toNat)).take (4 * (1023 + 1) / 4096) = [b.toNat] := rfl
  rw [hlen, if_neg (by omega), htake, State.stage_single, State.cmd_tag h.1]
  exact ⟨State.endedAs_finish (s := { s with hosts := { s.hosts with fwStage := _ } }) h.1 h.2.1 _, rfl, rfl⟩

theorem firmwareCommit_completes (s : State) (g : BitVec 13) (c : Cmd) (a : Fin 3) (h : s.live g (isAdmin 0x10) c)
    (hcdw : c.req.cdw10 = 8 * a.val + 2) (hidle : s.boot.update = none) (hruns : s.slotRuns 1 = false) :
    Completes (exec (.firmwareCommit g) s) fun t =>
      (imageCode s.fuses (s.stagedImage c.port) false false = 0 → t.boot.update = some ⟨c.port, 1, a.val, s.stagedImage c.port, some c.tag⟩
          ∧ t.regs = s.regs ∧ t.hosts = s.hosts)
        ∧ (imageCode s.fuses (s.stagedImage c.port) false false ≠ 0 → t.boot = s.boot ∧ t.linePending 202 = true
          ∧ t.endedAs g.toNat (State.rejectDone (imageCode s.fuses (s.stagedImage c.port) false false))) := by
  have ha := a.isLt
  have hcommit : s.firmwareCommit false c = s.hostCommit c 1 a.val := by
    rw [← State.firmwareCommit_second (by omega) hcdw, decide_eq_false (by omega)]
  obtain ⟨hok, hbad⟩ := State.hostCommit_second (c := c) (action := a.val) hidle (by omega) hruns
  refine ⟨_, congrArg Host.Outcome.next ((State.onAdmin_of_live h _).trans hcommit), fun hcode => ?_, fun hcode => ?_⟩
  · rw [hok hcode]
    exact ⟨rfl, rfl, rfl⟩
  · rw [hbad hcode, State.cmd_tag h.1]
    exact ⟨by rw [State.finish_boot, State.raise_boot], (State.linePending_congr (State.finish_regs _ _ _) 202).trans (s.linePending_raise 202),
      State.endedAs_finish ((State.cmd_congr (by rw [State.raise_hosts]) _).trans h.1) h.2.1 _⟩

theorem firmwareCommitActivate_completes (s : State) (g : BitVec 13) (c : Cmd) (h : s.live g (isAdmin 0x10) c)
    (hcdw : c.req.cdw10 = 8 * 3 + 2) (hidle : s.boot.update = none) (hactive : s.boot.activation = none) (hruns : s.slotRuns 1 = false) :
    Completes (exec (.firmwareCommitActivate g) s) fun t =>
      (imageCode s.fuses (s.stagedImage c.port) false false = 0 → t.boot.update = some ⟨c.port, 1, 3, s.stagedImage c.port, some c.tag⟩
          ∧ t.regs = s.regs ∧ t.hosts = s.hosts)
        ∧ (imageCode s.fuses (s.stagedImage c.port) false false ≠ 0 → t.boot = s.boot
          ∧ t.endedAs g.toNat (State.rejectDone (imageCode s.fuses (s.stagedImage c.port) false false))) := by
  have hcommit : s.firmwareCommit true c = s.hostCommit c 1 3 := State.firmwareCommit_second (action := 3) le_rfl hcdw
  obtain ⟨hok, hbad⟩ := State.hostCommit_second (c := c) (action := 3) hidle (fun _ => hactive) hruns
  refine ⟨_, congrArg Host.Outcome.next ((State.onAdmin_of_live h _).trans hcommit), fun hcode => ?_, fun hcode => ?_⟩
  · rw [hok hcode]
    exact ⟨rfl, rfl, rfl⟩
  · rw [hbad hcode, State.cmd_tag h.1]
    exact ⟨by rw [State.finish_boot, State.raise_boot],
      State.endedAs_finish ((State.cmd_congr (by rw [State.raise_hosts]) _).trans h.1) h.2.1 _⟩

theorem directiveSend_completes (s : State) (g : BitVec 13) (c : Cmd) (n : Namespace) (h : s.live g (isAdmin 0x19) c)
    (hop : c.req.cdw11 % 65536 = 0x102) (hns : s.namespaceOf c.req.ns = some n) : Completes (exec (.directiveSend g) s) fun t =>
      t.endedAs g.toNat doneOk ∧ t.namespaceOf c.req.ns = some { n with streams := [] } ∧ t.regs = s.regs := by
  refine ⟨_, congrArg Host.Outcome.next ((State.onAdmin_of_live h _).trans (State.directiveSend_releaseAll hop hns)), ?_, ?_, rfl⟩
  · rw [State.cmd_tag h.1]
    exact State.endedAs_finish (s := { s with nv := _ }) h.1 h.2.1 _
  · rw [State.namespaceOf, State.finish_nv]
    simp only [Store.get_put_same]

theorem formatNvm_eq (s : State) (g : BitVec 13) (c : Cmd) (h : s.live g (isAdmin 0x80) c) (hses : c.req.cdw10 / 512 % 8 = 1)
    (hlbaf : c.req.cdw10 % 16 = 0) (hns : s.nsExists c.req.ns = true)
    (hfree : ∀ e ∈ s.hosts.hzt, e.arrival < c.arrival → e.ns ≠ c.req.ns) (hmtu : s.mtuRuns = true) (himages : s.imagesConsumed = true) :
    exec (.formatNvm g) s = .next (((s.cryptoErase c.req.ns).announceFormat c [c.req.ns]).finish c.tag doneOk) := by
  refine congrArg Host.Outcome.next ((State.onAdmin_of_live h _).trans ?_)
  have hhzt : (s.hosts.hzt.any fun e => decide (e.arrival < c.arrival) && e.ns == c.req.ns) = false := by
    rw [List.any_eq_false]
    intro e he hall
    simp only [Bool.and_eq_true, decide_eq_true_eq, beq_iff_eq] at hall
    exact hfree e he hall.1 hall.2
  unfold State.formatCmd
  dsimp only
  rw [hses, if_neg (by omega)]
  unfold State.formatNs
  rw [if_neg (by simp [hns]), hhzt, hmtu, himages]
  rfl

theorem sanitize_eq (s : State) (g : BitVec 13) (c : Cmd) (h : s.live g (isAdmin 0x84) c) (hact : c.req.cdw10 % 8 = 4)
    (hhzt : s.hosts.hzt = []) (hmtu : s.mtuRuns = true) (himages : s.imagesConsumed = true) : exec (.sanitize g) s =
      .next (((s.allNamespaces.foldl State.cryptoErase s).announceFormat c s.allNamespaces).finish c.tag doneOk) := by
  refine congrArg Host.Outcome.next ((State.onAdmin_of_live h _).trans ?_)
  unfold State.sanitizeCmd
  dsimp only
  rw [if_neg (by omega), if_pos hact]
  unfold State.sanitizeAll
  rw [hhzt, hmtu, himages]
  rfl

end Sys2Proof.Machine

open Sys2Proof Sys2Proof.Machine in
/-- Settles O15: namespaces by their store, firmware by the check of the staged image, erasure by the steps it takes. -/
theorem nvmeAdminCompletes : Obligations.NvmeAdminCompletes := by
  unfold Obligations.NvmeAdminCompletes
  exact ⟨namespaceManagement_completes, namespaceAttachment_completes, firmwareImageDownload_completes, firmwareCommit_completes,
    firmwareCommitActivate_completes, fun _ _ h => .next (State.updateDone_shows h), directiveSend_completes, formatNvm_eq, sanitize_eq⟩
end

section
/-!
The device comes up (O1): what each command of the power-on sequence leaves.
-/
namespace Sys2Proof.Machine

open Sys2Proof.Arith

namespace State

/-- The last writes of a power-on reset, on a state with AON and PSTG supplied. -/
theorem powerOnReset_eq (s : State) (rc : Fld) : ∃ u : State, s.powerOnReset rc
      = (((((((u.wr rc 1).wr R.FATAL_RST_CNT 0).count R.PWR_CYCLES).wr R.IN_OK 1).wr R.PSTATE_NOW 0).wr R.PSTATE_TARGET 0).wr R.PSTATE_BUSY 0)
    ∧ u.dom = { aon := true, pstg := true } ∧ u.pwr.inputSwitch = true ∧ u.fuses = s.fuses :=
  ⟨_, rfl, rfl, rfl, rfl⟩

theorem powerOnReset_shows (s : State) : (s.powerOnReset R.RC_POR).dom = { aon := true, pstg := true }
    ∧ (s.powerOnReset R.RC_POR).pwr.inputSwitch = true ∧ (s.powerOnReset R.RC_POR).rd R.RC_POR = 1
    ∧ (s.powerOnReset R.RC_POR).rd R.IN_OK = 1 ∧ (s.powerOnReset R.RC_POR).fuses = s.fuses := by
  obtain ⟨u, heq, hdom, hpwr, hfuses⟩ := s.powerOnReset_eq R.RC_POR
  rw [heq]
  refine ⟨?_, ?_, ?_, ?_, ?_⟩
  · rw [wr_dom, wr_dom, wr_dom, wr_dom, count_dom, wr_dom, wr_dom, hdom]
  · rw [wr_pwr, wr_pwr, wr_pwr, wr_pwr, count_pwr, wr_pwr, wr_pwr, hpwr]
  · rw [rd_wr_apart _ _ _ _ (by decide), rd_wr_apart _ _ _ _ (by decide), rd_wr_apart _ _ _ _ (by decide),
      rd_wr_apart _ _ _ _ (by decide), rd_count_apart _ _ _ _ (by decide), rd_wr_apart _ _ _ _ (by decide),
      rd_wr_same _ _ _ (by decide)]
    rfl
  · rw [rd_wr_apart _ _ _ _ (by decide), rd_wr_apart _ _ _ _ (by decide), rd_wr_apart _ _ _ _ (by decide), rd_wr_same _ _ _ (by decide)]
    rfl
  · rw [wr_fuses, wr_fuses, wr_fuses, wr_fuses, count_fuses, wr_fuses, wr_fuses, hfuses]

/-! ### The core's release (R121) -/

theorem showNamespaces_regsOnly (s : State) : RegsOnly s s.showNamespaces := by
  refine (RegsOnly.refl s).foldl (fun u e => ?_) _
  split
  · dsimp only
    split
    · exact (((RegsOnly.refl u).wr _ _).wr _ _).wrFlag _ _
    · exact (RegsOnly.refl u).wr _ _
  · exact RegsOnly.refl u

theorem refreshTags_regsOnly (s : State) : RegsOnly s s.refreshTags :=
  ((RegsOnly.refl s).foldl (fun u _ => (RegsOnly.refl u).wr _ _) _).wr _ _

/-- The core's release writes registers only, beyond the boot state, the pins and the domains. -/
theorem coreRelease_regsOnly (s : State) (b : Nat) : ∃ u : State, RegsOnly u (s.coreRelease b) ∧ u.dom.core = true
    ∧ u.boot.phase = .rom ∧ u.boot.cores = 1 ∧ u.pins.bifsel = b := by
  refine ⟨{ s with
    boot := { s.boot with phase := .rom, width := if s.boot.widthSampled then s.boot.width else widthOf b, widthSampled := true, cores := 1 }
    pins := { s.pins with bifsel := b }, dom := { s.dom with core := true, hphy := s.dom.hphy ||| 0xF } }, ?_, rfl, rfl, rfl, rfl⟩
  unfold coreRelease
  exact ((((((RegsOnly.refl _).foldl (fun u _ => ((RegsOnly.refl u).wr _ _).wr _ _) _).wr _ _).trans
    (showNamespaces_regsOnly _)).wrFlag _ _).trans (refreshTags_regsOnly _))

end State

theorem RegsOnly.dom {s t : State} (h : RegsOnly s t) : t.dom = s.dom := (congrArg State.dom h).trans rfl
theorem RegsOnly.boot {s t : State} (h : RegsOnly s t) : t.boot = s.boot := (congrArg State.boot h).trans rfl
theorem RegsOnly.pins {s t : State} (h : RegsOnly s t) : t.pins = s.pins := (congrArg State.pins h).trans rfl

theorem xt32Stable_completes (s : State) (hdom : s.dom.aon = true) : Completes (exec .xt32Stable s) fun t =>
    t.rd R.XT32_OK = 1 ∧ RegsOnly s t ∧ RegFrame s t [R.XT32_OK] :=
  ⟨_, congrArg Host.Outcome.next (if_pos hdom), (State.rd_wr_same _ _ _ (by decide)).trans rfl, (RegsOnly.refl s).wr _ _,
    (regFrame_wr (by simp)).mpr (regFrame_same s _)⟩

theorem powerOnReset_completes (s : State) (h : (s.dom.pstg && s.flag R.IN_OK) = false) : Completes (exec .powerOnReset s) fun t =>
    t.dom = { aon := true, pstg := true } ∧ t.pwr.inputSwitch = true ∧ t.rd R.RC_POR = 1 ∧ t.rd R.IN_OK = 1 ∧ t.fuses = s.fuses :=
  ⟨_, congrArg Host.Outcome.next (if_neg (by rw [h]; decide)), s.powerOnReset_shows⟩

theorem inrushComplete_completes (s : State) (hdom : s.dom.pstg = true) (hswitch : s.pwr.inputSwitch = true) :
    Completes (exec .inrushComplete s) fun t => t.pwr.xt25En = true ∧ t.rd R.INRUSH_DONE = 1 ∧ RegFrame s t [R.INRUSH_DONE] :=
  ⟨_, congrArg Host.Outcome.next (if_pos (by rw [hdom, hswitch]; rfl)), by rw [State.wr_pwr], (State.rd_wr_same _ _ _ (by decide)).trans rfl,
    (regFrame_wr (by simp)).mpr (regFrame_update.mpr (regFrame_same s _))⟩

theorem xt25Stable_completes (s : State) (h : s.pwr.xt25En = true) : Completes (exec .xt25Stable s) fun t =>
    t.rd R.XT25_OK = 1 ∧ RegsOnly s t ∧ RegFrame s t [R.XT25_OK] :=
  ⟨_, congrArg Host.Outcome.next (if_pos h), (State.rd_wr_same _ _ _ (by decide)).trans rfl, (RegsOnly.refl s).wr _ _,
    (regFrame_wr (by simp)).mpr (regFrame_same s _)⟩

theorem lockFld_shape (p : Pll) : (lockFld p).fits = true ∧ (lockFld p).width = 1 := by cases p <;> decide

theorem pllLock_completes (s : State) (p : Pll) (hxt : s.flag R.XT25_OK = true) (hinrush : s.flag R.INRUSH_DONE = true) :
    Completes (exec (.pllLock p) s) fun t => t.rd (lockFld p) = 1 ∧ t.dom = s.domainsUp p ∧ RegFrame s t [lockFld p] := by
  obtain ⟨hfits, hwidth⟩ := lockFld_shape p
  refine ⟨_, congrArg Host.Outcome.next (if_pos (by rw [hxt, hinrush]; rfl)), ?_, by rw [State.wr_dom],
    (regFrame_wr (by simp)).mpr (regFrame_update.mpr (regFrame_same s _))⟩
  rw [State.rd_wr_same _ _ _ hfits, hwidth]
  rfl

theorem coreResetRelease_completes (s : State) (b : BitVec 2) (hlock : s.flag R.CCLK_LOCK = true) (hphase : s.boot.phase = .held)
    (hdom : s.dom.pstg = true) : Completes (exec (.coreResetRelease b) s) fun t =>
      t.dom.core = true ∧ t.boot.phase = .rom ∧ t.boot.cores = 1 ∧ t.pins.bifsel = b.toNat := by
  obtain ⟨u, hregs, hcore, hrom, hcores, hbif⟩ := s.coreRelease_regsOnly b.toNat
  exact ⟨_, congrArg Host.Outcome.next (if_pos (by rw [hlock, hphase, hdom]; rfl)), by rw [hregs.dom, hcore],
    by rw [hregs.boot, hrom], by rw [hregs.boot, hcores], by rw [hregs.pins, hbif]⟩

theorem dramReady_completes (s : State) (hlock : s.flag R.DCLK_LOCK = true) (hdom : s.dom.core = true) :
    Completes (exec .dramReady s) fun t =>
      t.dom.dram = true ∧ t.dram.fused = s.fuses.spareRows ∧ t.rd R.DRAM_READY = 1 := by
  refine ⟨_, congrArg Host.Outcome.next (if_pos (by rw [hlock, hdom]; rfl)), ?_⟩
  unfold State.countSpares
  refine ⟨by rw [State.wr_dom, State.wr_dom, State.wr_dom], by rw [State.wr_dram, State.wr_dram, State.wr_dram], ?_⟩
  rw [State.rd_wr_apart _ _ _ _ (by decide), State.rd_wr_apart _ _ _ _ (by decide), State.rd_wr_same _ _ _ (by decide)]
  rfl

end Sys2Proof.Machine

open Sys2Proof Sys2Proof.Machine in
/-- Settles O1: each command of the power-on sequence by the fields, the domains and the boot state it leaves. -/
theorem powerUpCompletes : Obligations.PowerUpCompletes := by
  unfold Obligations.PowerUpCompletes
  exact ⟨fun _ => .next ⟨rfl, rfl, rfl, rfl, rfl⟩, xt32Stable_completes, powerOnReset_completes, inrushComplete_completes,
    xt25Stable_completes, pllLock_completes, coreResetRelease_completes, dramReady_completes⟩
end

section
/-!
Firmware and the spindle start (O2).
-/
namespace Sys2Proof.Machine

open Sys2Proof.Arith

/-! ### The check of an image (R130) -/

theorem ite_le_of_le {p : Prop} [Decidable p] {a b n : Nat} (ha : a ≤ n) (hb : b ≤ n) : (if p then a else b) ≤ n := by
  split
  · exact ha
  · exact hb

theorem imageCode_le (f : Fuses) (i : Image) (m e : Bool) : imageCode f i m e ≤ 10 := by
  unfold imageCode
  iterate 10 refine ite_le_of_le (by decide) ?_
  exact Nat.zero_le _

namespace State

theorem loadBytes_sram {a : Nat} (h : a < 0x800000000) (s : State) (n v : Nat) :
    (s.loadBytes a n v).boot = s.boot ∧ (s.loadBytes a n v).regs = s.regs := by
  unfold loadBytes
  rw [if_pos h]
  exact ⟨rfl, rfl⟩

/-- A firmware image accepted whose payload goes to SRAM. -/
theorem acceptFirmware_shows (s : State) {i : Image} (h : loadAddress i < 0x800000000) (n : Nat) (first trial : Bool) :
    (s.acceptFirmware i n first trial).boot = { s.boot with phase := .firmwareLoaded, firmware := some i }
      ∧ (s.acceptFirmware i n first trial).rd R.BOOT_SLOT = n % 2
      ∧ (s.acceptFirmware i n first trial).flag R.BOOT_TRIAL = (trial && first)
      ∧ (s.acceptFirmware i n first trial).rd R.FAIL_A = s.rd R.FAIL_A := by
  obtain ⟨hboot, hregs⟩ := loadBytes_sram h s (payloadSize i) i.payload
  unfold acceptFirmware
  dsimp only
  refine ⟨?_, ?_, ?_, ?_⟩
  · rw [wr_boot, wr_boot, wrFlag_boot, wrFlag_boot, wr_boot, hboot]
  · rw [rd_wr_apart _ _ _ _ (by decide), rd_wr_apart _ _ _ _ (by decide), rd_wrFlag_apart _ _ _ _ (by decide),
      rd_wrFlag_apart _ _ _ _ (by decide), rd_wr_same _ _ _ (by decide)]
    rfl
  · rw [flag, rd_wr_apart _ _ _ _ (by decide), rd_wr_apart _ _ _ _ (by decide)]
    exact flag_wrFlag_same _ _ _ (by decide)
  · rw [rd_wr_apart _ _ _ _ (by decide), rd_wr_apart _ _ _ _ (by decide), rd_wrFlag_apart _ _ _ _ (by decide),
      rd_wrFlag_apart _ _ _ _ (by decide), rd_wr_apart _ _ _ _ (by decide), rd_update, rd_congr hregs]

/-- The first check of a boot on slot 0, whose image is bound for SRAM. -/
theorem firmwareSlotCheck_first {s : State} {i : Image} {b : Nat} {trial : Bool} (hphase : s.boot.phase = .rom)
    (horder : s.boot.order = some (0, b, trial)) (hfail : s.rd R.FAIL_A = 0xF) (hslot : Store.get none s.boot.slots 0 = some i)
    (haddr : loadAddress i < 0x800000000) :
    s.firmwareSlotCheck false = if imageCode s.fuses i false false = 0
      then (s.wr R.FAIL_A (imageCode s.fuses i false false)).acceptFirmware i 0 true trial
      else s.wr R.FAIL_A (imageCode s.fuses i false false) := by
  have hchosen : s.chooseOrder = s := by
    unfold chooseOrder
    rw [horder]
  have hfld : failFld 0 = R.FAIL_A := rfl
  unfold firmwareSlotCheck
  rw [if_neg (by simp [hphase]), hchosen]
  dsimp only
  rw [horder]
  dsimp only
  rw [hfld, hfail, show ((0xF : Nat) == 0xF) = true from rfl, if_pos rfl, hslot]
  dsimp only
  rw [if_neg (by omega), hfld, if_pos rfl]

/-! ### The spindle (R122, R437 to R441) -/

theorem setAtSpeed_frame (s : State) (b : Bool) : RegFrame s (s.setAtSpeed b) [R.SPM_AT_SPEED, R.PEND_BITS (152 / 32)] := by
  unfold setAtSpeed
  split
  · exact regFrame_same s _
  · exact (regFrame_raise (by simp)).mpr ((regFrame_wrFlag (by simp)).mpr (regFrame_same s _))

theorem flag_setAtSpeed (s : State) (b : Bool) : (s.setAtSpeed b).flag R.SPM_AT_SPEED = b := by
  unfold setAtSpeed
  split
  · assumption
  · rw [flag, rd_raise _ _ _ (by decide)]
    exact flag_wrFlag_same _ _ _ (by decide)

theorem driveHeld_congr {s t : State} (htap : t.tap = s.tap) (hregen : t.rd R.SPM_REGEN = s.rd R.SPM_REGEN) : t.driveHeld = s.driveHeld := by
  unfold driveHeld boundaryOn flag
  rw [htap, hregen]

/-- The spindle told to turn from rest. -/
theorem spinTo_fromRest {s : State} (hrest : s.rd R.SPM_RPM_NOW = 0) (hstall : s.flag R.SPM_STALL = false) (hheld : s.driveHeld = false)
    (rpm : Nat) : s.spinTo rpm = (({ s.wr R.SPM_RPM rpm with pwr := { (s.wr R.SPM_RPM rpm).pwr with brake := false } } : State).count
      R.SPIN_STARTS).wr R.SPM_STATE 1 := by
  have hstall' : (s.wr R.SPM_RPM rpm).flag R.SPM_STALL = false := by
    rw [flag, rd_wr_apart _ _ _ _ (by decide)]
    exact hstall
  have hheld' : (s.wr R.SPM_RPM rpm).driveHeld = false := by
    rw [driveHeld_congr (s.wr_tap _ _) (rd_wr_apart _ _ _ _ (by decide)), hheld]
  unfold spinTo
  dsimp only
  rw [hstall', hheld', if_neg (by decide), if_pos]
  rw [rd_update, rd_wr_apart _ _ _ _ (by decide), hrest]

end State

/-! ### The clauses of the start -/

theorem firmwareSlotCheck_completes (s : State) (i : Image) (b : Nat) (trial : Bool) (hphase : s.boot.phase = .rom)
    (horder : s.boot.order = some (0, b, trial)) (hfail : s.rd R.FAIL_A = 0xF) (hslot : Store.get none s.boot.slots 0 = some i)
    (haddr : loadAddress i < 0x800000000) : Completes (exec (.firmwareSlotCheck false) s) fun t =>
      t.rd R.FAIL_A = imageCode s.fuses i false false
        ∧ (imageCode s.fuses i false false = 0 → t.boot.phase = .firmwareLoaded ∧ t.boot.firmware = some i ∧ t.rd R.BOOT_SLOT = 0
          ∧ t.flag R.BOOT_TRIAL = trial)
        ∧ (imageCode s.fuses i false false ≠ 0 → t.boot = s.boot ∧ RegFrame s t [R.FAIL_A]) := by
  refine ⟨_, congrArg Host.Outcome.next (State.firmwareSlotCheck_first hphase horder hfail hslot haddr), ?_⟩
  have hcode : (s.wr R.FAIL_A (imageCode s.fuses i false false)).rd R.FAIL_A = imageCode s.fuses i false false := by
    rw [State.rd_wr_same _ _ _ (by decide)]
    exact Nat.mod_eq_of_lt (lt_of_le_of_lt (imageCode_le _ _ _ _) (show 10 < 2 ^ 4 by decide))
  by_cases h0 : imageCode s.fuses i false false = 0
  · obtain ⟨hboot, hbs, htrial, hfa⟩ :=
      (s.wr R.FAIL_A (imageCode s.fuses i false false)).acceptFirmware_shows haddr 0 true trial
    rw [if_pos h0]
    refine ⟨hfa.trans hcode, fun _ => ⟨by rw [hboot], by rw [hboot], hbs, ?_⟩, fun h => absurd h0 h⟩
    rw [htrial, Bool.and_true]
  · rw [if_neg h0]
    exact ⟨hcode, fun h => absurd h h0, fun _ => ⟨by rw [State.wr_boot], (regFrame_wr (by simp)).mpr (regFrame_same s _)⟩⟩

theorem microcodeSlotCheck_eq (s : State) (i : Image) (hphase : s.boot.phase = .firmwareLoaded) (hslot : s.rd R.BOOT_SLOT = 0)
    (hfail : s.rd R.MC_FAIL_A = 0xF) (himage : Store.get none s.boot.slots 2 = some i) : exec (.microcodeSlotCheck false) s =
      .next (if imageCode s.fuses i true false = 0 then (s.wr R.MC_FAIL_A 0).acceptMicrocode i 0
        else s.wr R.MC_FAIL_A (imageCode s.fuses i true false)) := by
  have hfld : State.failFld (2 + 0) = R.MC_FAIL_A := rfl
  refine congrArg Host.Outcome.next ?_
  unfold State.microcodeSlotCheck
  rw [if_neg (by simp [hphase]), hslot]
  dsimp only
  rw [hfld, hfail, show ((0xF : Nat) == 0xF) = true from rfl, if_pos rfl, hfld, hfail, if_neg (by simp), himage]
  dsimp only
  by_cases h0 : imageCode s.fuses i true false = 0
  · rw [if_pos h0, if_pos h0, h0]
  · rw [if_neg h0, if_neg h0]

theorem firmwareEntry_completes (s : State) (h : s.boot.phase = .microcodeLoaded) : Completes (exec .firmwareEntry s) fun t =>
    t.boot.phase = .firmware ∧ t.rd R.PIP_RUN = 1 ∧ RegFrame s t [R.PIP_RUN] := by
  refine ⟨_, congrArg Host.Outcome.next (if_pos (.inl h)), by rw [State.wr_boot], (State.rd_wr_same _ _ _ (by decide)).trans rfl,
    (regFrame_wr (by simp)).mpr (regFrame_update.mpr (regFrame_same s _))⟩

theorem spinUp_completes (s : State) (hdom : s.dom.pstg = true) (hrec : s.flag R.BOOT_RECOVERY = false) (hset : s.rd R.SPM_RPM = 0)
    (hrest : s.rd R.SPM_RPM_NOW = 0) (hstall : s.flag R.SPM_STALL = false) (hheld : s.driveHeld = false) (hspin : s.spinAtBoot = true) :
    Completes (exec .spinUp s) fun t => t.rd R.SPM_RPM = 7200 ∧ t.rd R.SPM_STATE = 1 ∧ t.pwr.brake = false
      ∧ RegFrame s t [R.SPM_RPM, R.SPIN_STARTS, R.SPM_STATE] := by
  refine ⟨_, congrArg Host.Outcome.next ((if_pos (by rw [hdom, hrec, hspin]; rfl)).trans
    ((congrArg _ (if_pos hset)).trans (State.spinTo_fromRest hrest hstall hheld 7200))), ?_, ?_, ?_, ?_⟩
  · rw [State.rd_wr_apart _ _ _ _ (by decide), State.rd_count_apart _ _ _ _ (by decide), State.rd_update,
      State.rd_wr_same _ _ _ (by decide)]
    rfl
  · exact (State.rd_wr_same _ _ _ (by decide)).trans rfl
  · rw [State.wr_pwr, State.count_pwr]
  · exact (regFrame_wr (by simp)).mpr ((regFrame_count (by simp)).mpr (regFrame_update.mpr
      ((regFrame_wr (by simp)).mpr (regFrame_same s _))))

theorem spindleAtSpeed_completes (s : State) (rpm : BitVec 14) (hset : s.rd R.SPM_RPM ≠ 0) (hheld : s.driveHeld = false) :
    Completes (exec (.spindleAtSpeed rpm true) s) fun t =>
      t.rd R.SPM_RPM_NOW = rpm.toNat ∧ t.rd R.SPM_STATE = 4 ∧ t.flag R.SPM_AT_SPEED = true := by
  refine ⟨_, congrArg Host.Outcome.next ((if_neg (by simp [hset, hheld])).trans (if_pos rfl)), ?_,
    (State.rd_wr_same _ _ _ (by decide)).trans rfl, ?_⟩
  · rw [State.rd_wr_apart _ _ _ _ (by decide), State.setAtSpeed_frame _ _ _ (by decide), State.rd_wr_same _ _ _ (by decide)]
    exact Nat.mod_eq_of_lt rpm.isLt
  · rw [State.flag, State.rd_wr_apart _ _ _ _ (by decide)]
    exact State.flag_setAtSpeed _ true

theorem spindleStall_eq (s : State) (hset : s.rd R.SPM_RPM ≠ 0) (hheld : s.driveHeld = false) : exec .spindleStall s =
    .next ((((((s.wr R.SPM_STALL 1).wr R.SPM_STATE 0).setAtSpeed false).wr R.SPM_RPM_NOW 0).raise 153).detect 320) :=
  congrArg Host.Outcome.next (if_neg (by simp [hset, hheld]))

theorem fuseBurnComplete_revoke (s : State) (k : Nat) (h : s.boot.burn = some (.revoke k)) : Completes (exec .fuseBurnComplete s) fun t =>
    t.boot.burn = none ∧ t.fuses.revoked.testBit k = true ∧ t.fuses.unburned = s.fuses.unburned ∧ t.regs = s.regs := by
  change Completes (.next s.burnDone) _
  unfold State.burnDone
  rw [h]
  exact .next ⟨rfl, by simp [Nat.testBit_or, Nat.testBit_two_pow_self], rfl, rfl⟩

end Sys2Proof.Machine

open Sys2Proof Sys2Proof.Machine in
/-- Settles O2: the slots by the code of the image's check, the spindle by its registers, a burn by the fuse. -/
theorem bootCompletes : Obligations.BootCompletes := by
  unfold Obligations.BootCompletes
  exact ⟨firmwareSlotCheck_completes, microcodeSlotCheck_eq, firmwareEntry_completes, spinUp_completes, spindleAtSpeed_completes,
    spindleStall_eq, fuseBurnComplete_revoke⟩
end

section
/-!
Keep store images are replayed and consumed (O3), and the power states move (O6).
-/
namespace Sys2Proof.Machine

open Sys2Proof.Arith

namespace State

/-! ### The Keep store's areas -/

theorem area_congr {s t : State} (h : t.ksc = s.ksc) (a : Nat) : t.area a = s.area a := by
  unfold area
  rw [h]

/-- What an area's change leaves: the area as told, and nothing else but the Keep store. -/
theorem putArea_shows (s : State) (a : Nat) (i : Option KeepImage) : (s.putArea a i).area a = i ∧ (s.putArea a i).regs = s.regs
    ∧ (s.putArea a i).media = s.media ∧ (s.putArea a i).ksc.replaying = s.ksc.replaying
    ∧ (s.putArea a i).ksc.consuming = s.ksc.consuming := by
  unfold putArea
  split
  · next h => exact ⟨if_pos h, rfl, rfl, rfl, rfl⟩
  · next h => exact ⟨if_neg h, rfl, rfl, rfl, rfl⟩

/-- A replay starts on an idle Keep store. -/
theorem replayGo_shows {s : State} (h : s.flag R.REPLAY_BUSY = false) {a : Nat} (ha : a < 2) :
    (s.replayGo a).ksc.replaying = some a ∧ (s.replayGo a).dom.ksc = true ∧ (s.replayGo a).rd R.REPLAY_BUSY = 1
      ∧ (s.replayGo a).rd R.REPLAY_AREA = a := by
  have hidle : (s.wr R.REPLAY_AREA a).flag R.REPLAY_BUSY = false := by
    rw [flag, rd_wr_apart _ _ _ _ (by decide)]
    exact h
  unfold replayGo
  dsimp only
  rw [hidle, if_neg Bool.false_ne_true]
  refine ⟨by rw [wr_ksc], by rw [wr_dom], (rd_wr_same _ _ _ (by decide)).trans rfl, ?_⟩
  rw [rd_wr_apart _ _ _ _ (by decide), rd_update, rd_wr_same _ _ _ (by decide)]
  exact Nat.mod_eq_of_lt ha

/-- A replay ends with a sound image: the buffer takes its blocks, and the image is marked. -/
theorem replayEnd_shows {s : State} {a : Nat} {i : KeepImage} (hrep : s.ksc.replaying = some a) (harea : s.area a = some i)
    (hcrc : i.badCrc = false) :
    (s.replayEnd false).ksc.replaying = none ∧ (s.replayEnd false).rd R.REPLAY_BUSY = 0
      ∧ (s.replayEnd false).media.buffer = s.media.buffer ++ i.buffer.map restoreBlock
      ∧ (s.replayEnd false).area a = some { i with replayed := true } ∧ RegFrame s (s.replayEnd false) [R.REPLAY_BUSY] := by
  obtain ⟨u, hu, hrd, hframe, hmedia, hksc⟩ : ∃ u : State,
      ({ s with ksc := { s.ksc with replaying := none }, dom := { s.dom with ksc := false } } : State).wr R.REPLAY_BUSY 0 = u
        ∧ u.rd R.REPLAY_BUSY = 0 ∧ RegFrame s u [R.REPLAY_BUSY] ∧ u.media = s.media ∧ u.ksc = { s.ksc with replaying := none } :=
    ⟨_, rfl, (rd_wr_same _ _ _ (by decide)).trans rfl, (Machine.regFrame_wr (by simp)).mpr (regFrame_update.mpr (regFrame_same s _)),
      by rw [wr_media], by rw [wr_ksc]⟩
  have huarea : u.area a = some i := by
    rw [← harea]
    unfold area
    rw [hksc]
  unfold replayEnd
  rw [hrep]
  dsimp only
  rw [hu, huarea]
  dsimp only
  rw [if_neg (by simp [hcrc]), hmedia]
  generalize hv : ({ u with
    media := { s.media with buffer := s.media.buffer ++ i.buffer.map restoreBlock, replayed := some i.tables }
    tly := { u.tly with imageRecs := u.tly.imageRecs ++ (i.tally.filter u.tallyUnarchived).map fun r => { r with fromImage := true } } }
      : State) = v
  obtain ⟨hkarea, hregs, hkmedia, hkrep, -⟩ := v.putArea_shows a (some { i with replayed := true })
  have hvregs : v.regs = u.regs := by rw [← hv]
  exact ⟨by rw [hkrep, ← hv, hksc], by rw [rd_congr (hregs.trans hvregs), hrd], by rw [hkmedia, ← hv], hkarea,
    (regFrame_congr (hregs.trans hvregs)).mpr hframe⟩

/-! ### The power states -/

/-- Background work stopped or not: the timers' depth and the registers are as they were. -/
theorem ite_backgroundStopped (p : Prop) [Decidable p] (s : State) :
    (if p then { s with pm := { s.pm with backgroundStopped := true } } else s).pm.timerDepth = s.pm.timerDepth
      ∧ (if p then { s with pm := { s.pm with backgroundStopped := true } } else s).regs = s.regs := by
  split <;> exact ⟨rfl, rfl⟩

/-- What the target's recomputation leaves. -/
theorem retarget_shows (s : State) : (s.retarget).pm.timerDepth = s.pm.timerDepth
    ∧ s.retarget.rd R.PSTATE_TARGET = max s.shallowest (min s.pm.timerDepth (s.rd R.IDLE_DEPTH_MAX)) % 8
    ∧ RegFrame s s.retarget [R.REQ_DEPTH, R.PSTATE_TARGET, R.PSTATE_BUSY] := by
  unfold retarget
  dsimp only
  refine ⟨?_, ?_, ?_⟩
  · rw [(ite_backgroundStopped _ _).1, wrFlag_pm, wr_pm, wr_pm]
  · rw [rd_congr (ite_backgroundStopped _ _).2, rd_wrFlag_apart _ _ _ _ (by decide), rd_wr_same _ _ _ (by decide)]
    rfl
  · exact (regFrame_congr (ite_backgroundStopped _ _).2).mpr ((regFrame_wrFlag (by simp)).mpr ((Machine.regFrame_wr (by simp)).mpr
      ((Machine.regFrame_wr (by simp)).mpr (regFrame_same s _))))

theorem startLanes_frame (s : State) : RegFrame s s.startLanes [R.LANE_STATE 3, R.VOTERS] := by
  unfold startLanes countVoters
  refine (Machine.regFrame_wr (by simp)).mpr ?_
  split
  · exact (Machine.regFrame_wr (by simp)).mpr (regFrame_same s _)
  · exact regFrame_same s _

theorem startLanes_dom (s : State) : s.startLanes.dom = s.dom := by
  unfold startLanes countVoters
  rw [wr_dom]
  split
  · rw [wr_dom]
  · rfl

/-- The lanes started or not: their fields alone have changed, and the domains not at all. -/
theorem ite_startLanes (p : Prop) [Decidable p] (s : State) (x : Svt) :
    (if p then { s.startLanes with svt := x } else s).dom = s.dom
      ∧ RegFrame s (if p then { s.startLanes with svt := x } else s) [R.LANE_STATE 3, R.VOTERS] := by
  split
  · exact ⟨s.startLanes_dom, regFrame_update.mpr s.startLanes_frame⟩
  · exact ⟨rfl, regFrame_same s _⟩

/-- The domains of the states above Idle-B. -/
def activeDomains (s : State) : State :=
  { s with dom := { s.dom with abx := true, med := 15, svt := true, spare := true } }

theorem enterState_zero (s : State) : ∃ (p : Bool) (x : Svt) (u : State),
    u = ((s.wr R.PSTATE_NOW 0).wr R.PSTATE_BUSY 0).activeDomains.wrFlag R.CCLK_LOW false
      ∧ s.enterState 0 = { (if p then { u.startLanes with svt := x } else u) with
        pm := { (if p then { u.startLanes with svt := x } else u).pm with backgroundStopped := false } } :=
  ⟨_, _, _, rfl, rfl⟩

/-- Arrival in Active: the point, the domains and background work. -/
theorem enterState_active (s : State) : (s.enterState 0).rd R.PSTATE_NOW = 0 ∧ (s.enterState 0).flag R.PSTATE_BUSY = false
    ∧ (s.enterState 0).dom.abx = true ∧ (s.enterState 0).dom.med = 15 ∧ (s.enterState 0).dom.svt = true
    ∧ (s.enterState 0).pm.backgroundStopped = false := by
  obtain ⟨p, x, u, hu, heq⟩ := s.enterState_zero
  have hdom (v : State) : v.activeDomains.dom.abx = true ∧ v.activeDomains.dom.med = 15 ∧ v.activeDomains.dom.svt = true :=
    ⟨rfl, rfl, rfl⟩
  have hregs (v : State) : v.activeDomains.regs = v.regs := rfl
  have hnow : u.rd R.PSTATE_NOW = 0 := by
    rw [hu, rd_wrFlag_apart _ _ _ _ (by decide), rd_congr (hregs _), rd_wr_apart _ _ _ _ (by decide), rd_wr_same _ _ _ (by decide)]
    rfl
  have hbusy : u.rd R.PSTATE_BUSY = 0 := by
    rw [hu, rd_wrFlag_apart _ _ _ _ (by decide), rd_congr (hregs _), rd_wr_same _ _ _ (by decide)]
    rfl
  have hudom : u.dom.abx = true ∧ u.dom.med = 15 ∧ u.dom.svt = true := by
    rw [hu, wrFlag_dom]
    exact hdom _
  obtain ⟨habx, hmed, hsvt⟩ := hudom
  obtain ⟨hkdom, hframe⟩ := ite_startLanes (p = true) u x
  rw [heq]
  refine ⟨?_, ?_, by rw [hkdom, habx], by rw [hkdom, hmed], by rw [hkdom, hsvt], rfl⟩
  · rw [rd_update, hframe _ (by decide), hnow]
  · rw [flag, rd_update, hframe _ (by decide), hbusy]
    rfl

/-- The depth of a timer's expiry is at least that of a deeper enabled timer no later than it. -/
theorem le_expiryDepth {s : State} {d e : Nat} (hd : 1 ≤ d) (hde : d < e) (he : e ≤ 4) (hon : s.idleMs e ≠ 0)
    (hle : s.idleMs e ≤ s.idleMs d) : e ≤ s.expiryDepth d := by
  have hcond : d < e ∧ s.idleMs e ≠ 0 ∧ s.idleMs e ≤ s.idleMs d := ⟨hde, hon, hle⟩
  have hkeep (m k : Nat) (p : Prop) [Decidable p] (h : e ≤ m) : e ≤ (if p then max m k else m) := by
    split
    · exact le_trans h (le_max_left _ _)
    · exact h
  have htake (m : Nat) : e ≤ (if d < e ∧ s.idleMs e ≠ 0 ∧ s.idleMs e ≤ s.idleMs d then max m e else m) := by
    rw [if_pos hcond]
    exact le_max_right _ _
  have hcases : e = 2 ∨ e = 3 ∨ e = 4 := by omega
  unfold expiryDepth
  rw [List.foldl_cons, List.foldl_cons, List.foldl_cons, List.foldl_nil]
  rcases hcases with rfl | rfl | rfl
  · exact hkeep _ _ _ (hkeep _ _ _ (htake _))
  · exact hkeep _ _ _ (htake _)
  · exact htake _

end State

/-! ### The clauses of replay -/

/-- The same as `Completes.access`, the state with the access granted kept as a variable. -/
theorem Completes.granted {s : State} {f : Fld} {k : State → State} {p : State → Prop} (h : s.reachable f.addr = true)
    (hp : ∀ u, u = s.granting → p (k u)) : Completes (.next (s.access f k)) p := .access h (hp _ rfl)

theorem replayGo_completes (s : State) (a : Fin 2) (hreach : s.reachable R.REPLAY_GO.addr = true) (hidle : s.flag R.REPLAY_BUSY = false) :
    Completes (exec (.replayGo a) s) fun t =>
      t.ksc.replaying = some a.val ∧ t.dom.ksc = true ∧ t.rd R.REPLAY_BUSY = 1 ∧ t.rd R.REPLAY_AREA = a.val :=
  by
  refine .granted hreach fun u hu => State.replayGo_shows ?_ a.isLt
  rw [hu]
  exact (State.flag_granting_of_addr _ (by decide)).trans hidle

theorem consume_completes (s : State) (a : Fin 2) (i : KeepImage) (hreach : s.reachable R.CONSUME.addr = true)
    (harea : s.area a.val = some i) (hreplayed : i.replayed = true) (hidle : s.flag R.REPLAY_BUSY = false)
    (hhold : s.flag R.HOLDUP_OK = true) : Completes (exec (.consume a) s) fun t =>
      t.ksc.consuming = some a.val ∧ RegFrame s t [R.REG_TOKEN, R.REPLAY_AREA] := by
  refine .access hreach ?_
  have harea' : (s.granting.wr R.REPLAY_AREA a.val).area a.val = some i := by
    rw [State.area_congr (s := s) (by rw [State.wr_ksc, State.wr_ksc]), harea]
  have hidle' : (s.granting.wr R.REPLAY_AREA a.val).flag R.REPLAY_BUSY = false := by
    rw [State.flag, State.rd_wr_apart _ _ _ _ (by decide)]
    exact (State.flag_granting_of_addr _ (by decide)).trans hidle
  have hhold' : (s.granting.wr R.REPLAY_AREA a.val).flag R.HOLDUP_OK = true := by
    rw [State.flag, State.rd_wr_apart _ _ _ _ (by decide)]
    exact (State.flag_granting_of_addr _ (by decide)).trans hhold
  unfold State.consumeGo
  dsimp only
  rw [harea']
  dsimp only
  rw [if_pos (by rw [hidle', hreplayed, hhold']; rfl)]
  exact ⟨rfl, regFrame_update.mpr ((regFrame_wr (by simp)).mpr ((regFrame_wr (by simp)).mpr (regFrame_same s _)))⟩

theorem consumeMarkerWritten_completes (s : State) (a : Nat) (i : KeepImage) (hcons : s.ksc.consuming = some a) (harea : s.area a = some i) :
    Completes (exec .consumeMarkerWritten s) fun t =>
      t.ksc.consuming = none ∧ t.area a = some { i with consumed := true } ∧ t.regs = s.regs := by
  change Completes (.next s.consumeDone) _
  unfold State.consumeDone
  rw [hcons]
  dsimp only
  rw [harea]
  obtain ⟨hput, hregs, -, -, hkept⟩ := ({ s with ksc := { s.ksc with consuming := none } } : State).putArea_shows a
    (some { i with consumed := true })
  exact .next ⟨hkept, hput, hregs⟩

/-! ### The clauses of the power states -/

theorem pllUnlock_eq (s : State) (p : Pll) (hlock : s.flag (lockFld p) = true) (hon : s.clockedOn p = true) :
    exec (.pllUnlock p) s = .next (((s.wr (lockFld p) 0).count R.PLL_UNLOCK_CNT).detect (unlockSource p)) :=
  congrArg Host.Outcome.next (if_pos (by rw [hlock, hon]; rfl))

theorem idleTimerExpiry_completes (s : State) (d : Fin 4) (hon : s.idleMs (d.val + 1) ≠ 0) :
    Completes (exec (.idleTimerExpiry d false) s) fun t =>
      t.pm.timerDepth = max s.pm.timerDepth (s.expiryDepth (d.val + 1))
        ∧ t.rd R.PSTATE_TARGET = max s.shallowest (min t.pm.timerDepth (s.rd R.IDLE_DEPTH_MAX)) % 8
        ∧ RegFrame s t [R.REQ_DEPTH, R.PSTATE_TARGET, R.PSTATE_BUSY] := by
  refine ⟨_, congrArg Host.Outcome.next ((if_neg Bool.false_ne_true).trans (if_neg hon)), ?_⟩
  obtain ⟨hdepth, htarget, hframe⟩ := State.retarget_shows
    { s with pm := { s.pm with timerDepth := max s.pm.timerDepth (s.expiryDepth (d.val + 1)) } }
  exact ⟨hdepth, by rw [htarget, hdepth]; rfl, hframe⟩

theorem canEnter_active (s : State) : s.canEnter 0 = true := rfl

theorem stateTransitionComplete_completes (s : State) (hbusy : s.flag R.PSTATE_BUSY = true) (htarget : s.rd R.PSTATE_TARGET = 0)
    (hnow : s.rd R.PSTATE_NOW < 5) : Completes (exec .stateTransitionComplete s) fun t =>
      t.rd R.PSTATE_NOW = 0 ∧ t.flag R.PSTATE_BUSY = false ∧ t.dom.abx = true ∧ t.dom.med = 15 ∧ t.dom.svt = true
        ∧ t.pm.backgroundStopped = false := by
  change Completes (execStateTransitionComplete s) _
  unfold execStateTransitionComplete
  rw [htarget]
  dsimp only
  rw [if_pos (by simp [hbusy, canEnter_active, hnow]), if_neg (by decide)]
  exact .next s.enterState_active

theorem sleepEntry_completes (s : State) (hnow : s.rd R.PSTATE_NOW = 4) (hbusy : s.flag R.PSTATE_BUSY = false)
    (hen : s.flag R.SLEEP_EN = true) (hports : ∀ p < 4, s.flag (R.LINK_L12 p) = true ∨ s.flag (R.PORT_PRESENT p) = false)
    (hrun : s.pm.l12Running = true) : Completes (exec .sleepEntry s) fun t =>
      t.rd R.PSTATE_NOW = 5 ∧ t.dom.core = false ∧ t.dom.dram = false ∧ t.dom.hphy = 0 ∧ t.rd R.CCLK_LOCK = 0
        ∧ t.dram = s.dram ∧ t.sram = s.sram := by
  have hall : ((List.range 4).all fun p => !s.flag (R.PORT_PRESENT p) || s.flag (R.LINK_L12 p)) = true := by
    rw [List.all_eq_true]
    intro p hp
    rcases hports p (List.mem_range.mp hp) with h | h <;> simp [h]
  refine ⟨_, congrArg Host.Outcome.next (if_pos ⟨hnow, by simp [hbusy], hen, hall, hrun⟩), ?_, ?_, ?_, ?_, ?_, ?_, ?_⟩
  · rw [State.rd_wr_apart _ _ _ _ (by decide), State.rd_wr_apart _ _ _ _ (by decide), State.rd_wr_apart _ _ _ _ (by decide),
      State.rd_wr_apart _ _ _ _ (by decide), State.rd_wr_same _ _ _ (by decide)]
    rfl
  · rw [State.wr_dom, State.wr_dom, State.wr_dom, State.wr_dom, State.wr_dom]
  · rw [State.wr_dom, State.wr_dom, State.wr_dom, State.wr_dom, State.wr_dom]
  · rw [State.wr_dom, State.wr_dom, State.wr_dom, State.wr_dom, State.wr_dom]
  · rw [State.rd_wr_apart _ _ _ _ (by decide), State.rd_wr_apart _ _ _ _ (by decide), State.rd_wr_same _ _ _ (by decide)]
    rfl
  · rw [State.wr_dram, State.wr_dram, State.wr_dram, State.wr_dram, State.wr_dram]
  · rw [State.wr_sram, State.wr_sram, State.wr_sram, State.wr_sram, State.wr_sram]

theorem wakeFromSleep_completes (s : State) (hnow : s.rd R.PSTATE_NOW = 5) : Completes (exec (.wakeFromSleep .perst) s) fun t =>
    t.rd R.PSTATE_NOW = 4 ∧ t.dom.core = true ∧ t.dom.dram = true ∧ t.rd R.CCLK_LOCK = 1 ∧ t.dram = s.dram ∧ t.sram = s.sram := by
  refine ⟨_, congrArg Host.Outcome.next (if_pos hnow), ?_, ?_, ?_, ?_, ?_, ?_⟩
  · rw [State.rd_update, State.rd_wr_apart _ _ _ _ (by decide), State.rd_wr_apart _ _ _ _ (by decide),
      State.rd_wr_apart _ _ _ _ (by decide), State.rd_wr_apart _ _ _ _ (by decide), State.rd_wr_same _ _ _ (by decide)]
    rfl
  · rw [State.wr_dom, State.wr_dom, State.wr_dom, State.wr_dom, State.wr_dom]
  · rw [State.wr_dom, State.wr_dom, State.wr_dom, State.wr_dom, State.wr_dom]
  · rw [State.rd_update, State.rd_wr_apart _ _ _ _ (by decide), State.rd_wr_apart _ _ _ _ (by decide), State.rd_wr_same _ _ _ (by decide)]
    rfl
  · rw [State.wr_dram, State.wr_dram, State.wr_dram, State.wr_dram, State.wr_dram]
  · rw [State.wr_sram, State.wr_sram, State.wr_sram, State.wr_sram, State.wr_sram]

end Sys2Proof.Machine

open Sys2Proof Sys2Proof.Machine in
/-- Settles O3: a replay and a consumption by the Keep store's areas and the buffer. -/
theorem replayCompletes : Obligations.ReplayCompletes := by
  unfold Obligations.ReplayCompletes
  exact ⟨replayGo_completes, fun _ _ _ hrep harea hcrc => .next (State.replayEnd_shows hrep harea hcrc), consume_completes,
    consumeMarkerWritten_completes⟩

open Sys2Proof Sys2Proof.Machine in
/-- Settles O6: the moves between the power states by their point, their domains and the timers' depth. -/
theorem powerStatesComplete : Obligations.PowerStatesComplete := by
  unfold Obligations.PowerStatesComplete
  exact ⟨pllUnlock_eq, idleTimerExpiry_completes, stateTransitionComplete_completes, sleepEntry_completes, wakeFromSleep_completes,
    fun _ _ _ => State.le_expiryDepth⟩
end

section
/-!
A ramp step that ends an entry (O32): its target's write is a block's write, which leaves the register arbiter's token at 0 (R17).
-/
namespace Sys2Proof.Machine

open Sys2Proof.Arith

/-- An entry of one step, on the first word of the device table. -/
def lastStep : CalRamp := { target := ⟨5, 0, 0, 0⟩, old := 0, new := 0 }

/-- The entry waits, and the register arbiter's token stands at 1. -/
def oneRamp : State := { State.reset.wr R.REG_TOKEN 1 with cal := { ramps := [lastStep] } }

theorem rampStep_lastStep : exec (.rampStep 0) oneRamp
    = .next ((oneRamp.applyTarget lastStep.target lastStep.new lastStep.new2).blockWrote.setRamps (oneRamp.cal.ramps.eraseIdx 0)) := rfl

theorem token_after_lastStep :
    ((oneRamp.applyTarget lastStep.target lastStep.new lastStep.new2).blockWrote.setRamps (oneRamp.cal.ramps.eraseIdx 0)).rd R.REG_TOKEN = 0
      ∧ ((oneRamp.applyTarget lastStep.target lastStep.new lastStep.new2).setRamps (oneRamp.cal.ramps.eraseIdx 0)).rd R.REG_TOKEN = 1 := by
  decide

end Sys2Proof.Machine

open Sys2Proof Sys2Proof.Machine in
/-- Refutes O32: the last step of a ramp writes its target as a block does, and moves the register arbiter's token from 1 to 0 (R17,
assumption 19), where the stated next state leaves the token at 1. -/
theorem not_assistCommandsComplete : ¬ Obligations.AssistCommandsComplete := by
  unfold Obligations.AssistCommandsComplete
  rintro ⟨-, -, -, -, -, -, hstep, -⟩
  have hstated := hstep oneRamp 0 lastStep rfl rfl (by decide)
  have hsame := Host.Outcome.next.inj (rampStep_lastStep.symm.trans hstated)
  have htoken := congrArg (fun t => State.rd t R.REG_TOKEN) hsame
  obtain ⟨hzero, hone⟩ := token_after_lastStep
  exact absurd (hzero.symm.trans (htoken.trans hone)) (by decide)
end

section
/-!
The watchdog, the PIP pin, the external retract pin (O9), the power-on hours, the calendar and the thermal sensors (O44).
-/
namespace Sys2Proof.Machine

open Sys2Proof.Arith

/-! ### The watchdog and the pins -/

theorem pipToggle_completes (s : State) (hrun : s.flag R.PIP_RUN = true) : Completes (exec .pipToggle s) fun t =>
    t.flag R.PIP_LEVEL = !s.flag R.PIP_LEVEL ∧ t.fcu.pipPhase = (s.fcu.pipPhase + 48) % 125 ∧ RegFrame s t [R.PIP_LEVEL] := by
  refine ⟨_, congrArg Host.Outcome.next (if_pos hrun), ?_, by rw [State.wrFlag_fcu],
    (regFrame_wrFlag (by simp)).mpr (regFrame_update.mpr (regFrame_same s _))⟩
  exact State.flag_wrFlag_same _ _ _ (by decide)

theorem wdogEn_completes (s : State) (hreach : s.reachable R.WDOG_EN.addr = true) : Completes (exec .wdogEn s) fun t =>
    t.flag R.WDOG_EN = true ∧ t.fcu.wdogRunning = (s.fcu.wdogRunning || !s.flag R.WDOG_EN) ∧ RegFrame s t [R.REG_TOKEN, R.WDOG_EN] := by
  have hframe : RegFrame s s.granting [R.REG_TOKEN, R.WDOG_EN] := (regFrame_wr (by simp)).mpr (regFrame_same s _)
  have hen := s.flag_granting_of_addr (g := R.WDOG_EN) (by decide)
  refine .granted hreach fun u hu => ?_
  rw [← hu] at hframe hen
  have hfcu : u.fcu = s.fcu := by rw [hu, State.wr_fcu]
  dsimp only
  cases hset : s.flag R.WDOG_EN with
  | true =>
    rw [if_pos (hen.trans hset)]
    exact ⟨hen.trans hset, by rw [hfcu]; simp, hframe⟩
  | false =>
    rw [if_neg (by rw [hen, hset]; decide)]
    refine ⟨?_, by rw [State.wr_fcu]; simp, (regFrame_wr (by simp)).mpr (regFrame_update.mpr hframe)⟩
    rw [State.flag, State.rd_wr_same _ _ _ (by decide)]
    rfl

theorem wdogKick_completes (s : State) (hreach : s.reachable R.WDOG_KICK.addr = true) (hen : s.flag R.WDOG_EN = true) :
    Completes (exec .wdogKick s) fun t => t.fcu.wdogRunning = true ∧ t.regs = s.granting.regs := by
  have hen' := (s.flag_granting_of_addr (g := R.WDOG_EN) (by decide)).trans hen
  refine .granted hreach fun u hu => ?_
  rw [← hu] at hen' ⊢
  dsimp only
  rw [if_pos hen']
  exact ⟨rfl, rfl⟩

theorem wdogMsWrite_completes (s : State) (ms e : BitVec 16) (hreach : s.reachable R.WDOG_MS.addr = true) (hoff : s.flag R.WDOG_EN = false) :
    Completes (exec (.wdogMsWrite ms e) s) fun t =>
      t.rd R.WDOG_MS = max 10 (min 60000 ms.toNat) ∧ RegsOnly s t ∧ RegFrame s t [R.REG_TOKEN, R.WDOG_MS] := by
  have hframe : RegFrame s s.granting [R.REG_TOKEN, R.WDOG_MS] := (regFrame_wr (by simp)).mpr (regFrame_same s _)
  have hregs : RegsOnly s s.granting := (RegsOnly.refl s).wr _ _
  have hoff' := (s.flag_granting_of_addr (g := R.WDOG_EN) (by decide)).trans hoff
  refine .granted hreach fun u hu => ?_
  rw [← hu] at hframe hregs hoff'
  have hstill : (u.wr R.WDOG_MS (State.wdogMs ms.toNat)).flag R.WDOG_EN = false := by
    rw [State.flag, State.rd_wr_apart _ _ _ _ (by decide)]
    exact hoff'
  dsimp only
  rw [hstill, Bool.false_and, Bool.false_and, if_neg Bool.false_ne_true]
  refine ⟨?_, hregs.wr _ _, (regFrame_wr (by simp)).mpr hframe⟩
  rw [State.rd_wr_same _ _ _ (by decide)]
  exact Nat.mod_eq_of_lt (show max 10 (min 60000 ms.toNat) < 65536 by omega)

theorem watchdogExpiry_eq (s : State) (hen : s.flag R.WDOG_EN = true) (hrun : s.fcu.wdogRunning = true) :
    exec (.watchdogExpiry false) s = .next (({ s with fcu := { s.fcu with wdogRunning := false } }).detect 385) :=
  congrArg Host.Outcome.next (if_pos (by rw [hen, hrun]; rfl))

theorem extRetractRequest_eq (s : State) (hidle : s.flag R.EXT_RETRACT = false) (hawake : s.rd R.PSTATE_NOW ≠ 5) :
    exec .extRetractRequest s =
      .next (((({ s with pins := { s.pins with retractReqN := false } }).wr R.EXT_RETRACT 1).raise 180).detect 384) := by
  refine congrArg Host.Outcome.next ((if_neg (by rw [hidle]; decide)).trans ?_)
  dsimp only
  rw [if_neg hawake]

theorem extRetractEnd_completes (s : State) : Completes (exec .extRetractEnd s) fun t =>
    t.flag R.EXT_RETRACT = false ∧ t.pins.retractReqN = true ∧ t.bitAt R.ACT_HOLD = s.bitAt R.ACT_HOLD ∧ RegFrame s t [R.EXT_RETRACT] := by
  refine .next ⟨?_, by rw [State.wr_pins], ?_, (regFrame_wr (by simp)).mpr (regFrame_update.mpr (regFrame_same s _))⟩
  · rw [State.flag, State.rd_wr_same _ _ _ (by decide)]
    rfl
  · funext i
    rw [State.bitAt_wr_apart _ _ _ _ _ (by decide), State.bitAt, State.rd_update, State.bitAt]

theorem srcCnt_fits (i : Nat) : (R.SRC_CNT i).fits = true := rfl

theorem srcCnt_apart {i j : Nat} (h : i < j) : (R.SRC_CNT j).apart (R.SRC_CNT i) = true := by
  simp only [Fld.apart, R.SRC_CNT, Bool.or_eq_true, bne_iff_ne]
  omega

theorem srcCnt_apart_lost (i : Nat) : (R.SRC_CNT i).apart R.LOST_CNT = true := by
  simp only [Fld.apart, R.SRC_CNT, R.LOST_CNT, Bool.or_eq_true, bne_iff_ne]
  omega

theorem fcuCntClr_completes (s : State) (i : Fin 512) (hreach : s.reachable R.FCU_CNT_CLR.addr = true) :
    Completes (exec .fcuCntClr s) fun t => t.rd (R.SRC_CNT i.val) = 0 ∧ t.rd R.LOST_CNT = 0 ∧ RegsOnly s t := by
  have hregs : RegsOnly s s.granting := (RegsOnly.refl s).wr _ _
  refine .granted hreach fun u hu => ?_
  rw [← hu] at hregs
  refine ⟨?_, ?_, (hregs.wr _ _).foldl (fun v _ => (RegsOnly.refl v).wr _ _) _⟩
  · exact State.rd_foldl_wr _ R.SRC_CNT (fun _ => 0) (fun j _ => srcCnt_fits j)
      (List.pairwise_lt_range.imp fun h => srcCnt_apart h) (List.mem_range.mpr i.isLt)
  · exact (State.rd_foldl_wr_apart _ R.SRC_CNT (fun _ => 0) _ fun j _ => srcCnt_apart_lost j).trans
      ((State.rd_wr_same _ _ _ (by decide)).trans rfl)

/-! ### Time -/

theorem pohTick_cool (s : State) (hin : s.flag R.IN_OK = true) (hwarn : s.flag R.WARN_ON = false) (hthr : s.rd R.THR_LEVEL = 0) :
    Completes (exec .pohTick s) fun t =>
      t.rd R.POH_S = min (2 ^ 32 - 1) (s.rd R.POH_S + 1) ∧ RegsOnly s t ∧ RegFrame s t [R.POH_S] := by
  have hwarn' : (s.count R.POH_S).flag R.WARN_ON = false := by
    rw [State.flag, State.rd_count_apart _ _ _ _ (by decide)]
    exact hwarn
  refine ⟨_, congrArg Host.Outcome.next (if_pos hin), ?_⟩
  dsimp only
  rw [hwarn', if_neg Bool.false_ne_true, if_pos ((State.rd_count_apart _ _ _ _ (by decide)).trans hthr)]
  exact ⟨State.rd_count_same _ _ _ (by decide), (RegsOnly.refl s).count _ _, (regFrame_count (by simp)).mpr (regFrame_same s _)⟩

theorem pohTick_warm (s : State) (hin : s.flag R.IN_OK = true) (hwarn : s.flag R.WARN_ON = true) (hsec : s.thm.warnSec = 59)
    (hthr : s.rd R.THR_LEVEL = 0) : Completes (exec .pohTick s) fun t =>
      t.rd R.WARN_MIN = min (2 ^ R.WARN_MIN.width - 1) (s.rd R.WARN_MIN + 1) ∧ t.thm = { s.thm with warnSec := 0 }
        ∧ RegFrame s t [R.POH_S, R.WARN_MIN] := by
  have hwarn' : (s.count R.POH_S).flag R.WARN_ON = true := by
    rw [State.flag, State.rd_count_apart _ _ _ _ (by decide)]
    exact hwarn
  have hthm : (s.count R.POH_S).thm = s.thm := s.count_thm _ _
  have hrd (g : Fld) (h : R.POH_S.apart g = true) : (s.count R.POH_S).rd g = s.rd g := State.rd_count_apart _ _ _ _ h
  have hframe : RegFrame s (s.count R.POH_S) [R.POH_S, R.WARN_MIN] := (regFrame_count (by simp)).mpr (regFrame_same s _)
  refine ⟨_, congrArg Host.Outcome.next (if_pos hin), ?_⟩
  generalize s.count R.POH_S = u at *
  dsimp only
  rw [if_pos hwarn', hthm, hsec, if_pos (rfl : 59 + 1 = 60), if_pos]
  · refine ⟨?_, by rw [State.count_thm], (regFrame_count (by simp)).mpr (regFrame_update.mpr hframe)⟩
    rw [State.rd_count_same _ _ _ (by decide), State.rd_update, hrd _ (by decide)]
  · rw [State.rd_count_apart _ _ _ _ (by decide), State.rd_update, hrd _ (by decide), hthr]

theorem calendarSet_completes (s : State) (m : BitVec 48) : Completes (exec (.calendarSet m) s) fun t =>
    t.rd R.CAL_MS_LO = m.toNat % 2 ^ 32 ∧ t.rd R.CAL_MS_HI = m.toNat / 2 ^ 32 ∧ t.rd R.CAL_SET = 1 ∧ RegsOnly s t
      ∧ RegFrame s t [R.CAL_MS_LO, R.CAL_MS_HI, R.CAL_SET] := by
  have hm := m.isLt
  refine .next ?_
  unfold State.setCalendar
  refine ⟨?_, ?_, (State.rd_wr_same _ _ _ (by decide)).trans rfl, (((RegsOnly.refl s).wr _ _).wr _ _).wr _ _,
    (regFrame_wr (by simp)).mpr ((regFrame_wr (by simp)).mpr ((regFrame_wr (by simp)).mpr (regFrame_same s _)))⟩
  · rw [State.rd_wr_apart _ _ _ _ (by decide), State.rd_wr_apart _ _ _ _ (by decide), State.rd_wr_same _ _ _ (by decide)]
    rfl
  · rw [State.rd_wr_apart _ _ _ _ (by decide), State.rd_wr_same _ _ _ (by decide)]
    exact Nat.mod_eq_of_lt (show m.toNat / 2 ^ 32 < 2 ^ 16 by omega)

/-! ### Temperature -/

theorem sensorFields (i : Fin 12) : (R.SENS_T i.val).fits = true ∧ (R.SENS_PEAK i.val).fits = true
    ∧ (R.SENS_T i.val).apart (R.SENS_PEAK i.val) = true ∧ (R.SENS_PEAK i.val).apart (R.SENS_T i.val) = true := by revert i; decide

theorem noteSampled_shows (w : State) (i : Nat) : (∀ g, (w.noteSampled i).rd g = w.rd g)
    ∧ (w.noteSampled i).thm.sampled.testBit i = true ∧ ∀ l, RegFrame w (w.noteSampled i) l :=
  ⟨fun _ => rfl, by simp [State.noteSampled, Arith.testBit_setBit], fun l => regFrame_update.mpr (regFrame_same w l)⟩

/-- A sample noted: its sensor's reading and peak, and nothing else of the registers. -/
theorem sampled_shows (s : State) (i : Fin 12) (v : BitVec 16) {u : State}
    (hu : u = ((s.wr (R.SENS_T i.val) v.toNat).noteSampled i.val).notePeak i.val v.toNat) :
    u.rd (R.SENS_T i.val) = v.toNat ∧ u.thm.sampled.testBit i.val = true
      ∧ signed 16 (u.rd (R.SENS_PEAK i.val)) = max (signed 16 (s.rd (R.SENS_PEAK i.val))) v.toInt
      ∧ RegFrame s u [R.SENS_T i.val, R.SENS_PEAK i.val] := by
  obtain ⟨htfits, hpfits, htp, hpt⟩ := sensorFields i
  have hv : v.toNat % 2 ^ 16 = v.toNat := Nat.mod_eq_of_lt v.isLt
  have hreading : (s.wr (R.SENS_T i.val) v.toNat).rd (R.SENS_T i.val) = v.toNat := (State.rd_wr_same _ _ _ htfits).trans hv
  have hpeak : (s.wr (R.SENS_T i.val) v.toNat).rd (R.SENS_PEAK i.val) = s.rd (R.SENS_PEAK i.val) := State.rd_wr_apart _ _ _ _ htp
  have hframe : RegFrame s (s.wr (R.SENS_T i.val) v.toNat) [R.SENS_T i.val, R.SENS_PEAK i.val] :=
    (regFrame_wr (by simp)).mpr (regFrame_same s _)
  generalize s.wr (R.SENS_T i.val) v.toNat = w at hu hreading hpeak hframe
  obtain ⟨hrd, hsampled, hnoted⟩ := noteSampled_shows w i.val
  rw [← hrd] at hreading hpeak
  replace hframe := hframe.trans (hnoted _)
  generalize w.noteSampled i.val = w at hu hreading hpeak hframe hsampled
  unfold State.notePeak at hu
  split at hu
  · next hlt =>
    rw [hpeak, State.signed_toNat] at hlt
    rw [hu]
    refine ⟨by rw [State.rd_wr_apart _ _ _ _ hpt, hreading], by rw [State.wr_thm, hsampled], ?_, (regFrame_wr (by simp)).mpr hframe⟩
    rw [State.rd_wr_same _ _ _ hpfits, show (R.SENS_PEAK i.val).width = 16 from rfl, hv, State.signed_toNat, max_eq_right hlt.le]
  · next hle =>
    rw [hpeak, State.signed_toNat, not_lt] at hle
    rw [hu]
    exact ⟨hreading, hsampled, by rw [hpeak, max_eq_left hle], hframe⟩

theorem judgeSample_good (u : State) (i : Nat) : u.judgeSample i false = u := if_neg (by simp)

theorem thermalSample_judges (s : State) (i : Fin 12) (v : BitVec 16) (hdom : s.dom.core = true) (hen : s.bitAt R.SENS_EN i.val = true)
    (hgood : s.badSample i.val v.toInt = false) : ∃ u : State,
      exec (.thermalSample i v) s = .next (u.judgeThermal.thresholdEvents s.compositeTemp)
        ∧ u.rd (R.SENS_T i.val) = v.toNat ∧ u.thm.sampled.testBit i.val = true
        ∧ signed 16 (u.rd (R.SENS_PEAK i.val)) = max (signed 16 (s.rd (R.SENS_PEAK i.val))) v.toInt
        ∧ RegFrame s u [R.SENS_T i.val, R.SENS_PEAK i.val] := by
  obtain ⟨u, hu⟩ : ∃ u, u = ((s.wr (R.SENS_T i.val) v.toNat).noteSampled i.val).notePeak i.val v.toNat := ⟨_, rfl⟩
  refine ⟨u, congrArg Host.Outcome.next ((if_pos (by rw [hdom, hen]; rfl)).trans ?_), sampled_shows s i v hu⟩
  unfold State.sampleSensor
  dsimp only
  rw [State.signed_toNat, hgood, ← hu, judgeSample_good]

end Sys2Proof.Machine

open Sys2Proof Sys2Proof.Machine in
/-- Settles O9: the watchdog and the pins by their registers and the FCU's state. -/
theorem watchdogAndPinsComplete : Obligations.WatchdogAndPinsComplete := by
  unfold Obligations.WatchdogAndPinsComplete
  exact ⟨pipToggle_completes, wdogEn_completes, wdogKick_completes, wdogMsWrite_completes, watchdogExpiry_eq, extRetractRequest_eq,
    extRetractEnd_completes, fcuCntClr_completes⟩

open Sys2Proof Sys2Proof.Machine in
/-- Settles O44: hours and calendar by their registers, a sample by its sensor's reading and peak. -/
theorem timeAndTemperatureComplete : Obligations.TimeAndTemperatureComplete := by
  unfold Obligations.TimeAndTemperatureComplete
  exact ⟨pohTick_cool, pohTick_warm, calendarSet_completes, thermalSample_judges⟩
end

section
/-!
The MTU's tables, journal and relocations, and what a failed head or actuator leaves (O23).
-/
namespace Sys2Proof.Machine

open Sys2Proof.Arith

namespace State

theorem journal_shows (s : State) : s.journal.nv = s.nv ∧ s.journal.media.tables.reloc = s.media.tables.reloc
    ∧ s.journal.media.relocWait = s.media.relocWait := by
  unfold journal
  dsimp only
  rw [wr_nv, wr_nv, wr_media, wr_media]
  exact ⟨rfl, rfl, rfl⟩

theorem releaseContext_alone (s : State) (key : Nat) (h : s.media.ctxWait = []) :
    s.releaseContext key = s.modZone key fun z => { z with context := false } := by
  unfold releaseContext grantContexts modZone
  dsimp only
  rw [h]
  rw [List.foldl_nil, ← h]

/-! ### A zone whose head is unable -/

theorem asyncEvent_media (s : State) (k dw0 : Nat) : (s.asyncEvent k dw0).media = s.media ∧ (s.asyncEvent k dw0).nv = s.nv := by
  unfold asyncEvent
  split <;> exact ⟨rfl, rfl⟩

theorem leaveActive_zone (s : State) (key : Nat) (c : ZoneCond) : ((s.leaveActive key c).zone key).cond = c
    ∧ (s.leaveActive key c).nv = s.nv := by
  unfold leaveActive refreshZones
  dsimp only
  rw [wr_nv]
  refine ⟨?_, rfl⟩
  unfold zone
  rw [wr_media]
  simp only [modZone, Store.modify, Store.get_put_same]

/-- The events of a changed zone leave the media's state and what is nonvolatile. -/
theorem zoneEvents_media (key attached : Nat) (l : List Nat) (u : State) :
    (l.foldl (fun s k => if attached.testBit k then
        (s.modCtrl k fun x => { x with changedZones := x.changedZones ++ [key] }).asyncEvent k 0xBFEF02
      else s) u).media = u.media
    ∧ (l.foldl (fun s k => if attached.testBit k then
        (s.modCtrl k fun x => { x with changedZones := x.changedZones ++ [key] }).asyncEvent k 0xBFEF02
      else s) u).nv = u.nv := by
  induction l generalizing u with
  | nil => exact ⟨rfl, rfl⟩
  | cons k l ih =>
    rw [List.foldl_cons]
    split
    · obtain ⟨hmedia, hnv⟩ := (u.modCtrl k fun x => { x with changedZones := x.changedZones ++ [key] }).asyncEvent_media k 0xBFEF02
      exact ⟨(ih _).1.trans hmedia, (ih _).2.trans hnv⟩
    · exact ih u

theorem changeZone_shows (s : State) (ns zi : Nat) (c : ZoneCond) : ((s.changeZone ns zi c).zone (zoneKey ns zi)).cond = c
    ∧ (s.changeZone ns zi c).nv = s.nv := by
  unfold changeZone
  by_cases hsame : (s.zone (zoneKey ns zi)).cond = c
  · rw [if_pos hsame]
    exact ⟨hsame, rfl⟩
  · rw [if_neg hsame]
    obtain ⟨hcond, hnv⟩ := s.leaveActive_zone (zoneKey ns zi) c
    dsimp only
    generalize s.leaveActive (zoneKey ns zi) c = u at *
    exact ⟨(congrArg (fun m => (Store.get {} m.tables.zones (zoneKey ns zi)).cond) (zoneEvents_media _ _ _ _).1).trans hcond,
      (zoneEvents_media _ _ _ _).2.trans hnv⟩

theorem changeZones_nv (l : List (Nat × Nat)) (g : State → Nat × Nat → ZoneCond) (s : State) :
    (l.foldl (fun s z => s.changeZone z.1 z.2 (g s z)) s).nv = s.nv := by
  induction l generalizing s with
  | nil => rfl
  | cons z l ih => exact (ih _).trans (s.changeZone_shows _ _ _).2

end State

/-! ### The commands -/

theorem mapLoad_completes (s : State) (hnew : s.flag R.MAP_LOADED = false) (hruns : s.mtuRuns = true) (honce : s.media.loadedOnce = true)
    (hreplay : s.media.replayed = none) (hstamp : s.media.tables.stamp ≤ s.nv.tables.stamp) : Completes (exec .mapLoad s) fun t =>
      t.flag R.MAP_LOADED = true ∧ t.media.tables = State.restartTables s.nv.tables
        ∧ RegFrame s t [R.MAP_LOADED, R.RELOC_USED, R.ZONES_ACTIVE] := by
  refine ⟨_, congrArg Host.Outcome.next (if_neg (by rw [hnew, hruns, honce]; decide)), ?_⟩
  rw [hreplay]
  dsimp only
  rw [if_neg (Nat.not_lt.mpr hstamp)]
  unfold State.refreshZones
  refine ⟨?_, by rw [State.wr_media, State.wr_media, State.wr_media],
    (regFrame_wr (by simp)).mpr ((regFrame_wr (by simp)).mpr ((regFrame_wr (by simp)).mpr (regFrame_update.mpr (regFrame_same s _))))⟩
  rw [State.flag, State.rd_wr_apart _ _ _ _ (by decide), State.rd_wr_apart _ _ _ _ (by decide), State.rd_wr_same _ _ _ (by decide)]
  rfl

theorem bufferReserve_eq (s : State) (c : Cmd) (hc : s.hosts.cmds = [c]) (hwants : s.wantsSpace c = true)
    (hroom : s.bufferUsed + s.spaceWanted c ≤ s.bufferSize) :
    exec .bufferReserve s = .next ((s.modCmd c.tag fun c => { c with reserved := c.received + s.spaceWanted c }).refreshBuffer) := by
  refine congrArg Host.Outcome.next ?_
  unfold State.reserveNext
  rw [hc, List.filter_cons_of_pos hwants, List.filter_nil]
  dsimp only [List.map, List.min?, List.foldl]
  rw [List.find?_cons_of_pos (by simp)]
  exact if_pos hroom

theorem writeContextRelease_eq (s : State) (i : BitVec 5) (z : BitVec 20) (n : Namespace) (hn : s.namespaceOf i.toNat = some n)
    (hruns : s.mtuRuns = true) (hctx : (s.zone (State.zoneKey i.toNat z.toNat)).context = true)
    (hidle : State.isActive (s.zone (State.zoneKey i.toNat z.toNat)).cond = false) (hbuf : s.media.buffer = [])
    (hwait : s.media.ctxWait = []) : exec (.writeContextRelease i z) s =
      .next (s.modZone (State.zoneKey i.toNat z.toNat) fun z => { z with context := false }) := by
  change execWriteContextRelease i z s = _
  unfold execWriteContextRelease
  dsimp only
  rw [hn]
  dsimp only
  rw [if_neg (by rw [hruns, hctx, hidle, hbuf]; simp), s.releaseContext_alone _ hwait]

theorem issue_shows (u : State) (n : Fin 4) (i : Issued) : (u.issue n.val i).flag (R.FSQ_IDLE n.val) = false
    ∧ ((u.issue n.val i).fsqOf n.val).issued = some { i with desc := { i.desc with opId := u.media.nextOpId } } := by
  have hfits : ∀ n : Fin 4, (R.FSQ_IDLE n.val).fits = true := by decide
  unfold State.issue
  dsimp only
  refine ⟨by rw [State.flag, State.rd_wr_same _ _ _ (hfits n)]; rfl, ?_⟩
  unfold State.fsqOf
  rw [State.wr_fsq]
  simp only [State.modFsq, Store.modify, Store.get_put_same]

/-- What is due on the actuator is queued, and then the control operation is issued where its type is allowed. -/
theorem mediaOpIssue_issues (s : State) (n : Fin 4) (r : List (BitVec 13)) (p : MediaPlace) (d : OpDesc)
    (hmay : s.mayIssue n.val = true) : ∃ u : State, exec (.mediaOpIssue n r p (some d)) s = .next
      (if (u.typeAllowed n.val d.opType && !(decide (2 ≤ d.opType) && decide (d.opType ≤ 4))) = true then u.issue n.val ⟨d, none, none⟩ else u) := by
  exact ⟨_, congrArg Host.Outcome.next (if_neg (by rw [hmay]; decide))⟩

theorem mediaOpIssue_control (s : State) (n : Fin 4) (r : List (BitVec 13)) (p : MediaPlace) (d : OpDesc) (hmay : s.mayIssue n.val = true)
    (htype : d.opType = 1 ∨ (5 ≤ d.opType ∧ d.opType ≤ 8)) : Completes (exec (.mediaOpIssue n r p (some d)) s) fun t =>
      t.flag (R.FSQ_IDLE n.val) = false ∧ ∃ k, (t.fsqOf n.val).issued = some ⟨{ d with opId := k }, none, none⟩ := by
  have hallowed (u : State) : (u.typeAllowed n.val d.opType && !(decide (2 ≤ d.opType) && decide (d.opType ≤ 4))) = true := by
    have hle : d.opType ≤ 8 := by omega
    unfold State.typeAllowed
    dsimp only
    split <;> (simp only [Bool.and_eq_true, Bool.not_eq_true', Bool.and_eq_false_iff, decide_eq_true_eq, decide_eq_false_iff_not]; omega)
  obtain ⟨u, hu⟩ := mediaOpIssue_issues s n r p d hmay
  rw [hu, if_pos (hallowed u)]
  obtain ⟨hidle, hissued⟩ := issue_shows u n ⟨d, none, none⟩
  exact .next ⟨hidle, _, hissued⟩

theorem journalSegmentWrite_completes (s : State) (hruns : s.mtuRuns = true) (hfull : 262144 * s.rd R.JRNL_WM_256K ≤ s.media.tailBytes)
    (hnone : s.media.reportWait = []) : Completes (exec .journalSegmentWrite s) fun t =>
      t.media.tailBytes = 0 ∧ t.media.segBytes = s.media.segBytes + s.media.tailBytes ∧ t.nv.tables = s.media.tables
        ∧ t.rd R.JRNL_TAIL_256K = 0 ∧ RegFrame s t [R.JRNL_TAIL_256K, R.JRNL_FULL_STALL] := by
  refine ⟨_, congrArg Host.Outcome.next (if_neg (by rw [hruns]; simpa using hfull)), ?_⟩
  rw [hnone]
  dsimp only [List.foldl_nil]
  rw [State.wr_media, State.wr_media, State.wr_nv, State.wr_nv, State.rd_wr_apart _ _ _ _ (by decide),
    State.rd_wr_same _ _ _ (by decide)]
  exact ⟨rfl, rfl, rfl, rfl, (regFrame_wr (by simp)).mpr ((regFrame_wr (by simp)).mpr (regFrame_update.mpr (regFrame_same s _)))⟩

theorem mapCheckpoint_completes (s : State) (hruns : s.mtuRuns = true) (hfull : 2 ^ 30 ≤ s.media.segBytes) :
    Completes (exec .mapCheckpoint s) fun t => t.media.segBytes = 0 ∧ t.nv.tables = s.media.tables ∧ t.regs = s.regs :=
  ⟨_, congrArg Host.Outcome.next (if_neg (by rw [hruns]; simpa using hfull)), rfl, rfl, rfl⟩

theorem relocateSector_completes (s : State) (f : Fin 32) (a c : BitVec 24) (b e : BitVec 12) (r : Reloc) (hruns : s.mtuRuns = true)
    (hback : s.pm.backgroundStopped = false) (hthr : s.rd R.THR_LEVEL = 0) (hroom : s.media.tables.reloc.length < 262144)
    (hjournal : s.journalRoom = true) (hwait : s.media.relocWait = [r]) (hloc : r.loc = State.location f.val a.toNat b.toNat)
    (hfresh : ∀ x ∈ s.media.tables.reloc, x.2 ≠ r.loc) : Completes (exec (.relocateSector f a b c e) s) fun t =>
      t.relocated r.loc = State.location f.val c.toNat e.toNat ∧ t.media.relocWait = []
        ∧ ∃ x, Store.get none t.nv.sectors (State.location f.val c.toNat e.toNat) = some x ∧ x.user = r.user := by
  have hhome : (s.media.tables.reloc.find? fun x => x.2 == r.loc) = none :=
    List.find?_eq_none.mpr fun x hx => by simpa using hfresh x hx
  refine .next ?_
  dsimp only
  rw [← hloc, hwait, List.find?_cons_of_pos (by simp)]
  dsimp only
  rw [if_neg (by rw [hruns, hback, hthr]; decide), if_neg (Nat.not_le.mpr hroom), if_neg (by rw [hjournal]; decide), hhome]
  dsimp only
  rw [List.filter_cons_of_neg (by simp), List.filter_nil]
  generalize hu : State.wr _ R.RELOC_USED _ = u
  obtain ⟨hnv, hreloc, hleft⟩ := u.journal_shows
  rw [State.relocated, hreloc, hleft, hnv, ← hu, State.wr_media, State.wr_nv]
  simp only [Store.get_put_same, true_and]
  exact ⟨_, rfl, rfl⟩

theorem actuatorFailDeclare_eq (s : State) (n : Fin 4) (hreach : s.reachable (R.ACT_FAIL_DECL n.val).addr = true)
    (hnew : s.flag (R.ACT_FAIL_DECL n.val) = false) : exec (.actuatorFailDeclare n) s =
      .next (((s.granting.wr (R.ACT_FAIL_DECL n.val) 1).zonesFailed n.val).actuatorLost n.val) := by
  have haddr : ∀ n : Fin 4, R.REG_TOKEN.addr ≠ (R.ACT_FAIL_DECL n.val).addr := by decide
  exact congrArg Host.Outcome.next ((if_pos hreach).trans (if_neg (by rw [s.flag_granting_of_addr (haddr n), hnew]; decide)))

theorem headDeclaredUnable_completes (s : State) (h : Fin 32) (b : Bool) (hruns : s.mtuRuns = true) :
    Completes (exec (.headDeclaredUnable h b) s) fun t =>
      (if b then t.nv.noRead else t.nv.noWrite).testBit h.val = true ∧ ∀ z, s.everyZone = [z] →
        State.surfaceOf (s.bandLoc z.1 z.2 0) = h.val → (t.zone (State.zoneKey z.1 z.2)).cond =
          State.unableState (s.zone (State.zoneKey z.1 z.2)).cond b := by
  refine ⟨_, congrArg Host.Outcome.next (if_neg (by rw [hruns]; decide)), ?_⟩
  generalize hv : (if b then { s.nv with noRead := setBit s.nv.noRead h.val } else { s.nv with noWrite := setBit s.nv.noWrite h.val }) = v
  have hset : (if b then v.noRead else v.noWrite).testBit h.val = true := by
    subst hv
    cases b <;> simp [Arith.testBit_setBit]
  have hspaces : v.namespaces = s.nv.namespaces := by
    subst hv
    cases b <;> rfl
  obtain ⟨u, hu, hnv, hzones, hloc⟩ : ∃ u : State, u = { s with nv := v } ∧ u.nv = v ∧ u.everyZone = s.everyZone
      ∧ ∀ ns zi, u.bandLoc ns zi 0 = s.bandLoc ns zi 0 := by
    refine ⟨_, rfl, rfl, ?_, fun ns zi => ?_⟩
    · unfold State.everyZone
      rw [hspaces]
    · unfold State.bandLoc State.placeLoc State.zoneRatio State.namespaceOf
      rw [hspaces]
      rfl
  dsimp only
  rw [← hu]
  refine ⟨?_, fun z hz hsurface => ?_⟩
  · rw [State.changeZones_nv, hnv]
    exact hset
  · rw [hzones, hz, List.filter_cons_of_pos (by rw [hloc, hsurface]; exact beq_self_eq_true _), List.filter_nil]
    exact (u.changeZone_shows _ _ _).1.trans (by rw [hu]; rfl)

end Sys2Proof.Machine

open Sys2Proof Sys2Proof.Machine in
/-- Settles O23: the tables, the journal and the zones by what each command of the MTU leaves. -/
theorem mapCommandsComplete : Obligations.MapCommandsComplete := by
  unfold Obligations.MapCommandsComplete
  exact ⟨mapLoad_completes, bufferReserve_eq, writeContextRelease_eq, mediaOpIssue_control, journalSegmentWrite_completes,
    mapCheckpoint_completes, relocateSector_completes, actuatorFailDeclare_eq, headDeclaredUnable_completes⟩
end

section
/-!
The read/write channels (O24): a sector's start, its clock, its mark and its handover.
-/
namespace Sys2Proof.Machine

open Sys2Proof.Arith

namespace State

theorem slot_congr {s t : State} (h : t.chn = s.chn) (k : Nat) : t.slot k = s.slot k := by rw [slot, slot, h]

theorem foldl_wr_chn {α : Type} (F : α → Fld) (v : α → Nat) (l : List α) (s : State) :
    (l.foldl (fun s a => s.wr (F a) (v a)) s).chn = s.chn := by
  induction l generalizing s with
  | nil => rfl
  | cons a l ih => rw [List.foldl_cons, ih, wr_chn]

theorem refreshAbx_chn (s : State) : s.refreshAbx.chn = s.chn := by
  unfold refreshAbx
  rw [foldl_wr_chn, wr_chn, wr_chn, wr_chn, wr_chn]

/-- The summary of the LLR slots leaves a field that none of its own shares a bit with. -/
theorem rd_refreshAbx_apart (s : State) (g : Fld) (h : ∀ f ∈ [R.BEADS_BUSY, R.LLR_USED, R.READY_CW, R.LLR_PINNED], f.apart g = true)
    (hk : ∀ k ∈ List.range 8, (R.LLR_HELD k).apart g = true) : s.refreshAbx.rd g = s.rd g := by
  simp only [List.mem_cons, List.not_mem_nil, or_false, forall_eq_or_imp, forall_eq] at h
  obtain ⟨hbusy, hused, hready, hpinned⟩ := h
  unfold refreshAbx
  rw [rd_foldl_wr_apart _ _ _ _ hk, rd_wr_apart _ _ _ _ hpinned, rd_wr_apart _ _ _ _ hready, rd_wr_apart _ _ _ _ hused,
    rd_wr_apart _ _ _ _ hbusy]

theorem modLlr_llr (s : State) (i : Nat) (f : LlrSlot → LlrSlot) {x : LlrSlot} (hx : Store.get none s.abx.llr i = some x) :
    Store.get none (s.modLlr i f).abx.llr i = some (f x) := by
  unfold modLlr
  rw [hx]
  simp only [Store.get_put_same]

/-! ### A sector's start -/

theorem llrSlotFor_congr {s t : State} (hregs : t.regs = s.regs) (habx : t.abx = s.abx) (k : Nat) : t.llrSlotFor k = s.llrSlotFor k := by
  cases s
  cases t
  cases hregs
  cases habx
  rfl

/-- Until its run goes on, a sector's start moves no register and keeps the run. -/
theorem sectorStart_eq (s : State) (k : Fin 8) (b : BitVec 12) : ∃ u : State, u.regs = s.regs ∧ u.abx = s.abx
    ∧ (u.slot k.val).run = (s.slot k.val).run ∧ (u.slot k.val).stopRead = (s.slot k.val).stopRead
    ∧ s.sectorStart { stream := k, sector := b } = match (u.slot k.val).run with
      | some r =>
        if r.next < r.count ∧ b.toNat = r.first + r.next then
          if r.write then u.startWrite (k.val / 2) (k.val % 2) { stream := k, sector := b } r
          else u.startRead (k.val / 2) (k.val % 2) { stream := k, sector := b } r
        else u
      | none => u := by
  have hk : 2 * (k.val / 2) + k.val % 2 = k.val := Nat.div_add_mod _ _
  have htaps (u : State) : u.startTaps (k.val / 2) (k.val % 2) [] = u.modSlot k.val fun c => { c with firPend := [] } := by
    unfold startTaps
    dsimp only [List.filter, List.foldl]
    rw [ite_self, hk]
  have hcount (u : State) : (if k.val % 2 = 0 then u.fsqCount (k.val / 2) 3 else u).regs = u.regs
      ∧ (if k.val % 2 = 0 then u.fsqCount (k.val / 2) 3 else u).abx = u.abx
      ∧ (if k.val % 2 = 0 then u.fsqCount (k.val / 2) 3 else u).chn = u.chn := by
    split
    · unfold fsqCount
      split
      · split <;> exact ⟨rfl, rfl, rfl⟩
      · exact ⟨rfl, rfl, rfl⟩
    · exact ⟨rfl, rfl, rfl⟩
  unfold sectorStart
  dsimp only [List.map]
  rw [htaps, sampleSlot, hk]
  generalize hv : modSlot _ k.val _ = v
  obtain ⟨hregs, habx, hchn⟩ := hcount v
  have hslot : (v.slot k.val).run = (s.slot k.val).run ∧ (v.slot k.val).stopRead = (s.slot k.val).stopRead := by
    rw [← hv]
    simp only [slot_modSlot_same, and_self]
  refine ⟨_, ?_, ?_, ?_, ?_, rfl⟩
  · rw [hregs, ← hv]
    rfl
  · rw [habx, ← hv]
    rfl
  · rw [slot_congr hchn, hslot.1]
  · rw [slot_congr hchn, hslot.2]

theorem setWeights_keeps (s : State) (n h : Nat) : (s.setWeights n h).abx = s.abx ∧ (s.setWeights n h).chn = s.chn := by
  unfold setWeights
  split
  · exact ⟨rfl, rfl⟩
  · split
    · rw [wr_abx, wr_abx, wr_chn, wr_chn]
      exact ⟨rfl, rfl⟩
    · dsimp only
      split
      · rw [wr_abx, wr_abx, wr_chn, wr_chn]
        exact ⟨rfl, rfl⟩
      · split <;> (rw [wr_abx, wr_abx, wr_chn, wr_chn]; exact ⟨rfl, rfl⟩)

theorem takeSlot_shows (s : State) (k : Fin 8) (i : Nat) (r : SectorRun) : ∃ x,
    Store.get none (s.takeSlot (k.val / 2) (k.val % 2) i r).abx.llr i = some x ∧ x.stream = k.val
      ∧ x.location = location r.surface r.track (r.first + r.next)
      ∧ ((s.takeSlot (k.val / 2) (k.val % 2) i r).slot k.val).llr = some i
      ∧ ((s.takeSlot (k.val / 2) (k.val % 2) i r).slot k.val).run = some { r with next := r.next + 1 }
      ∧ (s.takeSlot (k.val / 2) (k.val % 2) i r).flag (R.BP_ACTIVE k.val) = false := by
  have hk : 2 * (k.val / 2) + k.val % 2 = k.val := Nat.div_add_mod _ _
  have hfits : ∀ k : Fin 8, (R.BP_ACTIVE k.val).fits = true
      ∧ (∀ f ∈ [R.BEADS_BUSY, R.LLR_USED, R.READY_CW, R.LLR_PINNED], f.apart (R.BP_ACTIVE k.val) = true)
      ∧ ∀ j ∈ List.range 8, (R.LLR_HELD j).apart (R.BP_ACTIVE k.val) = true := by decide
  obtain ⟨hfit, hsum, hheld⟩ := hfits k
  unfold takeSlot
  dsimp only
  rw [hk, refreshAbx_abx, wr_abx, slot_congr (refreshAbx_chn _), slot_wr, slot_modSlot_same, flag, rd_refreshAbx_apart _ _ hsum hheld,
    rd_wr_same _ _ _ hfit]
  simp only [modSlot, Store.get_put_same]
  exact ⟨_, rfl, rfl, rfl, trivial, trivial, rfl⟩

end State

theorem sectorStart_completes (s : State) (k : Fin 8) (b : BitVec 12) (r : SectorRun) (i : Nat) (hrun : (s.slot k.val).run = some r)
    (hread : r.write = false) (hnext : r.next < r.count) (hb : b.toNat = r.first + r.next)
    (hgate : s.bitAt (R.RG_ON (k.val / 2)) (k.val % 2) = true) (hgo : (s.slot k.val).stopRead = false) (hi : s.llrSlotFor k.val = some i) :
    Completes (exec (.sectorStart [{ stream := k, sector := b }]) s) fun t =>
      ∃ x, Store.get none t.abx.llr i = some x ∧ x.stream = k.val ∧ x.location = State.location r.surface r.track b.toNat
        ∧ (t.slot k.val).llr = some i ∧ (t.slot k.val).run = some { r with next := r.next + 1 } ∧ t.flag (R.BP_ACTIVE k.val) = false := by
  have hk : 2 * (k.val / 2) + k.val % 2 = k.val := Nat.div_add_mod _ _
  have hapart : ∀ k : Fin 8, R.LLR_TOKEN.apart (R.BP_ACTIVE k.val) = true := by decide
  obtain ⟨u, hregs, habx, hurun, hugo, heq⟩ := s.sectorStart_eq k b
  rw [hurun, hrun] at heq
  dsimp only at heq
  rw [if_pos ⟨hnext, hb⟩, if_neg (by rw [hread]; decide), State.startRead,
    if_neg (by rw [State.bitAt, State.rd_congr hregs, ← State.bitAt, hgate]; decide), hk, if_neg (by rw [hugo, hgo]; decide),
    State.llrSlotFor_congr hregs habx, hi] at heq
  dsimp only at heq
  generalize u.setWeights (k.val / 2) (k.val % 2) = w at heq
  obtain ⟨x, hx, hstream, hloc, hllr, hgone, hflag⟩ := w.takeSlot_shows k i r
  rw [← heq] at hx hllr hgone hflag
  refine .next ?_
  dsimp only [List.map]
  rw [tokenOrder_single _ k.isLt]
  dsimp only [List.flatMap, List.map, List.flatten, List.append_nil]
  rw [List.find?_cons_of_pos (by simp)]
  dsimp only [Option.toList]
  rw [show ([{ stream := k, sector := b }] : List SlotStart).append [] = [{ stream := k, sector := b }] from rfl, List.foldl_cons,
    List.foldl_nil]
  generalize s.sectorStart { stream := k, sector := b } = v at *
  exact ⟨x, by rw [State.wr_abx, hx], hstream, by rw [hloc, hb], by rw [State.slot_wr, hllr], by rw [State.slot_wr, hgone],
    by rw [State.flag, State.rd_wr_apart _ _ _ _ (hapart k)]; exact hflag⟩

/-! ### The clock -/

namespace State

theorem signed_byte (p : BitVec 8) : signed 8 p.toNat = p.toInt := by
  have hlt := p.isLt
  rw [signed, Nat.mod_eq_of_lt hlt, BitVec.toInt_eq_toNat_cond]
  by_cases h : p.toNat < 2 ^ (8 - 1)
  · rw [if_pos h, if_pos (by omega)]
  · rw [if_neg h, if_neg (by omega)]

theorem rd_raiseTo_apart (s : State) (f g : Fld) (v : Nat) (h : f.apart g = true) : (s.raiseTo f v).rd g = s.rd g := by
  unfold raiseTo
  split
  · exact rd_wr_apart _ _ _ _ h
  · rfl

end State

/-- A timing field's measurement in the registers. -/
theorem timingMeasured (s : State) (n : Fin 4) (h : Fin 2) (p : BitVec 8) (m : Nat) : ∃ u : State,
    u = (((s.wr (R.DLC_RATE_ERR n.val h.val) 0).wr (R.DLC_PHERR n.val h.val) p.toNat).raiseTo (R.DLC_PHMAX n.val h.val) m).clrBitAt
        (R.DLC_COASTING n.val) h.val
      ∧ u.rd (R.DLC_PHERR n.val h.val) = p.toNat ∧ u.flag (R.DLC_RATE_ERR n.val h.val) = false
      ∧ u.bitAt (R.DLC_COASTING n.val) h.val = false ∧ u.bitAt (R.WG_ON n.val) h.val = s.bitAt (R.WG_ON n.val) h.val
      ∧ u.chn = s.chn := by
  have hfields : ∀ (n : Fin 4) (h : Fin 2), (R.DLC_RATE_ERR n.val h.val).fits = true ∧ (R.DLC_PHERR n.val h.val).fits = true
    ∧ ((R.DLC_COASTING n.val).fits && decide (h.val < (R.DLC_COASTING n.val).width)) = true
    ∧ (R.DLC_PHERR n.val h.val).apart (R.DLC_RATE_ERR n.val h.val) = true
    ∧ ((R.DLC_RATE_ERR n.val h.val).apart (R.WG_ON n.val) = true ∧ (R.DLC_PHERR n.val h.val).apart (R.WG_ON n.val) = true
      ∧ (R.DLC_PHMAX n.val h.val).apart (R.WG_ON n.val) = true ∧ (R.DLC_COASTING n.val).apart (R.WG_ON n.val) = true)
    ∧ ((R.DLC_PHMAX n.val h.val).apart (R.DLC_PHERR n.val h.val) = true ∧ (R.DLC_COASTING n.val).apart (R.DLC_PHERR n.val h.val) = true)
    ∧ (R.DLC_PHMAX n.val h.val).apart (R.DLC_RATE_ERR n.val h.val) = true
    ∧ (R.DLC_COASTING n.val).apart (R.DLC_RATE_ERR n.val h.val) = true := by decide
  obtain ⟨hrfit, hpfit, hcfit, hpr, ⟨hrw, hpw, hmw, hcw⟩, ⟨hmp, hcp⟩, hmr, hcr⟩ := hfields n h
  refine ⟨_, rfl, ?_, ?_, ?_, ?_, ?_⟩
  · rw [State.clrBitAt, State.rd_wr_apart _ _ _ _ hcp, State.rd_raiseTo_apart _ _ _ _ hmp, State.rd_wr_same _ _ _ hpfit]
    exact Nat.mod_eq_of_lt p.isLt
  · rw [State.flag, State.clrBitAt, State.rd_wr_apart _ _ _ _ hcr, State.rd_raiseTo_apart _ _ _ _ hmr, State.rd_wr_apart _ _ _ _ hpr,
      State.rd_wr_same _ _ _ hrfit]
    rfl
  · rw [State.bitAt_clrBitAt_same _ _ _ _ hcfit]
    simp
  · rw [State.bitAt, State.clrBitAt, State.rd_wr_apart _ _ _ _ hcw, State.rd_raiseTo_apart _ _ _ _ hmw, State.rd_wr_apart _ _ _ _ hpw,
      State.rd_wr_apart _ _ _ _ hrw, ← State.bitAt]
  · rw [State.clrBitAt_chn, State.raiseTo_chn, State.wr_chn, State.wr_chn]

theorem timingField_completes (s : State) (n : Fin 4) (h : Fin 2) (p : BitVec 8) (hnw : s.rd (R.DLC_NW n.val h.val) ≠ 0)
    (hmed : s.dom.med.testBit n.val = true) (hwg : s.bitAt (R.WG_ON n.val) h.val = false) :
    Completes (exec (.timingField n h p false) s) fun t =>
      t.rd (R.DLC_PHERR n.val h.val) = p.toNat ∧ t.flag (R.DLC_RATE_ERR n.val h.val) = false
        ∧ t.bitAt (R.DLC_COASTING n.val) h.val = false ∧ (t.slot (2 * n.val + h.val)).lostWedges = 0
        ∧ (p.toInt.natAbs ≤ 16 → 1 ≤ (s.slot (2 * n.val + h.val)).goodFields → t.bitAt (R.DLC_LOCK n.val) h.val = true) := by
  have hlock : ∀ (n : Fin 4) (h : Fin 2), ((R.DLC_LOCK n.val).fits && decide (h.val < (R.DLC_LOCK n.val).width)) = true
      ∧ (R.DLC_LOCK n.val).apart (R.DLC_PHERR n.val h.val) = true ∧ (R.DLC_LOCK n.val).apart (R.DLC_RATE_ERR n.val h.val) = true
      ∧ (R.DLC_LOCK n.val).apart (R.DLC_COASTING n.val) = true ∧ (R.DLC_LOCK n.val).apart (R.WG_ON n.val) = true := by decide
  obtain ⟨hfit, hlp, hlr, hlc, hlw⟩ := hlock n h
  refine ⟨_, congrArg Host.Outcome.next ((if_neg (by rw [hmed]; simpa using hnw)).trans (if_neg Bool.false_ne_true)), ?_⟩
  unfold State.timingField
  dsimp only
  rw [State.signed_byte]
  obtain ⟨u, hu, hph, hrate, hcoast, hgate, hchn⟩ := timingMeasured s n h p (min 255 p.toInt.natAbs)
  rw [← hu]
  rw [← State.slot_congr hchn]
  rw [← hgate] at hwg
  clear hu hgate hchn
  have hslot := State.slot_modSlot_same u (2 * n.val + h.val) fun c =>
    { c with lostWedges := 0, goodFields := if p.toInt.natAbs ≤ 16 then c.goodFields + 1 else 0 }
  have hrd (g : Fld) := State.rd_modSlot u (2 * n.val + h.val) (fun c =>
    { c with lostWedges := 0, goodFields := if p.toInt.natAbs ≤ 16 then c.goodFields + 1 else 0 }) g
  generalize u.modSlot (2 * n.val + h.val) _ = w at *
  rw [← hrd] at hph
  rw [State.flag, ← hrd, ← State.flag] at hrate
  rw [State.bitAt, ← hrd, ← State.bitAt] at hcoast hwg
  by_cases hgood : 2 ≤ (w.slot (2 * n.val + h.val)).goodFields
  · have hkept (g : Fld) (hg : (R.DLC_LOCK n.val).apart g = true) : (w.setBitAt (R.DLC_LOCK n.val) h.val).rd g = w.rd g :=
      State.rd_wr_apart _ _ _ _ hg
    rw [if_pos hgood, if_neg (by rw [State.bitAt, hkept _ hlw, ← State.bitAt, hwg]; simp), hkept _ hlp, State.flag, hkept _ hlr,
      ← State.flag, State.bitAt, hkept _ hlc, ← State.bitAt, State.slot_congr (State.setBitAt_chn _ _ _)]
    refine ⟨hph, hrate, hcoast, by rw [hslot], fun _ _ => ?_⟩
    rw [State.bitAt_setBitAt_same _ _ _ _ hfit]
    simp
  · rw [if_neg hgood, if_neg (by rw [hwg]; simp)]
    refine ⟨hph, hrate, hcoast, by rw [hslot], fun hsmall hone => absurd ?_ hgood⟩
    rw [hslot]
    dsimp only
    rw [if_pos hsmall]
    omega

/-! ### Marks and handovers -/

/-- The candidates that pass slot windows and threshold of actuator `n` (R319). -/
def State.passedCands (s : State) (n : Nat) (l : List (Int × Nat)) : List (Int × Nat) :=
  l.filter fun c => decide (-(s.rd (R.SYNC_WIN n) : Int) ≤ c.1) && decide (c.1 ≤ (s.rd (R.SYNC_WIN n) : Int)) && decide (c.2 ≤ s.rd (R.SYNC_THR n))

/-- A mark decision enters the candidates chosen into the sector's LLR slot; its events and counts leave the Abacus alone. -/
theorem State.decideMark_abx (s : State) (n i : Nat) (l : List (Int × Nat)) (d : Nat) : ∃ f, (s.decideMark n i l d).abx =
    (s.modLlr i fun x => { x with decided := true, cands := chooseCands (s.passedCands n l), blind := (chooseCands (s.passedCands n l)).isEmpty,
                                  predDist := d, flags := x.flags ||| f }).abx := by
  have hraise (u : State) (f : Nat) : (if f = 0 then u else u.raise (106 + 4 * n)).abx = u.abx := by
    split
    · rfl
    · exact u.raise_abx _
  have hcount (u : State) (a b : Bool) :
      (if a then u.count (R.SYNC_MISS_CNT n) else if b then u.count (R.BLIND_CNT n) else u).abx = u.abx := by
    split
    · exact u.count_abx _ _
    · split
      · exact u.count_abx _ _
      · rfl
  exact ⟨_, (hcount _ _ _).trans (hraise _ _)⟩

theorem syncMarkDecision_completes (s : State) (n : Fin 4) (h : Fin 2) (l : List (BitVec 6 × BitVec 6)) (d : BitVec 6) (i : Nat)
    (x : LlrSlot) (hi : (s.slot (2 * n.val + h.val)).llr = some i) (hx : Store.get none s.abx.llr i = some x) (hnew : x.decided = false) :
    Completes (exec (.syncMarkDecision n h l d) s) fun t => ∃ y, Store.get none t.abx.llr i = some y ∧ y.decided = true
      ∧ y.cands = State.chooseCands ((l.map fun c => (c.1.toInt, c.2.toNat)).filter fun c =>
          decide (-(s.rd (R.SYNC_WIN n.val) : Int) ≤ c.1) && decide (c.1 ≤ (s.rd (R.SYNC_WIN n.val) : Int)) && decide (c.2 ≤ s.rd (R.SYNC_THR n.val)))
      ∧ y.blind = y.cands.isEmpty ∧ y.predDist = d.toNat := by
  refine .next ?_
  rw [hi]
  dsimp only
  rw [hx]
  dsimp only
  rw [if_neg (by rw [hnew]; decide)]
  obtain ⟨f, habx⟩ := s.decideMark_abx n.val i (l.map fun c => (c.1.toInt, c.2.toNat)) d.toNat
  rw [habx]
  exact ⟨_, s.modLlr_llr i _ hx, rfl, rfl, rfl, rfl⟩

theorem State.mergeSpans_length (l : List Span) : (State.mergeSpans l).length = min 8 l.length := by
  unfold State.mergeSpans
  dsimp only
  rw [List.length_append, List.length_take]
  rcases Nat.lt_or_ge 7 l.length with hlong | hshort
  · have htail : l.drop 7 ≠ [] := by simpa using hlong
    obtain ⟨x, hx⟩ := Option.ne_none_iff_exists'.mp (List.head?_eq_none_iff.not.mpr htail)
    obtain ⟨y, hy⟩ := Option.ne_none_iff_exists'.mp (List.getLast?_eq_none_iff.not.mpr htail)
    rw [hx, hy]
    dsimp only [List.length]
    omega
  · rw [List.drop_eq_nil_of_le hshort]
    dsimp only [List.head?, List.length]
    omega

/-- A handover enters the complete LLR slot and ends the head slot's hold of it; what follows counts and summarises. -/
theorem State.handover_eq (s : State) (n h i : Nat) (x : LlrSlot) (l : List Span) (e : SectorSeen) (a : Nat) :
    ∃ (y : LlrSlot) (v : Nat × Nat) (clean excess : Bool), s.handover n h i x l e a =
        (let u := ({ s with abx := { s.abx with llr := Store.put none s.abx.llr i (some y) } } : State).modSlot (2 * n + h) fun c =>
          { c with ended := none, llr := if c.ended.isSome then c.llr else none, nv := (v :: c.nv).take 8 }
        let u := u.count (R.SECT_READ_CNT n)
        let u := if clean then u else u.count (R.ERASE_SECT_CNT n)
        (if excess then u.raise (107 + 4 * n) else u).refreshAbx)
      ∧ y.handed = true ∧ y.readyAt = a ∧ y.deadline = a + 1600 * s.rd (R.DL_US x.stream) ∧ y.spans = min 8 l.length := by
  unfold handover
  dsimp only
  exact ⟨_, _, _, _, rfl, rfl, rfl, rfl, mergeSpans_length l⟩

theorem State.handover_shows (s : State) (n : Fin 4) (h : Fin 2) (i : Nat) (x : LlrSlot) (l : List Span) (e : SectorSeen) (a : Nat) :
    ∃ y, Store.get none (s.handover n.val h.val i x l e a).abx.llr i = some y ∧ y.handed = true
      ∧ y.readyAt = a ∧ y.deadline = a + 1600 * s.rd (R.DL_US x.stream) ∧ y.spans = min 8 l.length
      ∧ ((s.handover n.val h.val i x l e a).slot (2 * n.val + h.val)).ended = none
      ∧ ((s.handover n.val h.val i x l e a).slot (2 * n.val + h.val)).llr =
        (if (s.slot (2 * n.val + h.val)).ended.isSome then (s.slot (2 * n.val + h.val)).llr else none)
      ∧ (s.handover n.val h.val i x l e a).rd (R.SECT_READ_CNT n.val) = min (2 ^ 32 - 1) (s.rd (R.SECT_READ_CNT n.val) + 1) := by
  have hfields : ∀ n : Fin 4, (R.SECT_READ_CNT n.val).fits = true
      ∧ (∀ f ∈ [R.BEADS_BUSY, R.LLR_USED, R.READY_CW, R.LLR_PINNED], f.apart (R.SECT_READ_CNT n.val) = true)
      ∧ (∀ k ∈ List.range 8, (R.LLR_HELD k).apart (R.SECT_READ_CNT n.val) = true)
      ∧ (R.ERASE_SECT_CNT n.val).apart (R.SECT_READ_CNT n.val) = true
      ∧ (R.PEND_BITS ((107 + 4 * n.val) / 32)).apart (R.SECT_READ_CNT n.val) = true := by decide
  obtain ⟨hfit, hsum, hheld, herase, hpend⟩ := hfields n
  have hcount (u : State) (b : Bool) : ∃ v, v = (if b then u else u.count (R.ERASE_SECT_CNT n.val)) ∧ v.abx = u.abx ∧ v.chn = u.chn
      ∧ v.rd (R.SECT_READ_CNT n.val) = u.rd (R.SECT_READ_CNT n.val) := by
    refine ⟨_, rfl, ?_⟩
    split
    · exact ⟨rfl, rfl, rfl⟩
    · exact ⟨u.count_abx _ _, u.count_chn _ _, rd_count_apart _ _ _ _ herase⟩
  have hraise (u : State) (b : Bool) : ∃ v, v = (if b then u.raise (107 + 4 * n.val) else u) ∧ v.abx = u.abx ∧ v.chn = u.chn
      ∧ v.rd (R.SECT_READ_CNT n.val) = u.rd (R.SECT_READ_CNT n.val) := by
    refine ⟨_, rfl, ?_⟩
    split
    · exact ⟨u.raise_abx _, u.raise_chn _, rd_raise _ _ _ hpend⟩
    · exact ⟨rfl, rfl, rfl⟩
  obtain ⟨y, v, clean, excess, heq, hhanded, hready, hdeadline, hspans⟩ := s.handover_eq n.val h.val i x l e a
  dsimp only at heq
  obtain ⟨u₁, hu₁, habx₁, hchn₁, hrd₁⟩ := hcount (State.count _ (R.SECT_READ_CNT n.val)) clean
  obtain ⟨u₂, hu₂, habx₂, hchn₂, hrd₂⟩ := hraise u₁ excess
  rw [heq, ← hu₁, ← hu₂, refreshAbx_abx, habx₂, habx₁, count_abx, slot_congr (refreshAbx_chn _), slot_congr hchn₂, slot_congr hchn₁,
    slot_congr (count_chn _ _ _), slot_modSlot_same, rd_refreshAbx_apart _ _ hsum hheld, hrd₂, hrd₁, rd_count_same _ _ _ hfit, rd_modSlot]
  simp only [modSlot, Store.get_put_same]
  exact ⟨y, rfl, hhanded, hready, hdeadline, hspans, trivial, rfl, rfl⟩

theorem llrHandover_completes (s : State) (n : Fin 4) (h : Fin 2) (l : List Span) (e : SectorSeen) (a : BitVec 64) (i : Nat) (x : LlrSlot)
    (hi : State.handing (s.slot (2 * n.val + h.val)) = some i) (hx : Store.get none s.abx.llr i = some x) (hdec : x.decided = true)
    (hnew : x.handed = false) :
    Completes (exec (.llrHandover n h l e a) s) fun t => ∃ y, Store.get none t.abx.llr i = some y ∧ y.handed = true
      ∧ y.readyAt = a.toNat ∧ y.deadline = a.toNat + 1600 * s.rd (R.DL_US x.stream) ∧ y.spans = min 8 l.length
      ∧ (t.slot (2 * n.val + h.val)).ended = none ∧ (t.slot (2 * n.val + h.val)).llr =
        (if (s.slot (2 * n.val + h.val)).ended.isSome then (s.slot (2 * n.val + h.val)).llr else none)
      ∧ t.rd (R.SECT_READ_CNT n.val) = min (2 ^ 32 - 1) (s.rd (R.SECT_READ_CNT n.val) + 1) := by
  refine .next ?_
  rw [hi]
  dsimp only
  rw [hx]
  dsimp only
  rw [if_pos (by rw [hdec, hnew]; decide)]
  exact s.handover_shows n h i x l e a.toNat

theorem reframeRequest_completes (s : State) (i : Fin 384) (x : LlrSlot) (g : Framing) (hx : Store.get none s.abx.llr i.val = some x)
    (hhanded : x.handed = true) (hg : x.framings = [g]) (hfailed : g.st = .failed) (hofs : g.ofs ≠ 0) (hkind : g.kind ≠ 2)
    (hmem : x.memErr = false) (hlimit : x.eraseLimit = false) (herased : x.erased = []) (hen : s.flag (R.REFRAME_EN (x.stream / 2)) = true) :
    Completes (exec (.reframeRequest i) s) fun t =>
      ∃ y f, Store.get none t.abx.llr i.val = some y ∧ y.framings = [g, f] ∧ f.kind = 2 ∧ f.ofs = 0 ∧ f.budget = s.rd R.BEAD_ITER
        ∧ f.st = .ready := by
  refine .next ?_
  rw [hx]
  dsimp only
  unfold State.reframe
  dsimp only
  rw [if_neg (by rw [hhanded, hg, hmem, hlimit, hen]; simp [hfailed, hofs, hkind])]
  rw [State.refreshAbx_abx, s.modLlr_llr i.val _ hx]
  refine ⟨_, ⟨2, 0, x.predDist, s.rd R.BEAD_ITER, 0, 0, .ready⟩, rfl, ?_, rfl, rfl, rfl, rfl⟩
  · have hallowed : s.framingAllowed x.erased 0 = true := by
      rw [State.framingAllowed, herased]
      simp [State.erasedWithin]
    dsimp only
    rw [hg, hallowed]
    rfl

theorem chnCntClr_completes (s : State) (n : Fin 4) (hreach : s.reachable (R.CHN_CNT_CLR n.val).addr = true) :
    Completes (exec (.chnCntClr n) s) fun t =>
    t.rd (R.SECT_READ_CNT n.val) = 0 ∧ t.rd (R.BLIND_CNT n.val) = 0 ∧ t.rd (R.AMBIG_CNT n.val) = 0 ∧ t.rd (R.REFRAME_CNT n.val) = 0
      ∧ t.rd (R.DUAL_PASS_CNT n.val) = 0 ∧ t.rd (R.WG_CUT_CNT n.val) = 0 ∧ t.rd (R.WPH_FAULT_CNT n.val) = 0
      ∧ t.rd (R.ERASE_SECT_CNT n.val) = 0 ∧ t.rd (R.SYNC_MISS_CNT n.val) = 0 ∧ RegsOnly s t := by
  have hfields : ∀ n : Fin 4,
      (∀ f ∈ [R.SECT_READ_CNT n.val, R.BLIND_CNT n.val, R.AMBIG_CNT n.val, R.REFRAME_CNT n.val, R.DUAL_PASS_CNT n.val, R.WG_CUT_CNT n.val,
        R.WPH_FAULT_CNT n.val, R.ERASE_SECT_CNT n.val, R.SYNC_MISS_CNT n.val, R.WSQ_OVR_CNT n.val 0, R.WSQ_OVR_CNT n.val 1], f.fits = true)
      ∧ [R.SECT_READ_CNT n.val, R.BLIND_CNT n.val, R.AMBIG_CNT n.val, R.REFRAME_CNT n.val, R.DUAL_PASS_CNT n.val, R.WG_CUT_CNT n.val,
        R.WPH_FAULT_CNT n.val, R.ERASE_SECT_CNT n.val, R.SYNC_MISS_CNT n.val, R.WSQ_OVR_CNT n.val 0, R.WSQ_OVR_CNT n.val 1].Pairwise
        fun f g => g.apart f = true := by decide
  obtain ⟨hfits, hapart⟩ := hfields n
  refine .access hreach ?_
  have hclear := s.granting.rd_clearAll hfits hapart
  refine ⟨hclear _ ?_, hclear _ ?_, hclear _ ?_, hclear _ ?_, hclear _ ?_, hclear _ ?_, hclear _ ?_, hclear _ ?_, hclear _ ?_,
    ((RegsOnly.refl s).wr _ _).clearAll _⟩ <;> simp

end Sys2Proof.Machine

open Sys2Proof Sys2Proof.Machine in
/-- Settles O24: a sector's start, mark and handover by its LLR slot and head slot, a timing field by its clock. -/
theorem channelCommandsComplete : Obligations.ChannelCommandsComplete := by
  unfold Obligations.ChannelCommandsComplete
  exact ⟨sectorStart_completes, timingField_completes, syncMarkDecision_completes, llrHandover_completes, reframeRequest_completes,
    chnCntClr_completes⟩
end

section
/-!
The Pack engine (O38): its lanes and their pool, the blocks it stores and expands, and the zones' ratios.
-/
namespace Sys2Proof.Machine

open Sys2Proof.Arith

namespace State

/-! ### Lanes and the pool -/

/-- The fields that a lane's take of pool buffers moves. -/
def poolFields : List Fld := [R.POOL_FREE, R.POOL_STALL, R.POOL_STALL_CNT, R.PEND_BITS 2]

theorem packLane_setLane (s : State) (i : Nat) (l : Option PackLane) : (s.setLane i l).packLane i = l := Store.get_put_same _ _ _ _

theorem showStalls_shows (s : State) (l : List Fld) (h : R.POOL_STALL ∈ l) : s.showStalls.pak = s.pak ∧ RegFrame s s.showStalls l := by
  unfold showStalls
  dsimp only
  rw [wr_pak]
  exact ⟨rfl, (Machine.regFrame_wr h).mpr (regFrame_same s l)⟩

theorem packLane_congr {s t : State} (h : t.pak = s.pak) (i : Nat) : t.packLane i = s.packLane i := by rw [packLane, packLane, h]

/-- A lane that takes pool buffers keeps its block and the ready blocks. -/
theorem takePool_keeps (s : State) (i k : Nat) (l : PackLane) : ∃ m, (s.takePool i k l).packLane i = some m ∧ m.ns = l.ns ∧ m.lba = l.lba
    ∧ (s.takePool i k l).pak.ready = s.pak.ready ∧ RegFrame s (s.takePool i k l) poolFields := by
  unfold takePool
  dsimp only
  obtain ⟨u, hu, hpak, hframe⟩ : ∃ u : State, u = (if min (s.rd R.POOL_FREE) (l.need - l.have_) ≠ 0
      ∧ s.rd R.POOL_FREE = min (s.rd R.POOL_FREE) (l.need - l.have_) then
        (s.wr R.POOL_FREE (s.rd R.POOL_FREE - min (s.rd R.POOL_FREE) (l.need - l.have_))).raise 65
      else s.wr R.POOL_FREE (s.rd R.POOL_FREE - min (s.rd R.POOL_FREE) (l.need - l.have_))) ∧ u.pak = s.pak ∧ RegFrame s u poolFields := by
    have hw (v : Nat) : RegFrame s (s.wr R.POOL_FREE v) poolFields :=
      (Machine.regFrame_wr (by simp [poolFields])).mpr (regFrame_same s _)
    refine ⟨_, rfl, ?_⟩
    split
    · exact ⟨by rw [raise_pak, wr_pak], (Machine.regFrame_raise (by simp [poolFields])).mpr (hw _)⟩
    · exact ⟨wr_pak _ _ _, hw _⟩
  rw [← hu]
  clear hu
  have hset (x : PackLane) : (u.setLane i (some x)).pak.ready = s.pak.ready ∧ RegFrame s (u.setLane i (some x)) poolFields :=
    ⟨by rw [← hpak]; rfl, regFrame_update.mpr hframe⟩
  have hstall : R.POOL_STALL ∈ poolFields := by simp [poolFields]
  split
  · obtain ⟨hready, hsf⟩ := hset { l with have_ := l.have_ + min (s.rd R.POOL_FREE) (l.need - l.have_), stalled := none }
    obtain ⟨hsp, hss⟩ := showStalls_shows (u.setLane i (some { l with
      have_ := l.have_ + min (s.rd R.POOL_FREE) (l.need - l.have_), stalled := none })) _ hstall
    refine ⟨_, (packLane_congr hsp i).trans (packLane_setLane _ _ _), rfl, rfl, by rw [hsp, hready], hsf.trans hss⟩
  · obtain ⟨hready, hsf⟩ := hset { l with have_ := l.have_ + min (s.rd R.POOL_FREE) (l.need - l.have_), stalled := some k }
    obtain ⟨hsp, hss⟩ := showStalls_shows (u.setLane i (some { l with
      have_ := l.have_ + min (s.rd R.POOL_FREE) (l.need - l.have_), stalled := some k })) _ hstall
    refine ⟨_, (packLane_congr ((raise_pak _ _).trans ((count_pak _ _ _).trans hsp)) i).trans (packLane_setLane _ _ _), rfl, rfl,
      by rw [raise_pak, count_pak, hsp, hready], ?_⟩
    exact (Machine.regFrame_raise (by simp [poolFields])).mpr ((Machine.regFrame_count (by simp [poolFields])).mpr (hsf.trans hss))

theorem enterLane_keeps (s : State) (i k lba : Nat) {ns : Nat} {n : Namespace} (hn : s.namespaceOf ns = some n) :
    ∃ m, (s.enterLane i k ns lba).packLane i = some m ∧ m.ns = ns ∧ m.lba = lba
      ∧ (s.enterLane i k ns lba).pak.ready = s.pak.ready ∧ RegFrame s (s.enterLane i k ns lba) poolFields := by
  unfold enterLane
  rw [hn]
  exact s.takePool_keeps i k _

theorem takePool_whole (s : State) (i k : Nat) (l : PackLane) (h : l.need = l.have_) :
    (s.takePool i k l).packLane i = some { l with stalled := none } ∧ (s.takePool i k l).rd R.POOL_FREE = s.rd R.POOL_FREE
      ∧ RegFrame s (s.takePool i k l) [R.POOL_FREE, R.POOL_STALL] := by
  have hnone : l.need - l.have_ = 0 := by rw [h, Nat.sub_self]
  unfold takePool
  dsimp only
  rw [hnone, Nat.min_zero, Nat.add_zero, Nat.sub_zero, if_pos h.symm,
    if_neg (fun hne : (0 : Nat) ≠ 0 ∧ s.rd R.POOL_FREE = 0 => hne.1 rfl)]
  have hsame : (s.wr R.POOL_FREE (s.rd R.POOL_FREE)).rd R.POOL_FREE = s.rd R.POOL_FREE := by
    rw [rd_wr_same _ _ _ (by decide)]
    exact Nat.mod_eq_of_lt (rd_lt s _)
  have hwr : RegFrame s (s.wr R.POOL_FREE (s.rd R.POOL_FREE)) [R.POOL_FREE, R.POOL_STALL] :=
    (Machine.regFrame_wr (by simp)).mpr (regFrame_same s _)
  generalize s.wr R.POOL_FREE (s.rd R.POOL_FREE) = u at hsame hwr ⊢
  obtain ⟨hpak, hframe⟩ := showStalls_shows (u.setLane i (some { l with stalled := none })) [R.POOL_STALL] (by simp)
  refine ⟨(packLane_congr hpak i).trans (packLane_setLane _ _ _), ?_, ?_⟩
  · rw [hframe _ (by decide), setLane, rd_update, hsame]
  · exact RegFrame.trans (regFrame_update.mpr hwr) (hframe.mono (by simp))

theorem fillLanes_of_none (s : State) (h : s.pak.ready = []) :
    s.fillLanes = { s with pak := { s.pak with ready := [], stalls := s.pak.stalls + 1 } } := by
  unfold fillLanes
  dsimp only
  rw [h, List.zip_nil_right]
  rfl

theorem fillLanes_of_one (s : State) {ns lba : Nat} (hlanes : s.pak.lanes = []) (h : s.pak.ready = [(ns, lba)]) :
    s.fillLanes = ({ s with pak := { s.pak with ready := [], stalls := s.pak.stalls + 1 } } : State).enterLane 0 s.pak.stalls ns lba := by
  have hfree : ((List.range 4).filter fun i => (s.packLane i).isNone) = [0, 1, 2, 3] := by
    unfold packLane
    rw [hlanes]
    rfl
  unfold fillLanes
  dsimp only
  rw [h, hfree]
  rfl

theorem stalledLane_congr {s t : State} (hlanes : t.pak.lanes = s.pak.lanes) (hregs : t.regs = s.regs) : t.stalledLane = s.stalledLane := by
  unfold stalledLane
  rw [hlanes, rd_congr hregs]

theorem stalledLane_of_none (s : State) (h : ∀ e ∈ s.pak.lanes, e.2.bind PackLane.stalled = none) : s.stalledLane = none := by
  have hnone : (s.pak.lanes.filterMap fun e => e.2.bind fun x => x.stalled.map fun t => (e.1, x, t)) = [] := by
    refine List.filterMap_eq_nil_iff.mpr fun e he => ?_
    have hx := h e he
    cases hl : e.2 with
    | none => rfl
    | some x =>
      rw [hl] at hx
      exact Option.map_eq_none_iff.mpr hx
  unfold stalledLane
  dsimp only
  rw [hnone]
  rfl

/-- A conventional unit is stored whole: it has no spill. -/
theorem storeBlock_conventional (s : State) (n : Namespace) (l : PackLane) (x : Nat) (hzoned : n.zoned = false) :
    ∃ u : PackUnit, (s.storeBlock n l x).pak = { s.pak with units := s.pak.units ++ [u] } ∧ u.ns = l.ns ∧ u.lba = l.lba ∧ u.extern = none
      ∧ u.raw = (packForm false (s.packSource l.ns l.lba)).1
      ∧ u.sectors.length = max l.slot (storedSectors false (s.packSource l.ns l.lba))
      ∧ (s.storeBlock n l x).rd R.SECT_OUT_CNT
          = min (2 ^ 32 - 1) (s.rd R.SECT_OUT_CNT + storedSectors false (s.packSource l.ns l.lba))
      ∧ RegFrame s (s.storeBlock n l x) [R.PACKED_CNT, R.RAW_CNT, R.SECT_OUT_CNT] := by
  have hapart : ∀ b : Bool, (if b then R.RAW_CNT else R.PACKED_CNT).apart R.SECT_OUT_CNT = true := by decide
  unfold storeBlock
  dsimp only
  rw [hzoned]
  generalize packForm false (s.packSource l.ns l.lba) = form
  generalize storedSectors false (s.packSource l.ns l.lba) = size
  obtain ⟨raw, len, bytes⟩ := form
  dsimp only
  rw [if_neg Bool.false_ne_true]
  unfold placeSpill
  rw [if_pos rfl]
  dsimp only
  rw [if_pos rfl, count_pak, count_pak, rd_count_same _ _ _ (by decide), rd_count_apart _ _ _ _ (hapart _), rd_update]
  refine ⟨_, rfl, rfl, rfl, rfl, rfl, ?_, rfl, ?_⟩
  · rw [cutSectors, List.length_map, List.length_range]
  · exact (Machine.regFrame_count (by simp)).mpr ((Machine.regFrame_count (by cases raw <;> simp)).mpr
      (regFrame_update.mpr (regFrame_same s _)))

end State

theorem inTurn_single {n : Nat} (token : Nat) (b : ReadyBlock) (hn : 0 < n) :
    State.inTurn n token [b] = ([b], (b.source.toNat % n + 1) % n) := by
  unfold State.inTurn
  dsimp only [List.map]
  rw [tokenOrder_single _ (Nat.mod_lt _ hn)]
  simp [tokenAfter]

theorem State.packCompress_one (s : State) (b : ReadyBlock) (hb : s.packReady b.ns.toNat (16 * b.block.toNat) = true) :
    s.packCompress [b] =
      (let u := (s.dropStale b.ns.toNat (16 * b.block.toNat)).wr R.PACK_TOKEN ((b.source.toNat + 1) % 4096)
      { u with pak := { u.pak with ready := u.pak.ready ++ [(b.ns.toNat, 16 * b.block.toNat)] } }).fillLanes := by
  have hfilter : ([b].filter fun b => s.packReady b.ns.toNat (16 * b.block.toNat)) = [b] := List.filter_cons_of_pos hb
  have hsource : b.source.toNat % 4096 = b.source.toNat := Nat.mod_eq_of_lt b.source.isLt
  have hkeys : ([(b.ns.toNat, 16 * b.block.toNat)] : List (Nat × Nat)).eraseDups = [(b.ns.toNat, 16 * b.block.toNat)] := rfl
  unfold packCompress
  simp only [hfilter, inTurn_single _ _ (by decide : 0 < 4096), hsource, List.map_cons, List.map_nil, hkeys, List.foldl_cons,
    List.foldl_nil]

/-! ### The commands -/

theorem packBlockCompress_completes (s : State) (b : ReadyBlock) (hruns : s.mtuRuns = true)
    (hb : s.packReady b.ns.toNat (16 * b.block.toNat) = true) (hlanes : s.pak.lanes = []) (hready : s.pak.ready = []) :
    Completes (exec (.packBlockCompress [b]) s) fun t => ∃ l, t.packLane 0 = some l ∧ l.ns = b.ns.toNat
      ∧ l.lba = 16 * b.block.toNat ∧ t.pak.ready = [] ∧ t.rd R.PACK_TOKEN = (b.source.toNat + 1) % 4096 := by
  have hspace : ∃ n, s.namespaceOf b.ns.toNat = some n := by
    refine Option.ne_none_iff_exists'.mp fun hnone => ?_
    unfold State.packReady at hb
    rw [hnone] at hb
    simp at hb
  obtain ⟨n, hn⟩ := hspace
  have hnv : ((s.dropStale b.ns.toNat (16 * b.block.toNat)).wr R.PACK_TOKEN ((b.source.toNat + 1) % 4096)).namespaceOf b.ns.toNat = some n := by
    rw [State.namespaceOf, State.wr_nv]
    exact hn
  refine ⟨_, congrArg Host.Outcome.next (if_pos hruns), ?_⟩
  rw [s.packCompress_one b hb]
  have htoken : ((s.dropStale b.ns.toNat (16 * b.block.toNat)).wr R.PACK_TOKEN ((b.source.toNat + 1) % 4096)).rd R.PACK_TOKEN
      = (b.source.toNat + 1) % 4096 := by
    rw [State.rd_wr_same _ _ _ (by decide)]
    exact Nat.mod_eq_of_lt (Nat.mod_lt _ (by decide))
  have hpak : ((s.dropStale b.ns.toNat (16 * b.block.toNat)).wr R.PACK_TOKEN ((b.source.toNat + 1) % 4096)).pak.lanes = []
      ∧ ((s.dropStale b.ns.toNat (16 * b.block.toNat)).wr R.PACK_TOKEN ((b.source.toNat + 1) % 4096)).pak.ready = [] := by
    rw [State.wr_pak]
    exact ⟨hlanes, hready⟩
  generalize (s.dropStale b.ns.toNat (16 * b.block.toNat)).wr R.PACK_TOKEN ((b.source.toNat + 1) % 4096) = u at *
  dsimp only
  rw [hpak.2, List.nil_append]
  generalize hw : ({ u with pak := { u.pak with ready := [(b.ns.toNat, 16 * b.block.toNat)] } } : State) = w
  rw [w.fillLanes_of_one (by rw [← hw]; exact hpak.1) (by rw [← hw])]
  replace hnv : w.namespaceOf b.ns.toNat = some n := by rw [← hw]; exact hnv
  replace htoken : w.rd R.PACK_TOKEN = (b.source.toNat + 1) % 4096 := by rw [← hw, State.rd_update, htoken]
  generalize hv : ({ w with pak := { w.pak with ready := [], stalls := w.pak.stalls + 1 } } : State) = v
  have hvn : v.namespaceOf b.ns.toNat = some n := by rw [← hv]; exact hnv
  have hvready : v.pak.ready = [] := by rw [← hv]
  have hvtoken : v.rd R.PACK_TOKEN = (b.source.toNat + 1) % 4096 := by rw [← hv, State.rd_update, htoken]
  obtain ⟨m, hm, hns, hlba, hempty, hframe⟩ := v.enterLane_keeps 0 w.pak.stalls (16 * b.block.toNat) hvn
  exact ⟨m, hm, hns, hlba, hempty.trans hvready, (hframe _ (by decide)).trans hvtoken⟩

theorem packBlockDone_completes (s : State) (i : Fin 4) (x : BitVec 24) (l : PackLane) (n : Namespace) (hl : s.packLane i.val = some l)
    (hstall : l.stalled = none) (hn : s.namespaceOf l.ns = some n) (hzoned : n.zoned = false) (hready : s.pak.ready = []) :
    Completes (exec (.packBlockDone i x) s) fun t =>
      t.packLane i.val = none ∧ (∃ u, t.pak.units = s.pak.units ++ [u] ∧ u.ns = l.ns ∧ u.lba = l.lba ∧ u.extern = none
        ∧ u.raw = (packForm false (s.packSource l.ns l.lba)).1 ∧ u.sectors.length = max l.slot (storedSectors false (s.packSource l.ns l.lba)))
      ∧ t.rd R.SECT_OUT_CNT = min (2 ^ 32 - 1) (s.rd R.SECT_OUT_CNT + storedSectors false (s.packSource l.ns l.lba))
      ∧ RegFrame s t [R.PACKED_CNT, R.RAW_CNT, R.SECT_OUT_CNT] := by
  refine .next ?_
  unfold State.packDone
  rw [hl]
  dsimp only
  rw [hstall, if_neg (by decide), hn]
  dsimp only
  obtain ⟨u, hpak, hns, hlba, hext, hraw, hlen, hout, hframe⟩ := s.storeBlock_conventional n l x.toNat hzoned
  generalize s.storeBlock n l x.toNat = v at *
  have hempty : v.pak.ready = [] := (congrArg Pak.ready hpak).trans hready
  rw [State.fillLanes_of_none (v.setLane i.val none) hempty]
  refine ⟨v.packLane_setLane i.val none, ⟨u, (congrArg Pak.units hpak :), hns, hlba, hext, hraw, hlen⟩, ?_, ?_⟩
  · rw [State.rd_update, State.setLane, State.rd_update, hout]
  · exact regFrame_update.mpr (regFrame_update.mpr hframe)

theorem poolBufferFree_idle (s : State) (hdue : s.pak.freeDue ≠ 0) (hnone : ∀ e ∈ s.pak.lanes, e.2.bind PackLane.stalled = none) :
    Completes (exec .poolBufferFree s) fun t => t.pak.freeDue + 1 = s.pak.freeDue
      ∧ t.rd R.POOL_FREE = min 65535 (s.rd R.POOL_FREE + 1) ∧ RegFrame s t [R.POOL_FREE] := by
  refine ⟨_, congrArg Host.Outcome.next (if_neg hdue), ?_⟩
  generalize hw : ({ s with pak := { s.pak with freeDue := s.pak.freeDue - 1, stalls := s.pak.stalls + 1 } } : State) = w
  have hdown : w.pak.freeDue + 1 = s.pak.freeDue := by
    rw [← hw]
    exact Nat.succ_pred_eq_of_ne_zero hdue
  have hfreed : w.rd R.POOL_FREE = s.rd R.POOL_FREE := by rw [← hw, State.rd_update]
  have hframe : RegFrame s w [R.POOL_FREE] := by
    rw [← hw]
    exact regFrame_update.mpr (regFrame_same s _)
  dsimp only
  rw [w.stalledLane_of_none (by rw [← hw]; exact hnone)]
  dsimp only
  rw [State.count_pak, State.rd_count_same _ _ _ (by decide), hfreed]
  exact ⟨hdown, rfl, (regFrame_count (by simp)).mpr hframe⟩

theorem poolBufferFree_stalled (s : State) (i : Nat) (l : PackLane) (hdue : s.pak.freeDue ≠ 0) (hl : s.stalledLane = some (i, l))
    (hneed : l.need = l.have_ + 1) :
    Completes (exec .poolBufferFree s) fun t => t.packLane i = some { l with have_ := l.need, stalled := none }
      ∧ t.rd R.POOL_FREE = s.rd R.POOL_FREE ∧ t.rd R.POOL_TOKEN = (i + 1) % 4 := by
  refine ⟨_, congrArg Host.Outcome.next (if_neg hdue), ?_⟩
  generalize hw : ({ s with pak := { s.pak with freeDue := s.pak.freeDue - 1, stalls := s.pak.stalls + 1 } } : State) = w
  have hfreed : w.rd R.POOL_FREE = s.rd R.POOL_FREE := by rw [← hw, State.rd_update]
  have hfirst : w.stalledLane = some (i, l) := by rw [State.stalledLane_congr (s := s) (by rw [← hw]) (by rw [← hw]), hl]
  dsimp only
  rw [hfirst]
  dsimp only
  generalize hu : w.wr R.POOL_TOKEN ((i + 1) % 4) = u
  obtain ⟨hlane, hfree, hframe⟩ := u.takePool_whole i u.pak.stalls { l with have_ := l.have_ + 1 } hneed
  refine ⟨by rw [hlane, hneed], ?_, ?_⟩
  · rw [hfree, ← hu, State.rd_wr_apart _ _ _ _ (by decide), hfreed]
  · rw [hframe _ (by decide), ← hu, State.rd_wr_same _ _ _ (by decide)]
    exact Nat.mod_eq_of_lt (Nat.mod_lt _ (by decide))

theorem unpackBlock_eq (s u : State) (b : ReadyBlock) (x : ReadUnit) (n : Namespace)
    (hu : u = s.wr R.UNPACK_TOKEN ((b.source.toNat % 8 + 1) % 8)) (hx : u.readUnit b.ns.toNat (16 * b.block.toNat) = some x)
    (hn : u.namespaceOf b.ns.toNat = some n) (hzoned : n.zoned = false) (hbase : u.baseSectors n x.ns x.lba ≠ 0)
    (hlack : State.lacking x 0 (u.baseSectors n x.ns x.lba) = []) (hbad : x.bad = false) :
    exec (.unpackBlock [b]) s = .next (match unpack false (State.stagedBytes x (u.baseSectors n x.ns x.lba)) (u.baseSectors n x.ns x.lba) with
      | some d => u.deliverBlocks x (some d)
      | none => u.decodeError x) := by
  have hsx : (s.readUnit b.ns.toNat (16 * b.block.toNat)).isSome = true := by
    rw [State.readUnit, ← State.wr_pak, ← hu, ← State.readUnit, hx]
    rfl
  refine congrArg Host.Outcome.next ?_
  have hfilter : ([b].filter fun b => (s.readUnit b.ns.toNat (16 * b.block.toNat)).isSome) = [b] := List.filter_cons_of_pos hsx
  unfold State.unpackBlocks
  simp only [hfilter, inTurn_single _ _ (by decide : 0 < 8), ← hu, List.foldl_cons, List.foldl_nil, hx, hn]
  unfold State.unpackUnit
  dsimp only
  rw [hlack, hbad, hzoned, if_neg (by simpa using hbase), if_neg Bool.false_ne_true, if_neg Bool.false_ne_true, if_neg (by decide)]
  generalize u.baseSectors n x.ns x.lba = k
  have hnomore : State.lacking x k (k + 0) = [] := by
    rw [State.lacking, Nat.add_zero, Nat.sub_self]
    rfl
  rw [hnomore, if_pos List.isEmpty_nil]
  rfl

theorem State.selectedZone_wr (s : State) {f : Fld} {v : Nat} (hns : f.apart R.ZSEL_NS = true) (hzone : f.apart R.ZSEL_ZONE = true) :
    (s.wr f v).selectedZone = s.selectedZone := by
  unfold selectedZone namespaceOf
  rw [rd_wr_apart _ _ _ _ hns, rd_wr_apart _ _ _ _ hzone, wr_nv]

theorem State.selectedZone_granting (s : State) : s.granting.selectedZone = s.selectedZone := s.selectedZone_wr (by decide) (by decide)

theorem State.journal_keeps (s : State) : RegFrame s s.journal [R.JRNL_TAIL_256K, R.JRNL_FULL_STALL]
    ∧ ∀ k, s.journal.zone k = s.zone k := by
  unfold journal
  dsimp only
  refine ⟨(Machine.regFrame_wr (by simp)).mpr ((Machine.regFrame_wr (by simp)).mpr (regFrame_update.mpr (regFrame_same s _))),
    fun k => ?_⟩
  rw [zone, wr_media, wr_media]
  rfl

theorem zrWrite_completes (s : State) (r : BitVec 2) (ns zi : Nat) (hreach : s.reachable R.ZR_WRITE.addr = true)
    (hsel : s.selectedZone = some (ns, zi)) (hempty : (s.zone (State.zoneKey ns zi)).cond = .empty) (hr : r ≠ 3) :
    Completes (exec (.zrWrite r false) s) fun t =>
      t.zoneRatio ns zi = r.toNat ∧ t.rd R.ZR_RATIO = r.toNat ∧ t.rd R.ZR_DONE = 1
        ∧ RegFrame s t [R.REG_TOKEN, R.ZR_RATIO, R.ZR_DONE, R.JRNL_TAIL_256K, R.JRNL_FULL_STALL] := by
  have hnot3 : r.toNat ≠ 3 := fun h => hr (BitVec.eq_of_toNat_eq h)
  have hframe : RegFrame s s.granting [R.REG_TOKEN, R.ZR_RATIO, R.ZR_DONE, R.JRNL_TAIL_256K, R.JRNL_FULL_STALL] :=
    (regFrame_wr (by simp)).mpr (regFrame_same s _)
  have hzsel : s.granting.selectedZone = some (ns, zi) := by rw [s.selectedZone_granting, hsel]
  refine .granted hreach fun u hu => ?_
  rw [← hu] at hframe hzsel
  have hmedia : u.media = s.media := by rw [hu, State.wr_media]
  have hsel' : (u.wr R.ZR_RATIO r.toNat).selectedZone = some (ns, zi) := by rw [u.selectedZone_wr (by decide) (by decide), hzsel]
  have hempty' : ((u.wr R.ZR_RATIO r.toNat).zone (State.zoneKey ns zi)).cond = .empty := by
    rw [State.zone, State.wr_media, hmedia]
    exact hempty
  have hratio : (u.wr R.ZR_RATIO r.toNat).rd R.ZR_RATIO = r.toNat := by
    rw [State.rd_wr_same _ _ _ (by decide)]
    exact Nat.mod_eq_of_lt r.isLt
  replace hframe : RegFrame s (u.wr R.ZR_RATIO r.toNat) [R.REG_TOKEN, R.ZR_RATIO, R.ZR_DONE, R.JRNL_TAIL_256K, R.JRNL_FULL_STALL] :=
    (regFrame_wr (by simp)).mpr hframe
  unfold State.zrWrite
  generalize u.wr R.ZR_RATIO r.toNat = v at *
  dsimp only
  rw [hsel']
  dsimp only
  rw [if_neg (by rw [hempty']; simp [hnot3])]
  obtain ⟨w, hw, hzr, hwframe⟩ : ∃ w, w = v.modZone (State.zoneKey ns zi) (fun z => { z with ratio := some r.toNat })
      ∧ (w.zone (State.zoneKey ns zi)).ratio = some r.toNat ∧ RegFrame v w [] := by
    refine ⟨_, rfl, ?_, regFrame_update.mpr (regFrame_same v _)⟩
    simp only [State.zone, State.modZone, Store.modify, Store.get_put_same]
  obtain ⟨hjframe, hjzone⟩ := w.journal_keeps
  rw [← hw]
  generalize w.journal = j at *
  refine ⟨?_, ?_, (State.rd_wr_same _ _ _ (by decide)).trans rfl,
    (regFrame_wr (by simp)).mpr (hframe.trans ((hwframe.mono (by simp)).trans (hjframe.mono (by simp))))⟩
  · rw [State.zoneRatio, State.zone, State.wr_media, ← State.zone, hjzone, hzr]
    rfl
  · rw [State.rd_wr_apart _ _ _ _ (by decide), hjframe _ (by decide), hwframe _ (by decide), hratio]

theorem zrRead_completes (s : State) (ns zi : Nat) (hreach : s.reachable R.ZR_READ.addr = true)
    (hsel : s.selectedZone = some (ns, zi)) :
    Completes (exec .zrRead s) fun t => t.rd R.ZR_RATIO = s.zoneRatio ns zi % 4 ∧ t.rd R.ZR_DONE = 1 ∧ RegsOnly s t
      ∧ RegFrame s t [R.REG_TOKEN, R.ZR_RATIO, R.ZR_DONE] := by
  have hframe : RegFrame s s.granting [R.REG_TOKEN, R.ZR_RATIO, R.ZR_DONE] := (regFrame_wr (by simp)).mpr (regFrame_same s _)
  have hregs : RegsOnly s s.granting := (RegsOnly.refl s).wr _ _
  have hzsel : s.granting.selectedZone = some (ns, zi) := by rw [s.selectedZone_granting, hsel]
  refine .granted hreach fun u hu => ?_
  rw [← hu] at hframe hregs hzsel
  have hratio : u.zoneRatio ns zi = s.zoneRatio ns zi := by
    rw [State.zoneRatio, State.zone, State.namespaceOf, hu, State.wr_media, State.wr_nv]
    rfl
  rw [hzsel]
  dsimp only
  refine ⟨?_, (State.rd_wr_same _ _ _ (by decide)).trans rfl, (hregs.wr _ _).wr _ _,
    (regFrame_wr (by simp)).mpr ((regFrame_wr (by simp)).mpr hframe)⟩
  rw [State.rd_wr_apart _ _ _ _ (by decide), State.rd_wr_same _ _ _ (by decide), hratio]
  rfl

theorem pakCntClr_completes (s : State) (hreach : s.reachable R.PAK_CNT_CLR.addr = true) : Completes (exec .pakCntClr s) fun t =>
    t.rd R.PACKED_CNT = 0 ∧ t.rd R.RAW_CNT = 0 ∧ t.rd R.SECT_OUT_CNT = 0 ∧ t.rd R.SPILL_CNT = 0 ∧ t.rd R.EXTERN_CNT = 0
      ∧ t.rd R.DECOMP_ERR_CNT = 0 ∧ t.rd R.POOL_STALL_CNT = 0 ∧ RegsOnly s t := by
  refine .access hreach ?_
  have hclear := s.granting.rd_clearAll (l := [R.PACKED_CNT, R.RAW_CNT, R.SECT_OUT_CNT, R.SPILL_CNT, R.EXTERN_CNT,
    R.DECOMP_ERR_CNT, R.POOL_STALL_CNT]) (by decide) (by decide)
  exact ⟨hclear _ (by decide), hclear _ (by decide), hclear _ (by decide), hclear _ (by decide), hclear _ (by decide),
    hclear _ (by decide), hclear _ (by decide), ((RegsOnly.refl s).wr _ _).clearAll _⟩

end Sys2Proof.Machine

open Sys2Proof Sys2Proof.Machine in
/-- Settles O38: blocks in and out of the lanes by the lanes, the pool and the stored units, ratios by their zone and fields. -/
theorem packCommandsComplete : Obligations.PackCommandsComplete := by
  unfold Obligations.PackCommandsComplete
  exact ⟨packBlockCompress_completes, packBlockDone_completes, poolBufferFree_idle, poolBufferFree_stalled, unpackBlock_eq,
    zrWrite_completes, zrRead_completes, pakCntClr_completes⟩
end

section
/-!
Damot requests over the dictionary, and the host commands that carry them (O45).
-/
namespace Sys2Proof.Machine

open Sys2Proof.Arith

theorem damotGet_eq (s u : State) (q : DamotReq) (r : ObjRow) (n v : Nat) (hop : q.op = 0x01) (hsound : s.sound q) (hu : u = s.received q)
    (hr : findObject q.index.toNat q.sub.toNat = some r) (hserved : u.servedNow q.index.toNat q.sub.toNat = true) (hacc : r.access ≠ 4)
    (hfixed : (typeBytes r.type).isSome = true) (hvalue : u.objectValue r (q.index.toNat - r.idxLo) (q.sub.toNat - r.subLo) = (n, v)) :
    exec (.damotGet q) s = .next (u.replyObject q r n 0 n v) := by
  change Host.Outcome.next (s.checked { q with op := 0x01 } State.damotGet) = _
  rw [damotReq_op q hop, s.checked_of_sound _ hsound, ← hu, State.damotGet, hr]
  dsimp only
  rw [hvalue, hserved, if_neg (by decide), if_neg hacc, if_pos hfixed]

theorem damotSet_staged (s : State) (q : DamotReq) (hop : q.op = 0x02) (hsound : s.sound q) (hmore : moreOf q = true)
    (hnone : Store.get none s.mgt.stage q.pos.val = none) (hroom : q.offset.toNat + q.len.toNat ≤ State.stageLimit) :
    ∃ u : State, exec (.damotSet q) s = .next (u.reply q 0)
      ∧ (∃ x, Store.get none u.mgt.stage q.pos.val = some x ∧ x.addr = q.addr.toNat ∧ x.object = q.index.toNat * 256 + q.sub.toNat
        ∧ x.len = q.offset.toNat + q.len.toNat) := by
  have hfresh : (s.received q).stagedValue q = none := by
    obtain ⟨r, m, hreceived⟩ := s.received_eq q
    rw [State.stagedValue, hreceived]
    dsimp only
    rw [hnone]
  change ∃ u : State, Host.Outcome.next (s.checked { q with op := 0x02 } State.damotSet) = _ ∧ _
  rw [damotReq_op q hop, s.checked_of_sound _ hsound, State.damotSet, if_pos hmore]
  unfold State.stageMore
  rw [hfresh]
  dsimp only
  rw [if_neg (Nat.not_lt.mpr hroom)]
  refine ⟨_, rfl, ?_⟩
  simp only [Store.get_put_same]
  exact ⟨_, rfl, rfl, rfl, Nat.max_eq_right (Nat.zero_le _)⟩

theorem damotDescribe_eq (s : State) (q : DamotReq) (hop : q.op = 0x04) (hsound : s.sound q) :
    exec (.damotDescribe q) s = .next ((s.received q).damotDescribe q) := by
  change Host.Outcome.next (s.checked { q with op := 0x04 } State.damotDescribe) = _
  rw [damotReq_op q hop, s.checked_of_sound _ hsound]

theorem received_frame (s : State) (q : DamotReq) : RegFrame s (s.received q) [R.DM_REQ_CNT, R.LEASE_LEFT] := fun g hg =>
  s.rd_received q (hg _ (by simp)) (hg _ (by simp))

theorem damotNonce_reply (u : State) (q : DamotReq) : ∃ (v : State) (n : Nat), u.damotNonce q = v.reply q 0 16 n ∧ n < 2 ^ 128
    ∧ Store.get none v.mgt.nonces q.pos.val = some n ∧ RegFrame u v [] := by
  unfold State.damotNonce
  refine ⟨_, _, rfl, Nat.mod_lt _ (by decide), ?_, regFrame_update.mpr (regFrame_free.mpr (regFrame_same u _))⟩
  simp only [Store.get_put_same]

theorem damotNonce_eq (s : State) (q : DamotReq) (hop : q.op = 0x20) (hsound : s.sound q) :
    ∃ (u : State) (n : Nat), exec (.damotNonce q) s = .next (u.reply q 0 16 n)
      ∧ n < 2 ^ 128 ∧ Store.get none u.mgt.nonces q.pos.val = some n ∧ RegFrame s u [R.DM_REQ_CNT, R.LEASE_LEFT] := by
  change ∃ (u : State) (n : Nat), Host.Outcome.next (s.checked { q with op := 0x20 } State.damotNonce) = _ ∧ _
  rw [damotReq_op q hop, s.checked_of_sound _ hsound]
  obtain ⟨v, n, hreply, hlt, hnonce, hframe⟩ := damotNonce_reply (s.received q) q
  exact ⟨v, n, congrArg Host.Outcome.next hreply, hlt, hnonce, (received_frame s q).trans (hframe.mono (by simp))⟩

theorem damotBadOp_eq (s : State) (q : DamotReq) (hhears : s.hears q = true) (hbad : badHeader q = true) :
    exec (.damotBadOp q) s = .next ((s.received q).reply q 0xA) := by
  refine congrArg Host.Outcome.next ((if_pos hbad).trans ?_)
  rw [State.checked, hhears, if_neg (by decide)]
  exact if_pos hbad

/-! ### Requests that a host command carries (R629) -/

theorem onDamot_of_live {s : State} {g : BitVec 13} {op : Nat} {c : Cmd} (h : s.live g (isAdmin op) c) (hlen : 4 * c.req.cdw10 ≤ 8208)
    (f : Cmd → State) : s.onDamot g.toNat op f = f c := by
  obtain ⟨hcmd, hdone, hadmin⟩ := h
  obtain ⟨hport, hqueue, hop⟩ := of_decide_eq_true hadmin
  have hlength : State.damotLength c = 4 * c.req.cdw10 := if_pos hport
  refine (State.onCmd_of_live ⟨hcmd, hdone, by rw [hop, hqueue]; simp⟩ _).trans (if_neg ?_)
  rw [hlength]
  omega

theorem hostEndpoint_of_pcie (s : State) {c : Cmd} (hport : c.port < 4) : s.hostEndpoint c = (5 + c.port, 0) := if_pos hport

theorem damotSend_eq (s : State) (g : BitVec 13) (c : Cmd) (q : DamotReq) (hlive : s.live g (isAdmin 0xC1) c) (hwhole : 4 ≤ c.req.cdw10)
    (hlen : 4 * c.req.cdw10 ≤ 8208) : exec (.damotSend g q) s = .next ((s.finish c.tag doneOk).damot
      { q with pos := Fin.ofNat 11 (5 + c.port), addr := 0, bytes := 4 * c.req.cdw10 - 16 }) := by
  obtain ⟨hport, -, -⟩ := of_decide_eq_true hlive.2.2
  refine congrArg Host.Outcome.next ((onDamot_of_live hlive hlen _).trans ?_)
  unfold State.damotSend
  rw [hostEndpoint_of_pcie s hport, show State.damotLength c = 4 * c.req.cdw10 from if_pos hport]
  dsimp only
  rw [if_neg (by omega)]
  rfl

theorem damotReceive_held (s : State) (g : BitVec 13) (c : Cmd) (r : DamotResp) (hlive : s.live g (isAdmin 0xC2) c)
    (hlen : 4 * c.req.cdw10 ≤ 8208) (hheld : s.mgt.held = [(5 + c.port, 0, r)]) :
    Completes (exec (.damotReceive g) s) fun t => t.endedAs g.toNat doneOk ∧ t.mgt.held = []
      ∧ t.out = .damot (5 + c.port) 0 r :: s.out ∧ t.regs = s.regs := by
  obtain ⟨hport, -, -⟩ := of_decide_eq_true hlive.2.2
  refine ⟨_, congrArg Host.Outcome.next (onDamot_of_live hlive hlen _), ?_⟩
  unfold State.damotReceive
  rw [hostEndpoint_of_pcie s hport]
  dsimp only
  rw [hheld, List.find?_cons_of_pos (by simp)]
  dsimp only
  have hends : ((s.emit (.damot (5 + c.port) 0 r)).finish c.tag doneOk).endedAs g.toNat doneOk :=
    finish_completes (s := s.emit (.damot (5 + c.port) 0 r)) hlive _
  have hleft : ((s.emit (.damot (5 + c.port) 0 r)).finish c.tag doneOk).mgt.held = [(5 + c.port, 0, r)] := hheld
  refine ⟨hends, ?_, rfl, rfl⟩
  rw [hleft, List.filter_cons_of_neg (by simp), List.filter_nil]

end Sys2Proof.Machine

open Sys2Proof Sys2Proof.Machine in
/-- Settles O45: a sound request is received and answered as its operation says, from MCTP and from a host's Send and Receive. -/
theorem damotRequestsComplete : Obligations.DamotRequestsComplete := by
  unfold Obligations.DamotRequestsComplete
  exact ⟨damotGet_eq, damotSet_staged, damotDescribe_eq, damotNonce_eq, damotBadOp_eq, fun _ _ => rfl, damotSend_eq, damotReceive_held⟩
end

section
/-!
The identity's keys, MCTP control and the I3C target's address (O49).
-/
namespace Sys2Proof.Machine

open Sys2Proof.Arith

/-! ### The keys -/

namespace State

/-- With no request waiting for a key there is nothing to serve. -/
theorem serveSigning_of_none (s : State) (h : s.mgt.signWait = []) : s.serveSigning = s := by
  unfold serveSigning
  dsimp only
  rw [h, List.filter_nil, List.filter_nil, List.foldl_nil, ← h]

theorem devidReady_shows (s : State) : s.devidReady.flag R.DEVID_READY = true
    ∧ (∀ k < 8, s.devidReady.rd (R.DEVID_HASH_W k) = field (Config.shake256 256 1793 (Config.falconPublic s.devidSeed)) (32 * k) 32)
    ∧ RegsOnly s s.devidReady := by
  have hapart : ∀ k < 8, R.DEVID_READY.apart (R.DEVID_HASH_W k) = true := by decide
  unfold devidReady
  generalize Config.shake256 256 1793 (Config.falconPublic s.devidSeed) = hash
  refine ⟨?_, fun k hk => ?_, (RegsOnly.foldl (RegsOnly.refl s) (fun u k => regsOnly_wr u _ _) _).wr _ _⟩
  · dsimp only
    rw [flag, rd_wr_same _ _ _ (by decide)]
    rfl
  · dsimp only
    rw [rd_wr_apart _ _ _ _ (hapart k hk), rd_foldl_wr s R.DEVID_HASH_W (fun k => field hash (32 * k) 32) (by decide) (by decide)
      (List.mem_range.mpr hk)]
    exact Nat.mod_eq_of_lt (Nat.mod_lt _ (by decide))

end State

theorem devidKeyReady_completes (s : State) (hruns : s.firmwareRuns = true) (hwait : s.mgt.signWait = []) :
    Completes (exec .devidKeyReady s) fun t => t.flag R.DEVID_READY = true
      ∧ (∀ k < 8, t.rd (R.DEVID_HASH_W k) = Arith.field (Config.shake256 256 1793 (Config.falconPublic s.devidSeed)) (32 * k) 32)
      ∧ RegsOnly s t := by
  refine ⟨_, congrArg Host.Outcome.next (if_pos hruns), ?_⟩
  obtain ⟨hflag, hhash, hregs⟩ := s.devidReady_shows
  rw [s.devidReady.serveSigning_of_none (by rw [hregs]; exact hwait)]
  exact ⟨hflag, hhash, hregs⟩

theorem aliasKeyReady_completes (s : State) (hdevid : s.flag R.DEVID_READY = true) (hwait : s.mgt.signWait = []) :
    Completes (exec .aliasKeyReady s) fun t => t.flag R.ALIAS_READY = true ∧ RegsOnly s t ∧ RegFrame s t [R.ALIAS_READY] := by
  refine ⟨_, congrArg Host.Outcome.next (if_pos hdevid), ?_⟩
  rw [State.serveSigning_of_none _ (by rw [State.wr_mgt, hwait])]
  exact ⟨State.flag_wrFlag_same s R.ALIAS_READY true (by decide), (RegsOnly.refl s).wr _ _, (regFrame_wr (by simp)).mpr (regFrame_same s _)⟩

/-! ### MCTP control (R627) -/

theorem mctp_of_up {s : State} {p : Nat} (h : s.mctpUp p = true) (f : State → State) : s.mctp p f = f s := if_pos h

theorem setEndpointId_completes (s : State) (p : Fin 5) (e : BitVec 8) (hup : s.mctpUp p.val = true) (hzero : e ≠ 0) (hfull : e ≠ 0xFF) :
    Completes (exec (.setEndpointId p e) s) fun t =>
      t.eid p.val = e.toNat ∧ t.out = .mctp p.val 0 [("EID", e.toNat)] :: s.out ∧ t.regs = s.regs
        ∧ ∀ j, j ≠ p.val → t.eid j = s.eid j := by
  have hassignable : ¬(e.toNat = 0 ∨ e.toNat = 0xFF) := by
    rintro (h | h)
    · exact hzero (BitVec.eq_of_toNat_eq h)
    · exact hfull (BitVec.eq_of_toNat_eq h)
  refine ⟨_, congrArg Host.Outcome.next ((mctp_of_up hup _).trans (if_neg hassignable)), ?_, rfl, rfl, fun j hj => ?_⟩
  · exact Store.get_put_same 0 s.mgt.eids p.val e.toNat
  · exact Store.get_put_other 0 s.mgt.eids e.toNat hj

theorem getEndpointId_eq (s : State) (p : Fin 5) (hup : s.mctpUp p.val = true) :
    exec (.getEndpointId p) s = .next (s.emit (.mctp p.val 0 [("EID", s.eid p.val)])) :=
  congrArg Host.Outcome.next (mctp_of_up hup _)

theorem getMctpVersionSupport_completes (s : State) (p : Fin 5) (y : BitVec 8) (hup : s.mctpUp p.val = true)
    (hy : y.toNat ∈ [0x00, 0x05, 0x7E, 0xFF]) : Completes (exec (.getMctpVersionSupport p y) s) fun t =>
      ∃ v, t = { s with freeCount := s.freeCount + 1, out := .mctp p.val 0 [("VERSIONS", v)] :: s.out } :=
  ⟨_, congrArg Host.Outcome.next ((mctp_of_up hup _).trans (if_pos (List.contains_iff_mem.mpr hy))), _, rfl⟩

theorem getMessageTypeSupport_eq (s : State) (p : Fin 5) (hup : s.mctpUp p.val = true) : exec (.getMessageTypeSupport p) s =
    .next (s.emit (.mctp p.val 0 [("TYPE", 0x00), ("TYPE", 0x05), ("TYPE", 0x7E)])) :=
  congrArg Host.Outcome.next (mctp_of_up hup _)

theorem getVendorDefinedMsgSupport_eq (s : State) (p : Fin 5) (hup : s.mctpUp p.val = true) :
    exec (.getVendorDefinedMsgSupport p 0) s =
      .next (s.emit (.mctp p.val 0 [("NEXT", 0xFF), ("PCI_VENDOR", Config.pciVendorId % 65536)])) :=
  congrArg Host.Outcome.next ((mctp_of_up hup _).trans (if_pos rfl))

/-! ### The I3C target (R628, R636) -/

theorem takeDynamic_of_free (s : State) (a : Nat) (hcore : s.dom.core = true) (hen : s.flag R.I3C_EN = true) (hfree : s.rd R.I3C_DYN = 0) :
    s.takeDynamic a = s.wr R.I3C_DYN a := if_pos (by rw [hcore, hen, hfree]; rfl)

theorem rd_dynamic (s : State) (a : BitVec 7) : (s.wr R.I3C_DYN a.toNat).rd R.I3C_DYN = a.toNat := by
  rw [State.rd_wr_same _ _ _ (by decide)]
  exact Nat.mod_eq_of_lt a.isLt

theorem entdaa_completes (s : State) (a : BitVec 7) (hcore : s.dom.core = true) (hen : s.flag R.I3C_EN = true) (hfree : s.rd R.I3C_DYN = 0) :
    Completes (exec (.entdaa a) s) fun t =>
      t.rd R.I3C_DYN = a.toNat ∧ t.out = .provisionalId (crc32c 16 s.fuses.serial) :: s.out ∧ RegFrame s t [R.I3C_DYN] := by
  refine ⟨_, congrArg Host.Outcome.next ((if_pos (by rw [hcore, hen, hfree]; rfl)).trans
    (takeDynamic_of_free (s.emit _) a.toNat hcore hen hfree)), rd_dynamic _ a, ?_, ?_⟩
  · rw [State.wr_out]
    rfl
  · exact (regFrame_wr (by simp)).mpr (regFrame_emit.mpr (regFrame_same s _))

theorem setdasa_completes (s : State) (a b : BitVec 7) (hcore : s.dom.core = true) (hen : s.flag R.I3C_EN = true)
    (hfree : s.rd R.I3C_DYN = 0) (ha : a.toNat = s.rd R.I3C_STATIC) : Completes (exec (.setdasa a b) s) fun t =>
      t.rd R.I3C_DYN = b.toNat ∧ RegsOnly s t ∧ RegFrame s t [R.I3C_DYN] :=
  ⟨_, congrArg Host.Outcome.next ((if_pos ha).trans (takeDynamic_of_free s b.toNat hcore hen hfree)), rd_dynamic s b,
    (RegsOnly.refl s).wr _ _, (regFrame_wr (by simp)).mpr (regFrame_same s _)⟩

theorem discardStage_rd (s : State) (p : Nat) (g : Fld) : (s.discardStage p).rd g = s.rd g := by rw [State.discardStage, State.rd_update]

theorem unown_mgt (s : State) : s.unown.mgt = s.mgt := by rw [s.regsOnly_unown]

theorem i3cDynamicAddressLoss_completes (s : State) : Completes (exec .i3cDynamicAddressLoss s) fun t =>
    t.rd R.I3C_DYN = 0 ∧ Store.get none t.mgt.stage 4 = none ∧ (s.rd R.OWN_POS = 4 → t.rd R.OWN_STATE = 0) := by
  obtain ⟨hframe, -⟩ := (s.wr R.I3C_DYN 0).transportLost_shows [4]
  have hdyn : (s.wr R.I3C_DYN 0).rd R.I3C_DYN = 0 := State.rd_wr_same _ _ _ (by decide)
  have hpos : (s.wr R.I3C_DYN 0).rd R.OWN_POS = s.rd R.OWN_POS := State.rd_wr_apart _ _ _ _ (by decide)
  refine .next ?_
  generalize s.wr R.I3C_DYN 0 = u at hframe hdyn hpos
  refine ⟨(hframe _ (by decide)).trans hdyn, ?_⟩
  have hdropped : Store.get none (u.discardStage 4).mgt.stage 4 = none := Store.get_put_same none u.mgt.stage 4 none
  have hrd := discardStage_rd u 4
  rw [State.transportLost, List.foldl_cons, List.foldl_nil]
  generalize u.discardStage 4 = w at *
  by_cases hown : w.rd R.OWN_STATE ≠ 0 ∧ [4].contains (w.rd R.OWN_POS) = true
  · rw [if_pos hown, unown_mgt]
    exact ⟨hdropped, fun _ => (w.rd_unown hown.1).1⟩
  · rw [if_neg hown]
    refine ⟨hdropped, fun hfour => by_contra fun hne => hown ⟨hne, ?_⟩⟩
    rw [hrd, hpos, hfour]
    rfl

end Sys2Proof.Machine

open Sys2Proof Sys2Proof.Machine in
/-- Settles O49: keys by their registers, MCTP control by its answers, the I3C address by its register and its endpoint's stage. -/
theorem endpointCommandsComplete : Obligations.EndpointCommandsComplete := by
  unfold Obligations.EndpointCommandsComplete
  exact ⟨devidKeyReady_completes, aliasKeyReady_completes, setEndpointId_completes, getEndpointId_eq, getMctpVersionSupport_completes,
    getMessageTypeSupport_eq, getVendorDefinedMsgSupport_eq, entdaa_completes, setdasa_completes, i3cDynamicAddressLoss_completes⟩
end
